-- ==== Sys2Proof/Word.lean ====
section
/-!
DEFINITION. Machine words: a byte, a 32-bit register word, and the bit-field names shared by the whole model.
-/
namespace Sys2Proof

/-- One byte of addressed memory. -/
abbrev Byte := BitVec 8

/-- One register: every register is 32 bits wide (R16). -/
abbrev Word := BitVec 32

end Sys2Proof
end

