-- ==== Sys2Proof/Syntax.lean ====
section
/-!
DEFINITION. The commands of the block: one constructor per row of spec/opcode_table.json.
Operands name the unit the event concerns and whatever comes from outside the block with it
(pins, frames, measured values, the outcome of a physical process).
-/
namespace Sys2Proof

/-- Tile, bay and plane numbers (R39, R40). -/
abbrev Tile := Fin 8
abbrev Bay := Fin 64
abbrev Plane := Fin 4

/-- A power domain that is switched (R44). -/
inductive Dom where
  | tile (n : Tile)
  | cr (n : Tile)
  | ddr (p : Fin 6)
  | edge (n : Tile)
  | host
  | hub
  | rnd
  | bay (n : Tile) (b : Bay)
  | sp (b : Fin 16)
  deriving DecidableEq, Repr

/-- A row of the wake table under check: a W row 1–6, or the row of a domain (R459). -/
inductive WakeRow where
  | w (row : Fin 7)
  | dom (d : Dom)
  deriving DecidableEq, Repr

/-- A UDP checksum as received: correct, wrong, or the zero that IPv4 allows (R377). -/
inductive UdpSum where
  | good
  | bad
  | zero
  deriving DecidableEq, Repr

/-- A frame with an IP packet as it reaches a logical port (R370, R372, R377). -/
structure HostFrame where
  /-- logical port 0–8 (R369) -/
  port : Fin 9
  /-- the Ethernet FCS passes -/
  fcs : Bool
  /-- bytes from the destination address to the FCS, tag included -/
  len : Nat
  dst : BitVec 48
  src : BitVec 48
  /-- VID of an IEEE 802.1Q tag -/
  vid : Option (BitVec 12)
  v6 : Bool
  /-- IP addresses; an IPv4 address in the low 32 bits -/
  srcIp : BitVec 128
  dstIp : BitVec 128
  /-- the IP header is valid -/
  ipOk : Bool
  /-- a fragment (R372) -/
  frag : Bool
  /-- source and destination port, when it carries UDP -/
  udp : Option (BitVec 16 × BitVec 16)
  sum : UdpSum
  payload : List Byte
  deriving DecidableEq, Repr

/-- An Ethernet frame as MP's receive watcher sees it: its 802.1Q tags counted, `etherType` and `payload` after them (R472, R473). -/
structure EthFrame where
  fcs : Bool
  tags : Nat
  dst : BitVec 48
  etherType : BitVec 16
  payload : List Byte
  deriving DecidableEq, Repr

/-- An erroneous symbol of a DRAM burst as it is read: its codeword, 0 on HBM, and its lane or device (R297, R298). -/
structure BadSym where
  word : Fin 8
  sym : Fin 64
  deriving DecidableEq, Repr

/-- What a lane's decoder finds in one codeword: its ten blocks, first block first, with how many symbols it corrected; or that it
cannot be corrected (R425, R433). -/
inductive Codeword where
  | clean (blocks : List (BitVec 258))
  | corrected (symbols : Fin 8) (blocks : List (BitVec 258))
  | uncorrectable
  deriving DecidableEq, Repr

/-- Why a data lane fails (R437). -/
inductive LaneFault where
  | lock | signal | codewords | replay
  deriving DecidableEq, Repr

/-- The commands. -/
inductive Instr where
  -- resets and the epoch (R30–R33, R48, R522)
  | coldReset
  | aonSupplyFail
  | warmModuleReset
  | debugReset
  | epochStrobe
  -- Tally (chapter 11)
  | tallyReport (stop : Fin 18)
  | tallyAudit (badA badB badNodes : List Nat)
  | leafRebuild (slot : Fin 12288)
  | stampBatch (stop dest : Fin 18) (grant : Bool) (count : Fin 65)
  | stampIdleReturn (stop dest : Fin 18)
  -- power domains (chapters 01, 11, 12, 16)
  | domainPowerDown (d : Dom)
  | domainIsolation (d : Dom)
  | domainWakeRequest (d : Dom)
  | bayIdlePowerDown (n : Tile) (b : Bay)
  | tileIdlePowerDown (n : Tile)
  | heldFabricAccess (index : Nat)
  -- micro-clock, delay monitors, release (chapter 02)
  | mcTargetWrite (n : Tile) (target : Byte)
  | microClockSwitch (n : Tile)
  | relockTimeout (n : Tile)
  | delayMonitorSample (n : Tile) (b : Bay) (q : Fin 4) (margin : Byte)
  | relOpFirstStart (n : Tile) (b : Bay) (p : Plane)
  | relOpResume (n : Tile) (b : Bay) (p : Plane)
  | relOpHold (n : Tile) (b : Bay) (p : Plane)
  | dccWrite (n : Tile) (b : Bay) (p : Plane) (value : BitVec 64)
  | releaseStageAdvance (n : Tile) (b : Bay) (p : Plane)
  | holdLiftStage (n : Tile)
  -- rotation and exchange (chapter 03)
  | planeStepEnd (n : Tile) (b : Bay)
  | tickEdge (n : Tile) (b : Bay)
  | exchangeBundleArrival (index : Nat)
  | designCycleBegin (n : Tile) (b : Bay) (waited : BitVec 16) (ioWait : BitVec 2) (mmpWait : Byte)
  | exchangeStall (n : Tile) (b : Bay)
  | dclkoFall (k : Fin 12)
  | designInputSample (k : Fin 12) (pins : BitVec 48)
  | burstTransfer (k : Fin 12)
  -- memory-model ports (chapter 04)
  | mmpFillComplete (n : Tile) (k : Fin 8)
  | mmpWritebackComplete (n : Tile) (k : Fin 8)
  | mmpFlush (n : Tile) (k : Fin 8)
  | mmpFlushComplete (n : Tile) (k : Fin 8)
  -- images, keys, scrubbing (chapter 05)
  | imageBytesArrive (load : Fin 4) (count : Nat)
  | chunkDecrypted (load : Fin 4)
  | pageLoaderWriteAck (load : Fin 4) (count : Nat)
  | signatureVerifyComplete (load : Fin 4)
  | loadCommit (load : Fin 4)
  | loadIntakeTimeout (load : Fin 4)
  | fkUnlock (mid : Byte) (key : Word)
  | unlockTimeout
  | fuseKeyProg (mid : Byte)
  | fuseProgComplete
  | forbidBkey (mid : Byte)
  | bkeyCommit (mid : Byte)
  | bkeyErase (mid : Byte)
  | imgSlotProg (mid : Byte)
  | imgSlotRevoke (mid : Byte)
  | fwSlotProg (mid : Byte)
  | fwSlotRevoke (mid : Byte)
  | vbatLoss
  | frameWrite (n : Tile) (frame : Fin 786432) (mid : Byte) (offset : Fin 512) (bytes : List Byte)
  | scrubFrameRead (n : Tile) (sb : Bool) (upsets : List Nat)
  | scrubCorrection (n : Tile) (sb : Bool)
  | frameRestore (n : Tile) (sb : Bool) (ok : Bool)
  | sweepBoundExceeded (n : Tile) (sb : Bool)
  | voterRepair (n : Tile) (upsets : List (Fin 22 × Fin 3 × Fin 32))
  | scrubRestore (n : Tile)
  -- the Sorting Office (chapter 06)
  | pmInval
  | psLimitWrite (word : Word)
  | compactionMoveComplete (stack : Tile)
  | pendingOpStart (run : Fin 4096)
  | resumeTransferComplete (run : Fin 4096) (bp : Fin 2048)
  | runReleaseComplete (run : Fin 4096)
  | runStopCycle (run : Fin 4096)
  | saveComplete (run : Fin 4096) (bp : Fin 2048) (ok : Bool)
  | swapFramesWritten (run : Fin 4096)
  -- snapshots and triggers (chapter 07)
  | snapshotCycle (entry : Fin 1024)
  | snapshotPauseEnd (entry : Fin 1024) (pauseNs : Word)
  | snapshotComplete (entry : Fin 1024) (ok : Bool)
  | ringSnapshotDue (ring : Fin 64)
  | triggerProbe (n : Tile) (slot : Fin 16)
  | triggerWithinExpiry (unit : Fin 64)
  | triggerEnable (unit : Fin 64)
  -- debug port and core control (chapter 08)
  | tapExtest
  | tapSamplePreload
  | tapIdcode
  | tapBypass (code : Fin 32)
  | dbgaccPoll
  | dbgaccRead (addr : BitVec 48) (consume : Bool)
  | dbgaccWrite (addr : BitVec 48) (data : Word)
  | debugAccessComplete
  | dbgModeReq (word : Word)
  | coreHalt (c : Fin 4)
  | coreResume (c : Fin 4)
  | coreStep (c : Fin 4)
  | coreHaltTakesEffect (c : Fin 4)
  | coreRegdataAccess (c : Fin 4) (write : Bool) (hi : Bool) (value : Word)
  | comparatorMatch (c : Fin 4) (k : Fin 8) (kind : Fin 3) (addr : BitVec 48) (len : Fin 65) (pc : BitVec 64) (ctxid : BitVec 16)
  | reservationExpiry (c : Fin 4)
  | watchdogExpiry (c : Fin 4)
  | watchdogKick (c : Fin 4)
  | lbTxWrite (c : Fin 4) (word : Word)
  | lbTxConsumeRead (c : Fin 4)
  | lbRxWrite (c : Fin 4) (word : Word)
  | lbRxConsumeRead (c : Fin 4)
  | marginMinRead (n : Tile) (b : Bay) (q : Fin 4)
  | vtData (c : Fin 4) (toCore : Bool) (count : Fin 4) (bytes : BitVec 24)
  | vtOpen (c : Fin 4) (toCore : Bool)
  | vtClose (c : Fin 4) (toCore : Bool)
  | vtBreak (c : Fin 4)
  | vtTerminalReset (c : Fin 4) (toCore : Bool)
  | vtCredit (c : Fin 4) (toCore : Bool) (credit : BitVec 16)
  -- memory controllers (chapter 09)
  | mcRequestIntake (c : Fin 20)
  | mcReadComplete (c : Fin 20) (target : Fin 32) (bad : List BadSym)
  | refreshDue (c : Fin 20) (target : Fin 32) (rank : Fin 8) (bank : Fin 64)
  | dramTempRead (c : Fin 20) (temp : Byte)
  | trainingOp (c : Fin 20) (word : Word)
  | trainingOpComplete (c : Fin 20) (fail : BitVec 64) (errs first : Word)
  | delayValueWrite (c : Fin 20) (word : Word)
  | modeRegisterAccess (c : Fin 20) (word : Word)
  | driftMeasure (c : Fin 20) (target : Fin 32) (rank : Fin 8) (taps : Byte)
  | retrainIsolate (c : Fin 20)
  | retrainRelease (c : Fin 20)
  | retrainStepTimeout (c : Fin 20)
  | patrolRead (c : Fin 20) (bad : List BadSym)
  | spareGo (c : Fin 20) (word : Word)
  | migrationPieceComplete (c : Fin 20) (bad : List (Fin 64 × BadSym))
  | spareEnWrite (c : Fin 8) (enable : Bool)
  -- inline crypto (chapter 10)
  | rootKeyDrawn (key : BitVec 256)
  | regionEnable (r : Byte)
  | regionDisable (r : Byte)
  | regionZero (r : Byte)
  | regionFillComplete (r : Byte)
  | regionRekey (r : Byte)
  | rekeySectorComplete (r : Byte)
  | icCrWrite (offset : Fin 5) (word : Word)
  -- the Rounds (chapter 12)
  | roundsRequestInject (stop : Fin 18) (mid : Byte) (addr : BitVec 48) (write peek : Bool) (len : Fin 257) (data : List Byte) (bem : Option (BitVec 64)) (excl : Bool)
  | roundsRequestArrival (index : Nat)
  | roundsResponseArrival (index : Nat)
  | roundsTimeout (stop : Fin 18) (tag : Fin 2048)
  | outstandingEntryRelease (stop : Fin 18) (tag : Fin 2048)
  | packetAgeRise (index : Nat)
  | routingSwitch
  | routingTableWrite (bank : Fin 2) (src dst : Fin 18) (word : Word)
  | returnedRequest (index : Nat)
  | resumeNotice (index : Nat)
  | linkNak (stop : Fin 18) (ring : Fin 8) (dir : Fin 2)
  | linkRetrainComplete (stop : Fin 18) (ring : Fin 8) (dir : Fin 2) (ok : Bool)
  -- host ports (chapter 13)
  | envelopeReceive (f : HostFrame)
  | envelopeDispatch
  | replySent (port : Fin 9)
  | accessDeferral (job : Nat)
  | ticketReclaim (index : Fin 4096)
  | pauseFrame (port : Fin 9) (pfc : Bool)
  | arpRequest (port : Fin 9) (ip : Word)
  | neighborSolicitation (port : Fin 9) (ip : BitVec 128)
  | icmpEcho (port : Fin 9) (v6 : Bool) (data : List Byte)
  | dhcpMessage (port : Fin 9) (ip : Word)
  | dhcpRenew (port : Fin 9) (ok : Bool)
  | hostLinkChange (port : Fin 9) (up : Bool)
  | streamDelivery (id : BitVec 14)
  | lodgeRequest (f : HostFrame)
  | lodgeArp (ip : Word)
  | lodgeNeighborSolicitation (ip : BitVec 128)
  -- Vollor opcodes (chapter 14): the handler of the client's oldest dispatched request
  | echo (client : Fin 64)
  | info (client : Fin 64)
  | ready (client : Fin 64)
  | ticketStatus (client : Fin 64)
  | ticketCancel (client : Fin 64)
  | systemReset (client : Fin 64)
  | time (client : Fin 64)
  | clientClose (client : Fin 64)
  | modeGet (client : Fin 64)
  | modeSet (client : Fin 64)
  | powerGet (client : Fin 64)
  | loadBegin (client : Fin 64)
  | loadData (client : Fin 64)
  | loadEnd (client : Fin 64)
  | designList (client : Fin 64)
  | designDiscard (client : Fin 64)
  | storeList (client : Fin 64)
  | storeErase (client : Fin 64)
  | runCreate (client : Fin 64)
  | runStart (client : Fin 64)
  | runSuspend (client : Fin 64)
  | runResume (client : Fin 64)
  | runEnd (client : Fin 64)
  | runSwap (client : Fin 64)
  | runCompact (client : Fin 64)
  | runStatus (client : Fin 64)
  | runSet (client : Fin 64)
  | runList (client : Fin 64)
  | read (client : Fin 64)
  | write (client : Fin 64)
  | readList (client : Fin 64)
  | writeList (client : Fin 64)
  | fill (client : Fin 64)
  | streamOpen (client : Fin 64)
  | streamClose (client : Fin 64)
  | streamData (client : Fin 64)
  | streamRead (client : Fin 64)
  | streamStatus (client : Fin 64)
  | snapTake (client : Fin 64)
  | snapRing (client : Fin 64)
  | snapLock (client : Fin 64)
  | snapFree (client : Fin 64)
  | snapRestore (client : Fin 64)
  | snapRead (client : Fin 64)
  | trigSet (client : Fin 64)
  | trigStatus (client : Fin 64)
  | step (client : Fin 64)
  | updateBegin (client : Fin 64)
  | updateData (client : Fin 64)
  | updateEnd (client : Fin 64)
  | updateStatus (client : Fin 64)
  | updateDiscard (client : Fin 64)
  | updateRevert (client : Fin 64)
  | settingsRead (client : Fin 64)
  | settingsWrite (client : Fin 64)
  | logRead (client : Fin 64)
  | logClear (client : Fin 64)
  | logStatus (client : Fin 64)
  | laneStatus (client : Fin 64)
  | linkConfigOff (client : Fin 64)
  | linkConfigTrain (client : Fin 64)
  | linkConfigEnterDlp (client : Fin 64)
  | linkConfigExit (client : Fin 64)
  | laneLoopback (client : Fin 64)
  | laneRetire (client : Fin 64)
  | dbgRead (client : Fin 64)
  | dbgWrite (client : Fin 64)
  | dbgCoreHalt (client : Fin 64)
  | dbgCoreResume (client : Fin 64)
  | dbgCoreStep (client : Fin 64)
  -- Courier (chapter 15)
  | crCtrlTrain (n : Tile)
  | crCtrlEnterDlp (n : Tile)
  | crCtrlExit (n : Tile)
  | crCtrlOff (n : Tile)
  | courierEgress (index : Nat)
  | blockSend (n g : Tile)
  | markerSend (n g : Tile)
  | codewordReceive (n : Tile) (lane : Fin 16) (cw : Codeword) (interval : Word) (first : BitVec 14) (mirrorOk : Bool)
  | bundleBlockReceive (n g : Tile) (block : BitVec 14) (payload : BitVec 256)
  | idle (n g : Tile)
  | marker (n : Tile) (lane : Fin 16) (interval : Word) (cwPos : Fin 16) (skew : Byte) (peerTag : BitVec 16) (mirror : Fin 16)
  | replayReq (n g : Tile) (lane : Fin 16) (interval : Word) (first blocks : BitVec 14)
  | takeoverReq (n g : Tile) (lane : Fin 16)
  | takeoverAck (n g : Tile) (lane : Fin 16) (ns : Word)
  | handback (n g : Tile) (lane : Fin 16)
  | eqReq (n g : Tile) (lane : Fin 16) (tap : Fin 16) (step : Byte)
  | eqAck (n g : Tile) (lane : Fin 16) (tap : Fin 16) (value : Byte)
  | dlpEnter (n g : Tile)
  | dlpAck (n g : Tile)
  | dlpAckTimeout (n : Tile)
  | dlpExitDetect (n : Tile)
  | laneFailure (n : Tile) (lane : Fin 16) (why : LaneFault)
  | adaptationStep (n g : Tile)
  | linkTrainingComplete (n : Tile) (laneOk : BitVec 16) (peerTags : List (BitVec 16))
  -- Postmaster, wake and modes (chapter 16, 19)
  | wakeRowCheck (row : WakeRow) (pass : Bool)
  | wakeRowRetry (row : WakeRow)
  | bootHeartbeatWrite (value : Word)
  | wakeRetry
  | domainFailClear (d : Dom)
  | refCheckWindow (c0 c1 c2 : BitVec 20)
  | powerGoodLoss (pg : Fin 16)
  | pmbusPoll (bad : List (Fin 16 × Fin 16)) (nak : List (Fin 16)) (poutMw : Nat)
  | pmbusAlert (bad : List (Fin 16 × Fin 16))
  | thermalRead (sixteenths : Int)
  | hubRailTimeout
  | pwrEnRestore
  | safeHoldAutoReset
  | modeChangeStart
  | modeChangeComplete
  | bootComplete
  | bootTimeout
  | wakePin
  | wakePattern (f : EthFrame)
  | mpActivityWake (f : EthFrame)
  -- scratchpads, firmware update (chapter 17)
  | scratchpadStateWrite (b : Fin 16) (mid : Byte) (st : Fin 4)
  | scratchpadHandover (b : Fin 16) (mid owner : Byte)
  | scratchpadZeroComplete (b : Fin 16)
  | scratchpadPatrol (b : Fin 16) (corrected : Nat) (double : List Nat)
  | updateConfirm (key : Word)
  | confirmTimeout
  | promotionSector
  | flashOperationComplete
  -- the Event Recorder (chapter 18)
  | eventIntake (typ : BitVec 16) (sev : Fin 8) (loc ctx : Word) (addr : BitVec 48) (detail : List Word) (merge : Bool)
  | evFlushWrite
  | logFlushStart
  | logFlushComplete (ok : Bool)
  | logFlushStop
  | logHalfEraseComplete
  | logReadbackComplete (badA badB : Option Nat)
  -- registers, and rows added by the spec's reader
  | registerWrite (mid : Byte) (addr : BitVec 48) (word : Word)
  | tapDbgacc
  | inputBurst (k : Fin 12) (words : List (BitVec 48))
  | powerGoodReturn (pg : Fin 16)
  | flushWaitTimeout
  | scratchpadHandoverComplete (b : Fin 16)
  | pmInvalComplete
  | modeRegisterAccessComplete (c : Fin 20) (data : Byte)
  deriving DecidableEq, Repr

end Sys2Proof
end

