-- ==== Sys2Proof/Config.lean ====
section
/-!
DEFINITION. What the spec leaves open: free values, and the cryptographic primitives that it names and other standards
define. None of them has a body, so nothing can be proved of a particular value.
-/
namespace Sys2Proof

/-- A fresh free value for each draw: a value, order or choice that the spec leaves open (log entry 1). -/
opaque Config.free : Nat → Nat

/-- The block cipher AES-256 as a keyed permutation of 16-byte blocks (R149, R312, R314); log entry 2. -/
opaque Config.aes : BitVec 256 → Equiv.Perm (BitVec 128)

/-- The hash SHA-384 (R152, R156); log entry 2. -/
opaque Config.sha384 : List (BitVec 8) → BitVec 384

/-- Whether an SLH-DSA-SHA2-192s signature of FIPS 205, pure form with an empty context string, verifies (R152).
Arguments: public key, message, signature; log entry 2. -/
opaque Config.slhDsa : List (BitVec 8) → List (BitVec 8) → List (BitVec 8) → Bool

/-- A training helper's PRBS: PATTERN, lane, beat (R289), whose seed per lane the spec does not give; log entry 19. -/
opaque Config.prbs : Nat → Nat → Nat → Bool

/-- The mode register that takes a DRAM-side value of MC_DLY_SEL.KIND 5 or 6 on a kind of DRAM (R290), which the spec does not
number; log entry 19. -/
opaque Config.dramMr : Bool → Nat → BitVec 8

/-- What the Reuntan device database makes of a bay-plane's frames: the source that drives an input. Arguments: the
nonzero bytes of its frames by offset, input class, input index (R58, R61); log entry 3. -/
opaque Config.routed : List (Nat × BitVec 8) → Nat → Nat → Nat

/-- What the Reuntan device database makes of a bay-plane's frames: a setting of a hard block, latch, exchange port or
design I/O connection in frames 2,560–3,071 (R61, R115). Arguments as `Config.routed`; log entry 3. -/
opaque Config.field : List (Nat × BitVec 8) → Nat → Nat → Nat

/-- The SEC-DED check over 64 data bits (R131, R485), whose code the spec does not give; log entry 3. -/
opaque Config.secded : Nat → Nat

/-- The word that SEC-DED correction makes of a word and a check that do not match: the low bit tells a double-bit
error, the rest is the corrected word (R131); log entry 3. -/
opaque Config.secdedFix : Nat → Nat → Nat

end Sys2Proof
end

