-- ==== Sys2Proof/Machine/RegMap.lean ====
section
/-!
DEFINITION. The register map: every 32-bit register of the module as the spec's register tables give it
(address, index strides, reset domain, reset value, fields with their access types of R18).
-/
namespace Sys2Proof.Machine

/-- The access types of R18. -/
inductive Acc where
  | rw | ro | wo | w1c | w1s | rc
  deriving DecidableEq, Repr

/-- One field of a register: bits [hi:lo] and their access type. -/
structure RegField where
  name : String
  hi : Nat
  lo : Nat
  acc : Acc
  deriving DecidableEq, Repr

/-- The kind of reset domain named in a register's heading (R44). -/
inductive RegDom where
  | aon | vbat | dbg | hub | rnd | tile | bay | cr | edge | ddr
  deriving DecidableEq, Repr

/-- One row of the register map: index strides and counts outermost first. -/
structure RegDef where
  name : String
  dom : RegDom
  base : Nat
  dims : List (Nat × Nat)
  rst : Nat
  fields : List RegField
  deriving DecidableEq, Repr

/-- A register named by the model: its address and its value after a reset of its domain. -/
structure Reg where
  addr : Nat
  rst : Nat
  deriving DecidableEq, Repr

/-- Base address of memory controller `c`, numbered as R507 numbers them: 0–7 HBn, 8–19 DC(c − 8) (R35). -/
def mcBase (c : Nat) : Nat := if c < 8 then 0x300000 + 0x10000 * c else 0x200000 + 0x10000 * (c - 8)

/-- Reset value of CR_CFGw (R430, R431): lanes 0–14 enabled, three groups of four data lanes and a spare. -/
def crCfgReset (w : Nat) : Nat :=
  match w with
  | 0 => 0x7FFF0000
  | 2 => 0xB0
  | 3 => 0xB5
  | 4 => 0xBA
  | _ => 0

/-- Reset value of a routing entry (R346): every ring, the shortest direction, 0 at 9 hops. -/
def rndRtReset (s t : Nat) : Nat :=
  if (s + 18 - t) % 18 < (t + 18 - s) % 18 then 0x1FF else 0xFF

/-- MR_EPOCH_LO: [31:0] EPOCH_LO RO. -/
def Reg.mrEpochLo : Reg := ⟨0x10080, 0x0⟩
/-- MR_EPOCH_HI: [31:0] EPOCH_HI RO. -/
def Reg.mrEpochHi : Reg := ⟨0x10084, 0x0⟩
/-- MR_EPOCH_STAT: [1] SRC_SLOW RO; [0] RUNNING RO. -/
def Reg.mrEpochStat : Reg := ⟨0x10088, 0x0⟩
/-- TC_MC_CTRL: [16] ACTIVE RO; [15:8] CURRENT RO; [7:0] TARGET RW. -/
def Reg.tcMcCtrl (n : Nat) : Reg := ⟨0x1000010000 + 0x100000000 * n, 0x7878⟩
/-- TC_MC_STAT: [7:4] LOCKED RO; [1] LOCK_FAIL W1C; [0] RELOCK RO. -/
def Reg.tcMcStat (n : Nat) : Reg := ⟨0x1000010004 + 0x100000000 * n, 0x0⟩
/-- TC_CTt: [31] EN RW; [23:12] PHASE RW; [11:0] DIV RW. -/
def Reg.tcCt (n t : Nat) : Reg := ⟨0x1000010040 + 0x100000000 * n + 0x4 * t, 0x0⟩
/-- TC_RET_SRCt_p: [31] EN RW; [24] INV RW; [23] OUT RW; [22:19] CELL RW; [18:6] CLUSTER RW; [5:0] BAY RW. -/
def Reg.tcRetSrc (n t p : Nat) : Reg := ⟨0x1000010080 + 0x100000000 * n + 0x10 * t + 0x4 * p, 0x0⟩
/-- TC_HOLD: [2] CLK_HOLD RO; [1] WR_HOLD RO; [0] OUT_HOLD RO. -/
def Reg.tcHold (n : Nat) : Reg := ⟨0x10000100D0 + 0x100000000 * n, 0x0⟩
/-- TC_DM_CFG: [7:0] GUARD_PS RW. -/
def Reg.tcDmCfg (n : Nat) : Reg := ⟨0x10000100E0 + 0x100000000 * n, 0x18⟩
/-- TC_DM_SUM: [15:10] BAY RO; [9:8] QUAD RO; [7:0] MIN_PS RO. -/
def Reg.tcDmSum (n : Nat) : Reg := ⟨0x10000100E4 + 0x100000000 * n, 0xFF⟩
/-- TC_STRETCH: [31] ACTIVE RO; [15:0] COUNT RC. -/
def Reg.tcStretch (n : Nat) : Reg := ⟨0x10000100E8 + 0x100000000 * n, 0x0⟩
/-- BAY_DMq: [16] ALARM W1C; [15:8] MARGIN_MIN RC; [7:0] MARGIN_LAST RO. -/
def Reg.bayDm (n b q : Nat) : Reg := ⟨0x1000020000 + 0x100000000 * n + 0x1000 * b + 0x4 * q, 0xFFFF⟩
/-- BAY_Pp_REL_CTRL: [1:0] OP WO. -/
def Reg.bayPRelCtrl (n b p : Nat) : Reg := ⟨0x1000020100 + 0x100000000 * n + 0x1000 * b + 0x40 * p, 0x0⟩
/-- BAY_Pp_REL_STAT: [9:5] PERIOD RO; [4] REFUSED W1C; [3] GRS RO; [2] ARMED RO; [1:0] STAGE RO. -/
def Reg.bayPRelStat (n b p : Nat) : Reg := ⟨0x1000020104 + 0x100000000 * n + 0x1000 * b + 0x40 * p, 0x0⟩
/-- BAY_Pp_DCC_LO: [31:0] DCC_LO RW. -/
def Reg.bayPDccLo (n b p : Nat) : Reg := ⟨0x1000020108 + 0x100000000 * n + 0x1000 * b + 0x40 * p, 0x0⟩
/-- BAY_Pp_DCC_HI: [31:0] DCC_HI RW. -/
def Reg.bayPDccHi (n b p : Nat) : Reg := ⟨0x100002010C + 0x100000000 * n + 0x1000 * b + 0x40 * p, 0x0⟩
/-- BAY_XWAIT: [15:0] LAST RO. -/
def Reg.bayXwait (n b : Nat) : Reg := ⟨0x1000020010 + 0x100000000 * n + 0x1000 * b, 0x0⟩
/-- BAY_XWAIT_MAX: [15:0] MAX RC. -/
def Reg.bayXwaitMax (n b : Nat) : Reg := ⟨0x1000020014 + 0x100000000 * n + 0x1000 * b, 0x0⟩
/-- BAY_Pp_STEP: [31] STEPPING RO; [11:10] GRP_SIZE RW; [9:8] GRP_BASE RW; [4:0] S RW. -/
def Reg.bayPStep (n b p : Nat) : Reg := ⟨0x1000020110 + 0x100000000 * n + 0x1000 * b + 0x40 * p, 0x0⟩
/-- BAY_XRTp_i: [31] VALID RW; [30:28] DEST_TILE RW; [27] EXT RW; [26:21] DEST_BAY RW; [20:19] DEST_PLANE RW; [18:13] DEST_BUNDLE RW; [10:0] CR_ROUTE RW. -/
def Reg.bayXrt (n b p i : Nat) : Reg := ⟨0x1000020800 + 0x100000000 * n + 0x1000 * b + 0x100 * p + 0x4 * i, 0x0⟩
/-- BAY_XEXPp_LO: [31:0] MASK_LO RW. -/
def Reg.bayXexpLo (n b p : Nat) : Reg := ⟨0x1000020C00 + 0x100000000 * n + 0x1000 * b + 0x8 * p, 0x0⟩
/-- BAY_XEXPp_HI: [31:0] MASK_HI RW. -/
def Reg.bayXexpHi (n b p : Nat) : Reg := ⟨0x1000020C04 + 0x100000000 * n + 0x1000 * b + 0x8 * p, 0x0⟩
/-- TC_XSTAT: [31] STALL W1C; [30] OVERSUB W1C; [15:0] DISCARD RC. -/
def Reg.tcXstat (n : Nat) : Reg := ⟨0x10000100F0 + 0x100000000 * n, 0x0⟩
/-- DIO_Bj_CFG: [31] EN RW; [30:29] MODE RW; [28:27] BW RW; [23:16] SAMPLE_NS RW; [15:8] HIGH_NS RW. -/
def Reg.dioBCfg (n j : Nat) : Reg := ⟨0x1000010200 + 0x100000000 * n + 0x40 * j, 0x60200⟩
/-- DIO_Bj_HOLD: [1:0] STATE RW. -/
def Reg.dioBHold (n j : Nat) : Reg := ⟨0x1000010204 + 0x100000000 * n + 0x40 * j, 0x3⟩
/-- DIO_Bj_STAT: [17:2] IO_WAIT RC; [1] SAFE_Z RO; [0] HELD RO. -/
def Reg.dioBStat (n j : Nat) : Reg := ⟨0x1000010208 + 0x100000000 * n + 0x40 * j, 0x1⟩
/-- BAY_MEMERR: [31:16] CORR RC; [15:8] UNCORR RC; [7:0] FOREIGN RC. -/
def Reg.bayMemerr (n b : Nat) : Reg := ⟨0x1000020018 + 0x100000000 * n + 0x1000 * b, 0x0⟩
/-- BAY_BMOWNi: [3] VALID0 RW; [7] VALID1 RW; [11] VALID2 RW; [15] VALID3 RW; [19] VALID4 RW; [23] VALID5 RW; [27] VALID6 RW; [31] VALID7 RW; [1:0] PLANE0 RW; [5:4] PLANE1 RW; [9:8] PLANE2 RW; [13:12] PLANE3 RW; [17:16] PLANE4 RW; [21:20] PLANE5 RW; [25:24] PLANE6 RW; [29:28] PLANE7 RW. -/
def Reg.bayBmown (n b i : Nat) : Reg := ⟨0x1000020200 + 0x100000000 * n + 0x1000 * b + 0x4 * i, 0x0⟩
/-- BAY_DMOWNi: [3] VALID0 RW; [7] VALID1 RW; [11] VALID2 RW; [15] VALID3 RW; [19] VALID4 RW; [23] VALID5 RW; [27] VALID6 RW; [31] VALID7 RW; [1:0] PLANE0 RW; [5:4] PLANE1 RW; [9:8] PLANE2 RW; [13:12] PLANE3 RW; [17:16] PLANE4 RW; [21:20] PLANE5 RW; [25:24] PLANE6 RW; [29:28] PLANE7 RW. -/
def Reg.bayDmown (n b i : Nat) : Reg := ⟨0x1000020250 + 0x100000000 * n + 0x1000 * b + 0x4 * i, 0x0⟩
/-- BAY_BMADRm: [30:16] ADR_B RW; [14:0] ADR_A RW. -/
def Reg.bayBmadr (n b m : Nat) : Reg := ⟨0x1000020400 + 0x100000000 * n + 0x1000 * b + 0x4 * m, 0x0⟩
/-- BAY_DMADRd: [31:16] ADR_B RW; [15:0] ADR_A RW. -/
def Reg.bayDmadr (n b d : Nat) : Reg := ⟨0x1000020680 + 0x100000000 * n + 0x1000 * b + 0x4 * d, 0x0⟩
/-- MMP_k_BASE_LO: [31:12] BASE_LO RW. -/
def Reg.mmpBaseLo (n k : Nat) : Reg := ⟨0x1000010400 + 0x100000000 * n + 0x40 * k, 0x0⟩
/-- MMP_k_BASE_HI: [15:0] BASE_HI RW. -/
def Reg.mmpBaseHi (n k : Nat) : Reg := ⟨0x1000010404 + 0x100000000 * n + 0x40 * k, 0x0⟩
/-- MMP_k_SIZE_LO: [31:12] SIZE_LO RW. -/
def Reg.mmpSizeLo (n k : Nat) : Reg := ⟨0x1000010408 + 0x100000000 * n + 0x40 * k, 0x0⟩
/-- MMP_k_SIZE_HI: [8:0] SIZE_HI RW. -/
def Reg.mmpSizeHi (n k : Nat) : Reg := ⟨0x100001040C + 0x100000000 * n + 0x40 * k, 0x0⟩
/-- MMP_k_CTRL: [31] EN RW; [30] UNCACHED RW; [29] FLUSH W1S; [28] RSP_ERR RW; [27] RSP_UE RW; [25:24] PLANE RW; [23:18] BAY RW. -/
def Reg.mmpCtrl (n k : Nat) : Reg := ⟨0x1000010410 + 0x100000000 * n + 0x40 * k, 0x0⟩
/-- MMP_k_STAT: [2] WB_ERR W1C; [1] ERR W1C; [0] OOW W1C. -/
def Reg.mmpStat (n k : Nat) : Reg := ⟨0x1000010414 + 0x100000000 * n + 0x40 * k, 0x0⟩
/-- MMP_k_MISS: [31:0] MISS RC. -/
def Reg.mmpMiss (n k : Nat) : Reg := ⟨0x1000010418 + 0x100000000 * n + 0x40 * k, 0x0⟩
/-- MMP_k_WAIT: [31:0] WAIT RC. -/
def Reg.mmpWait (n k : Nat) : Reg := ⟨0x100001041C + 0x100000000 * n + 0x40 * k, 0x0⟩
/-- MMP_k_RDATAi: [31:0] RDATA RW. -/
def Reg.mmpRdata (n k i : Nat) : Reg := ⟨0x1000010420 + 0x100000000 * n + 0x40 * k + 0x4 * i, 0x0⟩
/-- FK_UNLOCK: [31:0] KEY WO. -/
def Reg.fkUnlock : Reg := ⟨0x60400, 0x0⟩
/-- FK_STAT: [1] LOCKED W1C; [0] OPEN RO. -/
def Reg.fkStat : Reg := ⟨0x60404, 0x0⟩
/-- FK_FKEYw: [31:0] KEY WO. -/
def Reg.fkFkey (w : Nat) : Reg := ⟨0x60410 + 0x4 * w, 0x0⟩
/-- FK_BKEYw: [31:0] KEY WO. -/
def Reg.fkBkey (w : Nat) : Reg := ⟨0x60440 + 0x4 * w, 0x0⟩
/-- FK_FKEY_CTRL: [1] FORBID_BKEY WO; [0] PROG WO. -/
def Reg.fkFkeyCtrl : Reg := ⟨0x60430, 0x0⟩
/-- FK_FKEY_STAT: [3] BKEY_FORBID RO; [2] FAIL W1C; [1] BUSY RO; [0] PROGRAMMED RO. -/
def Reg.fkFkeyStat : Reg := ⟨0x60434, 0x0⟩
/-- FK_FKEY_KCV: [31:0] KCV RO. -/
def Reg.fkFkeyKcv : Reg := ⟨0x60438, 0x0⟩
/-- FK_BKEY_KCV: [31:0] KCV RO. -/
def Reg.fkBkeyKcv : Reg := ⟨0x60468, 0x0⟩
/-- FK_BKEY_CTRL: [1] ERASE WO; [0] COMMIT WO. -/
def Reg.fkBkeyCtrl : Reg := ⟨0x60460, 0x0⟩
/-- FK_BKEY_STAT: [2] VBAT_OK RO; [1] LOST W1C; [0] VALID RO. -/
def Reg.fkBkeyStat : Reg := ⟨0x60464, 0x2⟩
/-- FK_IMG_SEL: [1:0] SLOT RW. -/
def Reg.fkImgSel : Reg := ⟨0x60480, 0x0⟩
/-- FK_IMG_HASHw: [31:0] HASH RW. -/
def Reg.fkImgHash (w : Nat) : Reg := ⟨0x60484 + 0x4 * w, 0x0⟩
/-- FK_IMG_CTRL: [1] REVOKE WO; [0] PROG WO. -/
def Reg.fkImgCtrl : Reg := ⟨0x604B4, 0x0⟩
/-- FK_IMG_STAT: [8] FAIL W1C; [7:4] REVOKED RO; [3:0] PROGRAMMED RO. -/
def Reg.fkImgStat : Reg := ⟨0x604B8, 0x0⟩
/-- CS_FRAME_SEL: [19:0] INDEX RW. -/
def Reg.csFrameSel (n : Nat) : Reg := ⟨0x10000000A0 + 0x100000000 * n, 0x0⟩
/-- CS_FRAME_CHK: [31] ADDR_FAULT RO; [30] E RO; [29:17] SYNDROME RO; [15:0] CHK RO. -/
def Reg.csFrameChk (n : Nat) : Reg := ⟨0x10000000A4 + 0x100000000 * n, 0x0⟩
/-- CS_CTRL: [1] RESTORE W1S; [0] SCRUB_EN RW. -/
def Reg.csCtrl (n : Nat) : Reg := ⟨0x1000000000 + 0x100000000 * n, 0x1⟩
/-- CS_STAT: [7] SLOW W1C; [6] REFUSED W1C; [5] PARTIAL W1C; [4] QFULL W1C; [3] TAKEOVER_B RO; [2] TAKEOVER_A RO; [1] SB_RUN RO; [0] SA_RUN RO. -/
def Reg.csStat (n : Nat) : Reg := ⟨0x1000000004 + 0x100000000 * n, 0x0⟩
/-- CS_SA_POS: [19:14] BAY RO; [13:12] PLANE RO; [11:0] FRAME RO. -/
def Reg.csSaPos (n : Nat) : Reg := ⟨0x1000000010 + 0x100000000 * n, 0x0⟩
/-- CS_SB_POS: [19:14] BAY RO; [13:12] PLANE RO; [11:0] FRAME RO. -/
def Reg.csSbPos (n : Nat) : Reg := ⟨0x1000000018 + 0x100000000 * n, 0x0⟩
/-- CS_SA_SWEEPS: [31:0] COUNT RO. -/
def Reg.csSaSweeps (n : Nat) : Reg := ⟨0x1000000014 + 0x100000000 * n, 0x0⟩
/-- CS_SB_SWEEPS: [31:0] COUNT RO. -/
def Reg.csSbSweeps (n : Nat) : Reg := ⟨0x100000001C + 0x100000000 * n, 0x0⟩
/-- CS_SA_DONEi: [31:0] DONE RO. -/
def Reg.csSaDone (n i : Nat) : Reg := ⟨0x1000000020 + 0x100000000 * n + 0x4 * i, 0x0⟩
/-- CS_SB_DONEi: [31:0] DONE RO. -/
def Reg.csSbDone (n i : Nat) : Reg := ⟨0x1000000030 + 0x100000000 * n + 0x4 * i, 0x0⟩
/-- CS_ENi: [31:0] EN RW. -/
def Reg.csEn (n i : Nat) : Reg := ⟨0x1000000040 + 0x100000000 * n + 0x4 * i, 0x0⟩
/-- CS_CORR: [31:0] CORR RC. -/
def Reg.csCorr (n : Nat) : Reg := ⟨0x1000000060 + 0x100000000 * n, 0x0⟩
/-- CS_UNCORR: [31:16] UNCORR RC; [15:0] ADDRF RC. -/
def Reg.csUncorr (n : Nat) : Reg := ⟨0x1000000064 + 0x100000000 * n, 0x0⟩
/-- CS_LASTERR: [31] VALID W1C; [30:29] KIND RO; [19:14] BAY RO; [13:12] PLANE RO; [11:0] FRAME RO. -/
def Reg.csLasterr (n : Nat) : Reg := ⟨0x1000000068 + 0x100000000 * n, 0x0⟩
/-- CS_VOTE: [31:0] REPAIRS RC. -/
def Reg.csVote (n : Nat) : Reg := ⟨0x100000006C + 0x100000000 * n, 0x0⟩
/-- CS_XCHK: [31:16] STALL RC; [15:0] MAP RC. -/
def Reg.csXchk (n : Nat) : Reg := ⟨0x1000000070 + 0x100000000 * n, 0x0⟩
/-- CS_SWEEP_TIME: [31:0] US RO. -/
def Reg.csSweepTime (n : Nat) : Reg := ⟨0x1000000080 + 0x100000000 * n, 0x0⟩
/-- SO_CTRL: [1] PM_INVAL W1S; [0] EN RW. -/
def Reg.soCtrl : Reg := ⟨0x100000, 0x1⟩
/-- SO_STAT: [23] EXCL RO; [22] FROZEN RO; [21:12] FREE_BAYS RO; [11:0] FREE_BP RO. -/
def Reg.soStat : Reg := ⟨0x100004, 0x200800⟩
/-- SO_POL_WEIGHT: [31:24] W_HOP RW; [23:16] W_SHARE RW; [15:8] W_FRAG RW; [7:0] W_WAKE RW. -/
def Reg.soPolWeight : Reg := ⟨0x100010, 0x10080201⟩
/-- SO_POL_QUANTUM: [15:0] Q RW. -/
def Reg.soPolQuantum : Reg := ⟨0x100014, 0x32⟩
/-- SO_POL_AGE: [7:0] STEP RW. -/
def Reg.soPolAge : Reg := ⟨0x100018, 0x8⟩
/-- SO_POL_SCHED: [15:8] IDLE_EPOCHS RW; [7:4] MAX_PLACE RW; [0] BACKFILL RW. -/
def Reg.soPolSched : Reg := ⟨0x10001C, 0x1041⟩
/-- SO_PS_CFG: [4:0] LIMIT_GIB RW. -/
def Reg.soPsCfg : Reg := ⟨0x100020, 0x10⟩
/-- SO_PM_STAT: [31:16] CHECK_FAIL RC. -/
def Reg.soPmStat : Reg := ⟨0x100030, 0x0⟩
/-- SO_PM_MISS: [31:0] MISS RC. -/
def Reg.soPmMiss : Reg := ⟨0x100034, 0x0⟩
/-- SO_LAST_FAIL: [31] VALID W1C; [30] FRAG RO; [27:24] REASON RO; [23:12] RUN RO; [10:0] GROUP RO. -/
def Reg.soLastFail : Reg := ⟨0x100040, 0x0⟩
/-- SO_SWITCH_US: [31:0] US RO. -/
def Reg.soSwitchUs : Reg := ⟨0x100044, 0x0⟩
/-- SO_EVICT: [31:16] PREEMPT RC; [15:0] EVICT RC. -/
def Reg.soEvict : Reg := ⟨0x100048, 0x0⟩
/-- SO_BRIDGE_j_d_s: [8:0] LOAD RO. -/
def Reg.soBridge (j d s : Nat) : Reg := ⟨0x100400 + 0x20 * j + 0x10 * d + 0x4 * s, 0x0⟩
/-- TRG_u_CTRL: [31] EN RW; [30:28] MODE RW; [27:25] ACTION RW; [24] HEAD RW; [23:18] ARM_BY RW; [11:0] RUN RW. -/
def Reg.trgCtrl (u : Nat) : Reg := ⟨0x1C0000 + 0x40 * u, 0x1000000⟩
/-- TRG_u_MASK_LO: [31:0] VALUE RW. -/
def Reg.trgMaskLo (u : Nat) : Reg := ⟨0x1C0004 + 0x40 * u, 0x0⟩
/-- TRG_u_MASK_HI: [31:0] VALUE RW. -/
def Reg.trgMaskHi (u : Nat) : Reg := ⟨0x1C0008 + 0x40 * u, 0x0⟩
/-- TRG_u_LOW_LO: [31:0] VALUE RW. -/
def Reg.trgLowLo (u : Nat) : Reg := ⟨0x1C000C + 0x40 * u, 0x0⟩
/-- TRG_u_LOW_HI: [31:0] VALUE RW. -/
def Reg.trgLowHi (u : Nat) : Reg := ⟨0x1C0010 + 0x40 * u, 0x0⟩
/-- TRG_u_HIGH_LO: [31:0] VALUE RW. -/
def Reg.trgHighLo (u : Nat) : Reg := ⟨0x1C0014 + 0x40 * u, 0x0⟩
/-- TRG_u_HIGH_HI: [31:0] VALUE RW. -/
def Reg.trgHighHi (u : Nat) : Reg := ⟨0x1C0018 + 0x40 * u, 0x0⟩
/-- TRG_u_PARAM: [31:16] OFFSET RW; [15:0] COUNT RW. -/
def Reg.trgParam (u : Nat) : Reg := ⟨0x1C001C + 0x40 * u, 0x400001⟩
/-- TRG_u_WITHIN: [31:0] CYCLES RW. -/
def Reg.trgWithin (u : Nat) : Reg := ⟨0x1C0020 + 0x40 * u, 0x0⟩
/-- TRG_u_SNAP: [9:0] ID RW. -/
def Reg.trgSnap (u : Nat) : Reg := ⟨0x1C0024 + 0x40 * u, 0x0⟩
/-- TRG_u_STAT: [31] FIRED W1C; [30] ARMED RO; [29] LOADED RO; [28] SPLIT RO; [27] NOSLOT RO; [26] CHAIN_ERR RO; [25] ACT_FAIL W1C; [15:0] HITS RO. -/
def Reg.trgStat (u : Nat) : Reg := ⟨0x1C0028 + 0x40 * u, 0x0⟩
/-- TRG_u_FIRE_DCC_LO: [31:0] DCC RO. -/
def Reg.trgFireDccLo (u : Nat) : Reg := ⟨0x1C002C + 0x40 * u, 0x0⟩
/-- TRG_u_FIRE_DCC_HI: [31:0] DCC RO. -/
def Reg.trgFireDccHi (u : Nat) : Reg := ⟨0x1C0030 + 0x40 * u, 0x0⟩
/-- TRG_u_TAPi: [31] VALID RW; [30] OUT RW; [29:26] CELL RW; [25:13] CLUSTER RW; [10:0] PAGE_NO RW. -/
def Reg.trgTap (u i : Nat) : Reg := ⟨0x1C1000 + 0x100 * u + 0x4 * i, 0x0⟩
/-- TRG_FIRED_LO: [31:0] UNITS RC. -/
def Reg.trgFiredLo : Reg := ⟨0x1C5000, 0x0⟩
/-- TRG_FIRED_HI: [31:0] UNITS RC. -/
def Reg.trgFiredHi : Reg := ⟨0x1C5004, 0x0⟩
/-- TRG_LAST: [31] VALID W1C; [25:20] UNIT RO; [11:0] RUN RO. -/
def Reg.trgLast : Reg := ⟨0x1C5008, 0x0⟩
/-- TRG_LAST_GAP: [31:0] CYCLES RO. -/
def Reg.trgLastGap : Reg := ⟨0x1C500C, 0x0⟩
/-- TC_TSLOTs: [31] EN RW; [29:24] UNIT RW; [11:0] RUN RW. -/
def Reg.tcTslot (n s : Nat) : Reg := ⟨0x1000011000 + 0x100000000 * n + 0x4 * s, 0x0⟩
/-- TC_TTAPs_i: [31] VALID RW; [30] OUT RW; [29:26] CELL RW; [25:13] CLUSTER RW; [12:7] BAY RW; [6:5] PLANE RW. -/
def Reg.tcTtap (n s i : Nat) : Reg := ⟨0x1000011100 + 0x100000000 * n + 0x100 * s + 0x4 * i, 0x0⟩
/-- DBG_MODE_REQ: [3:0] MODE WO. -/
def Reg.dbgModeReq : Reg := ⟨0x90010, 0x0⟩
/-- DBG_MODE_STAT: [8] PEND_VALID RO; [7:4] PENDING RO; [3:0] CURRENT RO. -/
def Reg.dbgModeStat : Reg := ⟨0x90014, 0x1⟩
/-- DBG_Cc_CTRL: [5] GROUP RW; [4] HALT_ON_RESET RW; [3] STEP_IRQ RW; [2] STEP WO; [1] RESUME WO; [0] HALT WO. -/
def Reg.dbgCCtrl (c : Nat) : Reg := ⟨0x90100 + 0x100 * c, 0x0⟩
/-- DBG_Cc_STAT: [31:16] CTXID RO; [8] OFF RO; [7] PEND RO; [6:4] CMP RO; [3:1] CAUSE RO; [0] HALTED RO. -/
def Reg.dbgCStat (c : Nat) : Reg := ⟨0x90104 + 0x100 * c, 0x100⟩
/-- DBG_Cc_REGSEL: [5:0] INDEX RW. -/
def Reg.dbgCRegsel (c : Nat) : Reg := ⟨0x90108 + 0x100 * c, 0x0⟩
/-- DBG_Cc_REGDATA_LO: [31:0] DATA RW. -/
def Reg.dbgCRegdataLo (c : Nat) : Reg := ⟨0x9010C + 0x100 * c, 0x0⟩
/-- DBG_Cc_REGDATA_HI: [31:0] DATA RW. -/
def Reg.dbgCRegdataHi (c : Nat) : Reg := ⟨0x90110 + 0x100 * c, 0x0⟩
/-- DBG_Cc_LB_TX: [31:0] WORD RW. -/
def Reg.dbgCLbTx (c : Nat) : Reg := ⟨0x90114 + 0x100 * c, 0x0⟩
/-- DBG_Cc_LB_RX: [31:0] WORD RW. -/
def Reg.dbgCLbRx (c : Nat) : Reg := ⟨0x90118 + 0x100 * c, 0x0⟩
/-- DBG_Cc_LB_STAT: [4] RX_IE RW; [3] RX_OVF W1C; [2] TX_OVF W1C; [1] RX_FULL RO; [0] TX_FULL RO. -/
def Reg.dbgCLbStat (c : Nat) : Reg := ⟨0x9011C + 0x100 * c, 0x0⟩
/-- DBG_Cc_CMPk_CTRL: [31] EN RW; [30:29] TYPE RW; [28] RANGE RW; [27] LINK_EN RW; [26:24] LINK RW; [23:22] CTX_KIND RW; [21:20] ACTION RW; [19] HIT W1C; [13:0] CTX_ID RW. -/
def Reg.dbgCCmpCtrl (c k : Nat) : Reg := ⟨0x90140 + 0x100 * c + 0x10 * k, 0x0⟩
/-- DBG_Cc_CMPk_ADDR_LO: [31:0] ADDR RW. -/
def Reg.dbgCCmpAddrLo (c k : Nat) : Reg := ⟨0x90144 + 0x100 * c + 0x10 * k, 0x0⟩
/-- DBG_Cc_CMPk_ADDR_HI: [15:0] ADDR RW. -/
def Reg.dbgCCmpAddrHi (c k : Nat) : Reg := ⟨0x90148 + 0x100 * c + 0x10 * k, 0x0⟩
/-- DBG_WDTc_LOAD: [31:0] VALUE RW. -/
def Reg.dbgWdtLoad (c : Nat) : Reg := ⟨0x90800 + 0x10 * c, 0x7A120⟩
/-- DBG_WDTc_COUNT: [31:0] VALUE RO. -/
def Reg.dbgWdtCount (c : Nat) : Reg := ⟨0x90804 + 0x10 * c, 0x7A120⟩
/-- DBG_WDTc_KICK: [31:0] VALUE WO. -/
def Reg.dbgWdtKick (c : Nat) : Reg := ⟨0x90808 + 0x10 * c, 0x0⟩
/-- DBG_WDTc_STAT: [3] RELOADED W1C; [2] EXPIRED W1C; [1] FROZEN RO; [0] EN RW. -/
def Reg.dbgWdtStat (c : Nat) : Reg := ⟨0x9080C + 0x10 * c, 0x0⟩
/-- MC_CTRL: [31:24] PATROL_H RW; [23:16] MIG_SHARE RW; [2] SPARE_EN RW; [1] TRAIN RW; [0] READY RW. -/
def Reg.mcCtrl (c : Nat) : Reg := ⟨mcBase c + 0x0, 0x18800000⟩
/-- MC_STAT: [31] HOT RO; [30] TOO_HOT RO; [29] MIGRATING RO; [28] SPARE_USED RO; [23:16] TEMP RO; [1] DRIFT_PEND RO. -/
def Reg.mcStat (c : Nat) : Reg := ⟨mcBase c + 0x4, 0x0⟩
/-- MC_SPARE: [31] GO W1S; [30] ABORTED W1C; [28:24] SPARE RW; [20:16] FAILED RW; [4:0] TARGET RW. -/
def Reg.mcSpare (c : Nat) : Reg := ⟨mcBase c + 0x8, if c < 8 then 0x1F1F0000 else 0x0⟩
/-- MC_MIG_POS: [31:0] PIECES RO. -/
def Reg.mcMigPos (c : Nat) : Reg := ⟨mcBase c + 0xC, 0x0⟩
/-- MC_CE: [31:0] COUNT RC. -/
def Reg.mcCe (c : Nat) : Reg := ⟨mcBase c + 0x10, 0x0⟩
/-- MC_UE: [31:16] UE RC; [15:0] POISON_RD RC. -/
def Reg.mcUe (c : Nat) : Reg := ⟨mcBase c + 0x14, 0x0⟩
/-- MC_ERR_ADDR_LO: [31:0] ADDR RO. -/
def Reg.mcErrAddrLo (c : Nat) : Reg := ⟨mcBase c + 0x18, 0x0⟩
/-- MC_ERR_ADDR_HI: [15:0] ADDR RO. -/
def Reg.mcErrAddrHi (c : Nat) : Reg := ⟨mcBase c + 0x1C, 0x0⟩
/-- MC_ERR_INFO: [31] VALID W1C; [30:29] KIND RO; [28:24] TARGET RO; [23:21] RANK RO; [20:15] SYMBOL RO; [14:7] MASTER RO; [6:0] ERASED RO. -/
def Reg.mcErrInfo (c : Nat) : Reg := ⟨mcBase c + 0x20, 0x0⟩
/-- MC_GEOM: [31] VALID RW; [28:24] ROW_BITS RW; [19:16] BG_BITS RW; [15:12] BA_BITS RW; [11:8] BURST_BITS RW; [3:0] RANKS RW. -/
def Reg.mcGeom (c : Nat) : Reg := ⟨mcBase c + 0x30, 0x11032701⟩
/-- MC_ILV: [31] EN RW; [27:24] ORD RW; [19:16] C RW; [15:0] CAP_GIB RW. -/
def Reg.mcIlv (c : Nat) : Reg := ⟨mcBase c + 0x34, 0x0⟩
/-- MC_TRN_CTRL: [31] START W1S; [30:29] OP RW; [28:25] PATTERN RW; [24:20] TARGET RW; [19:17] RANK RW; [15:0] BURSTS RW. -/
def Reg.mcTrnCtrl (c : Nat) : Reg := ⟨mcBase c + 0x100, 0x0⟩
/-- MC_TRN_ADDR: [31:0] VALUE RW. -/
def Reg.mcTrnAddr (c : Nat) : Reg := ⟨mcBase c + 0x104, 0x0⟩
/-- MC_TRN_USER_LO: [31:0] VALUE RW. -/
def Reg.mcTrnUserLo (c : Nat) : Reg := ⟨mcBase c + 0x108, 0x0⟩
/-- MC_TRN_USER_HI: [31:0] VALUE RW. -/
def Reg.mcTrnUserHi (c : Nat) : Reg := ⟨mcBase c + 0x10C, 0x0⟩
/-- MC_TRN_FAIL_LO: [31:0] VALUE RO. -/
def Reg.mcTrnFailLo (c : Nat) : Reg := ⟨mcBase c + 0x110, 0x0⟩
/-- MC_TRN_FAIL_HI: [31:0] VALUE RO. -/
def Reg.mcTrnFailHi (c : Nat) : Reg := ⟨mcBase c + 0x114, 0x0⟩
/-- MC_TRN_ERRS: [31:0] VALUE RO. -/
def Reg.mcTrnErrs (c : Nat) : Reg := ⟨mcBase c + 0x118, 0x0⟩
/-- MC_TRN_FIRST: [31:0] VALUE RO. -/
def Reg.mcTrnFirst (c : Nat) : Reg := ⟨mcBase c + 0x11C, 0x0⟩
/-- MC_DLY_SEL: [31:28] KIND RW; [27:23] TARGET RW; [22:20] RANK RW; [5:0] LANE RW. -/
def Reg.mcDlySel (c : Nat) : Reg := ⟨mcBase c + 0x120, 0x0⟩
/-- MC_DLY_VAL: [8:0] VALUE RW. -/
def Reg.mcDlyVal (c : Nat) : Reg := ⟨mcBase c + 0x124, 0x0⟩
/-- MC_MR: [31] GO W1S; [30] RD RW; [29:25] TARGET RW; [24:22] RANK RW; [21:18] DEVICE RW; [15:8] MR RW; [7:0] DATA RW. -/
def Reg.mcMr (c : Nat) : Reg := ⟨mcBase c + 0x128, 0x0⟩
/-- MC_RETRAIN: [31] GRANTED RO; [30] ACTIVE RO; [29] RELEASE W1S; [28] ISOLATE W1S; [27:23] TARGET RW; [22:20] RANK RW; [7:0] DRIFT_LIM RW. -/
def Reg.mcRetrain (c : Nat) : Reg := ⟨mcBase c + 0x130, 0x2⟩
/-- MC_RETRAIN_CNT: [31:16] DONE RC; [15:0] ABANDON RC. -/
def Reg.mcRetrainCnt (c : Nat) : Reg := ⟨mcBase c + 0x134, 0x0⟩
/-- IC_STAT: [31] ALARM W1C; [30] ROOT_VALID RO; [29] REFUSED W1C; [2:0] REKEYS RO. -/
def Reg.icStat : Reg := ⟨0x70000, 0x0⟩
/-- IC_ALARM_INFO: [31] VALID W1C; [30:29] KIND RO; [23:16] MASTER RO; [15:8] REGION RO. -/
def Reg.icAlarmInfo : Reg := ⟨0x70004, 0x0⟩
/-- IC_ALARM_ADDR_LO: [31:0] ADDR RO. -/
def Reg.icAlarmAddrLo : Reg := ⟨0x70008, 0x0⟩
/-- IC_ALARM_ADDR_HI: [15:0] ADDR RO. -/
def Reg.icAlarmAddrHi : Reg := ⟨0x7000C, 0x0⟩
/-- IC_TAGFAIL: [31:0] COUNT RC. -/
def Reg.icTagfail : Reg := ⟨0x70010, 0x0⟩
/-- IC_CR_EN: [7:0] TILES RW. -/
def Reg.icCrEn : Reg := ⟨0x70014, 0x0⟩
/-- IC_CR_KEYw: [31:0] KEY WO. -/
def Reg.icCrKey (w : Nat) : Reg := ⟨0x70018 + 0x4 * w, 0x0⟩
/-- IC_Rr_CTRL: [31] EN RW; [30] ZERO W1S; [29] REKEY W1S; [1:0] MODE RW. -/
def Reg.icRCtrl (r : Nat) : Reg := ⟨0x71000 + 0x40 * r, 0x0⟩
/-- IC_Rr_STAT: [31] FILLING RO; [30] REKEYING RO; [29] AGAIN RO; [28] EPOCH_END W1C. -/
def Reg.icRStat (r : Nat) : Reg := ⟨0x71004 + 0x40 * r, 0x0⟩
/-- IC_Rr_BASE_LO: [31:12] VALUE RW. -/
def Reg.icRBaseLo (r : Nat) : Reg := ⟨0x71008 + 0x40 * r, 0x0⟩
/-- IC_Rr_BASE_HI: [15:0] VALUE RW. -/
def Reg.icRBaseHi (r : Nat) : Reg := ⟨0x7100C + 0x40 * r, 0x0⟩
/-- IC_Rr_LIMIT_LO: [31:12] VALUE RW. -/
def Reg.icRLimitLo (r : Nat) : Reg := ⟨0x71010 + 0x40 * r, 0x0⟩
/-- IC_Rr_LIMIT_HI: [15:0] VALUE RW. -/
def Reg.icRLimitHi (r : Nat) : Reg := ⟨0x71014 + 0x40 * r, 0x0⟩
/-- IC_Rr_TAG_LO: [31:12] VALUE RW. -/
def Reg.icRTagLo (r : Nat) : Reg := ⟨0x71018 + 0x40 * r, 0x0⟩
/-- IC_Rr_TAG_HI: [15:0] VALUE RW. -/
def Reg.icRTagHi (r : Nat) : Reg := ⟨0x7101C + 0x40 * r, 0x0⟩
/-- IC_Rr_WCNT: [31:0] VALUE RO. -/
def Reg.icRWcnt (r : Nat) : Reg := ⟨0x71020 + 0x40 * r, 0x0⟩
/-- IC_Rr_EPOCH: [31:0] VALUE RO. -/
def Reg.icREpoch (r : Nat) : Reg := ⟨0x71024 + 0x40 * r, 0x0⟩
/-- IC_Rr_POS_LO: [31:0] VALUE RO. -/
def Reg.icRPosLo (r : Nat) : Reg := ⟨0x71028 + 0x40 * r, 0x0⟩
/-- IC_Rr_POS_HI: [31:0] VALUE RO. -/
def Reg.icRPosHi (r : Nat) : Reg := ⟨0x7102C + 0x40 * r, 0x0⟩
/-- TAL_CTRL: [0] AUDIT_EN RW. -/
def Reg.talCtrl : Reg := ⟨0x30000, 0x1⟩
/-- TAL_STAT: [31] FAULT W1C; [30] OUTSIDE RO; [29] ROOT_BAD RO; [8:0] LEDGERS_BAD RO. -/
def Reg.talStat : Reg := ⟨0x30004, 0x0⟩
/-- TAL_EPOCHS: [31:0] AUDITED RO. -/
def Reg.talEpochs : Reg := ⟨0x30008, 0x0⟩
/-- TAL_DISC: [31:0] COUNT RC. -/
def Reg.talDisc : Reg := ⟨0x3000C, 0x0⟩
/-- TAL_LAST: [31] VALID W1C; [30] OUTSIDE RO; [8:0] LEDGER RO. -/
def Reg.talLast : Reg := ⟨0x30010, 0x0⟩
/-- TAL_LAST_DEV: [31:0] VALUE RO. -/
def Reg.talLastDev : Reg := ⟨0x30014, 0x0⟩
/-- TAL_LAST_EPOCH: [31:0] VALUE RO. -/
def Reg.talLastEpoch : Reg := ⟨0x30018, 0x0⟩
/-- TAL_REPAIR: [31:16] LEAF RC; [15:8] REBUILD RC; [7:0] NODE RC. -/
def Reg.talRepair : Reg := ⟨0x3001C, 0x0⟩
/-- TAL_MISSING: [31:0] COUNT RC. -/
def Reg.talMissing : Reg := ⟨0x30020, 0x0⟩
/-- TAL_OVERRUN: [31:0] COUNT RC. -/
def Reg.talOverrun : Reg := ⟨0x30024, 0x0⟩
/-- TAL_LEDGERl_INFO: [31] VALID RO; [30] AUDITED RO; [29] SKIPPED RO; [28:24] LEAVES RO; [23:20] CLASS RO. -/
def Reg.talLedgerInfo (l : Nat) : Reg := ⟨0x31000 + 0x10 * l, 0x0⟩
/-- TAL_LEDGERl_EXPECT: [31:0] VALUE RO. -/
def Reg.talLedgerExpect (l : Nat) : Reg := ⟨0x31004 + 0x10 * l, 0x0⟩
/-- TAL_LEDGERl_SIGN: [31:0] VALUE RO. -/
def Reg.talLedgerSign (l : Nat) : Reg := ⟨0x31008 + 0x10 * l, 0x0⟩
/-- TAL_LEDGERl_DEV: [31:0] VALUE RO. -/
def Reg.talLedgerDev (l : Nat) : Reg := ⟨0x3100C + 0x10 * l, 0x0⟩
/-- TAL_GROUPk_DEV: [31:0] VALUE RO. -/
def Reg.talGroupDev (k : Nat) : Reg := ⟨0x32800 + 0x8 * k, 0x0⟩
/-- TAL_GROUPk_BAD: [0] BAD RO. -/
def Reg.talGroupBad (k : Nat) : Reg := ⟨0x32804 + 0x8 * k, 0x0⟩
/-- TAL_ROOT_DEV: [31:0] VALUE RO. -/
def Reg.talRootDev : Reg := ⟨0x328C0, 0x0⟩
/-- TAL_ROOT_BAD: [0] BAD RO. -/
def Reg.talRootBad : Reg := ⟨0x328C4, 0x0⟩
/-- TAL_LEAFj: [31:0] VALUE RO. -/
def Reg.talLeaf (j : Nat) : Reg := ⟨0x34000 + 0x4 * j, 0x0⟩
/-- RND_TIMEOUT: [15:0] US RW. -/
def Reg.rndTimeout : Reg := ⟨0x40000, 0x7D0⟩
/-- RND_EPOCH: [3] REFUSED W1C; [2] DRAINED RO; [1] SWITCH W1S; [0] CUR RO. -/
def Reg.rndEpoch : Reg := ⟨0x40004, 0x4⟩
/-- RND_LASTERR: [31] VALID W1C; [30:29] KIND RO; [28:24] DST RO; [23:16] MID RO; [4:0] STOP RO. -/
def Reg.rndLasterr : Reg := ⟨0x40008, 0x0⟩
/-- RND_RTb_s_t: [8] DIR RW; [7:0] RING_MASK RW. -/
def Reg.rndRt (b s t : Nat) : Reg := ⟨0x41000 + 0x1000 * b + 0x80 * s + 0x4 * t, rndRtReset s t⟩
/-- RND_Ss_DEAD: [31:0] COUNT RC. -/
def Reg.rndSDead (s : Nat) : Reg := ⟨0x44000 + 0x40 * s, 0x0⟩
/-- RND_Ss_LATE: [31:0] COUNT RC. -/
def Reg.rndSLate (s : Nat) : Reg := ⟨0x44004 + 0x40 * s, 0x0⟩
/-- RND_Ss_TO: [31:0] COUNT RC. -/
def Reg.rndSTo (s : Nat) : Reg := ⟨0x44008 + 0x40 * s, 0x0⟩
/-- RND_Ss_RETRY: [31:0] COUNT RC. -/
def Reg.rndSRetry (s : Nat) : Reg := ⟨0x44010 + 0x40 * s, 0x0⟩
/-- RND_Ss_PR: [31:16] RETURNED RC; [14:8] HWM RC; [6:0] OCC RO. -/
def Reg.rndSPr (s : Nat) : Reg := ⟨0x4400C + 0x40 * s, 0x0⟩
/-- RND_Ss_LINK: [31:16] TRAINING RO; [15:0] FAIL RO. -/
def Reg.rndSLink (s : Nat) : Reg := ⟨0x44014 + 0x40 * s, 0x0⟩
/-- RND_Ss_OUT: [27:16] HWM RC; [11:0] OCC RO. -/
def Reg.rndSOut (s : Nat) : Reg := ⟨0x44018 + 0x40 * s, 0x0⟩
/-- VL_CFG: [7:0] TICKET_HOLD RW. -/
def Reg.vlCfg : Reg := ⟨0x50000, 0x3C⟩
/-- VL_LPk_CFG: [31] EN RW; [30] JUMBO RW; [29:28] SRC RW; [27:26] SPLIT RW; [25:24] PMD RW; [23:12] VID RW. -/
def Reg.vlLpCfg (k : Nat) : Reg := ⟨0x50100 + 0x40 * k, 0x0⟩
/-- VL_LPk_STAT: [31] LINK RO; [30] ADDR4 RO; [29] SERVING RO. -/
def Reg.vlLpStat (k : Nat) : Reg := ⟨0x50104 + 0x40 * k, 0x0⟩
/-- VL_LPk_MAC_LO: [31:0] MAC RO. -/
def Reg.vlLpMacLo (k : Nat) : Reg := ⟨0x50108 + 0x40 * k, 0x0⟩
/-- VL_LPk_MAC_HI: [15:0] MAC RO. -/
def Reg.vlLpMacHi (k : Nat) : Reg := ⟨0x5010C + 0x40 * k, 0x0⟩
/-- VL_LPk_IP4: [31:0] ADDR RW. -/
def Reg.vlLpIp4 (k : Nat) : Reg := ⟨0x50110 + 0x40 * k, 0x0⟩
/-- VL_LPk_IP6_w: [31:0] ADDR RW. -/
def Reg.vlLpIp6 (k w : Nat) : Reg := ⟨0x50114 + 0x40 * k + 0x4 * w, 0x0⟩
/-- VL_LPk_RX: [31:0] COUNT RC. -/
def Reg.vlLpRx (k : Nat) : Reg := ⟨0x50124 + 0x40 * k, 0x0⟩
/-- VL_LPk_BUSY: [31:0] COUNT RC. -/
def Reg.vlLpBusy (k : Nat) : Reg := ⟨0x50128 + 0x40 * k, 0x0⟩
/-- VL_LPk_DROP: [31:16] NOT_INTACT RC; [15:0] OTHER RC. -/
def Reg.vlLpDrop (k : Nat) : Reg := ⟨0x5012C + 0x40 * k, 0x0⟩
/-- VL_LPk_PAUSE: [31:16] PAUSE RC; [15:0] PFC RC. -/
def Reg.vlLpPause (k : Nat) : Reg := ⟨0x50130 + 0x40 * k, 0x0⟩
/-- VL_TKTi_LO: [31:0] WORD RO. -/
def Reg.vlTktLo (i : Nat) : Reg := ⟨0x58000 + 0x8 * i, 0x0⟩
/-- VL_TKTi_HI: [31:0] WORD RO. -/
def Reg.vlTktHi (i : Nat) : Reg := ⟨0x58004 + 0x8 * i, 0x0⟩
/-- PM_LODGE_IP4: [31:0] ADDR RW. -/
def Reg.pmLodgeIp4 : Reg := ⟨0x200, 0x0⟩
/-- PM_LODGE_CNT: [31:0] ANSWERED RC. -/
def Reg.pmLodgeCnt : Reg := ⟨0x204, 0x0⟩
/-- CR_CTRL: [5:4] LINK RO; [2:0] OP WO. -/
def Reg.crCtrl (n : Nat) : Reg := ⟨0x1000080000 + 0x100000000 * n, 0x0⟩
/-- CR_CFGw: [31:0] WORD RW. -/
def Reg.crCfg (n w : Nat) : Reg := ⟨0x1000080040 + 0x100000000 * n + 0x4 * w, crCfgReset w⟩
/-- CR_Gg_STAT: [31] IN_SERVICE RO; [30] SPARE_OK RO; [29] SPARE_USED RO; [28] FAILED RO; [27:24] TAKEN RO; [23:20] MIRROR RO; [19] ADAPT RO; [18] ID_MISMATCH W1C; [15:0] PEER_TAG RO. -/
def Reg.crGStat (n g : Nat) : Reg := ⟨0x1000080100 + 0x100000000 * n + 0x10 * g, 0x0⟩
/-- CR_Gg_CNT: [31:16] REPLAY RC; [15:8] MISMATCH RC; [7:4] TAKEOVER RC; [3:0] BADCTL RC. -/
def Reg.crGCnt (n g : Nat) : Reg := ⟨0x1000080104 + 0x100000000 * n + 0x10 * g, 0x0⟩
/-- CR_Gg_TKO_NS: [31:0] NS RO. -/
def Reg.crGTkoNs (n g : Nat) : Reg := ⟨0x1000080108 + 0x100000000 * n + 0x10 * g, 0x0⟩
/-- CR_Lℓ_STAT: [31:28] STATE RO; [27:26] LOOP RO; [25] CDR_LOCK RO; [24] MARKER_LOCK RO; [23:16] SKEW RO. -/
def Reg.crLStat (n l : Nat) : Reg := ⟨0x1000080400 + 0x100000000 * n + 0x20 * l, 0x0⟩
/-- CR_Lℓ_FEC: [31:8] CORR RC; [7:0] UNCORR RC. -/
def Reg.crLFec (n l : Nat) : Reg := ⟨0x1000080404 + 0x100000000 * n + 0x20 * l, 0x0⟩
/-- CR_EGRe: [31] VALID RW; [30:28] TILE RW; [26:24] GROUP RW; [11:0] TAG RW. -/
def Reg.crEgr (n e : Nat) : Reg := ⟨0x1000084000 + 0x100000000 * n + 0x4 * e, 0x0⟩
/-- CR_INGt_LO: [31] VALID RW; [30] FWD RW; [29:18] RUN RW; [17:7] PAGE_NO RW; [6:1] BUNDLE RW. -/
def Reg.crIngLo (n t : Nat) : Reg := ⟨0x1000088000 + 0x100000000 * n + 0x8 * t, 0x0⟩
/-- CR_INGt_HI: [31] RES RO; [30:28] TILE RO; [27:22] BAY RO; [21:20] PLANE RO. -/
def Reg.crIngHi (n t : Nat) : Reg := ⟨0x1000088004 + 0x100000000 * n + 0x8 * t, 0x0⟩
/-- CR_ING_STAT: [31:16] BADCYC RC; [15:0] NODEST RC. -/
def Reg.crIngStat (n : Nat) : Reg := ⟨0x1000090000 + 0x100000000 * n, 0x0⟩
/-- CR_EGR_STAT: [15:0] NOGRP RC. -/
def Reg.crEgrStat (n : Nat) : Reg := ⟨0x1000090004 + 0x100000000 * n, 0x0⟩
/-- PM_STAT: [19:16] HOLD_FROM RO; [15] BOOT_FAIL W1C; [14] FAULT_N RO; [13] DRAINED RO; [12] WAKE_FAIL RO; [11:4] STEP RO; [3:0] MODE RO. -/
def Reg.pmStat : Reg := ⟨0x0, 0x1⟩
/-- PM_WAKE_STAT: [19:16] SRC RO; [9:8] ATTEMPTS RO; [7] FAILED W1C; [6:0] FAIL_ROW RO. -/
def Reg.pmWakeStat : Reg := ⟨0x4, 0x50000⟩
/-- PM_WAKE_CFG: [11:8] COLD_TARGET RW; [7:4] WAKE_TARGET RW; [2] PIN RW; [1] PATTERN RW; [0] ACTIVITY RW. -/
def Reg.pmWakeCfg : Reg := ⟨0x8, 0x267⟩
/-- PM_WAKE_KEY: [31:0] KEY RW. -/
def Reg.pmWakeKey : Reg := ⟨0xC, 0x0⟩
/-- PM_FAULT: [31:16] ACTIVE RO; [8] EMERGENCY W1C; [7] DRAM_HOT W1C; [6] WAKE W1C; [5] REF156B W1C; [4] REF156A W1C; [3] REF100 W1C; [2] TRIP W1C; [1] THERMAL W1C; [0] SUPPLY W1C. -/
def Reg.pmFault : Reg := ⟨0x10, 0x0⟩
/-- PM_REF_CNT0: [31] OK RO; [19:0] COUNT RO. -/
def Reg.pmRefCnt0 : Reg := ⟨0x14, 0x0⟩
/-- PM_REF_CNT1: [31] OK RO; [19:0] COUNT RO. -/
def Reg.pmRefCnt1 : Reg := ⟨0x18, 0x0⟩
/-- PM_REF_CNT2: [31] OK RO; [19:0] COUNT RO. -/
def Reg.pmRefCnt2 : Reg := ⟨0x1C, 0x0⟩
/-- PM_THERM: [23:16] HOTTEST RO; [15:8] WARN_C RW; [7:0] HOLD_C RW. -/
def Reg.pmTherm : Reg := ⟨0x24, 0x6E78⟩
/-- PM_DOM_STAT: [31] HUB RO; [30] HOST RO; [29:22] EDGE RO; [21:16] DDR RO; [15:8] CR RO; [7:0] TILE RO. -/
def Reg.pmDomStat : Reg := ⟨0x28, 0x0⟩
/-- PM_DOM_FAIL: [30] HOST W1C; [29:22] EDGE W1C; [21:16] DDR W1C; [15:8] CR W1C; [7:0] TILE W1C. -/
def Reg.pmDomFail : Reg := ⟨0x2C, 0x0⟩
/-- PM_DOM_CFG: [7:0] TILE_IDLE RW. -/
def Reg.pmDomCfg : Reg := ⟨0x30, 0x40⟩
/-- PM_BAY_FAILi: [31:0] BAYS W1C. -/
def Reg.pmBayFail (i : Nat) : Reg := ⟨0x40 + 0x4 * i, 0x0⟩
/-- PM_HUB_STARTS: [31:0] COUNT RO. -/
def Reg.pmHubStarts : Reg := ⟨0x34, 0x0⟩
/-- PM_BOOT_HB: [31:0] VALUE RW. -/
def Reg.pmBootHb : Reg := ⟨0x38, 0x0⟩
/-- MR_READY_LO: [31:0] BITS RO. -/
def Reg.mrReadyLo : Reg := ⟨0x10000, 0x0⟩
/-- MR_READY_HI: [31:0] BITS RO. -/
def Reg.mrReadyHi : Reg := ⟨0x10004, 0x0⟩
/-- MR_MODE: [31:24] LAST_STATUS RO; [23:20] STEPS RO; [13] PEND_VALID RO; [12] BUSY RO; [11:8] PENDING RO; [7:4] TARGET RO; [3:0] CURRENT RO. -/
def Reg.mrMode : Reg := ⟨0x10010, 0xFF2⟩
/-- MR_MODE_TKT: [31:0] HANDLE RO. -/
def Reg.mrModeTkt : Reg := ⟨0x10014, 0x0⟩
/-- MR_BOOT: [3:0] BOOT_TARGET RW. -/
def Reg.mrBoot : Reg := ⟨0x10018, 0x6⟩
/-- SP_Bb_CTRL: [25:24] STATE RW; [15:8] OWNER RW. -/
def Reg.spBCtrl (b : Nat) : Reg := ⟨0x80000 + 0x10 * b, 0x200FF00⟩
/-- SP_Bb_STAT: [31] WAKE_FAIL W1C; [30] FOREIGN W1C; [29] ZEROING RO; [28] HANDING RO; [25:24] POWER RO. -/
def Reg.spBStat (b : Nat) : Reg := ⟨0x80004 + 0x10 * b, 0x2000000⟩
/-- SP_Bb_ECC: [31:16] CE RC; [15:0] UE RC. -/
def Reg.spBEcc (b : Nat) : Reg := ⟨0x80008 + 0x10 * b, 0x0⟩
/-- SP_Bb_ERRADDR: [31] VALID W1C; [22:3] ADDR RO. -/
def Reg.spBErraddr (b : Nat) : Reg := ⟨0x8000C + 0x10 * b, 0x0⟩
/-- SP_PATROL: [7:0] SECONDS RW. -/
def Reg.spPatrol : Reg := ⟨0x80100, 0xA⟩
/-- EV_CTRL: [31] FLUSH W1S; [15:0] FLUSH_EPOCHS RW. -/
def Reg.evCtrl : Reg := ⟨0x20000, 0x3E8⟩
/-- EV_STAT: [31] FULL RO; [30] FLASH_ERR W1C; [29] READBACK RO; [28] HALF RO; [26:24] LOWEST RO; [13:0] DIRTY RO. -/
def Reg.evStat : Reg := ⟨0x20004, 0x0⟩
/-- EV_HELD: [13:0] RECORDS RO. -/
def Reg.evHeld : Reg := ⟨0x20008, 0x0⟩
/-- EV_DISC: [31:0] COUNT RC. -/
def Reg.evDisc : Reg := ⟨0x2000C, 0x0⟩
/-- EV_NEXT: [31:0] VALUE RO. -/
def Reg.evNext : Reg := ⟨0x20010, 0x0⟩
/-- EV_OLDEST: [31:0] VALUE RO. -/
def Reg.evOldest : Reg := ⟨0x20014, 0x0⟩
/-- EV_FLUSH_EPOCH: [31:0] VALUE RO. -/
def Reg.evFlushEpoch : Reg := ⟨0x20018, 0x0⟩
/-- FK_FW_SEL: [0] SLOT RW. -/
def Reg.fkFwSel : Reg := ⟨0x60500, 0x0⟩
/-- FK_FW_HASHw: [31:0] HASH RW. -/
def Reg.fkFwHash (w : Nat) : Reg := ⟨0x60504 + 0x4 * w, 0x0⟩
/-- FK_FW_CTRL: [1] REVOKE WO; [0] PROG WO. -/
def Reg.fkFwCtrl : Reg := ⟨0x60534, 0x0⟩
/-- FK_FW_STAT: [8] FAIL W1C; [5:4] REVOKED RO; [1:0] PROGRAMMED RO. -/
def Reg.fkFwStat : Reg := ⟨0x60538, 0x0⟩
/-- UPD_STAT: [8] CONF_REFUSED W1C; [7:6] PROMOTE RO; [5] NEXT RO; [4] FALLBACK RO; [2:0] STAGE RO. -/
def Reg.updStat : Reg := ⟨0xA0000, 0x0⟩
/-- UPD_CONFIRM: [31:0] KEY WO. -/
def Reg.updConfirm : Reg := ⟨0xA0004, 0x0⟩
/-- UPD_CFG: [15:0] CONFIRM_S RW. -/
def Reg.updCfg : Reg := ⟨0xA0008, 0x258⟩
/-- UPD_VER_ACTIVE: [31:0] VERSION RO. -/
def Reg.updVerActive : Reg := ⟨0xA000C, 0x0⟩
/-- UPD_VER_STAGED: [31:0] VERSION RO. -/
def Reg.updVerStaged : Reg := ⟨0xA0010, 0x0⟩
/-- UPD_VER_FALLBACK: [31:0] VERSION RO. -/
def Reg.updVerFallback : Reg := ⟨0xA0014, 0x0⟩
/-- UPD_PIECES: [31:0] COUNT RO. -/
def Reg.updPieces : Reg := ⟨0xA0018, 0x0⟩

/-- Register rows of block 0x0000_0000_0000. -/
def regsPm : List RegDef := [
  ⟨"PM_LODGE_IP4", .aon, 0x200, [], 0x0, [⟨"ADDR", 31, 0, .rw⟩]⟩,
  ⟨"PM_LODGE_CNT", .aon, 0x204, [], 0x0, [⟨"ANSWERED", 31, 0, .rc⟩]⟩,
  ⟨"PM_STAT", .aon, 0x0, [], 0x1, [⟨"HOLD_FROM", 19, 16, .ro⟩, ⟨"BOOT_FAIL", 15, 15, .w1c⟩, ⟨"FAULT_N", 14, 14, .ro⟩, ⟨"DRAINED", 13, 13, .ro⟩, ⟨"WAKE_FAIL", 12, 12, .ro⟩, ⟨"STEP", 11, 4, .ro⟩, ⟨"MODE", 3, 0, .ro⟩]⟩,
  ⟨"PM_WAKE_STAT", .aon, 0x4, [], 0x50000, [⟨"SRC", 19, 16, .ro⟩, ⟨"ATTEMPTS", 9, 8, .ro⟩, ⟨"FAILED", 7, 7, .w1c⟩, ⟨"FAIL_ROW", 6, 0, .ro⟩]⟩,
  ⟨"PM_WAKE_CFG", .aon, 0x8, [], 0x267, [⟨"COLD_TARGET", 11, 8, .rw⟩, ⟨"WAKE_TARGET", 7, 4, .rw⟩, ⟨"PIN", 2, 2, .rw⟩, ⟨"PATTERN", 1, 1, .rw⟩, ⟨"ACTIVITY", 0, 0, .rw⟩]⟩,
  ⟨"PM_WAKE_KEY", .aon, 0xC, [], 0x0, [⟨"KEY", 31, 0, .rw⟩]⟩,
  ⟨"PM_FAULT", .aon, 0x10, [], 0x0, [⟨"ACTIVE", 31, 16, .ro⟩, ⟨"EMERGENCY", 8, 8, .w1c⟩, ⟨"DRAM_HOT", 7, 7, .w1c⟩, ⟨"WAKE", 6, 6, .w1c⟩, ⟨"REF156B", 5, 5, .w1c⟩, ⟨"REF156A", 4, 4, .w1c⟩, ⟨"REF100", 3, 3, .w1c⟩, ⟨"TRIP", 2, 2, .w1c⟩, ⟨"THERMAL", 1, 1, .w1c⟩, ⟨"SUPPLY", 0, 0, .w1c⟩]⟩,
  ⟨"PM_REF_CNT0", .aon, 0x14, [], 0x0, [⟨"OK", 31, 31, .ro⟩, ⟨"COUNT", 19, 0, .ro⟩]⟩,
  ⟨"PM_REF_CNT1", .aon, 0x18, [], 0x0, [⟨"OK", 31, 31, .ro⟩, ⟨"COUNT", 19, 0, .ro⟩]⟩,
  ⟨"PM_REF_CNT2", .aon, 0x1C, [], 0x0, [⟨"OK", 31, 31, .ro⟩, ⟨"COUNT", 19, 0, .ro⟩]⟩,
  ⟨"PM_THERM", .aon, 0x24, [], 0x6E78, [⟨"HOTTEST", 23, 16, .ro⟩, ⟨"WARN_C", 15, 8, .rw⟩, ⟨"HOLD_C", 7, 0, .rw⟩]⟩,
  ⟨"PM_DOM_STAT", .aon, 0x28, [], 0x0, [⟨"HUB", 31, 31, .ro⟩, ⟨"HOST", 30, 30, .ro⟩, ⟨"EDGE", 29, 22, .ro⟩, ⟨"DDR", 21, 16, .ro⟩, ⟨"CR", 15, 8, .ro⟩, ⟨"TILE", 7, 0, .ro⟩]⟩,
  ⟨"PM_DOM_FAIL", .aon, 0x2C, [], 0x0, [⟨"HOST", 30, 30, .w1c⟩, ⟨"EDGE", 29, 22, .w1c⟩, ⟨"DDR", 21, 16, .w1c⟩, ⟨"CR", 15, 8, .w1c⟩, ⟨"TILE", 7, 0, .w1c⟩]⟩,
  ⟨"PM_DOM_CFG", .aon, 0x30, [], 0x40, [⟨"TILE_IDLE", 7, 0, .rw⟩]⟩,
  ⟨"PM_BAY_FAILi", .aon, 0x40, [(0x4, 16)], 0x0, [⟨"BAYS", 31, 0, .w1c⟩]⟩,
  ⟨"PM_HUB_STARTS", .aon, 0x34, [], 0x0, [⟨"COUNT", 31, 0, .ro⟩]⟩,
  ⟨"PM_BOOT_HB", .aon, 0x38, [], 0x0, [⟨"VALUE", 31, 0, .rw⟩]⟩]

/-- Register rows of block 0x0000_0001_0000. -/
def regsMr : List RegDef := [
  ⟨"MR_EPOCH_LO", .hub, 0x10080, [], 0x0, [⟨"EPOCH_LO", 31, 0, .ro⟩]⟩,
  ⟨"MR_EPOCH_HI", .hub, 0x10084, [], 0x0, [⟨"EPOCH_HI", 31, 0, .ro⟩]⟩,
  ⟨"MR_EPOCH_STAT", .hub, 0x10088, [], 0x0, [⟨"SRC_SLOW", 1, 1, .ro⟩, ⟨"RUNNING", 0, 0, .ro⟩]⟩,
  ⟨"MR_READY_LO", .hub, 0x10000, [], 0x0, [⟨"BITS", 31, 0, .ro⟩]⟩,
  ⟨"MR_READY_HI", .hub, 0x10004, [], 0x0, [⟨"BITS", 31, 0, .ro⟩]⟩,
  ⟨"MR_MODE", .hub, 0x10010, [], 0xFF2, [⟨"LAST_STATUS", 31, 24, .ro⟩, ⟨"STEPS", 23, 20, .ro⟩, ⟨"PEND_VALID", 13, 13, .ro⟩, ⟨"BUSY", 12, 12, .ro⟩, ⟨"PENDING", 11, 8, .ro⟩, ⟨"TARGET", 7, 4, .ro⟩, ⟨"CURRENT", 3, 0, .ro⟩]⟩,
  ⟨"MR_MODE_TKT", .hub, 0x10014, [], 0x0, [⟨"HANDLE", 31, 0, .ro⟩]⟩,
  ⟨"MR_BOOT", .hub, 0x10018, [], 0x6, [⟨"BOOT_TARGET", 3, 0, .rw⟩]⟩]

/-- Register rows of block 0x0000_0002_0000. -/
def regsEv : List RegDef := [
  ⟨"EV_CTRL", .hub, 0x20000, [], 0x3E8, [⟨"FLUSH", 31, 31, .w1s⟩, ⟨"FLUSH_EPOCHS", 15, 0, .rw⟩]⟩,
  ⟨"EV_STAT", .hub, 0x20004, [], 0x0, [⟨"FULL", 31, 31, .ro⟩, ⟨"FLASH_ERR", 30, 30, .w1c⟩, ⟨"READBACK", 29, 29, .ro⟩, ⟨"HALF", 28, 28, .ro⟩, ⟨"LOWEST", 26, 24, .ro⟩, ⟨"DIRTY", 13, 0, .ro⟩]⟩,
  ⟨"EV_HELD", .hub, 0x20008, [], 0x0, [⟨"RECORDS", 13, 0, .ro⟩]⟩,
  ⟨"EV_DISC", .hub, 0x2000C, [], 0x0, [⟨"COUNT", 31, 0, .rc⟩]⟩,
  ⟨"EV_NEXT", .hub, 0x20010, [], 0x0, [⟨"VALUE", 31, 0, .ro⟩]⟩,
  ⟨"EV_OLDEST", .hub, 0x20014, [], 0x0, [⟨"VALUE", 31, 0, .ro⟩]⟩,
  ⟨"EV_FLUSH_EPOCH", .hub, 0x20018, [], 0x0, [⟨"VALUE", 31, 0, .ro⟩]⟩]

/-- Register rows of block 0x0000_0003_0000. -/
def regsTal : List RegDef := [
  ⟨"TAL_CTRL", .hub, 0x30000, [], 0x1, [⟨"AUDIT_EN", 0, 0, .rw⟩]⟩,
  ⟨"TAL_STAT", .hub, 0x30004, [], 0x0, [⟨"FAULT", 31, 31, .w1c⟩, ⟨"OUTSIDE", 30, 30, .ro⟩, ⟨"ROOT_BAD", 29, 29, .ro⟩, ⟨"LEDGERS_BAD", 8, 0, .ro⟩]⟩,
  ⟨"TAL_EPOCHS", .hub, 0x30008, [], 0x0, [⟨"AUDITED", 31, 0, .ro⟩]⟩,
  ⟨"TAL_DISC", .hub, 0x3000C, [], 0x0, [⟨"COUNT", 31, 0, .rc⟩]⟩,
  ⟨"TAL_LAST", .hub, 0x30010, [], 0x0, [⟨"VALID", 31, 31, .w1c⟩, ⟨"OUTSIDE", 30, 30, .ro⟩, ⟨"LEDGER", 8, 0, .ro⟩]⟩,
  ⟨"TAL_LAST_DEV", .hub, 0x30014, [], 0x0, [⟨"VALUE", 31, 0, .ro⟩]⟩,
  ⟨"TAL_LAST_EPOCH", .hub, 0x30018, [], 0x0, [⟨"VALUE", 31, 0, .ro⟩]⟩,
  ⟨"TAL_REPAIR", .hub, 0x3001C, [], 0x0, [⟨"LEAF", 31, 16, .rc⟩, ⟨"REBUILD", 15, 8, .rc⟩, ⟨"NODE", 7, 0, .rc⟩]⟩,
  ⟨"TAL_MISSING", .hub, 0x30020, [], 0x0, [⟨"COUNT", 31, 0, .rc⟩]⟩,
  ⟨"TAL_OVERRUN", .hub, 0x30024, [], 0x0, [⟨"COUNT", 31, 0, .rc⟩]⟩,
  ⟨"TAL_LEDGERl_INFO", .hub, 0x31000, [(0x10, 384)], 0x0, [⟨"VALID", 31, 31, .ro⟩, ⟨"AUDITED", 30, 30, .ro⟩, ⟨"SKIPPED", 29, 29, .ro⟩, ⟨"LEAVES", 28, 24, .ro⟩, ⟨"CLASS", 23, 20, .ro⟩]⟩,
  ⟨"TAL_LEDGERl_EXPECT", .hub, 0x31004, [(0x10, 384)], 0x0, [⟨"VALUE", 31, 0, .ro⟩]⟩,
  ⟨"TAL_LEDGERl_SIGN", .hub, 0x31008, [(0x10, 384)], 0x0, [⟨"VALUE", 31, 0, .ro⟩]⟩,
  ⟨"TAL_LEDGERl_DEV", .hub, 0x3100C, [(0x10, 384)], 0x0, [⟨"VALUE", 31, 0, .ro⟩]⟩,
  ⟨"TAL_GROUPk_DEV", .hub, 0x32800, [(0x8, 24)], 0x0, [⟨"VALUE", 31, 0, .ro⟩]⟩,
  ⟨"TAL_GROUPk_BAD", .hub, 0x32804, [(0x8, 24)], 0x0, [⟨"BAD", 0, 0, .ro⟩]⟩,
  ⟨"TAL_ROOT_DEV", .hub, 0x328C0, [], 0x0, [⟨"VALUE", 31, 0, .ro⟩]⟩,
  ⟨"TAL_ROOT_BAD", .hub, 0x328C4, [], 0x0, [⟨"BAD", 0, 0, .ro⟩]⟩,
  ⟨"TAL_LEAFj", .hub, 0x34000, [(0x4, 12288)], 0x0, [⟨"VALUE", 31, 0, .ro⟩]⟩]

/-- Register rows of block 0x0000_0004_0000. -/
def regsRnd : List RegDef := [
  ⟨"RND_TIMEOUT", .rnd, 0x40000, [], 0x7D0, [⟨"US", 15, 0, .rw⟩]⟩,
  ⟨"RND_EPOCH", .rnd, 0x40004, [], 0x4, [⟨"REFUSED", 3, 3, .w1c⟩, ⟨"DRAINED", 2, 2, .ro⟩, ⟨"SWITCH", 1, 1, .w1s⟩, ⟨"CUR", 0, 0, .ro⟩]⟩,
  ⟨"RND_LASTERR", .rnd, 0x40008, [], 0x0, [⟨"VALID", 31, 31, .w1c⟩, ⟨"KIND", 30, 29, .ro⟩, ⟨"DST", 28, 24, .ro⟩, ⟨"MID", 23, 16, .ro⟩, ⟨"STOP", 4, 0, .ro⟩]⟩,
  ⟨"RND_RTb_s_t", .rnd, 0x41000, [(0x1000, 2), (0x80, 18), (0x4, 18)], 0xFF, [⟨"DIR", 8, 8, .rw⟩, ⟨"RING_MASK", 7, 0, .rw⟩]⟩,
  ⟨"RND_Ss_DEAD", .rnd, 0x44000, [(0x40, 18)], 0x0, [⟨"COUNT", 31, 0, .rc⟩]⟩,
  ⟨"RND_Ss_LATE", .rnd, 0x44004, [(0x40, 18)], 0x0, [⟨"COUNT", 31, 0, .rc⟩]⟩,
  ⟨"RND_Ss_TO", .rnd, 0x44008, [(0x40, 18)], 0x0, [⟨"COUNT", 31, 0, .rc⟩]⟩,
  ⟨"RND_Ss_RETRY", .rnd, 0x44010, [(0x40, 18)], 0x0, [⟨"COUNT", 31, 0, .rc⟩]⟩,
  ⟨"RND_Ss_PR", .rnd, 0x4400C, [(0x40, 18)], 0x0, [⟨"RETURNED", 31, 16, .rc⟩, ⟨"HWM", 14, 8, .rc⟩, ⟨"OCC", 6, 0, .ro⟩]⟩,
  ⟨"RND_Ss_LINK", .rnd, 0x44014, [(0x40, 18)], 0x0, [⟨"TRAINING", 31, 16, .ro⟩, ⟨"FAIL", 15, 0, .ro⟩]⟩,
  ⟨"RND_Ss_OUT", .rnd, 0x44018, [(0x40, 18)], 0x0, [⟨"HWM", 27, 16, .rc⟩, ⟨"OCC", 11, 0, .ro⟩]⟩]

/-- Register rows of block 0x0000_0005_0000. -/
def regsVl : List RegDef := [
  ⟨"VL_CFG", .hub, 0x50000, [], 0x3C, [⟨"TICKET_HOLD", 7, 0, .rw⟩]⟩,
  ⟨"VL_LPk_CFG", .hub, 0x50100, [(0x40, 9)], 0x0, [⟨"EN", 31, 31, .rw⟩, ⟨"JUMBO", 30, 30, .rw⟩, ⟨"SRC", 29, 28, .rw⟩, ⟨"SPLIT", 27, 26, .rw⟩, ⟨"PMD", 25, 24, .rw⟩, ⟨"VID", 23, 12, .rw⟩]⟩,
  ⟨"VL_LPk_STAT", .hub, 0x50104, [(0x40, 9)], 0x0, [⟨"LINK", 31, 31, .ro⟩, ⟨"ADDR4", 30, 30, .ro⟩, ⟨"SERVING", 29, 29, .ro⟩]⟩,
  ⟨"VL_LPk_MAC_LO", .hub, 0x50108, [(0x40, 9)], 0x0, [⟨"MAC", 31, 0, .ro⟩]⟩,
  ⟨"VL_LPk_MAC_HI", .hub, 0x5010C, [(0x40, 9)], 0x0, [⟨"MAC", 15, 0, .ro⟩]⟩,
  ⟨"VL_LPk_IP4", .hub, 0x50110, [(0x40, 9)], 0x0, [⟨"ADDR", 31, 0, .rw⟩]⟩,
  ⟨"VL_LPk_IP6_w", .hub, 0x50114, [(0x40, 9), (0x4, 4)], 0x0, [⟨"ADDR", 31, 0, .rw⟩]⟩,
  ⟨"VL_LPk_RX", .hub, 0x50124, [(0x40, 9)], 0x0, [⟨"COUNT", 31, 0, .rc⟩]⟩,
  ⟨"VL_LPk_BUSY", .hub, 0x50128, [(0x40, 9)], 0x0, [⟨"COUNT", 31, 0, .rc⟩]⟩,
  ⟨"VL_LPk_DROP", .hub, 0x5012C, [(0x40, 9)], 0x0, [⟨"NOT_INTACT", 31, 16, .rc⟩, ⟨"OTHER", 15, 0, .rc⟩]⟩,
  ⟨"VL_LPk_PAUSE", .hub, 0x50130, [(0x40, 9)], 0x0, [⟨"PAUSE", 31, 16, .rc⟩, ⟨"PFC", 15, 0, .rc⟩]⟩,
  ⟨"VL_TKTi_LO", .hub, 0x58000, [(0x8, 4096)], 0x0, [⟨"WORD", 31, 0, .ro⟩]⟩,
  ⟨"VL_TKTi_HI", .hub, 0x58004, [(0x8, 4096)], 0x0, [⟨"WORD", 31, 0, .ro⟩]⟩]

/-- Register rows of block 0x0000_0006_0000. -/
def regsFk : List RegDef := [
  ⟨"FK_UNLOCK", .hub, 0x60400, [], 0x0, [⟨"KEY", 31, 0, .wo⟩]⟩,
  ⟨"FK_STAT", .hub, 0x60404, [], 0x0, [⟨"LOCKED", 1, 1, .w1c⟩, ⟨"OPEN", 0, 0, .ro⟩]⟩,
  ⟨"FK_FKEYw", .hub, 0x60410, [(0x4, 8)], 0x0, [⟨"KEY", 31, 0, .wo⟩]⟩,
  ⟨"FK_BKEYw", .hub, 0x60440, [(0x4, 8)], 0x0, [⟨"KEY", 31, 0, .wo⟩]⟩,
  ⟨"FK_FKEY_CTRL", .hub, 0x60430, [], 0x0, [⟨"FORBID_BKEY", 1, 1, .wo⟩, ⟨"PROG", 0, 0, .wo⟩]⟩,
  ⟨"FK_FKEY_STAT", .hub, 0x60434, [], 0x0, [⟨"BKEY_FORBID", 3, 3, .ro⟩, ⟨"FAIL", 2, 2, .w1c⟩, ⟨"BUSY", 1, 1, .ro⟩, ⟨"PROGRAMMED", 0, 0, .ro⟩]⟩,
  ⟨"FK_FKEY_KCV", .hub, 0x60438, [], 0x0, [⟨"KCV", 31, 0, .ro⟩]⟩,
  ⟨"FK_BKEY_KCV", .hub, 0x60468, [], 0x0, [⟨"KCV", 31, 0, .ro⟩]⟩,
  ⟨"FK_BKEY_CTRL", .hub, 0x60460, [], 0x0, [⟨"ERASE", 1, 1, .wo⟩, ⟨"COMMIT", 0, 0, .wo⟩]⟩,
  ⟨"FK_BKEY_STAT", .vbat, 0x60464, [], 0x2, [⟨"VBAT_OK", 2, 2, .ro⟩, ⟨"LOST", 1, 1, .w1c⟩, ⟨"VALID", 0, 0, .ro⟩]⟩,
  ⟨"FK_IMG_SEL", .hub, 0x60480, [], 0x0, [⟨"SLOT", 1, 0, .rw⟩]⟩,
  ⟨"FK_IMG_HASHw", .hub, 0x60484, [(0x4, 12)], 0x0, [⟨"HASH", 31, 0, .rw⟩]⟩,
  ⟨"FK_IMG_CTRL", .hub, 0x604B4, [], 0x0, [⟨"REVOKE", 1, 1, .wo⟩, ⟨"PROG", 0, 0, .wo⟩]⟩,
  ⟨"FK_IMG_STAT", .hub, 0x604B8, [], 0x0, [⟨"FAIL", 8, 8, .w1c⟩, ⟨"REVOKED", 7, 4, .ro⟩, ⟨"PROGRAMMED", 3, 0, .ro⟩]⟩,
  ⟨"FK_FW_SEL", .hub, 0x60500, [], 0x0, [⟨"SLOT", 0, 0, .rw⟩]⟩,
  ⟨"FK_FW_HASHw", .hub, 0x60504, [(0x4, 12)], 0x0, [⟨"HASH", 31, 0, .rw⟩]⟩,
  ⟨"FK_FW_CTRL", .hub, 0x60534, [], 0x0, [⟨"REVOKE", 1, 1, .wo⟩, ⟨"PROG", 0, 0, .wo⟩]⟩,
  ⟨"FK_FW_STAT", .hub, 0x60538, [], 0x0, [⟨"FAIL", 8, 8, .w1c⟩, ⟨"REVOKED", 5, 4, .ro⟩, ⟨"PROGRAMMED", 1, 0, .ro⟩]⟩]

/-- Register rows of block 0x0000_0007_0000. -/
def regsIc : List RegDef := [
  ⟨"IC_STAT", .hub, 0x70000, [], 0x0, [⟨"ALARM", 31, 31, .w1c⟩, ⟨"ROOT_VALID", 30, 30, .ro⟩, ⟨"REFUSED", 29, 29, .w1c⟩, ⟨"REKEYS", 2, 0, .ro⟩]⟩,
  ⟨"IC_ALARM_INFO", .hub, 0x70004, [], 0x0, [⟨"VALID", 31, 31, .w1c⟩, ⟨"KIND", 30, 29, .ro⟩, ⟨"MASTER", 23, 16, .ro⟩, ⟨"REGION", 15, 8, .ro⟩]⟩,
  ⟨"IC_ALARM_ADDR_LO", .hub, 0x70008, [], 0x0, [⟨"ADDR", 31, 0, .ro⟩]⟩,
  ⟨"IC_ALARM_ADDR_HI", .hub, 0x7000C, [], 0x0, [⟨"ADDR", 15, 0, .ro⟩]⟩,
  ⟨"IC_TAGFAIL", .hub, 0x70010, [], 0x0, [⟨"COUNT", 31, 0, .rc⟩]⟩,
  ⟨"IC_CR_EN", .hub, 0x70014, [], 0x0, [⟨"TILES", 7, 0, .rw⟩]⟩,
  ⟨"IC_CR_KEYw", .hub, 0x70018, [(0x4, 4)], 0x0, [⟨"KEY", 31, 0, .wo⟩]⟩,
  ⟨"IC_Rr_CTRL", .hub, 0x71000, [(0x40, 256)], 0x0, [⟨"EN", 31, 31, .rw⟩, ⟨"ZERO", 30, 30, .w1s⟩, ⟨"REKEY", 29, 29, .w1s⟩, ⟨"MODE", 1, 0, .rw⟩]⟩,
  ⟨"IC_Rr_STAT", .hub, 0x71004, [(0x40, 256)], 0x0, [⟨"FILLING", 31, 31, .ro⟩, ⟨"REKEYING", 30, 30, .ro⟩, ⟨"AGAIN", 29, 29, .ro⟩, ⟨"EPOCH_END", 28, 28, .w1c⟩]⟩,
  ⟨"IC_Rr_BASE_LO", .hub, 0x71008, [(0x40, 256)], 0x0, [⟨"VALUE", 31, 12, .rw⟩]⟩,
  ⟨"IC_Rr_BASE_HI", .hub, 0x7100C, [(0x40, 256)], 0x0, [⟨"VALUE", 15, 0, .rw⟩]⟩,
  ⟨"IC_Rr_LIMIT_LO", .hub, 0x71010, [(0x40, 256)], 0x0, [⟨"VALUE", 31, 12, .rw⟩]⟩,
  ⟨"IC_Rr_LIMIT_HI", .hub, 0x71014, [(0x40, 256)], 0x0, [⟨"VALUE", 15, 0, .rw⟩]⟩,
  ⟨"IC_Rr_TAG_LO", .hub, 0x71018, [(0x40, 256)], 0x0, [⟨"VALUE", 31, 12, .rw⟩]⟩,
  ⟨"IC_Rr_TAG_HI", .hub, 0x7101C, [(0x40, 256)], 0x0, [⟨"VALUE", 15, 0, .rw⟩]⟩,
  ⟨"IC_Rr_WCNT", .hub, 0x71020, [(0x40, 256)], 0x0, [⟨"VALUE", 31, 0, .ro⟩]⟩,
  ⟨"IC_Rr_EPOCH", .hub, 0x71024, [(0x40, 256)], 0x0, [⟨"VALUE", 31, 0, .ro⟩]⟩,
  ⟨"IC_Rr_POS_LO", .hub, 0x71028, [(0x40, 256)], 0x0, [⟨"VALUE", 31, 0, .ro⟩]⟩,
  ⟨"IC_Rr_POS_HI", .hub, 0x7102C, [(0x40, 256)], 0x0, [⟨"VALUE", 31, 0, .ro⟩]⟩]

/-- Register rows of block 0x0000_0008_0000. -/
def regsSp : List RegDef := [
  ⟨"SP_Bb_CTRL", .hub, 0x80000, [(0x10, 16)], 0x200FF00, [⟨"STATE", 25, 24, .rw⟩, ⟨"OWNER", 15, 8, .rw⟩]⟩,
  ⟨"SP_Bb_STAT", .hub, 0x80004, [(0x10, 16)], 0x2000000, [⟨"WAKE_FAIL", 31, 31, .w1c⟩, ⟨"FOREIGN", 30, 30, .w1c⟩, ⟨"ZEROING", 29, 29, .ro⟩, ⟨"HANDING", 28, 28, .ro⟩, ⟨"POWER", 25, 24, .ro⟩]⟩,
  ⟨"SP_Bb_ECC", .hub, 0x80008, [(0x10, 16)], 0x0, [⟨"CE", 31, 16, .rc⟩, ⟨"UE", 15, 0, .rc⟩]⟩,
  ⟨"SP_Bb_ERRADDR", .hub, 0x8000C, [(0x10, 16)], 0x0, [⟨"VALID", 31, 31, .w1c⟩, ⟨"ADDR", 22, 3, .ro⟩]⟩,
  ⟨"SP_PATROL", .hub, 0x80100, [], 0xA, [⟨"SECONDS", 7, 0, .rw⟩]⟩]

/-- Register rows of block 0x0000_0009_0000. -/
def regsDbg : List RegDef := [
  ⟨"DBG_MODE_REQ", .dbg, 0x90010, [], 0x0, [⟨"MODE", 3, 0, .wo⟩]⟩,
  ⟨"DBG_MODE_STAT", .dbg, 0x90014, [], 0x1, [⟨"PEND_VALID", 8, 8, .ro⟩, ⟨"PENDING", 7, 4, .ro⟩, ⟨"CURRENT", 3, 0, .ro⟩]⟩,
  ⟨"DBG_Cc_CTRL", .dbg, 0x90100, [(0x100, 4)], 0x0, [⟨"GROUP", 5, 5, .rw⟩, ⟨"HALT_ON_RESET", 4, 4, .rw⟩, ⟨"STEP_IRQ", 3, 3, .rw⟩, ⟨"STEP", 2, 2, .wo⟩, ⟨"RESUME", 1, 1, .wo⟩, ⟨"HALT", 0, 0, .wo⟩]⟩,
  ⟨"DBG_Cc_STAT", .dbg, 0x90104, [(0x100, 4)], 0x100, [⟨"CTXID", 31, 16, .ro⟩, ⟨"OFF", 8, 8, .ro⟩, ⟨"PEND", 7, 7, .ro⟩, ⟨"CMP", 6, 4, .ro⟩, ⟨"CAUSE", 3, 1, .ro⟩, ⟨"HALTED", 0, 0, .ro⟩]⟩,
  ⟨"DBG_Cc_REGSEL", .dbg, 0x90108, [(0x100, 4)], 0x0, [⟨"INDEX", 5, 0, .rw⟩]⟩,
  ⟨"DBG_Cc_REGDATA_LO", .dbg, 0x9010C, [(0x100, 4)], 0x0, [⟨"DATA", 31, 0, .rw⟩]⟩,
  ⟨"DBG_Cc_REGDATA_HI", .dbg, 0x90110, [(0x100, 4)], 0x0, [⟨"DATA", 31, 0, .rw⟩]⟩,
  ⟨"DBG_Cc_LB_TX", .dbg, 0x90114, [(0x100, 4)], 0x0, [⟨"WORD", 31, 0, .rw⟩]⟩,
  ⟨"DBG_Cc_LB_RX", .dbg, 0x90118, [(0x100, 4)], 0x0, [⟨"WORD", 31, 0, .rw⟩]⟩,
  ⟨"DBG_Cc_LB_STAT", .dbg, 0x9011C, [(0x100, 4)], 0x0, [⟨"RX_IE", 4, 4, .rw⟩, ⟨"RX_OVF", 3, 3, .w1c⟩, ⟨"TX_OVF", 2, 2, .w1c⟩, ⟨"RX_FULL", 1, 1, .ro⟩, ⟨"TX_FULL", 0, 0, .ro⟩]⟩,
  ⟨"DBG_Cc_CMPk_CTRL", .dbg, 0x90140, [(0x100, 4), (0x10, 8)], 0x0, [⟨"EN", 31, 31, .rw⟩, ⟨"TYPE", 30, 29, .rw⟩, ⟨"RANGE", 28, 28, .rw⟩, ⟨"LINK_EN", 27, 27, .rw⟩, ⟨"LINK", 26, 24, .rw⟩, ⟨"CTX_KIND", 23, 22, .rw⟩, ⟨"ACTION", 21, 20, .rw⟩, ⟨"HIT", 19, 19, .w1c⟩, ⟨"CTX_ID", 13, 0, .rw⟩]⟩,
  ⟨"DBG_Cc_CMPk_ADDR_LO", .dbg, 0x90144, [(0x100, 4), (0x10, 8)], 0x0, [⟨"ADDR", 31, 0, .rw⟩]⟩,
  ⟨"DBG_Cc_CMPk_ADDR_HI", .dbg, 0x90148, [(0x100, 4), (0x10, 8)], 0x0, [⟨"ADDR", 15, 0, .rw⟩]⟩,
  ⟨"DBG_WDTc_LOAD", .hub, 0x90800, [(0x10, 4)], 0x7A120, [⟨"VALUE", 31, 0, .rw⟩]⟩,
  ⟨"DBG_WDTc_COUNT", .hub, 0x90804, [(0x10, 4)], 0x7A120, [⟨"VALUE", 31, 0, .ro⟩]⟩,
  ⟨"DBG_WDTc_KICK", .hub, 0x90808, [(0x10, 4)], 0x0, [⟨"VALUE", 31, 0, .wo⟩]⟩,
  ⟨"DBG_WDTc_STAT", .hub, 0x9080C, [(0x10, 4)], 0x0, [⟨"RELOADED", 3, 3, .w1c⟩, ⟨"EXPIRED", 2, 2, .w1c⟩, ⟨"FROZEN", 1, 1, .ro⟩, ⟨"EN", 0, 0, .rw⟩]⟩]

/-- Register rows of block 0x0000_000A_0000. -/
def regsUpd : List RegDef := [
  ⟨"UPD_STAT", .hub, 0xA0000, [], 0x0, [⟨"CONF_REFUSED", 8, 8, .w1c⟩, ⟨"PROMOTE", 7, 6, .ro⟩, ⟨"NEXT", 5, 5, .ro⟩, ⟨"FALLBACK", 4, 4, .ro⟩, ⟨"STAGE", 2, 0, .ro⟩]⟩,
  ⟨"UPD_CONFIRM", .hub, 0xA0004, [], 0x0, [⟨"KEY", 31, 0, .wo⟩]⟩,
  ⟨"UPD_CFG", .hub, 0xA0008, [], 0x258, [⟨"CONFIRM_S", 15, 0, .rw⟩]⟩,
  ⟨"UPD_VER_ACTIVE", .hub, 0xA000C, [], 0x0, [⟨"VERSION", 31, 0, .ro⟩]⟩,
  ⟨"UPD_VER_STAGED", .hub, 0xA0010, [], 0x0, [⟨"VERSION", 31, 0, .ro⟩]⟩,
  ⟨"UPD_VER_FALLBACK", .hub, 0xA0014, [], 0x0, [⟨"VERSION", 31, 0, .ro⟩]⟩,
  ⟨"UPD_PIECES", .hub, 0xA0018, [], 0x0, [⟨"COUNT", 31, 0, .ro⟩]⟩]

/-- Register rows of block 0x0000_0010_0000. -/
def regsSo : List RegDef := [
  ⟨"SO_CTRL", .hub, 0x100000, [], 0x1, [⟨"PM_INVAL", 1, 1, .w1s⟩, ⟨"EN", 0, 0, .rw⟩]⟩,
  ⟨"SO_STAT", .hub, 0x100004, [], 0x200800, [⟨"EXCL", 23, 23, .ro⟩, ⟨"FROZEN", 22, 22, .ro⟩, ⟨"FREE_BAYS", 21, 12, .ro⟩, ⟨"FREE_BP", 11, 0, .ro⟩]⟩,
  ⟨"SO_POL_WEIGHT", .hub, 0x100010, [], 0x10080201, [⟨"W_HOP", 31, 24, .rw⟩, ⟨"W_SHARE", 23, 16, .rw⟩, ⟨"W_FRAG", 15, 8, .rw⟩, ⟨"W_WAKE", 7, 0, .rw⟩]⟩,
  ⟨"SO_POL_QUANTUM", .hub, 0x100014, [], 0x32, [⟨"Q", 15, 0, .rw⟩]⟩,
  ⟨"SO_POL_AGE", .hub, 0x100018, [], 0x8, [⟨"STEP", 7, 0, .rw⟩]⟩,
  ⟨"SO_POL_SCHED", .hub, 0x10001C, [], 0x1041, [⟨"IDLE_EPOCHS", 15, 8, .rw⟩, ⟨"MAX_PLACE", 7, 4, .rw⟩, ⟨"BACKFILL", 0, 0, .rw⟩]⟩,
  ⟨"SO_PS_CFG", .hub, 0x100020, [], 0x10, [⟨"LIMIT_GIB", 4, 0, .rw⟩]⟩,
  ⟨"SO_PM_STAT", .hub, 0x100030, [], 0x0, [⟨"CHECK_FAIL", 31, 16, .rc⟩]⟩,
  ⟨"SO_PM_MISS", .hub, 0x100034, [], 0x0, [⟨"MISS", 31, 0, .rc⟩]⟩,
  ⟨"SO_LAST_FAIL", .hub, 0x100040, [], 0x0, [⟨"VALID", 31, 31, .w1c⟩, ⟨"FRAG", 30, 30, .ro⟩, ⟨"REASON", 27, 24, .ro⟩, ⟨"RUN", 23, 12, .ro⟩, ⟨"GROUP", 10, 0, .ro⟩]⟩,
  ⟨"SO_SWITCH_US", .hub, 0x100044, [], 0x0, [⟨"US", 31, 0, .ro⟩]⟩,
  ⟨"SO_EVICT", .hub, 0x100048, [], 0x0, [⟨"PREEMPT", 31, 16, .rc⟩, ⟨"EVICT", 15, 0, .rc⟩]⟩,
  ⟨"SO_BRIDGE_j_d_s", .hub, 0x100400, [(0x20, 10), (0x10, 2), (0x4, 4)], 0x0, [⟨"LOAD", 8, 0, .ro⟩]⟩,
  ⟨"TRG_u_CTRL", .hub, 0x1C0000, [(0x40, 64)], 0x1000000, [⟨"EN", 31, 31, .rw⟩, ⟨"MODE", 30, 28, .rw⟩, ⟨"ACTION", 27, 25, .rw⟩, ⟨"HEAD", 24, 24, .rw⟩, ⟨"ARM_BY", 23, 18, .rw⟩, ⟨"RUN", 11, 0, .rw⟩]⟩,
  ⟨"TRG_u_MASK_LO", .hub, 0x1C0004, [(0x40, 64)], 0x0, [⟨"VALUE", 31, 0, .rw⟩]⟩,
  ⟨"TRG_u_MASK_HI", .hub, 0x1C0008, [(0x40, 64)], 0x0, [⟨"VALUE", 31, 0, .rw⟩]⟩,
  ⟨"TRG_u_LOW_LO", .hub, 0x1C000C, [(0x40, 64)], 0x0, [⟨"VALUE", 31, 0, .rw⟩]⟩,
  ⟨"TRG_u_LOW_HI", .hub, 0x1C0010, [(0x40, 64)], 0x0, [⟨"VALUE", 31, 0, .rw⟩]⟩,
  ⟨"TRG_u_HIGH_LO", .hub, 0x1C0014, [(0x40, 64)], 0x0, [⟨"VALUE", 31, 0, .rw⟩]⟩,
  ⟨"TRG_u_HIGH_HI", .hub, 0x1C0018, [(0x40, 64)], 0x0, [⟨"VALUE", 31, 0, .rw⟩]⟩,
  ⟨"TRG_u_PARAM", .hub, 0x1C001C, [(0x40, 64)], 0x400001, [⟨"OFFSET", 31, 16, .rw⟩, ⟨"COUNT", 15, 0, .rw⟩]⟩,
  ⟨"TRG_u_WITHIN", .hub, 0x1C0020, [(0x40, 64)], 0x0, [⟨"CYCLES", 31, 0, .rw⟩]⟩,
  ⟨"TRG_u_SNAP", .hub, 0x1C0024, [(0x40, 64)], 0x0, [⟨"ID", 9, 0, .rw⟩]⟩,
  ⟨"TRG_u_STAT", .hub, 0x1C0028, [(0x40, 64)], 0x0, [⟨"FIRED", 31, 31, .w1c⟩, ⟨"ARMED", 30, 30, .ro⟩, ⟨"LOADED", 29, 29, .ro⟩, ⟨"SPLIT", 28, 28, .ro⟩, ⟨"NOSLOT", 27, 27, .ro⟩, ⟨"CHAIN_ERR", 26, 26, .ro⟩, ⟨"ACT_FAIL", 25, 25, .w1c⟩, ⟨"HITS", 15, 0, .ro⟩]⟩,
  ⟨"TRG_u_FIRE_DCC_LO", .hub, 0x1C002C, [(0x40, 64)], 0x0, [⟨"DCC", 31, 0, .ro⟩]⟩,
  ⟨"TRG_u_FIRE_DCC_HI", .hub, 0x1C0030, [(0x40, 64)], 0x0, [⟨"DCC", 31, 0, .ro⟩]⟩,
  ⟨"TRG_u_TAPi", .hub, 0x1C1000, [(0x100, 64), (0x4, 64)], 0x0, [⟨"VALID", 31, 31, .rw⟩, ⟨"OUT", 30, 30, .rw⟩, ⟨"CELL", 29, 26, .rw⟩, ⟨"CLUSTER", 25, 13, .rw⟩, ⟨"PAGE_NO", 10, 0, .rw⟩]⟩,
  ⟨"TRG_FIRED_LO", .hub, 0x1C5000, [], 0x0, [⟨"UNITS", 31, 0, .rc⟩]⟩,
  ⟨"TRG_FIRED_HI", .hub, 0x1C5004, [], 0x0, [⟨"UNITS", 31, 0, .rc⟩]⟩,
  ⟨"TRG_LAST", .hub, 0x1C5008, [], 0x0, [⟨"VALID", 31, 31, .w1c⟩, ⟨"UNIT", 25, 20, .ro⟩, ⟨"RUN", 11, 0, .ro⟩]⟩,
  ⟨"TRG_LAST_GAP", .hub, 0x1C500C, [], 0x0, [⟨"CYCLES", 31, 0, .ro⟩]⟩]

/-- Register rows of block mc. -/
def regsMc : List RegDef := [
  ⟨"MC_CTRL", .edge, 0x300000, [(0x10000, 8)], 0x18800000, [⟨"PATROL_H", 31, 24, .rw⟩, ⟨"MIG_SHARE", 23, 16, .rw⟩, ⟨"SPARE_EN", 2, 2, .rw⟩, ⟨"TRAIN", 1, 1, .rw⟩, ⟨"READY", 0, 0, .rw⟩]⟩,
  ⟨"MC_CTRL", .ddr, 0x200000, [(0x10000, 12)], 0x18800000, [⟨"PATROL_H", 31, 24, .rw⟩, ⟨"MIG_SHARE", 23, 16, .rw⟩, ⟨"SPARE_EN", 2, 2, .rw⟩, ⟨"TRAIN", 1, 1, .rw⟩, ⟨"READY", 0, 0, .rw⟩]⟩,
  ⟨"MC_STAT", .edge, 0x300004, [(0x10000, 8)], 0x0, [⟨"HOT", 31, 31, .ro⟩, ⟨"TOO_HOT", 30, 30, .ro⟩, ⟨"MIGRATING", 29, 29, .ro⟩, ⟨"SPARE_USED", 28, 28, .ro⟩, ⟨"TEMP", 23, 16, .ro⟩, ⟨"DRIFT_PEND", 1, 1, .ro⟩]⟩,
  ⟨"MC_STAT", .ddr, 0x200004, [(0x10000, 12)], 0x0, [⟨"HOT", 31, 31, .ro⟩, ⟨"TOO_HOT", 30, 30, .ro⟩, ⟨"MIGRATING", 29, 29, .ro⟩, ⟨"SPARE_USED", 28, 28, .ro⟩, ⟨"TEMP", 23, 16, .ro⟩, ⟨"DRIFT_PEND", 1, 1, .ro⟩]⟩,
  ⟨"MC_SPARE", .edge, 0x300008, [(0x10000, 8)], 0x1F1F0000, [⟨"GO", 31, 31, .w1s⟩, ⟨"ABORTED", 30, 30, .w1c⟩, ⟨"SPARE", 28, 24, .rw⟩, ⟨"FAILED", 20, 16, .rw⟩, ⟨"TARGET", 4, 0, .rw⟩]⟩,
  ⟨"MC_SPARE", .ddr, 0x200008, [(0x10000, 12)], 0x0, [⟨"GO", 31, 31, .w1s⟩, ⟨"ABORTED", 30, 30, .w1c⟩, ⟨"SPARE", 28, 24, .rw⟩, ⟨"FAILED", 20, 16, .rw⟩, ⟨"TARGET", 4, 0, .rw⟩]⟩,
  ⟨"MC_MIG_POS", .edge, 0x30000C, [(0x10000, 8)], 0x0, [⟨"PIECES", 31, 0, .ro⟩]⟩,
  ⟨"MC_MIG_POS", .ddr, 0x20000C, [(0x10000, 12)], 0x0, [⟨"PIECES", 31, 0, .ro⟩]⟩,
  ⟨"MC_CE", .edge, 0x300010, [(0x10000, 8)], 0x0, [⟨"COUNT", 31, 0, .rc⟩]⟩,
  ⟨"MC_CE", .ddr, 0x200010, [(0x10000, 12)], 0x0, [⟨"COUNT", 31, 0, .rc⟩]⟩,
  ⟨"MC_UE", .edge, 0x300014, [(0x10000, 8)], 0x0, [⟨"UE", 31, 16, .rc⟩, ⟨"POISON_RD", 15, 0, .rc⟩]⟩,
  ⟨"MC_UE", .ddr, 0x200014, [(0x10000, 12)], 0x0, [⟨"UE", 31, 16, .rc⟩, ⟨"POISON_RD", 15, 0, .rc⟩]⟩,
  ⟨"MC_ERR_ADDR_LO", .edge, 0x300018, [(0x10000, 8)], 0x0, [⟨"ADDR", 31, 0, .ro⟩]⟩,
  ⟨"MC_ERR_ADDR_LO", .ddr, 0x200018, [(0x10000, 12)], 0x0, [⟨"ADDR", 31, 0, .ro⟩]⟩,
  ⟨"MC_ERR_ADDR_HI", .edge, 0x30001C, [(0x10000, 8)], 0x0, [⟨"ADDR", 15, 0, .ro⟩]⟩,
  ⟨"MC_ERR_ADDR_HI", .ddr, 0x20001C, [(0x10000, 12)], 0x0, [⟨"ADDR", 15, 0, .ro⟩]⟩,
  ⟨"MC_ERR_INFO", .edge, 0x300020, [(0x10000, 8)], 0x0, [⟨"VALID", 31, 31, .w1c⟩, ⟨"KIND", 30, 29, .ro⟩, ⟨"TARGET", 28, 24, .ro⟩, ⟨"RANK", 23, 21, .ro⟩, ⟨"SYMBOL", 20, 15, .ro⟩, ⟨"MASTER", 14, 7, .ro⟩, ⟨"ERASED", 6, 0, .ro⟩]⟩,
  ⟨"MC_ERR_INFO", .ddr, 0x200020, [(0x10000, 12)], 0x0, [⟨"VALID", 31, 31, .w1c⟩, ⟨"KIND", 30, 29, .ro⟩, ⟨"TARGET", 28, 24, .ro⟩, ⟨"RANK", 23, 21, .ro⟩, ⟨"SYMBOL", 20, 15, .ro⟩, ⟨"MASTER", 14, 7, .ro⟩, ⟨"ERASED", 6, 0, .ro⟩]⟩,
  ⟨"MC_GEOM", .ddr, 0x200030, [(0x10000, 12)], 0x11032701, [⟨"VALID", 31, 31, .rw⟩, ⟨"ROW_BITS", 28, 24, .rw⟩, ⟨"BG_BITS", 19, 16, .rw⟩, ⟨"BA_BITS", 15, 12, .rw⟩, ⟨"BURST_BITS", 11, 8, .rw⟩, ⟨"RANKS", 3, 0, .rw⟩]⟩,
  ⟨"MC_ILV", .ddr, 0x200034, [(0x10000, 12)], 0x0, [⟨"EN", 31, 31, .rw⟩, ⟨"ORD", 27, 24, .rw⟩, ⟨"C", 19, 16, .rw⟩, ⟨"CAP_GIB", 15, 0, .rw⟩]⟩,
  ⟨"MC_TRN_CTRL", .edge, 0x300100, [(0x10000, 8)], 0x0, [⟨"START", 31, 31, .w1s⟩, ⟨"OP", 30, 29, .rw⟩, ⟨"PATTERN", 28, 25, .rw⟩, ⟨"TARGET", 24, 20, .rw⟩, ⟨"RANK", 19, 17, .rw⟩, ⟨"BURSTS", 15, 0, .rw⟩]⟩,
  ⟨"MC_TRN_CTRL", .ddr, 0x200100, [(0x10000, 12)], 0x0, [⟨"START", 31, 31, .w1s⟩, ⟨"OP", 30, 29, .rw⟩, ⟨"PATTERN", 28, 25, .rw⟩, ⟨"TARGET", 24, 20, .rw⟩, ⟨"RANK", 19, 17, .rw⟩, ⟨"BURSTS", 15, 0, .rw⟩]⟩,
  ⟨"MC_TRN_ADDR", .edge, 0x300104, [(0x10000, 8)], 0x0, [⟨"VALUE", 31, 0, .rw⟩]⟩,
  ⟨"MC_TRN_ADDR", .ddr, 0x200104, [(0x10000, 12)], 0x0, [⟨"VALUE", 31, 0, .rw⟩]⟩,
  ⟨"MC_TRN_USER_LO", .edge, 0x300108, [(0x10000, 8)], 0x0, [⟨"VALUE", 31, 0, .rw⟩]⟩,
  ⟨"MC_TRN_USER_LO", .ddr, 0x200108, [(0x10000, 12)], 0x0, [⟨"VALUE", 31, 0, .rw⟩]⟩,
  ⟨"MC_TRN_USER_HI", .edge, 0x30010C, [(0x10000, 8)], 0x0, [⟨"VALUE", 31, 0, .rw⟩]⟩,
  ⟨"MC_TRN_USER_HI", .ddr, 0x20010C, [(0x10000, 12)], 0x0, [⟨"VALUE", 31, 0, .rw⟩]⟩,
  ⟨"MC_TRN_FAIL_LO", .edge, 0x300110, [(0x10000, 8)], 0x0, [⟨"VALUE", 31, 0, .ro⟩]⟩,
  ⟨"MC_TRN_FAIL_LO", .ddr, 0x200110, [(0x10000, 12)], 0x0, [⟨"VALUE", 31, 0, .ro⟩]⟩,
  ⟨"MC_TRN_FAIL_HI", .edge, 0x300114, [(0x10000, 8)], 0x0, [⟨"VALUE", 31, 0, .ro⟩]⟩,
  ⟨"MC_TRN_FAIL_HI", .ddr, 0x200114, [(0x10000, 12)], 0x0, [⟨"VALUE", 31, 0, .ro⟩]⟩,
  ⟨"MC_TRN_ERRS", .edge, 0x300118, [(0x10000, 8)], 0x0, [⟨"VALUE", 31, 0, .ro⟩]⟩,
  ⟨"MC_TRN_ERRS", .ddr, 0x200118, [(0x10000, 12)], 0x0, [⟨"VALUE", 31, 0, .ro⟩]⟩,
  ⟨"MC_TRN_FIRST", .edge, 0x30011C, [(0x10000, 8)], 0x0, [⟨"VALUE", 31, 0, .ro⟩]⟩,
  ⟨"MC_TRN_FIRST", .ddr, 0x20011C, [(0x10000, 12)], 0x0, [⟨"VALUE", 31, 0, .ro⟩]⟩,
  ⟨"MC_DLY_SEL", .edge, 0x300120, [(0x10000, 8)], 0x0, [⟨"KIND", 31, 28, .rw⟩, ⟨"TARGET", 27, 23, .rw⟩, ⟨"RANK", 22, 20, .rw⟩, ⟨"LANE", 5, 0, .rw⟩]⟩,
  ⟨"MC_DLY_SEL", .ddr, 0x200120, [(0x10000, 12)], 0x0, [⟨"KIND", 31, 28, .rw⟩, ⟨"TARGET", 27, 23, .rw⟩, ⟨"RANK", 22, 20, .rw⟩, ⟨"LANE", 5, 0, .rw⟩]⟩,
  ⟨"MC_DLY_VAL", .edge, 0x300124, [(0x10000, 8)], 0x0, [⟨"VALUE", 8, 0, .rw⟩]⟩,
  ⟨"MC_DLY_VAL", .ddr, 0x200124, [(0x10000, 12)], 0x0, [⟨"VALUE", 8, 0, .rw⟩]⟩,
  ⟨"MC_MR", .edge, 0x300128, [(0x10000, 8)], 0x0, [⟨"GO", 31, 31, .w1s⟩, ⟨"RD", 30, 30, .rw⟩, ⟨"TARGET", 29, 25, .rw⟩, ⟨"RANK", 24, 22, .rw⟩, ⟨"DEVICE", 21, 18, .rw⟩, ⟨"MR", 15, 8, .rw⟩, ⟨"DATA", 7, 0, .rw⟩]⟩,
  ⟨"MC_MR", .ddr, 0x200128, [(0x10000, 12)], 0x0, [⟨"GO", 31, 31, .w1s⟩, ⟨"RD", 30, 30, .rw⟩, ⟨"TARGET", 29, 25, .rw⟩, ⟨"RANK", 24, 22, .rw⟩, ⟨"DEVICE", 21, 18, .rw⟩, ⟨"MR", 15, 8, .rw⟩, ⟨"DATA", 7, 0, .rw⟩]⟩,
  ⟨"MC_RETRAIN", .edge, 0x300130, [(0x10000, 8)], 0x2, [⟨"GRANTED", 31, 31, .ro⟩, ⟨"ACTIVE", 30, 30, .ro⟩, ⟨"RELEASE", 29, 29, .w1s⟩, ⟨"ISOLATE", 28, 28, .w1s⟩, ⟨"TARGET", 27, 23, .rw⟩, ⟨"RANK", 22, 20, .rw⟩, ⟨"DRIFT_LIM", 7, 0, .rw⟩]⟩,
  ⟨"MC_RETRAIN", .ddr, 0x200130, [(0x10000, 12)], 0x2, [⟨"GRANTED", 31, 31, .ro⟩, ⟨"ACTIVE", 30, 30, .ro⟩, ⟨"RELEASE", 29, 29, .w1s⟩, ⟨"ISOLATE", 28, 28, .w1s⟩, ⟨"TARGET", 27, 23, .rw⟩, ⟨"RANK", 22, 20, .rw⟩, ⟨"DRIFT_LIM", 7, 0, .rw⟩]⟩,
  ⟨"MC_RETRAIN_CNT", .edge, 0x300134, [(0x10000, 8)], 0x0, [⟨"DONE", 31, 16, .rc⟩, ⟨"ABANDON", 15, 0, .rc⟩]⟩,
  ⟨"MC_RETRAIN_CNT", .ddr, 0x200134, [(0x10000, 12)], 0x0, [⟨"DONE", 31, 16, .rc⟩, ⟨"ABANDON", 15, 0, .rc⟩]⟩]

/-- Register rows of block tile-common. -/
def regsTc : List RegDef := [
  ⟨"TC_MC_CTRL", .tile, 0x1000010000, [(0x100000000, 8)], 0x7878, [⟨"ACTIVE", 16, 16, .ro⟩, ⟨"CURRENT", 15, 8, .ro⟩, ⟨"TARGET", 7, 0, .rw⟩]⟩,
  ⟨"TC_MC_STAT", .tile, 0x1000010004, [(0x100000000, 8)], 0x0, [⟨"LOCKED", 7, 4, .ro⟩, ⟨"LOCK_FAIL", 1, 1, .w1c⟩, ⟨"RELOCK", 0, 0, .ro⟩]⟩,
  ⟨"TC_CTt", .tile, 0x1000010040, [(0x100000000, 8), (0x4, 16)], 0x0, [⟨"EN", 31, 31, .rw⟩, ⟨"PHASE", 23, 12, .rw⟩, ⟨"DIV", 11, 0, .rw⟩]⟩,
  ⟨"TC_RET_SRCt_p", .tile, 0x1000010080, [(0x100000000, 8), (0x10, 5), (0x4, 4)], 0x0, [⟨"EN", 31, 31, .rw⟩, ⟨"INV", 24, 24, .rw⟩, ⟨"OUT", 23, 23, .rw⟩, ⟨"CELL", 22, 19, .rw⟩, ⟨"CLUSTER", 18, 6, .rw⟩, ⟨"BAY", 5, 0, .rw⟩]⟩,
  ⟨"TC_HOLD", .tile, 0x10000100D0, [(0x100000000, 8)], 0x0, [⟨"CLK_HOLD", 2, 2, .ro⟩, ⟨"WR_HOLD", 1, 1, .ro⟩, ⟨"OUT_HOLD", 0, 0, .ro⟩]⟩,
  ⟨"TC_DM_CFG", .tile, 0x10000100E0, [(0x100000000, 8)], 0x18, [⟨"GUARD_PS", 7, 0, .rw⟩]⟩,
  ⟨"TC_DM_SUM", .tile, 0x10000100E4, [(0x100000000, 8)], 0xFF, [⟨"BAY", 15, 10, .ro⟩, ⟨"QUAD", 9, 8, .ro⟩, ⟨"MIN_PS", 7, 0, .ro⟩]⟩,
  ⟨"TC_STRETCH", .tile, 0x10000100E8, [(0x100000000, 8)], 0x0, [⟨"ACTIVE", 31, 31, .ro⟩, ⟨"COUNT", 15, 0, .rc⟩]⟩,
  ⟨"TC_XSTAT", .tile, 0x10000100F0, [(0x100000000, 8)], 0x0, [⟨"STALL", 31, 31, .w1c⟩, ⟨"OVERSUB", 30, 30, .w1c⟩, ⟨"DISCARD", 15, 0, .rc⟩]⟩,
  ⟨"DIO_Bj_CFG", .tile, 0x1000010200, [(0x100000000, 8), (0x40, 2)], 0x60200, [⟨"EN", 31, 31, .rw⟩, ⟨"MODE", 30, 29, .rw⟩, ⟨"BW", 28, 27, .rw⟩, ⟨"SAMPLE_NS", 23, 16, .rw⟩, ⟨"HIGH_NS", 15, 8, .rw⟩]⟩,
  ⟨"DIO_Bj_HOLD", .tile, 0x1000010204, [(0x100000000, 8), (0x40, 2)], 0x3, [⟨"STATE", 1, 0, .rw⟩]⟩,
  ⟨"DIO_Bj_STAT", .tile, 0x1000010208, [(0x100000000, 8), (0x40, 2)], 0x1, [⟨"IO_WAIT", 17, 2, .rc⟩, ⟨"SAFE_Z", 1, 1, .ro⟩, ⟨"HELD", 0, 0, .ro⟩]⟩,
  ⟨"MMP_k_BASE_LO", .tile, 0x1000010400, [(0x100000000, 8), (0x40, 8)], 0x0, [⟨"BASE_LO", 31, 12, .rw⟩]⟩,
  ⟨"MMP_k_BASE_HI", .tile, 0x1000010404, [(0x100000000, 8), (0x40, 8)], 0x0, [⟨"BASE_HI", 15, 0, .rw⟩]⟩,
  ⟨"MMP_k_SIZE_LO", .tile, 0x1000010408, [(0x100000000, 8), (0x40, 8)], 0x0, [⟨"SIZE_LO", 31, 12, .rw⟩]⟩,
  ⟨"MMP_k_SIZE_HI", .tile, 0x100001040C, [(0x100000000, 8), (0x40, 8)], 0x0, [⟨"SIZE_HI", 8, 0, .rw⟩]⟩,
  ⟨"MMP_k_CTRL", .tile, 0x1000010410, [(0x100000000, 8), (0x40, 8)], 0x0, [⟨"EN", 31, 31, .rw⟩, ⟨"UNCACHED", 30, 30, .rw⟩, ⟨"FLUSH", 29, 29, .w1s⟩, ⟨"RSP_ERR", 28, 28, .rw⟩, ⟨"RSP_UE", 27, 27, .rw⟩, ⟨"PLANE", 25, 24, .rw⟩, ⟨"BAY", 23, 18, .rw⟩]⟩,
  ⟨"MMP_k_STAT", .tile, 0x1000010414, [(0x100000000, 8), (0x40, 8)], 0x0, [⟨"WB_ERR", 2, 2, .w1c⟩, ⟨"ERR", 1, 1, .w1c⟩, ⟨"OOW", 0, 0, .w1c⟩]⟩,
  ⟨"MMP_k_MISS", .tile, 0x1000010418, [(0x100000000, 8), (0x40, 8)], 0x0, [⟨"MISS", 31, 0, .rc⟩]⟩,
  ⟨"MMP_k_WAIT", .tile, 0x100001041C, [(0x100000000, 8), (0x40, 8)], 0x0, [⟨"WAIT", 31, 0, .rc⟩]⟩,
  ⟨"MMP_k_RDATAi", .tile, 0x1000010420, [(0x100000000, 8), (0x40, 8), (0x4, 8)], 0x0, [⟨"RDATA", 31, 0, .rw⟩]⟩,
  ⟨"TC_TSLOTs", .tile, 0x1000011000, [(0x100000000, 8), (0x4, 16)], 0x0, [⟨"EN", 31, 31, .rw⟩, ⟨"UNIT", 29, 24, .rw⟩, ⟨"RUN", 11, 0, .rw⟩]⟩,
  ⟨"TC_TTAPs_i", .tile, 0x1000011100, [(0x100000000, 8), (0x100, 16), (0x4, 64)], 0x0, [⟨"VALID", 31, 31, .rw⟩, ⟨"OUT", 30, 30, .rw⟩, ⟨"CELL", 29, 26, .rw⟩, ⟨"CLUSTER", 25, 13, .rw⟩, ⟨"BAY", 12, 7, .rw⟩, ⟨"PLANE", 6, 5, .rw⟩]⟩]

/-- Register rows of block bay control. -/
def regsBay : List RegDef := [
  ⟨"BAY_DMq", .bay, 0x1000020000, [(0x100000000, 8), (0x1000, 64), (0x4, 4)], 0xFFFF, [⟨"ALARM", 16, 16, .w1c⟩, ⟨"MARGIN_MIN", 15, 8, .rc⟩, ⟨"MARGIN_LAST", 7, 0, .ro⟩]⟩,
  ⟨"BAY_Pp_REL_CTRL", .bay, 0x1000020100, [(0x100000000, 8), (0x1000, 64), (0x40, 4)], 0x0, [⟨"OP", 1, 0, .wo⟩]⟩,
  ⟨"BAY_Pp_REL_STAT", .bay, 0x1000020104, [(0x100000000, 8), (0x1000, 64), (0x40, 4)], 0x0, [⟨"PERIOD", 9, 5, .ro⟩, ⟨"REFUSED", 4, 4, .w1c⟩, ⟨"GRS", 3, 3, .ro⟩, ⟨"ARMED", 2, 2, .ro⟩, ⟨"STAGE", 1, 0, .ro⟩]⟩,
  ⟨"BAY_Pp_DCC_LO", .bay, 0x1000020108, [(0x100000000, 8), (0x1000, 64), (0x40, 4)], 0x0, [⟨"DCC_LO", 31, 0, .rw⟩]⟩,
  ⟨"BAY_Pp_DCC_HI", .bay, 0x100002010C, [(0x100000000, 8), (0x1000, 64), (0x40, 4)], 0x0, [⟨"DCC_HI", 31, 0, .rw⟩]⟩,
  ⟨"BAY_XWAIT", .bay, 0x1000020010, [(0x100000000, 8), (0x1000, 64)], 0x0, [⟨"LAST", 15, 0, .ro⟩]⟩,
  ⟨"BAY_XWAIT_MAX", .bay, 0x1000020014, [(0x100000000, 8), (0x1000, 64)], 0x0, [⟨"MAX", 15, 0, .rc⟩]⟩,
  ⟨"BAY_Pp_STEP", .bay, 0x1000020110, [(0x100000000, 8), (0x1000, 64), (0x40, 4)], 0x0, [⟨"STEPPING", 31, 31, .ro⟩, ⟨"GRP_SIZE", 11, 10, .rw⟩, ⟨"GRP_BASE", 9, 8, .rw⟩, ⟨"S", 4, 0, .rw⟩]⟩,
  ⟨"BAY_XRTp_i", .bay, 0x1000020800, [(0x100000000, 8), (0x1000, 64), (0x100, 4), (0x4, 64)], 0x0, [⟨"VALID", 31, 31, .rw⟩, ⟨"DEST_TILE", 30, 28, .rw⟩, ⟨"EXT", 27, 27, .rw⟩, ⟨"DEST_BAY", 26, 21, .rw⟩, ⟨"DEST_PLANE", 20, 19, .rw⟩, ⟨"DEST_BUNDLE", 18, 13, .rw⟩, ⟨"CR_ROUTE", 10, 0, .rw⟩]⟩,
  ⟨"BAY_XEXPp_LO", .bay, 0x1000020C00, [(0x100000000, 8), (0x1000, 64), (0x8, 4)], 0x0, [⟨"MASK_LO", 31, 0, .rw⟩]⟩,
  ⟨"BAY_XEXPp_HI", .bay, 0x1000020C04, [(0x100000000, 8), (0x1000, 64), (0x8, 4)], 0x0, [⟨"MASK_HI", 31, 0, .rw⟩]⟩,
  ⟨"BAY_MEMERR", .bay, 0x1000020018, [(0x100000000, 8), (0x1000, 64)], 0x0, [⟨"CORR", 31, 16, .rc⟩, ⟨"UNCORR", 15, 8, .rc⟩, ⟨"FOREIGN", 7, 0, .rc⟩]⟩,
  ⟨"BAY_BMOWNi", .bay, 0x1000020200, [(0x100000000, 8), (0x1000, 64), (0x4, 20)], 0x0, [⟨"VALID0", 3, 3, .rw⟩, ⟨"VALID1", 7, 7, .rw⟩, ⟨"VALID2", 11, 11, .rw⟩, ⟨"VALID3", 15, 15, .rw⟩, ⟨"VALID4", 19, 19, .rw⟩, ⟨"VALID5", 23, 23, .rw⟩, ⟨"VALID6", 27, 27, .rw⟩, ⟨"VALID7", 31, 31, .rw⟩, ⟨"PLANE0", 1, 0, .rw⟩, ⟨"PLANE1", 5, 4, .rw⟩, ⟨"PLANE2", 9, 8, .rw⟩, ⟨"PLANE3", 13, 12, .rw⟩, ⟨"PLANE4", 17, 16, .rw⟩, ⟨"PLANE5", 21, 20, .rw⟩, ⟨"PLANE6", 25, 24, .rw⟩, ⟨"PLANE7", 29, 28, .rw⟩]⟩,
  ⟨"BAY_DMOWNi", .bay, 0x1000020250, [(0x100000000, 8), (0x1000, 64), (0x4, 2)], 0x0, [⟨"VALID0", 3, 3, .rw⟩, ⟨"VALID1", 7, 7, .rw⟩, ⟨"VALID2", 11, 11, .rw⟩, ⟨"VALID3", 15, 15, .rw⟩, ⟨"VALID4", 19, 19, .rw⟩, ⟨"VALID5", 23, 23, .rw⟩, ⟨"VALID6", 27, 27, .rw⟩, ⟨"VALID7", 31, 31, .rw⟩, ⟨"PLANE0", 1, 0, .rw⟩, ⟨"PLANE1", 5, 4, .rw⟩, ⟨"PLANE2", 9, 8, .rw⟩, ⟨"PLANE3", 13, 12, .rw⟩, ⟨"PLANE4", 17, 16, .rw⟩, ⟨"PLANE5", 21, 20, .rw⟩, ⟨"PLANE6", 25, 24, .rw⟩, ⟨"PLANE7", 29, 28, .rw⟩]⟩,
  ⟨"BAY_BMADRm", .bay, 0x1000020400, [(0x100000000, 8), (0x1000, 64), (0x4, 160)], 0x0, [⟨"ADR_B", 30, 16, .rw⟩, ⟨"ADR_A", 14, 0, .rw⟩]⟩,
  ⟨"BAY_DMADRd", .bay, 0x1000020680, [(0x100000000, 8), (0x1000, 64), (0x4, 16)], 0x0, [⟨"ADR_B", 31, 16, .rw⟩, ⟨"ADR_A", 15, 0, .rw⟩]⟩]

/-- Register rows of block configuration and scrub. -/
def regsCs : List RegDef := [
  ⟨"CS_FRAME_SEL", .tile, 0x10000000A0, [(0x100000000, 8)], 0x0, [⟨"INDEX", 19, 0, .rw⟩]⟩,
  ⟨"CS_FRAME_CHK", .tile, 0x10000000A4, [(0x100000000, 8)], 0x0, [⟨"ADDR_FAULT", 31, 31, .ro⟩, ⟨"E", 30, 30, .ro⟩, ⟨"SYNDROME", 29, 17, .ro⟩, ⟨"CHK", 15, 0, .ro⟩]⟩,
  ⟨"CS_CTRL", .tile, 0x1000000000, [(0x100000000, 8)], 0x1, [⟨"RESTORE", 1, 1, .w1s⟩, ⟨"SCRUB_EN", 0, 0, .rw⟩]⟩,
  ⟨"CS_STAT", .tile, 0x1000000004, [(0x100000000, 8)], 0x0, [⟨"SLOW", 7, 7, .w1c⟩, ⟨"REFUSED", 6, 6, .w1c⟩, ⟨"PARTIAL", 5, 5, .w1c⟩, ⟨"QFULL", 4, 4, .w1c⟩, ⟨"TAKEOVER_B", 3, 3, .ro⟩, ⟨"TAKEOVER_A", 2, 2, .ro⟩, ⟨"SB_RUN", 1, 1, .ro⟩, ⟨"SA_RUN", 0, 0, .ro⟩]⟩,
  ⟨"CS_SA_POS", .tile, 0x1000000010, [(0x100000000, 8)], 0x0, [⟨"BAY", 19, 14, .ro⟩, ⟨"PLANE", 13, 12, .ro⟩, ⟨"FRAME", 11, 0, .ro⟩]⟩,
  ⟨"CS_SB_POS", .tile, 0x1000000018, [(0x100000000, 8)], 0x0, [⟨"BAY", 19, 14, .ro⟩, ⟨"PLANE", 13, 12, .ro⟩, ⟨"FRAME", 11, 0, .ro⟩]⟩,
  ⟨"CS_SA_SWEEPS", .tile, 0x1000000014, [(0x100000000, 8)], 0x0, [⟨"COUNT", 31, 0, .ro⟩]⟩,
  ⟨"CS_SB_SWEEPS", .tile, 0x100000001C, [(0x100000000, 8)], 0x0, [⟨"COUNT", 31, 0, .ro⟩]⟩,
  ⟨"CS_SA_DONEi", .tile, 0x1000000020, [(0x100000000, 8), (0x4, 4)], 0x0, [⟨"DONE", 31, 0, .ro⟩]⟩,
  ⟨"CS_SB_DONEi", .tile, 0x1000000030, [(0x100000000, 8), (0x4, 4)], 0x0, [⟨"DONE", 31, 0, .ro⟩]⟩,
  ⟨"CS_ENi", .tile, 0x1000000040, [(0x100000000, 8), (0x4, 8)], 0x0, [⟨"EN", 31, 0, .rw⟩]⟩,
  ⟨"CS_CORR", .tile, 0x1000000060, [(0x100000000, 8)], 0x0, [⟨"CORR", 31, 0, .rc⟩]⟩,
  ⟨"CS_UNCORR", .tile, 0x1000000064, [(0x100000000, 8)], 0x0, [⟨"UNCORR", 31, 16, .rc⟩, ⟨"ADDRF", 15, 0, .rc⟩]⟩,
  ⟨"CS_LASTERR", .tile, 0x1000000068, [(0x100000000, 8)], 0x0, [⟨"VALID", 31, 31, .w1c⟩, ⟨"KIND", 30, 29, .ro⟩, ⟨"BAY", 19, 14, .ro⟩, ⟨"PLANE", 13, 12, .ro⟩, ⟨"FRAME", 11, 0, .ro⟩]⟩,
  ⟨"CS_VOTE", .tile, 0x100000006C, [(0x100000000, 8)], 0x0, [⟨"REPAIRS", 31, 0, .rc⟩]⟩,
  ⟨"CS_XCHK", .tile, 0x1000000070, [(0x100000000, 8)], 0x0, [⟨"STALL", 31, 16, .rc⟩, ⟨"MAP", 15, 0, .rc⟩]⟩,
  ⟨"CS_SWEEP_TIME", .tile, 0x1000000080, [(0x100000000, 8)], 0x0, [⟨"US", 31, 0, .ro⟩]⟩]

/-- Register rows of block Courier. -/
def regsCr : List RegDef := [
  ⟨"CR_CTRL", .cr, 0x1000080000, [(0x100000000, 8)], 0x0, [⟨"LINK", 5, 4, .ro⟩, ⟨"OP", 2, 0, .wo⟩]⟩,
  ⟨"CR_CFGw", .cr, 0x1000080040, [(0x100000000, 8), (0x4, 16)], 0x0, [⟨"WORD", 31, 0, .rw⟩]⟩,
  ⟨"CR_Gg_STAT", .cr, 0x1000080100, [(0x100000000, 8), (0x10, 8)], 0x0, [⟨"IN_SERVICE", 31, 31, .ro⟩, ⟨"SPARE_OK", 30, 30, .ro⟩, ⟨"SPARE_USED", 29, 29, .ro⟩, ⟨"FAILED", 28, 28, .ro⟩, ⟨"TAKEN", 27, 24, .ro⟩, ⟨"MIRROR", 23, 20, .ro⟩, ⟨"ADAPT", 19, 19, .ro⟩, ⟨"ID_MISMATCH", 18, 18, .w1c⟩, ⟨"PEER_TAG", 15, 0, .ro⟩]⟩,
  ⟨"CR_Gg_CNT", .cr, 0x1000080104, [(0x100000000, 8), (0x10, 8)], 0x0, [⟨"REPLAY", 31, 16, .rc⟩, ⟨"MISMATCH", 15, 8, .rc⟩, ⟨"TAKEOVER", 7, 4, .rc⟩, ⟨"BADCTL", 3, 0, .rc⟩]⟩,
  ⟨"CR_Gg_TKO_NS", .cr, 0x1000080108, [(0x100000000, 8), (0x10, 8)], 0x0, [⟨"NS", 31, 0, .ro⟩]⟩,
  ⟨"CR_Lℓ_STAT", .cr, 0x1000080400, [(0x100000000, 8), (0x20, 16)], 0x0, [⟨"STATE", 31, 28, .ro⟩, ⟨"LOOP", 27, 26, .ro⟩, ⟨"CDR_LOCK", 25, 25, .ro⟩, ⟨"MARKER_LOCK", 24, 24, .ro⟩, ⟨"SKEW", 23, 16, .ro⟩]⟩,
  ⟨"CR_Lℓ_FEC", .cr, 0x1000080404, [(0x100000000, 8), (0x20, 16)], 0x0, [⟨"CORR", 31, 8, .rc⟩, ⟨"UNCORR", 7, 0, .rc⟩]⟩,
  ⟨"CR_EGRe", .cr, 0x1000084000, [(0x100000000, 8), (0x4, 2048)], 0x0, [⟨"VALID", 31, 31, .rw⟩, ⟨"TILE", 30, 28, .rw⟩, ⟨"GROUP", 26, 24, .rw⟩, ⟨"TAG", 11, 0, .rw⟩]⟩,
  ⟨"CR_INGt_LO", .cr, 0x1000088000, [(0x100000000, 8), (0x8, 4096)], 0x0, [⟨"VALID", 31, 31, .rw⟩, ⟨"FWD", 30, 30, .rw⟩, ⟨"RUN", 29, 18, .rw⟩, ⟨"PAGE_NO", 17, 7, .rw⟩, ⟨"BUNDLE", 6, 1, .rw⟩]⟩,
  ⟨"CR_INGt_HI", .cr, 0x1000088004, [(0x100000000, 8), (0x8, 4096)], 0x0, [⟨"RES", 31, 31, .ro⟩, ⟨"TILE", 30, 28, .ro⟩, ⟨"BAY", 27, 22, .ro⟩, ⟨"PLANE", 21, 20, .ro⟩]⟩,
  ⟨"CR_ING_STAT", .cr, 0x1000090000, [(0x100000000, 8)], 0x0, [⟨"BADCYC", 31, 16, .rc⟩, ⟨"NODEST", 15, 0, .rc⟩]⟩,
  ⟨"CR_EGR_STAT", .cr, 0x1000090004, [(0x100000000, 8)], 0x0, [⟨"NOGRP", 15, 0, .rc⟩]⟩]

/-- Indices of a register from its offset, one per stride; none where no register sits. -/
def regIndices : Nat → List (Nat × Nat) → Option (List Nat)
  | o, [] => if o = 0 then some [] else none
  | o, (st, n) :: ds =>
    if o / st < n then (regIndices (o % st) ds).map (o / st :: ·) else none

/-- The first row of a list that holds address `a`, with its indices. -/
def regFindIn (a : Nat) : List RegDef → Option (RegDef × List Nat)
  | [] => none
  | d :: ds =>
    if d.base ≤ a then
      match regIndices (a - d.base) d.dims with
      | some ix => some (d, ix)
      | none => regFindIn a ds
    else regFindIn a ds

/-- The rows of the block that address `a` lies in (R35, R39). -/
def regBlockRows (a : Nat) : List RegDef :=
  if a < 0x10000 then regsPm
  else if a < 0x20000 then regsMr
  else if a < 0x30000 then regsEv
  else if a < 0x40000 then regsTal
  else if a < 0x50000 then regsRnd
  else if a < 0x60000 then regsVl
  else if a < 0x70000 then regsFk
  else if a < 0x80000 then regsIc
  else if a < 0x90000 then regsSp
  else if a < 0xA0000 then regsDbg
  else if a < 0xB0000 then regsUpd
  else if a < 0x100000 then []
  else if a < 0x200000 then regsSo
  else if a < 0x380000 then regsMc
  else if a < 0x1000000000 then []
  else if a < 0x1800000000 then
    let o := a % 0x100000000
    if o < 0x10000 then regsCs
    else if o < 0x20000 then regsTc
    else if o < 0x60000 then regsBay
    else if o < 0x80000 then []
    else if o < 0xA0000 then regsCr
    else []
  else []

/-- The register at address `a`, with its indices; none at a reserved offset (R19). -/
def regFind (a : Nat) : Option (RegDef × List Nat) := regFindIn a (regBlockRows a)

/-- The value register `a` takes at a reset of its domain. -/
def regResetAt (a : Nat) : Nat :=
  match regFind a with
  | none => 0
  | some (d, ix) =>
    if d.name = "RND_RTb_s_t" then rndRtReset (ix.getD 1 0) (ix.getD 2 0)
    else if d.name = "CR_CFGw" then crCfgReset (ix.getD 1 0)
    else d.rst

end Sys2Proof.Machine
end

