-- ==== Sys2Proof/Machine/SMap.lean ====
section
/-!
DEFINITION. Sparse tables in canonical form: a list of (key, value) pairs, keys strictly rising.
A table with a default value lists no entry equal to that default, so that equal tables are equal lists.
-/
namespace Sys2Proof.Machine

/-- A sparse table keyed by natural numbers. -/
abbrev SMap (α : Type) := List (Nat × α)

/-- The value listed at a key. -/
def SMap.find {α : Type} : SMap α → Nat → Option α
  | [], _ => none
  | (k', v) :: t, k => if k' = k then some v else SMap.find t k

/-- The value at a key, or the table's default. -/
def SMap.get {α : Type} (m : SMap α) (k : Nat) (d : α) : α := (SMap.find m k).getD d

/-- The table without a key. -/
def SMap.erase {α : Type} (m : SMap α) (k : Nat) : SMap α := m.filter (fun e => e.1 != k)

/-- The pair placed before the first larger key. -/
def SMap.insert {α : Type} : SMap α → Nat → α → SMap α
  | [], k, v => [(k, v)]
  | (k', v') :: t, k, v => if k < k' then (k, v) :: (k', v') :: t else (k', v') :: SMap.insert t k v

/-- The table with a key's value replaced. -/
def SMap.put {α : Type} (m : SMap α) (k : Nat) (v : α) : SMap α := SMap.insert (SMap.erase m k) k v

/-- The table with default `d` after a write: writing the default removes the entry. -/
def SMap.set {α : Type} [DecidableEq α] (m : SMap α) (k : Nat) (v d : α) : SMap α :=
  if v = d then SMap.erase m k else SMap.put m k v

/-- The table with one value changed by a function. -/
def SMap.modify {α : Type} (m : SMap α) (k : Nat) (f : α → α) : SMap α :=
  match SMap.find m k with
  | none => m
  | some v => SMap.put m k (f v)

/-- The table without the keys from `lo` up to but not including `hi`. -/
def SMap.clear {α : Type} (m : SMap α) (lo hi : Nat) : SMap α :=
  m.filter (fun e => !(lo ≤ e.1 && e.1 < hi))

/-- The entries whose keys lie from `lo` up to but not including `hi`. -/
def SMap.slice {α : Type} (m : SMap α) (lo hi : Nat) : SMap α :=
  m.filter (fun e => lo ≤ e.1 && e.1 < hi)

/-- Several entries written in turn into a table with default `d`. -/
def SMap.setMany {α : Type} [DecidableEq α] (m : SMap α) (d : α) : List (Nat × α) → SMap α
  | [] => m
  | (k, v) :: t => SMap.setMany (SMap.set m k v d) d t

/-- The keys of a table. -/
def SMap.keys {α : Type} (m : SMap α) : List Nat := m.map Prod.fst

/-- Whether the keys rise strictly from `lo`. -/
def SMap.sortedFrom {α : Type} : Nat → SMap α → Bool
  | _, [] => true
  | lo, (k, _) :: t => decide (lo ≤ k) && SMap.sortedFrom (k + 1) t

/-- The canonical form: keys strictly rising. -/
def SMap.sorted {α : Type} (m : SMap α) : Bool := SMap.sortedFrom 0 m

/-- The canonical form of a table with a default: keys strictly rising and no entry equal to the default. -/
def SMap.wf {α : Type} [DecidableEq α] (m : SMap α) (d : α) : Bool :=
  SMap.sorted m && m.all (fun e => decide (e.2 ≠ d))

end Sys2Proof.Machine
end

