-- ==== Sys2Proof/Machine/StFabric.lean ====
section
/-!
DEFINITION. State of the fabric tiles: plane rotation, exchange, design I/O, memory-model ports, scrubbers
(spec chapters 02 to 05). Registers have their home in `State.regs`; what stands here is the state behind them.
-/
namespace Sys2Proof.Machine

/-- Where a bay stands in its rotation (R82–R97). -/
inductive BayPhase where
  /-- no plane steps: the bay does not rotate (R83) -/
  | idle
  /-- plane p is selected and stepping -/
  | step (p : Nat)
  /-- every stepping plane has had its capture micro-cycle; the tick edge is next -/
  | captured
  /-- the exchange phase, which the tick edge began (R85) -/
  | exchange
  deriving DecidableEq, Repr

/-- Rotation state of one bay. -/
structure BayRt where
  /-- phase of the rotation | inductive | 03 R83, R85 | idle -/
  phase : BayPhase := .idle
  /-- planes that began this design cycle, in order | list of 0–3 | 03 R83 | empty -/
  planes : List Nat := []
  /-- planes that stepped in this design cycle, in order | list of 0–3 | 03 R83 | empty -/
  stepped : List Nat := []
  /-- a stall has been recorded in this epoch | 1 bit | 03 R97 | false -/
  stallRec : Bool := false
  deriving DecidableEq, Repr

/-- Registers of one arithmetic slice in one plane (R114): its master stage holds the values decided at capture. -/
structure SliceRegs where
  pr : Nat := 0
  mr : Nat := 0
  ar : Nat := 0
  br : Nat := 0
  dr : Nat := 0
  ovf : Bool := false
  deriving DecidableEq, Repr

/-- A memory port's inputs as its plane's capture micro-cycle finds them (R127). -/
structure MemReq where
  deep : Bool
  mem : Nat
  portB : Bool
  addr : Nat
  we : Bool
  be : Nat
  data : Nat
  deriving DecidableEq, Repr

/-- A captured request of a memory-model port (R135, R136). -/
structure MmpReq where
  we : Bool
  addr : Nat
  be : Nat
  wdata : Nat
  deriving DecidableEq, Repr

/-- Run-time state of one bay-plane. -/
structure BpRt where
  /-- master stages of its flip-flops that differ from Q: bit index to decided value | 163,840 × 1 bit | 03 R84 | empty -/
  master : SMap Bool := []
  /-- master stages of its slices: slice to decided registers | 192 × 188 bits | 04 R120 | empty -/
  slices : SMap SliceRegs := []
  /-- an accepted OP 3 waits for the next design-cycle boundary | 1 bit | 02 R81 | false -/
  holdPend : Bool := false
  /-- in-bundles that have arrived for the next design cycle | 64 bits | 03 R96 | 0 -/
  arrived : Nat := 0
  /-- the two in-bundle banks: 64 × bank + bundle to value | 2 × 64 × 32 bits | 03 R95 | 0 -/
  banks : SMap Word := []
  /-- memory port, memory-model port and tree-slot inputs as captured, for the tick | lists | 04 R127, R136; 02 R68 | empty -/
  ports : List MemReq := []
  mmpReq : Option MmpReq := none
  treeS : SMap Bool := []
  /-- the last tick edge raised DCC, and the cycle after it has not begun | 1 bit | 03 R85, R95 | false -/
  inc : Bool := false
  /-- where the plane stands: 0 at rest since it took its page, 1 in a design cycle, 2 past its tick edge | 0–2 | 03 R83, R87, R96 | 0 -/
  xph : Nat := 0
  /-- tick edges since the plane took its page, which number its design cycles for trees, pins and releases | count | 02 R68, R78; 03 R107 | 0 -/
  rot : Nat := 0
  /-- the value of `rot` at which period 0 of its release fell | count | 02 R78 | 0 -/
  rel0 : Nat := 0
  deriving DecidableEq, Repr

/-- A bundle on its way through the exchange (R93–R96). -/
structure Bundle where
  /-- global bay-plane index of the sender -/
  src : Nat
  /-- global bay-plane index of the destination -/
  dst : Nat
  bundle : Nat
  value : Word
  /-- the run whose pages exchange it -/
  run : Nat
  deriving DecidableEq, Repr

/-- A bundle that a route entry with EXT = 1 sends to the Courier egress of its tile (R98, R451). -/
structure ExtBundle where
  src : Nat
  route : Nat
  cycle : Nat
  value : Word
  deriving DecidableEq, Repr

/-- One line of a memory-model port's cache (R138). -/
structure MmpLine where
  /-- window address of the line, bits [5:0] zero; its Rounds address while it is written back -/
  addr : Nat
  data : List Byte
  dirty : Bool
  deriving DecidableEq, Repr

/-- A memory-model port's request on the Rounds (R23, R138): its tag, and once it has been answered STATUS, CAUSE and data. -/
structure MmpTrip where
  tag : Nat
  answer : Option (Nat × Nat × List Byte) := none
  deriving DecidableEq, Repr

/-- State of one memory-model port besides its registers. -/
structure MmpRt where
  /-- cache lines, most recently used first | 512 lines of 64 bytes | 04 R138 | empty -/
  lines : List MmpLine := []
  /-- captured request whose response is not complete | 1 request | 04 R136, R137 | none -/
  pend : Option MmpReq := none
  /-- the fill or uncached access on the Rounds | — | 01 R23, 04 R138 | none -/
  fill : Option MmpTrip := none
  /-- dirty lines on their way to memory, by Rounds address, oldest first | list of lines | 04 R138, R139 | empty -/
  wbs : List MmpLine := []
  /-- the write-back of the oldest of them on the Rounds | — | 01 R23, 04 R138 | none -/
  wb : Option MmpTrip := none
  /-- the flush has begun its write-backs | 1 bit | 04 R141 | false -/
  flushing : Bool := false
  deriving DecidableEq, Repr

/-- State of a design I/O bank (R105–R110). -/
structure BankRt where
  /-- DCLKO_k level | 1 bit | 03 R106 | low -/
  dclko : Bool := false
  /-- output levels as last launched | 48 bits | 03 R106 | 0 -/
  outs : Nat := 0
  /-- input levels as last sampled | 48 bits | 03 R107 | 0 -/
  ins : Nat := 0
  /-- input levels of the sample before | 48 bits | 03 R107 | 0 -/
  insPrev : Nat := 0
  /-- number of the bank's last edge: `rot` of its edge source after that tick | count | 03 R107, R108 | 0 -/
  edge : Nat := 0
  /-- the input sample of the current edge is still to come | 1 bit | 03 R107 | false -/
  samplePend : Bool := false
  /-- the burst of the current edge is still to come | 1 bit | 03 R109 | false -/
  burstPend : Bool := false
  /-- the words of the last burst, one per bit time, FRAME in bit 47 | W × 48 bits | 03 R109 | empty -/
  burst : List Nat := []
  /-- the words of the input burst before | W × 48 bits | 03 R107, R109 | empty -/
  burstPrev : List Nat := []
  deriving DecidableEq, Repr

/-- A correction waiting in a scrubber's queue (R176). -/
structure Correction where
  frame : Nat
  data : List Byte
  deriving DecidableEq, Repr

/-- A frame found uncorrectable: what R178 records of it. -/
structure FrameFault where
  frame : Nat
  /-- 1 uncorrectable, 2 address fault -/
  kind : Nat
  run : Nat
  dccFound : Nat
  dccClean : Nat
  deriving DecidableEq, Repr

/-- State of one scrubber (R172–R181). -/
structure ScrubRt where
  /-- corrections waiting | up to 8 frames | 05 R176 | empty -/
  queue : List Correction := []
  /-- uncorrectable frames awaiting their page-store copy, as found | list | 05 R177, R178 | empty -/
  restores : List FrameFault := []
  /-- sweep count at the start of reading each bay-plane: bay-plane to DCC (DCC_CLEAN of R178) | 64 bits each | 05 R178 | 0 -/
  clean : SMap Nat := []
  /-- DCC when the present sweep began reading each bay-plane | 64 bits each | 05 R178 | 0 -/
  began : SMap Nat := []
  /-- frames advanced in the closing epoch | count | 05 R180 | 0 -/
  advanced : Nat := 0
  /-- consecutive epochs in which its check failed | 0–3 | 05 R181 | 0 -/
  fails : Nat := 0
  deriving DecidableEq, Repr

/-- A probe word on its way to the hub (R239, R241). -/
structure Probe where
  slot : Nat
  unit : Nat
  run : Nat
  cycle : Nat
  word : Nat
  deriving DecidableEq, Repr

/-- Run-time state of one tile. -/
structure TileRt where
  /-- tile holds are being lifted one after another | 1 bit | 02 R69 | false -/
  lifting : Bool := false
  /-- lowest margin read in the epoch so far, with its bay and quadrant | 8 + 8 bits | 02 R75, TC_DM_SUM | 255 -/
  dmMin : Nat := 255
  dmBay : Nat := 0
  dmQuad : Nat := 0
  /-- a monitor has read below the guard in the epoch so far | 1 bit | 02 R75 | false -/
  below : Bool := false
  /-- consecutive failed retunes, and epochs left without a retune, of the firmware procedure | counts | 03 R102 | 0 -/
  retFails : Nat := 0
  retHold : Nat := 0
  /-- the tile's frame write buffer: frame and master it is tagged with, bytes present | 512 bytes | 05 R171 | empty -/
  wbFrame : Nat := 0
  wbMid : Nat := 0
  wbBytes : SMap Byte := []
  /-- scrubbers SA and SB | 2 | 05 R172 | as ScrubRt -/
  sa : ScrubRt := {}
  sb : ScrubRt := {}
  /-- probe words of the trigger slots, oldest first | list | 07 R241 | none -/
  probes : List Probe := []
  /-- consecutive epochs in which the tile's bays were all off | count | 16 R464 | 0 -/
  idle : Nat := 0
  deriving DecidableEq, Repr

/-- The fabric. -/
structure FabSt where
  /-- bays by 64n + b | 512 | 01 R39 | default -/
  bays : SMap BayRt := []
  /-- bay-planes by 4(64n + b) + p | 2,048 | 02 | default -/
  bps : SMap BpRt := []
  /-- tiles | 8 | 01 R22 | default -/
  tiles : SMap TileRt := []
  /-- memory-model ports by 8n + k | 64 | 04 R135 | default -/
  mmps : SMap MmpRt := []
  /-- design I/O banks | 12 | 03 R105 | default -/
  banks : SMap BankRt := []
  /-- bundles in the exchange, oldest first | list | 03 R94 | empty -/
  bundles : List Bundle := []
  /-- EXT bundles that have not yet reached the Courier egress | list | 03 R98 | empty -/
  extOut : List ExtBundle := []
  /-- tree-slot samples, two per slot 20n + 4(t − 3) + p: 2 × slot + parity of the design cycle that reads them | 320 × 1 bit | 02 R68 | 0 -/
  trees : SMap Bool := []
  /-- the design cycle (`rot`) for which each slot was last sampled; 0 never | 160 counts | 02 R68 | 0 -/
  treeRot : SMap Nat := []
  /-- check word of each frame by 786,432n + a, where it has been written; elsewhere it is that of a frame of zeros | 16 bits each | 05 R168 | none written, DESIGN CHOICE -/
  chk : SMap (BitVec 16) := []
  deriving DecidableEq, Repr

end Sys2Proof.Machine
end

