-- ==== Sys2Proof/Machine/StOffice.lean ====
section
/-!
DEFINITION. State of the Sorting Office, the snapshot tables, the Franking Unit and the loads in progress
(spec chapters 05 to 07).
-/
namespace Sys2Proof.Machine

/-- A Design Table entry (R189). -/
structure Design where
  /-- 0 free; 1 pending; 2 committed; 3 discarding -/
  state : Nat := 0
  pageCount : Nat := 0
  cfgBase : Nat := 0
  runs : Nat := 0
  id : Nat := 0
  digest : Nat := 0
  deriving DecidableEq, Repr

/-- A Page Map entry (R183), CHECK aside. -/
structure PmEnt where
  kind : Nat := 0
  stat : Nat := 0
  stack : Nat := 0
  granule : Nat := 0
  len : Nat := 0
  owner : Nat := 0
  pageNo : Nat := 0
  res : Bool := false
  tile : Nat := 0
  bay : Nat := 0
  plane : Nat := 0
  refcount : Nat := 0
  deriving DecidableEq, Repr

/-- What the descriptor and the extras of a page say of its placement (R146, R147). -/
structure PageD where
  pageNo : Nat := 0
  /-- GROUP_SIZE, GROUP_POS, S, FLAGS, GROUP_ID -/
  gsize : Nat := 0
  gpos : Nat := 0
  steps : Nat := 0
  flags : Nat := 0
  gid : Nat := 0
  banks : Nat := 0
  trees : Nat := 0
  bm : Nat := 0
  dm : Nat := 0
  /-- CLK[0–15], RET_SRC[0–4], IO_CFG[0–1] -/
  clk : List Nat := []
  ret : List Nat := []
  ioCfg : List Nat := []
  cfgOff : Nat := 0
  extraLen : Nat := 0
  /-- route table and expectation mask -/
  routes : List Nat := []
  xexp : Nat := 0
  deriving DecidableEq, Repr

/-- The states of a run (R195), in the order of their codes. -/
inductive RunState where
  | empty | idle | waiting | loading | ready | running | suspending | suspended | faulted | ending
  deriving DecidableEq, Repr

/-- The operations of CUR_OP and PEND_OP (R192), in the order of their codes. -/
inductive RunOp where
  | none | place | start | suspend | preempt | endRun | swap | evict
  deriving DecidableEq, Repr

/-- A request in a run's pending slot (R197). -/
structure PendReq where
  op : RunOp
  ticket : Option Nat
  /-- a start request is told from a resume request when it starts (R196) -/
  isResume : Bool := false
  /-- STOP of a suspend -/
  stop : Nat := 0
  /-- page, design slot and new page of a swap -/
  page : Nat := 0
  design : Nat := 0
  newPage : Nat := 0
  deriving DecidableEq, Repr

/-- Why a run is to stop (R208, R230, R244–R246). -/
inductive StopWhy where
  | suspend | preempt | endRun
  | halt (unit : Nat)
  | modeHold
  | step
  | swap
  deriving DecidableEq, Repr

/-- A stop that a run owes at the first boundary whose DCC is at least `at`. -/
structure StopReq where
  why : StopWhy
  cycle : Nat
  deriving DecidableEq, Repr

/-- A bay-plane's record in the Bay table (R193): PSTATE 2 and 3 are told apart by whether the plane steps. -/
structure BpRec where
  /-- 0 FREE; 1 RESERVED; 2 RESIDENT -/
  pstate : Nat := 0
  run : Nat := 0
  pageNo : Nat := 0
  cfg : Nat := 0
  /-- the plane holds those frames -/
  cfgOk : Bool := false
  /-- reserved by a load rather than a run: the load (R160) -/
  load : Option Nat := none
  /-- shadow of the tile resources assigned to the page (R194), and its memory-model port -/
  page : PageD := {}
  port : Option Nat := none
  /-- the page resumes on another bay-plane, and this one holds its state, which no save has kept (R201, R212) -/
  stale : Bool := false
  deriving DecidableEq, Repr

/-- A Run Table entry (R192) with the work in progress behind it. -/
structure Run where
  state : RunState := .empty
  prio : Nat := 0
  wholeBay : Bool := false
  started : Bool := false
  backfill : Bool := false
  saveFail : Bool := false
  excl : Bool := false
  tileMask : Nat := 0xFF
  design : Nat := 0
  pageCount : Nat := 0
  stateBase : Nat := 0
  qleft : Nat := 0
  urg : Nat := 0
  wait : Nat := 0
  dcc : Nat := 0
  stop : Nat := 0
  curOp : RunOp := .none
  curTkt : Option Nat := none
  pend : Option PendReq := none
  /-- the swap in progress -/
  curReq : Option PendReq := none
  switches : Nat := 0
  served : Nat := 0
  /-- stops owed (R208, R244) -/
  stops : List StopReq := []
  /-- bay-planes whose frames and state are still to be written (R213) -/
  xfer : List Nat := []
  /-- bay-planes whose state is still to be saved (R210) -/
  save : List Nat := []
  /-- bay-planes that the scheduler has claimed for eviction after the save (R210) -/
  claimed : List Nat := []
  /-- victims whose bay-planes must be free before the transfers begin (R216) -/
  waitFor : List Nat := []
  /-- snapshot this run is paused for (R226) -/
  snapPause : Option Nat := none
  /-- paused for a resident swap (R221) -/
  swapPause : Bool := false
  /-- stays paused after a failed page-store read (R177) -/
  faultPause : Bool := false
  /-- stopped with OP 3 and held by a mode or a halt (R245) -/
  held : Bool := false
  /-- snapshot from which the next resume restores (R249) -/
  restoreFrom : Option Nat := none
  /-- error code with which the ticket of the operation in progress ends done (R208, R209) -/
  endErr : Nat := 0
  /-- latest placement: page to bay-plane (TILE, BAY and PLANE of its state pages) -/
  place : SMap Nat := []
  /-- placement decided and not yet begun, while victims leave (R216): bay-plane to its record -/
  placing : SMap BpRec := []
  /-- a mode change waits to preempt or evict this run once its operation ends (R197) -/
  modeAct : Bool := false
  /-- window of each page's memory-model port, kept while the page stands on no bay-plane: base, size, UNCACHED (R142) -/
  windows : SMap (Nat × Nat × Bool) := []
  /-- pages with EXT routes (FLAGS bit 1), which R208 and R216 look at whether or not they stand on a bay-plane -/
  extPages : List Nat := []
  /-- it has stepped in the epoch so far (R215) -/
  stepped : Bool := false
  /-- a compact request waits to suspend or evict it once its operation ends (R207) -/
  compactAct : Bool := false
  deriving DecidableEq, Repr

/-- A swap-table entry (R221). -/
structure SwapEnt where
  run : Nat
  pageNo : Nat
  handle : Nat
  deriving DecidableEq, Repr

/-- The policy registers as they are in effect: a write takes effect at the next epoch boundary (chapter 06, Registers). -/
structure Policy where
  weight : Nat := 0x10080201
  quantum : Nat := 50
  age : Nat := 8
  sched : Nat := 0x1041
  deriving DecidableEq, Repr

/-- A Snapshot Table entry (R234). -/
structure Snap where
  /-- 0 free; 1 allocated; 2 capturing; 3 complete; 4 failed -/
  state : Nat := 0
  mem : Bool := false
  lock : Bool := false
  late : Bool := false
  pin : Bool := false
  flushed : Bool := false
  run : Nat := 0
  ticket : Option Nat := none
  ring : Option Nat := none
  segBase : Nat := 0
  dcc : Nat := 0
  segsValid : Nat := 0
  pageCount : Nat := 0
  pauseNs : Nat := 0
  epoch : Nat := 0
  /-- the requested AT cycle (R226) -/
  atCycle : Nat := 0
  /-- ports are to be flushed (R225) -/
  flush : Bool := false
  /-- the capture is due: the run is to pause at its snapshot cycle -/
  due : Bool := false
  /-- cleared segments: the extents are allocated -/
  alloc : Bool := false
  /-- a write of a segment failed -/
  bad : Bool := false
  /-- taken by a trigger's action: TKT_VALID reads 0 -/
  trig : Bool := false
  /-- segment headers as captured, BODY_CRC still 0 -/
  heads : List (List Byte) := []
  deriving DecidableEq, Repr

/-- A Ring Table entry (R236). -/
structure Ring where
  flush : Bool := false
  run : Nat := 0
  slots : Nat := 1
  next : Nat := 0
  first : Nat := 0
  period : Nat := 1
  memEvery : Nat := 0
  skipped : Nat := 0
  taken : Nat := 0
  /-- DCC of the latest boundary at which a snapshot fell due -/
  lastDue : Nat := 0
  /-- a snapshot fell due before its slot's last one was complete: it is taken at the first boundary after that, late (R230) -/
  owed : Bool := false
  deriving DecidableEq, Repr

/-- Sequence state of a trigger unit besides its registers (R240–R243). -/
structure TrigRt where
  /-- tile and slot it is loaded in -/
  slot : Option (Nat × Nat) := none
  /-- P of the run's previous design cycle since arming (MODE 4) -/
  prev : Option Nat := none
  /-- cycle of its arming, when a firing or an expiry armed it: it evaluates later cycles -/
  armedAt : Option Nat := none
  deriving DecidableEq, Repr

/-- A background compaction move (R188). -/
structure CompMove where
  handle : Nat
  granule : Nat
  deriving DecidableEq, Repr

/-- The Sorting Office. -/
structure SoSt where
  /-- Design Table | 1,024 entries | 06 R189 | all free -/
  designs : SMap Design := []
  /-- Run Table | 4,096 entries | 06 R192 | all EMPTY -/
  runs : SMap Run := []
  /-- Bay table, bay-planes by 4(64n + b) + p | 2,048 records | 06 R193 | all FREE -/
  bps : SMap BpRec := []
  /-- swap table | 256 entries | 06 R221 | none valid -/
  swaps : SMap SwapEnt := []
  /-- Page Map cache | 131,072 entries | 06 R184 | empty -/
  pmCache : SMap PmEnt := []
  /-- handles allocated, with stack, granule and length | allocator | 06 R186, R187, R191 | none -/
  pmAlloc : SMap (Nat × Nat × Nat) := []
  /-- an invalidation of the cache is in progress | 1 bit | 06 R184 | false -/
  invalidating : Bool := false
  /-- epochs each bay has held no page and no reservation | counts | 06 R206 | 0 -/
  bayIdle : SMap Nat := []
  /-- policy in effect | 4 × 32 bits | 06 Registers | reset values -/
  pol : Policy := {}
  /-- pause-window requesters pending: 0–7 HBn, 8–19 DCc, 20 + 8n + g Courier groups | set | 06 R219 | none -/
  pauseReq : List Nat := []
  /-- requester last granted | round-robin pointer | 06 R219 | none granted -/
  pauseLast : Nat := 83
  /-- requester granted a pause window in this epoch | 1 of 84 | 06 R219 | none -/
  pauseGrant : Option Nat := none
  /-- tiles granted a retune window in this epoch | set | 06 R219 | none -/
  retuneGrant : List Nat := []
  /-- readiness vector of step 3 of the last strobe | 53 bits | 01 R32, R33 | 0 -/
  ready : Nat := 0
  /-- the Page Map is prepared | 1 bit | 01 R34 | false -/
  mapReady : Bool := false
  /-- position, sum and poisoned mark of the Page Map sweep | handle, count, flag | 11 R330 | 0 -/
  sweepPos : Nat := 0
  sweepSum : Nat := 0
  sweepBad : Bool := false
  /-- compaction moves in progress, one per stack | 8 | 06 R188 | none -/
  comp : SMap CompMove := []
  /-- runs that compact requests suspend and that are not yet saved: ticket and run | list | 06 R207 | none -/
  compactRuns : List (Nat × Nat) := []
  /-- runs that compact requests whose tickets are not done have suspended and that wait to be placed again: ticket and run | list | 06 R199 | none -/
  compactBack : List (Nat × Nat) := []
  /-- operations whose allocation failed and is retried when the compaction ends: 0–63 a client's, 64 + j load j's, 128 + g ring g's | set | 06 R188 | none -/
  compTried : List Nat := []
  /-- run that holds the module in Exclusive mode | run | 06 R218 | none -/
  exclRun : Option Nat := none
  /-- Snapshot Table | 1,024 entries | 07 R234 | all free -/
  snaps : SMap Snap := []
  /-- Ring Table | 64 entries | 07 R236 | none valid -/
  rings : SMap Ring := []
  /-- trigger units | 64 | 07 R240 | not armed, not loaded -/
  trigs : SMap TrigRt := []
  /-- runs being single-stepped: run to ticket and DCC at its start | list | 07 R246, R247 | none -/
  steps : SMap (Nat × Nat) := []
  /-- run placed by the latest eviction decision, whose start SO_SWITCH_US times | run | 06 SO_SWITCH_US | none -/
  switchRun : Option Nat := none
  deriving DecidableEq, Repr

/-- A load in progress (R158–R167). -/
structure Load where
  /-- ticket of LOAD_BEGIN -/
  ticket : Nat := 0
  client : Nat := 0
  /-- 0 Vollor pieces; 1 image store entry; 2 memory range -/
  source : Nat := 0
  /-- store entry, or address of the range -/
  srcArg : Nat := 0
  srcLen : Nat := 0
  place : Bool := false
  prio : Nat := 0
  tileMask : Nat := 0xFF
  wholeBay : Bool := false
  /-- piece buffer: bytes received and not yet consumed by the intake -/
  piece : List Byte := []
  /-- bytes of the image consumed so far, image offset 0 first -/
  bytes : List Byte := []
  /-- header checked; descriptors reserved; chunks decrypted; trailer checked -/
  hdrOk : Bool := false
  reserved : Bool := false
  chunks : Nat := 0
  trailerOk : Bool := false
  /-- signatures verified -/
  sigOk : Bool := false
  /-- plaintext payload decrypted so far -/
  plain : List Byte := []
  /-- payload bytes written and acknowledged -/
  acked : Nat := 0
  /-- Design Table slot, first handle of its PENDING pages, and bay-planes reserved -/
  slot : Option Nat := none
  cfgBase : Nat := 0
  bps : List (Nat × Nat) := []
  /-- a mode change took its bay-planes: its run is created in IDLE (R475) -/
  unplaced : Bool := false
  deriving DecidableEq, Repr

/-- The Franking Unit and its fuses (R154–R157, R490, R542). -/
structure FkSt where
  /-- owner of the open unlocked sequence | master ID | 05 R154 | none -/
  unlocked : Option Nat := none
  /-- fuse key | 256 bits | 05 R155, 19 R542 | not programmed -/
  fuseKey : Option Nat := none
  /-- battery-backed key, domain VBAT | 256 bits | 05 R153 | none held -/
  bkey : Option Nat := none
  /-- BKEY_FORBID fuse | 1 bit | 05 R155, 19 R542 | 0 -/
  bkeyForbid : Bool := false
  /-- staged key words | 2 × 8 × 32 bits | 05 R155 | 0 -/
  fkeyStage : SMap Word := []
  bkeyStage : SMap Word := []
  /-- image-signer slots: hash | 4 × 384 bits | 05 R156, 19 R542 | not programmed -/
  imgSlots : SMap Nat := []
  imgRevoked : List Nat := []
  imgStage : SMap Word := []
  /-- firmware-signer slots: hash | 2 × 384 bits | 17 R490, 19 R542 | not programmed -/
  fwSlots : SMap Nat := []
  fwRevoked : List Nat := []
  fwStage : SMap Word := []
  /-- fuse programming in progress: 0 fuse key, 1 BKEY_FORBID, 2 image slot, 3 image revocation, 4 and 5 as 2 and 3 for firmware | — | 05 R155 | none -/
  busy : Option Nat := none
  busyVal : Nat := 0
  /-- VBAT above its threshold | 1 bit | 05 FK_BKEY_STAT | true, DESIGN CHOICE -/
  vbatOk : Bool := true
  /-- a loss of the key is to be recorded at the next HUB power-up | 1 bit | 05 R157 | false -/
  vbatLost : Bool := false
  /-- fused MAC base address, MP IPv4 address, serial number, silicon revision | 48, 32, 64, 16 bits | 13 R373, R374; 14 INFO | 0, DESIGN CHOICE -/
  macBase : Nat := 0
  mpIp4 : Nat := 0
  serial : Nat := 0
  siliconRev : Nat := 0
  /-- loads in progress | up to 4 | 05 R159 | none -/
  loads : SMap Load := []
  deriving DecidableEq, Repr

end Sys2Proof.Machine
end

