-- ==== Sys2Proof/Machine/StPort.lean ====
section
/-!
DEFINITION. State of the host ports and the Vollor engine, the Courier link, the Postmaster with the mode logic, and the
boot flash with the update block (spec chapters 13 to 17 and 19).
-/
namespace Sys2Proof.Machine

/-- The sender of an envelope: MAC address, IP address and UDP port (R375). -/
structure Peer where
  mac : Nat := 0
  ip : Nat := 0
  udp : Nat := 0
  deriving DecidableEq, Repr

/-- A Vollor request past the intactness check (R376). -/
structure VReq where
  port : Nat
  v6 : Bool := false
  /-- where it came from, for the reply (R375) -/
  peer : Peer := {}
  version : Nat := 1
  flags : Nat := 0
  opcode : Nat
  client : Nat
  seq : Nat
  status : Nat := 0
  ticket : Nat := 0
  aux : Nat := 0
  stream : Nat := 0
  payload : List Byte := []
  /-- ticket entry reserved at admission (R389) -/
  resv : Option Nat := none
  deriving DecidableEq, Repr

/-- A reply as it leaves a port (R376, R401). -/
structure VReply where
  port : Nat
  /-- MAC, IP address and UDP port that it goes to (R375) -/
  peer : Peer := {}
  flags : Nat := 1
  opcode : Nat
  client : Nat
  seq : Nat
  status : Nat
  orig : Nat := 0
  mode : Nat
  ticket : Nat := 0
  aux : Nat := 0
  stream : Nat := 0
  payload : List Byte := []
  /-- an intake buffer returns when it leaves (R390) -/
  buf : Bool := false
  /-- the warm module reset of SYSTEM_RESET begins after it leaves (R408) -/
  thenReset : Bool := false
  deriving DecidableEq, Repr

/-- A reply as it left a port: its frame's VLAN tag, 0 for none, and the envelope's bytes (R370, R375, R376). -/
structure SentEnv where
  reply : VReply
  vid : Nat := 0
  bytes : List Byte := []
  deriving DecidableEq, Repr

/-- A window slot of a client (R381, R382): a passed SEQ, with its reply once answered. -/
structure WinSlot where
  seq : Nat
  reply : Option VReply := none
  deriving DecidableEq, Repr

/-- A client slot (R380, R381). -/
structure Client where
  isOpen : Bool := false
  h : Nat := 0
  slots : List WinSlot := []
  deriving DecidableEq, Repr

/-- The work a ticket stands for (R406). -/
inductive TktWork where
  | none
  | modeSet
  | load (slot : Nat)
  | storeErase (entry : Nat)
  | runOp (run : Nat)
  | access (job : Nat)
  | snapTake (entry : Nat)
  | snapRestore (run : Nat)
  | step (run : Nat)
  | update
  | updDiscard
  | settings
  | logClear
  | link (tile : Nat)
  | compact
  deriving DecidableEq, Repr

/-- A ticket entry (R385, R386). -/
structure Ticket where
  /-- generation carried by the handle of the ticket in the entry, or of the next one -/
  gen : Nat := 1
  /-- the entry holds a ticket -/
  used : Bool := false
  /-- reserved by an admitted access (R389) -/
  resv : Bool := false
  client : Nat := 0
  state : Nat := 0
  err : Nat := 0
  part : Nat := 0
  prog : Nat := 0
  data : List Byte := []
  work : TktWork := .none
  deriving DecidableEq, Repr

/-- The kind of an access job (R413, R421). -/
inductive JobKind where
  | read | write | readList | writeList | fill | dbgRead | dbgWrite | dbgCore
  deriving DecidableEq, Repr

/-- One piece of an access job: its Rounds request and its outcome once it has ended. -/
structure JobPiece where
  addr : Nat
  len : Nat
  wdata : List Byte := []
  outcome : Option (Nat × Nat) := none
  rdata : List Byte := []
  issued : Bool := false
  deriving DecidableEq, Repr

/-- An access job of the Vollor engine. -/
structure Job where
  kind : JobKind
  req : VReq
  pieces : List JobPiece := []
  /-- FILL: range and pattern; its pieces are made as they are issued -/
  addr : Nat := 0
  len : Nat := 0
  pattern : Nat := 0
  nextOff : Nat := 0
  doneBytes : Nat := 0
  /-- CONSUME of DBG_READ -/
  consume : Bool := false
  /-- ticket entry it holds, and whether ACCEPTED has been answered -/
  ticket : Nat
  deferred : Bool := false
  cancelled : Bool := false
  /-- first failure in address order: bytes before it, STATUS, CAUSE -/
  bad : Option (Nat × Nat × Nat) := none
  deriving DecidableEq, Repr

/-- A stream (R395–R399). -/
structure Stream where
  run : Nat
  toHost : Bool
  ringBase : Nat
  logSize : Nat
  ctl : Nat
  allot : Nat
  /-- buffers in use, oldest first, each of up to 256 bytes -/
  bufs : List (List Byte) := []
  /-- stream offset of the next byte expected from the host -/
  nextOff : Nat := 0
  deriving DecidableEq, Repr

/-- An address answer or echo a port sends (R372, R374, R400). -/
inductive NetTx where
  | arp (ip : Nat) (mac : Nat)
  | neighbour (ip : Nat) (mac : Nat)
  | echo (v6 : Bool) (data : List Byte)
  | dhcp (renew : Bool)
  deriving DecidableEq, Repr

/-- The Vollor engine and the Ethernet ports. -/
structure VlSt where
  /-- admitted requests waiting for dispatch, oldest first | 1,024 + 1,024 + 64 | 13 R390, R393 | empty -/
  intake : List VReq := []
  /-- intake buffers in use of MP, HP0 and HP1 | 3 counts | 13 R390 | 0 -/
  bufs : SMap Nat := []
  /-- dispatched requests whose handler has not run, oldest first | list | 13 R393, 14 R403 | empty -/
  handed : List VReq := []
  /-- duplicates held until their original is answered | list | 13 R381 | empty -/
  heldDup : List VReq := []
  /-- LANE_RETIRE requests whose group left service before the acknowledgement | list | 00 R11 | none -/
  owed : List VReq := []
  /-- replies queued on the ports, oldest first | list | 13 R391 | empty -/
  replies : List VReply := []
  /-- last reply and last protocol answer that left each port | wires to the partner | 13 R375, R372 | none -/
  sent : SMap SentEnv := []
  netTx : SMap NetTx := []
  /-- clients | 64 | 13 R380 | all closed -/
  clients : SMap Client := []
  /-- ticket table | 4,096 entries | 13 R385 | never used -/
  tickets : SMap Ticket := []
  /-- access jobs in progress | list by job number | 14 R413 | none -/
  jobs : SMap Job := []
  nextJob : Nat := 0
  /-- streams | up to 16,384 | 13 R395 | none open -/
  streams : SMap Stream := []
  /-- DHCPv4 lease held, by logical port | 9 × 1 bit | 13 R374 | none -/
  lease : List Nat := []
  /-- replay store assigned | 1 bit | 13 R384 | false -/
  store : Bool := false
  deriving DecidableEq, Repr

/-- A bundle slot of a Courier block (R426). -/
structure CrSlot where
  tag : Nat
  cyc : Nat
  data : Word
  deriving DecidableEq, Repr

/-- A Courier block (R425–R427). -/
inductive CrBlk where
  | bundles (slots : List CrSlot)
  | idle
  | marker (interval cwPos lane group localTag mirror : Nat)
  | replayReq (lane interval first blocks : Nat)
  | takeoverReq (lane : Nat)
  | takeoverAck (lane : Nat)
  | handback (lane : Nat)
  | eqReq (lane tap : Nat) (step : Int)
  | eqAck (lane tap : Nat) (value : Int)
  | dlpEnter
  | dlpAck
  deriving DecidableEq, Repr

/-- Run-time state of a Courier lane (R433–R448). -/
structure CrLane where
  /-- blocks sent, newest first: (interval, block, content) | last 16,384 | 15 R434 | empty -/
  replay : List (Nat × Nat × CrBlk) := []
  /-- last block sent, header in bits [1:0], payload as mixed under R324 | 258 bits | 15 R425, 10 R324 | 0 -/
  out : Nat := 0
  /-- interval and first block of the next codeword expected | 32 + 14 bits | 15 R433 | 0 -/
  next : Nat × Nat := (0, 0)
  /-- outcomes of the last codewords, newest first, true = uncorrectable | up to 64 | 15 R437 | empty -/
  window : List Bool := []
  /-- transmit taps | 6 values | 15 R442 | 0, DESIGN CHOICE -/
  taps : SMap Int := []
  /-- state before deep low-power | lane state | 15 R448 | 0 -/
  before : Nat := 0
  /-- corrected symbols in this epoch and in the last one | 2 counts | 14 LANE_STATUS | 0 -/
  corrNow : Nat := 0
  corrLast : Nat := 0
  deriving DecidableEq, Repr

/-- A takeover or adaptation step in progress on a group (R438, R439, R442, R443). -/
structure CrMove where
  lane : Nat
  /-- 0 failure takeover; 1 LANE_RETIRE; 2 adaptation step -/
  kind : Nat
  /-- TAKEOVER_ACK received -/
  acked : Bool := false
  tap : Nat := 0
  step : Int := 0
  oldTap : Int := 0
  deriving DecidableEq, Repr

/-- Run-time state of a Courier group. -/
structure CrGroup where
  /-- egress buffer, oldest first | 4,096 bundles | 15 R451 | empty -/
  egress : List CrSlot := []
  /-- control blocks to be sent: lane and block, oldest first | list | 15 R427 | empty -/
  ctl : List (Nat × CrBlk) := []
  /-- blocks of the transmit stream sent since it entered service | count | 15 R432 | 0 -/
  seq : Nat := 0
  /-- INTERVAL and block index within it, transmit side | 32 + 14 bits | 15 R428 | 0 -/
  interval : Nat := 0
  block : Nat := 0
  /-- blocks under recovery by replay, behind which delivery waits: (lane, interval, first block) | list | 15 R433 | empty -/
  missing : List (Nat × Nat × Nat) := []
  /-- takeover or adaptation step in progress | — | 15 R438, R442 | none -/
  move : Option CrMove := none
  /-- tap change asked for by the peer, waiting for a pause window: lane, tap, step | — | 15 R442 | none -/
  eqPend : Option (Nat × Nat × Int) := none
  /-- DLP_ENTER sent and DLP_ACK not yet received | 1 bit | 15 R446 | false -/
  dlpWait : Bool := false
  /-- LANE_RETIRE request waiting for its answer | request | 15 R439 | none -/
  retire : Option VReq := none
  deriving DecidableEq, Repr

/-- The Courier of one tile. -/
structure CrTile where
  groups : SMap CrGroup := []
  lanes : SMap CrLane := []
  /-- LINK_CONFIG ticket of the training, power-down entry or exit in progress | ticket | 14 R406 | none -/
  ticket : Option Nat := none
  /-- an op waits for the CRn domain to power up: op and configuration words | — | 16 R463 | none -/
  waitOp : Option (Nat × List Word) := none
  /-- exit in progress | 1 bit | 15 R447 | false -/
  exiting : Bool := false
  /-- full training runs in place of the exit | 1 bit | 15 R447 | false -/
  fullTrain : Bool := false
  deriving DecidableEq, Repr

/-- State of a power domain other than AON, DBG and VBAT (R45, R46, R459). -/
structure DomSt where
  /-- 0 off; 1 wake row running; 2 on; 3 powering down, before isolation -/
  ph : Nat := 0
  /-- attempts of the wake row, 1–3 -/
  attempts : Nat := 0
  /-- waiting between attempts -/
  waiting : Bool := false
  /-- a request waits for its parents, or for the end of the power-down -/
  wanted : Bool := false
  deriving DecidableEq, Repr

/-- Who asked for a mode change (R467). -/
inductive ModeSrc where
  | vollor | debug | trigger | auto | boot
  deriving DecidableEq, Repr

/-- A mode request (R8, R467). -/
structure ModeReq where
  src : ModeSrc
  target : Nat
  run : Nat := 0
  unit : Nat := 0
  ticket : Option Nat := none
  deriving DecidableEq, Repr

/-- A mode change in progress (R466). -/
structure ModeChg where
  req : ModeReq
  origin : Nat
  /-- the event log has been flushed for this entry to mode 4 or 11 -/
  flushed : Bool := false
  /-- a boot-flash program or erase in progress at this entry to mode 11 has yet to complete (R471) -/
  flashDue : Bool := false
  deriving DecidableEq, Repr

/-- The Postmaster and the mode logic. -/
structure PwSt where
  /-- AON supply valid | 1 bit | 19 R522 | true -/
  aon : Bool := true
  /-- PWR_EN level | 1 bit | 19 R523 | high -/
  pwrEn : Bool := true
  /-- PWR_EN waits for every regulator to report its outputs off | 1 bit | 19 R523 | false -/
  pwrEnWait : Bool := false
  /-- REF_EN[2:0] | 3 bits | 19 R526 | 0 -/
  refEn : Nat := 0
  /-- the crystal is qualified; the MP clock is qualified | 2 bits | 16 R455, R459 | false -/
  crystal : Bool := false
  mpClock : Bool := false
  /-- domains by the codes of R507: PM_DOM_STAT bit, 32 RND, 0x200 + bay, 0x400 + bank | states | 01 R44–R46 | off -/
  doms : SMap DomSt := []
  /-- W row waits between attempts | 1 bit | 16 R460 | false -/
  wWait : Bool := false
  /-- mode to return to when a W row fails | mode | 16 R461 | 1 -/
  wakeFrom : Nat := 1
  /-- this wake is a cold reset (COLD_TARGET applies) rather than a wake from 4 or 11 | 1 bit | 16 R465 | true -/
  cold : Bool := true
  /-- this start follows a wake source: boot ends in WAKE_TARGET | 1 bit | 16 R465, R472 | false -/
  toWake : Bool := false
  /-- an emergency power-off is still to be recorded by firmware | 1 bit | 16 R470 | false -/
  epoNote : Bool := false
  /-- a wake source held until the emergency's cause clears | source | 16 R470 | none -/
  heldWake : Option Nat := none
  /-- PG inputs that are low, and regulator pages found out of range | sets | 16 R457 | none -/
  pgLow : List Nat := []
  pageBad : List (Nat × Nat) := []
  /-- consecutive PMBus failures of each regulator | counts | 19 R524 | 0 -/
  pmbusErr : SMap Nat := []
  /-- sum of READ_POUT at the last poll | mW | 19 R524 | 0 -/
  pout : Nat := 0
  /-- consecutive windows of each reference outside, and inside, the tolerance | 2 × 3 counts | 16 R456 | 0 -/
  refBad : SMap Nat := []
  refGood : SMap Nat := []
  refFail : List Nat := []
  /-- WARN_C event already sent | 1 bit | 16 R458 | false -/
  warned : Bool := false
  /-- hottest reading in 1/16 °C | 16 bits signed | 14 R409 | 0 -/
  hot16 : Int := 0
  /-- DRAM controllers at TOO_HOT | set | 16 R458 | none -/
  dramHot : List Nat := []
  /-- postmark: cycles, hours, fraction, and quarters of a µs into the fraction | 24 + 32 + 12 bits | 18 R504 | 0, DESIGN CHOICE -/
  cycles : Nat := 0
  hours : Nat := 0
  frac : Nat := 0
  fracUs : Nat := 0
  /-- mode change in progress | — | 16 R466 | none -/
  chg : Option ModeChg := none
  /-- the single pending slot | — | 16 R467 | none -/
  pend : Option ModeReq := none
  /-- mode that Halted was entered from | mode | 16 R465 | 6 -/
  haltFrom : Nat := 6
  /-- Safe Hold waits for a step boundary | 1 bit | 16 R468 | false -/
  holdDue : Bool := false
  /-- design I/O outputs forced to high impedance | 1 bit | 16 R469 | false -/
  safeZ : Bool := false
  /-- scheduling enabled by mode | 1 bit | 16 R465 | false -/
  sched : Bool := false
  /-- releases deferred by Halted or Safe Hold: run | list | 16 R545 | none -/
  deferred : List Nat := []
  /-- runs stopped with OP 3 by the mode | list | 16 R545, 07 R245 | none -/
  modeHeld : List Nat := []
  /-- image started at this HUB start: 0 none, 1 active, 2 staged on trial, 3 fallback | code | 17 R492 | 0 -/
  image : Nat := 0
  /-- boot ended without a move | 1 bit | 16 R467 | false -/
  bootStuck : Bool := false
  /-- warm reset waits for the flush of a boot-failure record | 1 bit | 17 R493 | false -/
  flushReset : Bool := false
  /-- a core has been reset by its watchdog since the start | 1 bit | 17 R495 | false -/
  wdtReset : Bool := false
  /-- readiness sources that firmware has declared: bits of R476 with no other state behind them | set | 16 R476 | none -/
  fwReady : List Nat := []
  /-- pairs of DDR5 channels whose DIMMs are fitted | 6 bits | 01 R44 | all six, DESIGN CHOICE -/
  ddrFit : List Nat := [0, 1, 2, 3, 4, 5]
  /-- hottest reading when a tile entered deep low-power, by tile | °C | 15 R447 | 0 -/
  dlpTemp : SMap Int := []
  deriving DecidableEq, Repr

/-- A boot record (R491). -/
structure BootRec where
  gen : Nat := 0
  next : Nat := 0
  stage : Nat := 0
  promote : Nat := 0
  verA : Nat := 0
  verS : Nat := 0
  verF : Nat := 0
  deriving DecidableEq, Repr

/-- A settings copy (R500). -/
structure SetCopy where
  valid : Bool := false
  format : Nat := 0
  gen : Nat := 0
  recs : SMap (List Byte) := []
  deriving DecidableEq, Repr

/-- An image store entry (R489). -/
structure StoreEnt where
  valid : Bool := false
  designId : Nat := 0
  len : Nat := 0
  bytes : List Byte := []
  deriving DecidableEq, Repr

/-- A flash operation waiting (R499): a settings write goes before the others. -/
inductive FlashOp where
  /-- a settings record to be written -/
  | settings (key : Nat) (value : List Byte) (ticket : Option Nat)
  /-- staging bytes to be programmed -/
  | stage (bytes : List Byte)
  /-- sectors of staging still to be erased for UPDATE_DISCARD, and erased -/
  | stageErase (left done ticket : Nat)
  /-- sectors of a store entry still to be erased, and erased -/
  | storeErase (entry left done ticket : Nat)
  deriving DecidableEq, Repr

/-- Staging in progress (R494, R418). -/
structure Staging where
  ticket : Nat
  len : Nat
  /-- bytes received, and bytes programmed -/
  got : Nat := 0
  programmed : Nat := 0
  deriving DecidableEq, Repr

/-- The boot flash and the update block. -/
structure FlSt where
  /-- partition table checks; device size; store entry count E | — | 17 R488 | good, 2 Gib, 8: DESIGN CHOICE -/
  tableOk : Bool := true
  size : Nat := 0x10000000
  entries : Nat := 8
  /-- boot records | 2 | 17 R491 | GEN 1 and 0, DESIGN CHOICE -/
  rec0 : Option BootRec := some { gen := 1 }
  rec1 : Option BootRec := none
  /-- firmware partitions: contents | 3 × 16 MiB | 17 R488 | empty, DESIGN CHOICE -/
  active : List Byte := []
  staging : List Byte := []
  fallback : List Byte := []
  /-- settings copies A and B | 2 × 1 MiB | 17 R500 | not valid, DESIGN CHOICE -/
  setA : SetCopy := {}
  setB : SetCopy := {}
  /-- image store | E entries | 17 R489 | not valid, DESIGN CHOICE -/
  store : SMap StoreEnt := []
  /-- operations waiting, in order of arrival; the one of highest precedence is performed | list | 17 R499 | none -/
  ops : List FlashOp := []
  /-- staging in progress | — | 17 R494 | none -/
  stg : Option Staging := none
  /-- store entry that a load is writing | entry | 14 R410 | none -/
  storeBusy : List (Nat × Nat) := []
  deriving DecidableEq, Repr

/-- Wake-row and scratchpad state of the banks besides their registers and arrays. -/
structure SpSt where
  /-- handover in progress: bank to new owner | 16 × 8 bits | 17 R481 | none -/
  handing : SMap Nat := []
  /-- words with a double-bit error, by byte address | set | 17 R485 | none -/
  bad : List Nat := []
  deriving DecidableEq, Repr

end Sys2Proof.Machine
end

