-- ==== Sys2Proof/Machine/StSystem.lean ====
section
/-!
DEFINITION. State of the hub's management plane: Event Recorder, Tally, Rounds, memory controllers, inline crypto and
the debug domain (spec chapters 08 to 12 and 18).
-/
namespace Sys2Proof.Machine

/-- The KEY of an event (R505). -/
structure EvKey where
  typ : Nat
  sev : Nat
  loc : Nat
  ctx : Nat
  addr : Nat
  deriving DecidableEq, Repr

/-- A postmark of the AON counters (R504). -/
structure Postmark where
  cycles : Nat := 0
  hours : Nat := 0
  frac : Nat := 0
  deriving DecidableEq, Repr

/-- An event in the recorder's intake (R508). -/
structure EvIn where
  key : EvKey
  detail : List Nat
  merge : Bool
  mark : Postmark
  /-- epoch of the arrival -/
  epoch : Nat := 0
  deriving DecidableEq, Repr

/-- A record of the log (R503, R511), with the epoch of its postmark. -/
structure EvRec where
  key : EvKey
  detail : List Nat
  cont : Bool
  mark : Postmark
  rep : Nat
  epoch : Nat
  cursor : Nat
  deriving DecidableEq, Repr

/-- One half of the event-log partition (R515): what its checkpoint and batches hold. -/
structure EvHalf where
  valid : Bool := false
  gen : Nat := 0
  /-- checkpoint: the log's slots -/
  ckpt : SMap EvRec := []
  /-- flush batches after it, oldest first: slots with their contents, none when freed -/
  batches : List (List (Nat × Option EvRec)) := []
  erased : Bool := true
  used : Nat := 0
  deriving DecidableEq, Repr

/-- The Event Recorder. -/
structure EvSt where
  /-- intake | 4,096 events | 18 R508 | empty -/
  intake : List EvIn := []
  /-- log slots | 8,192 records | 18 R511 | empty -/
  slots : SMap EvRec := []
  /-- next cursor | 32 bits | 18 R511 | 0 -/
  cursor : Nat := 0
  /-- slot of the last record | 13 bits | 18 R509 | none -/
  last : Option Nat := none
  /-- slots changed or freed since the last flush | set | 18 R515 | none -/
  dirty : List Nat := []
  /-- LOG_CLEAR requests awaiting the next strobe: level and ticket | list | 18 R514 | none -/
  clears : List (Nat × Nat) := []
  /-- the two flash halves: valid checkpoint, GEN, contents, erased, bytes used | 2 × 32 MiB | 18 R515 | not valid, erased: DESIGN CHOICE -/
  halfA : EvHalf := {}
  halfB : EvHalf := {}
  /-- half that a checkpoint in progress is written to; the next flush is to be one | 1 bit each | 18 R515, R517 | false -/
  ckpt : Bool := false
  nextCkpt : Bool := false
  /-- slots of the flush in progress still to be written | list | 18 R516 | no flush -/
  flushing : Option (List Nat) := none
  /-- flush waiting for the other half's erase | 1 bit | 18 R515 | false -/
  flushWait : Bool := false
  /-- the flush in progress is one of a mode 4 or 11 entry | 1 bit | 18 R516 | false -/
  flushMode : Bool := false
  /-- epochs since the last flush started | count | 18 R516 | 0 -/
  sinceFlush : Nat := 0
  /-- log carries on in the hub alone after flash failures | 1 bit | 18 R517 | false -/
  flashDead : Bool := false
  /-- leaves of ledger 338: ARRIVED, DISCARDED, OVERWRITTEN, CLEARED (HELD is computed) | 4 × 32 bits | 11 R331 | 0 -/
  arrived : Nat := 0
  discarded : Nat := 0
  overwritten : Nat := 0
  cleared : Nat := 0
  deriving DecidableEq, Repr

/-- The packet kinds of R349 that the model carries. -/
inductive PktKind where
  | readReq | writeReq | readResp | writeResp | returned | resume
  deriving DecidableEq, Repr

/-- A Rounds packet (R348). -/
structure Pkt where
  kind : PktKind
  age : Nat := 0
  src : Nat
  dst : Nat
  peek : Bool := false
  repoch : Nat := 0
  /-- byte-enable mask when BEM = 1 -/
  bem : Option Nat := none
  mid : Nat
  tag : Nat := 0
  /-- data bytes, 1–256 -/
  len : Nat
  status : Nat := 0
  cause : Nat := 0
  addr : Nat
  data : List Byte := []
  /-- ring and direction chosen at injection (R346) -/
  ring : Nat := 0
  dir : Nat := 0
  /-- the request has been returned once and still counts as accepted behind its destination (R362) -/
  back : Bool := false
  /-- the stop whose input buffer holds the packet, while it is on a ring (R343) -/
  pos : Nat := 0
  /-- cycles that it has waited at the head of its injection queue (R353) -/
  waited : Nat := 0
  /-- a flit of it was NAKed: it stands in the retry buffer of the link out of `pos` (R365) -/
  nak : Bool := false
  deriving DecidableEq, Repr

/-- Who receives the response of an outstanding request. -/
inductive Origin where
  /-- a master that answers for itself (a core, a tile engine, a user-design port) -/
  | master
  /-- piece of an access job of the Vollor engine -/
  | job (id piece : Nat)
  /-- the debug access engine -/
  | debug
  /-- fill or uncached access of a memory-model port, and its write-back (R138) -/
  | mmpFill (n k : Nat)
  | mmpWb (n k : Nat)
  deriving DecidableEq, Repr

/-- An entry of a stop's outstanding table (R355–R357). -/
structure OutEnt where
  pkt : Pkt
  origin : Origin
  /-- the timer has expired and the late response has not arrived -/
  late : Bool := false
  deriving DecidableEq, Repr

/-- A request held behind a stop, with the domain code it waits for (R360). -/
structure HeldPkt where
  pkt : Pkt
  dom : Nat
  deriving DecidableEq, Repr

/-- The Rounds. -/
structure RndSt where
  /-- outstanding tables: 2,048 × stop + tag | 18 × 2,048 entries | 12 R355 | free -/
  out : SMap OutEnt := []
  /-- packets on the rings, in the input buffers of their stops, those of one buffer oldest first | 18 × 16 × 32 flit entries | 12 R343 | none -/
  net : List Pkt := []
  /-- packets in the injection queues, oldest first; a request has spent its stamp | 18 × 18 × 64 | 12 R354 | none -/
  inj : List Pkt := []
  /-- link sequence numbers: 16 × stop + 2g + d | 8 bits each | 12 R343 | 0 -/
  linkSeq : SMap Nat := []
  /-- 18 × stop + destination pairs to which a stop has stopped injecting | set | 12 R362 | none -/
  blocked : List Nat := []
  /-- Poste Restante buffers: 18 stops × 64, oldest first | list | 12 R360 | empty -/
  pr : List HeldPkt := []
  /-- 18 × stop + source pairs returned to since the last notice | set | 12 R362 | none -/
  returnedTo : List Nat := []
  /-- destination stamps free at the owner, taken from the pool size | 18 × count | 11 R326 | pool size -/
  stampUsed : SMap Nat := []
  /-- stamps held: 18 × destination + stop | 324 × 0–64 | 11 R328 | 0 -/
  stampHeld : SMap Nat := []
  /-- least number of stamps held in the epoch so far, same index; and what was held unspent for a whole epoch and is still to be returned | 2 × 324 counts | 11 R328 | 0 -/
  stampIdle : SMap Nat := []
  stampDue : SMap Nat := []
  /-- requests accepted behind each stop | 18 × count | 11 R326 | 0 -/
  accepted : SMap Nat := []
  /-- first dead letter of the epoch at each stop | 18 × KEY | 12 R364 | none -/
  deadFirst : SMap EvKey := []
  /-- NAKs of the epoch and consecutive NAKs of a flit: 16 × stop + 2g + d | counts | 12 R365 | 0 -/
  naks : SMap Nat := []
  nakRun : SMap Nat := []
  /-- last response delivered to each master ID | wires to the master | 12 R357 | none -/
  delivered : SMap Pkt := []
  /-- fabric accesses held for a run's next exchange phase, oldest first | list | 01 R41 | none -/
  fabHeld : List Pkt := []
  deriving DecidableEq, Repr

/-- A leaf copy (R332): its value and whether its parity is good. -/
structure LeafCopy where
  val : Nat := 0
  good : Bool := true
  deriving DecidableEq, Repr

/-- The Tally. -/
structure TalSt where
  /-- latch registers of the units, by leaf slot 32l + i | 12,288 × 32 bits | 11 R333 | 0 -/
  latch : SMap Nat := []
  /-- leaf copies A and B | 2 × 12,288 × 32 bits | 11 R332 | 0 -/
  leafA : SMap LeafCopy := []
  leafB : SMap LeafCopy := []
  /-- stops whose reports of this epoch have arrived | set of 18 | 11 R333 | none -/
  reported : List Nat := []
  /-- an audit of the latched values is due | 1 bit | 11 R333 | false -/
  due : Bool := false
  /-- consecutive epochs a ledger was skipped for a missing report | 384 counts | 11 R333 | 0 -/
  missing : SMap Nat := []
  /-- leaf slots awaiting the answer to a rebuild read | set | 11 R340 | none -/
  rebuild : List Nat := []
  /-- the leaves that need it have been asked for and the sums of this audit are still to come | 1 bit | 11 R340 | false -/
  asked : Bool := false
  /-- domains (by code) that were off at some time in the present epoch, and in the epoch that the latch closed | 2 sets | 11 R334 | none -/
  downInEpoch : List Nat := []
  /-- domains that were off at the last strobe, whose units' leaves are parked | set | 11 R334, R338 | none -/
  parked : List Nat := []
  down : List Nat := []
  /-- a supply was out of range, or mode 3, in the present epoch, and in the one that the latch closed | 2 × 1 bit | 11 R335 | false -/
  outside : Bool := false
  out : Bool := false
  /-- ledger 337 may be audited at this strobe | 1 bit | 11 R330 | false -/
  sweepDone : Bool := false
  deriving DecidableEq, Repr

/-- A request inside a memory controller (R279). -/
structure McReq where
  pkt : Pkt
  /-- the memory-model port that awaits the answer, when the request came through the page port (R23) -/
  port : Option Origin := none
  /-- effective age class while it waits at an input (R280) -/
  eff : Nat := 0
  /-- its number in the order of intake -/
  id : Nat := 0
  /-- blocks still to complete, the first error and the data read so far -/
  todo : Nat := 0
  cause : Nat := 0
  data : List Byte := []
  deriving DecidableEq, Repr

/-- An entry of a controller's read or write queue: one block (R279). -/
structure McBlk where
  /-- the request it belongs to -/
  id : Nat
  /-- base address of the block -/
  block : Nat
  /-- effective age class (R280) -/
  age : Nat
  /-- newer writes merged into it, oldest first (R282) -/
  also : List Nat := []
  deriving DecidableEq, Repr

/-- A retirement copy in progress (R303). -/
structure Migration where
  target : Nat
  pos : Nat
  /-- command slots that requests have taken at the target and the spare since it began (MIG_SHARE) -/
  other : Nat := 0
  deriving DecidableEq, Repr

/-- An isolated retraining step (R295). -/
structure IsoStep where
  target : Nat
  rank : Nat
  /-- delay values held at ISOLATE -/
  delays : SMap Nat
  /-- addresses of the training row, which the save buffer holds: 10 KiB with its check symbols -/
  row : List Nat
  deriving DecidableEq, Repr

/-- One memory controller besides its registers. -/
structure McSt where
  /-- requests at the Rounds input, not yet taken in, oldest first | list | 01 R24 | none -/
  inbox : List McReq := []
  /-- requests at the page port's input, the same | list | 01 R24 | none -/
  port : List McReq := []
  /-- requests taken from the page port in a row while the Rounds input waited | 0–3 | 01 R24 | 0 -/
  portRun : Nat := 0
  /-- requests taken in whose blocks are not all complete | list | 09 R279 | none -/
  reqs : List McReq := []
  /-- number of the next request | count | 09 R279 | 0 -/
  nextId : Nat := 0
  /-- read queues, oldest first | 32 or 48 blocks per target | 09 R279 | none -/
  reads : List McBlk := []
  /-- write queues, oldest first | 32 or 48 blocks per target | 09 R279 | none -/
  writes : List McBlk := []
  /-- targets whose writes are drained | set | 09 R280 | none -/
  draining : List Nat := []
  /-- open row of each bank and its hits in a row: 64 × (8 × target + rank or stack ID) + bank | row and count | 09 R280 | none -/
  rows : SMap (Nat × Nat) := []
  /-- poisoned blocks, by block base address | set | 09 R301 | none -/
  poison : List Nat := []
  /-- symbols marked erased: 4,096 × target + 64 × rank + symbol | set | 09 R299 | none -/
  erased : List Nat := []
  /-- reads of each symbol corrected in the epoch, same index | counts | 09 R299 | 0 -/
  corrCnt : SMap Nat := []
  /-- uncorrectable reads of each target in the epoch: 8 × target + rank | counts | 09 R303 | 0 -/
  ueCnt : SMap Nat := []
  /-- intervals each bank's refresh has been postponed, same index as `rows` | 0–4 | 09 R285 | 0 -/
  postponed : SMap Nat := []
  /-- delays, Vref codes and DFE taps by MC_DLY_SEL word | 9 bits each | 09 R290 | 0, DESIGN CHOICE -/
  delays : SMap Nat := []
  /-- DRAM mode registers by 2^17 × target + 2^14 × rank + 2^10 × device + register | 8 bits each | 09 R290 | 0, DESIGN CHOICE -/
  modeRegs : SMap Nat := []
  /-- MC_SPARE.FAILED was written before READY, with no retirement made | 1 bit | 09 R293 | false -/
  failSet : Bool := false
  /-- what training helpers have left in bursts that hold no data: 2^40 × (8 × target + rank) + byte | bytes | 09 R289 | none -/
  trn : SMap Byte := []
  /-- a training helper operation is running | 1 bit | 09 R289 | false -/
  training : Bool := false
  /-- isolated step in progress | — | 09 R295 | none -/
  iso : Option IsoStep := none
  /-- retirement copy in progress | — | 09 R303 | none -/
  mig : Option Migration := none
  /-- position of the patrol | block address | 09 R300 | 0 -/
  patrol : Nat := 0
  deriving DecidableEq, Repr

/-- Under which key the bytes that `State.mem` holds for a range of DRAM are the plaintext (kind 0: they are the stored
bytes themselves; 1–3: MODE; 4: the range holds the tags of region `r`, whose first line is at `base`). -/
structure Form where
  lo : Nat
  hi : Nat
  kind : Nat
  r : Nat
  e : Nat
  base : Nat := 0
  /-- from 2 up: only the 256-byte lines whose number modulo `span` is `ord` -/
  span : Nat := 0
  ord : Nat := 0
  deriving DecidableEq, Repr

/-- The form of a whole range. -/
def mkForm (lo hi kind r e base : Nat) : Form := { lo := lo, hi := hi, kind := kind, r := r, e := e, base := base }

/-- Inline crypto besides its registers. -/
structure IcSt where
  /-- forms of DRAM ranges, newest first; a range under none holds stored bytes (the model's own field) | list | 10 R309, R310 | none -/
  forms : List Form := []
  /-- root key KR | 256 bits | 10 R311 | none drawn -/
  root : Option Nat := none
  /-- 12-bit residues of WCNT | 256 × 12 bits | 10 R320 | 0 -/
  residue : SMap Nat := []
  /-- Courier key words | 4 × 32 bits | 10 IC_CR_KEY | 0 -/
  crKeys : SMap Word := []
  /-- regions being filled | set | 10 R310 | none -/
  filling : List Nat := []
  /-- regions being re-keyed, at most four | set | 10 R321 | none -/
  rekeying : List Nat := []
  /-- regions waiting for a re-key | set | 10 R321 | none -/
  waiting : List Nat := []
  deriving DecidableEq, Repr

/-- A request to the debug access engine (R253). -/
structure DbgAcc where
  /-- TAP when true; otherwise piece of a Vollor job -/
  tap : Bool
  write : Bool
  consume : Bool := false
  addr : Nat
  data : Nat := 0
  job : Nat := 0
  piece : Nat := 0
  deriving DecidableEq, Repr

/-- Virtual-terminal state of one core (R274). -/
structure VtSt where
  openDbg : Bool := false
  openFw : Bool := false
  creditDbg : Nat := 0
  creditFw : Nat := 0
  /-- firmware is in its monitor after a BREAK -/
  monitor : Bool := false
  deriving DecidableEq, Repr

/-- One management core as the debug domain sees it. -/
structure CoreSt where
  /-- registers by index 0–36: x0–x31, PC, STATUS, CTXID, EPC, CAUSE | 37 × 64 bits | 08 R261 | 0, DESIGN CHOICE -/
  regs : SMap Nat := []
  /-- cause of a halt that has not yet taken effect, in bits [2:0], and its comparator in bits [5:3] | 1–5 | 08 R258 | none -/
  haltReq : Option Nat := none
  /-- PC and CTXID at which a comparator's halt stops it, where they are known | 64 and 16 bits | 08 R266 | none -/
  haltPc : Option Nat := none
  haltCtx : Option Nat := none
  /-- exclusive reservation: granule address | 64-byte granule | 08 R269 | none -/
  reservation : Option Nat := none
  /-- interrupts pending: 0 watchdog, 1 Letterbox | set | 08 R258, R270 | none -/
  irqs : List Nat := []
  /-- watchdog held until the first release after a halted reset | 1 bit | 08 R262 | false -/
  wdtHold : Bool := false
  /-- terminal | — | 08 R274 | closed -/
  vt : VtSt := {}
  deriving DecidableEq, Repr

/-- The debug domain. -/
structure DbgSt where
  /-- TAP instruction register | 5 bits | 08 R254 | IDCODE -/
  ir : Nat := 2
  /-- boundary register drives the pins (EXTEST) | 1 bit | 08 R254 | false -/
  extest : Bool := false
  /-- outcome of the latest TAP access: STATUS, ADDR, data | 2 + 48 + 32 bits | 08 R255 | 0 -/
  tapStatus : Nat := 0
  tapAddr : Nat := 0
  tapData : Nat := 0
  /-- data register last captured | 84 bits | 08 R255 | 0 -/
  captured : Nat := 0
  /-- accesses waiting for the engine, oldest first; the head is in progress once `busy` | list | 08 R253 | none -/
  queue : List DbgAcc := []
  busy : Bool := false
  /-- outcome of the access in progress once its Rounds response has arrived: STATUS, CAUSE, data | 2 + 4 + 32 bits | 08 R253 | none -/
  outcome : Option (Nat × Nat × Nat) := none
  /-- cores | 4 | 08 R258 | as CoreSt -/
  cores : SMap CoreSt := []
  deriving DecidableEq, Repr

end Sys2Proof.Machine
end

