-- ==== Sys2Proof/Machine/State.lean ====
section
/-!
DEFINITION. The state of the block: registers, memory, the units behind them, and the queue of waiting commands; the
reasons a step can stop; the state right after a cold reset.
-/
namespace Sys2Proof.Machine

/-- Why a step would fault. The spec describes no stop of the module, so no command raises one. -/
inductive Fault where
  /-- Raised by no command: every event has an effect, or none, in every state (safe). -/
  | machineStopped
  deriving DecidableEq, Repr

/-- Why a command is refused. -/
inductive Refusal where
  /-- The command has no meaning in this model yet; raised by its arm of `exec` (safe). -/
  | notModelled (mnemonic : String)
  deriving DecidableEq, Repr

/-- The state of the module. -/
structure State where
  /-- commands waiting, first in, first out | queue | the model's own | empty -/
  pending : List Instr := []
  /-- every 32-bit register, by address, where it differs from its reset value | 32 bits each | R16 and the register tables | reset values -/
  regs : SMap Word := []
  /-- words written to a _LO register and staged until _HI is written | 32 bits each | 00 R17 | none -/
  loStage : SMap Word := []
  /-- addressed memory: scratchpads, fabric windows, HBM and DDR5, one byte each, where not 0 | 48-bit space | 01 R35, R39 | nothing listed, DESIGN CHOICE 0 -/
  mem : List Host.Cell := []
  /-- free values drawn so far (the model's own field) | count | the model's own | 0, DESIGN CHOICE -/
  draw : Nat := 0
  /-- fabric | structure | 02–05 | default -/
  fab : FabSt := {}
  /-- Sorting Office and snapshots | structure | 06, 07 | default -/
  so : SoSt := {}
  /-- Franking Unit and loads | structure | 05 | default -/
  fk : FkSt := {}
  /-- Event Recorder | structure | 18 | default -/
  ev : EvSt := {}
  /-- Rounds | structure | 12 | default -/
  rnd : RndSt := {}
  /-- Tally | structure | 11 | default -/
  tal : TalSt := {}
  /-- memory controllers, 0–7 HBn and 8–19 DC(c − 8) | 20 structures | 09 | default -/
  mcs : SMap McSt := []
  /-- inline crypto | structure | 10 | default -/
  ic : IcSt := {}
  /-- debug domain and core control | structure | 08 | default -/
  dbg : DbgSt := {}
  /-- Vollor engine and ports | structure | 13, 14 | default -/
  vl : VlSt := {}
  /-- Courier of each tile | 8 structures | 15 | default -/
  cr : SMap CrTile := []
  /-- Postmaster, domains and mode logic | structure | 01, 16, 19 | default -/
  pw : PwSt := {}
  /-- boot flash and update block | structure | 17 | default -/
  fl : FlSt := {}
  /-- scratchpad banks | structure | 17 | default -/
  sp : SpSt := {}
  deriving DecidableEq, Repr

/-- The state right after a cold reset (R48, R522, R465): mode 1, wake row W1 in its first attempt, AON and DBG powered,
wake source 5, every register at its reset value, nothing in memory, no command waiting. -/
def State.reset : State := { regs := [(0x0, 0x11), (0x4, 0x50100)] }

end Sys2Proof.Machine
end

