-- ==== Sys2Proof/Machine/Ops.lean ====
section
/-!
DEFINITION. The shared operations over the state: registers and their fields, memory bytes, free values, events,
domains, tickets, CRC-32C.
-/
namespace Sys2Proof.Machine

/-! ### Numbers and bytes -/

/-- Bits [hi:lo] of a number. -/
def bitsOf (v hi lo : Nat) : Nat := v / 2 ^ lo % 2 ^ (hi + 1 - lo)

/-- One bit of a number. -/
def bitOf (v i : Nat) : Bool := v / 2 ^ i % 2 = 1

/-- A number with bits [hi:lo] replaced. -/
def putBits (v hi lo f : Nat) : Nat :=
  v / 2 ^ (hi + 1) * 2 ^ (hi + 1) + (f % 2 ^ (hi + 1 - lo)) * 2 ^ lo + v % 2 ^ lo

/-- A truth value as a bit. -/
def b2n (b : Bool) : Nat := if b then 1 else 0

/-- The number whose little-endian bytes are given (R376, R402). -/
def leNat : List Byte → Nat
  | [] => 0
  | b :: bs => b.toNat + 256 * leNat bs

/-- The low `n` bytes of a number, least significant first. -/
def leBytes : Nat → Nat → List Byte
  | 0, _ => []
  | n + 1, v => BitVec.ofNat 8 v :: leBytes n (v / 256)

/-- The field of `n` bytes at offset `o` of a byte string. -/
def leAt (bs : List Byte) (o n : Nat) : Nat := leNat ((bs.drop o).take n)

/-- `n` zero bytes. -/
def zeroBytes (n : Nat) : List Byte := List.replicate n 0

/-- A signed number from the low `w` bits of `v`. -/
def signedOf (w v : Nat) : Int := if v % 2 ^ w < 2 ^ (w - 1) then (v % 2 ^ w : Nat) else (v % 2 ^ w : Nat) - (2 ^ w : Nat)

/-- A count raised by `n` that stops at its limit. -/
def satAdd (limit a n : Nat) : Nat := min limit (a + n)

/-- One CRC-32C step over one bit, reflected polynomial 0x82F63B78 (R150). -/
def crcBit (c : Nat) : Nat := if c % 2 = 1 then Nat.xor (c / 2) 0x82F63B78 else c / 2

/-- CRC-32C over bytes from a running remainder. -/
def crcRun : Nat → List Byte → Nat
  | c, [] => c
  | c, b :: bs =>
    crcRun (crcBit (crcBit (crcBit (crcBit (crcBit (crcBit (crcBit (crcBit (Nat.xor c b.toNat))))))))) bs

/-- CRC-32C with initial value and final exclusive-or 0xFFFF_FFFF (R150). -/
def crc32c (bs : List Byte) : Nat := Nat.xor (crcRun 0xFFFFFFFF bs) 0xFFFFFFFF

/-! ### Registers -/

/-- The value a register holds. -/
def State.rd (s : State) (r : Reg) : Nat := (SMap.get s.regs r.addr (BitVec.ofNat 32 r.rst)).toNat

/-- The state with a register holding a value. -/
def State.wr (s : State) (r : Reg) (v : Nat) : State :=
  { s with regs := SMap.set s.regs r.addr (BitVec.ofNat 32 v) (BitVec.ofNat 32 r.rst) }

/-- The mask of the fields of one access type. -/
def fieldMask (fs : List RegField) (k : Acc) : Nat :=
  fs.foldl (fun m f => if f.acc = k then Nat.lor m (2 ^ (f.hi + 1) - 2 ^ f.lo) else m) 0

/-- The bits of `m` of one word replaced by those of another. -/
def mixBits (m old new : Nat) : Nat := Nat.lor (Nat.land m new) (Nat.land (Nat.xor m (2 ^ 32 - 1)) old)

/-- A register's writable fields take a word; reserved bits keep reading zero (R19). -/
def State.wrFields (s : State) (r : Reg) (v : Nat) : State :=
  match regFind r.addr with
  | some (d, _) => s.wr r (mixBits (fieldMask d.fields .rw) (s.rd r) v)
  | none => s

/-- Bits [hi:lo] of a register. -/
def State.fld (s : State) (r : Reg) (hi lo : Nat) : Nat := bitsOf (s.rd r) hi lo

/-- One bit of a register. -/
def State.bit (s : State) (r : Reg) (i : Nat) : Bool := bitOf (s.rd r) i

/-- The state with bits [hi:lo] of a register replaced. -/
def State.setFld (s : State) (r : Reg) (hi lo v : Nat) : State := s.wr r (putBits (s.rd r) hi lo v)

/-- The state with one bit of a register replaced. -/
def State.setBit (s : State) (r : Reg) (i : Nat) (v : Bool) : State := s.setFld r i i (b2n v)

/-- The state with a saturating count in bits [hi:lo] of a register raised. -/
def State.count (s : State) (r : Reg) (hi lo n : Nat) : State :=
  s.setFld r hi lo (satAdd (2 ^ (hi + 1 - lo) - 1) (s.fld r hi lo) n)

/-- A 64-bit register pair read as one number (R17). -/
def State.rd64 (s : State) (lo hi : Reg) : Nat := s.rd lo + 2 ^ 32 * s.rd hi

/-- A 64-bit register pair replaced. -/
def State.wr64 (s : State) (lo hi : Reg) (v : Nat) : State := (s.wr lo (v % 2 ^ 32)).wr hi (v / 2 ^ 32)

/-! ### Memory -/

/-- What an address that is not listed holds: 0 (log entry 4), but in the Page Map region (R36) the byte of a free entry as it
is prepared, whose first twelve bytes are 0 and whose CHECK is that of R183 (log entry 11). -/
def blankByte (a : Nat) : Byte :=
  if 0x10000000000 ≤ a ∧ a < 0x10004000000 ∧ 12 ≤ a % 16 then
    BitVec.ofNat 8 (crc32c (zeroBytes 12 ++ leBytes 4 ((a - 0x10000000000) / 16)) / 256 ^ (a % 4))
  else 0

/-- The byte at an address. -/
def State.byte (s : State) (a : Nat) : Byte := SMap.get s.mem a (blankByte a)

/-- The canonical form of memory: addresses strictly rising, no entry equal to what its address holds unlisted. -/
def Memory.wf (m : List Host.Cell) : Bool := SMap.sorted m && m.all (fun e => decide (e.2 ≠ blankByte e.1))

/-- The state with one byte written. -/
def State.putByte (s : State) (a : Nat) (b : Byte) : State := { s with mem := SMap.set s.mem a b (blankByte a) }

/-- `n` bytes from an address. -/
def State.bytes (s : State) (a : Nat) : Nat → List Byte
  | 0 => []
  | n + 1 => s.byte a :: s.bytes (a + 1) n

/-- The state with bytes written from an address. -/
def State.putBytes (s : State) (a : Nat) : List Byte → State
  | [] => s
  | b :: bs => (s.putByte a b).putBytes (a + 1) bs

/-- The state with nothing listed from `lo` up to but not including `hi`. -/
def State.blankRange (s : State) (lo hi : Nat) : State := { s with mem := SMap.clear s.mem lo hi }

/-- The state with the bytes from `lo` up to but not including `hi` all 0. -/
def State.zeroRange (s : State) (lo hi : Nat) : State :=
  let a := max lo 0x10000000000
  (s.blankRange lo hi).putBytes a (zeroBytes (min hi 0x10004000000 - a))

/-- The state with `n` bytes copied from `src` to `dst`. -/
def State.copyMem (s : State) (src dst n : Nat) : State := s.putBytes dst (s.bytes src n)

/-- A little-endian number of `n` bytes at an address. -/
def State.le (s : State) (a n : Nat) : Nat := leNat (s.bytes a n)

/-- The state with a little-endian number of `n` bytes written. -/
def State.putLe (s : State) (a n v : Nat) : State := s.putBytes a (leBytes n v)

/-! ### Free values -/

/-- The next free value below a bound (log entry 1). -/
def State.freeVal (s : State) (bound : Nat) : Nat := Config.free s.draw % bound

/-- The state after a free value has been drawn. -/
def State.drawn (s : State) : State := { s with draw := s.draw + 1 }

/-! ### Domains (R44–R48), coded as R507 codes them -/

def domHub : Nat := 31
def domRnd : Nat := 32
def domHost : Nat := 30
def domTile (n : Nat) : Nat := n
def domCr (n : Nat) : Nat := 8 + n
def domDdr (p : Nat) : Nat := 16 + p
def domEdge (n : Nat) : Nat := 22 + n
def domBay (n b : Nat) : Nat := 0x200 + 64 * n + b
def domSp (b : Nat) : Nat := 0x400 + b

/-- The code of a domain. -/
def domCode : Dom → Nat
  | .tile n => domTile n
  | .cr n => domCr n
  | .ddr p => domDdr p
  | .edge n => domEdge n
  | .host => domHost
  | .hub => domHub
  | .rnd => domRnd
  | .bay n b => domBay n b
  | .sp b => domSp b

/-- Kind of a domain code: bay, bank, or one of the bits of PM_DOM_STAT. -/
def isBayDom (d : Nat) : Bool := 0x200 ≤ d && d < 0x400
def isSpDom (d : Nat) : Bool := 0x400 ≤ d && d < 0x410

/-- The parents of a domain; AON, always on with supply, is not listed (R45). -/
def domParents (d : Nat) : List Nat :=
  if d < 8 then [domRnd, domEdge d]
  else if d < 16 then [domTile (d - 8)]
  else if d = domHub then []
  else if isBayDom d then [domTile ((d - 0x200) / 64)]
  else [domHub]

/-- The record of a domain. -/
def State.dom (s : State) (d : Nat) : DomSt := SMap.get s.pw.doms d {}

/-- Whether a domain is on: powered and not powering down past isolation. -/
def State.domOn (s : State) (d : Nat) : Bool := (s.dom d).ph = 2 || (s.dom d).ph = 3

/-- Whether every domain of a list is on. -/
def State.allOn (s : State) (ds : List Nat) : Bool := ds.all s.domOn

/-- The state with a domain's record replaced, and PM_DOM_STAT showing whether it is powered. -/
def State.setDom (s : State) (d : Nat) (v : DomSt) : State :=
  let s1 := { s with pw := { s.pw with doms := SMap.set s.pw.doms d v {} } }
  if d < 32 then s1.setBit Reg.pmDomStat d (decide (2 ≤ v.ph)) else s1

/-- Base address of the window of tile Fn (R35). -/
def tileBase (n : Nat) : Nat := 0x1000000000 + 0x100000000 * n

/-- Whether a register address lies in a switched domain (R44 and the register tables' reset-domain lines). -/
def regInDom (d a : Nat) : Bool :=
  if d < 8 then decide (tileBase d ≤ a ∧ a < tileBase d + 0x20000)
  else if d < 16 then decide (tileBase (d - 8) + 0x80000 ≤ a ∧ a < tileBase (d - 8) + 0xA0000)
  else if d < 22 then decide (mcBase (8 + 2 * (d - 16)) ≤ a ∧ a < mcBase (8 + 2 * (d - 16)) + 0x20000)
  else if d < 30 then decide (mcBase (d - 22) ≤ a ∧ a < mcBase (d - 22) + 0x10000)
  else if d = domRnd then decide (0x40000 ≤ a ∧ a < 0x50000)
  else if d = domHub then
    decide (0x10000 ≤ a ∧ a < 0x200000) && !decide (0x40000 ≤ a ∧ a < 0x50000) &&
      a != Reg.fkBkeyStat.addr && (match regFind a with | some (r, _) => r.dom != .dbg | none => true)
  else if isBayDom d then
    decide (tileBase ((d - 0x200) / 64) + 0x20000 + 0x1000 * ((d - 0x200) % 64) ≤ a ∧
      a < tileBase ((d - 0x200) / 64) + 0x21000 + 0x1000 * ((d - 0x200) % 64))
  else false

/-- The state with the registers of a domain at their reset values (R48). -/
def State.resetRegs (s : State) (d : Nat) : State :=
  { s with regs := s.regs.filter (fun e => !regInDom d e.1)
           loStage := s.loStage.filter (fun e => !regInDom d e.1) }

/-! ### Modes and events -/

/-- The mode code (R7). -/
def State.mode (s : State) : Nat := if s.pw.aon then s.fld Reg.pmStat 3 0 else 0

/-- Whether HUB is powered. -/
def State.hubOn (s : State) : Bool := s.domOn domHub

/-- The epoch count. -/
def State.epoch (s : State) : Nat := s.rd64 Reg.mrEpochLo Reg.mrEpochHi

/-- The postmark of the AON counters now (R504). -/
def State.mark (s : State) : Postmark := ⟨s.pw.cycles, s.pw.hours, s.pw.frac⟩

/-- An event sent to the recorder: it enters the intake, or is discarded when the intake is full; while HUB is off no
event is recorded (R508, R470). -/
def State.event (s : State) (typ sev loc ctx : Nat) (addr : Nat := 0) (detail : List Nat := []) (merge : Bool := false) : State :=
  if s.hubOn then
    let e : EvIn := { key := ⟨typ, sev, loc, ctx, addr⟩, detail := detail, merge := merge, mark := s.mark, epoch := s.epoch }
    let full := decide (4096 ≤ s.ev.intake.length)
    let s1 := { s with ev := { s.ev with
      intake := if full then s.ev.intake else s.ev.intake ++ [e]
      arrived := (s.ev.arrived + 1) % 2 ^ 32
      discarded := if full then (s.ev.discarded + 1) % 2 ^ 32 else s.ev.discarded } }
    if full then s1.count Reg.evDisc 31 0 1 else s1
  else s

/-- PM_FAULT latches and shows causes; FAULT_N is driven low while any latched bit is 1 (PM_FAULT, PM_STAT.FAULT_N). -/
def State.faultN (s : State) : State := s.setBit Reg.pmStat 14 (s.fld Reg.pmFault 15 0 != 0)

/-- A cause of PM_FAULT becomes present: latched and active. -/
def State.pmFaultSet (s : State) (bit : Nat) (active : Bool) : State :=
  ((s.setBit Reg.pmFault bit true).setBit Reg.pmFault (16 + bit)
    (active || s.bit Reg.pmFault (16 + bit))).faultN

/-- A cause of PM_FAULT is no longer present. -/
def State.pmFaultEnd (s : State) (bit : Nat) : State := s.setBit Reg.pmFault (16 + bit) false

/-! ### Tickets (R385–R388) -/

/-- A ticket entry. -/
def State.tkt (s : State) (i : Nat) : Ticket := SMap.get s.vl.tickets i {}

/-- Distance from b to a, modulo 2^32. -/
def seqDist (a b : Nat) : Nat := (a + 2 ^ 32 - b % 2 ^ 32) % 2 ^ 32

/-- The status word of a ticket (R386). -/
def tktWord (t : Ticket) : Nat :=
  if t.used then t.state * 2 ^ 60 + t.err * 2 ^ 48 + min t.part 0xFFFF * 2 ^ 32 + min t.prog 0xFFFFFFFF else 0

/-- The state with a ticket entry replaced; VL_TKTi shows its status word. -/
def State.setTkt (s : State) (i : Nat) (t : Ticket) : State :=
  let s1 := { s with vl := { s.vl with tickets := SMap.set s.vl.tickets i t {} } }
  s1.wr64 (Reg.vlTktLo i) (Reg.vlTktHi i) (tktWord t)

/-- The handle of the ticket in an entry (R385): START is the low four bits of the count of HUB starts. -/
def State.handle (s : State) (i : Nat) : Nat :=
  s.fld Reg.pmHubStarts 3 0 * 2 ^ 28 + (s.tkt i).gen * 2 ^ 12 + i

/-- The lowest ticket entry that is free, searching `n` entries from `i`. -/
def State.tktFreeFrom (s : State) : Nat → Nat → Option Nat
  | _, 0 => none
  | i, n + 1 => if (s.tkt i).used || (s.tkt i).resv then s.tktFreeFrom (i + 1) n else some i

/-- The lowest free ticket entry. -/
def State.tktFree (s : State) : Option Nat := s.tktFreeFrom 0 4096

/-- A ticket issued in entry `i`, queued or active. -/
def State.tktIssue (s : State) (i client : Nat) (work : TktWork) (active : Bool) : State :=
  s.setTkt i { gen := (s.tkt i).gen, used := true, client := client, state := b2n active, work := work }

/-- Whether a ticket's work has not ended. -/
def tktLive (t : Ticket) : Bool := t.used && decide (t.state < 2)

/-- A ticket's work begins. -/
def State.tktActive (s : State) (i : Nat) : State :=
  if tktLive (s.tkt i) then s.setTkt i { s.tkt i with state := 1 } else s

/-- A ticket ends in a state with an error code; an ended ticket does not change (R386). -/
def State.tktEnd (s : State) (i : Nat) (st err : Nat) : State :=
  if tktLive (s.tkt i) then s.setTkt i { s.tkt i with state := st, err := err } else s

/-- A ticket ends, when there is one. -/
def State.tktEnd? (s : State) (i : Option Nat) (st err : Nat) : State :=
  match i with
  | some t => s.tktEnd t st err
  | none => s

/-- A ticket becomes active, when there is one. -/
def State.tktActive? (s : State) (i : Option Nat) : State :=
  match i with
  | some t => s.tktActive t
  | none => s

/-- Progress and partial-result units of a live ticket; they never decrease (R386). -/
def State.tktProgress (s : State) (i : Nat) (prog part : Nat) : State :=
  if tktLive (s.tkt i) then
    s.setTkt i { s.tkt i with prog := max (s.tkt i).prog prog, part := max (s.tkt i).part part }
  else s

/-- Units of a ticket, when there is one. -/
def State.tktProgress? (s : State) (i : Option Nat) (prog part : Nat) : State :=
  match i with
  | some t => s.tktProgress t prog part
  | none => s

/-- Result data of a ticket. -/
def State.tktData (s : State) (i : Nat) (d : List Byte) : State := s.setTkt i { s.tkt i with data := d }

/-- Status codes (R405). -/
def stOk : Nat := 0x00
def stAccepted : Nat := 0x01
def stBusy : Nat := 0x02
def stNotReady : Nat := 0x03
def stBadOpcode : Nat := 0x04
def stBadParam : Nat := 0x05
def stBadState : Nat := 0x06
def stNoResource : Nat := 0x07
def stBusError : Nat := 0x08
def stTimeout : Nat := 0x09
def stIntegrity : Nat := 0x0A
def stDuplicate : Nat := 0x0B
def stSuperseded : Nat := 0x0C
def stForeignImage : Nat := 0x0D
def stTruncated : Nat := 0x0E

/-! ### Cores and their reservations (R269) -/

/-- A core besides its registers of the debug domain. -/
def State.core (s : State) (c : Nat) : CoreSt := SMap.get s.dbg.cores c {}
def State.setCore (s : State) (c : Nat) (v : CoreSt) : State := { s with dbg := { s.dbg with cores := SMap.set s.dbg.cores c v {} } }

/-- A write of `n` bytes at an address by a master ends the other cores' reservations of the granules it touches. -/
def State.breakReservations (s : State) (mid a n : Nat) : State :=
  ((List.range 4).filter (· ≠ mid)).foldl (fun t c =>
    match (t.core c).reservation with
    | some g => if a < g + 64 && g < a + n then t.setCore c { t.core c with reservation := none } else t
    | none => t) s

/-- The record of a memory controller. -/
def State.mc (s : State) (c : Nat) : McSt := SMap.get s.mcs c {}
def State.setMc (s : State) (c : Nat) (v : McSt) : State := { s with mcs := SMap.set s.mcs c v {} }

/-- The outcome of a command that takes effect. -/
abbrev Out := Host.Outcome State Fault Refusal

/-- A command whose condition holds has its effect; otherwise the event does not occur and nothing changes (log entry 5). -/
def State.when (s : State) (c : Bool) (t : State) : Out := .next (if c then t else s)

/-- Run a function for each element of a list, in order. -/
def State.each {α : Type} (s : State) (xs : List α) (f : State → α → State) : State := xs.foldl f s

end Sys2Proof.Machine
end

