-- ==== Sys2Proof/Machine/FabricOps.lean ====
section
/-!
DEFINITION. Shared operations of the fabric: addresses of its parts, the cell (R49–R57), routed sources, slices
(R114–R122), memories (R125–R132), and when a plane steps (R82).
-/
namespace Sys2Proof.Machine

/-! ### Numbering (R39, R40) -/

/-- Global index of bay b of tile Fn, and of its bay-plane p. -/
def bayIx (n b : Nat) : Nat := 64 * n + b
def bpIx (n b p : Nat) : Nat := 4 * (64 * n + b) + p

/-- Tile, bay and plane of a bay-plane index. -/
def bpTile (i : Nat) : Nat := i / 256
def bpBay (i : Nat) : Nat := i / 4 % 64
def bpPlane (i : Nat) : Nat := i % 4

/-- Addresses of the first frame, the state slot and a slice's shadow set of bay-plane i; of a block and a deep memory of its bay. -/
def frameAddr (i f : Nat) : Nat := tileBase (bpTile i) + 0x10000000 + ((i % 256) * 3072 + f) * 512
def stateAddr (i : Nat) : Nat := tileBase (bpTile i) + 0x70000000 + (i % 256) * 0x8000
def sliceAddr (i sl : Nat) : Nat := tileBase (bpTile i) + 0x60000000 + (bpBay i * 192 + sl) * 256 + 64 * bpPlane i
def bmAddr (n b m : Nat) : Nat := tileBase n + 0x40000000 + (b * 160 + m) * 0x4000
def dmAddr (n b d : Nat) : Nat := tileBase n + 0x50000000 + (b * 16 + d) * 0x20000

/-! ### Records -/

def State.bay (s : State) (n b : Nat) : BayRt := SMap.get s.fab.bays (bayIx n b) {}
def State.setBay (s : State) (n b : Nat) (v : BayRt) : State :=
  { s with fab := { s.fab with bays := SMap.set s.fab.bays (bayIx n b) v {} } }
def State.bp (s : State) (i : Nat) : BpRt := SMap.get s.fab.bps i {}
def State.setBp (s : State) (i : Nat) (v : BpRt) : State :=
  { s with fab := { s.fab with bps := SMap.set s.fab.bps i v {} } }
def State.tile (s : State) (n : Nat) : TileRt := SMap.get s.fab.tiles n {}
def State.setTile (s : State) (n : Nat) (v : TileRt) : State :=
  { s with fab := { s.fab with tiles := SMap.set s.fab.tiles n v {} } }
def State.mmp (s : State) (n k : Nat) : MmpRt := SMap.get s.fab.mmps (8 * n + k) {}
def State.setMmp (s : State) (n k : Nat) (v : MmpRt) : State :=
  { s with fab := { s.fab with mmps := SMap.set s.fab.mmps (8 * n + k) v {} } }
def State.bank (s : State) (k : Nat) : BankRt := SMap.get s.fab.banks k {}
def State.setBank (s : State) (k : Nat) (v : BankRt) : State :=
  { s with fab := { s.fab with banks := SMap.set s.fab.banks k v {} } }
/-- A bay-plane's record in the Bay table (R193). -/
def State.bpRec (s : State) (i : Nat) : BpRec := SMap.get s.so.bps i {}
def State.setBpRec (s : State) (i : Nat) (v : BpRec) : State :=
  { s with so := { s.so with bps := SMap.set s.so.bps i v {} } }
/-- A run of the Run Table (R192). -/
def State.run (s : State) (r : Nat) : Run := SMap.get s.so.runs r {}
def State.setRun (s : State) (r : Nat) (v : Run) : State :=
  { s with so := { s.so with runs := SMap.set s.so.runs r v {} } }

/-- The release and count registers of bay-plane i. -/
def relStat (i : Nat) : Reg := Reg.bayPRelStat (bpTile i) (bpBay i) (bpPlane i)
def stepReg (i : Nat) : Reg := Reg.bayPStep (bpTile i) (bpBay i) (bpPlane i)
def State.stage (s : State) (i : Nat) : Nat := s.fld (relStat i) 1 0
def State.armed (s : State) (i : Nat) : Bool := s.bit (relStat i) 2
def State.grs (s : State) (i : Nat) : Bool := s.bit (relStat i) 3
def State.dcc (s : State) (i : Nat) : Nat :=
  s.rd64 (Reg.bayPDccLo (bpTile i) (bpBay i) (bpPlane i)) (Reg.bayPDccHi (bpTile i) (bpBay i) (bpPlane i))
def State.setDcc (s : State) (i v : Nat) : State :=
  s.wr64 (Reg.bayPDccLo (bpTile i) (bpBay i) (bpPlane i)) (Reg.bayPDccHi (bpTile i) (bpBay i) (bpPlane i)) (v % 2 ^ 64)

/-- The tile holds (R67): tree 0, 1, 2. -/
def State.outHold (s : State) (n : Nat) : Bool := s.bit (Reg.tcHold n) 0
def State.wrHold (s : State) (n : Nat) : Bool := s.bit (Reg.tcHold n) 1
def State.clkHold (s : State) (n : Nat) : Bool := s.bit (Reg.tcHold n) 2

/-- Outputs and writes of bay-plane i are released (R77, R80). -/
def State.outFree (s : State) (i : Nat) : Bool := decide (1 ≤ s.stage i) && !s.outHold (bpTile i)
def State.wrFree (s : State) (i : Nat) : Bool := decide (2 ≤ s.stage i) && !s.wrHold (bpTile i)

/-- A run is paused between design cycles: for a snapshot, a resident swap or a repair that failed (R82, R177, R221, R226). -/
def runPaused (r : Run) : Bool := r.snapPause.isSome || r.swapPause || r.faultPause

/-- Whether a bay-plane is stepping (R82). -/
def State.stepping (s : State) (i : Nat) : Bool :=
  (s.bpRec i).pstate = 2 && (s.armed i || decide (1 ≤ s.stage i)) &&
    !runPaused (s.run (s.bpRec i).run)

/-- The planes of a bay that are stepping, in order (R83). -/
def State.steppingPlanes (s : State) (n b : Nat) : List Nat :=
  [0, 1, 2, 3].filter (fun p => s.stepping (bpIx n b p))

/-- Whether a bay stands between two design cycles: it does not rotate, or it is in its exchange phase (R544). -/
def State.atBoundary (s : State) (n b : Nat) : Bool :=
  (s.bay n b).phase = .idle || (s.bay n b).phase = .exchange

/-- Whether a bay-plane is within a design cycle that its bay has begun and not ended (R83, R544). -/
def State.inCycle (s : State) (i : Nat) : Bool := (s.bp i).xph = 1

/-- The design cycle, by a plane's own DCC, whose tick edge sends the bundles that now arrive at it (R95): DCC, or one less once
its own tick has raised it. -/
def State.cycleNo (s : State) (i : Nat) : Nat := s.dcc i - b2n (s.bp i).inc

/-- The bay-planes on which a run's pages stand, reserved or resident. -/
def State.runBps (s : State) (r : Nat) : List Nat :=
  (s.so.bps.filter (fun e => e.2.pstate ≠ 0 && e.2.load = none && e.2.run = r && !e.2.stale)).map Prod.fst

/-- Those, and the bay-planes that its pages have left but that still hold their state. -/
def State.runHeld (s : State) (r : Nat) : List Nat :=
  (s.so.bps.filter (fun e => e.2.pstate ≠ 0 && e.2.load = none && e.2.run = r)).map Prod.fst

/-- A snapshot pause affects a run with pages in tile Fn: writes and Rounds requests to stack HBn wait (R227). -/
def State.snapHold (s : State) (n : Nat) : Bool :=
  s.so.runs.any (fun e => e.2.snapPause.isSome && (s.runBps e.1).any (fun i => bpTile i = n))

/-- Whether tree t ticks for bay-plane i in the present design cycle (R65). -/
def State.treeTicks (s : State) (i t : Nat) : Bool :=
  let ct := Reg.tcCt (bpTile i) t
  s.bit ct 31 && (s.dcc i + s.fld ct 23 12) % (s.fld ct 11 0 + 1) = 0 && s.stage i = 3 && !s.clkHold (bpTile i)

/-! ### Configuration -/

/-- The nonzero bytes of a bay-plane's 3,072 frames, by offset. -/
def State.cfg (s : State) (i : Nat) : SMap Byte :=
  (SMap.slice s.mem (frameAddr i 0) (frameAddr i 0 + 3072 * 512)).map (fun e => (e.1 - frameAddr i 0, e.2))

/-- Whether frames 2,560–3,071 are all 0: then no latch, hard block or port is connected (log entry 6). -/
def State.blank (s : State) (i : Nat) : Bool := (s.cfg i).all (fun e => decide (e.1 < 2560 * 512))

/-- A setting in frames 2,560–3,071. -/
def State.hbField (s : State) (i cls ix : Nat) : Nat := if s.blank i then 0 else Config.field (s.cfg i) cls ix

/-- Address of the 256-byte field of cluster c (R59, R61). -/
def clusterAddr (i c : Nat) : Nat := frameAddr i (c / 2) + 256 * (c % 2)

/-- The configuration word of cell k of cluster c (R57). -/
def State.cellWord (s : State) (i c k : Nat) : Nat := s.le (clusterAddr i c + 11 * k) 11

/-- The crossbar code of input j of cell k (R59). -/
def State.selCode (s : State) (i c k j : Nat) : Nat :=
  let m := 9 * k + j
  let v := (s.byte (clusterAddr i c + 177 + m / 2)).toNat
  if m % 2 = 0 then v % 16 else v / 16

/-- The global clock tree of clock line l of cluster c (R59). -/
def State.clkTree (s : State) (i c l : Nat) : Nat :=
  let v := (s.byte (clusterAddr i c + 176)).toNat
  if l = 0 then v % 16 else v / 16

/-- Bit n of the flip-flop area (R62), bit l of the latches, and bundle i of the bank at 0x5200 (R39, R99). -/
def State.ffQ (s : State) (i n : Nat) : Bool := bitOf (s.byte (stateAddr i + n / 8)).toNat (n % 8)
def State.latchQ (s : State) (i l : Nat) : Bool := bitOf (s.byte (stateAddr i + 0x5000 + l / 8)).toNat (l % 8)

/-- The state with bit n of the byte area at `base` set to a value. -/
def State.putBit (s : State) (base n : Nat) (v : Bool) : State :=
  s.putByte (base + n / 8) (BitVec.ofNat 8 (putBits (s.byte (base + n / 8)).toNat (n % 8) (n % 8) (b2n v)))

/-! ### Slices (R114–R122) -/

/-- Two's complement of `w` bits. -/
def unsignedOf (w : Nat) (v : Int) : Nat := (v % (2 ^ w : Nat)).toNat

/-- The registers of slice sl in bay-plane i (R123). -/
def State.slice (s : State) (i sl : Nat) : SliceRegs :=
  let a := sliceAddr i sl
  { pr := s.le a 8 % 2 ^ 58, mr := s.le (a + 8) 8 % 2 ^ 51, ar := s.le (a + 0x10) 4 % 2 ^ 27
    br := s.le (a + 0x14) 4 % 2 ^ 24, dr := s.le (a + 0x18) 4 % 2 ^ 27, ovf := s.le (a + 0x1C) 4 % 2 = 1 }

/-- The state with a slice's registers replaced. -/
def State.putSlice (s : State) (i sl : Nat) (v : SliceRegs) : State :=
  let a := sliceAddr i sl
  (((((s.putLe a 8 v.pr).putLe (a + 8) 8 v.mr).putLe (a + 0x10) 4 v.ar).putLe (a + 0x14) 4 v.br).putLe (a + 0x18) 4 v.dr).putLe
    (a + 0x1C) 4 (b2n v.ovf)

/-- The configuration of a slice in a plane (R115); values a field does not take stand as the rule says. -/
structure SliceCfg where
  pack : Nat
  preadd : Nat
  areg : Bool
  dreg : Bool
  breg : Bool
  mreg : Bool
  aFeed : Bool
  bFeed : Bool
  opmode : Nat
  sat : Bool
  rnd : Nat
  rsh : Nat
  norm : Bool
  bexp : Bool
  ceUse : Bool
  tree : Nat

/-- The settings of slice sl of bay-plane i. -/
def State.sliceCfg (s : State) (i sl : Nat) : SliceCfg :=
  let f := fun k w => s.hbField i 2 (16 * sl + k) % 2 ^ w
  { pack := if f 0 2 = 3 then 0 else f 0 2, preadd := if f 1 2 = 3 then 0 else f 1 2
    areg := f 2 1 = 1, dreg := f 3 1 = 1, breg := f 4 1 = 1, mreg := f 5 1 = 1
    aFeed := f 6 1 = 1, bFeed := f 7 1 = 1, opmode := f 8 3, sat := f 9 1 = 1
    rnd := if f 10 2 = 3 then 0 else f 10 2, rsh := min (f 11 6) 57, norm := f 12 1 = 1
    bexp := f 13 1 = 1, ceUse := f 14 1 = 1, tree := f 15 4 }

/-- The multiplier's 51-bit signed result (R116, R117). -/
def sliceProduct (c : SliceCfg) (a d b : Nat) : Int :=
  let lane := fun (w x y : Nat) => signedOf w x * signedOf w y
  match c.pack with
  | 1 => lane 18 (bitsOf a 17 0) (bitsOf b 17 0) +
         lane 18 (bitsOf d 17 0) (bitsOf d 26 18 * 2 ^ 9 + bitsOf a 26 18)
  | 2 => lane 9 (bitsOf a 8 0) (bitsOf b 8 0) + lane 9 (bitsOf a 17 9) (bitsOf b 17 9) +
         lane 9 (bitsOf a 26 18) (bitsOf d 26 18) + lane 9 (bitsOf d 8 0) (bitsOf d 17 9)
  | _ =>
    let x := match c.preadd with
      | 1 => (d + a) % 2 ^ 27
      | 2 => (d + 2 ^ 27 - a) % 2 ^ 27
      | _ => a
    signedOf 27 x * signedOf 24 b

/-- The exact next value of PR before saturation or wrapping (R118). -/
def sliceExact (op : Nat) (pr pcin m : Int) : Int :=
  match op with
  | 0 => m
  | 1 => pr + m
  | 2 => pr - m
  | 3 => pcin + m
  | _ => pr

/-- PR after an accumulator operation, and whether OVF sets (R119). -/
def sliceAcc (sat : Bool) (r : Int) : Nat × Bool :=
  let out := decide (r < -(2 ^ 57 : Int) ∨ (2 ^ 57 : Int) - 1 < r)
  if out && sat then (if r < 0 then 2 ^ 57 else 2 ^ 57 - 1, true) else (unsignedOf 58 r, out)

/-- The next registers of a slice at a tick with the global reset deasserted (R120): all from values before the tick. -/
def sliceNext (c : SliceCfg) (q : SliceRegs) (pcin a d b : Nat) (ce rst : Bool) : SliceRegs :=
  let av := if c.areg then q.ar else a
  let dv := if c.dreg then q.dr else d
  let bv := if c.breg then q.br else b
  let prod := sliceProduct c av dv bv
  let m : Int := if c.mreg then signedOf 51 q.mr else prod
  let acc := sliceAcc c.sat (sliceExact c.opmode (signedOf 58 q.pr) (signedOf 58 pcin) m)
  if rst then { pr := 0, mr := unsignedOf 51 prod, ar := a, br := b, dr := d, ovf := false }
  else if c.ceUse && !ce then q
  else
    { pr := if 4 ≤ c.opmode then q.pr else acc.1, mr := unsignedOf 51 prod, ar := a, br := b, dr := d
      ovf := q.ovf || (decide (c.opmode < 4) && acc.2) }

/-- Bits below bit 57 of PR that equal it, counted from bit 56 down (R122). -/
def lsRun : Nat → Nat → Bool → Nat
  | 0, _, _ => 0
  | j + 1, pr, top => if bitOf pr j = top then lsRun j pr top + 1 else 0
def sliceLs (pr : Nat) : Nat := lsRun 57 pr (bitOf pr 57)

/-- The column exponent of slice sl's column in a plane (R122). -/
def State.sliceExp (s : State) (i sl : Nat) : Nat :=
  ((List.range 24).filter (fun j => (s.sliceCfg i (sl / 24 * 24 + j)).bexp)).foldl
    (fun m j => min m (sliceLs (s.slice i (sl / 24 * 24 + j)).pr)) 57

/-- The output stage (R121). -/
def sliceOut (c : SliceCfg) (pr exp : Nat) : Nat :=
  if c.norm then pr * 2 ^ exp % 2 ^ 58
  else if c.rsh = 0 then pr
  else
    let bias : Int := match c.rnd with
      | 1 => (2 ^ (c.rsh - 1) : Nat)
      | 2 => (2 ^ (c.rsh - 1) : Nat) - 1 + (b2n (bitOf pr c.rsh) : Int)
      | _ => 0
    unsignedOf 58 ((signedOf 58 pr + bias).fdiv (2 ^ c.rsh : Nat))

/-! ### Memories (R125–R132) -/

/-- The settings of a memory as a plane's frames give them: width, depth, cascade size, ECC, and per port enable, tree, byte-enable use. -/
structure MemCfg where
  width : Nat
  depth : Nat
  casc : Nat
  ecc : Bool
  en : Bool × Bool
  tree : Nat × Nat
  beUse : Bool × Bool

/-- Settings of block memory m (deep = false) or deep memory m (deep = true) in bay-plane i. -/
def State.memCfg (s : State) (i : Nat) (deep : Bool) (m : Nat) : MemCfg :=
  let f := fun k w => s.hbField i (if deep then 4 else 3) (16 * m + k) % 2 ^ w
  let code := if deep then min (f 0 2) 2 else f 0 2
  let w := (if deep then 64 else 72) / 2 ^ code
  { width := w, depth := (if deep then 16384 else 1024) * 2 ^ code
    casc := if deep then (if code = 2 then 1 else 2 ^ f 1 1) else 2 ^ min (f 1 2) 2
    ecc := !deep && decide (code = 0) && f 2 1 = 1
    en := (f 3 1 = 1, f 6 1 = 1), tree := (f 4 4, f 7 4), beUse := (f 5 1 = 1, f 8 1 = 1) }

/-- The owner of a memory, when it has one (R132). -/
def State.memOwner (s : State) (n b : Nat) (deep : Bool) (m : Nat) : Option Nat :=
  let r := if deep then Reg.bayDmown n b (m / 8) else Reg.bayBmown n b (m / 8)
  if s.bit r (4 * (m % 8) + 3) then some (s.fld r (4 * (m % 8) + 1) (4 * (m % 8))) else none

/-- The address registers of a memory. -/
def memAdrReg (n b : Nat) (deep : Bool) (m : Nat) : Reg := if deep then Reg.bayDmadr n b m else Reg.bayBmadr n b m
def State.memAdr (s : State) (n b : Nat) (deep : Bool) (m : Nat) (portB : Bool) : Nat :=
  let r := memAdrReg n b deep m
  if deep then (if portB then s.fld r 31 16 else s.fld r 15 0)
  else (if portB then s.fld r 30 16 else s.fld r 14 0)
def State.setMemAdr (s : State) (n b : Nat) (deep : Bool) (m : Nat) (portB : Bool) (v : Nat) : State :=
  let r := memAdrReg n b deep m
  if deep then (if portB then s.setFld r 31 16 v else s.setFld r 15 0 v)
  else (if portB then s.setFld r 30 16 v else s.setFld r 14 0 v)

/-- Address of a memory's slot. -/
def memAddr (n b : Nat) (deep : Bool) (m : Nat) : Nat := if deep then dmAddr n b m else bmAddr n b m

/-- `w` bits of the linear bit array from bit `o` (R126). -/
def State.bitsAt (s : State) (base o w : Nat) : Nat := s.le (base + o / 8) 10 / 2 ^ (o % 8) % 2 ^ w

/-- The state with the bits of a word replaced under a mask of the same width. -/
def State.putBitsAt (s : State) (base o w v mask : Nat) : State :=
  let old := s.bitsAt base o w
  let new := Nat.lor (Nat.land old (2 ^ w - 1 - mask)) (Nat.land v mask)
  let win := s.le (base + o / 8) 10
  s.putLe (base + o / 8) 10 (putBits win (o % 8 + w - 1) (o % 8) new)

/-- The members of a memory's cascade, lowest first, and the one that a logical address names (R130). -/
def cascBase (c : MemCfg) (m : Nat) : Nat := m / c.casc * c.casc
def cascMembers (c : MemCfg) (m : Nat) : List Nat := (List.range c.casc).map (fun k => cascBase c m + k)
def cascMember (c : MemCfg) (m a : Nat) : Nat := cascBase c m + a / c.depth % c.casc

/-- The settings that serve memory m: those of the lowest member of its cascade (R130; log entry 51). -/
def State.cascCfg (s : State) (i : Nat) (deep : Bool) (m : Nat) : MemCfg := s.memCfg i deep (cascBase (s.memCfg i deep m) m)

/-- Whether a plane owns a memory (R132). -/
def State.ownsMem (s : State) (i : Nat) (deep : Bool) (m : Nat) : Bool := s.memOwner (bpTile i) (bpBay i) deep m = some (bpPlane i)

/-- The read output of a port, and what its ECC found: 0 good, 1 corrected, 2 uncorrectable (R127, R131). It is 0 where the plane
does not own the memory or the member that holds the word (R132). -/
def State.memOut (s : State) (i : Nat) (deep : Bool) (m : Nat) (portB : Bool) : Nat × Nat :=
  let n := bpTile i
  let b := bpBay i
  let c := s.cascCfg i deep m
  let a := s.memAdr n b deep m portB
  let sel := cascMember c m a
  if !s.ownsMem i deep m || !s.ownsMem i deep sel then (0, 0)
  else
    let w := s.bitsAt (memAddr n b deep sel) (a % c.depth * c.width) c.width
    if c.ecc then
      let d := w % 2 ^ 64
      if Config.secded d % 256 = w / 2 ^ 64 then (w, 0)
      else
        let x := Config.secdedFix d (w / 2 ^ 64)
        let d' := x / 2 % 2 ^ 64
        if x % 2 = 1 then (w, 2) else (d' + Config.secded d' % 256 * 2 ^ 64, 1)
    else (w, 0)

/-- The mask of the bits a write stores: byte enables of 9 or 8 bits where used, the whole word otherwise (R125, R131). -/
def beMask : Nat → Nat → Nat → Nat
  | 0, _, _ => 0
  | k + 1, u, be => beMask k u be + (if bitOf be k then (2 ^ u - 1) * 2 ^ (u * k) else 0)

/-- A design write through a port of memory m: the member that the logical address names takes it (R127, R130, R131). -/
def State.memWrite (s : State) (i : Nat) (deep : Bool) (m a : Nat) (useBe : Bool) (be v : Nat) : State :=
  let c := s.memCfg i deep m
  let unit := if deep then 8 else 9
  let mask := if c.ecc || !useBe then 2 ^ c.width - 1 else beMask (c.width / unit) unit be
  let word := if c.ecc then v % 2 ^ 64 + Config.secded (v % 2 ^ 64) % 256 * 2 ^ 64 else v
  s.putBitsAt (memAddr (bpTile i) (bpBay i) deep (cascMember c m a)) (a % c.depth * c.width) c.width word mask

/-! ### The values a plane's logic sees -/

/-- A node of a plane's logic: an input of a cell, its outputs and carry, or a routed source. -/
inductive Node where
  | input (c k j : Nat)
  | combA (c k : Nat)
  | combB (c k : Nat)
  | oa (c k : Nat)
  | ob (c k : Nat)
  | ci (c k : Nat)
  | co (c k : Nat)
  | src (v : Nat)
  deriving DecidableEq, Repr

/-- Depth allowed to a combinational path: more than any loop-free path of a bay-plane has. -/
def pathFuel : Nat := 1000000

/-- The operand a slice takes from the operand feed (R124). -/
def State.feed (s : State) (i sl : Nat) (isB : Bool) : Nat :=
  let j := sl % 24 / 2
  let m := sl / 24 * 20 + (if isB then j else j + 1)
  let c := s.cascCfg i false m
  if s.ownsMem i false m && c.width = 72 && !c.ecc then
    let w := (s.memOut i false m (!isB)).1
    if isB then (if sl % 2 = 0 then bitsOf w 23 0 else bitsOf w 47 24)
    else (if sl % 2 = 0 then bitsOf w 26 0 else bitsOf w 53 27)
  else 0

/-- A latch tap (R90). -/
def State.tap (s : State) (i t : Nat) : Bool :=
  let v := s.hbField i 1 t
  let base := s.fld (stepReg i) 9 8
  let q := base + v % 4
  let j := bpIx (bpTile i) (bpBay i) q
  if v % 4 ≤ s.fld (stepReg i) 11 10 && decide (q ≤ 3) && s.inCycle j then s.latchQ j (v / 4 % 4096) else false

/-- Design I/O bank numbers of a tile (R29): local bank j of tile Fn. -/
def bankOf (n j : Nat) : Option Nat :=
  match n, j with
  | 0, 0 => some 0 | 0, 1 => some 1 | 1, 0 => some 2 | 2, 0 => some 3 | 3, 0 => some 4 | 3, 1 => some 5
  | 4, 0 => some 6 | 4, 1 => some 7 | 5, 0 => some 8 | 6, 0 => some 9 | 7, 0 => some 10 | 7, 1 => some 11
  | _, _ => none
/-- Tile and local number of bank k (R29). -/
def bankTile (k : Nat) : Nat × Nat :=
  match k with
  | 0 => (0, 0) | 1 => (0, 1) | 2 => (1, 0) | 3 => (2, 0) | 4 => (3, 0) | 5 => (3, 1)
  | 6 => (4, 0) | 7 => (4, 1) | 8 => (5, 0) | 9 => (6, 0) | 10 => (7, 0) | _ => (7, 1)

/-- Index of the slot of tree t + 3 and plane p of tile Fn (R68). -/
def treeSlot (n t p : Nat) : Nat := 20 * n + 4 * t + p

/-- What bank k holds for a reading plane: the sample after the edge that ended the plane's last design cycle, also once a
later edge has been sampled (R107). -/
def State.bankIns (s : State) (i k : Nat) : Nat :=
  let b := s.bank k
  if b.edge = (s.bp i).rot + 1 && !b.samplePend then b.insPrev else b.ins
def State.bankBurst (s : State) (i k : Nat) : List Nat :=
  let b := s.bank k
  if b.edge = (s.bp i).rot + 1 && !b.samplePend then b.burstPrev else b.burst

/-- The memory-model port that a bay-plane owns (R135). -/
def State.mmpOf (s : State) (i : Nat) : Option Nat :=
  (List.range 8).find? (fun k => s.bit (Reg.mmpCtrl (bpTile i) k) 31 &&
    s.fld (Reg.mmpCtrl (bpTile i) k) 23 18 = bpBay i && s.fld (Reg.mmpCtrl (bpTile i) k) 25 24 = bpPlane i)

/-- The value of a routed source that holds still through a plane step: state of the bay-plane or of what serves it
(R87–R92, R107, R121, R127, R135); cell outputs are evaluated by `State.eval`. -/
def State.srcVal (s : State) (i cls ix : Nat) : Bool :=
  match cls with
  | 1 => s.tap i (ix % 4096)
  | 2 => bitOf (SMap.get (s.bp i).banks (64 * (s.dcc i % 2) + ix / 32 % 64) 0).toNat (ix % 32)
  | 3 =>
    let t := ix % 5
    s.bit (Reg.tcRetSrc (bpTile i) t (bpPlane i)) 31 &&
      SMap.get s.fab.trees (2 * treeSlot (bpTile i) t (bpPlane i) + (s.bp i).rot % 2) false
  | 4 => bitOf (sliceOut (s.sliceCfg i (ix / 64 % 192)) (s.slice i (ix / 64 % 192)).pr (s.sliceExp i (ix / 64 % 192))) (ix % 64)
  | 5 => bitOf (s.sliceExp i (ix / 8 % 192)) (ix % 8)
  | 6 => (s.slice i (ix % 192)).ovf
  | 7 => bitOf (s.memOut i false (ix / 256 % 160) (ix / 128 % 2 = 1)).1 (ix % 128)
  | 8 => bitOf (s.memOut i true (ix / 256 % 16) (ix / 128 % 2 = 1)).1 (ix % 128)
  | 9 => (s.memOut i false (ix / 2 % 160) (ix % 2 = 1)).2 = 2
  | 10 =>
    match bankOf (bpTile i) (ix / 48 % 2) with
    | some k => bitOf (s.bankIns i k) (ix % 48)
    | none => false
  | 11 =>
    match s.mmpOf i with
    | some k =>
      if ix % 512 < 256 then s.bit (Reg.mmpRdata (bpTile i) k (ix % 256 / 32)) (ix % 32)
      else if ix % 512 = 256 then s.bit (Reg.mmpCtrl (bpTile i) k) 28
      else s.bit (Reg.mmpCtrl (bpTile i) k) 27
    | none => false
  | 12 =>
    match bankOf (bpTile i) (ix / 1024 % 2) with
    | some k => bitOf ((s.bankBurst i k).getD (ix / 64 % 16) 0) (ix % 64)
    | none => false
  | _ => false

/-- The value of a node of bay-plane i's logic (R49–R58). A loop with no settled value reads a free value (log entry 7);
so do the carry into cell 0 of a cluster in row 0 with CI_SEL = 0, below which there is no cell, and the carry out of a cell with
CARRY_EN = 0 (log entry 49). -/
def State.eval (s : State) (i : Nat) : Nat → Node → Bool
  | 0, _ => Config.free s.draw % 2 = 1
  | f + 1, .input c k j =>
    let code := s.selCode i c k j
    if code = 0 then false
    else if code = 1 then true
    else s.eval i f (.src (Config.routed (s.cfg i) 0 (c * 144 + 9 * k + j)))
  | f + 1, .combA c k =>
    let w := s.cellWord i c k
    let ix := b2n (s.eval i f (.input c k 0)) + 2 * b2n (s.eval i f (.input c k 1)) + 4 * b2n (s.eval i f (.input c k 2)) +
      8 * b2n (s.eval i f (.input c k 3)) + 16 * b2n (s.eval i f (.input c k 4))
    if bitOf w 64 then bitOf w ix else bitOf w (ix + 32 * b2n (s.eval i f (.input c k 5)))
  | f + 1, .combB c k =>
    let w := s.cellWord i c k
    let ix := b2n (s.eval i f (.input c k 0)) + 2 * b2n (s.eval i f (.input c k 1)) + 4 * b2n (s.eval i f (.input c k 2)) +
      8 * b2n (s.eval i f (.input c k 3)) + 16 * b2n (s.eval i f (.input c k 4))
    if bitOf w 64 then
      if bitOf w 65 then Bool.xor (bitOf w ix) (s.eval i f (.ci c k)) else bitOf w (32 + ix)
    else bitOf w (ix + 32 * b2n (s.eval i f (.input c k 5)))
  | f + 1, .oa c k => if bitOf (s.cellWord i c k) 80 then s.eval i f (.combA c k) else s.ffQ i (c * 32 + k * 2)
  | f + 1, .ob c k => if bitOf (s.cellWord i c k) 81 then s.eval i f (.combB c k) else s.ffQ i (c * 32 + k * 2 + 1)
  | f + 1, .ci c k =>
    let w := s.cellWord i c k
    if bitOf w 66 then bitOf w 67
    else if 0 < k then s.eval i f (.co c (k - 1))
    else if 0 < c % 80 then s.eval i f (.co (c - 1) 15)
    else Config.free s.draw % 2 = 1
  | f + 1, .co c k =>
    let w := s.cellWord i c k
    let ix := b2n (s.eval i f (.input c k 0)) + 2 * b2n (s.eval i f (.input c k 1)) + 4 * b2n (s.eval i f (.input c k 2)) +
      8 * b2n (s.eval i f (.input c k 3)) + 16 * b2n (s.eval i f (.input c k 4))
    if bitOf w 65 then
      if bitOf w 64 then (if bitOf w ix then s.eval i f (.ci c k) else bitOf w (32 + ix)) else s.eval i f (.ci c k)
    else Config.free (s.draw + 1) % 2 = 1
  | f + 1, .src v =>
    if v % 16 = 0 then
      (if v / 16 % 2 = 0 then s.eval i f (.oa (v / 512 % 5120) (v / 32 % 16)) else s.eval i f (.ob (v / 512 % 5120) (v / 32 % 16)))
    else s.srcVal i (v % 16) (v / 16)

/-- The value of a node. -/
def State.node (s : State) (i : Nat) (nd : Node) : Bool := s.eval i pathFuel nd

/-- The value at input `ix` of class `cls` of a hard block, port or latch: the source the routing connects; 0 where frames
2,560–3,071 are blank. -/
def State.hbIn (s : State) (i cls ix : Nat) : Bool :=
  if s.blank i then false else s.node i (.src (Config.routed (s.cfg i) cls ix))

/-- A number from `w` such inputs, least significant first. -/
def State.hbBus (s : State) (i cls ix : Nat) : Nat → Nat
  | 0 => 0
  | w + 1 => s.hbBus i cls ix w + 2 ^ w * b2n (s.hbIn i cls (ix + w))

/-! ### Flip-flops (R54, R55) -/

/-- What a flip-flop decides in the capture micro-cycle: `isB` picks B. -/
def State.ffNext (s : State) (i c k : Nat) (isB : Bool) : Bool :=
  let w := s.cellWord i c k
  let o := if isB then 74 else 68
  let init := bitOf w (if isB then 78 else 72)
  let sr := bitsOf w (if isB then 77 else 71) (if isB then 76 else 70)
  if s.grs i then init
  else if sr ≠ 0 && s.node i (.input c k 8) then (if sr = 1 then false else if sr = 2 then true else init)
  else if bitOf w (if isB then 75 else 69) && !s.node i (.input c k 7) then s.ffQ i (c * 32 + k * 2 + b2n isB)
  else if bitOf w o then s.node i (.input c k 6)
  else s.node i (if isB then .combB c k else .combA c k)

/-- Clusters whose configuration or state is not all 0; every flip-flop elsewhere is 0 and stays 0. -/
def State.liveClusters (s : State) (i : Nat) : List Nat :=
  let a := ((s.cfg i).filter (fun e => decide (e.1 < 2560 * 512))).map (fun e => e.1 / 256)
  let b := (SMap.slice s.mem (stateAddr i) (stateAddr i + 0x5000)).map (fun e => (e.1 - stateAddr i) / 4)
  (a ++ b).dedup

/-- The master stages of a bay-plane: bit and decided value where it differs from Q (R84). -/
def State.ffMasters (s : State) (i : Nat) : SMap Bool :=
  (s.liveClusters i).foldl (fun m c =>
    (List.range 32).foldl (fun m j =>
      let v := s.ffNext i c (j / 2) (j % 2 = 1)
      if v = s.ffQ i (c * 32 + j) then m else SMap.put m (c * 32 + j) v) m) []

/-- The tree that clocks flip-flop bit n of a bay-plane (R57, R59). -/
def State.ffTree (s : State) (i n : Nat) : Nat :=
  s.clkTree i (n / 32) (b2n (bitOf (s.cellWord i (n / 32) (n % 32 / 2)) (if n % 2 = 0 then 73 else 79)))

end Sys2Proof.Machine
end

