-- ==== Sys2Proof/Machine/Clocks.lean ====
section
/-!
DEFINITION. Micro-clock, delay monitors, tile holds and staged release (chapter 02).
-/
namespace Sys2Proof.Machine

/-! ### Micro-clock (R70–R72) -/

/-- A code clamped to 88–144 (R71). -/
def clampCode (v : Nat) : Nat := max 88 (min 144 v)

/-- The PLL that is not in use. -/
def State.idlePll (s : State) (n : Nat) : Nat := if s.bit (Reg.tcMcCtrl n) 16 then 0 else 1

/-- A write of TARGET (R71, R72). -/
def State.mcTarget (s : State) (n v : Nat) : State :=
  let c := clampCode v
  let cur := s.fld (Reg.tcMcCtrl n) 15 8
  let s1 := s.setFld (Reg.tcMcCtrl n) 7 0 c
  if c ≠ cur then (s1.setBit (Reg.tcMcStat n) 0 true).setBit (Reg.tcMcStat n) (4 + s.idlePll n) false
  else s1.setBit (Reg.tcMcStat n) 0 false

/-- MC_TARGET_WRITE (R72). -/
def execMcTargetWrite (n : Tile) (target : Byte) (s : State) : Out :=
  s.when (s.domOn (domTile n)) (s.mcTarget n target.toNat)

/-- MICRO_CLOCK_SWITCH (R72): the relocked PLL takes over, ACTIVE toggles and CURRENT shows the new code. -/
def execMicroClockSwitch (n : Tile) (s : State) : Out :=
  let s1 := s.setBit (Reg.tcMcStat n) (4 + s.idlePll n) true
  let s2 := (s1.setBit (Reg.tcMcStat n) 0 false).setFld (Reg.tcMcCtrl n) 15 8 (s.fld (Reg.tcMcCtrl n) 7 0)
  s.when (s.domOn (domTile n) && s.bit (Reg.tcMcStat n) 0) (s2.setBit (Reg.tcMcCtrl n) 16 (!s.bit (Reg.tcMcCtrl n) 16))

/-- LOC of an event of tile Fn (R507). -/
def tileLoc (n b p f : Nat) : Nat := n * 2 ^ 29 + b * 2 ^ 23 + p * 2 ^ 21 + f

/-- RELOCK_TIMEOUT (R72): no switch, LOCK_FAIL sets, an event is recorded and the frequency stays. -/
def execRelockTimeout (n : Tile) (s : State) : Out :=
  s.when (s.domOn (domTile n) && s.bit (Reg.tcMcStat n) 0)
    (((s.setBit (Reg.tcMcStat n) 0 false).setBit (Reg.tcMcStat n) 1 true).event 0x020B 3 (tileLoc n 0 0 0) 0)

/-! ### Delay monitors (R73–R75) -/

/-- DELAY_MONITOR_SAMPLE (R73, R75): the reading is shown; below the guard the alarm sets and the tile enters step stretch.
TC_DM_SUM names the first monitor that read the epoch's lowest margin, and bay 0, quadrant 0 while all read 255 (log entry 49). -/
def execDelayMonitorSample (n : Tile) (b : Bay) (q : Fin 4) (margin : Byte) (s : State) : Out :=
  let m := margin.toNat
  let r := Reg.bayDm n b q
  let low := decide (m < s.fld (Reg.tcDmCfg n) 7 0)
  let s1 := (s.setFld r 7 0 m).setFld r 15 8 (min m (s.fld r 15 8))
  let t := s1.tile n
  let t1 := if m < t.dmMin then { t with dmMin := m, dmBay := b, dmQuad := q } else t
  let s2 := s1.setTile n { t1 with below := t1.below || low }
  let s3 := if low then s2.setBit r 16 true else s2
  let s4 := if low && !s3.bit (Reg.tcStretch n) 31 then
      (s3.setBit (Reg.tcStretch n) 31 true).count (Reg.tcStretch n) 15 0 1 else s3
  s.when (s.domOn (domBay n b)) s4

/-- MARGIN_MIN_READ (R21, BAY_DMq): a consume read returns MARGIN_MIN and resets it to 0xFF. -/
def execMarginMinRead (n : Tile) (b : Bay) (q : Fin 4) (s : State) : Out :=
  s.when (s.domOn (domBay n b)) (s.setFld (Reg.bayDm n b q) 15 8 0xFF)

/-! ### Staged release (R77–R81) -/

/-- An OP or DCC write without effect sets REFUSED (R81). -/
def State.relRefused (s : State) (i : Nat) : State := s.setBit (relStat i) 4 true

/-- OP 1 (first) or OP 2 (R78, R79, R81): the release is armed, with or without the global reset; after OP 1 DCC counts from 0.
A hold that still waited is given up, and PERIOD starts at 0 (log entry 49). -/
def State.relArm (s : State) (i : Nat) (first : Bool) : State :=
  if s.stage i ≠ 0 || (s.bpRec i).pstate ≠ 2 then s.relRefused i
  else
    let s1 := if first then s.setDcc i 0 else s
    let s2 := ((s1.setBit (relStat i) 3 first).setBit (relStat i) 2 true).setFld (relStat i) 9 5 0
    s2.setBp i { s2.bp i with holdPend := false }

/-- The hold of OP 3 takes effect: STAGE 0, release disarmed, global reset not asserted (R81). PERIOD shows 0 (log entry 49). -/
def State.relHoldNow (s : State) (i : Nat) : State :=
  let s1 := ((s.setFld (relStat i) 1 0 0).setBit (relStat i) 2 false).setBit (relStat i) 3 false
  (s1.setFld (relStat i) 9 5 0).setBp i { s1.bp i with holdPend := false }

/-- OP 3 (R81, R544): at the next design-cycle boundary, at once when the bay stands at one or the plane is in no design
cycle. -/
def State.relHold (s : State) (i : Nat) : State :=
  if s.atBoundary (bpTile i) (bpBay i) || !s.inCycle i then s.relHoldNow i
  else s.setBp i { s.bp i with holdPend := true }

/-- A write of REL_CTRL.OP: 0 no action (REL_CTRL). -/
def State.relOp (s : State) (i op : Nat) : State :=
  match op with
  | 1 => s.relArm i true
  | 2 => s.relArm i false
  | 3 => s.relHold i
  | _ => s

/-- REL_OP_FIRST_START (R78). -/
def execRelOpFirstStart (n : Tile) (b : Bay) (p : Plane) (s : State) : Out :=
  s.when (s.domOn (domBay n b)) (s.relOp (bpIx n b p) 1)

/-- REL_OP_RESUME (R78). -/
def execRelOpResume (n : Tile) (b : Bay) (p : Plane) (s : State) : Out :=
  s.when (s.domOn (domBay n b)) (s.relOp (bpIx n b p) 2)

/-- REL_OP_HOLD (R81). -/
def execRelOpHold (n : Tile) (b : Bay) (p : Plane) (s : State) : Out :=
  s.when (s.domOn (domBay n b)) (s.relOp (bpIx n b p) 3)

/-- A ring of run r takes its next snapshot as if none had fallen due before (R235, R249). -/
def State.ringAfresh (s : State) (r : Nat) : State :=
  { s with so := { s.so with rings := s.so.rings.map (fun e => if e.2.run = r then (e.1, { e.2 with lastDue := 0 }) else e) } }

/-- A write of DCC: only while STAGE = 0 (R81). -/
def State.dccWrite (s : State) (i v : Nat) : State :=
  if s.stage i = 0 then (s.setDcc i v).ringAfresh (s.bpRec i).run else s.relRefused i

/-- DCC_WRITE (R81). -/
def execDccWrite (n : Tile) (b : Bay) (p : Plane) (value : BitVec 64) (s : State) : Out :=
  s.when (s.domOn (domBay n b)) (s.dccWrite (bpIx n b p) value.toNat)

/-- The latest design-cycle boundary, by `rot`, that a bay-plane of a run has come to or is bound for: the first at which all of
them can stand. -/
def State.runFront (s : State) (r : Nat) : Nat := (s.runBps r).foldl (fun m j => max m ((s.bp j).rot + b2n (s.inCycle j))) 0

/-- The design cycle of a run, by `rot`, in which period 0 of its release falls: the one already fixed by a bay-plane that has
left STAGE 0, else the first that no bay-plane of the run has begun (R78). -/
def State.relCycle (s : State) (r : Nat) : Nat :=
  match (s.runBps r).find? (fun j => decide (1 ≤ s.stage j)) with
  | some j => (s.bp j).rel0
  | none => s.runFront r

/-- The release of bay-plane i moves a stage at the boundary it stands at (R78, R79): period 0 once every bay-plane of the run
is armed, in the same design cycle in all of them; period 8; period 16. -/
def State.relDue (s : State) (i : Nat) : Bool :=
  let per := s.fld (relStat i) 9 5
  let r := (s.bpRec i).run
  !s.inCycle i &&
    ((s.stage i = 0 && s.armed i && (s.runBps r).all (fun j => s.armed j || decide (1 ≤ s.stage j)) &&
        decide (s.relCycle r ≤ (s.bp i).rot)) ||
      (s.stage i = 1 && decide (8 ≤ per)) || (s.stage i = 2 && decide (16 ≤ per)))

/-- The release moves one stage when its period has come (R79): STAGE 1 at period 0, 2 at period 8, 3 at period 16. -/
def State.relAdvance (s : State) (i : Nat) : State :=
  let per := s.fld (relStat i) 9 5
  if s.stage i = 0 && s.armed i then
    let s1 := ((s.setFld (relStat i) 1 0 1).setBit (relStat i) 2 false).setFld (relStat i) 9 5 0
    s1.setBp i { s1.bp i with rel0 := s.relCycle (s.bpRec i).run }
  else if s.stage i = 1 && decide (8 ≤ per) then s.setFld (relStat i) 1 0 2
  else if s.stage i = 2 && decide (16 ≤ per) then (s.setFld (relStat i) 1 0 3).setBit (relStat i) 3 false
  else s

/-- RELEASE_STAGE_ADVANCE (R78, R79): at the start of the design-cycle period in which the next stage falls. -/
def execReleaseStageAdvance (n : Tile) (b : Bay) (p : Plane) (s : State) : Out :=
  s.when (s.domOn (domBay n b) && s.relDue (bpIx n b p)) (s.relAdvance (bpIx n b p))

/-! ### Tile holds (R67, R69) -/

/-- Trees 0–2 asserted together. -/
def State.holdApply (s : State) (n : Nat) : State := (s.setFld (Reg.tcHold n) 2 0 7).setTile n { s.tile n with lifting := false }

/-- The holds of a tile begin to lift: output hold first (R69). -/
def State.holdLiftBegin (s : State) (n : Nat) : State :=
  if s.fld (Reg.tcHold n) 2 0 = 0 then s
  else (s.setBit (Reg.tcHold n) 0 false).setTile n { s.tile n with lifting := true }

/-- HOLD_LIFT_STAGE (R69): write hold, then clock hold, each 8 design-cycle periods after the one before. -/
def execHoldLiftStage (n : Tile) (s : State) : Out :=
  let next := if s.wrHold n then s.setBit (Reg.tcHold n) 1 false
    else (s.setBit (Reg.tcHold n) 2 false).setTile n { s.tile n with lifting := false }
  s.when (s.domOn (domTile n) && (s.tile n).lifting) next

end Sys2Proof.Machine
end

