-- ==== Sys2Proof/Machine/Cores.lean ====
section
/-!
DEFINITION. The management cores as the debug domain sees them: halt, resume, step, comparators, Letterbox and virtual
terminal (R258–R266, R269, R271–R274).
-/
namespace Sys2Proof.Machine

/-- Whether a core runs or is halted, rather than off; and whether it is halted. -/
def State.coreOn (s : State) (c : Nat) : Bool := s.hubOn && !s.bit (Reg.dbgCStat c) 8
def State.halted (s : State) (c : Nat) : Bool := s.bit (Reg.dbgCStat c) 0

/-- Whether a core waits for the answer to a Rounds access of its own. -/
def State.coreWaits (s : State) (c : Nat) : Bool := s.rnd.out.any (fun e => e.2.pkt.mid = c && !e.2.late)

/-- Whether any core is halted, and whether any halts on reset. -/
def State.anyHalted (s : State) : Bool := (List.range 4).any s.halted
def State.anyHaltOnReset (s : State) : Bool := (List.range 4).any (fun c => s.bit (Reg.dbgCCtrl c) 4)

/-! ### Halt and release (R258–R262, R271) -/

/-- The registers of a core that has run firmware: what they hold is a free value each, but for the PC and the CTXID with which
a comparator's halt stops it (R266). CTXID shows in DBG_Cc_STAT, whose 16 bits are taken as its low ones (log entry 21). -/
def State.freeRegs (s : State) (c : Nat) : State :=
  let x := s.core c
  let v := fun i =>
    match if i = 32 then x.haltPc else if i = 34 then x.haltCtx else none with
    | some k => k
    | none => Config.free (s.draw + i) % 2 ^ 64
  let s1 := s.setCore c { x with regs := ((List.range 37).map (fun i => (i, v i))).filter (fun e => e.2 ≠ 0), haltPc := none, haltCtx := none }
  { s1 with draw := s.draw + 37 }.setFld (Reg.dbgCStat c) 31 16 (v 34 % 2 ^ 16)

/-- One core halts: the cause shows and its watchdog is frozen. -/
def State.haltOne (s : State) (c cause cmp : Nat) : State :=
  let s1 := s.setCore c { s.core c with haltReq := none }
  let s2 := ((s1.setBit (Reg.dbgCStat c) 0 true).setFld (Reg.dbgCStat c) 3 1 cause).setBit (Reg.dbgWdtStat c) 1 true
  let s3 := if cause = 2 then s2.setFld (Reg.dbgCStat c) 6 4 cmp else s2
  if cause = 4 then s3 else s3.freeRegs c

/-- A halt is asked for; the first cause stands. -/
def State.haltAsk (s : State) (c cause cmp : Nat) : State :=
  if s.coreOn c && !s.halted c && (s.core c).haltReq.isNone then
    s.setCore c { s.core c with haltReq := some (cause + 8 * cmp) }
  else s

/-- The other cores of the group of core c halt with CAUSE 5; one that waits on an access halts after it (R258, R260). -/
def State.groupHalt (s : State) (c : Nat) : State :=
  s.each ((List.range 4).filter (fun d => d ≠ c && s.bit (Reg.dbgCCtrl d) 5 && s.coreOn d && !s.halted d))
    (fun t d => if t.coreWaits d then (t.setCore d { t.core d with haltReq := none }).haltAsk d 5 0 else t.haltOne d 5 0)

/-- A core halts, and with it in the same cycle the others of its group (R260). -/
def State.haltNow (s : State) (c cause cmp : Nat) : State :=
  let s1 := s.haltOne c cause cmp
  if s.bit (Reg.dbgCCtrl c) 5 then s1.groupHalt c else s1

/-- A core is released: its watchdog goes on from the frozen value, raised to 1,000 when below (R271). -/
def State.coreRelease (s : State) (c : Nat) : State :=
  let s1 := s.setCore c { s.core c with wdtHold := false }
  let s2 := ((s1.setBit (Reg.dbgCStat c) 0 false).setFld (Reg.dbgCStat c) 3 1 0).setBit (Reg.dbgWdtStat c) 1 false
  if s2.rd (Reg.dbgWdtCount c) < 1000 then (s2.wr (Reg.dbgWdtCount c) 1000).setBit (Reg.dbgWdtStat c) 3 true else s2

/-- A core is out of reset; with HALT_ON_RESET = 1 its watchdog does not count until the first release (R262). -/
def State.coreUp (s : State) (c : Nat) : State :=
  ((s.setCore c { wdtHold := s.bit (Reg.dbgCCtrl c) 4 }).wr (Reg.dbgCStat c) 0).setBit (Reg.dbgWdtStat c) 1 false

/-- Cores leave reset together: those with HALT_ON_RESET = 1 halt before their first instruction with CAUSE 4 (R262), and with
them in the same cycle the others of their group (R260). -/
def State.coresStart (s : State) (cs : List Nat) : State :=
  let held := cs.filter (fun c => s.bit (Reg.dbgCCtrl c) 4)
  let s1 := (s.each cs (fun t c => t.coreUp c)).each held (fun t c => t.haltOne c 4 0)
  match held.find? (fun c => s.bit (Reg.dbgCCtrl c) 5) with
  | some c => s1.groupHalt c
  | none => s1

/-- The interrupts pending at a core: those kept, and the Letterbox interrupt, asserted while RX_IE = 1 and RX_FULL = 1
(R258, R272). -/
def State.coreIrqs (s : State) (c : Nat) : List Nat :=
  (s.core c).irqs ++ (if s.bit (Reg.dbgCLbStat c) 4 && s.bit (Reg.dbgCLbStat c) 1 then [1] else [])

/-- HALT, STEP and RESUME as one write of DBG_Cc_CTRL sets them (R259). -/
def State.coreCtrl (s : State) (c w : Nat) : State :=
  if !s.coreOn c then s
  else if s.halted c then
    if bitOf w 2 then
      let s1 := s.coreRelease c
      let irqs := if s.bit (Reg.dbgCCtrl c) 3 then (s1.core c).irqs.filter (fun q => (s.coreIrqs c).head? ≠ some q) else (s1.core c).irqs
      s1.setCore c { s1.core c with haltReq := some 3, irqs := irqs }
    else if bitOf w 1 && !bitOf w 0 then
      let s1 := s.coreRelease c
      s1.setCore c { s1.core c with irqs := [] }
    else s
  else if bitOf w 0 then s.haltAsk c 1 0 else s

/-- CORE_HALT, CORE_RESUME, CORE_STEP (R259). -/
def execCoreHalt (c : Fin 4) (s : State) : Out := .next (s.coreCtrl c.val 1)
def execCoreResume (c : Fin 4) (s : State) : Out := .next (s.coreCtrl c.val 2)
def execCoreStep (c : Fin 4) (s : State) : Out := .next (s.coreCtrl c.val 4)

/-- CORE_HALT_TAKES_EFFECT (R258, R260): at an instruction boundary, after any access the core waits on. -/
def execCoreHaltTakesEffect (c : Fin 4) (s : State) : Out :=
  match (s.core c.val).haltReq with
  | some r => s.when (s.coreOn c.val && !s.halted c.val && !s.coreWaits c.val) (s.haltNow c.val (r % 8) (r / 8))
  | none => .next s

/-! ### Core registers (R261) -/

/-- The value of the selected register. -/
def State.coreReg (s : State) (c : Nat) : Nat := SMap.get (s.core c).regs (s.fld (Reg.dbgCRegsel c) 5 0) 0

/-- The selected register written; indices above 36 ignore it. -/
def State.coreRegWrite (s : State) (c v : Nat) : State :=
  let i := s.fld (Reg.dbgCRegsel c) 5 0
  if 36 < i then s
  else
    let s1 := s.setCore c { s.core c with regs := SMap.set (s.core c).regs i v 0 }
    if i = 34 then s1.setFld (Reg.dbgCStat c) 31 16 (v % 2 ^ 16) else s1

/-- A write of a half of REGDATA: _LO is staged, _HI gives the register its 64 bits (R17). -/
def State.regdataWrite (s : State) (c : Nat) (hi : Bool) (w : Nat) : State :=
  let lo := (Reg.dbgCRegdataLo c).addr
  if hi then
    ({ s with loStage := SMap.erase s.loStage lo }).coreRegWrite c ((SMap.get s.loStage lo 0).toNat + 2 ^ 32 * (w % 2 ^ 32))
  else { s with loStage := SMap.put s.loStage lo (BitVec.ofNat 32 w) }

/-- CORE_REGDATA_ACCESS (R261): refused with a bus error, and without effect, unless the core is halted. -/
def execCoreRegdataAccess (c : Fin 4) (write hi : Bool) (value : Word) (s : State) : Out :=
  s.when (s.halted c.val && write) (s.regdataWrite c.val hi value.toNat)

/-! ### Comparators (R263–R266) -/

/-- CTRL field of a comparator. -/
def State.cmpFld (s : State) (c k hi lo : Nat) : Nat := s.fld (Reg.dbgCCmpCtrl c k) hi lo
def State.cmpAddr (s : State) (c k : Nat) : Nat := s.rd64 (Reg.dbgCCmpAddrLo c k) (Reg.dbgCCmpAddrHi c k) % 2 ^ 48

/-- The predecessors of a comparator on its link path, at most `n`; `none` when the path loops (R265). -/
def State.linkPath (s : State) (c : Nat) : Nat → Nat → Option (List Nat)
  | 0, _ => none
  | n + 1, k =>
    if s.cmpFld c k 27 27 = 1 then (s.linkPath c n (s.cmpFld c k 26 24)).map (s.cmpFld c k 26 24 :: ·) else some []

/-- Whether an access of `len` bytes matches comparator `k` (R263–R265). -/
def State.cmpMatches (s : State) (c k kind addr len ctx : Nat) : Bool :=
  let typ := s.cmpFld c k 30 29
  let a := s.cmpAddr c k
  let range := k % 2 = 0 && s.cmpFld c k 28 28 = 1
  let paired := k % 2 = 1 && s.cmpFld c (k - 1) 28 28 = 1
  let ck := s.cmpFld c k 23 22
  s.cmpFld c k 31 31 = 1 && !paired && (if typ = 3 then kind ≠ 0 else kind = typ) &&
    (if range then decide (a < addr + len) && decide (addr ≤ s.cmpAddr c (k + 1)) && decide (a ≤ s.cmpAddr c (k + 1)) else decide (addr ≤ a) && decide (a < addr + len)) &&
    (ck = 0 || ck = 3 || (bitsOf ctx 15 14 = ck && bitsOf ctx 13 0 = s.cmpFld c k 13 0)) &&
    (match s.linkPath c 9 k with
      | none => false
      | some [] => true
      | some (p :: _) => s.cmpFld c p 19 19 = 1)

/-- COMPARATOR_MATCH (R266): a halt stops a fetch before the matched instruction, at its PC. An access of kind 0 fetch, 1 load or 2 store of `len` bytes at `addr`, while the core's PC and
CTXID are as given. During a step a fetch match is ignored and a data match halts with CAUSE 2 (R259). -/
def execComparatorMatch (c : Fin 4) (k : Fin 8) (kind : Fin 3) (addr : BitVec 48) (len : Fin 65) (pc : BitVec 64)
    (ctxid : BitVec 16) (s : State) : Out :=
  let cc := c.val
  let s0 := s.setFld (Reg.dbgCStat cc) 31 16 ctxid.toNat
  let stepping := (s.core cc).haltReq = some 3
  let act := s.cmpFld cc k.val 21 20
  let s1 := if act < 2 then
      s0.each ((s.linkPath cc 9 k.val).getD []) (fun t p => t.setBit (Reg.dbgCCmpCtrl cc p) 19 false) else s0
  let s2 := s1.setBit (Reg.dbgCCmpCtrl cc k.val) 19 true
  let at' := fun (t : State) => t.setCore cc { t.core cc with
    haltPc := if kind.val = 0 then some pc.toNat else none, haltCtx := some ctxid.toNat }
  let s3 :=
    if act = 0 then
      (if stepping then (at' s2).setCore cc { (at' s2).core cc with haltReq := some (2 + 8 * k.val) }
       else if (s2.core cc).haltReq.isNone then (at' s2).haltAsk cc 2 k.val else s2)
    else if act = 1 then
      s2.event 0x0401 1 (256 * cc + k.val) ctxid.toNat 0 [pc.toNat % 2 ^ 32, pc.toNat / 2 ^ 32]
    else s2
  s.when (s.coreOn cc && !s.halted cc && !(stepping && kind.val = 0) && s.cmpMatches cc k.val kind.val addr.toNat len.val ctxid.toNat) s3

/-- RESERVATION_EXPIRY (R269): 256 running cycles without a store-conditional. -/
def execReservationExpiry (c : Fin 4) (s : State) : Out :=
  s.when (s.coreOn c.val && !s.halted c.val && (s.core c.val).reservation.isSome)
    (s.setCore c.val { s.core c.val with reservation := none })

/-! ### Watchdogs (R270) -/

/-- A kick: the key reloads COUNT. -/
def State.wdtKick (s : State) (c w : Nat) : State :=
  if w = 0x57444B31 then s.wr (Reg.dbgWdtCount c) (s.rd (Reg.dbgWdtLoad c)) else s

/-- WATCHDOG_KICK. -/
def execWatchdogKick (c : Fin 4) (s : State) : Out := s.when s.hubOn (s.wdtKick c.val 0x57444B31)

/-- Whether a watchdog counts: enabled, not frozen, and released since a halted reset (R262, R270, R271). -/
def State.wdtRuns (s : State) (c : Nat) : Bool :=
  s.coreOn c && s.bit (Reg.dbgWdtStat c) 0 && !s.halted c && !(s.core c).wdtHold

/-- The counts of an epoch: `us` µs less on every watchdog that runs (R270). -/
def State.wdtEpoch (s : State) (us : Nat) : State :=
  s.each ((List.range 4).filter s.wdtRuns) (fun t c => t.wr (Reg.dbgWdtCount c) (t.rd (Reg.dbgWdtCount c) - us))

/-! ### Letterbox and virtual terminal (R272–R274) -/

/-- The terminal of a core replaced. -/
def State.setVt (s : State) (c : Nat) (v : VtSt) : State := s.setCore c { s.core c with vt := v }

/-- A word that has entered the Letterbox, read as a word of the virtual terminal (R273, R274). -/
def State.vtWord (s : State) (c : Nat) (toCore : Bool) (w : Nat) : State :=
  let v := (s.core c).vt
  let typ := bitsOf w 31 30
  if typ = 0 then
    if bitsOf w 25 24 = 0 then s
    else if toCore then s.setVt c { v with creditDbg := v.creditDbg - 1 } else s.setVt c { v with creditFw := v.creditFw - 1 }
  else if typ = 1 then
    let code := bitsOf w 7 0
    if code = 1 then
      if toCore then s.setVt c { v with openDbg := true, openFw := false, creditDbg := 0, creditFw := 0 }
      else s.setVt c { v with openFw := true, creditDbg := 0, creditFw := 0 }
    else if code = 2 ∨ code = 4 then s.setVt c {}
    else if code = 3 && toCore then s.setVt c { v with monitor := true }
    else s
  else if typ = 2 && v.openDbg && v.openFw then
    if toCore then s.setVt c { v with creditFw := v.creditFw + w % 2 ^ 16 } else s.setVt c { v with creditDbg := v.creditDbg + w % 2 ^ 16 }
  else s

/-- A write of LB_TX or LB_RX: stored and FULL set, or discarded with OVF. -/
def State.lbTxWrite (s : State) (c w : Nat) : State :=
  if s.bit (Reg.dbgCLbStat c) 0 then s.setBit (Reg.dbgCLbStat c) 2 true
  else ((s.wr (Reg.dbgCLbTx c) w).setBit (Reg.dbgCLbStat c) 0 true).vtWord c false w
def State.lbRxWrite (s : State) (c w : Nat) : State :=
  if s.bit (Reg.dbgCLbStat c) 1 then s.setBit (Reg.dbgCLbStat c) 3 true
  else ((s.wr (Reg.dbgCLbRx c) w).setBit (Reg.dbgCLbStat c) 1 true).vtWord c true w

/-- A consume read of LB_TX or LB_RX: the word is taken. -/
def State.lbTxTake (s : State) (c : Nat) : State := s.setBit (Reg.dbgCLbStat c) 0 false
def State.lbRxTake (s : State) (c : Nat) : State := s.setBit (Reg.dbgCLbStat c) 1 false

/-- LB_TX_WRITE, LB_TX_CONSUME_READ, LB_RX_WRITE, LB_RX_CONSUME_READ (R272). -/
def execLbTxWrite (c : Fin 4) (word : Word) (s : State) : Out := s.when (s.coreOn c.val && !s.halted c.val) (s.lbTxWrite c.val word.toNat)
def execLbTxConsumeRead (c : Fin 4) (s : State) : Out := s.when s.pw.aon (s.lbTxTake c.val)
def execLbRxWrite (c : Fin 4) (word : Word) (s : State) : Out := s.when s.pw.aon (s.lbRxWrite c.val word.toNat)
def execLbRxConsumeRead (c : Fin 4) (s : State) : Out := s.when (s.coreOn c.val && !s.halted c.val) (s.lbRxTake c.val)

/-- One side of a terminal writes a word, which it does only while FULL is clear (R274). -/
def State.vtSend (s : State) (c : Nat) (toCore : Bool) (w : Nat) : State :=
  if toCore then (if s.bit (Reg.dbgCLbStat c) 1 then s else s.lbRxWrite c w)
  else if s.bit (Reg.dbgCLbStat c) 0 then s else s.lbTxWrite c w

/-- Whether the sending side is there: the debugger always, firmware while its core runs. -/
def State.vtSide (s : State) (c : Nat) (toCore : Bool) : Bool := s.pw.aon && (toCore || (s.coreOn c && !s.halted c))

/-- VT_DATA (R273, R274): a data word costs one credit of its sender, who writes none without. -/
def execVtData (c : Fin 4) (toCore : Bool) (count : Fin 4) (bytes : BitVec 24) (s : State) : Out :=
  let v := (s.core c.val).vt
  let credit := if toCore then v.creditDbg else v.creditFw
  s.when (s.vtSide c.val toCore && decide (0 < credit)) (s.vtSend c.val toCore (count.val * 2 ^ 24 + bytes.toNat))

/-- VT_OPEN: the debugger opens, and firmware answers only an OPEN. -/
def execVtOpen (c : Fin 4) (toCore : Bool) (s : State) : Out :=
  s.when (s.vtSide c.val toCore && (toCore || (s.core c.val).vt.openDbg)) (s.vtSend c.val toCore 0x40000001)

/-- VT_CLOSE, VT_BREAK, VT_TERMINAL_RESET, VT_CREDIT. -/
def execVtClose (c : Fin 4) (toCore : Bool) (s : State) : Out := s.when (s.vtSide c.val toCore) (s.vtSend c.val toCore 0x40000002)
def execVtBreak (c : Fin 4) (s : State) : Out := s.when (s.vtSide c.val true) (s.vtSend c.val true 0x40000003)
def execVtTerminalReset (c : Fin 4) (toCore : Bool) (s : State) : Out := s.when (s.vtSide c.val toCore) (s.vtSend c.val toCore 0x40000004)
def execVtCredit (c : Fin 4) (toCore : Bool) (credit : BitVec 16) (s : State) : Out :=
  s.when (s.vtSide c.val toCore) (s.vtSend c.val toCore (0x80000000 + credit.toNat))

end Sys2Proof.Machine
end

