-- ==== Sys2Proof/Machine/CryptoOps.lean ====
section
/-!
DEFINITION. Block-cipher modes over AES-256 and the inline crypto engine's view of DRAM (R307–R324).
Modes are written out; only the cipher itself is a constant without a body (log entry 2).
-/
namespace Sys2Proof.Machine

/-- The number whose big-endian bytes are given. -/
def beNat (bs : List Byte) : Nat := bs.foldl (fun v b => v * 256 + b.toNat) 0

/-- `n` bytes of a number, most significant first. -/
def beBytes (n v : Nat) : List Byte := (leBytes n v).reverse

/-- AES-256 on a block of 16 bytes, key of 32 bytes. -/
def aesBytes (key blk : List Byte) : List Byte :=
  beBytes 16 ((Config.aes (BitVec.ofNat 256 (beNat key))) (BitVec.ofNat 128 (beNat blk))).toNat

/-- AES-256 decryption of a block of 16 bytes. -/
def aesInvBytes (key blk : List Byte) : List Byte :=
  beBytes 16 ((Config.aes (BitVec.ofNat 256 (beNat key))).symm (BitVec.ofNat 128 (beNat blk))).toNat

/-- Exclusive-or of byte strings. -/
def xorBytes (a b : List Byte) : List Byte := List.zipWith (fun x y => x ^^^ y) a b

/-- Doubling in GF(2^128) as CMAC counts it: most significant bit first. -/
def cmacDouble (v : Nat) : Nat := if v / 2 ^ 127 % 2 = 1 then Nat.xor (v * 2 % 2 ^ 128) 0x87 else v * 2 % 2 ^ 128

/-- Byte strings cut into pieces of `k` bytes; the first argument bounds their number. -/
def pieces (k : Nat) : Nat → List Byte → List (List Byte)
  | 0, _ => []
  | _, [] => []
  | n + 1, b :: bs => (b :: bs).take k :: pieces k n ((b :: bs).drop k)

/-- CMAC-AES-256 (R312, R315). -/
def cmac (key msg : List Byte) : List Byte :=
  let k1 := cmacDouble (beNat (aesBytes key (zeroBytes 16)))
  let k2 := cmacDouble k1
  let ps := pieces 16 (msg.length / 16 + 1) msg
  let lastB := ps.getLast?.getD []
  let fin := if lastB.length = 16 then xorBytes lastB (beBytes 16 k1)
    else xorBytes (lastB ++ (0x80 : Byte) :: zeroBytes (15 - lastB.length)) (beBytes 16 k2)
  aesBytes key (xorBytes (ps.dropLast.foldl (fun x p => aesBytes key (xorBytes x p)) (zeroBytes 16)) fin)

/-! ### Franking (R151, R152) -/

/-- SHA-384 as the 48 bytes that its standard orders, first byte most significant. -/
def sha384Bytes (bs : List Byte) : List Byte := beBytes 48 (Config.sha384 bs).toNat

/-- A number squared `k` times modulo n. -/
def squareMod (n : Nat) : Nat → Nat → Nat
  | 0, v => v
  | k + 1, v => squareMod n k (v * v % n)

/-- The RSA public operation of exponent 65,537. -/
def rsaPublic (n v : Nat) : Nat := squareMod n 16 v * v % n

/-- MGF1 with SHA-384: a mask of `len` bytes (R152; log entry 52). -/
def mgf1 (seed : List Byte) (len : Nat) : List Byte :=
  ((List.range ((len + 47) / 48)).flatMap (fun c => sha384Bytes (seed ++ beBytes 4 c))).take len

/-- EMSA-PSS with SHA-384, MGF1 and a 48-byte salt: whether an encoded message of `bits` bits fits a message (R152; log
entry 52). -/
def emsaPss (msg em : List Byte) (bits : Nat) : Bool :=
  let n := (bits + 7) / 8
  let dbLen := n - 49
  let h := (em.drop dbLen).take 48
  let db := beBytes dbLen (beNat (xorBytes (em.take dbLen) (mgf1 h dbLen)) % 2 ^ (bits - 8 * 49))
  let salt := db.drop (dbLen - 48)
  98 ≤ n && em.length = n && decide (em.getLast? = some 0xBC) && decide (beNat em < 2 ^ bits) &&
    decide (db.take (dbLen - 48) = zeroBytes (dbLen - 49) ++ [1]) &&
    decide (h = sha384Bytes (zeroBytes 8 ++ sha384Bytes msg ++ salt))

/-- RSASSA-PSS verification under modulus n and exponent 65,537 (R151, R152; log entry 52). -/
def rsaPss (n : Nat) (msg sig : List Byte) : Bool :=
  let m := rsaPublic n (beNat sig)
  let bits := Nat.log2 n
  decide (beNat sig < n) && decide (m < 2 ^ (8 * ((bits + 7) / 8))) && emsaPss msg (beBytes ((bits + 7) / 8) m) bits

/-- The signature block g names a signer slot that is programmed, not revoked and holds the hash of the block's keys
(R151, R156). -/
def signerIn (slots : SMap Nat) (revoked : List Nat) (top : Nat) (g : List Byte) : Bool :=
  let slot := leAt g 4 2
  leAt g 0 4 = 0x4647594D && leAt g 6 2 = 0 && leAt g 0x1BC 4 = 0 && decide (slot < top) &&
    beNat ((g.drop 0x188).take 4) = 65537 && !revoked.contains slot &&
    SMap.find slots slot = some (leNat (sha384Bytes ((g.drop 8).take 388 ++ (g.drop 0x18C).take 48)))

/-- The digest of an image whose signature block stands at o (R152). -/
def digestAt (img : List Byte) (o : Nat) : List Byte := sha384Bytes (img.take (o + 0x1C0))

/-- Both signatures of an image verify over its digest (R152). -/
def bothVerify (img : List Byte) (o : Nat) : Bool :=
  let g := img.drop o
  rsaPss (beNat ((g.drop 8).take 384)) (digestAt img o) ((g.drop 0x1C0).take 384) &&
    Config.slhDsa ((g.drop 0x18C).take 48) (digestAt img o) ((g.drop 0x340).take 16224)

/-- The keys of region r at epoch e: K1, K2, KT (32 bytes each), KS0, KS1 (8 bytes each) (R312). -/
structure RegionKeys where
  k1 : List Byte
  k2 : List Byte
  kt : List Byte
  ks0 : Nat
  ks1 : Nat

/-- Input block i of the key derivation (R312). -/
def kdfBlock (i r e : Nat) : List Byte :=
  leBytes 1 i ++ [0x5A, 0x52, 0x49, 0x43] ++ [0] ++ leBytes 2 r ++ leBytes 4 e ++ leBytes 4 896

/-- The region keys from the root key (R312). -/
def regionKeys (root r e : Nat) : RegionKeys :=
  let out := (List.range 7).flatMap (fun i => cmac (leBytes 32 root) (kdfBlock (i + 1) r e))
  { k1 := out.take 32, k2 := (out.drop 32).take 32, kt := (out.drop 64).take 32
    ks0 := leAt out 96 8, ks1 := leAt out 104 8 }

/-! ### Scramble (R313) -/

/-- Rotation of a 64-bit number to the left. -/
def rotl64 (v k : Nat) : Nat := (v * 2 ^ (k % 64) + v / 2 ^ (64 - k % 64)) % 2 ^ 64

/-- The S-box of R313 and its inverse. -/
def sBox : List Nat := [0x6, 0xB, 0x5, 0x4, 0x2, 0xE, 0x7, 0xA, 0x9, 0xD, 0xF, 0xC, 0x3, 0x1, 0x0, 0x8]
def sBoxInv : List Nat := (List.range 16).map (fun v => sBox.idxOf v)

/-- Every nibble of a 64-bit word through a table. -/
def nibbles (t : List Nat) (w : Nat) : Nat :=
  (List.range 16).foldl (fun v i => v + t.getD (w / 16 ^ i % 16) 0 * 16 ^ i) 0

/-- Bit i moves to bit (17i) mod 64, and back. -/
def permBits (w : Nat) : Nat := (List.range 64).foldl (fun v i => v + w / 2 ^ i % 2 * 2 ^ (17 * i % 64)) 0
def permBitsInv (w : Nat) : Nat := (List.range 64).foldl (fun v i => v + w / 2 ^ (17 * i % 64) % 2 * 2 ^ i) 0

/-- One round and its inverse. -/
def mixRound (ks t r w : Nat) : Nat := permBits (nibbles sBox (Nat.xor (Nat.xor w ks) (rotl64 t (16 * r + 5))))
def mixRoundInv (ks t r w : Nat) : Nat := Nat.xor (Nat.xor (nibbles sBoxInv (permBitsInv w)) ks) (rotl64 t (16 * r + 5))

/-- The two-round mix of a 64-bit word with index T, and its inverse. -/
def mixWord (ks0 ks1 t w : Nat) : Nat := mixRound ks1 t 1 (mixRound ks0 t 0 w)
def unmixWord (ks0 ks1 t w : Nat) : Nat := mixRoundInv ks0 t 0 (mixRoundInv ks1 t 1 w)

/-! ### Sector mode (R314) -/

/-- Doubling in GF(2^128) as IEEE 1619 counts it: little-endian. -/
def xtsDouble (v : Nat) : Nat := if v / 2 ^ 127 % 2 = 1 then Nat.xor (v * 2 % 2 ^ 128) 0x87 else v * 2 % 2 ^ 128

/-- The tweak of the cipher block at address a. -/
def xtsTweak (k2 : List Byte) (a : Nat) : List Byte :=
  leBytes 16 ((List.range (a / 16 % 256)).foldl (fun t _ => xtsDouble t) (leNat (aesBytes k2 (leBytes 16 (a / 4096)))))

/-- Encryption and decryption of the 16-byte block at address a. -/
def xtsEnc (k : RegionKeys) (a : Nat) (b : List Byte) : List Byte :=
  xorBytes (aesBytes k.k1 (xorBytes b (xtsTweak k.k2 a))) (xtsTweak k.k2 a)
def xtsDec (k : RegionKeys) (a : Nat) (b : List Byte) : List Byte :=
  xorBytes (aesInvBytes k.k1 (xorBytes b (xtsTweak k.k2 a))) (xtsTweak k.k2 a)

/-! ### Regions -/

/-- The address ranges of HBM and DDR5 (R35). -/
def inHbm (a : Nat) : Bool := 0x10000000000 ≤ a && a < 0x10000000000 + 8 * 0x600000000
def inDdr (a : Nat) : Bool := 0x20000000000 ≤ a && a < 0x50000000000
def inDram (a : Nat) : Bool := inHbm a || inDdr a

/-- BASE, LIMIT and TAG_BASE of a region, whose low 12 bits are reserved. -/
def State.rBase (s : State) (r : Nat) : Nat := s.rd64 (Reg.icRBaseLo r) (Reg.icRBaseHi r) % 2 ^ 48 / 4096 * 4096
def State.rLimit (s : State) (r : Nat) : Nat := s.rd64 (Reg.icRLimitLo r) (Reg.icRLimitHi r) % 2 ^ 48 / 4096 * 4096
def State.rTag (s : State) (r : Nat) : Nat := s.rd64 (Reg.icRTagLo r) (Reg.icRTagHi r) % 2 ^ 48 / 4096 * 4096
def State.rPos (s : State) (r : Nat) : Nat := s.rd64 (Reg.icRPosLo r) (Reg.icRPosHi r)
def State.rOn (s : State) (r : Nat) : Bool := s.bit (Reg.icRCtrl r) 31
def State.rMode (s : State) (r : Nat) : Nat := s.fld (Reg.icRCtrl r) 1 0
def State.rEpoch (s : State) (r : Nat) : Nat := s.rd (Reg.icREpoch r)
def State.rTagLen (s : State) (r : Nat) : Nat := (s.rLimit r - s.rBase r + 4096) / 8

/-- The enabled region that covers an address (R307). -/
def State.regionAt (s : State) (a : Nat) : Option Nat :=
  (List.range 256).find? (fun r => s.rOn r && decide (s.rBase r ≤ a) && decide (a < s.rLimit r + 4096))

/-- The epoch whose keys serve an address of region r: during a re-key the old one from POS up (R322). -/
def State.epochAt (s : State) (r a : Nat) : Nat :=
  if s.ic.rekeying.contains r && decide (s.rPos r ≤ a) then s.rEpoch r - 1 else s.rEpoch r

/-- The form of the byte at an address: the newest that covers it. -/
def State.formAt (s : State) (a : Nat) : Form :=
  (s.ic.forms.find? (fun f => decide (f.lo ≤ a) && decide (a < f.hi) && (f.span < 2 || a / 256 % f.span = f.ord))).getD (mkForm 0 0 0 0 0 0)

/-- The form that an access of the engine gives the 16-byte block at an address now. -/
def State.curForm (s : State) (a : Nat) : Form :=
  match s.regionAt a with
  | some r => if s.rMode r = 0 then (mkForm 0 0 0 0 0 0) else (mkForm 0 0 (s.rMode r) r (s.epochAt r a) 0)
  | none => (mkForm 0 0 0 0 0 0)

/-- Whether two forms name one key. -/
def sameForm (f g : Form) : Bool :=
  f.kind = g.kind && (f.kind = 0 || (f.r = g.r && f.e = g.e && (f.kind ≠ 4 || f.base = g.base)))

/-- The keys of a form. -/
def State.formKeys (s : State) (f : Form) : RegionKeys := regionKeys (s.ic.root.getD 0) f.r f.e

/-- The stored bytes of a block from its plaintext under a form, and back. -/
def State.encBlock (s : State) (f : Form) (a : Nat) (b : List Byte) : List Byte :=
  let k := s.formKeys f
  if f.kind = 1 then
    leBytes 8 (mixWord k.ks0 k.ks1 (a / 8) (leAt b 0 8)) ++ leBytes 8 (mixWord k.ks0 k.ks1 (a / 8 + 1) (leAt b 8 8))
  else if f.kind = 2 || f.kind = 3 then xtsEnc k a b
  else b
def State.decBlock (s : State) (f : Form) (a : Nat) (b : List Byte) : List Byte :=
  let k := s.formKeys f
  if f.kind = 1 then
    leBytes 8 (unmixWord k.ks0 k.ks1 (a / 8) (leAt b 0 8)) ++ leBytes 8 (unmixWord k.ks0 k.ks1 (a / 8 + 1) (leAt b 8 8))
  else if f.kind = 2 || f.kind = 3 then xtsDec k a b
  else b

/-- The stored bytes of the data block at an aligned address (not a block of tags). -/
def State.rawData (s : State) (a : Nat) : List Byte := s.encBlock (s.formAt a) a (s.bytes a 16)

/-- The tag of the line at address x under region keys (R315): the leftmost 64 bits of the CMAC, stored little-endian. -/
def State.lineTag (s : State) (f : Form) (x : Nat) : List Byte :=
  let ct := (List.range 4).flatMap (fun j => s.rawData (x + 16 * j))
  ((cmac (s.formKeys f).kt (leBytes 8 (x / 64) ++ ct)).take 8).reverse

/-- The stored bytes of the block at an aligned address: tags where a form says so. -/
def State.rawBlock (s : State) (a : Nat) : List Byte :=
  let half := fun x =>
    let f := s.formAt x
    if f.kind = 4 then s.lineTag { f with kind := 3 } (f.base + (x - f.lo) / 8 * 64) else s.bytes x 8
  if (s.formAt a).kind = 4 || (s.formAt (a + 8)).kind = 4 then half a ++ half (a + 8) else s.rawData a

/-- What the engine returns for the block at an aligned address. -/
def State.plainBlock (s : State) (a : Nat) : List Byte :=
  if sameForm (s.formAt a) (s.curForm a) && (s.formAt (a + 8)).kind ≠ 4 then s.bytes a 16
  else s.decBlock (s.curForm a) a (s.rawBlock a)

/-- The state with a range under a form; nothing is added where the range is under it already. -/
def State.setForm (s : State) (lo hi : Nat) (f : Form) : State :=
  if sameForm (s.formAt lo) f && sameForm (s.formAt (hi - 1)) f && decide (hi ≤ lo + 16) then s
  else { s with ic := { s.ic with forms := { f with lo := lo, hi := hi } :: s.ic.forms } }

/-- The state with the block at an aligned address holding a plaintext as the engine writes it; under MODE 3 the line's
tag is written with it (R316). -/
def State.putBlock (s : State) (a : Nat) (b : List Byte) : State :=
  let f := s.curForm a
  let s1 := (s.putBytes a b).setForm a (a + 16) f
  if f.kind = 3 then
    let t := s.rTag f.r + 8 * ((a - s.rBase f.r) / 64)
    let s2 := { s1 with ic := { s1.ic with forms := (s1.ic.forms.filter (fun g => !(g.lo = t && g.hi = t + 8))) } }
    if sameForm (s2.formAt t) { f with kind := 4, base := s.rBase f.r } then s2
    else { s2 with ic := { s2.ic with forms :=
      (mkForm t (t + 8) 4 f.r f.e (a / 64 * 64)) :: s2.ic.forms } }
  else s1

/-- Whether the tag of the line that holds an address matches: the line and its tag were both last written by the engine
under the present keys (log entry 9). -/
def State.tagGood (s : State) (a : Nat) : Bool :=
  let x := a / 64 * 64
  let f := s.curForm x
  if f.kind = 3 then
    let t := s.rTag f.r + 8 * ((x - s.rBase f.r) / 64)
    let g := s.formAt t
    (List.range 4).all (fun j => sameForm (s.formAt (x + 16 * j)) f) &&
      g.kind = 4 && g.r = f.r && g.e = f.e && g.base + (t - g.lo) / 8 * 64 = x
  else true

/-- `k` blocks from an aligned address, decrypted. -/
def State.plainBlocks (s : State) (a : Nat) : Nat → List Byte
  | 0 => []
  | k + 1 => s.plainBlock a ++ s.plainBlocks (a + 16) k

/-- `n` bytes from an address of DRAM as the engine returns them. -/
def State.dramBytes (s : State) (a n : Nat) : List Byte :=
  ((s.plainBlocks (a / 16 * 16) ((a + n + 15) / 16 - a / 16)).drop (a % 16)).take n

/-- The state with `k` aligned blocks written from a byte string. -/
def State.putBlocks (s : State) (a : Nat) : Nat → List Byte → State
  | 0, _ => s
  | k + 1, bs => (s.putBlock a (bs.take 16)).putBlocks (a + 16) k (bs.drop 16)

/-- The state with bytes written to DRAM through the engine: partial cipher blocks are read, merged and written (R314). -/
def State.putDram (s : State) (a : Nat) (bs : List Byte) : State :=
  let n := bs.length
  let k := (a + n + 15) / 16 - a / 16
  let old := s.plainBlocks (a / 16 * 16) k
  s.putBlocks (a / 16 * 16) k (old.take (a % 16) ++ bs ++ old.drop (a % 16 + n))

/-- The enabled regions that a range meets. -/
def State.regionsIn (s : State) (a n : Nat) : List Nat :=
  (List.range 256).filter (fun r => s.rOn r && decide (s.rBase r < a + n) && decide (a < s.rLimit r + 4096))

/-- WCNT counts data written into each region by every master but 0x82 (R320). -/
def State.countWrite (s : State) (a n mid : Nat) : State :=
  if mid = 0x82 then s
  else s.each (s.regionsIn a n) (fun t r =>
    let len := min (a + n) (t.rLimit r + 4096) - max a (t.rBase r)
    let res := SMap.get t.ic.residue r 0 + (len + 63) / 64 * 64
    let t1 := { t with ic := { t.ic with residue := SMap.set t.ic.residue r (res % 4096) 0 } }
    t1.wr (Reg.icRWcnt r) (min 0xFFFFFFFF (t.rd (Reg.icRWcnt r) + res / 4096)))

end Sys2Proof.Machine
end

