-- ==== Sys2Proof/Machine/InlineCrypto.lean ====
section
/-!
DEFINITION. Inline memory encryption: regions, fills, re-keys, alarms and the Courier scramble settings (chapter 10).
-/
namespace Sys2Proof.Machine

/-- IC_STAT.REFUSED sets. -/
def State.icRefused (s : State) : State := s.setBit Reg.icStat 29 true

/-- A security alarm (R317): the count, ALARM, IC_ALARM_INFO and IC_ALARM_ADDR, and the event. -/
def State.icAlarm (s : State) (r addr mid kind : Nat) : State :=
  let s1 := (s.count Reg.icTagfail 31 0 1).setBit Reg.icStat 31 true
  let s2 := s1.wr Reg.icAlarmInfo (2 ^ 31 + kind * 2 ^ 29 + mid * 2 ^ 16 + r * 2 ^ 8)
  (s2.wr64 Reg.icAlarmAddrLo Reg.icAlarmAddrHi (addr / 64 * 64)).event 0x0601 7 r mid addr

/-- ROOT_KEY_DRAWN (R311). -/
def execRootKeyDrawn (key : BitVec 256) (s : State) : Out :=
  s.when (s.hubOn && s.ic.root.isNone)
    ({ s with ic := { s.ic with root := some key.toNat } }.setBit Reg.icStat 30 true)

/-- Whether two ranges [a, b) and [c, d) overlap. -/
def overlaps (a b c d : Nat) : Bool := decide (a < d) && decide (c < b)

/-- Whether a range lies wholly in the HBM range or wholly in the DDR5 range (R307, R309). -/
def rangeOk (lo hi : Nat) : Bool := (inHbm lo && inHbm (hi - 1)) || (inDdr lo && inDdr (hi - 1))

/-- Whether an enable of region r is accepted (R309). -/
def State.enableOk (s : State) (r : Nat) : Bool :=
  let lo := s.rBase r
  let hi := s.rLimit r + 4096
  let others := (List.range 256).filter (fun q => q != r && s.rOn q)
  let tlo := s.rTag r
  let thi := s.rTag r + s.rTagLen r
  s.bit Reg.icStat 30 && decide (lo ≤ s.rLimit r) && rangeOk lo hi &&
    others.all (fun q => !overlaps lo hi (s.rBase q) (s.rLimit q + 4096)) &&
    (s.rMode r ≠ 3 || ((inDram tlo && inDram (thi - 1)) && !overlaps tlo thi lo hi &&
      others.all (fun q => !overlaps tlo thi (s.rBase q) (s.rLimit q + 4096))))

/-- A write of EN = 1 to a region that is off (R309): fresh keys, WCNT 0. -/
def State.regionEnable (s : State) (r : Nat) : State :=
  if s.rOn r then s
  else if s.enableOk r then
    let s1 := { s with ic := { s.ic with residue := SMap.set s.ic.residue r 0 0 } }
    ((s1.setBit (Reg.icRCtrl r) 31 true).wr (Reg.icRWcnt r) 0).wr (Reg.icREpoch r) (s.rEpoch r + 1)
  else s.icRefused

/-- A write of EN = 0 (R309). -/
def State.regionDisable (s : State) (r : Nat) : State :=
  if s.bit (Reg.icRStat r) 31 || s.bit (Reg.icRStat r) 30 then s.icRefused else s.setBit (Reg.icRCtrl r) 31 false

/-- A write of 1 to ZERO (R310). -/
def State.regionZero (s : State) (r : Nat) : State :=
  if s.rOn r && !s.bit (Reg.icRStat r) 31 && !s.bit (Reg.icRStat r) 30 then
    let s1 := { s with ic := { s.ic with filling := s.ic.filling ++ [r] } }
    ((s1.setBit (Reg.icRCtrl r) 30 true).setBit (Reg.icRStat r) 31 true).wr64 (Reg.icRPosLo r) (Reg.icRPosHi r) (s.rBase r)
  else s.icRefused

/-- IC_STAT.REKEYS shows the re-keys in progress. -/
def State.showRekeys (s : State) : State := s.setFld Reg.icStat 2 0 s.ic.rekeying.length

/-- Step 1 of a re-key (R321): the next epoch, WCNT 0, POS at BASE; at the last epoch there is none (R323). -/
def State.rekeyBegin (s : State) (r : Nat) : State :=
  if s.rEpoch r = 0xFFFFFFFF then
    (((s.setBit (Reg.icRStat r) 28 true).setBit (Reg.icRStat r) 30 false).setBit (Reg.icRCtrl r) 29 false).event 0x0603 6 r 0
  else
    let s1 := { s with ic := { s.ic with
      residue := SMap.set s.ic.residue r 0 0
      rekeying := s.ic.rekeying ++ [r]
      waiting := s.ic.waiting.filter (· != r) } }
    let s2 := ((s1.wr (Reg.icREpoch r) (s.rEpoch r + 1)).wr (Reg.icRWcnt r) 0).wr64 (Reg.icRPosLo r) (Reg.icRPosHi r) (s.rBase r)
    (((s2.setBit (Reg.icRStat r) 30 true).setBit (Reg.icRCtrl r) 29 true)).showRekeys

/-- The next waiting region starts, in ascending order, while fewer than four are re-keyed (R321). -/
def State.rekeyNext (s : State) : State :=
  if s.ic.rekeying.length < 4 then
    match (List.range 256).find? (fun r => s.ic.waiting.contains r && !s.bit (Reg.icRStat r) 31) with
    | some r => s.rekeyBegin r
    | none => s
  else s

/-- A re-key of a region is started or queued (R320, R321, R323); a region that is off has none. -/
def State.rekey (s : State) (r : Nat) : State :=
  if !s.rOn r then s
  else if s.ic.rekeying.contains r || s.ic.waiting.contains r then s.setBit (Reg.icRStat r) 29 true
  else if decide (s.ic.rekeying.length < 4) && !s.bit (Reg.icRStat r) 31 then s.rekeyBegin r
  else (({ s with ic := { s.ic with waiting := s.ic.waiting ++ [r] } }.setBit (Reg.icRStat r) 30 true).setBit (Reg.icRCtrl r) 29 true)

/-- Data written to DRAM is counted, and a region whose count has reached its end is re-keyed (R320). -/
def State.wroteDram (s : State) (a n mid : Nat) : State :=
  (s.countWrite a n mid).each ((s.regionsIn a n).filter (fun r => s.rd (Reg.icRWcnt r) ≠ 0xFFFFFFFF)) (fun t r =>
    if t.rd (Reg.icRWcnt r) = 0xFFFFFFFF then t.rekey r else t)

/-- Fills and re-keys run in modes 2 and 5–10 (R323). -/
def State.icRuns (s : State) : Bool := s.mode = 2 || (decide (5 ≤ s.mode) && decide (s.mode ≤ 10))

/-- REGION_ENABLE (R309). -/
def execRegionEnable (r : Byte) (s : State) : Out := s.when s.hubOn (s.regionEnable r.toNat)

/-- REGION_DISABLE (R309). -/
def execRegionDisable (r : Byte) (s : State) : Out := s.when s.hubOn (s.regionDisable r.toNat)

/-- REGION_ZERO (R310). -/
def execRegionZero (r : Byte) (s : State) : Out := s.when s.hubOn (s.regionZero r.toNat)

/-- Whole blocks of a range have been written: none is poisoned any more, and other masters' writes end reservations (R269, R301). -/
def State.wroteWhole (s : State) (lo hi : Nat) : State :=
  (s.each (List.range 20) (fun t c =>
    if (t.mc c).poison.any (fun b => decide (lo ≤ b) && decide (b < hi)) then
      t.setMc c { t.mc c with poison := (t.mc c).poison.filter (fun b => !(decide (lo ≤ b) && decide (b < hi))) }
    else t)).breakReservations 0x82 lo (hi - lo)

/-- REGION_FILL_COMPLETE (R310): the region holds encrypted zeros, and under MODE 3 their tags. -/
def execRegionFillComplete (r : Byte) (s : State) : Out :=
  let q := r.toNat
  let lo := s.rBase q
  let hi := s.rLimit q + 4096
  let s1 := s.zeroRange lo hi
  let tagForms := if s.rMode q = 3 then [((mkForm (s.rTag q) (s.rTag q + s.rTagLen q) 4 q (s.rEpoch q) lo) : Form)] else []
  let s2 := { s1 with ic := { s1.ic with
    forms := tagForms ++ ((mkForm lo hi (s.rMode q) q (s.rEpoch q) 0) : Form) :: s1.ic.forms
    filling := s1.ic.filling.filter (· != q) } }
  let s3 := s2.wroteWhole lo hi
  let s4 := if s.rMode q = 3 then s3.wroteWhole (s.rTag q) (s.rTag q + s.rTagLen q) else s3
  s.when (s.ic.filling.contains q && s.icRuns)
    ((((s4.setBit (Reg.icRCtrl q) 30 false).setBit (Reg.icRStat q) 31 false).wr64 (Reg.icRPosLo q) (Reg.icRPosHi q) hi).rekeyNext)

/-- REGION_REKEY (R320): REKEY is written, or the count has reached its end. -/
def execRegionRekey (r : Byte) (s : State) : Out := s.when s.hubOn (s.rekey r.toNat)

/-- The sector at POS is read under the old epoch and written under the new one (R321, R323): a line that fails its tag
keeps failing and raises an alarm of KIND 1; a poisoned block stays as it is, and its line takes no tag check (R318). -/
def State.rekeySector (s : State) (r : Nat) : State :=
  let p := s.rPos r
  let plain := s.plainBlocks p 256
  let sick := fun (x : Nat) => (List.range 20).any (fun c => (s.mc c).poison.any (fun b => b / 64 = x / 64))
  let bad := if s.rMode r = 3 then (List.range 64).filter (fun j => !sick (p + 64 * j) && !s.tagGood (p + 64 * j)) else []
  let s1 := s.wr64 (Reg.icRPosLo r) (Reg.icRPosHi r) (p + 4096)
  let f : Form := (mkForm p (p + 4096) (s.rMode r) r (s.rEpoch r) 0)
  let t := s.rTag r + 8 * ((p - s.rBase r) / 64)
  let same := (List.range 256).all (fun j => sameForm (s.formAt (p + 16 * j)) (s.curForm (p + 16 * j)))
  let s2 := if same then s1 else s1.putBytes p plain
  let s3 := { s2 with ic := { s2.ic with
    forms := (if s.rMode r = 3 then [((mkForm t (t + 512) 4 r (s.rEpoch r) p) : Form)] else []) ++ f :: s2.ic.forms } }
  s3.each bad (fun u j =>
    let x := p + 64 * j
    let inv := (u.lineTag f x).map (fun b => ~~~b)
    let u1 := (u.putBytes (t + 8 * j) inv)
    let u2 := { u1 with ic := { u1.ic with forms := (mkForm (t + 8 * j) (t + 8 * j + 8) 0 0 0 0) :: u1.ic.forms } }
    u2.icAlarm r x 0x82 1)

/-- The end of a re-key (R321, R323). -/
def State.rekeyEnd (s : State) (r : Nat) : State :=
  let s1 := { s with ic := { s.ic with rekeying := s.ic.rekeying.filter (· != r) } }
  let s2 := ((s1.setBit (Reg.icRStat r) 30 false).setBit (Reg.icRCtrl r) 29 false).showRekeys
  let s3 := if s2.bit (Reg.icRStat r) 29 then (s2.setBit (Reg.icRStat r) 29 false).rekey r else s2
  s3.rekeyNext

/-- REKEY_SECTOR_COMPLETE (R321). -/
def execRekeySectorComplete (r : Byte) (s : State) : Out :=
  let q := r.toNat
  let s1 := s.rekeySector q
  let s2 := s1.breakReservations 0x82 (s.rPos q) 4096
  s.when (s.ic.rekeying.contains q && s.icRuns)
    (if s.rLimit q < s.rPos q + 4096 then s2.rekeyEnd q else s2)

/-- Whether a run has EXT routes (R98), and whether such a run has pages in a tile. -/
def State.bpExt (s : State) (i : Nat) : Bool :=
  (List.range 64).any (fun j =>
    let r := Reg.bayXrt (bpTile i) (bpBay i) (bpPlane i) j
    s.bit r 31 && s.bit r 27)
def State.runExt (s : State) (r : Nat) : Bool := (s.runBps r).any s.bpExt
def State.tileExt (s : State) (n : Nat) : Bool :=
  s.so.bps.any (fun e => e.2.pstate ≠ 0 && e.2.load = none && bpTile e.1 = n && s.runExt e.2.run)

/-- A write of IC_CR_EN or of a Courier key word (R324); keys are refused while any tile holds such a run. -/
def State.icCrWrite (s : State) (o : Nat) (w : Word) : State :=
  if o = 0 then
    if (List.range 8).any (fun n => bitOf w.toNat n != s.bit Reg.icCrEn n && s.tileExt n) then s.icRefused
    else s.wr Reg.icCrEn (w.toNat % 256)
  else if (List.range 8).any s.tileExt then s.icRefused
  else { s with ic := { s.ic with crKeys := SMap.set s.ic.crKeys (o - 1) w 0 } }

/-- IC_CR_WRITE (R324): offset 0 is IC_CR_EN, 1–4 are IC_CR_KEY0–3. -/
def execIcCrWrite (offset : Fin 5) (word : Word) (s : State) : Out := s.when s.hubOn (s.icCrWrite offset word)

/-- The mix of R324 on word j of block b of its interval, as sent. -/
def State.crMix (s : State) (b j w : Nat) : Nat :=
  let k := fun o => (SMap.get s.ic.crKeys o (0 : Word)).toNat
  mixWord (k 0 + 2 ^ 32 * k 1) (k 2 + 2 ^ 32 * k 3) (4 * b + j) w

/-- The mix of R324 removed from word j of block b of its interval, as received. -/
def State.crUnmix (s : State) (b j w : Nat) : Nat :=
  let k := fun o => (SMap.get s.ic.crKeys o (0 : Word)).toNat
  unmixWord (k 0 + 2 ^ 32 * k 1) (k 2 + 2 ^ 32 * k 3) (4 * b + j) w

end Sys2Proof.Machine
end

