-- ==== Sys2Proof/Machine/RoundsOps.lean ====
section
/-!
DEFINITION. The address map (R35–R40), the stops (R25), routing (R345, R346), responses and destination stamps.
-/
namespace Sys2Proof.Machine

/-! ### Stops (R25) -/

/-- The stop of tile Fn, and of DDR pair p. -/
def stopOfTile (n : Nat) : Nat := if n < 4 then 6 + n else 21 - n
def stopOfPair (p : Nat) : Nat := if p < 3 then 3 + p else 7 + p

/-- The tile behind a stop. -/
def tileOfStop (t : Nat) : Option Nat :=
  if 6 ≤ t ∧ t < 10 then some (t - 6) else if 14 ≤ t ∧ t < 18 then some (21 - t) else none

/-! ### DDR5 interleave (R277, R278, R38) -/

/-- The enabled channels. -/
def State.ddrOn (s : State) : List Nat :=
  (List.range 12).filter (fun c => s.domOn (domDdr (c / 2)) && s.bit (Reg.mcIlv (8 + c)) 31)

/-- End of the decoded DDR5 range: C × CAP_GIB GiB. -/
def State.ddrEnd (s : State) : Nat :=
  0x20000000000 + s.ddrOn.length * s.fld (Reg.mcIlv (8 + s.ddrOn.headD 0)) 15 0 * 2 ^ 30

/-- The channel of a DDR5 address. -/
def State.ddrChan (s : State) (a : Nat) : Nat :=
  let line := (a - 0x20000000000) / 256
  (s.ddrOn.find? (fun c => s.fld (Reg.mcIlv (8 + c)) 27 24 = line % s.ddrOn.length)).getD 0

/-- The channel address cw (R277). -/
def State.ddrCw (s : State) (a : Nat) : Nat :=
  (a - 0x20000000000) / 256 / s.ddrOn.length * 256 + a % 256

/-! ### Decoding (R35, R37–R40) -/

/-- The stack of an HBM address, and the end of its decoded range (R37). -/
def hbmStack (a : Nat) : Nat := (a - 0x10000000000) / 0x600000000
def State.hbmEnd (s : State) (n : Nat) : Nat :=
  0x10000000000 + n * 0x600000000 + (if s.bit (Reg.mcCtrl n) 2 then 0x5D0000000 else 0x600000000)

/-- Whether an offset in a tile window is decoded (R39). -/
def tileOffsetOk (o : Nat) : Bool :=
  o < 0x60000 || (0x80000 ≤ o && o < 0xA0000) || (0x10000000 ≤ o && o < 0x28000000) ||
    (0x40000000 ≤ o && o < 0x4A000000 && o % 0x4000 < 0x2400) || (0x50000000 ≤ o && o < 0x58000000) ||
    (0x60000000 ≤ o && o < 0x60300000) || (0x70000000 ≤ o && o < 0x70800000)

/-- The bay whose domain holds an offset of a tile window, when it is a bay's (R40). -/
def bayOfOffset (o : Nat) : Option Nat :=
  if 0x20000 ≤ o ∧ o < 0x60000 then some ((o - 0x20000) / 0x1000)
  else if 0x10000000 ≤ o ∧ o < 0x28000000 then some ((o - 0x10000000) / 512 / 3072 / 4)
  else if 0x40000000 ≤ o ∧ o < 0x4A000000 then some ((o - 0x40000000) / 0x4000 / 160)
  else if 0x50000000 ≤ o ∧ o < 0x58000000 then some ((o - 0x50000000) / 0x20000 / 16)
  else if 0x60000000 ≤ o ∧ o < 0x60300000 then some ((o - 0x60000000) / 256 / 192)
  else if 0x70000000 ≤ o ∧ o < 0x70800000 then some ((o - 0x70000000) / 0x8000 / 4)
  else none

/-- Whether an address lies in a tile window, in the scratchpads. -/
def inTile (a : Nat) : Bool := 0x1000000000 ≤ a && a < 0x1800000000
def inSp (a : Nat) : Bool := 0x10000000 ≤ a && a < 0x18000000
def winTile (a : Nat) : Nat := (a - 0x1000000000) / 0x100000000
def winOff (a : Nat) : Nat := a % 0x100000000

/-- Whether an address lies in a block of registers (R35). -/
def inRegs (a : Nat) : Bool :=
  a < 0xB0000 || (0x100000 ≤ a && a < 0x2C0000) || (0x300000 ≤ a && a < 0x380000) || (inTile a && winOff a < 0xA0000)

/-- Whether the module decodes an address. -/
def State.decodes (s : State) (a : Nat) : Bool :=
  (a < 0x1000000000 && inRegs a) || inSp a || (inTile a && tileOffsetOk (winOff a)) ||
    (0x10000000000 ≤ a && decide (a < 0x10000000000 + 8 * 0x600000000) && decide (a < s.hbmEnd (hbmStack a))) ||
    (0x20000000000 ≤ a && decide (a < s.ddrEnd))

/-- The destination stop of a decoded address (R345). -/
def State.stopOf (s : State) (a : Nat) : Nat :=
  if a < 0x200000 then 0
  else if a < 0x2C0000 then stopOfPair ((a - 0x200000) / 0x20000)
  else if a < 0x380000 then stopOfTile ((a - 0x300000) / 0x10000)
  else if a < 0x1000000000 then 0
  else if a < 0x10000000000 then stopOfTile (winTile a)
  else if a < 0x20000000000 then stopOfTile (hbmStack a)
  else stopOfPair (s.ddrChan a / 2)

/-- The domain that serves a decoded address (R44). -/
def State.domOf (s : State) (a : Nat) : Nat :=
  if 0x40000 ≤ a ∧ a < 0x50000 then domRnd
  else if a < 0x200000 then domHub
  else if a < 0x2C0000 then domDdr ((a - 0x200000) / 0x20000)
  else if a < 0x380000 then domEdge ((a - 0x300000) / 0x10000)
  else if a < 0x1000000000 then domSp ((a - 0x10000000) / 0x800000)
  else if a < 0x10000000000 then
    match bayOfOffset (winOff a) with
    | some b => domBay (winTile a) b
    | none => if 0x80000 ≤ winOff a then domCr (winTile a) else domTile (winTile a)
  else if a < 0x20000000000 then domEdge (hbmStack a)
  else domDdr (s.ddrChan a / 2)

/-- Whether the master of an ID sits behind a stop (R25, R42); an ID that is not listed sits behind none. -/
def atStop (mid stop : Nat) : Bool :=
  let tile := fun n => decide (stop = stopOfTile n)
  if mid < 4 ∨ mid = 0x08 ∨ mid = 0x20 ∨ mid = 0x30 ∨ (0x80 ≤ mid ∧ mid ≤ 0x82) then decide (stop = 0)
  else if 0x10 ≤ mid ∧ mid < 0x20 then tile (mid % 8)
  else if mid = 0x28 then (List.range 8).any tile
  else if 0x40 ≤ mid ∧ mid < 0x80 then tile ((mid - 0x40) / 8)
  else false

/-! ### Packets -/

/-- Initial age class by master ID (R351). -/
def initAge (mid : Nat) : Nat :=
  if mid = 0x81 then 10 else if 0x18 ≤ mid ∧ mid < 0x20 then 9 else if mid = 0x20 then 8 else if mid = 0x30 then 7
  else if mid = 0x08 then 6 else if (0x10 ≤ mid ∧ mid < 0x18) ∨ mid = 0x28 then 5 else if mid < 4 then 4
  else if mid = 0x80 then 3 else if 0x40 ≤ mid ∧ mid < 0x80 then 2 else 0

/-- The k-th set bit of a mask, counted from bit 0. -/
def nthBit (m k : Nat) : Nat := ((List.range 8).filter (fun g => bitOf m g)).getD k 0

/-- Number of set bits of a ring mask. -/
def popc (m : Nat) : Nat := ((List.range 8).filter (fun g => bitOf m g)).length

/-- The active routing bank (R358). -/
def State.curBank (s : State) : Nat := s.fld Reg.rndEpoch 0 0

/-- Ring and direction of a request from stop x to stop y under a bank (R346). -/
def State.ringDir (s : State) (bank x y addr mid : Nat) : Nat × Nat :=
  let e := Reg.rndRt bank x y
  let m := s.fld e 7 0
  (nthBit m (Nat.xor (bitsOf addr 10 8) (mid % 8) % popc m), s.fld e 8 8)

/-- Size of the destination pool of a stop (R326). -/
def destSize (t : Nat) : Nat :=
  if t = 0 then 512 else if t = 1 then 64 else if t = 2 ∨ t = 13 then 256
  else if (tileOfStop t).isSome then 1024 else 768

/-- Counts of the Rounds. -/
def State.stampUsed (s : State) (t : Nat) : Nat := SMap.get s.rnd.stampUsed t 0
def State.stampHeld (s : State) (d t : Nat) : Nat := SMap.get s.rnd.stampHeld (18 * d + t) 0
def State.accepted (s : State) (t : Nat) : Nat := SMap.get s.rnd.accepted t 0

/-- The count of stamps that a stop holds for a destination, replaced. -/
def State.setHeld (s : State) (d t v : Nat) : State :=
  let k := 18 * d + t
  { s with rnd := { s.rnd with
      stampHeld := SMap.set s.rnd.stampHeld k v 0
      stampIdle := SMap.set s.rnd.stampIdle k (min (SMap.get s.rnd.stampIdle k 0) v) 0
      stampDue := SMap.set s.rnd.stampDue k (min (SMap.get s.rnd.stampDue k 0) v) 0 } }

/-- The count of stamps drawn from an owner's free count, replaced. -/
def State.setUsed (s : State) (d v : Nat) : State :=
  { s with rnd := { s.rnd with stampUsed := SMap.set s.rnd.stampUsed d v 0 } }

/-- Whether a request of master `mid` at stop x is one of a domain's own units: a tile's, or the hub's (R42). -/
def unitOf (d mid x : Nat) : Bool :=
  if d < 8 then x = stopOfTile d && ((decide (0x10 ≤ mid) && decide (mid < 0x20)) || mid = 0x28 || (decide (0x40 ≤ mid) && decide (mid < 0x80)))
  else d = domHub && (decide (mid < 4) || mid = 8 || mid = 0x20)

/-- Steps 1–4 of R337: a domain's units have no response to wait for, it has completed what it accepted, and every leaf that they report
has read 0 at the last strobe: a tile's, the page-port buffers of its user-design ports. -/
def State.unitsDrained (s : State) (d : Nat) : Bool :=
  (8 ≤ d || ((SMap.get s.mcs d {}).port.isEmpty && SMap.get s.tal.latch (32 * (324 + d) + 5) 0 = 0)) &&
  !s.rnd.fabHeld.any (fun p => s.domOf p.addr = d) && !s.rnd.out.any (fun e => !e.2.late && unitOf d e.2.pkt.mid (e.1 / 2048))

/-- Whether a master's unit still issues requests: those of a tile that is on and not about to power down (R337). -/
def State.unitLive (s : State) (mid stop : Nat) : Bool :=
  (List.range 8).all (fun n => !unitOf n mid stop || (s.dom (domTile n)).ph = 2)

/-- A tile's units return every unspent stamp that they hold. -/
def State.stampsHome (s : State) (n : Nat) : State :=
  if s.domOn domRnd then s.each (List.range 18) (fun t d =>
    (t.setUsed d (t.stampUsed d - t.stampHeld d (stopOfTile n))).setHeld d (stopOfTile n) 0)
  else s

/-- A request is complete at its endpoint: its stamp returns to the owner's free count (R327). -/
def State.stampBack (s : State) (t : Nat) : State :=
  { s with rnd := { s.rnd with
    accepted := SMap.set s.rnd.accepted t (s.accepted t - 1) 0
    stampUsed := SMap.set s.rnd.stampUsed t (s.stampUsed t - 1) 0 } }

/-- Whether an address is in a frame slot: a read there returns data with its bus error too (R171). -/
def inFrames (a : Nat) : Bool := inTile a && decide (0x10000000 ≤ winOff a) && decide (winOff a < 0x28000000)

/-- The response packet of a request (R346, R348, R349, R351; log entry 52). -/
def State.responseOf (s : State) (q : Pkt) (status cause : Nat) (data : List Byte) : Pkt :=
  { q with
    kind := if q.kind = .readReq then .readResp else .writeResp
    src := q.dst, dst := q.src, bem := none, status := status, cause := cause
    data := if status = 0 || (status = 1 && inFrames q.addr) then data else []
    dir := (s.ringDir q.repoch q.dst q.src q.addr q.mid).2 }

/-! ### Flits, input buffers and arbitration (R343, R350, R353, R354, R365) -/

/-- Requests use at most 24 entries of an input buffer; every other kind may use all 32 (R343; log entry 57). -/
def Pkt.isReq (p : Pkt) : Bool := p.kind = .readReq || p.kind = .writeReq

/-- Where a packet enters the rings and where it leaves them: a returned request travels back to its source (R362). -/
def Pkt.start (p : Pkt) : Nat := if p.kind = .returned then p.dst else p.src
def Pkt.goal (p : Pkt) : Nat := if p.kind = .returned then p.src else p.dst

/-- Flits of a packet (R350); a returned request carries the whole request, header included (R349). -/
def Pkt.flits (p : Pkt) : Nat :=
  let n := p.data.length + (if p.bem.isSome then 8 else 0) + (if p.kind = .returned then 16 else 0)
  if n ≤ 112 then 1 else 1 + (n - 112 + 127) / 128

/-- The stop after x in a direction (R346). -/
def stopNext (x d : Nat) : Nat := if d = 0 then (x + 1) % 18 else (x + 17) % 18

/-- Whether a link is retraining or has failed. -/
def State.linkDown (s : State) (x g d : Nat) : Bool :=
  s.bit (Reg.rndSLink x) (16 + 2 * g + d) || s.bit (Reg.rndSLink x) (2 * g + d)

/-- The packets that take entries of the input buffer of a stop, ring and direction, oldest first; a packet whose flits are
replayed to it keeps its entries. -/
def State.inBuf (s : State) (x g d : Nat) : List Pkt :=
  s.rnd.net.filter (fun p => p.start ≠ p.goal && p.ring = g && p.dir = d && x = (if p.nak then stopNext p.pos d else p.pos))

/-- Free entries of an input buffer for requests, or for other packets. -/
def State.roomAt (s : State) (x g d : Nat) (req : Bool) : Nat :=
  let b := s.inBuf x g d
  let sum := fun (l : List Pkt) => (l.map Pkt.flits).sum
  if req then min (32 - sum b) (24 - sum (b.filter Pkt.isReq)) else 32 - sum b

/-- Two requests of one master, from one stop, to one 256-byte unit (R347). -/
def sameOrder (p q : Pkt) : Bool := p.mid = q.mid && p.src = q.src && p.addr / 256 = q.addr / 256

/-- Whether a packet in an injection queue may enter its ring: it is the head of its queue, and, for a request, its destination
is not held back and no earlier request of its master to its unit, made under the other bank, is unanswered (R354, R359,
R362). -/
def State.mayLaunch (s : State) (p : Pkt) : Bool :=
  (s.rnd.inj.find? (fun q => q.start = p.start && q.goal = p.goal && q.isReq = p.isReq)) = some p &&
    (!p.isReq || (!s.rnd.blocked.contains (18 * p.src + p.dst) &&
      !s.rnd.out.any (fun e => !e.2.late && e.2.pkt.tag ≠ p.tag && sameOrder e.2.pkt p && e.2.pkt.repoch ≠ s.curBank)))

/-- Ring and direction that a packet takes: a request's by the active bank as it enters (R346, R358). -/
def State.laneOf (s : State) (p : Pkt) : Nat × Nat :=
  if p.isReq then s.ringDir s.curBank p.src p.dst p.addr p.mid else (p.ring, p.dir)

/-- A packet leaves its injection queue and stands in the input buffer of stop `y`; its outstanding entry shows its bank. -/
def State.launchTo (s : State) (p : Pkt) (y : Nat) : State :=
  let l := s.laneOf p
  let p' : Pkt := { p with repoch := if p.isReq then s.curBank else p.repoch, ring := l.1, dir := l.2, pos := y, waited := 0 }
  let k := 2048 * p.src + p.tag
  let out := match (if p.isReq then SMap.find s.rnd.out k else none) with
    | some e => SMap.put s.rnd.out k { e with pkt := p' }
    | none => s.rnd.out
  { s with rnd := { s.rnd with inj := s.rnd.inj.erase p, net := s.rnd.net ++ [p'], out := out } }

/-- The heads of the injection queues that compete for an output. -/
def State.injHeads (s : State) (x g d : Nat) : List Pkt :=
  s.rnd.inj.filter (fun p => p.start = x && p.goal ≠ x && s.laneOf p = (g, d) && s.mayLaunch p)

/-- The packet that an output of a stop sends, and whether it is an injection (R353): a replay first, then the higher AGE, on
equal AGE through traffic, but an injection that has waited 16 cycles before any. Requests and other packets have each a head of
their own in the through buffer, and injection heads of equal AGE go oldest first (log entry 57). -/
def State.outPick (s : State) (x g d : Nat) : Option (Bool × Pkt) :=
  let y := stopNext x d
  let fits := fun (more : Nat) (p : Pkt) => decide (p.flits + more ≤ s.roomAt y g d p.isReq)
  let head := fun (req : Bool) => (s.inBuf x g d).find? (fun p => !p.nak && p.goal ≠ x && p.isReq = req)
  let thr := ([true, false].filterMap head).filter (fits 0)
  let inj := (s.injHeads x g d).filter (fits 3)
  if s.linkDown x g d then none
  else match s.rnd.net.find? (fun p => p.nak && p.pos = x && p.ring = g && p.dir = d) with
    | some p => some (false, p)
    | none => match inj.find? (fun p => decide (16 ≤ p.waited)) with
      | some p => some (true, p)
      | none => (thr.map (fun p => (false, p)) ++ inj.map (fun p => (true, p))).foldl (fun (b : Option (Bool × Pkt)) c =>
          match b with
          | some v => if v.2.age < c.2.age then some c else some v
          | none => some c) none

/-- A packet goes over the link out of stop x; the injections that compete for it wait that long (R343, R353, R365). -/
def State.sendOver (s : State) (x g d : Nat) (m : Bool × Pkt) : State :=
  let y := stopNext x d
  let p := m.2
  let late := (s.injHeads x g d).filter (fun q => q ≠ p)
  let s1 := if m.1 then s.launchTo p y
    else { s with rnd := { s.rnd with net := s.rnd.net.erase p ++ [{ p with pos := y, nak := false }] } }
  let k := 16 * x + 2 * g + d
  { s1 with rnd := { s1.rnd with
    inj := s1.rnd.inj.map (fun q => if late.contains q then { q with waited := q.waited + p.flits } else q)
    linkSeq := SMap.set s1.rnd.linkSeq k ((SMap.get s1.rnd.linkSeq k 0 + p.flits) % 256) 0
    nakRun := SMap.erase s1.rnd.nakRun k } }

/-- The outputs at which a packet waits. -/
def State.outputs (s : State) : List (Nat × Nat × Nat) :=
  (((s.rnd.net.filter (fun p => p.pos ≠ p.goal)).map (fun p => (p.pos, p.ring, p.dir))) ++
    ((s.rnd.inj.filter (fun p => p.start ≠ p.goal)).map (fun p => (p.start, s.laneOf p)))).dedup

/-- One packet at each output that can send. -/
def State.netCycle (s : State) : State × Bool :=
  let picks := s.outputs.filterMap (fun o => (s.outPick o.1 o.2.1 o.2.2).map (fun m => (o, m)))
  (s.each picks (fun t e => t.sendOver e.1.1 e.1.2.1 e.1.2.2 e.2), !picks.isEmpty)

/-- Packets to the stop they are made at never use a link. -/
def State.launchLocal (s : State) : State :=
  s.each s.rnd.inj (fun t p => if p.start = p.goal && t.mayLaunch p then t.launchTo p p.goal else t)

/-- Packets move on until none can: to the input buffer of the stop where they leave, or as far as buffers and links let
them. -/
def State.settleN : Nat → State → State
  | 0, s => s
  | n + 1, s => if s.netCycle.2 then State.settleN n s.netCycle.1 else s
def State.settle (s : State) : State :=
  let s1 := s.launchLocal
  s1.settleN (20 * (s1.rnd.inj.length + s1.rnd.net.length))

/-- A packet joins the injection queues of its stop. -/
def State.post (s : State) (p : Pkt) : State := ({ s with rnd := { s.rnd with inj := s.rnd.inj ++ [p] } }).settle

/-- The endpoint answers a request: the response is injected, and the stamp returns. -/
def State.respond (s : State) (q : Pkt) (cause : Nat) (data : List Byte) : State :=
  (s.stampBack q.dst).post (s.responseOf q (if cause = 0 then 0 else 1) cause data)

end Sys2Proof.Machine
end

