-- ==== Sys2Proof/Machine/MemPath.lean ====
section
/-!
DEFINITION. DRAM behind the inline crypto engine: where an address lies, readiness, poison, tags, one block written (R275–R278,
R283, R288, R301, R310, R317, R318).
-/
namespace Sys2Proof.Machine

/-- What an access answers: the CAUSE of its bus error (0: none) and the data read. -/
structure Got where
  st : State
  cause : Nat := 0
  data : List Byte := []

/-- The domain of controller c, and its block size (R279). -/
def mcDom (c : Nat) : Nat := if c < 8 then domEdge c else domDdr ((c - 8) / 2)
def blockSize (c : Nat) : Nat := if c < 8 then 32 else 64

/-- The controller behind a DRAM address. -/
def State.mcOf (s : State) (a : Nat) : Nat := if a < 0x20000000000 then hbmStack a else 8 + s.ddrChan a

/-- Whether a controller serves requests (R288). -/
def State.mcReady (s : State) (c : Nat) : Bool :=
  s.domOn (mcDom c) && s.bit (Reg.mcCtrl c) 0 && !s.bit (Reg.mcCtrl c) 1

/-- The spare and the retired target of a controller; the latter holds once a retirement is made, or firmware has written it
before READY (R293). -/
def State.spareOf (s : State) (c : Nat) : Nat := s.fld (Reg.mcSpare c) 28 24
def State.failedOf (s : State) (c : Nat) : Option Nat :=
  if s.bit (Reg.mcStat c) 28 || (s.mc c).failSet then some (s.fld (Reg.mcSpare c) 20 16) else none

/-- The slots that requests use: pseudo-channels, or ranks in slot order, without the spare (R275, R277). -/
def State.slots (s : State) (c : Nat) : List Nat :=
  let all := if c < 8 then List.range 32 else List.range 8
  if s.bit (Reg.mcCtrl c) 2 then all.filter (fun q => q != s.spareOf c) else all

/-- What serves offset `o` of a slot: the spare in place of what has failed, and of what a retirement has copied so far (R275,
R303). -/
def State.slotChan (s : State) (c l o : Nat) : Nat :=
  let p := (s.slots c).getD l 0
  let copied := match (s.mc c).mig with | some g => g.target = p && decide (o / 2048 < g.pos) | none => false
  if s.bit (Reg.mcCtrl c) 2 && (s.failedOf c = some p || copied) then s.spareOf c else p

/-- Bytes of a rank within a subchannel (R277). -/
def State.rankSize (s : State) (c : Nat) : Nat :=
  let g := Reg.mcGeom c
  2 ^ (6 + s.fld g 19 16 + s.fld g 15 12 + s.fld g 11 8 + s.fld g 28 24)

/-- The pseudo-channel address w of an HBM address, and the subchannel address sw of a DDR5 address (R275, R277). -/
def State.hbmW (s : State) (a : Nat) : Nat :=
  (a - 0x10000000000) % 0x600000000 / 256 / (s.slots (hbmStack a)).length * 256 + a % 256
def State.ddrSw (s : State) (a : Nat) : Nat := s.ddrCw a / 128 * 64 + s.ddrCw a % 64

/-- Target and rank of a DRAM address: pseudo-channel, or subchannel and rank (R275, R277). -/
def State.targetOf (s : State) (a : Nat) : Nat × Nat :=
  if a < 0x20000000000 then
    let n := hbmStack a
    (s.slotChan n ((a - 0x10000000000) % 0x600000000 / 256 % (s.slots n).length) (s.hbmW a), 0)
  else
    let c := 8 + s.ddrChan a
    let cw := s.ddrCw a
    (cw / 64 % 2, s.slotChan c (s.ddrSw a / s.rankSize c) (cw % (2 * s.rankSize c)))

/-- The blocks of controller-block size that a range of `n` bytes touches, by base address. -/
def blocksOf (sz a n : Nat) : List Nat := (List.range ((a + n + sz - 1) / sz - a / sz)).map (fun j => (a / sz + j) * sz)

/-- Block size at a DRAM address. -/
def blockAt (a : Nat) : Nat := if a < 0x20000000000 then 32 else 64

/-- The controllers that a range reaches. -/
def State.mcsOf (s : State) (a n : Nat) : List Nat := ((blocksOf 256 a n).map s.mcOf).dedup

/-- Whether a block is poisoned (R301). -/
def State.poisoned (s : State) (b : Nat) : Bool := (s.mc (s.mcOf b)).poison.contains b

/-- MC_ERR_ADDR and MC_ERR_INFO of the latest error. -/
def State.mcErr (s : State) (c kind a symbol mid : Nat) : State :=
  let t := s.targetOf a
  let v := 2 ^ 31 + kind * 2 ^ 29 + t.1 % 32 * 2 ^ 24 + t.2 % 8 * 2 ^ 21 + symbol % 64 * 2 ^ 15 + mid % 256 * 2 ^ 7 +
    min 127 (s.mc c).erased.length
  (s.wr (Reg.mcErrInfo c) v).wr64 (Reg.mcErrAddrLo c) (Reg.mcErrAddrHi c) a

/-- A read of poisoned blocks is counted, with no event (R301). -/
def State.poisonRead (s : State) (b mid : Nat) : State :=
  (s.count (Reg.mcUe (s.mcOf b)) 15 0 1).mcErr (s.mcOf b) 2 b 0 mid

/-- A block becomes poisoned after an uncorrectable read (R301). -/
def State.poisonBlock (s : State) (b mid : Nat) : State :=
  let c := s.mcOf b
  let m := s.mc c
  let t := s.targetOf b
  let s1 := s.setMc c { m with
    poison := if m.poison.contains b then m.poison else b :: m.poison
    ueCnt := SMap.set m.ueCnt (8 * t.1 + t.2) (SMap.get m.ueCnt (8 * t.1 + t.2) 0 + 1) 0 }
  ((s1.count (Reg.mcUe c) 31 16 1).mcErr c 1 b 0 mid).event 0x0506 5 (c * 2 ^ 24 + t.1 * 2 ^ 16 + t.2 * 2 ^ 8) mid b

/-- Whether a range meets a region that is being filled: its requests are answered as not ready (R310). -/
def State.fillingAt (s : State) (a n : Nat) : Bool := (s.regionsIn a n).any (fun r => s.ic.filling.contains r)

/-- Whether a line carries a tag, and where that stands (R316). -/
def State.tagged (s : State) (x : Nat) : Bool := (s.curForm x).kind = 3
def State.tagAddr (s : State) (x : Nat) : Nat :=
  let r := (s.curForm x).r
  s.rTag r + 8 * ((x - s.rBase r) / 64)

/-- A tag failure is answered and reported. -/
def State.tagFail (s : State) (x mid : Nat) : State := s.icAlarm ((s.regionAt x).getD 0) x mid 0

/-- A tag that cannot be read: an error without an alarm, recorded (R318), unless the tag cache holds it, which is a free value (log
entry 60). The cause is that of the tag's own read. -/
def State.tagUnread (s : State) (x mid : Nat) : State × Nat :=
  let t := s.tagAddr x / blockAt (s.tagAddr x) * blockAt (s.tagAddr x)
  if s.freeVal 2 = 1 then (if s.tagGood x then (s.drawn, 0) else (s.drawn.tagFail x mid, 4))
  else
    let s1 := s.drawn.event 0x0602 5 (s.curForm x).r mid x
    if s.poisoned t then (s1.poisonRead t 0x82, 3) else (s1, 5)

/-- The tag check of a line: the state after it and the cause of the error, or 0 (R317, R318). -/
def State.lineCheck (s : State) (x mid : Nat) : State × Nat :=
  if !s.tagged x then (s, 0)
  else
    let t := s.tagAddr x / blockAt (s.tagAddr x) * blockAt (s.tagAddr x)
    if s.poisoned t || !s.mcReady (s.mcOf t) then s.tagUnread x mid
    else if s.tagGood x then (s, 0)
    else (s.tagFail x mid, 4)

/-- The tag checks of the lines of a range, up to the first that fails. -/
def State.linesCheck (s : State) (a n mid : Nat) : State × Nat :=
  (blocksOf 64 a n).foldl (fun (g : State × Nat) x => if g.2 ≠ 0 then g else g.1.lineCheck x mid) (s, 0)

/-- Whether an isolated step holds a block's target (R295). -/
def State.isoBlk (s : State) (b : Nat) : Bool :=
  match (s.mc (s.mcOf b)).iso with
  | some i => let t := s.targetOf b; t.1 = i.target && (decide (s.mcOf b < 8) || t.2 = i.rank)
  | none => false

/-- Whether one holds a target that a range of DRAM reaches. -/
def State.isoTouches (s : State) (a n : Nat) : Bool := (blocksOf (blockAt a) a n).any s.isoBlk

/-- Whether a write enables the byte at offset k of its data (R348, BEM). -/
def enabled (bem : Option Nat) (k : Nat) : Bool :=
  match bem with
  | some m => bitOf m k
  | none => true

/-- Whether a write of `n` bytes at `a` enables every byte of the `sz` bytes at `b`. -/
def coversAll (a n : Nat) (bem : Option Nat) (b sz : Nat) : Bool :=
  decide (a ≤ b) && decide (b + sz ≤ a + n) && (List.range sz).all (fun j => enabled bem (b + j - a))

/-- Whether it enables any of them. -/
def coversSome (a n : Nat) (bem : Option Nat) (b sz : Nat) : Bool :=
  (List.range sz).any (fun j => decide (a ≤ b + j) && decide (b + j < a + n) && enabled bem (b + j - a))

/-- Bytes merged into one block, `mask` naming those that are written: a poisoned block takes no partial write, and a write of the
whole block clears its poison (R283, R301). -/
def State.putBlk (s : State) (b : Nat) (bytes : List Byte) (mask mid : Nat) : Got :=
  let sz := blockAt b
  if (List.range sz).any (fun j => !bitOf mask j) && s.poisoned b then { st := s.poisonRead b mid, cause := 3 }
  else
    let old := s.dramBytes b sz
    let c := s.mcOf b
    let s1 := s.putDram b ((List.range sz).map (fun j => if bitOf mask j then bytes.getD j 0 else old.getD j 0))
    { st := s1.setMc c { s1.mc c with poison := (s1.mc c).poison.filter (· != b) } }

/-- The tag check of a write that does not cover the line of a block (R317). -/
def State.writeCheck (s : State) (a n : Nat) (bem : Option Nat) (b mid : Nat) : State × Nat :=
  if coversAll a n bem (b / 64 * 64) 64 then (s, 0) else s.lineCheck (b / 64 * 64) mid

end Sys2Proof.Machine
end

