-- ==== Sys2Proof/Machine/McQueue.lean ====
section
/-!
DEFINITION. The memory controllers' queues: intake, merging, hazards, the order of commands, drains, answers (R24, R279–R283);
reads and writes of DRAM that an engine makes in one step.
-/
namespace Sys2Proof.Machine

/-! ### Requests and blocks (R279) -/

/-- Entries of each queue, in blocks. -/
def queueSize (c : Nat) : Nat := if c < 8 then 32 else 48

/-- The blocks of a request, those that a write enables some byte of. -/
def reqBlocks (c : Nat) (p : Pkt) : List Nat :=
  (blocksOf (blockSize c) p.addr p.len).filter (fun b => p.kind = .readReq || coversSome p.addr p.len p.bem b (blockSize c))

/-- The entries of a queue that belong to a target. -/
def State.inTarget (s : State) (q : List McBlk) (t : Nat) : List McBlk := q.filter (fun x => (s.targetOf x.block).1 = t)

/-- A request that has been taken in, by its number. -/
def State.mcReq (s : State) (c id : Nat) : Option McReq := (s.mc c).reqs.find? (fun q => q.id = id)

/-- A trip answered, when the answer is its own. -/
def MmpTrip.take (x : MmpTrip) (p : Pkt) : MmpTrip :=
  if x.tag = p.tag && x.answer.isNone then { x with answer := some (p.status, p.cause, p.data) } else x

/-- An answer goes to its initiator: on the Rounds, or through the page port (R23). -/
def State.mcAnswer (s : State) (q : McReq) (cause : Nat) (data : List Byte) : State :=
  let p : Pkt := { q.pkt with status := if cause = 0 then 0 else 1, cause := cause, data := data }
  match q.port with
  | some (.mmpFill n k) => s.setMmp n k { s.mmp n k with fill := (s.mmp n k).fill.map (fun x => x.take p) }
  | some (.mmpWb n k) => s.setMmp n k { s.mmp n k with wb := (s.mmp n k).wb.map (fun x => x.take p) }
  | _ => s.respond q.pkt cause data

/-- Every block of a request is complete: a read is checked against its tags, a write is counted, and the answer leaves (R279, R301,
R317, R320). -/
def State.reqDone (s : State) (q : McReq) : State :=
  let p := q.pkt
  if p.kind = .readReq then
    if q.cause ≠ 0 then s.mcAnswer q q.cause []
    else
      let g := s.linesCheck p.addr p.len p.mid
      g.1.mcAnswer q g.2 (if g.2 = 0 then q.data else [])
  else ((s.wroteDram p.addr p.len p.mid).breakReservations p.mid p.addr p.len).mcAnswer q q.cause []

/-- One block of a request is complete: `bytes` is what a read of it gave. -/
def State.blkDone (s : State) (c id b cause : Nat) (bytes : List Byte) : State :=
  match s.mcReq c id with
  | none => s
  | some q =>
    let data := q.data.mapIdx (fun i x => if b ≤ q.pkt.addr + i ∧ q.pkt.addr + i < b + bytes.length then bytes.getD (q.pkt.addr + i - b) 0 else x)
    let q' := { q with todo := q.todo - 1, cause := if q.cause = 0 then cause else q.cause, data := data }
    let others := (s.mc c).reqs.filter (fun r => r.id ≠ id)
    if q'.todo = 0 then (s.setMc c { s.mc c with reqs := others }).reqDone q'
    else s.setMc c { s.mc c with reqs := (s.mc c).reqs.map (fun r => if r.id = id then q' else r) }

/-! ### The order of commands (R280, R281) -/

/-- The bank of a block, as `McSt.rows` numbers it, and its row (R276, R277). -/
def State.bankRow (s : State) (b : Nat) : Nat × Nat :=
  let t := s.targetOf b
  if b < 0x20000000000 then
    let w := s.hbmW b
    (64 * (8 * t.1 + w / 2 ^ 28) + w / 256 % 64, w / 65536 % 4096)
  else
    let g := Reg.mcGeom (8 + s.ddrChan b)
    let bb := s.fld g 19 16 + s.fld g 15 12
    (64 * (8 * t.1 + t.2) + s.ddrSw b / 64 % 2 ^ bb % 64, s.ddrSw b % s.rankSize (8 + s.ddrChan b) / 2 ^ (6 + bb + s.fld g 11 8))

/-- Whether a block lies in its bank's open row, and how many hits the bank has had in a row. -/
def State.rowHit (s : State) (c b : Nat) : Bool :=
  match SMap.find (s.mc c).rows (s.bankRow b).1 with | some r => r.1 = (s.bankRow b).2 | none => false
def State.rowRun (s : State) (c b : Nat) : Nat :=
  match SMap.find (s.mc c).rows (s.bankRow b).1 with | some r => r.2 | none => 0

/-- Whether a read of block r waits for a write of block w: of the same block, or under MODE 3 of the same line (R281, R316). -/
def State.readHits (s : State) (r w : Nat) : Bool := r = w || (r / 64 = w / 64 && s.tagged (r / 64 * 64))

/-- Reads of a target that may issue: no older write that they wait for is queued, and no isolated step holds them (R281, R295). -/
def State.readable (s : State) (c t : Nat) : List McBlk :=
  let m := s.mc c
  (s.inTarget m.reads t).filter (fun r => !s.isoBlk r.block && !m.writes.any (fun w => decide (w.id < r.id) && s.readHits r.block w.block))

/-- Writes of a target that may issue: the oldest of each block (R282, R295). -/
def State.writable (s : State) (c t : Nat) : List McBlk :=
  let m := s.mc c
  (s.inTarget m.writes t).filter (fun r => !s.isoBlk r.block && !m.writes.any (fun w => w.block = r.block && decide (w.id < r.id)))

/-- The next of some entries, which stand oldest first: highest effective age class, then a row hit, then the oldest; after 16 hits
in a row an older request for another row of the bank (R280). -/
def State.pickBlk (s : State) (c : Nat) (l : List McBlk) : Option McBlk :=
  let best := l.foldl (fun (b : Option McBlk) x =>
    match b with
    | some y => if y.age < x.age ∨ (y.age = x.age ∧ s.rowHit c x.block = true ∧ s.rowHit c y.block = false) then some x else some y
    | none => some x) none
  match best with
  | none => none
  | some y =>
    let older := l.find? (fun x => decide (x.id < y.id) && (s.bankRow x.block).1 = (s.bankRow y.block).1 && !s.rowHit c x.block)
    if s.rowHit c y.block && decide (16 ≤ s.rowRun c y.block) && older.isSome then older else some y

/-- A command opens its row; a retirement counts the slots that requests take at its target and the spare. -/
def State.rowOpen (s : State) (c b : Nat) : State :=
  let m := s.mc c
  let k := s.bankRow b
  let t := if c < 8 then (s.targetOf b).1 else (s.targetOf b).2
  s.setMc c { m with
    rows := SMap.put m.rows k.1 (k.2, if s.rowHit c b then s.rowRun c b + 1 else 0)
    mig := m.mig.map (fun g => if t = g.target ∨ t = s.spareOf c then { g with other := g.other + 1 } else g) }

/-! ### Writes (R282, R283) -/

/-- The bytes of one block and their enables, newer writes winning (R282). -/
def mergeWrites (b sz : Nat) (ps : List Pkt) : List Byte × Nat :=
  ps.foldl (fun (d : List Byte × Nat) p =>
    (List.range sz).foldl (fun (d : List Byte × Nat) j =>
      if decide (p.addr ≤ b + j) && decide (b + j < p.addr + p.len) && enabled p.bem (b + j - p.addr) then
        (d.1.set j (p.data.getD (b + j - p.addr) 0), Nat.lor d.2 (2 ^ j))
      else d) d) (zeroBytes sz, 0)

/-- The requests of a queued write, oldest first; whether together they leave bytes of the block as they are, so that the block is
read first (R283). -/
def State.writersOf (s : State) (c : Nat) (w : McBlk) : List McReq := (w.id :: w.also).filterMap (s.mcReq c)
def State.partialBlk (s : State) (c : Nat) (w : McBlk) : Bool :=
  let m := (mergeWrites w.block (blockSize c) ((s.writersOf c w).map (fun q => q.pkt))).2
  (List.range (blockSize c)).any (fun j => !bitOf m j)

/-- A queued write leaves its queue. -/
def State.unqueue (s : State) (c : Nat) (w : McBlk) : State := s.setMc c { s.mc c with writes := (s.mc c).writes.erase w }

/-- A queued write is issued; a request whose line fails its tag is refused and writes nothing (R317). -/
def State.issueWrite (s : State) (c : Nat) (w : McBlk) : State :=
  let b := w.block
  let qs := s.writersOf c w
  let v := qs.foldl (fun (g : State × List (McReq × Nat)) q =>
    let r := g.1.writeCheck q.pkt.addr q.pkt.len q.pkt.bem b q.pkt.mid
    (r.1, g.2 ++ [(q, r.2)])) ((s.rowOpen c b).unqueue c w, [])
  let bad := v.2.filter (fun e => e.2 ≠ 0)
  let good := (v.2.filter (fun e => e.2 = 0)).map Prod.fst
  let m := mergeWrites b (blockSize c) (good.map (fun q => q.pkt))
  let mid := match qs with | q :: _ => q.pkt.mid | [] => 0
  let g : Got := if good.isEmpty then { st := v.1 } else v.1.putBlk b m.1 m.2 mid
  let s2 := g.st.each bad (fun t e => t.blkDone c e.1.id b e.2 [])
  s2.each good (fun t q => t.blkDone c q.id b g.cause [])

/-- A queued write is refused (R283). -/
def State.refuseWrite (s : State) (c : Nat) (w : McBlk) : State :=
  (s.unqueue c w).each (w.id :: w.also) (fun t id => t.blkDone c id w.block 3 [])

/-- Whether a target's writes go: from three quarters, or with no read to issue, down to one quarter or to none; not while a read of
class 15 waits (R280). Reads that wait for a queued write count as none (log entry 58). -/
def State.drainGo (s : State) (c t : Nat) : Bool :=
  let r := s.readable c t
  let n := (s.inTarget (s.mc c).writes t).length
  let q := queueSize c
  !r.any (fun x => decide (15 ≤ x.age)) && decide (0 < n) &&
    (decide (3 * q ≤ 4 * n) || r.isEmpty || ((s.mc c).draining.contains t && decide (q < 4 * n)))
def State.setDrain (s : State) (c t : Nat) (v : Bool) : State :=
  let d := (s.mc c).draining.filter (· ≠ t)
  s.setMc c { s.mc c with draining := if v then d ++ [t] else d }

/-- A target's whole-block writes are issued while they go; one that needs its block read first waits for that read. -/
def State.drainTarget (s : State) (c t : Nat) : Nat → State
  | 0 => s
  | n + 1 =>
    if s.drainGo c t then
      match s.pickBlk c (s.writable c t) with
      | some w => if s.partialBlk c w then s.setDrain c t true else ((s.issueWrite c w).setDrain c t true).drainTarget c t n
      | none => s.setDrain c t true
    else s.setDrain c t false

/-- Every target's drain. -/
def State.drainCheck (s : State) (c : Nat) : State :=
  let ts := ((s.mc c).writes.map (fun w => (s.targetOf w.block).1)).dedup
  s.each ts (fun t x => t.drainTarget c x ((s.mc c).writes.length + 1))

/-! ### Intake (R24, R279, R282) -/

/-- The queued write that a new write of a block merges into: the youngest, unless a read is held behind it. -/
def State.mergeAt (s : State) (c b : Nat) : Option McBlk :=
  match ((s.mc c).writes.filter (fun w => w.block = b)).getLast? with
  | some w => if (s.mc c).reads.any (fun r => decide (w.id < r.id) && s.readHits r.block b) then none else some w
  | none => none

/-- Whether the queues have room for every block of a request that needs an entry of its own. -/
def State.roomFor (s : State) (c : Nat) (p : Pkt) : Bool :=
  let m := s.mc c
  let q := if p.kind = .readReq then m.reads else m.writes
  let own := (reqBlocks c p).filter (fun b => p.kind = .readReq || (s.mergeAt c b).isNone)
  (own.map (fun b => (s.targetOf b).1)).dedup.all (fun t =>
    decide ((s.inTarget q t).length + (own.filter (fun b => (s.targetOf b).1 = t)).length ≤ queueSize c))

/-- Whether a request is answered at once as not ready (R288, R310); whether it can be taken in now. -/
def State.turnedAway (s : State) (c : Nat) (p : Pkt) : Bool := !s.mcReady c || s.fillingAt p.addr p.len
def State.takeable (s : State) (c : Nat) (p : Pkt) : Bool := s.turnedAway c p || s.roomFor c p

/-- The place at an input of the request to take next: of those that can be taken, the highest age class, then the oldest; the order
of R347 stands. -/
def nextIn (l : List McReq) (ok : McReq → Bool) : Option Nat :=
  (List.range l.length).foldl (fun (b : Option Nat) i =>
    match l[i]? with
    | none => b
    | some q =>
      if !ok q || (l.take i).any (fun x => sameOrder x.pkt q.pkt) then b
      else match b with
        | some j => (match l[j]? with | some x => if x.eff < q.eff then some i else b | none => b)
        | none => some i) none

/-- The Rounds input and the page port's input of a controller: a snapshot pause holds Rounds requests at the stop, and writes
through the page port (R24, R227). -/
def State.roundsIn (s : State) (c : Nat) : Option Nat :=
  nextIn (s.mc c).inbox (fun q => s.takeable c q.pkt && !(decide (c < 8) && s.snapHold c))
def State.portIn (s : State) (c : Nat) : Option Nat :=
  nextIn (s.mc c).port (fun q => s.takeable c q.pkt && !(q.pkt.kind = .writeReq && s.snapHold c))

/-- One block of a write enters its queue, or merges (R282). -/
def State.queueWrite (s : State) (c : Nat) (q : McReq) (b : Nat) : State :=
  let m := s.mc c
  match s.mergeAt c b with
  | some w => s.setMc c { m with writes := m.writes.map (fun x => if x = w then { x with also := x.also ++ [q.id] } else x) }
  | none => s.setMc c { m with writes := m.writes ++ [{ id := q.id, block := b, age := q.eff }] }

/-- A request is taken in, block by block (R279). -/
def State.takeIn (s : State) (c : Nat) (q0 : McReq) : State :=
  if s.turnedAway c q0.pkt then s.mcAnswer q0 5 []
  else
    let m := s.mc c
    let bs := reqBlocks c q0.pkt
    let q := { q0 with id := m.nextId, todo := bs.length, data := if q0.pkt.kind = .readReq then zeroBytes q0.pkt.len else [] }
    let s1 := s.setMc c { m with nextId := m.nextId + 1, reqs := m.reqs ++ [q] }
    if bs.isEmpty then (s.setMc c { m with nextId := m.nextId + 1 }).reqDone q
    else if q.pkt.kind = .readReq then
      s1.setMc c { s1.mc c with reads := m.reads ++ bs.map (fun b => { id := q.id, block := b, age := q.eff }) }
    else s1.each bs (fun t b => t.queueWrite c q b)

/-- MC_REQUEST_INTAKE (R24, R279, R281, R282, R288, R310): of the two inputs the older by age class, the Rounds on equal classes
(log entry 58), and at least one in four from the Rounds while it waits. -/
def execMcRequestIntake (c : Fin 20) (s : State) : Out :=
  let k : Nat := c
  let m := s.mc k
  let go := fun (t : State) (q : McReq) => (t.takeIn k q).drainCheck k
  let rounds := fun (i : Nat) (q : McReq) => go (s.setMc k { m with inbox := m.inbox.eraseIdx i, portRun := 0 }) q
  let port := fun (i : Nat) (q : McReq) (run : Nat) => go (s.setMc k { m with port := m.port.eraseIdx i, portRun := run }) q
  match (s.roundsIn k).bind (fun i => m.inbox[i]?.map (fun q => (i, q))), (s.portIn k).bind (fun i => m.port[i]?.map (fun q => (i, q))) with
  | some r, some p => .next (if p.2.eff ≤ r.2.eff ∨ 3 ≤ m.portRun then rounds r.1 r.2 else port p.1 p.2 (m.portRun + 1))
  | some r, none => .next (rounds r.1 r.2)
  | none, some p => .next (port p.1 p.2 0)
  | none, none => .next s

/-! ### Accesses made in one step -/

/-- The queued writes of the blocks of a range, and of its lines that carry tags, are issued first, oldest first, as the hazards of
R281, R282 and R316 ask. -/
def State.issueFor (s : State) (a n : Nat) : State :=
  s.each (s.mcsOf a n) (fun t c =>
    t.each ((t.mc c).writes.filter (fun w => (decide (w.block < a + n) && decide (a < w.block + blockSize c)) ||
        (t.tagged (w.block / 64 * 64) && decide (w.block / 64 * 64 < a + n) && decide (a < w.block / 64 * 64 + 64)))) (fun u w =>
      u.issueWrite c w))

/-- A DRAM read of `n` bytes (R288, R301, R310, R317). -/
def State.dramRead (s0 : State) (a n mid : Nat) : Got :=
  let s := s0.issueFor a n
  if !(s.mcsOf a n).all s.mcReady || s.fillingAt a n then { st := s, cause := 5 }
  else
    match (blocksOf (blockAt a) a n).filter s.poisoned with
    | [] =>
      let g := s.linesCheck a n mid
      if g.2 ≠ 0 then { st := g.1, cause := g.2 } else { st := g.1, data := s.dramBytes a n }
    | bs => { st := s.each bs (fun t b => t.poisonRead b mid), cause := 3 }

/-- One block of a write; a partial write of a line that fails its tag is refused (R317). -/
def State.dramWriteBlock (s : State) (a : Nat) (data : List Byte) (bem : Option Nat) (mid b : Nat) : Got :=
  let v := s.writeCheck a data.length bem b mid
  if v.2 ≠ 0 then { st := v.1, cause := v.2 }
  else
    let m := mergeWrites b (blockAt b) [{ kind := .writeReq, src := 0, dst := 0, mid := mid, len := data.length, addr := a, data := data, bem := bem }]
    v.1.putBlk b m.1 m.2 mid

/-- A DRAM write: the blocks in order; the answer carries the first error. -/
def State.dramWrite (s0 : State) (a : Nat) (data : List Byte) (bem : Option Nat) (mid : Nat) : Got :=
  let n := data.length
  let s := s0.issueFor a n
  if !(s.mcsOf a n).all s.mcReady || s.fillingAt a n then { st := s, cause := 5 }
  else
    let g := ((blocksOf (blockAt a) a n).filter (fun b => coversSome a n bem b (blockAt b))).foldl (fun (g : Got) b =>
      let r := g.st.dramWriteBlock a data bem mid b
      { st := r.st, cause := if g.cause = 0 then r.cause else g.cause }) { st := s }
    { g with st := (g.st.wroteDram a n mid).breakReservations mid a n }

end Sys2Proof.Machine
end

