-- ==== Sys2Proof/Machine/PowerOps.lean ====
section
/-!
DEFINITION. Domains (R44–R48, R459–R463): what a domain loses, wakes on demand, fail bits; mode requests in the pending
slot (R8, R467); readiness (R476).
-/
namespace Sys2Proof.Machine

/-! ### What a domain holds -/

/-- Contents of a bay: its frames, memories, slices and state read 0 until written again (R47; log entry 4). -/
def State.bayLost (s : State) (n b : Nat) : State :=
  let lo := bpIx n b 0
  let mine := fun i => decide (lo ≤ i) && decide (i < lo + 4)
  let s1 := (s.blankRange (frameAddr lo 0) (frameAddr (lo + 3) 0 + 3072 * 512)).blankRange (bmAddr n b 0) (bmAddr n b 0 + 160 * 0x4000)
  let s2 := ((s1.blankRange (dmAddr n b 0) (dmAddr n b 0 + 16 * 0x20000)).blankRange (sliceAddr lo 0) (sliceAddr lo 0 + 192 * 256)).blankRange
    (stateAddr lo) (stateAddr lo + 4 * 0x8000)
  let f := 786432 * n + 4 * b * 3072
  { s2 with fab := { s2.fab with
    bays := SMap.erase s2.fab.bays (bayIx n b)
    bps := SMap.clear s2.fab.bps lo (lo + 4)
    chk := SMap.clear s2.fab.chk f (f + 4 * 3072)
    bundles := s2.fab.bundles.filter (fun q => !mine q.src && !mine q.dst)
    extOut := s2.fab.extOut.filter (fun q => !mine q.src) } }

/-- What a tile's common logic holds. -/
def State.tileLost (s : State) (n : Nat) : State :=
  { s with fab := { s.fab with
    tiles := SMap.erase s.fab.tiles n
    mmps := SMap.clear s.fab.mmps (8 * n) (8 * n + 8)
    banks := s.fab.banks.filter (fun e => (bankTile e.1).1 != n)
    trees := SMap.clear s.fab.trees (40 * n) (40 * n + 40)
    treeRot := SMap.clear s.fab.treeRot (20 * n) (20 * n + 20) } }

/-- A range of DRAM lost with its supply: it holds nothing the module wrote. -/
def State.dramLost (s : State) (lo hi : Nat) : State :=
  let s1 := s.blankRange lo hi
  { s1 with ic := { s1.ic with forms := (mkForm lo hi 0 0 0 0) :: s1.ic.forms } }

/-- The DDR5 lines of a channel hold stored zeros. -/
def State.chanZero (s : State) (c : Nat) : State :=
  let mine := fun a => inDdr a && s.ddrChan a = c
  let f : Form := { mkForm 0x20000000000 s.ddrEnd 0 0 0 0 with
    span := s.ddrOn.length, ord := (2 ^ 33 + s.fld (Reg.mcIlv (8 + c)) 27 24) % max 1 s.ddrOn.length }
  if s.ddrOn.contains c then { s with mem := s.mem.filter (fun e => !mine e.1), ic := { s.ic with forms := f :: s.ic.forms } } else s

/-- DDR5 lines of a pair of channels lost with their supply; with the last pair everything in the range (log entry 41). -/
def State.ddrLost (s : State) (p : Nat) : State :=
  if (List.range 6).any (fun q => q ≠ p && s.domOn (domDdr q)) then (s.chanZero (2 * p)).chanZero (2 * p + 1)
  else s.dramLost 0x20000000000 0x50000000000

/-- Addresses that the engine reaches by its private path: the Postmaster and the debug registers. -/
def privatePath (a : Nat) : Bool := decide (a < 0x10000) || (decide (0x90000 ≤ a) && decide (a < 0x90800))

/-- The ring loses its supply: a debug access that travels on it ends with CAUSE 5 (log entry 22). -/
def State.rndLost (s : State) : State :=
  let cut := s.dbg.busy && s.dbg.outcome.isNone && (match s.dbg.queue.head? with | some a => !privatePath a.addr | none => false)
  { s with rnd := {}, dbg := { s.dbg with outcome := if cut then some (1, 5, 0) else s.dbg.outcome } }

/-- The debug engine's accesses of Vollor requests end with the Vollor engine. -/
def DbgSt.tapOnly (d : DbgSt) : DbgSt :=
  let mine := match d.queue.head? with | some a => a.tap | none => false
  { d with cores := [], queue := d.queue.filter (fun a => a.tap), busy := d.busy && mine, outcome := if mine then d.outcome else none }

/-- What the HUB domain holds: everything but the boot flash, fuses, battery-backed key, DBG and AON. -/
def State.hubLost (s : State) : State :=
  { s with
    so := {}, tal := {}, ic := {}, vl := {}, sp := {}
    ev := { halfA := s.ev.halfA, halfB := s.ev.halfB }
    fk := { s.fk with unlocked := none, fkeyStage := [], bkeyStage := [], imgStage := [], fwStage := [], busy := none, loads := [] }
    fl := { s.fl with ops := [], stg := none, storeBusy := [] }
    dbg := s.dbg.tapOnly
    pw := { s.pw with chg := none, pend := none, holdDue := false, sched := false, deferred := []
                      modeHeld := [], image := 0, bootStuck := false, flushReset := false, wdtReset := false, fwReady := [] } }

def State.crt (s : State) (n : Nat) : CrTile := SMap.get s.cr n {}
def State.setCrt (s : State) (n : Nat) (v : CrTile) : State := { s with cr := SMap.set s.cr n v {} }
def State.crg (s : State) (n g : Nat) : CrGroup := SMap.get (s.crt n).groups g {}
def State.setCrg (s : State) (n g : Nat) (v : CrGroup) : State :=
  s.setCrt n { s.crt n with groups := SMap.set (s.crt n).groups g v {} }

/-- A LANE_RETIRE whose group leaves service will never see its acknowledgement: it is answered at the next strobe (R11; log
entry 59). -/
def State.retireOwed (s : State) (n g : Nat) : State :=
  match (s.crg n g).retire with
  | some q => { s.setCrg n g { s.crg n g with retire := none } with vl := { s.vl with owed := s.vl.owed ++ [q] } }
  | none => s

/-- The same for every group of a tile. -/
def State.retiresOwed (s : State) (n : Nat) : State := s.each (List.range 8) (fun t g => t.retireOwed n g)

/-- The supplies of a domain are removed: its registers and contents are lost (R46–R48). -/
def State.domLost (s : State) (d : Nat) : State :=
  let s1 :=
    if d < 8 then s.tileLost d
    else if d < 16 then
      let t := s.retiresOwed (d - 8)
      { t with cr := SMap.erase t.cr (d - 8) }
    else if d < 22 then
      let t := s.ddrLost (d - 16)
      { t with mcs := SMap.clear t.mcs (8 + 2 * (d - 16)) (10 + 2 * (d - 16)) }
    else if d < 30 then
      let n := d - 22
      let t := s.dramLost (0x10000000000 + n * 0x600000000) (0x10000000000 + (n + 1) * 0x600000000)
      { t with mcs := SMap.erase t.mcs n }
    else if d = domHost then s.each (List.range 8) (fun t k => t.setBit (Reg.vlLpStat (k + 1)) 31 false)
    else if d = domHub then s.hubLost.each (List.range 4) (fun t c => t.wr (Reg.dbgCStat c) 0x100)
    else if d = domRnd then s.rndLost
    else if isBayDom d then s.bayLost ((d - 0x200) / 64) ((d - 0x200) % 64)
    else if isSpDom d then
      let b := d - 0x400
      let t := s.blankRange (0x10000000 + b * 0x800000) (0x10000000 + (b + 1) * 0x800000)
      { t with sp := { t.sp with bad := t.sp.bad.filter (fun a => !(decide (0x10000000 + b * 0x800000 ≤ a) && decide (a < 0x10000000 + (b + 1) * 0x800000))) } }
    else s
  s1.resetRegs d

/-- A domain is off, with nothing of it left; the Tally notes that it was off in this epoch (R334). -/
def State.domOff (s : State) (d : Nat) : State :=
  if (s.dom d).ph = 0 then s.setDom d {}
  else
    let t := (s.domLost d).setDom d {}
    if d < 33 && !t.tal.downInEpoch.contains d then { t with tal := { t.tal with downInEpoch := d :: t.tal.downInEpoch } } else t

/-- Every child of a domain is off (R45). -/
def State.childrenOff (s : State) (d : Nat) : Bool := s.pw.doms.all (fun e => e.2.ph = 0 || !(domParents e.1).contains d)

/-! ### Fail bits (R462, R483) -/

/-- The fail bit of a domain. -/
def State.domFailBit (s : State) (d : Nat) : Bool :=
  if isBayDom d then s.bit (Reg.pmBayFail ((d - 0x200) / 32)) ((d - 0x200) % 32)
  else if isSpDom d then s.bit (Reg.spBStat (d - 0x400)) 31
  else d < 31 && s.bit Reg.pmDomFail d

/-- The fail bit written. -/
def State.setFail (s : State) (d : Nat) (v : Bool) : State :=
  if isBayDom d then s.setBit (Reg.pmBayFail ((d - 0x200) / 32)) ((d - 0x200) % 32) v
  else if isSpDom d then s.setBit (Reg.spBStat (d - 0x400)) 31 v
  else if d < 31 then s.setBit Reg.pmDomFail d v else s

/-- A domain cannot be had: its own fail bit or a parent's is set (R462). -/
def State.domFailed (s : State) (d : Nat) : Bool := s.domFailBit d || (domParents d).any s.domFailBit

/-- The LOC of a domain (R507). -/
def domLoc (d : Nat) : Nat := if isBayDom d || isSpDom d then d else 0x100 + d

/-! ### Wakes (R361, R459, R463) -/

/-- Whether a domain wakes on demand. -/
def onDemand (d : Nat) : Bool := d < 16 || isBayDom d || isSpDom d

/-- Whether the mode lets it wake: TILEn, BAYn.b and CRn in modes 6–9 (R463); a bank while HUB is up (R484). -/
def State.mayWake (s : State) (d : Nat) : Bool :=
  isSpDom d || (onDemand d && decide (6 ≤ s.mode) && decide (s.mode ≤ 9))

/-- A request that reaches a domain that is not on will never be served: CAUSE 5 (R462, R463). -/
def State.refuses (s : State) (d : Nat) : Bool :=
  !s.domOn d && (!onDemand d || s.domFailed d || !s.mayWake d)

/-- A power-down in its first step is cancelled: the domain stays on (R361); a bank's STATE reads 2 (R484). -/
def State.domStay (s : State) (d : Nat) : State :=
  let s1 := s.setDom d { ph := 2 }
  if isSpDom d then (s1.setFld (Reg.spBStat (d - 0x400)) 25 24 2).setFld (Reg.spBCtrl (d - 0x400)) 25 24 2 else s1

/-- The wake row of a domain starts; one whose parents are off waits for them; a power-down that has not begun isolation is
cancelled. -/
def State.domWake1 (s : State) (d : Nat) : State :=
  let r := s.dom d
  if r.ph = 0 then
    if s.allOn (domParents d) && !s.domFailed d then (s.setDom d { ph := 1, attempts := 1 }).setFld Reg.pmWakeStat 9 8 1
    else s.setDom d { r with wanted := true }
  else if r.ph = 3 then s.domStay d
  else s

/-- A wake request: the parents that wake on demand first, then the domain. -/
def State.domWake (s : State) (d : Nat) : State :=
  (s.each ((domParents d).filter onDemand) (fun t p => t.domWake1 p)).domWake1 d

/-- A domain's row has passed: it is on, and children that waited start (R45, R459). -/
def State.domUp (s : State) (d : Nat) : State :=
  let s1 := s.setDom d { ph := 2 }
  let s2 := if d < 8 then s1.setFld (Reg.tcMcStat d) 7 4 0xD else s1
  s2.each (s2.pw.doms.filter (fun e => e.2.ph = 0 && e.2.wanted && (domParents e.1).contains d)) (fun t e => t.domWake1 e.1)

/-- Tiles and bays that a placement or an access needs are asked to wake. -/
def State.wakeBay (s : State) (n b : Nat) : State := s.domWake (domBay n b)

/-! ### The pending slot (R8, R467) -/

/-- MR_MODE and MR_MODE_TKT show the change in progress and the pending request. -/
def State.showMode (s : State) : State :=
  if !s.hubOn then s else
  let s1 := (s.setFld Reg.mrMode 3 0 (s.fld Reg.pmStat 3 0)).setBit Reg.mrMode 12 s.pw.chg.isSome
  let s2 := match s.pw.chg with
    | some c => s1.setFld Reg.mrMode 7 4 c.req.target
    | none => s1.setFld Reg.mrMode 7 4 0xF
  match s.pw.pend with
  | some r => ((s2.setBit Reg.mrMode 13 true).setFld Reg.mrMode 11 8 r.target).wr Reg.mrModeTkt
      (match r.ticket with | some t => s2.handle t | none => 0)
  | none => ((s2.setBit Reg.mrMode 13 false).setFld Reg.mrMode 11 8 0xF).wr Reg.mrModeTkt 0

/-- A mode code set, in AON and in HUB; an epoch with mode 3 in it lies outside the conditions of R9 (R335). -/
def State.setMode (s : State) (m : Nat) : State :=
  let s1 := if (m = 3 || s.mode = 3) && s.hubOn then { s with tal := { s.tal with outside := true } } else s
  (s1.setFld Reg.pmStat 3 0 m).showMode

/-- A request leaves the slot without being carried out: its ticket ends in state superseded with SUPERSEDED (R8); a debug
request or a trigger halt is recorded (R257, R245). -/
def State.supersede (s : State) (r : ModeReq) : State :=
  let s1 := match r.ticket with
    | some t => if tktLive (s.tkt t) then s.setTkt t { s.tkt t with state := 4, err := stSuperseded } else s
    | none => s
  match r.src with
  | .debug => s1.event 0x0102 2 0 s.mode
  | .trigger => s1.event 0x0306 2 r.unit r.run
  | _ => s1

/-- A request joins the pending slot, replacing the one there (R8). -/
def State.modeQueue (s : State) (r : ModeReq) : State :=
  let s1 := match s.pw.pend with
    | some old => s.supersede old
    | none => s
  ({ s1 with pw := { s1.pw with pend := some r } }).showMode

/-! ### Readiness (R476) -/

/-- Whether tile Fn is usable. -/
def State.tileReady (s : State) (n : Nat) : Bool :=
  s.hubOn && !s.domFailBit (domTile n) && s.mcReady n && !s.pw.refFail.contains 0

/-- Whether the Sorting Office is ready: HB0 ready and the Page Map prepared (R34). -/
def State.soReady (s : State) : Bool := s.hubOn && s.mcReady 0 && s.so.mapReady

/-- Whether page-port accesses to stack m are served now: its controller is ready, and no step has isolated a target (R34,
R296). -/
def State.pageServed (s : State) (m : Nat) : Bool := s.mcReady m && (s.mc m).iso.isNone

/-- A core waits for its first release after a halted reset; the functions that firmware serves wait on it (R262; log entry 55). -/
def State.coreHeld (s : State) : Bool := (List.range 4).any (fun c => (s.core c).wdtHold)

/-- Firmware serves function k. -/
def State.fwServes (s : State) (k : Nat) : Bool := s.pw.fwReady.contains k && !s.coreHeld

/-- Whether a host port is served on a link (bits 2 and 3). -/
def State.hpReady (s : State) (p : Nat) : Bool :=
  s.hubOn && s.domOn domHost && !s.pw.refFail.contains 1 && s.fwServes 0 &&
    (List.range 4).any (fun q => s.bit (Reg.vlLpStat (1 + 4 * p + q)) 31 && s.bit (Reg.vlLpCfg (1 + 4 * p + q)) 31)

/-- One bit of the readiness vector. -/
def State.readyBit (s : State) (k : Nat) : Bool :=
  s.hubOn && (
    if k = 2 ∨ k = 3 then s.hpReady (k - 2)
    else if k = 5 then s.bit Reg.evStat 29
    else if k = 6 then s.fwServes 6
    else if k = 7 then s.soReady
    else if k = 9 then s.fl.tableOk && s.fwServes 9
    else if k = 8 then s.soReady && (List.range 8).all (fun n => !s.domOn (domTile n) || s.mcReady n)
    else if k = 11 then s.bit Reg.icStat 30 && s.fwServes 11
    else if k < 12 then s.fwServes k
    else if k < 16 then false
    else if k < 24 then s.mcReady (k - 16)
    else if k < 36 then s.mcReady (8 + (k - 24))
    else if k < 44 then s.tileReady (k - 36)
    else if k < 52 then s.domOn (domCr (k - 44)) && (List.range 8).any (fun g => s.bit (Reg.crGStat (k - 44) g) 31)
    else if k = 52 then !s.ddrOn.isEmpty && s.ddrOn.all (fun c => s.mcReady (8 + c))
    else false)

/-- The readiness vector. -/
def State.readyVec (s : State) : Nat := (List.range 53).foldl (fun v k => v + (if s.readyBit k then 2 ^ k else 0)) 0

/-- Step 3 of R32: the readiness that scheduling uses until the next boundary (R33). A Page Map whose stack has become ready is
prepared by then (R34; log entry 53). -/
def State.readyLatch (s : State) : State :=
  let t := { s with so := { s.so with mapReady := s.so.mapReady || s.mcReady 0 } }
  { t with so := { t.so with ready := t.readyVec } }

end Sys2Proof.Machine
end

