-- ==== Sys2Proof/Machine/MmpOps.lean ====
section
/-!
DEFINITION. Memory-model ports: window, cache, response and flush (R135–R141).
-/
namespace Sys2Proof.Machine

/-- Base and size of a port's window. -/
def State.mmpBase (s : State) (n k : Nat) : Nat := s.rd64 (Reg.mmpBaseLo n k) (Reg.mmpBaseHi n k)
def State.mmpSize (s : State) (n k : Nat) : Nat := min (2 ^ 40) (s.rd64 (Reg.mmpSizeLo n k) (Reg.mmpSizeHi n k))

/-- The bay that owns a port, and its bay-plane. -/
def State.mmpBay (s : State) (n k : Nat) : Nat := s.fld (Reg.mmpCtrl n k) 23 18
def State.mmpBp (s : State) (n k : Nat) : Nat := bpIx n (s.mmpBay n k) (s.fld (Reg.mmpCtrl n k) 25 24)

/-- The response: 32 bytes, ERR and UE; the request is complete. -/
def State.mmpRespond (s : State) (n k data : Nat) (err ue : Bool) : State :=
  let s1 := s.each (List.range 8) (fun t i => t.wr (Reg.mmpRdata n k i) (data / 2 ^ (32 * i) % 2 ^ 32))
  ((s1.setBit (Reg.mmpCtrl n k) 28 err).setBit (Reg.mmpCtrl n k) 27 ue).setMmp n k { s.mmp n k with pend := none, fill := none }

/-- A dirty line by its Rounds address, as it goes to be written back (R138). -/
def State.mmpLeaves (s : State) (n k : Nat) (l : MmpLine) : MmpLine := { l with addr := s.mmpBase n k + l.addr }

/-- A line's bytes with the enabled bytes of a write at its address merged. -/
def mmpMerge (data : List Byte) (q : MmpReq) : List Byte :=
  data.mapIdx (fun i b =>
    let o := q.addr % 64
    if o ≤ i ∧ i < o + 32 ∧ bitOf q.be (i - o) then BitVec.ofNat 8 (q.wdata / 2 ^ (8 * (i - o))) else b)

/-- A request served from a line that is present: the line becomes the most recently used (R136, R138). -/
def State.mmpHit (s : State) (n k : Nat) (q : MmpReq) (l : MmpLine) : State :=
  let m := s.mmp n k
  let l' := if q.we then { l with data := mmpMerge l.data q, dirty := true } else l
  let s1 := s.setMmp n k { m with lines := l' :: m.lines.filter (fun x => x.addr ≠ l.addr) }
  s1.mmpRespond n k (if q.we then 0 else leAt l.data (q.addr % 64) 32) false false

/-- The line of an address, when the cache holds it. -/
def State.mmpLine (s : State) (n k a : Nat) : Option MmpLine := (s.mmp n k).lines.find? (fun l => l.addr = a / 64 * 64)

/-- A port takes a captured request (R136–R139): outside the window it ends in error, a hit is answered, and a miss or an
uncached request waits for memory. -/
def State.mmpTake (s : State) (n k : Nat) (q : MmpReq) : State :=
  if s.mmpSize n k ≤ q.addr then (s.setBit (Reg.mmpStat n k) 0 true).mmpRespond n k 0 true false
  else
    let wait : State := s.setMmp n k { s.mmp n k with pend := some q }
    if s.bit (Reg.mmpCtrl n k) 30 then wait
    else match s.mmpLine n k q.addr with
      | some l => s.mmpHit n k q l
      | none => wait.count (Reg.mmpMiss n k) 31 0 1

/-- A flush that has been asked for begins once the owning bay is in an exchange phase and no request is open: dirty lines
go to be written back, and every line is invalid (R141). -/
def State.mmpFlushTry (s : State) (n k : Nat) : State :=
  let m := s.mmp n k
  if s.bit (Reg.mmpCtrl n k) 29 && !m.flushing && m.pend.isNone && s.atBoundary n (s.mmpBay n k) then
    s.setMmp n k { m with lines := [], wbs := m.wbs ++ (m.lines.filter (fun l => l.dirty)).map (s.mmpLeaves n k), flushing := true }
  else s

/-- A write of 1 to FLUSH (R141). -/
def State.mmpFlush (s : State) (n k : Nat) : State := (s.setBit (Reg.mmpCtrl n k) 29 true).mmpFlushTry n k

/-- MMP_FLUSH. -/
def execMmpFlush (n : Tile) (k : Fin 8) (s : State) : Out := s.when (s.domOn (domTile n)) (s.mmpFlush n k)

/-- MMP_FLUSH_COMPLETE: every dirty line has been written back. -/
def execMmpFlushComplete (n : Tile) (k : Fin 8) (s : State) : Out :=
  let m := s.mmp n k
  s.when (s.domOn (domTile n) && m.flushing && m.wbs.isEmpty)
    ((s.setBit (Reg.mmpCtrl n k) 29 false).setMmp n k { m with flushing := false })

end Sys2Proof.Machine
end

