-- ==== Sys2Proof/Machine/Rotation.lean ====
section
/-!
DEFINITION. The rotation, the exchange and design I/O (chapter 03), with the tick of slices and memories (chapter 04).
-/
namespace Sys2Proof.Machine

/-! ### The capture micro-cycle (R84, R120, R127, R135, R68) -/

/-- Slices that may change: all where the hard blocks are configured, those with nonzero registers otherwise. -/
def State.liveSlices (s : State) (i : Nat) : List Nat :=
  if s.blank i then
    (List.range 192).filter (fun sl => !(SMap.slice s.mem (sliceAddr i sl) (sliceAddr i sl + 0x20)).isEmpty)
  else List.range 192

/-- What a slice decides in the capture micro-cycle (R116–R120). -/
def State.sliceDecide (s : State) (i sl : Nat) : SliceRegs :=
  let c := s.sliceCfg i sl
  let a := if c.aFeed then s.feed i sl false else s.hbBus i 1 (sl * 128) 27
  let b := if c.bFeed then s.feed i sl true else s.hbBus i 1 (sl * 128 + 54) 24
  let pcin := if sl % 24 = 0 then 0 else (s.slice i (sl - 1)).pr
  if s.grs i then {}
  else sliceNext c (s.slice i sl) pcin a (s.hbBus i 1 (sl * 128 + 27) 27) b (s.hbIn i 1 (sl * 128 + 78)) (s.hbIn i 1 (sl * 128 + 79))

/-- The inputs of one memory port, when the plane's configuration enables it and EN is 1 (R127). The ports of a cascade's lowest
member are those of the whole cascade; the inputs of the other members are not used (R130; log entry 51). -/
def State.portReq (s : State) (i : Nat) (deep : Bool) (m : Nat) (portB : Bool) : List MemReq :=
  let c := s.memCfg i deep m
  let cls := if deep then 4 else 3
  let o := (2 * m + b2n portB) * 256
  if cascBase c m = m && (if portB then c.en.2 else c.en.1) && s.hbIn i cls o then
    [{ deep := deep, mem := m, portB := portB, addr := s.hbBus i cls (o + 2) 16, we := s.hbIn i cls (o + 1)
       be := s.hbBus i cls (o + 18) 8, data := s.hbBus i cls (o + 32) 72 }]
  else []

/-- The inputs of every memory port of a plane: port A of a memory before its port B. -/
def State.portReqs (s : State) (i : Nat) : List MemReq :=
  if s.blank i then []
  else (List.range 160).flatMap (fun m => s.portReq i false m false ++ s.portReq i false m true) ++
    (List.range 16).flatMap (fun m => s.portReq i true m false ++ s.portReq i true m true)

/-- The request of the plane's memory-model port, when REQ = 1 (R135). -/
def State.mmpCapture (s : State) (i : Nat) : Option MmpReq :=
  match s.mmpOf i with
  | some _ =>
    if s.hbIn i 11 0 then
      some { we := s.hbIn i 11 1, addr := s.hbBus i 11 2 40 / 32 * 32, be := s.hbBus i 11 64 32, wdata := s.hbBus i 11 128 256 }
    else none
  | none => none

/-- The tree slots of a tile's trees 3–7 whose source is this bay-plane, with the value the source output has (R68). -/
def State.treeSamples (s : State) (i : Nat) : SMap Bool :=
  (List.range 5).foldl (fun m t =>
    let r := Reg.tcRetSrc (bpTile i) t (bpPlane i)
    if s.bit r 31 && s.fld r 5 0 = bpBay i then
      let v := s.node i (if s.bit r 23 then .ob (s.fld r 18 6) (s.fld r 22 19) else .oa (s.fld r 18 6) (s.fld r 22 19))
      SMap.put m (treeSlot (bpTile i) t (bpPlane i)) (Bool.xor v (s.bit r 24))
    else m) []

/-- The C-mode latches of a plane with the values they capture (R84, R89). Setting bit 0: Q mode; bit 1: connected; the
rest: source output. -/
def State.cLatches (s : State) (i : Nat) : List (Nat × Bool) :=
  if s.blank i then []
  else (List.range 4096).filterMap (fun l =>
    let v := s.hbField i 5 l
    if v / 2 % 2 = 1 && v % 2 = 0 then some (l, s.node i (.src (v / 4 * 16))) else none)

/-- The Q-mode latches with the flip-flop each one shows (R89). -/
def State.qLatches (s : State) (i : Nat) : List (Nat × Nat) :=
  if s.blank i then []
  else (List.range 4096).filterMap (fun l =>
    let v := s.hbField i 5 l
    if v / 2 % 2 = 1 && v % 2 = 1 then some (l, v / 4 / 32 % 5120 * 32 + v / 4 / 2 % 16 * 2 + v / 4 % 2) else none)

/-- What a probe word gains from the capture of bay-plane i: the taps that name it (R239). -/
def State.probeBits (s : State) (i slot : Nat) : Nat :=
  (List.range 64).foldl (fun v j =>
    let r := Reg.tcTtap (bpTile i) slot j
    if s.bit r 31 && s.fld r 12 7 = bpBay i && s.fld r 6 5 = bpPlane i &&
        s.node i (if s.bit r 30 then .ob (s.fld r 25 13) (s.fld r 29 26) else .oa (s.fld r 25 13) (s.fld r 29 26)) then v + 2 ^ j
    else v) 0

/-- The probe words of design cycle DCC that bay-plane i's run sends, one for each enabled slot of its tile (R241). -/
def State.probe (s : State) (i : Nat) : State :=
  let n := bpTile i
  let r := (s.bpRec i).run
  if decide (s.stage i = 3) && !s.clkHold n then
    s.each ((List.range 16).filter (fun k => s.bit (Reg.tcTslot n k) 31 && s.fld (Reg.tcTslot n k) 11 0 = r)) (fun t k =>
      let ps := (t.tile n).probes
      let v := s.probeBits i k
      let same := fun (p : Probe) => p.slot = k && p.run = r && p.cycle = s.dcc i
      let ps1 := if ps.any same then ps.map (fun p => if same p then { p with word := Nat.lor p.word v } else p)
        else ps ++ [⟨k, s.fld (Reg.tcTslot n k) 29 24, r, s.dcc i, v⟩]
      t.setTile n { t.tile n with probes := ps1 })
  else s

/-- The capture micro-cycle of bay-plane i (R84): every decision from the state before it, then the C-mode latches. -/
def State.capture (s : State) (i : Nat) : State :=
  let rt := s.bp i
  let rt1 := { rt with
    master := s.ffMasters i
    slices := (s.liveSlices i).foldl (fun m sl => SMap.put m sl (s.sliceDecide i sl)) []
    ports := s.portReqs i
    mmpReq := s.mmpCapture i
    treeS := s.treeSamples i }
  ((s.probe i).setBp i rt1).each (s.cLatches i) (fun t e => t.putBit (stateAddr i + 0x5000) e.1 e.2)

/-- The next plane of the rotation after p, or the end of the rotation (R83). -/
def State.nextPhase (s : State) (n b p : Nat) : BayPhase :=
  match (s.bay n b).planes.find? (fun q => decide (p < q) && s.inCycle (bpIx n b q)) with
  | some q => .step q
  | none => .captured

/-- PLANE_STEP_END (R84): capture, then the selection moves to the next plane of the rotation. A plane whose page has left it
since the cycle began captures nothing. -/
def execPlaneStepEnd (n : Tile) (b : Bay) (s : State) : Out :=
  match (s.bay n b).phase with
  | .step p =>
    let s1 := if s.inCycle (bpIx n b p) then s.capture (bpIx n b p) else s
    let rt := s1.bay n b
    .next (s1.setBay n b { rt with phase := s.nextPhase n b p, stepped := rt.stepped ++ [p] })
  | _ => .next s

/-! ### The tick edge (R85) -/

/-- Flip-flops take their masters: those whose tree ticks, and all under the global reset (log entry 8). -/
def State.tickFfs (s : State) (i : Nat) : State :=
  s.each ((s.bp i).master.filter (fun e => s.grs i || s.treeTicks i (s.ffTree i e.1))) (fun t e => t.putBit (stateAddr i) e.1 e.2)

/-- Slices take their masters in the same way (R120). -/
def State.tickSlices (s : State) (i : Nat) : State :=
  s.each ((s.bp i).slices.filter (fun e => s.grs i || s.treeTicks i (s.sliceCfg i e.1).tree)) (fun t e => t.putSlice i e.1 e.2)

/-- A memory port whose tree ticks loads the address register of every member of its cascade that the plane owns, and writes; a
write to a memory that the plane does not own is not performed and is counted (R127, R130, R132). -/
def State.tickPort (s : State) (i : Nat) (q : MemReq) : State :=
  let n := bpTile i
  let b := bpBay i
  let c := s.memCfg i q.deep q.mem
  let s1 := s.each ((cascMembers c q.mem).filter (s.ownsMem i q.deep)) (fun t m => t.setMemAdr n b q.deep m q.portB q.addr)
  if !q.we then s1
  else if !s.ownsMem i q.deep (cascMember c q.mem q.addr) then s1.count (Reg.bayMemerr n b) 7 0 1
  else if s.wrFree i then s1.memWrite i q.deep q.mem q.addr (if q.portB then c.beUse.2 else c.beUse.1) q.be q.data
  else s1

/-- The memory ports of a plane whose trees tick in the present design cycle. -/
def State.tickedPorts (s : State) (i : Nat) : List MemReq :=
  (s.bp i).ports.filter (fun q =>
    let c := s.memCfg i q.deep q.mem
    s.treeTicks i (if q.portB then c.tree.2 else c.tree.1))

/-- The memory ports of a plane at the tick. -/
def State.tickPorts (s : State) (i : Nat) : State := s.each (s.tickedPorts i) (fun t q => t.tickPort i q)

/-- ECC errors in the words that the ports `qs`, whose address registers a tick has loaded, now show: one read each (R131; log
entry 51). -/
def State.eccCount (s : State) (i : Nat) (qs : List MemReq) : State :=
  s.each (qs.filter (fun q => !q.deep)) (fun t q =>
    match (t.memOut i false q.mem q.portB).2 with
    | 1 => t.count (Reg.bayMemerr (bpTile i) (bpBay i)) 31 16 1
    | 2 => t.count (Reg.bayMemerr (bpTile i) (bpBay i)) 15 8 1
    | _ => t)

/-- The memory-model port takes its request: none while outputs are held; a write is dropped while writes are held
(R77, R136). -/
def State.tickMmp (s : State) (i : Nat) : State :=
  match s.mmpOf i, (s.bp i).mmpReq with
  | some k, some q =>
    if s.outFree i && (!q.we || s.wrFree i) then s.mmpTake (bpTile i) k q else s
  | _, _ => s

/-- DCC rises in STAGE 3 without a clock hold; a release period is counted in STAGE 1 and 2 (R79, R80, R85). The design cycle
has ended. -/
def State.tickDcc (s : State) (i : Nat) : State :=
  let up := decide (s.stage i = 3) && !s.clkHold (bpTile i)
  let s1 := if up then s.setDcc i (s.dcc i + 1) else s
  let s2 := if (s.stage i = 1 || s.stage i = 2) && !s.clkHold (bpTile i) then
      s1.setFld (relStat i) 9 5 (min 16 (s.fld (relStat i) 9 5 + 1)) else s1
  s2.setBp i { s2.bp i with inc := up, rot := (s.bp i).rot + 1, xph := 2 }

/-- The signals of out-bundle j: flip-flop Q values after the tick (R92). Setting bit 0: connected; the rest: flip-flop. -/
def State.outBundle (s : State) (i j : Nat) : Nat :=
  (List.range 32).foldl (fun v k =>
    let f := s.hbField i 6 (32 * j + k)
    if f % 2 = 1 && s.ffQ i (f / 2 % 163840) then v + 2 ^ k else v) 0

/-- The valid out-bundles of a plane are sent (R93, R98). -/
def State.sendBundles (s : State) (i cyc : Nat) : State :=
  s.each (List.range 64) (fun t j =>
    let r := Reg.bayXrt (bpTile i) (bpBay i) (bpPlane i) j
    if t.bit r 31 then
      let v := BitVec.ofNat 32 (s.outBundle i j)
      if t.bit r 27 then { t with fab := { t.fab with extOut := t.fab.extOut ++ [⟨i, t.fld r 10 0, cyc, v⟩] } }
      else { t with fab := { t.fab with bundles := t.fab.bundles ++
        [⟨i, bpIx (t.fld r 30 28) (t.fld r 26 21) (t.fld r 20 19), t.fld r 18 13, v, (s.bpRec i).run⟩] } }
    else t)

/-- The bridge crossings of a route, each from a tile to the next: horizontal first, then vertical (R27, R28). -/
def bridgePath (a b : Nat) : List (Nat × Nat) :=
  let c := a % 4
  let d := b % 4
  let row := 4 * (a / 4)
  (List.range (d - c)).map (fun k => (row + c + k, row + c + k + 1)) ++
    (List.range (c - d)).map (fun k => (row + c - k, row + c - k - 1)) ++
    (if a / 4 = b / 4 then [] else [(row + d, 4 * (b / 4) + d)])

/-- The bridge crossings that the route entries of bay-plane i use, one for each bundle. -/
def State.crossings (s : State) (i : Nat) : List (Nat × Nat) :=
  (List.range 64).flatMap (fun j =>
    let r := Reg.bayXrt (bpTile i) (bpBay i) (bpPlane i) j
    if s.bit r 31 && !s.bit r 27 then bridgePath (bpTile i) (s.fld r 30 28) else [])

/-- TC_XSTAT.OVERSUB (R94): the route entries of the planes that step in bay-plane i's send slot give a bridge direction that
i uses more than 256 bundles. It sets in the tile at the sending end of that direction (log entry 50). -/
def State.oversub (s : State) (i : Nat) : State :=
  let mine := (s.crossings i).dedup
  let all := (s.so.bps.filter (fun e => bpPlane e.1 = bpPlane i && s.stepping e.1)).flatMap (fun e => s.crossings e.1)
  s.each (mine.filter (fun x => decide (256 < all.count x))) (fun t x => t.setBit (Reg.tcXstat x.1) 30 true)

/-- The tick of one bay-plane: flip-flops, slices, ports, Q-mode latches, tree samples, DCC, in that order; then the bundles
leave (R85, R93). -/
def State.tickPlane (s : State) (i : Nat) : State :=
  let cyc := s.dcc i
  let s1 := (((s.tickFfs i).tickSlices i).tickPorts i).tickMmp i
  let s2 := s1.each (s1.qLatches i) (fun t e => t.putBit (stateAddr i + 0x5000) e.1 (t.ffQ i e.2))
  let s3 := (s2.tickDcc i).eccCount i (s.tickedPorts i)
  let s4 := { s3 with fab := { s3.fab with
    trees := SMap.setMany s3.fab.trees false
      ((s.bp i).treeS.map (fun (e : Nat × Bool) => (2 * e.1 + (s3.bp i).rot % 2, e.2)))
    treeRot := SMap.setMany s3.fab.treeRot 0 ((s.bp i).treeS.map (fun (e : Nat × Bool) => (e.1, (s3.bp i).rot))) } }
  let s5 := s4.setBp i { s4.bp i with master := [], slices := [], ports := [], mmpReq := none, treeS := [] }
  (s5.sendBundles i cyc).oversub i

/-! ### Design I/O (R105–R110) -/

/-- Pin settings of a bay-plane for local bank j: bit 0 driven, the rest the flip-flop (R106). -/
def State.pinField (s : State) (i j pin : Nat) : Nat := s.hbField i 7 (48 * j + pin)

/-- The bay-planes that drive local bank j of tile Fn, lowest first (R108). -/
def State.bankDrivers (s : State) (n j : Nat) : List Nat :=
  (s.so.bps.filter (fun e => e.2.pstate = 2 && bpTile e.1 = n && !s.blank e.1 &&
    (List.range 48).any (fun pin => s.pinField e.1 j pin % 2 = 1))).map Prod.fst

/-- The bay-planes that read local bank j of tile Fn (R107). -/
def State.bankReaders (s : State) (n j : Nat) : List Nat :=
  (s.so.bps.filter (fun e => e.2.pstate = 2 && bpTile e.1 = n && s.hbField e.1 9 j % 2 = 1)).map Prod.fst

/-- The bay-plane that gives a bank its edge: its lowest driver (R108); in a bank without one, its lowest reader, as in a bank
of input bursts (log entry 50). -/
def State.edgeSource (s : State) (n j : Nat) : Option Nat :=
  match s.bankDrivers n j with
  | i :: _ => some i
  | [] => (s.bankReaders n j).head?

/-- Whether a bank is in use: EN = 1 and MODE not reserved (DIO_Bj_CFG). -/
def State.bankOn (s : State) (n j : Nat) : Bool :=
  (bankOf n j).isSome && s.bit (Reg.dioBCfg n j) 31 && s.fld (Reg.dioBCfg n j) 30 29 ≠ 3

/-- Whether a bank's outputs stand in the hold state (R77, R110): tree 0, a driver at STAGE 0, or, where no page drives it, no
page that names it past STAGE 0. -/
def State.bankHeld (s : State) (n j : Nat) : Bool :=
  s.pw.safeZ || s.outHold n ||
    match s.bankDrivers n j with
    | [] => (s.bankReaders n j).all (fun d => s.stage d = 0)
    | i :: is => (i :: is).any (fun d => s.stage d = 0)

/-- At the tick edge of bay b the bank's outputs of its planes launch, and the bank takes its edge (R106, R108). `planes`:
those that ticked. -/
def State.launch (s : State) (n b j : Nat) (planes : List Nat) : State :=
  match bankOf n j with
  | none => s
  | some k =>
    if s.bankOn n j && !s.bankHeld n j then
      let here := fun (i : Nat) => bpBay i = b && planes.contains (bpPlane i)
      let ds := (s.bankDrivers n j).filter here
      let src := (s.edgeSource n j).filter here
      let bk := s.bank k
      let outs := ds.foldl (fun v i => (List.range 48).foldl (fun v pin =>
        let f := s.pinField i j pin
        if f % 2 = 1 then putBits v pin pin (b2n (s.ffQ i (f / 2 % 163840))) else v) v) bk.outs
      let edge := src.isSome
      let sdr := decide (s.fld (Reg.dioBCfg n j) 30 29 = 0)
      if ds.isEmpty && !edge then s
      else s.setBank k { bk with
        outs := if sdr then outs else bk.outs
        dclko := if sdr && edge then true else bk.dclko
        samplePend := if edge && decide (s.fld (Reg.dioBCfg n j) 30 29 ≠ 1) then true else bk.samplePend
        burstPend := if edge && decide (s.fld (Reg.dioBCfg n j) 30 29 = 1) then true else bk.burstPend
        edge := match src with | some i => (s.bp i).rot | none => bk.edge }
    else s

/-- A tick edge waits while a bank that the bay drives or clocks still has its burst, its DCLKO high, or a sample to come that a
page reads (R106, R107, R109). -/
def State.ioTickReady (s : State) (n b : Nat) : Bool :=
  [0, 1].all (fun j =>
    match bankOf n j with
    | some k => !(s.bankOn n j && !s.bankHeld n j &&
        ((s.bankDrivers n j).any (fun i => bpBay i = b) || (s.edgeSource n j).any (fun i => bpBay i = b)) &&
        ((s.bank k).burstPend || (s.bank k).dclko || ((s.bank k).samplePend && !(s.bankReaders n j).isEmpty)))
    | none => true)

/-- The run of bay-plane i has stepped in this epoch (R215). -/
def State.markStep (s : State) (i : Nat) : State :=
  let r := (s.bpRec i).run
  if (s.run r).state = .empty then s else s.setRun r { s.run r with stepped := true }

/-- The ticket of a single step of the run of bay-plane i counts the design cycles that all its bay-planes have stepped (R247). -/
def State.stepCount (s : State) (i : Nat) : State :=
  let r := (s.bpRec i).run
  match SMap.find s.so.steps r with
  | some e => s.tktProgress e.1 ((s.runBps r).foldl (fun m j => min m (s.dcc j - e.2)) (s.dcc i - e.2)) 0
  | none => s

/-- The tick edge (R85): the last step of the rotation has ended. An accepted OP 3 takes effect at this boundary (R81). -/
def State.tickEdge (s : State) (n b : Nat) : State :=
  let planes := (s.bay n b).stepped.filter (fun p => s.inCycle (bpIx n b p))
  let s1 := s.each planes (fun t p => t.tickPlane (bpIx n b p))
  let s2 := (s1.launch n b 0 planes).launch n b 1 planes
  let s3 := s2.setBay n b { s2.bay n b with phase := .exchange, planes := [] }
  let s4 := s3.each ((List.range 4).filter (fun p => (s3.bp (bpIx n b p)).holdPend)) (fun t p => t.relHoldNow (bpIx n b p))
  let s5 := s4.each planes (fun t p => (t.markStep (bpIx n b p)).stepCount (bpIx n b p))
  s5.each ((List.range 8).filter (fun k => s.mmpBay n k = b)) (fun t k => t.mmpFlushTry n k)

/-- DCLKO_FALL (R106). -/
def execDclkoFall (k : Fin 12) (s : State) : Out :=
  s.when (s.domOn (domTile (bankTile k).1)) (s.setBank k { s.bank k with dclko := false })

/-- DESIGN_INPUT_SAMPLE (R107): not while the bank is held (R110). -/
def execDesignInputSample (k : Fin 12) (pins : BitVec 48) (s : State) : Out :=
  let (n, j) := bankTile k
  s.when ((s.bank k).samplePend && s.bankOn n j && !s.bankHeld n j && s.fld (Reg.dioBCfg n j) 30 29 = 0)
    (s.setBank k { s.bank k with ins := pins.toNat, insPrev := (s.bank k).ins, samplePend := false })

/-- Bits per pin of a burst (R109). -/
def burstWidth (bw : Nat) : Nat := 2 ^ (bw % 4 + 1)

/-- BURST_TRANSFER (R109): word t of the burst carries bit t of every pin 0–46, and FRAME on pin 47 in the first. -/
def execBurstTransfer (k : Fin 12) (s : State) : Out :=
  let (n, j) := bankTile k
  let w := burstWidth (s.fld (Reg.dioBCfg n j) 28 27)
  let word := fun t => (s.bankDrivers n j).foldl (fun v i => (List.range 47).foldl (fun v pin =>
      let f := s.hbField i 8 ((48 * j + pin) * 16 + t)
      if f % 2 = 1 && s.ffQ i (f / 2 % 163840) then putBits v pin pin 1 else v) v) (if t = 0 then 2 ^ 47 else 0)
  s.when ((s.bank k).burstPend && s.bankOn n j && !s.bankHeld n j)
    (s.setBank k { s.bank k with burst := (List.range w).map word, burstPend := false, dclko := false })

/-- INPUT_BURST (R109): the partner's burst ends, which is the bank's sample point. -/
def execInputBurst (k : Fin 12) (words : List (BitVec 48)) (s : State) : Out :=
  let (n, j) := bankTile k
  s.when ((s.bank k).samplePend && s.bankOn n j && !s.bankHeld n j && s.fld (Reg.dioBCfg n j) 30 29 = 2)
    (s.setBank k { s.bank k with
      burst := (words.take (burstWidth (s.fld (Reg.dioBCfg n j) 28 27))).map BitVec.toNat
      burstPrev := (s.bank k).burst, samplePend := false })

/-! ### The exchange (R94–R97) -/

/-- The in-bundle bank that an arriving bundle is written to (R95). -/
def State.inBank (s : State) (i : Nat) : Nat := (s.cycleNo i + 1) % 2

/-- Whether a bundle of run r can reach a plane now or later: its page stands there, and it has begun to step, steps, or is held
with OP 3 (R96, R544). A run paused between design cycles keeps what its barrier waits for (log entry 50). -/
def State.takesBundles (s : State) (i r : Nat) : Bool :=
  let x := s.run r
  (s.bpRec i).pstate = 2 && (s.bpRec i).run = r && !(s.bpRec i).stale && ((s.bp i).xph ≠ 0 || s.stepping i || x.held) &&
    (x.held || x.state = .loading || x.state = .running || (x.state = .suspending && !x.stops.isEmpty))

/-- A bundle from a peer came after its run had stopped: the ticket of the suspend carries INTEGRITY (R209). -/
def State.peerLate (s : State) (q : Bundle) : State :=
  if q.src = 2 ^ 20 && (s.run q.run).curOp = .suspend then s.setRun q.run { s.run q.run with endErr := stIntegrity } else s

/-- A bundle written into its destination bank. -/
def State.putBundle (s : State) (i j : Nat) (v : Word) : State :=
  let rt := s.bp i
  s.setBp i { rt with banks := SMap.set rt.banks (64 * s.inBank i + j) v 0, arrived := Nat.lor rt.arrived (2 ^ j) }

/-- EXCHANGE_BUNDLE_ARRIVAL (R95, R96): bundle `index` reaches its bank; it waits while the plane still holds the last
one for the cycle it has not begun, or has not begun its first, and is discarded and counted, in the destination's tile (log
entry 50), when the plane is not stepping. -/
def execExchangeBundleArrival (index : Nat) (s : State) : Out :=
  match s.fab.bundles[index]? with
  | none => .next s
  | some q =>
    let s1 := { s with fab := { s.fab with bundles := s.fab.bundles.eraseIdx index } }
    if s.takesBundles q.dst q.run then
      if (s.bp q.dst).xph = 0 || bitOf (s.bp q.dst).arrived q.bundle then .next s else .next (s1.putBundle q.dst q.bundle q.value)
    else .next ((s1.count (Reg.tcXstat (bpTile q.dst)) 15 0 1).peerLate q)

/-- The in-bundles a plane expects (BAY_XEXP). -/
def State.expected (s : State) (i : Nat) : Nat :=
  s.rd64 (Reg.bayXexpLo (bpTile i) (bpBay i) (bpPlane i)) (Reg.bayXexpHi (bpTile i) (bpBay i) (bpPlane i))

/-- Every expected in-bundle of a plane has arrived (R96). The first design cycle since the plane took its page reads the bank as
it stands, which no tick edge has sent to (R99; log entry 50). -/
def State.bundlesIn (s : State) (i : Nat) : Bool :=
  (s.bp i).xph = 0 || Nat.land (s.expected i) (s.bp i).arrived = s.expected i

/-- The plane's memory-model port has answered and is not flushing (R137, R141). -/
def State.mmpReady (s : State) (i : Nat) : Bool :=
  match s.mmpOf i with
  | some k => (s.mmp (bpTile i) k).pend.isNone && !s.bit (Reg.mmpCtrl (bpTile i) k) 29
  | none => true

/-- Every stepping plane of a list has ended the design cycle before the one that plane i is about to begin: the lockstep of
R100, on which a slot's or a bank's one sample for each cycle rests (log entry 50). -/
def State.inStep (s : State) (i : Nat) (readers : List Nat) : Bool :=
  readers.all (fun j => !s.stepping j || decide ((s.bp i).rot ≤ (s.bp j).rot))

/-- The bay-planes of tile Fn and plane p that read tree t + 3. -/
def State.treeReaders (s : State) (n t p : Nat) : List Nat :=
  (s.so.bps.filter (fun e => e.2.pstate = 2 && bpTile e.1 = n && bpPlane e.1 = p && s.hbField e.1 10 t % 2 = 1)).map Prod.fst

/-- The tree slots that the plane reads have been sampled for the cycle it is about to begin, and the readers of the slots it
feeds are in step (R68). -/
def State.treesReady (s : State) (i : Nat) : Bool :=
  (List.range 5).all (fun t =>
    let r := Reg.tcRetSrc (bpTile i) t (bpPlane i)
    let src := bpIx (bpTile i) (s.fld r 5 0) (bpPlane i)
    (!(s.hbField i 10 t % 2 = 1 && s.bit r 31 && s.stepping src) ||
      decide ((s.bp i).rot ≤ SMap.get s.fab.treeRot (treeSlot (bpTile i) t (bpPlane i)) 0)) &&
    (!(s.bit r 31 && decide (src = i)) || s.inStep i (s.treeReaders (bpTile i) t (bpPlane i))))

/-- The banks that the plane reads have been sampled after the edge that ended its last design cycle, and the readers of the
banks it clocks are in step (R107, R109). -/
def State.inputsReady (s : State) (i : Nat) : Bool :=
  let n := bpTile i
  [0, 1].all (fun j =>
    match bankOf n j with
    | some k =>
      let b := s.bank k
      let r := (s.bp i).rot
      !(s.bankOn n j && !s.bankHeld n j) ||
        ((!(s.hbField i 9 j % 2 = 1 && (s.edgeSource n j).any s.stepping) ||
            decide (r = 0) || decide (r < b.edge) || (decide (r = b.edge) && !b.samplePend)) &&
          (decide (s.edgeSource n j ≠ some i) || s.inStep i (s.bankReaders n j)))
    | none => true)

/-- Every bundle the bay sent has been taken (R96, R451). -/
def State.bundlesOut (s : State) (n b : Nat) : Bool :=
  s.fab.bundles.all (fun q => !(q.src / 4 = bayIx n b)) && s.fab.extOut.all (fun q => !(q.src / 4 = bayIx n b))

/-- Runs that pause with a run: those with a stepping plane in a bay of it, itself among them (R226). -/
def State.coTenants (s : State) (r : Nat) : List Nat :=
  let bays := (s.runBps r).map (· / 4)
  (s.so.runs.filter (fun e => e.1 = r || (s.runBps e.1).any (fun i => s.stepping i && bays.contains (i / 4)))).map Prod.fst

/-- No release sequence of a run is in progress. -/
def State.runSettled (s : State) (r : Nat) : Bool :=
  (s.runBps r).all (fun i => s.stage i = 3 && !s.armed i) || (s.runBps r).all (fun i => s.stage i = 0 && !s.armed i)

/-- A snapshot of a run may pause it and its co-tenants: none of them is in its release sequence (R80, R226). -/
def State.snapCalm (s : State) (r : Nat) : Bool := (s.coTenants r).all s.runSettled

/-- A snapshot of a run is being captured. -/
def State.capturing (s : State) (r : Nat) : Bool := s.so.snaps.any (fun e => e.2.run = r && e.2.state = 2)

/-- A ring's snapshot falls due at DCC d, or has been owed since the one before it was complete (R230, R235). -/
def State.ringTime (s : State) (x : Ring) (d : Nat) : Bool :=
  (d ≠ 0 && d % x.period = 0 && x.lastDue ≠ d) || (x.owed && !s.capturing x.run)

/-- A stop, a snapshot or a ring holds a run at this boundary (R208, R226, R235): its next design cycle does not begin. No
bay-plane is held at a boundary that another of the run has left behind, so that all of them stop at the same one. -/
def State.heldBack (s : State) (i : Nat) : Bool :=
  let r := (s.bpRec i).run
  let full := decide (s.stage i = 3)
  let d := s.dcc i
  (s.run r).stops.any (fun q => q.why = .endRun) ||
    (decide (s.runFront r ≤ (s.bp i).rot) && (
      (s.run r).stops.any (fun q => q.why = .modeHold || (full && decide (q.cycle ≤ d))) ||
      (full && !s.capturing r && s.snapCalm r &&
        s.so.snaps.any (fun e => e.2.run = r && e.2.state = 1 && e.2.due && decide (e.2.atCycle ≤ d))) ||
      (full && s.so.rings.any (fun e => e.2.run = r && s.ringTime e.2 d))))

/-- Whether a bay may begin its next design cycle (R96, R137, R107, R68). -/
def State.cycleReady (s : State) (n b : Nat) : Bool :=
  s.bundlesOut n b && (s.steppingPlanes n b).all (fun p =>
    let i := bpIx n b p
    s.bundlesIn i && s.mmpReady i && s.treesReady i && s.inputsReady i && !s.heldBack i && !s.relDue i)

/-- The barrier of a bay-plane is met: what its run's stops wait for (R544). -/
def State.barrierMet (s : State) (i : Nat) : Bool := s.bundlesIn i && s.mmpReady i

/-- The design cycle that bay-plane i begins is the last before its run stops to be saved, or before a snapshot that flushes. -/
def State.flushDue (s : State) (i : Nat) : Bool :=
  let r := (s.bpRec i).run
  let d := s.dcc i + 1
  decide (s.stage i = 3) &&
    ((s.run r).stops.any (fun q => (q.why = .suspend || q.why = .preempt) && decide (q.cycle ≤ d)) ||
      s.so.snaps.any (fun e => e.2.run = r && e.2.state = 1 && e.2.due && e.2.flush && decide (e.2.atCycle ≤ d)) ||
      s.so.rings.any (fun e => e.2.run = r && e.2.flush && d % e.2.period = 0))

/-- FLUSH is written to the port of bay-plane i one design cycle before such a boundary (R209, R225). -/
def State.flushAhead (s : State) (i : Nat) : State :=
  match s.mmpOf i with
  | some k => if s.flushDue i then s.mmpFlush (bpTile i) k else s
  | none => s

/-- DESIGN_CYCLE_BEGIN (R96, R83): from its exchange phase, or from rest when a plane has begun to step. `waited` is the
length of the exchange phase beyond its four slots; the masks name the banks and ports that lengthened the cycle. -/
def execDesignCycleBegin (n : Tile) (b : Bay) (waited : BitVec 16) (ioWait : BitVec 2) (mmpWait : Byte)
    (s : State) : Out :=
  let planes := s.steppingPlanes n b
  let first := (s.bay n b).phase = .idle
  let s1 := s.each planes (fun t p => t.setBp (bpIx n b p) { t.bp (bpIx n b p) with arrived := 0, inc := false, xph := 1 })
  let s2 := if first then s1 else
    let s3 := s1.setFld (Reg.bayXwait n b) 15 0 waited.toNat
    let s4 := s3.setFld (Reg.bayXwaitMax n b) 15 0 (max waited.toNat (s.fld (Reg.bayXwaitMax n b) 15 0))
    let s5 := s4.each [0, 1] (fun t j => if bitOf ioWait.toNat j && (bankOf n j).isSome then t.count (Reg.dioBStat n j) 17 2 1 else t)
    s5.each (List.range 8) (fun t k => if bitOf mmpWait.toNat k then t.count (Reg.mmpWait n k) 31 0 1 else t)
  let phase := match planes with
    | p :: _ => BayPhase.step p
    | [] => BayPhase.idle
  s.when (s.atBoundary n b && s.domOn (domBay n b) && s.cycleReady n b)
    ((s2.setBay n b { s2.bay n b with phase := phase, planes := planes, stepped := [] }).each planes
      (fun t p => (t.markStep (bpIx n b p)).flushAhead (bpIx n b p)))

/-- Planes of a bay whose expected bundles are missing (R97). -/
def State.missingPlanes (s : State) (n b : Nat) : List Nat :=
  (s.steppingPlanes n b).filter (fun p => !s.bundlesIn (bpIx n b p))

/-- EXCHANGE_STALL (R97): the wait exceeds 1 ms; one event an epoch names the bay and the planes whose bundles are missing. Its
CTX is the run of the first of them, or of plane 0 where none is missing (log entry 50). -/
def execExchangeStall (n : Tile) (b : Bay) (s : State) : Out :=
  let s1 := s.setBit (Reg.tcXstat n) 31 true
  let s2 := if (s.bay n b).stallRec then s1
    else (s1.event 0x0209 4 (tileLoc n b 0 0) ((s.bpRec (bpIx n b ((s.missingPlanes n b).headD 0))).run) 0 (s.missingPlanes n b)).setBay n b
      { s.bay n b with stallRec := true }
  s.when (s.domOn (domBay n b) && (s.bay n b).phase = .exchange && !s.cycleReady n b) s2

end Sys2Proof.Machine
end

