-- ==== Sys2Proof/Machine/Courier.lean ====
section
/-!
DEFINITION. Courier lanes, groups and the link (chapter 15).
-/
namespace Sys2Proof.Machine

def State.crl (s : State) (n l : Nat) : CrLane := SMap.get (s.crt n).lanes l {}
def State.setCrl (s : State) (n l : Nat) (v : CrLane) : State :=
  s.setCrt n { s.crt n with lanes := SMap.set (s.crt n).lanes l v {} }

/-! ### The configuration block (R423, R430) -/

/-- First lane, data lanes and spare of a GROUP word. -/
def grpWidth (w : Nat) : Nat := match bitsOf w 6 4 with | 1 => 1 | 2 => 2 | 3 => 4 | 4 => 8 | _ => 0
def grpData (w : Nat) : List Nat := (List.range (grpWidth w)).map (bitsOf w 3 0 + ·)
def grpSpare (w : Nat) : Option Nat := if grpWidth w ≠ 0 && bitOf w 7 then some (bitsOf w 3 0 + grpWidth w) else none
def grpLanes (w : Nat) : List Nat := grpData w ++ (grpSpare w).toList

/-- GROUPg as held in CR_CFG. -/
def State.grpWord (s : State) (n g : Nat) : Nat := s.rd (Reg.crCfg n (2 + g))

/-- Whether a configuration block is accepted (R430). -/
def cfgAccepted (ws : List Nat) : Bool :=
  let w := fun k => ws.getD k 0
  let lanes := (List.range 8).flatMap (fun g => grpLanes (w (2 + g)))
  ws.length = 16 && decide (bitsOf (w 0) 7 0 ≤ 1) && (bitsOf (w 0) 7 0 = 1 || decide (bitsOf (w 0) 15 8 ≤ 1)) && w 1 = 0 &&
    (List.range 8).all (fun g => bitsOf (w (2 + g)) 15 8 = 0 && decide (bitsOf (w (2 + g)) 6 4 ≤ 4)) &&
    bitsOf (w 10) 31 16 = 0 && (List.range 5).all (fun k => w (11 + k) = 0) &&
    lanes.all (fun l => decide (l < 16) && bitOf (w 0) (16 + l)) && lanes.dedup.length = lanes.length

/-- The group that a lane belongs to. -/
def State.grpOf (s : State) (n l : Nat) : Option Nat := (List.range 8).find? (fun g => (grpLanes (s.grpWord n g)).contains l)

/-! ### Lanes and groups (R448) -/

def State.laneSt (s : State) (n l : Nat) : Nat := s.fld (Reg.crLStat n l) 31 28
def State.setLaneSt (s : State) (n l v : Nat) : State := s.setFld (Reg.crLStat n l) 31 28 v
def State.crLink (s : State) (n : Nat) : Nat := s.fld (Reg.crCtrl n) 5 4
def State.setLink (s : State) (n v : Nat) : State := s.setFld (Reg.crCtrl n) 5 4 v
def State.inService (s : State) (n g : Nat) : Bool := s.bit (Reg.crGStat n g) 31
def State.spareOk (s : State) (n g : Nat) : Bool := s.bit (Reg.crGStat n g) 30
def State.spareUsed (s : State) (n g : Nat) : Bool := s.bit (Reg.crGStat n g) 29

/-- LOC of a Courier event (R507), and CTX: the peer's tag. -/
def crLoc (n g l : Nat) : Nat := n * 256 + g * 16 + l
def State.peerTag (s : State) (n g : Nat) : Nat := s.fld (Reg.crGStat n g) 15 0

/-- The lane that carries data lane l's stream: the spare once it has taken it (R438, R439), else l itself. -/
def State.carrier (s : State) (n g l : Nat) : Nat :=
  match grpSpare (s.grpWord n g) with
  | some k => if s.spareUsed n g && s.fld (Reg.crGStat n g) 27 24 = l then k else l
  | none => l

/-- The data lane whose stream lane l carries: none for a spare that only mirrors and for a lane that the spare has replaced. -/
def State.carried (s : State) (n g l : Nat) : Option Nat := (grpData (s.grpWord n g)).find? (fun d => s.carrier n g d = l)

/-- A control block queued on a lane of a group; lane 99 stands for whichever lane comes next. -/
def State.crSendCtl (s : State) (n g l : Nat) (b : CrBlk) : State :=
  s.setCrg n g { s.crg n g with ctl := (s.crg n g).ctl ++ [(l, b)] }

/-- TAKEOVER_REQ for lane l on every in-service lane of the group (R438 step 3). -/
def State.takeoverAsk (s : State) (n g l : Nat) : State :=
  let w := s.grpWord n g
  s.each ((grpLanes w).filter (fun k => s.laneSt n k = 2)) (fun t k => t.crSendCtl n g k (.takeoverReq (l - bitsOf w 3 0)))

/-- The spare carries lane l (R438 step 4, R448). -/
def State.spareTakes (s : State) (n g l : Nat) : State :=
  let s1 := ((s.setBit (Reg.crGStat n g) 29 true).setBit (Reg.crGStat n g) 30 false).setFld (Reg.crGStat n g) 27 24 l
  match grpSpare (s.grpWord n g) with
  | some k => s1.setLaneSt n k 2
  | none => s1

/-- The spare gives its lane back and mirrors again (R442 step 4). -/
def State.spareBack (s : State) (n g : Nat) : State :=
  let s1 := ((s.setBit (Reg.crGStat n g) 29 false).setBit (Reg.crGStat n g) 30 true).setFld (Reg.crGStat n g) 27 24 0
  match grpSpare (s.grpWord n g) with
  | some k => s1.setLaneSt n k 3
  | none => s1

/-- A group fails (R440): every lane in state 4, bundles stop crossing. -/
def State.grpFail (s0 : State) (n g : Nat) : State :=
  let s := s0.retireOwed n g
  let s1 := s.each (grpLanes (s.grpWord n g)) (fun t l => t.setLaneSt n l 4)
  let s2 := (((s1.setBit (Reg.crGStat n g) 31 false).setFld (Reg.crGStat n g) 30 29 0).setBit (Reg.crGStat n g) 28 true).setBit
    (Reg.crGStat n g) 19 false
  s2.setCrg n g { s2.crg n g with egress := [], ctl := [], missing := [], move := none, eqPend := none, dlpWait := false }

/-- Every group in use of every tile whose link is not off fails (R456, REF156B). -/
def State.crFailAll (s : State) : State :=
  s.each ((List.range 8).filter (fun n => s.domOn (domCr n) && s.crLink n ≠ 0)) (fun t n =>
    t.each ((List.range 8).filter (fun g => grpWidth (t.grpWord n g) ≠ 0)) (fun u g => u.grpFail n g))

/-! ### Operations of the link (R445–R448) -/

/-- The ticket of the operation in progress ends. -/
def State.crTktEnd (s : State) (n st err : Nat) : State :=
  (s.tktEnd? (s.crt n).ticket st err).setCrt n { s.crt n with ticket := none }

/-- Op 1: every lane of a group in use begins training. -/
def State.crTrain (s : State) (n : Nat) (ticket : Option Nat) : State :=
  let s1 := s.each ((List.range 8).flatMap (fun g => grpLanes (s.grpWord n g))) (fun t l =>
    if t.laneSt n l = 0 then t.setLaneSt n l 1 else t)
  ((s1.setLink n 1).setCrt n { s1.crt n with groups := [], ticket := ticket }).tktActive? ticket

/-- Op 0: every lane off. -/
def State.crOff (s : State) (n : Nat) : State :=
  let s1 := (s.retiresOwed n).crTktEnd n 3 stBadState
  let s2 := s1.each (List.range 16) (fun t l => t.wr (Reg.crLStat n l) 0)
  let s3 := s2.each (List.range 8) (fun t g => t.wr (Reg.crGStat n g) 0)
  (s3.setLink n 0).setCrt n {}

/-- The lanes enter deep low-power (R446). -/
def State.crDlp (s0 : State) (n : Nat) : State :=
  let s := s0.retiresOwed n
  let s1 := s.each (List.range 16) (fun t l =>
    let v := t.laneSt n l
    if v = 2 || v = 3 then ((t.setCrl n l { t.crl n l with before := v }).setLaneSt n l 5).setFld (Reg.crLStat n l) 25 24 0 else t)
  let s2 := s1.each (List.range 8) (fun t g =>
    (t.setFld (Reg.crGStat n g) 31 30 0).setCrg n g { t.crg n g with dlpWait := false, move := none })
  let s3 := { s2 with pw := { s2.pw with dlpTemp := SMap.put s2.pw.dlpTemp n (s2.pw.hot16 / 16) } }
  (s3.setLink n 3).crTktEnd n 2 0

/-- Op 2: DLP_ENTER on every group in service; with none, the lanes enter at once. -/
def State.crEnterDlp (s : State) (n : Nat) (ticket : Option Nat) : State :=
  let gs := (List.range 8).filter (fun g => s.inService n g)
  let s1 := (s.setCrt n { s.crt n with ticket := ticket }).tktActive? ticket
  let s2 := s1.each gs (fun t g => (t.crSendCtl n g 99 .dlpEnter).setCrg n g { (t.crSendCtl n g 99 .dlpEnter).crg n g with dlpWait := true })
  if gs.isEmpty then s2.crDlp n else s2

/-- Exit from deep low-power begins (R447): from the retained values, or by full training after a change of over 20 °C. -/
def State.crExit (s : State) (n : Nat) (ticket : Option Nat) : State :=
  let was := SMap.get s.pw.dlpTemp n 0
  let full := decide (20 < (s.pw.hot16 / 16 - was).natAbs)
  let s1 := (s.crTktEnd n 4 stSuperseded).tktActive? ticket
  (s1.setCrt n { s1.crt n with ticket := ticket, exiting := true, fullTrain := full }).setLink n 1

/-- CR_CTRL.OP or LINK_CONFIG on a tile whose CRn is on: 1 train, 2 enter deep low-power, 3 exit, 4 off. An op that the link's
state does not take has no effect, and its ticket fails with BAD_STATE; so has training with a block that R430 refuses, whichever
way the block was written (log entry 62). -/
def State.crOp (s : State) (n op : Nat) (ticket : Option Nat) : State :=
  let refuse := s.tktEnd? ticket 3 stBadState
  match op with
  | 1 =>
    if !cfgAccepted ((List.range 16).map (fun k => s.rd (Reg.crCfg n k))) then s.tktEnd? ticket 3 stBadParam
    else if s.crLink n = 0 then s.crTrain n ticket else refuse
  | 2 => if s.crLink n = 2 then s.crEnterDlp n ticket else refuse
  | 3 => if s.crLink n = 3 then s.crExit n ticket else refuse
  | 4 => (s.crOff n).tktEnd? ticket 2 0
  | _ => s

/-- LINK_CONFIG op 1 with its block: refused blocks change nothing (R430). -/
def State.crConfig (s : State) (n : Nat) (ws : List Nat) (ticket : Option Nat) : State :=
  if !cfgAccepted ws then s.tktEnd? ticket 3 stBadParam
  else if s.crLink n ≠ 0 then s.tktEnd? ticket 3 stBadState
  else (s.each ws.zipIdx (fun t w => t.wrFields (Reg.crCfg n w.2) w.1)).crTrain n ticket

/-- LINK_CONFIG op 1 on a tile whose CRn may be off: the domain wakes first (R463). -/
def State.linkTrain (s : State) (n : Nat) (ws : List Nat) (ticket : Option Nat) : State :=
  if s.domOn (domCr n) then s.crConfig n ws ticket
  else if !cfgAccepted ws then s.tktEnd? ticket 3 stBadParam
  else
    let s1 := s.setCrt n { s.crt n with waitOp := some (1, ws.map (BitVec.ofNat 32)), ticket := ticket }
    s1.domWake (domCr n)

/-- LANE_LOOPBACK's work (R448, R449): whether the lane's state takes it. -/
def State.laneLoop (s : State) (n l kind : Nat) : State × Bool :=
  let v := s.laneSt n l
  if kind = 0 then (if v = 6 then (s.wr (Reg.crLStat n l) 0, true) else (s, false))
  else if v = 0 || v = 4 then (((s.setLaneSt n l 6).setFld (Reg.crLStat n l) 27 26 kind), true)
  else (s, false)

/-- Lane and kind pairs of loopbacks that waited. -/
def State.loopsRun (s : State) (n : Nat) : List Nat → State
  | l :: k :: rest => ((s.laneLoop n l k).1).loopsRun n rest
  | _ => s

/-- The CRn domain is up: what waited for it runs: 1 a configuration, 2 and 3 the ops of those codes, 6 loopbacks (R463). -/
def State.crUp (s : State) (n : Nat) : State :=
  match (s.crt n).waitOp with
  | some (op, ws) =>
    let t := (s.crt n).ticket
    let s1 := s.setCrt n { s.crt n with waitOp := none, ticket := none }
    if op = 1 then s1.crConfig n (ws.map BitVec.toNat) t
    else if op = 6 then s1.loopsRun n (ws.map BitVec.toNat)
    else s1.crOp n op t
  | none => s

/-- CR_CTRL_TRAIN (R445). -/
def execCrCtrlTrain (n : Tile) (s : State) : Out := s.when (s.domOn (domCr n)) (s.crOp n 1 none)
/-- CR_CTRL_ENTER_DLP (R446). -/
def execCrCtrlEnterDlp (n : Tile) (s : State) : Out := s.when (s.domOn (domCr n)) (s.crOp n 2 none)
/-- CR_CTRL_EXIT (R447). -/
def execCrCtrlExit (n : Tile) (s : State) : Out := s.when (s.domOn (domCr n)) (s.crOp n 3 none)
/-- CR_CTRL_OFF (R448). -/
def execCrCtrlOff (n : Tile) (s : State) : Out := s.when (s.domOn (domCr n)) (s.crOp n 4 none)

/-- One group at the end of training or of an exit: state of its lanes, service, tag check (R445 steps 4–7); an exit from the
retained values makes no tag check (R447). -/
def State.grpTrained (s : State) (n g laneOk tag : Nat) (exiting full : Bool) : State :=
  let w := s.grpWord n g
  let ok := fun l => bitOf laneOk l && s.laneSt n l ≠ 4 && decide (s.fld (Reg.crLStat n l) 23 16 ≤ 64)
  let want := bitsOf w 31 16
  let idBad := full && want ≠ 0 && want ≠ tag
  let s1 := if full then s.setFld (Reg.crGStat n g) 15 0 tag else s
  let s2 := if idBad then (s1.setBit (Reg.crGStat n g) 18 true).event 0x0A04 5 (crLoc n g 0) tag else s1
  let before := fun l => (s.crl n l).before
  let carries := (grpData w).filter (fun l => !(exiting && (before l = 0 || before l = 4 || s.laneSt n l = 4 || s.laneSt n l = 0)))
  if carries.all ok && !idBad && !(exiting && s.bit (Reg.crGStat n g) 28) then
    let s3 := s2.each carries (fun t l => (t.setLaneSt n l 2).setFld (Reg.crLStat n l) 25 24 3)
    let s4 := (s3.setBit (Reg.crGStat n g) 31 true).setBit (Reg.crGStat n g) 28 false
    match grpSpare w with
    | some k =>
      let good := ok k && !(exiting && s.laneSt n k = 4)
      if good && exiting && s.spareUsed n g then (s4.setLaneSt n k 2).setFld (Reg.crLStat n k) 25 24 3
      else if good then ((s4.setLaneSt n k 3).setFld (Reg.crLStat n k) 25 24 3).setBit (Reg.crGStat n g) 30 true
      else if exiting && s.spareUsed n g then s4.grpFail n g
      else (s4.setLaneSt n k 4).setBit (Reg.crGStat n g) 30 false
    | none => s4
  else s2.grpFail n g

/-- LINK_TRAINING_COMPLETE (R445, R447): `laneOk` names the lanes that passed, `peerTags` the tags received by group. -/
def execLinkTrainingComplete (n : Tile) (laneOk : BitVec 16) (peerTags : List (BitVec 16)) (s : State) : Out :=
  let gs := (List.range 8).filter (fun g => grpWidth (s.grpWord n g) ≠ 0)
  let exiting := (s.crt n).exiting
  let s1 := s.each gs (fun t g => t.grpTrained n g laneOk.toNat (peerTags.getD g 0).toNat exiting (!exiting || (s.crt n).fullTrain))
  let trained := ((List.range 16).filter (fun l => s1.laneSt n l = 2 || s1.laneSt n l = 3)).length
  let up := (gs.filter (fun g => s1.inService n g)).length
  let s2 := s1.setCrt n { s1.crt n with exiting := false, fullTrain := false }
  let s3 := (s2.setLink n 2).tktProgress? (s.crt n).ticket trained up
  s.when (s.domOn (domCr n) && s.crLink n = 1) (s3.crTktEnd n 2 (if up < gs.length then stNoResource else 0))

/-- DLP_ENTER received (R446): it is acknowledged. -/
def execDlpEnter (n g : Tile) (s : State) : Out :=
  s.when (s.domOn (domCr n) && s.inService n g) (s.crSendCtl n g 99 .dlpAck)

/-- DLP_ACK (R446): once every group has answered, the lanes enter deep low-power. -/
def execDlpAck (n g : Tile) (s : State) : Out :=
  let s1 := s.setCrg n g { s.crg n g with dlpWait := false }
  s.when (s.domOn (domCr n) && (s.crg n g).dlpWait)
    (if (List.range 8).any (fun k => (s1.crg n k).dlpWait) then s1 else s1.crDlp n)

/-- DLP_ACK_TIMEOUT (R446). -/
def execDlpAckTimeout (n : Tile) (s : State) : Out :=
  let gs := (List.range 8).filter (fun g => (s.crg n g).dlpWait)
  s.when (s.domOn (domCr n) && !gs.isEmpty) ((s.each gs (fun t g => t.event 0x0A05 3 (crLoc n g 0) (t.peerTag n g))).crDlp n)

/-- DLP_EXIT_DETECT (R447). -/
def execDlpExitDetect (n : Tile) (s : State) : Out := s.when (s.domOn (domCr n) && s.crLink n = 3) (s.crExit n none)

/-! ### Egress and blocks (R425–R428, R432, R450, R451) -/

/-- A bundle at the egress of tile m's group g: buffered, or discarded and counted; `none` when it waits for room. A group that
trains keeps its bundles until it is in service; one that is not in use, or whose link is off, has none (log entry 62). -/
def State.egressPut (s : State) (m g : Nat) (b : CrSlot) : Option State :=
  if s.domOn (domCr m) && s.crLink m ≠ 0 && grpWidth (s.grpWord m g) ≠ 0 && !s.bit (Reg.crGStat m g) 28 then
    if 4096 ≤ (s.crg m g).egress.length then none
    else
      let s1 := s.setCrg m g { s.crg m g with egress := (s.crg m g).egress ++ [b] }
      some (if s.crLink m = 3 then s1.crExit m none else s1)
  else some (if s.domOn (domCr m) then s.count (Reg.crEgrStat m) 15 0 1 else s)

/-- A bundle sent through egress entry e of tile n. -/
def State.egressVia (s : State) (n e cyc : Nat) (v : Word) : Option State :=
  let r := Reg.crEgr n e
  if !s.domOn (domCr n) then some s
  else if s.bit r 31 then s.egressPut (s.fld r 30 28) (s.fld r 26 24) ⟨s.fld r 11 0, cyc, v⟩
  else some (s.count (Reg.crEgrStat n) 15 0 1)

/-- COURIER_EGRESS (R450, R451): an EXT bundle reaches the egress; with the buffer full it waits. -/
def execCourierEgress (index : Nat) (s : State) : Out :=
  match s.fab.extOut[index]? with
  | none => .next s
  | some q =>
    let s1 := { s with fab := { s.fab with extOut := s.fab.extOut.eraseIdx index } }
    match s1.egressVia (bpTile q.src) q.route (q.cycle % 256) q.value with
    | some t => .next t
    | none => .next s

/-- Payload of a block (R426, R427), and its header. -/
def slotBits (x : CrSlot) : Nat := x.data.toNat + x.tag % 4096 * 2 ^ 32 + x.cyc % 256 * 2 ^ 48 + 2 ^ 63
def blkBits : CrBlk → Nat × Nat
  | .bundles xs => (1, (xs.zipIdx.map (fun e => slotBits e.1 * 2 ^ (64 * e.2))).sum)
  | .idle => (2, 0)
  | .marker i c l g t m => (2, 1 * 2 ^ 248 + i % 2 ^ 32 * 2 ^ 216 + c % 16 * 2 ^ 212 + l % 16 * 2 ^ 208 + g % 8 * 2 ^ 205 +
      t % 65536 * 2 ^ 184 + m % 16 * 2 ^ 180)
  | .replayReq l i f n => (2, 2 * 2 ^ 248 + l % 16 * 2 ^ 244 + i % 2 ^ 32 * 2 ^ 212 + f % 16384 * 2 ^ 198 + n % 16384 * 2 ^ 184)
  | .takeoverReq l => (2, 3 * 2 ^ 248 + l % 16 * 2 ^ 244)
  | .takeoverAck l => (2, 4 * 2 ^ 248 + l % 16 * 2 ^ 244)
  | .handback l => (2, 5 * 2 ^ 248 + l % 16 * 2 ^ 244)
  | .eqReq l t st => (2, 6 * 2 ^ 248 + l % 16 * 2 ^ 244 + t % 16 * 2 ^ 240 + unsignedOf 8 st * 2 ^ 232)
  | .eqAck l t v => (2, 7 * 2 ^ 248 + l % 16 * 2 ^ 244 + t % 16 * 2 ^ 240 + unsignedOf 8 v * 2 ^ 232)
  | .dlpEnter => (2, 8 * 2 ^ 248)
  | .dlpAck => (2, 9 * 2 ^ 248)

/-- A block as it leaves a lane of tile n, at block index b of its interval (R324). -/
def State.blkWire (s : State) (n b : Nat) (x : CrBlk) : Nat :=
  let (h, p) := blkBits x
  let mixed := ((List.range 4).map (fun j =>
    let w := p / 2 ^ (64 * j) % 2 ^ 64
    (if s.bit Reg.icCrEn n then s.crMix b j w else w) * 2 ^ (64 * j))).sum
  h + 4 * mixed

/-- A block leaves a lane. -/
def State.laneOut (s : State) (n l b : Nat) (x : CrBlk) : State := s.setCrl n l { s.crl n l with out := s.blkWire n b x }

/-- A block sent on lane l: it leaves the lane and enters its replay buffer. -/
def State.laneSend (s : State) (n l interval b : Nat) (x : CrBlk) : State :=
  let t := s.laneOut n l b x
  t.setCrl n l { t.crl n l with replay := ((interval, b, x) :: (t.crl n l).replay).take 16384 }

/-- A block of data lane l's stream: it enters that lane's replay buffer, leaves the lane that carries the stream, and leaves the
spare too while that mirrors l (R434, R436, R438). -/
def State.streamSend (s : State) (n g l interval b : Nat) (x : CrBlk) : State :=
  let w := s.grpWord n g
  let s1 := (s.setCrl n l { s.crl n l with replay := ((interval, b, x) :: (s.crl n l).replay).take 16384 }).laneOut n (s.carrier n g l) b x
  match grpSpare w with
  | some k => if s.spareOk n g && (grpData w)[interval % max 1 (grpWidth w)]? = some l then s1.laneOut n k b x else s1
  | none => s1

/-- BLOCK_SEND (R432): the next block of a group's stream: a control block queued for its lane, up to four bundles, or IDLE. -/
def execBlockSend (n g : Tile) (s : State) : Out :=
  let q := s.crg n g
  let ls := grpData (s.grpWord n g)
  let l := ls.getD (q.seq % max 1 ls.length) 0
  let last := decide (q.seq % max 1 ls.length + 1 = ls.length)
  let step := fun (c : CrGroup) => { c with seq := q.seq + 1, block := if last then q.block + 1 else q.block }
  let p := s.carrier n g l
  let res := match q.ctl.find? (fun e => e.1 = l || e.1 = p || e.1 = 99) with
    | some e => (s.setCrg n g (step { q with ctl := q.ctl.erase e })).streamSend n g l q.interval q.block e.2
    | none =>
      if q.egress.isEmpty then (s.setCrg n g (step q)).streamSend n g l q.interval q.block .idle
      else (s.setCrg n g (step { q with egress := q.egress.drop 4 })).streamSend n g l q.interval q.block (.bundles (q.egress.take 4))
  s.when (s.domOn (domCr n) && s.inService n g && decide (1 ≤ q.block) && decide (q.block < 16384) && !ls.isEmpty) res

/-- MARKER_SEND (R428, R436): block 0 of an interval, on every lane of the group that is in service or tracking. -/
def execMarkerSend (n g : Tile) (s : State) : Out :=
  let q := s.crg n g
  let w := s.grpWord n g
  let ls := grpData w
  let k := if q.block = 0 then q.interval else q.interval + 1
  let tag := s.fld (Reg.crCfg n 10) 15 0
  let mark := fun (l m : Nat) => CrBlk.marker k (4 * k % 10) (l - bitsOf w 3 0) g tag m
  let s1 := s.setCrg n g { q with interval := k, block := 1 }
  let live := fun l => s.laneSt n l = 2 || s.laneSt n l = 3
  let s2 := s1.each (ls.filter live) (fun t l => t.laneSend n l k 0 (mark l 0))
  let s3 := match grpSpare w with
    | some l => if live l then s2.laneSend n l k 0 (mark l (if s.spareOk n g then k % max 1 ls.length else 0)) else s2
    | none => s2
  s.when (s.domOn (domCr n) && s.inService n g && (q.block = 0 || q.block = 16384)) s3

/-! ### Receive (R433–R437, R452) -/

/-- Header and TYPE of a block as a lane's decoder gives it: the payload's mix is removed first (R324, R425, R427). -/
def State.blkClear (s : State) (n b : Nat) (payload : BitVec 256) : Nat :=
  ((List.range 4).map (fun j =>
    let w := payload.toNat / 2 ^ (64 * j) % 2 ^ 64
    (if s.bit Reg.icCrEn n then s.crUnmix b j w else w) * 2 ^ (64 * j))).sum
def badHeader (x : BitVec 258) : Bool := x.toNat % 4 = 0 || x.toNat % 4 = 3
def State.badType (s : State) (n b : Nat) (x : BitVec 258) : Bool :=
  x.toNat % 4 = 2 && decide (10 ≤ s.blkClear n b (BitVec.ofNat 256 (x.toNat / 4)) / 2 ^ 248)

/-- The blocks of a codeword that decoded. -/
def cwBlocks : Codeword → List (BitVec 258)
  | .clean bs => bs
  | .corrected _ bs => bs
  | .uncorrectable => []

/-- CODEWORD_RECEIVE (R425, R427, R433, R436): ten blocks of a lane. A codeword that cannot be corrected, or that holds a block with
an invalid header, is uncorrectable (log entry 62): the spare's copy is used when it mirrors the lane and `mirrorOk` says that copy is
good, else the ten blocks are asked for again. On the mirroring spare `mirrorOk` says whether a clean codeword equals the one it
mirrors. -/
def execCodewordReceive (n : Tile) (lane : Fin 16) (cw : Codeword) (interval : Word) (first : BitVec 14) (mirrorOk : Bool)
    (s : State) : Out :=
  let l : Nat := lane
  let v := s.laneSt n l
  let g := (s.grpOf n l).getD 0
  let w := s.grpWord n g
  let k := s.carried n g l
  let mirrors := grpSpare w = some l && s.spareOk n g
  let mirrored := s.spareOk n g && (grpData w)[interval.toNat % max 1 (grpWidth w)]? = k && mirrorOk
  let bad := (match cw with | .uncorrectable => true | _ => false) || (cwBlocks cw).any badHeader
  let pos := first.toNat + 10
  let key := fun d => (d, interval.toNat, first.toNat)
  let q := s.crl n l
  let s1 := s.setCrl n l { q with window := (bad :: q.window).take 64 }
  let s2 := match k with
    | some d => s1.setCrl n d { s1.crl n d with
        next := if 16384 ≤ pos then (interval.toNat + 1, pos - 16384) else (interval.toNat, pos) }
    | none => s1
  let s3 := match cw with
    | .corrected e _ => (s2.setCrl n l { s2.crl n l with corrNow := (s2.crl n l).corrNow + e.val }).count (Reg.crLFec n l) 31 8 e
    | _ => s2
  let types := ((cwBlocks cw).zipIdx.filter (fun x => s.badType n (first.toNat + x.2) x.1)).length
  let s4 := if (s.grpOf n l).isSome then s3.count (Reg.crGCnt n g) 3 0 types else s3
  let res :=
    if bad then
      let u := s3.count (Reg.crLFec n l) 7 0 1
      match k with
      | some d =>
        if mirrored || !s.inService n g then u
        else (u.setCrg n g { u.crg n g with missing := (u.crg n g).missing ++ [key d] }).crSendCtl n g 99
          (.replayReq (d - bitsOf w 3 0) interval.toNat first.toNat 10)
      | none => u
    else
      let u := match k with
        | some d => s4.setCrg n g { s4.crg n g with missing := (s4.crg n g).missing.filter (· ≠ key d) }
        | none => s4
      match cw with
      | .clean _ =>
        if mirrors && !mirrorOk then (u.count (Reg.crGCnt n g) 15 8 1).event 0x0A02 4 (crLoc n g l) (u.peerTag n g) else u
      | _ => u
  s.when (s.domOn (domCr n) && (((s.grpOf n l).isSome && decide (1 ≤ v) && decide (v ≤ 3)) || v = 6)) res

/-- Slot j of a bundle block's payload (R426), when it is in use. -/
def slotAt (p j : Nat) : Option CrSlot :=
  let w := p / 2 ^ (64 * j) % 2 ^ 64
  if bitOf w 63 then some ⟨bitsOf w 43 32, bitsOf w 55 48, BitVec.ofNat 32 w⟩ else none

/-- One valid slot received by tile n (R452): delivered, relayed, or discarded and counted; `none` when a relay waits for room in the
egress buffer (R451). -/
def State.slotIn (s : State) (n : Nat) (x : CrSlot) : Option State :=
  let lo := s.rd (Reg.crIngLo n x.tag)
  let hi := s.rd (Reg.crIngHi n x.tag)
  let dst := bpIx (bitsOf hi 30 28) (bitsOf hi 27 22) (bitsOf hi 21 20)
  if !bitOf lo 31 then some (s.count (Reg.crIngStat n) 15 0 1)
  else if bitOf lo 30 then s.egressVia n (bitsOf lo 10 0) x.cyc x.data
  else if !bitOf hi 31 then some (s.count (Reg.crIngStat n) 15 0 1)
  else if x.cyc % 256 ≠ s.cycleNo dst % 256 then some (s.count (Reg.crIngStat n) 31 16 1)
  else some { s with fab := { s.fab with bundles := s.fab.bundles ++ [⟨2 ^ 20, dst, bitsOf lo 6 1, x.data, bitsOf lo 29 18⟩] } }

/-- The slots of a block in their order. -/
def State.slotsIn (s : State) (n : Nat) : List CrSlot → Option State
  | [] => some s
  | x :: xs => match s.slotIn n x with | some t => t.slotsIn n xs | none => none

/-- A data lane's skew is within what the deskew buffer absorbs (R429). -/
def State.deskewed (s : State) (n g : Nat) : Bool :=
  (grpData (s.grpWord n g)).all (fun d => decide (s.fld (Reg.crLStat n (s.carrier n g d)) 23 16 ≤ 64))

/-- BUNDLE_BLOCK_RECEIVE (R324, R426, R429, R433, R452): the next block of the group's stream in order, with its index in its interval
and its payload as received. It waits while blocks before it are under recovery, while a lane is held out for its skew, and while a
relay of one of its slots finds the egress buffer full. -/
def execBundleBlockReceive (n g : Tile) (block : BitVec 14) (payload : BitVec 256) (s : State) : Out :=
  let p := s.blkClear n block.toNat payload
  s.when (s.domOn (domCr n) && s.inService n g && (s.crg n g).missing.isEmpty && s.deskewed n g)
    ((s.slotsIn n ((List.range 4).filterMap (slotAt p))).getD s)

/-- IDLE (R427): dropped. -/
def execIdle (_n _g : Tile) (s : State) : Out := .next s

/-- MARKER (R428, R429, R436): alignment, skew, the peer's tag and, on the spare, the lane mirrored; a spare whose skew cannot be
absorbed does not track. -/
def execMarker (n : Tile) (lane : Fin 16) (interval : Word) (cwPos : Fin 16) (skew : Byte) (peerTag : BitVec 16) (mirror : Fin 16)
    (s : State) : Out :=
  let l : Nat := lane
  let g := (s.grpOf n l).getD 0
  let lock := cwPos.val = 4 * interval.toNat % 10 && decide (skew.toNat ≤ 64)
  let s1 := (s.setBit (Reg.crLStat n l) 24 lock).setFld (Reg.crLStat n l) 23 16 skew.toNat
  let s2 := if 64 < skew.toNat && decide (s.fld (Reg.crLStat n l) 23 16 ≤ 64) then s1.event 0x0A01 4 (crLoc n g l) peerTag.toNat else s1
  let s3 := s2.setFld (Reg.crGStat n g) 15 0 peerTag.toNat
  let s4 := if grpSpare (s.grpWord n g) = some l && s.spareOk n g then
      s3.setFld (Reg.crGStat n g) 23 20 (bitsOf (s.grpWord n g) 3 0 + mirror) else s3
  let s5 := if grpSpare (s.grpWord n g) = some l && s.laneSt n l = 3 then s4.setBit (Reg.crGStat n g) 30 (decide (skew.toNat ≤ 64)) else s4
  s.when (s.domOn (domCr n) && (s.grpOf n l).isSome && decide (1 ≤ s.laneSt n l) && decide (s.laneSt n l ≤ 3)) s5

/-! ### Failure and takeover (R437–R440, R443) -/

/-- An adaptation step is undone (R443): old taps, and the lane's stream back on its own pair. -/
def State.moveUndo (s : State) (n g : Nat) : State :=
  match (s.crg n g).move with
  | some m =>
    if m.kind = 2 then
      let s1 := s.setCrl n m.lane { s.crl n m.lane with taps := SMap.put (s.crl n m.lane).taps m.tap m.oldTap }
      let s2 := (s1.setCrg n g { s1.crg n g with move := none }).setBit (Reg.crGStat n g) 19 false
      if m.acked then (s2.spareBack n g).crSendCtl n g 99 (.handback (m.lane - bitsOf (s.grpWord n g) 3 0)) else s2
    else s
  | none => s

/-- A lane fails. -/
def State.laneFail (s : State) (n g l : Nat) : State :=
  let w := s.grpWord n g
  let s0 := (s.setFld (Reg.crLStat n l) 25 24 0).moveUndo n g
  if grpSpare w = some l then
    if s0.spareUsed n g || (s0.crg n g).move.isSome then s0.grpFail n g
    else (s0.setLaneSt n l 4).setBit (Reg.crGStat n g) 30 false
  else if s0.spareOk n g && (s0.crg n g).move.isNone then
    ((s0.setLaneSt n l 4).setCrg n g { s0.crg n g with move := some { lane := l, kind := 0 } }).takeoverAsk n g l
  else s0.grpFail n g

/-- LANE_FAILURE (R437): loss of lock or signal, or four uncorrectable codewords among 64. -/
def execLaneFailure (n : Tile) (lane : Fin 16) (why : LaneFault) (s : State) : Out :=
  let l : Nat := lane
  let g := (s.grpOf n l).getD 0
  let true' := match why with
    | .codewords => decide (4 ≤ ((s.crl n l).window.filter id).length)
    | _ => true
  s.when (s.domOn (domCr n) && (s.grpOf n l).isSome && (s.laneSt n l = 2 || s.laneSt n l = 3) && true') (s.laneFail n g l)

/-- REPLAY_REQ (R434): the blocks of a data lane's stream are sent again on the lane that carries it, or the lane fails. -/
def execReplayReq (n g : Tile) (lane : Fin 16) (interval : Word) (first blocks : BitVec 14) (s : State) : Out :=
  let l := bitsOf (s.grpWord n g) 3 0 + lane
  let q := s.crl n l
  let want := (List.range blocks.toNat).map (fun j => (interval.toNat + (first.toNat + j) / 16384, (first.toNat + j) % 16384))
  let got := want.filterMap (fun p => q.replay.find? (fun e => e.1 = p.1 && e.2.1 = p.2))
  let sent := match got.getLast? with
    | some e => s.laneOut n (s.carrier n g l) e.2.1 e.2.2
    | none => s
  s.when (s.domOn (domCr n) && s.inService n g && (grpData (s.grpWord n g)).contains l && blocks ≠ 0)
    (if got.length = want.length then sent.count (Reg.crGCnt n g) 31 16 1 else s.laneFail n g l)

/-- TAKEOVER_REQ (R438 step 4): the spare's transmitter takes the lane's stream. -/
def execTakeoverReq (n g : Tile) (lane : Fin 16) (s : State) : Out :=
  let l := bitsOf (s.grpWord n g) 3 0 + lane
  let spare := (grpSpare (s.grpWord n g)).getD 99
  s.when (s.domOn (domCr n) && s.inService n g && s.spareOk n g && (grpData (s.grpWord n g)).contains l)
    ((s.spareTakes n g l).crSendCtl n g spare (.takeoverAck lane))

/-- HANDBACK (R442 step 4). -/
def execHandback (n g : Tile) (lane : Fin 16) (s : State) : Out :=
  let l := bitsOf (s.grpWord n g) 3 0 + lane
  s.when (s.domOn (domCr n) && s.inService n g && s.spareUsed n g && s.fld (Reg.crGStat n g) 27 24 = l) (s.spareBack n g)

/-! ### Adaptation (R442) -/

/-- The pause-window requester of a Courier group (R219). -/
def crRequester (n g : Nat) : Nat := 20 + 8 * n + g

/-- EQ_REQ (R442): the change waits for a pause window; a group with no spare in service makes none. -/
def execEqReq (n g : Tile) (lane : Fin 16) (tap : Fin 16) (step : Byte) (s : State) : Out :=
  let l := bitsOf (s.grpWord n g) 3 0 + lane
  let s1 := s.setCrg n g { s.crg n g with eqPend := some (l, tap, signedOf 8 step.toNat) }
  let k := crRequester n g
  s.when (s.domOn (domCr n) && s.inService n g && s.spareOk n g && (grpData (s.grpWord n g)).contains l && decide (tap.val ≤ 5))
    { s1 with so := { s1.so with pauseReq := if s1.so.pauseReq.contains k then s1.so.pauseReq else s1.so.pauseReq ++ [k] } }

/-- ADAPTATION_STEP (R442): in the window granted, the planned takeover of the lane begins. -/
def execAdaptationStep (n g : Tile) (s : State) : Out :=
  match (s.crg n g).eqPend with
  | some (l, tap, step) =>
    let old := SMap.get (s.crl n l).taps tap 0
    let s0 := { s with so := { s.so with pauseReq := s.so.pauseReq.filter (fun k => k ≠ crRequester n g), pauseGrant := none } }
    let s1 := s0.setCrg n g { s.crg n g with eqPend := none, move := some { lane := l, kind := 2, tap := tap, step := step, oldTap := old } }
    s.when (s.domOn (domCr n) && s.inService n g && s.spareOk n g && (s.crg n g).move.isNone && s.so.pauseGrant = some (crRequester n g))
      ((s1.setBit (Reg.crGStat n g) 19 true).takeoverAsk n g l)
  | none => .next s

/-- EQ_ACK (R442 steps 3 and 4): the stream returns to its own pair. -/
def execEqAck (n g : Tile) (lane : Fin 16) (tap : Fin 16) (value : Byte) (s : State) : Out :=
  let l := bitsOf (s.grpWord n g) 3 0 + lane
  match (s.crg n g).move with
  | some m =>
    let s1 := s.setCrl n l { s.crl n l with taps := SMap.put (s.crl n l).taps tap (signedOf 8 value.toNat) }
    let s2 := ((s1.setCrg n g { s1.crg n g with move := none }).setBit (Reg.crGStat n g) 19 false).spareBack n g
    s.when (s.domOn (domCr n) && m.kind = 2 && m.acked && m.lane = l && m.tap = tap.val) (s2.crSendCtl n g 99 (.handback lane))
  | none => .next s

/-- The request number of the first block of a lane not delivered, for the replay after a takeover (R438 step 5). -/
def State.firstMissing (s : State) (n g l : Nat) : Nat × Nat :=
  match (s.crg n g).missing.find? (fun e => e.1 = l) with
  | some e => (e.2.1, e.2.2)
  | none => (s.crl n l).next

/-- TAKEOVER_ACK's effect (R438 steps 5–7, R439, R442): the request of a LANE_RETIRE that it ends comes back with it. How many
blocks the replay request names is a free value (log entry 16). -/
def State.takeoverAck (s : State) (n g l ns : Nat) : State × Option VReq :=
  match (s.crg n g).move with
  | none => (s, none)
  | some m =>
    let s1 := s.spareTakes n g l
    if m.kind = 0 then
      let (i, b) := s.firstMissing n g l
      let rest := (s1.crg n g).missing.filter (fun e => e.1 ≠ l)
      let s2 := (s1.setCrg n g { s1.crg n g with move := none, missing := rest ++ [(l, i, b)] }).crSendCtl n g 99
        (.replayReq (l - bitsOf (s.grpWord n g) 3 0) i b (1 + s.freeVal 16383))
      (((s2.drawn.count (Reg.crGCnt n g) 7 4 1).wr (Reg.crGTkoNs n g) ns).event 0x0A03 4 (crLoc n g l) (s.peerTag n g), none)
    else if m.kind = 1 then
      ((s1.setLaneSt n l 0).setCrg n g { s1.crg n g with move := none, retire := none }, (s.crg n g).retire)
    else
      (s1.setCrl n l { s1.crl n l with taps := SMap.put (s1.crl n l).taps m.tap (m.oldTap + m.step) } |>.setCrg n g
        { s1.crg n g with move := some { m with acked := true } }, none)

/-- LANE_RETIRE's work (R439): 0 once the takeover has been asked for, else the status that answers the request. -/
def State.laneRetire (s : State) (n l : Nat) (q : VReq) : State × Nat :=
  match s.grpOf n l with
  | none => (s, stBadParam)
  | some g =>
    let w := s.grpWord n g
    if s.laneSt n l ≠ 2 || !(grpData w).contains l then (s, stBadParam)
    else if !s.spareOk n g || (s.crg n g).move.isSome then (s, stNoResource)
    else ((s.setCrg n g { s.crg n g with move := some { lane := l, kind := 1 }, retire := some q }).takeoverAsk n g l, 0)

end Sys2Proof.Machine
end

