-- ==== Sys2Proof/Machine/Franking.lean ====
section
/-!
DEFINITION. The Franking Unit: unlocked sequences, fuses, the battery-backed key and the signer slots (R153–R157, R268, R490).
-/
namespace Sys2Proof.Machine

/-- The key check value (R153): the first 4 bytes of the encryption of a block of zeros. The key's 32 bytes are those of
its 256-bit number, low byte first (log entry 52). -/
def kcvOf (key : Nat) : Nat := leAt (aesBytes (leBytes 32 key) (zeroBytes 16)) 0 4

/-- The number that staged words spell, word 0 lowest. -/
def stagedNum (m : SMap Word) (n : Nat) : Nat :=
  (List.range n).foldl (fun v w => v + (SMap.get m w 0).toNat * 2 ^ (32 * w)) 0

/-- FK_UNLOCK (R154, R268). -/
def State.fkUnlock (s : State) (mid key : Nat) : State :=
  if key = 0x4D59474B then { s with fk := { s.fk with unlocked := some mid } }.setBit Reg.fkStat 0 true else s

/-- The sequence ends. -/
def State.fkClose (s : State) : State := { s with fk := { s.fk with unlocked := none } }.setBit Reg.fkStat 0 false

/-- An action write: within the writer's own sequence it acts and ends it; outside it only sets LOCKED (R154, R268). -/
def State.fkAct (s : State) (mid : Nat) (f : State → State) : State :=
  if s.fk.unlocked = some mid then f s.fkClose else s.setBit Reg.fkStat 1 true

/-- Staging of both keys is cleared after every action (R155). -/
def State.fkClear (s : State) : State := { s with fk := { s.fk with fkeyStage := [], bkeyStage := [] } }

/-- PROG of the fuse key (R155): it fails on a key that is programmed, or is being programmed. -/
def State.fuseProg (s : State) : State :=
  if s.fk.fuseKey.isSome || s.fk.busy.isSome then (s.setBit Reg.fkFkeyStat 2 true).fkClear
  else
    (({ s with fk := { s.fk with busy := some 0, busyVal := stagedNum s.fk.fkeyStage 8 } }.setBit Reg.fkFkeyStat 1 true).setBit
      Reg.fkFkeyStat 2 false).fkClear

/-- The BKEY_FORBID fuse is programmed (R155). -/
def State.forbidBkey (s : State) : State := { s with fk := { s.fk with bkeyForbid := true } }.fkClear

/-- COMMIT: the staged key replaces the old one, unless forbidden (R155). -/
def State.bkeyCommit (s : State) : State :=
  if s.fk.bkeyForbid then s.fkClear
  else ({ s with fk := { s.fk with bkey := some (stagedNum s.fk.bkeyStage 8) } }.setBit Reg.fkBkeyStat 0 true).fkClear

/-- ERASE (R155). -/
def State.bkeyErase (s : State) : State :=
  ({ s with fk := { s.fk with bkey := none } }.setBit Reg.fkBkeyStat 0 false).fkClear

/-- PROG of a signer slot: it fails on a slot that is programmed (R156). -/
def State.imgProg (s : State) : State :=
  let k := s.fld Reg.fkImgSel 1 0
  if (SMap.find s.fk.imgSlots k).isSome then (s.setBit Reg.fkImgStat 8 true).fkClear
  else ({ s with fk := { s.fk with imgSlots := SMap.put s.fk.imgSlots k (stagedNum s.fk.imgStage 12) } }.setBit Reg.fkImgStat 8 false).fkClear

/-- REVOKE of a signer slot, once (R156). -/
def State.imgRevoke (s : State) : State :=
  let k := s.fld Reg.fkImgSel 1 0
  if s.fk.imgRevoked.contains k then (s.setBit Reg.fkImgStat 8 true).fkClear
  else ({ s with fk := { s.fk with imgRevoked := k :: s.fk.imgRevoked } }.setBit Reg.fkImgStat 8 false).fkClear

/-- The same for a firmware signer slot (R490). -/
def State.fwProg (s : State) : State :=
  let k := s.fld Reg.fkFwSel 0 0
  if (SMap.find s.fk.fwSlots k).isSome then (s.setBit Reg.fkFwStat 8 true).fkClear
  else ({ s with fk := { s.fk with fwSlots := SMap.put s.fk.fwSlots k (stagedNum s.fk.fwStage 12) } }.setBit Reg.fkFwStat 8 false).fkClear
def State.fwRevoke (s : State) : State :=
  let k := s.fld Reg.fkFwSel 0 0
  if s.fk.fwRevoked.contains k then (s.setBit Reg.fkFwStat 8 true).fkClear
  else ({ s with fk := { s.fk with fwRevoked := k :: s.fk.fwRevoked } }.setBit Reg.fkFwStat 8 false).fkClear

/-- FK_UNLOCK. -/
def execFkUnlock (mid : Byte) (key : Word) (s : State) : Out := s.when s.hubOn (s.fkUnlock mid.toNat key.toNat)

/-- UNLOCK_TIMEOUT (R154, R268): 10,000 cycles, which for a core count only while it runs. -/
def execUnlockTimeout (s : State) : Out :=
  let held := s.fk.unlocked.any (fun m => decide (m < 4) && s.bit (Reg.dbgCStat m) 0)
  s.when (s.hubOn && s.fk.unlocked.isSome && !held) s.fkClose

/-- FUSE_KEY_PROG (R155). -/
def execFuseKeyProg (mid : Byte) (s : State) : Out := s.when s.hubOn (s.fkAct mid.toNat State.fuseProg)

/-- FUSE_PROG_COMPLETE (R155). -/
def execFuseProgComplete (s : State) : Out :=
  s.when (s.hubOn && s.fk.busy.isSome)
    ({ s with fk := { s.fk with busy := none, fuseKey := some s.fk.busyVal, busyVal := 0 } }.setBit Reg.fkFkeyStat 1 false)

/-- FORBID_BKEY (R155). -/
def execForbidBkey (mid : Byte) (s : State) : Out := s.when s.hubOn (s.fkAct mid.toNat State.forbidBkey)

/-- BKEY_COMMIT (R155). -/
def execBkeyCommit (mid : Byte) (s : State) : Out := s.when s.hubOn (s.fkAct mid.toNat State.bkeyCommit)

/-- BKEY_ERASE (R155). -/
def execBkeyErase (mid : Byte) (s : State) : Out := s.when s.hubOn (s.fkAct mid.toNat State.bkeyErase)

/-- IMG_SLOT_PROG (R156). -/
def execImgSlotProg (mid : Byte) (s : State) : Out := s.when s.hubOn (s.fkAct mid.toNat State.imgProg)

/-- IMG_SLOT_REVOKE (R156). -/
def execImgSlotRevoke (mid : Byte) (s : State) : Out := s.when s.hubOn (s.fkAct mid.toNat State.imgRevoke)

/-- FW_SLOT_PROG (R490). -/
def execFwSlotProg (mid : Byte) (s : State) : Out := s.when s.hubOn (s.fkAct mid.toNat State.fwProg)

/-- FW_SLOT_REVOKE (R490). -/
def execFwSlotRevoke (mid : Byte) (s : State) : Out := s.when s.hubOn (s.fkAct mid.toNat State.fwRevoke)

/-- VBAT_LOSS (R157, R529): the key is lost and LOST sets; the loss is recorded at the next HUB power-up. -/
def execVbatLoss (s : State) : Out :=
  .next (({ s with fk := { s.fk with bkey := none, vbatOk := false, vbatLost := true } }.setBit Reg.fkBkeyStat 0 false).setBit
    Reg.fkBkeyStat 1 true)

end Sys2Proof.Machine
end

