-- ==== Sys2Proof/Machine/EventRec.lean ====
section
/-!
DEFINITION. The Event Recorder: merging, the full-log rules, clearing, flushes to the boot flash and readback (chapter 18).
-/
namespace Sys2Proof.Machine

/-! ### The log (R511, R512) -/

def logSlots : Nat := 8192

/-- How long ago a record was stored, in records: cursors count modulo 2^32. -/
def State.evAge (s : State) (r : EvRec) : Nat := (s.ev.cursor + 2 ^ 32 - r.cursor) % 2 ^ 32

/-- The entry that a comparison prefers, over a list. -/
def bestOf {α : Type} (better : α → α → Bool) : List α → Option α
  | [] => none
  | x :: xs => some (xs.foldl (fun m y => if better y m then y else m) x)

/-- Lowest severity present. -/
def State.evLowest (s : State) : Nat := (s.ev.slots.map (fun e => e.2.key.sev)).foldl min 7

/-- The newest record, with its slot, among those a test admits. -/
def State.evNewest (s : State) (p : Nat × EvRec → Bool) : Option (Nat × EvRec) :=
  bestOf (fun x y => decide (s.evAge x.2 < s.evAge y.2)) (s.ev.slots.filter p)

/-- The oldest record held. -/
def State.evOldest (s : State) : Option (Nat × EvRec) :=
  bestOf (fun x y => decide (s.evAge y.2 < s.evAge x.2)) s.ev.slots

/-- EV_STAT, EV_HELD, EV_NEXT and EV_OLDEST show the log. -/
def State.evShow (s : State) : State :=
  let low := if s.ev.slots.isEmpty then 0 else s.evLowest
  let s1 := ((s.setBit Reg.evStat 31 (decide (logSlots ≤ s.ev.slots.length))).setFld Reg.evStat 26 24 low).setFld
    Reg.evStat 13 0 (s.ev.dirty ++ s.ev.flushing.getD []).dedup.length
  ((s1.wr Reg.evHeld s.ev.slots.length).wr Reg.evNext s.ev.cursor).wr Reg.evOldest
    (match s.evOldest with | some e => e.2.cursor | none => s.ev.cursor)

/-- A slot is changed: it awaits a flush. -/
def State.evDirty (s : State) (slot : Nat) : State :=
  { s with ev := { s.ev with dirty := if s.ev.dirty.contains slot then s.ev.dirty else s.ev.dirty ++ [slot] } }

/-- A record written into a slot under the next cursor. -/
def State.evPut (s : State) (slot : Nat) (r : EvRec) : State :=
  ({ s with ev := { s.ev with
    slots := SMap.put s.ev.slots slot { r with cursor := s.ev.cursor }
    cursor := (s.ev.cursor + 1) % 2 ^ 32 } }).evDirty slot

/-- The lowest free slot. -/
def State.evFree (s : State) : Option Nat :=
  if logSlots ≤ s.ev.slots.length then none
  else (List.range logSlots).find? (fun k => (SMap.find s.ev.slots k).isNone)

/-- A held record is overwritten: its repeats are counted (R512, R331). -/
def State.evOver (s : State) (slot : Nat) (old r : EvRec) : State :=
  ({ s with ev := { s.ev with
    overwritten := (s.ev.overwritten + old.rep) % 2 ^ 32
    last := if s.ev.last = some slot then none else s.ev.last } }).evPut slot r

/-- The full-log rules (R512): the state, and the slot the record went to. `keep` is the slot of the record that a
continuation continues; a continuation is never discarded: it overwrites the newest of the least severe other records (R510). -/
def State.evStore (s : State) (r : EvRec) (keep : Option Nat) : State × Option Nat :=
  match s.evFree with
  | some k => (s.evPut k r, some k)
  | none =>
    let m := ((s.ev.slots.filter (fun e => some e.1 ≠ keep)).map (fun e => e.2.key.sev)).foldl min 7
    if m < r.key.sev || keep.isSome then
      match s.evNewest (fun e => e.2.key.sev = m && some e.1 ≠ keep) with
      | some (k, old) => (s.evOver k old r, some k)
      | none => (s, none)
    else (({ s with ev := { s.ev with discarded := (s.ev.discarded + 1) % 2 ^ 32 } }).count Reg.evDisc 31 0 1, none)

/-- A repeat of the record in a slot (R509, R510): the state, and the slot that now carries the KEY. -/
def State.evRepeat (s : State) (slot : Nat) (r : EvRec) (mark : Postmark) (epoch : Nat) : State × Nat :=
  if r.rep < 0xFFFFF then
    (({ s with ev := { s.ev with slots := SMap.put s.ev.slots slot { r with rep := r.rep + 1 } } }).evDirty slot, slot)
  else
    let (t, k) := s.evStore { r with cont := true, rep := 1, mark := mark, epoch := epoch } (some slot)
    (t, k.getD slot)

/-- One event of the closing epoch (R509). -/
def State.evTake (s : State) (e : EvIn) : State :=
  let fresh : State :=
    let (t, k) := s.evStore { key := e.key, detail := e.detail, cont := false, mark := e.mark, rep := 1, epoch := e.epoch, cursor := 0 } none
    match k with
    | some slot => { t with ev := { t.ev with last := some slot } }
    | none => t
  let merged : State :=
    if e.merge then
      match s.evNewest (fun x => x.2.key = e.key && x.2.epoch = e.epoch) with
      | some (slot, r) => (s.evRepeat slot r e.mark e.epoch).1
      | none => fresh
    else fresh
  match s.ev.last with
  | some slot =>
    match SMap.find s.ev.slots slot with
    | some r =>
      if r.key = e.key then
        let (t, k) := s.evRepeat slot r e.mark e.epoch
        { t with ev := { t.ev with last := some k } }
      else merged
    | none => merged
  | none => merged

/-- A LOG_CLEAR of level `lv` is carried out (R514): the state and the number of records cleared. -/
def State.evClear (s : State) (lv : Nat) : State × Nat :=
  let gone := s.ev.slots.filter (fun e => decide (e.2.key.sev ≤ lv))
  let s1 := { s with ev := { s.ev with
    slots := s.ev.slots.filter (fun e => decide (lv < e.2.key.sev))
    cleared := (s.ev.cleared + (gone.map (fun (e : Nat × EvRec) => e.2.rep)).sum) % 2 ^ 32
    last := if s.ev.last.any (fun k => gone.any (fun e => e.1 = k)) then none else s.ev.last } }
  (s1.each (gone.map Prod.fst) (fun t k => t.evDirty k), gone.length)

/-! ### Flushes (R515–R517) -/

/-- The active half, and a half replaced. -/
def State.evHalf (s : State) (b : Bool) : EvHalf := if b then s.ev.halfB else s.ev.halfA
def State.setHalf (s : State) (b : Bool) (h : EvHalf) : State :=
  if b then { s with ev := { s.ev with halfB := h } } else { s with ev := { s.ev with halfA := h } }
def State.evActive (s : State) : Bool := s.bit Reg.evStat 28

/-- Bytes of a batch of the given slots: 260 for a slot that holds a record, 4 for a freed one. -/
def State.evBatch (s : State) (xs : List Nat) : Nat :=
  16 + (xs.map (fun k => if (SMap.find s.ev.slots k).isSome then 260 else 4)).sum

/-- Whether the next flush writes a checkpoint to the other half: less than 2.1 MiB free, no valid half, or a failure. -/
def State.evWantCkpt (s : State) : Bool :=
  s.ev.nextCkpt || !(s.evHalf s.evActive).valid || decide (0x2000000 < (s.evHalf s.evActive).used + 2202010)

/-- A flush starts (R516), or waits for the other half to be erased (R515). A flush at entry to mode 4 or 11 goes in
descending severity, then ascending cursor. -/
def State.flushStart (s : State) (forMode : Bool) : State :=
  if s.ev.flushing.isSome || s.ev.flashDead || !s.bit Reg.evStat 29 then s
  else if s.evWantCkpt && !(s.evHalf (!s.evActive)).erased then { s with ev := { s.ev with flushWait := true } }
  else
    let ck := s.evWantCkpt
    ({ s with ev := { s.ev with
      flushing := some (if ck then List.range logSlots else s.ev.dirty)
      dirty := [], flushWait := false, flushMode := forMode, ckpt := ck, sinceFlush := 0 } }).evShow

/-- The slots of a flush reach the flash. -/
def State.evProgram (s : State) (b : Bool) (xs : List Nat) : State :=
  let h := s.evHalf b
  if s.ev.ckpt then
    s.setHalf b { valid := true, gen := (s.evHalf (!b)).gen + 1, ckpt := s.ev.slots, batches := [], erased := false, used := s.evBatch xs }
  else
    s.setHalf b { h with
      valid := true, erased := false, used := h.used + s.evBatch xs
      batches := h.batches ++ [xs.map (fun k => (k, SMap.find s.ev.slots k))] }

/-- The end of a flush: FLUSH reads 0 and EV_FLUSH_EPOCH is loaded (R516). -/
def State.flushEnd (s : State) : State :=
  ((({ s with ev := { s.ev with flushing := none, flushMode := false, ckpt := false } }).setBit Reg.evCtrl 31 false).wr
    Reg.evFlushEpoch (s.rd Reg.mrEpochLo)).evShow

/-- The last program of a flush completes. -/
def State.flushDone (s : State) (xs : List Nat) : State :=
  let b := if s.ev.ckpt then !s.evActive else s.evActive
  let s1 := s.evProgram b xs
  let old := s1.evHalf (!b)
  let s2 := if s.ev.ckpt then ((s1.setHalf (!b) { old with valid := false, erased := false }).setBit Reg.evStat 28 b) else s1
  ({ s2 with ev := { s2.ev with nextCkpt := false } }).flushEnd

/-- A program or erase fails (R517): flushing moves to the other half by a checkpoint, and stops when that also fails. -/
def State.flushFail (s : State) (xs : List Nat) : State :=
  let b := if s.ev.ckpt then !s.evActive else s.evActive
  let s1 := ({ s with ev := { s.ev with
    dirty := (s.ev.dirty ++ xs).dedup, flashDead := s.ev.ckpt, nextCkpt := true } }).setBit Reg.evStat 30 true
  (s1.flushEnd).event 0x0C02 5 (b2n b) 0

/-- What follows step 2 of an epoch (R516): a flush when one is due. -/
def State.flushCheck (s : State) (severe : Bool) : State :=
  let due := max 1 (s.fld Reg.evCtrl 15 0)
  if severe || decide (256 ≤ s.ev.dirty.length) || decide (due ≤ s.ev.sinceFlush) || s.ev.flushWait then s.flushStart false else s

/-- Step 2 of R32: clears first, then the events of the closing epoch in arrival order, then a flush when one is due. -/
def State.evMerge (s : State) : State :=
  if s.bit Reg.evStat 29 then
    let s1 := s.each s.ev.clears (fun t c =>
      let (u, k) := t.evClear c.1
      (u.tktProgress c.2 k 0).tktEnd c.2 2 0)
    let (s2, severe) := s.ev.intake.foldl (fun (acc : State × Bool) e =>
      let u := acc.1.evTake e
      (u, acc.2 || (decide (5 ≤ e.key.sev) && u.ev.discarded = acc.1.ev.discarded)))
      ({ s1 with ev := { s1.ev with clears := [], intake := [] } }, false)
    let s3 := { s2 with ev := { s2.ev with sinceFlush := s2.ev.sinceFlush + 1 } }
    (s3.flushCheck severe).evShow
  else s

/-! ### Commands -/

/-- EVENT_INTAKE (R508): a unit, or firmware through its event port, sends an event. -/
def execEventIntake (typ : BitVec 16) (sev : Fin 8) (loc ctx : Word) (addr : BitVec 48) (detail : List Word) (merge : Bool)
    (s : State) : Out :=
  .next (s.event typ.toNat sev loc.toNat ctx.toNat addr.toNat (detail.map BitVec.toNat) merge)

/-- A write of 1 to EV_CTRL.FLUSH. -/
def State.evFlushWrite (s : State) : State := (s.setBit Reg.evCtrl 31 true).flushStart false

/-- EV_FLUSH_WRITE (R516). -/
def execEvFlushWrite (s : State) : Out := s.when s.hubOn s.evFlushWrite

/-- Whether an entry to mode 4 or 11 has come to its flush: every run has stopped (R465, R471). -/
def State.modeFlushDue (s : State) : Bool :=
  match s.pw.chg with
  | some c => (c.req.target = 4 || c.req.target = 11) && !c.flushed && s.so.runs.all (fun e => e.2.stops.isEmpty)
  | none => false

/-- LOG_FLUSH_START (R516): a cause other than a write of FLUSH; an entry to mode 4 or 11 among them. -/
def execLogFlushStart (s : State) : Out :=
  let marked := { s with pw := { s.pw with chg := s.pw.chg.map (fun (c : ModeChg) => { c with flushed := true }) } }
  if s.modeFlushDue then s.when (s.hubOn && s.ev.flushing.isNone && s.bit Reg.evStat 29 && !s.ev.flashDead) (marked.flushStart true)
  else s.when (s.hubOn && (decide (256 ≤ s.ev.dirty.length) || decide (max 1 (s.fld Reg.evCtrl 15 0) ≤ s.ev.sinceFlush) || s.ev.flushWait))
    (s.flushStart false)

/-- LOG_FLUSH_STOP (R516): a flush at entry to mode 4 or 11 stops after 400 ms. The slots come in descending severity,
then ascending cursor; how many were written by then is a free value (log entry 10). -/
def execLogFlushStop (s : State) : Out :=
  match s.ev.flushing with
  | some xs =>
    let before := fun a b => match SMap.find s.ev.slots a, SMap.find s.ev.slots b with
      | some x, some y => decide (y.key.sev < x.key.sev) || (x.key.sev = y.key.sev && decide (s.evAge y ≤ s.evAge x))
      | some _, none => true
      | none, some _ => false
      | none, none => decide (a ≤ b)
    let k := s.freeVal (xs.length + 1)
    s.when (s.hubOn && s.ev.flushMode)
      (((({ s with ev := { s.ev with ckpt := false } }).evProgram s.evActive ((xs.mergeSort before).take k)).flushEnd).drawn)
  | none => .next s

/-- LOG_HALF_ERASE_COMPLETE (R515). -/
def execLogHalfEraseComplete (s : State) : Out :=
  let b := !s.evActive
  let s1 := s.setHalf b { erased := true, gen := (s.evHalf b).gen }
  s.when (s.hubOn && !(s.evHalf b).erased) (if s1.ev.flushWait then s1.flushStart false else s1)

/-- The log that a half holds, up to its first batch whose CRC fails: number 0 is the checkpoint itself. -/
def EvHalf.read (h : EvHalf) (bad : Option Nat) : Option (SMap EvRec) :=
  let put := fun (m : SMap EvRec) (e : Nat × Option EvRec) => match e.2 with | some r => SMap.put m e.1 r | none => SMap.erase m e.1
  let bs := match bad with | some k => h.batches.take (k - 1) | none => h.batches
  if h.valid && bad ≠ some 0 then some (bs.foldl (fun m b => b.foldl put m) h.ckpt) else none

/-- LOG_READBACK_COMPLETE (R517, R331): `badA` and `badB` name the first batch of each half whose CRC fails; of the halves with a
valid checkpoint, the one with the higher GEN is taken. -/
def execLogReadbackComplete (badA badB : Option Nat) (s : State) : Out :=
  let a := s.ev.halfA.read badA
  let b := s.ev.halfB.read badB
  let useB := b.isSome && (a.isNone || decide (s.ev.halfA.gen < s.ev.halfB.gen))
  let found := a.isSome || b.isSome
  let slots := ((if useB then b else a)).getD []
  let s0 := { s with ev := { s.ev with slots := slots, cursor := 0, last := none, dirty := [] } }
  let cs := slots.map (fun (e : Nat × EvRec) => e.2.cursor)
  let next := cs.foldl (fun m c => if seqDist c m < 2 ^ 31 then c else m) (cs.headD 0) + 1
  let s1 := { s0 with ev := { s0.ev with
    cursor := if slots.isEmpty then 0 else next % 2 ^ 32
    arrived := (slots.map (fun (e : Nat × EvRec) => e.2.rep)).sum + s.ev.intake.length
    discarded := 0, overwritten := 0, cleared := 0 } }
  let s2 := (s1.setBit Reg.evStat 29 true).setBit Reg.evStat 28 (found && useB)
  let lost : EvIn := { key := ⟨0x0C01, 4, 0, 0, 0⟩, detail := [], merge := false, mark := s.mark, epoch := s.epoch }
  let s3 := if found then s2 else ({ s2 with ev := { s2.ev with arrived := s2.ev.arrived + 1 } }).evTake lost
  s.when (s.hubOn && !s.bit Reg.evStat 29) s3.evShow

end Sys2Proof.Machine
end

