-- ==== Sys2Proof/Machine/PageMap.lean ====
section
/-!
DEFINITION. The Page Map and the page store: entries, the cache, allocation, compaction moves (R183–R188, R191).
-/
namespace Sys2Proof.Machine

/-- Insertion into a sorted list, and a stable sort. -/
def insBy {α : Type} (le : α → α → Bool) (x : α) : List α → List α
  | [] => [x]
  | y :: ys => if le x y then x :: y :: ys else y :: insBy le x ys
def sortBy {α : Type} (le : α → α → Bool) (xs : List α) : List α := xs.foldr (insBy le) []

/-! ### Designs and configuration handles (R189, R190) -/

/-- A Design Table entry. -/
def State.design (s : State) (d : Nat) : Design := SMap.get s.so.designs d {}
def State.setDesign (s : State) (d : Nat) (v : Design) : State :=
  { s with so := { s.so with designs := SMap.set s.so.designs d v {} } }

/-- The handle of page k of run r: its swap-table entry, or its design's page (R190, R221). -/
def State.cfgHandle (s : State) (r k : Nat) : Nat :=
  match s.so.swaps.find? (fun e => e.2.run = r && e.2.pageNo = k) with
  | some e => e.2.handle
  | none => (s.design (s.run r).design).cfgBase + k
def State.cfgHandles (s : State) (r : Nat) : List Nat := (List.range (s.run r).pageCount).map (s.cfgHandle r)

/-! ### A run stopped by a failure (R177, R185) -/

/-- A run that a compact request waited for has left SUSPENDING or its operation; after the last, the request's ticket is done
(R199, R207). `saved`: it counts as suspended, and is looked for to be placed again. -/
def State.compactDone (s : State) (r : Nat) (saved : Bool) : State :=
  let mine := s.so.compactRuns.filter (fun e => e.2 = r)
  let rest := s.so.compactRuns.filter (fun e => e.2 ≠ r)
  { s with so := { s.so with compactRuns := rest } }.each mine (fun t e =>
    let t1 := if saved then
        { t.tktProgress e.1 0 ((t.tkt e.1).part + 1) with so := { t.so with compactBack := t.so.compactBack ++ [e] } }
      else t
    if rest.any (fun x => x.1 = e.1) then t1
    else { t1.tktEnd e.1 2 0 with so := { t1.so with compactBack := t1.so.compactBack.filter (fun x => x.1 ≠ e.1) } })

/-- A single step of a run that ends or fails is given up: its ticket fails and the holds stand again (R246, R247). -/
def State.stepDrop (s : State) (r err : Nat) : State :=
  match SMap.find s.so.steps r with
  | none => s
  | some e =>
    let s1 := { s with so := { s.so with steps := SMap.erase s.so.steps r } }
    (s1.each ((s.runBps r).map bpTile).dedup (fun t n => t.holdApply n)).tktEnd e.1 3 err

/-- Runs whose placement waits for bay-planes of run r return to WAITING: r keeps them (R212, R216). -/
def State.giveUp (s : State) (r : Nat) : State :=
  s.each (s.so.runs.filter (fun e => e.2.waitFor.contains r)) (fun t e =>
    t.setRun e.1 { t.run e.1 with state := .waiting, curOp := .none, waitFor := [], placing := [] })

/-- A run is stopped by a failure (R185, R177): it goes to FAULTED and its operation in progress fails; an Exclusive run
asks for the return to mode 6 (R467). -/
def State.runFault (s : State) (r : Nat) : State :=
  let x := s.run r
  if x.state = .faulted then s else
  let s1 := (s.setRun r { x with
    state := .faulted, curOp := .none, curTkt := none, stops := [], xfer := [], save := [], claimed := [], waitFor := []
    placing := [], endErr := 0 }).tktEnd? x.curTkt 3 stIntegrity
  let s2 := ((s1.giveUp r).compactDone r false).stepDrop r stIntegrity
  if x.excl then s2.modeQueue { src := .auto, target := 6 } else s2

/-! ### Entries (R183) -/

/-- Words 0–2 of an entry. -/
def pmWord0 (e : PmEnt) : Nat := e.kind % 16 * 2 ^ 28 + e.stat % 4 * 2 ^ 26 + e.stack % 8 * 2 ^ 22 + e.granule % 2 ^ 19
def pmWord1 (e : PmEnt) : Nat := e.len % 128 * 2 ^ 25 + e.owner % 4096 * 2 ^ 13 + e.pageNo % 2048
def pmWord2 (e : PmEnt) : Nat :=
  b2n e.res * 2 ^ 31 + e.tile % 8 * 2 ^ 28 + e.bay % 64 * 2 ^ 22 + e.plane % 4 * 2 ^ 20 + e.refcount % 8192

/-- The 16 bytes of entry h, a free one too. -/
def pmBytes (h : Nat) (e : PmEnt) : List Byte :=
  let b := leBytes 4 (pmWord0 e) ++ leBytes 4 (pmWord1 e) ++ leBytes 4 (pmWord2 e)
  b ++ leBytes 4 (crc32c (b ++ leBytes 4 h))

/-- The fields of an entry's bytes. -/
def pmOfBytes (b : List Byte) : PmEnt :=
  let w0 := leAt b 0 4
  let w1 := leAt b 4 4
  let w2 := leAt b 8 4
  { kind := bitsOf w0 31 28, stat := bitsOf w0 27 26, stack := bitsOf w0 24 22, granule := bitsOf w0 18 0
    len := bitsOf w1 31 25, owner := bitsOf w1 24 13, pageNo := bitsOf w1 10 0
    res := bitOf w2 31, tile := bitsOf w2 30 28, bay := bitsOf w2 27 22, plane := bitsOf w2 21 20, refcount := bitsOf w2 12 0 }

/-- Whether an entry's CHECK holds (R183). -/
def pmCheck (h : Nat) (b : List Byte) : Bool := leAt b 12 4 = crc32c (b.take 12 ++ leBytes 4 h)

/-- Address of entry h, and of granule g of stack m. -/
def pmAddr (h : Nat) : Nat := 0x10000000000 + 16 * h
def granAddr (m g : Nat) : Nat := 0x10000000000 + m * 0x600000000 + g * 0x10000

/-- The run named when an operation belongs to none (R185). -/
def noRun : Nat := 0xFFFFFFFF

/-- An entry put into the cache; which entry leaves a full cache is a free value (R184; log entry 12). -/
def State.cachePut (s : State) (h : Nat) (e : PmEnt) : State :=
  if s.so.pmCache.length < 131072 || (SMap.find s.so.pmCache h).isSome then
    { s with so := { s.so with pmCache := SMap.put s.so.pmCache h e } }
  else
    { s with so := { s.so with pmCache := SMap.put (s.so.pmCache.eraseIdx (s.freeVal s.so.pmCache.length)) h e } }.drawn

/-- The runs that use entry h and that such a failure stops: LOADING, RUNNING and SUSPENDING runs with it as a state page or as a
configuration page (R185, R196; log entry 53). -/
def State.usersOf (s : State) (h : Nat) : List Nat :=
  (s.so.runs.filter (fun e => (e.2.state = .loading || e.2.state = .running || e.2.state = .suspending) &&
    ((decide (e.2.stateBase ≤ h) && decide (h < e.2.stateBase + e.2.pageCount)) || (s.cfgHandles e.1).contains h))).map Prod.fst

/-- A mismatch of CHECK: counted, recorded with the run whose operation needed the entry, and fatal to the runs that use it
(R185). -/
def State.pmFail (s : State) (h run : Nat) : State :=
  let t := (s.count Reg.soPmStat 31 16 1).event 0x0301 6 h run
  t.each (t.usersOf h) State.runFault

/-- An entry as the Sorting Office sees it, read into the cache when it is not there; a mismatch of CHECK makes it
POISONED (R184, R185). `run` is the run whose operation needs it. -/
def State.pmGet (s : State) (h run : Nat) : State × PmEnt :=
  match SMap.find s.so.pmCache h with
  | some e => (s, e)
  | none =>
    let g := s.dramRead (pmAddr h) 16 0x20
    let s1 := g.st.count Reg.soPmMiss 31 0 1
    if g.cause = 0 && pmCheck h g.data then (s1.cachePut h (pmOfBytes g.data), pmOfBytes g.data)
    else
      let e : PmEnt := { pmOfBytes g.data with stat := 3 }
      ((s1.cachePut h e).pmFail h run, e)

/-- The REFCOUNT of a configuration page (R330). -/
def pmShare (e : PmEnt) : Nat := if e.kind = 1 then e.refcount else 0

/-- An entry written: to the cache and to HB0 in the same operation (R184); below the position of the sweep its sum
follows (R330). -/
def State.pmPut (s : State) (h : Nat) (e : PmEnt) : State :=
  let old := match SMap.find s.so.pmCache h with | some x => x | none => pmOfBytes (s.bytes (pmAddr h) 16)
  let s1 := if h < s.so.sweepPos then
      { s with so := { s.so with sweepSum := (s.so.sweepSum + 2 ^ 32 + pmShare e - pmShare old) % 2 ^ 32 } }
    else s
  (s1.cachePut h e).dramWrite (pmAddr h) (pmBytes h e) none 0x20 |>.st

/-- Whether an entry is poisoned. -/
def poisonedEnt (e : PmEnt) : Bool := e.stat = 3

/-- A POISONED mark set on an entry whose extent is lost (R469). -/
def State.pmPoison (s : State) (h : Nat) : State :=
  let (t, e) := s.pmGet h noRun
  t.pmPut h { e with stat := 3 }

/-! ### Granules (R186, R187, R191) -/

/-- Top of the page store in granules. -/
def State.psTop (s : State) (m : Nat) : Nat :=
  let l := s.fld Reg.soPsCfg 4 0
  min ((if 2 ≤ l ∧ l ≤ 24 then l else 16) * 16384) ((s.hbmEnd m - 0x10000000000 - m * 0x600000000) / 0x10000)

/-- The extents of a stack: those of objects, and the place to which a compaction moves one. -/
def State.extents (s : State) (m : Nat) : List (Nat × Nat) :=
  (s.so.pmAlloc.filter (fun e => e.2.1 = m && e.2.2.2 ≠ 0)).map (fun e => (e.2.2.1, e.2.2.2)) ++
    (match SMap.find s.so.comp m with
     | some v => (match SMap.find s.so.pmAlloc v.handle with | some (_, _, len) => [(v.granule, len)] | none => [])
     | none => [])

/-- The lowest of some candidates. -/
def lowest : List Nat → Option Nat
  | [] => none
  | x :: xs => some (xs.foldl min x)

/-- First fit of `len` in [lo, hi) beside used extents. -/
def firstFit (lo hi len : Nat) (used : List (Nat × Nat)) : Option Nat :=
  lowest ((lo :: used.map (fun e => e.1 + e.2)).filter (fun c =>
    decide (lo ≤ c) && decide (c + len ≤ hi) && used.all (fun e => decide (c + len ≤ e.1) || decide (e.1 + e.2 ≤ c))))

/-- First granule open to objects in a stack, and the top of ordinary space: 1 GiB below the limit is the save reserve. -/
def psBase (m : Nat) : Nat := if m = 0 then 1024 else 0
def State.psOrd (s : State) (m : Nat) : Nat := s.psTop m - 16384

/-- An extent for an object, from ordinary space. -/
def State.findExtent (s : State) (m len : Nat) : Option Nat := firstFit (psBase m) (s.psOrd m) len (s.extents m)

/-- An extent for a save: the save reserve too when ordinary space is short (R211). -/
def State.findSave (s : State) (m len : Nat) : Option Nat :=
  match s.findExtent m len with
  | some g => some g
  | none => firstFit (s.psOrd m) (s.psTop m) len (s.extents m)

/-- `n` consecutive handles, first fit. -/
def State.findHandles (s : State) (n : Nat) : Option Nat := firstFit 0 4194304 n (s.so.pmAlloc.map (fun e => (e.1, 1)))

/-- A handle allocated with its extent. -/
def State.alloc (s : State) (h m g len : Nat) : State :=
  { s with so := { s.so with pmAlloc := SMap.put s.so.pmAlloc h (m, g, len) } }

/-- An object freed: handle and extent return, and the entry reads as free. A poisoned entry stays (R190). -/
def State.pmFree (s : State) (h : Nat) : State :=
  let (t, e) := s.pmGet h noRun
  if poisonedEnt e then t
  else ({ t with so := { t.so with pmAlloc := SMap.erase t.so.pmAlloc h } }).pmPut h {}

/-- Extents allocated in turn for handles h, h + 1, …: each a stack and a length, found by `find`. -/
def State.allocWith (s : State) (find : State → Nat → Nat → Option Nat) (h : Nat) : List (Nat × Nat) → Option State
  | [] => some s
  | (m, len) :: xs =>
    match find s m len with
    | some g => (s.alloc h m g len).allocWith find (h + 1) xs
    | none => none

/-! ### Compaction (R188) -/

/-- The next move of a stack: the VALID extent of the lowest granule that has a lower place, which may overlap its own. -/
def State.nextMove (s : State) (m : Nat) : State × Option CompMove :=
  let xs := sortBy (fun (x y : Nat × Nat × Nat × Nat) => decide (x.2.2.1 ≤ y.2.2.1))
    (s.so.pmAlloc.filter (fun e => e.2.1 = m && e.2.2.2 ≠ 0))
  let ys := xs.filterMap (fun e =>
    match firstFit (psBase m) (e.2.2.1 + e.2.2.2) e.2.2.2 ((xs.filter (fun x => x.1 ≠ e.1)).map (fun x => (x.2.2.1, x.2.2.2))) with
    | some g => if g < e.2.2.1 then some (⟨e.1, g⟩ : CompMove) else none
    | none => none)
  ys.foldl (fun (acc : State × Option CompMove) v =>
    if acc.2.isSome then acc
    else
      let (t, e) := acc.1.pmGet v.handle noRun
      (t, if e.stat = 1 then some v else none)) (s, none)

/-- The next move of a compaction begins: the entry is MOVING; with none left the compaction ends. -/
def State.compStep (s : State) (m : Nat) : State :=
  match s.nextMove m with
  | (t, some v) =>
    let (u, e) := t.pmGet v.handle noRun
    ({ u with so := { u.so with comp := SMap.put u.so.comp m v } }).pmPut v.handle { e with stat := 2 }
  | (t, none) => { t with so := { t.so with comp := SMap.erase t.so.comp m } }

/-- Free granules of a stack below a bound. -/
def State.freeGran (s : State) (m : Nat) : Nat :=
  s.psOrd m - psBase m - ((s.extents m).map Prod.snd).sum

/-- An allocation of `len` granules failed in a stack: it is compacted when it holds enough in total (R188). -/
def State.allocFailed (s : State) (m len : Nat) : State :=
  if decide (len ≤ s.freeGran m) && (SMap.find s.so.comp m).isNone then s.compStep m else s

/-- What becomes of an allocation: made, to be retried when a compaction ends, or refused (R188). -/
inductive AllocRes where
  | done (t : State)
  | waits (t : State)
  | short (t : State)

/-- The operation whose failed allocation is retried is no longer waited for. -/
def State.compForget (s : State) (w : Nat) : State := { s with so := { s.so with compTried := s.so.compTried.filter (· ≠ w) } }

/-- Extents for handles h, h + 1, … on behalf of operation w. Where stacks that hold enough in total do not give them, those are
compacted, and the allocation is retried once they have been (R188; log entry 53). -/
def State.allocFor (s : State) (find : State → Nat → Nat → Option Nat) (w h : Nat) (ext : List (Nat × Nat)) : AllocRes :=
  match s.allocWith find h ext with
  | some t => .done (t.compForget w)
  | none =>
    let need := fun m => ((ext.filter (fun x => x.1 = m)).map Prod.snd).sum
    let stuck := (List.range 8).filter (fun m => (s.allocWith find h (ext.filter (fun x => x.1 = m))).isNone)
    if stuck.any (fun m => decide (s.freeGran m < need m)) then .short (s.compForget w)
    else if s.so.compTried.contains w then
      (if stuck.any (fun m => (SMap.find s.so.comp m).isSome) then .waits s else .short (s.compForget w))
    else .waits ({ s with so := { s.so with compTried := s.so.compTried ++ [w] } }.each stuck (fun t m => t.allocFailed m (need m)))

/-- A move of a stack's compaction ends (R188): the extent is copied, the entry is VALID at its new place, and the next move
begins. An object freed while it moved stays freed, and a poisoned entry is left as it is (R185). -/
def State.compMoved (s : State) (m : Nat) (v : CompMove) : State :=
  let (t, e) := s.pmGet v.handle noRun
  let u := (t.dramWrite (granAddr m v.granule) (t.dramBytes (granAddr m e.granule) (e.len * 0x10000)) none 0x20).st
  let w := (u.alloc v.handle m v.granule e.len).pmPut v.handle { e with stat := 1, granule := v.granule }
  (if e.stat = 2 && (SMap.find s.so.pmAlloc v.handle).isSome then w else t).compStep m

/-! ### Register rows -/

/-- PM_INVAL: the cache is invalidated (R184). -/
def State.pmInval (s : State) : State :=
  { s with so := { s.so with invalidating := true } }.setBit Reg.soCtrl 1 true

/-- PM_INVAL (R184). -/
def execPmInval (s : State) : Out := s.when s.hubOn s.pmInval

/-- PM_INVAL_COMPLETE (R184). -/
def execPmInvalComplete (s : State) : Out :=
  s.when (s.hubOn && s.so.invalidating)
    ({ s with so := { s.so with invalidating := false, pmCache := [] } }.setBit Reg.soCtrl 1 false)

/-- A write of LIMIT_GIB (R186). -/
def State.psLimit (s : State) (w : Nat) : State :=
  let l := if 2 ≤ w % 32 ∧ w % 32 ≤ 24 then w % 32 else 16
  if s.so.runs.any (fun e => e.2.state ≠ .empty) || s.so.pmAlloc.any (fun e => decide (l * 16384 < e.2.2.1 + e.2.2.2)) then s
  else s.setFld Reg.soPsCfg 4 0 l

/-- PS_LIMIT_WRITE (R186). -/
def execPsLimitWrite (word : Word) (s : State) : Out := s.when s.hubOn (s.psLimit word.toNat)

end Sys2Proof.Machine
end

