-- ==== Sys2Proof/Machine/Scrub.lean ====
section
/-!
DEFINITION. Configuration frames: check words, master accesses, the scrubbers and their self-protection (R168–R181).
-/
namespace Sys2Proof.Machine

/-! ### Check words (R168, R169) -/

/-- Position of data bit i: the (i + 1)-th integer from 3 upward that is not a power of two. -/
def bitPos (i : Nat) : Nat :=
  match (List.range 14).find? (fun l => Nat.log2 (i + 2 + l) = l && i + 2 + l ≠ 2 ^ l) with
  | some l => i + 2 + l
  | none => 0

/-- The data bit at a position, when there is one. -/
def posBit (p : Nat) : Option Nat :=
  if 3 ≤ p && p ≠ 2 ^ Nat.log2 p && decide (p - 2 - Nat.log2 p < 4096) then some (p - 2 - Nat.log2 p) else none

/-- Exclusive-or of the bits of a number. -/
def parity (v : Nat) : Nat := (List.range 32).foldl (fun x k => (x + v / 2 ^ k) % 2) 0

/-- The bits that are 1 in a list of nonzero bytes at their offsets. -/
def oneBits (bs : SMap Byte) : List Nat :=
  bs.flatMap (fun e => ((List.range 8).filter (fun k => bitOf e.2.toNat k)).map (fun k => 8 * e.1 + k))

/-- The check word of the frame of index a with the given bytes (R168). -/
def chkOf (bs : SMap Byte) (a : Nat) : Nat :=
  let ones := oneBits bs
  let c := ones.foldl (fun x i => Nat.xor x (bitPos i)) 0
  let q := (ones.length + parity c) % 2
  parity (Nat.land a 0x55555) * 2 ^ 15 + parity (Nat.land a 0xAAAAA) * 2 ^ 14 + q * 2 ^ 13 + c

/-- Address of frame a of tile n. -/
def frameBase (n a : Nat) : Nat := tileBase n + 0x10000000 + a * 512

/-- The nonzero bytes of a frame. -/
def State.frameBytes (s : State) (n a : Nat) : SMap Byte :=
  (SMap.slice s.mem (frameBase n a) (frameBase n a + 512)).map (fun e => (e.1 - frameBase n a, e.2))

/-- The stored check word of a frame. -/
def State.frameChk (s : State) (n a : Nat) : Nat :=
  match SMap.find s.fab.chk (786432 * n + a) with
  | some v => v.toNat
  | none => chkOf [] a

/-- What a frame read finds (R169). -/
inductive FrameRes where
  | clean
  | parityBit
  | checkBit
  | dataBit (i : Nat)
  | uncorrectable
  | addrFault
  deriving DecidableEq, Repr

/-- Syndrome s and parity mismatch e of a frame. -/
def State.frameSyn (s : State) (n a : Nat) : Nat × Nat :=
  let k := s.frameChk n a
  let f := chkOf (s.frameBytes n a) a
  (Nat.xor (k % 8192) (f % 8192), ((oneBits (s.frameBytes n a)).length + parity (k % 8192) + k / 8192) % 2)

/-- The decision of R169. -/
def State.frameClass (s : State) (n a : Nat) : FrameRes :=
  let (y, e) := s.frameSyn n a
  if s.frameChk n a / 2 ^ 14 ≠ chkOf [] a / 2 ^ 14 then .addrFault
  else if e = 0 then (if y = 0 then .clean else .uncorrectable)
  else if y = 0 then .parityBit
  else if y = 2 ^ Nat.log2 y && decide (Nat.log2 y ≤ 12) then .checkBit
  else match posBit y with
    | some i => .dataBit i
    | none => .uncorrectable

/-- A frame written with a fresh check word. -/
def State.putFrame (s : State) (n a : Nat) (bs : List Byte) : State :=
  let s1 := s.putBytes (frameBase n a) (bs.take 512)
  { s1 with fab := { s1.fab with chk := SMap.put s1.fab.chk (786432 * n + a) (BitVec.ofNat 16 (chkOf (s1.frameBytes n a) a)) } }

/-- The corrected data of a frame. -/
def State.frameFixed (s : State) (n a : Nat) : List Byte :=
  let bs := s.bytes (frameBase n a) 512
  match s.frameClass n a with
  | .dataBit i => bs.mapIdx (fun k b => if k = i / 8 then b ^^^ BitVec.ofNat 8 (2 ^ (i % 8)) else b)
  | _ => bs

/-- Bay-plane index of frame a of tile n. -/
def frameBp (n a : Nat) : Nat := 256 * n + a / 3072

/-! ### Master access (R171) -/

/-- Whether an access to a frame slot has an allowed form: 4 or 8 bytes aligned, or a burst of 4k bytes inside 64. -/
def frameForm (o n : Nat) : Bool :=
  decide (4 ≤ n) && decide (n ≤ 64) && n % 4 = 0 && o % 4 = 0 && decide (o % 64 + n ≤ 64)

/-- A read: corrected data; an uncorrectable frame answers with a bus error. -/
def State.frameRead (s : State) (n a o k : Nat) : Got :=
  if !frameForm o k then { st := s, cause := 2 }
  else
    match s.frameClass n a with
    | .uncorrectable => { st := s, cause := 3, data := s.bytes (frameBase n a + o) k }
    | .addrFault => { st := s, cause := 3, data := s.bytes (frameBase n a + o) k }
    | _ => { st := s, data := ((s.frameFixed n a).drop o).take k }

/-- A correction queued for a frame is cancelled (R174). -/
def State.cancelCorr (s : State) (n a : Nat) : State :=
  let t := s.tile n
  let cut := fun (c : ScrubRt) => { c with queue := c.queue.filter (fun q => q.frame ≠ a) }
  s.setTile n { t with sa := cut t.sa, sb := cut t.sb }

/-- The write buffer emptied. -/
def State.wbClear (s : State) (n : Nat) : State := s.setTile n { s.tile n with wbBytes := [] }

/-- A write: staged until all 512 bytes of one frame have come from one master (R171). -/
def State.frameWrite (s : State) (n a mid o : Nat) (bs : List Byte) : Got :=
  if !frameForm o bs.length then { st := s, cause := 2 }
  else
    let t := s.tile n
    let other := !t.wbBytes.isEmpty && (t.wbFrame ≠ a || t.wbMid ≠ mid)
    let s1 := if other then (s.wbClear n).setBit (Reg.csStat n) 5 true else s
    let buf := (bs.mapIdx (fun k b => (o + k, b))).foldl (fun m (e : Nat × Byte) => SMap.put m e.1 e.2) (s1.tile n).wbBytes
    let s2 := s1.setTile n { s1.tile n with wbFrame := a, wbMid := mid, wbBytes := buf }
    if buf.length < 512 then { st := s2 }
    else if s.stepping (frameBp n a) then { st := (s2.wbClear n).setBit (Reg.csStat n) 6 true, cause := 6 }
    else { st := ((s2.putFrame n a (buf.map Prod.snd)).wbClear n).cancelCorr n a }

/-- FRAME_WRITE (R171): a master's write reaches a frame slot of a bay that is on. -/
def execFrameWrite (n : Tile) (frame : Fin 786432) (mid : Byte) (offset : Fin 512) (bytes : List Byte) (s : State) : Out :=
  s.when (s.domOn (domBay n (frame.val / 12288))) ((s.frameWrite n frame mid.toNat offset bytes).st.breakReservations mid.toNat (frameBase n frame + offset) bytes.length)

/-! ### The sweep (R172–R178) -/

/-- Scrubber records and registers by which: false SA, true SB. -/
def State.scrub (s : State) (n : Nat) (sb : Bool) : ScrubRt := if sb then (s.tile n).sb else (s.tile n).sa
def State.setScrub (s : State) (n : Nat) (sb : Bool) (v : ScrubRt) : State :=
  s.setTile n (if sb then { s.tile n with sb := v } else { s.tile n with sa := v })
def posReg (n : Nat) (sb : Bool) : Reg := if sb then Reg.csSbPos n else Reg.csSaPos n
def sweepsReg (n : Nat) (sb : Bool) : Reg := if sb then Reg.csSbSweeps n else Reg.csSaSweeps n
/-- DONE bit of bay-plane k of a tile, kept with its half. -/
def doneReg (n k : Nat) : Reg := if k < 128 then Reg.csSaDone n (k / 32) else Reg.csSbDone n ((k - 128) / 32)

/-- Whether a scrubber's half has been taken over by its partner (R181). -/
def State.takenOver (s : State) (n : Nat) (sb : Bool) : Bool := s.bit (Reg.csStat n) (if sb then 3 else 2)

/-- The bay-planes that a scrubber sweeps: those enabled in its half, or in the whole tile after a takeover. -/
def State.enabledBps (s : State) (n : Nat) : List Nat := (List.range 256).filter (fun k => s.bit (Reg.csEn n (k / 32)) (k % 32))
def State.sweepSet (s : State) (n : Nat) (sb : Bool) : List Nat :=
  if s.takenOver n sb then []
  else if s.takenOver n (!sb) then s.enabledBps n
  else (s.enabledBps n).filter (fun k => decide (128 ≤ k) = sb)

/-- The scrub enable of a bay-plane set or cleared (R173). Setting it at a commit forgets the sweeps of the page before, so
that DCC_CLEAN is 0 in the first sweep (R178). -/
def State.scrubEn (s : State) (i : Nat) (v : Bool) : State :=
  let n := bpTile i
  let t := s.tile n
  let cut := fun (c : ScrubRt) => { c with clean := SMap.erase c.clean (i % 256), began := SMap.erase c.began (i % 256) }
  (if v then s.setTile n { t with sa := cut t.sa, sb := cut t.sb } else s).setBit (Reg.csEn n (i % 256 / 32)) (i % 32) v

/-- Bits flipped by upsets: 0–4,095 data, 4,096–4,111 check word. -/
def State.upset (s : State) (n a b : Nat) : State :=
  if b < 4096 then s.putBit (frameBase n a) b (!bitOf (s.byte (frameBase n a + b / 8)).toNat (b % 8))
  else if b < 4112 then
    { s with fab := { s.fab with
      chk := SMap.put s.fab.chk (786432 * n + a) (BitVec.ofNat 16 (Nat.xor (s.frameChk n a) (2 ^ (b - 4096)))) } }
  else s

/-- CS_LASTERR. -/
def State.lastErr (s : State) (n a kind : Nat) : State := s.wr (Reg.csLasterr n) (2 ^ 31 + kind * 2 ^ 29 + a / 3072 * 2 ^ 12 + a % 3072)

/-- The LOC of a frame. -/
def frameLoc (n a : Nat) : Nat := tileLoc n (a / 12288) (a / 3072 % 4) (a % 3072)

/-- The words of a 64-bit count, low first. -/
def words2 (v : Nat) : List Nat := [v % 2 ^ 32, v / 2 ^ 32]

/-- What the scrubber records of a frame as it finds it (R178): kind, run, DCC_FOUND, DCC_CLEAN. -/
def State.faultOf (s : State) (n : Nat) (sb : Bool) (a kind : Nat) : FrameFault :=
  { frame := a, kind := kind, run := (s.bpRec (frameBp n a)).run, dccFound := s.dcc (frameBp n a)
    dccClean := SMap.get (s.scrub n sb).clean (a / 3072) 0 }

/-- The record of a frame error (R178): kind, corrected bit, DCC_FOUND, DCC_CLEAN. -/
def State.frameEvent (s : State) (n typ sev : Nat) (f : FrameFault) (bit : List Nat) : State :=
  s.event typ sev (frameLoc n f.frame) f.run 0 (f.kind :: bit ++ words2 f.dccFound ++ words2 f.dccClean)

/-- What a frame read makes of its finding (R176–R178). -/
def State.scrubFound (s : State) (n : Nat) (sb : Bool) (a : Nat) : State :=
  let c := s.scrub n sb
  let fixable := fun (bit : List Nat) =>
    if c.queue.any (fun q => q.frame = a) then s
    else
      let s1 := s.setScrub n sb { c with queue := c.queue ++ [{ frame := a, data := s.frameFixed n a }] }
      let s2 := (s1.lastErr n a 0).frameEvent n 0x0201 2 (s.faultOf n sb a 0) bit
      if c.queue.length = 7 then s2.setBit (Reg.csStat n) 4 true else s2
  let lost := fun (kind : Nat) =>
    if c.restores.any (fun f => f.frame = a) then s
    else
      let s1 := (s.setScrub n sb { c with restores := c.restores ++ [s.faultOf n sb a kind] }).lastErr n a kind
      if kind = 2 then s1.count (Reg.csUncorr n) 15 0 1 else s1
  match s.frameClass n a with
  | .clean => s
  | .parityBit => fixable []
  | .checkBit => fixable []
  | .dataBit i => fixable [i]
  | .uncorrectable => lost 1
  | .addrFault => lost 2

/-- The end of a sweep: its count rises, the DONE maps it fills clear; its length is not timed here (log entry 13). -/
def State.sweepEnd (s : State) (n : Nat) (sb : Bool) : State :=
  let s1 := s.wr (sweepsReg n sb) (s.rd (sweepsReg n sb) + 1)
  let mine := (List.range 8).filter (fun j => s.takenOver n (!sb) || decide (4 ≤ j) = sb)
  let s2 := s1.each mine (fun t j => t.wr (doneReg n (32 * j)) 0)
  (s2.wr (Reg.csSweepTime n) (s.freeVal (2 ^ 32))).drawn

/-- Position of a scrubber as a frame index of the tile. -/
def State.scrubPos (s : State) (n : Nat) (sb : Bool) : Nat :=
  let v := s.rd (posReg n sb)
  bitsOf v 19 12 * 3072 + bitsOf v 11 0
def State.setPos (s : State) (n : Nat) (sb : Bool) (a : Nat) : State := s.wr (posReg n sb) (a / 3072 * 2 ^ 12 + a % 3072)

/-- The next frame at or after the position that the sweep reads, when the sweep goes on. -/
def nextFrame (ks : List Nat) (pos : Nat) : Option Nat :=
  if ks.contains (pos / 3072) then some pos else (ks.find? (fun k => decide (pos / 3072 < k))).map (fun k => k * 3072)

/-- One frame of the sweep is read. -/
def State.scrubStep (s : State) (n : Nat) (sb : Bool) (a : Nat) (upsets : List Nat) : State :=
  let k := a / 3072
  let c := s.scrub n sb
  let s1 := if a % 3072 = 0 then
      s.setScrub n sb { c with clean := SMap.set c.clean k (SMap.get c.began k 0) 0, began := SMap.set c.began k (s.dcc (frameBp n a)) 0 }
    else s
  let s2 := (s1.each upsets (fun t b => t.upset n a b)).scrubFound n sb a
  let s3 := s2.setScrub n sb { s2.scrub n sb with advanced := (s2.scrub n sb).advanced + 1 }
  if a % 3072 = 3071 then
    let s4 := s3.setBit (doneReg n k) (k % 32) true
    match (s.sweepSet n sb).find? (fun j => decide (k < j)) with
    | some j => s4.setPos n sb (j * 3072)
    | none => (s4.sweepEnd n sb).setPos n sb ((s.sweepSet n sb).headD 0 * 3072)
  else s3.setPos n sb (a + 1)

/-- SCRUB_FRAME_READ (R172). -/
def execScrubFrameRead (n : Tile) (sb : Bool) (upsets : List Nat) (s : State) : Out :=
  let ks := s.sweepSet n sb
  let go := s.domOn (domTile n) && s.bit (Reg.csCtrl n) 0 && !ks.isEmpty && decide ((s.scrub n sb).queue.length < 8)
  match nextFrame ks (s.scrubPos n sb) with
  | some a => s.when go (s.scrubStep n sb a upsets)
  | none =>
    let s1 := s.sweepEnd n sb
    s.when go (s1.scrubStep n sb (ks.headD 0 * 3072) upsets)

/-- Whether a bay-plane's run is paused for a snapshot. -/
def State.snapStill (s : State) (i : Nat) : Bool :=
  (s.bpRec i).pstate ≠ 0 && (s.bpRec i).load = none && (s.run (s.bpRec i).run).snapPause.isSome

/-- Whether a frame may be written by the repair path now: its plane does not step, or its bay stands at the boundary where
the repair pause begins, which waits for the end of a snapshot pause (R176, R230). The pause and the write are one step. -/
def State.repairNow (s : State) (i : Nat) : Bool :=
  if s.stepping i then s.atBoundary (bpTile i) (bpBay i) && (List.range 4).all (fun p => !s.snapStill (i / 4 * 4 + p))
  else !s.snapStill i

/-- SCRUB_CORRECTION (R176). -/
def execScrubCorrection (n : Tile) (sb : Bool) (s : State) : Out :=
  let c := s.scrub n sb
  match c.queue with
  | [] => .next s
  | q :: qs =>
    s.when (s.domOn (domTile n) && s.repairNow (frameBp n q.frame))
      (((s.setScrub n sb { c with queue := qs }).putFrame n q.frame q.data).count (Reg.csCorr n) 31 0 1)

/-- The runs that the repair pause of bay-plane i holds: those with a stepping plane in its bay (R176). -/
def State.pausedRuns (s : State) (i : Nat) : List Nat :=
  if s.stepping i then
    (((List.range 4).filter (fun p => s.stepping (i / 4 * 4 + p))).map (fun p => (s.bpRec (i / 4 * 4 + p)).run)).dedup
  else []

/-- FRAME_RESTORE (R177): the page-store copy arrives and is written, or its read has failed: then the runs that the pause
held stay paused, and the frame's run is faulted. -/
def execFrameRestore (n : Tile) (sb : Bool) (ok : Bool) (s : State) : Out :=
  let c := s.scrub n sb
  match c.restores with
  | [] => .next s
  | f :: rest =>
    let i := frameBp n f.frame
    let b := s.bpRec i
    let (t, e) := s.pmGet b.cfg b.run
    let s1 := t.setScrub n sb { c with restores := rest }
    let g := s1.dramRead (granAddr e.stack e.granule + 512 + 512 * (f.frame % 3072)) 512 (0x10 + n)
    let good := ok && !poisonedEnt e && g.cause = 0
    let done := ((g.st.putFrame n f.frame g.data).count (Reg.csUncorr n) 31 16 1).frameEvent n (if f.kind = 2 then 0x0204 else 0x0202) 4 f []
    let bad := ((g.st.frameEvent n 0x0203 6 f []).each (s.pausedRuns i) (fun t r => t.setRun r { t.run r with faultPause := true })).runFault b.run
    s.when (s.domOn (domTile n) && s.repairNow i && (s.mc e.stack).iso.isNone) (if good then done else bad)

/-- SWEEP_BOUND_EXCEEDED (R175). -/
def execSweepBoundExceeded (n : Tile) (sb : Bool) (s : State) : Out :=
  s.when (s.domOn (domTile n)) ((s.setBit (Reg.csStat n) 7 true).event 0x0207 4 (tileLoc n (if sb then 32 else 0) 0 0) 0)

/-- The words held in three copies (R179), each with the bits that are: CS_CTRL's enable, CS_ENi, CS_FRAME_SEL, positions,
sweep counts and DONE maps of SA and SB. -/
def votedRegs (n : Nat) : List (Reg × Nat) :=
  [(Reg.csCtrl n, 1)] ++ (List.range 8).map (fun j => (Reg.csEn n j, 2 ^ 32 - 1)) ++
    [(Reg.csFrameSel n, 2 ^ 20 - 1), (Reg.csSaPos n, 2 ^ 20 - 1), (Reg.csSbPos n, 2 ^ 20 - 1), (Reg.csSaSweeps n, 2 ^ 32 - 1),
      (Reg.csSbSweeps n, 2 ^ 32 - 1)] ++
    (List.range 8).map (fun j => (doneReg n (32 * j), 2 ^ 32 - 1))

/-- The majority of three copies, bit by bit. -/
def majority (x y z : Nat) : Nat := Nat.lor (Nat.lor (Nat.land x y) (Nat.land x z)) (Nat.land y z)

/-- The three copies of word w, in which the listed bits have flipped (log entry 52). -/
def votedCopies (v m w : Nat) (upsets : List (Fin 22 × Fin 3 × Fin 32)) : List Nat :=
  (List.range 3).map (fun c => upsets.foldl (fun x u =>
    if u.1.val = w && u.2.1.val = c then Nat.xor x (Nat.land m (2 ^ u.2.2.val)) else x) v)

/-- One cycle of the voter over word w: the majority stands in every copy, and each copy rewritten counts. -/
def State.vote (s : State) (n w : Nat) (upsets : List (Fin 22 × Fin 3 × Fin 32)) : State :=
  match (votedRegs n)[w]? with
  | none => s
  | some (r, m) =>
    let cs := votedCopies (s.rd r) m w upsets
    let v := majority (cs.getD 0 0) (cs.getD 1 0) (cs.getD 2 0)
    (s.wr r v).count (Reg.csVote n) 31 0 (cs.filter (fun c => c ≠ v)).length

/-- VOTER_REPAIR (R179): bits of copies have flipped; the voter compares the copies and rewrites those that disagree. The
copies agree between cycles, so that State holds the value that all three have. -/
def execVoterRepair (n : Tile) (upsets : List (Fin 22 × Fin 3 × Fin 32)) (s : State) : Out :=
  s.when (s.domOn (domTile n)) (s.each (List.range 22) (fun t w => t.vote n w upsets))

/-- RESTORE: each scrubber returns to its own half (R181). -/
def State.scrubRestore (s : State) (n : Nat) : State :=
  let s1 := (s.setFld (Reg.csStat n) 3 2 0).setBit (Reg.csCtrl n) 1 false
  let t := s1.tile n
  s1.setTile n { t with sa := { t.sa with fails := 0 }, sb := { t.sb with fails := 0 } }

/-- SCRUB_RESTORE (R181). -/
def execScrubRestore (n : Tile) (s : State) : Out := s.when (s.domOn (domTile n)) (s.scrubRestore n)

/-! ### The cross-check at the strobe (R180, R181) -/

/-- The DONE map that a scrubber should show: enabled bay-planes of its half below its present one. -/
def State.doneExpected (s : State) (n : Nat) (sb : Bool) (j : Nat) : Nat :=
  (s.sweepSet n sb).foldl (fun v k => if k / 32 = j && decide (k < s.scrubPos n sb / 3072) then v + 2 ^ (k % 32) else v) 0

/-- Scrubber sb of tile n is checked by its partner: `v` is the state latched at the strobe, `s` the one that repairs go to.
With SCRUB_EN = 0, or taken over, it is idle and is not checked (log entry 52). -/
def State.crossCheck (v s : State) (n : Nat) (sb : Bool) : State :=
  let c := v.scrub n sb
  let words := (List.range 8).filter (fun j => v.takenOver n (!sb) || decide (4 ≤ j) = sb)
  let mapBad := words.any (fun j => v.rd (doneReg n (32 * j)) ≠ v.doneExpected n sb j)
  let stall := (v.sweepSet n sb).any (fun k => !v.bit (doneReg n k) (k % 32)) && decide (c.advanced < 1024)
  let loc := tileLoc n (if sb then 32 else 0) 0 0
  if !v.bit (Reg.csCtrl n) 0 || v.takenOver n sb then s.setScrub n sb { s.scrub n sb with advanced := 0, fails := 0 }
  else
    let s1 := if stall then ((s.setPos n sb (v.scrubPos n sb / 3072 * 3072)).count (Reg.csXchk n) 31 16 1).event 0x0205 3 loc 0 0 [0] else s
    let s2 := if mapBad then ((s1.each words (fun t j => t.wr (doneReg n (32 * j)) (v.doneExpected n sb j))).count (Reg.csXchk n) 15 0 1).event
      0x0205 3 loc 0 0 [1] else s1
    let fails := if stall || mapBad then c.fails + 1 else 0
    let s3 := s2.setScrub n sb { s2.scrub n sb with advanced := 0, fails := if fails = 3 then 0 else fails }
    if fails = 3 && !s.takenOver n (!sb) then
      (s3.setBit (Reg.csStat n) (if sb then 3 else 2) true).event 0x0206 5 loc 0
    else s3

/-- Both scrubbers of every powered tile. -/
def State.crossChecks (s : State) : State :=
  s.each ((List.range 8).filter (fun n => s.domOn (domTile n))) (fun t n => s.crossCheck (s.crossCheck t n false) n true)

end Sys2Proof.Machine
end

