-- ==== Sys2Proof/Machine/TrigOps.lean ====
section
/-!
DEFINITION. Trigger units: loading into tile slots, arming, chains, matching and firing (R239–R245).
-/
namespace Sys2Proof.Machine

def State.trig (s : State) (u : Nat) : TrigRt := SMap.get s.so.trigs u {}
def State.setTrig (s : State) (u : Nat) (v : TrigRt) : State :=
  { s with so := { s.so with trigs := SMap.set s.so.trigs u v {} } }

/-- The run of a unit, and whether it is enabled. -/
def State.trigRun (s : State) (u : Nat) : Nat := s.fld (Reg.trgCtrl u) 11 0
def State.trigOn (s : State) (u : Nat) : Bool := s.bit (Reg.trgCtrl u) 31

/-! ### Loading (R240) -/

/-- A unit leaves its tile slot. -/
def State.trigUnload (s : State) (u : Nat) : State :=
  match (s.trig u).slot with
  | some (n, k) =>
    let s1 := (s.wr (Reg.tcTslot n k) 0).each (List.range 64) (fun t i => t.wr (Reg.tcTtap n k i) 0)
    let s2 := s1.setTile n { s1.tile n with probes := (s1.tile n).probes.filter (fun p => p.slot ≠ k) }
    (s2.setTrig u { s2.trig u with slot := none }).setBit (Reg.trgStat u) 29 false
  | none => s

/-- The bay-plane on which page k of run r is resident. -/
def State.pagePlane (s : State) (r k : Nat) : Option Nat := (s.runBps r).find? (fun i => (s.bpRec i).pageNo = k)

/-- The valid taps of a unit with the bay-plane that each names. -/
def State.trigTaps (s : State) (u : Nat) : List (Nat × Nat) :=
  (List.range 64).filterMap (fun i =>
    if s.bit (Reg.trgTap u i) 31 then (s.pagePlane (s.trigRun u) (s.fld (Reg.trgTap u i) 10 0)).map (fun j => (i, j)) else none)

/-- A unit goes into the lowest free slot of the tile that holds its taps; in MODE 5, and with no tap in use, of the
lowest-numbered tile that holds the run. SPLIT and NOSLOT are recorded. -/
def State.trigLoad (s : State) (u : Nat) : State :=
  let r := s.trigRun u
  let bps := s.runBps r
  let taps := s.trigTaps u
  let tiles := (taps.map (fun e => bpTile e.2)).dedup
  let lowest := (List.range 8).filter (fun n => bps.any (fun i => bpTile i = n))
  let byMode := s.fld (Reg.trgCtrl u) 30 28 = 5
  let refuse := fun (bit : Nat) => (s.setBit (Reg.trgStat u) bit true).event 0x0305 2 u r
  if bps.isEmpty then s
  else if !byMode && decide (1 < tiles.length) then refuse 28
  else
    let n := if byMode || tiles.isEmpty then lowest.headD 0 else tiles.headD 0
    match (List.range 16).find? (fun k => !s.bit (Reg.tcTslot n k) 31) with
    | none => refuse 27
    | some k =>
      let s1 := s.wr (Reg.tcTslot n k) (2 ^ 31 + u % 64 * 2 ^ 24 + r % 4096)
      let s2 := s1.each (List.range 64) (fun t i => t.wr (Reg.tcTtap n k i) 0)
      let s3 := s2.each taps (fun t e =>
        t.wr (Reg.tcTtap n k e.1) (t.fld (Reg.trgTap u e.1) 31 13 * 2 ^ 13 + bpBay e.2 * 2 ^ 7 + bpPlane e.2 * 2 ^ 5))
      (s3.setTrig u { s3.trig u with slot := some (n, k) }).setBit (Reg.trgStat u) 29 true

/-- The enabled units of a run are loaded anew, as at every placement of it. -/
def State.trigReload (s : State) (r : Nat) : State :=
  let us := (List.range 64).filter (fun u => s.trigOn u && s.trigRun u = r)
  let s1 := s.each us (fun t u => (t.trigUnload u).setFld (Reg.trgStat u) 28 27 0)
  s1.each us State.trigLoad

/-- Units whose run has no page resident leave their slots. -/
def State.trigSweep (s : State) : State :=
  s.each (s.so.trigs.filter (fun e => e.2.slot.isSome && (s.runBps (s.trigRun e.1)).isEmpty)) (fun t e => t.trigUnload e.1)

/-! ### Arming and chains (R242) -/

/-- A unit is armed, evaluating from the cycle after `at'`. -/
def State.trigArm (s : State) (u : Nat) (at' : Option Nat) : State :=
  ((s.setBit (Reg.trgStat u) 30 true).setFld (Reg.trgStat u) 15 0 0).setTrig u { s.trig u with prev := none, armedAt := at' }

/-- A unit disarms; its HITS clears on a chain reset. -/
def State.trigDisarm (s : State) (u : Nat) : State :=
  (s.setBit (Reg.trgStat u) 30 false).setTrig u { s.trig u with prev := none, armedAt := none }

/-- The path of predecessors of a unit, itself first, at most `n` long; `none` when it does not end in a head by then or
leaves the run. -/
def State.trigPath (s : State) (r : Nat) : Nat → Nat → Option (List Nat)
  | 0, _ => none
  | n + 1, u =>
    if s.trigRun u ≠ r then none
    else if s.bit (Reg.trgCtrl u) 24 then some [u]
    else (s.trigPath r n (s.fld (Reg.trgCtrl u) 23 18)).map (fun p => u :: p)

/-- The head of a unit's chain, and the enabled units whose paths end in it. -/
def State.trigHead (s : State) (u : Nat) : Nat := (((s.trigPath (s.trigRun u) 4 u).getD [u]).getLast?).getD u
def State.trigChain (s : State) (u : Nat) : List Nat :=
  (List.range 64).filter (fun v => s.trigOn v && s.trigRun v = s.trigRun u && s.trigHead v = s.trigHead u)

/-- The whole chain resets and its head is armed again. -/
def State.chainReset (s : State) (u k : Nat) : State :=
  let s1 := s.each (s.trigChain u) (fun t v => (t.trigDisarm v).setFld (Reg.trgStat v) 15 0 0)
  if s.trigOn (s.trigHead u) then s1.trigArm (s.trigHead u) (some k) else s1

/-- Setting EN (R240, R242). -/
def State.trigEnable (s : State) (u : Nat) : State :=
  if s.trigOn u then s
  else if (s.trigPath (s.trigRun u) 4 u).isNone then s.setBit (Reg.trgStat u) 26 true
  else
    let s1 := s.setBit (Reg.trgCtrl u) 31 true
    let s2 := if s.bit (Reg.trgCtrl u) 24 then s1.trigArm u none else s1
    s2.trigLoad u

/-- EN written 0: the unit disarms, leaves its slot, and CHAIN_ERR clears. -/
def State.trigDisable (s : State) (u : Nat) : State :=
  (((s.setBit (Reg.trgCtrl u) 31 false).trigUnload u).trigDisarm u).setFld (Reg.trgStat u) 28 26 0

/-! ### Firing (R243, R244) -/

/-- Whether a run can take a halt or a snapshot of a trigger: it runs, and is neither held nor paused. -/
def State.trigCan (s : State) (r : Nat) : Bool :=
  let x := s.run r
  (x.state = .running || (x.state = .suspending && !x.stops.isEmpty)) && !x.held && !runPaused x

/-- DCC of a run on bay-planes, the same in all of them. -/
def State.dccOf (s : State) (r : Nat) : Nat := match s.runBps r with | i :: _ => s.dcc i | [] => (s.run r).dcc

/-- The effect of a unit's action for cycle k; `none` when it cannot run. A halt gives the run its stop and asks for Halted
(R243–R245). -/
def State.trigAct (s : State) (u k : Nat) : Option State :=
  let r := s.trigRun u
  let x := s.run r
  let act := s.fld (Reg.trgCtrl u) 27 25
  let halt := fun c => some ((s.setRun r { x with stops := x.stops ++ [⟨.halt u, c⟩] }).modeQueue
    { src := .trigger, target := 8, run := r, unit := u })
  let e := s.fld (Reg.trgSnap u) 9 0
  let n := SMap.get s.so.snaps e {}
  let snap := fun (mem : Bool) =>
    if n.state = 1 && n.run = r && (n.mem || !mem) then
      some { s with so := { s.so with snaps := SMap.put s.so.snaps e { n with due := true, mem := mem, trig := true, atCycle := s.dccOf r } } }
    else none
  if act = 0 || decide (5 ≤ act) then some s
  else if !s.trigCan r then none
  else if act = 1 then halt 0
  else if act = 2 then halt (k + max 64 (s.fld (Reg.trgParam u) 31 16))
  else snap (act = 4)

/-- A unit fires in cycle k. -/
def State.trigFire (s : State) (u k : Nat) : State :=
  let again := s.fld (Reg.trgCtrl u) 27 25 = 5
  let s1 := (s.setBit (Reg.trgStat u) 31 true).wr64 (Reg.trgFireDccLo u) (Reg.trgFireDccHi u) k
  let s2 := (if u < 32 then s1.setBit Reg.trgFiredLo u true else s1.setBit Reg.trgFiredHi (u - 32) true).event 0x0304 1 u (s.trigRun u) 0
    [k % 2 ^ 32, k / 2 ^ 32]
  let s3 := if again then s2.trigArm u (some k) else s2.trigDisarm u
  let s4 := s3.each ((List.range 64).filter (fun v => v ≠ u && s.trigOn v && !s.bit (Reg.trgCtrl v) 24 &&
    s.fld (Reg.trgCtrl v) 23 18 = u && s.trigRun v = s.trigRun u)) (fun t v => t.trigArm v (some k))
  match s4.trigAct u k with
  | some t => t
  | none => s4.setBit (Reg.trgStat u) 25 true

/-- Whether probe word w of cycle k matches (R241). -/
def State.trigMatch (s : State) (u k w : Nat) : Bool :=
  let m := s.rd64 (Reg.trgMaskLo u) (Reg.trgMaskHi u)
  let lo := s.rd64 (Reg.trgLowLo u) (Reg.trgLowHi u)
  let hi := s.rd64 (Reg.trgHighLo u) (Reg.trgHighHi u)
  let p := Nat.land w m
  match s.fld (Reg.trgCtrl u) 30 28 with
  | 0 => p = Nat.land lo m
  | 1 => p ≠ Nat.land lo m
  | 2 => decide (Nat.land lo m ≤ p) && decide (p ≤ Nat.land hi m)
  | 3 => decide (p < Nat.land lo m) || decide (Nat.land hi m < p)
  | 4 => match (s.trig u).prev with | some q => p ≠ q | none => false
  | 5 => decide (lo ≤ k) && decide (k ≤ hi)
  | _ => false

/-- The cycle after which an armed successor has expired, when it has a limit. -/
def State.trigLimit (s : State) (u : Nat) : Option Nat :=
  if s.bit (Reg.trgCtrl u) 24 || s.rd (Reg.trgWithin u) = 0 then none else (s.trig u).armedAt.map (· + s.rd (Reg.trgWithin u))

/-- One probe word reaches the hub: an armed unit counts a match and fires at its COUNT-th. -/
def State.trigEval (s : State) (u k w : Nat) : State :=
  let after := match (s.trig u).armedAt with | some a => decide (a < k) | none => true
  if s.trigOn u && s.bit (Reg.trgStat u) 30 && after then
    match (s.trigLimit u).filter (fun l => decide (l < k)) with
    | some l => s.chainReset u l
    | none =>
      let hit := s.trigMatch u k w
      let m := s.rd64 (Reg.trgMaskLo u) (Reg.trgMaskHi u)
      let s1 := s.setTrig u { s.trig u with prev := some (Nat.land w m) }
      let hits := satAdd 0xFFFF (s.fld (Reg.trgStat u) 15 0) 1
      let s2 := s1.setFld (Reg.trgStat u) 15 0 hits
      if !hit then s1
      else if max 1 (s.fld (Reg.trgParam u) 15 0) ≤ hits then s2.trigFire u k
      else s2
  else s

/-- Every probe word of a run still to be evaluated, in every tile. -/
def State.runProbes (s : State) (r : Nat) : List Probe :=
  (List.range 8).flatMap (fun n => (s.tile n).probes.filter (fun p => p.run = r))

/-- TRIGGER_PROBE (R239, R241, R242): the oldest probe word of a tile slot reaches the hub once every bay-plane of the run
has ended its cycle; cycles reach the hub in order. -/
def execTriggerProbe (n : Tile) (slot : Fin 16) (s : State) : Out :=
  match (s.tile n).probes.find? (fun p => p.slot = slot.val) with
  | none => .next s
  | some p =>
    let s1 := s.setTile n { s.tile n with probes := (s.tile n).probes.erase p }
    s.when (s.hubOn && (s.runBps p.run).all (fun i => decide (p.cycle < s.dcc i)) &&
      (s.runProbes p.run).all (fun q => decide (p.cycle ≤ q.cycle))) (s1.trigEval p.unit p.cycle p.word)

/-- TRIGGER_WITHIN_EXPIRY (R242): an armed successor has not fired within WITHIN cycles of its arming. -/
def execTriggerWithinExpiry (unit : Fin 64) (s : State) : Out :=
  let u : Nat := unit
  match s.trigLimit u with
  | none => .next s
  | some l => s.when (s.hubOn && s.trigOn u && s.bit (Reg.trgStat u) 30 && decide (l < s.dccOf (s.trigRun u)) &&
      (s.runProbes (s.trigRun u)).all (fun q => decide (l < q.cycle))) (s.chainReset u l)

/-- TRIGGER_ENABLE (R240, R242). -/
def execTriggerEnable (unit : Fin 64) (s : State) : Out := s.when s.hubOn (s.trigEnable unit)

end Sys2Proof.Machine
end

