-- ==== Sys2Proof/Machine/Placement.lean ====
section
/-!
DEFINITION. Placement: page descriptors, the view, the search of R201, the settings it writes, and eviction (R146, R147,
R189, R194, R200–R204, R210).
-/
namespace Sys2Proof.Machine

/-! ### Descriptors (R146, R147) -/

/-- The placement data of a page from its descriptor and its extras. -/
def pageOf (d rt : List Byte) : PageD :=
  { pageNo := leAt d 0 4, gsize := leAt d 4 1, gpos := leAt d 5 1, steps := leAt d 6 1, flags := leAt d 7 1
    gid := leAt d 8 4, banks := leAt d 0xC 2, trees := leAt d 0xE 2, bm := leAt d 0x10 20, dm := leAt d 0x24 2
    clk := (List.range 16).map (fun i => leAt d (0x28 + 4 * i) 4), ret := (List.range 5).map (fun i => leAt d (0x68 + 4 * i) 4)
    ioCfg := (List.range 2).map (fun i => leAt d (0x90 + 4 * i) 4), cfgOff := leAt d 0x80 8, extraLen := leAt d 0x88 4
    routes := (List.range 64).map (fun i => leAt rt (4 * i) 4), xexp := leAt rt 256 8 }

/-- The bits of a mask that are set. -/
def bitsIn (n m : Nat) : List Nat := (List.range n).filter (fun k => bitOf m k)

/-- Whether a page has EXT routes; the valid route words. -/
def PageD.ext (p : PageD) : Bool := bitOf p.flags 1
def PageD.routeWords (p : PageD) : List (Nat × Nat) :=
  ((List.range 64).map (fun i => (i, p.routes.getD i 0))).filter (fun e => bitOf e.2 31)

/-- Bytes of configuration and of descriptor in a configuration page (R187). -/
def cfgBytes : Nat := 1572864
def descBytes : Nat := 512

/-- A configuration page as the page store holds it; none when its entry is poisoned or cannot be read. -/
def State.pageAt (s : State) (h run : Nat) : State × Option PageD :=
  let (t, e) := s.pmGet h run
  if poisonedEnt e then (t, none)
  else
    let a := granAddr e.stack e.granule
    let g := t.dramRead a 160 0x20
    let x := g.st.dramRead (a + descBytes + cfgBytes) 264 0x20
    if g.cause = 0 && x.cause = 0 then (x.st, some (pageOf g.data x.data)) else (x.st, none)

/-- Several configuration pages. -/
def State.pagesAt (s : State) (run : Nat) : List Nat → State × Option (List PageD)
  | [] => (s, some [])
  | h :: hs =>
    match s.pageAt h run with
    | (t, none) => (t, none)
    | (t, some p) =>
      match t.pagesAt run hs with
      | (u, some ps) => (u, some (p :: ps))
      | (u, none) => (u, none)

/-! ### Plane groups (R200, R201) -/

/-- A page with the handle of its configuration. -/
abbrev HPage := Nat × PageD

/-- The plane groups of a list of pages, each in GROUP_POS order. -/
def groupsOf (ps : List HPage) : List (List HPage) :=
  (ps.filter (fun p => p.2.gpos = 0)).map (fun p =>
    (List.range 4).filterMap (fun j => ps.find? (fun x => x.2.gid = p.2.gid && x.2.gpos = j)))

/-- Order of placement. -/
def groupKey (g : List HPage) : Nat × Nat × Nat × Nat :=
  ( b2n (g.all (fun p => p.2.banks = 0)), 4 - g.length
  , 10000 - (g.map (fun p => (bitsIn 160 p.2.bm).length + 14 * (bitsIn 16 p.2.dm).length)).sum
  , (g.map (fun p => p.2.gid)).headD 0 )
def groupLe (x y : List HPage) : Bool :=
  let a := groupKey x
  let b := groupKey y
  decide (a.1 < b.1) || (a.1 = b.1 && (decide (a.2.1 < b.2.1) || (a.2.1 = b.2.1 &&
    (decide (a.2.2.1 < b.2.2.1) || (a.2.2.1 = b.2.2.1 && decide (a.2.2.2 ≤ b.2.2.2))))))

/-! ### The view (R194, R201) -/

/-- The bay table with the shadows of what its pages hold. -/
abbrev View := SMap BpRec

/-- Who holds a record: a run, or 4,096 + a load. -/
def ownerOf (v : BpRec) : Nat := match v.load with | some j => 4096 + j | none => v.run

/-- The records of a bay, and of a tile, that are not FREE. -/
def vBay (v : View) (t b : Nat) : List (Nat × BpRec) := v.filter (fun e => e.1 / 4 = bayIx t b && e.2.pstate ≠ 0)
def vTile (v : View) (t : Nat) : List (Nat × BpRec) := v.filter (fun e => bpTile e.1 = t && e.2.pstate ≠ 0)

/-- Memories owned in a bay. -/
def vBm (v : View) (t b : Nat) : Nat := (vBay v t b).foldl (fun m e => Nat.lor m e.2.page.bm) 0
def vDm (v : View) (t b : Nat) : Nat := (vBay v t b).foldl (fun m e => Nat.lor m e.2.page.dm) 0

/-- FREE bay-planes of a view. -/
def vFree (v : View) : Nat := 2048 - (v.filter (fun e => e.2.pstate ≠ 0)).length

/-- The bay-plane on which a page of an owner stands, or to which it is to go (R201). -/
def vPlace (v : View) (who k : Nat) : Option Nat :=
  (v.find? (fun e => e.2.pstate ≠ 0 && !e.2.stale && ownerOf e.2 = who && e.2.pageNo = k)).map Prod.fst

/-- Number of a bridge and its direction, as 2j + d: horizontal bridges 0–5 by row, then vertical ones 6–9; direction 0 is toward the
higher-numbered tile (R27). -/
def bridgeDir (x y : Nat) : Nat :=
  if x / 4 = y / 4 then 2 * (3 * (x / 4) + min x y % 4) + b2n (decide (y < x)) else 2 * (6 + x % 4) + b2n (decide (y < x))

/-- The bridge slots, as 8j + 4d + s, that a bundle from bay-plane i to bay-plane j takes. -/
def bridgeKeys (i j : Nat) : List Nat := (bridgePath (bpTile i) (bpTile j)).map (fun e => 4 * bridgeDir e.1 e.2 + bpPlane i)

/-- Destination page of a route word, when it stays in the module. -/
def routeDest (w : Nat) : Option Nat := if bitOf w 30 then none else some (bitsOf w 18 8)

/-- The bridge slots that the bundles of a view take, each as often as it is taken. -/
def vLoads (v : View) : List Nat :=
  v.flatMap (fun e => if e.2.pstate = 0 || e.2.stale then [] else
    e.2.page.routeWords.flatMap (fun w =>
      match (routeDest w.2).bind (vPlace v (ownerOf e.2)) with
      | some j => bridgeKeys e.1 j
      | none => []))

/-- The bridge slots taken between a group at (t, b, q) and the pages of its owner already placed. -/
def groupLoads (v : View) (who : Nat) (g : List HPage) (t b q : Nat) : List Nat :=
  let at' := fun (k : Nat) => (g.find? (fun p => p.2.pageNo = k)).map (fun p => bpIx t b (q + p.2.gpos))
  (g.flatMap (fun p => p.2.routeWords.flatMap (fun w =>
    match (routeDest w.2).bind (vPlace v who) with
    | some j => bridgeKeys (bpIx t b (q + p.2.gpos)) j
    | none => []))) ++
  ((v.filter (fun e => e.2.pstate ≠ 0 && !e.2.stale && ownerOf e.2 = who)).flatMap (fun e => e.2.page.routeWords.flatMap (fun w =>
    match (routeDest w.2).bind at' with
    | some j => bridgeKeys e.1 j
    | none => [])))

/-- Whether an owner is a WHOLE_BAY run or load. -/
def State.wholeOf (s : State) (who : Nat) : Bool :=
  if who < 4096 then (s.run who).wholeBay else (SMap.get s.fk.loads (who - 4096) {}).wholeBay

/-- What a placement is for: the owner, its TILE_MASK and WHOLE_BAY. -/
structure Placing where
  who : Nat
  mask : Nat
  whole : Bool

/-- Free memory-model ports of a tile, lowest first. -/
def vPorts (v : View) (t : Nat) : List Nat :=
  (List.range 8).filter (fun k => (vTile v t).all (fun e => e.2.port ≠ some k))

/-- Whether an egress entry can carry a route: valid, and naming a tile whose CR ready bit is set. -/
def State.egressOk (s : State) (t e : Nat) : Bool :=
  s.bit (Reg.crEgr t e) 31 && bitOf s.so.ready (44 + s.fld (Reg.crEgr t e) 30 28)

/-- The reason code of a candidate; 0: it fits (R201); a tile that is not ready and a failed bay take no page (R462). `base` is the load of the bridges in the view. -/
def State.fits (s : State) (v : View) (base : List Nat) (c : Placing) (g : List HPage) (t b q : Nat) : Nat :=
  let recs := vBay v t b
  let tile := vTile v t
  let bm := g.foldl (fun m p => Nat.lor m p.2.bm) 0
  let dm := g.foldl (fun m p => Nat.lor m p.2.dm) 0
  let mine := groupLoads v c.who g t b q
  if !bitOf c.mask t || !bitOf s.so.ready (36 + t) then 1
  else if g.any (fun p => (bitsIn 12 p.2.banks).any (fun k => (bankTile k).1 ≠ t ||
      tile.any (fun e => bitOf e.2.page.banks k && ownerOf e.2 ≠ c.who))) then 2
  else if s.domFailBit (domBay t b) || (List.range g.length).any (fun j => recs.any (fun e => e.1 = bpIx t b (q + j))) then 3
  else if recs.any (fun e => ownerOf e.2 ≠ c.who && (c.whole || s.wholeOf (ownerOf e.2))) then 4
  else if Nat.land bm (vBm v t b) ≠ 0 || Nat.land dm (vDm v t b) ≠ 0 then 5
  else if g.any (fun p => (List.range 16).any (fun i => bitOf (p.2.clk.getD i 0) 31 &&
      tile.any (fun e => bitOf (e.2.page.clk.getD i 0) 31 && e.2.page.clk.getD i 0 % 2 ^ 24 ≠ p.2.clk.getD i 0 % 2 ^ 24))) then 6
  else if g.any (fun p => (bitsIn 5 p.2.trees).any (fun u =>
      tile.any (fun e => bpPlane e.1 = q + p.2.gpos && bitOf e.2.page.trees u && ownerOf e.2 ≠ c.who))) then 7
  else if (vPorts v t).length < (g.filter (fun p => bitOf p.2.flags 0)).length then 8
  else if mine.any (fun k => decide (256 < base.count k + mine.count k)) then 9
  else if g.any (fun p => p.2.routeWords.any (fun w => bitOf w.2 30 && !s.egressOk t (bitsOf w.2 18 8))) then 10
  else 0

/-- Distance of two tiles. -/
def tileHops (x y : Nat) : Nat := (max (x % 4) (y % 4) - min (x % 4) (y % 4)) + (max (x / 4) (y / 4) - min (x / 4) (y / 4))

/-- The tiles of the placed groups that are joined to a group by routes, one for each group. -/
def joinedTiles (v : View) (who : Nat) (g : List HPage) : List Nat :=
  let mine := g.map (fun p => p.2.pageNo)
  let out := g.flatMap (fun p => p.2.routeWords.filterMap (fun w => routeDest w.2))
  let placed := v.filter (fun e => e.2.pstate ≠ 0 && !e.2.stale && ownerOf e.2 = who)
  let joins := fun (x : PageD) => out.contains x.pageNo || x.routeWords.any (fun w => (routeDest w.2).any mine.contains)
  let gids := (placed.filter (fun e => joins e.2.page)).map (fun e => e.2.page.gid)
  (placed.filter (fun e => e.2.page.gpos = 0 && gids.contains e.2.page.gid)).map (fun e => bpTile e.1)

/-- The cost of a candidate (R201). -/
def State.cost (s : State) (v : View) (c : Placing) (g : List HPage) (t b q : Nat) : Nat :=
  let recs := vBay v t b
  let hops := ((joinedTiles v c.who g).map (fun x => tileHops t x)).sum
  let share := b2n (recs.any (fun e => ownerOf e.2 ≠ c.who))
  let isFree := fun p => !recs.any (fun e => e.1 = bpIx t b p) && (decide (p < q) || decide (q + g.length ≤ p))
  let free := ((List.range 4).filter isFree).length
  let split := b2n ((List.range 4).any (fun p => decide (p < q) && isFree p) &&
    (List.range 4).any (fun p => decide (q + g.length ≤ p) && isFree p))
  let wake := b2n (!s.domOn (domBay t b) && recs.isEmpty)
  let w := s.so.pol.weight
  bitsOf w 31 24 * hops + bitsOf w 23 16 * share + bitsOf w 15 8 * (free + 2 * split) + bitsOf w 7 0 * wake

/-- A group reserved at (t, b, q). A plane that still holds a page's own frames keeps them (R213). -/
def State.reserveAt (s : State) (v : View) (c : Placing) (g : List HPage) (t b q : Nat) : View :=
  g.foldl (fun v p =>
    let i := bpIx t b (q + p.2.gpos)
    let old := s.bpRec i
    let same := old.pstate = 2 && old.load = none && ownerOf old = c.who && old.pageNo = p.2.pageNo && old.cfg = p.1 && old.cfgOk
    SMap.put v i
      { pstate := 1, run := if c.who < 4096 then c.who else 0, pageNo := p.2.pageNo, cfg := p.1, cfgOk := same
        load := if c.who < 4096 then none else some (c.who - 4096), page := p.2
        port := if bitOf p.2.flags 0 then (vPorts v t).head? else none }) v

/-- Candidates in the order in which they are tried. -/
def candidates (n : Nat) : List (Nat × Nat × Nat) :=
  (List.range 8).flatMap (fun t => (List.range 64).flatMap (fun b => (List.range (5 - n)).map (fun q => (t, b, q))))

/-- The groups placed one after another; on failure the group and the reason (R202). -/
def State.placeGroups (s : State) (c : Placing) : List (List HPage) → View → Except (Nat × Nat) View
  | [], v => .ok v
  | g :: gs, v =>
    let base := vLoads v
    let cs := (candidates g.length).map (fun x => (x, s.fits v base c g x.1 x.2.1 x.2.2))
    let good := (cs.filter (fun e => e.2 = 0)).map (fun e => (e.1, s.cost v c g e.1.1 e.1.2.1 e.1.2.2))
    match bestOf (fun x y => decide (x.2 < y.2)) good with
    | some (x, _) => s.placeGroups c gs (s.reserveAt v c g x.1 x.2.1 x.2.2)
    | none => .error ((g.map (fun p => p.2.gid)).headD 0, (cs.map Prod.snd).foldl max 0)

/-- Every group at its previous place (R201). -/
def State.placeBack (s : State) (c : Placing) (prev : SMap Nat) : List (List HPage) → View → Option View
  | [], v => some v
  | g :: gs, v =>
    match (g.head?).bind (fun p => SMap.find prev p.2.pageNo) with
    | none => none
    | some i =>
      if bpPlane i + g.length ≤ 4 && s.fits v (vLoads v) c g (bpTile i) (bpBay i) (bpPlane i) = 0 then
        s.placeBack c prev gs (s.reserveAt v c g (bpTile i) (bpBay i) (bpPlane i))
      else none

/-- A view without the pages of an owner. -/
def vWithout (v : View) (who : Nat) : View := v.filter (fun e => ownerOf e.2 ≠ who)

/-- The view that the scheduler's placements start from: placements decided and not yet begun count as done, and bay-planes
claimed for eviction as free. -/
def State.view (s : State) : View :=
  let claimed := s.so.runs.flatMap (fun e => e.2.claimed)
  let v := s.so.bps.filter (fun e => !claimed.contains e.1)
  s.so.runs.foldl (fun v e => e.2.placing.foldl (fun v (p : Nat × BpRec) => SMap.put v p.1 p.2) v) v

/-- The view of a placement that begins at once, as a load's does (R160): claimed bay-planes are still occupied. -/
def State.viewNow (s : State) : View :=
  s.so.runs.foldl (fun v e => e.2.placing.foldl (fun v (p : Nat × BpRec) =>
    if (SMap.find v p.1).isSome then v else SMap.put v p.1 p.2) v) s.so.bps

/-- A view in which an owner's pages only occupy their bay-planes: it is to be placed elsewhere without leaving them (R201, R212). -/
def vStale (v : View) (who : Nat) : View := v.map (fun e => if ownerOf e.2 = who then (e.1, { e.2 with stale := true }) else e)

/-- PLACE_RUN (R201): the run's pages are read, then the search. `none`: a page is poisoned; `error`: no place. -/
def State.placeRun (s : State) (r : Nat) (v : View) : State × Option (Except (Nat × Nat) View) :=
  let x := s.run r
  let hs := s.cfgHandles r
  let c : Placing := { who := r, mask := x.tileMask, whole := x.wholeBay }
  match s.pagesAt r hs with
  | (t, none) => (t, none)
  | (t, some ps) =>
    let gs := groupsOf (hs.zip ps)
    let own := vWithout v r
    let resident := v.any (fun e => e.2.pstate ≠ 0 && ownerOf e.2 = r)
    match if resident then t.placeBack c x.place gs own else none with
    | some v' => (t, some (.ok v'))
    | none =>
      let v0 := if x.saveFail then vStale v r else own
      match t.placeGroups c (sortBy groupLe gs) v0 with
      | .ok v' => (t, some (.ok v'))
      | .error e => (t, some (.error e))

/-- SO_LAST_FAIL records a placement failure (R202). -/
def State.lastFail (s : State) (r group reason : Nat) (v : View) : State :=
  let n := vFree (if (s.run r).saveFail then v else vWithout v r)
  s.wr Reg.soLastFail (2 ^ 31 + b2n (decide ((s.run r).pageCount ≤ n)) * 2 ^ 30 + reason % 16 * 2 ^ 24 + r % 4096 * 2 ^ 12 + group % 2048)

/-! ### The settings written (R204) -/

/-- First plane of the group of a record. -/
def grpBase (i : Nat) (p : PageD) : Nat := bpPlane i - p.gpos

/-- The owner register of memory m, valid or not. -/
def State.setOwner (s : State) (n b : Nat) (deep : Bool) (m : Nat) (o : Option Nat) : State :=
  let r := if deep then Reg.bayDmown n b (m / 8) else Reg.bayBmown n b (m / 8)
  match o with
  | some p => s.setFld r (4 * (m % 8) + 3) (4 * (m % 8)) (8 + p)
  | none => s.setFld r (4 * (m % 8) + 3) (4 * (m % 8)) 0
def State.ownMems (s : State) (i : Nat) (p : PageD) (o : Option Nat) : State :=
  (s.each (bitsIn 160 p.bm) (fun t m => t.setOwner (bpTile i) (bpBay i) false m o)).each (bitsIn 16 p.dm)
    (fun t m => t.setOwner (bpTile i) (bpBay i) true m o)

/-- A route entry in its placed form. -/
def State.routeEntry (s : State) (who w : Nat) : Nat :=
  if !bitOf w 31 then 0
  else if bitOf w 30 then 2 ^ 31 + 2 ^ 27 + bitsOf w 18 8
  else match vPlace s.so.bps who (bitsOf w 18 8) with
    | some j => 2 ^ 31 + bpTile j * 2 ^ 28 + bpBay j * 2 ^ 21 + bpPlane j * 2 ^ 19 + bitsOf w 7 2 * 2 ^ 13
    | none => 0

/-- Route entries and expectation mask of a bay-plane. -/
def State.writeRoutes (s : State) (i : Nat) : State :=
  let e := s.bpRec i
  let s1 := s.each (List.range 64) (fun t k =>
    t.wr (Reg.bayXrt (bpTile i) (bpBay i) (bpPlane i) k) (t.routeEntry (ownerOf e) (e.page.routes.getD k 0)))
  s1.wr64 (Reg.bayXexpLo (bpTile i) (bpBay i) (bpPlane i)) (Reg.bayXexpHi (bpTile i) (bpBay i) (bpPlane i)) e.page.xexp

/-- The bay registers of a bay-plane. -/
def State.writeBay (s : State) (i : Nat) : State :=
  let e := s.bpRec i
  let p := e.page
  let s1 := (s.ownMems i p (some (bpPlane i))).setFld (stepReg i) 4 0 p.steps
  ((s1.setFld (stepReg i) 9 8 (grpBase i p)).setFld (stepReg i) 11 10 (p.gsize - 1)).writeRoutes i

/-- Local number of a design I/O bank. -/
def bankLocal (k : Nat) : Nat := (bankTile k).2

/-- A reset/enable slot is assigned (R68, R204). What a reader sees of a slot newly assigned, in a design cycle before its first
sample, is a free value (log entry 50). -/
def State.takeSlot (s : State) (n t p src bay : Nat) : State :=
  let w := s.wr (Reg.tcRetSrc n t p) (2 ^ 31 + src * 2 ^ 6 + bay)
  if s.bit (Reg.tcRetSrc n t p) 31 then w
  else
    let k := treeSlot n t p
    let v := decide (s.freeVal 2 = 1)
    { w.drawn with fab := { w.fab with
      trees := SMap.set (SMap.set w.fab.trees (2 * k) v false) (2 * k + 1) v false, treeRot := SMap.erase w.fab.treeRot k } }

/-- A memory-model port is given to bay-plane i (R135, R142): it starts with an empty cache, and a page that comes back finds its
window as it left it. -/
def State.takePort (s : State) (n k i : Nat) : State :=
  let e := s.bpRec i
  if s.bit (Reg.mmpCtrl n k) 31 then s
  else
    let s1 := (s.setFld (Reg.mmpCtrl n k) 25 18 (bpPlane i * 64 + bpBay i)).setBit (Reg.mmpCtrl n k) 31 true
    match (if e.load.isSome then none else SMap.find (s.run e.run).windows e.pageNo) with
    | some (b, z, u) =>
      ((s1.wr64 (Reg.mmpBaseLo n k) (Reg.mmpBaseHi n k) b).wr64 (Reg.mmpSizeLo n k) (Reg.mmpSizeHi n k) z).setBit (Reg.mmpCtrl n k) 30 u
    | none => s1

/-- A port leaves its bay-plane: its cache holds nothing, no request and no flush is open, and the run keeps the window. Lines on
their way to memory still go there. -/
def State.leavePort (s : State) (n k : Nat) (e : BpRec) : State :=
  let s1 := ((s.setBit (Reg.mmpCtrl n k) 31 false).setBit (Reg.mmpCtrl n k) 29 false).setMmp n k { wbs := (s.mmp n k).wbs }
  if e.load.isSome || (s.run e.run).state = .empty then s1
  else s1.setRun e.run { s.run e.run with
    windows := SMap.put (s.run e.run).windows e.pageNo
      (s.rd64 (Reg.mmpBaseLo n k) (Reg.mmpBaseHi n k), s.rd64 (Reg.mmpSizeLo n k) (Reg.mmpSizeHi n k), s.bit (Reg.mmpCtrl n k) 30) }

/-- The tile registers that a bay-plane's page needs and that are not yet set. -/
def State.writeTile (s : State) (i : Nat) : State :=
  let e := s.bpRec i
  let n := bpTile i
  let s1 := s.each (List.range 16) (fun t c =>
    let w := e.page.clk.getD c 0
    if bitOf w 31 && !t.bit (Reg.tcCt n c) 31 then t.wr (Reg.tcCt n c) (2 ^ 31 + w % 2 ^ 24) else t)
  let s2 := s1.each (bitsIn 5 e.page.trees) (fun t u => t.takeSlot n u (bpPlane i) (bitsOf (e.page.ret.getD u 0) 24 6) (bpBay i))
  let s3 := match e.port with
    | some k => s2.takePort n k i
    | none => s2
  (s3.each ((bitsIn 12 e.page.banks).zipIdx) (fun t (k : Nat × Nat) =>
    t.wrFields (Reg.dioBCfg n (bankLocal k.1)) (e.page.ioCfg.getD k.2 0)))

/-- The Courier ingress entries that name a page of a run (R452). -/
def State.ingress (s : State) (r k : Nat) (hi : Nat) : State :=
  s.each ((List.range 8).filter (fun n => s.domOn (domCr n))) (fun t n => t.each (List.range 4096) (fun u x =>
    let lo := u.rd (Reg.crIngLo n x)
    if bitOf lo 31 && !bitOf lo 30 && bitsOf lo 29 18 = r && bitsOf lo 17 7 = k then u.wr (Reg.crIngHi n x) hi else u))

/-- The placement settings of a bay-plane: its bay and tile wake when they are off, and are written when they are on. -/
def State.placementWrite (s : State) (i : Nat) : State :=
  let n := bpTile i
  let b := bpBay i
  let s1 := s.wakeBay n b
  let s2 := if s1.domOn (domTile n) then s1.writeTile i else s1
  if s2.domOn (domBay n b) then s2.writeBay i else s2

/-! ### Eviction (R210) -/

/-- The tile resources of a record are released where no other page uses them. -/
def State.releaseTile (s : State) (i : Nat) (e : BpRec) : State :=
  let n := bpTile i
  let rest := vTile s.so.bps n
  let s1 := s.each (List.range 16) (fun t c =>
    if bitOf (e.page.clk.getD c 0) 31 && rest.all (fun x => !bitOf (x.2.page.clk.getD c 0) 31) then
      t.setBit (Reg.tcCt n c) 31 false else t)
  let s2 := s1.each (bitsIn 5 e.page.trees) (fun t u =>
    if rest.all (fun x => !(bpPlane x.1 = bpPlane i && bitOf x.2.page.trees u)) then t.setBit (Reg.tcRetSrc n u (bpPlane i)) 31 false else t)
  let s3 := match e.port with | some k => s2.leavePort n k e | none => s2
  s3.each (bitsIn 12 e.page.banks) (fun t k =>
    if rest.all (fun x => !bitOf x.2.page.banks k) then t.setBit (Reg.dioBCfg n (bankLocal k)) 31 false else t)

/-- A bay-plane's page leaves it: scrub enable, memory ownership and tile resources are cleared and the plane is FREE. -/
def State.evictBp (s : State) (i : Nat) : State :=
  let e := s.bpRec i
  if e.pstate = 0 then s
  else
    let s1 := (((s.scrubEn i false).ownMems i e.page none).relHoldNow i).setBp i {}
    let s2 := s1.setBpRec i {}
    s2.releaseTile i e

/-- Eviction of resident pages of runs: counted, and their state pages are no longer resident. -/
def State.evict (s : State) (is : List Nat) : State :=
  State.trigSweep <| s.each is (fun t i =>
    let e := t.bpRec i
    if e.pstate = 2 && e.load = none then
      let h := (t.run e.run).stateBase + e.pageNo
      let t1 := (t.evictBp i).count Reg.soEvict 15 0 1
      if e.stale then t1
      else
        let (u, p) := t1.pmGet h e.run
        let w := if poisonedEnt p then u else u.pmPut h { p with res := false }
        w.ingress e.run e.pageNo 0
    else t.evictBp i)

end Sys2Proof.Machine
end

