-- ==== Sys2Proof/Machine/RunState.lean ====
section
/-!
DEFINITION. The state of a bay-plane as suspends and snapshots carry it: the state slot, the items of a state page, memory
initialisation (R99, R134, R142, R143, R148, R222).
-/
namespace Sys2Proof.Machine

/-! ### The state slot (R39, R62, R99) -/

/-- In-bundle k of the bank that the next design cycle reads. -/
def State.inBundle (s : State) (i k : Nat) : Word := SMap.get (s.bp i).banks (64 * (s.dcc i % 2) + k) 0
def State.setInBundle (s : State) (i k : Nat) (v : Word) : State :=
  let rt := s.bp i
  s.setBp i { rt with banks := SMap.set rt.banks (64 * (s.dcc i % 2) + k) v 0 }

/-- One byte at offset `o` of a state slot: the bank lies at 0x5200, and the slot reads 0 above 0x5300. -/
def State.slotByte (s : State) (i o : Nat) : Byte :=
  if o < 0x5200 then s.byte (stateAddr i + o)
  else if o < 0x5300 then BitVec.ofNat 8 ((s.inBundle i ((o - 0x5200) / 4)).toNat / 256 ^ (o % 4))
  else 0

/-- A byte of a state slot written. -/
def State.putSlotByte (s : State) (i o : Nat) (b : Byte) : State :=
  if o < 0x5200 then s.putByte (stateAddr i + o) b
  else if o < 0x5300 then
    let k := (o - 0x5200) / 4
    s.setInBundle i k (BitVec.ofNat 32 (putBits (s.inBundle i k).toNat (8 * (o % 4) + 7) (8 * (o % 4)) b.toNat))
  else s

/-- Bytes written in turn from an offset of a state slot. -/
def State.putSlot (s : State) (i o : Nat) : List Byte → State
  | [] => s
  | b :: bs => (s.putSlotByte i o b).putSlot i (o + 1) bs

/-! ### The items of a state page (R142, R187) -/

/-- Bytes of a state slot that are saved. -/
def slotLen : Nat := 0x5300

/-- Granules of a state page, and bytes of a segment body (R187, R222). -/
def stateGran (p : PageD) : Nat :=
  (33580 + 9220 * (bitsIn 160 p.bm).length + 131076 * (bitsIn 16 p.dm).length + 65535) / 65536
def bodyLen (p : PageD) (mem : Bool) : Nat :=
  let n := (bitsIn 160 p.bm).length
  let d := (bitsIn 16 p.dm).length
  33580 + 4 * (n + d) + if mem then 9216 * n + 131072 * d else 0

/-- Contents of the memories that a page owns, by kind and index, with their sizes. -/
def pageMems (p : PageD) : List (Bool × Nat × Nat) :=
  (bitsIn 160 p.bm).map (fun m => (false, m, 9216)) ++ (bitsIn 16 p.dm).map (fun m => (true, m, 131072))

/-- The response of a page's memory-model port: 32 data bytes, then ERR and UE at their places in MMP_k_CTRL. -/
def State.mmpResponse (s : State) (i : Nat) : List Byte :=
  match (s.bpRec i).port with
  | some k =>
    let n := bpTile i
    ((List.range 8).flatMap (fun j => leBytes 4 (s.rd (Reg.mmpRdata n k j)))) ++ leBytes 4 (s.fld (Reg.mmpCtrl n k) 28 27 * 2 ^ 27)
  | none => zeroBytes 36

/-- The items of a bay-plane in the order of R142; `mem` includes the memory contents. -/
def State.stateItems (s : State) (i : Nat) (mem : Bool) : List Byte :=
  let n := bpTile i
  let b := bpBay i
  let p := (s.bpRec i).page
  (List.range slotLen).map (s.slotByte i) ++
  (List.range 192).flatMap (fun sl => s.bytes (sliceAddr i sl) 64) ++
  (if mem then (pageMems p).flatMap (fun e => s.bytes (memAddr n b e.1 e.2.1) e.2.2) else []) ++
  (pageMems p).flatMap (fun e => leBytes 4 (s.rd (memAdrReg n b e.1 e.2.1))) ++
  leBytes 8 (s.dcc i) ++ s.mmpResponse i

/-- Memory contents written back, in order. -/
def State.putMems (s : State) (n b : Nat) : List (Bool × Nat × Nat) → List Byte → State
  | [], _ => s
  | (deep, m, len) :: ms, d => (s.putBytes (memAddr n b deep m) (d.take len)).putMems n b ms (d.drop len)

/-- A bay-plane restored from its items in the order of R143: memories, address registers, slices, state slot and DCC, port
response. -/
def State.restoreItems (s : State) (i : Nat) (d : List Byte) : State :=
  let n := bpTile i
  let b := bpBay i
  let e := s.bpRec i
  let ms := pageMems e.page
  let memLen := (ms.map (fun x => x.2.2)).sum
  let mo := slotLen + 12288
  let ao := mo + memLen
  let co := ao + 4 * ms.length
  let s1 := s.putMems n b ms (d.drop mo)
  let s2 := s1.each ms.zipIdx (fun t x => t.wr (memAdrReg n b x.1.1 x.1.2.1) (leAt d (ao + 4 * x.2) 4))
  let s3 := s2.each (List.range 192) (fun t sl => t.putBytes (sliceAddr i sl) ((d.drop (slotLen + 64 * sl)).take 64))
  let s4 := (s3.setDcc i (leAt d co 8)).putSlot i 0 (d.take slotLen)
  match e.port with
  | some k =>
    let s5 := s4.each (List.range 8) (fun t j => t.wr (Reg.mmpRdata n k j) (leAt d (co + 8 + 4 * j) 4))
    s5.setFld (Reg.mmpCtrl n k) 28 27 (bitsOf (leAt d (co + 40) 4) 28 27)
  | none => s4

/-! ### Memory initialisation (R134, R148) -/

/-- A memory-initialisation record: kind, index and data. -/
abbrev MemRec := Bool × Nat × List Byte

/-- The records of an extras area from offset 320; `none` when one breaks R148. A head of zeros begins the padding. -/
def memRecs (p : PageD) : Nat → List Byte → Option (List MemRec)
  | 0, _ => some []
  | _, [] => some []
  | f + 1, b :: bs =>
    let d := b :: bs
    let kind := leAt d 0 1
    let ix := leAt d 2 2
    let len := leAt d 4 4
    let pad := 8 + (len + 7) / 8 * 8
    if leAt d 0 8 = 0 then some []
    else if 1 < kind || !bitOf (if kind = 0 then p.bm else p.dm) ix || decide ((if kind = 0 then 160 else 16) ≤ ix) ||
        len = 0 || decide ((if kind = 0 then 9216 else 131072) < len) || decide (d.length < pad) then none
    else (memRecs p f (d.drop pad)).map (fun rs => ((kind = 1 : Bool), ix, (d.drop 8).take len) :: rs)

/-- The initial contents of a bay-plane's memories, with zero address registers. -/
def State.initMems (s : State) (i : Nat) (rs : List MemRec) : State :=
  let n := bpTile i
  let b := bpBay i
  let p := (s.bpRec i).page
  let s1 := s.each (pageMems p) (fun t e =>
    (t.zeroRange (memAddr n b e.1 e.2.1) (memAddr n b e.1 e.2.1 + e.2.2)).wr (memAdrReg n b e.1 e.2.1) 0)
  s1.each rs (fun t r => t.putBytes (memAddr n b r.1 r.2.1) r.2.2)

/-- Configuration frames written from a page's configuration bytes. -/
def State.putFrames (s : State) (i : Nat) (f : Nat) : Nat → List Byte → State
  | 0, _ => s
  | k + 1, d => (s.putFrame (bpTile i) (i % 256 * 3072 + f) (d.take 512)).putFrames i (f + 1) k (d.drop 512)

end Sys2Proof.Machine
end

