-- ==== Sys2Proof/Machine/Runs.lean ====
section
/-!
DEFINITION. Runs: creation and end, designs and reference counts, requests and the pending slot, stops, saves, placement and
release, swaps (R189–R221).
-/
namespace Sys2Proof.Machine

/-! ### Designs and reference counts (R189, R190) -/

/-- The handles of a design's pages. -/
def designHandles (d : Design) : List Nat := (List.range d.pageCount).map (d.cfgBase + ·)

/-- A configuration page's reference count raised by one. -/
def State.refUp (s : State) (h : Nat) : State :=
  let (t, e) := s.pmGet h noRun
  if poisonedEnt e then t else t.pmPut h { e with refcount := e.refcount + 1 }

/-- Lowered by one: a page whose count reaches 0 is freed. -/
def State.refDown (s : State) (h : Nat) : State :=
  let (t, e) := s.pmGet h noRun
  if poisonedEnt e then t
  else if e.refcount ≤ 1 then t.pmFree h
  else t.pmPut h { e with refcount := e.refcount - 1 }

/-- A page of design d has been freed: its handle is free, or is another object's by now. A poisoned entry counts as freed. -/
def State.pageGone (s : State) (d h : Nat) : Bool :=
  let e := (s.pmGet h noRun).2
  (SMap.find s.so.pmAlloc h).isNone || poisonedEnt e || !(e.kind = 1 && e.owner % 1024 = d)

/-- A design slot is freed once every page of it that is not poisoned has been freed. -/
def State.designGc (s : State) (d : Nat) : State :=
  let x := s.design d
  if x.state = 3 && (designHandles x).all (s.pageGone d) then s.setDesign d {} else s

/-- A design is discarded. -/
def State.discard (s : State) (d : Nat) : State :=
  let x := s.design d
  ((s.setDesign d { x with state := 3 }).each (designHandles x) (fun t h => t.refDown h)).designGc d

/-- The design that owns a configuration page, by its Page Map entry (OWNER). -/
def State.designOf (s : State) (h : Nat) : Option Nat :=
  let e := (s.pmGet h noRun).2
  if e.kind = 1 && !poisonedEnt e then some (e.owner % 1024) else none

/-! ### Creation (R191, R192) -/

/-- The lowest free run number. -/
def State.runFree (s : State) : Option Nat := (List.range 4096).find? (fun r => (s.run r).state = .empty)

/-- The extents of a run's state pages, allocated for operation w at handle h. -/
def State.runSpace (s : State) (w h : Nat) (ps : List PageD) : AllocRes :=
  s.allocFor State.findExtent w h (ps.zipIdx.map (fun p => (p.2 % 8, stateGran p.1)))

/-- The pages of a list that have EXT routes, by their places in it. -/
def extOf (ps : List PageD) : List Nat := (ps.zipIdx.filter (fun p => p.1.ext)).map Prod.snd

/-- A run of design d whose pages are `ps`, made for operation w: its entry, its state pages, its references. The answer is a
status code; BUSY while the allocation waits for a compaction. -/
def State.runMake (s : State) (w d prio mask : Nat) (whole : Bool) (st : RunState) (ps : List PageD) : State × Nat × Nat :=
  let x := s.design d
  match s.runFree, s.findHandles x.pageCount with
  | some r, some h =>
    match s.runSpace w h ps with
    | .short t => (t, stNoResource, 0)
    | .waits t => (t, stBusy, 0)
    | .done t =>
      let t1 := t.each ps.zipIdx (fun u p =>
        let (m, g, len) := SMap.get u.so.pmAlloc (h + p.2) (0, 0, 0)
        u.pmPut (h + p.2) { kind := 2, stat := 0, stack := m, granule := g, len := len, owner := r, pageNo := p.2 })
      let t2 := t1.each (designHandles x) (fun u k => u.refUp k)
      let t3 := t2.setDesign d { x with runs := x.runs + 1 }
      (t3.setRun r { state := st, prio := prio, wholeBay := whole, tileMask := mask, design := d, pageCount := x.pageCount, stateBase := h
                     urg := prio * 4096, extPages := extOf ps }, stOk, r)
  | _, _ => (s.compForget w, stNoResource, 0)

/-- RUN_CREATE's work for client w: the design's pages are read first (R185). -/
def State.runCreate (s : State) (w d prio mask : Nat) (whole : Bool) : State × Nat × Nat :=
  if (s.design d).state ≠ 2 then (s, stBadState, 0)
  else match s.pagesAt noRun (designHandles (s.design d)) with
    | (t, none) => (t, stIntegrity, 0)
    | (t, some ps) => t.runMake w d prio mask whole .idle ps

/-! ### Stops, starts and holds -/

/-- Whether a run has EXT routes (FLAGS bit 1 of a page). -/
def State.hasExt (s : State) (r : Nat) : Bool := !(s.run r).extPages.isEmpty

/-- DCC of a run, the same in all its bay-planes. -/
def State.runDcc (s : State) (r : Nat) : Nat := s.dccOf r

/-- The memory-model ports of a run: tile and port. -/
def State.runPorts (s : State) (r : Nat) : List (Nat × Nat) :=
  (s.runBps r).filterMap (fun i => (s.bpRec i).port.map (fun k => (bpTile i, k)))

/-- Whether a port still has lines or a flush in progress; its flush begins (R141, R209, R225). -/
def State.portsClean (s : State) (r : Nat) : Bool :=
  (s.runPorts r).all (fun p => (s.mmp p.1 p.2).lines.isEmpty && (s.mmp p.1 p.2).wbs.isEmpty && !s.bit (Reg.mmpCtrl p.1 p.2) 29)
def State.portsFlush (s : State) (r : Nat) : State := s.each (s.runPorts r) (fun t p => t.mmpFlush p.1 p.2)

/-- The stop cycle of a stop with STOP = 0 (R208). -/
def State.stopCycle (s : State) (r stop : Nat) : Nat :=
  if stop = 0 then (if (s.runPorts r).isEmpty || (s.run r).held then 0 else s.runDcc r + 64)
  else if stop < s.runDcc r then 0 else stop

/-- OP 3 in every bay-plane of a run, at a boundary (R81). -/
def State.holdAll (s : State) (r : Nat) : State := s.each (s.runBps r) (fun t i => t.relHoldNow i)

/-- Every bay-plane of a run stands between two design cycles (R544). -/
def State.runAtBoundary (s : State) (r : Nat) : Bool := (s.runBps r).all (fun i => !s.inCycle i)

/-- Every bay-plane of a run stands at the same design-cycle boundary: the last that any of them has come to. -/
def State.runEven (s : State) (r : Nat) : Bool := s.runAtBoundary r && (s.runBps r).all (fun i => (s.bp i).rot = s.runFront r)

/-- The release of a run: OP 1 for the first, OP 2 afterwards (R78, R196). -/
def State.release (s : State) (r : Nat) : State :=
  let x := s.run r
  let s1 := s.each (s.runBps r) (fun t i => t.relOp i (if x.started then 2 else 1))
  s1.setRun r { x with started := true, held := false }

/-- Halted or Safe Hold: no release is written (R545). -/
def State.frozen (s : State) : Bool := s.mode = 8 || s.mode = 10

/-- A release that falls due; deferred in Halted and Safe Hold (R545). -/
def State.releaseDue (s : State) (r : Nat) : State :=
  if s.frozen then { s with pw := { s.pw with deferred := s.pw.deferred ++ [r] } } else s.release r

/-! ### The end of a run (R190, R196, R237, R411) -/

/-- Streams of a run closed, their buffered data discarded. -/
def State.closeStreams (s : State) (r : Nat) : State :=
  { s with vl := { s.vl with streams := s.vl.streams.filter (fun e => e.2.run ≠ r) } }

/-- A snapshot's segments and its entry freed; its ticket ends abandoned when the capture has not begun (R238). -/
def State.snapDrop (s : State) (k : Nat) : State :=
  let x := SMap.get s.so.snaps k {}
  let s1 := if x.alloc then s.each (List.range x.pageCount) (fun t j => t.pmFree (x.segBase + j)) else s
  let s2 := match x.ticket with | some t => s1.tktEnd t 5 0 | none => s1
  { s2 with so := { s2.so with snaps := SMap.erase s2.so.snaps k } }

/-- Ring and snapshots of a run freed, locked ones and unused slots included. -/
def State.dropSnaps (s : State) (r : Nat) : State :=
  let mine := (s.so.rings.filter (fun e => e.2.run = r)).map Prod.fst
  let s1 := s.each (s.so.snaps.filter (fun e => (e.2.state ≠ 0 && e.2.run = r) || e.2.ring.any mine.contains)) (fun t e => t.snapDrop e.1)
  { s1 with so := { s1.so with rings := s1.so.rings.filter (fun e => e.2.run ≠ r) } }

/-- The run's entry becomes EMPTY: bay-planes, state pages, references, streams, ring and snapshots are freed. -/
def State.endFree (s : State) (r : Nat) : State :=
  let x := s.run r
  let hs := s.cfgHandles r
  let own := (designHandles (s.design x.design)).take x.pageCount
  let ds := (hs.filter (fun h => !own.contains h)).filterMap s.designOf
  let s1 := ((s.holdAll r).stepDrop r stBadState).evict (s.runHeld r)
  let s2 := s1.each (List.range x.pageCount) (fun t k => t.pmFree (x.stateBase + k))
  let s3 := s2.each hs (fun t h => t.refDown h)
  let s4 := { s3 with so := { s3.so with swaps := s3.so.swaps.filter (fun e => e.2.run ≠ r) } }
  let d := s4.design x.design
  let s5 := (s4.setDesign x.design { d with runs := d.runs - 1 }).designGc x.design
  let s6 := s5.each ds (fun t k => t.designGc k)
  let s7 := (s6.closeStreams r).dropSnaps r
  let s8 := ((s7.tktProgress? x.curTkt x.pageCount 0).tktEnd? x.curTkt 2 x.endErr).giveUp r |>.compactDone r false
  let s9 := match x.pend with | some q => s8.tktEnd? q.ticket 3 stBadParam | none => s8
  let s10 := s9.setRun r {}
  let s11 := { s10 with
    so := { s10.so with exclRun := if s10.so.exclRun = some r then none else s10.so.exclRun }
    pw := { s10.pw with deferred := s10.pw.deferred.filter (· ≠ r), modeHeld := s10.pw.modeHeld.filter (· ≠ r) } }
  if x.excl then s11.modeQueue { src := .auto, target := 6 } else s11

/-! ### Placement begins and completes (R204, R213, R216) -/

/-- The segments of a run's snapshots to come move with its pages to the stacks of their new tiles; where space is not found,
a request fails with NO_RESOURCE and a ring's snapshot is skipped (R232). -/
def State.segFollow (s : State) (k : Nat) (recs : View) : State :=
  let x := SMap.get s.so.snaps k {}
  let r := recs.foldl (fun (st : State × Bool) e =>
    let h := x.segBase + e.2.pageNo
    let (t, p) := st.1.pmGet h noRun
    if !st.2 || p.stack = bpTile e.1 || poisonedEnt p then (t, st.2)
    else
      let t1 := if (t.findExtent (bpTile e.1) p.len).isNone then t.allocFailed (bpTile e.1) p.len else t
      match t1.findSave (bpTile e.1) p.len with
      | some g => ((t1.alloc h (bpTile e.1) g p.len).pmPut h { p with stack := bpTile e.1, granule := g }, true)
      | none => (t1, false)) (s, true)
  if r.2 then r.1
  else
    let s1 := (r.1.tktEnd? x.ticket 3 stNoResource).snapDrop k
    match x.ring with
    | some g => { s1 with so := { s1.so with
        snaps := SMap.put s1.so.snaps k { ring := some g, run := x.run }
        rings := SMap.modify s1.so.rings g (fun (q : Ring) => { q with skipped := (q.skipped + 1) % 2 ^ 32 }) } }
    | none => s1

/-- The records that a placement gives a run. -/
def recsOf (v : View) (r : Nat) : View := v.filter (fun e => e.2.load = none && e.2.pstate = 1 && e.2.run = r)

/-- A placement is written: pages that it does not put back are evicted, the planes are RESERVED, settings are written. Pages
with SAVE_FAIL that go elsewhere stay where they are until their state has been taken (R212; log entry 53). A run placed again
counts in the compact requests that suspended it (R199). -/
def State.beginLoad (s : State) (r : Nat) (recs : View) (backfill : Bool) : State :=
  let x := s.run r
  let gone := (s.runBps r).filter (fun i => (SMap.find recs i).isNone)
  let left := if x.saveFail then s.each gone (fun t i => t.setBpRec i { t.bpRec i with stale := true }) else s.evict gone
  let segs := left.so.snaps.filter (fun e => e.2.run = r && e.2.state = 1 && e.2.alloc)
  let s0 := left.each segs (fun t e => t.segFollow e.1 recs)
  let back := (s0.so.compactBack.filter (fun e => e.2 = r)).map Prod.fst
  let s0' := s0.each back (fun t i => t.tktProgress i ((t.tkt i).prog + 1) 0)
  let s1 := { s0' with so := { s0'.so with compactBack := s0'.so.compactBack.filter (fun e => e.2 ≠ r) } }.each recs
    (fun t e => t.setBpRec e.1 e.2)
  let s2 := s1.each recs (fun t e => t.placementWrite e.1)
  let s3 := s2.each recs (fun t e => t.ingress r e.2.pageNo
    (2 ^ 31 + bpTile e.1 * 2 ^ 28 + bpBay e.1 * 2 ^ 22 + bpPlane e.1 * 2 ^ 20))
  let groups := (recs.filter (fun e => e.2.page.gpos = 0)).length
  (s3.setRun r { s3.run r with
    state := .loading, curOp := .place, xfer := SMap.keys recs, switches := (x.switches + 1) % 2 ^ 32, backfill := backfill
    qleft := max 5 (s.so.pol.quantum % 65536), wait := 0, urg := x.prio * 4096, waitFor := [], placing := []
    place := recs.foldl (fun m e => SMap.put m e.2.pageNo e.1) x.place }).tktActive? x.curTkt |>.tktProgress? x.curTkt 0 groups

/-- A placement decided: it begins at once, or once the runs that are to leave its bay-planes have left; till then the run is
WAITING with its operation in progress. -/
def State.placeDecided (s : State) (r : Nat) (recs : View) (backfill : Bool) (victims : List Nat) : State :=
  if victims.isEmpty then s.beginLoad r recs backfill
  else (s.setRun r { s.run r with curOp := .place, waitFor := victims, placing := recs, backfill := backfill })

/-- A victim has left its bay-planes: placements that waited for it alone begin. -/
def State.victimGone (s : State) (r : Nat) : State :=
  s.each (s.so.runs.filter (fun e => e.2.waitFor.contains r)) (fun t e =>
    let x := t.run e.1
    let rest := x.waitFor.filter (· ≠ r)
    if rest.isEmpty then t.beginLoad e.1 x.placing x.backfill else t.setRun e.1 { x with waitFor := rest })

/-- The state page entry of a page that has come to stand on bay-plane i. -/
def State.pmReside (s : State) (i : Nat) : State :=
  let e := s.bpRec i
  let h := (s.run e.run).stateBase + e.pageNo
  let (t, p) := s.pmGet h e.run
  if poisonedEnt p then t else t.pmPut h { p with res := true, tile := bpTile i, bay := bpBay i, plane := bpPlane i }

/-- The frames of bay-plane i written from its configuration page, unless the plane holds them (R213 step 2). -/
def State.loadFrames (s : State) (i : Nat) : Got :=
  let e := s.bpRec i
  if e.cfgOk then { st := s }
  else
    let (t, p) := s.pmGet e.cfg e.run
    let g := t.dramRead (granAddr p.stack p.granule + descBytes) cfgBytes (0x10 + bpTile i)
    if poisonedEnt p || g.cause ≠ 0 then { st := g.st, cause := 4 } else { st := g.st.putFrames i 0 3072 g.data }

/-- The segment of a page in a snapshot, and the state page of a page: its entry, and the offset of the items. -/
def State.sourceOf (s : State) (i : Nat) : Nat × Nat :=
  let e := s.bpRec i
  match (s.run e.run).restoreFrom with
  | some k => ((SMap.get s.so.snaps k {}).segBase + e.pageNo, 64)
  | none => ((s.run e.run).stateBase + e.pageNo, 0)

/-- Items of a state page with all but the memories and their address registers taken from a segment without memories (R248). -/
def mergeItems (p : PageD) (seg page : List Byte) : List Byte :=
  let mo := slotLen + 12288
  let adr := 4 * (pageMems p).length
  let mems := ((pageMems p).map (fun x => x.2.2)).sum
  seg.take mo ++ (page.drop mo).take (mems + adr) ++ seg.drop (mo + adr)

/-- The bay-plane that a page has left and that still holds its state (R212). -/
def State.stalePlane (s : State) (r k : Nat) : Option Nat :=
  (s.so.bps.find? (fun q => q.2.stale && q.2.run = r && q.2.pageNo = k)).map Prod.fst

/-- The state of bay-plane i restored, or its memories initialised (R213 step 3, R134, R249). Resident state that no save has
kept is taken from where it stands (R212). -/
def State.loadState (s : State) (i : Nat) : Got :=
  let e := s.bpRec i
  let x := s.run e.run
  let p := e.page
  if x.started || x.restoreFrom.isSome then
    if x.saveFail && x.restoreFrom.isNone then
      match s.stalePlane e.run e.pageNo with
      | some j => { st := s.restoreItems i (s.stateItems j true) }
      | none => { st := s }
    else
      let (h, off) := s.sourceOf i
      let (t, q) := s.pmGet h e.run
      let mem := match x.restoreFrom with | some k => (SMap.get s.so.snaps k {}).mem | none => true
      let g := t.dramRead (granAddr q.stack q.granule + off) (bodyLen p mem) (0x10 + bpTile i)
      if poisonedEnt q || g.cause ≠ 0 then { st := g.st, cause := 4 }
      else if mem then { st := g.st.restoreItems i g.data }
      else
        let (u, w) := g.st.pmGet (x.stateBase + e.pageNo) e.run
        let f := u.dramRead (granAddr w.stack w.granule) (bodyLen p true) (0x10 + bpTile i)
        if poisonedEnt w || f.cause ≠ 0 then { st := f.st, cause := 4 }
        else { st := f.st.restoreItems i (mergeItems p g.data f.data) }
  else
    let (t, q) := s.pmGet e.cfg e.run
    let g := t.dramRead (granAddr q.stack q.granule + descBytes + cfgBytes + 320) (p.extraLen - 320) (0x10 + bpTile i)
    if poisonedEnt q || g.cause ≠ 0 then { st := g.st, cause := 4 }
    else { st := (g.st.initMems i ((memRecs p g.data.length g.data).getD [])).setDcc i 0 }

/-- An object that is MOVING is waited for (R188). -/
def State.moving (s : State) (h : Nat) : Bool := (s.pmGet h noRun).2.stat = 2

/-- Whether the page port serves an object's stack now; a poisoned entry needs no access. -/
def State.objServed (s : State) (h : Nat) : Bool := let e := (s.pmGet h noRun).2; poisonedEnt e || s.pageServed e.stack

/-- Whether the transfer of bay-plane i of run r can be made now; it waits while a stack that it reads is not served (R34). -/
def State.xferReady (s : State) (r i : Nat) : Bool :=
  let x := s.run r
  s.hubOn && x.state = .loading && x.curOp = .place && x.waitFor.isEmpty && x.xfer.contains i &&
    s.domOn (domBay (bpTile i) (bpBay i)) && !s.moving (s.bpRec i).cfg && !s.moving (s.sourceOf i).1 &&
    s.objServed (s.bpRec i).cfg && (!(x.started || x.restoreFrom.isSome) || s.objServed (s.sourceOf i).1)

/-- Settings, frames and state of bay-plane i (R213 steps 1–3). -/
def State.xferWork (s : State) (i : Nat) : Got :=
  let f := (s.placementWrite i).loadFrames i
  if f.cause = 0 then f.st.loadState i else f

/-- RESUME_TRANSFER_COMPLETE (R213): settings, frames, state and scrub enable of one bay-plane; after the last, the release. -/
def execResumeTransferComplete (run : Fin 4096) (bp : Fin 2048) (s : State) : Out :=
  let r : Nat := run
  let i : Nat := bp
  let x := s.run r
  let w := s.xferWork i
  let g : Got := match w.st.stalePlane r (w.st.bpRec i).pageNo with
    | some j => if w.cause = 0 then { w with st := (w.st.evictBp j).count Reg.soEvict 15 0 1 } else w
    | none => w
  let s1 := g.st.setBpRec i { g.st.bpRec i with pstate := 2, cfgOk := true }
  let s2 := (s1.setBp i { banks := (s1.bp i).banks }).pmReside i
  let s3 := s2.scrubEn i true
  let rest := x.xfer.filter (· ≠ i)
  let s4 := (s3.setRun r { s3.run r with xfer := rest }).tktProgress? x.curTkt (x.pageCount - rest.length) 0
  s.when (s.xferReady r i) (if g.cause ≠ 0 then g.st.runFault r else if rest.isEmpty then (s4.trigReload r).releaseDue r else s4)

/-- Whether a run's release has come to STAGE 3 in every bay-plane. -/
def State.released (s : State) (r : Nat) : Bool :=
  let x := s.run r
  s.hubOn && ((x.state = .loading && x.curOp = .place && x.xfer.isEmpty && x.waitFor.isEmpty) || x.curOp = .start) &&
    (s.runBps r).all (fun i => s.stage i = 3)

/-- RUN_RELEASE_COMPLETE (R196): STAGE 3 in every bay-plane. -/
def execRunReleaseComplete (run : Fin 4096) (s : State) : Out :=
  let r : Nat := run
  let x := s.run r
  let s1 := (s.setRun r { x with state := .running, curOp := .none, curTkt := none, restoreFrom := none }).tktEnd? x.curTkt 2 0
  let s2 := match x.restoreFrom with
    | some k => { s1 with so := { s1.so with snaps := SMap.modify s1.so.snaps k (fun (e : Snap) => { e with pin := false }) } }
    | none => s1
  s.when (s.released r) (if s.so.switchRun = some r then
      (({ s2 with so := { s2.so with switchRun := none } }).wr Reg.soSwitchUs (s.freeVal (2 ^ 32))).drawn
    else s2)

/-! ### Suspends and saves (R208–R212) -/

/-- A run that has stopped begins to save every bay-plane. -/
def State.saveBegin (s : State) (r : Nat) : State :=
  let x := s.run r
  s.setRun r { x with state := .suspending, save := s.runBps r, dcc := s.runDcc r, held := false }

/-- Every state page is saved: SUSPENDED, or WAITING after a preemption; claimed bay-planes are evicted. -/
def State.saveDone (s : State) (r : Nat) : State :=
  let x := s.run r
  let s1 := s.setRun r { x with
    state := if x.curOp = .suspend then .suspended else .waiting, curOp := .none, curTkt := none, claimed := [], save := []
    wait := 0, urg := x.prio * 4096, saveFail := false, endErr := 0, stop := 0 }
  let s2 := (s1.evict x.claimed).tktProgress? x.curTkt x.pageCount x.claimed.length
  ((s2.tktEnd? x.curTkt 2 x.endErr).compactDone r true).victimGone r

/-- A save write fails (R212). -/
def State.saveFailed (s : State) (r h : Nat) : State :=
  let x := s.run r
  let s1 := s.setRun r { x with
    state := .suspended, curOp := .none, curTkt := none, claimed := [], save := [], saveFail := true, endErr := 0 }
  (((s1.event 0x0302 5 h r).tktEnd? x.curTkt 3 stBusError).compactDone r false).giveUp r

/-- Where a save of `len` granules on tile n goes: in place in the tile's own stack, else a new extent there, else the old
extent (R211). -/
def State.saveExtent (s : State) (h n : Nat) (e : PmEnt) : State × PmEnt :=
  if e.stack = n then (s, e)
  else
    let t := if (s.findExtent n e.len).isNone then s.allocFailed n e.len else s
    match t.findSave n e.len with
    | some g => (t.alloc h n g e.len, { e with stack := n, granule := g })
    | none => (t, e)

/-- The handle of the state page of bay-plane i of run r. -/
def State.savePage (s : State) (r i : Nat) : Nat := (s.run r).stateBase + (s.bpRec i).pageNo

/-- Whether the save of bay-plane i of run r can be made now. -/
def State.saveReady (s : State) (r i : Nat) : Bool :=
  let x := s.run r
  s.hubOn && x.state = .suspending && x.save.contains i && !s.moving (s.savePage r i) && !s.snapHold (bpTile i) &&
    (s.mc (s.pmGet (s.savePage r i) noRun).2.stack).iso.isNone

/-- The state items of bay-plane i written to the page's extent, whose entry is given beside the answer (R210, R211). -/
def State.saveWrite (s : State) (r i : Nat) : Got × PmEnt :=
  let h := s.savePage r i
  let (t, e) := s.pmGet h r
  let (u, e2) := t.saveExtent h (bpTile i) e
  (u.dramWrite (granAddr e2.stack e2.granule) (s.stateItems i true) none (0x10 + bpTile i), e2)

/-- SAVE_COMPLETE (R210): one bay-plane's state is in its page; after the last, the run is SUSPENDED or WAITING. -/
def execSaveComplete (run : Fin 4096) (bp : Fin 2048) (ok : Bool) (s : State) : Out :=
  let r : Nat := run
  let i : Nat := bp
  let x := s.run r
  let h := s.savePage r i
  let (t, e) := s.pmGet h r
  let (g, e2) := s.saveWrite r i
  let rest := x.save.filter (· ≠ i)
  let s1 := g.st.pmPut h { e2 with stat := 1, owner := r, res := true, tile := bpTile i, bay := bpBay i, plane := bpPlane i }
  let s2 := (s1.setRun r { s1.run r with save := rest }).tktProgress? x.curTkt (x.pageCount - rest.length) 0
  s.when (s.saveReady r i)
    (if poisonedEnt e then t.runFault r
     else if ok && g.cause = 0 then (if rest.isEmpty then s2.saveDone r else s2)
     else t.saveFailed r h)

/-- A run is preempted, its bay-planes `claimed` for eviction; counted (R208, R216, SO_EVICT). -/
def State.preempt (s : State) (r : Nat) (claimed : List Nat) : State :=
  let x := s.run r
  (s.setRun r { x with state := .suspending, curOp := .preempt, curTkt := none, claimed := claimed
                       stops := x.stops ++ [⟨.preempt, s.stopCycle r 0⟩] }).count Reg.soEvict 31 16 1

/-- Resident pages of a run that does not run are evicted without a save: READY becomes IDLE (R196, R216). -/
def State.evictRun (s : State) (r : Nat) (is : List Nat) : State :=
  let t := s.evict is
  t.setRun r { t.run r with state := if (t.run r).state = .ready then .idle else (t.run r).state }

/-! ### Requests (R196–R198) -/

/-- The status that a run's state gives a request; 0: accepted (R196). An IDLE run marked for a restore takes a resume (R249,
R250; log entry 54). -/
def State.reqErr (s : State) (r : Nat) (q : PendReq) : Nat :=
  let x := s.run r
  match q.op with
  | .start =>
    if q.isResume then (if x.state = .suspended || (x.state = .idle && x.restoreFrom.isSome) then 0 else stBadState)
    else if x.started then stBadState
    else if x.state = .idle || x.state = .ready || x.state = .suspended then 0 else stBadState
  | .suspend => if x.state = .running || x.state = .waiting || x.state = .ready then 0 else stBadState
  | .endRun => if x.state = .empty || x.state = .ending then stBadState else 0
  | .swap => if x.state = .empty || x.state = .ending || x.state = .faulted then stBadState else 0
  | _ => 0

/-- The queued start ticket of a run that leaves WAITING by a request ends superseded (log entry 14). -/
def State.dropStart (s : State) (r : Nat) : State :=
  let x := s.run r
  match x.curTkt with
  | some t => (if tktLive (s.tkt t) then s.setTkt t { s.tkt t with state := 4, err := stSuperseded } else s).setRun r { x with curTkt := none }
  | none => s

/-- Whether the mode lets a start of run r begin; otherwise its ticket stays queued (R198). -/
def State.startNow (s : State) (r : Nat) : Bool := s.mode = 6 || (s.mode = 7 && (s.run r).excl)

/-- The view without the page that a swap replaces. -/
def State.swapView (s : State) (r k : Nat) : View := s.so.bps.filter (fun e => !(e.2.load = none && e.2.run = r && e.2.pageNo = k))

/-- The checks of R220: the status, and the handle of the new page. -/
def State.swapCheck (s : State) (r : Nat) (q : PendReq) : State × Nat × Nat × PageD :=
  let x := s.run r
  let d := s.design q.design
  let back := q.design = x.design && q.newPage = q.page
  if decide (x.pageCount ≤ q.page) || d.state ≠ 2 || decide (d.pageCount ≤ q.newPage) then (s, stBadParam, 0, {})
  else
    let h := d.cfgBase + q.newPage
    match s.pageAt (s.cfgHandle r q.page) r with
    | (t, none) => (t, stIntegrity, 0, {})
    | (t, some old) =>
      match t.pageAt h r with
      | (u, none) => (u, stIntegrity, 0, {})
      | (u, some new) =>
        let v := s.swapView r q.page
        let at' := vPlace s.so.bps r q.page
        let tiles := match at' with | some i => [bpTile i] | none => List.range 8
        let clkOk := fun t => (List.range 16).all (fun i => !bitOf (new.clk.getD i 0) 31 || (vTile v t).all (fun e =>
          !bitOf (e.2.page.clk.getD i 0) 31 || e.2.page.clk.getD i 0 % 2 ^ 24 = new.clk.getD i 0 % 2 ^ 24))
        let planes := match at' with | some j => [bpPlane j] | none => List.range 4
        let retOk := fun t => planes.any (fun p => (bitsIn 5 new.trees).all (fun w => (vTile v t).all (fun e =>
          !(bpPlane e.1 = p && bitOf e.2.page.trees w && ownerOf e.2 ≠ r))))
        let routesOk := match at' with
          | some j =>
            let base := vLoads v
            let mine := groupLoads v r [(h, { new with pageNo := q.page, gpos := 0 })] (bpTile j) (bpBay j) (bpPlane j)
            mine.all (fun key => decide (base.count key + mine.count key ≤ 256))
          | none => true
        let same := old.gsize = new.gsize && old.gpos = new.gpos && old.banks = new.banks && old.bm = new.bm && old.dm = new.dm
        let full := !back && decide (256 ≤ s.so.swaps.length)
        if full then (u, stNoResource, 0, {})
        else if same && tiles.any (fun t => clkOk t && retOk t) && routesOk then (u, 0, h, { new with pageNo := q.page, gid := old.gid })
        else (u, stBadParam, 0, {})

/-- The swap table and the reference counts after a swap of page k of run r to handle h (R190, R221). -/
def State.swapTable (s : State) (r k h : Nat) (page : PageD) : State :=
  let old := s.cfgHandle r k
  let design := s.designOf old
  let s0 := (s.refUp h).refDown old
  let rest' := (s0.run r).extPages.filter (· ≠ k)
  let s1 := s0.setRun r { s0.run r with extPages := if page.ext then rest' ++ [k] else rest' }
  let rest := s1.so.swaps.filter (fun e => !(e.2.run = r && e.2.pageNo = k))
  let own := (s.design (s.run r).design).cfgBase + k
  let slot := ((List.range 256).find? (fun j => (SMap.find rest j).isNone)).getD 0
  let s2 := { s1 with so := { s1.so with swaps := if h = own then rest else SMap.put rest slot ⟨r, k, h⟩ } }
  match design with
  | some d => s2.designGc d
  | none => s2

/-- A swap begins: the table alone when the page is not resident; else the run pauses and its frames are written. -/
def State.swapBegin (s : State) (r : Nat) (q : PendReq) : State :=
  let (t, err, h, page) := s.swapCheck r q
  if err ≠ 0 then t.tktEnd? q.ticket 3 err
  else
    match vPlace t.so.bps r q.page with
    | none => (t.swapTable r q.page h page).tktEnd? q.ticket 2 0
    | some i =>
      let x := t.run r
      let stops := if t.stepping i then x.stops ++ [⟨.swap, 0⟩] else x.stops
      (t.setRun r { x with curOp := .swap, curTkt := q.ticket, stops := stops, curReq := some q }).tktActive? q.ticket

/-- A request that the run's state allows is carried out (R196). -/
def State.reqRun (s : State) (r : Nat) (q : PendReq) : State :=
  let x := s.run r
  match q.op with
  | .start =>
    if x.state = .ready then
      if s.startNow r && s.bit Reg.soCtrl 0 then
        ((s.setRun r { x with state := .running, curOp := .start, curTkt := q.ticket }).tktActive? q.ticket).release r
      else s.setRun r { x with pend := some q }
    else s.setRun r { x with state := .waiting, wait := 0, urg := min 0xFFFFF (x.prio * 4096), curTkt := q.ticket }
  | .suspend =>
    if x.state = .running then
      (s.setRun r { x with
        state := .suspending, curOp := .suspend, curTkt := q.ticket, stop := q.stop
        endErr := if q.stop ≠ 0 && decide (q.stop < s.runDcc r) then stBadParam else 0
        stops := x.stops ++ [⟨.suspend, s.stopCycle r q.stop⟩] }).tktActive? q.ticket
    else ((s.dropStart r).setRun r { x with state := .suspended, curTkt := none }).tktEnd? q.ticket 2 0
  | .endRun =>
    let s1 := (s.dropStart r).tktActive? q.ticket
    let y := s1.run r
    if x.state = .running && !s.runAtBoundary r then
      s1.setRun r { y with state := .ending, curOp := .endRun, curTkt := q.ticket, stops := y.stops ++ [⟨.endRun, 0⟩] }
    else (s1.setRun r { y with state := .ending, curOp := .endRun, curTkt := q.ticket }).endFree r
  | .swap => s.swapBegin r q
  | _ => s

/-- A later request replaces the pending one (R197). -/
def State.reqPend (s : State) (r : Nat) (q : PendReq) : State :=
  let x := s.run r
  let s1 := match x.pend.bind (fun p => p.ticket) with
    | some t => if tktLive (s.tkt t) then s.setTkt t { s.tkt t with state := 4, err := stSuperseded } else s
    | none => s
  s1.setRun r { s1.run r with pend := some q }

/-- A compact request acts on a run that had an operation in progress, by the state which that has left (R207; log entry 53). -/
def State.compactOne (s : State) (r : Nat) : State :=
  let x := s.run r
  let s1 := s.setRun r { x with compactAct := false }
  if x.state = .running && !s.hasExt r then s1.preempt r (s.runBps r)
  else if x.state ≠ .running && !x.saveFail then (s1.evictRun r (s.runBps r)).compactDone r false
  else s1.compactDone r false

/-- PENDING_OP_START (R197): with no operation in progress, a waiting mode-change action, then a compact request's, else the
pending request. -/
def execPendingOpStart (run : Fin 4096) (s : State) : Out :=
  let r : Nat := run
  let x := s.run r
  let acted : State :=
    let s1 := s.setRun r { x with modeAct := false }
    let leaves := match s.pw.chg with | some c => c.req.target = 5 || c.req.target = 9 | none => false
    if x.state = .running || x.state = .loading then s1.preempt r (if leaves then s.runBps r else [])
    else if leaves then s1.evictRun r (s.runHeld r) else s1
  match x.pend with
  | some q =>
    let s1 := s.setRun r { x with pend := none }
    let e := s.reqErr r q
    let run1 := if x.state = .empty then s1.tktEnd? q.ticket 3 stBadParam
      else if e ≠ 0 then s1.tktEnd? q.ticket 3 e else s1.reqRun r q
    s.when (s.hubOn && x.curOp = .none &&
        (x.modeAct || x.compactAct || (s.bit Reg.soCtrl 0 && (x.state ≠ .ready || q.op ≠ .start || s.startNow r))))
      (if x.modeAct then acted else if x.compactAct then s.compactOne r else run1)
  | none => s.when (s.hubOn && x.curOp = .none && (x.modeAct || x.compactAct)) (if x.modeAct then acted else s.compactOne r)

/-! ### The stop (R208, R244–R247, R544) -/

/-- A stop that takes effect at any wait in an exchange phase, barrier met or not (R544). -/
def stopsAtOnce (w : StopWhy) : Bool :=
  match w with
  | .endRun => true
  | .modeHold => true
  | _ => false

/-- A snapshot of the run is due at this boundary: it is taken first (R230). -/
def State.snapDueNow (s : State) (r : Nat) : Bool :=
  !s.so.snaps.any (fun e => e.2.state = 2 && e.2.run = r) &&
    s.so.snaps.any (fun e => e.2.state = 1 && e.2.due && e.2.run = r && decide (e.2.atCycle ≤ s.runDcc r))

/-- Halts of a list of stops: the unit of each. -/
def haltUnits (xs : List StopReq) : List Nat :=
  xs.filterMap (fun q => match q.why with | .halt u => some u | _ => none)
def hasWhy (xs : List StopReq) (w : StopWhy) : Bool := xs.any (fun q => q.why = w)

/-- A halt takes effect: TRG_LAST (R244). -/
def State.haltTaken (s : State) (r u : Nat) : State :=
  let fire := s.rd64 (Reg.trgFireDccLo u) (Reg.trgFireDccHi u)
  (s.wr Reg.trgLast (2 ^ 31 + u % 64 * 2 ^ 20 + r % 4096)).wr Reg.trgLastGap (min 0xFFFFFFFF (s.runDcc r - fire))

/-- The unit whose halt takes effect among stops that are met: that of the earliest stop cycle (R244). -/
def haltFirst (met : List StopReq) : Option Nat :=
  (bestOf (fun (x y : StopReq) => decide (x.cycle < y.cycle)) (met.filter (fun q => match q.why with | .halt _ => true | _ => false))).bind
    (fun q => match q.why with | .halt u => some u | _ => none)

/-- The end of a single step: holds again, ticket done with the DCC (R246, R247). -/
def State.stepDone (s : State) (r : Nat) : State :=
  match SMap.find s.so.steps r with
  | none => s
  | some e =>
    let s1 := s.each ((s.runBps r).map bpTile).dedup (fun t n => t.holdApply n)
    let d := s.runDcc r
    let s2 := ((s1.tktProgress e.1 (d - e.2) 0).tktEnd e.1 2 0).tktData e.1 (leBytes 8 d)
    { s2 with so := { s2.so with steps := SMap.erase s2.so.steps r } }

/-- The stops of a run that its state at a boundary meets. -/
def State.stopsMet (s : State) (r : Nat) : List StopReq :=
  let x := s.run r
  let barrier := (s.runBps r).all s.barrierMet
  let quiet := s.runSettled r && !runPaused x
  if s.runAtBoundary r then
    x.stops.filter (fun q => q.why = .endRun || (s.runEven r && (q.why = .modeHold ||
      (quiet && (stopsAtOnce q.why || q.why = .swap || barrier) && decide (q.cycle ≤ s.runDcc r)))))
  else []

/-- Entries that assert the tile holds as the runs of each tile stop: Safe Hold, Dormant and Shutdown (R69, R469, R471). -/
def State.modeHolds (s : State) : Bool :=
  s.mode = 10 || (match s.pw.chg with | some c => c.req.target = 4 || c.req.target = 11 || c.req.target = 10 | none => false)

/-- Trees 0–2 are asserted in every powered tile whose runs stand at a boundary. -/
def State.applyHolds (s : State) : State :=
  if s.modeHolds then
    let busy := (s.so.runs.filter (fun e => hasWhy e.2.stops .modeHold)).flatMap (fun e => (s.runBps e.1).map bpTile)
    s.each ((List.range 8).filter (fun n => s.domOn (domTile n) && !busy.contains n && s.fld (Reg.tcHold n) 2 0 ≠ 7))
      (fun t n => t.holdApply n)
  else s

/-- A run stopped with OP 3 for a mode: one whose release was in progress has it deferred (R545). -/
def State.modeHeldRun (s : State) (r : Nat) : State :=
  let x := s.run r
  let first := (s.runBps r).any s.grs
  let s1 := (s.holdAll r).setRun r { (s.holdAll r).run r with
    stops := x.stops.filter (fun q => !(q.why = .modeHold || q.why = .step)), held := true
    started := x.started && !first }
  let pw := s1.pw
  let add := fun (xs : List Nat) => if xs.contains r then xs else xs ++ [r]
  let late := x.state ≠ .running || x.curOp = .start
  ({ s1 with pw := { pw with
    deferred := if late then add pw.deferred else pw.deferred
    modeHeld := if late then pw.modeHeld else add pw.modeHeld } }).applyHolds.stepDone r

/-- RUN_STOP_CYCLE (R208): the run stops with OP 3. Ports are flushed first; a snapshot due at the boundary goes before. -/
def execRunStopCycle (run : Fin 4096) (s : State) : Out :=
  let r : Nat := run
  let x := s.run r
  let met := s.stopsMet r
  let saves := hasWhy met .suspend || hasWhy met .preempt
  let halts := !(haltUnits met).isEmpty
  let stopped := (s.holdAll r).setRun r { (s.holdAll r).run r with stops := [], dcc := s.runDcc r, held := true }
  let withHalts := match haltFirst met with | some u => stopped.haltTaken r u | none => stopped
  let withStep := if hasWhy x.stops .step then withHalts.stepDone r else withHalts
  let willSave := hasWhy x.stops .suspend || hasWhy x.stops .preempt
  let keep := x.stops.filter (fun q => !(q.why = .modeHold || q.why = .step))
  let heldOnly := (s.holdAll r).setRun r { (s.holdAll r).run r with stops := keep, held := true }
  let res :=
    if hasWhy met .endRun then s.endFree r
    else if saves && !s.portsClean r then s.portsFlush r
    else if saves || halts then (if willSave then withStep.saveBegin r else withStep)
    else if hasWhy met .step then heldOnly.stepDone r
    else if hasWhy met .modeHold then s.modeHeldRun r
    else s.setRun r { x with stops := x.stops.filter (fun q => q.why ≠ .swap), swapPause := true }
  s.when (s.hubOn && !met.isEmpty && (hasWhy met .endRun || !(saves || halts) || !s.snapDueNow r)) res

/-- SWAP_FRAMES_WRITTEN (R221): frames, routes and mask are replaced, and the run continues. A page that has left its bay-plane
since is swapped as one that is not resident. -/
def execSwapFramesWritten (run : Fin 4096) (s : State) : Out :=
  let r : Nat := run
  let x := s.run r
  match x.curReq with
  | some q =>
    match vPlace s.so.bps r q.page with
    | some i =>
      let (t, err, h, page) := s.swapCheck r q
      let e := t.bpRec i
      let t1 := (t.swapTable r q.page h page).setBpRec i { e with cfg := h, cfgOk := false, page := { page with gid := e.page.gid } }
      let g := t1.loadFrames i
      let t2 := ((g.st.setBpRec i { g.st.bpRec i with cfgOk := true }).releaseTile i e).writeTile i |>.writeRoutes i
      let fin := fun (u : State) => u.setRun r { u.run r with curOp := .none, curTkt := none, curReq := none, swapPause := false }
      let done := ((fin t2).tktProgress? x.curTkt 3072 0).tktEnd? x.curTkt 2 0
      let res := if err ≠ 0 then (fin t).tktEnd? x.curTkt 3 err
        else if g.cause ≠ 0 then (fin g.st).runFault r
        else done
      s.when (s.hubOn && x.curOp = .swap && !s.stepping i && !s.moving h) res
    | none =>
      let (t, err, h, page) := s.swapCheck r q
      let u := if err ≠ 0 then t.tktEnd? x.curTkt 3 err else (t.swapTable r q.page h page).tktEnd? x.curTkt 2 0
      s.when (s.hubOn && x.curOp = .swap)
        (u.setRun r { u.run r with curOp := .none, curTkt := none, curReq := none, swapPause := false })
  | none => .next s

/-! ### Compact (R207) -/

/-- A compact request: RUNNING runs without EXT routes are preempted with every page claimed, other resident pages are
evicted; on a run with an operation in progress it acts once that has ended. The pages of a run with SAVE_FAIL stay (R212). -/
def State.compactAll (s : State) (ticket : Nat) : State :=
  let rs := (s.so.runs.filter (fun e => e.2.state = .running && e.2.curOp = .none && !s.hasExt e.1)).map Prod.fst
  let others := (s.so.runs.filter (fun e => e.2.state ≠ .running && e.2.curOp = .none && !e.2.saveFail)).map Prod.fst
  let busy := (s.so.runs.filter (fun e => e.2.curOp ≠ .none && (e.2.state ≠ .running || !s.hasExt e.1))).map Prod.fst
  let s1 := s.each others (fun t r => t.evictRun r (t.runBps r))
  let s2 := (s1.each rs (fun t r => t.preempt r (t.runBps r))).each busy (fun t r => t.setRun r { t.run r with compactAct := true })
  let s3 := { s2 with so := { s2.so with compactRuns := s2.so.compactRuns ++ (rs ++ busy).map (fun r => (ticket, r)) } }
  let s4 := s3.tktActive ticket
  if (rs ++ busy).isEmpty then s4.tktEnd ticket 2 0 else s4

/-! ### Scheduling (R214–R216) -/

/-- The victims that may make room for run w, in order. -/
def State.victims (s : State) (w : Nat) : List Nat :=
  let free := s.so.runs.filter (fun e => e.1 ≠ w && e.2.curOp = .none && !e.2.saveFail && !(s.runBps e.1).isEmpty)
  let kind1 := free.filter (fun e => e.2.state ≠ .running)
  let kind2 := free.filter (fun e => e.2.state = .running && !s.hasExt e.1 && (e.2.qleft = 0 || e.2.backfill) &&
    decide (e.2.prio * 4096 < (s.run w).urg))
  (sortBy (fun x y => decide (x.2.urg ≤ y.2.urg)) kind1).map Prod.fst ++
    (sortBy (fun x y => decide (x.2.prio ≤ y.2.prio)) kind2).map Prod.fst

/-- The bay-planes of victim x that a placement takes: those in its bays, and those whose tile resources or bridge loads it
takes (R216). -/
def State.claimedBy (s : State) (x : Nat) (recs view : View) : List Nat :=
  let loads := vLoads view
  let mine := recs.flatMap (fun e => e.2.page.routeWords.flatMap (fun w =>
    match (routeDest w.2).bind (vPlace recs (ownerOf e.2)) with | some j => bridgeKeys e.1 j | none => []))
  (s.runBps x).filter (fun i =>
    let e := s.bpRec i
    recs.any (fun q =>
      q.1 / 4 = i / 4 ||
      (bpTile q.1 = bpTile i && (
        (e.port.isSome && q.2.port = e.port) || Nat.land q.2.page.banks e.page.banks ≠ 0 ||
        (bpPlane q.1 = bpPlane i && Nat.land q.2.page.trees e.page.trees ≠ 0) ||
        (List.range 16).any (fun c => bitOf (q.2.page.clk.getD c 0) 31 && bitOf (e.page.clk.getD c 0) 31 &&
          q.2.page.clk.getD c 0 % 2 ^ 24 ≠ e.page.clk.getD c 0 % 2 ^ 24)))) ||
    e.page.routeWords.any (fun w => match (routeDest w.2).bind (vPlace s.so.bps x) with
      | some j => (bridgeKeys i j).any (fun k => mine.contains k && decide (256 < loads.count k))
      | none => false))

/-- A trial with victims removed one after another: the placement and the victims it needed. -/
def State.trial (s : State) (w : Nat) : List Nat → List Nat → View → State × Option (View × List Nat)
  | [], _, _ => (s, none)
  | x :: xs, gone, v =>
    let v1 := vWithout v x
    match s.placeRun w v1 with
    | (t, some (.ok v2)) => (t, some (recsOf v2 w, gone ++ [x]))
    | (t, _) => t.trial w xs (gone ++ [x]) v1

/-- The runs that are still to leave bay-planes whose place or resources a placement takes. -/
def State.leaving (s : State) (recs : View) : List Nat :=
  let whole := recs.foldl (fun (m : View) e => SMap.put m e.1 e.2) s.so.bps
  (s.so.runs.filter (fun e => !e.2.claimed.isEmpty && (s.claimedBy e.1 recs whole).any e.2.claimed.contains)).map Prod.fst

/-- The victims leave for a placement: those that do not run at once, the others by preemption. -/
def State.evictFor (s : State) (w : Nat) (recs : View) (vs : List Nat) (backfill : Bool) : State :=
  let whole := recs.foldl (fun (m : View) e => SMap.put m e.1 e.2) s.so.bps
  let idle := vs.filter (fun x => (s.run x).state ≠ .running)
  let busy := vs.filter (fun x => (s.run x).state = .running)
  let s1 := s.each idle (fun t x => t.evictRun x (s.claimedBy x recs whole))
  let s2 := s1.each busy (fun t x => t.preempt x (s.claimedBy x recs whole))
  { s2 with so := { s2.so with switchRun := some w } }.placeDecided w recs backfill (s2.leaving recs)

/-- What the scheduling loop carries. -/
structure Sched where
  st : State
  placed : Nat := 0
  searched : Bool := false
  blocked : Bool := false
  stop : Bool := false

/-- One waiting run of the loop of R216. -/
def Sched.one (c : Sched) (w : Nat) : Sched :=
  let s := c.st
  let limit := max 1 (bitsOf s.so.pol.sched 7 4)
  if c.stop || decide (limit ≤ c.placed) then { c with stop := true }
  else
    let v := s.view
    match s.placeRun w v with
    | (t, none) => { c with st := t.runFault w }
    | (t, some (.ok v2)) => { c with st := t.placeDecided w (recsOf v2 w) c.blocked (t.leaving (recsOf v2 w)), placed := c.placed + 1 }
    | (t, some (.error (g, reason))) =>
      let t1 := t.lastFail w g reason v
      let (u, found) := if c.searched then (t1, none) else t1.trial w (t1.victims w) [] v
      match found with
      | some (recs, vs) => { c with st := u.evictFor w recs vs c.blocked, placed := c.placed + 1, searched := true }
      | none => { c with st := u, searched := true, blocked := true, stop := c.stop || !bitOf s.so.pol.sched 0 }

/-- QLEFT, WAIT and URG at an epoch boundary (R214, R215). -/
def State.ageRuns (s : State) : State :=
  s.each s.so.runs (fun t e =>
    let x := e.2
    let x1 := if x.stepped then { x with qleft := x.qleft - 1 } else x
    let x2 := if x1.state = .waiting then { x1 with wait := (x1.wait + 1) % 2 ^ 32 } else x1
    t.setRun e.1 { x2 with urg := if x2.state = .waiting then min 0xFFFFF (x2.prio * 4096 + x2.wait * (t.so.pol.age % 256)) else x2.prio * 4096 })

/-- Epochs spent RUNNING. -/
def State.serveRuns (s : State) : State :=
  s.each (s.so.runs.filter (fun e => e.2.state = .running)) (fun t e => t.setRun e.1 { e.2 with served := (e.2.served + 1) % 2 ^ 32 })

/-- The epoch in which runs stepped is closed (R215). -/
def State.stepsClosed (s : State) : State :=
  s.each (s.so.runs.filter (fun e => e.2.stepped)) (fun t e => t.setRun e.1 { t.run e.1 with stepped := false })

/-- Waiting runs by urgency descending, then run ID ascending; while a run holds the module, that one alone (R218). -/
def State.waitingRuns (s : State) : List Nat :=
  (sortBy (fun (x y : Nat × Run) => decide (y.2.urg ≤ x.2.urg))
    (s.so.runs.filter (fun e => e.2.state = .waiting && e.2.curOp = .none &&
      (match s.so.exclRun with | some x => decide (e.1 = x) | none => decide (s.mode ≠ 7))))).map Prod.fst

/-- SCHEDULE_EPOCH (R216): at step 4 of R32 in modes 6 and 7, with EN = 1; in mode 7 only the Exclusive run is placed and
QLEFT and WAIT stand still (R218). -/
def State.schedule (s : State) : State :=
  let s0 := { s with so := { s.so with pol := ⟨s.rd Reg.soPolWeight, s.rd Reg.soPolQuantum, s.rd Reg.soPolAge, s.rd Reg.soPolSched⟩ } }
  let s1 := s0.serveRuns
  if s.pw.sched && s.soReady && s.bit Reg.soCtrl 0 && (s.mode = 6 || s.mode = 7) then
    let s2 := (if s.mode = 6 && s.so.exclRun.isNone then s1.ageRuns else s1).stepsClosed
    (s2.waitingRuns.foldl Sched.one { st := s2 }).st
  else s1.stepsClosed

end Sys2Proof.Machine
end

