-- ==== Sys2Proof/Machine/Loads.lean ====
section
/-!
DEFINITION. Mygus images: header and descriptor checks, decryption, the Page Loaders, franking, commit and failure
(R144–R152, R158–R167).
-/
namespace Sys2Proof.Machine

/-! ### AES-256-GCM (R149) -/

/-- Multiplication in the field of GCM, bit 0 the most significant. -/
def gcmMul (x y : Nat) : Nat :=
  ((List.range 128).foldl (fun (zv : Nat × Nat) i =>
    (if bitOf x (127 - i) then Nat.xor zv.1 zv.2 else zv.1, if zv.2 % 2 = 1 then Nat.xor (zv.2 / 2) (0xE1 * 2 ^ 120) else zv.2 / 2)) (0, y)).1

/-- Bytes padded with zeros to a multiple of 16. -/
def pad16 (bs : List Byte) : List Byte := bs ++ zeroBytes ((16 - bs.length % 16) % 16)

/-- GHASH. -/
def ghash (h : Nat) (bs : List Byte) : Nat := (pieces 16 (bs.length / 16) bs).foldl (fun y b => gcmMul (Nat.xor y (beNat b)) h) 0

/-- Keystream blocks from counter value `n`. -/
def gcmStream (key nonce : List Byte) : Nat → Nat → List Byte
  | _, 0 => []
  | n, k + 1 => aesBytes key (nonce ++ beBytes 4 n) ++ gcmStream key nonce (n + 1) k

/-- The plaintext of a ciphertext, and its tag. -/
def gcmPlain (key nonce ct : List Byte) : List Byte := xorBytes ct (gcmStream key nonce 2 ((ct.length + 15) / 16))
def gcmTag (key nonce aad ct : List Byte) : List Byte :=
  let h := beNat (aesBytes key (zeroBytes 16))
  xorBytes (beBytes 16 (ghash h (pad16 aad ++ pad16 ct ++ beBytes 8 (8 * aad.length) ++ beBytes 8 (8 * ct.length))))
    (aesBytes key (nonce ++ beBytes 4 1))

/-! ### The header (R145) -/

/-- A load, and the state with one replaced. -/
def State.load (s : State) (j : Nat) : Load := SMap.get s.fk.loads j {}
def State.setLoad (s : State) (j : Nat) (l : Load) : State := { s with fk := { s.fk with loads := SMap.put s.fk.loads j l } }
def State.isLoad (s : State) (j : Nat) : Bool := (SMap.find s.fk.loads j).isSome

/-- Header fields. -/
def hKeySrc (h : List Byte) : Nat := leAt h 0x12 1
def hPages (h : List Byte) : Nat := leAt h 0x14 4
def hChunks (h : List Byte) : Nat := leAt h 0x1C 4
def hPayLen (h : List Byte) : Nat := leAt h 0x20 8
def hImageLen (h : List Byte) : Nat := leAt h 0x28 8
def hDesign (h : List Byte) : Nat := leAt h 0x40 16
def hPayOff (h : List Byte) : Nat := leAt h 0x58 8
def hTrailer (h : List Byte) : Nat := leAt h 0x60 8
def hSig (h : List Byte) : Nat := leAt h 0x68 8

/-- The image is of this device. -/
def State.hdrOurs (s : State) (h : List Byte) : Bool :=
  leAt h 0 4 = 0x5347594D && leAt h 4 2 = 1 && leAt h 8 4 = 0xD2A && leAt h 0xC 2 = 0x5A && leAt h 0xE 2 = 0x9480 &&
    decide (leAt h 0x10 2 ≤ s.fk.siliconRev)

/-- Every relation of R145 holds. -/
def hdrConsistent (h : List Byte) : Bool :=
  leAt h 6 2 = 0x100 && leAt h 0x13 1 = 0 && leAt h 0x38 8 = 0 && leAt h 0x70 140 = 0 && decide (1 ≤ hPages h) && decide (hPages h ≤ 2048) &&
    hChunks h = (hPayLen h + 65535) / 65536 && leAt h 0x50 4 = 0x100 && leAt h 0x54 4 = 160 * hPages h &&
    hPayOff h = (0x100 + 160 * hPages h + 63) / 64 * 64 && hTrailer h = hPayOff h + hPayLen h + 16 * hChunks h &&
    hSig h = hTrailer h + 16 && hImageLen h = hSig h + 17056 && decide (hKeySrc h ≤ 1)

/-- The key that KEY_SRC selects, unless it is absent or forbidden (R153, R155). -/
def State.imageKey (s : State) (src : Nat) : Option Nat :=
  if src = 0 then s.fk.fuseKey else if s.fk.bkeyForbid then none else s.fk.bkey

/-- Longest image that a store entry holds (R489). -/
def State.storeRoom (s : State) : Nat := (s.fl.size - 0x7300000) / s.fl.entries / 65536 * 65536 - 65536

/-- IMAGE_HEADER_CHECK (R164): the status of the first condition met; 0: good. -/
def State.hdrCheck (s : State) (j : Nat) : Nat :=
  let h := (s.load j).bytes.take 256
  if !s.hdrOurs h then stForeignImage
  else if leAt h 0xFC 4 ≠ crc32c (h.take 0xFC) then stIntegrity
  else if !hdrConsistent h then stBadParam
  else match s.imageKey (hKeySrc h) with
    | none => stBadState
    | some k =>
      if leAt h 0x18 4 ≠ kcvOf k then stIntegrity
      else if s.fk.loads.any (fun e => e.1 ≠ j && e.2.hdrOk && hDesign e.2.bytes = hDesign h) then stBadState
      else if s.fl.storeBusy.any (fun e => e.1 = j) && decide (s.storeRoom < hImageLen h) then stNoResource
      else 0

/-! ### Descriptors and the reservation (R146, R160) -/

/-- The descriptors of a load. -/
def loadDescs (l : Load) : List PageD := (List.range (hPages l.bytes)).map (fun k => pageOf ((l.bytes.drop (0x100 + 160 * k)).take 160) [])

/-- Length of a page's payload, and of its extent in granules (R147, R187). -/
def payLen (p : PageD) : Nat := cfgBytes + p.extraLen
def cfgGran (p : PageD) : Nat := (descBytes + cfgBytes + p.extraLen + 65535) / 65536

/-- One descriptor is in range and matches its place. -/
def descOk (bs : List Byte) (ps : List PageD) (k off : Nat) (p : PageD) : Bool :=
  let d := (bs.drop (0x100 + 160 * k)).take 160
  p.pageNo = k && decide (1 ≤ p.gsize) && decide (p.gsize ≤ 4) && decide (p.gpos < p.gsize) && decide (1 ≤ p.steps) && decide (p.steps ≤ 16) &&
    decide (p.flags < 4) && decide (p.banks < 4096) && decide ((bitsIn 12 p.banks).length ≤ 2) && decide (p.trees < 32) &&
    leAt d 0x26 2 = 0 && leAt d 0x7C 4 = 0 && leAt d 0x8C 4 = 0 && leAt d 0x98 8 = 0 && p.cfgOff = off && p.extraLen % 64 = 0 &&
    decide (320 ≤ p.extraLen) && decide (cfgGran p ≤ 127) &&
    (List.range p.gsize).all (fun q => (ps.filter (fun x => x.gid = p.gid && x.gpos = q && x.gsize = p.gsize)).length = 1) &&
    ps.any (fun x => x.pageNo = p.gid && x.gpos = 0 && x.gid = p.gid) &&
    (ps.filter (fun x => x.gid = p.gid)).length = p.gsize

/-- No two pages of one group name one clock entry with different DIV or PHASE. -/
def clocksAgree (ps : List PageD) (p : PageD) : Bool :=
  ps.all (fun x => x.gid ≠ p.gid || (List.range 16).all (fun i =>
    !(bitOf (x.clk.getD i 0) 31 && bitOf (p.clk.getD i 0) 31) || x.clk.getD i 0 % 2 ^ 24 = p.clk.getD i 0 % 2 ^ 24))

/-- Every descriptor is good, and the payload has the length of its pages. -/
def descsOk (l : Load) : Bool :=
  let ps := loadDescs l
  let offs := ps.foldl (fun (a : List Nat × Nat) p => (a.1 ++ [a.2], a.2 + payLen p)) ([], 0)
  offs.2 = hPayLen l.bytes && (ps.zip offs.1).zipIdx.all (fun e => descOk l.bytes ps e.2 e.1.2 e.1.1) && ps.all (clocksAgree ps)

/-- The lowest free Design Table slot. -/
def State.designFree (s : State) : Option Nat := (List.range 1024).find? (fun d => (s.design d).state = 0)

/-- The bay-planes of a load. -/
def State.loadBps (s : State) (j : Nat) : List Nat := (s.so.bps.filter (fun e => e.2.pstate ≠ 0 && e.2.load = some j)).map Prod.fst

/-- Page-store space and the design slot of a load: PENDING pages with their descriptors. -/
def State.reserveStore (s : State) (j d h : Nat) (ps : List PageD) : State :=
  let l := s.load j
  let s1 := s.each ps.zipIdx (fun t p =>
    let (m, g, len) := SMap.get t.so.pmAlloc (h + p.2) (0, 0, 0)
    let t1 := t.pmPut (h + p.2) { kind := 1, stat := 0, stack := m, granule := g, len := len, owner := d, pageNo := p.2 }
    (t1.dramWrite (granAddr m g) ((l.bytes.drop (0x100 + 160 * p.2)).take 160 ++ zeroBytes (descBytes - 160)) none (0x10 + p.2 % 8)).st)
  (s1.setDesign d { state := 1, pageCount := ps.length, cfgBase := h, id := hDesign l.bytes }).setLoad j
    { s1.load j with reserved := true, slot := some d, cfgBase := h }

/-- LOAD_RESERVE (R160): slot, page-store space and, for store and place, bay-planes; 0 or the status of its failure, BUSY while
the allocation waits for a compaction (R188). -/
def State.loadReserve (s : State) (j : Nat) : State × Nat :=
  let l := s.load j
  let ps := loadDescs l
  let ext := ps.zipIdx.map (fun p => (p.2 % 8, cfgGran p.1))
  match s.designFree, s.findHandles ps.length with
  | some d, some h =>
    match s.allocFor State.findExtent (64 + j) h ext with
    | .short t => (t, stNoResource)
    | .waits t => (t, stBusy)
    | .done t =>
      if l.place && !l.unplaced then
        let hs := (List.range ps.length).map (h + ·)
        let c : Placing := { who := 4096 + j, mask := l.tileMask, whole := l.wholeBay }
        match t.placeGroups c (sortBy groupLe (groupsOf (hs.zip ps))) s.viewNow with
        | .error (g, reason) =>
          (s.wr Reg.soLastFail (2 ^ 31 + b2n (decide (ps.length ≤ vFree s.viewNow)) * 2 ^ 30 + reason % 16 * 2 ^ 24 + 0xFFF * 2 ^ 12 + g % 2048),
            stNoResource)
        | .ok v =>
          let recs := v.filter (fun e => e.2.load = some j)
          let u := (t.reserveStore j d h ps).each recs (fun t e => (t.setBpRec e.1 e.2).wakeBay (bpTile e.1) (bpBay e.1))
          (u, 0)
      else (t.reserveStore j d h ps, 0)
  | _, _ => (s.compForget (64 + j), stNoResource)

/-! ### Failure (R163) -/

/-- LOAD_FAIL: pending pages, slot and bay-planes are freed, and the ticket ends in a state with a code. -/
def State.loadFail (s : State) (j st err : Nat) : State :=
  let l := s.load j
  let s1 := match l.slot with
    | some d => (s.each (List.range (s.design d).pageCount) (fun t k => t.pmFree (l.cfgBase + k))).setDesign d {}
    | none => s
  let s2 := s1.each (s1.loadBps j) (fun t i => t.evictBp i)
  let s3 := { s2 with
    fk := { s2.fk with loads := SMap.erase s2.fk.loads j }
    fl := { s2.fl with storeBusy := s2.fl.storeBusy.filter (fun e => e.1 ≠ j) } }
  s3.tktEnd l.ticket st err

/-! ### Intake (R158, R160) -/

/-- The trailer, once it is present and every chunk is decrypted (R150, R162). -/
def State.trailerCheck (s : State) (j : Nat) : State :=
  let l := s.load j
  let t := l.bytes.drop (hTrailer l.bytes)
  let crc := crc32c ((loadDescs l).flatMap (fun p => (l.plain.drop p.cfgOff).take cfgBytes))
  if s.isLoad j && l.reserved && !l.trailerOk && l.chunks = hChunks l.bytes && decide (hTrailer l.bytes + 16 ≤ l.bytes.length) then
    if leAt t 0 4 = 0x4547594D && leAt t 4 4 = crc && leAt t 8 4 = 3072 * hPages l.bytes then s.setLoad j { l with trailerOk := true }
    else s.loadFail j 3 stIntegrity
  else s

/-- The checks that bytes of an image complete. -/
def State.intakeChecks (s : State) (j : Nat) : State :=
  let l := s.load j
  let s1 :=
    if !l.hdrOk && decide (256 ≤ l.bytes.length) then
      let e := s.hdrCheck j
      if e = 0 then s.setLoad j { l with hdrOk := true } else s.loadFail j 3 e
    else s
  let l1 := s1.load j
  let s2 :=
    if s1.isLoad j && l1.hdrOk && !l1.reserved && decide (0x100 + 160 * hPages l1.bytes ≤ l1.bytes.length) then
      if !descsOk l1 then s1.loadFail j 3 stBadParam
      else
        let (t, e) := s1.loadReserve j
        if e = 0 || e = stBusy then t else t.loadFail j 3 e
    else s1
  s2.trailerCheck j

/-- How many bytes the intake may take now: up to the end of the header, then up to IMAGE_LEN. -/
def Load.wants (l : Load) : Nat := (if l.hdrOk then hImageLen l.bytes else 256) - l.bytes.length

/-- The next bytes of a load's source: the state after reading them, the bytes, and whether the read failed. -/
def State.sourceBytes (s : State) (j n : Nat) : State × List Byte × Bool :=
  let l := s.load j
  if l.source = 0 then (s.setLoad j { l with piece := l.piece.drop n }, l.piece.take n, false)
  else
    let k := min n (l.srcLen - l.bytes.length)
    if l.source = 1 then (s, ((SMap.get s.fl.store l.srcArg {}).bytes.drop l.bytes.length).take k, false)
    else
      let g := s.dramRead (l.srcArg + l.bytes.length) k 0x20
      (g.st, g.data, g.cause ≠ 0)

/-- IMAGE_BYTES_ARRIVE (R160). -/
def execImageBytesArrive (load : Fin 4) (count : Nat) (s : State) : Out :=
  let j : Nat := load
  let l := s.load j
  let n := min count l.wants
  let (t, bs, bad) := s.sourceBytes j n
  let t1 := t.setLoad j { t.load j with bytes := l.bytes ++ bs }
  let u := t1.intakeChecks j
  let m := u.load j
  let ended := u.isLoad j && m.source ≠ 0 && decide (m.srcLen ≤ m.bytes.length) && (!m.hdrOk || decide (m.bytes.length < hImageLen m.bytes))
  s.when (s.hubOn && s.isLoad j && decide (0 < n))
    (if bad then t.loadFail j 3 stBusError else if ended then u.loadFail j 3 stTruncated else u)

/-! ### Chunks and Page Loaders (R149, R161, R166) -/

/-- Payload bytes from offset `a` written to the page store, page by page; whether a write failed. -/
def State.storePayload (s : State) (j a : Nat) (bs : List Byte) : State × Bool :=
  let l := s.load j
  (loadDescs l).foldl (fun (st : State × Bool) p =>
    let lo := max a p.cfgOff
    let hi := min (a + bs.length) (p.cfgOff + payLen p)
    if lo < hi then
      let (t, e) := st.1.pmGet (l.cfgBase + p.pageNo) noRun
      let g := t.dramWrite (granAddr e.stack e.granule + descBytes + (lo - p.cfgOff)) ((bs.drop (lo - a)).take (hi - lo)) none (0x10 + p.pageNo % 8)
      (g.st, st.2 || g.cause ≠ 0)
    else st) (s, false)

/-- A page's payload is complete: its records are checked (R148) and, for store and place, frames, ownership and memory
contents are written. -/
def State.pageDone (s : State) (j : Nat) (plain : List Byte) (p : PageD) : State × Bool :=
  let d := plain.drop p.cfgOff
  let x := (d.drop (cfgBytes + 320)).take (p.extraLen - 320)
  match memRecs p x.length x with
  | none => (s, true)
  | some rs =>
    match vPlace s.so.bps (4096 + j) p.pageNo with
    | none => (s, false)
    | some i => (((s.putFrames i 0 3072 d).ownMems i p (some (bpPlane i))).initMems i rs, false)

/-- A record head among the extras decrypted so far breaks R148: `d` is what is there of them from a record on, `room` what
they hold from there to EXTRA_LEN. The first argument bounds the records. -/
def recsBad (p : PageD) : Nat → Nat → List Byte → Bool
  | 0, _, _ => false
  | f + 1, room, d =>
    let kind := leAt d 0 1
    let ix := leAt d 2 2
    let len := leAt d 4 4
    let pad := 8 + (len + 7) / 8 * 8
    if d.length < 8 || leAt d 0 8 = 0 then false
    else if 1 < kind || !bitOf (if kind = 0 then p.bm else p.dm) ix || decide ((if kind = 0 then 160 else 16) ≤ ix) ||
        len = 0 || decide ((if kind = 0 then 9216 else 131072) < len) || decide (room < pad) then true
    else recsBad p f (room - pad) (d.drop pad)

/-- A record of page p breaks R148 among the payload bytes decrypted so far. -/
def pageRecsBad (plain : List Byte) (p : PageD) : Bool :=
  recsBad p p.extraLen (p.extraLen - 320) (((plain.drop (p.cfgOff + cfgBytes)).take p.extraLen).drop 320)

/-- Offset of chunk c's ciphertext in an image, and its length (R149). -/
def chunkOff (h : List Byte) (c : Nat) : Nat := hPayOff h + 65552 * c
def chunkLen (h : List Byte) (c : Nat) : Nat := min 65536 (hPayLen h - 65536 * c)

/-- Ciphertext, tag, additional data and nonce of a load's next chunk (R149). -/
def chunkText (l : Load) : List Byte := (l.bytes.drop (chunkOff l.bytes l.chunks)).take (chunkLen l.bytes l.chunks)
def chunkTag (l : Load) : List Byte := (l.bytes.drop (chunkOff l.bytes l.chunks + chunkLen l.bytes l.chunks)).take 16
def chunkAad (l : Load) : List Byte :=
  (l.bytes.drop 0x40).take 16 ++ leBytes 4 l.chunks ++ leBytes 4 (hChunks l.bytes) ++ leBytes 8 (hPayLen l.bytes)
def chunkNonce (l : Load) : List Byte := (l.bytes.drop 0x30).take 8 ++ leBytes 4 l.chunks

/-- The key of a load's image. -/
def State.loadKey (s : State) (l : Load) : List Byte := leBytes 32 ((s.imageKey (hKeySrc l.bytes)).getD 0)

/-- The plaintext of a load's next chunk. -/
def State.chunkPlain (s : State) (l : Load) : List Byte := gcmPlain (s.loadKey l) (chunkNonce l) (chunkText l)

/-- The next chunk's bytes go to the page store and to the pages that they complete: the state, whether a record breaks
R148, and whether a write failed. -/
def State.chunkWrite (s : State) (j : Nat) : State × Bool × Bool :=
  let l := s.load j
  let bs := s.chunkPlain l
  let plain := l.plain ++ bs
  let (t, werr) := s.storePayload j (65536 * l.chunks) bs
  let done := (loadDescs l).filter (fun p => decide (l.plain.length < p.cfgOff + payLen p) && decide (p.cfgOff + payLen p ≤ plain.length))
  let (u, merr) := done.foldl (fun (st : State × Bool) p =>
    let r := st.1.pageDone j plain p
    (r.1, st.2 || r.2)) (t, false)
  (u, merr || (loadDescs l).any (fun p => decide (l.plain.length < p.cfgOff + payLen p) && pageRecsBad plain p), werr)

/-- Whether the next chunk can be decrypted now: its ciphertext and tag are present, the bays that it goes to are on, and no
snapshot pause holds its pages' stacks. -/
def State.chunkReady (s : State) (j : Nat) : Bool :=
  let l := s.load j
  let c := l.chunks
  let len := chunkLen l.bytes c
  s.isLoad j && l.reserved && decide (c < hChunks l.bytes) && decide (chunkOff l.bytes c + len + 16 ≤ l.bytes.length) &&
    (s.loadBps j).all (fun i => s.domOn (domBay (bpTile i) (bpBay i))) &&
    (loadDescs l).all (fun p => !(decide (65536 * c < p.cfgOff + payLen p) && decide (p.cfgOff < 65536 * c + len) &&
      (s.snapHold (p.pageNo % 8) || !s.pageServed (s.pmGet (l.cfgBase + p.pageNo) noRun).2.stack)))

/-- CHUNK_DECRYPTED (R149). -/
def execChunkDecrypted (load : Fin 4) (s : State) : Out :=
  let j : Nat := load
  let l := s.load j
  let (u, merr, werr) := s.chunkWrite j
  let good := (u.setLoad j { l with chunks := l.chunks + 1, plain := l.plain ++ s.chunkPlain l }).trailerCheck j
  s.when (s.hubOn && s.chunkReady j)
    (if gcmTag (s.loadKey l) (chunkNonce l) (chunkAad l) (chunkText l) ≠ chunkTag l then s.loadFail j 3 stIntegrity
     else if merr then u.loadFail j 3 stBadParam
     else if werr then u.loadFail j 3 stBusError
     else good)

/-- Frames accepted and pages complete within the first `a` payload bytes (R166). -/
def framesIn (ps : List PageD) (a : Nat) : Nat := (ps.map (fun p => min 3072 ((a - p.cfgOff) / 512))).sum
def pagesIn (ps : List PageD) (a : Nat) : Nat := (ps.filter (fun p => decide (p.cfgOff + payLen p ≤ a))).length

/-- PAGE_LOADER_WRITE_ACK (R161, R166). -/
def execPageLoaderWriteAck (load : Fin 4) (count : Nat) (s : State) : Out :=
  let j : Nat := load
  let l := s.load j
  let a := min l.plain.length (l.acked + count)
  s.when (s.hubOn && s.isLoad j)
    ((s.setLoad j { l with acked := a }).tktProgress l.ticket (framesIn (loadDescs l) a) (pagesIn (loadDescs l) a))

/-! ### Franking and commit (R152, R156, R162, R165) -/

/-- The signer slot of an image is accepted: programmed, not revoked, holding the hash of the image's keys. A wrong
SIG_MAGIC, a reserved field that is not zero and another exponent are refused as a signer is (log entry 52). -/
def State.signerOk (s : State) (l : Load) : Bool := signerIn s.fk.imgSlots s.fk.imgRevoked 4 (l.bytes.drop (hSig l.bytes))

/-- The image digest (R152), its first byte lowest. -/
def imageDigest (l : Load) : Nat := leNat (digestAt l.bytes (hSig l.bytes))

/-- An image is franked: its signer is accepted and both of its signatures verify (R152, R156). -/
def State.franked (s : State) (l : Load) : Bool := s.signerOk l && bothVerify l.bytes (hSig l.bytes)

/-- SIGNATURE_VERIFY_COMPLETE (R152). -/
def execSignatureVerifyComplete (load : Fin 4) (s : State) : Out :=
  let j : Nat := load
  let l := s.load j
  s.when (s.hubOn && s.isLoad j && l.trailerOk && !l.sigOk && l.bytes.length = hImageLen l.bytes)
    (if s.franked l then s.setLoad j { l with sigOk := true } else s.loadFail j 3 stIntegrity)

/-- The pages of a load become VALID configuration pages, or are freed for those of the committed design (R162, R165). -/
def State.commitPages (s : State) (j : Nat) (same : Option Nat) : State × Nat :=
  let l := s.load j
  let d := l.slot.getD 0
  let hs := designHandles (s.design d)
  match same with
  | some k => ((s.each hs (fun t h => t.pmFree h)).setDesign d {}, k)
  | none =>
    let s1 := s.each hs (fun t h =>
      let (u, e) := t.pmGet h noRun
      u.pmPut h { e with stat := 1, refcount := 1 })
    (s1.setDesign d { s1.design d with state := 2, digest := imageDigest l }, d)

/-- The placed pages of a load become resident pages of run r (R162). -/
def State.commitPlaced (s : State) (j r : Nat) (ps : List PageD) : State :=
  let is := s.loadBps j
  let base := (s.design (s.run r).design).cfgBase
  let s1 := s.each is (fun t i =>
    let e := t.bpRec i
    (t.setBp i {}).setBpRec i { e with pstate := 2, run := r, load := none, cfg := base + e.pageNo, cfgOk := true, page := ps.getD e.pageNo {} })
  let s2 := s1.each is (fun t i => ((t.placementWrite i).pmReside i).scrubEn i true)
  let s3 := s2.each is (fun t i => t.ingress r (t.bpRec i).pageNo (2 ^ 31 + bpTile i * 2 ^ 28 + bpBay i * 2 ^ 22 + bpPlane i * 2 ^ 20))
  (s3.setRun r { s3.run r with place := is.foldl (fun m i => SMap.put m (s3.bpRec i).pageNo i) [] }).trigReload r

/-- The end of a committed load: its ticket, its store entry. -/
def State.loadDone (s : State) (j d run : Nat) : State :=
  let l := s.load j
  let s1 := (s.tktEnd l.ticket 2 0).tktData l.ticket (leBytes 2 d ++ leBytes 2 run)
  let st := match s.fl.storeBusy.find? (fun e => e.1 = j) with
    | some e => SMap.put s.fl.store e.2 { valid := true, designId := hDesign l.bytes, len := hImageLen l.bytes, bytes := l.bytes }
    | none => s.fl.store
  { s1 with
    fk := { s1.fk with loads := SMap.erase s1.fk.loads j }
    fl := { s1.fl with store := st, storeBusy := s1.fl.storeBusy.filter (fun e => e.1 ≠ j) } }

/-- The entries of a load's pages as the commit finds them: the state, and whether one is poisoned (R185). -/
def State.loadPoisoned (s : State) (j : Nat) : State × Bool :=
  (designHandles (s.design ((s.load j).slot.getD 0))).foldl (fun (st : State × Bool) h =>
    let (u, e) := st.1.pmGet h noRun
    (u, st.2 || poisonedEnt e)) (s, false)

/-- The committed design with the identifier of a load's image (R165). -/
def State.sameDesign (s : State) (l : Load) : Option Nat :=
  (s.so.designs.find? (fun e => e.2.state = 2 && e.2.id = hDesign l.bytes)).map Prod.fst

/-- The state pages of a load's run find no space before a compaction ends: the commit waits for it (R188). -/
def State.commitWaits (s : State) (j : Nat) (ps : List PageD) : State :=
  match s.runSpace (64 + j) ((s.findHandles ps.length).getD 0) ps with
  | .waits t => t
  | .done _ => s
  | .short t => t.loadFail j 3 stNoResource

/-- LOAD_COMMIT (R162). -/
def execLoadCommit (load : Fin 4) (s : State) : Out :=
  let j : Nat := load
  let l := s.load j
  let same := s.sameDesign l
  let (t, bad) := s.loadPoisoned j
  let ps := (loadDescs l).map (fun p => pageOf ((l.bytes.drop (0x100 + 160 * p.pageNo)).take 160) (l.plain.drop (p.cfgOff + cfgBytes)))
  let (u, d) := t.commitPages j same
  let res : State :=
    if same.any (fun k => (s.design k).digest ≠ imageDigest l) then s.loadFail j 3 stBadState
    else if bad then t.loadFail j 3 stIntegrity
    else if l.place then
      let (w, e, r) := u.runMake (64 + j) d l.prio l.tileMask l.wholeBay (if l.unplaced then .idle else .ready) ps
      if e = 0 then (w.commitPlaced j r ps).loadDone j d r
      else if e = stBusy then s.commitWaits j ps
      else t.loadFail j 3 stNoResource
    else u.loadDone j d 0xFFFF
  s.when (s.hubOn && s.isLoad j && l.trailerOk && l.sigOk && l.acked = hPayLen l.bytes) res

/-- LOAD_INTAKE_TIMEOUT (R164): no byte for 2,000 ms. -/
def execLoadIntakeTimeout (load : Fin 4) (s : State) : Out :=
  let j : Nat := load
  let l := s.load j
  s.when (s.hubOn && s.isLoad j && (!l.hdrOk || decide (l.bytes.length < hImageLen l.bytes))) (s.loadFail j 3 stTruncated)

/-- COMPACTION_MOVE_COMPLETE (R188). When the compaction of the stack has ended, the loads whose reservation waited for it try again;
the other operations that wait do so when they are next taken up. -/
def execCompactionMoveComplete (stack : Tile) (s : State) : Out :=
  let m : Nat := stack
  match SMap.find s.so.comp m with
  | none => .next s
  | some v =>
    let t := s.compMoved m v
    let wait := (t.fk.loads.filter (fun e => e.2.hdrOk && !e.2.reserved && t.so.compTried.contains (64 + e.1))).map Prod.fst
    s.when s.hubOn (if (SMap.find t.so.comp m).isNone then t.each wait (fun u j => u.intakeChecks j) else t)

/-- Store-and-place loads lose their bay-planes at a change from mode 6 to mode 5 or 9 (R475). -/
def State.unplaceLoads (s : State) : State :=
  s.each (s.fk.loads.filter (fun e => e.2.place && !e.2.unplaced)) (fun t e =>
    (t.each (t.loadBps e.1) (fun u i => u.evictBp i)).setLoad e.1 { t.load e.1 with unplaced := true })

end Sys2Proof.Machine
end

