-- ==== Sys2Proof/Machine/Snapshots.lean ====
section
/-!
DEFINITION. Snapshots, rings, restore and single-step (R222–R238, R246–R250).
-/
namespace Sys2Proof.Machine

def State.snap (s : State) (k : Nat) : Snap := SMap.get s.so.snaps k {}
def State.setSnap (s : State) (k : Nat) (v : Snap) : State :=
  { s with so := { s.so with snaps := SMap.set s.so.snaps k v {} } }

/-! ### Segments (R222–R224, R232) -/

/-- The pages of a run from its configuration pages; `none` when one is poisoned or cannot be read. -/
def State.runPages (s : State) (r : Nat) : State × Option (List PageD) := s.pagesAt r (s.cfgHandles r)

/-- Granules of a segment. -/
def segGran (p : PageD) (mem : Bool) : Nat := (64 + bodyLen p mem + 65535) / 65536

/-- The stack that a page's segment goes to: that of the tile holding the page, else that of its state page. -/
def State.segStack (s : State) (r j : Nat) : Nat :=
  match s.pagePlane r j with
  | some i => bpTile i
  | none => (s.pmGet ((s.run r).stateBase + j) r).2.stack

/-- Segments for a snapshot of run r on behalf of operation w, first-fit with the save reserve to fall back on (R232): the
outcome, and the first handle. -/
def State.segAlloc (s : State) (w r : Nat) (mem : Bool) (ps : List PageD) : AllocRes × Nat :=
  let ext := ps.zipIdx.map (fun p => (s.segStack r p.2, segGran p.1 mem))
  match s.findHandles ps.length with
  | none => (.short (s.compForget w), 0)
  | some h =>
    match s.allocFor State.findSave w h ext with
    | .done t => (.done (t.each ps.zipIdx (fun u p =>
        let (m, g, len) := SMap.get u.so.pmAlloc (h + p.2) (0, 0, 0)
        u.pmPut (h + p.2) { kind := 3, stat := 0, stack := m, granule := g, len := len, owner := r, pageNo := p.2 })), h)
    | a => (a, 0)

/-- The segments of an entry freed. -/
def State.segFree (s : State) (k : Nat) : State :=
  let x := s.snap k
  if x.alloc then s.each (List.range x.pageCount) (fun t j => t.pmFree (x.segBase + j)) else s

/-- The body of page j of run r: from the fabric, or from its state page when the run is SUSPENDED (R231). -/
def State.segBody (s : State) (r j : Nat) (p : PageD) (mem : Bool) : Got :=
  match if (s.run r).state = .suspended then none else s.pagePlane r j with
  | some i => { st := s, data := s.stateItems i mem }
  | none =>
    let (t, e) := s.pmGet ((s.run r).stateBase + j) r
    let g := t.dramRead (granAddr e.stack e.granule) (bodyLen p true) 0x28
    let mo := slotLen + 12288
    if poisonedEnt e then { st := g.st, cause := 4 }
    else if mem then g
    else { g with data := g.data.take mo ++ g.data.drop (mo + ((pageMems p).map (fun x => x.2.2)).sum) }

/-- The first 60 bytes of a segment header (R224). -/
def State.segHead (s : State) (k j : Nat) (p : PageD) : List Byte :=
  let x := s.snap k
  let (t, b, q) := match if (s.run x.run).state = .suspended then none else s.pagePlane x.run j with
    | some i => (bpTile i, bpBay i, bpPlane i)
    | none => let e := (s.pmGet ((s.run x.run).stateBase + j) x.run).2; (e.tile, e.bay, e.plane)
  leBytes 4 0x54534E53 ++ leBytes 2 k ++ leBytes 2 (b2n x.mem + 2 * b2n x.flushed) ++ leBytes 2 x.run ++ leBytes 2 j ++
    leBytes 1 t ++ leBytes 1 b ++ leBytes 1 q ++ [0] ++ leBytes 8 x.dcc ++ leBytes 4 (s.cfgHandle x.run j) ++
    leBytes 4 (bodyLen p x.mem) ++ leBytes 20 p.bm ++ leBytes 2 p.dm ++ zeroBytes 6

/-- One segment captured: its body written 64 bytes into its extent; a body accepted counts (R238). -/
def State.segCapture (s : State) (k j : Nat) (p : PageD) : State :=
  let x := s.snap k
  let g := s.segBody x.run j p x.mem
  let (t, e) := g.st.pmGet (x.segBase + j) x.run
  let w := t.dramWrite (granAddr e.stack e.granule + 64) g.data none 0x28
  let bad := g.cause ≠ 0 || poisonedEnt e || w.cause ≠ 0
  let u := if poisonedEnt e then t else w.st
  (u.setSnap k { u.snap k with heads := x.heads ++ [s.segHead k j p], bad := x.bad || bad }).tktProgress? (if bad then none else x.ticket)
    ((((x.ticket.map s.tkt).map (fun y => y.prog)).getD 0) + 1) 0

/-- The capture of an entry: DCC and epoch recorded, every body accepted. -/
def State.snapCapture (s : State) (k : Nat) : State :=
  let x := s.snap k
  let d := s.dccOf x.run
  let s1 := s.setSnap k { x with state := 2, due := false, dcc := d, epoch := s.rd Reg.mrEpochLo, flushed := x.flush, heads := [], bad := false }
  match s1.runPages x.run with
  | (t, some ps) => (t.tktActive? x.ticket).each ps.zipIdx (fun u p => u.segCapture k p.2 p.1)
  | (t, none) => t.setSnap k { t.snap k with bad := true }

/-! ### The pause (R226–R230) -/

/-- Whether a run stands at a boundary at which a snapshot may be taken (R226). -/
def State.snapPoint (s : State) (r : Nat) : Bool :=
  let x := s.run r
  (x.state = .running || (x.state = .suspending && !x.stops.isEmpty)) && !x.held && !(s.runBps r).isEmpty &&
    s.runEven r && (s.runBps r).all (fun i => s.barrierMet i && s.stage i = 3 && !s.armed i) && s.snapCalm r &&
    !runPaused x

/-- Whether the snapshot of entry k is to be taken now. -/
def State.snapReady (s : State) (k : Nat) : Bool :=
  let x := s.snap k
  s.hubOn && x.state = 1 && x.due && !s.capturing x.run && s.snapPoint x.run && decide (x.atCycle ≤ s.dccOf x.run)

/-- SNAPSHOT_CYCLE (R225, R226): the ports are flushed first when asked; then the run and its co-tenants pause and the
bodies are written. -/
def execSnapshotCycle (entry : Fin 1024) (s : State) : Out :=
  let k : Nat := entry
  let x := s.snap k
  let s1 := s.each (s.coTenants x.run) (fun t r => t.setRun r { t.run r with snapPause := some k })
  s.when (s.snapReady k) (if x.flush && !s.portsClean x.run then s.portsFlush x.run else s1.snapCapture k)

/-- A run whose pause ends in Halted or Safe Hold does not begin its next cycle (R545). -/
def State.freezeRun (s : State) (r : Nat) : State :=
  let x := s.run r
  if s.frozen && (x.state = .running || x.state = .suspending) && !x.held && (SMap.find s.so.steps r).isNone then
    let s1 := (s.holdAll r).setRun r { x with held := true, stops := x.stops.filter (fun q => q.why ≠ .modeHold) }
    { s1 with pw := { s1.pw with modeHeld := if s1.pw.modeHeld.contains r then s1.pw.modeHeld else s1.pw.modeHeld ++ [r] } }
  else s

/-- SNAPSHOT_PAUSE_END (R228 step 4, R545). -/
def execSnapshotPauseEnd (entry : Fin 1024) (pauseNs : Word) (s : State) : Out :=
  let k : Nat := entry
  let rs := (s.so.runs.filter (fun e => e.2.snapPause = some k)).map Prod.fst
  let s1 := s.each rs (fun t r => (t.setRun r { t.run r with snapPause := none }).freezeRun r)
  s.when (s.hubOn && !rs.isEmpty) (s1.setSnap k { s1.snap k with pauseNs := pauseNs.toNat })

/-! ### Rings (R235, R236) -/

def State.ring (s : State) (g : Nat) : Option Ring := SMap.find s.so.rings g
def State.setRing (s : State) (g : Nat) (v : Ring) : State := { s with so := { s.so with rings := SMap.put s.so.rings g v } }

/-- The slots of a ring in the order in which they come, from NEXT. -/
def ringOrder (x : Ring) : List Nat := (List.range x.slots).map (fun j => (x.next + j) % x.slots)

/-- Whether a slot takes its turn: it is neither locked nor pinned (R235, R249). -/
def State.slotTurn (s : State) (x : Ring) (j : Nat) : Bool := !(s.snap (x.first + j)).lock && !(s.snap (x.first + j)).pin

/-- The slot of the next snapshot. -/
def State.slotNext (s : State) (x : Ring) : Option Nat := (ringOrder x).find? (s.slotTurn x)

/-- Whether a slot is still at work on its last snapshot: capturing, or waiting for its boundary. -/
def State.slotBusy (s : State) (x : Ring) (j : Nat) : Bool :=
  (s.snap (x.first + j)).state = 2 || ((s.snap (x.first + j)).state = 1 && (s.snap (x.first + j)).due)

/-- A ring's slot prepared for its next snapshot: old segments freed, new ones allocated. -/
def State.ringPrepare (s : State) (g : Nat) (x : Ring) (j : Nat) : State × Bool :=
  let k := x.first + j
  let mem := x.memEvery ≠ 0 && j % x.memEvery = 0
  let base : Snap := { run := x.run, ring := some g, mem := mem, flush := x.flush }
  let s1 := (s.segFree k).setSnap k base
  match s1.runPages x.run with
  | (t, none) => (t, false)
  | (t, some ps) =>
    match t.segAlloc (128 + g) x.run mem ps with
    | (.done u, h) => (u.setSnap k { base with state := 1, alloc := true, segBase := h, pageCount := ps.length }, true)
    | (.waits u, _) => (u, false)
    | (.short u, _) => (u, false)

/-- The slot of a ring that holds its most recent complete snapshot. -/
def State.ringLatest (s : State) (x : Ring) : Option Nat :=
  bestOf (fun a b => decide ((s.snap (x.first + b)).dcc < (s.snap (x.first + a)).dcc))
    ((List.range x.slots).filter (fun j => (s.snap (x.first + j)).state = 3))

/-- After a completion the next slot is prepared, unless it holds the most recent complete snapshot. -/
def State.ringAhead (s : State) (g : Nat) : State :=
  match s.ring g with
  | some x =>
    match s.slotNext x with
    | some j => if s.slotBusy x j || (s.snap (x.first + j)).state = 1 || s.ringLatest x = some j then s else (s.ringPrepare g x j).1
    | none => s
  | none => s

/-- Whether a snapshot of a ring falls due at the boundary where its run stands. -/
def State.ringDue (s : State) (x : Ring) : Bool :=
  let d := s.dccOf x.run
  let y := s.run x.run
  s.hubOn && (y.state = .running || (y.state = .suspending && !y.stops.isEmpty)) && !y.held && s.runEven x.run &&
    !(s.runBps x.run).isEmpty && (s.runBps x.run).all (fun i => s.stage i = 3) && s.ringTime x d

/-- RING_SNAPSHOT_DUE (R235): the next slot's snapshot falls due, or is skipped and counted; a slot passed over because
it is pinned is counted too (R249). While that slot is at work on its last snapshot, the ring owes the new one (R230); one more
that falls due till then is skipped (log entry 54). -/
def execRingSnapshotDue (ring : Fin 64) (s : State) : Out :=
  let g : Nat := ring
  match s.ring g with
  | none => .next s
  | some x =>
    let d := s.dccOf x.run
    let before := (ringOrder x).takeWhile (fun j => !s.slotTurn x j)
    let pins := (before.filter (fun j => (s.snap (x.first + j)).pin)).length
    let skip := fun (t : State) (n : Nat) => t.setRing g { x with lastDue := d, owed := false, skipped := (x.skipped + n) % 2 ^ 32 }
    let res := match s.slotNext x with
      | none => skip s (max 1 pins)
      | some j =>
        if s.slotBusy x j then
          s.setRing g { x with lastDue := d, owed := true, skipped := (x.skipped + b2n x.owed) % 2 ^ 32 }
        else
          let (t, ok) := if (s.snap (x.first + j)).state = 1 then (s, true) else s.ringPrepare g x j
          if ok then
            let t1 := t.setSnap (x.first + j) { t.snap (x.first + j) with due := true, atCycle := d, late := x.owed }
            t1.setRing g { x with lastDue := d, owed := false, next := (j + 1) % x.slots, skipped := (x.skipped + pins) % 2 ^ 32 }
          else skip t (pins + 1)
    s.when (s.ringDue x) res

/-! ### Completion (R228 step 5, R230, R238) -/

/-- Headers with BODY_CRC written and the segments VALID: how many are, and whether every write succeeded. -/
def State.segsClose (s : State) (k : Nat) : State × Nat × Bool :=
  let x := s.snap k
  x.heads.zipIdx.foldl (fun (g : State × Nat × Bool) h =>
    let (t, e) := g.1.pmGet (x.segBase + h.2) x.run
    let a := granAddr e.stack e.granule
    let body := t.dramBytes (a + 64) (leAt h.1 0x1C 4)
    let w := t.dramWrite a (h.1 ++ leBytes 4 (crc32c body)) none 0x28
    if poisonedEnt e then (t, g.2.1, false)
    else if w.cause ≠ 0 then (w.st, g.2.1, false) else (w.st.pmPut (x.segBase + h.2) { e with stat := 1 }, g.2.1 + 1, g.2.2)) (s, 0, true)

/-- A snapshot fails with `n` segments VALID: recorded, its ticket failed. -/
def State.snapFail (s : State) (k n err : Nat) : State :=
  let x := s.snap k
  let s1 := (s.setSnap k { x with state := 4, segsValid := n, heads := [] }).event 0x0303 4 x.segBase x.run
  (s1.tktProgress? x.ticket 0 n).tktEnd? x.ticket 3 err

/-- A snapshot is complete; the ring it belongs to counts it and prepares its next slot. -/
def State.snapDone (s : State) (k : Nat) : State :=
  let x := s.snap k
  let s1 := s.setSnap k { x with state := 3, segsValid := x.pageCount, heads := [] }
  let s2 := (s1.tktProgress? x.ticket x.pageCount x.pageCount).tktEnd? x.ticket 2 0
  match x.ring with
  | some g =>
    match s2.ring g with
    | some q => (s2.setRing g { q with taken := (q.taken + 1) % 2 ^ 32 }).ringAhead g
    | none => s2
  | none => s2

/-- Snapshots of the run that fell due at a boundary now passed are late (R230). -/
def State.markLate (s : State) (r : Nat) : State :=
  s.each (s.so.snaps.filter (fun e => e.2.run = r && e.2.state = 1 && e.2.due && decide (e.2.atCycle < s.dccOf r)))
    (fun t e => t.setSnap e.1 { e.2 with late := true })

/-- SNAPSHOT_COMPLETE (R228 step 5): `ok` false when a segment write timed out. -/
def execSnapshotComplete (entry : Fin 1024) (ok : Bool) (s : State) : Out :=
  let k : Nat := entry
  let x := s.snap k
  let poisoned := (List.range x.pageCount).any (fun j => poisonedEnt (s.pmGet (x.segBase + j) x.run).2)
  let (t, n, closed) := if ok && !x.bad && !poisoned then s.segsClose k else (s, 0, false)
  let res := if closed then t.snapDone k else t.snapFail k n (if poisoned then stIntegrity else stBusError)
  s.when (s.hubOn && x.state = 2 && !s.so.runs.any (fun e => e.2.snapPause = some k)) (res.markLate x.run)

/-- A snapshot request that has its entry and segments: a held run in mode 8 and a SUSPENDED run are captured at once
(R231), any other at its snapshot cycle. -/
def State.snapBegin (s : State) (k : Nat) : State :=
  let x := s.snap k
  let y := s.run x.run
  if y.state = .suspended || (s.mode = 8 && y.held && decide (x.atCycle ≤ s.dccOf x.run)) then s.snapCapture k
  else s.setSnap k { x with due := true }

/-! ### Restore (R248, R249) -/

/-- The status of a restore request; 0: accepted. -/
def State.restoreErr (s : State) (r k : Nat) (force : Bool) : Nat :=
  let x := s.run r
  let e := s.snap k
  let cfgs := (List.range e.pageCount).map (fun j =>
    let p := (s.pmGet (e.segBase + j) e.run).2
    leNat (s.dramBytes (granAddr p.stack p.granule + 0x18) 4))
  let match' := cfgs = s.cfgHandles r
  let pagesOk := (List.range x.pageCount).all (fun j => (s.pmGet (x.stateBase + j) r).2.stat ≠ 0)
  if e.state ≠ 3 then stBadState
  else if !(x.state = .idle || (x.state = .suspended && !x.saveFail)) then stBadState
  else if x.design ≠ (s.run e.run).design then stBadState
  else if force then (if !e.mem && !pagesOk then stBadState else 0)
  else if !match' then stBadParam
  else if !e.mem then stBadState
  else 0

/-- A run marked for a restore: resident pages leave first. -/
def State.restoreMark (s : State) (r k : Nat) : State :=
  let s0 := match (s.run r).restoreFrom with
    | some old => s.setSnap old { s.snap old with pin := false }
    | none => s
  let s1 := (s0.evictRun r (s0.runBps r)).ringAfresh r
  (s1.setSnap k { s1.snap k with pin := true }).setRun r
    { s1.run r with started := true, dcc := (s.snap k).dcc, restoreFrom := some k }

/-! ### Single-step (R246, R247) -/

/-- A run that is being stepped is held by the step of another run in its tiles: its own step is given up there, and its ticket
ends superseded (R246; log entry 54). -/
def State.stepCut (s : State) (r : Nat) : State :=
  match SMap.find s.so.steps r with
  | none => s
  | some e =>
    let s1 := { s with so := { s.so with steps := SMap.erase s.so.steps r } }
    (s1.setRun r { s1.run r with stops := (s1.run r).stops.filter (fun q => q.why ≠ .step) }).tktEnd e.1 4 stSuperseded

/-- One held run advances by N design cycles. -/
def State.stepBegin (s : State) (r n : Nat) (holdIo : Bool) (ticket : Nat) : State :=
  let tiles := ((s.runBps r).map bpTile).dedup
  let others := (s.so.runs.filter (fun e => e.1 ≠ r && e.2.state = .running && (s.runBps e.1).any (fun i => tiles.contains (bpTile i)))).map Prod.fst
  let s1 := s.each others (fun t o => (t.stepCut o).freezeRun o)
  let s2 := s1.each tiles (fun t m =>
    let u := t.setFld (Reg.tcHold m) 2 1 0
    if holdIo then u else u.setBit (Reg.tcHold m) 0 false)
  let s3 := s2.each (s.runBps r) (fun t i => t.relOp i 2)
  let d := s.dccOf r
  let x := s3.run r
  let s4 := s3.setRun r { x with held := false, stops := x.stops ++ [⟨.step, d + n⟩] }
  { s4 with so := { s4.so with steps := SMap.put s4.so.steps r (ticket, d) } }

end Sys2Proof.Machine
end

