-- ==== Sys2Proof/Machine/Flash.lean ====
section
/-!
DEFINITION. Scratchpad banks, the boot flash, staging, promotion and settings (chapter 17).
-/
namespace Sys2Proof.Machine

/-! ### Scratchpad banks (R480–R485) -/

def spBase (b : Nat) : Nat := 0x10000000 + b * 0x800000
def State.spOwner (s : State) (b : Nat) : Nat := s.fld (Reg.spBCtrl b) 15 8
def State.spPower (s : State) (b : Nat) : Nat := s.fld (Reg.spBStat b) 25 24
def State.setPower (s : State) (b v : Nat) : State := s.setFld (Reg.spBStat b) 25 24 v

/-- A write of STATE or OWNER without effect. -/
def State.spForeign (s : State) (b : Nat) : State := s.setBit (Reg.spBStat b) 30 true

/-- Contents of a bank lost. -/
def State.spLost (s : State) (b : Nat) : State := s.domLost (domSp b)

/-- A bank leaves the on state (R46): it refuses accesses, and changes once its stamps are back. -/
def State.spDown (s : State) (b : Nat) : State :=
  if (s.dom (domSp b)).ph = 2 then (s.setDom (domSp b) { ph := 3 }).setPower b 3 else s

/-- The bank's array supply is lowered or removed. -/
def State.spDownEnd (s : State) (b : Nat) : State :=
  let v := s.fld (Reg.spBCtrl b) 25 24
  let s1 := (s.setDom (domSp b) {}).setPower b v
  if v = 0 then s1.spLost b else s1

/-- A power state asked for by a bank's owner (R482). -/
def State.spState (s : State) (b v : Nat) : State :=
  let st := if v = 3 then 2 else v
  let s1 := s.setFld (Reg.spBCtrl b) 25 24 st
  if st = 2 then (if (s.dom (domSp b)).ph = 2 then s1 else s1.domWake (domSp b))
  else if (s.dom (domSp b)).ph = 2 then s1.spDown b
  else if (s.dom (domSp b)).ph = 0 && st = 0 && s.spPower b = 1 then (s1.setPower b 0).spLost b
  else s1

/-- A write of STATE (R480, R481). -/
def State.spWriteState (s : State) (b mid v : Nat) : State :=
  if (mid ≠ s.spOwner b && mid ≠ 0x30) || (SMap.find s.sp.handing b).isSome then s.spForeign b else s.spState b v

/-- SCRATCHPAD_STATE_WRITE (R482). -/
def execScratchpadStateWrite (b : Fin 16) (mid : Byte) (st : Fin 4) (s : State) : Out :=
  s.when s.hubOn (s.spWriteState b mid.toNat st)

/-- A write of OWNER (R480, R481): an unowned bank takes it at once; otherwise the handover runs. -/
def State.spWriteOwner (s : State) (b mid owner : Nat) : State :=
  if s.spOwner b = 0xFF then s.setFld (Reg.spBCtrl b) 15 8 owner
  else if mid = s.spOwner b || mid = 0x30 then
    { s with sp := { s.sp with handing := SMap.put s.sp.handing b owner } }.setBit (Reg.spBStat b) 28 true
  else s.spForeign b

/-- SCRATCHPAD_HANDOVER (R481). -/
def execScratchpadHandover (b : Fin 16) (mid owner : Byte) (s : State) : Out :=
  s.when s.hubOn (s.spWriteOwner b mid.toNat owner.toNat)

/-- SCRATCHPAD_HANDOVER_COMPLETE (R481). -/
def execScratchpadHandoverComplete (b : Fin 16) (s : State) : Out :=
  match SMap.find s.sp.handing b with
  | some o => s.when s.hubOn
      (({ s with sp := { s.sp with handing := SMap.erase s.sp.handing b } }.setBit (Reg.spBStat b) 28 false).setFld (Reg.spBCtrl b) 15 8 o)
  | none => .next s

/-- A bank is on (R484): STATE reads 2 until the owner writes it again. -/
def State.spUp (s : State) (b : Nat) : State :=
  ((s.domUp (domSp b)).setPower b 2).setFld (Reg.spBCtrl b) 25 24 2

/-- A bank's wake row has passed: from off it is filled with zeros first (R483). -/
def State.spRowPass (s : State) (b : Nat) : State :=
  if s.fld (Reg.spBStat b) 25 24 = 1 then s.spUp b
  else (((s.zeroRange (spBase b) (spBase b + 0x800000)).setDom (domSp b) { ph := 1 }).setPower b 3).setBit (Reg.spBStat b) 29 true

/-- A double-bit error found in the word at byte address `a` (R485). -/
def State.spUe (s : State) (b a : Nat) : State :=
  let s1 := (s.count (Reg.spBEcc b) 15 0 1).wr (Reg.spBErraddr b) (2 ^ 31 + (a - spBase b) / 8 * 8)
  s1.event 0x0B03 5 b 0 a

/-- SCRATCHPAD_PATROL (R485): every word of a bank that is on is read; `corrected` words had single-bit errors, `double`
lists the byte offsets of words found with double-bit errors. -/
def execScratchpadPatrol (b : Fin 16) (corrected : Nat) (double : List Nat) (s : State) : Out :=
  let at' := (double.filter (fun o => decide (o < 0x800000))).map (fun o => spBase b + o / 8 * 8)
  let s1 := s.count (Reg.spBEcc b) 31 16 corrected
  let s2 := { s1 with sp := { s1.sp with bad := (s1.sp.bad ++ at').dedup } }
  s.when (s.hubOn && s.domOn (domSp b) && s.fld Reg.spPatrol 7 0 ≠ 0) (s2.each at' (fun t a => t.spUe b a))

/-! ### Boot records (R491) -/

/-- Whether record 1 is the one in force. -/
def State.recOne (s : State) : Bool :=
  match s.fl.rec0, s.fl.rec1 with
  | some a, some b => decide (a.gen < b.gen)
  | none, some _ => true
  | _, none => false

/-- The boot record in force. -/
def State.bootRec (s : State) : BootRec := (if s.recOne then s.fl.rec1 else s.fl.rec0).getD {}

/-- UPD_STAT and the version registers show the record in force. -/
def State.showUpd (s : State) : State :=
  let r := s.bootRec
  let s1 := (((s.setFld Reg.updStat 2 0 r.stage).setFld Reg.updStat 7 6 r.promote).setBit Reg.updStat 5 (r.next = 1)).setBit
    Reg.updStat 4 (s.pw.image = 3)
  ((s1.wr Reg.updVerActive r.verA).wr Reg.updVerStaged r.verS).wr Reg.updVerFallback r.verF

/-- A change of the boot record: the other record is written with GEN + 1. -/
def State.bootWrite (s : State) (f : BootRec → BootRec) : State :=
  let r := { f s.bootRec with gen := s.bootRec.gen + 1 }
  (if s.recOne then { s with fl := { s.fl with rec0 := some r } } else { s with fl := { s.fl with rec1 := some r } }).showUpd

/-! ### Firmware images (R490, R494) -/

/-- The status of a firmware image; 0: its header is good, its signer slot accepts it and both signatures verify (R152,
R490). -/
def State.fwCheck (s : State) (img : List Byte) : Nat :=
  let code := leAt img 0x18 4
  if leAt img 8 4 ≠ 0xD2A || leAt img 0xC 2 ≠ 0x5A || leAt img 0xE 2 ≠ 0x9480 then stForeignImage
  else if leAt img 0 4 ≠ 0x5746525A || leAt img 4 2 ≠ 1 || leAt img 6 2 ≠ 0 || leAt img 0x16 2 ≠ 0 || leAt img 0x1C 0xE0 ≠ 0 ||
      leAt img 0xFC 4 ≠ crc32c (img.take 0xFC) || decide (16 * 2 ^ 20 - 17312 < code) || img.length ≠ 256 + code + 17056 ||
      !signerIn s.fk.fwSlots s.fk.fwRevoked 2 (img.drop (256 + code)) || !bothVerify img (256 + code) then stIntegrity
  else 0

/-- Sectors of a firmware image. -/
def sectorsOf (n : Nat) : Nat := (n + 65535) / 65536

/-- Staging has been franked: verified, then scheduled for the next start (R494). -/
def State.stageVerified (s : State) (ticket : Nat) : State :=
  let s1 := (s.bootWrite (fun r => { r with stage := 2 })).bootWrite (fun r =>
    { r with next := 1, stage := 3, verS := leAt s.fl.staging 0x10 4 })
  let s2 := { s1 with fl := { s1.fl with stg := none } }
  (s2.tktProgress ticket 0 1).tktEnd ticket 2 0

/-- Bytes still waiting to be programmed into staging. -/
def stageWaiting (ops : List FlashOp) : List Byte := ops.flatMap (fun o => match o with | .stage b => b | _ => [])
def notStage (o : FlashOp) : Bool := match o with | .stage _ => false | _ => true

/-- UPDATE_END's work (R418): bytes missing, or the image franked over everything received. -/
def State.stageEnd (s : State) (g : Staging) : State :=
  let all := s.fl.staging ++ stageWaiting s.fl.ops
  let s1 := { s with fl := { s.fl with staging := all, ops := s.fl.ops.filter notStage } }
  if g.got < g.len then { s with fl := { s.fl with stg := none } }.tktEnd g.ticket 3 stTruncated
  else
    let s2 := s1.tktProgress g.ticket (all.length / 1024) 0
    match s2.fwCheck all with
    | 0 => s2.stageVerified g.ticket
    | e => { s2 with fl := { s2.fl with stg := none } }.tktEnd g.ticket 3 e

/-! ### Settings (R500–R502) -/

/-- SETTINGS_FMT of the image that runs, and of the active image. -/
def State.runFmt (s : State) : Nat :=
  leAt (match s.pw.image with | 2 => s.fl.staging | 3 => s.fl.fallback | _ => s.fl.active) 0x14 2
def State.activeFmt (s : State) : Nat := leAt s.fl.active 0x14 2

/-- The newest of the two copies that a test admits; true names copy B. -/
def newestCopy (a b : SetCopy) (p : SetCopy → Bool) : Option (Bool × SetCopy) :=
  if b.valid && p b && (!(a.valid && p a) || decide (a.gen < b.gen)) then some (true, b)
  else if a.valid && p a then some (false, a)
  else none

/-- The settings that firmware reads: the newest copy in its format, else the newest copy converted. -/
def State.settings (s : State) : SMap (List Byte) :=
  match newestCopy s.fl.setA s.fl.setB (fun c => c.format = s.runFmt) with
  | some (_, c) => c.recs
  | none => match newestCopy s.fl.setA s.fl.setB (fun _ => true) with
    | some (_, c) => c.recs
    | none => []

/-- The keys of R502. -/
def settingsKey (k : Nat) : Bool :=
  (1 ≤ k && k ≤ 4) || (0x10 ≤ k && k ≤ 0x18) || (0x20 ≤ k && k ≤ 0x27) || (0x30 ≤ k && k ≤ 0x43) || k = 0x48 ||
    (0x100 ≤ k && k ≤ 0x1FF)

/-- A settings record written (R500, R501). -/
def State.settingsPut (s : State) (key : Nat) (value : List Byte) : State :=
  let a := s.fl.setA
  let b := s.fl.setB
  let r := s.bootRec
  let keep := if r.stage = 4 || r.promote = 1 || r.promote = 2 then newestCopy a b (fun c => c.format = s.activeFmt) else none
  let newest := newestCopy a b (fun _ => true)
  let toB := match keep with
    | some (isB, _) => !isB
    | none => match newest with | some (isB, _) => !isB | none => false
  let gen := (match newest with | some (_, c) => c.gen | none => 0) + 1
  let c : SetCopy := { valid := true, format := s.runFmt, gen := gen, recs := SMap.put s.settings key value }
  if toB then { s with fl := { s.fl with setB := c } } else { s with fl := { s.fl with setA := c } }

/-! ### Flash operations and promotion (R496, R499) -/

/-- A settings write goes before any other operation that waits. -/
def isSettings (o : FlashOp) : Bool := match o with | .settings _ _ _ => true | _ => false
def nextFlash (ops : List FlashOp) : Option (FlashOp × List FlashOp) :=
  match ops.find? isSettings with
  | some o => some (o, ops.erase o)
  | none => match ops with | o :: os => some (o, os) | [] => none

/-- One flash operation completes. -/
def State.flashOp (s : State) (o : FlashOp) : State :=
  match o with
  | .settings k v t => (s.settingsPut k v).tktEnd? t 2 0
  | .stage bs =>
    let stg := s.fl.stg.map (fun (g : Staging) => { g with programmed := g.programmed + bs.length })
    let s1 := { s with fl := { s.fl with staging := s.fl.staging ++ bs, stg := stg } }
    match s1.fl.stg with
    | some g => s1.tktProgress g.ticket (g.programmed / 1024) 0
    | none => s1
  | .stageErase left done t =>
    let s1 := (s.tktActive t).tktProgress t (done + 1) 0
    if left ≤ 1 then ({ s1 with fl := { s1.fl with staging := [] } }.bootWrite (fun r => { r with stage := 0, next := 0, verS := 0 })).tktEnd t 2 0
    else { s1 with fl := { s1.fl with ops := s1.fl.ops ++ [.stageErase (left - 1) (done + 1) t] } }
  | .storeErase e left done t =>
    let s1 := { s with fl := { s.fl with store := SMap.erase s.fl.store e } }.tktActive t |>.tktProgress t (done + 1) 0
    if left ≤ 1 then s1.tktEnd t 2 0
    else { s1 with fl := { s1.fl with ops := .storeErase e (left - 1) (done + 1) t :: s1.fl.ops } }

/-- A program or erase that an entry to mode 11 waits for has completed (R471). -/
def State.flashEnds (s : State) : State :=
  { s with pw := { s.pw with chg := s.pw.chg.map (fun c => { c with flashDue := false }) } }

/-- FLASH_OPERATION_COMPLETE (R499): the operation of highest precedence; an event-log flush goes before these. -/
def execFlashOperationComplete (s : State) : Out :=
  match nextFlash s.fl.ops with
  | some (o, os) => s.when (s.hubOn && s.ev.flushing.isNone) ({ s with fl := { s.fl with ops := os } }.flashEnds.flashOp o)
  | none => .next s

/-- Sectors that the promotion step in progress copies or erases. -/
def State.promoteTotal (s : State) : Nat :=
  max 1 (sectorsOf (if s.bootRec.promote = 1 then s.fl.active.length else s.fl.staging.length))

/-- A promotion step ends and the next begins (R496). -/
def State.promoteNext (s : State) : State :=
  let s1 := s.wr Reg.updPieces 0
  match s.bootRec.promote with
  | 1 => { s1 with fl := { s1.fl with fallback := s.fl.active } }.bootWrite (fun r => { r with promote := 2, verF := r.verA })
  | 2 => { s1 with fl := { s1.fl with active := s.fl.staging } }.bootWrite (fun r => { r with promote := 3, next := 0, verA := r.verS })
  | 3 => { s1 with fl := { s1.fl with staging := [] } }.bootWrite (fun r => { r with promote := 0, stage := 0, verS := 0 })
  | _ => s

/-- PROMOTION_SECTOR (R496). -/
def execPromotionSector (s : State) : Out :=
  let n := s.rd Reg.updPieces + 1
  s.when (s.hubOn && s.bootRec.promote ≠ 0 && s.ev.flushing.isNone && !s.fl.ops.any isSettings)
    (if s.promoteTotal ≤ n then s.flashEnds.promoteNext else s.flashEnds.wr Reg.updPieces n)

/-- A write of UPD_CONFIRM (R495). -/
def State.updConfirm (s : State) (key : Nat) : State :=
  if key = 0x434F4E46 && s.bootRec.stage = 4 && decide (3 ≤ s.mode) && !s.pw.wdtReset then
    (if s.bootRec.promote = 0 then (s.bootWrite (fun r => { r with promote := 1 })).wr Reg.updPieces 0 else s)
  else s.setBit Reg.updStat 8 true

/-- UPDATE_CONFIRM (R495). -/
def execUpdateConfirm (key : Word) (s : State) : Out := s.when s.hubOn (s.updConfirm key.toNat)

end Sys2Proof.Machine
end

