-- ==== Sys2Proof/Machine/Wake.lean ====
section
/-!
DEFINITION. Resets, the wake table's W rows, the choice of the boot image, settings at boot, boot failures, wake sources
(R48, R455–R473, R477, R487, R492–R497, R502, R522).
-/
namespace Sys2Proof.Machine

/-! ### Faults and domains -/

/-- PM_FAULT.ACTIVE shows WAKE while a W row has failed or a fail bit is set (log entry 17). -/
def State.showWake (s : State) : State :=
  let now := s.bit Reg.pmStat 12 || s.rd Reg.pmDomFail ≠ 0 || (List.range 16).any (fun i => s.rd (Reg.pmBayFail i) ≠ 0) ||
    (List.range 16).any (fun b => s.bit (Reg.spBStat b) 31)
  s.setBit Reg.pmFault 22 now

/-- Children before parents (R45). -/
def offRank (d : Nat) : Nat :=
  if isBayDom d then 0 else if isSpDom d then 1 else if 8 ≤ d ∧ d < 16 then 2 else if d < 8 then 3
  else if d < 31 then 4 else if d = domRnd then 5 else 6

/-- The supplies of every domain except AON, VBAT and DBG are removed. -/
def State.allOff (s : State) : State :=
  let s1 := s.each (sortBy (fun a b => decide (offRank a ≤ offRank b)) (SMap.keys s.pw.doms)) (fun t d => t.domOff d)
  { s1 with pw := { s1.pw with doms := [] } }

/-! ### Rows W1–W6 (R459–R461) -/

/-- A W row starts its action: W3 enables the references, W6 releases the HUB reset. -/
def State.startRow (s : State) (row att : Nat) : State :=
  let s1 := (s.setFld Reg.pmStat 11 4 row).setFld Reg.pmWakeStat 9 8 att
  let s2 := if row = 3 then { s1 with pw := { s1.pw with refEn := 7 } } else s1
  let s3 := if row = 6 then s2.coresStart (List.range 4) else s2
  { s3 with pw := { s3.pw with wWait := false } }

/-- A W row's action is undone (R460). -/
def State.undoRow (s : State) (row : Nat) : State :=
  match row with
  | 1 => { s with pw := { s.pw with crystal := false } }
  | 2 => { s with pw := { s.pw with mpClock := false } }
  | 3 => { s with pw := { s.pw with refEn := 0 } }
  | 6 => s.each (List.range 4) (fun t c => t.wr (Reg.dbgCStat c) 0x100)
  | _ => s

/-- WAKE_FAIL and FAILED clear: the rows are to run again. -/
def State.wakeClear (s : State) : State :=
  ((s.setBit Reg.pmStat 12 false).setBit Reg.pmWakeStat 7 false).showWake

/-- A W row fails: after the third attempt the module returns to the mode that it was leaving (R461). -/
def State.rowFail (s : State) (row : Nat) : State :=
  let s1 := s.undoRow row
  if s.fld Reg.pmWakeStat 9 8 < 3 then { s1 with pw := { s1.pw with wWait := true } }
  else
    let s2 := s1.allOff
    let s3 := { s2 with pw := { s2.pw with refEn := if row ≤ 2 then s2.pw.refEn else 0 } }
    let s4 := ((s3.setFld Reg.pmStat 11 4 0).setBit Reg.pmStat 12 true).setMode s.pw.wakeFrom
    let s5 := ((s4.setBit Reg.pmWakeStat 7 true).setFld Reg.pmWakeStat 6 0 row).setBit Reg.pmFault 6 true
    s5.faultN.showWake

/-- HUB powers up (W4): its start is counted, the banks are on and empty, the epoch runs, and a loss of the battery-backed
key is recorded (R31, R157). -/
def State.hubUp (s : State) : State :=
  let s0 := { s with tal := { s.tal with downInEpoch := List.range 33 } }
  let s1 := (s0.setDom domHub { ph := 2 }).wr Reg.pmHubStarts (s.rd Reg.pmHubStarts + 1)
  let s2 := s1.each (List.range 16) (fun t b => t.setDom (domSp b) { ph := 2 })
  let s3 := ((s2.wr Reg.mrEpochStat (1 + 2 * b2n (s.pw.refFail.contains 0))).wr (Reg.vlLpIp4 0) s.fk.mpIp4).showUpd.showMode
  if s3.fk.vbatLost then ({ s3 with fk := { s3.fk with vbatLost := false } }).event 0x0604 4 0 0 else s3

/-! ### Boot (R477, R487, R492, R502) -/

/-- The image that the boot ROM starts: 1 active, 2 staged on trial, 3 fallback, 0 none franks (R492). -/
def State.bootImage (s : State) : Nat :=
  if s.bootRec.next = 1 && s.fwCheck s.fl.staging = 0 then 2
  else if s.fwCheck s.fl.active = 0 && !s.bit Reg.pmStat 15 then 1
  else if s.fwCheck s.fl.fallback = 0 then 3
  else 0

/-- A settings value written to registers in turn, 4 bytes each (log entry 18). -/
def State.setRegs (s : State) (v : List Byte) (rs : List Reg) : State :=
  s.each rs.zipIdx (fun t x => if 4 * x.2 + 4 ≤ v.length then t.wrFields x.1 (leAt v (4 * x.2) 4) else t)

/-- The registers of a settings key that firmware writes whole at boot (R502). -/
def settingsRegs (k : Nat) : List Reg :=
  if k = 1 then [Reg.mrBoot]
  else if k = 2 then [Reg.updCfg]
  else if k = 4 then [Reg.pmWakeCfg, Reg.pmWakeKey]
  else if 0x10 ≤ k ∧ k < 0x19 then
    [Reg.vlLpCfg (k - 0x10), Reg.vlLpIp4 (k - 0x10)] ++ (List.range 4).map (fun w => Reg.vlLpIp6 (k - 0x10) w)
  else if k = 0x48 then [Reg.soPolWeight, Reg.soPolQuantum, Reg.soPolAge, Reg.soPolSched, Reg.soPsCfg]
  else if 0x100 ≤ k ∧ k < 0x200 then
    let r := k - 0x100
    [Reg.icRCtrl r, Reg.icRBaseLo r, Reg.icRBaseHi r, Reg.icRLimitLo r, Reg.icRLimitHi r, Reg.icRTagLo r, Reg.icRTagHi r]
  else []

/-- The settings applied at boot. A region's CTRL takes MODE alone. -/
def State.settingsApply (s : State) : State :=
  s.each s.settings (fun t e =>
    let v := if 0x100 ≤ e.1 then leBytes 4 (leAt e.2 0 4 % 4) ++ e.2.drop 4 else e.2
    t.setRegs v (settingsRegs e.1))

/-- Firmware writes MP's address for the Lodge when it comes from the settings (R374, R400). -/
def State.lodgeSync (s : State) : State :=
  if s.fld (Reg.vlLpCfg 0) 29 28 = 1 then s.wr Reg.pmLodgeIp4 (s.rd (Reg.vlLpIp4 0)) else s

/-- Retired banks (key 3). -/
def State.retired (s : State) : Nat := leAt (SMap.get s.settings 3 []) 0 4

/-- The banks that take the roles of banks 0–5 (R487). -/
def bankRoles (retired : Nat) : List Nat :=
  (List.range 6).foldl (fun bs b =>
    if bitOf retired b then
      bs ++ [((List.range 16).find? (fun k => decide (6 ≤ k) && !bitOf retired k && !bs.contains k)).getD b]
    else bs ++ [b]) []

/-- The owners of the roles. -/
def roleOwners : List Nat := [0x00, 0x00, 0x01, 0x08, 0x08, 0x80]

/-- The boot assignment of the banks: owners, the banks that stay off, and the firmware image in the first two (R487, R492). -/
def State.banksAssign (s : State) (img : List Byte) : State :=
  let bs := bankRoles s.retired
  let s1 := s.each (bs.zip roleOwners) (fun t x => t.setFld (Reg.spBCtrl x.1) 15 8 x.2)
  let s2 := s1.each ((List.range 16).filter (fun b => !bs.contains b)) (fun t b =>
    ((t.setDom (domSp b) {}).setFld (Reg.spBCtrl b) 25 24 0).setPower b 0)
  let s3 := s2.each (bs.zipIdx.filter (fun x => x.1 ≠ x.2)) (fun t x => t.event 0x0B02 4 x.2 0)
  (s3.putBytes (spBase (bs.getD 0 0)) (img.take 0x800000)).putBytes (spBase (bs.getD 1 1)) ((img.drop 0x800000).take 0x800000)

/-- WAKE_TARGET and BOOT_TARGET; other values are taken as 6. -/
def State.wakeTarget (s : State) : Nat := if s.fld Reg.pmWakeCfg 7 4 = 5 then 5 else 6
def State.bootTarget (s : State) : Nat :=
  let v := s.fld Reg.mrBoot 3 0
  if v = 5 ∨ v = 9 then v else 6

/-- The mode that this boot ends in (R465). -/
def State.bootEndMode (s : State) : Nat :=
  if s.pw.image = 3 then 3 else if s.pw.toWake then s.wakeTarget else s.bootTarget

/-- The boot ends without a move: mode 2, PM_FAULT.WAKE, no change in progress (R467, R492, R493). -/
def State.bootStop (s : State) : State :=
  ({ s with pw := { s.pw with bootStuck := true, chg := none } }.setBit Reg.pmFault 6 true).faultN.showMode

/-- Mode 2 is entered: the boot ROM takes an image, and its firmware applies the settings and assigns the banks. -/
def State.bootBegin (s : State) : State :=
  let k := s.bootImage
  let s1 := ({ s with pw := { s.pw with image := k, bootStuck := false } }.setFld Reg.pmStat 11 4 0).setMode 2
  if k = 0 then (s1.each (List.range 4) (fun t c => (t.setBit (Reg.dbgCStat c) 0 true).setBit (Reg.dbgWdtStat c) 1 true)).bootStop
  else
    let s2 := if k = 3 then s1.setBit Reg.pmStat 15 false else s1
    let s3 := if k = 2 && s2.bootRec.stage = 3 then s2.bootWrite (fun r => { r with stage := 4 }) else s2.showUpd
    let img := if k = 2 then s3.fl.staging else if k = 3 then s3.fl.fallback else s3.fl.active
    let s4 := (s3.banksAssign img).settingsApply.lodgeSync
    let s5 := if s4.pw.epoNote && s4.bit Reg.pmFault 8 then s4.event 0x0108 6 0 2 else s4
    let s6 := { s5 with
      vl := { s5.vl with store := true }
      pw := { s5.pw with epoNote := false, fwReady := [0, 1, 4, 9, 10, 11], chg := some { req := { src := .boot, target := s5.bootEndMode }, origin := 2 } } }
    let rows := if k = 3 then [] else (List.range 8).map domEdge ++ s.pw.ddrFit.map domDdr ++ [domHost]
    (s6.each rows (fun t d => t.domWake d)).showMode

/-- A mode is reached: the code, LAST_STATUS and the event (R507). -/
def State.modeReached (s : State) (m : Nat) : State :=
  (({ s with pw := { s.pw with chg := none } }.setMode m).setFld Reg.mrMode 31 24 stOk).event 0x0101 1 0 m

/-- The LINK_CONFIG block stored for a tile, as its sixteen words. -/
def State.linkBlock (s : State) (n : Nat) : Option (List Nat) :=
  (SMap.find s.settings (0x20 + n)).bind (fun v => if v.length < 64 then none else some ((List.range 16).map (fun i => leAt v (4 * i) 4)))

/-- Boot complete (R477): the readiness bits that it needs. -/
def State.bootReady (s : State) : Bool := [0, 1, 4, 5, 6, 9, 10, 11].all s.readyBit

/-- BOOT_COMPLETE (R465, R477, R478): BOOT_TARGET, WAKE_TARGET or Recovery; stored links are trained in modes 6 and 9. -/
def execBootComplete (s : State) : Out :=
  let m := s.bootEndMode
  let s1 := { s with pw := { s.pw with sched := m = 6, toWake := false } }.modeReached m
  let s2 := if m = 6 ∨ m = 9 then s1.each (List.range 8) (fun t n =>
      match t.linkBlock n with | some ws => t.linkTrain n ws none | none => t) else s1
  s.when (s.mode = 2 && s.pw.image ≠ 0 && !s.pw.bootStuck && !s.pw.flushReset && s.bootReady) s2

/-! ### Resets (R48, R522) -/

/-- The warm module reset: everything but AON, VBAT and DBG is removed and the rows run from W3. -/
def State.warmReset (s : State) : State :=
  let s1 := (s.allOff.wr Reg.pmDomFail 0).each (List.range 16) (fun t i => t.wr (Reg.pmBayFail i) 0)
  let s2 := { s1 with pw := { s1.pw with cold := false, toWake := false, wakeFrom := 1, safeZ := false, heldWake := none, dramHot := [] } }
  ((s2.wakeClear.setBit Reg.pmStat 13 false).setMode 1).startRow 3 1

/-- WARM_MODULE_RESET (R48). -/
def execWarmModuleReset (s : State) : Out := s.when s.pw.aon s.warmReset

/-- What outlives the AON supply: fuses and the battery-backed key, the boot flash and its event log; nothing else. -/
def State.unpowered (s : State) : State :=
  { State.reset with
    pending := s.pending, draw := s.draw
    pw := { State.reset.pw with ddrFit := s.pw.ddrFit }
    regs := (s.regs.filter (fun e => e.1 = Reg.fkBkeyStat.addr)) ++ State.reset.regs
    ev := { halfA := s.ev.halfA, halfB := s.ev.halfB }
    fk := { s.fk with unlocked := none, fkeyStage := [], bkeyStage := [], imgStage := [], fwStage := [], busy := none, loads := [] }
    fl := { s.fl with ops := [], stg := none, storeBusy := [] } }

/-- Registers in rising order of address, as `unpowered` leaves them. -/
def sortRegs (m : SMap Word) : SMap Word := m.foldl (fun r e => SMap.put r e.1 e.2) []

/-- COLD_RESET (R522): AON supply becomes valid. What the postmark counters then hold is a free value (log entry 24). -/
def execColdReset (s : State) : Out :=
  let u := s.unpowered
  let v := { u with draw := s.draw + 3, pw := { u.pw with
    cycles := s.freeVal (2 ^ 24), hours := s.drawn.freeVal (2 ^ 32), frac := s.drawn.drawn.freeVal 4096 } }
  s.when (!s.pw.aon) ({ v with regs := sortRegs u.regs }.wr Reg.pmLodgeIp4 s.fk.mpIp4)

/-- AON_SUPPLY_FAIL (R522): mode 0 at once, PWR_EN low. -/
def execAonSupplyFail (s : State) : Out :=
  let u := s.unpowered
  s.when s.pw.aon { u with regs := sortRegs u.regs, pw := { u.pw with aon := false, pwrEn := false } }

/-! ### Boot failures (R492, R493, R495, R497) -/

/-- The warm module reset that follows a failure record: at once when the recorder is not running, else after its flush. -/
def State.resetAfterFlush (s : State) : State :=
  if s.readyBit 5 then { s with pw := { s.pw with flushReset := true } } else s.warmReset

/-- Automatic fallback of a trial (R497). -/
def State.trialFallback (s : State) : State :=
  ((s.bootWrite (fun r => { r with next := 0, stage := 2 })).event 0x0B01 5 2 s.bootRec.verS).resetAfterFlush

/-- BOOT_TIMEOUT (R477, R492, R493, R497). -/
def execBootTimeout (s : State) : Out :=
  let rec1 := s.event (if s.pw.image = 2 then 0x0B01 else 0x0B04) 5 s.pw.image
    (if s.pw.image = 2 then s.bootRec.verS else if s.pw.image = 3 then s.bootRec.verF else s.bootRec.verA)
  s.when (s.mode = 2 && s.pw.image ≠ 0 && !s.pw.bootStuck && !s.pw.flushReset && !s.bootReady)
    (if s.anyHaltOnReset || s.pw.image = 3 then rec1.bootStop
     else if s.pw.image = 2 then s.trialFallback
     else (rec1.setBit Reg.pmStat 15 true).resetAfterFlush)

/-- CONFIRM_TIMEOUT (R497). -/
def execConfirmTimeout (s : State) : Out :=
  s.when (s.hubOn && s.bootRec.stage = 4 && s.bootRec.promote = 0 && s.pw.image = 2 && !s.anyHalted && !s.pw.flushReset) s.trialFallback

/-- FLUSH_WAIT_TIMEOUT (R493, R497). -/
def execFlushWaitTimeout (s : State) : Out := s.when (s.hubOn && s.pw.flushReset) s.warmReset

/-- A failure record has not yet reached the flash. -/
def State.failureUnflushed (s : State) : Bool :=
  let own := fun (k : EvKey) => k.typ = 0x0B01 || k.typ = 0x0B04
  s.ev.intake.any (fun e => own e.key) ||
    s.ev.dirty.any (fun k => match SMap.find s.ev.slots k with | some r => own r.key | none => false)

/-- LOG_FLUSH_COMPLETE (R516, R517); a reset that waits for the record's flush follows (R493). -/
def execLogFlushComplete (ok : Bool) (s : State) : Out :=
  match s.ev.flushing with
  | some xs =>
    let t := s.flushDone xs
    s.when s.hubOn (if ok then (if t.pw.flushReset && !t.failureUnflushed then t.warmReset else t) else s.flushFail xs)
  | none => .next s

/-! ### Wake sources (R472, R473) -/

/-- The fused MAC address of MP (R373). -/
def State.mpMac (s : State) : Nat := s.fk.macBase % 2 ^ 48

/-- Whether the module waits for a wake source. -/
def State.canWake (s : State) : Bool :=
  s.pw.aon && (s.mode = 4 || s.mode = 11 || (s.mode = 1 && s.bit Reg.pmStat 12))

/-- The rows run: from W3, or from the failed row when W1 or W2 failed (R461, R472). -/
def State.wakeRows (s : State) : State :=
  let row := if s.bit Reg.pmStat 12 && s.fld Reg.pmWakeStat 6 0 ≤ 2 then s.fld Reg.pmWakeStat 6 0 else 3
  let s1 := { s with pw := { s.pw with toWake := true, cold := false, wakeFrom := s.mode, heldWake := none } }
  ((s1.wakeClear.setBit Reg.pmStat 13 false).setMode 1).startRow row 1

/-- A wake source: recorded and acted on, or held while the cause of an emergency power-off is active (R470). -/
def State.wakeBy (s : State) (src : Nat) : State :=
  if !s.canWake then s
  else if s.bit Reg.pmFault 24 then { s with pw := { s.pw with heldWake := some src } }
  else (s.setFld Reg.pmWakeStat 19 16 src).wakeRows

/-- WAKE_PIN (R472). -/
def execWakePin (s : State) : Out := s.when (s.canWake && s.bit Reg.pmWakeCfg 2) (s.wakeBy 3)

/-- Whether a frame holds the wake pattern (R473): at most one 802.1Q tag, the MP MAC address or broadcast, EtherType 0x88B5, "ZRWK", the
MP MAC address in the order in which a frame carries it, and PM_WAKE_KEY unless that is 0. -/
def State.wakeFrame (s : State) (f : EthFrame) : Bool :=
  let p := f.payload
  f.fcs && decide (f.tags ≤ 1) && (f.dst.toNat = s.mpMac || f.dst.toNat = 2 ^ 48 - 1) && f.etherType = 0x88B5 && decide (14 ≤ p.length) &&
    leAt p 0 4 = 0x4B57525A && beBytes 6 s.mpMac = (p.drop 4).take 6 && (s.rd Reg.pmWakeKey = 0 || leAt p 10 4 = s.rd Reg.pmWakeKey)

/-- WAKE_PATTERN (R473). -/
def execWakePattern (f : EthFrame) (s : State) : Out :=
  s.when (s.canWake && s.pw.mpClock && s.bit Reg.pmWakeCfg 1 && s.wakeFrame f) (s.wakeBy 2)

/-- MP_ACTIVITY_WAKE (R472): a frame with a good FCS to the MP MAC address. -/
def execMpActivityWake (f : EthFrame) (s : State) : Out :=
  s.when (s.canWake && s.pw.mpClock && s.bit Reg.pmWakeCfg 0 && f.fcs && f.dst.toNat = s.mpMac) (s.wakeBy 1)

/-- WAKE_RETRY (R461): a write of 1 to PM_WAKE_STAT.FAILED. -/
def execWakeRetry (s : State) : Out :=
  s.when (s.canWake && s.bit Reg.pmWakeStat 7) (if s.bit Reg.pmFault 24 then s else s.wakeRows)

/-- BOOT_HEARTBEAT_WRITE (R459). -/
def execBootHeartbeatWrite (value : Word) (s : State) : Out := s.when s.hubOn (s.wr Reg.pmBootHb value.toNat)

/-- SAFE_HOLD_AUTO_RESET (R465): a Safe Hold entered from Boot or Recovery, with no fault present. -/
def State.faultClear (s : State) : Bool :=
  s.fld Reg.pmFault 31 16 = 0 && decide (s.pw.hot16 < 16 * ((min 126 (s.fld Reg.pmTherm 7 0) : Nat) - 5 : Int))
def execSafeHoldAutoReset (s : State) : Out :=
  let h := s.fld Reg.pmStat 19 16
  s.when (s.mode = 10 && (h = 2 || h = 3) && s.faultClear) s.warmReset

end Sys2Proof.Machine
end

