-- ==== Sys2Proof/Machine/Modes.lean ====
section
/-!
DEFINITION. Mode changes: what may start, the steps, the end; Safe Hold (R8, R218, R245, R465–R471, R474, R475, R544, R545).
-/
namespace Sys2Proof.Machine

/-! ### What may start (R465, R466) -/

/-- The transitions that a request may start. -/
def State.listed (s : State) (m : Nat) : Bool :=
  let c := s.mode
  if c = 2 then m = 11
  else if c = 3 then m = 2 || m = 11
  else if c = 5 then [4, 6, 9, 10, 11].contains m
  else if c = 6 then [4, 5, 7, 8, 9, 10, 11].contains m
  else if c = 7 then [6, 8, 10, 11].contains m
  else if c = 8 then m = s.pw.haltFrom || m = 10 || m = 11
  else if c = 9 then [4, 5, 6, 10, 11].contains m
  else if c = 10 then [4, 5, 6, 9, 11].contains m
  else false

/-- Whether a RUNNING or LOADING run other than `x` has EXT routes. -/
def State.extActive (s : State) (x : Option Nat) : Bool :=
  s.so.runs.any (fun e => (e.2.state = .running || e.2.state = .loading) && some e.1 ≠ x && s.hasExt e.1)

/-- The checks at the start of a change. -/
def State.mayStart (s : State) (q : ModeReq) : Bool :=
  let m := q.target
  s.listed m &&
    (m ≠ 7 || ((s.run q.run).state ≠ .empty && !s.extActive (some q.run))) &&
    (!(m = 5 || m = 9) || !s.extActive none) &&
    (!(s.mode = 10 && (m = 5 || m = 6 || m = 9)) ||
      (s.faultClear && decide (5 ≤ s.fld Reg.pmStat 19 16) && decide (s.fld Reg.pmStat 19 16 ≤ 9)))

/-! ### Steps -/

/-- Every run that steps is to stop with OP 3 at the boundary (R245, R469, R471); the holds follow. At a change to Halted a run
with a halt to come goes on to its stop cycle (R244, R245). -/
def State.stopRuns (s : State) (halting : Bool := false) : State :=
  let live := (s.so.runs.filter (fun e => (s.runBps e.1).any (fun i => s.armed i || decide (1 ≤ s.stage i)) &&
    !(halting && !(haltUnits e.2.stops).isEmpty))).map Prod.fst
  (s.each live (fun t r => t.setRun r { t.run r with stops := (t.run r).stops ++ [⟨.modeHold, 0⟩] })).applyHolds

/-- Scheduling stops or starts. -/
def State.setSched (s : State) (b : Bool) : State := { s with pw := { s.pw with sched := b } }

/-- The holds of every powered tile begin to lift (R69). -/
def State.liftHolds (s : State) : State :=
  s.each ((List.range 8).filter (fun n => s.domOn (domTile n))) (fun t n => t.holdLiftBegin n)

/-- Runs stopped with OP 3 are released, and deferred releases are written (R245, R545). -/
def State.releaseHeld (s : State) : State :=
  let held := (s.so.runs.filter (fun e => e.2.held && e.2.state = .running)).map Prod.fst
  let late := s.pw.deferred.filter (fun r => !held.contains r)
  let s1 := { s with pw := { s.pw with deferred := [], modeHeld := [], safeZ := false } }
  s1.each (held ++ late) (fun t r => t.release r)

/-- EXCL is cleared (R218). -/
def State.exclEnd (s : State) : State :=
  let s1 := s.each (s.so.runs.filter (fun e => e.2.excl)) (fun t e => t.setRun e.1 { t.run e.1 with excl := false })
  { s1 with so := { s1.so with exclRun := none } }

/-- A run's bay-planes are given up with what they hold. -/
def State.dropPlaced (s : State) (r : Nat) (st : RunState) : State :=
  let s1 := s.evict (s.runHeld r)
  s1.setRun r { s1.run r with state := st, saveFail := false }

/-- One run leaves the fabric at a change to mode 5 or 9 (R197, R474, R475): a RUNNING run is preempted and evicted; one with
an operation in progress acts once it ends, which in Safe Hold a placement cannot; any other is evicted. -/
def State.clearRun (s : State) (r : Nat) : State :=
  let x := s.run r
  if s.mode = 10 && (x.state = .loading || x.state = .waiting) && x.curOp = .place then
    if x.state = .loading && x.xfer.isEmpty && x.waitFor.isEmpty then s.preempt r (s.runBps r)
    else
      let s1 := s.dropPlaced r .waiting
      s1.setRun r { s1.run r with curOp := .none, xfer := [], waitFor := [], placing := [] }
  else if x.curOp ≠ RunOp.none then s.setRun r { x with modeAct := true }
  else if x.state = .running then s.preempt r (s.runBps r)
  else s.dropPlaced r (if x.state = .ready then .idle else x.state)

/-- Loads and runs leave the fabric. -/
def State.clearFabric (s : State) : State :=
  let busy := (s.so.runs.filter (fun e => !(s.runHeld e.1).isEmpty || e.2.curOp ≠ RunOp.none)).map Prod.fst
  s.unplaceLoads.each busy (fun t r => t.clearRun r)

/-- Entry to Exclusive mode for run x (R218): the other RUNNING runs are preempted, those on their way there once they run. -/
def State.exclBegin (s : State) (x : Nat) : State :=
  let others := (s.so.runs.filter (fun e => e.1 ≠ x &&
    (e.2.state = .running || e.2.state = .loading || (e.2.state = .waiting && e.2.curOp ≠ RunOp.none)))).map Prod.fst
  let s1 := s.setRun x { s.run x with excl := true }
  { s1 with so := { s1.so with exclRun := some x } }.each others (fun t r =>
    let y := t.run r
    if y.curOp ≠ RunOp.none then t.setRun r { y with modeAct := true } else t.preempt r [])

/-- Loads and update staging end abandoned; the flash operation in progress completes (R471, R499). -/
def State.abandonWork (s : State) : State :=
  let s1 := s.each (s.fk.loads) (fun t e => t.loadFail e.1 5 0)
  let ops := match nextFlash s1.fl.ops with | some (o, os) => o :: os.filter notStage | none => []
  let s2 := { s1 with fl := { s1.fl with ops := ops } }
  match s2.fl.stg with
  | some g => { s2 with fl := { s2.fl with stg := none } }.tktEnd g.ticket 5 0
  | none => s2

/-- A program or erase of the boot flash is in progress. -/
def State.flashBusy (s : State) : Bool := !s.fl.ops.isEmpty || s.bootRec.promote ≠ 0

/-- Every stream closes (R471). -/
def State.closeAllStreams (s : State) : State := { s with vl := { s.vl with streams := [] } }

/-- The tiles that a change leaves powered: to mode 9, those with a configured Courier link. -/
def State.tilesKept (s : State) (m : Nat) : List Nat :=
  if m = 9 then (List.range 8).filter (fun n => s.domOn (domCr n) && s.crLink n ≠ 0) else []

/-- The domains that such a change powers down. -/
def State.tilesGone (s : State) (m : Nat) : List Nat :=
  let gone := (List.range 8).filter (fun n => !(s.tilesKept m).contains n)
  (SMap.keys s.pw.doms).filter isBayDom ++ gone.map domCr ++ gone.map domTile

/-- Tiles, their bays and their Courier power down at the end of a change to mode 5 or 9, their stamps returned (R46). -/
def State.tilesOff (s : State) (m : Nat) : State :=
  let keep := s.tilesKept m
  let bays := (SMap.keys s.pw.doms).filter isBayDom
  let gone := (List.range 8).filter (fun n => !keep.contains n)
  let left := (s.so.runs.filter (fun e => !(s.runHeld e.1).isEmpty)).map Prod.fst
  let s1 := s.each left (fun t r => t.dropPlaced r (t.run r).state)
  ((s1.each bays (fun t d => t.domOff d)).each gone (fun t n => (((t.crTktEnd n 5 0).domOff (domCr n)).stampsHome n).domOff (domTile n))).each keep
    (fun t n => t.holdLiftBegin n)

/-- Number of steps of a transition (R465). -/
def modeSteps (a b : Nat) : Nat :=
  if b = 4 then 4 else if b = 11 then 5 else if b = 10 ∨ b = 8 ∨ b = 7 ∨ (a = 8) then 2
  else if a = 10 then 3 else if a = 6 then 3 else if a = 5 ∧ b = 9 then 0 else 1

/-- What a change does when it starts. -/
def State.modeBegin (s : State) (m x : Nat) : State :=
  let c := s.mode
  if m = 4 ∨ m = 11 then
    let s1 := (s.setSched false).stopRuns.closeAllStreams
    if m = 11 then s1.abandonWork else s1
  else if m = 10 then { s.setSched false with pw := { (s.setSched false).pw with safeZ := true } }.stopRuns
  else if m = 8 then { s.setSched false with pw := { (s.setSched false).pw with haltFrom := c } }.stopRuns true
  else if c = 8 then s.releaseHeld.liftHolds
  else if m = 7 then s.exclBegin x
  else if m = 6 then (if c = 10 then s.releaseHeld.liftHolds.exclEnd else s.exclEnd)
  else if c = 6 ∨ c = 10 then (s.setSched false).clearFabric
  else s

/-- A change that waits in the slot starts, or is refused (R466): its ticket fails with BAD_STATE. -/
def State.modeStart (s : State) (q : ModeReq) : State :=
  let s1 := { s with pw := { s.pw with pend := none } }
  if s.mayStart q then
    let due := q.target = 11 && s.flashBusy
    let s2 := { s1 with pw := { s1.pw with chg := some { req := q, origin := s.mode, flashDue := due } } }.tktActive? q.ticket
    if s.mode = 3 && q.target = 2 then s2.warmReset else (s2.modeBegin q.target q.run).showMode
  else ((s1.tktEnd? q.ticket 3 stBadState).setFld Reg.mrMode 31 24 stBadState).showMode

/-- MODE_CHANGE_START (R466, R467). -/
def execModeChangeStart (s : State) : Out :=
  match s.pw.pend with
  | some q => s.when (s.hubOn && s.pw.chg.isNone && decide (2 ≤ s.mode)) (s.modeStart q)
  | none => .next s

/-! ### The end of a change -/

/-- No run still has a stop of the mode's, a save or a mode action to come. -/
def State.runsQuiet (s : State) : Bool :=
  s.so.runs.all (fun e => !hasWhy e.2.stops .modeHold && !e.2.modeAct)

/-- No run goes on to the stop cycle of a halt (R244). -/
def State.haltsQuiet (s : State) : Bool := s.so.runs.all (fun e => (haltUnits e.2.stops).isEmpty)

/-- The controllers have completed their queues (R306). -/
def State.mcsDone (s : State) : Bool :=
  s.mcs.all (fun e => e.2.inbox.isEmpty && e.2.port.isEmpty && e.2.reqs.isEmpty && e.2.reads.isEmpty && e.2.writes.isEmpty)

/-- The event log has reached the flash, or cannot (R471 step 3). -/
def State.logFlushed (s : State) (c : ModeChg) : Bool :=
  s.ev.flushing.isNone && !s.ev.flushWait && (c.flushed || !s.bit Reg.evStat 29 || s.ev.flashDead)

/-- The runs other than x have left the fabric, or are on none of it (R218). -/
def State.othersOut (s : State) (x : Nat) : Bool := s.so.runs.all (fun e => e.1 = x || (e.2.curOp ≠ .preempt && !e.2.modeAct))

/-- The runs have left the fabric (R474); one whose save failed stays with its pages. -/
def State.fabricLeft (s : State) : Bool :=
  s.so.runs.all (fun e => ((s.runHeld e.1).isEmpty || (e.2.saveFail && e.2.curOp = RunOp.none)) && !e.2.modeAct)

/-- No tile's holds are still being lifted. -/
def State.liftsDone (s : State) : Bool := (List.range 8).all (fun n => !(s.tile n).lifting)

/-- Steps of the change in progress that have been carried out, in the order of R465 and R471. -/
def State.chgSteps (s : State) (c : ModeChg) : Nat :=
  let m := c.req.target
  if c.req.src = .boot then 0
  else if m = 4 ∨ m = 11 then
    if !s.runsQuiet then 0 else if c.flashDue then 1 else (if m = 11 then 2 else 1) + b2n (s.logFlushed c)
  else if m = 10 then 1
  else if m = 8 then b2n (s.runsQuiet && s.haltsQuiet)
  else if c.origin = 8 ∨ (c.origin = 10 ∧ m = 6) then b2n s.liftsDone
  else if m = 7 then b2n (s.othersOut c.req.run)
  else if (m = 5 ∨ m = 9) ∧ (c.origin = 6 ∨ c.origin = 10) then 1 + b2n s.fabricLeft
  else 0

/-- A ticket as it stands: that of a mode change counts the steps carried out so far (R406, R465). -/
def State.tktNow (s : State) (i : Nat) : Ticket :=
  match s.pw.chg with
  | some c => if c.req.ticket = some i && tktLive (s.tkt i) then { s.tkt i with prog := max (s.tkt i).prog (s.chgSteps c) } else s.tkt i
  | none => s.tkt i

/-- Whether the steps of a change have been carried out. -/
def State.modeDone (s : State) (c : ModeChg) : Bool :=
  let m := c.req.target
  if m = 4 ∨ m = 11 then (SMap.keys s.pw.doms).all s.unitsDrained && s.mcsDone && s.runsQuiet && !c.flashDue && s.logFlushed c
  else if m = 10 then s.runsQuiet
  else if m = 8 then s.runsQuiet && s.haltsQuiet
  else if c.origin = 8 ∨ (c.origin = 10 ∧ m = 6) then s.liftsDone
  else if m = 7 then s.othersOut c.req.run
  else if m = 5 ∨ m = 9 then
    (c.origin ≠ 6 ∧ c.origin ≠ 10) || ((s.tilesGone m).all s.unitsDrained && s.fabricLeft)
  else true

/-- The Exclusive run is placed if it is not (R218): IDLE, SUSPENDED or WAITING. Where no place is found it waits for one. -/
def State.exclPlace (s : State) (x : Nat) : State :=
  let y := s.run x
  if (y.state = .idle || y.state = .suspended || y.state = .waiting) && y.curOp = .none then
    let s1 := if y.state = .waiting then s else s.setRun x { y with state := .waiting, wait := 0, urg := min 0xFFFFF (y.prio * 4096) }
    (Sched.one { st := s1 } x).st
  else s

/-- The steps that fall at the end of a change, before the code changes. -/
def State.modeLast (s : State) (c : ModeChg) : State :=
  let m := c.req.target
  if m = 8 then s.each ((List.range 8).filter (fun n => s.domOn (domTile n))) (fun t n => t.holdApply n)
  else if m = 7 then
    let s1 := s.setSched true
    s1.exclPlace c.req.run
  else if c.origin = 8 then s.setSched (m = 6 || m = 7)
  else if m = 6 then s.setSched true
  else if m = 5 ∨ m = 9 then
    if c.origin = 5 then s
    else if c.origin = 10 then ({ s with pw := { s.pw with safeZ := false, deferred := [], modeHeld := [] } }.tilesOff m).exclEnd
    else s.tilesOff m
  else s

/-- Entry to Dormant or Shutdown: every domain except AON and DBG powers down (R471). -/
def State.enterLow (s : State) (m : Nat) : State :=
  let s1 := s.allOff
  let s2 := { s1 with pw := { s1.pw with safeZ := false } }
  (if m = 11 then s2.setBit Reg.pmStat 13 true else s2).setMode m

/-! ### Safe Hold (R468, R469) -/

/-- Safe Hold is entered: runs freeze, banks go to high impedance, scheduling stops. -/
def State.enterHold (s : State) : State :=
  let from' := s.mode
  let s1 := (s.setFld Reg.pmStat 19 16 from').event 0x0106 6 0 from'
  let s2 := { s1 with pw := { s1.pw with safeZ := true, sched := false, holdDue := false } }
  let s3 := s2.each (s2.so.runs.filter (fun e => e.2.modeAct)) (fun t e => t.setRun e.1 { t.run e.1 with modeAct := false })
  (s3.modeReached 10).stopRuns

/-- A fault that leads to Safe Hold: at once, or at the next step boundary of the change in progress. -/
def State.safeHold (s : State) : State :=
  if !([2, 3, 5, 6, 7, 8, 9].contains s.mode) then s
  else
    let s1 := { s with pw := { s.pw with safeZ := true } }
    match s.pw.chg with
    | some c => if c.req.src = .boot then s1.enterHold else if c.req.target = 10 then s1 else { s1 with pw := { s1.pw with holdDue := true } }
    | none => s1.enterHold

/-- A change stopped by a fault: its ticket fails, and Safe Hold is entered. -/
def State.modeStopped (s : State) (c : ModeChg) : State :=
  let s1 := ({ s with pw := { s.pw with chg := none } }.tktProgress? c.req.ticket (s.chgSteps c) 0).tktEnd? c.req.ticket 3 stBadState
  s1.enterHold.setFld Reg.mrMode 31 24 stBadState

/-- A change ends: its ticket is done, and the mode is entered. -/
def State.modeFinish (s : State) (c : ModeChg) : State :=
  let m := c.req.target
  let s1 := ((s.modeLast c).tktProgress? c.req.ticket (modeSteps c.origin m) 0).tktEnd? c.req.ticket 2 stOk
  if m = 4 ∨ m = 11 then s1.enterLow m
  else if m = 10 then (({ s1 with pw := { s1.pw with chg := none } }.setFld Reg.pmStat 19 16 c.origin).event 0x0106 6 0 c.origin).modeReached 10
  else s1.modeReached m

/-- MODE_CHANGE_COMPLETE (R465, R468): the last step ends, or a fault stops the change at a step boundary. -/
def execModeChangeComplete (s : State) : Out :=
  match s.pw.chg with
  | some c => s.when (s.hubOn && c.req.src ≠ .boot && (s.pw.holdDue || s.modeDone c))
      (if s.pw.holdDue then s.modeStopped c else s.modeFinish c)
  | none => .next s

end Sys2Proof.Machine
end

