-- ==== Sys2Proof/Machine/DbgPort.lean ====
section
/-!
DEFINITION. The debug domain's own commands: TAP instructions, mode requests, watchdog expiry, debug reset (R48, R252,
R254, R257, R270).
-/
namespace Sys2Proof.Machine

/-! ### TAP instructions (R254) -/

/-- The 32-bit IDCODE. -/
def State.idcode (s : State) : Nat := s.fk.siliconRev % 16 * 2 ^ 28 + 0x9480 * 2 ^ 12 + 0x2B5 * 2 + 1

/-- The DBGACC register as Capture-DR loads it (R255). -/
def State.dbgaccCapture (s : State) : Nat :=
  let st := if s.dbg.queue.any (fun a => a.tap) then 1 else s.dbg.tapStatus
  st * 2 ^ 82 + s.dbg.tapAddr % 2 ^ 48 * 2 ^ 33 + s.dbg.tapData % 2 ^ 32

/-- An instruction loaded in the TAP; only EXTEST drives the pins from the boundary register. -/
def State.tapIr (s : State) (ir cap : Nat) : State :=
  { s with dbg := { s.dbg with ir := ir, extest := ir = 0, captured := cap } }

/-- A code shifted into the 5-bit instruction register (R254): any that is not listed selects BYPASS. What the boundary cells
capture is in the BSDL file, not in the spec: a free value. BYPASS captures 0 (log entry 21). -/
def State.tapCode (s : State) (code : Nat) : State :=
  match code with
  | 0 => (s.tapIr 0 (s.freeVal (2 ^ 84))).drawn
  | 1 => (s.tapIr 1 (s.freeVal (2 ^ 84))).drawn
  | 2 => s.tapIr 2 s.idcode
  | 8 => s.tapIr 8 s.dbgaccCapture
  | _ => s.tapIr 0x1F 0

/-- TAP_EXTEST, TAP_SAMPLE_PRELOAD, TAP_IDCODE, TAP_DBGACC; TAP_BYPASS with the code that is shifted in. -/
def execTapExtest (s : State) : Out := s.when s.pw.aon (s.tapCode 0)
def execTapSamplePreload (s : State) : Out := s.when s.pw.aon (s.tapCode 1)
def execTapIdcode (s : State) : Out := s.when s.pw.aon (s.tapCode 2)
def execTapDbgacc (s : State) : Out := s.when s.pw.aon (s.tapCode 8)
def execTapBypass (code : Fin 32) (s : State) : Out := s.when s.pw.aon (s.tapCode code)

/-! ### Mode requests (R257, R467, R472) -/

/-- A write of DBG_MODE_REQ: a wake from a mode that waits for one, else a request for the pending slot; codes 0, 1 and
12–15 are ignored. -/
def State.dbgModeReq (s : State) (w : Nat) : State :=
  let m := w % 16
  if m = 0 || m = 1 || decide (12 ≤ m) then s
  else if s.canWake then (if 4 < m then s.wakeBy 4 else s)
  else s.modeQueue { src := .debug, target := m }

/-- DBG_MODE_REQ. -/
def execDbgModeReq (word : Word) (s : State) : Out := s.when s.pw.aon (s.dbgModeReq word.toNat)

/-! ### Watchdogs (R270, R497) -/

/-- A core reset alone by its watchdog: its Letterbox session closes, and a trial not yet confirmed falls back. -/
def State.wdtReset (s : State) (c : Nat) : State :=
  let s1 := (s.event 0x0403 6 (256 * c) (s.fld (Reg.dbgCStat c) 31 16)).setBit (Reg.dbgWdtStat c) 2 false
  let s2 := (s1.wr (Reg.dbgWdtCount c) (s1.rd (Reg.dbgWdtLoad c))).coresStart [c]
  let s3 := { s2 with pw := { s2.pw with wdtReset := true } }
  if s3.pw.image = 2 && s3.bootRec.stage = 4 && s3.bootRec.promote = 0 && !s3.pw.flushReset then s3.trialFallback else s3

/-- WATCHDOG_EXPIRY (R270): COUNT has reached 0. -/
def execWatchdogExpiry (c : Fin 4) (s : State) : Out :=
  let cc := c.val
  let core := s.core cc
  let irqs := if core.haltReq.isSome && !core.irqs.contains 0 then core.irqs ++ [0] else core.irqs
  let first := (((s.setCore cc { core with irqs := irqs }).setBit (Reg.dbgWdtStat cc) 2 true).wr (Reg.dbgWdtCount cc)
    (s.rd (Reg.dbgWdtLoad cc))).event 0x0402 5 (256 * cc) (s.fld (Reg.dbgCStat cc) 31 16)
  s.when (s.wdtRuns cc && s.rd (Reg.dbgWdtCount cc) = 0)
    (if s.bit (Reg.dbgWdtStat cc) 2 then s.wdtReset cc else first)

/-! ### Debug reset (R48, R252, R274) -/

/-- Whether a register is in the DBG domain. -/
def isDbgReg (a : Nat) : Bool :=
  decide (0x90000 ≤ a) && decide (a < 0x90800) && (match regFind a with | some (r, _) => r.dom = .dbg | none => false)

/-- DEBUG_RESET: the DBG registers take their reset values, every halted core is released as by RESUME, terminals close,
the TAP returns to IDCODE and drops its access; watchdogs and the accesses of Vollor requests are kept. -/
def execDebugReset (s : State) : Out :=
  let off := fun c => s.bit (Reg.dbgCStat c) 8
  let s1 := s.each ((List.range 4).filter s.halted) (fun t c => t.coreRelease c)
  let s2 := { s1 with regs := s1.regs.filter (fun e => !isDbgReg e.1), loStage := s1.loStage.filter (fun e => !isDbgReg e.1) }
  let s3 := s2.each (List.range 4) (fun t c =>
    (t.setCore c { t.core c with haltReq := none, irqs := [], vt := {} }).wr (Reg.dbgCStat c)
      (if off c then 0x100 else s.fld (Reg.dbgCStat c) 31 16 * 2 ^ 16))
  let mine := match s.dbg.queue with | a :: _ => a.tap && s.dbg.busy | [] => false
  let drop := fun (o : OutEnt) => if mine && o.origin = .debug then { o with origin := .master } else o
  let s4 := { s3 with rnd := { s3.rnd with out := s3.rnd.out.map (fun (e : Nat × OutEnt) => (e.1, drop e.2)) } }
  let s5 := { s4 with dbg := { s4.dbg with
      ir := 2, extest := false, tapStatus := 0, tapAddr := 0, tapData := 0, captured := 0
      queue := s.dbg.queue.filter (fun (a : DbgAcc) => !a.tap), busy := s.dbg.busy && !mine
      outcome := if mine then none else s.dbg.outcome } }
  s.when s.pw.aon s5

end Sys2Proof.Machine
end

