-- ==== Sys2Proof/Machine/Ports.lean ====
section
/-!
DEFINITION. The logical ports of the Vollor engine: which exist, their addresses, limits and service (R367–R374, R378, R391).
-/
namespace Sys2Proof.Machine

/-- First logical port of the host port of k, and the sub-port number (R369). -/
def lpFirst (k : Nat) : Nat := if k < 5 then 1 else 5
def lpSub (k : Nat) : Nat := k - lpFirst k

/-- SPLIT of a host port; 3 is taken as 0 (R367). -/
def State.lpSplit (s : State) (k : Nat) : Nat :=
  let v := s.fld (Reg.vlLpCfg (lpFirst k)) 27 26
  if v = 3 then 0 else v

/-- Whether SPLIT creates the port (R369). -/
def State.lpExists (s : State) (k : Nat) : Bool := k = 0 || decide (lpSub k < 2 ^ s.lpSplit k)

/-- Whether a port is powered, in use and has its link up. -/
def State.lpUp (s : State) (k : Nat) : Bool :=
  s.hubOn && s.lpExists k && s.bit (Reg.vlLpCfg k) 31 && s.bit (Reg.vlLpStat k) 31 &&
    (k = 0 || (s.domOn domHost && !s.pw.refFail.contains 1))

/-- Whether the Vollor engine answers on a port. -/
def State.lpServing (s : State) (k : Nat) : Bool :=
  s.lpUp k && s.readyBit 0 && (k ≠ 0 || s.readyBit 1)

/-- The port's IPv4 address, 0 for none (R374): SRC 0 and 3 the fuse, on MP alone; 1 the settings; 2 a lease. -/
def State.lpIp4 (s : State) (k : Nat) : Nat :=
  let src := s.fld (Reg.vlLpCfg k) 29 28
  if src = 1 then s.rd (Reg.vlLpIp4 k)
  else if src = 2 then (if s.vl.lease.contains k then s.rd (Reg.vlLpIp4 k) else 0)
  else if k = 0 then s.fk.mpIp4 else 0

/-- The MAC address of a port (R373). -/
def State.lpMac (s : State) (k : Nat) : Nat := (s.fk.macBase + k) % 2 ^ 48

/-- The link-local address formed from a MAC address by the modified EUI-64 rule (R374). -/
def linkLocal (mac : Nat) : Nat :=
  0xFE80 * 2 ^ 112 + (Nat.xor (mac / 2 ^ 40) 2) * 2 ^ 56 + mac / 2 ^ 24 % 2 ^ 16 * 2 ^ 40 + 0xFFFE * 2 ^ 24 + mac % 2 ^ 24

/-- The global IPv6 address of the settings, 0 for none. -/
def State.lpIp6 (s : State) (k : Nat) : Nat :=
  s.rd (Reg.vlLpIp6 k 0) * 2 ^ 96 + s.rd (Reg.vlLpIp6 k 1) * 2 ^ 64 + s.rd (Reg.vlLpIp6 k 2) * 2 ^ 32 + s.rd (Reg.vlLpIp6 k 3)

/-- Largest PAYLOAD_LEN on a port (R378). -/
def State.lpLimit (s : State) (k : Nat) (v6 : Bool) : Nat :=
  if s.bit (Reg.vlLpCfg k) 30 then 8960 else if v6 then 1420 else 1440

/-- Backlog limit in bytes (R391). -/
def State.backlogLimit (s : State) (k : Nat) : Nat :=
  if k = 0 then 50000 else if s.lpSplit k = 0 then 20000000 else if s.lpSplit k = 1 then 10000000 else 5000000

/-- A port's physical port, for the buffers: 0 MP, 1 HP0, 2 HP1; and its number of intake buffers (R390). -/
def physPort (p : Nat) : Nat := if p = 0 then 0 else if p < 5 then 1 else 2
def physBufs (p : Nat) : Nat := if p = 0 then 64 else 1024

end Sys2Proof.Machine
end

