-- ==== Sys2Proof/Machine/Supply.lean ====
section
/-!
DEFINITION. Supplies, references and temperature: what the Postmaster measures and what follows (R456–R458, R469, R470,
R521–R525).
-/
namespace Sys2Proof.Machine

/-! ### What a rail feeds (R521) -/

/-- The domains that a regulator page feeds. -/
def feeds (pg page : Nat) : List Nat :=
  if pg = 0 then [domHub, domRnd]
  else if pg = 1 then (List.range 16).map domSp
  else if pg < 10 then [domTile (pg - 2)]
  else if pg = 10 then (List.range 8).map domCr
  else if pg < 14 then (if page < 16 then [domEdge (page % 8)] else [])
  else if pg = 14 then (if page < 6 then [domDdr page] else [])
  else [domHost]

/-- The pages of a regulator. -/
def pagesOf (pg : Nat) : List Nat :=
  List.range (if pg < 10 then 1 else if pg = 10 ∨ pg = 15 then 2 else if pg = 13 then 16 else if pg = 14 then 6 else 8)

/-- Whether a page is on: the rails of W4 with HUB, the others with their domain. -/
def State.pageOn (s : State) (pg page : Nat) : Bool :=
  if pg ≤ 10 then s.domOn domHub else (feeds pg page).any s.domOn

/-- A domain with all that stands under it, children first (R45). -/
def State.subtree (s : State) (d : Nat) : List Nat :=
  let all := SMap.keys s.pw.doms
  let under := fun (x : Nat) => x = d || (domParents x).contains d || (domParents x).any (fun p => (domParents p).contains d)
  sortBy (fun a b => decide (offRank a ≤ offRank b)) (all.filter under)

/-! ### What is lost with a supply (R469, R302) -/

/-- The page store of HB0 is lost, and with it every design, run and snapshot. -/
def State.pageStoreLost (s : State) : State :=
  let s1 := s.each s.fk.loads (fun t e => t.loadFail e.1 3 stIntegrity)
  let s2 := s1.each s1.so.runs (fun t e =>
    let u := ((t.holdAll e.1).each (t.runHeld e.1) (fun v i => v.evictBp i)).tktEnd? e.2.curTkt 3 stIntegrity
    match e.2.pend with | some q => u.tktEnd? q.ticket 3 stIntegrity | none => u)
  let s3 := s2.each s2.so.snaps (fun t e => t.tktEnd? e.2.ticket 3 stIntegrity)
  let excl := s3.so.runs.any (fun e => e.2.excl)
  let s4 := (s3.each s3.so.compactRuns (fun t e => t.tktEnd e.1 3 stIntegrity))
    |>.each s3.so.steps (fun t e => t.tktEnd e.2.1 3 stIntegrity)
  let s5 := { s4 with
    so := { s4.so with designs := [], runs := [], swaps := [], mapReady := false, pmCache := [], pmAlloc := [], comp := []
                       compactRuns := [], compactBack := [], compTried := [], exclRun := none, snaps := [], rings := [], steps := [], switchRun := none }
    vl := { s4.vl with streams := [] }
    pw := { s4.pw with deferred := [], modeHeld := [] } }.trigSweep
  if excl && s5.mode = 7 then s5.modeQueue { src := .auto, target := 6 } else s5

/-- Whether a run uses a handle: a state page, or a configuration page of its design or of its swap table. -/
def State.usesHandle (s : State) (r h : Nat) : Bool :=
  let x := s.run r
  (decide (x.stateBase ≤ h) && decide (h < x.stateBase + x.pageCount)) || (s.cfgHandles r).contains h

/-- A stack has lost its supply: its page-store objects are poisoned, runs that use them are FAULTED, snapshots with a
segment there fail. -/
def State.stackLost (s : State) (n : Nat) : State :=
  if n = 0 then s.pageStoreLost
  else
    let hs := (s.so.pmAlloc.filter (fun e => e.2.1 = n)).map Prod.fst
    let runs := (s.so.runs.filter (fun e => e.2.state ≠ .empty && hs.any (s.usesHandle e.1))).map Prod.fst
    let snaps := (s.so.snaps.filter (fun e => e.2.state ≠ 0 && e.2.alloc &&
      hs.any (fun h => decide (e.2.segBase ≤ h) && decide (h < e.2.segBase + e.2.pageCount)))).map Prod.fst
    ((s.each hs (fun t h => t.pmPoison h)).each runs (fun t r => t.runFault r)).each snaps (fun t k => t.snapFail k (t.snap k).segsValid stIntegrity)

/-- Supplies of domains are turned off at once, children first: runs with resident pages there go to FAULTED. -/
def State.supplyOff (s : State) (ds : List Nat) : State :=
  let gone := (ds.filter (fun d => d ≠ domHub && d ≠ domRnd)).flatMap s.subtree
  let here := fun (i : Nat) => gone.contains (domTile (bpTile i)) || gone.contains (domBay (bpTile i) (bpBay i))
  let runs := (s.so.runs.filter (fun e => (s.runHeld e.1).any here)).map Prod.fst
  let s1 := s.each runs (fun t r => t.runFault r)
  let s2 := s1.each gone (fun t d =>
    let u := if 8 ≤ d ∧ d < 16 then t.crTktEnd (d - 8) 5 0 else t
    let v := u.domOff d
    if isSpDom d then v.setPower (d - 0x400) 0 else v)
  s2.each (gone.filter (fun d => decide (22 ≤ d) && decide (d < 30))) (fun t d => t.stackLost (d - 22))

/-! ### Emergency power-off (R470) -/

/-- Every supply except AON and DBG is removed; the cause stays in PM_FAULT. -/
def State.emergencyOff (s : State) : State :=
  let s1 := s.allOff
  let s2 := (s1.setFld Reg.pmStat 11 4 0).pmFaultSet 8 true
  { s2 with pw := { s2.pw with
    pwrEn := false, pwrEnWait := true, epoNote := true, safeZ := false, wWait := false
    pgLow := s2.pw.pgLow.filter (· = 0), pageBad := s2.pw.pageBad.filter (fun e => e.1 = 0), dramHot := [] } }.setMode 4

/-- The cause of an emergency power-off has cleared: a wake source that was held acts. -/
def State.emergencyClear (s : State) : State :=
  if s.bit Reg.pmFault 24 && !s.bit Reg.pmFault 16 && !s.bit Reg.pmFault 18 then
    let s1 := s.pmFaultEnd 8
    match s1.pw.heldWake with
    | some src => s1.wakeBy src
    | none => s1
  else s

/-! ### Supply faults (R457, R469, R524, R525) -/

/-- Whether every supply is in range. -/
def State.supplyOk (s : State) : Bool :=
  s.pw.pgLow.isEmpty && s.pw.pageBad.isEmpty && s.pw.pmbusErr.all (fun e => decide (e.2 < 3))

/-- Pages found out of range: PM_FAULT.SUPPLY, Safe Hold, and the supplies are turned off. -/
def State.supplyFault (s : State) (ps : List (Nat × Nat)) : State :=
  if ps.isEmpty then s
  else
    let s1 := s.pmFaultSet 0 true
    let s2 := if s1.hubOn then { s1 with tal := { s1.tal with outside := true } } else s1
    s2.safeHold.supplyOff (ps.flatMap (fun p => feeds p.1 p.2)).dedup

/-- Supplies back in range. -/
def State.supplyCheck (s : State) : State := if s.supplyOk then (s.pmFaultEnd 0).emergencyClear else s

/-- The pages of a regulator that are on. -/
def State.pagesUp (s : State) (pg : Nat) : List (Nat × Nat) :=
  ((pagesOf pg).filter (fun p => s.pageOn pg p)).map (fun p => (pg, p))

/-- POWER_GOOD_LOSS (R457, R525): ignored while no page of the regulator is on. -/
def execPowerGoodLoss (pg : Fin 16) (s : State) : Out :=
  let ps := s.pagesUp pg
  s.when (s.pw.aon && !ps.isEmpty && !s.pw.pgLow.contains (pg : Nat))
    ({ s with pw := { s.pw with pgLow := s.pw.pgLow ++ [(pg : Nat)] } }.supplyFault ps)

/-- POWER_GOOD_RETURN (R457). -/
def execPowerGoodReturn (pg : Fin 16) (s : State) : Out :=
  s.when (s.pw.aon && s.pw.pgLow.contains (pg : Nat))
    { s with pw := { s.pw with pgLow := s.pw.pgLow.filter (· ≠ (pg : Nat)) } }.supplyCheck

/-- Pages as numbers, those that are on. -/
def State.badPages (s : State) (bad : List (Fin 16 × Fin 16)) : List (Nat × Nat) :=
  (bad.map (fun p => ((p.1 : Nat), (p.2 : Nat)))).filter (fun p => (pagesOf p.1).contains p.2 && s.pageOn p.1 p.2)

/-- PMBUS_POLL (R457, R524): pages whose STATUS_WORD or READ_VOUT is bad, regulators that did not answer, and the power drawn. -/
def execPmbusPoll (bad : List (Fin 16 × Fin 16)) (nak : List (Fin 16)) (poutMw : Nat) (s : State) : Out :=
  let now := s.badPages bad
  let fresh := now.filter (fun p => !s.pw.pageBad.contains p)
  let naks := nak.map (fun k => (k : Nat))
  let errs := (List.range 16).foldl (fun m k =>
    SMap.set m k (if naks.contains k then min 3 (SMap.get s.pw.pmbusErr k 0 + 1) else 0) 0) s.pw.pmbusErr
  let dead := naks.filter (fun k => SMap.get errs k 0 = 3 && SMap.get s.pw.pmbusErr k 0 = 2)
  let s1 := { s with pw := { s.pw with pageBad := now, pmbusErr := errs, pout := poutMw } }
  s.when s.pw.aon (s1.supplyFault (fresh ++ dead.flatMap s1.pagesUp)).supplyCheck

/-- PMBUS_ALERT (R524): STATUS_WORD of every page is read. -/
def execPmbusAlert (bad : List (Fin 16 × Fin 16)) (s : State) : Out :=
  let fresh := (s.badPages bad).filter (fun p => !s.pw.pageBad.contains p)
  s.when s.pw.aon ({ s with pw := { s.pw with pageBad := s.pw.pageBad ++ fresh } }.supplyFault fresh)

/-- HUB_RAIL_TIMEOUT (R470): the rail that feeds HUB and RND has been out of range for 1 ms. -/
def execHubRailTimeout (s : State) : Out :=
  s.when (s.pw.aon && s.hubOn && (s.pw.pgLow.contains 0 || s.pw.pageBad.contains (0, 0) || SMap.get s.pw.pmbusErr 0 0 = 3))
    (s.pmFaultSet 0 true).emergencyOff

/-- Output pins that follow the state (R526): FAULT_N is low while any of PM_FAULT[15:0] is 1; SEC_ALARM is high while IC_STAT.ALARM
is, and low while HUB is off; DIMM_PWR_ENp is high from the DDRp row until DDRp powers down. -/
def State.pinFaultN (s : State) : Bool := s.fld Reg.pmFault 15 0 = 0
def State.pinSecAlarm (s : State) : Bool := s.hubOn && s.bit Reg.icStat 31
def State.pinDimmPwrEn (s : State) (p : Nat) : Bool := (s.dom (domDdr p)).ph ≠ 0 && !(s.dom (domDdr p)).waiting

/-- PWR_EN_RESTORE (R523): every regulator reports its outputs off. -/
def execPwrEnRestore (s : State) : Out :=
  s.when (s.pw.aon && s.pw.pwrEnWait) { s with pw := { s.pw with pwrEn := true, pwrEnWait := false } }

/-! ### Temperature (R458) -/

/-- HOLD_C as it acts. -/
def State.holdC (s : State) : Nat := min 126 (s.fld Reg.pmTherm 7 0)

/-- A thermal fault's end. -/
def State.thermalEnds (s : State) (t16 : Int) : State :=
  let s1 := if t16 < 16 * 127 then s.pmFaultEnd 2 else s
  (if t16 < 16 * (s.holdC : Int) then s1.pmFaultEnd 1 else s1).emergencyClear

/-- THERMAL_READ (R458): the hottest reading, in 1/16 °C. -/
def execThermalRead (sixteenths : Int) (s : State) : Out :=
  let t := sixteenths
  let warn : Int := s.fld Reg.pmTherm 15 8
  let s1 := { s with pw := { s.pw with hot16 := t } }.setFld Reg.pmTherm 23 16 (unsignedOf 8 (t / 16))
  let s2 := if 16 * warn ≤ t && !s.pw.warned then { s1 with pw := { s1.pw with warned := true } }.event 0x0105 4 0 s.mode
    else if t < 16 * (warn - 3) then { s1 with pw := { s1.pw with warned := false } } else s1
  let s3 := s2.thermalEnds t
  let s4 := if 16 * (s.holdC : Int) ≤ t then (s3.pmFaultSet 1 true).safeHold else s3
  let s5 := if 16 * 127 ≤ t then (if s.bit Reg.pmFault 18 then s4 else (s4.pmFaultSet 2 true).emergencyOff) else s4
  s.when s.pw.aon s5

/-! ### References (R456) -/

/-- Expected cycles in a window of 64 crystal ticks. -/
def refExpected (i : Nat) : Nat := if i = 0 then 195312 else 305176

/-- Whether a count lies within 1,000 ppm. -/
def refWithin (i c : Nat) : Bool := decide (((c : Int) - refExpected i).natAbs * 1000 ≤ refExpected i)

/-- A reference fails: latched, recorded, and its consequences. -/
def State.refFails (s : State) (i : Nat) : State :=
  let s1 := ({ s with pw := { s.pw with refFail := s.pw.refFail ++ [i] } }.pmFaultSet (3 + i) true).event 0x0103 5 0 s.mode
  if i = 0 then
    let s2 := if s1.hubOn then (s1.setBit Reg.mrEpochStat 1 true).event 0x0104 3 0 s.mode else s1
    s2.safeHold
  else if i = 1 then s1.each (List.range 8) (fun t k => if t.hubOn then t.setBit (Reg.vlLpStat (k + 1)) 31 false else t)
  else s1.crFailAll

/-- A reference is good again; the epoch returns to REF100 at the next boundary (R31). -/
def State.refReturns (s : State) (i : Nat) : State :=
  { s with pw := { s.pw with refFail := s.pw.refFail.filter (· ≠ i) } }.pmFaultEnd (3 + i)

/-- One reference over one window. -/
def State.refWindow (s : State) (i c : Nat) (r : Reg) : State :=
  let ok := refWithin i c
  let bad := if ok then 0 else SMap.get s.pw.refBad i 0 + 1
  let good := if ok then SMap.get s.pw.refGood i 0 + 1 else 0
  let s1 := { s with pw := { s.pw with refBad := SMap.set s.pw.refBad i (min 2 bad) 0, refGood := SMap.set s.pw.refGood i (min 4 good) 0 } }
  let s2 := s1.wr r (c % 2 ^ 20 + b2n ok * 2 ^ 31)
  if 2 ≤ bad && !s.pw.refFail.contains i then s2.refFails i
  else if 4 ≤ good && s.pw.refFail.contains i then s2.refReturns i
  else s2

/-- REF_CHECK_WINDOW (R456): the counts of the enabled references over 64 crystal ticks. -/
def execRefCheckWindow (c0 c1 c2 : BitVec 20) (s : State) : Out :=
  let one := fun (t : State) (i c : Nat) (r : Reg) => if bitOf s.pw.refEn i then t.refWindow i c r else t
  s.when (s.pw.aon && s.pw.crystal) (one (one (one s 0 c0.toNat Reg.pmRefCnt0) 1 c1.toNat Reg.pmRefCnt1) 2 c2.toNat Reg.pmRefCnt2)

end Sys2Proof.Machine
end

