-- ==== Sys2Proof/Machine/MemCtl.lean ====
section
/-!
DEFINITION. The memory controllers' commands: reads with ECC, patrol, refresh, temperature, training, retraining, sparing
(chapter 09).
-/
namespace Sys2Proof.Machine

/-! ### Retirement (R303, R304) -/

/-- Pieces of 2 KiB that a target holds: a pseudo-channel, or a rank over both subchannels. -/
def State.migTop (s : State) (c : Nat) : Nat :=
  if c < 8 then 393216
  else
    let g := Reg.mcGeom c
    2 ^ (6 + s.fld g 19 16 + s.fld g 15 12 + s.fld g 11 8 + s.fld g 28 24) * 2 / 2048

/-- LOC of a controller's event (R507). -/
def mcLoc (c target rank symbol : Nat) : Nat := c * 2 ^ 24 + target % 256 * 2 ^ 16 + rank % 256 * 2 ^ 8 + symbol % 256

/-- A retirement trigger: the copy starts, or the trigger is recorded when it cannot. -/
def State.retire (s : State) (c target mid : Nat) : State :=
  let m := s.mc c
  if m.mig.isSome then s
  else if s.bit (Reg.mcCtrl c) 2 && (s.failedOf c).isNone then
    (((s.setMc c { m with mig := some { target := target, pos := 0 } }).setBit (Reg.mcStat c) 29 true).setBit (Reg.mcSpare c) 31 true).wr
      (Reg.mcMigPos c) 0
  else s.event 0x0508 5 (mcLoc c (if c < 8 then target else 0) (if c < 8 then 0 else target) 0) mid

/-- SPARE_GO (R303): MC_SPARE is written, with or without GO. Before READY, with sparing enabled and no retirement made, FAILED is
taken as written by firmware where it names another target than SPARE (R293; log entry 58). -/
def State.spareWrite (s : State) (c w : Nat) : State :=
  let r := Reg.mcSpare c
  let s1 := ((s.setFld r 28 24 (bitsOf w 28 24)).setFld r 20 16 (bitsOf w 20 16)).setFld r 4 0 (bitsOf w 4 0)
  let s2 := if bitOf w 30 then s1.setBit r 30 false else s1
  if bitOf w 31 then s2.retire c (if c < 8 then bitsOf w 4 0 else bitsOf w 2 0) 0x20
  else if s.bit (Reg.mcCtrl c) 2 && !s.bit (Reg.mcCtrl c) 0 && !s.bit (Reg.mcStat c) 28 then
    s2.setMc c { s2.mc c with failSet := decide (bitsOf w 20 16 ≠ bitsOf w 28 24) }
  else s2
def execSpareGo (c : Fin 20) (word : Word) (s : State) : Out := s.when (s.domOn (mcDom c)) (s.spareWrite c word.toNat)

/-- A retirement copy ends, and what it was copying. -/
def State.migEnd (s : State) (c : Nat) : State :=
  ((s.setMc c { s.mc c with mig := none }).setBit (Reg.mcStat c) 29 false).setBit (Reg.mcSpare c) 31 false

/-- The spare reads uncorrectable during the copy: requests return to the target (R304). -/
def State.migAbort (s : State) (c target : Nat) : State :=
  ((s.migEnd c).setBit (Reg.mcSpare c) 30 true).event 0x0509 6 (mcLoc c (if c < 8 then target else 0) (if c < 8 then 0 else target) 0) 0

/-- A change of SPARE_EN (R302): only in mode 9; the controller is remapped and zeroed. -/
def State.spareEn (s : State) (c : Nat) (v : Bool) : State :=
  if s.mode ≠ 9 || s.bit (Reg.mcCtrl c) 2 = v then s
  else
    let s1 := if c < 8 then s.dramLost (0x10000000000 + c * 0x600000000) (0x10000000000 + (c + 1) * 0x600000000) else s.chanZero (c - 8)
    let s2 := s1.setMc c { s1.mc c with
      poison := [], erased := [], corrCnt := [], ueCnt := [], mig := none, patrol := 0, failSet := false }
    let s3 := ((s2.setBit (Reg.mcStat c) 28 false).setBit (Reg.mcStat c) 29 false).setBit (Reg.mcSpare c) 31 false
    let s4 := s3.setBit (Reg.mcCtrl c) 2 v
    if c = 0 then s4.pageStoreLost else s4
def execSpareEnWrite (c : Fin 8) (enable : Bool) (s : State) : Out := s.when (s.domOn (mcDom c)) (s.spareEn c enable)

/-! ### ECC (R297–R301) -/

/-- Symbols of a target and rank that are marked erased. -/
def McSt.erasedIn (m : McSt) (t r : Nat) : Nat := (m.erased.filter (fun x => x / 64 = 64 * t + r)).length

/-- A symbol is marked erased; a second lane of a pseudo-channel, or a device of a rank, retires its target. -/
def State.eraseSymbol (s : State) (c b t r sym mid : Nat) : State :=
  let m := s.mc c
  let s1 := s.setMc c { m with erased := m.erased ++ [4096 * t + 64 * r + sym] }
  let s2 := (s1.mcErr c 3 b sym mid).event 0x0505 3 (mcLoc c t r sym) mid
  if c < 8 then (if (s2.mc c).erasedIn t r = 2 then s2.retire c t mid else s2)
  else (if (s2.mc c).erasedIn t r = 1 then s2.retire c r mid else s2)

/-- One corrected symbol of a read: counted in its epoch, and erased at 16 (R299). -/
def State.symbolFixed (s : State) (c b sym mid : Nat) : State :=
  let (t, r) := s.targetOf b
  let k := 4096 * t + 64 * r + sym
  let m := s.mc c
  if m.erased.contains k then s
  else
    let n := SMap.get m.corrCnt k 0 + 1
    let s1 := s.setMc c { m with corrCnt := SMap.put m.corrCnt k n }
    if n = 16 then s1.eraseSymbol c b t r sym mid else s1

/-- The decoder (R297, R298): the symbols that it corrects in a block, or none when an error is uncorrectable. RS(36,32) corrects one
symbol, and RS(10,8) in each codeword one device, beside the erased ones, as far as the check symbols reach; more is taken as detected
(log entry 58). -/
def State.eccOf (s : State) (c b : Nat) (bad : List BadSym) : Option (List Nat) :=
  let (t, r) := s.targetOf b
  let m := s.mc c
  let f := m.erasedIn t r
  let errs := fun (w : Nat) =>
    (((bad.filter (fun y => y.word.val = w)).map (fun y => y.sym.val)).dedup.filter (fun y => !m.erased.contains (4096 * t + 64 * r + y))).length
  let checks := if c < 8 then 4 else 2
  if (List.range (if c < 8 then 1 else 8)).all (fun w => errs w ≤ 1 && decide (2 * errs w + f ≤ checks)) then
    some (bad.map (fun y => y.sym.val)).dedup
  else none

/-- What the ECC finds in a block that is read, unless it is poisoned already. -/
def State.eccRead (s : State) (c b mid : Nat) (bad : List BadSym) : State :=
  if s.poisoned b then s
  else match s.eccOf c b bad with
    | some [] => s
    | some (y :: ys) =>
      let s1 := (s.count (Reg.mcCe c) 31 0 1).mcErr c 0 b y mid
      s1.each (y :: ys) (fun t y => t.symbolFixed c b y mid)
    | none =>
      let s1 := s.poisonBlock b mid
      let (t, r) := s.targetOf b
      let x := if c < 8 then t else r
      match (s.mc c).mig with
      | some g => if x = s.spareOf c then s1.migAbort c g.target else s1
      | none => if SMap.get (s1.mc c).ueCnt (8 * t + r) 0 = 4 then s1.retire c x mid else s1

/-- The read of a block with what its ECC shows: whether it fails, as poisoned before or uncorrectable now. -/
def State.blkRead (s : State) (c b mid : Nat) (bad : List BadSym) : State × Bool :=
  if s.poisoned b then (s.poisonRead b mid, true) else (s.eccRead c b mid bad, (s.eccOf c b bad).isNone)

/-- MC_READ_COMPLETE (R280, R281, R283, R299, R301, R317): the next read of a target: the block of a write of part of it that is due,
else the read that R280 picks. `bad` names the symbols that the burst shows wrong. -/
def execMcReadComplete (c : Fin 20) (target : Fin 32) (bad : List BadSym) (s : State) : Out :=
  let k : Nat := c
  let t := target.val
  let mid := fun (x : McBlk) => match s.mcReq k x.id with | some q => q.pkt.mid | none => 0
  let write := if s.drainGo k t then s.pickBlk k (s.writable k t) else none
  let r : State :=
    match write with
    | some w =>
      let g := s.blkRead k w.block (mid w) bad
      if g.2 then g.1.refuseWrite k w else g.1.issueWrite k w
    | none => match s.pickBlk k (s.readable k t) with
      | some x =>
        let s1 := (s.rowOpen k x.block)
        let s2 := s1.setMc k { s1.mc k with reads := (s1.mc k).reads.erase x }
        let g := s2.blkRead k x.block (mid x) bad
        g.1.blkDone k x.id x.block (if g.2 then 3 else 0) (if g.2 then [] else g.1.dramBytes x.block (blockSize k))
      | none => s
  s.when (s.domOn (mcDom k)) (r.drainCheck k)

/-- Whether a target has nothing to do for requests: no write goes, and no read may issue (R280). -/
def State.idleTarget (s : State) (c t : Nat) : Bool := (s.readable c t).isEmpty && !(s.drainGo c t && !(s.writable c t).isEmpty)

/-! ### Patrol (R300) -/

/-- End of a controller's own space, and the Rounds address of an offset in it. -/
def State.mcTop (s : State) (c : Nat) : Nat :=
  if c < 8 then s.hbmEnd c - (0x10000000000 + c * 0x600000000) else s.fld (Reg.mcIlv c) 15 0 * 2 ^ 30
def State.mcAddr (s : State) (c o : Nat) : Nat :=
  if c < 8 then 0x10000000000 + c * 0x600000000 + o
  else 0x20000000000 + (o / 256 * s.ddrOn.length + s.fld (Reg.mcIlv c) 27 24) * 256 + o % 256

/-! ### The retirement copy (R303, R304) -/

/-- The Rounds address of offset `o` of a target: a pseudo-channel, or a rank over both subchannels; none where no request goes
(the spare before it is used, what has been retired). -/
def State.slotAddr (s : State) (c target o : Nat) : Option Nat :=
  match (List.range (s.slots c).length).find? (fun l => s.slotChan c l o = target) with
  | some l => if c < 8 then some (0x10000000000 + c * 0x600000000 + (o / 256 * (s.slots c).length + l) * 256 + o % 256)
    else some (s.mcAddr c (l * (2 * s.rankSize c) + o))
  | none => none

/-- Targets, as the queues number them, at which a retirement takes command slots. -/
def State.migTargets (s : State) (c target : Nat) : List Nat := if c < 8 then [target, s.spareOf c] else [0, 1]

/-- Whether the copy may take the slots of its next piece: freely while no request waits, else within MIG_SHARE (R280, R303). -/
def State.migMay (s : State) (c : Nat) (g : Migration) : Bool :=
  let m := s.mc c
  let n := 2048 / blockSize c * (g.pos + 1)
  (s.migTargets c g.target).all (fun t => s.idleTarget c t) && ((s.migTargets c g.target).all (fun t => (s.inTarget (m.reads ++ m.writes) t).isEmpty) ||
    decide (256 * n ≤ s.fld (Reg.mcCtrl c) 23 16 * (n + g.other)))

/-- One block of a piece is read; a retirement that an error of it has ended reads no more. -/
def State.migRead (s : State) (c target o mid : Nat) (bad : List BadSym) : State :=
  if (s.mc c).mig.isNone then s
  else match s.slotAddr c target o with
    | some b => if s.decodes b then (s.blkRead c b mid bad).1 else s
    | none => s

/-- A retirement is complete: FAILED takes the target, and firmware keeps it in the settings store (R304, R502). -/
def State.migDone (s : State) (c target : Nat) : State :=
  let s1 := ((s.migEnd c).setFld (Reg.mcSpare c) 20 16 target).setBit (Reg.mcStat c) 28 true
  if s.fwServes 0 then { s1 with fl := { s1.fl with ops := s1.fl.ops ++ [.settings (0x30 + c) (leBytes 4 target) none] } }
  else s1

/-- MIGRATION_PIECE_COMPLETE (R303, R304): a piece has been read from the target, `bad` being the symbols that its blocks show wrong,
and written to the spare; a block that reads uncorrectable is poisoned there. A copy names no initiator: MASTER is a free value. -/
def execMigrationPieceComplete (c : Fin 20) (bad : List (Fin 64 × BadSym)) (s : State) : Out :=
  let k : Nat := c
  match (s.mc k).mig with
  | none => .next s
  | some g =>
    let mid := s.freeVal 256
    let read := s.drawn.each (List.range (2048 / blockSize k)) (fun t j =>
      t.migRead k g.target (2048 * g.pos + j * blockSize k) mid ((bad.filter (fun e => e.1.val = j)).map Prod.snd))
    let at' := match (read.mc k).mig with
      | some h => (read.setMc k { read.mc k with mig := some { h with pos := g.pos + 1 } }).wr (Reg.mcMigPos k) (g.pos + 1)
      | none => read
    s.when (s.domOn (mcDom k) && s.migMay k g)
      (if s.migTop k ≤ g.pos + 1 && (read.mc k).mig.isSome then at'.migDone k g.target else at')

/-- PATROL_READ (R300): the next block, as any read, when its target has nothing else to do (R280); the spec names no initiator, so
MASTER is a free value. -/
def execPatrolRead (c : Fin 20) (bad : List BadSym) (s : State) : Out :=
  let k : Nat := c
  let o := (s.mc k).patrol
  let b := s.mcAddr k o
  let mid := s.freeVal 256
  let next := if s.mcTop k ≤ o + blockSize k then 0 else o + blockSize k
  let s1 := s.drawn.setMc k { s.mc k with patrol := next }
  let copies := match (s.mc k).mig with | some g => (s.migTargets k g.target).contains (s.targetOf b).1 && s.migMay k g | none => false
  s.when (s.mcReady k && s.fld (Reg.mcCtrl k) 31 24 ≠ 0 && decide (0 < s.mcTop k) && s.idleTarget k (s.targetOf b).1 && !copies && !s.isoBlk b)
    (s1.blkRead k b mid bad).1

/-! ### Refresh and temperature (R284–R287) -/

/-- Whether a request of effective age class 8 or more waits for a bank (R285). -/
def State.bankBusy (s : State) (c key : Nat) : Bool :=
  ((s.mc c).reads ++ (s.mc c).writes).any (fun x => decide (8 ≤ x.age) && (s.bankRow x.block).1 = key)

/-- REFRESH_DUE (R284, R285): the bank's interval expires, and its refresh is issued, or postponed while requests of class 8 or more
wait for it, up to the limit. A refresh closes the bank's row (log entry 58). `rank` is the stack ID on HBM. -/
def execRefreshDue (c : Fin 20) (target : Fin 32) (rank : Fin 8) (bank : Fin 64) (s : State) : Out :=
  let k := 64 * (8 * (target : Nat) + rank) + bank
  let m := s.mc c
  let n := SMap.get m.postponed k 0
  let lim := if s.bit (Reg.mcStat c) 31 then 2 else 4
  s.when (s.domOn (mcDom c))
    (if s.bankBusy c k && decide (n < lim) then s.setMc c { m with postponed := SMap.set m.postponed k (n + 1) 0 }
     else s.setMc c { m with postponed := SMap.set m.postponed k 0 0, rows := SMap.erase m.rows k })

/-- DRAM_TEMP_READ (R286, R287): the hottest device of a controller, °C, signed. -/
def execDramTempRead (c : Fin 20) (temp : Byte) (s : State) : Out :=
  let k : Nat := c
  let t : Int := signedOf 8 temp.toNat
  let r := Reg.mcStat k
  let s1 := s.setFld r 23 16 temp.toNat
  let s2 := if 85 < t then s1.setBit r 31 true else if t ≤ 82 then s1.setBit r 31 false else s1
  let hot := s.pw.dramHot
  let s3 :=
    if 95 ≤ t then
      let u := (s2.setBit r 30 true).event 0x0507 6 (mcLoc k 0 0 0) 0
      let v := { u with pw := { u.pw with dramHot := if hot.contains k then hot else hot ++ [k] } }
      (v.pmFaultSet 7 true).safeHold
    else
      let u := s2.setBit r 30 false
      let v := { u with pw := { u.pw with dramHot := hot.filter (· ≠ k) } }
      if v.pw.dramHot.isEmpty then v.pmFaultEnd 7 else v
  s.when (s.domOn (mcDom k)) s3

/-! ### Training (R289, R290) -/

/-- The Rounds address of a byte of a pseudo-channel (R275), or of a rank of a subchannel (R277). -/
def State.addrOfTarget (s : State) (c target rank w : Nat) : Option Nat :=
  if c < 8 then s.slotAddr c target w else s.slotAddr c rank (w / 64 * 128 + target % 2 * 64 + w % 64)

/-- Address within the target and rank of burst `k` of an operation; values past its end do not occur and wrap (R276; log entry
19). -/
def State.burstAt (s : State) (c k : Nat) : Nat :=
  (s.rd (Reg.mcTrnAddr c) + k) * blockSize c % (if c < 8 then 0x30000000 else s.rankSize c)

/-- Lanes of a target (R289), and the level of a lane in a beat under a pattern; what the spec leaves open of the patterns is in log
entry 19. -/
def trnLanes (c : Nat) : Nat := if c < 8 then 36 else 40
def patBit (c pattern user burst lane beat : Nat) : Bool :=
  let p := if 8 ≤ pattern then 0 else pattern
  if p < 3 then Config.prbs p lane beat
  else if p = 3 then beat % trnLanes c = lane
  else if p = 4 then beat % trnLanes c ≠ lane
  else if p = 5 then beat % 2 = 1
  else if p = 6 then bitOf user (beat % 64)
  else bitOf burst ((lane + 32 * beat) % 32)

/-- Lane and beat, in its burst, of bit `j` of byte `i` of a block: an HBM lane carries a byte of the burst (R297), a DDR5 device the
nibbles of a byte in two beats (R298; log entry 19). -/
def laneBeat (c i j : Nat) : Nat × Nat := if c < 8 then (i, j) else (4 * (i % 8) + j % 4, 2 * (i / 8) + j / 4)

/-- The bytes that a pattern makes of burst `k` at burst address `b`. -/
def patBytes (c pattern user b k : Nat) : List Byte :=
  let beats := if c < 8 then 8 else 16
  (List.range (blockSize c)).map (fun i => BitVec.ofNat 8 (((List.range 8).filter (fun j =>
    patBit c pattern user b (laneBeat c i j).1 (beats * k + (laneBeat c i j).2))).map (2 ^ ·)).sum)

/-- Where a helper finds burst byte `w` of a target: an address of memory, while that holds data that no save buffer keeps; else what
helpers have left there (R289, R295). -/
def State.trnHome (s : State) (c target rank w : Nat) : Option Nat :=
  match s.addrOfTarget c target rank w with
  | some a =>
    let saved := match (s.mc c).iso with | some i => i.row.contains a | none => false
    if s.bit (Reg.mcCtrl c) 0 && !saved && s.decodes a then some a else none
  | none => none
def trnKey (target rank w : Nat) : Nat := 2 ^ 40 * (8 * target + rank) + w

/-- A helper writes or reads a byte as the DRAM stores it, behind the crypto engine. -/
def State.trnPut (s : State) (c target rank w : Nat) (v : Byte) : State :=
  match s.trnHome c target rank w with
  | some a => (s.setForm (a / 16 * 16) (a / 16 * 16 + 16) (mkForm 0 0 0 0 0 0)).putByte a v
  | none => s.setMc c { s.mc c with trn := SMap.set (s.mc c).trn (trnKey target rank w) v 0 }
def State.trnGet (s : State) (c target rank w : Nat) : Byte :=
  match s.trnHome c target rank w with
  | some a => (s.rawBlock (a / 16 * 16)).getD (a % 16) 0
  | none => SMap.get (s.mc c).trn (trnKey target rank w) 0

/-- The bursts of the operation that MC_TRN_CTRL holds: number, address in the target, and bytes of its pattern. -/
def State.trnBursts (s : State) (c : Nat) : List (Nat × Nat × List Byte) :=
  let r := Reg.mcTrnCtrl c
  let user := s.rd64 (Reg.mcTrnUserLo c) (Reg.mcTrnUserHi c)
  (List.range (max 1 (s.fld r 15 0))).map (fun k =>
    let w := s.burstAt c k
    (k, w, patBytes c (s.fld r 28 25) user (w / blockSize c) k))

/-- The writes of an operation; OP 1 has none. -/
def State.trainWrites (s : State) (c : Nat) : State :=
  let r := Reg.mcTrnCtrl c
  if s.fld r 30 29 = 1 then s
  else s.each (s.trnBursts c) (fun t e =>
    t.each (e.2.2.mapIdx (fun i v => (i, v))) (fun u x => u.trnPut c (s.fld r 24 20) (s.fld r 19 17) (e.2.1 + x.1) x.2))

/-- The lanes at which the bursts that are stored differ from the pattern, the bits that do, and the first burst (R289). -/
def State.trnDiff (s : State) (c : Nat) : List Nat × Nat × Option Nat :=
  let r := Reg.mcTrnCtrl c
  let bad := (s.trnBursts c).map (fun e => (e.1, (e.2.2.mapIdx (fun i v =>
    let x := (s.trnGet c (s.fld r 24 20) (s.fld r 19 17) (e.2.1 + i)).toNat
    ((List.range 8).filter (fun j => bitOf x j ≠ bitOf v.toNat j)).map (fun j => (laneBeat c i j).1))).flatten))
  let all := (bad.map Prod.snd).flatten
  (all.dedup, all.length, (bad.find? (fun e => !e.2.isEmpty)).map Prod.fst)

/-- Whether helpers may act: on every target while TRAIN = 1, on its own in an isolated step (R289, R295). -/
def State.trnMay (s : State) (c w : Nat) : Bool :=
  s.bit (Reg.mcCtrl c) 1 || (match (s.mc c).iso with
    | some i => bitsOf w 24 20 = i.target && (decide (c < 8) || bitsOf w 19 17 = i.rank)
    | none => false)

/-- TRAINING_OP (R289): MC_TRN_CTRL is written; START acts while TRAIN = 1 or inside an isolated step. -/
def State.trainingOp (s : State) (c w : Nat) : State :=
  let s1 := s.wr (Reg.mcTrnCtrl c) (Nat.land w 0x7FFEFFFF)
  if bitOf w 31 && s.trnMay c w && !(s.mc c).training then
    let s2 := [Reg.mcTrnFailLo c, Reg.mcTrnFailHi c, Reg.mcTrnErrs c, Reg.mcTrnFirst c].foldl (fun t r => t.wr r 0)
      (s1.setBit (Reg.mcTrnCtrl c) 31 true)
    (s2.setMc c { s2.mc c with training := true }).trainWrites c
  else if (s.mc c).training then s
  else s1
def execTrainingOp (c : Fin 20) (word : Word) (s : State) : Out := s.when (s.domOn (mcDom c)) (s.trainingOp c word.toNat)

/-- TRAINING_OP_COMPLETE (R289): the results of a compare. What is stored is compared with the pattern; `fail`, `errs` and `first`
are the lanes, bits and first burst that the link itself corrupts, ECC lanes with them (log entry 19). OP 3 compares 16 times. -/
def execTrainingOpComplete (c : Fin 20) (fail : BitVec 64) (errs first : Word) (s : State) : Out :=
  let k : Nat := c
  let s1 := (s.setMc k { s.mc k with training := false }).setBit (Reg.mcTrnCtrl k) 31 false
  let d := s.trnDiff k
  let lanes := Nat.lor (fail.toNat % 2 ^ trnLanes k) ((d.1.map (2 ^ ·)).sum)
  let bits := errs.toNat + d.2.1 * (if s.fld (Reg.mcTrnCtrl k) 30 29 = 3 then 16 else 1)
  let burst := match d.2.2 with
    | some x => if fail.toNat % 2 ^ trnLanes k = 0 then x else min x first.toNat
    | none => if fail.toNat % 2 ^ trnLanes k = 0 then 0 else first.toNat
  s.when (s.domOn (mcDom k) && (s.mc k).training)
    (if s.fld (Reg.mcTrnCtrl k) 30 29 = 0 then s1
     else ((s1.wr64 (Reg.mcTrnFailLo k) (Reg.mcTrnFailHi k) lanes).wr (Reg.mcTrnErrs k) (min bits 0xFFFFFFFF)).wr (Reg.mcTrnFirst k) burst)

/-- The key of `McSt.modeRegs`: target, rank, device and mode register. -/
def mrKey (target rank device mr : Nat) : Nat := target * 2 ^ 17 + rank * 2 ^ 14 + device * 2 ^ 10 + mr

/-- DELAY_VALUE_WRITE (R290): MC_DLY_VAL for the delay that MC_DLY_SEL names; a reserved KIND has none. A DRAM-side value goes to its
device with a mode-register write. -/
def State.delayWrite (s : State) (c w : Nat) : State :=
  let sel := s.rd (Reg.mcDlySel c)
  let kind := sel / 2 ^ 28
  let s1 := s.wr (Reg.mcDlyVal c) (w % 512)
  let s2 := s1.setMc c { s1.mc c with delays := SMap.set (s1.mc c).delays sel (w % 512) 0 }
  let key := mrKey (bitsOf sel 27 23) (bitsOf sel 22 20) (if c < 8 then 0 else sel % 64 / 4) (Config.dramMr (decide (c < 8)) kind).toNat
  if 7 ≤ kind then s.wr (Reg.mcDlyVal c) 0
  else if kind = 5 ∨ kind = 6 then s2.setMc c { s2.mc c with modeRegs := SMap.put (s2.mc c).modeRegs key (w % 256) }
  else s2
def execDelayValueWrite (c : Fin 20) (word : Word) (s : State) : Out := s.when (s.domOn (mcDom c)) (s.delayWrite c word.toNat)

/-- MODE_REGISTER_ACCESS (R290): MC_MR is written; with GO the access runs. -/
def State.mrAccess (s : State) (c w : Nat) : State :=
  if s.bit (Reg.mcMr c) 31 then s else s.wr (Reg.mcMr c) (Nat.land w 0xFFFCFFFF)
def execModeRegisterAccess (c : Fin 20) (word : Word) (s : State) : Out := s.when (s.domOn (mcDom c)) (s.mrAccess c word.toNat)

/-- MODE_REGISTER_ACCESS_COMPLETE (R290): a read leaves the mode register in DATA: what was written there, else what the device itself
keeps there, `data`; a write has set it. -/
def execModeRegisterAccessComplete (c : Fin 20) (data : Byte) (s : State) : Out :=
  let k : Nat := c
  let w := s.rd (Reg.mcMr k)
  let key := mrKey (bitsOf w 29 25) (bitsOf w 24 22) (bitsOf w 21 18) (bitsOf w 15 8)
  let s1 := s.setBit (Reg.mcMr k) 31 false
  s.when (s.domOn (mcDom k) && bitOf w 31)
    (if bitOf w 30 then s1.setFld (Reg.mcMr k) 7 0 ((SMap.find (s.mc k).modeRegs key).getD data.toNat)
     else s1.setMc k { s1.mc k with modeRegs := SMap.put (s1.mc k).modeRegs key (w % 256) })

/-! ### Live retraining (R294, R295) -/

/-- The write delays of a target follow the drift, lane by lane (R294). -/
def State.follow (s : State) (c target rank : Nat) (d : Int) : State :=
  let m := s.mc c
  let key := fun (l : Nat) => 2 ^ 28 + target * 2 ^ 23 + rank * 2 ^ 20 + l
  s.setMc c { m with delays := (List.range (trnLanes c)).foldl (fun v l => SMap.set v (key l) ((SMap.get v (key l) 0 + d) % 512).toNat 0) m.delays }

/-- DRIFT_MEASURE (R294): `taps` is the drift, signed: within DRIFT_LIM the write delays of the target follow it. -/
def execDriftMeasure (c : Fin 20) (target : Fin 32) (rank : Fin 8) (taps : Byte) (s : State) : Out :=
  let k : Nat := c
  let d : Int := signedOf 8 taps.toNat
  let ask := s.setBit (Reg.mcStat k) 1 true
  let ask2 := { ask with so := { ask.so with pauseReq := if ask.so.pauseReq.contains k then ask.so.pauseReq else ask.so.pauseReq ++ [k] } }
  s.when (s.mcReady k) (if d.natAbs ≤ s.fld (Reg.mcRetrain k) 7 0 then s.follow k target rank d else ask2)

/-- The row that MC_TRN_ADDR names: the addresses of its bytes (R276, R277); a target that no request reaches has none. -/
def State.trainRow (s : State) (c target rank : Nat) : List Nat :=
  let w := s.burstAt c 0
  let home := fun (x : Nat) => (s.addrOfTarget c target rank x).toList
  if c < 8 then
    (List.range 4).flatMap (fun u => (List.range 256).flatMap (fun j => home (w / 65536 * 65536 + u * 16384 + w / 256 % 64 * 256 + j)))
  else
    let g := Reg.mcGeom c
    let bb := s.fld g 19 16 + s.fld g 15 12
    let bl := s.fld g 11 8
    (List.range (2 ^ bl)).flatMap (fun u => (List.range 64).flatMap (fun j =>
      home (w / 2 ^ (6 + bb + bl) * 2 ^ (6 + bb + bl) + u * 2 ^ (6 + bb) + w / 64 % 2 ^ bb * 64 + j)))

/-- RETRAIN_ISOLATE (R295): delays and the training row are kept, and the target's requests wait. What the save buffer holds of the row
is what `State.mem` holds of it; what helpers write there stands in `McSt.trn` until the row is written back. -/
def State.isolate (s : State) (c : Nat) : State :=
  let r := Reg.mcRetrain c
  let t := s.fld r 27 23
  let k := s.fld r 22 20
  let m := s.mc c
  if (s.bit r 31 || s.mode = 9) && m.iso.isNone then
    let s1 := s.setMc c { m with iso := some { target := t, rank := k, delays := m.delays, row := s.trainRow c t k } }
    let s2 := { s1 with so := { s1.so with pauseReq := s1.so.pauseReq.filter (· ≠ c) } }
    (s2.setBit (Reg.mcStat c) 1 false).setBit r 30 true
  else s
def execRetrainIsolate (c : Fin 20) (s : State) : Out := s.when (s.domOn (mcDom c)) (s.isolate c)

/-- The row is written back and the target resumes. -/
def State.isoEnd (s : State) (c : Nat) : State :=
  ((s.setMc c { s.mc c with iso := none, trn := [] }).setBit (Reg.mcRetrain c) 30 false).drainCheck c

/-- RETRAIN_RELEASE (R295). -/
def State.isoRelease (s : State) (c : Nat) : State :=
  if (s.mc c).iso.isSome then (s.isoEnd c).count (Reg.mcRetrainCnt c) 31 16 1 else s
def execRetrainRelease (c : Fin 20) (s : State) : Out := s.when (s.domOn (mcDom c)) (s.isoRelease c)

/-- RETRAIN_STEP_TIMEOUT (R295): delays restored, row written back, ABANDON counted, recorded. -/
def execRetrainStepTimeout (c : Fin 20) (s : State) : Out :=
  let k : Nat := c
  match (s.mc k).iso with
  | some i =>
    let s1 := s.setMc k { s.mc k with delays := i.delays }
    s.when (s.domOn (mcDom k))
      (((s1.isoEnd k).count (Reg.mcRetrainCnt k) 15 0 1).event 0x0504 3 (mcLoc k i.target i.rank 0) 0)
  | none => .next s

end Sys2Proof.Machine
end

