-- ==== Sys2Proof/Machine/SoTables.lean ====
section
/-!
DEFINITION. The read-only tables of the Sorting Office window as words (R182, R189, R192, R193, R221, R233–R236).
-/
namespace Sys2Proof.Machine

/-- Codes of the run states and of the operations. -/
def runStateCode : RunState → Nat
  | .empty => 0 | .idle => 1 | .waiting => 2 | .loading => 3 | .ready => 4 | .running => 5
  | .suspending => 6 | .suspended => 7 | .faulted => 8 | .ending => 9
def runOpCode : RunOp → Nat
  | .none => 0 | .place => 1 | .start => 2 | .suspend => 3 | .preempt => 4 | .endRun => 5 | .swap => 6 | .evict => 7

/-- Whether a page of a run occupies a bay-plane. -/
def State.runResident (s : State) (r : Nat) : Bool := s.so.bps.any (fun e => e.2.pstate = 2 && e.2.load.isNone && e.2.run = r)

/-- Word w of Design Table entry d (R189). -/
def State.designWord (s : State) (d w : Nat) : Nat :=
  let x := SMap.get s.so.designs d {}
  if w < 4 then x.id / 2 ^ (32 * w) % 2 ^ 32
  else if w = 4 then x.state % 4 * 2 ^ 30 + x.pageCount % 4096
  else if w = 5 then x.cfgBase % 2 ^ 22
  else if w = 6 then x.runs % 8192
  else if 8 ≤ w ∧ w < 20 then x.digest / 2 ^ (32 * (w - 8)) % 2 ^ 32
  else 0

/-- A valid bit and the index of a ticket. -/
def tktBit (t : Option Nat) : Nat := b2n t.isSome
def tktIx (t : Option Nat) : Nat := (t.getD 0) % 4096

/-- Word w of Run Table entry r (R192). -/
def State.runWord (s : State) (r w : Nat) : Nat :=
  let x := s.run r
  let pend := x.pend.bind (fun p => p.ticket)
  if w = 0 then
    runStateCode x.state * 2 ^ 28 + x.prio % 16 * 2 ^ 24 + b2n x.wholeBay * 2 ^ 23 + b2n x.started * 2 ^ 22 +
      b2n (s.runResident r) * 2 ^ 21 + b2n x.backfill * 2 ^ 20 + b2n x.saveFail * 2 ^ 19 + b2n x.excl * 2 ^ 18 +
      (if x.state = .empty then 0 else x.tileMask % 256 * 2 ^ 8)
  else if w = 1 then tktBit x.curTkt * 2 ^ 31 + tktBit pend * 2 ^ 30 + x.design % 1024 * 2 ^ 16 + x.pageCount % 4096
  else if w = 2 then x.stateBase % 2 ^ 22
  else if w = 3 then x.qleft % 2 ^ 16
  else if w = 4 then x.urg % 2 ^ 20
  else if w = 5 then x.wait % 2 ^ 32
  else if w = 6 then x.dcc % 2 ^ 32
  else if w = 7 then x.dcc / 2 ^ 32 % 2 ^ 32
  else if w = 8 then x.stop % 2 ^ 32
  else if w = 9 then x.stop / 2 ^ 32 % 2 ^ 32
  else if w = 10 then
    runOpCode x.curOp * 2 ^ 28 + tktIx x.curTkt * 2 ^ 16 + (match x.pend with | some p => runOpCode p.op | none => 0) * 2 ^ 12 + tktIx pend
  else if w = 11 then x.switches % 2 ^ 32
  else if w = 12 then x.served % 2 ^ 32
  else 0

/-- The union of the memories that the planes of a bay own (R132). -/
def State.bmOwned (s : State) (n b : Nat) : Nat :=
  (List.range 160).foldl (fun m k => if (s.memOwner n b false k).isSome then m + 2 ^ k else m) 0
def State.dmOwned (s : State) (n b : Nat) : Nat :=
  (List.range 16).foldl (fun m k => if (s.memOwner n b true k).isSome then m + 2 ^ k else m) 0

/-- POWER of a bay: off, waking, on, going down. -/
def State.bayPower (s : State) (n b : Nat) : Nat := min 3 (s.dom (domBay n b)).ph

/-- The run of WHOLE_BAY that holds a bay. -/
def State.wholeRun (s : State) (n b : Nat) : Option Nat :=
  ((s.so.bps.filter (fun e => e.1 / 4 = bayIx n b && e.2.pstate ≠ 0 && e.2.load.isNone && (s.run e.2.run).wholeBay)).map
    (fun (e : Nat × BpRec) => e.2.run)).head?

/-- Word w of Bay table entry 64n + b (R193). CFG reads 0 while the plane holds no page's frames (log entry 53). -/
def State.bayWord (s : State) (e w : Nat) : Nat :=
  let n := e / 64
  let b := e % 64
  if w < 8 then
    let i := 4 * e + w / 2
    let x := s.bpRec i
    let p := if x.pstate = 2 && !s.stepping i then 3 else x.pstate
    if w % 2 = 0 then p * 2 ^ 29 + x.run % 4096 * 2 ^ 16 + x.pageNo % 2048 else if x.cfgOk then x.cfg % 2 ^ 22 else 0
  else if w < 13 then s.bmOwned n b / 2 ^ (32 * (w - 8)) % 2 ^ 32
  else if w = 13 then s.bayPower n b * 2 ^ 30 + s.dmOwned n b
  else if w = 14 then
    match s.wholeRun n b with
    | some r => 4096 + r % 4096
    | none => 0
  else 0

/-- Word w of swap table entry k (R221). -/
def State.swapWord (s : State) (k w : Nat) : Nat :=
  match SMap.find s.so.swaps k with
  | some e => if w = 0 then 2 ^ 31 + e.run % 4096 * 2 ^ 16 + e.pageNo % 2048 else e.handle % 2 ^ 22
  | none => 0

/-- Word w of Snapshot Table entry k (R234). -/
def State.snapWord (s : State) (k w : Nat) : Nat :=
  let x := s.snap k
  if w = 0 then
    x.state * 2 ^ 29 + b2n x.mem * 2 ^ 28 + b2n x.lock * 2 ^ 27 + b2n x.late * 2 ^ 26 + b2n x.pin * 2 ^ 25 +
      b2n x.flushed * 2 ^ 24 + x.run % 4096 * 2 ^ 12 + tktIx x.ticket
  else if w = 1 then b2n x.ring.isSome * 2 ^ 31 + b2n (x.ticket.isSome && !x.trig) * 2 ^ 30 + x.ring.getD 0 % 64 * 2 ^ 24 + x.segBase % 2 ^ 22
  else if w = 2 then x.dcc % 2 ^ 32
  else if w = 3 then x.dcc / 2 ^ 32 % 2 ^ 32
  else if w = 4 then x.segsValid % 4096 * 2 ^ 16 + x.pageCount % 4096
  else if w = 5 then x.pauseNs % 2 ^ 32
  else if w = 6 then x.epoch % 2 ^ 32
  else 0

/-- Word w of Ring Table entry g (R236). -/
def State.ringWord (s : State) (g w : Nat) : Nat :=
  match s.ring g with
  | none => 0
  | some x =>
    if w = 0 then 2 ^ 31 + b2n x.flush * 2 ^ 30 + x.run % 4096 * 2 ^ 12 + x.slots % 512
    else if w = 1 then x.next % 512 * 2 ^ 16 + x.first % 1024
    else if w = 2 then x.period % 2 ^ 32
    else if w = 3 then x.period / 2 ^ 32 % 2 ^ 32
    else if w = 4 then x.memEvery % 256
    else if w = 5 then x.skipped % 2 ^ 32
    else if w = 6 then x.taken % 2 ^ 32
    else 0

/-- The table that an offset of the window lies in: first offset and length (R182, R233). -/
def soTable (o : Nat) : Option (Nat × Nat) :=
  [(0x20000, 131072), (0x40000, 262144), (0x80000, 32768), (0x89000, 2048), (0x90000, 32768), (0x98000, 2048)].find?
    (fun t => decide (t.1 ≤ o) && decide (o < t.1 + t.2))

/-- The word at an offset of a table. -/
def State.soWord (s : State) (o : Nat) : Nat :=
  if o < 0x40000 then s.designWord ((o - 0x20000) / 128) (o % 128 / 4)
  else if o < 0x80000 then s.runWord ((o - 0x40000) / 64) (o % 64 / 4)
  else if o < 0x89000 then s.bayWord ((o - 0x80000) / 64) (o % 64 / 4)
  else if o < 0x90000 then s.swapWord ((o - 0x89000) / 8) (o % 8 / 4)
  else if o < 0x98000 then s.snapWord ((o - 0x90000) / 32) (o % 32 / 4)
  else s.ringWord ((o - 0x98000) / 32) (o % 32 / 4)

/-- Whether an address lies in one of the tables. -/
def inSoTable (a : Nat) : Bool := decide (0x100000 ≤ a) && decide (a < 0x200000) && (soTable (a - 0x100000)).isSome

end Sys2Proof.Machine
end

