-- ==== Sys2Proof/Machine/Tally.lean ====
section
/-!
DEFINITION. Stamps and the Tally tree: the ledgers, the latch, reports, the audit and its repairs (chapter 11).
-/
namespace Sys2Proof.Machine

/-! ### Ledgers (R326) -/

/-- CLASS of a ledger. -/
def ledgerClass (l : Nat) : Nat :=
  if l < 288 then 0 else if l < 306 then 1 else if l < 324 then 2 else if l < 332 then 3 else if l < 335 then 4 else l - 330

/-- Leaves in use of a ledger; 0 for a number without a ledger. -/
def ledgerLeaves (l : Nat) : Nat :=
  if l < 288 then 3 else if l < 306 then 2 else if l < 324 then 20 else if l < 332 then 6 else if l < 335 then 3
  else if l = 335 then 4 else if l = 336 then 3 else if l = 337 then 2 else if l = 338 then 5 else 0

/-- EXPECT: the pool size, or 0 for a balance. -/
def ledgerExpect (l : Nat) : Nat :=
  if l < 288 then 32 else if l < 306 then 64 else if l < 324 then destSize (l - 306) else if l < 332 then 256
  else if l < 334 then 1024 else if l = 334 then 64 else if l = 335 then 4096 else if l = 336 then 32768 else 0

/-- SIGN: the leaves of a balance that are negated. -/
def ledgerSign (l : Nat) : Nat := if l = 337 then 2 else if l = 338 then 0x1E else 0

/-- The fixed bits of TAL_LEDGERl_INFO. -/
def ledgerInfo (l : Nat) : Nat :=
  if l < 339 then 2 ^ 31 + (ledgerLeaves l - 1) * 2 ^ 24 + ledgerClass l * 2 ^ 20 else 0

/-- The stop behind which the unit of leaf `i` of ledger `l` stands; the upstream stop of direction 0 has the lower index. -/
def leafStop (l i : Nat) : Nat :=
  if l < 288 then
    let t := l % 18
    if i = 0 then (if l / 18 % 2 = 0 then (t + 17) % 18 else (t + 1) % 18) else t
  else if l < 306 then l - 288
  else if l < 324 then (if i < 2 then l - 306 else i - 2)
  else if l < 332 then stopOfTile (l - 324)
  else 0

/-- The domain of that unit; the owner's is that of leaf 0. -/
def leafDom (l i : Nat) : Nat :=
  if l < 324 then domRnd
  else if l < 332 then (if i < 2 then domEdge (l - 324) else domTile (l - 324))
  else domHub

/-- The leaves in use of a ledger. -/
def leavesOf (l : Nat) : List Nat := List.range (ledgerLeaves l)

/-! ### The counters of the units (R326–R331) -/

/-- Requests of a stop on their way to an endpoint, whose stamps the sender's leaf counts (R327). -/
def State.stampsMoving (s : State) (d t : Nat) : Nat :=
  ((s.rnd.net ++ s.rnd.inj).filter (fun p => (p.kind = .readReq || p.kind = .writeReq) && !p.back && p.dst = d && p.src = t)).length

/-- REF_EXPECT (R330): pages of the committed designs and of the runs that are not EMPTY. -/
def State.refExpect (s : State) : Nat :=
  (s.so.designs.map (fun (e : Nat × Design) => if e.2.state = 2 then e.2.pageCount else 0)).sum +
  (s.so.runs.map (fun (e : Nat × Run) => if e.2.state ≠ .empty then e.2.pageCount else 0)).sum

/-- Stream buffers in use: a piece uses one for each 256 bytes or part of them (R397). -/
def State.streamBufs (s : State) : Nat :=
  (s.vl.streams.map (fun (e : Nat × Stream) => (e.2.bufs.map (fun (b : List Byte) => (b.length + 255) / 256)).sum)).sum

/-- The live counter of the unit of leaf `i` of ledger `l`. Buffer credits and page-port buffers are never taken in this
model, which moves whole packets and whole page accesses (log entry 20). ARRIVED is taken without the events that
still wait for step 2 of the epoch (log entry 20). -/
def State.leafNow (s : State) (l i : Nat) : Nat :=
  if l < 288 then
    let q := s.inBuf (l % 18) (l / 36) (l % 36 / 18)
    let flits := fun (ps : List Pkt) => (ps.map Pkt.flits).sum
    if i = 0 then 32 - flits q else flits (q.filter (fun p => p.nak = decide (i = 2)))
  else if l < 306 then
    let n := (s.rnd.pr.filter (fun h => h.pkt.dst = l - 288)).length
    if i = 0 then 64 - n else n
  else if l < 324 then
    let d := l - 306
    if i = 0 then destSize d - s.stampUsed d else if i = 1 then s.accepted d
    else s.stampHeld d (i - 2) + s.stampsMoving d (i - 2)
  else if l < 332 then
    let m := s.mc (l - 324)
    let here := (m.reqs.filter (fun q => q.port.isSome)).length
    if i = 0 then 256 - (here + m.port.length) else if i = 1 then here else if i = 5 then m.port.length else 0
  else if l < 335 then
    let p := if l = 334 then 0 else l - 331
    let used := SMap.get s.vl.bufs p 0
    let parse := (s.vl.intake.filter (fun r => physPort r.port = p)).length
    if i = 0 then ledgerExpect l - used else if i = 1 then parse else used - parse
  else if l = 335 then
    let n := fun (f : Ticket → Bool) => (s.vl.tickets.filter (fun e => f e.2)).length
    if i = 0 then 4096 - n (fun t => t.used || t.resv)
    else if i = 1 then n (fun t => (t.used && t.state = 0) || (!t.used && t.resv))
    else if i = 2 then n (fun t => t.used && t.state = 1) else n (fun t => t.used && decide (2 ≤ t.state))
  else if l = 336 then (if i = 0 then 32768 - s.streamBufs else if i = 1 then s.streamBufs else 0)
  else if l = 337 then (if i = 0 then s.so.sweepSum else s.refExpect)
  else if l = 338 then
    if i = 0 then (s.ev.arrived + 2 ^ 32 - s.ev.intake.length) % 2 ^ 32
    else if i = 1 then (s.ev.slots.map (fun (e : Nat × EvRec) => e.2.rep)).sum
    else if i = 2 then s.ev.discarded else if i = 3 then s.ev.overwritten else s.ev.cleared
  else 0

/-- COUNTER_LATCH (R32 step 1, R333): every unit latches its counters, a unit without power none; what the closed epoch
was like is kept beside them, and a new epoch begins; a supply that is still out of range (PM_FAULT.SUPPLY) puts it too outside
R9's conditions (R12). -/
def State.counterLatch (s : State) : State :=
  let off := (List.range 33).filter (fun d => (s.dom d).ph = 0)
  let down := (s.tal.downInEpoch ++ off).dedup
  let one := fun (l i : Nat) => if off.contains (leafDom l i) then 0 else s.leafNow l i % 2 ^ 32
  let latch := (List.range 339).flatMap (fun l => (leavesOf l).map (fun i => (32 * l + i, one l i)))
  { s with tal := { s.tal with
      latch := latch.filter (fun e => e.2 ≠ 0), reported := [], due := true, asked := false
      down := down, parked := off, downInEpoch := off, out := s.tal.outside || s.mode = 3, outside := s.bit Reg.pmFault 16 } }

/-! ### Reports and copies (R332, R333, R339, R340) -/

/-- Both copies of a leaf written. -/
def State.putLeaf (s : State) (j v : Nat) : State :=
  let c : LeafCopy := { val := v }
  { s with tal := { s.tal with leafA := SMap.set s.tal.leafA j c {}, leafB := SMap.set s.tal.leafB j c {} } }

/-- The leaves that the units behind a stop report. -/
def reportedBy (t : Nat) : List Nat :=
  (List.range 339).flatMap (fun l => ((leavesOf l).filter (fun i => leafStop l i = t)).map (fun i => 32 * l + i))

/-- TALLY_REPORT (R333): the report of the units behind a stop arrives within the deadline. -/
def execTallyReport (stop : Fin 18) (s : State) : Out :=
  let s1 := s.each (reportedBy stop.val) (fun t j => t.putLeaf j (SMap.get t.tal.latch j 0))
  s.when (s.hubOn && s.domOn domRnd && s.tal.due && !s.tal.reported.contains stop.val)
    { s1 with tal := { s1.tal with reported := stop.val :: s1.tal.reported } }

/-- A repair recorded at severity 3 with its level, slot and kind (R342); the code of the kind is a free value. -/
def State.repairEvent (s : State) (l level slot : Nat) : State :=
  (s.event 0x0703 3 l (s.rd (Reg.talLedgerDev l)) 0 [level, slot, s.freeVal (2 ^ 32)]).drawn

/-- A leaf copy loses its parity. -/
def spoilCopy (m : SMap LeafCopy) (j : Nat) : SMap LeafCopy := SMap.set m j { SMap.get m j {} with good := false } {}

/-- Whether a leaf must be rebuilt: both copies bad, or both good and unequal (R339). -/
def State.leafLost (s : State) (j : Nat) : Bool :=
  let a := SMap.get s.tal.leafA j {}
  let b := SMap.get s.tal.leafB j {}
  (!a.good && !b.good) || (a.good && b.good && a.val ≠ b.val)

/-- A leaf read by the Tally: one bad copy is rewritten from the good one (R339). -/
def State.readLeaf (s : State) (j : Nat) : State :=
  let a := SMap.get s.tal.leafA j {}
  let b := SMap.get s.tal.leafB j {}
  if a.good = b.good then s
  else ((s.putLeaf j (if a.good then a.val else b.val)).count Reg.talRepair 31 16 1).repairEvent (j / 32) 0 j

/-- LEAF_REBUILD (R340): the unit's latch register answers, and both copies take it. -/
def execLeafRebuild (slot : Fin 12288) (s : State) : Out :=
  let j := slot.val
  let s1 := ((s.putLeaf j (SMap.get s.tal.latch j 0)).count Reg.talRepair 15 8 1).repairEvent (j / 32) 0 j
  s.when (s.hubOn && s.tal.rebuild.contains j)
    { s1 with tal := { s1.tal with rebuild := s1.tal.rebuild.filter (· ≠ j) } }

/-! ### The audit (R332–R336, R341) -/

/-- A leaf is parked while its unit's domain is powered down, and is unparked at the first strobe after power-up (R334, R338). -/
def State.parked (s : State) (l i : Nat) : Bool := s.tal.parked.contains (leafDom l i)

/-- A leaf as the audit takes it: a parked one reads 0. -/
def State.leafVal (s : State) (l i : Nat) : Nat := if s.parked l i then 0 else (SMap.get s.tal.leafA (32 * l + i) {}).val

/-- Whether a ledger misses the report of a leaf that is not parked. -/
def State.unreported (s : State) (l : Nat) : Bool :=
  (leavesOf l).any (fun i => !s.parked l i && !s.tal.reported.contains (leafStop l i))

/-- DEV of a ledger from its leaves (R332). -/
def State.devOf (s : State) (l : Nat) : Nat :=
  let v := fun i => s.leafVal l i % 2 ^ 32
  ((leavesOf l).foldl (fun a i => (a + (if bitOf (ledgerSign l) i then 2 ^ 32 - v i else v i)) % 2 ^ 32)
    (2 ^ 32 - ledgerExpect l)) % 2 ^ 32

/-- A discrepancy (R335). -/
def State.discrepancy (s : State) (l dev : Nat) : State :=
  let ep := (s.epoch + 2 ^ 32 - 1) % 2 ^ 32
  let leaves := (List.range 32).map (s.leafVal l)
  let s1 := ((s.count Reg.talDisc 31 0 1).wr Reg.talLast (2 ^ 31 + b2n s.tal.out * 2 ^ 30 + l)).wr Reg.talLastDev dev
  let s2 := s1.wr Reg.talLastEpoch ep
  let s3 := if s.tal.out then s2 else s2.setBit Reg.talStat 31 true
  s3.event 0x0701 (if s.tal.out then 3 else 6) l dev 0 ((if s.tal.out then [1] else []) ++ [ep] ++ leaves)

/-- One ledger at the deadline: audited, or skipped for a missing report, a rebuild without answer, an owner that was
off, or a sweep that has not passed (R333, R334, R340). -/
def State.auditLedger (s : State) (l : Nat) : State :=
  let info := fun (t : State) (aud : Bool) => (t.setBit (Reg.talLedgerInfo l) 30 aud).setBit (Reg.talLedgerInfo l) 29 (!aud)
  if s.tal.down.contains (leafDom l 0) then info s false
  else if s.unreported l then
    let k := min 3 (SMap.get s.tal.missing l 0 + 1)
    let s1 := { s with tal := { s.tal with missing := SMap.set s.tal.missing l k 0 } }
    let s2 := info (s1.count Reg.talMissing 31 0 1) false
    if k = 3 && SMap.get s.tal.missing l 0 = 2 then s2.event 0x0702 4 l (s.rd (Reg.talLedgerDev l)) else s2
  else
    let s1 := { s with tal := { s.tal with missing := SMap.erase s.tal.missing l } }
    if (l = 337 && !s.tal.sweepDone) || (leavesOf l).any (fun i => s.leafLost (32 * l + i)) then info s1 false
    else
      let dev := s.devOf l
      let s2 := (info s1 true).wr (Reg.talLedgerDev l) dev
      let s3 := s2.each (leavesOf l) (fun t i => t.wr (Reg.talLeaf (32 * l + i)) (t.leafVal l i))
      if dev ≠ 0 then s3.discrepancy l dev else s3

/-- A ledger node recomputed from its children outside its audit (R341). -/
def State.recompute (s : State) (k : Nat) : State :=
  let s1 := s.count Reg.talRepair 7 0 1
  if k < 384 then (s1.wr (Reg.talLedgerDev k) (s1.devOf k)).repairEvent k 1 k
  else if k < 408 then s1.repairEvent 0 2 (k - 384)
  else s1.repairEvent 0 3 0

/-- The sums of groups and root (R332). -/
def State.sumNodes (s : State) : State :=
  let dev := fun (t : State) l => t.rd (Reg.talLedgerDev l)
  let s1 := s.each (List.range 24) (fun t k =>
    let ds := (List.range 16).map (fun i => dev t (16 * k + i))
    (t.wr (Reg.talGroupDev k) (ds.sum % 2 ^ 32)).wr (Reg.talGroupBad k) (b2n (ds.any (· ≠ 0))))
  let sum := ((List.range 24).map (fun k => s1.rd (Reg.talGroupDev k))).sum % 2 ^ 32
  let bad := (List.range 24).any (fun k => s1.bit (Reg.talGroupBad k) 0)
  let n := ((List.range 384).filter (fun l => dev s1 l ≠ 0)).length
  let s2 := (s1.wr Reg.talRootDev sum).wr Reg.talRootBad (b2n bad)
  ((s2.setBit Reg.talStat 30 s.tal.out).setBit Reg.talStat 29 bad).setFld Reg.talStat 8 0 n

/-- TALLY_AUDIT (R332–R336, R339–R341): the Tally reads the leaves and, once no answer to a rebuild read is awaited or the
deadline has come, sums every level. `badA`, `badB` and `badNodes` are the copies and nodes (ledgers 0–383, groups 384–407,
root 408) whose parity fails. The first audit of a start that finds a leaf to rebuild asks its unit and waits for a second
one, the deadline (log entry 20). -/
def execTallyAudit (badA badB badNodes : List Nat) (s : State) : Out :=
  let inUse := fun j => decide (j % 32 < ledgerLeaves (j / 32))
  let s1 := { s with tal := { s.tal with
    leafA := (badA.filter inUse).foldl spoilCopy s.tal.leafA, leafB := (badB.filter inUse).foldl spoilCopy s.tal.leafB } }
  let touched := ((s1.tal.leafA.map Prod.fst) ++ (s1.tal.leafB.map Prod.fst)).dedup
  let s2 := s1.each touched (fun t j => t.readLeaf j)
  let lost := touched.filter s2.leafLost
  let s3 := { s2 with tal := { s2.tal with rebuild := (s2.tal.rebuild ++ lost).dedup, asked := true } }
  let s4 := s3.each (List.range 339) (fun t l => t.auditLedger l)
  let s5 := (s4.each (badNodes.filter (fun k => decide (k < 409))) (fun t k => t.recompute k)).sumNodes
  let s6 := s5.wr Reg.talEpochs (s5.rd Reg.talEpochs + 1)
  let s7 := { s6 with tal := { s6.tal with due := false, asked := false, sweepDone := false },
                      pw := { s6.pw with fwReady := if s6.pw.fwReady.contains 6 then s6.pw.fwReady else s6.pw.fwReady ++ [6] } }
  s.when (s.hubOn && s.tal.due)
    (if !s.bit Reg.talCtrl 0 then { s with tal := { s.tal with due := false } }
     else if !lost.isEmpty && !s.tal.asked then s3
     else s7)

/-! ### Destination stamps (R328) -/

/-- STAMP_IDLE_RETURN (R328): what was held unspent for a whole epoch goes back. -/
def execStampIdleReturn (stop dest : Fin 18) (s : State) : Out :=
  let d := dest.val
  let t := stop.val
  let n := SMap.get s.rnd.stampDue (18 * d + t) 0
  s.when (s.domOn domRnd && decide (0 < n) && decide (n ≤ s.stampHeld d t))
    ((s.setHeld d t (s.stampHeld d t - n)).setUsed d (s.stampUsed d - n))

/-- The epoch's turn for held stamps: what no request has spent since the last strobe is due (R328). -/
def State.stampEpoch (s : State) : State :=
  { s with rnd := { s.rnd with stampDue := s.rnd.stampIdle, stampIdle := s.rnd.stampHeld } }

end Sys2Proof.Machine
end

