-- ==== Sys2Proof/Machine/RegAccess.lean ====
section
/-!
DEFINITION. Register access: what each register shows, what a read or a write does (R16–R21, R267, R359 and the register
tables of every chapter).
-/
namespace Sys2Proof.Machine

/-! ### Values that other state decides -/

/-- Bits of a list of indices. -/
def bitSet (xs : List Nat) (n : Nat) : Nat := (List.range n).foldl (fun v k => if xs.contains k then v + 2 ^ k else v) 0

/-- DRAINED (R359): nothing of the inactive bank remains. -/
def State.drained (s : State) : Bool :=
  let old := fun (p : Pkt) => decide (p.repoch ≠ s.curBank)
  !s.rnd.net.any old && !s.rnd.inj.any (fun p => !p.isReq && old p) && !s.rnd.out.any (fun e => old e.2.pkt)

/-- Occupancy of a stop's Poste Restante buffer and of its outstanding table. -/
def State.prOcc (s : State) (t : Nat) : Nat := (s.rnd.pr.filter (fun h => h.pkt.dst = t)).length
def State.outOcc (s : State) (t : Nat) : Nat := (s.rnd.out.filter (fun e => decide (e.1 / 2048 = t))).length

/-- The stored word of an address. -/
def State.raw (s : State) (a : Nat) : Nat := (SMap.get s.regs a (BitVec.ofNat 32 (regResetAt a))).toNat

/-- FREE_BAYS and FREE_BP, FROZEN and EXCL of SO_STAT. -/
def State.soStatWord (s : State) : Nat :=
  let busy := s.so.bps.filter (fun e => e.2.pstate ≠ 0)
  let bays := 512 - ((busy.map (fun e => e.1 / 4)).dedup).length
  b2n s.so.exclRun.isSome * 2 ^ 23 + b2n s.frozen * 2 ^ 22 + bays * 2 ^ 12 + min 4095 (2048 - busy.length)

/-- The output state of a design I/O bank (R110): none for high impedance, else the levels driven. -/
def State.dioPins (s : State) (n j : Nat) : Option Nat :=
  let st := s.fld (Reg.dioBHold n j) 1 0
  let outs := match bankOf n j with | some k => (s.bank k).outs | none => 0
  if s.pw.safeZ then none
  else if !s.bankHeld n j then some outs
  else if st = 0 then some 0 else if st = 1 then some (2 ^ 48 - 1) else if st = 2 then some outs else none

/-- Registers of the hub whose value other state decides. After a loss, VBAT_OK is a free value: nothing tells when VBAT is
above its threshold again (log entry 52). -/
def State.viewHub (s : State) (a : Nat) : Option Nat :=
  if a = 0x10000 then some (s.readyVec % 2 ^ 32)
  else if a = 0x10004 then some (s.readyVec / 2 ^ 32)
  else if 0x31000 ≤ a ∧ a < 0x32800 then
    let l := (a - 0x31000) / 16
    if a % 16 = 0 then some (s.raw a % 2 ^ 31 + ledgerInfo l)
    else if a % 16 = 4 then some (ledgerExpect l)
    else if a % 16 = 8 then some (ledgerSign l) else none
  else if a = 0x10010 then some (putBits (s.raw a) 23 20 (match s.pw.chg with | some c => s.chgSteps c | none => 0))
  else if a = 0x40004 then some (putBits (s.raw a) 2 2 (b2n s.drained))
  else if 0x44000 ≤ a ∧ a < 0x44480 then
    let t := (a - 0x44000) / 64
    if a % 64 = 0xC then some (putBits (s.raw a) 6 0 (s.prOcc t))
    else if a % 64 = 0x18 then some (putBits (s.raw a) 11 0 (s.outOcc t)) else none
  else if 0x50100 ≤ a ∧ a < 0x50340 then
    let k := (a - 0x50100) / 64
    if a % 64 = 4 then some (s.raw a / 2 ^ 31 * 2 ^ 31 + b2n (s.lpIp4 k ≠ 0) * 2 ^ 30 + b2n (s.lpServing k) * 2 ^ 29)
    else if a % 64 = 8 then some (s.lpMac k % 2 ^ 32)
    else if a % 64 = 0xC then some (s.lpMac k / 2 ^ 32) else none
  else if 0x58000 ≤ a ∧ a < 0x60000 then
    let w := tktWord (s.tktNow ((a - 0x58000) / 8))
    some (if a % 8 = 0 then w % 2 ^ 32 else w / 2 ^ 32)
  else if a = 0x60434 then some (putBits (putBits (s.raw a) 0 0 (b2n s.fk.fuseKey.isSome)) 3 3 (b2n s.fk.bkeyForbid))
  else if a = 0x60438 then some (match s.fk.fuseKey with | some k => kcvOf k | none => 0)
  else if a = 0x60464 then some (putBits (s.raw a) 2 2 (b2n (s.fk.vbatOk || s.freeVal 2 = 1)))
  else if a = 0x60468 then some (match s.fk.bkey with | some k => kcvOf k | none => 0)
  else if 0x60484 ≤ a ∧ a < 0x604B4 then some (SMap.get s.fk.imgSlots (s.fld Reg.fkImgSel 1 0) 0 / 2 ^ (8 * (a - 0x60484)) % 2 ^ 32)
  else if a = 0x604B8 then some (s.raw a / 256 * 256 + bitSet s.fk.imgRevoked 4 * 16 + bitSet (SMap.keys s.fk.imgSlots) 4)
  else if 0x60504 ≤ a ∧ a < 0x60534 then some (SMap.get s.fk.fwSlots (s.fld Reg.fkFwSel 0 0) 0 / 2 ^ (8 * (a - 0x60504)) % 2 ^ 32)
  else if a = 0x60538 then some (s.raw a / 256 * 256 + bitSet s.fk.fwRevoked 2 * 16 + bitSet (SMap.keys s.fk.fwSlots) 2)
  else if a = 0x90014 then
    some ((match s.pw.pend with | some r => 256 + r.target % 16 * 16 | none => 0) + s.mode)
  else if 0x90100 ≤ a ∧ a < 0x90500 then
    let c := (a - 0x90100) / 256
    if a % 256 = 4 then some (putBits (s.raw a) 7 7 (b2n ((s.core c).haltReq.isSome && s.coreWaits c)))
    else if a % 256 = 0xC then some (s.coreReg c % 2 ^ 32)
    else if a % 256 = 0x10 then some (s.coreReg c / 2 ^ 32 % 2 ^ 32) else none
  else if a = 0x100004 then some s.soStatWord
  else if 0x100400 ≤ a ∧ a < 0x100540 then some (((vLoads s.so.bps).filter (fun k => k = (a - 0x100400) / 4)).length)
  else if inSoTable a then some (s.soWord (a - 0x100000))
  else if 0x200000 ≤ a ∧ a < 0x380000 then
    let c := if a < 0x300000 then 8 + (a - 0x200000) / 0x10000 else (a - 0x300000) / 0x10000
    if a % 0x10000 = 0x124 then
      let sel := s.rd (Reg.mcDlySel c)
      some (if 7 ≤ sel / 2 ^ 28 then 0 else SMap.get (s.mc c).delays sel 0)
    else none
  else none

/-- Registers of a tile window whose value other state decides. -/
def State.viewTile (s : State) (a : Nat) : Option Nat :=
  let n := winTile a
  let o := winOff a
  let runs := fun (sb : Bool) => s.domOn (domTile n) && s.bit (Reg.csCtrl n) 0 && !(s.sweepSet n sb).isEmpty
  if o = 4 then some (putBits (putBits (s.raw a) 0 0 (b2n (runs false))) 1 1 (b2n (runs true)))
  else if o = 0xA4 then
    let x := s.rd (Reg.csFrameSel n)
    let (y, e) := s.frameSyn n x
    let k := s.frameChk n x
    some (b2n (k / 2 ^ 14 ≠ chkOf [] x / 2 ^ 14) * 2 ^ 31 + e * 2 ^ 30 + y % 8192 * 2 ^ 17 + k)
  else if o = 0x10208 ∨ o = 0x10248 then
    let j := (o - 0x10208) / 64
    some (putBits (putBits (s.raw a) 1 1 (b2n (s.pw.safeZ && (bankOf n j).isSome))) 0 0 (b2n ((bankOf n j).isSome && s.bankHeld n j)))
  else if 0x20000 ≤ o ∧ o < 0x60000 ∧ 0x100 ≤ o % 0x1000 ∧ o % 0x1000 < 0x200 ∧ o % 64 = 0x10 then
    some (putBits (s.raw a) 31 31 (b2n (s.stepping (bpIx n ((o - 0x20000) / 0x1000) (o % 0x1000 / 64 - 4)))))
  else none

/-- The value a register shows: a peek (R18, R21). -/
def State.regView (s : State) (a : Nat) : Nat :=
  match (if inTile a then s.viewTile a else s.viewHub a) with
  | some v => v
  | none => if (regFind a).isSome then s.raw a else 0

/-! ### Reads -/

/-- A word stored at the address of a register. -/
def State.store (s : State) (a w : Nat) : State :=
  { s with regs := SMap.set s.regs a (BitVec.ofNat 32 w) (BitVec.ofNat 32 (regResetAt a)) }

/-- The side effect of a consume read (R21, R272): fields of type RC return to their reset values, Letterbox words are
taken. -/
def State.consume (s : State) (a : Nat) : State :=
  match regFind a with
  | none => s
  | some (d, _) =>
    let m := fieldMask d.fields .rc
    if m ≠ 0 then s.store a (mixBits m (s.raw a) d.rst)
    else if 0x90100 ≤ a ∧ a < 0x90500 ∧ a % 256 = 0x14 then s.lbTxTake ((a - 0x90100) / 256)
    else if 0x90100 ≤ a ∧ a < 0x90500 ∧ a % 256 = 0x18 then s.lbRxTake ((a - 0x90100) / 256)
    else s

/-- Whether an access to a register is refused: REGDATA of a core that is not halted (R261). -/
def State.regBarred (s : State) (a : Nat) : Bool :=
  decide (0x90100 ≤ a) && decide (a < 0x90500) && (a % 256 = 0xC || a % 256 = 0x10) && !s.halted ((a - 0x90100) / 256)

/-- A read of a register; none stands for a bus error. -/
def State.regRead (s : State) (a : Nat) (peek : Bool) : State × Option Nat :=
  if s.regBarred a then (s, none) else (if peek then s else s.consume a, some (s.regView a))

/-! ### Writes -/

/-- The word that a write leaves in a register by the types of its fields (R18, R19). -/
def fieldWrite (fs : List RegField) (old w : Nat) : Nat :=
  let v := mixBits (fieldMask fs .rw) old w
  let v1 := Nat.land v (Nat.xor (Nat.land (fieldMask fs .w1c) w) (2 ^ 32 - 1))
  Nat.lor v1 (Nat.land (fieldMask fs .w1s) w)

/-- A write with no more effect than its fields' types give it. -/
def State.plainWrite (s : State) (a w : Nat) : State :=
  match regFind a with
  | some (d, _) => s.store a (fieldWrite d.fields (s.raw a) w)
  | none => s

/-- First addresses of the writable pairs: their _LO rows (R17). -/
def pairBases : List Nat :=
  [0x90144, 0x1000020108, 0x1000020C00, 0x1000010400, 0x1000010408, 0x1C0004, 0x1C000C, 0x1C0014, 0x71008, 0x71010, 0x71018,
    0x200108, 0x300108]

/-- Whether an address is the _LO, or the _HI, of a writable pair. -/
def pairLo (a : Nat) : Bool := match regFind a with | some (d, _) => pairBases.contains d.base | none => false
def pairHi (a : Nat) : Bool := match regFind a with | some (d, _) => pairBases.contains (d.base - 4) && decide (4 ≤ d.base) | none => false

/-- A write of a writable pair (R17): _LO is staged, and _HI gives both their values through `f`. -/
def State.pairWrite (s : State) (a w : Nat) (f : State → Nat → Nat → State) : State :=
  if pairLo a then { s with loStage := SMap.put s.loStage a (BitVec.ofNat 32 w) }
  else
    let lo := match SMap.find s.loStage (a - 4) with | some v => v.toNat | none => s.raw (a - 4)
    f { s with loStage := SMap.erase s.loStage (a - 4) } lo w

/-- Both halves of a pair written by their fields. -/
def State.pairPlain (s : State) (a lo hi : Nat) : State := (s.plainWrite (a - 4) lo).plainWrite a hi

/-- A pair or a single register. -/
def State.anyWrite (s : State) (a w : Nat) : State :=
  if pairLo a || pairHi a then s.pairWrite a w (fun t lo hi => t.pairPlain a lo hi) else s.plainWrite a w

/-- ROUTING_SWITCH (R358, R359). -/
def State.routingSwitch (s : State) : State :=
  if s.drained then s.setBit Reg.rndEpoch 1 true else s.setBit Reg.rndEpoch 3 true

/-- A write of a routing entry (R359). -/
def State.routeWrite (s : State) (bank x y w : Nat) : State :=
  if (bank ≠ s.curBank && !s.drained) || w % 256 = 0 then s.setBit Reg.rndEpoch 3 true
  else s.wr (Reg.rndRt bank x y) (w % 512)

/-- A write of PM_WAKE_STAT.FAILED (R461). -/
def State.wakeRetry (s : State) : State :=
  if s.canWake && s.bit Reg.pmWakeStat 7 && !s.bit Reg.pmFault 24 then s.wakeRows else s

/-- A write of SP_Bb_CTRL (R480, R481): of its two fields, those that it changes. -/
def State.spCtrl (s : State) (b mid w : Nat) : State :=
  let st := if bitsOf w 25 24 = 3 then 2 else bitsOf w 25 24
  let ow := bitsOf w 15 8
  let s1 := if st ≠ s.fld (Reg.spBCtrl b) 25 24 then s.spWriteState b mid st
    else if mid ≠ s.spOwner b && mid ≠ 0x30 && s.spOwner b ≠ 0xFF then s.spForeign b else s
  if ow ≠ s.spOwner b then s1.spWriteOwner b mid ow else s1

/-- A write of IC_Rr_CTRL (R309, R310, R320). -/
def State.icCtrl (s : State) (r w : Nat) : State :=
  let s1 :=
    if s.rOn r then (if bitOf w 31 then s else s.regionDisable r)
    else
      let t := s.setFld (Reg.icRCtrl r) 1 0 (w % 4)
      if bitOf w 31 then (if t.enableOk r then t.regionEnable r else s.icRefused) else t
  let s2 := if bitOf w 30 then s1.regionZero r else s1
  if bitOf w 29 then s2.rekey r else s2

/-- A write of a trigger unit (chapter 07, Registers): while EN = 1 only EN changes. -/
def State.trgWrite (s : State) (u a w : Nat) : State :=
  let o := (a - 0x1C0000) % 64
  if o = 0 then
    if s.bit (Reg.trgCtrl u) 31 then (if bitOf w 31 then s else s.trigDisable u)
    else
      let t := s.plainWrite a (w % 2 ^ 31)
      if bitOf w 31 then t.trigEnable u else t.setFld (Reg.trgStat u) 28 26 0
  else if o = 0x28 then s.plainWrite a w
  else if s.bit (Reg.trgCtrl u) 31 then s
  else s.anyWrite a w

/-- A write in the Franking Unit's block; `mid` is the writing master (R154–R156, R268, R490). -/
def State.fkWrite (s : State) (mid a w : Nat) : State :=
  let act := fun (bit : Nat) (f : State → State) (t : State) => if bitOf w bit then t.fkAct mid f else t
  if a = 0x60400 then s.fkUnlock mid w
  else if 0x60410 ≤ a ∧ a < 0x60430 then
    { s with fk := { s.fk with fkeyStage := SMap.put s.fk.fkeyStage ((a - 0x60410) / 4) (BitVec.ofNat 32 w) } }
  else if 0x60440 ≤ a ∧ a < 0x60460 then
    { s with fk := { s.fk with bkeyStage := SMap.put s.fk.bkeyStage ((a - 0x60440) / 4) (BitVec.ofNat 32 w) } }
  else if a = 0x60430 then act 1 State.forbidBkey (act 0 State.fuseProg s)
  else if a = 0x60460 then act 1 State.bkeyErase (act 0 State.bkeyCommit s)
  else if 0x60484 ≤ a ∧ a < 0x604B4 then
    { s with fk := { s.fk with imgStage := SMap.put s.fk.imgStage ((a - 0x60484) / 4) (BitVec.ofNat 32 w) } }
  else if a = 0x604B4 then act 1 State.imgRevoke (act 0 State.imgProg s)
  else if 0x60504 ≤ a ∧ a < 0x60534 then
    { s with fk := { s.fk with fwStage := SMap.put s.fk.fwStage ((a - 0x60504) / 4) (BitVec.ofNat 32 w) } }
  else if a = 0x60534 then act 1 State.fwRevoke (act 0 State.fwProg s)
  else s.plainWrite a w

/-- A write in the debug block (R257, R259, R261, R270, R272). -/
def State.dbgWrite (s : State) (a w : Nat) : State :=
  if a = 0x90010 then s.dbgModeReq w
  else if 0x90100 ≤ a ∧ a < 0x90500 then
    let c := (a - 0x90100) / 256
    let o := a % 256
    if o = 0 then (s.plainWrite a w).coreCtrl c w
    else if o = 0xC then s.regdataWrite c false w
    else if o = 0x10 then s.regdataWrite c true w
    else if o = 0x14 then s.lbTxWrite c w
    else if o = 0x18 then s.lbRxWrite c w
    else s.anyWrite a w
  else if 0x90800 ≤ a ∧ a < 0x90840 ∧ a % 16 = 8 then s.wdtKick ((a - 0x90800) / 16) w
  else s.plainWrite a w

/-- A write of a memory controller's registers (R289, R290, R295, R303, R305). -/
def State.mcWrite (s : State) (a w : Nat) : State :=
  let c := if a < 0x300000 then 8 + (a - 0x200000) / 0x10000 else (a - 0x300000) / 0x10000
  let o := a % 0x10000
  if o = 0 then
    let v := s.bit (Reg.mcCtrl c) 2
    let t := if bitOf w 0 && !s.bit (Reg.mcCtrl c) 0 then s.setMc c { s.mc c with trn := [] } else s
    ((t.plainWrite a w).setBit (Reg.mcCtrl c) 2 v).spareEn c (bitOf w 2)
  else if o = 8 then s.spareWrite c w
  else if o = 0x100 then s.trainingOp c w
  else if o = 0x124 then s.delayWrite c w
  else if o = 0x128 then s.mrAccess c w
  else if o = 0x130 then
    let t := s.plainWrite a (Nat.land w 0x0FFFFFFF)
    let t1 := if bitOf w 28 then t.isolate c else t
    if bitOf w 29 then t1.isoRelease c else t1
  else s.anyWrite a w

/-- A write in a tile window's registers. -/
def State.tileWrite (s : State) (a w : Nat) : State :=
  let n := winTile a
  let o := winOff a
  if o = 0 then
    let t := s.plainWrite a (w % 2)
    if bitOf w 1 then t.scrubRestore n else t
  else if o = 0xA0 then s.plainWrite a (if 786432 ≤ w % 2 ^ 20 then 0 else w)
  else if o = 0x10000 then s.mcTarget n (w % 256)
  else if 0x10400 ≤ o ∧ o < 0x10600 then
    let k := (o - 0x10400) / 64
    if o % 64 = 0x10 then
      let t := s.plainWrite a (Nat.land w 0xDFFFFFFF)
      if bitOf w 29 then t.mmpFlush n k else t
    else if 0x20 ≤ o % 64 then (if s.bit (Reg.mmpCtrl n k) 31 && s.stepping (s.mmpBp n k) then s else s.plainWrite a w)
    else s.anyWrite a w
  else if 0x20000 ≤ o ∧ o < 0x60000 then
    let b := (o - 0x20000) / 0x1000
    let q := o % 0x1000
    let i := bpIx n b (q / 64 - 4)
    if 0x100 ≤ q ∧ q < 0x200 then
      if q % 64 = 0 then s.relOp i (w % 4)
      else if q % 64 = 8 ∨ q % 64 = 0xC then s.pairWrite a w (fun t lo hi => t.dccWrite i (lo + 2 ^ 32 * hi))
      else s.plainWrite a w
    else s.anyWrite a w
  else if o = 0x80000 then s.crOp n (w % 8) none
  else if 0x80040 ≤ o ∧ o < 0x80080 then (if s.crLink n = 0 then s.plainWrite a w else s)
  else s.anyWrite a w

/-- A 32-bit write to a register by master `mid` (R16–R19). -/
def State.regWrite (s : State) (mid a w : Nat) : State :=
  if inTile a then s.tileWrite a w
  else if a < 0x10000 then
    if a = 4 then (if bitOf w 7 then s.wakeRetry else s)
    else if a = 0x10 then (s.plainWrite a w).faultN
    else if a = 0x2C ∨ (0x40 ≤ a ∧ a < 0x80) then (s.plainWrite a w).showWake
    else s.plainWrite a w
  else if a = 0x20000 then
    let t := s.plainWrite a (w % 2 ^ 31)
    if bitOf w 31 then t.evFlushWrite else t
  else if a = 0x40004 then
    let t := s.plainWrite a (Nat.land w 8)
    if bitOf w 1 then t.routingSwitch else t
  else if 0x41000 ≤ a ∧ a < 0x43000 then
    let k := (a - 0x41000) % 0x1000
    if (regFind a).isSome then s.routeWrite ((a - 0x41000) / 0x1000) (k / 128) (k % 128 / 4) w else s
  else if 0x50100 ≤ a ∧ a < 0x50340 ∧ a % 64 = 0 then
    let k := (a - 0x50100) / 64
    let split := if k = 1 ∨ k = 5 then bitsOf w 27 26 else 0
    let v := putBits w 27 26 split
    if s.bit (Reg.vlLpCfg k) 31 then s.plainWrite a (putBits v 27 24 (s.fld (Reg.vlLpCfg k) 27 24)) else s.plainWrite a v
  else if 0x60000 ≤ a ∧ a < 0x70000 then s.fkWrite mid a w
  else if a = 0x70014 then s.icCrWrite 0 (BitVec.ofNat 32 w)
  else if 0x70018 ≤ a ∧ a < 0x70028 then s.icCrWrite ((a - 0x70014) / 4) (BitVec.ofNat 32 w)
  else if 0x71000 ≤ a ∧ a < 0x75000 then
    let r := (a - 0x71000) / 64
    if a % 64 = 0 then s.icCtrl r w
    else if 8 ≤ a % 64 ∧ a % 64 < 0x20 then (if s.rOn r then s else s.anyWrite a w)
    else s.plainWrite a w
  else if 0x80000 ≤ a ∧ a < 0x80100 then
    let b := (a - 0x80000) / 16
    if a % 16 = 0 then s.spCtrl b mid w
    else if a % 16 = 4 then (s.plainWrite a w).showWake else s.plainWrite a w
  else if 0x90000 ≤ a ∧ a < 0xA0000 then s.dbgWrite a w
  else if a = 0xA0004 then s.updConfirm w
  else if inSoTable a then s
  else if a = 0x100000 then
    let t := s.plainWrite a (w % 2)
    if bitOf w 1 then t.pmInval else t
  else if a = 0x100020 then s.psLimit w
  else if 0x1C0000 ≤ a ∧ a < 0x1C1000 then s.trgWrite ((a - 0x1C0000) / 64) a w
  else if 0x1C1000 ≤ a ∧ a < 0x1C5000 then (if s.bit (Reg.trgCtrl ((a - 0x1C1000) / 256)) 31 then s else s.plainWrite a w)
  else if 0x200000 ≤ a ∧ a < 0x380000 then s.mcWrite a w
  else s.plainWrite a w

end Sys2Proof.Machine
end

