-- ==== Sys2Proof/Machine/Endpoint.lean ====
section
/-!
DEFINITION. What an access does at its endpoint: registers, the Sorting Office's tables, scratchpad banks, the fabric's
frames, memories, slices and state slots, DRAM (R16, R20, R41, R123, R126, R171, R182, R350, R485).
-/
namespace Sys2Proof.Machine

/-- A write that enables every byte of its data. -/
def plainBem (n : Nat) (bem : Option Nat) : Bool := (List.range n).all (enabled bem)

/-! ### Registers and tables -/

/-- A register: 32 bits, aligned (R16); REGDATA of a core that runs is refused (R261). -/
def State.regAccess (s : State) (write peek : Bool) (a n mid : Nat) (data : List Byte) (bem : Option Nat) : Got :=
  if n ≠ 4 || a % 4 ≠ 0 || !plainBem n bem || s.regBarred a then { st := s, cause := 2 }
  else if write then { st := s.regWrite mid a (leNat data) }
  else
    let r := s.regRead a peek
    { st := r.1, data := leBytes 4 (r.2.getD 0) }

/-- The Sorting Office's tables: aligned words within one table; a write has no effect (R182). -/
def State.soAccess (s : State) (write : Bool) (a n : Nat) : Got :=
  if write then { st := s }
  else match soTable (a - 0x100000) with
    | some (lo, len) =>
      if a % 4 = 0 && n % 4 = 0 && decide (a - 0x100000 + n ≤ lo + len) then
        { st := s, data := (List.range (n / 4)).flatMap (fun j => leBytes 4 (s.soWord (a - 0x100000 + 4 * j))) }
      else { st := s, cause := 2 }
    | none => { st := s, cause := 2 }

/-! ### Scratchpad banks (R480–R485) -/

/-- The banks that a range reaches are on. -/
def State.spReady (s : State) (a n : Nat) : Bool :=
  inSp (a + n - 1) && s.domOn (domSp ((a - 0x10000000) / 0x800000)) && s.domOn (domSp ((a + n - 1 - 0x10000000) / 0x800000))

/-- Words of a range that hold double-bit errors. -/
def State.spBadIn (s : State) (a n : Nat) : List Nat := s.sp.bad.filter (fun w => decide (w < a + n) && decide (a < w + 8))

/-- A bad word is counted and reported. -/
def State.spFound (s : State) (w : Nat) : State := s.spUe ((w - 0x10000000) / 0x800000) w

/-- A read or a write of a bank. A write of part of a word that reads uncorrectable leaves it as it is and is refused. -/
def State.spAccess (s : State) (write : Bool) (a n : Nat) (data : List Byte) (bem : Option Nat) : Got :=
  if !s.spReady a n then { st := s, cause := 5 }
  else if write then
    let hit := (s.spBadIn a n).filter (fun w => coversSome a n bem w 8)
    let kept := hit.filter (fun w => !coversAll a n bem w 8)
    let s1 := s.each (List.range n) (fun t k =>
      if enabled bem k && !kept.any (fun w => decide (w ≤ a + k) && decide (a + k < w + 8)) then t.putByte (a + k) (data.getD k 0) else t)
    let s2 := { s1 with sp := { s1.sp with bad := s1.sp.bad.filter (fun w => !hit.contains w || kept.contains w) } }
    { st := s2.each kept State.spFound, cause := if kept.isEmpty then 0 else 3 }
  else
    match s.spBadIn a n with
    | [] => { st := s, data := s.bytes a n }
    | ws => { st := s.each ws State.spFound, cause := 3 }

/-! ### The fabric (R39–R41, R123, R126, R171) -/

/-- The bay-planes that an access to a memory, slice or state slot, or to a memory's owner or address register, concerns (R41, R134
and the registers under it). -/
def State.fabricBps (s : State) (a : Nat) : List Nat :=
  let n := winTile a
  let o := winOff a
  let mem := fun (deep : Bool) (j per : Nat) => ((s.memOwner n (j / per) deep (j % per)).map (bpIx n (j / per))).toList
  let own := fun (deep : Bool) (k : Nat) =>
    ((List.range 8).filterMap (fun j => s.memOwner n ((o - 0x20000) / 0x1000) deep (8 * k + j))).map (bpIx n ((o - 0x20000) / 0x1000))
  let adr := fun (deep : Bool) (m : Nat) => ((s.memOwner n ((o - 0x20000) / 0x1000) deep m).map (bpIx n ((o - 0x20000) / 0x1000))).toList
  if 0x20000 ≤ o ∧ o < 0x60000 then
    let q := o % 0x1000
    if 0x200 ≤ q ∧ q < 0x250 then own false ((q - 0x200) / 4)
    else if 0x250 ≤ q ∧ q < 0x258 then own true ((q - 0x250) / 4)
    else if 0x400 ≤ q ∧ q < 0x680 then adr false ((q - 0x400) / 4)
    else if 0x680 ≤ q ∧ q < 0x6C0 then adr true ((q - 0x680) / 4)
    else []
  else if 0x40000000 ≤ o ∧ o < 0x4A000000 then mem false ((o - 0x40000000) / 0x4000) 160
  else if 0x50000000 ≤ o ∧ o < 0x58000000 then mem true ((o - 0x50000000) / 0x20000) 16
  else if 0x60000000 ≤ o ∧ o < 0x60300000 then [bpIx n ((o - 0x60000000) / 256 / 192) (o % 256 / 64)]
  else if 0x70000000 ≤ o ∧ o < 0x70800000 then [256 * n + (o - 0x70000000) / 0x8000]
  else []

/-- Whether an access waits for the next exchange phase of a run that is within a design cycle (R41, R544). -/
def State.fabricWaits (s : State) (a : Nat) : Bool := inTile a && (s.fabricBps a).any s.inCycle

/-- Forms that memories and state slots take: any burst of 1 to 64 bytes inside 64 (R126). -/
def memForm (a n : Nat) : Bool := decide (1 ≤ n) && decide (a % 64 + n ≤ 64)

/-- An access to a window's frames, memories, slices or state. -/
def State.fabricAccess (s : State) (write : Bool) (a n mid : Nat) (data : List Byte) (bem : Option Nat) : Got :=
  let t := winTile a
  let o := winOff a
  if o < 0x40000000 then
    let f := (o - 0x10000000) / 512
    if !plainBem n bem then { st := s, cause := 2 }
    else if write then s.frameWrite t f mid (o % 512) data else s.frameRead t f (o % 512) n
  else if 0x60000000 ≤ o ∧ o < 0x60300000 then
    let i := bpIx t ((o - 0x60000000) / 256 / 192) (o % 256 / 64)
    let sl := (o - 0x60000000) / 256 % 192
    if !((n = 4 || n = 8) && a % n = 0 && plainBem n bem) then { st := s, cause := 2 }
    else if write then
      let s1 := s.putBytes a data
      { st := if o % 64 < 32 then s1.putSlice i sl (s1.slice i sl) else s }
    else { st := s, data := s.bytes a n }
  else if !memForm a n then { st := s, cause := 2 }
  else if 0x70000000 ≤ o then
    let i := 256 * t + (o - 0x70000000) / 0x8000
    let q := o % 0x8000
    if write then { st := s.each (List.range n) (fun u k => if enabled bem k then u.putSlotByte i (q + k) (data.getD k 0) else u) }
    else { st := s, data := (List.range n).map (fun k => s.slotByte i (q + k)) }
  else if write then { st := s.each (List.range n) (fun u k => if enabled bem k then u.putByte (a + k) (data.getD k 0) else u) }
  else { st := s, data := s.bytes a n }

/-! ### Any address -/

/-- A read or a write of a decoded address whose domain is on, performed at once. A byte-enable mask covers at most 64
data bytes (R350); a range of DRAM that leaves the decoded space is refused. -/
def State.access (s : State) (write peek : Bool) (a n mid : Nat) (data : List Byte) (bem : Option Nat) : Got :=
  if bem.isSome && decide (64 < n) then { st := s, cause := 2 }
  else if inSoTable a then s.soAccess write a n
  else if inRegs a || inTile a then
    let g := if inRegs a then s.regAccess write peek a n mid data bem else s.fabricAccess write a n mid data bem
    if write then { g with st := g.st.breakReservations mid a n } else g
  else if inSp a then
    let g := s.spAccess write a n data bem
    if write then { g with st := g.st.breakReservations mid a n } else g
  else if !s.decodes (a + n - 1) then { st := s, cause := 2 }
  else if write then s.dramWrite a data bem mid
  else s.dramRead a n mid

end Sys2Proof.Machine
end

