-- ==== Sys2Proof/Machine/Stops.lean ====
section
/-!
DEFINITION. The stops of the Rounds: dead letters, the outstanding tables, injection; accesses of engines that are made in
one step (R345–R347, R351, R354, R355, R358, R359, R362, R364).
-/
namespace Sys2Proof.Machine

/-! ### Dead letters (R364) -/

/-- RND_LASTERR loaded. -/
def State.loadLastErr (s : State) (kind dst mid stop : Nat) : State :=
  s.wr Reg.rndLasterr (2 ^ 31 + kind * 2 ^ 29 + dst % 32 * 2 ^ 24 + mid % 256 * 2 ^ 16 + stop % 32)

/-- A dead letter at a stop: the first of the epoch is loaded and recorded; a later one is a MERGE event with its LOC, CTX and
ADDR. -/
def State.deadLetter (s : State) (stop kind dst mid addr : Nat) : State :=
  let s1 := s.count (Reg.rndSDead stop) 31 0 1
  match SMap.find s.rnd.deadFirst stop with
  | some k => s1.event k.typ k.sev k.loc k.ctx k.addr [] true
  | none =>
    let key : EvKey := ⟨0x0802, 3, stop * 256 + dst, mid, addr⟩
    let s2 := (s1.loadLastErr kind dst mid stop).event 0x0802 3 (stop * 256 + dst) mid addr
    { s2 with rnd := { s2.rnd with deadFirst := SMap.put s2.rnd.deadFirst stop key } }

/-- A request that no block decodes, at its initiator's stop; it names no destination stop, so what the record shows for
one is a free value. -/
def State.noDecode (s : State) (stop mid addr : Nat) : State := (s.deadLetter stop 1 (s.freeVal 32) mid addr).drawn

/-! ### Injection (R354–R359) -/

/-- The lowest free entry of a stop's outstanding table. -/
def State.freeTagFrom (s : State) (stop : Nat) : Nat → Nat → Option Nat
  | _, 0 => none
  | g, n + 1 => if (SMap.find s.rnd.out (2048 * stop + g)).isSome then s.freeTagFrom stop (g + 1) n else some g
def State.freeTag (s : State) (stop : Nat) : Option Nat := s.freeTagFrom stop 0 2048

/-- What becomes of a request that an initiator makes. -/
inductive Inj where
  /-- no stamp is held or the table is full: the initiator waits (R327, R355) -/
  | waits
  /-- answered at the initiator's stop with CAUSE 1 (R345) -/
  | refused (p : Pkt)
  | sent
  deriving DecidableEq, Repr

/-- A request as its stop builds it. -/
def mkReq (stop dst mid tag addr : Nat) (write peek : Bool) (len : Nat) (data : List Byte) (bem : Option Nat) : Pkt :=
  { kind := if write then .writeReq else .readReq, age := initAge mid, src := stop, dst := dst, peek := !write && peek
    bem := if write then bem else none, mid := mid, tag := tag, len := len, addr := addr, data := if write then data else [] }

/-- ROUNDS injection: decode, an outstanding entry, a stamp, and the injection queue. -/
def State.inject (s : State) (stop mid addr : Nat) (write peek : Bool) (len : Nat) (data : List Byte) (bem : Option Nat)
    (origin : Origin) : State × Inj :=
  if !s.decodes addr then
    let q := mkReq stop stop mid 0 addr write peek len data bem
    (s.noDecode stop mid addr, .refused { q with kind := if write then .writeResp else .readResp, bem := none, data := [], status := 1, cause := 1 })
  else
    let dst := s.stopOf addr
    match s.freeTag stop with
    | none => (s, .waits)
    | some g =>
      if s.stampHeld dst stop = 0 then (s, .waits)
      else
        let p := mkReq stop dst mid g addr write peek len data bem
        let s1 := s.setHeld dst stop (s.stampHeld dst stop - 1)
        let s2 := { s1 with rnd := { s1.rnd with
          out := SMap.put s1.rnd.out (2048 * stop + g) { pkt := p, origin := origin } } }
        let r := Reg.rndSOut stop
        let s3 := s2.setFld r 27 16 (max (s2.fld r 27 16) (s2.outOcc stop))
        (s3.post p, .sent)

/-! ### Memory-model ports (R23, R138) -/

/-- Master ID of a port (R42). -/
def mmpMid (n k : Nat) : Nat := 0x40 + 8 * n + k

/-- Whether an address is inside the stack that tile Fn's page port reaches (R23). -/
def ownStack (n a : Nat) : Bool := decide (0x10000000000 ≤ a) && decide (a < 0x20000000000) && hbmStack a = n

/-- Address and length of the access that a port's open request makes: its line, or 32 bytes when the cache is bypassed (R138). -/
def State.mmpReach (s : State) (n k : Nat) (q : MmpReq) : Nat × Nat :=
  if s.bit (Reg.mmpCtrl n k) 30 then (s.mmpBase n k + q.addr / 32 * 32, 32) else (s.mmpBase n k + q.addr / 64 * 64, 64)

/-- A line that an open request would fetch is still on its way to memory (R138). -/
def State.mmpStale (s : State) (n k : Nat) (q : MmpReq) : Bool :=
  (s.mmp n k).wbs.any (fun l => l.addr = (s.mmpReach n k q).1 / 64 * 64)

/-- One request of a port injected at its tile's stop; `none`: the port waits for a stamp or a table entry. -/
def State.mmpSend (s : State) (n k a len : Nat) (write : Bool) (data : List Byte) (bem : Option Nat) (o : Origin) :
    Option (State × MmpTrip) :=
  let stop := stopOfTile n
  let tag := (s.freeTag stop).getD 0
  match s.inject stop (mmpMid n k) a write false len data bem o with
  | (t, .sent) => some (t, { tag := tag })
  | (t, .refused p) => some (t, { tag := 2048, answer := some (p.status, p.cause, []) })
  | (_, .waits) => none

/-- One request of a port goes to its own stack's controller through the page port (R23). -/
def State.portSend (s : State) (n k a len : Nat) (write : Bool) (data : List Byte) (bem : Option Nat) (o : Origin) : State :=
  let p := mkReq (stopOfTile n) (stopOfTile n) (mmpMid n k) 4096 a write false len data bem
  s.setMc n { s.mc n with port := (s.mc n).port ++ [{ pkt := p, port := some o, eff := p.age }] }

/-- A port's access goes on its way: through the page port once the stack's domain is on, with CAUSE 5 where that cannot be had, or
on the Rounds; `none`: it waits. -/
def State.mmpGo (s : State) (n k a len : Nat) (write : Bool) (data : List Byte) (bem : Option Nat) (o : Origin) : Option (State × MmpTrip) :=
  if !ownStack n a then s.mmpSend n k a len write data bem o
  else if s.domOn (domEdge n) then some (s.portSend n k a len write data bem o, { tag := 4096 })
  else if s.refuses (domEdge n) then some (s, { tag := 4096, answer := some (1, 5, []) })
  else none

/-- A port's open request and its oldest write-back go on their way (R23, R138). -/
def State.mmpIssue (s : State) (n k : Nat) : State :=
  let m := s.mmp n k
  let s1 := match m.pend with
    | some q =>
      let r := s.mmpReach n k q
      let direct := s.bit (Reg.mmpCtrl n k) 30
      if m.fill.isSome || s.mmpStale n k q then s
      else
        let w := direct && q.we
        match s.mmpGo n k r.1 r.2 w (if w then leBytes 32 q.wdata else []) (if w then some q.be else none) (.mmpFill n k) with
        | some (t, x) => t.setMmp n k { t.mmp n k with fill := some x }
        | none => s
    | none => s
  match m.wbs with
  | l :: _ =>
    if m.wb.isSome then s1
    else match s1.mmpGo n k l.addr 64 true l.data none (.mmpWb n k) with
      | some (t, x) => t.setMmp n k { t.mmp n k with wb := some x }
      | none => s1
  | [] => s1

/-! ### Accesses made in one step -/

/-- An access of an engine whose Rounds requests this model does not carry one by one: what the endpoint answers, with
CAUSE 1 where nothing decodes and CAUSE 5 where the domain is not on (R20, R462, R463). -/
def State.engineAccess (s : State) (stop mid a n : Nat) (write : Bool) (data : List Byte) : Got :=
  if !s.decodes a then { st := s.noDecode stop mid a, cause := 1 }
  else if !s.domOn (s.domOf a) then { st := s, cause := 5 }
  else s.access write false a n mid data none

end Sys2Proof.Machine
end

