-- ==== Sys2Proof/Machine/VlOps.lean ====
section
/-!
DEFINITION. The Vollor engine: opcodes, replies, the replay window, backlog, ticket entries (R376, R378, R380–R382,
R385–R393, R402–R405).
-/
namespace Sys2Proof.Machine

/-! ### Opcodes (chapter 14) -/

/-- The opcodes of each group: group and how many. -/
def opGroups : List (Nat × Nat) :=
  [(1, 8), (2, 3), (3, 7), (4, 10), (5, 5), (6, 5), (7, 9), (8, 8), (9, 3), (10, 4), (11, 3)]
def opListed (op : Nat) : Bool := opGroups.any (fun g => op / 256 = g.1 && decide (op % 256 < g.2))

/-- The largest reply payload of an opcode on a port with limit `l` (R408–R421). -/
def maxReply (op l : Nat) : Nat :=
  match op with
  | 0x0100 => l | 0x0101 => 32 | 0x0102 => 16 | 0x0103 => l | 0x0106 => 24
  | 0x0200 => 8 | 0x0202 => 80
  | 0x0303 => l | 0x0305 => l
  | 0x0400 => 2 | 0x0407 => 64 | 0x0409 => 512
  | 0x0500 => l - 8 | 0x0501 => 8 | 0x0502 => 1024 | 0x0503 => 256
  | 0x0600 => 2 | 0x0603 => l | 0x0604 => 24
  | 0x0700 => 2 | 0x0701 => 4 | 0x0705 => l | 0x0706 => 4 | 0x0707 => 784
  | 0x0803 => 16 | 0x0806 => 260
  | 0x0900 => l | 0x0902 => 48
  | 0x0A00 => 128
  | 0x0B00 => l - 8 | 0x0B01 => 8 | 0x0B02 => 4
  | _ => 0

/-- Opcodes that reserve a ticket entry at admission (R389). -/
def opReserves (op : Nat) : Bool := (0x0500 ≤ op && op ≤ 0x0504) || (0x0B00 ≤ op && op ≤ 0x0B02)

/-- Whether the ready bits that an opcode needs are set; `tile` is the request's tile operand (R403 step 7, R408–R421). -/
def State.opReady (s : State) (op tile : Nat) : Bool :=
  match op / 256 with
  | 1 => s.readyBit 0
  | 3 => s.readyBit 4 && (if op = 0x0300 ∨ op = 0x0303 ∨ op = 0x0304 then s.readyBit 7 else if 0x0305 ≤ op then s.readyBit 9 else true)
  | 4 => s.readyBit 7
  | 5 => s.readyBit 0
  | 6 => s.readyBit 0
  | 7 => s.readyBit 7
  | 8 => s.readyBit 9
  | 9 => s.readyBit 5
  | 10 =>
    if op = 0x0A00 then s.readyBit 0
    else if 8 ≤ tile then true
    else if op = 0x0A03 then s.readyBit (44 + tile) else s.readyBit (36 + tile)
  | _ => true

/-! ### Replies -/

/-- A reply to a request: header fields copied, the current mode, REPLY set (R376). -/
def State.replyOf (s : State) (q : VReq) (status : Nat) (payload : List Byte) (ticket aux : Nat) : VReply :=
  { port := q.port, peer := q.peer, flags := Nat.lor q.flags 1, opcode := q.opcode, client := q.client, seq := q.seq, status := status
    mode := s.mode, ticket := ticket, aux := aux, stream := q.stream, payload := payload }

/-- A reply joins the queue of its port. -/
def State.pushReply (s : State) (r : VReply) : State := { s with vl := { s.vl with replies := s.vl.replies ++ [r] } }

/-- A request stays with its handler: an allocation that it needs waits for a compaction (R188). -/
def State.keep (s : State) (q : VReq) : State := { s with vl := { s.vl with handed := q :: s.vl.handed } }

/-- A reserved ticket entry that no ticket took is free again (R389). -/
def State.dropResv (s : State) (q : VReq) : State :=
  match q.resv with
  | some i => { s with vl := { s.vl with tickets := SMap.set s.vl.tickets i { s.tkt i with resv := false } {} } }
  | none => s

/-- A reply made before any handler is reached: neither stored nor entered in the window (R382). -/
def State.turnAway (s : State) (q : VReq) (status : Nat) : State :=
  (s.dropResv q).pushReply { s.replyOf q status [] 0 0 with buf := true }

/-- A client. -/
def State.client (s : State) (c : Nat) : Client := SMap.get s.vl.clients c {}
def State.setClient (s : State) (c : Nat) (v : Client) : State :=
  { s with vl := { s.vl with clients := SMap.set s.vl.clients c v {} } }

/-- The bytes of an envelope with a reply (R376). -/
def VReply.envelope (r : VReply) : List Byte :=
  let head := leBytes 2 0x4C56 ++ leBytes 1 1 ++ leBytes 1 r.flags ++ leBytes 2 r.opcode ++ leBytes 1 r.status ++ leBytes 1 r.orig ++
    leBytes 1 r.client ++ leBytes 1 r.mode ++ leBytes 2 r.payload.length ++ leBytes 4 r.seq ++ leBytes 4 r.ticket ++ leBytes 4 r.aux ++
    leBytes 4 r.stream
  head ++ leBytes 4 (crc32c (head ++ r.payload)) ++ r.payload

/-- A duplicate's answer: the stored reply with STATUS DUPLICATE, sent to where the duplicate came from (R375, R381). -/
def dupOf (r : VReply) (q : VReq) (buf : Bool) : VReply :=
  { r with port := q.port, peer := q.peer, status := stDuplicate, orig := r.status, buf := buf, thenReset := false }

/-- A handler's reply: stored in the window slot of its SEQ, sent, and the duplicates held for it answered (R381, R382). -/
def State.sendReply (s : State) (q : VReq) (r : VReply) : State :=
  let cl := s.client q.client
  let slots := cl.slots.map (fun w => if w.seq = q.seq then { w with reply := some { r with thenReset := false } } else w)
  let mine := fun (d : VReq) => d.client = q.client && d.seq = q.seq
  let s1 := (s.setClient q.client { cl with slots := slots }).pushReply { r with buf := true }
  let s2 := { s1 with vl := { s1.vl with heldDup := s1.vl.heldDup.filter (fun d => !mine d) } }
  s2.each (s.vl.heldDup.filter mine) (fun t d => t.pushReply (dupOf r d false))

/-- A direct answer; the payload goes out with OK and ACCEPTED, and with the statuses of the access groups (R404). -/
def State.answer (s : State) (q : VReq) (status : Nat) (payload : List Byte) : State :=
  (s.dropResv q).sendReply q (s.replyOf q status payload 0 0)

/-- ACCEPTED with the handle of ticket entry i. -/
def State.accept (s : State) (q : VReq) (i : Nat) (payload : List Byte) : State :=
  s.sendReply q (s.replyOf q stAccepted payload (s.handle i) 0)

/-- A handler's BUSY: nothing has changed, the reply is not stored, and its SEQ is again never passed (R382). A duplicate held
for it is answered BUSY too (log entry 22). -/
def State.handlerBusy (s : State) (q : VReq) (retry : Nat) : State :=
  let cl := s.client q.client
  let mine := fun (d : VReq) => d.client = q.client && d.seq = q.seq
  let r := { s.replyOf q stBusy [] 0 retry with buf := true }
  let s1 := ((s.dropResv q).setClient q.client { cl with slots := cl.slots.filter (fun w => w.seq ≠ q.seq) }).pushReply r
  let s2 := { s1 with vl := { s1.vl with heldDup := s1.vl.heldDup.filter (fun d => !mine d) } }
  s2.each (s.vl.heldDup.filter mine) (fun t d => t.pushReply { r with port := d.port, peer := d.peer, buf := false })

/-- RETRY_US of a request that finds no ticket entry free (R388): the time to the next reclaim, a free value from 10 to
1,000,000; exactly 1,000,000 when no entry holds work that has ended. -/
def State.ticketRetry (s : State) : Nat :=
  if s.vl.tickets.any (fun e => e.2.used && decide (2 ≤ e.2.state)) then 10 + s.freeVal 999991 else 1000000

/-- A ticket entry found for a request, or BUSY. -/
def State.withTicket (s : State) (q : VReq) (f : Nat → State) : State :=
  match s.tktFree with
  | some i => f i
  | none => (s.handlerBusy q s.ticketRetry).drawn

/-! ### Backlog (R391) -/

/-- Bytes of an envelope with a payload of `n` bytes. -/
def envBytes (n : Nat) : Nat := 32 + n

/-- Requests admitted and not yet answered. -/
def State.unanswered (s : State) : List VReq :=
  s.vl.intake ++ s.vl.handed ++ s.vl.heldDup ++ s.vl.owed ++
    (s.vl.jobs.filter (fun (e : Nat × Job) => !e.2.deferred && !e.2.cancelled)).map (fun (e : Nat × Job) => e.2.req) ++
    s.cr.flatMap (fun (t : Nat × CrTile) => t.2.groups.filterMap (fun (g : Nat × CrGroup) => g.2.retire))

/-- The reply backlog of a logical port. -/
def State.backlog (s : State) (k : Nat) : Nat :=
  ((s.vl.replies.filter (fun r => r.port = k)).map (fun r => envBytes r.payload.length)).sum +
  ((s.unanswered.filter (fun q => q.port = k)).map (fun q => envBytes (maxReply q.opcode (s.lpLimit k q.v6)))).sum

/-! ### Ticket entries (R388) -/

/-- The next generation of an entry, skipping 0. -/
def nextGen (g : Nat) : Nat := if 65535 ≤ g then 1 else g + 1

/-- An entry is reclaimed: its word reads 0, and its generation advances. -/
def State.reclaim (s : State) (i : Nat) : State := s.setTkt i { gen := nextGen (s.tkt i).gen }

/-- TICKET_RECLAIM (R388): an ended ticket has been held for TICKET_HOLD seconds. -/
def execTicketReclaim (index : Fin 4096) (s : State) : Out :=
  s.when (s.hubOn && (s.tkt index).used && decide (2 ≤ (s.tkt index).state)) (s.reclaim index)

/-! ### Handlers -/

/-- The handler of a client's oldest dispatched request, when the request bears the row's opcode (R383, R403). -/
def State.serve (s : State) (client op : Nat) (ok : VReq → Bool) (f : State → VReq → State) : Out :=
  match s.vl.handed.find? (fun q => q.client = client) with
  | some q => s.when (s.hubOn && q.opcode = op && ok q) (f { s with vl := { s.vl with handed := s.vl.handed.erase q } } q)
  | none => .next s

/-- TICKET, AUX and STREAM are zero where R376 requires it (R402). -/
def hdrOk (q : VReq) : Bool :=
  q.ticket = 0 && (q.aux = 0 || q.opcode = 0x0602) && (q.stream = 0 || (0x0601 ≤ q.opcode && q.opcode ≤ 0x0604))

/-- Steps 8 and 9 of R403: the mode, then the payload's length, ranges and reserved parts. -/
def State.checked (s : State) (q : VReq) (modes : List Nat) (good : Bool) (f : State) : State :=
  if !modes.contains s.mode then s.answer q stBadState []
  else if !good || !hdrOk q then s.answer q stBadParam []
  else f

/-- A run of bytes that shall be zero. -/
def zeroAt (p : List Byte) (o n : Nat) : Bool := leAt p o n = 0

/-- Modes of most groups. -/
def allModes : List Nat := [2, 3, 5, 6, 7, 8, 9, 10, 11]

end Sys2Proof.Machine
end

