-- ==== Sys2Proof/Machine/Jobs.lean ====
section
/-!
DEFINITION. The debug access engine and the access jobs of the Vollor engine: pieces, their outcomes, replies and deferred
tickets (R251, R253, R255, R388, R389, R406, R412, R413, R421).
-/
namespace Sys2Proof.Machine

/-! ### The debug access engine (R251, R253) -/

/-- The engine takes the access at the head of its queue: by its private path, or as one Rounds request. A TAP access to
a domain that is off receives a bus error and wakes nothing. -/
def State.dbgStart (s : State) : State :=
  match s.dbg.queue with
  | [] => s
  | a :: _ =>
    let go := fun (t : State) (o : Option (Nat × Nat × Nat)) => { t with dbg := { t.dbg with busy := true, outcome := o } }
    if s.dbg.busy then s
    else if privatePath a.addr then go s none
    else if !s.domOn domRnd || (a.tap && s.decodes a.addr && !s.domOn (s.domOf a.addr)) then go s (some (1, 5, 0))
    else
      match s.inject 0 0x30 a.addr a.write (!a.consume) 4 (if a.write then leBytes 4 a.data else []) none .debug with
      | (t, .sent) => go t none
      | (t, .refused p) => go t (some (p.status, p.cause, 0))
      | (t, .waits) => t

/-- An access joins the engine's queue. -/
def State.dbgQueue (s : State) (a : DbgAcc) : State :=
  ({ s with dbg := { s.dbg with queue := s.dbg.queue ++ [a] } }).dbgStart

/-! ### Jobs (R413, R421) -/

def State.job (s : State) (id : Nat) : Option Job := SMap.find s.vl.jobs id
def State.setJob (s : State) (id : Nat) (j : Job) : State := { s with vl := { s.vl with jobs := SMap.put s.vl.jobs id j } }
def State.dropJob (s : State) (id : Nat) : State := { s with vl := { s.vl with jobs := SMap.erase s.vl.jobs id } }

/-- The pieces of a range, each ending at a 256-byte boundary: address and length. -/
def cutRange : Nat → Nat → Nat → List (Nat × Nat)
  | 0, _, _ => []
  | n + 1, a, len => if len = 0 then [] else
      let k := min len (256 - a % 256)
      (a, k) :: cutRange n (a + k) (len - k)

/-- Kinds whose pieces follow one another. -/
def jobSeq (k : JobKind) : Bool := k = .readList || k = .writeList || k = .dbgRead || k = .dbgWrite || k = .dbgCore
def jobWrites (k : JobKind) : Bool := k = .write || k = .writeList || k = .fill || k = .dbgWrite || k = .dbgCore
def jobLists (k : JobKind) : Bool := k = .readList || k = .writeList

/-- A piece's outcome recorded. -/
def setPiece (j : Job) (i : Nat) (f : JobPiece → JobPiece) : Job :=
  { j with pieces := j.pieces.mapIdx (fun k p => if k = i then f p else p) }

/-- Pieces under way, and whether one has failed. -/
def inFlight (j : Job) : Nat := (j.pieces.filter (fun p => p.issued && p.outcome.isNone)).length
def pieceBad (p : JobPiece) : Bool := match p.outcome with | some o => o.1 ≠ 0 | none => false
def jobBad (j : Job) : Bool := !jobLists j.kind && (j.bad.isSome || j.pieces.any pieceBad)

/-- The bytes of a FILL at an offset: its 8-byte pattern repeated from the first byte of the range. -/
def fillBytes (pattern off n : Nat) : List Byte := (List.range n).map (fun k => BitVec.ofNat 8 (pattern / 256 ^ ((off + k) % 8)))

/-- A FILL makes its pieces as it goes, up to 64 at once; a cancelled one stops at a 64 KiB boundary (R407). -/
def fillGrow (j : Job) : Nat → Job
  | 0 => j
  | n + 1 =>
    if j.kind ≠ .fill || j.len ≤ j.nextOff || jobBad j || (j.cancelled && j.nextOff % 65536 = 0) || 64 ≤ j.pieces.length then j
    else
      let a := j.addr + j.nextOff
      let k := min (256 - a % 256) (min (65536 - j.nextOff % 65536) (j.len - j.nextOff))
      fillGrow { j with nextOff := j.nextOff + k, pieces := j.pieces ++ [{ addr := a, len := k, wdata := fillBytes j.pattern j.nextOff k }] } n

/-- The next piece to issue. -/
def nextPiece (j : Job) : Option Nat :=
  if (jobSeq j.kind && 0 < inFlight j) || 64 ≤ inFlight j || jobBad j then none
  else (List.range j.pieces.length).find? (fun i => !(j.pieces.getD i { addr := 0, len := 0 }).issued)

/-- Pieces issued while the job may issue them. -/
def State.jobIssue (s : State) (id : Nat) : Nat → State
  | 0 => s
  | n + 1 =>
    match s.job id with
    | none => s
    | some j =>
      match nextPiece j with
      | none => s
      | some i =>
        let p := j.pieces.getD i { addr := 0, len := 0 }
        let issued := setPiece j i (fun x => { x with issued := true })
        if j.kind = .dbgRead || j.kind = .dbgWrite || j.kind = .dbgCore then
          (s.setJob id issued).dbgQueue
            { tap := false, write := j.kind ≠ .dbgRead, consume := j.consume, addr := p.addr, data := leNat p.wdata, job := id, piece := i }
        else
          match s.inject 0 0x08 p.addr (jobWrites j.kind) false p.len p.wdata none (.job id i) with
          | (t, .sent) => (t.setJob id issued).jobIssue id n
          | (t, .refused r) =>
            (t.setJob id (setPiece issued i (fun x => { x with outcome := some (r.status, r.cause) }))).jobIssue id n
          | (_, .waits) => s

/-- The bytes before the first piece in address order that did not succeed, with its outcome. -/
def firstBad : List JobPiece → Nat × Option (Nat × Nat)
  | [] => (0, none)
  | p :: ps => match p.outcome with
    | some (0, _) => let r := firstBad ps; (p.len + r.1, r.2)
    | some o => (0, some o)
    | none => (0, none)

/-- The status that a Rounds outcome gives (R413). -/
def statusOf (o : Option (Nat × Nat)) : Nat :=
  match o with
  | none => stOk
  | some (st, c) => if st = 2 then stTimeout else if st = 0 then stOk else if c = 4 then stIntegrity else stBusError

/-- A value that a failed entry of READ_LIST shows is a free value. -/
def State.listEntry (s : State) (k : Nat) (p : JobPiece) : List Byte :=
  let o := p.outcome.getD (0, 0)
  let v := if o.1 = 0 then leNat p.rdata else Config.free (s.draw + k) % 2 ^ 32
  leBytes 4 v ++ leBytes 1 o.1 ++ leBytes 1 o.2 ++ leBytes 2 0

/-- Status and payload of a finished job. -/
def State.jobReply (s : State) (j : Job) : Nat × List Byte :=
  let r := firstBad j.pieces
  let head := leBytes 4 r.1 ++ leBytes 1 ((r.2.getD (0, 0)).1) ++ leBytes 1 ((r.2.getD (0, 0)).2) ++ leBytes 2 0
  match j.kind with
  | .readList => (stOk, (j.pieces.mapIdx (fun k p => s.listEntry k p)).flatten)
  | .writeList => (stOk, j.pieces.flatMap (fun p => let o := p.outcome.getD (0, 0); leBytes 1 o.1 ++ leBytes 1 o.2 ++ leBytes 2 0))
  | .read => (statusOf r.2, head ++ if r.2.isNone then j.pieces.flatMap (fun p => p.rdata) else [])
  | .dbgRead => (statusOf r.2, head ++ if r.2.isNone then j.pieces.flatMap (fun p => p.rdata) else [])
  | .write => (statusOf r.2, head)
  | .dbgWrite => (statusOf r.2, head)
  | .dbgCore => (statusOf r.2, leBytes 4 (s.rd (Reg.dbgCStat (leAt j.req.payload 0 1))))
  | .fill => (match j.bad with | some b => statusOf (some b.2) | none => stOk, [])

/-- A job has ended: a direct answer, or the end of its ticket with the payload as result data (R389, R406). -/
def State.jobEnd (s : State) (id : Nat) (j : Job) : State :=
  let r := s.jobReply j
  let s1 := { s.dropJob id with draw := s.draw + j.pieces.length }
  if j.cancelled then s1
  else if j.kind = .fill then s1.tktEnd j.ticket (if r.1 = 0 then 2 else 3) r.1
  else if j.deferred then (s1.tktData j.ticket r.2).tktEnd j.ticket (if r.1 = 0 then 2 else 3) r.1
  else s1.answer j.req r.1 r.2

/-- A FILL gives up the pieces at the front that have succeeded, and notes the first failure. -/
def fillShrink (j : Job) : Job :=
  let front := j.pieces.takeWhile (fun p => match p.outcome with | some (0, _) => true | _ => false)
  let left := j.pieces.drop front.length
  let sum := j.doneBytes + (front.map (fun p => p.len)).sum
  let bad := match j.bad, left.head?.bind (fun p => p.outcome) with
    | some b, _ => some b
    | none, some o => some (sum, o.1, o.2)
    | none, none => none
  { j with pieces := left, doneBytes := sum, bad := bad }

/-- 256-byte pieces completed, or 64 KiB written (R406). -/
def jobProgress (j : Job) : Nat :=
  if j.kind = .fill then j.doneBytes / 65536 else (j.pieces.filter (fun p => p.outcome.isSome)).length

/-- A job goes on: it ends when no piece is under way and none is to come. -/
def State.jobStep (s : State) (id : Nat) : State :=
  match s.job id with
  | none => s
  | some j0 =>
    let j := if j0.kind = .fill then fillGrow (fillShrink j0) 64 else j0
    let s1 := (s.setJob id j).jobIssue id (j.pieces.length + 1)
    match s1.job id with
    | none => s1
    | some k =>
      let k' := if k.kind = .fill then fillShrink k else k
      let ended := inFlight k' = 0 && (jobBad k' || k'.pieces.all (fun p => p.outcome.isSome)) &&
        (k'.kind ≠ .fill || jobBad k' || k'.len ≤ k'.nextOff || (k'.cancelled && k'.nextOff % 65536 = 0))
      let s2 := if (k'.deferred || k'.kind = .fill) && !k'.cancelled then s1.tktProgress k'.ticket (jobProgress k') 0 else s1
      if ended then (s2.setJob id k').jobEnd id k' else s2.setJob id k'

/-- A piece of a job has its outcome. -/
def State.pieceDone (s : State) (id i status cause : Nat) (data : List Byte) : State :=
  match s.job id with
  | none => s
  | some j =>
    (s.setJob id (setPiece j i (fun p => { p with outcome := some (status, cause), rdata := data }))).jobStep id

/-- A FILL names its pieces from its first undone byte; the piece with a given address. -/
def State.pieceAt (s : State) (id i addr : Nat) : Nat :=
  match s.job id with
  | some j => if j.kind = .fill then ((List.range j.pieces.length).find? (fun k => (j.pieces.getD k { addr := 0, len := 0 }).addr = addr)).getD i else i
  | none => i

/-- The engine, every job and every memory-model port that waited for a stamp or a table entry try again. -/
def State.pump (s : State) : State :=
  ((s.each (SMap.keys s.vl.jobs) (fun t id => t.jobStep id)).dbgStart).each (SMap.keys s.fab.mmps) (fun t x => t.mmpIssue (x / 8) (x % 8))

/-! ### Responses delivered to their initiators -/

/-- A response reaches the initiator that made the request. -/
def State.deliver (s : State) (o : Origin) (p : Pkt) : State :=
  match o with
  | .master => { s with rnd := { s.rnd with delivered := SMap.put s.rnd.delivered p.mid p } }
  | .job id i => s.pieceDone id (s.pieceAt id i p.addr) p.status p.cause p.data
  | .debug => { s with dbg := { s.dbg with outcome := some (p.status, p.cause, leNat (p.data.take 4)) } }
  | .mmpFill n k => s.setMmp n k { s.mmp n k with fill := (s.mmp n k).fill.map (fun x => x.take p) }
  | .mmpWb n k => s.setMmp n k { s.mmp n k with wb := (s.mmp n k).wb.map (fun x => x.take p) }

/-! ### DEBUG_ACCESS_COMPLETE (R253, R255) -/

/-- The outcome of an access by the private path: STATUS, CAUSE, data. -/
def State.privateAccess (s : State) (a : DbgAcc) : State × (Nat × Nat × Nat) :=
  let g := s.regAccess a.write (!a.consume) a.addr 4 0x30 (leBytes 4 a.data) none
  (g.st, (if g.cause = 0 then 0 else 1, g.cause, leNat g.data))

/-- The outcome goes to the TAP's registers, or to the Vollor engine's job. -/
def State.dbgLatch (s : State) (a : DbgAcc) (o : Nat × Nat × Nat) : State :=
  if a.tap then
    { s with dbg := { s.dbg with
      tapStatus := if o.1 = 0 then 0 else o.1 + 1, tapAddr := a.addr
      tapData := if !a.write && o.1 = 0 then o.2.2 else s.dbg.tapData } }
  else s.pieceDone a.job a.piece o.1 o.2.1 (leBytes 4 o.2.2)

/-- DEBUG_ACCESS_COMPLETE: the access in progress ends; the engine takes the next. -/
def execDebugAccessComplete (s : State) : Out :=
  match s.dbg.queue with
  | [] => .next s
  | a :: rest =>
    let clear := fun (t : State) => { t with dbg := { t.dbg with queue := t.dbg.queue.drop 1, busy := false, outcome := none } }
    if !s.dbg.busy || rest.length + 1 ≠ s.dbg.queue.length then .next s
    else if privatePath a.addr && s.dbg.outcome.isNone then
      let r := s.privateAccess a
      .next (((clear r.1).dbgLatch a r.2).dbgStart)
    else
      match s.dbg.outcome with
      | some o => .next (((clear s).dbgLatch a o).dbgStart)
      | none => .next s

/-! ### The TAP's access commands (R255) -/

/-- Capture-DR loads the outcome of the latest access. -/
def State.dbgaccShift (s : State) : State := { s with dbg := { s.dbg with captured := s.dbgaccCapture } }

/-- Update-DR starts an access: ignored while one of the TAP's own is in progress, refused when misaligned. -/
def State.dbgaccStart (s : State) (a : DbgAcc) : State :=
  let s1 := s.dbgaccShift
  if s.dbg.queue.any (fun x => x.tap) then s1
  else if a.addr % 4 ≠ 0 then { s1 with dbg := { s1.dbg with tapStatus := 2 } }
  else s1.dbgQueue a

/-- DBGACC_POLL, DBGACC_READ, DBGACC_WRITE: scans of the register that TAP_DBGACC has selected. -/
def execDbgaccPoll (s : State) : Out := s.when (s.pw.aon && s.dbg.ir = 8) s.dbgaccShift
def execDbgaccRead (addr : BitVec 48) (consume : Bool) (s : State) : Out :=
  s.when (s.pw.aon && s.dbg.ir = 8) (s.dbgaccStart { tap := true, write := false, consume := consume, addr := addr.toNat })
def execDbgaccWrite (addr : BitVec 48) (data : Word) (s : State) : Out :=
  s.when (s.pw.aon && s.dbg.ir = 8) (s.dbgaccStart { tap := true, write := true, addr := addr.toNat, data := data.toNat })

/-! ### Stamp batches (R328) -/

/-- STAMP_BATCH (R328): a grant of 8, up to 64 held; or a return of unspent stamps. Initiators that waited go on. -/
def execStampBatch (stop dest : Fin 18) (grant : Bool) (count : Fin 65) (s : State) : Out :=
  let d := dest.val
  let t := stop.val
  let n := count.val
  if grant then
    s.when (s.domOn domRnd && n = 8 && decide (s.stampHeld d t + n ≤ 64) && decide (s.stampUsed d + n ≤ destSize d))
      ((s.setHeld d t (s.stampHeld d t + n)).setUsed d (s.stampUsed d + n)).pump
  else
    s.when (s.domOn domRnd && decide (n ≤ s.stampHeld d t)) ((s.setHeld d t (s.stampHeld d t - n)).setUsed d (s.stampUsed d - n))

end Sys2Proof.Machine
end

