-- ==== Sys2Proof/Machine/Rounds.lean ====
section
/-!
DEFINITION. The Rounds' commands: injection, arrival and delivery, Poste Restante, responses, timeouts, returned requests,
ageing, links (chapter 12; R41).
-/
namespace Sys2Proof.Machine

/-! ### Links (R365, R366) -/

/-- Whether a packet has come over the link out of stop x last, and still stands in the input buffer it reached. -/
def onLink (x g d : Nat) (p : Pkt) : Bool := p.start ≠ p.goal && !p.nak && p.ring = g && p.dir = d && p.pos = stopNext x d

/-- Whether a packet stands in the retry buffer of the link out of stop x (R365, R366). -/
def inRetry (x g d : Nat) (p : Pkt) : Bool := p.nak && p.ring = g && p.dir = d && p.pos = x

/-- The latest packet on a link is replayed: it has not left the sender's retry buffer (R365). -/
def State.nakLast (s : State) (x g d : Nat) : State :=
  match s.rnd.net.reverse.find? (onLink x g d) with
  | some p => { s with rnd := { s.rnd with net := s.rnd.net.map (fun q => if q = p then { p with pos := x, nak := true } else q) } }
  | none => s

/-- LINK_NAK (R365): a replay is counted; after 8 NAKs of one flit, or 64 in an epoch, the link retrains. -/
def execLinkNak (stop : Fin 18) (ring : Fin 8) (dir : Fin 2) (s : State) : Out :=
  let x := stop.val
  let k := 16 * x + 2 * ring.val + dir.val
  let r := SMap.get s.rnd.nakRun k 0 + 1
  let m := SMap.get s.rnd.naks k 0 + 1
  let train := decide (8 ≤ r) || decide (64 ≤ m)
  let s1 := s.count (Reg.rndSRetry x) 31 0 1
  let s2 := ({ s1 with rnd := { s1.rnd with
    nakRun := SMap.set s1.rnd.nakRun k (if train then 0 else r) 0
    naks := SMap.set s1.rnd.naks k (if train then 0 else m) 0 } }).nakLast x ring.val dir.val
  s.when (s.domOn domRnd && !s.linkDown x ring.val dir.val)
    (if train then s2.setBit (Reg.rndSLink x) (16 + 2 * ring.val + dir.val) true else s2)

/-- LINK_RETRAIN_COMPLETE (R365, R366): a link that fails loses the packets on it. -/
def execLinkRetrainComplete (stop : Fin 18) (ring : Fin 8) (dir : Fin 2) (ok : Bool) (s : State) : Out :=
  let x := stop.val
  let g := ring.val
  let d := dir.val
  let s1 := (s.setBit (Reg.rndSLink x) (16 + 2 * g + d) false).setBit (Reg.rndSLink x) (2 * g + d) (!ok)
  let s2 := s1.event 0x0803 6 (x * 256 + (if d = 0 then x + 1 else x + 17) % 18) 0
  s.when (s.domOn domRnd && s.linkDown x g d)
    (if ok then s1.settle else { s2 with rnd := { s2.rnd with net := s2.rnd.net.filter (fun p => !inRetry x g d p) } })

/-! ### Delivery at the endpoint -/

/-- An accepted request reaches its endpoint: a controller's inbox, a hold for the next exchange phase, or its answer. -/
def State.serveReq (s : State) (q : Pkt) : State :=
  let wide := q.bem.isSome && decide (64 < q.len)
  if 0x10000000000 ≤ q.addr && s.decodes (q.addr + q.len - 1) && !wide then
    let c := s.mcOf q.addr
    s.setMc c { s.mc c with inbox := (s.mc c).inbox ++ [{ pkt := q, eff := q.age }] }
  else if s.fabricWaits q.addr && !wide then { s with rnd := { s.rnd with fabHeld := s.rnd.fabHeld ++ [q] } }
  else
    let g := s.access (q.kind = .writeReq) q.peek q.addr q.len q.mid q.data q.bem
    g.st.respond q g.cause g.data

/-- Resume notices go to every stop that a stop has returned requests to (R362). -/
def State.resumeAll (s : State) (t : Nat) : State :=
  let mine := s.rnd.returnedTo.filter (fun k => k / 18 = t)
  let note := fun (k : Nat) =>
    let rd := s.ringDir s.curBank t (k % 18) 0 0
    ({ kind := .resume, src := t, dst := k % 18, repoch := s.curBank, mid := 0, len := 0, addr := 0, ring := rd.1, dir := rd.2 } : Pkt)
  ({ s with rnd := { s.rnd with
    returnedTo := s.rnd.returnedTo.filter (fun k => k / 18 ≠ t), inj := s.rnd.inj ++ mine.map note } }).settle

/-- The stop behind which a domain lies: banks behind stop 0, the rest behind their tile (R360). -/
def stopOfDom (d : Nat) : Nat :=
  if isSpDom d then 0 else if isBayDom d then stopOfTile ((d - 0x200) / 64) else if d < 8 then stopOfTile d else stopOfTile (d - 8)

/-- The requests held for a domain leave the buffer, in order of arrival, through `f` (R360). -/
def State.prRelease (s : State) (d : Nat) (f : State → Pkt → State) : State :=
  let mine := s.rnd.pr.filter (fun h => h.dom = d)
  let s1 := { s with rnd := { s.rnd with pr := s.rnd.pr.filter (fun h => h.dom ≠ d) } }
  s1.each mine (fun t h => f t h.pkt)

/-- A domain that wakes on demand is on: what is held for it goes to it, and notices go out. -/
def State.prDeliver (s : State) (d : Nat) : State :=
  if onDemand d then (s.prRelease d State.serveReq).resumeAll (stopOfDom d) else s

/-- A domain that cannot be had: what is held for it is answered with CAUSE 5, and notices go out at once (R462). -/
def State.prRefuse (s : State) (d : Nat) : State :=
  if onDemand d then (s.prRelease d (fun t q => t.respond q 5 [])).resumeAll (stopOfDom d) else s

/-! ### Arrival of requests (R349, R360–R362) -/

/-- A request enters the Poste Restante buffer of its stop and asks for its domain's wake, or, the buffer being full, is
returned. -/
def State.holdReq (s : State) (q : Pkt) (d : Nat) : State :=
  let t := q.dst
  if s.prOcc t < 64 then
    let h : HeldPkt := { pkt := q, dom := d }
    let s1 := { s with rnd := { s.rnd with pr := s.rnd.pr ++ [h] } }
    let s2 := s1.setFld (Reg.rndSPr t) 14 8 (max (s1.fld (Reg.rndSPr t) 14 8) (s1.prOcc t))
    if (s.dom d).ph = 0 then s2.setDom d { s.dom d with wanted := true } else s2
  else
    let k := 18 * t + q.src
    let r : Pkt := { q with kind := .returned, back := true, dir := (s.ringDir q.repoch t q.src q.addr q.mid).2 }
    ({ s with rnd := { s.rnd with
      returnedTo := if s.rnd.returnedTo.contains k then s.rnd.returnedTo else s.rnd.returnedTo ++ [k] } }).post r

/-- A request at its destination stop. -/
def State.arrive (s : State) (q : Pkt) : State :=
  let t := q.dst
  if !q.back && decide (destSize t ≤ s.accepted t) then
    let s1 := (s.count Reg.talOverrun 31 0 1).event 0x0704 6 (306 + t) 0
    s1.post (s1.responseOf q 1 7 [])
  else
    let s1 := if q.back then s else { s with rnd := { s.rnd with accepted := SMap.set s.rnd.accepted t (s.accepted t + 1) 0 } }
    let d := s.domOf q.addr
    if (s.dom d).ph = 3 then (s1.domStay d).serveReq q
    else if s.domOn d then s1.serveReq q
    else if s.refuses d then s1.respond q 5 []
    else s1.holdReq q d

/-- Whether one packet leaves the rings before another that it stands in front of: out of one buffer, in one class, or in the
order of R347. -/
def ahead (q p : Pkt) : Bool :=
  (q.isReq = p.isReq && q.ring = p.ring && q.dir = p.dir && q.pos = p.pos && q.goal = p.goal) || (q.isReq && p.isReq && sameOrder q p)

/-- A packet of the rings by its place, when it has reached the stop where it leaves them and none is ahead of it. -/
def State.netAt (s : State) (i : Nat) (kinds : List PktKind) : Option Pkt :=
  match s.rnd.net[i]? with
  | some p =>
    if s.domOn domRnd && kinds.contains p.kind && p.pos = p.goal && !p.nak && !(s.rnd.net.take i).any (fun q => ahead q p)
    then some p else none
  | none => none

/-- A packet taken off the rings; its entries are free, and packets behind it move up. -/
def State.takeNet (s : State) (i : Nat) : State :=
  ({ s with rnd := { s.rnd with net := s.rnd.net.eraseIdx i } }).settle

/-- ROUNDS_REQUEST_INJECT (R345): a core's load-reserve takes a reservation of its 64-byte granule; its store-conditional
ends it, and is not made without one (R269; log entry 22). A request comes from a master of the stop (R42), from no core that
is off or halted (R258), and carries the peek attribute for the debug domain alone (R21). -/
def execRoundsRequestInject (stop : Fin 18) (mid : Byte) (addr : BitVec 48) (write peek : Bool) (len : Fin 257) (data : List Byte)
    (bem : Option (BitVec 64)) (excl : Bool) (s : State) : Out :=
  let c := mid.toNat
  let runs := decide (4 ≤ c) || (s.coreOn c && !s.halted c)
  let a := addr.toNat
  let core := excl && decide (c < 4)
  let held := decide ((s.core c).reservation = some (a / 64 * 64))
  let s1 := if core then s.setCore c { s.core c with reservation := if write then none else some (a / 64 * 64) } else s
  let r := s1.inject stop.val c a write peek len.val data (bem.map BitVec.toNat) .master
  s.when (s.domOn domRnd && atStop c stop.val && runs && s.unitLive c stop.val && (!peek || c = 0x30) && decide (0 < len.val) && (!write || data.length = len.val))
    (if core && write && !held then s1
     else match r with
       | (_, .waits) => s
       | (t, .refused p) => t.deliver .master p
       | (t, .sent) => t)

/-- ROUNDS_REQUEST_ARRIVAL (R349). -/
def execRoundsRequestArrival (index : Nat) (s : State) : Out :=
  match s.netAt index [.readReq, .writeReq] with
  | some p => .next ((s.takeNet index).arrive p)
  | none => .next s

/-- HELD_FABRIC_ACCESS (R41): the run has reached an exchange phase, or holds the bay-plane no longer. -/
def execHeldFabricAccess (index : Nat) (s : State) : Out :=
  match s.rnd.fabHeld[index]? with
  | some q => s.when (!s.fabricWaits q.addr && !(s.rnd.fabHeld.take index).any (sameOrder q))
      (({ s with rnd := { s.rnd with fabHeld := s.rnd.fabHeld.eraseIdx index } }).serveReq q)
  | none => .next s

/-! ### Responses (R355–R357) -/

/-- An entry of an outstanding table is free again; what waited for it goes on. -/
def State.freeEntry (s : State) (k : Nat) : State := { s with rnd := { s.rnd with out := SMap.erase s.rnd.out k } }

/-- ROUNDS_RESPONSE_ARRIVAL (R357, R364). -/
def execRoundsResponseArrival (index : Nat) (s : State) : Out :=
  match s.netAt index [.readResp, .writeResp] with
  | some p =>
    let k := 2048 * p.dst + p.tag
    let s1 := s.takeNet index
    match SMap.find s.rnd.out k with
    | some e =>
      if e.late then .next (((s1.freeEntry k).count (Reg.rndSLate p.dst) 31 0 1).settle.pump)
      else .next (((s1.freeEntry k).deliver e.origin p).settle.pump)
    | none => .next (s1.deadLetter p.dst 2 p.dst p.mid p.addr)
  | none => .next s

/-- ROUNDS_TIMEOUT (R356): a synthesised response; the entry stays until the late response, or its release. -/
def execRoundsTimeout (stop : Fin 18) (tag : Fin 2048) (s : State) : Out :=
  let t := stop.val
  let k := 2048 * t + tag.val
  match SMap.find s.rnd.out k with
  | some e =>
    let p := e.pkt
    let s1 := ((s.count (Reg.rndSTo t) 31 0 1).loadLastErr 0 p.dst p.mid t).event 0x0801 4 (t * 256 + p.dst) p.mid p.addr
    let s2 := { s1 with rnd := { s1.rnd with out := SMap.put s1.rnd.out k { e with late := true } } }
    s.when (s.domOn domRnd && !e.late) ((s2.deliver e.origin (s2.responseOf p 2 0 [])).settle.pump)
  | none => .next s

/-- OUTSTANDING_ENTRY_RELEASE (R357): no late response came. -/
def execOutstandingEntryRelease (stop : Fin 18) (tag : Fin 2048) (s : State) : Out :=
  let k := 2048 * stop.val + tag.val
  match SMap.find s.rnd.out k with
  | some e => s.when (s.domOn domRnd && e.late) ((s.freeEntry k).settle.pump)
  | none => .next s

/-! ### Waiting (R352, R362) -/

/-- The effective age class of the request or block at a place of a controller's inputs and queues rises (R280). -/
def McSt.ageRise (m : McSt) (i : Nat) : McSt :=
  let up := fun (v : Nat) => min 15 (v + 1)
  let a := m.inbox.length
  let b := a + m.port.length
  let c := b + m.reads.length
  let at' := fun (o : Nat) (l : List McReq) => l.mapIdx (fun k q => if k + o = i then { q with eff := up q.eff } else q)
  let on := fun (o : Nat) (l : List McBlk) => l.mapIdx (fun k q => if k + o = i then { q with age := up q.age } else q)
  { m with inbox := at' 0 m.inbox, port := at' a m.port, reads := on b m.reads, writes := on c m.writes }
def McSt.waiting (m : McSt) : Nat := m.inbox.length + m.port.length + m.reads.length + m.writes.length

/-- The controllers' inputs and queues as one list, controller by controller (R280). -/
def mcsAgeRise : Nat → SMap McSt → SMap McSt
  | _, [] => []
  | i, (c, m) :: r => if i < m.waiting then (c, m.ageRise i) :: r else (c, m) :: mcsAgeRise (i - m.waiting) r

/-- PACKET_AGE_RISE (R352, R280): what waits at a stop, in an injection queue or on the rings, or in a memory controller. -/
def execPacketAgeRise (index : Nat) (s : State) : Out :=
  let up := fun (p : Pkt) => { p with age := min 15 (p.age + 1) }
  let n := s.rnd.inj.length
  let m := n + s.rnd.net.length
  if m ≤ index then .next { s with mcs := mcsAgeRise (index - m) s.mcs }
  else s.when (s.domOn domRnd)
    (if index < n then { s with rnd := { s.rnd with inj := s.rnd.inj.mapIdx (fun k p => if k = index then up p else p) } }
     else { s with rnd := { s.rnd with net := s.rnd.net.mapIdx (fun k p => if k + n = index then up p else p) } })

/-- RETURNED_REQUEST (R362): back at the head of its injection queue, and the destination held back. -/
def execReturnedRequest (index : Nat) (s : State) : Out :=
  match s.netAt index [.returned] with
  | some p =>
    let k := 18 * p.src + p.dst
    let s1 := (s.takeNet index).count (Reg.rndSPr p.src) 31 16 1
    .next { s1 with rnd := { s1.rnd with
      inj := { p with kind := if p.data.isEmpty then .readReq else .writeReq, waited := 0 } :: s1.rnd.inj
      blocked := if s1.rnd.blocked.contains k then s1.rnd.blocked else s1.rnd.blocked ++ [k] } }
  | none => .next s

/-- RESUME_NOTICE (R362, R364). -/
def execResumeNotice (index : Nat) (s : State) : Out :=
  match s.netAt index [.resume] with
  | some p =>
    let k := 18 * p.dst + p.src
    let s1 := s.takeNet index
    .next (if s.rnd.blocked.contains k then ({ s1 with rnd := { s1.rnd with blocked := s1.rnd.blocked.filter (· ≠ k) } }).settle
      else s1.deadLetter p.dst 2 p.src p.mid p.addr)
  | none => .next s

/-- ROUTING_SWITCH, ROUTING_TABLE_WRITE. -/
def execRoutingSwitch (s : State) : Out := s.when (s.domOn domRnd) s.routingSwitch
def execRoutingTableWrite (bank : Fin 2) (x y : Fin 18) (word : Word) (s : State) : Out :=
  s.when (s.domOn domRnd) (s.routeWrite bank.val x.val y.val word.toNat)

end Sys2Proof.Machine
end

