-- ==== Sys2Proof/Machine/Mmp.lean ====
section
/-!
DEFINITION. Memory-model ports at memory: fills, uncached accesses and write-backs, through the page port or on the Rounds (R23,
R136–R139, R141); the tick edge, at which they take their requests.
-/
namespace Sys2Proof.Machine

/-- TICK_EDGE (R85, R136): the requests that miss go on their way. -/
def execTickEdge (n : Tile) (b : Bay) (s : State) : Out :=
  let t : Nat := n
  let s1 := (s.tickEdge t b).each ((List.range 8).filter (fun k => s.mmpBay t k = b.val)) (fun u k => u.mmpIssue t k)
  s.when ((s.bay n b).phase = .captured && s.ioTickReady n b) s1

/-- A fill or an access that ends in error: RDATA 0, ERR, STAT.ERR and the event. UE after an uncorrectable read is a free
value (log entry 1). -/
def State.mmpError (s : State) (n k cause addr : Nat) : State :=
  let ue := decide (cause = 3) && s.freeVal 2 = 1
  (((s.drawn.setBit (Reg.mmpStat n k) 1 true).event 0x020A 4 (tileLoc n (s.mmpBay n k) (s.mmpBp n k % 4) 0)
    (s.bpRec (s.mmpBp n k)).run addr).mmpRespond n k 0 true ue)

/-- A line put in the cache as the most recently used of its set; a dirty victim goes to be written back (R138). -/
def State.mmpPut (s : State) (n k : Nat) (l : MmpLine) : State :=
  let m := s.mmp n k
  let set' := m.lines.filter (fun x => x.addr / 64 % 128 = l.addr / 64 % 128)
  match (if set'.length < 4 then none else set'.getLast?) with
  | none => s.setMmp n k { m with lines := l :: m.lines }
  | some v => s.setMmp n k { m with
      lines := l :: m.lines.filter (fun x => x.addr ≠ v.addr), wbs := if v.dirty then m.wbs ++ [s.mmpLeaves n k v] else m.wbs }

/-- The answer to a port's open request, whichever way it went: CAUSE 0 and STATUS 0, or an error (R136–R139). -/
def State.mmpAnswer (s : State) (n k : Nat) (q : MmpReq) (bad : Bool) (cause : Nat) (data : List Byte) : State :=
  let a := (s.mmpReach n k q).1
  if bad then s.mmpError n k cause a
  else if s.bit (Reg.mmpCtrl n k) 30 then s.mmpRespond n k (if q.we then 0 else leNat data) false false
  else
    let l : MmpLine := { addr := q.addr / 64 * 64, data := data, dirty := false }
    (s.mmpPut n k l).mmpHit n k q l

/-- A port whose access has not gone yet tries again; a stack of its own that is off is asked to wake. -/
def State.mmpRetry (s : State) (n k a : Nat) : State :=
  if ownStack n a && !s.domOn (domEdge n) && !s.refuses (domEdge n) then s.domWake (domEdge n) else s.mmpIssue n k

/-- MMP_FILL_COMPLETE (R23, R137–R139): memory has answered a miss or an uncached request: through the page port, inside the tile's
own stack; otherwise on the Rounds, by a response or a timeout. -/
def execMmpFillComplete (n : Tile) (k : Fin 8) (s : State) : Out :=
  let t := n.val
  let p := k.val
  match (s.mmp t p).pend with
  | none => .next s
  | some q =>
    match (s.mmp t p).fill with
    | some x => match x.answer with
      | some (st, cause, data) => s.when (s.domOn (domTile t)) ((s.mmpAnswer t p q (st ≠ 0) cause data).mmpFlushTry t p |>.mmpIssue t p)
      | none => .next s
    | none => s.when (s.domOn (domTile t)) (s.mmpRetry t p (s.mmpReach t p q).1)

/-- MMP_WRITEBACK_COMPLETE (R23, R138, R139): the oldest dirty line is written; on an error its data is lost. -/
def execMmpWritebackComplete (n : Tile) (k : Fin 8) (s : State) : Out :=
  let t := n.val
  let p := k.val
  match (s.mmp t p).wbs with
  | [] => .next s
  | l :: rest =>
    let done := fun (u : State) (bad : Bool) =>
      let v := u.setMmp t p { u.mmp t p with wbs := rest, wb := none }
      (if bad then (v.setBit (Reg.mmpStat t p) 2 true).event 0x020A 4 (tileLoc t (s.mmpBay t p) (s.mmpBp t p % 4) 0)
        (s.bpRec (s.mmpBp t p)).run l.addr else v).mmpIssue t p
    match (s.mmp t p).wb with
    | some x => match x.answer with
      | some (st, _, _) => s.when (s.domOn (domTile t)) (done s (st ≠ 0))
      | none => .next s
    | none => s.when (s.domOn (domTile t)) (s.mmpRetry t p l.addr)

end Sys2Proof.Machine
end

