-- ==== Sys2Proof/Machine/Domains.lean ====
section
/-!
DEFINITION. Power domains: power-down, isolation, wakes, idle power-down, the wake table's checks and retries, fail bits
(R45–R47, R206, R337, R360–R362, R459–R464, R483).
-/
namespace Sys2Proof.Machine

/-! ### Power-down (R46, R206, R337, R464) -/

/-- A bay with no page and no reservation for IDLE_EPOCHS epochs, outside modes 8 and 10 (R206, R464). -/
def State.bayIdleDue (s : State) (n b : Nat) : Bool :=
  (s.dom (domBay n b)).ph = 2 && s.mode ≠ 8 && s.mode ≠ 10 && decide (bitsOf s.so.pol.sched 15 8 ≤ SMap.get s.so.bayIdle (bayIx n b) 0) &&
    (List.range 4).all (fun p => (s.bpRec (bpIx n b p)).pstate = 0)

/-- A tile whose bays have been off for TILE_IDLE epochs, with no link, bank or trigger slot in use (R464). -/
def State.tileIdleDue (s : State) (n : Nat) : Bool :=
  (s.dom (domTile n)).ph = 2 && s.mode ≠ 8 && s.mode ≠ 10 && decide (max 1 (s.fld Reg.pmDomCfg 7 0) ≤ (s.tile n).idle) &&
    s.childrenOff (domTile n) && s.crLink n = 0 &&
    (List.range 2).all (fun j => (bankOf n j).isNone || !s.bit (Reg.dioBCfg n j) 31) &&
    (List.range 16).all (fun k => !s.bit (Reg.tcTslot n k) 31)

/-- Whether a domain's power-down is due: a bay or a tile by idleness, a bank by its owner's STATE. -/
def State.downDue (s : State) (d : Nat) : Bool :=
  if isBayDom d then s.bayIdleDue ((d - 0x200) / 64) ((d - 0x200) % 64)
  else if isSpDom d then (s.dom d).ph = 2 && s.fld (Reg.spBCtrl (d - 0x400)) 25 24 ≠ 2
  else if d < 8 then s.tileIdleDue d else false

/-- Step 1 of a power-down begins: the domain's units issue no new requests. -/
def State.downBegin (s : State) (d : Nat) : State :=
  if isSpDom d then s.spDown (d - 0x400) else s.setDom d { s.dom d with ph := 3 }

/-- DOMAIN_POWER_DOWN (R337). -/
def execDomainPowerDown (d : Dom) (s : State) : Out := s.when (s.downDue (domCode d)) (s.downBegin (domCode d))

/-- BAY_IDLE_POWER_DOWN (R206), TILE_IDLE_POWER_DOWN (R464). -/
def execBayIdlePowerDown (n : Tile) (b : Bay) (s : State) : Out :=
  s.when (s.bayIdleDue n.val b.val) (s.downBegin (domBay n.val b.val))
def execTileIdlePowerDown (n : Tile) (s : State) : Out := s.when (s.tileIdleDue n.val) (s.downBegin (domTile n.val))

/-- Step 1 of R337 is complete. -/
def State.downDrained (s : State) (d : Nat) : Bool := s.unitsDrained d && s.childrenOff d

/-- Isolation, and the removal of the supplies (R46 steps 2 and 3); a request that waits wakes the domain again. -/
def State.isolateDom (s : State) (d : Nat) : State :=
  let r := s.dom d
  let s1 := if d < 8 then s.stampsHome d else s
  let s2 := if isSpDom d then s1.spDownEnd (d - 0x400) else s1.domOff d
  if r.wanted then s2.domWake d else s2

/-- Whether a bay holds a page or is reserved for one. -/
def State.bayHolds (s : State) (d : Nat) : Bool :=
  isBayDom d && s.so.bps.any (fun e => e.2.pstate ≠ 0 && domBay (bpTile e.1) (bpBay e.1) = d)

/-- DOMAIN_ISOLATION (R46); a bay that a page has been given to meanwhile stays on (R47). -/
def execDomainIsolation (d : Dom) (s : State) : Out :=
  s.when ((s.dom (domCode d)).ph = 3 && s.downDrained (domCode d))
    (if s.bayHolds (domCode d) then s.domStay (domCode d) else s.isolateDom (domCode d))

/-! ### Wakes (R361, R459, R460, R462) -/

/-- DOMAIN_WAKE_REQUEST (R361): the first packet held for a domain starts its wake row, its parents' first. -/
def execDomainWakeRequest (d : Dom) (s : State) : Out :=
  let c := domCode d
  s.when ((s.dom c).ph = 0 && s.rnd.pr.any (fun h => h.dom = c) && !s.refuses c) (s.domWake c)

/-- The retired target that firmware keeps in the settings is written to a controller that comes up (R304, R502). -/
def State.spareFailed (s : State) (c : Nat) : State :=
  match SMap.find s.settings (if c < 8 then 0x30 + c else 0x38 + (c - 8)) with
  | some v => s.setFld (Reg.mcSpare c) 20 16 (leAt v 0 4)
  | none => s

/-- A domain row has passed: the domain is on, and what waited for it goes on. -/
def State.domRowPass (s : State) (d : Nat) : State :=
  if isSpDom d then
    let s1 := s.spRowPass (d - 0x400)
    if s1.domOn d then s1.prDeliver d else s1
  else
    let s0 := s.domUp d
    let s1 := if d < 8 && (s0.mode = 8 || s0.modeHolds) then s0.holdApply d else s0
    let s2 := if 22 ≤ d && d < 30 then s1.spareFailed (d - 22)
      else if 16 ≤ d && d < 22 then (s1.spareFailed (8 + 2 * (d - 16))).spareFailed (9 + 2 * (d - 16))
      else if 8 ≤ d && d < 16 then s1.crUp (d - 8) else s1
    s2.prDeliver d

/-- A LINK_CONFIG that waits for a CRn domain which cannot be had fails with BUS_ERROR (log entry 22). -/
def State.crWaitFail (s : State) (n : Nat) : State :=
  if (s.crt n).waitOp.isSome then
    let s1 := s.tktEnd? (s.crt n).ticket 3 stBusError
    s1.setCrt n { s1.crt n with waitOp := none, ticket := none }
  else s

/-- The row of a domain has failed three times (R462): its fail bit, PM_FAULT.WAKE and the event; what is held for it and
for its children is answered. -/
def State.domRowFail (s : State) (d : Nat) : State :=
  let s1 := ((s.setDom d {}).setFail d true).setBit Reg.pmFault 6 true
  let s2 := (s1.faultN.showWake).event 0x0107 6 (domLoc d) s.mode
  let kids := (s2.rnd.pr.map (fun h => h.dom)).dedup.filter (fun k => (domParents k).contains d)
  let s3 := if 8 ≤ d && d < 16 then s2.crWaitFail (d - 8) else if d < 8 then s2.crWaitFail d else s2
  s3.each (d :: kids) (fun t k => t.prRefuse k)

/-- A domain row's check: a pass, or a failed attempt. -/
def State.domCheck (s : State) (d : Nat) (pass : Bool) : State :=
  let r := s.dom d
  if pass then s.domRowPass d
  else if r.attempts < 3 then s.setDom d { r with waiting := true }
  else s.domRowFail d

/-- A W row has passed, and the next one starts (R459); after W6 the boot ROM runs. -/
def State.wPass (s : State) (row : Nat) : State :=
  match row with
  | 1 => { s with pw := { s.pw with crystal := true } }.startRow 2 1
  | 2 => { s with pw := { s.pw with mpClock := true } }.startRow 3 1
  | 3 => if s.pw.cold && s.fld Reg.pmWakeCfg 11 8 = 4 then (s.setFld Reg.pmStat 11 4 0).setMode 4 else s.startRow 4 1
  | 4 => s.hubUp.startRow 5 1
  | 5 => (s.setDom domRnd { ph := 2 }).startRow 6 1
  | 6 => s.bootBegin
  | _ => s

/-- WAKE_ROW_CHECK (R459–R462): `pass` is what the check finds within its limit. -/
def execWakeRowCheck (row : WakeRow) (pass : Bool) (s : State) : Out :=
  match row with
  | .w r => s.when (s.pw.aon && s.mode = 1 && decide (1 ≤ r.val) && s.fld Reg.pmStat 11 4 = r.val && !s.pw.wWait && !s.bit Reg.pmStat 12)
      (if pass then s.wPass r.val else s.rowFail r.val)
  | .dom d =>
    let c := domCode d
    s.when ((s.dom c).ph = 1 && !(s.dom c).waiting && (!isSpDom c || !s.bit (Reg.spBStat (c - 0x400)) 29)) (s.domCheck c pass)

/-- WAKE_ROW_RETRY (R460): the wait between attempts has ended. -/
def execWakeRowRetry (row : WakeRow) (s : State) : Out :=
  match row with
  | .w r => s.when (s.pw.aon && s.mode = 1 && s.pw.wWait && s.fld Reg.pmStat 11 4 = r.val)
      (s.startRow r.val (s.fld Reg.pmWakeStat 9 8 + 1))
  | .dom d =>
    let c := domCode d
    let r := s.dom c
    s.when (r.ph = 1 && r.waiting)
      ((s.setDom c { r with waiting := false, attempts := r.attempts + 1 }).setFld Reg.pmWakeStat 9 8 (r.attempts + 1))

/-- DOMAIN_FAIL_CLEAR (R462): a write of 1 to a fail bit. -/
def execDomainFailClear (d : Dom) (s : State) : Out :=
  let c := domCode d
  s.when (s.pw.aon && (!isSpDom c || s.hubOn)) (s.setFail c false).showWake

/-- SCRATCHPAD_ZERO_COMPLETE (R483): a bank woken from off is on, and what is held for it goes to it. -/
def execScratchpadZeroComplete (b : Fin 16) (s : State) : Out :=
  s.when (s.hubOn && s.bit (Reg.spBStat b.val) 29) (((s.setBit (Reg.spBStat b.val) 29 false).spUp b.val).prDeliver (domSp b.val))

end Sys2Proof.Machine
end

