-- ==== Sys2Proof/Machine/Epoch.lean ====
section
/-!
DEFINITION. The epoch strobe and the tasks that it starts (R30–R33 and the rules named below); writes of register fields
that have no row of their own (R18).
-/
namespace Sys2Proof.Machine

/-! ### Writes of other register fields (R18) -/

/-- REGISTER_WRITE (R16–R19): master 0x30 reaches the DBG and AON registers over its private path (R268). A write that the
register's endpoint refuses changes nothing. -/
def execRegisterWrite (mid : Byte) (addr : BitVec 48) (word : Word) (s : State) : Out :=
  let a := addr.toNat
  let on := s.domOn (s.domOf a) || (mid.toNat = 0x30 && privatePath a && s.pw.aon)
  s.when (s.decodes a && inRegs a && a % 4 = 0 && on && !s.regBarred a)
    ((s.regWrite mid.toNat a word.toNat).breakReservations mid.toNat a 4)

/-! ### What the closing epoch leaves -/

/-- The postmark counters after an epoch of `us` µs: an hour has 4,096 parts of 878,906.25 µs (R503, R504). -/
def PwSt.passTime (p : PwSt) (us : Nat) : PwSt :=
  let q := p.fracUs + 4 * us
  let f := p.frac + q / 3515625
  { p with fracUs := q % 3515625, frac := f % 4096, hours := (p.hours + f / 4096) % 2 ^ 32 }

/-- Whether the epoch that closes was timed from the 32.768 kHz clock (MR_EPOCH_STAT.SRC_SLOW). -/
def State.slowEpoch (s : State) : Bool := s.bit Reg.mrEpochStat 1

/-- The epoch count moves on; a reference that is good again times the next epoch (R30, R31). -/
def State.epochNext (s : State) : State :=
  let s1 := s.wr64 Reg.mrEpochLo Reg.mrEpochHi ((s.epoch + 1) % 2 ^ 64)
  if s.slowEpoch && !s.pw.refFail.contains 0 then (s1.setBit Reg.mrEpochStat 1 false).event 0x0104 3 0 s.mode else s1

/-- CUR flips at every stop after a SWITCH (R358). -/
def State.bankFlip (s : State) : State :=
  if s.domOn domRnd && s.bit Reg.rndEpoch 1 then
    (s.setBit Reg.rndEpoch 0 (!s.bit Reg.rndEpoch 0)).setBit Reg.rndEpoch 1 false
  else s

/-! ### Tiles: monitors, stretch, idleness (R75, R206, R464) -/

/-- A powered tile closes its epoch: TC_DM_SUM is latched, and step stretch ends when no monitor read below the guard. -/
def State.tileEpoch (s : State) (n : Nat) : State :=
  let t := s.tile n
  let s1 := s.wr (Reg.tcDmSum n) (t.dmBay % 64 * 1024 + t.dmQuad % 4 * 256 + t.dmMin % 256)
  let s2 := if t.below then s1 else s1.setBit (Reg.tcStretch n) 31 false
  let off := (List.range 64).all (fun b => (s.dom (domBay n b)).ph = 0)
  s2.setTile n { t with dmMin := 255, dmBay := 0, dmQuad := 0, below := false, idle := if off then min 256 (t.idle + 1) else 0 }

/-- Epochs that each powered bay has held no page and no reservation (R206). -/
def State.bayIdleCount (s : State) : SMap Nat :=
  let bays := (s.pw.doms.filter (fun e => isBayDom e.1 && decide (2 ≤ e.2.ph))).map (fun e => e.1 - 0x200)
  let idle := bays.filter (fun b => (List.range 4).all (fun p => (s.bpRec (4 * b + p)).pstate = 0))
  idle.foldl (fun m b => SMap.put m b (min 256 (SMap.get s.so.bayIdle b 0 + 1))) []

/-- The tiles that have power. -/
def State.tilesOn (s : State) : List Nat := (List.range 8).filter (fun n => s.domOn (domTile n))

/-- A table with default `d` whose values are all replaced. -/
def SMap.mapTo {α : Type} [DecidableEq α] (m : SMap α) (d : α) (f : α → α) : SMap α :=
  (m.map (fun e => (e.1, f e.2))).filter (fun e => e.2 ≠ d)

/-- Counts kept for one epoch begin again: the controllers' (R299, R303), the stops' (R364, R365), the Courier lanes', the
stall records (R97), and a grant of a pause window not used lapses (R295). -/
def State.epochCounts (s : State) : State :=
  let s1 := { s with
    mcs := SMap.mapTo s.mcs {} (fun (m : McSt) => { m with corrCnt := [], ueCnt := [] })
    rnd := { s.rnd with deadFirst := [], naks := [] }
    cr := SMap.mapTo s.cr {} (fun (c : CrTile) => { c with
      lanes := SMap.mapTo c.lanes {} (fun (l : CrLane) => { l with corrLast := l.corrNow, corrNow := 0 }) })
    fab := { s.fab with bays := SMap.mapTo s.fab.bays {} (fun (b : BayRt) => { b with stallRec := false }) }
    so := { s.so with bayIdle := s.bayIdleCount, pauseGrant := none, retuneGrant := [] } }
  s1.each ((List.range 20).filter (fun c => s.domOn (mcDom c))) (fun t c => t.setBit (Reg.mcRetrain c) 31 false)

/-! ### The Page Map sweep (R330) -/

/-- The entries that a turn of the sweep need look at: those that are not free entries as prepared, in a poisoned block, or all of them
where the range stands under inline encryption. -/
def State.sweepHandles (s : State) (lo : Nat) : List Nat :=
  let a := pmAddr lo
  let b := pmAddr (lo + 65536)
  if s.ic.forms.any (fun f => overlaps f.lo f.hi a b) || (List.range 256).any (fun r => s.rOn r && overlaps (s.rBase r) (s.rLimit r + 4096) a b) then
    (List.range 65536).map (fun k => lo + k)
  else
    let listed := ((SMap.slice s.mem a b).map (fun e => (e.1 - pmAddr 0) / 16)).dedup
    let bad := ((s.mc 0).poison.filter (fun x => decide (a ≤ x) && decide (x < b))).flatMap (fun x => [(x - pmAddr 0) / 16, (x - pmAddr 0) / 16 + 1])
    listed ++ bad.filter (fun h => !listed.contains h)

/-- One entry of the sweep: a mismatch of its CHECK is handled under R185. -/
def State.sweepEntry (s : State) (h : Nat) : State :=
  let g := s.dramRead (pmAddr h) 16 0x20
  if g.cause = 0 && pmCheck h g.data then
    let e := pmOfBytes g.data
    let x := if e.stat = 1 then pmShare e else 0
    { g.st with so := { g.st.so with sweepSum := (g.st.so.sweepSum + x) % 2 ^ 32 } }
  else
    let t := (g.st.cachePut h { pmOfBytes g.data with stat := 3 }).pmFail h noRun
    { t with so := { t.so with sweepBad := true } }

/-- PAGE_MAP_SWEEP (R330): 65,536 entries an epoch, 64 epochs a pass. -/
def State.sweepTurn (s : State) : State :=
  if s.soReady then
    let s1 := s.each (s.sweepHandles s.so.sweepPos) (fun t h => t.sweepEntry h)
    { s1 with so := { s1.so with sweepPos := s1.so.sweepPos + 65536 } }
  else s

/-- Whether a pass of the sweep is complete. -/
def State.sweepOver (s : State) : Bool := decide (4194304 ≤ s.so.sweepPos)

/-- Step 1 of R32: the counters are latched; a pass of the sweep that is complete is latched with them, and the next one
starts (R330, R333). -/
def State.latchEpoch (s : State) : State :=
  let s1 := { s with tal := { s.tal with sweepDone := s.sweepOver && !s.so.sweepBad } }
  let s2 := s1.counterLatch
  if s.sweepOver then { s2 with so := { s2.so with sweepPos := 0, sweepSum := 0, sweepBad := false } } else s2

/-! ### Calibration windows (R102, R219) -/

/-- Whether a run has pages in a tile. -/
def State.runInTile (s : State) (r n : Nat) : Bool := (s.runBps r).any (fun i => bpTile i = n)

/-- Whether a memory-model port of a run has a window that meets a range. -/
def State.runReaches (s : State) (r lo hi : Nat) : Bool :=
  (s.runBps r).any (fun i => match (s.bpRec i).port with
    | some k => overlaps (s.mmpBase (bpTile i) k) (s.mmpBase (bpTile i) k + s.mmpSize (bpTile i) k) lo hi
    | none => false)

/-- Whether a pause of requester k (0–7 HBn, 8–19 DCc, then the Courier groups) affects a run: its page port or a
memory-model port may wait on the controller, or it has pages in the group's tile. -/
def State.pauseAffects (s : State) (k r : Nat) : Bool :=
  if k < 8 then s.runInTile r k || s.runReaches r (0x10000000000 + k * 0x600000000) (0x10000000000 + (k + 1) * 0x600000000)
  else if k < 20 then s.runReaches r 0x20000000000 0x1000000000000
  else s.runInTile r ((k - 20) / 8)

/-- The runs that have pages. -/
def State.placedRuns (s : State) : List Nat := (s.so.runs.map Prod.fst).filter (fun r => !(s.runBps r).isEmpty)

/-- Whether a pause window may be granted to a requester: no affected run is LOADING, SUSPENDING or paused for a snapshot. -/
def State.pauseOk (s : State) (k : Nat) : Bool :=
  !s.placedRuns.any (fun r => s.pauseAffects k r &&
    ((s.run r).state = .loading || (s.run r).state = .suspending || (s.run r).snapPause.isSome))

/-- The one pause window of the epoch, round-robin over the 84 requesters. -/
def State.grantPause (s : State) : State :=
  match ((List.range 84).map (fun j => (s.so.pauseLast + 1 + j) % 84)).find? (fun k => s.so.pauseReq.contains k && s.pauseOk k) with
  | some k =>
    let s1 := { s with so := { s.so with pauseGrant := some k, pauseLast := k } }
    if k < 20 then s1.setBit (Reg.mcRetrain k) 31 true else s1
  | none => s

/-- The requesters whose pause is in force: the one granted, isolated steps and takeovers in progress. -/
def State.pausesNow (s : State) : List Nat :=
  s.so.pauseGrant.toList ++ (List.range 20).filter (fun c => (s.mc c).iso.isSome) ++
    ((List.range 64).filter (fun j => (s.crg (j / 8) (j % 8)).move.isSome)).map (fun j => 20 + j)

/-- The tiles whose retune window is granted: withheld where a pause or a takeover affects a run with pages there. -/
def State.retuneTiles (s : State) : List Nat :=
  s.tilesOn.filter (fun n => !s.pausesNow.any (fun k => s.placedRuns.any (fun r => s.runInTile r n && s.pauseAffects k r)))

/-- CALIBRATION_WINDOW_GRANT (R219). -/
def State.grantWindows (s : State) : State :=
  let s1 := s.grantPause
  { s1 with so := { s1.so with retuneGrant := s1.retuneTiles } }

/-- The code that the retune procedure computes (R102), with HEAD_PS = 16: `f` CURRENT, `m` MIN_PS, `g` GUARD_PS. Only the code is
rounded: 80000 / (80000/f − m + g + 16), its numerator and denominator times f. -/
def retuneCode (f m g : Nat) (stretch : Bool) : Nat :=
  let c := 80000 * f / (80000 + f * (g + 16) - f * m)
  let c1 := if stretch then min c (f - 4) else c
  clampCode (min c1 (f + 4))

/-- MICRO_CLOCK_RETUNE (R102): the firmware procedure for one tile. -/
def State.retune (s : State) (n : Nat) : State :=
  let t := s.tile n
  if s.bit (Reg.tcMcStat n) 0 then s
  else if s.bit (Reg.tcMcStat n) 1 then
    let s1 := s.setBit (Reg.tcMcStat n) 1 false
    if t.retFails + 1 = 3 then (s1.setTile n { t with retFails := 0, retHold := 16 }).event 0x0208 3 (tileLoc n 0 0 0) 0
    else s1.setTile n { t with retFails := t.retFails + 1 }
  else if 0 < t.retHold then s.setTile n { t with retHold := t.retHold - 1 }
  else
    let f := s.fld (Reg.tcMcCtrl n) 15 8
    let c := retuneCode f (s.fld (Reg.tcDmSum n) 7 0) (s.fld (Reg.tcDmCfg n) 7 0) (s.bit (Reg.tcStretch n) 31)
    if c ≠ f then s.mcTarget n c else s

/-- The retunes of the granted windows, while the management firmware runs. -/
def State.retunes (s : State) : State :=
  if s.fwServes 0 then s.each s.so.retuneGrant (fun t n => t.retune n) else s

/-! ### The strobe (R30, R32) -/

/-- LANE_RETIRE requests whose group has left service are answered: their lane is no longer in service (R11, R420; log entry 59). -/
def State.owedAnswers (s : State) : State :=
  { s with vl := { s.vl with owed := [] } }.each s.vl.owed (fun t q => t.answer q stBadParam [])

/-- The whole strobe: the closing epoch's counts, then the tasks in the order of R32. Readers of a readiness bit see it as it
stands; scheduling sees step 3's. -/
def State.strobe (s : State) : State :=
  let s1 := s.owedAnswers.wdtEpoch (if s.slowEpoch then 990 else 1000)
  let s2 := { s1 with pw := s1.pw.passTime (if s.slowEpoch then 1007 else 1000) }
  let s3 := (s2.epochNext.bankFlip.latchEpoch.stampEpoch).epochCounts
  let s4 := s3.each s3.tilesOn (fun t n => t.tileEpoch n)
  let s5 := s4.evMerge.readyLatch.schedule
  (s5.grantWindows.retunes.crossChecks).sweepTurn

/-- EPOCH_STROBE (R30): while the epoch counter runs. -/
def execEpochStrobe (s : State) : Out := s.when (s.hubOn && s.bit Reg.mrEpochStat 0) s.strobe

end Sys2Proof.Machine
end

