-- ==== Sys2Proof/Machine/VlPorts.lean ====
section
/-!
DEFINITION. The Vollor transport: arrival and admission of envelopes, dispatch, replies, deferral, network protocols, the
Lodge (chapter 13; R403).
-/
namespace Sys2Proof.Machine

/-! ### Envelopes (R376–R378) -/

/-- Checks 4 to 6 of R377 on a UDP payload. -/
def intactBytes (p : List Byte) : Bool :=
  decide (32 ≤ p.length) && leAt p 10 2 + 32 = p.length && leAt p 0 2 = 0x4C56 && leAt p 3 1 % 2 = 0 &&
    leAt p 28 4 = crc32c (p.take 28 ++ p.drop 32)

/-- The request that a frame with an intact payload holds. -/
def reqOf (f : HostFrame) : VReq :=
  let p := f.payload
  { port := f.port, v6 := f.v6, peer := { mac := f.src.toNat, ip := f.srcIp.toNat, udp := (f.udp.map (fun u => u.1.toNat)).getD 0 }, version := leAt p 2 1, flags := leAt p 3 1, opcode := leAt p 4 2, client := leAt p 8 1, seq := leAt p 12 4
    status := leAt p 6 1, ticket := leAt p 16 4, aux := leAt p 20 4, stream := leAt p 24 4, payload := p.drop 32 }

/-! ### Admission (R390–R392) -/

/-- Intake buffers in use of a physical port. -/
def State.bufsUsed (s : State) (p : Nat) : Nat := SMap.get s.vl.bufs (physPort p) 0
def State.bufAdd (s : State) (p : Nat) : State :=
  { s with vl := { s.vl with bufs := SMap.set s.vl.bufs (physPort p) (s.bufsUsed p + 1) 0 } }
def State.bufFree (s : State) (p : Nat) : State :=
  { s with vl := { s.vl with bufs := SMap.set s.vl.bufs (physPort p) (s.bufsUsed p - 1) 0 } }

/-- Whether a request is admitted: a buffer, a ticket entry where it reserves one, and a backlog within its limit. -/
def State.admits (s : State) (q : VReq) : Bool :=
  decide (s.bufsUsed q.port < physBufs q.port) && (!opReserves q.opcode || s.tktFree.isSome) &&
    decide (s.backlog q.port + envBytes (maxReply q.opcode (s.lpLimit q.port q.v6)) ≤ s.backlogLimit q.port)

/-- RETRY_US of the BUSY responder: the time for the backlog to fall to half its limit, at least 10. -/
def State.busyRetry (s : State) (k : Nat) : Nat :=
  let rate := s.backlogLimit k / 400
  max 10 ((s.backlog k - s.backlogLimit k / 2 + rate - 1) / rate)

/-- An admitted request takes a buffer and, where it must, reserves the lowest free ticket entry (R389). -/
def State.admitReq (s : State) (q : VReq) : State :=
  let i := if opReserves q.opcode then s.tktFree else none
  let s1 := match i with
    | some j => { s with vl := { s.vl with tickets := SMap.put s.vl.tickets j { s.tkt j with resv := true } } }
    | none => s
  let s2 := (s1.count (Reg.vlLpRx q.port) 31 0 1).bufAdd q.port
  { s2 with vl := { s2.vl with intake := s2.vl.intake ++ [{ q with resv := i }] } }

/-- The MAC address of the solicited-node group of an IPv6 address (R370). -/
def solicitedMac (ip : Nat) : Nat := 0x3333FF000000 + ip % 2 ^ 24

/-- Whether a frame fits R370: its address, its tag and its length. -/
def State.fits370 (s : State) (f : HostFrame) : Bool :=
  let k := f.port.val
  let d := f.dst.toNat
  let mine := [s.lpMac k, 2 ^ 48 - 1, 0x333300000001, solicitedMac (linkLocal (s.lpMac k))] ++
    (if s.lpIp6 k = 0 then [] else [solicitedMac (s.lpIp6 k)])
  let tag := match f.vid with
    | some v => v.toNat = s.fld (Reg.vlLpCfg k) 23 12 && v.toNat ≠ 0
    | none => true
  mine.contains d && tag && decide (f.len ≤ if s.bit (Reg.vlLpCfg k) 30 then 9062 else 1522)

/-- Whether a frame carries an envelope: UDP to port 47310. -/
def toVollor (f : HostFrame) : Bool := match f.udp with | some u => u.2.toNat = 47310 | none => false

/-- Checks 1 to 6 of R377; `mine` holds for the port's own addresses. -/
def State.intact (s : State) (f : HostFrame) (mine : Nat → Bool) : Bool :=
  f.fcs && s.fits370 f && f.ipOk && !f.frag && mine f.dstIp.toNat && (f.sum = .good || (f.sum = .zero && !f.v6)) && intactBytes f.payload

/-- Whether an IP address is one of a port's (R373, R374). -/
def State.lpOwns (s : State) (k : Nat) (v6 : Bool) (ip : Nat) : Bool :=
  if v6 then ip = linkLocal (s.lpMac k) || (ip ≠ 0 && ip = s.lpIp6 k) else ip = s.lpIp4 k

/-- The frame that carries a reply: tagged with the port's VID when it has one (R370, R376; log entry 61). -/
def State.sentEnv (s : State) (r : VReply) : SentEnv :=
  { reply := r, vid := s.fld (Reg.vlLpCfg r.port) 23 12, bytes := r.envelope }

/-- ENVELOPE_RECEIVE (R370, R372, R377, R378, R390–R392; R403 steps 1–3). -/
def execEnvelopeReceive (f : HostFrame) (s : State) : Out :=
  let k := f.port.val
  let q := reqOf f
  let other := s.count (Reg.vlLpDrop k) 15 0 1
  let torn := s.count (Reg.vlLpDrop k) 31 16 1
  let noAddr := !f.v6 && s.lpIp4 k = 0
  s.when (s.lpServing k)
    (if !toVollor f then other
     else if noAddr then s
     else if !s.intact f (s.lpOwns k f.v6) then torn
     else if s.lpLimit k f.v6 < q.payload.length || q.version ≠ 1 then s.pushReply (s.replyOf q stBadParam [] 0 0)
     else if s.admits q then s.admitReq q
     else (s.count (Reg.vlLpBusy k) 31 0 1).pushReply (s.replyOf q stBusy [] 0 (s.busyRetry k)))

/-! ### Dispatch (R380, R381, R393; R403 steps 4–7) -/


/-- SEQ lies in the window of 16; it is newer than H. -/
def inWindow (h q : Nat) : Bool := decide (seqDist h q < 16)
def isNewer (h q : Nat) : Bool := decide (1 ≤ seqDist q h) && decide (seqDist q h < 2 ^ 31)

/-- CLIENT_OPEN (R380). -/
def openClient (q : VReq) : Client := { isOpen := true, h := (q.seq + 2 ^ 32 - 1) % 2 ^ 32 }

/-- Past step 7: H and the window move, and the request goes to its handler. -/
def State.passed (s : State) (q : VReq) : State :=
  let c := s.client q.client
  let h := if isNewer c.h q.seq then q.seq else c.h
  let slots := (c.slots.filter (fun w => inWindow h w.seq)) ++ [{ seq := q.seq }]
  let s1 := s.setClient q.client { c with h := h, slots := slots }
  { s1 with vl := { s1.vl with handed := s1.vl.handed ++ [q] } }

/-- Steps 5 to 7, for an open client. -/
def State.classify (s : State) (q : VReq) : State :=
  let c := s.client q.client
  match (if inWindow c.h q.seq then c.slots.find? (fun w => w.seq = q.seq) else none) with
  | some w =>
    match w.reply with
    | some r => (s.dropResv q).pushReply (dupOf r q true)
    | none =>
      let s1 := (s.dropResv q).bufFree q.port
      { s1 with vl := { s1.vl with heldDup := s1.vl.heldDup ++ [{ q with resv := none }] } }
  | none =>
    if !inWindow c.h q.seq && !isNewer c.h q.seq then s.turnAway q stBadParam
    else if !opListed q.opcode then s.turnAway q stBadOpcode
    else if !s.opReady q.opcode (leAt q.payload 0 1) then s.turnAway q stNotReady
    else s.passed q

/-- One request dispatched: steps 4 to 7. -/
def State.dispatch (s : State) (q : VReq) : State :=
  let c := s.client q.client
  let opens := bitOf q.flags 1 && !(c.isOpen && inWindow c.h q.seq)
  if 64 ≤ q.client then s.turnAway q stBadParam
  else if opens then (s.setClient q.client (openClient q)).classify q
  else if !c.isOpen then s.turnAway q stBadState
  else s.classify q

/-- ENVELOPE_DISPATCH (R393): oldest admission first. -/
def execEnvelopeDispatch (s : State) : Out :=
  match s.vl.intake with
  | [] => .next s
  | q :: rest => s.when s.hubOn (({ s with vl := { s.vl with intake := rest } }).dispatch q)

/-- REPLY_SENT (R390, R408): the oldest reply of a port leaves; its buffer returns; a reset asked for begins. -/
def execReplySent (port : Fin 9) (s : State) : Out :=
  match s.vl.replies.find? (fun r => r.port = port.val) with
  | none => .next s
  | some r =>
    let s1 := { s with vl := { s.vl with replies := s.vl.replies.erase r, sent := SMap.put s.vl.sent port.val (s.sentEnv r) } }
    let s2 := if r.buf then s1.bufFree r.port else s1
    s.when (s.lpUp port.val) (if r.thenReset then s2.warmReset else s2)

/-- ACCESS_DEFERRAL (R389): an access unanswered 400 µs after its arrival is answered with its reserved ticket. -/
def execAccessDeferral (job : Nat) (s : State) : Out :=
  match s.job job with
  | none => .next s
  | some j =>
    let s1 := s.setJob job { j with deferred := true, req := { j.req with resv := none } }
    let s2 := s1.tktIssue j.ticket j.req.client (.access job) true
    s.when (s.hubOn && !j.deferred && j.kind ≠ .fill) ((s2.accept j.req j.ticket []).tktProgress j.ticket (jobProgress j) 0)

/-! ### The other protocols (R371, R372, R374) -/

/-- PAUSE_FRAME (R371). -/
def execPauseFrame (port : Fin 9) (pfc : Bool) (s : State) : Out :=
  s.when (s.lpUp port.val) (if pfc then s.count (Reg.vlLpPause port.val) 15 0 1 else s.count (Reg.vlLpPause port.val) 31 16 1)

/-- An answer that a port sends. -/
def State.netSend (s : State) (k : Nat) (x : NetTx) : State := { s with vl := { s.vl with netTx := SMap.put s.vl.netTx k x } }

/-- ARP_REQUEST, NEIGHBOR_SOLICITATION, ICMP_ECHO (R372). -/
def execArpRequest (port : Fin 9) (ip : Word) (s : State) : Out :=
  let k := port.val
  s.when (s.lpServing k && ip.toNat ≠ 0 && s.lpIp4 k = ip.toNat) (s.netSend k (.arp ip.toNat (s.lpMac k)))
def execNeighborSolicitation (port : Fin 9) (ip : BitVec 128) (s : State) : Out :=
  let k := port.val
  s.when (s.lpServing k && (ip.toNat = linkLocal (s.lpMac k) || (ip.toNat ≠ 0 && s.lpIp6 k = ip.toNat)))
    (s.netSend k (.neighbour ip.toNat (s.lpMac k)))
def execIcmpEcho (port : Fin 9) (v6 : Bool) (data : List Byte) (s : State) : Out :=
  s.when (s.lpServing port.val && (v6 || s.lpIp4 port.val ≠ 0)) (s.netSend port.val (.echo v6 data))

/-- MP's address has changed: firmware writes it for the Lodge (R400). -/
def State.lodgeAddr (s : State) (k ip : Nat) : State := if k = 0 then s.wr Reg.pmLodgeIp4 ip else s

/-- DHCP_MESSAGE (R374): a lease is set or renewed. -/
def execDhcpMessage (port : Fin 9) (ip : Word) (s : State) : Out :=
  let k := port.val
  let s1 := { s with vl := { s.vl with lease := if s.vl.lease.contains k then s.vl.lease else s.vl.lease ++ [k] } }
  s.when (s.lpUp k && s.fld (Reg.vlLpCfg k) 29 28 = 2) ((s1.wr (Reg.vlLpIp4 k) ip.toNat).lodgeAddr k ip.toNat)

/-- DHCP_RENEW (R374): half the lease time has gone; `ok` false when the lease is lost. -/
def execDhcpRenew (port : Fin 9) (ok : Bool) (s : State) : Out :=
  let k := port.val
  let lost := { s with vl := { s.vl with lease := s.vl.lease.filter (· ≠ k) } }
  s.when (s.hubOn && s.vl.lease.contains k)
    (if ok then s.netSend k (.dhcp true) else ((lost.wr (Reg.vlLpIp4 k) 0).event 0x0901 3 k 0).lodgeAddr k 0)

/-- HOST_LINK_CHANGE (R367): the link of a logical port in use comes up or goes down. -/
def execHostLinkChange (port : Fin 9) (up : Bool) (s : State) : Out :=
  let k := port.val
  s.when (s.hubOn && (!up || (s.lpExists k && s.bit (Reg.vlLpCfg k) 31 && (k = 0 || (s.domOn domHost && !s.pw.refFail.contains 1)))))
    (s.setBit (Reg.vlLpStat k) 31 up)

/-! ### The Lodge (R400, R401) -/

/-- The Lodge is active: the MP clock is qualified and the Vollor engine does not serve MP. -/
def State.lodgeOn (s : State) : Bool := s.pw.aon && s.pw.mpClock && !s.lpServing 0

/-- Byte 1 of the Lodge's payload: the row that runs, or the row that failed. -/
def State.lodgeRow (s : State) : Nat := if s.bit Reg.pmStat 12 then s.fld Reg.pmWakeStat 6 0 else s.fld Reg.pmStat 11 4

/-- The Lodge reply: NOT_READY, RETRY_US 100,000 and the 8-byte payload. -/
def State.lodgeReply (s : State) (q : VReq) : VReply :=
  let failed := b2n (s.bit Reg.pmStat 12 && s.bit Reg.pmStat 14)
  s.replyOf q stNotReady (leBytes 1 s.mode ++ leBytes 1 s.lodgeRow ++ leBytes 1 failed ++ leBytes 5 0) 0 100000

/-- MP activity in a mode that waits for one (R472). -/
def State.mpActivity (s : State) : State := if s.canWake && s.bit Reg.pmWakeCfg 0 then s.wakeBy 1 else s

/-- LODGE_REQUEST (R401): every intact request is answered; in mode 4 it also counts as MP activity. -/
def execLodgeRequest (f : HostFrame) (s : State) : Out :=
  let q := reqOf f
  let s1 := (s.count Reg.pmLodgeCnt 31 0 1)
  let s2 := { s1 with vl := { s1.vl with sent := SMap.put s1.vl.sent 0 (s.sentEnv (s.lodgeReply q)) } }
  let mine := fun (ip : Nat) => if f.v6 then decide (ip = linkLocal (s.lpMac 0)) else decide (ip ≠ 0 ∧ ip = s.rd Reg.pmLodgeIp4)
  s.when (s.lodgeOn && f.port = 0 && toVollor f && s.intact f mine) s2.mpActivity

/-- LODGE_ARP, LODGE_NEIGHBOR_SOLICITATION (R400, R472). -/
def execLodgeArp (ip : Word) (s : State) : Out :=
  s.when (s.lodgeOn && ip.toNat ≠ 0 && s.rd Reg.pmLodgeIp4 = ip.toNat) (s.netSend 0 (.arp ip.toNat (s.lpMac 0))).mpActivity
def execLodgeNeighborSolicitation (ip : BitVec 128) (s : State) : Out :=
  s.when (s.lodgeOn && ip.toNat = linkLocal (s.lpMac 0)) (s.netSend 0 (.neighbour ip.toNat (s.lpMac 0))).mpActivity

end Sys2Proof.Machine
end

