-- ==== Sys2Proof/Machine/VlSys.lean ====
section
/-!
DEFINITION. Vollor opcodes of the System and of the Power and mode groups (R387, R388, R406–R409).
-/
namespace Sys2Proof.Machine

/-! ### Handles -/

/-- The entry that a handle names, while its START is current and its GEN is that of the ticket held there (R385, R387). -/
def State.tktOf (s : State) (h : Nat) : Option Nat :=
  let i := h % 4096
  if (s.tkt i).used && s.handle i = h then some i else none

/-- START of a handle is not that of this HUB start. -/
def State.tktOld (s : State) (h : Nat) : Bool := h / 2 ^ 28 ≠ s.fld Reg.pmHubStarts 3 0

/-! ### System (R408) -/

def execEcho (client : Fin 64) (s : State) : Out :=
  s.serve client 0x0100 (fun _ => true) (fun t q => t.checked q allModes true (t.answer q stOk q.payload))

/-- The fuse word of INFO. -/
def State.fuseWord (s : State) : Nat :=
  b2n s.fk.fuseKey.isSome + 2 * b2n s.fk.bkeyForbid +
    ((List.range 4).map (fun k => b2n (SMap.find s.fk.imgSlots k).isSome * 2 ^ (2 + k) + b2n (s.fk.imgRevoked.contains k) * 2 ^ (6 + k))).sum

def execInfo (client : Fin 64) (s : State) : Out :=
  s.serve client 0x0101 (fun _ => true) (fun t q => t.checked q allModes q.payload.isEmpty
    (t.answer q stOk (leBytes 2 0x9480 ++ leBytes 2 t.fk.siliconRev ++ leBytes 4 t.pw.cycles ++ leBytes 8 t.fk.macBase ++
      leBytes 4 t.bootRec.verA ++ leBytes 4 t.bootRec.verF ++ leBytes 4 t.fuseWord ++ leBytes 4 0)))

/-- The mode of the pending slot, and the target of the change in progress; 0xFF for none. -/
def State.pendMode (s : State) : Nat := match s.pw.pend with | some r => r.target | none => 0xFF
def State.chgMode (s : State) : Nat := match s.pw.chg with | some c => c.req.target | none => 0xFF

def execReady (client : Fin 64) (s : State) : Out :=
  s.serve client 0x0102 (fun _ => true) (fun t q => t.checked q allModes q.payload.isEmpty
    (t.answer q stOk (leBytes 8 t.readyVec ++ leBytes 1 t.mode ++ leBytes 1 t.pendMode ++ leBytes 6 0)))

/-- Result data of a ticket: once done, or once failed for a deferred access (R406). -/
def tktResult (t : Ticket) : List Byte :=
  match t.work with
  | .access _ => if t.state = 2 || t.state = 3 then t.data else []
  | _ => if t.state = 2 then t.data else []

def execTicketStatus (client : Fin 64) (s : State) : Out :=
  s.serve client 0x0103 (fun _ => true) (fun t q =>
    let h := leAt q.payload 0 4
    let fl := leAt q.payload 4 4
    t.checked q allModes (q.payload.length = 8 && decide (fl < 4))
      (if t.tktOld h then t.answer q stOk (leBytes 8 (5 * 2 ^ 60))
       else match t.tktOf h with
         | none => t.answer q stBadParam []
         | some i =>
           let e := t.tktNow i
           let data := if bitOf fl 1 then (tktResult e).take (t.lpLimit q.port q.v6 - 8) else []
           let u := t.answer q stOk (leBytes 8 (tktWord e) ++ data)
           if bitOf fl 0 && e.client = q.client && decide (2 ≤ e.state) then u.reclaim i else u))

/-! ### TICKET_CANCEL (R407) -/

/-- A ticket ends abandoned. -/
def State.abandon (s : State) (i : Nat) : State := s.tktEnd i 5 0

/-- The ticket of a waiting flash operation. -/
def flashTkt (o : FlashOp) : Option Nat :=
  match o with
  | .settings _ _ t => t
  | .stageErase _ _ t => some t
  | .storeErase _ _ _ t => some t
  | .stage _ => none

/-- A run operation whose ticket is queued is withdrawn: it leaves the pending slot, or the run leaves WAITING. -/
def State.cancelRun (s : State) (r i : Nat) : Option State :=
  let x := s.run r
  if (x.pend.bind (fun p => p.ticket)) = some i then some ((s.setRun r { x with pend := none }).abandon i)
  else if x.state = .waiting && x.curTkt = some i then
    some ((s.setRun r { x with state := if x.started then .suspended else .idle, curTkt := none }).abandon i)
  else none

/-- The work of a ticket withdrawn, or stopped where R407 lets an active ticket be cancelled; none: BAD_STATE. -/
def State.cancelWork (s : State) (i : Nat) : Option State :=
  let e := s.tkt i
  let queued := e.state = 0
  match e.work with
  | .modeSet =>
    if queued && (s.pw.pend.bind (fun (r : ModeReq) => r.ticket)) = some i then
      some (({ s with pw := { s.pw with pend := none } }).showMode.abandon i)
    else none
  | .load j => some (s.loadFail j 5 0)
  | .runOp r => if queued then s.cancelRun r i else none
  | .access id =>
    match s.job id with
    | some k => if k.kind = .fill then some (((s.setJob id { k with cancelled := true }).abandon i).jobStep id) else none
    | none => none
  | .snapTake k => if queued then some ((s.snapDrop k).abandon i) else none
  | .update => some ({ s with fl := { s.fl with stg := none, ops := s.fl.ops.filter notStage } }.abandon i)
  | .link n =>
    let s1 := s.setCrt n { s.crt n with ticket := none, waitOp := none }
    some ((if s1.domOn (domCr n) then s1.crOff n else s1).abandon i)
  | .logClear => if queued then some ({ s with ev := { s.ev with clears := s.ev.clears.filter (fun c => c.2 ≠ i) } }.abandon i) else none
  | .storeErase _ => if queued then some ({ s with fl := { s.fl with ops := s.fl.ops.filter (fun o => flashTkt o ≠ some i) } }.abandon i) else none
  | .updDiscard => if queued then some ({ s with fl := { s.fl with ops := s.fl.ops.filter (fun o => flashTkt o ≠ some i) } }.abandon i) else none
  | .settings => if queued then some ({ s with fl := { s.fl with ops := s.fl.ops.filter (fun o => flashTkt o ≠ some i) } }.abandon i) else none
  | _ => none

def execTicketCancel (client : Fin 64) (s : State) : Out :=
  s.serve client 0x0104 (fun _ => true) (fun t q =>
    let h := leAt q.payload 0 4
    t.checked q allModes (q.payload.length = 4)
      (if t.tktOld h then t.answer q stBadState []
       else match t.tktOf h with
         | none => t.answer q stBadParam []
         | some i =>
           match (if tktLive (t.tkt i) then t.cancelWork i else none) with
           | some u => u.answer q stOk []
           | none => t.answer q stBadState []))

/-- The reset begins after the reply has left (REPLY_SENT). -/
def execSystemReset (client : Fin 64) (s : State) : Out :=
  s.serve client 0x0105 (fun _ => true) (fun t q =>
    t.checked q allModes (q.payload.length = 4 && leAt q.payload 0 4 = 0x54535257)
      ((t.dropResv q).sendReply q { t.replyOf q stOk [] 0 0 with thenReset := true }))

def execTime (client : Fin 64) (s : State) : Out :=
  s.serve client 0x0106 (fun _ => true) (fun t q => t.checked q allModes q.payload.isEmpty
    (t.answer q stOk (leBytes 8 t.epoch ++ leBytes 4 t.pw.hours ++ leBytes 2 (t.pw.frac % 4096) ++ leBytes 2 0 ++
      leBytes 4 (t.pw.cycles % 2 ^ 24) ++ leBytes 4 0)))

/-- The client is closed once the reply is built. -/
def execClientClose (client : Fin 64) (s : State) : Out :=
  s.serve client 0x0107 (fun _ => true) (fun t q => t.checked q allModes q.payload.isEmpty
    ((t.answer q stOk []).setClient q.client {}))

/-! ### Power and mode (R409) -/

def execModeGet (client : Fin 64) (s : State) : Out :=
  s.serve client 0x0200 (fun _ => true) (fun t q => t.checked q allModes q.payload.isEmpty
    (t.answer q stOk (leBytes 1 t.mode ++ leBytes 1 t.chgMode ++ leBytes 1 t.pendMode ++ leBytes 1 (t.fld Reg.mrMode 31 24) ++
      leBytes 4 (t.rd Reg.mrModeTkt))))

/-- MODE_SET's ranges: the codes that can be asked for; a run for mode 7 only, and then one that is not EMPTY. -/
def State.modeAskOk (s : State) (p : List Byte) : Bool :=
  let m := leAt p 0 1
  let r := leAt p 2 2
  p.length = 4 && leAt p 1 1 = 0 && decide (2 ≤ m) && decide (m ≤ 11) &&
    (if m = 7 then decide (r < 4096) && (s.run r).state ≠ .empty else r = 0)

def execModeSet (client : Fin 64) (s : State) : Out :=
  s.serve client 0x0201 (fun _ => true) (fun t q =>
    let m := leAt q.payload 0 1
    t.checked q [2, 3, 5, 6, 7, 8, 9, 10] (t.modeAskOk q.payload)
      (if m = t.mode && t.pw.chg.isNone && t.pw.pend.isNone then t.answer q stOk []
       else t.withTicket q (fun i =>
         ((t.tktIssue i q.client .modeSet false).accept q i []).modeQueue
           { src := .vollor, target := m, run := leAt q.payload 2 2, ticket := some i })))

/-- Powered domains of POWER_GET, and powered bays. -/
def State.powerDoms (s : State) : Nat := s.rd Reg.pmDomStat % 2 ^ 31
def State.powerBays (s : State) (n : Nat) : Nat :=
  ((List.range 64).map (fun b => b2n (s.domOn (domBay n b)) * 2 ^ b)).sum

/-- Input power is the regulators' sum and 4.5 W (R524). -/
def execPowerGet (client : Fin 64) (s : State) : Out :=
  s.serve client 0x0202 (fun _ => true) (fun t q => t.checked q allModes q.payload.isEmpty
    (t.answer q stOk (leBytes 4 (t.pw.pout + 4500) ++ leBytes 2 (t.pw.hot16 % 65536).toNat ++ leBytes 2 0 ++ leBytes 8 t.powerDoms ++
      (List.range 8).flatMap (fun n => leBytes 8 (t.powerBays n)))))

end Sys2Proof.Machine
end

