-- ==== Sys2Proof/Machine/VlImages.lean ====
section
/-!
DEFINITION. Vollor opcodes of the Images group (R158, R159, R163, R164, R189, R190, R410, R489).
-/
namespace Sys2Proof.Machine

/-- A payload limit's worth of 32-byte list entries. -/
def listRoom (l : Nat) : Nat := (l - 8) / 32

/-- TILE_MASK 0 is taken as 0xFF. -/
def maskOf (v : Nat) : Nat := if v = 0 then 0xFF else v

/-! ### Loads -/

/-- LOAD_BEGIN's fields are in range: SOURCE 2 alone carries an address and a length; a store entry that is used exists,
and is not both read and written (log entry 23). -/
def State.loadAskOk (s : State) (p : List Byte) : Bool :=
  let src := leAt p 0 1
  let fl := leAt p 1 1
  decide (src ≤ 2) && p.length = (if src = 2 then 24 else 8) && decide (fl < 8) && decide (leAt p 3 1 < 16) && zeroAt p 5 3 &&
    (!(src = 1 || bitOf fl 1) || decide (leAt p 2 1 < s.fl.entries)) && !(src = 1 && bitOf fl 1) &&
    (src ≠ 2 || (decide (1 ≤ leAt p 16 8) && decide (leAt p 8 8 + leAt p 16 8 ≤ 2 ^ 48)))

/-- The lowest free load. -/
def State.loadFree (s : State) : Option Nat := (List.range 4).find? (fun j => !s.isLoad j)

/-- A store entry is being erased, or written by a load. -/
def State.storeBusyAt (s : State) (e : Nat) : Bool :=
  s.fl.storeBusy.any (fun x => x.2 = e) ||
    s.fl.ops.any (fun o => match o with | .storeErase k _ _ _ => k = e | _ => false)

/-- The load that a LOAD_BEGIN asks for. -/
def loadOf (q : VReq) (i : Nat) : Load :=
  let p := q.payload
  let src := leAt p 0 1
  { ticket := i, client := q.client, source := src
    srcArg := if src = 1 then leAt p 2 1 else leAt p 8 8
    srcLen := leAt p 16 8
    place := bitOf (leAt p 1 1) 0, prio := leAt p 3 1, tileMask := maskOf (leAt p 4 1), wholeBay := bitOf (leAt p 1 1) 2 }

/-- A load begins; with COPY_TO_STORE its store entry is erased first. -/
def State.loadStart (s : State) (q : VReq) (j i : Nat) : State :=
  let p := q.payload
  let e := leAt p 2 1
  let l := loadOf q i
  let l1 := if l.source = 1 then { l with srcLen := (SMap.get s.fl.store e {}).len } else l
  let s1 := (s.tktIssue i q.client (.load j) true).setLoad j l1
  let s2 := if bitOf (leAt p 1 1) 1 then
      { s1 with fl := { s1.fl with store := SMap.erase s1.fl.store e, storeBusy := s1.fl.storeBusy ++ [(j, e)] } }
    else s1
  s2.accept q i []

def execLoadBegin (client : Fin 64) (s : State) : Out :=
  s.serve client 0x0300 (fun _ => true) (fun t q =>
    let p := q.payload
    let src := leAt p 0 1
    let e := leAt p 2 1
    let uses := src = 1 || bitOf (leAt p 1 1) 1
    t.checked q (if bitOf (leAt p 1 1) 0 then [6] else [5, 6, 7, 8, 9]) (t.loadAskOk p)
      (if uses && (t.storeBusyAt e || (src = 1 && !(SMap.get t.fl.store e {}).valid)) then t.answer q stBadState []
       else match t.loadFree with
         | none => t.answer q stNoResource []
         | some j => t.withTicket q (fun i => t.loadStart q j i)))

/-- The load of a handle, while its ticket is live and it takes Vollor pieces. -/
def State.pieceLoad (s : State) (h : Nat) : Option Nat :=
  match s.tktOf h with
  | some i =>
    match (s.tkt i).work with
    | .load j => if tktLive (s.tkt i) && s.isLoad j && (s.load j).ticket = i && (s.load j).source = 0 then some j else none
    | _ => none
  | none => none

/-- RETRY_US of a piece buffer without room (R410). -/
def pieceRetry (n free : Nat) : Nat := max 10 ((n - free + 31999) / 32000)

/-- Bytes of the piece buffer of a load. -/
def pieceBuf : Nat := 0x100000

/-- A piece of a load: the next byte expected follows the bytes received; none lies past IMAGE_LEN. -/
def State.pieceTake (s : State) (q : VReq) (j : Nat) : State :=
  let l := s.load j
  let d := q.payload.drop 16
  let off := leAt q.payload 8 8
  let got := l.bytes.length + l.piece.length
  if off ≠ got || (decide (48 ≤ l.bytes.length) && decide (hImageLen l.bytes < off + d.length)) then s.answer q stBadParam []
  else if pieceBuf < l.piece.length + d.length then s.handlerBusy q (pieceRetry d.length (pieceBuf - l.piece.length))
  else (s.setLoad j { l with piece := l.piece ++ d }).answer q stOk []

def execLoadData (client : Fin 64) (s : State) : Out :=
  s.serve client 0x0301 (fun _ => true) (fun t q =>
    let p := q.payload
    t.checked q [5, 6, 7, 8, 9] (decide (17 ≤ p.length) && zeroAt p 4 4)
      (match t.pieceLoad (leAt p 0 4) with
       | some j => t.pieceTake q j
       | none => t.answer q stBadState []))

/-- Every byte of an image has been received. -/
def Load.complete (l : Load) : Bool := decide (256 ≤ l.bytes.length + l.piece.length) &&
  decide (hImageLen (l.bytes ++ l.piece) ≤ l.bytes.length + l.piece.length)

/-- The handle is that of a load, in progress or ended. -/
def State.loadTkt (s : State) (h : Nat) : Bool :=
  match s.tktOf h with
  | some i => match (s.tkt i).work with | .load _ => true | _ => false
  | none => false

def execLoadEnd (client : Fin 64) (s : State) : Out :=
  s.serve client 0x0302 (fun _ => true) (fun t q =>
    let h := leAt q.payload 0 4
    t.checked q [5, 6, 7, 8, 9] (q.payload.length = 4)
      (if !t.loadTkt h then t.answer q stBadState []
       else match t.pieceLoad h with
         | some j => if (t.load j).complete then t.answer q stOk [] else (t.loadFail j 3 stTruncated).answer q stOk []
         | none => t.answer q stOk []))

/-! ### Designs -/

def designEntry (e : Nat × Design) : List Byte :=
  leBytes 16 e.2.id ++ leBytes 2 e.1 ++ leBytes 1 e.2.state ++ leBytes 1 0 ++ leBytes 2 e.2.pageCount ++ leBytes 2 e.2.runs ++
    leBytes 4 e.2.cfgBase ++ leBytes 4 0

def execDesignList (client : Fin 64) (s : State) : Out :=
  s.serve client 0x0303 (fun _ => true) (fun t q =>
    let first := leAt q.payload 0 2
    let es := (t.so.designs.filter (fun e => e.2.state ≠ 0 && decide (first ≤ e.1))).take (listRoom (t.lpLimit q.port q.v6))
    t.checked q [5, 6, 7, 8, 9] (q.payload.length = 2 && decide (first < 1024))
      (t.answer q stOk (leBytes 2 es.length ++ leBytes 6 0 ++ es.flatMap designEntry)))

/-- A free or pending slot is refused; one that is being discarded stays so (R410). -/
def execDesignDiscard (client : Fin 64) (s : State) : Out :=
  s.serve client 0x0304 (fun _ => true) (fun t q =>
    let d := leAt q.payload 0 2
    let st := (t.design d).state
    t.checked q [5, 6, 7, 8] (q.payload.length = 2 && decide (d < 1024))
      (if st = 2 then (t.discard d).answer q stOk []
       else if st = 3 then t.answer q stOk [] else t.answer q stBadState []))

/-! ### The image store -/

def State.storeEntry (s : State) (k : Nat) : List Byte :=
  let e := SMap.get s.fl.store k {}
  leBytes 1 k ++ leBytes 1 (b2n e.valid) ++ leBytes 6 0 ++ leBytes 16 e.designId ++ leBytes 8 e.len

def execStoreList (client : Fin 64) (s : State) : Out :=
  s.serve client 0x0305 (fun _ => true) (fun t q =>
    let first := leAt q.payload 0 1
    let ks := ((List.range t.fl.entries).drop first).take (listRoom (t.lpLimit q.port q.v6))
    t.checked q [2, 3, 5, 6, 7, 8, 9] (q.payload.length = 1 && decide (first < t.fl.entries))
      (t.answer q stOk (leBytes 1 ks.length ++ leBytes 7 0 ++ ks.flatMap t.storeEntry)))

/-- Erase sectors of a store entry (R489). -/
def State.storeSectors (s : State) : Nat := (s.storeRoom + 65536) / 65536

def execStoreErase (client : Fin 64) (s : State) : Out :=
  s.serve client 0x0306 (fun _ => true) (fun t q =>
    let e := leAt q.payload 0 1
    t.checked q [5, 6, 7, 8, 9] (q.payload.length = 1 && decide (e < t.fl.entries))
      (if t.fl.storeBusy.any (fun x => x.2 = e) then t.answer q stBadState []
       else t.withTicket q (fun i =>
         let u := (t.tktIssue i q.client (.storeErase e) false).accept q i []
         { u with fl := { u.fl with ops := u.fl.ops ++ [.storeErase e t.storeSectors 0 i] } })))

end Sys2Proof.Machine
end

