-- ==== Sys2Proof/Machine/VlLanes.lean ====
section
/-!
DEFINITION. Vollor opcodes of the Lanes and Courier group, and the answer of LANE_RETIRE (R420, R430, R438, R439, R445–R449,
R463, R464).
-/
namespace Sys2Proof.Machine

/-! ### LANE_STATUS -/

/-- One entry of LANE_STATUS; a tile whose CRn is off shows state 0 throughout. -/
def State.laneEntry (s : State) (n l : Nat) : List Byte :=
  if s.domOn (domCr n) then
    leBytes 1 (s.laneSt n l) ++ leBytes 1 ((s.grpOf n l).getD 0) ++ leBytes 1 (s.fld (Reg.crLStat n l) 27 26) ++ leBytes 1 0 ++
      leBytes 4 (s.crl n l).corrLast
  else leBytes 8 0

def execLaneStatus (client : Fin 64) (s : State) : Out :=
  s.serve client 0x0A00 (fun _ => true) (fun t q =>
    let n := leAt q.payload 0 1
    t.checked q [2, 5, 6, 7, 8, 9, 10] (q.payload.length = 1 && decide (n < 8))
      (t.answer q stOk ((List.range 16).flatMap (t.laneEntry n))))

/-! ### LINK_CONFIG -/

/-- A run with EXT routes has pages in the tile. -/
def State.extTile (s : State) (n : Nat) : Bool :=
  s.so.bps.any (fun e => bpTile e.1 = n && e.2.pstate ≠ 0 && e.2.load.isNone && s.hasExt e.2.run)

/-- What waits for CRn to power up, and the wake. -/
def State.linkWait (s : State) (n op : Nat) (ws : List Word) (ticket : Option Nat) : State :=
  (s.setCrt n { s.crt n with waitOp := some (op, ws), ticket := ticket }).domWake (domCr n)

/-- Op 0: every lane off, and CRn powers down (R464); a configuration that waits for CRn is given up. -/
def State.linkOff (s : State) (n i : Nat) : State :=
  if s.domOn (domCr n) then ((s.crOp n 4 (some i)).setDom (domCr n) { s.dom (domCr n) with ph := 3 })
  else ((s.crTktEnd n 3 stBadState).setCrt n { s.crt n with ticket := none, waitOp := none }).tktEnd i 2 0

/-- Op 1, 2 or 3; while CRn is off the op waits for it, one at a time. -/
def State.linkAct (s : State) (n op : Nat) (ws : List Nat) (i : Nat) : State :=
  if s.domOn (domCr n) then (if op = 1 then s.crConfig n ws (some i) else s.crOp n op (some i))
  else if (s.crt n).waitOp.isSome then s.tktEnd i 3 stBadState
  else if op = 1 then s.linkTrain n ws (some i)
  else s.linkWait n op [] (some i)

/-- The 16 words of a configuration block. -/
def cfgWords (p : List Byte) : List Nat := (List.range 16).map (fun k => leAt p (4 + 4 * k) 4)

/-- LINK_CONFIG: the checks, then the op under its ticket. -/
def State.linkAsk (s : State) (q : VReq) (ext : Bool) (f : State → Nat → Nat → State) : State :=
  let n := leAt q.payload 0 1
  s.checked q [6, 7, 9] (q.payload.length = 68 && decide (n < 8) && decide (leAt q.payload 1 1 < 4) && zeroAt q.payload 2 2)
    (if ext && s.extTile n then s.answer q stBadState []
     else s.withTicket q (fun i => f ((s.tktIssue i q.client (.link n) false).accept q i []) n i))

/-- Op 0; an op above 3 is answered BAD_PARAM. -/
def execLinkConfigOff (client : Fin 64) (s : State) : Out :=
  s.serve client 0x0A01 (fun q => leAt q.payload 1 1 = 0 || decide (4 ≤ leAt q.payload 1 1)) (fun t q =>
    t.linkAsk q true (fun u n i => u.linkOff n i))
def execLinkConfigTrain (client : Fin 64) (s : State) : Out :=
  s.serve client 0x0A01 (fun q => leAt q.payload 1 1 = 1) (fun t q => t.linkAsk q true (fun u n i => u.linkAct n 1 (cfgWords q.payload) i))
def execLinkConfigEnterDlp (client : Fin 64) (s : State) : Out :=
  s.serve client 0x0A01 (fun q => leAt q.payload 1 1 = 2) (fun t q => t.linkAsk q true (fun u n i => u.linkAct n 2 [] i))
def execLinkConfigExit (client : Fin 64) (s : State) : Out :=
  s.serve client 0x0A01 (fun q => leAt q.payload 1 1 = 3) (fun t q => t.linkAsk q false (fun u n i => u.linkAct n 3 [] i))

/-! ### LANE_LOOPBACK, LANE_RETIRE -/

/-- A loopback on a tile whose CRn is off waits for it to power up; every lane is in state 0 there. -/
def State.loopWait (s : State) (q : VReq) (n l kind : Nat) : State :=
  let pair : List Word := [BitVec.ofNat 32 l, BitVec.ofNat 32 kind]
  match (s.crt n).waitOp with
  | none => if kind = 0 then s.answer q stBadState [] else (s.answer q stOk []).linkWait n 6 pair none
  | some (op, ws) =>
    if op = 6 then (s.setCrt n { s.crt n with waitOp := some (6, ws ++ pair) }).answer q stOk [] else s.answer q stBadState []

def execLaneLoopback (client : Fin 64) (s : State) : Out :=
  s.serve client 0x0A02 (fun _ => true) (fun t q =>
    let p := q.payload
    let n := leAt p 0 1
    let l := leAt p 1 1
    let k := leAt p 2 1
    t.checked q [9] (p.length = 3 && decide (n < 8) && decide (l < 16) && decide (k < 4))
      (if t.domOn (domCr n) then
         let (u, ok) := t.laneLoop n l k
         u.answer q (if ok then stOk else stBadState) []
       else t.loopWait q n l k))

/-- LANE_RETIRE is answered once TAKEOVER_ACK has been received. -/
def execLaneRetire (client : Fin 64) (s : State) : Out :=
  s.serve client 0x0A03 (fun _ => true) (fun t q =>
    let p := q.payload
    let n := leAt p 0 1
    let l := leAt p 1 1
    t.checked q [6, 7, 8, 9, 10] (p.length = 2 && decide (n < 8) && decide (l < 16))
      (let (u, e) := t.laneRetire n l q
       if e = 0 then u else u.answer q e []))

/-- TAKEOVER_ACK (R438, R439, R442): the peer's spare carries the lane from the next codeword on; `ns` is how long it took. -/
def execTakeoverAck (n g : Tile) (lane : Fin 16) (ns : Word) (s : State) : Out :=
  let (t, q) := s.takeoverAck n.val g.val lane.val ns.toNat
  s.when (s.domOn (domCr n.val) && (match (s.crg n.val g.val).move with | some m => m.lane = lane.val && !m.acked | none => false))
    (match q with | some r => t.answer r stOk [] | none => t)

end Sys2Proof.Machine
end

