-- ==== Sys2Proof/Machine/VlMem.lean ====
section
/-!
DEFINITION. Vollor opcodes of the Memory and register access group and of the Debug group (R389, R412, R413, R421).
-/
namespace Sys2Proof.Machine

/-- A range of the 48-bit address space. -/
def spanOk (a n : Nat) : Bool := decide (a + n ≤ 2 ^ 48)

/-- A job begins for a request, holding the ticket entry that was reserved for it at admission. -/
def State.jobBegin (s : State) (q : VReq) (j : Nat → Job) : State :=
  match q.resv with
  | none => s
  | some i =>
    let id := s.vl.nextJob
    (({ s with vl := { s.vl with nextJob := id + 1 } }).setJob id (j i)).jobStep id

/-- The data of a WRITE along its pieces. -/
def cutData (a : Nat) (d : List Byte) : List JobPiece :=
  ((cutRange (d.length + 1) a d.length).foldl (fun (acc : List JobPiece × List Byte) c =>
    (acc.1 ++ [{ addr := c.1, len := c.2, wdata := acc.2.take c.2 }], acc.2.drop c.2)) ([], d)).1

def execRead (client : Fin 64) (s : State) : Out :=
  s.serve client 0x0500 (fun _ => true) (fun t q =>
    let p := q.payload
    let a := leAt p 0 8
    let n := leAt p 8 4
    t.checked q allModes (p.length = 12 && decide (1 ≤ n) && decide (n ≤ t.lpLimit q.port q.v6 - 16) && spanOk a n)
      (t.jobBegin q (fun i => { kind := .read, req := q, ticket := i
                                pieces := (cutRange (n + 1) a n).map (fun c => { addr := c.1, len := c.2 }) })))

def execWrite (client : Fin 64) (s : State) : Out :=
  s.serve client 0x0501 (fun _ => true) (fun t q =>
    let p := q.payload
    let a := leAt p 0 8
    t.checked q allModes (decide (9 ≤ p.length) && spanOk a (p.length - 8))
      (t.jobBegin q (fun i => { kind := .write, req := q, ticket := i, pieces := cutData a (p.drop 8) })))

/-- The entries of a list payload. -/
def listEntries (sz : Nat) (p : List Byte) : List (List Byte) := (List.range (p.length / sz)).map (fun k => (p.drop (sz * k)).take sz)

/-- A list's entries: number and addresses in range, the addresses 4-byte aligned. -/
def listOk (sz most : Nat) (p : List Byte) : Bool :=
  p.length % sz = 0 && decide (sz ≤ p.length) && decide (p.length ≤ sz * most) &&
    (listEntries sz p).all (fun e => leAt e 0 8 % 4 = 0 && spanOk (leAt e 0 8) 4)

def execReadList (client : Fin 64) (s : State) : Out :=
  s.serve client 0x0502 (fun _ => true) (fun t q =>
    t.checked q allModes (listOk 8 128 q.payload)
      (t.jobBegin q (fun i => { kind := .readList, req := q, ticket := i
                                pieces := (listEntries 8 q.payload).map (fun e => { addr := leAt e 0 8, len := 4 }) })))

def execWriteList (client : Fin 64) (s : State) : Out :=
  s.serve client 0x0503 (fun _ => true) (fun t q =>
    t.checked q allModes (listOk 16 64 q.payload && (listEntries 16 q.payload).all (fun e => zeroAt e 12 4))
      (t.jobBegin q (fun i => { kind := .writeList, req := q, ticket := i
                                pieces := (listEntries 16 q.payload).map (fun e =>
                                  { addr := leAt e 0 8, len := 4, wdata := (e.drop 8).take 4 }) })))

/-- FILL always issues the ticket reserved for it. -/
def execFill (client : Fin 64) (s : State) : Out :=
  s.serve client 0x0504 (fun _ => true) (fun t q =>
    let p := q.payload
    let a := leAt p 0 8
    let n := leAt p 8 8
    t.checked q allModes (p.length = 24 && decide (1 ≤ n) && n % 64 = 0 && spanOk a n)
      (match q.resv with
       | none => t
       | some i =>
         let id := t.vl.nextJob
         let u := (t.tktIssue i q.client (.access id) true).accept q i []
         u.jobBegin q (fun i => { kind := .fill, req := { q with resv := none }, ticket := i, addr := a, len := n, pattern := leAt p 16 8 })))

/-! ### Debug (R421) -/

/-- Words from an address. -/
def wordPieces (a n : Nat) : List JobPiece := (List.range n).map (fun k => { addr := a + 4 * k, len := 4 })

def execDbgRead (client : Fin 64) (s : State) : Out :=
  s.serve client 0x0B00 (fun _ => true) (fun t q =>
    let p := q.payload
    let a := leAt p 0 8
    let n := leAt p 8 2
    t.checked q allModes (p.length = 16 && a % 4 = 0 && decide (1 ≤ n) && decide (n ≤ (t.lpLimit q.port q.v6 - 16) / 4) &&
        decide (leAt p 10 1 < 2) && zeroAt p 11 5 && spanOk a (4 * n))
      (t.jobBegin q (fun i => { kind := .dbgRead, req := q, ticket := i, pieces := wordPieces a n, consume := bitOf (leAt p 10 1) 0 })))

def execDbgWrite (client : Fin 64) (s : State) : Out :=
  s.serve client 0x0B01 (fun _ => true) (fun t q =>
    let p := q.payload
    let a := leAt p 0 8
    t.checked q allModes (decide (12 ≤ p.length) && (p.length - 8) % 4 = 0 && a % 4 = 0 && spanOk a (p.length - 8))
      (t.jobBegin q (fun i => { kind := .dbgWrite, req := q, ticket := i
                                pieces := (listEntries 4 (p.drop 8)).mapIdx (fun k e => { addr := a + 4 * k, len := 4, wdata := e }) })))

/-- DBG_CORE writes the core's control register under R259, through the debug access engine and with its other fields as they
stand; the reply holds the core's status as the write has left it (log entry 55). -/
def State.dbgCore (s : State) (q : VReq) (w : Nat) : State :=
  let c := leAt q.payload 0 1
  s.checked q allModes (q.payload.length = 2 && decide (c < 4))
    (s.jobBegin q (fun i => { kind := .dbgCore, req := q, ticket := i, pieces :=
      [{ addr := (Reg.dbgCCtrl c).addr, len := 4, wdata := leBytes 4 (s.fld (Reg.dbgCCtrl c) 5 3 * 8 + w) }] }))

/-- DBG_CORE with action 0, halt; an action above 2 is answered BAD_PARAM. -/
def execDbgCoreHalt (client : Fin 64) (s : State) : Out :=
  s.serve client 0x0B02 (fun q => leAt q.payload 1 1 ≠ 1 && leAt q.payload 1 1 ≠ 2) (fun t q =>
    if leAt q.payload 1 1 = 0 then t.dbgCore q 1 else t.checked q allModes false t)

/-- DBG_CORE with action 1, resume. -/
def execDbgCoreResume (client : Fin 64) (s : State) : Out :=
  s.serve client 0x0B02 (fun q => leAt q.payload 1 1 = 1) (fun t q => t.dbgCore q 2)

/-- DBG_CORE with action 2, step. -/
def execDbgCoreStep (client : Fin 64) (s : State) : Out :=
  s.serve client 0x0B02 (fun q => leAt q.payload 1 1 = 2) (fun t q => t.dbgCore q 4)

end Sys2Proof.Machine
end

