-- ==== Sys2Proof/Machine/VlRuns.lean ====
section
/-!
DEFINITION. Vollor opcodes of the Runs group (R191, R196–R199, R207, R208, R220, R411).
-/
namespace Sys2Proof.Machine

/-- Modes of the run requests: in 2 they are handled as in 5 once the Sorting Office is ready (R411). -/
def runModes : List Nat := [2, 5, 6, 7, 8]

/-- A request that waits in a run's pending slot is replaced by a later one (R197). -/
def State.dropPend (s : State) (r : Nat) : State :=
  match (s.run r).pend with
  | none => s
  | some p =>
    let s1 := match p.ticket with
      | some t => if tktLive (s.tkt t) then s.setTkt t { s.tkt t with state := 4, err := stSuperseded } else s
      | none => s
    s1.setRun r { s1.run r with pend := none }

/-- A request for run r (R196, R197): `early` is the status of the checks made on arrival, `err` that of the checks made when
the request starts. While an operation is in progress, or while EN = 0, the request goes to the pending slot. -/
def State.runAsk (s : State) (q : VReq) (r early err : Nat) (x : PendReq) : State :=
  if (s.run r).state = .empty then s.answer q stBadParam []
  else if early ≠ 0 then s.answer q early []
  else
    let waits := (s.run r).curOp ≠ RunOp.none || !s.bit Reg.soCtrl 0
    if !waits && err ≠ 0 then s.answer q err []
    else s.withTicket q (fun i =>
      let u := (s.tktIssue i q.client (.runOp r) false).accept q i []
      if waits then u.reqPend r { x with ticket := some i } else (u.dropPend r).reqRun r { x with ticket := some i })

def execRunCreate (client : Fin 64) (s : State) : Out :=
  s.serve client 0x0400 (fun _ => true) (fun t q =>
    let p := q.payload
    let d := leAt p 0 2
    t.checked q runModes (p.length = 8 && decide (d < 1024) && decide (leAt p 2 1 < 16) && decide (leAt p 3 1 < 2) && zeroAt p 5 3)
      (let (u, e, r) := t.runCreate client d (leAt p 2 1) (maskOf (leAt p 4 1)) (bitOf (leAt p 3 1) 0)
       if e = stBusy then u.keep q else u.answer q e (if e = 0 then leBytes 2 r else [])))

def execRunStart (client : Fin 64) (s : State) : Out :=
  s.serve client 0x0401 (fun _ => true) (fun t q =>
    let r := leAt q.payload 0 2
    let x : PendReq := { op := .start, ticket := none }
    t.checked q runModes (q.payload.length = 2 && decide (r < 4096)) (t.runAsk q r 0 (t.reqErr r x) x))

/-- STOP = 0 is refused for a run with EXT routes (R208). -/
def execRunSuspend (client : Fin 64) (s : State) : Out :=
  s.serve client 0x0402 (fun _ => true) (fun t q =>
    let p := q.payload
    let r := leAt p 0 2
    let x : PendReq := { op := .suspend, ticket := none, stop := leAt p 8 8 }
    t.checked q runModes (p.length = 16 && decide (r < 4096) && zeroAt p 2 6)
      (t.runAsk q r (if t.hasExt r && x.stop = 0 then stBadParam else 0) (t.reqErr r x) x))

def execRunResume (client : Fin 64) (s : State) : Out :=
  s.serve client 0x0403 (fun _ => true) (fun t q =>
    let r := leAt q.payload 0 2
    let x : PendReq := { op := .start, ticket := none, isResume := true }
    t.checked q runModes (q.payload.length = 2 && decide (r < 4096)) (t.runAsk q r 0 (t.reqErr r x) x))

def execRunEnd (client : Fin 64) (s : State) : Out :=
  s.serve client 0x0404 (fun _ => true) (fun t q =>
    let r := leAt q.payload 0 2
    let x : PendReq := { op := .endRun, ticket := none }
    t.checked q runModes (q.payload.length = 2 && decide (r < 4096)) (t.runAsk q r 0 (t.reqErr r x) x))

/-- In mode 5 only a page that is not resident is swapped (R198). -/
def execRunSwap (client : Fin 64) (s : State) : Out :=
  s.serve client 0x0405 (fun _ => true) (fun t q =>
    let p := q.payload
    let r := leAt p 0 2
    let x : PendReq := { op := .swap, ticket := none, page := leAt p 2 2, design := leAt p 4 2, newPage := leAt p 6 2 }
    let placed := (vPlace t.so.bps r x.page).isSome && (t.mode = 2 || t.mode = 5)
    let now := t.reqErr r x = 0 && !placed && (t.run r).curOp = RunOp.none && t.bit Reg.soCtrl 0
    let (u, e, _, _) := t.swapCheck r x
    t.checked q runModes (p.length = 8 && decide (r < 4096) && decide (x.design < 1024) && decide (x.page < 2048) && decide (x.newPage < 2048))
      (if now then u.runAsk q r 0 e x else t.runAsk q r 0 stBadState x))

def execRunCompact (client : Fin 64) (s : State) : Out :=
  s.serve client 0x0406 (fun _ => true) (fun t q => t.checked q [6] q.payload.isEmpty
    (t.withTicket q (fun i => ((t.tktIssue i q.client .compact false).accept q i []).compactAll i)))

def execRunStatus (client : Fin 64) (s : State) : Out :=
  s.serve client 0x0407 (fun _ => true) (fun t q =>
    let r := leAt q.payload 0 2
    t.checked q [5, 6, 7, 8, 9, 10] (q.payload.length = 2 && decide (r < 4096) && (t.run r).state ≠ .empty)
      (t.answer q stOk ((List.range 16).flatMap (fun w => leBytes 4 (t.runWord r w)))))

def execRunSet (client : Fin 64) (s : State) : Out :=
  s.serve client 0x0408 (fun _ => true) (fun t q =>
    let p := q.payload
    let r := leAt p 0 2
    t.checked q [5, 6, 7, 8] (p.length = 8 && decide (r < 4096) && decide (leAt p 2 1 < 16) && decide (leAt p 3 1 < 2) && zeroAt p 5 3 &&
        (t.run r).state ≠ .empty)
      ((t.setRun r { t.run r with prio := leAt p 2 1, wholeBay := bitOf (leAt p 3 1) 0, tileMask := maskOf (leAt p 4 1) }).answer q stOk []))

/-- One byte of RUN_LIST. -/
def State.runListByte (s : State) (k : Nat) : Byte :=
  BitVec.ofNat 8 ((List.range 8).foldl (fun v b => v + b2n (decide ((s.run (8 * k + b)).state ≠ .empty)) * 2 ^ b) 0)

def execRunList (client : Fin 64) (s : State) : Out :=
  s.serve client 0x0409 (fun _ => true) (fun t q => t.checked q [5, 6, 7, 8, 9, 10] q.payload.isEmpty
    (t.answer q stOk ((List.range 512).map t.runListByte)))

end Sys2Proof.Machine
end

