-- ==== Sys2Proof/Machine/VlSnaps.lean ====
section
/-!
DEFINITION. Vollor opcodes of the Snapshots and triggers group (R225, R231–R238, R240–R250, R415–R417).
-/
namespace Sys2Proof.Machine

/-- Modes of most of the group. -/
def snapModes : List Nat := [5, 6, 7, 8]

/-! ### SNAP_TAKE -/

/-- Whether an entry of the Snapshot Table is free. -/
def State.entryFree (s : State) (k : Nat) : Bool := (s.snap k).state = 0 && (s.snap k).ring.isNone

/-- Whether R231 admits a snapshot of run r now. -/
def State.snapAdmits (s : State) (r : Nat) : Bool :=
  let x := s.run r
  (decide (6 ≤ s.mode) && (x.state = .running || x.state = .loading)) ||
    (x.state = .suspended && (List.range x.pageCount).all (fun j => (s.pmGet (x.stateBase + j) r).2.stat ≠ 0))

/-- The run is read where it stands: it is SUSPENDED, or held in mode 8. -/
def State.standsStill (s : State) (r : Nat) : Bool := (s.run r).state = .suspended || (s.mode = 8 && (s.run r).held)

/-- The AT in force: with FLUSH and AT = 0, 64 cycles past the DCC (R225). -/
def State.snapAt (s : State) (r : Nat) (flush : Bool) (at' : Nat) : Nat :=
  if flush && at' = 0 && !s.standsStill r then s.dccOf r + 64 else at'

/-- An entry allocated for a request, and the capture begun. -/
def State.snapIssue (s : State) (q : VReq) (k h n i : Nat) : State :=
  let p := q.payload
  let r := leAt p 0 2
  let flush := bitOf (leAt p 2 1) 1
  let u := ((s.tktIssue i q.client (.snapTake k) false).tktData i (leBytes 2 k)).accept q i (leBytes 2 k)
  let base : Snap := { state := 1, mem := bitOf (leAt p 2 1) 0, run := r, ticket := some i, segBase := h, pageCount := n, alloc := true
                       flush := flush && (!s.standsStill r || s.portsClean r), atCycle := s.snapAt r flush (leAt p 8 8) }
  (u.setSnap k base).snapBegin k

def execSnapTake (client : Fin 64) (s : State) : Out :=
  s.serve client 0x0700 (fun _ => true) (fun t q =>
    let p := q.payload
    let r := leAt p 0 2
    t.checked q snapModes (p.length = 16 && decide (r < 4096) && decide (leAt p 2 1 < 4) && zeroAt p 3 5 && (t.run r).state ≠ .empty)
      (if !t.snapAdmits r then t.answer q stBadState []
       else match (List.range 1024).find? t.entryFree with
         | none => t.answer q stNoResource []
         | some k => t.withTicket q (fun i =>
           match t.runPages r with
           | (u, none) => u.answer q stIntegrity []
           | (u, some ps) =>
             match u.segAlloc client r (bitOf (leAt p 2 1) 0) ps with
             | (.short v, _) => v.answer q stNoResource []
             | (.waits v, _) => v.keep q
             | (.done v, h) => v.snapIssue q k h ps.length i)))

/-! ### Rings -/

/-- The ring of a run. -/
def State.ringOf (s : State) (r : Nat) : Option Nat := (s.so.rings.find? (fun e => e.2.run = r)).map Prod.fst

/-- A slot of a ring that its removal frees: unlocked, not capturing, not pinned (R416). -/
def State.slotGoes (s : State) (k : Nat) : Bool := !(s.snap k).lock && (s.snap k).state ≠ 2 && !(s.snap k).pin

/-- The slots of a ring. -/
def State.ringSlots (s : State) (g : Nat) : List Nat :=
  match s.ring g with | some x => (List.range x.slots).map (x.first + ·) | none => []

/-- A ring removed: the slots that stay become ordinary snapshots. -/
def State.ringDrop (s : State) (g : Nat) : State :=
  let s1 := s.each (s.ringSlots g) (fun t k =>
    if t.slotGoes k then t.snapDrop k else t.setSnap k { t.snap k with ring := none })
  { s1 with so := { s1.so with rings := SMap.erase s1.so.rings g } }

/-- The first of `n` consecutive entries that are free, counting the slots that the old ring gives up. -/
def State.ringRoom (s : State) (old : Option Nat) (n : Nat) : Option Nat :=
  let mine := match old with | some g => (s.ringSlots g).filter s.slotGoes | none => []
  let ok := (List.range 1024).filter (fun k => s.entryFree k || mine.contains k)
  ok.find? (fun k => decide (k + n ≤ 1024) && (List.range n).all (fun j => ok.contains (k + j)))

/-- A ring begun, and its first slot prepared. -/
def State.ringBegin (s : State) (g : Nat) (x : Ring) : State :=
  let s1 := s.each (List.range x.slots) (fun t j => t.setSnap (x.first + j) { t.snap (x.first + j) with ring := some g })
  (s1.setRing g x).ringAhead g

/-- A reply of SNAP_RING. -/
def ringReply (g first : Nat) : List Byte := leBytes 1 g ++ leBytes 1 0 ++ leBytes 2 first

def execSnapRing (client : Fin 64) (s : State) : Out :=
  s.serve client 0x0701 (fun _ => true) (fun t q =>
    let p := q.payload
    let r := leAt p 0 2
    let n := leAt p 2 2
    let every := leAt p 4 1
    let period := leAt p 8 8
    let old := t.ringOf r
    t.checked q snapModes (p.length = 16 && decide (r < 4096) && decide (n ≤ 256) && decide (leAt p 5 1 < 2) && zeroAt p 6 2 &&
        (t.run r).state ≠ .empty && (n = 0 || (period ≠ 0 && (every = 0 || n % every = 0))))
      (if n = 0 then
         match old with
         | some g => (t.ringDrop g).answer q stOk (ringReply g (((t.ring g).map (fun (x : Ring) => x.first)).getD 0))
         | none => (t.answer q stOk (leBytes 1 (t.freeVal 256) ++ leBytes 1 0 ++ leBytes 2 (t.drawn.freeVal 65536))).drawn.drawn
       else
         match (old.orElse (fun _ => (List.range 64).find? (fun g => (t.ring g).isNone))), t.ringRoom old n with
         | some g, some first =>
           let u := match old with | some o => t.ringDrop o | none => t
           (u.ringBegin g { flush := bitOf (leAt p 5 1) 0, run := r, slots := n, first := first, period := period, memEvery := every }).answer
             q stOk (ringReply g first)
         | _, _ => t.answer q stNoResource []))

/-! ### SNAP_LOCK, SNAP_FREE, SNAP_RESTORE, SNAP_READ -/

def execSnapLock (client : Fin 64) (s : State) : Out :=
  s.serve client 0x0702 (fun _ => true) (fun t q =>
    let p := q.payload
    let k := leAt p 0 2
    t.checked q snapModes (p.length = 3 && decide (k < 1024) && decide (leAt p 2 1 < 2) && (t.snap k).state ≠ 0)
      ((t.setSnap k { t.snap k with lock := bitOf (leAt p 2 1) 0 }).answer q stOk []))

/-- A freed ring slot stays a slot of its ring. -/
def execSnapFree (client : Fin 64) (s : State) : Out :=
  s.serve client 0x0703 (fun _ => true) (fun t q =>
    let k := leAt q.payload 0 2
    let x := t.snap k
    t.checked q snapModes (q.payload.length = 2 && decide (k < 1024) && x.state ≠ 0)
      (if x.state = 2 || x.pin then t.answer q stBadState []
       else ((t.snapDrop k).setSnap k { ring := x.ring }).answer q stOk []))

/-- The ticket is done once the target is marked (R250). -/
def execSnapRestore (client : Fin 64) (s : State) : Out :=
  s.serve client 0x0704 (fun _ => true) (fun t q =>
    let p := q.payload
    let k := leAt p 0 2
    let r := leAt p 2 2
    let e := t.restoreErr r k (bitOf (leAt p 4 1) 0)
    t.checked q snapModes (p.length = 8 && decide (k < 1024) && decide (r < 4096) && decide (leAt p 4 1 < 2) && zeroAt p 5 3 &&
        (t.snap k).state ≠ 0 && (t.run r).state ≠ .empty)
      (if e ≠ 0 then t.answer q e []
       else t.withTicket q (fun i =>
         (((t.tktIssue i q.client (.snapRestore r) true).accept q i []).restoreMark r k).tktEnd i 2 0)))

def execSnapRead (client : Fin 64) (s : State) : Out :=
  s.serve client 0x0705 (fun _ => true) (fun t q =>
    let p := q.payload
    let k := leAt p 0 2
    let j := leAt p 2 2
    let off := leAt p 4 4
    let n := leAt p 8 4
    let x := t.snap k
    t.checked q snapModes (p.length = 12 && decide (k < 1024) && x.state ≠ 0 && decide (j < x.pageCount) && decide (1 ≤ n) &&
        decide (n ≤ t.lpLimit q.port q.v6 - 8))
      (let (u, e) := t.pmGet (x.segBase + j) x.run
       let a := granAddr e.stack e.granule
       let h := u.dramRead a 64 0x20
       let len := min n (64 + leAt h.data 0x1C 4 - off)
       let g := h.st.dramRead (a + off) len 0x20
       if e.stat ≠ 1 then u.answer q stBadState []
       else if h.cause ≠ 0 then h.st.answer q (statusOf (some (1, h.cause))) []
       else if len = 0 then h.st.answer q stOk (leBytes 8 0)
       else if g.cause ≠ 0 then g.st.answer q (statusOf (some (1, g.cause))) []
       else g.st.answer q stOk (leBytes 4 len ++ leBytes 4 0 ++ g.data)))

/-! ### Triggers (R417) -/

/-- TRIG_SET's writes: CTRL with EN = 0, every other field in offset order, CTRL as given. -/
def State.trigSet (s : State) (u : Nat) (p : List Byte) : State :=
  let a := 0x1C0000 + 64 * u
  let s1 := s.trgWrite u a (leAt p 4 4 % 2 ^ 31)
  let s2 := s1.each (List.range 6) (fun t k => t.trgWrite u (a + 4 + 4 * k) (leAt p (8 + 4 * k) 4))
  let s3 := s2.each (List.range 3) (fun t k => t.trgWrite u (a + 0x1C + 4 * k) (leAt p (32 + 4 * k) 4))
  let s4 := s3.each (List.range 64) (fun t k => t.plainWrite (0x1C1000 + 256 * u + 4 * k) (leAt p (44 + 4 * k) 4))
  s4.trgWrite u a (leAt p 4 4)

def execTrigSet (client : Fin 64) (s : State) : Out :=
  s.serve client 0x0706 (fun _ => true) (fun t q =>
    let p := q.payload
    let u := leAt p 0 1
    t.checked q snapModes (p.length = 300 && decide (u < 64) && zeroAt p 1 3)
      (let v := t.trigSet u p
       v.answer q stOk (leBytes 4 (v.rd (Reg.trgStat u)))))

/-- One entry of TRIG_STATUS. -/
def State.trigEntry (s : State) (u : Nat) : List Byte :=
  leBytes 4 (s.rd (Reg.trgStat u)) ++ leBytes 8 (s.rd64 (Reg.trgFireDccLo u) (Reg.trgFireDccHi u))

def execTrigStatus (client : Fin 64) (s : State) : Out :=
  s.serve client 0x0707 (fun _ => true) (fun t q => t.checked q [5, 6, 7, 8, 9, 10] q.payload.isEmpty
    (((t.wr Reg.trgFiredLo 0).wr Reg.trgFiredHi 0).answer q stOk
      (leBytes 8 (t.rd64 Reg.trgFiredLo Reg.trgFiredHi) ++ leBytes 4 (t.rd Reg.trgLast) ++ leBytes 4 (t.rd Reg.trgLastGap) ++
        (List.range 64).flatMap t.trigEntry)))

/-! ### STEP (R246, R247) -/

/-- A run can be stepped: RUNNING and held. -/
def State.stepOk (s : State) (r : Nat) : Bool := (s.run r).state = .running && (s.run r).held

def execStep (client : Fin 64) (s : State) : Out :=
  s.serve client 0x0708 (fun _ => true) (fun t q =>
    let p := q.payload
    let r := leAt p 0 2
    t.checked q [8] (p.length = 6 && decide (r < 4096) && decide (leAt p 2 1 < 2) && zeroAt p 3 1 && decide (1 ≤ leAt p 4 2) &&
        (t.run r).state ≠ .empty)
      (if t.stepOk r then t.withTicket q (fun i =>
         ((t.tktIssue i q.client (.step r) true).accept q i []).stepBegin r (leAt p 4 2) (bitOf (leAt p 2 1) 0) i)
       else t.answer q stBadState []))

end Sys2Proof.Machine
end

