-- ==== Sys2Proof/Machine/VlStreams.lean ====
section
/-!
DEFINITION. Vollor opcodes of the Streams group and the delivery of buffered stream data (R395–R399, R414).
-/
namespace Sys2Proof.Machine

/-- Modes of the group. -/
def streamModes : List Nat := [5, 6, 7, 8]

/-! ### Accesses of the engine -/

/-- A range written piece by piece; the CAUSE of the first piece that fails, 0 for none. -/
def State.ringWrite (s : State) (a : Nat) (d : List Byte) : State × Nat :=
  (cutData a d).foldl (fun (r : State × Nat) p =>
    if r.2 ≠ 0 then r else let g := r.1.engineAccess 0 0x08 p.addr p.len true p.wdata; (g.st, g.cause)) (s, 0)

/-- A range read piece by piece. -/
def State.ringRead (s : State) (a n : Nat) : State × Nat × List Byte :=
  (cutRange (n + 1) a n).foldl (fun (r : State × Nat × List Byte) c =>
    if r.2.1 ≠ 0 then r else
      let g := r.1.engineAccess 0 0x08 c.1 c.2 false []
      (g.st, g.cause, r.2.2 ++ g.data)) (s, 0, [])

/-- A stream, and its ring size. -/
def State.stream (s : State) (k : Nat) : Option Stream := SMap.find s.vl.streams k
def State.setStream (s : State) (k : Nat) (x : Stream) : State := { s with vl := { s.vl with streams := SMap.put s.vl.streams k x } }
def ringSize (x : Stream) : Nat := 2 ^ x.logSize

/-- A range of a ring from stream byte `n`: the part before the end of the ring, then the part from its start. -/
def State.ringPut (s : State) (x : Stream) (n : Nat) (d : List Byte) : State × Nat :=
  let o := n % ringSize x
  let (t, c) := s.ringWrite (x.ringBase + o) (d.take (ringSize x - o))
  if c ≠ 0 then (t, c) else t.ringWrite x.ringBase (d.drop (ringSize x - o))
def State.ringGet (s : State) (x : Stream) (n len : Nat) : State × Nat × List Byte :=
  let o := n % ringSize x
  let k := min len (ringSize x - o)
  let (t, c, d) := s.ringRead (x.ringBase + o) k
  if c ≠ 0 then (t, c, []) else
    let (u, e, f) := t.ringRead x.ringBase (len - k)
    (u, e, d ++ f)

/-- TAIL and HEAD of a control block. -/
def State.ringCtl (s : State) (x : Stream) : State × Nat × Nat × Nat :=
  let g := s.engineAccess 0 0x08 x.ctl 16 false []
  (g.st, g.cause, leAt g.data 0 8, leAt g.data 8 8)

/-- Bytes from HEAD to TAIL, modulo 2^64. -/
def ringHeld (tail head : Nat) : Nat := (tail + 2 ^ 64 - head % 2 ^ 64) % 2 ^ 64

/-- The reply status of a failed access of the engine (R413, R414). -/
def causeStatus (c : Nat) : Nat := statusOf (some (1, c))

/-! ### STREAM_OPEN and the stream of a request -/

/-- STREAM_OPEN's fields are in range. -/
def State.streamAskOk (s : State) (p : List Byte) : Bool :=
  let r := leAt p 0 2
  let lg := leAt p 3 1
  let al := leAt p 4 2
  let base := leAt p 8 8
  p.length = 24 && decide (r < 4096) && (s.run r).state ≠ .empty && decide (leAt p 2 1 < 2) && decide (12 ≤ lg) && decide (lg ≤ 30) &&
    (leAt p 2 1 = 1 || (decide (36 ≤ al) && decide (al ≤ 4096))) && zeroAt p 6 2 && base % 2 ^ lg = 0 && rangeOk base (base + 2 ^ lg) &&
    leAt p 16 8 % 64 = 0 && spanOk (leAt p 16 8) 64

/-- Buffers of the pool given to allotments. -/
def State.poolUsed (s : State) : Nat := (s.vl.streams.map (fun (e : Nat × Stream) => e.2.allot)).sum

/-- The lowest free stream ID. -/
def State.streamFree (s : State) : Option Nat := (List.range 16384).find? (fun k => (s.stream k).isNone)

def execStreamOpen (client : Fin 64) (s : State) : Out :=
  s.serve client 0x0600 (fun _ => true) (fun t q =>
    let p := q.payload
    let out := leAt p 2 1 = 1
    let al := if out then 0 else leAt p 4 2
    t.checked q streamModes (t.streamAskOk p)
      (match t.streamFree with
       | none => t.answer q stNoResource []
       | some k =>
         if 32768 < t.poolUsed + al then t.answer q stNoResource []
         else (t.setStream k { run := leAt p 0 2, toHost := out, ringBase := leAt p 8 8, logSize := leAt p 3 1, ctl := leAt p 16 8, allot := al }).answer
           q stOk (leBytes 2 k)))

/-- The open stream that a header names. -/
def State.streamOf (s : State) (q : VReq) : Option (Nat × Stream) :=
  if bitOf q.stream 31 && bitsOf q.stream 30 14 = 0 then (s.stream (q.stream % 16384)).map (fun x => (q.stream % 16384, x)) else none

/-- Mode, header and payload checks, then the stream. -/
def State.onStream (s : State) (q : VReq) (good : Bool) (f : Nat → Stream → State) : State :=
  s.checked q streamModes good (match s.streamOf q with | some (k, x) => f k x | none => s.answer q stBadParam [])

/-! ### The other opcodes -/

def execStreamClose (client : Fin 64) (s : State) : Out :=
  s.serve client 0x0601 (fun _ => true) (fun t q => t.onStream q q.payload.isEmpty (fun k _ =>
    ({ t with vl := { t.vl with streams := SMap.erase t.vl.streams k } }).answer q stOk []))

/-- The stream buffers that a payload fills. -/
def bufsOf (d : List Byte) : List (List Byte) := (List.range ((d.length + 255) / 256)).map (fun k => (d.drop (256 * k)).take 256)

/-- RETRY_US of a stream without buffers is an estimate: a free value from 10 to 1,000,000 (R396). -/
def State.streamRetry (s : State) : Nat := 10 + s.freeVal 999991

def execStreamData (client : Fin 64) (s : State) : Out :=
  s.serve client 0x0602 (fun _ => true) (fun t q => t.onStream q (!q.payload.isEmpty) (fun k x =>
    if x.toHost then t.answer q stBadState []
    else if q.aux ≠ x.nextOff % 2 ^ 32 then t.answer q stBadParam []
    else if x.allot < x.bufs.length + (bufsOf q.payload).length then (t.handlerBusy q t.streamRetry).drawn
    else (t.setStream k { x with bufs := x.bufs ++ bufsOf q.payload, nextOff := x.nextOff + q.payload.length }).answer q stOk []))

/-- Bytes from HEAD toward TAIL; HEAD is advanced once the reply is built. -/
def State.streamTake (s : State) (q : VReq) (x : Stream) (want : Nat) : State :=
  let (t, c, tail, head) := s.ringCtl x
  if c ≠ 0 then t.answer q (causeStatus c) []
  else
    let n := min (min want (ringHeld tail head)) (min (ringSize x) (s.lpLimit q.port q.v6 - 8))
    let (u, e, d) := t.ringGet x head n
    if e ≠ 0 then u.answer q (causeStatus e) []
    else if n = 0 then u.answer q stOk (leBytes 8 head)
    else
      let g := u.engineAccess 0 0x08 (x.ctl + 8) 8 true (leBytes 8 (head + n))
      if g.cause ≠ 0 then g.st.answer q (causeStatus g.cause) [] else g.st.answer q stOk (leBytes 8 head ++ d)

def execStreamRead (client : Fin 64) (s : State) : Out :=
  s.serve client 0x0603 (fun _ => true) (fun t q => t.onStream q (q.payload.length = 4) (fun _ x =>
    if x.toHost then t.streamTake q x (leAt q.payload 0 4) else t.answer q stBadState []))

/-- A stream delivers while its run is RUNNING (R398). -/
def State.delivers (s : State) (x : Stream) : Bool := !x.toHost && (s.run x.run).state = .running

def execStreamStatus (client : Fin 64) (s : State) : Out :=
  s.serve client 0x0604 (fun _ => true) (fun t q => t.onStream q q.payload.isEmpty (fun _ x =>
    let (u, c, tail, head) := t.ringCtl x
    if c ≠ 0 then u.answer q (causeStatus c) []
    else u.answer q stOk (leBytes 8 head ++ leBytes 8 tail ++ leBytes 2 (x.allot - x.bufs.length) ++ leBytes 2 x.allot ++
      leBytes 1 (b2n x.toHost) ++ leBytes 1 (b2n (t.delivers x)) ++ leBytes 2 x.run)))

/-! ### STREAM_DELIVERY (R395, R398) -/

/-- Whole buffers, oldest first, that fit into `room` bytes. -/
def fitting : List (List Byte) → Nat → List (List Byte)
  | [], _ => []
  | b :: bs, room => if b.length ≤ room then b :: fitting bs (room - b.length) else []

/-- STREAM_DELIVERY: HEAD is polled; the buffers that it leaves room for are written into the ring, then TAIL; they return to
the allotment once both have succeeded. -/
def execStreamDelivery (id : BitVec 14) (s : State) : Out :=
  let k := id.toNat
  match s.stream k with
  | none => .next s
  | some x =>
    let sent := x.nextOff - (x.bufs.map List.length).sum
    let (t, c, _, head) := s.ringCtl x
    let out := fitting x.bufs (ringSize x - ringHeld sent head)
    let d := out.flatten
    let (u, e) := t.ringPut x sent d
    let g := u.engineAccess 0 0x08 x.ctl 8 true (leBytes 8 (sent + d.length))
    let res :=
      if c ≠ 0 || out.isEmpty then t
      else if e ≠ 0 then u
      else if g.cause ≠ 0 then g.st
      else g.st.setStream k { x with bufs := x.bufs.drop out.length }
    s.when (s.hubOn && !x.bufs.isEmpty && s.delivers x) res

end Sys2Proof.Machine
end

