-- ==== Sys2Proof/Machine/VlUpdate.lean ====
section
/-!
DEFINITION. Vollor opcodes of the Update and of the Event log group (R418, R419, R494, R498–R502, R503, R513, R514).
-/
namespace Sys2Proof.Machine

/-! ### Update (R418) -/

def updModes : List Nat := [5, 6, 7, 8, 9]

/-- UPDATE_BEGIN is taken in state 0 with no promotion and no staging ticket active, for an image of up to 16 MiB (R494). -/
def execUpdateBegin (client : Fin 64) (s : State) : Out :=
  s.serve client 0x0800 (fun _ => true) (fun t q =>
    let n := leAt q.payload 0 8
    let r := t.bootRec
    t.checked q updModes (q.payload.length = 8)
      (if r.stage ≠ 0 || r.promote ≠ 0 || t.fl.stg.isSome || decide (0x1000000 < n) then t.answer q stBadState []
       else t.withTicket q (fun i =>
         let u := ((t.tktIssue i q.client .update true).accept q i []).bootWrite (fun x => { x with stage := 1 })
         { u with fl := { u.fl with staging := [], stg := some { ticket := i, len := n } } })))

/-- The staging in progress, when the handle is that of its ticket. -/
def State.stgOf (s : State) (h : Nat) : Option Staging :=
  match s.tktOf h, s.fl.stg with
  | some i, some g => if g.ticket = i && tktLive (s.tkt i) then some g else none
  | _, _ => none

/-- A piece of the image: the rules of LOAD_DATA over a piece buffer of the same size. -/
def State.stageTake (s : State) (q : VReq) (g : Staging) : State :=
  let d := q.payload.drop 16
  let off := leAt q.payload 8 8
  let held := (stageWaiting s.fl.ops).length
  if off ≠ g.got || decide (g.len < off + d.length) then s.answer q stBadParam []
  else if pieceBuf < held + d.length then s.handlerBusy q (pieceRetry d.length (pieceBuf - held))
  else ({ s with fl := { s.fl with ops := s.fl.ops ++ [FlashOp.stage d], stg := some { g with got := g.got + d.length } } }).answer q stOk []

def execUpdateData (client : Fin 64) (s : State) : Out :=
  s.serve client 0x0801 (fun _ => true) (fun t q =>
    let p := q.payload
    t.checked q updModes (decide (17 ≤ p.length) && zeroAt p 4 4)
      (match t.stgOf (leAt p 0 4) with
       | some g => t.stageTake q g
       | none => t.answer q stBadState []))

/-- UPDATE_END: the image is franked over everything received, or the ticket fails (R418, R494). -/
def execUpdateEnd (client : Fin 64) (s : State) : Out :=
  s.serve client 0x0802 (fun _ => true) (fun t q =>
    t.checked q updModes (q.payload.length = 4)
      (match t.stgOf (leAt q.payload 0 4) with
       | some g => (t.answer q stOk []).stageEnd g
       | none => t.answer q stBadState []))

def execUpdateStatus (client : Fin 64) (s : State) : Out :=
  s.serve client 0x0803 (fun _ => true) (fun t q =>
    let r := t.bootRec
    t.checked q allModes q.payload.isEmpty
      (t.answer q stOk (leBytes 4 r.verA ++ leBytes 4 r.verS ++ leBytes 4 r.verF ++ leBytes 1 (b2n (t.pw.image = 3)) ++ leBytes 1 r.stage ++
        leBytes 2 0)))

/-- An erase of staging waits or is under way. -/
def isStageErase (o : FlashOp) : Bool := match o with | .stageErase _ _ _ => true | _ => false

/-- UPDATE_DISCARD in states 1–3: a writing ticket ends abandoned, and staging is erased. -/
def execUpdateDiscard (client : Fin 64) (s : State) : Out :=
  s.serve client 0x0804 (fun _ => true) (fun t q =>
    let r := t.bootRec
    t.checked q updModes q.payload.isEmpty
      (if r.stage = 0 || decide (4 ≤ r.stage) || t.fl.ops.any isStageErase then t.answer q stBadState []
       else t.withTicket q (fun i =>
         let s1 := match t.fl.stg with | some g => t.tktEnd g.ticket 5 0 | none => t
         let s2 := (s1.tktIssue i q.client .updDiscard false).accept q i []
         let n := max 1 (sectorsOf t.fl.staging.length)
         { s2 with fl := { s2.fl with stg := none, ops := s2.fl.ops.filter notStage ++ [FlashOp.stageErase n 0 i] } })))

/-- UPDATE_REVERT in state 4, or in state 0 outside a promotion. -/
def execUpdateRevert (client : Fin 64) (s : State) : Out :=
  s.serve client 0x0805 (fun _ => true) (fun t q =>
    let r := t.bootRec
    t.checked q [3, 5, 6, 7, 8, 9] q.payload.isEmpty
      (if r.stage = 4 then (t.bootWrite (fun x => { x with next := 0, stage := 2 })).answer q stOk []
       else if r.stage = 0 && r.promote = 0 then
         (({ t with fl := { t.fl with staging := t.fl.fallback } }).bootWrite (fun x => { x with next := 1, stage := 3, verS := x.verF })).answer
           q stOk []
       else t.answer q stBadState []))

/-! ### Settings -/

def setModes : List Nat := [2, 3, 5, 6, 7, 8, 9]

def execSettingsRead (client : Fin 64) (s : State) : Out :=
  s.serve client 0x0806 (fun _ => true) (fun t q =>
    let k := leAt q.payload 0 2
    let v := SMap.get t.settings k []
    t.checked q setModes (q.payload.length = 2 && settingsKey k) (t.answer q stOk (leBytes 2 v.length ++ leBytes 2 0 ++ v)))

def execSettingsWrite (client : Fin 64) (s : State) : Out :=
  s.serve client 0x0807 (fun _ => true) (fun t q =>
    let p := q.payload
    let n := leAt p 2 2
    t.checked q setModes (decide (4 ≤ p.length) && p.length = 4 + n && decide (n ≤ 256) && settingsKey (leAt p 0 2))
      (t.withTicket q (fun i =>
        let u := (t.tktIssue i q.client .settings false).accept q i []
        { u with fl := { u.fl with ops := u.fl.ops ++ [FlashOp.settings (leAt p 0 2) (p.drop 4) (some i)] } })))

/-! ### Event log (R419, R503, R513) -/

/-- A record as it is read (R503). -/
def recBytes (r : EvRec) : List Byte :=
  leBytes 2 (32 + 4 * r.detail.length) ++ leBytes 2 r.key.typ ++ leBytes 1 (r.key.sev % 8 + 8 * b2n r.cont) ++ leBytes 3 r.mark.cycles ++
    leBytes 4 r.mark.hours ++ leBytes 4 (r.mark.frac % 4096 + r.rep * 4096) ++ leBytes 4 r.key.loc ++ leBytes 4 r.key.ctx ++
    leBytes 8 r.key.addr ++ r.detail.flatMap (fun w => leBytes 4 w)

/-- The held records at or after a cursor, in ascending cursor order. -/
def State.evFrom (s : State) (c : Nat) : List EvRec :=
  sortBy (fun (x y : EvRec) => decide (seqDist x.cursor c ≤ seqDist y.cursor c))
    ((s.ev.slots.map Prod.snd).filter (fun (r : EvRec) => decide (seqDist r.cursor c < 2 ^ 31)))

/-- Whole records, each with its cursor, within `room` bytes. -/
def recsIn : List EvRec → Nat → List EvRec
  | [], _ => []
  | r :: rs, room => if 4 + (recBytes r).length ≤ room then r :: recsIn rs (room - 4 - (recBytes r).length) else []

def execLogRead (client : Fin 64) (s : State) : Out :=
  s.serve client 0x0900 (fun _ => true) (fun t q =>
    let c := leAt q.payload 0 4
    let rs := recsIn (t.evFrom c) (min (leAt q.payload 4 4) (t.lpLimit q.port q.v6 - 8))
    let next := match rs.getLast? with | some r => (r.cursor + 1) % 2 ^ 32 | none => c
    let gap := match rs.head? with | some r => decide (r.cursor ≠ c) | none => false
    t.checked q allModes (q.payload.length = 8)
      (t.answer q stOk (leBytes 4 next ++ leBytes 2 rs.length ++ leBytes 2 (b2n gap) ++
        rs.flatMap (fun r => leBytes 4 r.cursor ++ recBytes r))))

def execLogClear (client : Fin 64) (s : State) : Out :=
  s.serve client 0x0901 (fun _ => true) (fun t q =>
    let lv := leAt q.payload 0 1
    t.checked q allModes (q.payload.length = 1 && decide (lv < 8))
      (t.withTicket q (fun i =>
        let u := (t.tktIssue i q.client .logClear false).accept q i []
        { u with ev := { u.ev with clears := u.ev.clears ++ [(lv, i)] } })))

/-- Records held at a severity. -/
def State.heldAt (s : State) (v : Nat) : Nat := (s.ev.slots.filter (fun (e : Nat × EvRec) => e.2.key.sev = v)).length

def execLogStatus (client : Fin 64) (s : State) : Out :=
  s.serve client 0x0902 (fun _ => true) (fun t q => t.checked q allModes q.payload.isEmpty
    (t.answer q stOk ((List.range 8).flatMap (fun v => leBytes 4 (t.heldAt v)) ++ leBytes 4 t.ev.discarded ++
      leBytes 4 (match t.evOldest with | some e => e.2.cursor | none => t.ev.cursor) ++ leBytes 4 t.ev.cursor ++
      leBytes 4 ((t.ev.slots.map (fun (e : Nat × EvRec) => (recBytes e.2).length)).sum))))

end Sys2Proof.Machine
end

