-- ==== Sys2Proof/Machine/Dispatch.lean ====
section
/-! DEFINITION. The command a meaning belongs to: one arm per row of the opcode table. -/
namespace Sys2Proof.Machine

/-- The effect of a command on everything but the queue. -/
def exec (i : Instr) (s : State) : Host.Outcome State Fault Refusal :=
  match i with
  | .coldReset => Sys2Proof.Machine.execColdReset s
  | .aonSupplyFail => Sys2Proof.Machine.execAonSupplyFail s
  | .warmModuleReset => Sys2Proof.Machine.execWarmModuleReset s
  | .debugReset => Sys2Proof.Machine.execDebugReset s
  | .epochStrobe => Sys2Proof.Machine.execEpochStrobe s
  | .tallyReport stop => Sys2Proof.Machine.execTallyReport stop s
  | .tallyAudit badA badB badNodes => Sys2Proof.Machine.execTallyAudit badA badB badNodes s
  | .leafRebuild slot => Sys2Proof.Machine.execLeafRebuild slot s
  | .stampBatch stop dest grant count => Sys2Proof.Machine.execStampBatch stop dest grant count s
  | .stampIdleReturn stop dest => Sys2Proof.Machine.execStampIdleReturn stop dest s
  | .domainPowerDown d => Sys2Proof.Machine.execDomainPowerDown d s
  | .domainIsolation d => Sys2Proof.Machine.execDomainIsolation d s
  | .domainWakeRequest d => Sys2Proof.Machine.execDomainWakeRequest d s
  | .bayIdlePowerDown n b => Sys2Proof.Machine.execBayIdlePowerDown n b s
  | .tileIdlePowerDown n => Sys2Proof.Machine.execTileIdlePowerDown n s
  | .heldFabricAccess index => Sys2Proof.Machine.execHeldFabricAccess index s
  | .mcTargetWrite n target => Sys2Proof.Machine.execMcTargetWrite n target s
  | .microClockSwitch n => Sys2Proof.Machine.execMicroClockSwitch n s
  | .relockTimeout n => Sys2Proof.Machine.execRelockTimeout n s
  | .delayMonitorSample n b q margin => Sys2Proof.Machine.execDelayMonitorSample n b q margin s
  | .relOpFirstStart n b p => Sys2Proof.Machine.execRelOpFirstStart n b p s
  | .relOpResume n b p => Sys2Proof.Machine.execRelOpResume n b p s
  | .relOpHold n b p => Sys2Proof.Machine.execRelOpHold n b p s
  | .dccWrite n b p value => Sys2Proof.Machine.execDccWrite n b p value s
  | .releaseStageAdvance n b p => Sys2Proof.Machine.execReleaseStageAdvance n b p s
  | .holdLiftStage n => Sys2Proof.Machine.execHoldLiftStage n s
  | .planeStepEnd n b => Sys2Proof.Machine.execPlaneStepEnd n b s
  | .tickEdge n b => Sys2Proof.Machine.execTickEdge n b s
  | .exchangeBundleArrival index => Sys2Proof.Machine.execExchangeBundleArrival index s
  | .designCycleBegin n b waited ioWait mmpWait => Sys2Proof.Machine.execDesignCycleBegin n b waited ioWait mmpWait s
  | .exchangeStall n b => Sys2Proof.Machine.execExchangeStall n b s
  | .dclkoFall k => Sys2Proof.Machine.execDclkoFall k s
  | .designInputSample k pins => Sys2Proof.Machine.execDesignInputSample k pins s
  | .burstTransfer k => Sys2Proof.Machine.execBurstTransfer k s
  | .mmpFillComplete n k => Sys2Proof.Machine.execMmpFillComplete n k s
  | .mmpWritebackComplete n k => Sys2Proof.Machine.execMmpWritebackComplete n k s
  | .mmpFlush n k => Sys2Proof.Machine.execMmpFlush n k s
  | .mmpFlushComplete n k => Sys2Proof.Machine.execMmpFlushComplete n k s
  | .imageBytesArrive load count => Sys2Proof.Machine.execImageBytesArrive load count s
  | .chunkDecrypted load => Sys2Proof.Machine.execChunkDecrypted load s
  | .pageLoaderWriteAck load count => Sys2Proof.Machine.execPageLoaderWriteAck load count s
  | .signatureVerifyComplete load => Sys2Proof.Machine.execSignatureVerifyComplete load s
  | .loadCommit load => Sys2Proof.Machine.execLoadCommit load s
  | .loadIntakeTimeout load => Sys2Proof.Machine.execLoadIntakeTimeout load s
  | .fkUnlock mid key => Sys2Proof.Machine.execFkUnlock mid key s
  | .unlockTimeout => Sys2Proof.Machine.execUnlockTimeout s
  | .fuseKeyProg mid => Sys2Proof.Machine.execFuseKeyProg mid s
  | .fuseProgComplete => Sys2Proof.Machine.execFuseProgComplete s
  | .forbidBkey mid => Sys2Proof.Machine.execForbidBkey mid s
  | .bkeyCommit mid => Sys2Proof.Machine.execBkeyCommit mid s
  | .bkeyErase mid => Sys2Proof.Machine.execBkeyErase mid s
  | .imgSlotProg mid => Sys2Proof.Machine.execImgSlotProg mid s
  | .imgSlotRevoke mid => Sys2Proof.Machine.execImgSlotRevoke mid s
  | .fwSlotProg mid => Sys2Proof.Machine.execFwSlotProg mid s
  | .fwSlotRevoke mid => Sys2Proof.Machine.execFwSlotRevoke mid s
  | .vbatLoss => Sys2Proof.Machine.execVbatLoss s
  | .frameWrite n frame mid offset bytes => Sys2Proof.Machine.execFrameWrite n frame mid offset bytes s
  | .scrubFrameRead n sb upsets => Sys2Proof.Machine.execScrubFrameRead n sb upsets s
  | .scrubCorrection n sb => Sys2Proof.Machine.execScrubCorrection n sb s
  | .frameRestore n sb ok => Sys2Proof.Machine.execFrameRestore n sb ok s
  | .sweepBoundExceeded n sb => Sys2Proof.Machine.execSweepBoundExceeded n sb s
  | .voterRepair n upsets => Sys2Proof.Machine.execVoterRepair n upsets s
  | .scrubRestore n => Sys2Proof.Machine.execScrubRestore n s
  | .pmInval => Sys2Proof.Machine.execPmInval s
  | .psLimitWrite word => Sys2Proof.Machine.execPsLimitWrite word s
  | .compactionMoveComplete stack => Sys2Proof.Machine.execCompactionMoveComplete stack s
  | .pendingOpStart run => Sys2Proof.Machine.execPendingOpStart run s
  | .resumeTransferComplete run bp => Sys2Proof.Machine.execResumeTransferComplete run bp s
  | .runReleaseComplete run => Sys2Proof.Machine.execRunReleaseComplete run s
  | .runStopCycle run => Sys2Proof.Machine.execRunStopCycle run s
  | .saveComplete run bp ok => Sys2Proof.Machine.execSaveComplete run bp ok s
  | .swapFramesWritten run => Sys2Proof.Machine.execSwapFramesWritten run s
  | .snapshotCycle entry => Sys2Proof.Machine.execSnapshotCycle entry s
  | .snapshotPauseEnd entry pauseNs => Sys2Proof.Machine.execSnapshotPauseEnd entry pauseNs s
  | .snapshotComplete entry ok => Sys2Proof.Machine.execSnapshotComplete entry ok s
  | .ringSnapshotDue ring => Sys2Proof.Machine.execRingSnapshotDue ring s
  | .triggerProbe n slot => Sys2Proof.Machine.execTriggerProbe n slot s
  | .triggerWithinExpiry unit => Sys2Proof.Machine.execTriggerWithinExpiry unit s
  | .triggerEnable unit => Sys2Proof.Machine.execTriggerEnable unit s
  | .tapExtest => Sys2Proof.Machine.execTapExtest s
  | .tapSamplePreload => Sys2Proof.Machine.execTapSamplePreload s
  | .tapIdcode => Sys2Proof.Machine.execTapIdcode s
  | .tapBypass code => Sys2Proof.Machine.execTapBypass code s
  | .dbgaccPoll => Sys2Proof.Machine.execDbgaccPoll s
  | .dbgaccRead addr consume => Sys2Proof.Machine.execDbgaccRead addr consume s
  | .dbgaccWrite addr data => Sys2Proof.Machine.execDbgaccWrite addr data s
  | .debugAccessComplete => Sys2Proof.Machine.execDebugAccessComplete s
  | .dbgModeReq word => Sys2Proof.Machine.execDbgModeReq word s
  | .coreHalt c => Sys2Proof.Machine.execCoreHalt c s
  | .coreResume c => Sys2Proof.Machine.execCoreResume c s
  | .coreStep c => Sys2Proof.Machine.execCoreStep c s
  | .coreHaltTakesEffect c => Sys2Proof.Machine.execCoreHaltTakesEffect c s
  | .coreRegdataAccess c write hi value => Sys2Proof.Machine.execCoreRegdataAccess c write hi value s
  | .comparatorMatch c k kind addr len pc ctxid => Sys2Proof.Machine.execComparatorMatch c k kind addr len pc ctxid s
  | .reservationExpiry c => Sys2Proof.Machine.execReservationExpiry c s
  | .watchdogExpiry c => Sys2Proof.Machine.execWatchdogExpiry c s
  | .watchdogKick c => Sys2Proof.Machine.execWatchdogKick c s
  | .lbTxWrite c word => Sys2Proof.Machine.execLbTxWrite c word s
  | .lbTxConsumeRead c => Sys2Proof.Machine.execLbTxConsumeRead c s
  | .lbRxWrite c word => Sys2Proof.Machine.execLbRxWrite c word s
  | .lbRxConsumeRead c => Sys2Proof.Machine.execLbRxConsumeRead c s
  | .marginMinRead n b q => Sys2Proof.Machine.execMarginMinRead n b q s
  | .vtData c toCore count bytes => Sys2Proof.Machine.execVtData c toCore count bytes s
  | .vtOpen c toCore => Sys2Proof.Machine.execVtOpen c toCore s
  | .vtClose c toCore => Sys2Proof.Machine.execVtClose c toCore s
  | .vtBreak c => Sys2Proof.Machine.execVtBreak c s
  | .vtTerminalReset c toCore => Sys2Proof.Machine.execVtTerminalReset c toCore s
  | .vtCredit c toCore credit => Sys2Proof.Machine.execVtCredit c toCore credit s
  | .mcRequestIntake c => Sys2Proof.Machine.execMcRequestIntake c s
  | .mcReadComplete c target bad => Sys2Proof.Machine.execMcReadComplete c target bad s
  | .refreshDue c target rank bank => Sys2Proof.Machine.execRefreshDue c target rank bank s
  | .dramTempRead c temp => Sys2Proof.Machine.execDramTempRead c temp s
  | .trainingOp c word => Sys2Proof.Machine.execTrainingOp c word s
  | .trainingOpComplete c fail errs first => Sys2Proof.Machine.execTrainingOpComplete c fail errs first s
  | .delayValueWrite c word => Sys2Proof.Machine.execDelayValueWrite c word s
  | .modeRegisterAccess c word => Sys2Proof.Machine.execModeRegisterAccess c word s
  | .driftMeasure c target rank taps => Sys2Proof.Machine.execDriftMeasure c target rank taps s
  | .retrainIsolate c => Sys2Proof.Machine.execRetrainIsolate c s
  | .retrainRelease c => Sys2Proof.Machine.execRetrainRelease c s
  | .retrainStepTimeout c => Sys2Proof.Machine.execRetrainStepTimeout c s
  | .patrolRead c bad => Sys2Proof.Machine.execPatrolRead c bad s
  | .spareGo c word => Sys2Proof.Machine.execSpareGo c word s
  | .migrationPieceComplete c bad => Sys2Proof.Machine.execMigrationPieceComplete c bad s
  | .spareEnWrite c enable => Sys2Proof.Machine.execSpareEnWrite c enable s
  | .rootKeyDrawn key => Sys2Proof.Machine.execRootKeyDrawn key s
  | .regionEnable r => Sys2Proof.Machine.execRegionEnable r s
  | .regionDisable r => Sys2Proof.Machine.execRegionDisable r s
  | .regionZero r => Sys2Proof.Machine.execRegionZero r s
  | .regionFillComplete r => Sys2Proof.Machine.execRegionFillComplete r s
  | .regionRekey r => Sys2Proof.Machine.execRegionRekey r s
  | .rekeySectorComplete r => Sys2Proof.Machine.execRekeySectorComplete r s
  | .icCrWrite offset word => Sys2Proof.Machine.execIcCrWrite offset word s
  | .roundsRequestInject stop mid addr write peek len data bem excl => Sys2Proof.Machine.execRoundsRequestInject stop mid addr write peek len data bem excl s
  | .roundsRequestArrival index => Sys2Proof.Machine.execRoundsRequestArrival index s
  | .roundsResponseArrival index => Sys2Proof.Machine.execRoundsResponseArrival index s
  | .roundsTimeout stop tag => Sys2Proof.Machine.execRoundsTimeout stop tag s
  | .outstandingEntryRelease stop tag => Sys2Proof.Machine.execOutstandingEntryRelease stop tag s
  | .packetAgeRise index => Sys2Proof.Machine.execPacketAgeRise index s
  | .routingSwitch => Sys2Proof.Machine.execRoutingSwitch s
  | .routingTableWrite bank src dst word => Sys2Proof.Machine.execRoutingTableWrite bank src dst word s
  | .returnedRequest index => Sys2Proof.Machine.execReturnedRequest index s
  | .resumeNotice index => Sys2Proof.Machine.execResumeNotice index s
  | .linkNak stop ring dir => Sys2Proof.Machine.execLinkNak stop ring dir s
  | .linkRetrainComplete stop ring dir ok => Sys2Proof.Machine.execLinkRetrainComplete stop ring dir ok s
  | .envelopeReceive f => Sys2Proof.Machine.execEnvelopeReceive f s
  | .envelopeDispatch => Sys2Proof.Machine.execEnvelopeDispatch s
  | .replySent port => Sys2Proof.Machine.execReplySent port s
  | .accessDeferral job => Sys2Proof.Machine.execAccessDeferral job s
  | .ticketReclaim index => Sys2Proof.Machine.execTicketReclaim index s
  | .pauseFrame port pfc => Sys2Proof.Machine.execPauseFrame port pfc s
  | .arpRequest port ip => Sys2Proof.Machine.execArpRequest port ip s
  | .neighborSolicitation port ip => Sys2Proof.Machine.execNeighborSolicitation port ip s
  | .icmpEcho port v6 data => Sys2Proof.Machine.execIcmpEcho port v6 data s
  | .dhcpMessage port ip => Sys2Proof.Machine.execDhcpMessage port ip s
  | .dhcpRenew port ok => Sys2Proof.Machine.execDhcpRenew port ok s
  | .hostLinkChange port up => Sys2Proof.Machine.execHostLinkChange port up s
  | .streamDelivery id => Sys2Proof.Machine.execStreamDelivery id s
  | .lodgeRequest f => Sys2Proof.Machine.execLodgeRequest f s
  | .lodgeArp ip => Sys2Proof.Machine.execLodgeArp ip s
  | .lodgeNeighborSolicitation ip => Sys2Proof.Machine.execLodgeNeighborSolicitation ip s
  | .echo client => Sys2Proof.Machine.execEcho client s
  | .info client => Sys2Proof.Machine.execInfo client s
  | .ready client => Sys2Proof.Machine.execReady client s
  | .ticketStatus client => Sys2Proof.Machine.execTicketStatus client s
  | .ticketCancel client => Sys2Proof.Machine.execTicketCancel client s
  | .systemReset client => Sys2Proof.Machine.execSystemReset client s
  | .time client => Sys2Proof.Machine.execTime client s
  | .clientClose client => Sys2Proof.Machine.execClientClose client s
  | .modeGet client => Sys2Proof.Machine.execModeGet client s
  | .modeSet client => Sys2Proof.Machine.execModeSet client s
  | .powerGet client => Sys2Proof.Machine.execPowerGet client s
  | .loadBegin client => Sys2Proof.Machine.execLoadBegin client s
  | .loadData client => Sys2Proof.Machine.execLoadData client s
  | .loadEnd client => Sys2Proof.Machine.execLoadEnd client s
  | .designList client => Sys2Proof.Machine.execDesignList client s
  | .designDiscard client => Sys2Proof.Machine.execDesignDiscard client s
  | .storeList client => Sys2Proof.Machine.execStoreList client s
  | .storeErase client => Sys2Proof.Machine.execStoreErase client s
  | .runCreate client => Sys2Proof.Machine.execRunCreate client s
  | .runStart client => Sys2Proof.Machine.execRunStart client s
  | .runSuspend client => Sys2Proof.Machine.execRunSuspend client s
  | .runResume client => Sys2Proof.Machine.execRunResume client s
  | .runEnd client => Sys2Proof.Machine.execRunEnd client s
  | .runSwap client => Sys2Proof.Machine.execRunSwap client s
  | .runCompact client => Sys2Proof.Machine.execRunCompact client s
  | .runStatus client => Sys2Proof.Machine.execRunStatus client s
  | .runSet client => Sys2Proof.Machine.execRunSet client s
  | .runList client => Sys2Proof.Machine.execRunList client s
  | .read client => Sys2Proof.Machine.execRead client s
  | .write client => Sys2Proof.Machine.execWrite client s
  | .readList client => Sys2Proof.Machine.execReadList client s
  | .writeList client => Sys2Proof.Machine.execWriteList client s
  | .fill client => Sys2Proof.Machine.execFill client s
  | .streamOpen client => Sys2Proof.Machine.execStreamOpen client s
  | .streamClose client => Sys2Proof.Machine.execStreamClose client s
  | .streamData client => Sys2Proof.Machine.execStreamData client s
  | .streamRead client => Sys2Proof.Machine.execStreamRead client s
  | .streamStatus client => Sys2Proof.Machine.execStreamStatus client s
  | .snapTake client => Sys2Proof.Machine.execSnapTake client s
  | .snapRing client => Sys2Proof.Machine.execSnapRing client s
  | .snapLock client => Sys2Proof.Machine.execSnapLock client s
  | .snapFree client => Sys2Proof.Machine.execSnapFree client s
  | .snapRestore client => Sys2Proof.Machine.execSnapRestore client s
  | .snapRead client => Sys2Proof.Machine.execSnapRead client s
  | .trigSet client => Sys2Proof.Machine.execTrigSet client s
  | .trigStatus client => Sys2Proof.Machine.execTrigStatus client s
  | .step client => Sys2Proof.Machine.execStep client s
  | .updateBegin client => Sys2Proof.Machine.execUpdateBegin client s
  | .updateData client => Sys2Proof.Machine.execUpdateData client s
  | .updateEnd client => Sys2Proof.Machine.execUpdateEnd client s
  | .updateStatus client => Sys2Proof.Machine.execUpdateStatus client s
  | .updateDiscard client => Sys2Proof.Machine.execUpdateDiscard client s
  | .updateRevert client => Sys2Proof.Machine.execUpdateRevert client s
  | .settingsRead client => Sys2Proof.Machine.execSettingsRead client s
  | .settingsWrite client => Sys2Proof.Machine.execSettingsWrite client s
  | .logRead client => Sys2Proof.Machine.execLogRead client s
  | .logClear client => Sys2Proof.Machine.execLogClear client s
  | .logStatus client => Sys2Proof.Machine.execLogStatus client s
  | .laneStatus client => Sys2Proof.Machine.execLaneStatus client s
  | .linkConfigOff client => Sys2Proof.Machine.execLinkConfigOff client s
  | .linkConfigTrain client => Sys2Proof.Machine.execLinkConfigTrain client s
  | .linkConfigEnterDlp client => Sys2Proof.Machine.execLinkConfigEnterDlp client s
  | .linkConfigExit client => Sys2Proof.Machine.execLinkConfigExit client s
  | .laneLoopback client => Sys2Proof.Machine.execLaneLoopback client s
  | .laneRetire client => Sys2Proof.Machine.execLaneRetire client s
  | .dbgRead client => Sys2Proof.Machine.execDbgRead client s
  | .dbgWrite client => Sys2Proof.Machine.execDbgWrite client s
  | .dbgCoreHalt client => Sys2Proof.Machine.execDbgCoreHalt client s
  | .dbgCoreResume client => Sys2Proof.Machine.execDbgCoreResume client s
  | .dbgCoreStep client => Sys2Proof.Machine.execDbgCoreStep client s
  | .crCtrlTrain n => Sys2Proof.Machine.execCrCtrlTrain n s
  | .crCtrlEnterDlp n => Sys2Proof.Machine.execCrCtrlEnterDlp n s
  | .crCtrlExit n => Sys2Proof.Machine.execCrCtrlExit n s
  | .crCtrlOff n => Sys2Proof.Machine.execCrCtrlOff n s
  | .courierEgress index => Sys2Proof.Machine.execCourierEgress index s
  | .blockSend n g => Sys2Proof.Machine.execBlockSend n g s
  | .markerSend n g => Sys2Proof.Machine.execMarkerSend n g s
  | .codewordReceive n lane cw interval first mirrorOk => Sys2Proof.Machine.execCodewordReceive n lane cw interval first mirrorOk s
  | .bundleBlockReceive n g block payload => Sys2Proof.Machine.execBundleBlockReceive n g block payload s
  | .idle n g => Sys2Proof.Machine.execIdle n g s
  | .marker n lane interval cwPos skew peerTag mirror => Sys2Proof.Machine.execMarker n lane interval cwPos skew peerTag mirror s
  | .replayReq n g lane interval first blocks => Sys2Proof.Machine.execReplayReq n g lane interval first blocks s
  | .takeoverReq n g lane => Sys2Proof.Machine.execTakeoverReq n g lane s
  | .takeoverAck n g lane ns => Sys2Proof.Machine.execTakeoverAck n g lane ns s
  | .handback n g lane => Sys2Proof.Machine.execHandback n g lane s
  | .eqReq n g lane tap step => Sys2Proof.Machine.execEqReq n g lane tap step s
  | .eqAck n g lane tap value => Sys2Proof.Machine.execEqAck n g lane tap value s
  | .dlpEnter n g => Sys2Proof.Machine.execDlpEnter n g s
  | .dlpAck n g => Sys2Proof.Machine.execDlpAck n g s
  | .dlpAckTimeout n => Sys2Proof.Machine.execDlpAckTimeout n s
  | .dlpExitDetect n => Sys2Proof.Machine.execDlpExitDetect n s
  | .laneFailure n lane why => Sys2Proof.Machine.execLaneFailure n lane why s
  | .adaptationStep n g => Sys2Proof.Machine.execAdaptationStep n g s
  | .linkTrainingComplete n laneOk peerTags => Sys2Proof.Machine.execLinkTrainingComplete n laneOk peerTags s
  | .wakeRowCheck row pass => Sys2Proof.Machine.execWakeRowCheck row pass s
  | .wakeRowRetry row => Sys2Proof.Machine.execWakeRowRetry row s
  | .bootHeartbeatWrite value => Sys2Proof.Machine.execBootHeartbeatWrite value s
  | .wakeRetry => Sys2Proof.Machine.execWakeRetry s
  | .domainFailClear d => Sys2Proof.Machine.execDomainFailClear d s
  | .refCheckWindow c0 c1 c2 => Sys2Proof.Machine.execRefCheckWindow c0 c1 c2 s
  | .powerGoodLoss pg => Sys2Proof.Machine.execPowerGoodLoss pg s
  | .pmbusPoll bad nak poutMw => Sys2Proof.Machine.execPmbusPoll bad nak poutMw s
  | .pmbusAlert bad => Sys2Proof.Machine.execPmbusAlert bad s
  | .thermalRead sixteenths => Sys2Proof.Machine.execThermalRead sixteenths s
  | .hubRailTimeout => Sys2Proof.Machine.execHubRailTimeout s
  | .pwrEnRestore => Sys2Proof.Machine.execPwrEnRestore s
  | .safeHoldAutoReset => Sys2Proof.Machine.execSafeHoldAutoReset s
  | .modeChangeStart => Sys2Proof.Machine.execModeChangeStart s
  | .modeChangeComplete => Sys2Proof.Machine.execModeChangeComplete s
  | .bootComplete => Sys2Proof.Machine.execBootComplete s
  | .bootTimeout => Sys2Proof.Machine.execBootTimeout s
  | .wakePin => Sys2Proof.Machine.execWakePin s
  | .wakePattern f => Sys2Proof.Machine.execWakePattern f s
  | .mpActivityWake f => Sys2Proof.Machine.execMpActivityWake f s
  | .scratchpadStateWrite b mid st => Sys2Proof.Machine.execScratchpadStateWrite b mid st s
  | .scratchpadHandover b mid owner => Sys2Proof.Machine.execScratchpadHandover b mid owner s
  | .scratchpadZeroComplete b => Sys2Proof.Machine.execScratchpadZeroComplete b s
  | .scratchpadPatrol b corrected double => Sys2Proof.Machine.execScratchpadPatrol b corrected double s
  | .updateConfirm key => Sys2Proof.Machine.execUpdateConfirm key s
  | .confirmTimeout => Sys2Proof.Machine.execConfirmTimeout s
  | .promotionSector => Sys2Proof.Machine.execPromotionSector s
  | .flashOperationComplete => Sys2Proof.Machine.execFlashOperationComplete s
  | .eventIntake typ sev loc ctx addr detail merge => Sys2Proof.Machine.execEventIntake typ sev loc ctx addr detail merge s
  | .evFlushWrite => Sys2Proof.Machine.execEvFlushWrite s
  | .logFlushStart => Sys2Proof.Machine.execLogFlushStart s
  | .logFlushComplete ok => Sys2Proof.Machine.execLogFlushComplete ok s
  | .logFlushStop => Sys2Proof.Machine.execLogFlushStop s
  | .logHalfEraseComplete => Sys2Proof.Machine.execLogHalfEraseComplete s
  | .logReadbackComplete badA badB => Sys2Proof.Machine.execLogReadbackComplete badA badB s
  | .registerWrite mid addr word => Sys2Proof.Machine.execRegisterWrite mid addr word s
  | .tapDbgacc => Sys2Proof.Machine.execTapDbgacc s
  | .inputBurst k words => Sys2Proof.Machine.execInputBurst k words s
  | .powerGoodReturn pg => Sys2Proof.Machine.execPowerGoodReturn pg s
  | .flushWaitTimeout => Sys2Proof.Machine.execFlushWaitTimeout s
  | .scratchpadHandoverComplete b => Sys2Proof.Machine.execScratchpadHandoverComplete b s
  | .pmInvalComplete => Sys2Proof.Machine.execPmInvalComplete s
  | .modeRegisterAccessComplete c data => Sys2Proof.Machine.execModeRegisterAccessComplete c data s

end Sys2Proof.Machine
end

