-- ==== Sys2Proof/Laws/Bits.lean ====
section
/-!
SUPPORT. The laws of bit fields: what a replaced field reads as, and what a field elsewhere reads as.
-/
namespace Sys2Proof.Machine

theorem bitsOf_lt (v hi lo : Nat) : bitsOf v hi lo < 2 ^ (hi + 1 - lo) := Nat.mod_lt _ (Nat.two_pow_pos _)

theorem putBits_eq (v hi lo f : Nat) :
    putBits v hi lo f = v / 2 ^ (hi + 1) * 2 ^ (hi + 1) + (f % 2 ^ (hi + 1 - lo)) * 2 ^ lo + v % 2 ^ lo := rfl

/-- Bit k of a number with a field replaced. -/
theorem testBit_putBits (v hi lo f k : Nat) (h : lo ≤ hi) :
    (putBits v hi lo f).testBit k = if lo ≤ k ∧ k ≤ hi then f.testBit (k - lo) else v.testBit k := by
  have hw : 2 ^ (hi + 1) = 2 ^ lo * 2 ^ (hi + 1 - lo) := by rw [← pow_add]; congr 1; omega
  have e : putBits v hi lo f = 2 ^ lo * (2 ^ (hi + 1 - lo) * (v / 2 ^ (hi + 1)) + f % 2 ^ (hi + 1 - lo)) + v % 2 ^ lo := by
    rw [putBits_eq, hw]; ring
  rw [e, Nat.testBit_two_pow_mul_add _ (Nat.mod_lt _ (Nat.two_pow_pos _))]
  by_cases h1 : k < lo
  · have : ¬ (lo ≤ k ∧ k ≤ hi) := by omega
    simp [h1, this]
  · rw [if_neg h1, Nat.testBit_two_pow_mul_add _ (Nat.mod_lt _ (Nat.two_pow_pos _))]
    by_cases h2 : k ≤ hi
    · have h3 : k - lo < hi + 1 - lo := by omega
      have h4 : lo ≤ k ∧ k ≤ hi := by omega
      simp [h3, h4]
    · have h3 : ¬ k - lo < hi + 1 - lo := by omega
      have h4 : ¬ (lo ≤ k ∧ k ≤ hi) := by omega
      rw [if_neg h3, if_neg h4, Nat.testBit_div_two_pow]
      congr 1
      omega

/-- Bit k of a field. -/
theorem testBit_bitsOf (v hi lo k : Nat) : (bitsOf v hi lo).testBit k = (decide (k < hi + 1 - lo) && v.testBit (lo + k)) := by
  simp [bitsOf, Nat.testBit_div_two_pow, Nat.add_comm]

theorem bitOf_eq (v i : Nat) : bitOf v i = v.testBit i := by
  simp [bitOf, Nat.testBit_eq_decide_div_mod_eq]

/-- A replaced field reads as what was put there. -/
theorem bitsOf_putBits_same (v hi lo f : Nat) (h : lo ≤ hi) : bitsOf (putBits v hi lo f) hi lo = f % 2 ^ (hi + 1 - lo) := by
  apply Nat.eq_of_testBit_eq
  intro k
  rw [testBit_bitsOf, testBit_putBits _ _ _ _ _ h, Nat.testBit_mod_two_pow]
  by_cases hk : k < hi + 1 - lo
  · have : lo ≤ lo + k ∧ lo + k ≤ hi := by omega
    simp [hk, this]
  · simp [hk]

/-- A field elsewhere reads as before. -/
theorem bitsOf_putBits_other (v hi lo f hi' lo' : Nat) (h : lo ≤ hi) (hd : hi' < lo ∨ hi < lo') :
    bitsOf (putBits v hi lo f) hi' lo' = bitsOf v hi' lo' := by
  apply Nat.eq_of_testBit_eq
  intro k
  rw [testBit_bitsOf, testBit_bitsOf, testBit_putBits _ _ _ _ _ h]
  by_cases hk : k < hi' + 1 - lo'
  · have : ¬ (lo ≤ lo' + k ∧ lo' + k ≤ hi) := by omega
    simp [this]
  · simp [hk]

theorem bitOf_putBits_same (v i : Nat) (b : Bool) : bitOf (putBits v i i (b2n b)) i = b := by
  rw [bitOf_eq, testBit_putBits _ _ _ _ _ (Nat.le_refl i)]
  cases b <;> simp [b2n]

theorem bitOf_putBits_other (v hi lo f i : Nat) (h : lo ≤ hi) (hd : i < lo ∨ hi < i) :
    bitOf (putBits v hi lo f) i = bitOf v i := by
  rw [bitOf_eq, bitOf_eq, testBit_putBits _ _ _ _ _ h, if_neg (by omega)]

/-- A replaced field leaves a register word a register word. -/
theorem putBits_lt (v hi lo f : Nat) (h : lo ≤ hi) (hh : hi < 32) (hv : v < 2 ^ 32) : putBits v hi lo f < 2 ^ 32 := by
  apply Nat.lt_pow_two_of_testBit
  intro k hk
  rw [testBit_putBits _ _ _ _ _ h, if_neg (by omega)]
  exact Nat.testBit_lt_two_pow (Nat.lt_of_lt_of_le hv (Nat.pow_le_pow_right (by decide) hk))

end Sys2Proof.Machine
end

