-- ==== Sys2Proof/Laws/Table.lean ====
section
/-!
SUPPORT. The laws of sparse tables: a read after a write, and the canonical form.
-/
namespace Sys2Proof.Machine

variable {α : Type}

theorem SMap.find_erase_same (m : SMap α) (k : Nat) : SMap.find (SMap.erase m k) k = none := by
  induction m with
  | nil => rfl
  | cons e t ih =>
    simp only [SMap.erase, List.filter_cons] at *
    by_cases h : e.1 = k
    · simpa [h] using ih
    · simp [h, SMap.find, ih]

theorem SMap.find_erase_ne (m : SMap α) {k j : Nat} (h : j ≠ k) : SMap.find (SMap.erase m k) j = SMap.find m j := by
  induction m with
  | nil => rfl
  | cons e t ih =>
    simp only [SMap.erase, List.filter_cons] at *
    by_cases hk : e.1 = k
    · have : e.1 ≠ j := fun he => h (he ▸ hk)
      simp [hk, SMap.find, ih, Ne.symm h]
    · by_cases hj : e.1 = j <;> simp [hk, hj, SMap.find, ih]
      simp [hj ▸ hk, SMap.find, hj]

theorem SMap.find_insert_same (m : SMap α) (k : Nat) (v : α) (h : SMap.find m k = none) :
    SMap.find (SMap.insert m k v) k = some v := by
  induction m with
  | nil => simp [SMap.insert, SMap.find]
  | cons e t ih =>
    by_cases hk : e.1 = k
    · simp [SMap.find, hk] at h
    · simp only [SMap.find, hk, if_false] at h
      by_cases hl : k < e.1 <;> simp [SMap.insert, hl, SMap.find, hk, ih h]

theorem SMap.find_insert_ne (m : SMap α) {k j : Nat} (v : α) (h : j ≠ k) :
    SMap.find (SMap.insert m k v) j = SMap.find m j := by
  induction m with
  | nil => simp [SMap.insert, SMap.find, Ne.symm h]
  | cons e t ih =>
    by_cases hl : k < e.1
    · simp [SMap.insert, hl, SMap.find, Ne.symm h]
    · simp only [SMap.insert, hl, if_false, SMap.find, ih]

@[simp] theorem SMap.find_put_same (m : SMap α) (k : Nat) (v : α) : SMap.find (SMap.put m k v) k = some v :=
  SMap.find_insert_same _ _ _ (SMap.find_erase_same m k)

theorem SMap.find_put_ne (m : SMap α) {k j : Nat} (v : α) (h : j ≠ k) : SMap.find (SMap.put m k v) j = SMap.find m j := by
  rw [SMap.put, SMap.find_insert_ne _ _ h, SMap.find_erase_ne _ h]

@[simp] theorem SMap.get_set_same [DecidableEq α] (m : SMap α) (k : Nat) (v d : α) :
    SMap.get (SMap.set m k v d) k d = v := by
  by_cases h : v = d <;> simp [SMap.get, SMap.set, h, SMap.find_erase_same]

theorem SMap.get_set_ne [DecidableEq α] (m : SMap α) {k j : Nat} (v d e : α) (h : j ≠ k) :
    SMap.get (SMap.set m k v d) j e = SMap.get m j e := by
  by_cases hv : v = d <;> simp [SMap.get, SMap.set, hv, SMap.find_erase_ne _ h, SMap.find_put_ne _ _ h]

/-- A table filtered by its keys. -/
theorem SMap.find_filter_key (m : SMap α) (k : Nat) (p : Nat → Bool) :
    SMap.find (m.filter (fun e => p e.1)) k = if p k then SMap.find m k else none := by
  induction m with
  | nil => simp [SMap.find]
  | cons e t ih =>
    by_cases hp : p e.1 = true
    · by_cases hk : e.1 = k
      · simp [SMap.find, hk, hk ▸ hp]
      · simp [hp, SMap.find, hk, ih]
    · by_cases hk : e.1 = k
      · have : ¬ p k = true := hk ▸ hp
        simp [hp, ih, this]
      · simp [hp, SMap.find, hk, ih]

/-! ### The canonical form -/

theorem SMap.sortedFrom_mono {lo hi : Nat} (h : lo ≤ hi) (m : SMap α) (hm : SMap.sortedFrom hi m = true) :
    SMap.sortedFrom lo m = true := by
  cases m with
  | nil => rfl
  | cons e t =>
    simp only [SMap.sortedFrom, Bool.and_eq_true, decide_eq_true_eq] at *
    exact ⟨by omega, hm.2⟩

theorem SMap.sortedFrom_filter (p : Nat × α → Bool) (m : SMap α) (lo : Nat) (h : SMap.sortedFrom lo m = true) :
    SMap.sortedFrom lo (m.filter p) = true := by
  induction m generalizing lo with
  | nil => rfl
  | cons e t ih =>
    simp only [SMap.sortedFrom, Bool.and_eq_true, decide_eq_true_eq] at h
    have ht := ih (e.1 + 1) h.2
    by_cases hp : p e = true
    · simp only [List.filter_cons, hp, if_true, SMap.sortedFrom, Bool.and_eq_true, decide_eq_true_eq]
      exact ⟨h.1, ht⟩
    · simp only [List.filter_cons, hp]
      exact SMap.sortedFrom_mono (by omega) _ ht

theorem SMap.sortedFrom_insert (m : SMap α) (lo k : Nat) (v : α) (hk : lo ≤ k) (h : SMap.sortedFrom lo m = true)
    (hn : SMap.find m k = none) : SMap.sortedFrom lo (SMap.insert m k v) = true := by
  induction m generalizing lo with
  | nil => simp [SMap.insert, SMap.sortedFrom, hk]
  | cons e t ih =>
    simp only [SMap.sortedFrom, Bool.and_eq_true, decide_eq_true_eq] at h
    have hne : e.1 ≠ k := by
      intro he
      simp [SMap.find, he] at hn
    have hn' : SMap.find t k = none := by simpa [SMap.find, hne] using hn
    by_cases hl : k < e.1
    · simp only [SMap.insert, hl, if_true, SMap.sortedFrom, Bool.and_eq_true, decide_eq_true_eq]
      exact ⟨hk, by omega, h.2⟩
    · simp only [SMap.insert, hl, if_false, SMap.sortedFrom, Bool.and_eq_true, decide_eq_true_eq]
      exact ⟨h.1, ih (e.1 + 1) (by omega) h.2 hn'⟩

theorem SMap.all_insert (p : Nat × α → Bool) (m : SMap α) (k : Nat) (v : α) (h : m.all p = true) (hv : p (k, v) = true) :
    (SMap.insert m k v).all p = true := by
  induction m with
  | nil => simp [SMap.insert, hv]
  | cons e t ih =>
    simp only [List.all_cons, Bool.and_eq_true] at h
    by_cases hl : k < e.1 <;> simp [SMap.insert, hl, h.1, hv]
    · simpa using h.2
    · simpa using ih h.2

/-- A filtered table keeps the canonical form. -/
theorem SMap.wf_filter [DecidableEq α] (p : Nat × α → Bool) (m : SMap α) (d : α) (h : SMap.wf m d = true) :
    SMap.wf (m.filter p) d = true := by
  simp only [SMap.wf, Bool.and_eq_true, SMap.sorted, List.all_eq_true] at *
  exact ⟨SMap.sortedFrom_filter p m 0 h.1, fun x hx => h.2 x (List.mem_of_mem_filter hx)⟩

/-- A write keeps the canonical form. -/
theorem SMap.wf_set [DecidableEq α] (m : SMap α) (k : Nat) (v d : α) (h : SMap.wf m d = true) :
    SMap.wf (SMap.set m k v d) d = true := by
  have he := SMap.wf_filter (fun e => e.1 != k) m d h
  by_cases hv : v = d
  · simpa [SMap.set, hv, SMap.erase] using he
  · simp only [SMap.wf, Bool.and_eq_true] at he
    simp only [SMap.set, hv, if_false, SMap.put, SMap.wf, Bool.and_eq_true]
    exact ⟨SMap.sortedFrom_insert _ 0 k v (Nat.zero_le _) he.1 (SMap.find_erase_same m k),
      SMap.all_insert _ _ _ _ he.2 (by simp [hv])⟩

theorem SMap.wf_setMany [DecidableEq α] (l : List (Nat × α)) (m : SMap α) (d : α) (h : SMap.wf m d = true) :
    SMap.wf (SMap.setMany m d l) d = true := by
  induction l generalizing m with
  | nil => exact h
  | cons e t ih => exact ih _ (SMap.wf_set m e.1 e.2 d h)

theorem SMap.wf_clear [DecidableEq α] (m : SMap α) (lo hi : Nat) (d : α) (h : SMap.wf m d = true) :
    SMap.wf (SMap.clear m lo hi) d = true := SMap.wf_filter _ m d h

end Sys2Proof.Machine
end

