-- ==== Sys2Proof/Laws/Regs.lean ====
section
/-!
SUPPORT. The laws of registers: a register reads as what was written to it, and another register reads as before.
-/
namespace Sys2Proof.Machine

theorem State.rd_lt (s : State) (r : Reg) : s.rd r < 2 ^ 32 := (SMap.get s.regs r.addr (BitVec.ofNat 32 r.rst)).isLt

@[simp] theorem State.rd_wr_same (s : State) (r : Reg) (v : Nat) : (s.wr r v).rd r = v % 2 ^ 32 := by
  simp [State.rd, State.wr]

theorem State.rd_wr_ne (s : State) {r q : Reg} (v : Nat) (h : q.addr ≠ r.addr) : (s.wr r v).rd q = s.rd q := by
  simp [State.rd, State.wr, SMap.get_set_ne _ _ _ _ h]

theorem State.rd_setFld_same (s : State) (r : Reg) (hi lo v : Nat) (h : lo ≤ hi) (hh : hi < 32) :
    (s.setFld r hi lo v).rd r = putBits (s.rd r) hi lo v := by
  rw [State.setFld, State.rd_wr_same, Nat.mod_eq_of_lt (putBits_lt _ _ _ _ h hh (s.rd_lt r))]

theorem State.rd_setFld_ne (s : State) {r q : Reg} (hi lo v : Nat) (h : q.addr ≠ r.addr) :
    (s.setFld r hi lo v).rd q = s.rd q := State.rd_wr_ne s _ h

/-- A field reads as what was put there. -/
theorem State.fld_setFld_same (s : State) (r : Reg) (hi lo v : Nat) (h : lo ≤ hi) (hh : hi < 32) :
    (s.setFld r hi lo v).fld r hi lo = v % 2 ^ (hi + 1 - lo) := by
  rw [State.fld, State.rd_setFld_same _ _ _ _ _ h hh, bitsOf_putBits_same _ _ _ _ h]

theorem State.fld_setFld_other (s : State) (r : Reg) (hi lo v hi' lo' : Nat) (h : lo ≤ hi) (hh : hi < 32)
    (hd : hi' < lo ∨ hi < lo') : (s.setFld r hi lo v).fld r hi' lo' = s.fld r hi' lo' := by
  rw [State.fld, State.fld, State.rd_setFld_same _ _ _ _ _ h hh, bitsOf_putBits_other _ _ _ _ _ _ h hd]

theorem State.fld_setFld_ne (s : State) {r q : Reg} (hi lo v hi' lo' : Nat) (h : q.addr ≠ r.addr) :
    (s.setFld r hi lo v).fld q hi' lo' = s.fld q hi' lo' := by rw [State.fld, State.fld, State.rd_setFld_ne s _ _ _ h]

theorem State.bit_setFld_other (s : State) (r : Reg) (hi lo v i : Nat) (h : lo ≤ hi) (hh : hi < 32) (hd : i < lo ∨ hi < i) :
    (s.setFld r hi lo v).bit r i = s.bit r i := by
  rw [State.bit, State.bit, State.rd_setFld_same _ _ _ _ _ h hh, bitOf_putBits_other _ _ _ _ _ h hd]

theorem State.bit_setFld_ne (s : State) {r q : Reg} (hi lo v i : Nat) (h : q.addr ≠ r.addr) :
    (s.setFld r hi lo v).bit q i = s.bit q i := by rw [State.bit, State.bit, State.rd_setFld_ne s _ _ _ h]

@[simp] theorem State.bit_setBit_same (s : State) (r : Reg) (i : Nat) (v : Bool) (h : i < 32) : (s.setBit r i v).bit r i = v := by
  rw [State.setBit, State.bit, State.rd_setFld_same _ _ _ _ _ (Nat.le_refl i) h, bitOf_putBits_same]

theorem State.bit_setBit_other (s : State) (r : Reg) (i j : Nat) (v : Bool) (h : i < 32) (hd : j ≠ i) :
    (s.setBit r i v).bit r j = s.bit r j := State.bit_setFld_other s r i i _ j (Nat.le_refl i) h (by omega)

theorem State.bit_setBit_ne (s : State) {r q : Reg} (i j : Nat) (v : Bool) (h : q.addr ≠ r.addr) :
    (s.setBit r i v).bit q j = s.bit q j := State.bit_setFld_ne s _ _ _ _ h

theorem State.fld_setBit_other (s : State) (r : Reg) (i : Nat) (v : Bool) (hi lo : Nat) (h : i < 32) (hd : hi < i ∨ i < lo) :
    (s.setBit r i v).fld r hi lo = s.fld r hi lo := State.fld_setFld_other s r i i _ hi lo (Nat.le_refl i) h hd

theorem State.fld_setBit_ne (s : State) {r q : Reg} (i : Nat) (v : Bool) (hi lo : Nat) (h : q.addr ≠ r.addr) :
    (s.setBit r i v).fld q hi lo = s.fld q hi lo := State.fld_setFld_ne s _ _ _ _ _ h

theorem State.rd_setBit_ne (s : State) {r q : Reg} (i : Nat) (v : Bool) (h : q.addr ≠ r.addr) :
    (s.setBit r i v).rd q = s.rd q := State.rd_setFld_ne s _ _ _ h

/-- A pair reads as the number written to it (R17). -/
theorem State.rd64_wr64_same (s : State) (lo hi : Reg) (v : Nat) (h : lo.addr ≠ hi.addr) (hv : v < 2 ^ 64) :
    (s.wr64 lo hi v).rd64 lo hi = v := by
  rw [State.rd64, State.wr64, State.rd_wr_ne _ _ h, State.rd_wr_same, State.rd_wr_same]
  omega

theorem State.rd_wr64_ne (s : State) {lo hi q : Reg} (v : Nat) (h : q.addr ≠ lo.addr) (h' : q.addr ≠ hi.addr) :
    (s.wr64 lo hi v).rd q = s.rd q := by rw [State.wr64, State.rd_wr_ne _ _ h', State.rd_wr_ne _ _ h]

/-- A saturating count (the register tables' counters). -/
theorem State.fld_count_same (s : State) (r : Reg) (hi lo n : Nat) (h : lo ≤ hi) (hh : hi < 32) :
    (s.count r hi lo n).fld r hi lo = min (2 ^ (hi + 1 - lo) - 1) (s.fld r hi lo + n) := by
  rw [State.count, State.fld_setFld_same _ _ _ _ _ h hh, Nat.mod_eq_of_lt]
  · rfl
  · have := Nat.two_pow_pos (hi + 1 - lo)
    simp only [satAdd]
    omega

/-- Whether a command with a condition has its effect. -/
@[simp] theorem State.when_true (s t : State) : s.when true t = .next t := rfl
@[simp] theorem State.when_false (s t : State) : s.when false t = .next s := rfl

/-- A command with a condition always answers a next state. -/
theorem State.when_next (s : State) (c : Bool) (t : State) : ∃ u, s.when c t = .next u := ⟨_, rfl⟩

end Sys2Proof.Machine
end

