-- ==== Sys2Proof/Laws/Bytes.lean ====
section
/-!
SUPPORT. The laws of byte strings: numbers and their little-endian bytes, and the fields of a string.
-/
namespace Sys2Proof.Machine

@[simp] theorem leBytes_length (n v : Nat) : (leBytes n v).length = n := by
  induction n generalizing v with
  | zero => rfl
  | succ n ih => simp [leBytes, ih]

/-- A number is what its bytes say of it. -/
theorem leNat_leBytes (n v : Nat) : leNat (leBytes n v) = v % 256 ^ n := by
  induction n generalizing v with
  | zero => simp [leBytes, leNat, Nat.mod_one]
  | succ n ih =>
    simp only [leBytes, leNat, ih, BitVec.toNat_ofNat]
    show v % 256 + _ = v % (256 ^ n * 256)
    rw [Nat.mul_comm (256 ^ n) 256, Nat.mod_mul]

theorem leNat_lt (bs : List Byte) : leNat bs < 256 ^ bs.length := by
  induction bs with
  | nil => simp [leNat]
  | cons b bs ih =>
    have hb : b.toNat < 256 := b.isLt
    simp only [leNat, List.length_cons, Nat.pow_succ]
    omega

theorem leAt_lt (bs : List Byte) (o n : Nat) : leAt bs o n < 256 ^ n :=
  Nat.lt_of_lt_of_le (leNat_lt _) (Nat.pow_le_pow_right (by decide) (by simp))

/-- A field that lies within the first part of a string is a field of that part. -/
theorem leAt_append_left (a t : List Byte) (o n : Nat) (h : o + n ≤ a.length) : leAt (a ++ t) o n = leAt a o n := by
  unfold leAt
  rw [List.drop_append_of_le_length (by omega), List.take_append_of_le_length (by simp; omega)]

/-- A field behind the first part of a string is a field of the rest. -/
theorem leAt_append_right (a t : List Byte) (o n : Nat) (h : a.length ≤ o) : leAt (a ++ t) o n = leAt t (o - a.length) n := by
  unfold leAt
  rw [List.drop_append, List.drop_eq_nil_of_le h, List.nil_append]

/-- A number placed at the head of a string is read back. -/
theorem leAt_leBytes_head (n v : Nat) (t : List Byte) : leAt (leBytes n v ++ t) 0 n = v % 256 ^ n := by
  rw [leAt_append_left _ _ _ _ (by simp)]
  unfold leAt
  rw [List.drop_zero, List.take_of_length_le (by simp), leNat_leBytes]

end Sys2Proof.Machine
end

