-- ==== Sys2Proof/Laws/Memory.lean ====
section
/-!
SUPPORT. The laws of memory: every operation keeps its canonical form, a read after a write, and what a write leaves alone.
-/
namespace Sys2Proof.Machine

/-! ### The canonical form -/

/-- Memory with some entries taken out keeps the canonical form. -/
theorem Memory.wf_filter (p : Nat × Byte → Bool) (m : List Host.Cell) (h : Memory.wf m = true) : Memory.wf (m.filter p) = true := by
  simp only [Memory.wf, Bool.and_eq_true, SMap.sorted, List.all_eq_true] at *
  exact ⟨SMap.sortedFrom_filter p m 0 h.1, fun x hx => h.2 x (List.mem_of_mem_filter hx)⟩

theorem State.putByte_wf (s : State) (a : Nat) (b : Byte) (h : Memory.wf s.mem = true) : Memory.wf (s.putByte a b).mem = true := by
  have he := Memory.wf_filter (fun e => e.1 != a) s.mem h
  by_cases hv : b = blankByte a
  · simpa [State.putByte, SMap.set, hv, SMap.erase] using he
  · simp only [Memory.wf, Bool.and_eq_true] at he
    simp only [State.putByte, SMap.set, hv, if_false, SMap.put, Memory.wf, Bool.and_eq_true]
    exact ⟨SMap.sortedFrom_insert _ 0 a b (Nat.zero_le _) he.1 (SMap.find_erase_same s.mem a),
      SMap.all_insert _ _ _ _ he.2 (by simp [hv])⟩

theorem State.putBytes_wf (bs : List Byte) (s : State) (a : Nat) (h : Memory.wf s.mem = true) :
    Memory.wf (s.putBytes a bs).mem = true := by
  induction bs generalizing s a with
  | nil => exact h
  | cons b bs ih => exact ih _ _ (State.putByte_wf s a b h)

theorem State.putLe_wf (s : State) (a n v : Nat) (h : Memory.wf s.mem = true) : Memory.wf (s.putLe a n v).mem = true :=
  State.putBytes_wf _ s a h

theorem State.zeroRange_wf (s : State) (lo hi : Nat) (h : Memory.wf s.mem = true) : Memory.wf (s.zeroRange lo hi).mem = true :=
  State.putBytes_wf _ _ _ (Memory.wf_filter _ s.mem h)

theorem State.copyMem_wf (s : State) (src dst n : Nat) (h : Memory.wf s.mem = true) : Memory.wf (s.copyMem src dst n).mem = true :=
  State.putBytes_wf _ s dst h

/-! ### Reads after writes -/

@[simp] theorem State.byte_putByte_same (s : State) (a : Nat) (b : Byte) : (s.putByte a b).byte a = b :=
  SMap.get_set_same s.mem a b (blankByte a)

theorem State.byte_putByte_ne (s : State) {a c : Nat} (b : Byte) (h : c ≠ a) : (s.putByte a b).byte c = s.byte c :=
  SMap.get_set_ne s.mem b (blankByte a) (blankByte c) h

/-- Bytes written from `a` leave every address below `a` and from `a + n` on. -/
theorem State.byte_putBytes_other (bs : List Byte) (s : State) (a c : Nat) (h : c < a ∨ a + bs.length ≤ c) :
    (s.putBytes a bs).byte c = s.byte c := by
  induction bs generalizing s a with
  | nil => rfl
  | cons b bs ih =>
    simp only [List.length_cons] at h
    show ((s.putByte a b).putBytes (a + 1) bs).byte c = _
    rw [ih _ _ (by omega), State.byte_putByte_ne _ _ (by omega)]

/-- The byte written at an offset is read back. -/
theorem State.byte_putBytes_same (bs : List Byte) (s : State) (a k : Nat) (h : k < bs.length) :
    (s.putBytes a bs).byte (a + k) = bs[k] := by
  induction bs generalizing s a k with
  | nil => simp at h
  | cons b bs ih =>
    show ((s.putByte a b).putBytes (a + 1) bs).byte (a + k) = _
    cases k with
    | zero => rw [State.byte_putBytes_other _ _ _ _ (by omega)]; simp
    | succ k =>
      have := ih (s.putByte a b) (a + 1) k (by simpa using h)
      rw [show a + 1 + k = a + (k + 1) by omega] at this
      simpa using this

/-- What was written from an address is what is read there. -/
theorem State.bytes_putBytes (bs : List Byte) (s : State) (a : Nat) : (s.putBytes a bs).bytes a bs.length = bs := by
  induction bs generalizing s a with
  | nil => rfl
  | cons b bs ih =>
    show ((s.putByte a b).putBytes (a + 1) bs).byte a :: ((s.putByte a b).putBytes (a + 1) bs).bytes (a + 1) bs.length = _
    rw [ih, State.byte_putBytes_other _ _ _ _ (by omega), State.byte_putByte_same]

@[simp] theorem State.bytes_length (s : State) (a n : Nat) : (s.bytes a n).length = n := by
  induction n generalizing a with
  | zero => rfl
  | succ n ih => simp [State.bytes, ih]

/-- Bytes read depend on the bytes alone. -/
theorem State.bytes_congr (s t : State) (a n : Nat) (h : ∀ c, a ≤ c → c < a + n → t.byte c = s.byte c) : t.bytes a n = s.bytes a n := by
  induction n generalizing a with
  | zero => rfl
  | succ n ih =>
    simp only [State.bytes]
    rw [h a (Nat.le_refl a) (by omega), ih (a + 1) (fun c h1 h2 => h c (by omega) (by omega))]

/-- A range with nothing listed reads as unlisted addresses do, and every other address as before. -/
theorem State.byte_blankRange (s : State) (lo hi c : Nat) :
    (s.blankRange lo hi).byte c = if lo ≤ c ∧ c < hi then blankByte c else s.byte c := by
  unfold State.byte State.blankRange
  simp only [SMap.get, SMap.clear]
  rw [SMap.find_filter_key s.mem c (fun k => !(decide (lo ≤ k) && decide (k < hi)))]
  by_cases h : lo ≤ c ∧ c < hi
  · simp [h.1, h.2]
  · simp only [h, if_false]
    have : (!(decide (lo ≤ c) && decide (c < hi))) = true := by
      simp only [Bool.not_eq_true', Bool.and_eq_false_iff, decide_eq_false_iff_not]; omega
    rw [this]; rfl

/-- Zeros written are read back. -/
theorem State.byte_zeroBytes (s : State) (a n c : Nat) :
    (s.putBytes a (zeroBytes n)).byte c = if a ≤ c ∧ c < a + n then 0 else s.byte c := by
  by_cases h : a ≤ c ∧ c < a + n
  · have hl : (zeroBytes n).length = n := by simp [zeroBytes]
    have := State.byte_putBytes_same (zeroBytes n) s a (c - a) (by omega)
    rw [show a + (c - a) = c by omega] at this
    rw [if_pos h, this]; simp [zeroBytes]
  · have hl : (zeroBytes n).length = n := by simp [zeroBytes]
    rw [State.byte_putBytes_other _ _ _ _ (by omega)]; simp [h]

/-- Zeros in a range leave every address outside it. -/
theorem State.byte_zeroRange (s : State) (lo hi c : Nat) :
    (s.zeroRange lo hi).byte c = if lo ≤ c ∧ c < hi then 0 else s.byte c := by
  have hb : ¬ (0x10000000000 ≤ c ∧ c < 0x10004000000) → blankByte c = 0 := by
    intro h
    simp only [blankByte]
    rw [if_neg (by omega)]
  simp only [State.zeroRange]
  rw [State.byte_zeroBytes, State.byte_blankRange]
  split
  · rw [if_pos (by omega)]
  · split
    · rw [hb (by omega)]
    · rfl

/-! ### What operations on registers leave of memory -/

@[simp] theorem State.putByte_rd (s : State) (a : Nat) (b : Byte) (r : Reg) : (s.putByte a b).rd r = s.rd r := rfl

/-- Bytes written change memory alone. -/
theorem State.putBytes_eq (bs : List Byte) (s : State) (a : Nat) : s.putBytes a bs = { s with mem := (s.putBytes a bs).mem } := by
  induction bs generalizing s a with
  | nil => rfl
  | cons b bs ih => exact ih (s.putByte a b) (a + 1)

@[simp] theorem State.putBytes_rd (s : State) (a : Nat) (bs : List Byte) (r : Reg) : (s.putBytes a bs).rd r = s.rd r := by
  rw [State.putBytes_eq]; rfl

end Sys2Proof.Machine
end

