-- ==== Sys2Proof/Laws/State.lean ====
section
/-!
SUPPORT. What each named update of the state leaves as it is: one lemma for each field and update.
-/
namespace Sys2Proof.Machine

variable (s : State)

@[simp] theorem State.wr_pending (r : Reg) (v : Nat) : (s.wr r v).pending = s.pending := rfl
@[simp] theorem State.wr_loStage (r : Reg) (v : Nat) : (s.wr r v).loStage = s.loStage := rfl
@[simp] theorem State.wr_mem (r : Reg) (v : Nat) : (s.wr r v).mem = s.mem := rfl
@[simp] theorem State.wr_draw (r : Reg) (v : Nat) : (s.wr r v).draw = s.draw := rfl
@[simp] theorem State.wr_fab (r : Reg) (v : Nat) : (s.wr r v).fab = s.fab := rfl
@[simp] theorem State.wr_so (r : Reg) (v : Nat) : (s.wr r v).so = s.so := rfl
@[simp] theorem State.wr_fk (r : Reg) (v : Nat) : (s.wr r v).fk = s.fk := rfl
@[simp] theorem State.wr_ev (r : Reg) (v : Nat) : (s.wr r v).ev = s.ev := rfl
@[simp] theorem State.wr_rnd (r : Reg) (v : Nat) : (s.wr r v).rnd = s.rnd := rfl
@[simp] theorem State.wr_tal (r : Reg) (v : Nat) : (s.wr r v).tal = s.tal := rfl
@[simp] theorem State.wr_mcs (r : Reg) (v : Nat) : (s.wr r v).mcs = s.mcs := rfl
@[simp] theorem State.wr_ic (r : Reg) (v : Nat) : (s.wr r v).ic = s.ic := rfl
@[simp] theorem State.wr_dbg (r : Reg) (v : Nat) : (s.wr r v).dbg = s.dbg := rfl
@[simp] theorem State.wr_vl (r : Reg) (v : Nat) : (s.wr r v).vl = s.vl := rfl
@[simp] theorem State.wr_cr (r : Reg) (v : Nat) : (s.wr r v).cr = s.cr := rfl
@[simp] theorem State.wr_pw (r : Reg) (v : Nat) : (s.wr r v).pw = s.pw := rfl
@[simp] theorem State.wr_fl (r : Reg) (v : Nat) : (s.wr r v).fl = s.fl := rfl
@[simp] theorem State.wr_sp (r : Reg) (v : Nat) : (s.wr r v).sp = s.sp := rfl

@[simp] theorem State.setFld_pending (r : Reg) (hi lo v : Nat) : (s.setFld r hi lo v).pending = s.pending := rfl
@[simp] theorem State.setFld_loStage (r : Reg) (hi lo v : Nat) : (s.setFld r hi lo v).loStage = s.loStage := rfl
@[simp] theorem State.setFld_mem (r : Reg) (hi lo v : Nat) : (s.setFld r hi lo v).mem = s.mem := rfl
@[simp] theorem State.setFld_draw (r : Reg) (hi lo v : Nat) : (s.setFld r hi lo v).draw = s.draw := rfl
@[simp] theorem State.setFld_fab (r : Reg) (hi lo v : Nat) : (s.setFld r hi lo v).fab = s.fab := rfl
@[simp] theorem State.setFld_so (r : Reg) (hi lo v : Nat) : (s.setFld r hi lo v).so = s.so := rfl
@[simp] theorem State.setFld_fk (r : Reg) (hi lo v : Nat) : (s.setFld r hi lo v).fk = s.fk := rfl
@[simp] theorem State.setFld_ev (r : Reg) (hi lo v : Nat) : (s.setFld r hi lo v).ev = s.ev := rfl
@[simp] theorem State.setFld_rnd (r : Reg) (hi lo v : Nat) : (s.setFld r hi lo v).rnd = s.rnd := rfl
@[simp] theorem State.setFld_tal (r : Reg) (hi lo v : Nat) : (s.setFld r hi lo v).tal = s.tal := rfl
@[simp] theorem State.setFld_mcs (r : Reg) (hi lo v : Nat) : (s.setFld r hi lo v).mcs = s.mcs := rfl
@[simp] theorem State.setFld_ic (r : Reg) (hi lo v : Nat) : (s.setFld r hi lo v).ic = s.ic := rfl
@[simp] theorem State.setFld_dbg (r : Reg) (hi lo v : Nat) : (s.setFld r hi lo v).dbg = s.dbg := rfl
@[simp] theorem State.setFld_vl (r : Reg) (hi lo v : Nat) : (s.setFld r hi lo v).vl = s.vl := rfl
@[simp] theorem State.setFld_cr (r : Reg) (hi lo v : Nat) : (s.setFld r hi lo v).cr = s.cr := rfl
@[simp] theorem State.setFld_pw (r : Reg) (hi lo v : Nat) : (s.setFld r hi lo v).pw = s.pw := rfl
@[simp] theorem State.setFld_fl (r : Reg) (hi lo v : Nat) : (s.setFld r hi lo v).fl = s.fl := rfl
@[simp] theorem State.setFld_sp (r : Reg) (hi lo v : Nat) : (s.setFld r hi lo v).sp = s.sp := rfl

@[simp] theorem State.setBit_pending (r : Reg) (i : Nat) (b : Bool) : (s.setBit r i b).pending = s.pending := rfl
@[simp] theorem State.setBit_loStage (r : Reg) (i : Nat) (b : Bool) : (s.setBit r i b).loStage = s.loStage := rfl
@[simp] theorem State.setBit_mem (r : Reg) (i : Nat) (b : Bool) : (s.setBit r i b).mem = s.mem := rfl
@[simp] theorem State.setBit_draw (r : Reg) (i : Nat) (b : Bool) : (s.setBit r i b).draw = s.draw := rfl
@[simp] theorem State.setBit_fab (r : Reg) (i : Nat) (b : Bool) : (s.setBit r i b).fab = s.fab := rfl
@[simp] theorem State.setBit_so (r : Reg) (i : Nat) (b : Bool) : (s.setBit r i b).so = s.so := rfl
@[simp] theorem State.setBit_fk (r : Reg) (i : Nat) (b : Bool) : (s.setBit r i b).fk = s.fk := rfl
@[simp] theorem State.setBit_ev (r : Reg) (i : Nat) (b : Bool) : (s.setBit r i b).ev = s.ev := rfl
@[simp] theorem State.setBit_rnd (r : Reg) (i : Nat) (b : Bool) : (s.setBit r i b).rnd = s.rnd := rfl
@[simp] theorem State.setBit_tal (r : Reg) (i : Nat) (b : Bool) : (s.setBit r i b).tal = s.tal := rfl
@[simp] theorem State.setBit_mcs (r : Reg) (i : Nat) (b : Bool) : (s.setBit r i b).mcs = s.mcs := rfl
@[simp] theorem State.setBit_ic (r : Reg) (i : Nat) (b : Bool) : (s.setBit r i b).ic = s.ic := rfl
@[simp] theorem State.setBit_dbg (r : Reg) (i : Nat) (b : Bool) : (s.setBit r i b).dbg = s.dbg := rfl
@[simp] theorem State.setBit_vl (r : Reg) (i : Nat) (b : Bool) : (s.setBit r i b).vl = s.vl := rfl
@[simp] theorem State.setBit_cr (r : Reg) (i : Nat) (b : Bool) : (s.setBit r i b).cr = s.cr := rfl
@[simp] theorem State.setBit_pw (r : Reg) (i : Nat) (b : Bool) : (s.setBit r i b).pw = s.pw := rfl
@[simp] theorem State.setBit_fl (r : Reg) (i : Nat) (b : Bool) : (s.setBit r i b).fl = s.fl := rfl
@[simp] theorem State.setBit_sp (r : Reg) (i : Nat) (b : Bool) : (s.setBit r i b).sp = s.sp := rfl

@[simp] theorem State.count_pending (r : Reg) (hi lo n : Nat) : (s.count r hi lo n).pending = s.pending := rfl
@[simp] theorem State.count_loStage (r : Reg) (hi lo n : Nat) : (s.count r hi lo n).loStage = s.loStage := rfl
@[simp] theorem State.count_mem (r : Reg) (hi lo n : Nat) : (s.count r hi lo n).mem = s.mem := rfl
@[simp] theorem State.count_draw (r : Reg) (hi lo n : Nat) : (s.count r hi lo n).draw = s.draw := rfl
@[simp] theorem State.count_fab (r : Reg) (hi lo n : Nat) : (s.count r hi lo n).fab = s.fab := rfl
@[simp] theorem State.count_so (r : Reg) (hi lo n : Nat) : (s.count r hi lo n).so = s.so := rfl
@[simp] theorem State.count_fk (r : Reg) (hi lo n : Nat) : (s.count r hi lo n).fk = s.fk := rfl
@[simp] theorem State.count_ev (r : Reg) (hi lo n : Nat) : (s.count r hi lo n).ev = s.ev := rfl
@[simp] theorem State.count_rnd (r : Reg) (hi lo n : Nat) : (s.count r hi lo n).rnd = s.rnd := rfl
@[simp] theorem State.count_tal (r : Reg) (hi lo n : Nat) : (s.count r hi lo n).tal = s.tal := rfl
@[simp] theorem State.count_mcs (r : Reg) (hi lo n : Nat) : (s.count r hi lo n).mcs = s.mcs := rfl
@[simp] theorem State.count_ic (r : Reg) (hi lo n : Nat) : (s.count r hi lo n).ic = s.ic := rfl
@[simp] theorem State.count_dbg (r : Reg) (hi lo n : Nat) : (s.count r hi lo n).dbg = s.dbg := rfl
@[simp] theorem State.count_vl (r : Reg) (hi lo n : Nat) : (s.count r hi lo n).vl = s.vl := rfl
@[simp] theorem State.count_cr (r : Reg) (hi lo n : Nat) : (s.count r hi lo n).cr = s.cr := rfl
@[simp] theorem State.count_pw (r : Reg) (hi lo n : Nat) : (s.count r hi lo n).pw = s.pw := rfl
@[simp] theorem State.count_fl (r : Reg) (hi lo n : Nat) : (s.count r hi lo n).fl = s.fl := rfl
@[simp] theorem State.count_sp (r : Reg) (hi lo n : Nat) : (s.count r hi lo n).sp = s.sp := rfl

@[simp] theorem State.wr64_pending (q r : Reg) (v : Nat) : (s.wr64 q r v).pending = s.pending := rfl
@[simp] theorem State.wr64_loStage (q r : Reg) (v : Nat) : (s.wr64 q r v).loStage = s.loStage := rfl
@[simp] theorem State.wr64_mem (q r : Reg) (v : Nat) : (s.wr64 q r v).mem = s.mem := rfl
@[simp] theorem State.wr64_draw (q r : Reg) (v : Nat) : (s.wr64 q r v).draw = s.draw := rfl
@[simp] theorem State.wr64_fab (q r : Reg) (v : Nat) : (s.wr64 q r v).fab = s.fab := rfl
@[simp] theorem State.wr64_so (q r : Reg) (v : Nat) : (s.wr64 q r v).so = s.so := rfl
@[simp] theorem State.wr64_fk (q r : Reg) (v : Nat) : (s.wr64 q r v).fk = s.fk := rfl
@[simp] theorem State.wr64_ev (q r : Reg) (v : Nat) : (s.wr64 q r v).ev = s.ev := rfl
@[simp] theorem State.wr64_rnd (q r : Reg) (v : Nat) : (s.wr64 q r v).rnd = s.rnd := rfl
@[simp] theorem State.wr64_tal (q r : Reg) (v : Nat) : (s.wr64 q r v).tal = s.tal := rfl
@[simp] theorem State.wr64_mcs (q r : Reg) (v : Nat) : (s.wr64 q r v).mcs = s.mcs := rfl
@[simp] theorem State.wr64_ic (q r : Reg) (v : Nat) : (s.wr64 q r v).ic = s.ic := rfl
@[simp] theorem State.wr64_dbg (q r : Reg) (v : Nat) : (s.wr64 q r v).dbg = s.dbg := rfl
@[simp] theorem State.wr64_vl (q r : Reg) (v : Nat) : (s.wr64 q r v).vl = s.vl := rfl
@[simp] theorem State.wr64_cr (q r : Reg) (v : Nat) : (s.wr64 q r v).cr = s.cr := rfl
@[simp] theorem State.wr64_pw (q r : Reg) (v : Nat) : (s.wr64 q r v).pw = s.pw := rfl
@[simp] theorem State.wr64_fl (q r : Reg) (v : Nat) : (s.wr64 q r v).fl = s.fl := rfl
@[simp] theorem State.wr64_sp (q r : Reg) (v : Nat) : (s.wr64 q r v).sp = s.sp := rfl

@[simp] theorem State.store_pending (a w : Nat) : (s.store a w).pending = s.pending := rfl
@[simp] theorem State.store_loStage (a w : Nat) : (s.store a w).loStage = s.loStage := rfl
@[simp] theorem State.store_mem (a w : Nat) : (s.store a w).mem = s.mem := rfl
@[simp] theorem State.store_draw (a w : Nat) : (s.store a w).draw = s.draw := rfl
@[simp] theorem State.store_fab (a w : Nat) : (s.store a w).fab = s.fab := rfl
@[simp] theorem State.store_so (a w : Nat) : (s.store a w).so = s.so := rfl
@[simp] theorem State.store_fk (a w : Nat) : (s.store a w).fk = s.fk := rfl
@[simp] theorem State.store_ev (a w : Nat) : (s.store a w).ev = s.ev := rfl
@[simp] theorem State.store_rnd (a w : Nat) : (s.store a w).rnd = s.rnd := rfl
@[simp] theorem State.store_tal (a w : Nat) : (s.store a w).tal = s.tal := rfl
@[simp] theorem State.store_mcs (a w : Nat) : (s.store a w).mcs = s.mcs := rfl
@[simp] theorem State.store_ic (a w : Nat) : (s.store a w).ic = s.ic := rfl
@[simp] theorem State.store_dbg (a w : Nat) : (s.store a w).dbg = s.dbg := rfl
@[simp] theorem State.store_vl (a w : Nat) : (s.store a w).vl = s.vl := rfl
@[simp] theorem State.store_cr (a w : Nat) : (s.store a w).cr = s.cr := rfl
@[simp] theorem State.store_pw (a w : Nat) : (s.store a w).pw = s.pw := rfl
@[simp] theorem State.store_fl (a w : Nat) : (s.store a w).fl = s.fl := rfl
@[simp] theorem State.store_sp (a w : Nat) : (s.store a w).sp = s.sp := rfl

@[simp] theorem State.putByte_pending (a : Nat) (b : Byte) : (s.putByte a b).pending = s.pending := rfl
@[simp] theorem State.putByte_regs (a : Nat) (b : Byte) : (s.putByte a b).regs = s.regs := rfl
@[simp] theorem State.putByte_loStage (a : Nat) (b : Byte) : (s.putByte a b).loStage = s.loStage := rfl
@[simp] theorem State.putByte_draw (a : Nat) (b : Byte) : (s.putByte a b).draw = s.draw := rfl
@[simp] theorem State.putByte_fab (a : Nat) (b : Byte) : (s.putByte a b).fab = s.fab := rfl
@[simp] theorem State.putByte_so (a : Nat) (b : Byte) : (s.putByte a b).so = s.so := rfl
@[simp] theorem State.putByte_fk (a : Nat) (b : Byte) : (s.putByte a b).fk = s.fk := rfl
@[simp] theorem State.putByte_ev (a : Nat) (b : Byte) : (s.putByte a b).ev = s.ev := rfl
@[simp] theorem State.putByte_rnd (a : Nat) (b : Byte) : (s.putByte a b).rnd = s.rnd := rfl
@[simp] theorem State.putByte_tal (a : Nat) (b : Byte) : (s.putByte a b).tal = s.tal := rfl
@[simp] theorem State.putByte_mcs (a : Nat) (b : Byte) : (s.putByte a b).mcs = s.mcs := rfl
@[simp] theorem State.putByte_ic (a : Nat) (b : Byte) : (s.putByte a b).ic = s.ic := rfl
@[simp] theorem State.putByte_dbg (a : Nat) (b : Byte) : (s.putByte a b).dbg = s.dbg := rfl
@[simp] theorem State.putByte_vl (a : Nat) (b : Byte) : (s.putByte a b).vl = s.vl := rfl
@[simp] theorem State.putByte_cr (a : Nat) (b : Byte) : (s.putByte a b).cr = s.cr := rfl
@[simp] theorem State.putByte_pw (a : Nat) (b : Byte) : (s.putByte a b).pw = s.pw := rfl
@[simp] theorem State.putByte_fl (a : Nat) (b : Byte) : (s.putByte a b).fl = s.fl := rfl
@[simp] theorem State.putByte_sp (a : Nat) (b : Byte) : (s.putByte a b).sp = s.sp := rfl

@[simp] theorem State.zeroRange_pending (lo hi : Nat) : (s.zeroRange lo hi).pending = s.pending := by unfold State.zeroRange; rw [State.putBytes_eq]; rfl
@[simp] theorem State.zeroRange_regs (lo hi : Nat) : (s.zeroRange lo hi).regs = s.regs := by unfold State.zeroRange; rw [State.putBytes_eq]; rfl
@[simp] theorem State.zeroRange_loStage (lo hi : Nat) : (s.zeroRange lo hi).loStage = s.loStage := by unfold State.zeroRange; rw [State.putBytes_eq]; rfl
@[simp] theorem State.zeroRange_draw (lo hi : Nat) : (s.zeroRange lo hi).draw = s.draw := by unfold State.zeroRange; rw [State.putBytes_eq]; rfl
@[simp] theorem State.zeroRange_fab (lo hi : Nat) : (s.zeroRange lo hi).fab = s.fab := by unfold State.zeroRange; rw [State.putBytes_eq]; rfl
@[simp] theorem State.zeroRange_so (lo hi : Nat) : (s.zeroRange lo hi).so = s.so := by unfold State.zeroRange; rw [State.putBytes_eq]; rfl
@[simp] theorem State.zeroRange_fk (lo hi : Nat) : (s.zeroRange lo hi).fk = s.fk := by unfold State.zeroRange; rw [State.putBytes_eq]; rfl
@[simp] theorem State.zeroRange_ev (lo hi : Nat) : (s.zeroRange lo hi).ev = s.ev := by unfold State.zeroRange; rw [State.putBytes_eq]; rfl
@[simp] theorem State.zeroRange_rnd (lo hi : Nat) : (s.zeroRange lo hi).rnd = s.rnd := by unfold State.zeroRange; rw [State.putBytes_eq]; rfl
@[simp] theorem State.zeroRange_tal (lo hi : Nat) : (s.zeroRange lo hi).tal = s.tal := by unfold State.zeroRange; rw [State.putBytes_eq]; rfl
@[simp] theorem State.zeroRange_mcs (lo hi : Nat) : (s.zeroRange lo hi).mcs = s.mcs := by unfold State.zeroRange; rw [State.putBytes_eq]; rfl
@[simp] theorem State.zeroRange_ic (lo hi : Nat) : (s.zeroRange lo hi).ic = s.ic := by unfold State.zeroRange; rw [State.putBytes_eq]; rfl
@[simp] theorem State.zeroRange_dbg (lo hi : Nat) : (s.zeroRange lo hi).dbg = s.dbg := by unfold State.zeroRange; rw [State.putBytes_eq]; rfl
@[simp] theorem State.zeroRange_vl (lo hi : Nat) : (s.zeroRange lo hi).vl = s.vl := by unfold State.zeroRange; rw [State.putBytes_eq]; rfl
@[simp] theorem State.zeroRange_cr (lo hi : Nat) : (s.zeroRange lo hi).cr = s.cr := by unfold State.zeroRange; rw [State.putBytes_eq]; rfl
@[simp] theorem State.zeroRange_pw (lo hi : Nat) : (s.zeroRange lo hi).pw = s.pw := by unfold State.zeroRange; rw [State.putBytes_eq]; rfl
@[simp] theorem State.zeroRange_fl (lo hi : Nat) : (s.zeroRange lo hi).fl = s.fl := by unfold State.zeroRange; rw [State.putBytes_eq]; rfl
@[simp] theorem State.zeroRange_sp (lo hi : Nat) : (s.zeroRange lo hi).sp = s.sp := by unfold State.zeroRange; rw [State.putBytes_eq]; rfl

@[simp] theorem State.copyMem_pending (a b n : Nat) : (s.copyMem a b n).pending = s.pending := by unfold State.copyMem; rw [State.putBytes_eq]
@[simp] theorem State.copyMem_regs (a b n : Nat) : (s.copyMem a b n).regs = s.regs := by unfold State.copyMem; rw [State.putBytes_eq]
@[simp] theorem State.copyMem_loStage (a b n : Nat) : (s.copyMem a b n).loStage = s.loStage := by unfold State.copyMem; rw [State.putBytes_eq]
@[simp] theorem State.copyMem_draw (a b n : Nat) : (s.copyMem a b n).draw = s.draw := by unfold State.copyMem; rw [State.putBytes_eq]
@[simp] theorem State.copyMem_fab (a b n : Nat) : (s.copyMem a b n).fab = s.fab := by unfold State.copyMem; rw [State.putBytes_eq]
@[simp] theorem State.copyMem_so (a b n : Nat) : (s.copyMem a b n).so = s.so := by unfold State.copyMem; rw [State.putBytes_eq]
@[simp] theorem State.copyMem_fk (a b n : Nat) : (s.copyMem a b n).fk = s.fk := by unfold State.copyMem; rw [State.putBytes_eq]
@[simp] theorem State.copyMem_ev (a b n : Nat) : (s.copyMem a b n).ev = s.ev := by unfold State.copyMem; rw [State.putBytes_eq]
@[simp] theorem State.copyMem_rnd (a b n : Nat) : (s.copyMem a b n).rnd = s.rnd := by unfold State.copyMem; rw [State.putBytes_eq]
@[simp] theorem State.copyMem_tal (a b n : Nat) : (s.copyMem a b n).tal = s.tal := by unfold State.copyMem; rw [State.putBytes_eq]
@[simp] theorem State.copyMem_mcs (a b n : Nat) : (s.copyMem a b n).mcs = s.mcs := by unfold State.copyMem; rw [State.putBytes_eq]
@[simp] theorem State.copyMem_ic (a b n : Nat) : (s.copyMem a b n).ic = s.ic := by unfold State.copyMem; rw [State.putBytes_eq]
@[simp] theorem State.copyMem_dbg (a b n : Nat) : (s.copyMem a b n).dbg = s.dbg := by unfold State.copyMem; rw [State.putBytes_eq]
@[simp] theorem State.copyMem_vl (a b n : Nat) : (s.copyMem a b n).vl = s.vl := by unfold State.copyMem; rw [State.putBytes_eq]
@[simp] theorem State.copyMem_cr (a b n : Nat) : (s.copyMem a b n).cr = s.cr := by unfold State.copyMem; rw [State.putBytes_eq]
@[simp] theorem State.copyMem_pw (a b n : Nat) : (s.copyMem a b n).pw = s.pw := by unfold State.copyMem; rw [State.putBytes_eq]
@[simp] theorem State.copyMem_fl (a b n : Nat) : (s.copyMem a b n).fl = s.fl := by unfold State.copyMem; rw [State.putBytes_eq]
@[simp] theorem State.copyMem_sp (a b n : Nat) : (s.copyMem a b n).sp = s.sp := by unfold State.copyMem; rw [State.putBytes_eq]

@[simp] theorem State.drawn_pending : (s.drawn).pending = s.pending := rfl
@[simp] theorem State.drawn_regs : (s.drawn).regs = s.regs := rfl
@[simp] theorem State.drawn_loStage : (s.drawn).loStage = s.loStage := rfl
@[simp] theorem State.drawn_mem : (s.drawn).mem = s.mem := rfl
@[simp] theorem State.drawn_fab : (s.drawn).fab = s.fab := rfl
@[simp] theorem State.drawn_so : (s.drawn).so = s.so := rfl
@[simp] theorem State.drawn_fk : (s.drawn).fk = s.fk := rfl
@[simp] theorem State.drawn_ev : (s.drawn).ev = s.ev := rfl
@[simp] theorem State.drawn_rnd : (s.drawn).rnd = s.rnd := rfl
@[simp] theorem State.drawn_tal : (s.drawn).tal = s.tal := rfl
@[simp] theorem State.drawn_mcs : (s.drawn).mcs = s.mcs := rfl
@[simp] theorem State.drawn_ic : (s.drawn).ic = s.ic := rfl
@[simp] theorem State.drawn_dbg : (s.drawn).dbg = s.dbg := rfl
@[simp] theorem State.drawn_vl : (s.drawn).vl = s.vl := rfl
@[simp] theorem State.drawn_cr : (s.drawn).cr = s.cr := rfl
@[simp] theorem State.drawn_pw : (s.drawn).pw = s.pw := rfl
@[simp] theorem State.drawn_fl : (s.drawn).fl = s.fl := rfl
@[simp] theorem State.drawn_sp : (s.drawn).sp = s.sp := rfl

@[simp] theorem State.setTile_pending (n : Nat) (v : TileRt) : (s.setTile n v).pending = s.pending := rfl
@[simp] theorem State.setTile_regs (n : Nat) (v : TileRt) : (s.setTile n v).regs = s.regs := rfl
@[simp] theorem State.setTile_loStage (n : Nat) (v : TileRt) : (s.setTile n v).loStage = s.loStage := rfl
@[simp] theorem State.setTile_mem (n : Nat) (v : TileRt) : (s.setTile n v).mem = s.mem := rfl
@[simp] theorem State.setTile_draw (n : Nat) (v : TileRt) : (s.setTile n v).draw = s.draw := rfl
@[simp] theorem State.setTile_so (n : Nat) (v : TileRt) : (s.setTile n v).so = s.so := rfl
@[simp] theorem State.setTile_fk (n : Nat) (v : TileRt) : (s.setTile n v).fk = s.fk := rfl
@[simp] theorem State.setTile_ev (n : Nat) (v : TileRt) : (s.setTile n v).ev = s.ev := rfl
@[simp] theorem State.setTile_rnd (n : Nat) (v : TileRt) : (s.setTile n v).rnd = s.rnd := rfl
@[simp] theorem State.setTile_tal (n : Nat) (v : TileRt) : (s.setTile n v).tal = s.tal := rfl
@[simp] theorem State.setTile_mcs (n : Nat) (v : TileRt) : (s.setTile n v).mcs = s.mcs := rfl
@[simp] theorem State.setTile_ic (n : Nat) (v : TileRt) : (s.setTile n v).ic = s.ic := rfl
@[simp] theorem State.setTile_dbg (n : Nat) (v : TileRt) : (s.setTile n v).dbg = s.dbg := rfl
@[simp] theorem State.setTile_vl (n : Nat) (v : TileRt) : (s.setTile n v).vl = s.vl := rfl
@[simp] theorem State.setTile_cr (n : Nat) (v : TileRt) : (s.setTile n v).cr = s.cr := rfl
@[simp] theorem State.setTile_pw (n : Nat) (v : TileRt) : (s.setTile n v).pw = s.pw := rfl
@[simp] theorem State.setTile_fl (n : Nat) (v : TileRt) : (s.setTile n v).fl = s.fl := rfl
@[simp] theorem State.setTile_sp (n : Nat) (v : TileRt) : (s.setTile n v).sp = s.sp := rfl

@[simp] theorem State.setBay_pending (n b : Nat) (v : BayRt) : (s.setBay n b v).pending = s.pending := rfl
@[simp] theorem State.setBay_regs (n b : Nat) (v : BayRt) : (s.setBay n b v).regs = s.regs := rfl
@[simp] theorem State.setBay_loStage (n b : Nat) (v : BayRt) : (s.setBay n b v).loStage = s.loStage := rfl
@[simp] theorem State.setBay_mem (n b : Nat) (v : BayRt) : (s.setBay n b v).mem = s.mem := rfl
@[simp] theorem State.setBay_draw (n b : Nat) (v : BayRt) : (s.setBay n b v).draw = s.draw := rfl
@[simp] theorem State.setBay_so (n b : Nat) (v : BayRt) : (s.setBay n b v).so = s.so := rfl
@[simp] theorem State.setBay_fk (n b : Nat) (v : BayRt) : (s.setBay n b v).fk = s.fk := rfl
@[simp] theorem State.setBay_ev (n b : Nat) (v : BayRt) : (s.setBay n b v).ev = s.ev := rfl
@[simp] theorem State.setBay_rnd (n b : Nat) (v : BayRt) : (s.setBay n b v).rnd = s.rnd := rfl
@[simp] theorem State.setBay_tal (n b : Nat) (v : BayRt) : (s.setBay n b v).tal = s.tal := rfl
@[simp] theorem State.setBay_mcs (n b : Nat) (v : BayRt) : (s.setBay n b v).mcs = s.mcs := rfl
@[simp] theorem State.setBay_ic (n b : Nat) (v : BayRt) : (s.setBay n b v).ic = s.ic := rfl
@[simp] theorem State.setBay_dbg (n b : Nat) (v : BayRt) : (s.setBay n b v).dbg = s.dbg := rfl
@[simp] theorem State.setBay_vl (n b : Nat) (v : BayRt) : (s.setBay n b v).vl = s.vl := rfl
@[simp] theorem State.setBay_cr (n b : Nat) (v : BayRt) : (s.setBay n b v).cr = s.cr := rfl
@[simp] theorem State.setBay_pw (n b : Nat) (v : BayRt) : (s.setBay n b v).pw = s.pw := rfl
@[simp] theorem State.setBay_fl (n b : Nat) (v : BayRt) : (s.setBay n b v).fl = s.fl := rfl
@[simp] theorem State.setBay_sp (n b : Nat) (v : BayRt) : (s.setBay n b v).sp = s.sp := rfl

@[simp] theorem State.setBp_pending (i : Nat) (v : BpRt) : (s.setBp i v).pending = s.pending := rfl
@[simp] theorem State.setBp_regs (i : Nat) (v : BpRt) : (s.setBp i v).regs = s.regs := rfl
@[simp] theorem State.setBp_loStage (i : Nat) (v : BpRt) : (s.setBp i v).loStage = s.loStage := rfl
@[simp] theorem State.setBp_mem (i : Nat) (v : BpRt) : (s.setBp i v).mem = s.mem := rfl
@[simp] theorem State.setBp_draw (i : Nat) (v : BpRt) : (s.setBp i v).draw = s.draw := rfl
@[simp] theorem State.setBp_so (i : Nat) (v : BpRt) : (s.setBp i v).so = s.so := rfl
@[simp] theorem State.setBp_fk (i : Nat) (v : BpRt) : (s.setBp i v).fk = s.fk := rfl
@[simp] theorem State.setBp_ev (i : Nat) (v : BpRt) : (s.setBp i v).ev = s.ev := rfl
@[simp] theorem State.setBp_rnd (i : Nat) (v : BpRt) : (s.setBp i v).rnd = s.rnd := rfl
@[simp] theorem State.setBp_tal (i : Nat) (v : BpRt) : (s.setBp i v).tal = s.tal := rfl
@[simp] theorem State.setBp_mcs (i : Nat) (v : BpRt) : (s.setBp i v).mcs = s.mcs := rfl
@[simp] theorem State.setBp_ic (i : Nat) (v : BpRt) : (s.setBp i v).ic = s.ic := rfl
@[simp] theorem State.setBp_dbg (i : Nat) (v : BpRt) : (s.setBp i v).dbg = s.dbg := rfl
@[simp] theorem State.setBp_vl (i : Nat) (v : BpRt) : (s.setBp i v).vl = s.vl := rfl
@[simp] theorem State.setBp_cr (i : Nat) (v : BpRt) : (s.setBp i v).cr = s.cr := rfl
@[simp] theorem State.setBp_pw (i : Nat) (v : BpRt) : (s.setBp i v).pw = s.pw := rfl
@[simp] theorem State.setBp_fl (i : Nat) (v : BpRt) : (s.setBp i v).fl = s.fl := rfl
@[simp] theorem State.setBp_sp (i : Nat) (v : BpRt) : (s.setBp i v).sp = s.sp := rfl

@[simp] theorem State.setMmp_pending (n k : Nat) (v : MmpRt) : (s.setMmp n k v).pending = s.pending := rfl
@[simp] theorem State.setMmp_regs (n k : Nat) (v : MmpRt) : (s.setMmp n k v).regs = s.regs := rfl
@[simp] theorem State.setMmp_loStage (n k : Nat) (v : MmpRt) : (s.setMmp n k v).loStage = s.loStage := rfl
@[simp] theorem State.setMmp_mem (n k : Nat) (v : MmpRt) : (s.setMmp n k v).mem = s.mem := rfl
@[simp] theorem State.setMmp_draw (n k : Nat) (v : MmpRt) : (s.setMmp n k v).draw = s.draw := rfl
@[simp] theorem State.setMmp_so (n k : Nat) (v : MmpRt) : (s.setMmp n k v).so = s.so := rfl
@[simp] theorem State.setMmp_fk (n k : Nat) (v : MmpRt) : (s.setMmp n k v).fk = s.fk := rfl
@[simp] theorem State.setMmp_ev (n k : Nat) (v : MmpRt) : (s.setMmp n k v).ev = s.ev := rfl
@[simp] theorem State.setMmp_rnd (n k : Nat) (v : MmpRt) : (s.setMmp n k v).rnd = s.rnd := rfl
@[simp] theorem State.setMmp_tal (n k : Nat) (v : MmpRt) : (s.setMmp n k v).tal = s.tal := rfl
@[simp] theorem State.setMmp_mcs (n k : Nat) (v : MmpRt) : (s.setMmp n k v).mcs = s.mcs := rfl
@[simp] theorem State.setMmp_ic (n k : Nat) (v : MmpRt) : (s.setMmp n k v).ic = s.ic := rfl
@[simp] theorem State.setMmp_dbg (n k : Nat) (v : MmpRt) : (s.setMmp n k v).dbg = s.dbg := rfl
@[simp] theorem State.setMmp_vl (n k : Nat) (v : MmpRt) : (s.setMmp n k v).vl = s.vl := rfl
@[simp] theorem State.setMmp_cr (n k : Nat) (v : MmpRt) : (s.setMmp n k v).cr = s.cr := rfl
@[simp] theorem State.setMmp_pw (n k : Nat) (v : MmpRt) : (s.setMmp n k v).pw = s.pw := rfl
@[simp] theorem State.setMmp_fl (n k : Nat) (v : MmpRt) : (s.setMmp n k v).fl = s.fl := rfl
@[simp] theorem State.setMmp_sp (n k : Nat) (v : MmpRt) : (s.setMmp n k v).sp = s.sp := rfl

@[simp] theorem State.setBank_pending (k : Nat) (v : BankRt) : (s.setBank k v).pending = s.pending := rfl
@[simp] theorem State.setBank_regs (k : Nat) (v : BankRt) : (s.setBank k v).regs = s.regs := rfl
@[simp] theorem State.setBank_loStage (k : Nat) (v : BankRt) : (s.setBank k v).loStage = s.loStage := rfl
@[simp] theorem State.setBank_mem (k : Nat) (v : BankRt) : (s.setBank k v).mem = s.mem := rfl
@[simp] theorem State.setBank_draw (k : Nat) (v : BankRt) : (s.setBank k v).draw = s.draw := rfl
@[simp] theorem State.setBank_so (k : Nat) (v : BankRt) : (s.setBank k v).so = s.so := rfl
@[simp] theorem State.setBank_fk (k : Nat) (v : BankRt) : (s.setBank k v).fk = s.fk := rfl
@[simp] theorem State.setBank_ev (k : Nat) (v : BankRt) : (s.setBank k v).ev = s.ev := rfl
@[simp] theorem State.setBank_rnd (k : Nat) (v : BankRt) : (s.setBank k v).rnd = s.rnd := rfl
@[simp] theorem State.setBank_tal (k : Nat) (v : BankRt) : (s.setBank k v).tal = s.tal := rfl
@[simp] theorem State.setBank_mcs (k : Nat) (v : BankRt) : (s.setBank k v).mcs = s.mcs := rfl
@[simp] theorem State.setBank_ic (k : Nat) (v : BankRt) : (s.setBank k v).ic = s.ic := rfl
@[simp] theorem State.setBank_dbg (k : Nat) (v : BankRt) : (s.setBank k v).dbg = s.dbg := rfl
@[simp] theorem State.setBank_vl (k : Nat) (v : BankRt) : (s.setBank k v).vl = s.vl := rfl
@[simp] theorem State.setBank_cr (k : Nat) (v : BankRt) : (s.setBank k v).cr = s.cr := rfl
@[simp] theorem State.setBank_pw (k : Nat) (v : BankRt) : (s.setBank k v).pw = s.pw := rfl
@[simp] theorem State.setBank_fl (k : Nat) (v : BankRt) : (s.setBank k v).fl = s.fl := rfl
@[simp] theorem State.setBank_sp (k : Nat) (v : BankRt) : (s.setBank k v).sp = s.sp := rfl

@[simp] theorem State.setBpRec_pending (i : Nat) (v : BpRec) : (s.setBpRec i v).pending = s.pending := rfl
@[simp] theorem State.setBpRec_regs (i : Nat) (v : BpRec) : (s.setBpRec i v).regs = s.regs := rfl
@[simp] theorem State.setBpRec_loStage (i : Nat) (v : BpRec) : (s.setBpRec i v).loStage = s.loStage := rfl
@[simp] theorem State.setBpRec_mem (i : Nat) (v : BpRec) : (s.setBpRec i v).mem = s.mem := rfl
@[simp] theorem State.setBpRec_draw (i : Nat) (v : BpRec) : (s.setBpRec i v).draw = s.draw := rfl
@[simp] theorem State.setBpRec_fab (i : Nat) (v : BpRec) : (s.setBpRec i v).fab = s.fab := rfl
@[simp] theorem State.setBpRec_fk (i : Nat) (v : BpRec) : (s.setBpRec i v).fk = s.fk := rfl
@[simp] theorem State.setBpRec_ev (i : Nat) (v : BpRec) : (s.setBpRec i v).ev = s.ev := rfl
@[simp] theorem State.setBpRec_rnd (i : Nat) (v : BpRec) : (s.setBpRec i v).rnd = s.rnd := rfl
@[simp] theorem State.setBpRec_tal (i : Nat) (v : BpRec) : (s.setBpRec i v).tal = s.tal := rfl
@[simp] theorem State.setBpRec_mcs (i : Nat) (v : BpRec) : (s.setBpRec i v).mcs = s.mcs := rfl
@[simp] theorem State.setBpRec_ic (i : Nat) (v : BpRec) : (s.setBpRec i v).ic = s.ic := rfl
@[simp] theorem State.setBpRec_dbg (i : Nat) (v : BpRec) : (s.setBpRec i v).dbg = s.dbg := rfl
@[simp] theorem State.setBpRec_vl (i : Nat) (v : BpRec) : (s.setBpRec i v).vl = s.vl := rfl
@[simp] theorem State.setBpRec_cr (i : Nat) (v : BpRec) : (s.setBpRec i v).cr = s.cr := rfl
@[simp] theorem State.setBpRec_pw (i : Nat) (v : BpRec) : (s.setBpRec i v).pw = s.pw := rfl
@[simp] theorem State.setBpRec_fl (i : Nat) (v : BpRec) : (s.setBpRec i v).fl = s.fl := rfl
@[simp] theorem State.setBpRec_sp (i : Nat) (v : BpRec) : (s.setBpRec i v).sp = s.sp := rfl

@[simp] theorem State.setRun_pending (r : Nat) (v : Run) : (s.setRun r v).pending = s.pending := rfl
@[simp] theorem State.setRun_regs (r : Nat) (v : Run) : (s.setRun r v).regs = s.regs := rfl
@[simp] theorem State.setRun_loStage (r : Nat) (v : Run) : (s.setRun r v).loStage = s.loStage := rfl
@[simp] theorem State.setRun_mem (r : Nat) (v : Run) : (s.setRun r v).mem = s.mem := rfl
@[simp] theorem State.setRun_draw (r : Nat) (v : Run) : (s.setRun r v).draw = s.draw := rfl
@[simp] theorem State.setRun_fab (r : Nat) (v : Run) : (s.setRun r v).fab = s.fab := rfl
@[simp] theorem State.setRun_fk (r : Nat) (v : Run) : (s.setRun r v).fk = s.fk := rfl
@[simp] theorem State.setRun_ev (r : Nat) (v : Run) : (s.setRun r v).ev = s.ev := rfl
@[simp] theorem State.setRun_rnd (r : Nat) (v : Run) : (s.setRun r v).rnd = s.rnd := rfl
@[simp] theorem State.setRun_tal (r : Nat) (v : Run) : (s.setRun r v).tal = s.tal := rfl
@[simp] theorem State.setRun_mcs (r : Nat) (v : Run) : (s.setRun r v).mcs = s.mcs := rfl
@[simp] theorem State.setRun_ic (r : Nat) (v : Run) : (s.setRun r v).ic = s.ic := rfl
@[simp] theorem State.setRun_dbg (r : Nat) (v : Run) : (s.setRun r v).dbg = s.dbg := rfl
@[simp] theorem State.setRun_vl (r : Nat) (v : Run) : (s.setRun r v).vl = s.vl := rfl
@[simp] theorem State.setRun_cr (r : Nat) (v : Run) : (s.setRun r v).cr = s.cr := rfl
@[simp] theorem State.setRun_pw (r : Nat) (v : Run) : (s.setRun r v).pw = s.pw := rfl
@[simp] theorem State.setRun_fl (r : Nat) (v : Run) : (s.setRun r v).fl = s.fl := rfl
@[simp] theorem State.setRun_sp (r : Nat) (v : Run) : (s.setRun r v).sp = s.sp := rfl

@[simp] theorem State.setMc_pending (c : Nat) (v : McSt) : (s.setMc c v).pending = s.pending := rfl
@[simp] theorem State.setMc_regs (c : Nat) (v : McSt) : (s.setMc c v).regs = s.regs := rfl
@[simp] theorem State.setMc_loStage (c : Nat) (v : McSt) : (s.setMc c v).loStage = s.loStage := rfl
@[simp] theorem State.setMc_mem (c : Nat) (v : McSt) : (s.setMc c v).mem = s.mem := rfl
@[simp] theorem State.setMc_draw (c : Nat) (v : McSt) : (s.setMc c v).draw = s.draw := rfl
@[simp] theorem State.setMc_fab (c : Nat) (v : McSt) : (s.setMc c v).fab = s.fab := rfl
@[simp] theorem State.setMc_so (c : Nat) (v : McSt) : (s.setMc c v).so = s.so := rfl
@[simp] theorem State.setMc_fk (c : Nat) (v : McSt) : (s.setMc c v).fk = s.fk := rfl
@[simp] theorem State.setMc_ev (c : Nat) (v : McSt) : (s.setMc c v).ev = s.ev := rfl
@[simp] theorem State.setMc_rnd (c : Nat) (v : McSt) : (s.setMc c v).rnd = s.rnd := rfl
@[simp] theorem State.setMc_tal (c : Nat) (v : McSt) : (s.setMc c v).tal = s.tal := rfl
@[simp] theorem State.setMc_ic (c : Nat) (v : McSt) : (s.setMc c v).ic = s.ic := rfl
@[simp] theorem State.setMc_dbg (c : Nat) (v : McSt) : (s.setMc c v).dbg = s.dbg := rfl
@[simp] theorem State.setMc_vl (c : Nat) (v : McSt) : (s.setMc c v).vl = s.vl := rfl
@[simp] theorem State.setMc_cr (c : Nat) (v : McSt) : (s.setMc c v).cr = s.cr := rfl
@[simp] theorem State.setMc_pw (c : Nat) (v : McSt) : (s.setMc c v).pw = s.pw := rfl
@[simp] theorem State.setMc_fl (c : Nat) (v : McSt) : (s.setMc c v).fl = s.fl := rfl
@[simp] theorem State.setMc_sp (c : Nat) (v : McSt) : (s.setMc c v).sp = s.sp := rfl

@[simp] theorem State.setCore_pending (c : Nat) (v : CoreSt) : (s.setCore c v).pending = s.pending := rfl
@[simp] theorem State.setCore_regs (c : Nat) (v : CoreSt) : (s.setCore c v).regs = s.regs := rfl
@[simp] theorem State.setCore_loStage (c : Nat) (v : CoreSt) : (s.setCore c v).loStage = s.loStage := rfl
@[simp] theorem State.setCore_mem (c : Nat) (v : CoreSt) : (s.setCore c v).mem = s.mem := rfl
@[simp] theorem State.setCore_draw (c : Nat) (v : CoreSt) : (s.setCore c v).draw = s.draw := rfl
@[simp] theorem State.setCore_fab (c : Nat) (v : CoreSt) : (s.setCore c v).fab = s.fab := rfl
@[simp] theorem State.setCore_so (c : Nat) (v : CoreSt) : (s.setCore c v).so = s.so := rfl
@[simp] theorem State.setCore_fk (c : Nat) (v : CoreSt) : (s.setCore c v).fk = s.fk := rfl
@[simp] theorem State.setCore_ev (c : Nat) (v : CoreSt) : (s.setCore c v).ev = s.ev := rfl
@[simp] theorem State.setCore_rnd (c : Nat) (v : CoreSt) : (s.setCore c v).rnd = s.rnd := rfl
@[simp] theorem State.setCore_tal (c : Nat) (v : CoreSt) : (s.setCore c v).tal = s.tal := rfl
@[simp] theorem State.setCore_mcs (c : Nat) (v : CoreSt) : (s.setCore c v).mcs = s.mcs := rfl
@[simp] theorem State.setCore_ic (c : Nat) (v : CoreSt) : (s.setCore c v).ic = s.ic := rfl
@[simp] theorem State.setCore_vl (c : Nat) (v : CoreSt) : (s.setCore c v).vl = s.vl := rfl
@[simp] theorem State.setCore_cr (c : Nat) (v : CoreSt) : (s.setCore c v).cr = s.cr := rfl
@[simp] theorem State.setCore_pw (c : Nat) (v : CoreSt) : (s.setCore c v).pw = s.pw := rfl
@[simp] theorem State.setCore_fl (c : Nat) (v : CoreSt) : (s.setCore c v).fl = s.fl := rfl
@[simp] theorem State.setCore_sp (c : Nat) (v : CoreSt) : (s.setCore c v).sp = s.sp := rfl

@[simp] theorem State.setCrt_pending (n : Nat) (v : CrTile) : (s.setCrt n v).pending = s.pending := rfl
@[simp] theorem State.setCrt_regs (n : Nat) (v : CrTile) : (s.setCrt n v).regs = s.regs := rfl
@[simp] theorem State.setCrt_loStage (n : Nat) (v : CrTile) : (s.setCrt n v).loStage = s.loStage := rfl
@[simp] theorem State.setCrt_mem (n : Nat) (v : CrTile) : (s.setCrt n v).mem = s.mem := rfl
@[simp] theorem State.setCrt_draw (n : Nat) (v : CrTile) : (s.setCrt n v).draw = s.draw := rfl
@[simp] theorem State.setCrt_fab (n : Nat) (v : CrTile) : (s.setCrt n v).fab = s.fab := rfl
@[simp] theorem State.setCrt_so (n : Nat) (v : CrTile) : (s.setCrt n v).so = s.so := rfl
@[simp] theorem State.setCrt_fk (n : Nat) (v : CrTile) : (s.setCrt n v).fk = s.fk := rfl
@[simp] theorem State.setCrt_ev (n : Nat) (v : CrTile) : (s.setCrt n v).ev = s.ev := rfl
@[simp] theorem State.setCrt_rnd (n : Nat) (v : CrTile) : (s.setCrt n v).rnd = s.rnd := rfl
@[simp] theorem State.setCrt_tal (n : Nat) (v : CrTile) : (s.setCrt n v).tal = s.tal := rfl
@[simp] theorem State.setCrt_mcs (n : Nat) (v : CrTile) : (s.setCrt n v).mcs = s.mcs := rfl
@[simp] theorem State.setCrt_ic (n : Nat) (v : CrTile) : (s.setCrt n v).ic = s.ic := rfl
@[simp] theorem State.setCrt_dbg (n : Nat) (v : CrTile) : (s.setCrt n v).dbg = s.dbg := rfl
@[simp] theorem State.setCrt_vl (n : Nat) (v : CrTile) : (s.setCrt n v).vl = s.vl := rfl
@[simp] theorem State.setCrt_pw (n : Nat) (v : CrTile) : (s.setCrt n v).pw = s.pw := rfl
@[simp] theorem State.setCrt_fl (n : Nat) (v : CrTile) : (s.setCrt n v).fl = s.fl := rfl
@[simp] theorem State.setCrt_sp (n : Nat) (v : CrTile) : (s.setCrt n v).sp = s.sp := rfl

@[simp] theorem State.setCrg_pending (n g : Nat) (v : CrGroup) : (s.setCrg n g v).pending = s.pending := rfl
@[simp] theorem State.setCrg_regs (n g : Nat) (v : CrGroup) : (s.setCrg n g v).regs = s.regs := rfl
@[simp] theorem State.setCrg_loStage (n g : Nat) (v : CrGroup) : (s.setCrg n g v).loStage = s.loStage := rfl
@[simp] theorem State.setCrg_mem (n g : Nat) (v : CrGroup) : (s.setCrg n g v).mem = s.mem := rfl
@[simp] theorem State.setCrg_draw (n g : Nat) (v : CrGroup) : (s.setCrg n g v).draw = s.draw := rfl
@[simp] theorem State.setCrg_fab (n g : Nat) (v : CrGroup) : (s.setCrg n g v).fab = s.fab := rfl
@[simp] theorem State.setCrg_so (n g : Nat) (v : CrGroup) : (s.setCrg n g v).so = s.so := rfl
@[simp] theorem State.setCrg_fk (n g : Nat) (v : CrGroup) : (s.setCrg n g v).fk = s.fk := rfl
@[simp] theorem State.setCrg_ev (n g : Nat) (v : CrGroup) : (s.setCrg n g v).ev = s.ev := rfl
@[simp] theorem State.setCrg_rnd (n g : Nat) (v : CrGroup) : (s.setCrg n g v).rnd = s.rnd := rfl
@[simp] theorem State.setCrg_tal (n g : Nat) (v : CrGroup) : (s.setCrg n g v).tal = s.tal := rfl
@[simp] theorem State.setCrg_mcs (n g : Nat) (v : CrGroup) : (s.setCrg n g v).mcs = s.mcs := rfl
@[simp] theorem State.setCrg_ic (n g : Nat) (v : CrGroup) : (s.setCrg n g v).ic = s.ic := rfl
@[simp] theorem State.setCrg_dbg (n g : Nat) (v : CrGroup) : (s.setCrg n g v).dbg = s.dbg := rfl
@[simp] theorem State.setCrg_vl (n g : Nat) (v : CrGroup) : (s.setCrg n g v).vl = s.vl := rfl
@[simp] theorem State.setCrg_pw (n g : Nat) (v : CrGroup) : (s.setCrg n g v).pw = s.pw := rfl
@[simp] theorem State.setCrg_fl (n g : Nat) (v : CrGroup) : (s.setCrg n g v).fl = s.fl := rfl
@[simp] theorem State.setCrg_sp (n g : Nat) (v : CrGroup) : (s.setCrg n g v).sp = s.sp := rfl

@[simp] theorem State.setCrl_pending (n l : Nat) (v : CrLane) : (s.setCrl n l v).pending = s.pending := rfl
@[simp] theorem State.setCrl_regs (n l : Nat) (v : CrLane) : (s.setCrl n l v).regs = s.regs := rfl
@[simp] theorem State.setCrl_loStage (n l : Nat) (v : CrLane) : (s.setCrl n l v).loStage = s.loStage := rfl
@[simp] theorem State.setCrl_mem (n l : Nat) (v : CrLane) : (s.setCrl n l v).mem = s.mem := rfl
@[simp] theorem State.setCrl_draw (n l : Nat) (v : CrLane) : (s.setCrl n l v).draw = s.draw := rfl
@[simp] theorem State.setCrl_fab (n l : Nat) (v : CrLane) : (s.setCrl n l v).fab = s.fab := rfl
@[simp] theorem State.setCrl_so (n l : Nat) (v : CrLane) : (s.setCrl n l v).so = s.so := rfl
@[simp] theorem State.setCrl_fk (n l : Nat) (v : CrLane) : (s.setCrl n l v).fk = s.fk := rfl
@[simp] theorem State.setCrl_ev (n l : Nat) (v : CrLane) : (s.setCrl n l v).ev = s.ev := rfl
@[simp] theorem State.setCrl_rnd (n l : Nat) (v : CrLane) : (s.setCrl n l v).rnd = s.rnd := rfl
@[simp] theorem State.setCrl_tal (n l : Nat) (v : CrLane) : (s.setCrl n l v).tal = s.tal := rfl
@[simp] theorem State.setCrl_mcs (n l : Nat) (v : CrLane) : (s.setCrl n l v).mcs = s.mcs := rfl
@[simp] theorem State.setCrl_ic (n l : Nat) (v : CrLane) : (s.setCrl n l v).ic = s.ic := rfl
@[simp] theorem State.setCrl_dbg (n l : Nat) (v : CrLane) : (s.setCrl n l v).dbg = s.dbg := rfl
@[simp] theorem State.setCrl_vl (n l : Nat) (v : CrLane) : (s.setCrl n l v).vl = s.vl := rfl
@[simp] theorem State.setCrl_pw (n l : Nat) (v : CrLane) : (s.setCrl n l v).pw = s.pw := rfl
@[simp] theorem State.setCrl_fl (n l : Nat) (v : CrLane) : (s.setCrl n l v).fl = s.fl := rfl
@[simp] theorem State.setCrl_sp (n l : Nat) (v : CrLane) : (s.setCrl n l v).sp = s.sp := rfl

@[simp] theorem State.setTkt_pending (i : Nat) (v : Ticket) : (s.setTkt i v).pending = s.pending := rfl
@[simp] theorem State.setTkt_loStage (i : Nat) (v : Ticket) : (s.setTkt i v).loStage = s.loStage := rfl
@[simp] theorem State.setTkt_mem (i : Nat) (v : Ticket) : (s.setTkt i v).mem = s.mem := rfl
@[simp] theorem State.setTkt_draw (i : Nat) (v : Ticket) : (s.setTkt i v).draw = s.draw := rfl
@[simp] theorem State.setTkt_fab (i : Nat) (v : Ticket) : (s.setTkt i v).fab = s.fab := rfl
@[simp] theorem State.setTkt_so (i : Nat) (v : Ticket) : (s.setTkt i v).so = s.so := rfl
@[simp] theorem State.setTkt_fk (i : Nat) (v : Ticket) : (s.setTkt i v).fk = s.fk := rfl
@[simp] theorem State.setTkt_ev (i : Nat) (v : Ticket) : (s.setTkt i v).ev = s.ev := rfl
@[simp] theorem State.setTkt_rnd (i : Nat) (v : Ticket) : (s.setTkt i v).rnd = s.rnd := rfl
@[simp] theorem State.setTkt_tal (i : Nat) (v : Ticket) : (s.setTkt i v).tal = s.tal := rfl
@[simp] theorem State.setTkt_mcs (i : Nat) (v : Ticket) : (s.setTkt i v).mcs = s.mcs := rfl
@[simp] theorem State.setTkt_ic (i : Nat) (v : Ticket) : (s.setTkt i v).ic = s.ic := rfl
@[simp] theorem State.setTkt_dbg (i : Nat) (v : Ticket) : (s.setTkt i v).dbg = s.dbg := rfl
@[simp] theorem State.setTkt_cr (i : Nat) (v : Ticket) : (s.setTkt i v).cr = s.cr := rfl
@[simp] theorem State.setTkt_pw (i : Nat) (v : Ticket) : (s.setTkt i v).pw = s.pw := rfl
@[simp] theorem State.setTkt_fl (i : Nat) (v : Ticket) : (s.setTkt i v).fl = s.fl := rfl
@[simp] theorem State.setTkt_sp (i : Nat) (v : Ticket) : (s.setTkt i v).sp = s.sp := rfl

@[simp] theorem State.tile_setTile (n : Nat) (v : TileRt) : (s.setTile n v).tile n = v := by simp [State.tile, State.setTile]
@[simp] theorem State.bp_setBp (i : Nat) (v : BpRt) : (s.setBp i v).bp i = v := by simp [State.bp, State.setBp]
@[simp] theorem State.bay_setBay (n b : Nat) (v : BayRt) : (s.setBay n b v).bay n b = v := by simp [State.bay, State.setBay]
@[simp] theorem State.mmp_setMmp (n k : Nat) (v : MmpRt) : (s.setMmp n k v).mmp n k = v := by simp [State.mmp, State.setMmp]
@[simp] theorem State.bank_setBank (k : Nat) (v : BankRt) : (s.setBank k v).bank k = v := by simp [State.bank, State.setBank]
@[simp] theorem State.bpRec_setBpRec (i : Nat) (v : BpRec) : (s.setBpRec i v).bpRec i = v := by simp [State.bpRec, State.setBpRec]
@[simp] theorem State.run_setRun (r : Nat) (v : Run) : (s.setRun r v).run r = v := by simp [State.run, State.setRun]
@[simp] theorem State.mc_setMc (c : Nat) (v : McSt) : (s.setMc c v).mc c = v := by simp [State.mc, State.setMc]
@[simp] theorem State.core_setCore (c : Nat) (v : CoreSt) : (s.setCore c v).core c = v := by simp [State.core, State.setCore]
@[simp] theorem State.crt_setCrt (n : Nat) (v : CrTile) : (s.setCrt n v).crt n = v := by simp [State.crt, State.setCrt]
@[simp] theorem State.tkt_setTkt (i : Nat) (v : Ticket) : (s.setTkt i v).tkt i = v := by simp [State.tkt, State.setTkt, State.wr64, State.wr]
@[simp] theorem State.dom_setDom (d : Nat) (v : DomSt) : (s.setDom d v).dom d = v := by
  by_cases h : d < 32 <;> simp [State.dom, State.setDom, h, State.setBit, State.setFld, State.wr]

end Sys2Proof.Machine
end

