-- ==== Sys2Proof/Safety.lean ====
section
/-!
DEFINITION. What a safe step is: the block never stops, and what no command may change stays as it is.
-/
namespace Sys2Proof.Machine

/-- A step that answers a next state. -/
def Completes (o : Out) : Prop := ∃ t, o = .next t

/-- Memory in canonical form (R35, R39): addresses strictly rising, no byte equal to what an unlisted address reads as. -/
def State.memOk (s : State) : Prop := Memory.wf s.mem = true

/-- A fuse once programmed keeps its value: the fuse key, the signer slots, their revocations and BKEY_FORBID (R155, R156, R490). -/
def FusesKept (s t : State) : Prop :=
  (∀ k, s.fk.fuseKey = some k → t.fk.fuseKey = some k) ∧
  (s.fk.bkeyForbid = true → t.fk.bkeyForbid = true) ∧
  (∀ i v, SMap.find s.fk.imgSlots i = some v → SMap.find t.fk.imgSlots i = some v) ∧
  (∀ i, i ∈ s.fk.imgRevoked → i ∈ t.fk.imgRevoked) ∧
  (∀ i v, SMap.find s.fk.fwSlots i = some v → SMap.find t.fk.fwSlots i = some v) ∧
  (∀ i, i ∈ s.fk.fwRevoked → i ∈ t.fk.fwRevoked)

/-- No key is being programmed over one that stands (R155). -/
def State.fuseInv (s : State) : Prop := s.fk.busy.isSome = true → s.fk.fuseKey = none

/-- A command changes nothing but the parts that `f` takes from the state after it. -/
def OnlyChanges (f : State → State → State) (c : Instr) : Prop := ∀ s t, exec c s = .next t → t = f s t

/-- The oldest dispatched request of a client, which bears an opcode (R383, R403). -/
def State.fronts (s : State) (client op : Nat) (q : VReq) : Prop :=
  s.hubOn = true ∧ s.vl.handed.find? (fun x => x.client = client) = some q ∧ q.opcode = op

/-- The state as a handler finds it: its request waits no longer. -/
def State.taken (s : State) (q : VReq) : State := { s with vl := { s.vl with handed := s.vl.handed.erase q } }

/-- The next reply that is queued answers a request with a status, a ticket handle and a payload (R376, R404). -/
def Replied (s t : State) (q : VReq) (status ticket : Nat) (payload : List Byte) : Prop :=
  ∃ r : VReply, (s.vl.replies ++ [r]) <+: t.vl.replies ∧ r.port = q.port ∧ r.opcode = q.opcode ∧ r.client = q.client ∧
    r.seq = q.seq ∧ r.status = status ∧ r.ticket = ticket ∧ r.payload = payload ∧ r.flags % 2 = 1

/-- A request is answered directly (R404): its reply is queued, and it waits for its handler no longer. -/
def Answered (s t : State) (q : VReq) (status : Nat) (payload : List Byte) : Prop :=
  Replied s t q status 0 payload ∧ t.vl.handed = s.vl.handed.erase q

/-- A request is accepted with a ticket entry (R385, R404). -/
def Accepted (s t : State) (q : VReq) (i : Nat) (payload : List Byte) : Prop :=
  Replied s t q stAccepted (s.handle i) payload ∧ t.vl.handed = s.vl.handed.erase q ∧ (t.tkt i).used = true ∧
    (t.tkt i).client = q.client

/-- An answer to a request, with its cause and data, is on its way: in the network or in an injection queue (R348, R349). -/
def State.answers (s : State) (q : Pkt) (cause : Nat) (data : List Byte) : Bool :=
  (s.rnd.net ++ s.rnd.inj).any (fun p => p.kind = (if q.kind = .readReq then .readResp else .writeResp) && p.src = q.dst && p.dst = q.src &&
    p.mid = q.mid && p.tag = q.tag && p.addr = q.addr && p.status = (if cause = 0 then 0 else 1) && p.cause = cause && p.data = data)

end Sys2Proof.Machine

/-- The commands that may store to memory, by an effect of their own or in their train: an access, a load, a run's pages, a
snapshot, a mode change, a loss of supply. -/
def Sys2Proof.Instr.mayStore : Instr → Bool
  | .coldReset | .aonSupplyFail | .warmModuleReset | .epochStrobe | .domainIsolation .. | .heldFabricAccess .. | .planeStepEnd ..
  | .tickEdge .. | .imageBytesArrive .. | .chunkDecrypted .. | .signatureVerifyComplete .. | .loadCommit ..
  | .loadIntakeTimeout .. | .frameWrite .. | .scrubFrameRead .. | .scrubCorrection .. | .frameRestore ..
  | .compactionMoveComplete .. | .pendingOpStart .. | .resumeTransferComplete .. | .runStopCycle .. | .saveComplete ..
  | .swapFramesWritten .. | .snapshotCycle .. | .snapshotComplete .. | .ringSnapshotDue .. | .debugAccessComplete
  | .watchdogExpiry .. | .mcRequestIntake .. | .mcReadComplete .. | .trainingOp .. | .retrainRelease .. | .retrainStepTimeout ..
  | .spareEnWrite .. | .regionFillComplete .. | .rekeySectorComplete .. | .roundsRequestArrival .. | .replySent ..
  | .accessDeferral .. | .streamDelivery .. | .ticketStatus .. | .ticketCancel .. | .loadEnd .. | .designDiscard ..
  | .runCreate .. | .runStart .. | .runSuspend .. | .runResume .. | .runEnd .. | .runSwap .. | .runCompact .. | .runStatus ..
  | .fill .. | .streamRead .. | .streamStatus .. | .snapTake .. | .snapRing .. | .snapFree .. | .snapRead .. | .snapRestore ..
  | .wakeRowCheck .. | .powerGoodLoss .. | .pmbusPoll .. | .pmbusAlert .. | .thermalRead .. | .hubRailTimeout | .safeHoldAutoReset
  | .modeChangeStart | .modeChangeComplete | .bootTimeout | .scratchpadStateWrite .. | .scratchpadZeroComplete ..
  | .confirmTimeout | .logFlushComplete .. | .registerWrite .. | .flushWaitTimeout => true
  | _ => false
end

