-- ==== Sys2Proof/WellFormed.lean ====
section
/-!
DEFINITION. Which commands are well formed: operand values that an event of the spec can carry.
-/
namespace Sys2Proof

/-- A codeword that decodes holds ten blocks (R425). -/
def Codeword.wf : Codeword → Bool
  | .clean bs => bs.length = 10
  | .corrected _ bs => bs.length = 10
  | .uncorrectable => true

/-- HBM has one codeword of lanes 0–35, DDR5 eight of devices 0–9 (R297, R298). -/
def BadSym.wf (c : Fin 20) (y : BadSym) : Bool :=
  if c.val < 8 then decide (y.word.val = 0) && decide (y.sym.val < 36) else decide (y.sym.val < 10)

/-- W rows are numbered 1 to 6 (R459). -/
def WakeRow.wf : WakeRow → Bool
  | .w row => decide (1 ≤ row.val)
  | .dom _ => true

/-- A frame is as long as what it carries: Ethernet header and FCS, tag, IP and UDP headers, payload (R370). -/
def HostFrame.wf (f : HostFrame) : Bool :=
  decide (18 + (if f.vid.isSome then 4 else 0) + (if f.v6 then 40 else 20) + (if f.udp.isSome then 8 else 0) + f.payload.length ≤ f.len)

/-- The master IDs of R42's table; no other is ever generated. -/
def listedMid (mid : Nat) : Bool :=
  decide (mid < 4) || mid = 0x08 || (decide (0x10 ≤ mid) && decide (mid ≤ 0x20)) || mid = 0x28 || mid = 0x30 ||
    (decide (0x40 ≤ mid) && decide (mid ≤ 0x82))

/-- Well-formed commands. -/
def Instr.wf (i : Instr) : Bool :=
  match i with
  | .coldReset => true
  | .aonSupplyFail => true
  | .warmModuleReset => true
  | .debugReset => true
  | .epochStrobe => true
  | .tallyReport _ => true
  | .tallyAudit badA badB badNodes => badA.all (fun j => decide (j < 12288)) && badB.all (fun j => decide (j < 12288)) && badNodes.all (fun k => decide (k < 409))
  | .leafRebuild _ => true
  | .stampBatch _ _ _ _ => true
  | .stampIdleReturn _ _ => true
  | .domainPowerDown _ => true
  | .domainIsolation _ => true
  | .domainWakeRequest _ => true
  | .bayIdlePowerDown _ _ => true
  | .tileIdlePowerDown _ => true
  | .heldFabricAccess _ => true
  | .mcTargetWrite _ _ => true
  | .microClockSwitch _ => true
  | .relockTimeout _ => true
  | .delayMonitorSample _ _ _ _ => true
  | .relOpFirstStart _ _ _ => true
  | .relOpResume _ _ _ => true
  | .relOpHold _ _ _ => true
  | .dccWrite _ _ _ _ => true
  | .releaseStageAdvance _ _ _ => true
  | .holdLiftStage _ => true
  | .planeStepEnd _ _ => true
  | .tickEdge _ _ => true
  | .exchangeBundleArrival _ => true
  | .designCycleBegin _ _ _ _ _ => true
  | .exchangeStall _ _ => true
  | .dclkoFall _ => true
  | .designInputSample _ _ => true
  | .burstTransfer _ => true
  | .mmpFillComplete _ _ => true
  | .mmpWritebackComplete _ _ => true
  | .mmpFlush _ _ => true
  | .mmpFlushComplete _ _ => true
  | .imageBytesArrive _ count => decide (0 < count)
  | .chunkDecrypted _ => true
  | .pageLoaderWriteAck _ count => decide (0 < count)
  | .signatureVerifyComplete _ => true
  | .loadCommit _ => true
  | .loadIntakeTimeout _ => true
  | .fkUnlock _ _ => true
  | .unlockTimeout => true
  | .fuseKeyProg _ => true
  | .fuseProgComplete => true
  | .forbidBkey _ => true
  | .bkeyCommit _ => true
  | .bkeyErase _ => true
  | .imgSlotProg _ => true
  | .imgSlotRevoke _ => true
  | .fwSlotProg _ => true
  | .fwSlotRevoke _ => true
  | .vbatLoss => true
  | .frameWrite _ _ _ offset bytes => decide (0 < bytes.length) && decide (offset.val + bytes.length ≤ 512)
  | .scrubFrameRead _ _ upsets => upsets.all (fun b => decide (b < 4112))
  | .scrubCorrection _ _ => true
  | .frameRestore _ _ _ => true
  | .sweepBoundExceeded _ _ => true
  | .voterRepair _ _ => true
  | .scrubRestore _ => true
  | .pmInval => true
  | .psLimitWrite _ => true
  | .compactionMoveComplete _ => true
  | .pendingOpStart _ => true
  | .resumeTransferComplete _ _ => true
  | .runReleaseComplete _ => true
  | .runStopCycle _ => true
  | .saveComplete _ _ _ => true
  | .swapFramesWritten _ => true
  | .snapshotCycle _ => true
  | .snapshotPauseEnd _ _ => true
  | .snapshotComplete _ _ => true
  | .ringSnapshotDue _ => true
  | .triggerProbe _ _ => true
  | .triggerWithinExpiry _ => true
  | .triggerEnable _ => true
  | .tapExtest => true
  | .tapSamplePreload => true
  | .tapIdcode => true
  | .tapBypass _ => true
  | .dbgaccPoll => true
  | .dbgaccRead _ _ => true
  | .dbgaccWrite _ _ => true
  | .debugAccessComplete => true
  | .dbgModeReq _ => true
  | .coreHalt _ => true
  | .coreResume _ => true
  | .coreStep _ => true
  | .coreHaltTakesEffect _ => true
  | .coreRegdataAccess _ _ _ _ => true
  | .comparatorMatch _ _ _ _ len _ _ => decide (0 < len.val)
  | .reservationExpiry _ => true
  | .watchdogExpiry _ => true
  | .watchdogKick _ => true
  | .lbTxWrite _ _ => true
  | .lbTxConsumeRead _ => true
  | .lbRxWrite _ _ => true
  | .lbRxConsumeRead _ => true
  | .marginMinRead _ _ _ => true
  | .vtData _ _ count _ => decide (0 < count.val)
  | .vtOpen _ _ => true
  | .vtClose _ _ => true
  | .vtBreak _ => true
  | .vtTerminalReset _ _ => true
  | .vtCredit _ _ _ => true
  | .mcRequestIntake _ => true
  | .mcReadComplete c _ bad => bad.all (BadSym.wf c)
  | .refreshDue _ _ _ _ => true
  | .dramTempRead _ _ => true
  | .trainingOp _ _ => true
  | .trainingOpComplete _ _ _ _ => true
  | .delayValueWrite _ _ => true
  | .modeRegisterAccess _ _ => true
  | .driftMeasure _ _ _ _ => true
  | .retrainIsolate _ => true
  | .retrainRelease _ => true
  | .retrainStepTimeout _ => true
  | .patrolRead c bad => bad.all (BadSym.wf c)
  | .spareGo _ _ => true
  | .migrationPieceComplete c bad => bad.all (fun e => (decide (8 ≤ c.val) → decide (e.1.val < 32)) && e.2.wf c)
  | .spareEnWrite _ _ => true
  | .rootKeyDrawn _ => true
  | .regionEnable _ => true
  | .regionDisable _ => true
  | .regionZero _ => true
  | .regionFillComplete _ => true
  | .regionRekey _ => true
  | .rekeySectorComplete _ => true
  | .icCrWrite _ _ => true
  | .roundsRequestInject _ mid _ w peek len data bem _ =>
      listedMid mid.toNat && (!peek || (mid.toNat = 0x30 && !w)) && decide (0 < len.val) && (if w then decide (data.length = len.val) else data.isEmpty && bem.isNone)
  | .roundsRequestArrival _ => true
  | .roundsResponseArrival _ => true
  | .roundsTimeout _ _ => true
  | .outstandingEntryRelease _ _ => true
  | .packetAgeRise _ => true
  | .routingSwitch => true
  | .routingTableWrite _ _ _ _ => true
  | .returnedRequest _ => true
  | .resumeNotice _ => true
  | .linkNak _ _ _ => true
  | .linkRetrainComplete _ _ _ _ => true
  | .envelopeReceive f => f.wf
  | .envelopeDispatch => true
  | .replySent _ => true
  | .accessDeferral _ => true
  | .ticketReclaim _ => true
  | .pauseFrame _ _ => true
  | .arpRequest _ _ => true
  | .neighborSolicitation _ _ => true
  | .icmpEcho _ _ data => decide (data.length ≤ 9036)
  | .dhcpMessage _ _ => true
  | .dhcpRenew _ _ => true
  | .hostLinkChange _ _ => true
  | .streamDelivery _ => true
  | .lodgeRequest f => f.wf && decide (f.port.val = 0)
  | .lodgeArp _ => true
  | .lodgeNeighborSolicitation _ => true
  | .echo _ => true
  | .info _ => true
  | .ready _ => true
  | .ticketStatus _ => true
  | .ticketCancel _ => true
  | .systemReset _ => true
  | .time _ => true
  | .clientClose _ => true
  | .modeGet _ => true
  | .modeSet _ => true
  | .powerGet _ => true
  | .loadBegin _ => true
  | .loadData _ => true
  | .loadEnd _ => true
  | .designList _ => true
  | .designDiscard _ => true
  | .storeList _ => true
  | .storeErase _ => true
  | .runCreate _ => true
  | .runStart _ => true
  | .runSuspend _ => true
  | .runResume _ => true
  | .runEnd _ => true
  | .runSwap _ => true
  | .runCompact _ => true
  | .runStatus _ => true
  | .runSet _ => true
  | .runList _ => true
  | .read _ => true
  | .write _ => true
  | .readList _ => true
  | .writeList _ => true
  | .fill _ => true
  | .streamOpen _ => true
  | .streamClose _ => true
  | .streamData _ => true
  | .streamRead _ => true
  | .streamStatus _ => true
  | .snapTake _ => true
  | .snapRing _ => true
  | .snapLock _ => true
  | .snapFree _ => true
  | .snapRestore _ => true
  | .snapRead _ => true
  | .trigSet _ => true
  | .trigStatus _ => true
  | .step _ => true
  | .updateBegin _ => true
  | .updateData _ => true
  | .updateEnd _ => true
  | .updateStatus _ => true
  | .updateDiscard _ => true
  | .updateRevert _ => true
  | .settingsRead _ => true
  | .settingsWrite _ => true
  | .logRead _ => true
  | .logClear _ => true
  | .logStatus _ => true
  | .laneStatus _ => true
  | .linkConfigOff _ => true
  | .linkConfigTrain _ => true
  | .linkConfigEnterDlp _ => true
  | .linkConfigExit _ => true
  | .laneLoopback _ => true
  | .laneRetire _ => true
  | .dbgRead _ => true
  | .dbgWrite _ => true
  | .dbgCoreHalt _ => true
  | .dbgCoreResume _ => true
  | .dbgCoreStep _ => true
  | .crCtrlTrain _ => true
  | .crCtrlEnterDlp _ => true
  | .crCtrlExit _ => true
  | .crCtrlOff _ => true
  | .courierEgress _ => true
  | .blockSend _ _ => true
  | .markerSend _ _ => true
  | .codewordReceive _ _ cw _ _ _ => cw.wf
  | .bundleBlockReceive _ _ _ _ => true
  | .idle _ _ => true
  | .marker _ _ _ _ _ _ _ => true
  | .replayReq _ _ _ _ _ _ => true
  | .takeoverReq _ _ _ => true
  | .takeoverAck _ _ _ _ => true
  | .handback _ _ _ => true
  | .eqReq _ _ _ _ _ => true
  | .eqAck _ _ _ _ _ => true
  | .dlpEnter _ _ => true
  | .dlpAck _ _ => true
  | .dlpAckTimeout _ => true
  | .dlpExitDetect _ => true
  | .laneFailure _ _ _ => true
  | .adaptationStep _ _ => true
  | .linkTrainingComplete _ _ peerTags => decide (peerTags.length ≤ 8)
  | .wakeRowCheck row _ => row.wf
  | .wakeRowRetry row => row.wf
  | .bootHeartbeatWrite _ => true
  | .wakeRetry => true
  | .domainFailClear _ => true
  | .refCheckWindow _ _ _ => true
  | .powerGoodLoss _ => true
  | .pmbusPoll _ _ _ => true
  | .pmbusAlert _ => true
  | .thermalRead sixteenths => decide (-(32768 : Int) ≤ sixteenths) && decide (sixteenths < 32768)
  | .hubRailTimeout => true
  | .pwrEnRestore => true
  | .safeHoldAutoReset => true
  | .modeChangeStart => true
  | .modeChangeComplete => true
  | .bootComplete => true
  | .bootTimeout => true
  | .wakePin => true
  | .wakePattern _ => true
  | .mpActivityWake _ => true
  | .scratchpadStateWrite _ _ _ => true
  | .scratchpadHandover _ _ _ => true
  | .scratchpadZeroComplete _ => true
  | .scratchpadPatrol _ _ double => double.all (fun o => decide (o < 0x800000))
  | .updateConfirm _ => true
  | .confirmTimeout => true
  | .promotionSector => true
  | .flashOperationComplete => true
  | .eventIntake _ _ _ _ _ detail _ => decide (detail.length ≤ 55)
  | .evFlushWrite => true
  | .logFlushStart => true
  | .logFlushComplete _ => true
  | .logFlushStop => true
  | .logHalfEraseComplete => true
  | .logReadbackComplete _ _ => true
  | .registerWrite _ addr _ => decide (addr.toNat % 4 = 0)
  | .tapDbgacc => true
  | .inputBurst _ words => decide (words.length = 2) || decide (words.length = 4) || decide (words.length = 8) || decide (words.length = 16)
  | .powerGoodReturn _ => true
  | .flushWaitTimeout => true
  | .scratchpadHandoverComplete _ => true
  | .pmInvalComplete => true
  | .modeRegisterAccessComplete _ _ => true

end Sys2Proof
end

