-- ==== Sys2Proof/Certificates/Slice0/Obligations.lean ====
section
/-!
DEFINITION. The statements about the model. A clause that says a command changes nothing rests on the model's choice of log entry 5
where the spec gives that case no words; one that bears on a value the spec leaves open holds for every value of it (log entry 1).
-/
open Sys2Proof Sys2Proof.Machine

/-- A write of TARGET is clamped to 88–144 and starts a relock unless it names the current code; the switch makes it current
and moves to the other oscillator; a relock that does not lock in time sets its error and changes no frequency. A monitor
reading is shown; one below the guard sets ALARM and puts the tile into step stretch; a consume read of MARGIN_MIN resets it
and leaves the reading. (R71, R72, R21, R73, R75) -/
def Obligations.MicroClockAndMonitors : Prop :=
  (∀ (n : Tile) (s : State), s.domOn (domTile n) = true →
    (∀ v : Byte, ∃ t, exec (.mcTargetWrite n v) s = .next t ∧
      t.fld (Reg.tcMcCtrl n) 7 0 = max 88 (min 144 v.toNat) ∧
      (t.bit (Reg.tcMcStat n) 0 = true ↔ max 88 (min 144 v.toNat) ≠ s.fld (Reg.tcMcCtrl n) 15 8)) ∧
    (s.bit (Reg.tcMcStat n) 0 = true →
      (∃ t, exec (.microClockSwitch n) s = .next t ∧ t.fld (Reg.tcMcCtrl n) 15 8 = s.fld (Reg.tcMcCtrl n) 7 0 ∧
        t.bit (Reg.tcMcCtrl n) 16 = !s.bit (Reg.tcMcCtrl n) 16 ∧ t.bit (Reg.tcMcStat n) 0 = false) ∧
      (∃ t, exec (.relockTimeout n) s = .next t ∧ t.bit (Reg.tcMcStat n) 1 = true ∧ t.bit (Reg.tcMcStat n) 0 = false ∧
        t.fld (Reg.tcMcCtrl n) 15 8 = s.fld (Reg.tcMcCtrl n) 15 8))) ∧
  (∀ (n : Tile) (b : Bay) (q : Fin 4) (s : State), s.domOn (domBay n b) = true →
    (∀ m : Byte, ∃ t, exec (.delayMonitorSample n b q m) s = .next t ∧
      t.fld (Reg.bayDm n b q) 7 0 = m.toNat ∧
      (m.toNat < s.fld (Reg.tcDmCfg n) 7 0 → t.bit (Reg.bayDm n b q) 16 = true ∧ t.bit (Reg.tcStretch n) 31 = true) ∧
      (∀ a, t.byte a = s.byte a)) ∧
    (∃ t, exec (.marginMinRead n b q) s = .next t ∧ t.fld (Reg.bayDm n b q) 15 8 = 0xFF ∧
      t.fld (Reg.bayDm n b q) 7 0 = s.fld (Reg.bayDm n b q) 7 0 ∧ ∀ a, t.byte a = s.byte a))

/-- OP 1 and OP 2 arm a bay-plane that holds a page and stands at STAGE 0, OP 1 with the global reset and DCC 0, and set
REFUSED on any other; OP 3 holds a bay-plane at a design-cycle boundary at once and is kept for the boundary within a cycle;
DCC is written while STAGE is 0, and the write is refused otherwise; a stage that is due is entered: STAGE 1 once armed, 2
after eight periods, 3 after sixteen, where the global reset ends; a tile's write hold lifts before its clock hold. (R69, R78,
R79, R81) -/
def Obligations.StagedRelease : Prop :=
  ∀ (n : Tile) (b : Bay) (p : Plane) (s : State), s.domOn (domBay n b) = true →
    (s.stage (bpIx n b p) = 0 → (s.bpRec (bpIx n b p)).pstate = 2 →
      (∃ t, exec (.relOpFirstStart n b p) s = .next t ∧ t.armed (bpIx n b p) = true ∧ t.grs (bpIx n b p) = true ∧
        t.stage (bpIx n b p) = 0 ∧ t.dcc (bpIx n b p) = 0 ∧ (t.bp (bpIx n b p)).holdPend = false) ∧
      (∃ t, exec (.relOpResume n b p) s = .next t ∧ t.armed (bpIx n b p) = true ∧ t.grs (bpIx n b p) = false ∧
        t.stage (bpIx n b p) = 0 ∧ t.dcc (bpIx n b p) = s.dcc (bpIx n b p) ∧ (t.bp (bpIx n b p)).holdPend = false)) ∧
    ((s.stage (bpIx n b p) ≠ 0 ∨ (s.bpRec (bpIx n b p)).pstate ≠ 2) →
      ∀ c ∈ [Instr.relOpFirstStart n b p, .relOpResume n b p], ∃ t, exec c s = .next t ∧ t.bit (relStat (bpIx n b p)) 4 = true ∧
        t.armed (bpIx n b p) = s.armed (bpIx n b p) ∧ t.stage (bpIx n b p) = s.stage (bpIx n b p)) ∧
    ((s.atBoundary n b = true ∨ s.inCycle (bpIx n b p) = false) → ∃ t, exec (.relOpHold n b p) s = .next t ∧
      t.stage (bpIx n b p) = 0 ∧ t.armed (bpIx n b p) = false ∧ t.grs (bpIx n b p) = false ∧ (t.bp (bpIx n b p)).holdPend = false) ∧
    (s.atBoundary n b = false → s.inCycle (bpIx n b p) = true → ∃ t, exec (.relOpHold n b p) s = .next t ∧
      (t.bp (bpIx n b p)).holdPend = true ∧ t.stage (bpIx n b p) = s.stage (bpIx n b p) ∧ t.armed (bpIx n b p) = s.armed (bpIx n b p)) ∧
    (∀ v : BitVec 64,
      (s.stage (bpIx n b p) = 0 → ∃ t, exec (.dccWrite n b p v) s = .next t ∧ t.dcc (bpIx n b p) = v.toNat) ∧
      (s.stage (bpIx n b p) ≠ 0 → ∃ t, exec (.dccWrite n b p v) s = .next t ∧ t.dcc (bpIx n b p) = s.dcc (bpIx n b p) ∧
        t.bit (relStat (bpIx n b p)) 4 = true)) ∧
    (s.relDue (bpIx n b p) = true →
      (s.stage (bpIx n b p) = 0 → ∃ t, exec (.releaseStageAdvance n b p) s = .next t ∧ t.stage (bpIx n b p) = 1 ∧
        t.armed (bpIx n b p) = false ∧ t.grs (bpIx n b p) = s.grs (bpIx n b p)) ∧
      (s.stage (bpIx n b p) = 1 → ∃ t, exec (.releaseStageAdvance n b p) s = .next t ∧ t.stage (bpIx n b p) = 2 ∧
        t.grs (bpIx n b p) = s.grs (bpIx n b p)) ∧
      (s.stage (bpIx n b p) = 2 → ∃ t, exec (.releaseStageAdvance n b p) s = .next t ∧ t.stage (bpIx n b p) = 3 ∧
        t.grs (bpIx n b p) = false)) ∧
    (s.domOn (domTile n) = true → (s.tile n).lifting = true →
      ∃ t, exec (.holdLiftStage n) s = .next t ∧
        (s.wrHold n = true → t.wrHold n = false ∧ t.clkHold n = s.clkHold n ∧ (t.tile n).lifting = true) ∧
        (s.wrHold n = false → t.wrHold n = false ∧ t.clkHold n = false ∧ (t.tile n).lifting = false))

/-- A plane step ends, and the next plane of the rotation in place order follows, or the last step's capture; the tick edge
begins the exchange; a bundle that a plane can take is written to the in-bundle bank that its next design cycle reads, waits
while its place is taken or the plane has not begun to step, and is discarded and counted where the plane does not take it;
the next design cycle begins with the planes that step, the lowest first, and expects their bundles afresh; a stall is shown
and the exchange goes on. At the tick edge the design-cycle counter of every plane that ends its cycle rises by one in STAGE 3
without a clock hold, and stands otherwise; a plane that did not step in the rotation keeps its counter. (R83, R84, R85, R95,
R96, R97, R85) -/
def Obligations.Rotation : Prop :=
  (∀ (n : Tile) (b : Bay) (s : State),
    (∀ p, (s.bay n b).phase = .step p → ∃ t, exec (.planeStepEnd n b) s = .next t ∧
      (t.bay n b).stepped = (s.bay n b).stepped ++ [p] ∧
      (t.bay n b).phase = (match (s.bay n b).planes.find? (fun q => decide (p < q) && s.inCycle (bpIx n b q)) with
        | some q => .step q | none => .captured)) ∧
    ((s.bay n b).phase = .captured → s.ioTickReady n b = true → ∃ t, exec (.tickEdge n b) s = .next t ∧
      (t.bay n b).phase = .exchange) ∧
    (∀ waited io mm, s.atBoundary n b = true → s.domOn (domBay n b) = true → s.cycleReady n b = true →
      ∃ t, exec (.designCycleBegin n b waited io mm) s = .next t ∧ (t.bay n b).stepped = [] ∧
        (t.bay n b).planes = s.steppingPlanes n b ∧
        (t.bay n b).phase = (match s.steppingPlanes n b with | p :: _ => BayPhase.step p | [] => BayPhase.idle) ∧
        ∀ p ∈ s.steppingPlanes n b, (t.bp (bpIx n b p)).arrived = 0 ∧ t.inCycle (bpIx n b p) = true) ∧
    (∀ (k : Nat) (q : Bundle), s.fab.bundles[k]? = some q →
      (s.takesBundles q.dst q.run = true → (s.bp q.dst).xph ≠ 0 → bitOf (s.bp q.dst).arrived q.bundle = false →
        ∃ t, exec (.exchangeBundleArrival k) s = .next t ∧ t.fab.bundles = s.fab.bundles.eraseIdx k ∧
          SMap.get (t.bp q.dst).banks (64 * ((s.cycleNo q.dst + 1) % 2) + q.bundle) 0 = q.value ∧
          bitOf (t.bp q.dst).arrived q.bundle = true) ∧
      (s.takesBundles q.dst q.run = true → ((s.bp q.dst).xph = 0 ∨ bitOf (s.bp q.dst).arrived q.bundle = true) →
        exec (.exchangeBundleArrival k) s = .next s) ∧
      (s.takesBundles q.dst q.run = false → ∃ t, exec (.exchangeBundleArrival k) s = .next t ∧
        t.fab.bundles = s.fab.bundles.eraseIdx k ∧ t.fab.bps = s.fab.bps ∧ t.fld (Reg.tcXstat (bpTile q.dst)) 15 0 =
          min 65535 (s.fld (Reg.tcXstat (bpTile q.dst)) 15 0 + 1))) ∧
    (s.domOn (domBay n b) = true → (s.bay n b).phase = .exchange → s.cycleReady n b = false →
      ∃ t, exec (.exchangeStall n b) s = .next t ∧ t.bit (Reg.tcXstat n) 31 = true ∧ (t.bay n b).phase = .exchange)) ∧
  (∀ (n : Tile) (b : Bay) (s : State), (s.bay n b).phase = .captured → s.ioTickReady n b = true → (s.bay n b).stepped.Nodup →
    ∃ t, exec (.tickEdge n b) s = .next t ∧
      (∀ p : Plane, p.val ∈ (s.bay n b).stepped → s.inCycle (bpIx n b p) = true →
        t.dcc (bpIx n b p) = if s.stage (bpIx n b p) = 3 ∧ s.clkHold n = false then (s.dcc (bpIx n b p) + 1) % 2 ^ 64
          else s.dcc (bpIx n b p)) ∧
      (∀ p : Plane, (p.val ∉ (s.bay n b).stepped ∨ s.inCycle (bpIx n b p) = false) → t.dcc (bpIx n b p) = s.dcc (bpIx n b p)))

/-- DCLKO falls, and the bank's outputs stay; an enabled bank that is not held takes its input sample in SDR mode and keeps
the one before it; the output burst is a word for each bit time, with FRAME in the first alone; an input burst ends as the
bank's sample, cut to the width of a burst. A fill or an uncached access that memory has answered without error completes the
port's request, without ERR, and one that failed completes it with ERR and sets STAT.ERR; once the write of the oldest dirty
line has been answered, the line has left the port's list, and STAT.WBERR is set where the write failed; a flush is shown from
the write of FLUSH until the last dirty line has gone. (R106, R107, R109, R110, R137, R138, R139, R141) -/
def Obligations.DesignIoAndMemoryPorts : Prop :=
  (∀ (k : Fin 12) (s : State),
    (s.domOn (domTile (bankTile k).1) = true → ∃ t, exec (.dclkoFall k) s = .next t ∧ t.bank k = { s.bank k with dclko := false }) ∧
    (s.bankOn (bankTile k).1 (bankTile k).2 = true → s.bankHeld (bankTile k).1 (bankTile k).2 = false →
      ((s.bank k).samplePend = true → s.fld (Reg.dioBCfg (bankTile k).1 (bankTile k).2) 30 29 = 0 →
        ∀ pins : BitVec 48, ∃ t, exec (.designInputSample k pins) s = .next t ∧
          t.bank k = { s.bank k with ins := pins.toNat, insPrev := (s.bank k).ins, samplePend := false }) ∧
      ((s.bank k).burstPend = true → ∃ t, exec (.burstTransfer k) s = .next t ∧ (t.bank k).burstPend = false ∧
        (t.bank k).dclko = false ∧ (t.bank k).outs = (s.bank k).outs ∧
        (t.bank k).burst.length = 2 ^ (s.fld (Reg.dioBCfg (bankTile k).1 (bankTile k).2) 28 27 + 1) ∧
        ∀ i, i < (t.bank k).burst.length → bitOf ((t.bank k).burst.getD i 0) 47 = decide (i = 0)) ∧
      ((s.bank k).samplePend = true → s.fld (Reg.dioBCfg (bankTile k).1 (bankTile k).2) 30 29 = 2 →
        ∀ ws : List (BitVec 48), ∃ t, exec (.inputBurst k ws) s = .next t ∧
          t.bank k = { s.bank k with
            burst := (ws.take (2 ^ (s.fld (Reg.dioBCfg (bankTile k).1 (bankTile k).2) 28 27 + 1))).map BitVec.toNat
            burstPrev := (s.bank k).burst, samplePend := false }))) ∧
  (∀ (n : Tile) (k : Fin 8) (s : State), s.domOn (domTile n) = true →
    (∃ t, exec (.mmpFlush n k) s = .next t ∧ t.bit (Reg.mmpCtrl n k) 29 = true) ∧
    ((s.mmp n k).flushing = true → (s.mmp n k).wbs = [] → ∃ t, exec (.mmpFlushComplete n k) s = .next t ∧
      t.bit (Reg.mmpCtrl n k) 29 = false ∧ t.mmp n k = { s.mmp n k with flushing := false }) ∧
    (∀ q x st cause data, (s.mmp n k).pend = some q → (s.mmp n k).fill = some x → x.answer = some (st, cause, data) →
      ∃ t, exec (.mmpFillComplete n k) s = .next t ∧ (t.mmp n k).pend = none ∧ (t.mmp n k).fill = none ∧
        t.bit (Reg.mmpCtrl n k) 28 = decide (st ≠ 0) ∧ (st ≠ 0 → t.bit (Reg.mmpStat n k) 1 = true)) ∧
    (∀ l rest x st cause data, (s.mmp n k).wbs = l :: rest → (s.mmp n k).wb = some x → x.answer = some (st, cause, data) →
      ∃ t, exec (.mmpWritebackComplete n k) s = .next t ∧ (t.mmp n k).wbs = rest ∧ (t.mmp n k).lines = (s.mmp n k).lines ∧
        (st ≠ 0 → t.bit (Reg.mmpStat n k) 2 = true)))

/-- Bytes of a load that a host sends are taken in order, in the header and after the reservation; a chunk that can be
decrypted now, whose tag matches and whose records and writes are good, adds its plaintext; acknowledged bytes count up to the
plaintext; complete signatures pass where the image is franked, and end the load where it is not; a store-only load that is
complete commits its design, or, where the same design is committed already, frees its slot, or, where one of the same
identifier differs, ends without a design; an intake that times out ends the load. (R149, R152, R160, R161, R162, R164, R165) -/
def Obligations.ImageLoads : Prop :=
  ∀ (load : Fin 4) (s : State), s.hubOn = true → s.isLoad load = true →
    (∀ count : Nat, 0 < count → (s.load load).source = 0 →
      (((s.load load).hdrOk = false ∧ (s.load load).reserved = false ∧ (s.load load).bytes.length + count < 256) ∨
        ((s.load load).hdrOk = true ∧ (s.load load).reserved = true ∧
          (s.load load).bytes.length + count ≤ hImageLen (s.load load).bytes ∧
          (s.load load).bytes.length + count < hTrailer ((s.load load).bytes ++ (s.load load).piece.take count) + 16)) →
      ∃ t, exec (.imageBytesArrive load count) s = .next t ∧
        (t.load load).bytes = (s.load load).bytes ++ (s.load load).piece.take count ∧
        (t.load load).piece = (s.load load).piece.drop count) ∧
    (s.chunkReady load = true →
      gcmTag (s.loadKey (s.load load)) (chunkNonce (s.load load)) (chunkAad (s.load load)) (chunkText (s.load load)) = chunkTag (s.load load) →
      (s.chunkWrite load).2 = (false, false) → (s.load load).chunks + 1 < hChunks (s.load load).bytes →
      ∃ t, exec (.chunkDecrypted load) s = .next t ∧ (t.load load).chunks = (s.load load).chunks + 1 ∧
        (t.load load).plain = (s.load load).plain ++ s.chunkPlain (s.load load)) ∧
    (∀ count : Nat, ∃ t, exec (.pageLoaderWriteAck load count) s = .next t ∧
      (t.load load).acked = min (s.load load).plain.length ((s.load load).acked + count) ∧ ∀ a, t.byte a = s.byte a) ∧
    ((s.load load).trailerOk = true → (s.load load).sigOk = false → (s.load load).bytes.length = hImageLen (s.load load).bytes →
      ∃ t, exec (.signatureVerifyComplete load) s = .next t ∧
        if s.franked (s.load load) = true then t = s.setLoad load { s.load load with sigOk := true } else t.isLoad load = false) ∧
    ((s.load load).trailerOk = true → (s.load load).sigOk = true → (s.load load).acked = hPayLen (s.load load).bytes →
      (s.load load).place = false →
      (s.sameDesign (s.load load) = none → (s.loadPoisoned load).2 = false →
        ∃ t, exec (.loadCommit load) s = .next t ∧ t.isLoad load = false ∧ (t.design ((s.load load).slot.getD 0)).state = 2 ∧
          (t.design ((s.load load).slot.getD 0)).digest = imageDigest (s.load load)) ∧
      (∀ k, s.sameDesign (s.load load) = some k → (s.design k).digest = imageDigest (s.load load) → (s.loadPoisoned load).2 = false →
        ∃ t, exec (.loadCommit load) s = .next t ∧ t.isLoad load = false ∧ (t.design ((s.load load).slot.getD 0)).state = 0) ∧
      (∀ k, s.sameDesign (s.load load) = some k → (s.design k).digest ≠ imageDigest (s.load load) →
        ∃ t, exec (.loadCommit load) s = .next t ∧ t.isLoad load = false)) ∧
    (((s.load load).hdrOk = false ∨ (s.load load).bytes.length < hImageLen (s.load load).bytes) →
      ∃ t, exec (.loadIntakeTimeout load) s = .next t ∧ t.isLoad load = false)

/-- FK_UNLOCK with its value opens the sequence of the writing master; the sequence ends in time unless its master is a halted
core. In the master's own sequence every action ends the sequence and clears the staged keys, and: PROG of the fuse key begins
to program the staged key where none is programmed or being programmed, and sets FAILED where one is, which leaves the key as
it is; the BKEY_FORBID fuse is programmed; COMMIT replaces the battery-backed key by the staged one, unless forbidden; ERASE
erases it; PROG of a signer slot or firmware signer slot writes the staged hash into an unprogrammed slot, and sets FAILED and
leaves the slots as they are where it is programmed; REVOKE revokes the slot. Outside the sequence an action only sets LOCKED.
The programming completes with the key; a loss of VBAT loses the battery-backed key and sets LOST. (R154, R155, R156, R157,
R268, R490) -/
def Obligations.FrankingActions : Prop :=
  ∀ (mid : Byte) (s : State),
    (s.hubOn = true →
      (∃ t, exec (.fkUnlock mid 0x4D59474B#32) s = .next t ∧ t.fk.unlocked = some mid.toNat) ∧
      (s.fk.unlocked ≠ none → (∀ m, s.fk.unlocked = some m → ¬ (m < 4 ∧ s.bit (Reg.dbgCStat m) 0 = true)) →
        ∃ t, exec .unlockTimeout s = .next t ∧ t.fk = { s.fk with unlocked := none }) ∧
      (s.fk.unlocked = some mid.toNat →
        (s.fk.fuseKey = none → s.fk.busy = none → ∃ t, exec (.fuseKeyProg mid) s = .next t ∧ t.bit Reg.fkFkeyStat 1 = true ∧
          t.fk = { s.fk with unlocked := none, busy := some 0, busyVal := stagedNum s.fk.fkeyStage 8, fkeyStage := [], bkeyStage := [] }) ∧
        ((s.fk.fuseKey ≠ none ∨ s.fk.busy ≠ none) → ∃ t, exec (.fuseKeyProg mid) s = .next t ∧ t.bit Reg.fkFkeyStat 2 = true ∧
          t.fk = { s.fk with unlocked := none, fkeyStage := [], bkeyStage := [] }) ∧
        (∃ t, exec (.forbidBkey mid) s = .next t ∧
          t.fk = { s.fk with unlocked := none, bkeyForbid := true, fkeyStage := [], bkeyStage := [] }) ∧
        (s.fk.bkeyForbid = false → ∃ t, exec (.bkeyCommit mid) s = .next t ∧ t.bit Reg.fkBkeyStat 0 = true ∧
          t.fk = { s.fk with unlocked := none, bkey := some (stagedNum s.fk.bkeyStage 8), fkeyStage := [], bkeyStage := [] }) ∧
        (s.fk.bkeyForbid = true → ∃ t, exec (.bkeyCommit mid) s = .next t ∧
          t.fk = { s.fk with unlocked := none, fkeyStage := [], bkeyStage := [] }) ∧
        (∃ t, exec (.bkeyErase mid) s = .next t ∧ t.bit Reg.fkBkeyStat 0 = false ∧
          t.fk = { s.fk with unlocked := none, bkey := none, fkeyStage := [], bkeyStage := [] }) ∧
        (SMap.find s.fk.imgSlots (s.fld Reg.fkImgSel 1 0) = none → ∃ t, exec (.imgSlotProg mid) s = .next t ∧
          t.fk = { s.fk with unlocked := none, fkeyStage := [], bkeyStage := []
                             imgSlots := SMap.put s.fk.imgSlots (s.fld Reg.fkImgSel 1 0) (stagedNum s.fk.imgStage 12) }) ∧
        (SMap.find s.fk.imgSlots (s.fld Reg.fkImgSel 1 0) ≠ none → ∃ t, exec (.imgSlotProg mid) s = .next t ∧
          t.bit Reg.fkImgStat 8 = true ∧ t.fk = { s.fk with unlocked := none, fkeyStage := [], bkeyStage := [] }) ∧
        (∃ t, exec (.imgSlotRevoke mid) s = .next t ∧ s.fld Reg.fkImgSel 1 0 ∈ t.fk.imgRevoked ∧
          t.fk = { s.fk with unlocked := none, imgRevoked := t.fk.imgRevoked, fkeyStage := [], bkeyStage := [] }) ∧
        (SMap.find s.fk.fwSlots (s.fld Reg.fkFwSel 0 0) = none → ∃ t, exec (.fwSlotProg mid) s = .next t ∧
          t.fk = { s.fk with unlocked := none, fkeyStage := [], bkeyStage := []
                             fwSlots := SMap.put s.fk.fwSlots (s.fld Reg.fkFwSel 0 0) (stagedNum s.fk.fwStage 12) }) ∧
        (SMap.find s.fk.fwSlots (s.fld Reg.fkFwSel 0 0) ≠ none → ∃ t, exec (.fwSlotProg mid) s = .next t ∧
          t.bit Reg.fkFwStat 8 = true ∧ t.fk = { s.fk with unlocked := none, fkeyStage := [], bkeyStage := [] }) ∧
        (∃ t, exec (.fwSlotRevoke mid) s = .next t ∧ s.fld Reg.fkFwSel 0 0 ∈ t.fk.fwRevoked ∧
          t.fk = { s.fk with unlocked := none, fwRevoked := t.fk.fwRevoked, fkeyStage := [], bkeyStage := [] })) ∧
      (s.fk.unlocked ≠ some mid.toNat → ∀ c ∈ [Instr.fuseKeyProg mid, .forbidBkey mid, .bkeyCommit mid, .bkeyErase mid,
          .imgSlotProg mid, .imgSlotRevoke mid, .fwSlotProg mid, .fwSlotRevoke mid],
        exec c s = .next (s.setBit Reg.fkStat 1 true)) ∧
      (s.fk.busy ≠ none → ∃ t, exec .fuseProgComplete s = .next t ∧ t.bit Reg.fkFkeyStat 1 = false ∧
        t.fk = { s.fk with fuseKey := some s.fk.busyVal, busy := none, busyVal := 0 })) ∧
    (∃ t, exec .vbatLoss s = .next t ∧ t.bit Reg.fkBkeyStat 1 = true ∧ t.bit Reg.fkBkeyStat 0 = false ∧
      t.fk = { s.fk with bkey := none, vbatOk := false, vbatLost := true })

/-- A master's frame write of an allowed form joins the staged bytes of its frame and master and drops those of another, with
PARTIAL set; a write that completes the frame is written where its plane does not step, and is dropped with REFUSED set where
it does. A scrubber reads the frame at its position and moves on by one, to the next enabled bay-plane or, at the end, to the
first with its sweep counted; it queues the corrected data of a frame with one bit in error and queues nothing for a clean
one. A queued correction is written at the boundary and counted. A page-store copy that arrives good is written and counted,
and a failed one faults the frame's run. A sweep past its bound sets OVERRUN. One flipped bit of a voted word is repaired and
counted. RESTORE returns each scrubber to its half. (R171, R172, R175, R176, R177, R179, R181) -/
def Obligations.FrameAndScrubberCommands : Prop :=
  ∀ (n : Tile) (sb : Bool) (s : State),
    (∀ (f : Fin 786432) (mid : Byte) (o : Fin 512) (bs : List Byte) (buf : SMap Byte), s.domOn (domBay n (f.val / 12288)) = true →
      frameForm o.val bs.length = true →
      buf = (bs.mapIdx (fun k b => (o.val + k, b))).foldl (fun m e => SMap.put m e.1 e.2)
        (if (s.tile n).wbFrame = f.val ∧ (s.tile n).wbMid = mid.toNat then (s.tile n).wbBytes else []) →
      (buf.length < 512 → ∃ t, exec (.frameWrite n f mid o bs) s = .next t ∧
        t.tile n = { s.tile n with wbFrame := f.val, wbMid := mid.toNat, wbBytes := buf } ∧
        ((s.tile n).wbBytes ≠ [] → ¬((s.tile n).wbFrame = f.val ∧ (s.tile n).wbMid = mid.toNat) →
          t.bit (Reg.csStat n) 5 = true)) ∧
      (512 ≤ buf.length → s.stepping (frameBp n f.val) = false → ∃ t, exec (.frameWrite n f mid o bs) s = .next t ∧
        (t.tile n).wbBytes = [] ∧ ∀ j, j < 512 → t.byte (frameBase n f.val + j) = (buf.map Prod.snd).getD j 0) ∧
      (512 ≤ buf.length → s.stepping (frameBp n f.val) = true → ∃ t, exec (.frameWrite n f mid o bs) s = .next t ∧
        (t.tile n).wbBytes = [] ∧ t.bit (Reg.csStat n) 6 = true ∧ ∀ a, t.byte a = s.byte a)) ∧
    (s.domOn (domTile n) = true →
      (s.bit (Reg.csCtrl n) 0 = true → (s.scrub n sb).queue.length < 8 →
        (∀ a upsets, nextFrame (s.sweepSet n sb) (s.scrubPos n sb) = some a → s.sweepSet n sb ≠ [] →
          a < 786432 → a % 3072 ≠ 3071 →
          ∃ t, exec (.scrubFrameRead n sb upsets) s = .next t ∧ t.scrubPos n sb = a + 1 ∧
            (upsets = [] → s.frameClass n a = .clean → (t.scrub n sb).queue = (s.scrub n sb).queue) ∧
            (∀ i, upsets = [] → s.frameClass n a = .dataBit i → (s.scrub n sb).queue.any (fun q => q.frame = a) = false →
              (t.scrub n sb).queue = (s.scrub n sb).queue ++ [{ frame := a, data := s.frameFixed n a }])) ∧
        (∀ k ks upsets, s.sweepSet n sb = k :: ks → nextFrame (k :: ks) (s.scrubPos n sb) = none →
          ∃ t, exec (.scrubFrameRead n sb upsets) s = .next t ∧ t.scrubPos n sb = k * 3072 + 1 ∧
            t.rd (sweepsReg n sb) = (s.rd (sweepsReg n sb) + 1) % 2 ^ 32)) ∧
      (∀ q qs, (s.scrub n sb).queue = q :: qs → s.repairNow (frameBp n q.frame) = true →
        ∃ t, exec (.scrubCorrection n sb) s = .next t ∧ (t.scrub n sb).queue = qs ∧
          (∀ j, j < 512 → j < q.data.length → t.byte (frameBase n q.frame + j) = q.data.getD j 0) ∧
          t.fld (Reg.csCorr n) 31 0 = min (2 ^ 32 - 1) (s.fld (Reg.csCorr n) 31 0 + 1)) ∧
      (∀ f rest ok, (s.scrub n sb).restores = f :: rest → s.repairNow (frameBp n f.frame) = true →
        (s.mc (s.pmGet (s.bpRec (frameBp n f.frame)).cfg (s.bpRec (frameBp n f.frame)).run).2.stack).iso = none →
        ∃ t, exec (.frameRestore n sb ok) s = .next t ∧ (t.scrub n sb).restores = rest ∧
          (ok = false → (t.run (s.bpRec (frameBp n f.frame)).run).state = .faulted) ∧
          (∀ u e g, s.pmGet (s.bpRec (frameBp n f.frame)).cfg (s.bpRec (frameBp n f.frame)).run = (u, e) →
            g = (u.setScrub n sb { s.scrub n sb with restores := rest }).dramRead
              (granAddr e.stack e.granule + 512 + 512 * (f.frame % 3072)) 512 (0x10 + n) →
            ok = true → poisonedEnt e = false → g.cause = 0 →
            (∀ j, j < 512 → j < g.data.length → t.byte (frameBase n f.frame + j) = g.data.getD j 0) ∧
            t.fld (Reg.csUncorr n) 31 16 = min 65535 (s.fld (Reg.csUncorr n) 31 16 + 1))) ∧
      (∃ t, exec (.sweepBoundExceeded n sb) s = .next t ∧ t.bit (Reg.csStat n) 7 = true) ∧
      (∀ (w : Fin 22) (c : Fin 3) (b : Fin 32), (∀ r m, (votedRegs n)[w.val]? = some (r, m) → bitOf m b = true) →
        ∃ t, exec (.voterRepair n [(w, c, b)]) s = .next t ∧ (∀ e ∈ votedRegs n, t.rd e.1 = s.rd e.1) ∧
          t.fld (Reg.csVote n) 31 0 = min (2 ^ 32 - 1) (s.fld (Reg.csVote n) 31 0 + 1)) ∧
      (∃ t, exec (.scrubRestore n) s = .next t ∧ t.takenOver n false = false ∧ t.takenOver n true = false))

/-- With no operation in progress and no action of a mode change or compact request waiting, the pending suspend of a RUNNING
run begins, and a pending request that its checks refuse leaves the run as it is; a transfer without a memory error makes its
bay-plane RESIDENT and leaves the run's list; a completed release makes the run RUNNING; at the stop of a suspend, with the
ports clean and no snapshot due, the run's DCC is kept and the save begins; a saved bay-plane leaves the run's list, and a
failed save leaves the run SUSPENDED with SAVE_FAIL; a swap ends its operation, wherever its page stands. (R196, R197, R208,
R210, R212, R213, R221) -/
def Obligations.RunProgress : Prop :=
  ∀ (run : Fin 4096) (s : State),
    (∀ q, s.hubOn = true → (s.run run).curOp = .none → (s.run run).modeAct = false → (s.run run).compactAct = false →
      (s.run run).pend = some q → s.bit Reg.soCtrl 0 = true → (s.run run).state = .running →
      (q.op = .suspend → ∃ t, exec (.pendingOpStart run) s = .next t ∧ (t.run run).state = .suspending ∧
        (t.run run).curOp = .suspend ∧ (t.run run).pend = none ∧ (t.run run).stop = q.stop) ∧
      (s.reqErr run q ≠ 0 → ∃ t, exec (.pendingOpStart run) s = .next t ∧
        t.run run = { s.run run with pend := none })) ∧
    (∀ bp : Fin 2048, s.xferReady run bp = true → (s.xferWork bp).cause = 0 →
      ∃ t, exec (.resumeTransferComplete run bp) s = .next t ∧ (t.bpRec bp).pstate = 2 ∧
        (t.run run).xfer = (s.run run).xfer.filter (· ≠ bp.val)) ∧
    (s.released run = true → ∃ t, exec (.runReleaseComplete run) s = .next t ∧ (t.run run).state = .running ∧
      (t.run run).curOp = .none ∧ (t.run run).restoreFrom = none) ∧
    (s.hubOn = true → hasWhy (s.stopsMet run) .suspend = true → hasWhy (s.stopsMet run) .endRun = false →
      s.portsClean run = true → s.snapDueNow run = false →
      ∃ t, exec (.runStopCycle run) s = .next t ∧ (t.run run).state = .suspending ∧ (t.run run).stops = [] ∧
        (t.run run).dcc = s.runDcc run ∧ (t.run run).save = s.runBps run) ∧
    (∀ bp : Fin 2048, s.saveReady run bp = true → poisonedEnt (s.pmGet (s.savePage run bp) run).2 = false →
      (∃ t, exec (.saveComplete run bp true) s = .next t ∧
        ((s.saveWrite run bp).1.cause = 0 → (s.run run).save.filter (· ≠ bp.val) ≠ [] →
          (t.run run).save = (s.run run).save.filter (· ≠ bp.val)) ∧
        ((s.saveWrite run bp).1.cause ≠ 0 → (t.run run).state = .suspended ∧ (t.run run).saveFail = true)) ∧
      (∃ t, exec (.saveComplete run bp false) s = .next t ∧ (t.run run).state = .suspended ∧ (t.run run).saveFail = true)) ∧
    (∀ q, s.hubOn = true → (s.run run).curReq = some q → (s.run run).curOp = .swap →
      (∀ i, vPlace s.so.bps run q.page = some i → s.stepping i = false ∧ s.moving (s.swapCheck run q).2.2.1 = false) →
      ∃ t, exec (.swapFramesWritten run) s = .next t ∧ (t.run run).curOp = .none ∧ (t.run run).swapPause = false)

/-- A snapshot that is due captures the DCC of its cycle and pauses the runs of its run's bays; the end of the pause frees
every run that it stopped and keeps the time; a capture outside a ring whose writes were good ends COMPLETE, and one whose
write failed ends FAILED; a ring's prepared next slot falls due at the run's DCC and NEXT moves on, and a ring whose slots are
all locked counts the snapshot as skipped. (R225, R226, R228, R230, R235) -/
def Obligations.SnapshotProgress : Prop :=
  ∀ (entry : Fin 1024) (s : State),
    (s.snapReady entry = true → ((s.snap entry).flush = false ∨ s.portsClean (s.snap entry).run = true) →
      ∃ t, exec (.snapshotCycle entry) s = .next t ∧
      (t.snap entry).state = 2 ∧ (t.snap entry).dcc = s.dccOf (s.snap entry).run ∧ (t.snap entry).due = false ∧
      (t.snap entry).flushed = (s.snap entry).flush ∧ ∀ r ∈ s.coTenants (s.snap entry).run, (t.run r).snapPause = some entry.val) ∧
    (∀ ns r, s.hubOn = true → (s.run r).snapPause = some entry.val → ∃ t, exec (.snapshotPauseEnd entry ns) s = .next t ∧
      (t.snap entry).pauseNs = ns.toNat ∧ ∀ q, (t.run q).snapPause ≠ some entry.val) ∧
    (s.hubOn = true → (s.snap entry).state = 2 → s.so.runs.any (fun e => e.2.snapPause = some entry.val) = false →
      (∃ t, exec (.snapshotComplete entry false) s = .next t ∧ (t.snap entry).state = 4) ∧
      ((s.snap entry).bad = false → (s.snap entry).ring = none →
        (List.range (s.snap entry).pageCount).any (fun j => poisonedEnt (s.pmGet ((s.snap entry).segBase + j) (s.snap entry).run).2) = false →
        (s.segsClose entry).2.2 = true →
        ∃ t, exec (.snapshotComplete entry true) s = .next t ∧ (t.snap entry).state = 3)) ∧
    (∀ (g : Fin 64) (x : Ring), s.ring g = some x → s.ringDue x = true →
      (∀ j, s.slotNext x = some j → s.slotBusy x j = false → (s.snap (x.first + j)).state = 1 →
        ∃ t, exec (.ringSnapshotDue g) s = .next t ∧
          (t.snap (x.first + j)).due = true ∧ (t.snap (x.first + j)).atCycle = s.dccOf x.run ∧
          ∃ y, t.ring g = some y ∧ y.next = (j + 1) % x.slots ∧ y.lastDue = s.dccOf x.run) ∧
      (s.slotNext x = none → ∃ t y, exec (.ringSnapshotDue g) s = .next t ∧ t.ring g = some y ∧ y.lastDue = s.dccOf x.run ∧
        y.next = x.next ∧ ∃ n, 0 < n ∧ y.skipped = (x.skipped + n) % 2 ^ 32))

/-- EN starts a unit whose path ends in a head, an armed head with no cycle counted, and sets CHAIN_ERR where the path does
not; the oldest probe word of a run whose bay-planes have passed its cycle leaves its slot, and an armed unit whose COUNT it
completes fires for its cycle; a successor whose WITHIN has passed is disarmed, and its head, while enabled, armed again.
(R240, R241, R242) -/
def Obligations.TriggersFire : Prop :=
  ∀ (unit : Fin 64) (s : State), s.hubOn = true →
    (s.trigOn unit = false →
      (s.trigPath (s.trigRun unit) 4 unit = none → ∃ t, exec (.triggerEnable unit) s = .next t ∧
        t.bit (Reg.trgStat unit) 26 = true ∧ t.trigOn unit = false) ∧
      (s.trigPath (s.trigRun unit) 4 unit ≠ none → ∃ t, exec (.triggerEnable unit) s = .next t ∧ t.trigOn unit = true ∧
        (s.bit (Reg.trgCtrl unit) 24 = true → t.bit (Reg.trgStat unit) 30 = true ∧ t.fld (Reg.trgStat unit) 15 0 = 0))) ∧
    (∀ (n : Tile) (slot : Fin 16) (p : Probe), (s.tile n).probes.find? (fun q => q.slot = slot.val) = some p →
      (∀ i ∈ s.runBps p.run, p.cycle < s.dcc i) → (∀ q ∈ s.runProbes p.run, p.cycle ≤ q.cycle) →
      (∃ t, exec (.triggerProbe n slot) s = .next t ∧ (t.tile n).probes = (s.tile n).probes.erase p) ∧
      (p.unit = unit.val → p.cycle < 2 ^ 64 → s.trigOn unit = true → s.bit (Reg.trgStat unit) 30 = true →
        (s.trig unit).armedAt = none → s.trigMatch unit p.cycle p.word = true → s.fld (Reg.trgParam unit) 15 0 ≤ 1 →
        ∃ t, exec (.triggerProbe n slot) s = .next t ∧ t.bit (Reg.trgStat unit) 31 = true ∧
          t.rd64 (Reg.trgFireDccLo unit) (Reg.trgFireDccHi unit) = p.cycle)) ∧
    (∀ l, s.trigLimit unit = some l → s.trigOn unit = true → s.bit (Reg.trgStat unit) 30 = true →
      l < s.dccOf (s.trigRun unit) → (∀ q ∈ s.runProbes (s.trigRun unit), l < q.cycle) →
      s.trigPath (s.trigRun unit) 4 unit ≠ none →
      ∃ t, exec (.triggerWithinExpiry unit) s = .next t ∧ t.bit (Reg.trgStat unit) 30 = false ∧
        (s.trigOn (s.trigHead unit) = true → t.bit (Reg.trgStat (s.trigHead unit)) 30 = true))

/-- A TAP instruction that is loaded becomes the current one; IDCODE, DBGACC and BYPASS capture their values, and a code that
is not listed selects BYPASS; only EXTEST drives the pins; nothing else changes. A poll captures STATUS 1 while an access of
the TAP waits, else its latest status; while one is in progress another is ignored; a misaligned access is refused with STATUS
2 and none is made; an aligned one on the private path is at once in progress. An access that Rounds has answered, and one on
the private path, completes with STATUS 0 or the status of its error, and a read without error gives its data. (R254, R253,
R255) -/
def Obligations.DebugPort : Prop :=
  (∀ s : State, s.pw.aon = true →
    (∃ t, exec .tapExtest s = .next t ∧ t.dbg.ir = 0 ∧ t.dbg.extest = true ∧ t = { s with dbg := t.dbg, draw := t.draw }) ∧
    (∃ t, exec .tapSamplePreload s = .next t ∧ t.dbg.ir = 1 ∧ t.dbg.extest = false ∧ t = { s with dbg := t.dbg, draw := t.draw }) ∧
    (∃ t, exec .tapIdcode s = .next t ∧ t.dbg.ir = 2 ∧ t.dbg.extest = false ∧
      t.dbg.captured = s.fk.siliconRev % 16 * 2 ^ 28 + 0x9480 * 2 ^ 12 + 0x2B5 * 2 + 1 ∧ t = { s with dbg := t.dbg }) ∧
    (∃ t, exec .tapDbgacc s = .next t ∧ t.dbg.ir = 8 ∧ t.dbg.extest = false ∧
      t.dbg.captured = s.dbgaccCapture ∧ t = { s with dbg := t.dbg }) ∧
    (∀ code : Fin 32, code.val ≠ 0 → code.val ≠ 1 → code.val ≠ 2 → code.val ≠ 8 →
      ∃ t, exec (.tapBypass code) s = .next t ∧ t.dbg.ir = 0x1F ∧ t.dbg.extest = false ∧ t.dbg.captured = 0 ∧
        t = { s with dbg := t.dbg })) ∧
  (∀ s : State,
    (s.pw.aon = true → s.dbg.ir = 8 →
      (∃ t, exec .dbgaccPoll s = .next t ∧ t = { s with dbg := t.dbg } ∧
        bitsOf t.dbg.captured 83 82 = if s.dbg.queue.any (fun a => a.tap) then 1 else s.dbg.tapStatus % 4) ∧
      (∀ addr consume data, s.dbg.queue.any (fun a => a.tap) = true →
        (∃ t, exec (.dbgaccRead addr consume) s = .next t ∧ t.dbg.queue = s.dbg.queue ∧ t = { s with dbg := t.dbg }) ∧
        (∃ t, exec (.dbgaccWrite addr data) s = .next t ∧ t.dbg.queue = s.dbg.queue ∧ t = { s with dbg := t.dbg })) ∧
      (∀ addr consume data, s.dbg.queue.any (fun a => a.tap) = false → addr.toNat % 4 ≠ 0 →
        (∃ t, exec (.dbgaccRead addr consume) s = .next t ∧ t.dbg.tapStatus = 2 ∧ t.dbg.queue = s.dbg.queue) ∧
        (∃ t, exec (.dbgaccWrite addr data) s = .next t ∧ t.dbg.tapStatus = 2 ∧ t.dbg.queue = s.dbg.queue)) ∧
      (∀ addr consume data, s.dbg.queue = [] → s.dbg.busy = false → addr.toNat % 4 = 0 → privatePath addr.toNat = true →
        (∃ t, exec (.dbgaccRead addr consume) s = .next t ∧ t.dbg.busy = true ∧
          t.dbg.queue = [{ tap := true, write := false, consume := consume, addr := addr.toNat }]) ∧
        (∃ t, exec (.dbgaccWrite addr data) s = .next t ∧ t.dbg.busy = true ∧
          t.dbg.queue = [{ tap := true, write := true, addr := addr.toNat, data := data.toNat }]))) ∧
    (∀ a : DbgAcc, s.dbg.queue = [a] → s.dbg.busy = true → a.tap = true →
      (∀ st c v, s.dbg.outcome = some (st, c, v) →
        ∃ t, exec .debugAccessComplete s = .next t ∧ t.dbg.queue = [] ∧ t.dbg.busy = false ∧ t.dbg.tapAddr = a.addr ∧
          t.dbg.tapStatus = (if st = 0 then 0 else st + 1) ∧ (st = 0 → a.write = false → t.dbg.tapData = v)) ∧
      (∀ g, s.dbg.outcome = none → privatePath a.addr = true → g = s.regAccess a.write (!a.consume) a.addr 4 0x30 (leBytes 4 a.data) none →
        ∃ t, exec .debugAccessComplete s = .next t ∧ t.dbg.tapStatus = (if g.cause = 0 then 0 else 2) ∧
          (g.cause = 0 → a.write = false → t.dbg.tapData = leNat g.data))))

/-- HALT of a running core asks for the halt, whose first cause stands, and has no effect on a halted one; RESUME and STEP
release a halted core, STEP with the halt that follows it, and have no effect on a running one; a halt that takes effect shows
its cause, freezes the watchdog and, from a core of the group, halts the other cores of the group that have no access to wait
for. (R258, R259, R260, R262) -/
def Obligations.CoreRunControl : Prop :=
  ∀ (c : Fin 4) (s : State), s.coreOn c = true →
    (s.halted c = false →
      (∃ t, exec (.coreHalt c) s = .next t ∧ (t.core c).haltReq = some ((s.core c).haltReq.getD 1) ∧ t.regs = s.regs) ∧
      exec (.coreResume c) s = .next s ∧ exec (.coreStep c) s = .next s) ∧
    (s.halted c = true → exec (.coreHalt c) s = .next s ∧
      (∃ t, exec (.coreResume c) s = .next t ∧ t.halted c = false ∧ t.bit (Reg.dbgWdtStat c) 1 = false ∧
        (t.core c).irqs = [] ∧ t = { s with regs := t.regs, dbg := t.dbg }) ∧
      (∃ t, exec (.coreStep c) s = .next t ∧ t.halted c = false ∧ (t.core c).haltReq = some 3 ∧
        ((t.core c).irqs = if s.bit (Reg.dbgCCtrl c) 3 then (s.core c).irqs.filter (fun q => (s.coreIrqs c).head? ≠ some q) else (s.core c).irqs) ∧
        t = { s with regs := t.regs, dbg := t.dbg })) ∧
    (∀ r, (s.core c).haltReq = some r → s.halted c = false → s.coreWaits c = false →
      ∃ t, exec (.coreHaltTakesEffect c) s = .next t ∧ t.halted c = true ∧ t.fld (Reg.dbgCStat c) 3 1 = r % 8 ∧
        t.bit (Reg.dbgWdtStat c) 1 = true ∧
        (∀ d : Fin 4, s.bit (Reg.dbgCCtrl c) 5 = true → d ≠ c → s.bit (Reg.dbgCCtrl d) 5 = true → s.coreOn d = true →
          s.halted d = false → s.coreWaits d = false → t.halted d = true ∧ t.fld (Reg.dbgCStat d) 3 1 = 5) ∧
        ∀ a, t.byte a = s.byte a)

/-- A pair of REGDATA writes reaches the selected register of a halted core and no other, and is ignored while it runs; a
comparator that matches sets HIT and shows the context, and asks for a halt where its action is HALT; a reservation ends after
its cycles. (R261, R265, R266, R269) -/
def Obligations.CoreRegistersAndComparators : Prop :=
  ∀ (c : Fin 4) (s : State),
    (∀ lo hi : Word, s.halted c = true → s.fld (Reg.dbgCRegsel c) 5 0 ≤ 36 →
      ∃ u t, exec (.coreRegdataAccess c true false lo) s = .next u ∧ exec (.coreRegdataAccess c true true hi) u = .next t ∧
        t.coreReg c = lo.toNat + 2 ^ 32 * hi.toNat ∧
        (∀ i, i ≠ s.fld (Reg.dbgCRegsel c) 5 0 → SMap.get (t.core c).regs i 0 = SMap.get (s.core c).regs i 0) ∧
        ∀ a, t.byte a = s.byte a) ∧
    (∀ hi w, s.halted c = false → exec (.coreRegdataAccess c true hi w) s = .next s) ∧
    (∀ (k : Fin 8) (kind : Fin 3) (addr : BitVec 48) (len : Fin 65) (pc : BitVec 64) (ctx : BitVec 16),
      s.coreOn c = true → s.halted c = false → (s.core c).haltReq = none →
      s.cmpMatches c k kind addr.toNat len ctx.toNat = true →
      ∃ t, exec (.comparatorMatch c k kind addr len pc ctx) s = .next t ∧ t.bit (Reg.dbgCCmpCtrl c k) 19 = true ∧
        t.fld (Reg.dbgCStat c) 31 16 = ctx.toNat ∧
        (s.cmpFld c k 21 20 = 0 → (t.core c).haltReq = some (2 + 8 * k.val)) ∧
        (s.cmpFld c k 21 20 ≠ 0 → (t.core c).haltReq = none) ∧ ∀ a, t.byte a = s.byte a) ∧
    (s.coreOn c = true → s.halted c = false → (s.core c).reservation.isSome = true →
      ∃ t, exec (.reservationExpiry c) s = .next t ∧ (t.core c).reservation = none ∧ t = { s with dbg := t.dbg })

/-- A kick reloads COUNT and changes nothing else; the first expiry sets bit 2 of the watchdog status and reloads COUNT; a
second expiry outside an unconfirmed trial resets the core alone, which starts, or halts at its start where HALT_ON_RESET is
set. (R262, R270) -/
def Obligations.Watchdogs : Prop :=
  ∀ (c : Fin 4) (s : State),
    (s.hubOn = true → ∃ t, exec (.watchdogKick c) s = .next t ∧ t.rd (Reg.dbgWdtCount c) = s.rd (Reg.dbgWdtLoad c) ∧
      (∀ q : Reg, q.addr ≠ (Reg.dbgWdtCount c).addr → t.rd q = s.rd q) ∧ t = { s with regs := t.regs }) ∧
    (s.wdtRuns c = true → s.rd (Reg.dbgWdtCount c) = 0 →
      (s.bit (Reg.dbgWdtStat c) 2 = false → ∃ t, exec (.watchdogExpiry c) s = .next t ∧ t.bit (Reg.dbgWdtStat c) 2 = true ∧
        t.rd (Reg.dbgWdtCount c) = s.rd (Reg.dbgWdtLoad c) ∧ ∀ a, t.byte a = s.byte a) ∧
      (s.bit (Reg.dbgWdtStat c) 2 = true →
        ¬(s.pw.image = 2 ∧ s.bootRec.stage = 4 ∧ s.bootRec.promote = 0 ∧ s.pw.flushReset = false) →
        ∃ t, exec (.watchdogExpiry c) s = .next t ∧ t.bit (Reg.dbgWdtStat c) 2 = false ∧
        t.rd (Reg.dbgWdtCount c) = s.rd (Reg.dbgWdtLoad c) ∧ t.pw.wdtReset = true ∧ (∀ a, t.byte a = s.byte a) ∧
        (s.bit (Reg.dbgCCtrl c) 4 = false → t.core c = {} ∧ t.halted c = false) ∧
        (s.bit (Reg.dbgCCtrl c) 4 = true → t.halted c = true ∧ t.fld (Reg.dbgCStat c) 3 1 = 4)))

/-- A word written to an empty Letterbox register is stored and sets FULL; one written to a full register is discarded and
sets OVF; a consume read clears FULL and changes no other register. On a terminal with an empty Letterbox, OPEN and its answer
open the side that sent them with no credit, CLOSE and RESET close the session, BREAK opens the monitor; on an open session a
credit word raises the credit of the other side's sender, and a data word shows in the Letterbox and costs its sender one.
(R272, R273, R274) -/
def Obligations.LetterboxAndTerminal : Prop :=
  (∀ (c : Fin 4) (s : State),
    (∀ w : Word, s.coreOn c = true → s.halted c = false → s.bit (Reg.dbgCLbStat c) 0 = false →
      ∃ t, exec (.lbTxWrite c w) s = .next t ∧ t.rd (Reg.dbgCLbTx c) = w.toNat ∧ t.bit (Reg.dbgCLbStat c) 0 = true ∧
        t = { s with regs := t.regs, dbg := t.dbg }) ∧
    (∀ w : Word, s.coreOn c = true → s.halted c = false → s.bit (Reg.dbgCLbStat c) 0 = true →
      ∃ t, exec (.lbTxWrite c w) s = .next t ∧ t.rd (Reg.dbgCLbTx c) = s.rd (Reg.dbgCLbTx c) ∧ t.bit (Reg.dbgCLbStat c) 2 = true ∧
        t = { s with regs := t.regs }) ∧
    (∀ w : Word, s.pw.aon = true → s.bit (Reg.dbgCLbStat c) 1 = false →
      ∃ t, exec (.lbRxWrite c w) s = .next t ∧ t.rd (Reg.dbgCLbRx c) = w.toNat ∧ t.bit (Reg.dbgCLbStat c) 1 = true ∧
        t = { s with regs := t.regs, dbg := t.dbg }) ∧
    (∀ w : Word, s.pw.aon = true → s.bit (Reg.dbgCLbStat c) 1 = true →
      ∃ t, exec (.lbRxWrite c w) s = .next t ∧ t.rd (Reg.dbgCLbRx c) = s.rd (Reg.dbgCLbRx c) ∧ t.bit (Reg.dbgCLbStat c) 3 = true ∧
        t = { s with regs := t.regs }) ∧
    (s.pw.aon = true → ∃ t, exec (.lbTxConsumeRead c) s = .next t ∧ t.bit (Reg.dbgCLbStat c) 0 = false ∧
      (∀ q : Reg, q.addr ≠ (Reg.dbgCLbStat c).addr → t.rd q = s.rd q) ∧ t = { s with regs := t.regs }) ∧
    (s.coreOn c = true → s.halted c = false → ∃ t, exec (.lbRxConsumeRead c) s = .next t ∧ t.bit (Reg.dbgCLbStat c) 1 = false ∧
      (∀ q : Reg, q.addr ≠ (Reg.dbgCLbStat c).addr → t.rd q = s.rd q) ∧ t = { s with regs := t.regs })) ∧
  (∀ (c : Fin 4) (toCore : Bool) (s : State), s.vtSide c toCore = true →
    s.bit (Reg.dbgCLbStat c) (if toCore then 1 else 0) = false →
    (((toCore = true ∨ (s.core c).vt.openDbg = true) → ∃ t, exec (.vtOpen c toCore) s = .next t ∧
        (t.core c).vt.creditDbg = 0 ∧ (t.core c).vt.creditFw = 0 ∧
        (if toCore then (t.core c).vt.openDbg = true else (t.core c).vt.openFw = true))) ∧
    (∃ t, exec (.vtClose c toCore) s = .next t ∧ (t.core c).vt = {}) ∧
    (∃ t, exec (.vtTerminalReset c toCore) s = .next t ∧ (t.core c).vt = {}) ∧
    (toCore = true → ∃ t, exec (.vtBreak c) s = .next t ∧ (t.core c).vt.monitor = true) ∧
    (∀ n : BitVec 16, (s.core c).vt.openDbg = true → (s.core c).vt.openFw = true → ∃ t, exec (.vtCredit c toCore n) s = .next t ∧
      (if toCore then (t.core c).vt.creditFw = (s.core c).vt.creditFw + n.toNat
        else (t.core c).vt.creditDbg = (s.core c).vt.creditDbg + n.toNat)) ∧
    (∀ (n : Fin 4) (b : BitVec 24), n.val ≠ 0 → 0 < (if toCore then (s.core c).vt.creditDbg else (s.core c).vt.creditFw) →
      ∃ t, exec (.vtData c toCore n b) s = .next t ∧
        t.rd (if toCore then Reg.dbgCLbRx c else Reg.dbgCLbTx c) = n.val * 2 ^ 24 + b.toNat ∧
        (if toCore then (t.core c).vt.creditDbg + 1 = (s.core c).vt.creditDbg else (t.core c).vt.creditFw + 1 = (s.core c).vt.creditFw)))

/-- The next request at the Rounds input of a controller is answered CAUSE 5 while the controller is not ready; a read joins
the read queue, block by block; a write joins the write queue while reads of class 15 wait at its targets. The one read that
is queued completes with the block's data, and with CAUSE 3 where the block is poisoned or uncorrectable; so does the one
queued write whose block cannot be read. A refresh is postponed, up to its limit, while requests of class 8 wait for its bank,
and made otherwise. A temperature shows in MC_STAT with the refresh rate that its rule gives, and one of 95 °C or more sets
TOO_HOT and the fault. The patrol moves on by a block and poisons one that is uncorrectable. (R24, R279, R280, R283, R285,
R286, R287, R288, R300, R301) -/
def Obligations.MemoryControllerService : Prop :=
  ∀ (c : Fin 20) (s : State),
    (∀ i q, s.roundsIn c = some i → s.portIn c = none → (s.mc c).inbox[i]? = some q → (s.mc c).writes = [] → q.port = none →
      (s.mcReady c = false → ∃ t, exec (.mcRequestIntake c) s = .next t ∧ t = { s with mcs := t.mcs, rnd := t.rnd } ∧
        t.mc c = { s.mc c with inbox := (s.mc c).inbox.eraseIdx i, portRun := 0 } ∧ t.answers q.pkt 5 [] = true) ∧
      (s.mcReady c = true → s.fillingAt q.pkt.addr q.pkt.len = false → reqBlocks c q.pkt ≠ [] →
        (q.pkt.kind = .readReq → ∃ t, exec (.mcRequestIntake c) s = .next t ∧ t = s.setMc c { s.mc c with
          inbox := (s.mc c).inbox.eraseIdx i, portRun := 0, nextId := (s.mc c).nextId + 1
          reqs := (s.mc c).reqs ++ [{ q with id := (s.mc c).nextId, todo := (reqBlocks c q.pkt).length, data := zeroBytes q.pkt.len }]
          reads := (s.mc c).reads ++ (reqBlocks c q.pkt).map (fun b => { id := (s.mc c).nextId, block := b, age := q.eff }) }) ∧
        (q.pkt.kind = .writeReq →
          (∀ b ∈ reqBlocks c q.pkt, ∃ x ∈ s.readable c (s.targetOf b).1, 15 ≤ x.age ∧
            ∀ b' ∈ reqBlocks c q.pkt, s.readHits x.block b' = false) →
          ∃ t, exec (.mcRequestIntake c) s = .next t ∧ (∀ a, t.byte a = s.byte a) ∧
            (t.mc c).writes = (reqBlocks c q.pkt).map (fun b => { id := (s.mc c).nextId, block := b, age := q.eff })))) ∧
    (∀ x q bad, s.domOn (mcDom c) = true → (s.mc c).reqs = [q] → q.id = x.id → q.todo = 1 → q.cause = 0 → q.port = none →
      s.isoBlk x.block = false →
      ((s.mc c).reads = [x] → (s.mc c).writes = [] → q.pkt.kind = .readReq → ∀ target : Fin 32, target.val = (s.targetOf x.block).1 →
        (s.poisoned x.block = false → s.eccOf c x.block [] = some [] → (∀ l ∈ blocksOf 64 q.pkt.addr q.pkt.len, s.tagged l = false) →
          ∃ t, exec (.mcReadComplete c target []) s = .next t ∧ t.mem = s.mem ∧ (t.mc c).reads = [] ∧ (t.mc c).reqs = [] ∧
            t.answers q.pkt 0 (q.data.mapIdx (fun i v => if x.block ≤ q.pkt.addr + i ∧ q.pkt.addr + i < x.block + blockSize c
              then (s.dramBytes x.block (blockSize c)).getD (q.pkt.addr + i - x.block) 0 else v)) = true) ∧
        ((s.poisoned x.block = true ∨ s.eccOf c x.block bad = none) → ∃ t, exec (.mcReadComplete c target bad) s = .next t ∧
          t.mem = s.mem ∧ (t.mc c).reads = [] ∧ (t.mc c).reqs = [] ∧ t.answers q.pkt 3 [] = true)) ∧
      ((s.mc c).reads = [] → (s.mc c).writes = [x] → x.also = [] → q.pkt.kind = .writeReq → ∀ target : Fin 32,
        target.val = (s.targetOf x.block).1 → (s.poisoned x.block = true ∨ s.eccOf c x.block bad = none) →
        ∃ t, exec (.mcReadComplete c target bad) s = .next t ∧ t.mem = s.mem ∧ (t.mc c).writes = [] ∧ (t.mc c).reqs = [] ∧
          t.answers q.pkt 3 [] = true)) ∧
    (∀ (target : Fin 32) (rank : Fin 8) (bank : Fin 64) (k n : Nat), s.domOn (mcDom c) = true →
      k = 64 * (8 * target.val + rank.val) + bank.val → n = SMap.get (s.mc c).postponed k 0 →
      ∃ t, exec (.refreshDue c target rank bank) s = .next t ∧ t = { s with mcs := t.mcs } ∧
        SMap.get (t.mc c).postponed k 0 = if s.bankBusy c k = true ∧ n < (if s.bit (Reg.mcStat c) 31 then 2 else 4) then n + 1 else 0) ∧
    (∀ v : Byte, s.domOn (mcDom c) = true → signedOf 8 v.toNat < 95 → ∃ t, exec (.dramTempRead c v) s = .next t ∧
      t.fld (Reg.mcStat c) 23 16 = v.toNat ∧ t.bit (Reg.mcStat c) 30 = false ∧
      (85 < signedOf 8 v.toNat → t.bit (Reg.mcStat c) 31 = true) ∧ (signedOf 8 v.toNat ≤ 82 → t.bit (Reg.mcStat c) 31 = false) ∧
      (82 < signedOf 8 v.toNat → signedOf 8 v.toNat ≤ 85 → t.bit (Reg.mcStat c) 31 = s.bit (Reg.mcStat c) 31) ∧
      ∀ a, t.byte a = s.byte a) ∧
    (∀ v : Byte, s.domOn (mcDom c) = true → 95 ≤ signedOf 8 v.toNat → ∃ t, exec (.dramTempRead c v) s = .next t ∧
      t.bit (Reg.mcStat c) 30 = true ∧ t.bit Reg.pmFault 7 = true) ∧
    (∀ bad b, s.mcReady c = true → s.fld (Reg.mcCtrl c) 31 24 ≠ 0 → 0 < s.mcTop c → (s.mc c).mig = none →
      b = s.mcAddr c (s.mc c).patrol → s.idleTarget c (s.targetOf b).1 = true → s.isoBlk b = false →
      ∃ t, exec (.patrolRead c bad) s = .next t ∧ (∀ a, t.byte a = s.byte a) ∧
        ((t.mc c).patrol = if s.mcTop c ≤ (s.mc c).patrol + blockSize c then 0 else (s.mc c).patrol + blockSize c) ∧
        (s.eccOf c b bad = none → s.mcOf b = c.val → s.poisoned b = false → b ∈ (t.mc c).poison))

/-- START of a helper operation begins it where helpers may act and is ignored where they may not; its end leaves the lanes,
bits and first burst that differ. A delay value and a mode register take what is written, and a mode register reads back what
was written there, else what the device keeps. Drift within its limit moves every lane's write delay; beyond it the controller
asks for a pause window. An isolated step begins with the delays kept and the request met, and ends released and counted, or
abandoned with its delays restored and counted. (R289, R290, R294, R295) -/
def Obligations.MemoryTraining : Prop :=
  ∀ (c : Fin 20) (s : State), s.domOn (mcDom c) = true →
    (∀ w : Word, (s.mc c).training = false →
      (bitOf w.toNat 31 = true → s.trnMay c w.toNat = true → ∃ t, exec (.trainingOp c w) s = .next t ∧ (t.mc c).training = true ∧
        t.bit (Reg.mcTrnCtrl c) 31 = true ∧ t.rd (Reg.mcTrnErrs c) = 0) ∧
      ((bitOf w.toNat 31 = false ∨ s.trnMay c w.toNat = false) →
        exec (.trainingOp c w) s = .next (s.wr (Reg.mcTrnCtrl c) (Nat.land w.toNat 0x7FFEFFFF)))) ∧
    (∀ (fail : BitVec 64) (errs first : Word), (s.mc c).training = true → s.fld (Reg.mcTrnCtrl c) 30 29 ≠ 0 →
      ∃ t, exec (.trainingOpComplete c fail errs first) s = .next t ∧ (t.mc c).training = false ∧
        t.bit (Reg.mcTrnCtrl c) 31 = false ∧ t = { s with regs := t.regs, mcs := t.mcs } ∧
        t.rd (Reg.mcTrnErrs c) = min (errs.toNat + (s.trnDiff c).2.1 * (if s.fld (Reg.mcTrnCtrl c) 30 29 = 3 then 16 else 1)) 0xFFFFFFFF ∧
        ((s.trnDiff c).1 = [] → (s.trnDiff c).2.2 = none → t.rd64 (Reg.mcTrnFailLo c) (Reg.mcTrnFailHi c) = fail.toNat % 2 ^ trnLanes c ∧
          t.rd (Reg.mcTrnFirst c) = if fail.toNat % 2 ^ trnLanes c = 0 then 0 else first.toNat)) ∧
    (∀ w : Word,
      (s.rd (Reg.mcDlySel c) / 2 ^ 28 < 7 → ∃ t, exec (.delayValueWrite c w) s = .next t ∧
        t.rd (Reg.mcDlyVal c) = w.toNat % 512 ∧ SMap.get (t.mc c).delays (s.rd (Reg.mcDlySel c)) 0 = w.toNat % 512 ∧
        (∀ k, k ≠ s.rd (Reg.mcDlySel c) → SMap.get (t.mc c).delays k 0 = SMap.get (s.mc c).delays k 0) ∧
        t = { s with regs := t.regs, mcs := t.mcs }) ∧
      (7 ≤ s.rd (Reg.mcDlySel c) / 2 ^ 28 → exec (.delayValueWrite c w) s = .next (s.wr (Reg.mcDlyVal c) 0))) ∧
    (∀ w : Word,
      (s.bit (Reg.mcMr c) 31 = false → exec (.modeRegisterAccess c w) s = .next (s.wr (Reg.mcMr c) (Nat.land w.toNat 0xFFFCFFFF))) ∧
      (s.bit (Reg.mcMr c) 31 = true → exec (.modeRegisterAccess c w) s = .next s)) ∧
    (∀ (v : Byte) (key : Nat), s.bit (Reg.mcMr c) 31 = true →
      key = mrKey (s.fld (Reg.mcMr c) 29 25) (s.fld (Reg.mcMr c) 24 22) (s.fld (Reg.mcMr c) 21 18) (s.fld (Reg.mcMr c) 15 8) →
      ∃ t, exec (.modeRegisterAccessComplete c v) s = .next t ∧ t.bit (Reg.mcMr c) 31 = false ∧
      (s.bit (Reg.mcMr c) 30 = true → t.fld (Reg.mcMr c) 7 0 = ((SMap.find (s.mc c).modeRegs key).getD v.toNat) % 256) ∧
      (s.bit (Reg.mcMr c) 30 = false → SMap.find (t.mc c).modeRegs key = some (s.rd (Reg.mcMr c) % 256)) ∧
      t = { s with regs := t.regs, mcs := t.mcs }) ∧
    (∀ (target : Fin 32) (rank : Fin 8) (taps : Byte), s.mcReady c = true →
      ((signedOf 8 taps.toNat).natAbs ≤ s.fld (Reg.mcRetrain c) 7 0 → ∃ t, exec (.driftMeasure c target rank taps) s = .next t ∧
        t = { s with mcs := t.mcs } ∧ ∀ l, l < trnLanes c →
          SMap.get (t.mc c).delays (2 ^ 28 + target.val * 2 ^ 23 + rank.val * 2 ^ 20 + l) 0 =
            (((SMap.get (s.mc c).delays (2 ^ 28 + target.val * 2 ^ 23 + rank.val * 2 ^ 20 + l) 0 : Nat) : Int) + signedOf 8 taps.toNat) % 512) ∧
      (s.fld (Reg.mcRetrain c) 7 0 < (signedOf 8 taps.toNat).natAbs → ∃ t, exec (.driftMeasure c target rank taps) s = .next t ∧
        t.bit (Reg.mcStat c) 1 = true ∧ c.val ∈ t.so.pauseReq ∧ t.mcs = s.mcs)) ∧
    ((s.bit (Reg.mcRetrain c) 31 = true ∨ s.mode = 9) → (s.mc c).iso = none → ∃ t, exec (.retrainIsolate c) s = .next t ∧
      t.bit (Reg.mcRetrain c) 30 = true ∧ t.bit (Reg.mcStat c) 1 = false ∧ c.val ∉ t.so.pauseReq ∧
      (∃ i, (t.mc c).iso = some i ∧ i.delays = (s.mc c).delays ∧ i.target = s.fld (Reg.mcRetrain c) 27 23 ∧
        i.rank = s.fld (Reg.mcRetrain c) 22 20) ∧ ∀ a, t.byte a = s.byte a) ∧
    (∀ i, (s.mc c).iso = some i → (s.mc c).writes = [] →
      (∃ t, exec (.retrainRelease c) s = .next t ∧ (t.mc c).iso = none ∧ (t.mc c).delays = (s.mc c).delays ∧
        t.bit (Reg.mcRetrain c) 30 = false ∧
        t.fld (Reg.mcRetrainCnt c) 31 16 = min 0xFFFF (s.fld (Reg.mcRetrainCnt c) 31 16 + 1)) ∧
      (∃ t, exec (.retrainStepTimeout c) s = .next t ∧ (t.mc c).iso = none ∧ (t.mc c).delays = i.delays ∧
        t.bit (Reg.mcRetrain c) 30 = false ∧
        t.fld (Reg.mcRetrainCnt c) 15 0 = min 0xFFFF (s.fld (Reg.mcRetrainCnt c) 15 0 + 1)))

/-- MC_SPARE takes what is written; GO starts the copy of a target to the spare where sparing is enabled and no retirement is
made or in progress. Each good piece moves the position on, and the last one names the target FAILED and ends the copy; a
block of the spare that reads uncorrectable abandons it. SPARE_EN of a stack takes a new value in mode 9 and in no other mode;
the stack's poisoned blocks, erased symbols and retirement start afresh, and the tables of the page store go with stack 0.
(R302, R303, R304, R302) -/
def Obligations.Sparing : Prop :=
  (∀ (c : Fin 20) (s : State), s.domOn (mcDom c) = true →
    (∀ w : Word,
      (bitOf w.toNat 31 = true → (s.mc c).mig = none → s.bit (Reg.mcCtrl c) 2 = true → s.bit (Reg.mcStat c) 28 = false →
        (s.mc c).failSet = false → ∃ t, exec (.spareGo c w) s = .next t ∧
        (t.mc c).mig = some { target := if c.val < 8 then bitsOf w.toNat 4 0 else bitsOf w.toNat 2 0, pos := 0 } ∧
        t.bit (Reg.mcStat c) 29 = true ∧ t.bit (Reg.mcSpare c) 31 = true ∧ t.fld (Reg.mcSpare c) 28 24 = bitsOf w.toNat 28 24 ∧
        t.rd (Reg.mcMigPos c) = 0 ∧ t = { s with regs := t.regs, mcs := t.mcs }) ∧
      (bitOf w.toNat 31 = false → ∃ t, exec (.spareGo c w) s = .next t ∧ (t.mc c).mig = (s.mc c).mig ∧
        t.fld (Reg.mcSpare c) 28 24 = bitsOf w.toNat 28 24 ∧ t.fld (Reg.mcSpare c) 20 16 = bitsOf w.toNat 20 16 ∧
        t.fld (Reg.mcSpare c) 4 0 = bitsOf w.toNat 4 0 ∧ t = { s with regs := t.regs, mcs := t.mcs })) ∧
    (∀ g, (s.mc c).mig = some g → s.migMay c g = true → (s.mc c).erased = [] →
      (g.pos + 1 < s.migTop c → ∃ t, exec (.migrationPieceComplete c []) s = .next t ∧
        (t.mc c).mig = some { g with pos := g.pos + 1 } ∧ t.rd (Reg.mcMigPos c) = (g.pos + 1) % 2 ^ 32 ∧ ∀ a, t.byte a = s.byte a) ∧
      (s.migTop c ≤ g.pos + 1 → g.target < 32 → ∃ t, exec (.migrationPieceComplete c []) s = .next t ∧ (t.mc c).mig = none ∧
        t.bit (Reg.mcStat c) 28 = true ∧ t.bit (Reg.mcStat c) 29 = false ∧ t.fld (Reg.mcSpare c) 20 16 = g.target ∧
        t.bit (Reg.mcSpare c) 31 = false ∧ ∀ a, t.byte a = s.byte a)) ∧
    (∀ g b bad, (s.mc c).mig = some g → s.mcReady c = true → s.fld (Reg.mcCtrl c) 31 24 ≠ 0 → 0 < s.mcTop c →
      b = s.mcAddr c (s.mc c).patrol → s.idleTarget c (s.targetOf b).1 = true → s.migMay c g = false → s.isoBlk b = false →
      s.mcOf b = c.val → s.poisoned b = false → s.eccOf c b bad = none →
      (if c.val < 8 then (s.targetOf b).1 else (s.targetOf b).2) = s.spareOf c →
      ∃ t, exec (.patrolRead c bad) s = .next t ∧ (t.mc c).mig = none ∧ t.bit (Reg.mcSpare c) 30 = true ∧
        t.bit (Reg.mcSpare c) 31 = false ∧ t.bit (Reg.mcStat c) 29 = false ∧ ∀ a, t.byte a = s.byte a)) ∧
  (∀ (n : Fin 8) (v : Bool) (s : State), s.domOn (domEdge n) = true →
    (s.mode ≠ 9 → exec (.spareEnWrite n v) s = .next s) ∧
    (s.mode = 9 → s.bit (Reg.mcCtrl n) 2 ≠ v → n.val ≠ 0 → ∃ t, exec (.spareEnWrite n v) s = .next t ∧ t.bit (Reg.mcCtrl n) 2 = v ∧
      (t.mc n).poison = [] ∧ (t.mc n).erased = [] ∧ (t.mc n).mig = none ∧ t.bit (Reg.mcStat n) 28 = false) ∧
    (s.mode = 9 → s.bit (Reg.mcCtrl 0) 2 ≠ v → n.val = 0 → ∃ t, exec (.spareEnWrite n v) s = .next t ∧ t.so.designs = [] ∧ t.so.runs = []))

/-- The root key is drawn once; an accepted enable turns a region on in its next epoch with its write count 0, and one that is
refused sets REFUSED and changes nothing else; an idle region is disabled, and its fill begins from BASE; the end of a fill
leaves the region's bytes zero and the others as they were. A re-key of a region that is on begins at once with a free engine,
gives the region its next epoch and clears its write count; each sector moves POS on by 4,096 and leaves the bytes outside it,
and after the last sector the re-key ends; a re-key of a region that is off has no effect. While no run has external routes,
the Courier's enables and keys take what is written; a key written while one has sets REFUSED and changes no key. (R309, R310,
R311, R320, R321, R323, R324) -/
def Obligations.Encryption : Prop :=
  (∀ (r : Byte) (s : State),
    (∀ key, s.hubOn = true → s.ic.root = none → ∃ t, exec (.rootKeyDrawn key) s = .next t ∧ t.ic.root = some key.toNat ∧
      t.bit Reg.icStat 30 = true ∧ t = { s with regs := t.regs, ic := t.ic }) ∧
    (s.hubOn = true → s.rOn r.toNat = false →
      (s.enableOk r.toNat = true → ∃ t, exec (.regionEnable r) s = .next t ∧ t.bit (Reg.icRCtrl r.toNat) 31 = true ∧
        t.rd (Reg.icRWcnt r.toNat) = 0 ∧ t.rd (Reg.icREpoch r.toNat) = (s.rd (Reg.icREpoch r.toNat) + 1) % 2 ^ 32 ∧
        t = { s with regs := t.regs, ic := t.ic }) ∧
      (s.enableOk r.toNat = false → ∃ t, exec (.regionEnable r) s = .next t ∧ t.bit Reg.icStat 29 = true ∧
        (∀ q : Reg, q.addr ≠ Reg.icStat.addr → t.rd q = s.rd q) ∧ t = { s with regs := t.regs })) ∧
    (s.hubOn = true → s.bit (Reg.icRStat r.toNat) 31 = false → s.bit (Reg.icRStat r.toNat) 30 = false →
      (∃ t, exec (.regionDisable r) s = .next t ∧ t.bit (Reg.icRCtrl r.toNat) 31 = false ∧
        (∀ q : Reg, q.addr ≠ (Reg.icRCtrl r.toNat).addr → t.rd q = s.rd q) ∧ t = { s with regs := t.regs }) ∧
      (s.rOn r.toNat = true → ∃ t, exec (.regionZero r) s = .next t ∧ r.toNat ∈ t.ic.filling ∧ t.bit (Reg.icRStat r.toNat) 31 = true ∧
        t.rd64 (Reg.icRPosLo r.toNat) (Reg.icRPosHi r.toNat) = s.rBase r.toNat ∧ t = { s with regs := t.regs, ic := t.ic })) ∧
    (r.toNat ∈ s.ic.filling → s.icRuns = true → ∃ t, exec (.regionFillComplete r) s = .next t ∧ r.toNat ∉ t.ic.filling ∧
      (∀ a, s.rBase r.toNat ≤ a → a < s.rLimit r.toNat + 4096 → t.byte a = 0) ∧
      (∀ a, a < s.rBase r.toNat ∨ s.rLimit r.toNat + 4096 ≤ a → t.byte a = s.byte a))) ∧
  (∀ (r : Byte) (s : State),
    (s.hubOn = true → s.rOn r.toNat = true → r.toNat ∉ s.ic.rekeying → r.toNat ∉ s.ic.waiting → s.ic.rekeying.length < 4 →
      s.bit (Reg.icRStat r.toNat) 31 = false → s.rEpoch r.toNat ≠ 0xFFFFFFFF →
      ∃ t, exec (.regionRekey r) s = .next t ∧ t.ic.rekeying = s.ic.rekeying ++ [r.toNat] ∧
        t.rd (Reg.icREpoch r.toNat) = s.rd (Reg.icREpoch r.toNat) + 1 ∧ t.rd (Reg.icRWcnt r.toNat) = 0 ∧
        t.bit (Reg.icRStat r.toNat) 30 = true ∧ t.fld Reg.icStat 2 0 = s.ic.rekeying.length + 1 ∧
        t = { s with regs := t.regs, ic := t.ic }) ∧
    (s.hubOn = true → s.rOn r.toNat = false → exec (.regionRekey r) s = .next s) ∧
    (r.toNat ∈ s.ic.rekeying → s.icRuns = true → s.rMode r.toNat ≠ 3 → s.rPos r.toNat + 4096 < 2 ^ 48 →
      (s.rPos r.toNat + 4096 ≤ s.rLimit r.toNat → ∃ t, exec (.rekeySectorComplete r) s = .next t ∧
        t.rPos r.toNat = s.rPos r.toNat + 4096 ∧ t.ic.rekeying = s.ic.rekeying ∧
        ∀ a, a < s.rPos r.toNat ∨ s.rPos r.toNat + 4096 ≤ a → t.byte a = s.byte a) ∧
      (s.rLimit r.toNat < s.rPos r.toNat + 4096 → s.bit (Reg.icRStat r.toNat) 29 = false → s.ic.waiting = [] →
        ∃ t, exec (.rekeySectorComplete r) s = .next t ∧ t.ic.rekeying = s.ic.rekeying.filter (· != r.toNat) ∧
          t.bit (Reg.icRStat r.toNat) 30 = false)) ∧
    (∀ w : Word, s.hubOn = true → (List.range 8).any s.tileExt = false →
      (∃ t, exec (.icCrWrite 0 w) s = .next t ∧ t.rd Reg.icCrEn = w.toNat % 256 ∧ t = { s with regs := t.regs }) ∧
      (∀ o : Fin 5, o ≠ 0 → ∃ t, exec (.icCrWrite o w) s = .next t ∧ SMap.get t.ic.crKeys (o.val - 1) 0 = w ∧ t = { s with ic := t.ic })) ∧
    (∀ (w : Word) (o : Fin 5), s.hubOn = true → (List.range 8).any s.tileExt = true → o ≠ 0 →
      ∃ t, exec (.icCrWrite o w) s = .next t ∧ t.bit Reg.icStat 29 = true ∧ t.ic = s.ic))

/-- A request of a master of the stop, from no core that is off or halted, that nothing decodes is answered with CAUSE 1; one
without a stamp waits; any other holds an outstanding entry and spends a stamp. A core's store-conditional without its
reservation is not made. A timer that expires answers with STATUS 2 and is counted, and its entry is freed by its release
alone, or its late response, which is counted. A response takes its entry and reaches its master; one without an entry is a
dead letter. (R42, R258, R269, R327, R345, R355, R356, R357, R364) -/
def Obligations.RoundsTransactions : Prop :=
  ∀ (stop : Fin 18) (s : State), s.domOn domRnd = true →
    (∀ (mid : Byte) (addr : BitVec 48) (write peek : Bool) (len : Fin 257) (data : List Byte) (excl : Bool), 0 < len.val →
      (write = true → data.length = len.val) → atStop mid.toNat stop = true → s.unitLive mid.toNat stop = true →
      (peek = true → mid.toNat = 0x30) → (4 ≤ mid.toNat ∨ (s.coreOn mid.toNat = true ∧ s.halted mid.toNat = false)) →
      (excl = true → write = true → mid.toNat < 4 → (s.core mid.toNat).reservation ≠ some (addr.toNat / 64 * 64) →
        ∃ t, exec (.roundsRequestInject stop mid addr write peek len data none excl) s = .next t ∧
          (t.core mid.toNat).reservation = none ∧ t = { s with dbg := t.dbg }) ∧
      (excl = false → s.decodes addr.toNat = false → ∃ t, exec (.roundsRequestInject stop mid addr write peek len data none excl) s = .next t ∧
        t.rnd.out = s.rnd.out ∧ (∀ a, t.byte a = s.byte a) ∧
        ∃ p, SMap.find t.rnd.delivered mid.toNat = some p ∧ p.status = 1 ∧ p.cause = 1) ∧
      (s.decodes addr.toNat = true → s.stampHeld (s.stopOf addr.toNat) stop = 0 → excl = false →
        exec (.roundsRequestInject stop mid addr write peek len data none excl) s = .next s) ∧
      (excl = false → s.decodes addr.toNat = true → 0 < s.stampHeld (s.stopOf addr.toNat) stop → s.rnd.inj = [] →
        ∀ g, s.freeTag stop = some g → ∃ t, exec (.roundsRequestInject stop mid addr write peek len data none excl) s = .next t ∧
          (∃ e, SMap.find t.rnd.out (2048 * stop.val + g) = some e ∧ e.late = false ∧ e.pkt.addr = addr.toNat ∧
            e.pkt.mid = mid.toNat ∧ e.pkt.dst = s.stopOf addr.toNat ∧ e.origin = .master) ∧
          t.rnd.net.length + t.rnd.inj.length = s.rnd.net.length + 1 ∧
          t.stampHeld (s.stopOf addr.toNat) stop + 1 = s.stampHeld (s.stopOf addr.toNat) stop ∧ ∀ a, t.byte a = s.byte a)) ∧
    (s.vl.jobs = [] → s.dbg.queue = [] → s.rnd.inj = [] → s.fab.mmps = [] →
      (∀ (g : Fin 2048) e, SMap.find s.rnd.out (2048 * stop.val + g.val) = some e → e.origin = .master → e.late = false →
        ∃ t, exec (.roundsTimeout stop g) s = .next t ∧
          (∃ e', SMap.find t.rnd.out (2048 * stop.val + g.val) = some e' ∧ e'.late = true) ∧
          (∃ p, SMap.find t.rnd.delivered e.pkt.mid = some p ∧ p.status = 2) ∧
          t.fld (Reg.rndSTo stop) 31 0 = min (2 ^ 32 - 1) (s.fld (Reg.rndSTo stop) 31 0 + 1) ∧ ∀ a, t.byte a = s.byte a) ∧
      (∀ (g : Fin 2048) e, SMap.find s.rnd.out (2048 * stop.val + g.val) = some e → e.late = true →
        ∃ t, exec (.outstandingEntryRelease stop g) s = .next t ∧ t.rnd.out = SMap.erase s.rnd.out (2048 * stop.val + g.val) ∧
          t = { s with rnd := t.rnd }) ∧
      (∀ i p e, s.netAt i [.readResp, .writeResp] = some p → SMap.find s.rnd.out (2048 * p.dst + p.tag) = some e →
        (e.late = true ∨ e.origin = .master) →
        ∃ t, exec (.roundsResponseArrival i) s = .next t ∧ t.rnd.net.length + 1 = s.rnd.net.length ∧
          t.rnd.out = SMap.erase s.rnd.out (2048 * p.dst + p.tag) ∧
          (e.late = false → SMap.find t.rnd.delivered p.mid = some p) ∧
          (e.late = true → p.dst < 18 → t.fld (Reg.rndSLate p.dst) 31 0 = min (2 ^ 32 - 1) (s.fld (Reg.rndSLate p.dst) 31 0 + 1)) ∧
          ∀ a, t.byte a = s.byte a)) ∧
    (∀ i p, s.netAt i [.readResp, .writeResp] = some p → SMap.find s.rnd.out (2048 * p.dst + p.tag) = none → p.dst < 18 →
      ∃ t, exec (.roundsResponseArrival i) s = .next t ∧ t.rnd.net.length + t.rnd.inj.length + 1 = s.rnd.net.length + s.rnd.inj.length ∧
        t.fld (Reg.rndSDead p.dst) 31 0 = min (2 ^ 32 - 1) (s.fld (Reg.rndSDead p.dst) 31 0 + 1) ∧ ∀ a, t.byte a = s.byte a)

/-- A request at its stop that exceeds the pool is answered CAUSE 7, and one whose domain will not wake CAUSE 5; one to memory
reaches its controller; one to registers or a scratchpad is answered with what its access gives; one for a domain that is off
is held and asks for its wake. What waits in an injection queue, on the rings or in a controller ages by one, up to 15. A
returned request goes back to the head of its queue and blocks its pair until the notice, and a notice without cause is a dead
letter. A fabric read that no stepping plane holds is answered. (R41, R326, R349, R352, R360, R361, R362) -/
def Obligations.RoundsArrivals : Prop :=
  ∀ (i : Nat) (s : State),
    (∀ p, s.netAt i [.readReq, .writeReq] = some p → p.back = false → p.src < 18 → p.dst < 18 → p.repoch < 2 →
      (destSize p.dst ≤ s.accepted p.dst → ∃ t, exec (.roundsRequestArrival i) s = .next t ∧
        t.answers p 7 [] = true ∧ (∀ a, t.byte a = s.byte a)) ∧
      (s.accepted p.dst < destSize p.dst →
        ((s.dom (s.domOf p.addr)).ph ≠ 3 → s.refuses (s.domOf p.addr) = true →
          ∃ t, exec (.roundsRequestArrival i) s = .next t ∧ t.answers p 5 [] = true ∧ t = { s with rnd := t.rnd }) ∧
        ((s.dom (s.domOf p.addr)).ph = 2 → 0x10000000000 ≤ p.addr → s.decodes (p.addr + p.len - 1) = true →
          p.bem = none → ∃ t, exec (.roundsRequestArrival i) s = .next t ∧ t.accepted p.dst = s.accepted p.dst + 1 ∧
            (t.mc (s.mcOf p.addr)).inbox = (s.mc (s.mcOf p.addr)).inbox ++ [{ pkt := p, eff := p.age }] ∧
            t = { s with rnd := t.rnd, mcs := t.mcs }) ∧
        (∀ u g, (s.dom (s.domOf p.addr)).ph = 2 → p.addr < 0x10000000000 → s.fabricWaits p.addr = false →
          u = { s.takeNet i with rnd := { (s.takeNet i).rnd with
            accepted := SMap.set (s.takeNet i).rnd.accepted p.dst (s.accepted p.dst + 1) 0 } } →
          g = u.access (p.kind = .writeReq) p.peek p.addr p.len p.mid p.data p.bem →
          ∃ t, exec (.roundsRequestArrival i) s = .next t ∧ t.mem = g.st.mem ∧
            t.answers p g.cause (if g.cause = 0 ∨ inFrames p.addr = true then g.data else []) = true) ∧
        ((s.dom (s.domOf p.addr)).ph = 0 → s.refuses (s.domOf p.addr) = false → s.prOcc p.dst < 64 →
          ∃ t, exec (.roundsRequestArrival i) s = .next t ∧ t.rnd.pr = s.rnd.pr ++ [{ pkt := p, dom := s.domOf p.addr }] ∧
            (t.dom (s.domOf p.addr)).wanted = true ∧ ∀ a, t.byte a = s.byte a))) ∧
    (s.domOn domRnd = true →
      (∀ p, s.rnd.inj[i]? = some p → ∃ t, exec (.packetAgeRise i) s = .next t ∧ t.rnd.inj[i]? = some { p with age := min 15 (p.age + 1) } ∧
        t = { s with rnd := { s.rnd with inj := t.rnd.inj } }) ∧
      (∀ p k, i = k + s.rnd.inj.length → s.rnd.net[k]? = some p → ∃ t, exec (.packetAgeRise i) s = .next t ∧
        t.rnd.net[k]? = some { p with age := min 15 (p.age + 1) } ∧ t = { s with rnd := { s.rnd with net := t.rnd.net } })) ∧
    (∀ c m rest k q, s.mcs = (c, m) :: rest → i = s.rnd.inj.length + s.rnd.net.length + k → m.inbox[k]? = some q →
      ∃ t, exec (.packetAgeRise i) s = .next t ∧ (t.mc c).inbox[k]? = some { q with eff := min 15 (q.eff + 1) } ∧ t = { s with mcs := t.mcs }) ∧
    (∀ p, s.netAt i [.returned] = some p → ∃ t, exec (.returnedRequest i) s = .next t ∧
      (∃ q rest, t.rnd.inj = q :: rest ∧ q.addr = p.addr ∧ q.mid = p.mid ∧ q.isReq = true) ∧ 18 * p.src + p.dst ∈ t.rnd.blocked ∧
      t = { s with regs := t.regs, rnd := t.rnd }) ∧
    (∀ p, s.netAt i [.resume] = some p →
      (18 * p.dst + p.src ∈ s.rnd.blocked → ∃ t, exec (.resumeNotice i) s = .next t ∧ 18 * p.dst + p.src ∉ t.rnd.blocked ∧
        t = { s with rnd := t.rnd }) ∧
      (18 * p.dst + p.src ∉ s.rnd.blocked → p.dst < 18 → ∃ t, exec (.resumeNotice i) s = .next t ∧
        t.fld (Reg.rndSDead p.dst) 31 0 = min (2 ^ 32 - 1) (s.fld (Reg.rndSDead p.dst) 31 0 + 1))) ∧
    (∀ q, s.rnd.fabHeld[i]? = some q → s.fabricWaits q.addr = false → (s.rnd.fabHeld.take i).any (sameOrder q) = false →
      inTile q.addr = true → 0x40000000 ≤ winOff q.addr → winOff q.addr < 0x60000000 → q.kind = .readReq → q.bem = none →
      memForm q.addr q.len = true → ∃ t, exec (.heldFabricAccess i) s = .next t ∧ t.rnd.fabHeld = s.rnd.fabHeld.eraseIdx i ∧
        t.answers q 0 (s.bytes q.addr q.len) = true ∧ t = { s with rnd := t.rnd })

/-- A switch is marked for its strobe, and refused while the inactive bank is not drained; a routing entry takes its bits
where it may be written and is refused where it may not; a NAK is counted, and the eighth of a flit or the 64th of an epoch
starts a retrain; a retrain that succeeds brings the link back, and one that fails sets FAIL and loses what stands in the
retry buffer. (R358, R359, R365, R366) -/
def Obligations.RoundsRoutesAndLinks : Prop :=
  ∀ s : State, s.domOn domRnd = true →
    (∃ t, exec .routingSwitch s = .next t ∧ t.bit Reg.rndEpoch (if s.drained then 1 else 3) = true ∧
      (∀ q : Reg, q.addr ≠ Reg.rndEpoch.addr → t.rd q = s.rd q) ∧ t = { s with regs := t.regs }) ∧
    (∀ (bank : Fin 2) (x y : Fin 18) (w : Word),
      (s.drained = true ∨ bank.val = s.curBank) → w.toNat % 256 ≠ 0 → ∃ t, exec (.routingTableWrite bank x y w) s = .next t ∧
        t.rd (Reg.rndRt bank x y) = w.toNat % 512 ∧ (∀ q : Reg, q.addr ≠ (Reg.rndRt bank x y).addr → t.rd q = s.rd q) ∧
        t = { s with regs := t.regs }) ∧
    (∀ (bank : Fin 2) (x y : Fin 18) (w : Word), (s.drained = false ∧ bank.val ≠ s.curBank) ∨ w.toNat % 256 = 0 →
      ∃ t, exec (.routingTableWrite bank x y w) s = .next t ∧ t.bit Reg.rndEpoch 3 = true ∧
        (∀ q : Reg, q.addr ≠ Reg.rndEpoch.addr → t.rd q = s.rd q) ∧ t = { s with regs := t.regs }) ∧
    (∀ (stop : Fin 18) (g : Fin 8) (d : Fin 2), s.linkDown stop g d = false → ∃ t, exec (.linkNak stop g d) s = .next t ∧
      t.fld (Reg.rndSRetry stop) 31 0 = min (2 ^ 32 - 1) (s.fld (Reg.rndSRetry stop) 31 0 + 1) ∧
      (t.linkDown stop g d = true ↔ 7 ≤ SMap.get s.rnd.nakRun (16 * stop.val + 2 * g.val + d.val) 0 ∨
        63 ≤ SMap.get s.rnd.naks (16 * stop.val + 2 * g.val + d.val) 0) ∧ t = { s with regs := t.regs, rnd := t.rnd }) ∧
    (∀ (stop : Fin 18) (g : Fin 8) (d : Fin 2), s.linkDown stop g d = true →
      (∃ t, exec (.linkRetrainComplete stop g d true) s = .next t ∧ t.linkDown stop g d = false ∧
        t = { s with regs := t.regs, rnd := t.rnd }) ∧
      (∃ t, exec (.linkRetrainComplete stop g d false) s = .next t ∧ t.bit (Reg.rndSLink stop) (2 * g.val + d.val) = true ∧
        t.bit (Reg.rndSLink stop) (16 + 2 * g.val + d.val) = false ∧ t.rnd.net = s.rnd.net.filter (fun p => !inRetry stop g d p) ∧
        ∀ a, t.byte a = s.byte a))

/-- A grant gives a stop eight stamps of a destination, and is not made above 64 held or above the pool; unspent stamps go
back to their owner, those of an idle epoch among them. A report puts the latched leaves of its stop into both copies, and
nothing else; a rebuild read restores both copies of a leaf from its unit and is counted; an audit with the Tally off ends at
once, and one at its deadline with every leaf sound counts the epoch and ends. (R326, R328, R332, R333, R334, R340) -/
def Obligations.ConservationLedgers : Prop :=
  (∀ (stop dest : Fin 18) (s : State), s.domOn domRnd = true →
    (s.stampHeld dest stop + 8 ≤ 64 → s.stampUsed dest + 8 ≤ destSize dest → s.vl.jobs = [] → s.dbg.queue = [] → s.fab.mmps = [] →
      ∃ t, exec (.stampBatch stop dest true 8) s = .next t ∧ t.stampHeld dest stop = s.stampHeld dest stop + 8 ∧
        t.stampUsed dest = s.stampUsed dest + 8 ∧ t = { s with rnd := t.rnd }) ∧
    (64 < s.stampHeld dest stop + 8 ∨ destSize dest < s.stampUsed dest + 8 → exec (.stampBatch stop dest true 8) s = .next s) ∧
    (∀ n : Fin 65, n.val ≤ s.stampHeld dest stop → n.val ≤ s.stampUsed dest → ∃ t, exec (.stampBatch stop dest false n) s = .next t ∧
      t.stampHeld dest stop + n.val = s.stampHeld dest stop ∧ t.stampUsed dest + n.val = s.stampUsed dest ∧ t = { s with rnd := t.rnd }) ∧
    (0 < SMap.get s.rnd.stampDue (18 * dest.val + stop.val) 0 → SMap.get s.rnd.stampDue (18 * dest.val + stop.val) 0 ≤ s.stampHeld dest stop →
      SMap.get s.rnd.stampDue (18 * dest.val + stop.val) 0 ≤ s.stampUsed dest →
      ∃ t, exec (.stampIdleReturn stop dest) s = .next t ∧
        t.stampHeld dest stop + SMap.get s.rnd.stampDue (18 * dest.val + stop.val) 0 = s.stampHeld dest stop ∧
        t.stampUsed dest + SMap.get s.rnd.stampDue (18 * dest.val + stop.val) 0 = s.stampUsed dest ∧ t = { s with rnd := t.rnd })) ∧
  (∀ s : State, s.hubOn = true →
    (∀ stop : Fin 18, s.domOn domRnd = true → s.tal.due = true → stop.val ∉ s.tal.reported →
      ∃ t, exec (.tallyReport stop) s = .next t ∧ stop.val ∈ t.tal.reported ∧ t = { s with tal := t.tal } ∧
        ∀ j, j ∈ reportedBy stop.val → SMap.get t.tal.leafA j {} = { val := SMap.get s.tal.latch j 0 } ∧
          SMap.get t.tal.leafB j {} = { val := SMap.get s.tal.latch j 0 }) ∧
    (∀ slot : Fin 12288, slot.val ∈ s.tal.rebuild → ∃ t, exec (.leafRebuild slot) s = .next t ∧ slot.val ∉ t.tal.rebuild ∧
      SMap.get t.tal.leafA slot.val {} = { val := SMap.get s.tal.latch slot.val 0 } ∧
      SMap.get t.tal.leafB slot.val {} = { val := SMap.get s.tal.latch slot.val 0 } ∧
      t.fld Reg.talRepair 15 8 = min 255 (s.fld Reg.talRepair 15 8 + 1) ∧ ∀ a, t.byte a = s.byte a) ∧
    (∀ a b n, s.tal.due = true → s.bit Reg.talCtrl 0 = false → ∃ t, exec (.tallyAudit a b n) s = .next t ∧ t.tal.due = false ∧
      t = { s with tal := t.tal }) ∧
    (s.tal.due = true → s.bit Reg.talCtrl 0 = true → s.tal.asked = true → ∃ t, exec (.tallyAudit [] [] []) s = .next t ∧ t.tal.due = false ∧
      t.rd Reg.talEpochs = (s.rd Reg.talEpochs + 1) % 2 ^ 32 ∧ ∀ a, t.byte a = s.byte a))

/-- A frame that is not for port 47310 is counted as OTHER, and one whose envelope is not intact as NOT_INTACT, with no
answer. An intact envelope is admitted with a buffer, answered BUSY where it cannot be, and BAD_PARAM where its version or
length is wrong. The oldest admitted request is dispatched to its handler when it opens its client and its unit is ready, and
turned away without an open client or with a client that does not exist. The oldest reply of a port is sent and gives its
buffer back; an access not answered in time is answered with its ticket; an ended ticket is reclaimed under a new generation,
and no other with it. (R370, R377, R378, R380, R382, R388, R389, R390, R391, R392) -/
def Obligations.EnvelopesAndReplies : Prop :=
  ∀ s : State,
    (∀ f : HostFrame, s.lpServing f.port = true →
      (toVollor f = false → ∃ t, exec (.envelopeReceive f) s = .next t ∧
        t.fld (Reg.vlLpDrop f.port) 15 0 = min 0xFFFF (s.fld (Reg.vlLpDrop f.port) 15 0 + 1) ∧ t = { s with regs := t.regs }) ∧
      (toVollor f = true → (f.v6 = true ∨ s.lpIp4 f.port ≠ 0) →
        (s.intact f (s.lpOwns f.port f.v6) = false → ∃ t, exec (.envelopeReceive f) s = .next t ∧
          t.fld (Reg.vlLpDrop f.port) 31 16 = min 0xFFFF (s.fld (Reg.vlLpDrop f.port) 31 16 + 1) ∧ t = { s with regs := t.regs }) ∧
        (s.intact f (s.lpOwns f.port f.v6) = true →
          ((s.lpLimit f.port f.v6 < (reqOf f).payload.length ∨ (reqOf f).version ≠ 1) → ∃ t, exec (.envelopeReceive f) s = .next t ∧
            t.vl.intake = s.vl.intake ∧ Replied s t (reqOf f) stBadParam 0 [] ∧ t = { s with vl := t.vl }) ∧
          ((reqOf f).payload.length ≤ s.lpLimit f.port f.v6 → (reqOf f).version = 1 →
            (s.admits (reqOf f) = true → ∃ t i, exec (.envelopeReceive f) s = .next t ∧
              t.vl.intake = s.vl.intake ++ [{ reqOf f with resv := i }] ∧ t.bufsUsed f.port = s.bufsUsed f.port + 1 ∧
              t.vl.replies = s.vl.replies ∧ t.fld (Reg.vlLpRx f.port) 31 0 = min (2 ^ 32 - 1) (s.fld (Reg.vlLpRx f.port) 31 0 + 1) ∧
              t = { s with regs := t.regs, vl := t.vl }) ∧
            (s.admits (reqOf f) = false → ∃ t, exec (.envelopeReceive f) s = .next t ∧ t.vl.intake = s.vl.intake ∧
              Replied s t (reqOf f) stBusy 0 [] ∧ t = { s with regs := t.regs, vl := t.vl }))))) ∧
    (∀ q rest, s.hubOn = true → s.vl.intake = q :: rest →
      (q.client < 64 → (s.client q.client).isOpen = false → bitOf q.flags 1 = true → q.seq < 2 ^ 32 → opListed q.opcode = true →
        s.opReady q.opcode (leAt q.payload 0 1) = true → ∃ t, exec .envelopeDispatch s = .next t ∧ t.vl.intake = rest ∧
          t.vl.handed = s.vl.handed ++ [q] ∧ (t.client q.client).isOpen = true ∧ (t.client q.client).h = q.seq ∧ t = { s with vl := t.vl }) ∧
      (q.client < 64 → (s.client q.client).isOpen = false → bitOf q.flags 1 = false → ∃ t, exec .envelopeDispatch s = .next t ∧
        t.vl.intake = rest ∧ t.vl.handed = s.vl.handed ∧ Replied s t q stBadState 0 [] ∧ t = { s with vl := t.vl }) ∧
      (64 ≤ q.client → ∃ t, exec .envelopeDispatch s = .next t ∧ t.vl.intake = rest ∧ Replied s t q stBadParam 0 [] ∧ t = { s with vl := t.vl })) ∧
    (∀ (port : Fin 9) r rest, s.lpUp port = true → s.vl.replies = r :: rest → r.port = port.val → r.thenReset = false →
      ∃ t, exec (.replySent port) s = .next t ∧ t.vl.replies = rest ∧ SMap.find t.vl.sent port = some (s.sentEnv r) ∧
        (r.buf = true → t.bufsUsed port = s.bufsUsed port - 1) ∧ t = { s with vl := t.vl }) ∧
    (∀ id j, s.hubOn = true → s.job id = some j → j.deferred = false → j.kind ≠ .fill → j.ticket < 4096 →
      ∃ t, exec (.accessDeferral id) s = .next t ∧ Replied s t j.req stAccepted (s.handle j.ticket) [] ∧
        (t.tkt j.ticket).used = true ∧ (t.tkt j.ticket).state = 1 ∧ ∃ k, t.job id = some k ∧ k.deferred = true) ∧
    (∀ i : Fin 4096, s.hubOn = true → (s.tkt i).used = true → 2 ≤ (s.tkt i).state → ∃ t, exec (.ticketReclaim i) s = .next t ∧
      t.tkt i = { gen := nextGen (s.tkt i).gen } ∧ (∀ k : Fin 4096, k ≠ i → t.tkt k = s.tkt k) ∧ t = { s with regs := t.regs, vl := t.vl })

/-- A request for the port's own address is answered, and one for another IPv4 address has no effect; an echo is returned; a
DHCP lease sets the port's address, its renewal sends a message and its loss clears the address; the link bit follows the
link. While the Lodge answers MP, in a mode that waits for no wake, every intact request to MP's own addresses is answered
NOT_READY with RETRY_US 100,000, the mode and the sequence number of the request, and is counted; ARP and neighbour
solicitation are answered for MP's own addresses. (R367, R372, R373, R374, R400, R401) -/
def Obligations.NetworkAndLodge : Prop :=
  (∀ (port : Fin 9) (s : State),
    (∀ ip : Word, s.lpServing port = true → ip ≠ 0 → s.lpIp4 port = ip.toNat → ∃ t, exec (.arpRequest port ip) s = .next t ∧
      SMap.find t.vl.netTx port = some (.arp ip.toNat (s.lpMac port)) ∧ t = { s with vl := t.vl }) ∧
    (∀ ip : Word, s.lpIp4 port ≠ ip.toNat → exec (.arpRequest port ip) s = .next s) ∧
    (∀ ip : BitVec 128, s.lpServing port = true → (ip.toNat = linkLocal (s.lpMac port) ∨ (ip.toNat ≠ 0 ∧ s.lpIp6 port = ip.toNat)) →
      ∃ t, exec (.neighborSolicitation port ip) s = .next t ∧
        SMap.find t.vl.netTx port = some (.neighbour ip.toNat (s.lpMac port)) ∧ t = { s with vl := t.vl }) ∧
    (∀ v6 data, s.lpServing port = true → (v6 = true ∨ s.lpIp4 port ≠ 0) → ∃ t, exec (.icmpEcho port v6 data) s = .next t ∧
      SMap.find t.vl.netTx port = some (.echo v6 data) ∧ t = { s with vl := t.vl }) ∧
    (∀ ip : Word, s.lpUp port = true → s.fld (Reg.vlLpCfg port) 29 28 = 2 → ∃ t, exec (.dhcpMessage port ip) s = .next t ∧
      t.rd (Reg.vlLpIp4 port) = ip.toNat ∧ port.val ∈ t.vl.lease ∧ t = { s with regs := t.regs, vl := t.vl }) ∧
    (s.hubOn = true → port.val ∈ s.vl.lease →
      (∃ t, exec (.dhcpRenew port true) s = .next t ∧ SMap.find t.vl.netTx port = some (.dhcp true) ∧ t = { s with vl := t.vl }) ∧
      (∃ t, exec (.dhcpRenew port false) s = .next t ∧ port.val ∉ t.vl.lease ∧ t.rd (Reg.vlLpIp4 port) = 0 ∧ ∀ a, t.byte a = s.byte a)) ∧
    (s.hubOn = true → (∃ t, exec (.hostLinkChange port false) s = .next t ∧ t.bit (Reg.vlLpStat port) 31 = false ∧ t = { s with regs := t.regs }) ∧
      (s.lpExists port = true → s.bit (Reg.vlLpCfg port) 31 = true →
        (port.val = 0 ∨ (s.domOn domHost = true ∧ s.pw.refFail.contains 1 = false)) →
        ∃ t, exec (.hostLinkChange port true) s = .next t ∧ t.bit (Reg.vlLpStat port) 31 = true ∧ t = { s with regs := t.regs }))) ∧
  (∀ s : State, s.lodgeOn = true → s.canWake = false →
    (∀ f : HostFrame, f.port = 0 → toVollor f = true →
      s.intact f (fun ip => if f.v6 then decide (ip = linkLocal (s.lpMac 0)) else decide (ip ≠ 0 ∧ ip = s.rd Reg.pmLodgeIp4)) = true →
      ∃ t, exec (.lodgeRequest f) s = .next t ∧
        t.fld Reg.pmLodgeCnt 31 0 = min (2 ^ 32 - 1) (s.fld Reg.pmLodgeCnt 31 0 + 1) ∧
        (∃ e, SMap.find t.vl.sent 0 = some e ∧ e.reply.status = stNotReady ∧ e.reply.aux = 100000 ∧ e.reply.payload.length = 8 ∧
          e.reply.payload.head? = some (BitVec.ofNat 8 s.mode) ∧ e.reply.client = (reqOf f).client ∧ e.reply.seq = (reqOf f).seq) ∧
        t = { s with regs := t.regs, vl := t.vl }) ∧
    (∀ ip : Word, ip ≠ 0 → s.rd Reg.pmLodgeIp4 = ip.toNat → ∃ t, exec (.lodgeArp ip) s = .next t ∧
      SMap.find t.vl.netTx 0 = some (.arp ip.toNat (s.lpMac 0)) ∧ t = { s with vl := t.vl }) ∧
    (∀ ip : BitVec 128, ip.toNat = linkLocal (s.lpMac 0) → ∃ t, exec (.lodgeNeighborSolicitation ip) s = .next t ∧
      SMap.find t.vl.netTx 0 = some (.neighbour ip.toNat (s.lpMac 0)) ∧ t = { s with vl := t.vl }))

/-- ECHO, INFO, READY and TIME answer OK with the payload of their row; TICKET_STATUS answers the word of a ticket, superseded
for a handle of an earlier start, and BAD_PARAM for a handle of none; an earlier start's ticket cannot be cancelled, and a
queued erase that is cancelled ends abandoned; SYSTEM_RESET queues its reset behind its reply; CLIENT_CLOSE closes its client.
MODE_GET and POWER_GET answer OK with the payload of their row; MODE_SET of the present mode, with no change in progress or
pending, is answered OK, and one of another mode takes the empty pending slot under a ticket. (R385, R387, R388, R406, R407,
R408, R409, R467) -/
def Obligations.SystemAndModeOpcodes : Prop :=
  (∀ (c : Fin 64) (q : VReq) (s : State), s.mode ∈ allModes → hdrOk q = true →
    (s.fronts c 0x0100 q → ∃ t, exec (.echo c) s = .next t ∧ Answered s t q stOk q.payload ∧ t = { s with vl := t.vl }) ∧
    (s.fronts c 0x0101 q → q.payload = [] → ∃ t, exec (.info c) s = .next t ∧ t = { s with vl := t.vl } ∧
      Answered s t q stOk (leBytes 2 0x9480 ++ leBytes 2 s.fk.siliconRev ++ leBytes 4 s.pw.cycles ++ leBytes 8 s.fk.macBase ++
        leBytes 4 s.bootRec.verA ++ leBytes 4 s.bootRec.verF ++ leBytes 4 s.fuseWord ++ leBytes 4 0)) ∧
    (s.fronts c 0x0102 q → q.payload = [] → ∃ t, exec (.ready c) s = .next t ∧ t = { s with vl := t.vl } ∧
      Answered s t q stOk (leBytes 8 s.readyVec ++ leBytes 1 s.mode ++ leBytes 1 s.pendMode ++ leBytes 6 0)) ∧
    (s.fronts c 0x0106 q → q.payload = [] → ∃ t, exec (.time c) s = .next t ∧ t = { s with vl := t.vl } ∧
      Answered s t q stOk (leBytes 8 s.epoch ++ leBytes 4 s.pw.hours ++ leBytes 2 (s.pw.frac % 4096) ++ leBytes 2 0 ++
        leBytes 4 (s.pw.cycles % 2 ^ 24) ++ leBytes 4 0)) ∧
    (s.fronts c 0x0103 q → q.payload.length = 8 → leAt q.payload 4 4 = 0 →
      (s.tktOld (leAt q.payload 0 4) = true → ∃ t, exec (.ticketStatus c) s = .next t ∧
        Answered s t q stOk (leBytes 8 (5 * 2 ^ 60)) ∧ t = { s with vl := t.vl }) ∧
      (∀ i, s.tktOld (leAt q.payload 0 4) = false → s.tktOf (leAt q.payload 0 4) = some i → ∃ t, exec (.ticketStatus c) s = .next t ∧
        Answered s t q stOk (leBytes 8 (tktWord (s.tktNow i))) ∧ t = { s with vl := t.vl }) ∧
      (s.tktOld (leAt q.payload 0 4) = false → s.tktOf (leAt q.payload 0 4) = none → ∃ t, exec (.ticketStatus c) s = .next t ∧
        Answered s t q stBadParam [] ∧ t = { s with vl := t.vl })) ∧
    (s.fronts c 0x0104 q → q.payload.length = 4 →
      (s.tktOld (leAt q.payload 0 4) = true → ∃ t, exec (.ticketCancel c) s = .next t ∧ Answered s t q stBadState [] ∧ t = { s with vl := t.vl }) ∧
      (∀ i e, s.tktOld (leAt q.payload 0 4) = false → s.tktOf (leAt q.payload 0 4) = some i → (s.tkt i).work = .storeErase e → (s.tkt i).state = 0 →
        ∃ t, exec (.ticketCancel c) s = .next t ∧ Answered s t q stOk [] ∧ (t.tkt i).state = 5 ∧ t = { s with regs := t.regs, vl := t.vl, fl := t.fl })) ∧
    (s.fronts c 0x0105 q → q.payload.length = 4 → leAt q.payload 0 4 = 0x54535257 → ∃ t, exec (.systemReset c) s = .next t ∧
      Answered s t q stOk [] ∧ (∃ r ∈ t.vl.replies, r.thenReset = true ∧ r.client = q.client ∧ r.seq = q.seq) ∧ t = { s with vl := t.vl }) ∧
    (s.fronts c 0x0107 q → q.payload = [] → ∃ t, exec (.clientClose c) s = .next t ∧ Answered s t q stOk [] ∧ t.client q.client = {} ∧
      t = { s with vl := t.vl })) ∧
  (∀ (c : Fin 64) (q : VReq) (s : State), hdrOk q = true →
    (s.mode ∈ allModes → q.payload = [] →
      (s.fronts c 0x0200 q → ∃ t, exec (.modeGet c) s = .next t ∧ t = { s with vl := t.vl } ∧ Answered s t q stOk
        (leBytes 1 s.mode ++ leBytes 1 s.chgMode ++ leBytes 1 s.pendMode ++ leBytes 1 (s.fld Reg.mrMode 31 24) ++ leBytes 4 (s.rd Reg.mrModeTkt))) ∧
      (s.fronts c 0x0202 q → ∃ t, exec (.powerGet c) s = .next t ∧ t = { s with vl := t.vl } ∧ Answered s t q stOk
        (leBytes 4 (s.pw.pout + 4500) ++ leBytes 2 (s.pw.hot16 % 65536).toNat ++ leBytes 2 0 ++ leBytes 8 s.powerDoms ++
          (List.range 8).flatMap (fun n => leBytes 8 (s.powerBays n))))) ∧
    (s.fronts c 0x0201 q → s.mode ∈ [2, 3, 5, 6, 7, 8, 9, 10] → s.modeAskOk q.payload = true →
      (leAt q.payload 0 1 = s.mode → s.pw.chg = none → s.pw.pend = none → ∃ t, exec (.modeSet c) s = .next t ∧ Answered s t q stOk [] ∧
        t = { s with vl := t.vl }) ∧
      (∀ i, leAt q.payload 0 1 ≠ s.mode → s.tktFree = some i → s.pw.pend = none → ∃ t, exec (.modeSet c) s = .next t ∧ Accepted s t q i [] ∧
        t.pw.pend = some { src := .vollor, target := leAt q.payload 0 1, run := leAt q.payload 2 2, ticket := some i } ∧
        ∀ a, t.byte a = s.byte a)))

/-- Each of these opcodes, asked for in a mode that its row does not admit, is answered BAD_STATE, and nothing else happens.
(R402, R403, R404) -/
def Obligations.OpcodesRefusedByMode : Prop :=
  ∀ (c : Fin 64) (q : VReq) (s : State), ∀ row ∈ ([
      (.modeSet c, 0x0201, [2, 3, 5, 6, 7, 8, 9, 10]), (.loadBegin c, 0x0300, [5, 6, 7, 8, 9]),
      (.loadData c, 0x0301, [5, 6, 7, 8, 9]), (.loadEnd c, 0x0302, [5, 6, 7, 8, 9]),
      (.designList c, 0x0303, [5, 6, 7, 8, 9]), (.designDiscard c, 0x0304, [5, 6, 7, 8]), (.storeList c, 0x0305, [2, 3, 5, 6, 7, 8, 9]),
      (.storeErase c, 0x0306, [5, 6, 7, 8, 9]), (.runCreate c, 0x0400, [2, 5, 6, 7, 8]), (.runStart c, 0x0401, [2, 5, 6, 7, 8]),
      (.runSuspend c, 0x0402, [2, 5, 6, 7, 8]), (.runResume c, 0x0403, [2, 5, 6, 7, 8]), (.runEnd c, 0x0404, [2, 5, 6, 7, 8]),
      (.runSwap c, 0x0405, [2, 5, 6, 7, 8]), (.runCompact c, 0x0406, [6]), (.runStatus c, 0x0407, [5, 6, 7, 8, 9, 10]),
      (.runSet c, 0x0408, [5, 6, 7, 8]), (.runList c, 0x0409, [5, 6, 7, 8, 9, 10]), (.streamOpen c, 0x0600, [5, 6, 7, 8]),
      (.streamClose c, 0x0601, [5, 6, 7, 8]), (.streamData c, 0x0602, [5, 6, 7, 8]), (.streamRead c, 0x0603, [5, 6, 7, 8]),
      (.streamStatus c, 0x0604, [5, 6, 7, 8]), (.snapTake c, 0x0700, [5, 6, 7, 8]), (.snapRing c, 0x0701, [5, 6, 7, 8]),
      (.snapLock c, 0x0702, [5, 6, 7, 8]), (.snapFree c, 0x0703, [5, 6, 7, 8]), (.snapRestore c, 0x0704, [5, 6, 7, 8]),
      (.snapRead c, 0x0705, [5, 6, 7, 8]), (.trigSet c, 0x0706, [5, 6, 7, 8]), (.trigStatus c, 0x0707, [5, 6, 7, 8, 9, 10]),
      (.step c, 0x0708, [8]), (.updateBegin c, 0x0800, [5, 6, 7, 8, 9]), (.updateData c, 0x0801, [5, 6, 7, 8, 9]),
      (.updateEnd c, 0x0802, [5, 6, 7, 8, 9]),
      (.updateDiscard c, 0x0804, [5, 6, 7, 8, 9]), (.updateRevert c, 0x0805, [3, 5, 6, 7, 8, 9]), (.settingsRead c, 0x0806, [2, 3, 5, 6, 7, 8, 9]),
      (.settingsWrite c, 0x0807, [2, 3, 5, 6, 7, 8, 9]), (.laneStatus c, 0x0A00, [2, 5, 6, 7, 8, 9, 10]), (.laneLoopback c, 0x0A02, [9]),
      (.laneRetire c, 0x0A03, [6, 7, 8, 9, 10])] : List (Instr × Nat × List Nat)),
    s.fronts c row.2.1 q → s.mode ∉ row.2.2 → ∃ t, exec row.1 s = .next t ∧ Answered s t q stBadState [] ∧ t = { s with vl := t.vl }

/-- The opcodes of the Images group, each with its conditions on the request and the state alone. LOAD_BEGIN of an image sent
by LOAD_DATA, without a copy to the store, takes the lowest free load under a ticket, or is answered NO_RESOURCE. LOAD_DATA of
the next byte expected appends its piece, and with another offset is BAD_PARAM. LOAD_END of a load whose bytes are all there,
that has ended or that takes no bytes from LOAD_DATA is OK; of one whose bytes are missing it fails the load with TRUNCATED
and is OK; of another handle it is BAD_STATE. DESIGN_LIST and STORE_LIST answer their entries from the index asked for.
DESIGN_DISCARD discards a committed design, is OK for one being discarded and BAD_STATE for a free or pending slot.
STORE_ERASE waits for the flash under its ticket, and is BAD_STATE for an entry that a load writes. (R158, R159, R164, R189,
R190, R410, R489) -/
def Obligations.ImageOpcodes : Prop :=
  ∀ (c : Fin 64) (q : VReq) (s : State), hdrOk q = true →
    (∀ j i, s.fronts c 0x0300 q → s.mode = 6 → s.loadAskOk q.payload = true → leAt q.payload 0 1 = 0 → leAt q.payload 1 1 % 4 < 2 →
      s.loadFree = some j → s.tktFree = some i → ∃ t, exec (.loadBegin c) s = .next t ∧ Accepted s t q i [] ∧ t.isLoad j = true ∧
        t.load j = loadOf q i ∧ (t.load j).bytes = [] ∧ (t.tkt i).work = .load j ∧ t.so = s.so ∧ t.fl = s.fl ∧ ∀ a, t.byte a = s.byte a) ∧
    (s.fronts c 0x0300 q → s.mode = 6 → s.loadAskOk q.payload = true → leAt q.payload 0 1 = 0 → leAt q.payload 1 1 % 4 < 2 → s.loadFree = none →
      ∃ t, exec (.loadBegin c) s = .next t ∧ Answered s t q stNoResource [] ∧ t = { s with vl := t.vl }) ∧
    (∀ j, s.fronts c 0x0301 q → s.mode ∈ [5, 6, 7, 8, 9] → 17 ≤ q.payload.length → leAt q.payload 4 4 = 0 → s.pieceLoad (leAt q.payload 0 4) = some j →
      ((s.load j).bytes.length < 48 → leAt q.payload 8 8 = (s.load j).bytes.length + (s.load j).piece.length →
        (s.load j).piece.length + (q.payload.length - 16) ≤ pieceBuf → ∃ t, exec (.loadData c) s = .next t ∧ Answered s t q stOk [] ∧
          t.load j = { s.load j with piece := (s.load j).piece ++ q.payload.drop 16 } ∧ t = { s with vl := t.vl, fk := t.fk }) ∧
      (leAt q.payload 8 8 ≠ (s.load j).bytes.length + (s.load j).piece.length →
        ∃ t, exec (.loadData c) s = .next t ∧ Answered s t q stBadParam [] ∧ t = { s with vl := t.vl })) ∧
    (s.fronts c 0x0302 q → s.mode ∈ [5, 6, 7, 8, 9] → q.payload.length = 4 →
      (s.loadTkt (leAt q.payload 0 4) = false → ∃ t, exec (.loadEnd c) s = .next t ∧ Answered s t q stBadState [] ∧ t = { s with vl := t.vl }) ∧
      (s.loadTkt (leAt q.payload 0 4) = true → s.pieceLoad (leAt q.payload 0 4) = none →
        ∃ t, exec (.loadEnd c) s = .next t ∧ Answered s t q stOk [] ∧ t = { s with vl := t.vl }) ∧
      (∀ j, s.pieceLoad (leAt q.payload 0 4) = some j →
        ((s.load j).complete = true → ∃ t, exec (.loadEnd c) s = .next t ∧ Answered s t q stOk [] ∧ t = { s with vl := t.vl }) ∧
        ((s.load j).complete = false → ∃ t, exec (.loadEnd c) s = .next t ∧ Answered s t q stOk [] ∧ t.isLoad j = false ∧
          (t.tkt (s.load j).ticket).state = 3 ∧ (t.tkt (s.load j).ticket).err = stTruncated))) ∧
    (s.fronts c 0x0303 q → s.mode ∈ [5, 6, 7, 8, 9] → q.payload.length = 2 → leAt q.payload 0 2 < 1024 →
      ∃ t es, exec (.designList c) s = .next t ∧ t = { s with vl := t.vl } ∧
        es = (s.so.designs.filter (fun e => e.2.state ≠ 0 && decide (leAt q.payload 0 2 ≤ e.1))).take (listRoom (s.lpLimit q.port q.v6)) ∧
        Answered s t q stOk (leBytes 2 es.length ++ leBytes 6 0 ++ es.flatMap (fun e => leBytes 16 e.2.id ++ leBytes 2 e.1 ++
          leBytes 1 e.2.state ++ leBytes 1 0 ++ leBytes 2 e.2.pageCount ++ leBytes 2 e.2.runs ++ leBytes 4 e.2.cfgBase ++ leBytes 4 0))) ∧
    (s.fronts c 0x0304 q → s.mode ∈ [5, 6, 7, 8] → q.payload.length = 2 → leAt q.payload 0 2 < 1024 →
      ((s.design (leAt q.payload 0 2)).state = 2 → ∃ t, exec (.designDiscard c) s = .next t ∧ Answered s t q stOk [] ∧
        (t.design (leAt q.payload 0 2)).state ≠ 2) ∧
      ((s.design (leAt q.payload 0 2)).state = 3 → ∃ t, exec (.designDiscard c) s = .next t ∧ Answered s t q stOk [] ∧ t = { s with vl := t.vl }) ∧
      ((s.design (leAt q.payload 0 2)).state < 2 → ∃ t, exec (.designDiscard c) s = .next t ∧ Answered s t q stBadState [] ∧ t = { s with vl := t.vl })) ∧
    (s.fronts c 0x0305 q → s.mode ∈ [2, 3, 5, 6, 7, 8, 9] → q.payload.length = 1 → leAt q.payload 0 1 < s.fl.entries →
      ∃ t ks, exec (.storeList c) s = .next t ∧ t = { s with vl := t.vl } ∧
        ks = ((List.range s.fl.entries).drop (leAt q.payload 0 1)).take (listRoom (s.lpLimit q.port q.v6)) ∧
        Answered s t q stOk (leBytes 1 ks.length ++ leBytes 7 0 ++ ks.flatMap s.storeEntry)) ∧
    (s.fronts c 0x0306 q → s.mode ∈ [5, 6, 7, 8, 9] → q.payload.length = 1 → leAt q.payload 0 1 < s.fl.entries →
      (∀ i, (∀ x ∈ s.fl.storeBusy, x.2 ≠ leAt q.payload 0 1) → s.tktFree = some i → ∃ t, exec (.storeErase c) s = .next t ∧ Accepted s t q i [] ∧
        (t.tkt i).work = .storeErase (leAt q.payload 0 1) ∧ t.fl = { s.fl with ops := s.fl.ops ++ [.storeErase (leAt q.payload 0 1) s.storeSectors 0 i] } ∧
        t.so = s.so ∧ t.fk = s.fk ∧ ∀ a, t.byte a = s.byte a) ∧
      ((∃ x ∈ s.fl.storeBusy, x.2 = leAt q.payload 0 1) → ∃ t, exec (.storeErase c) s = .next t ∧ Answered s t q stBadState [] ∧ t = { s with vl := t.vl }))

/-- The opcodes of the Runs group, each with its conditions on the request and the state alone. RUN_CREATE of a committed
design makes an IDLE run of the priority, tile mask and WHOLE_BAY asked for and answers its number; of another design it is
BAD_STATE. With no operation in progress and scheduling enabled, a start makes an IDLE run WAITING and, in mode 6, a READY run
RUNNING; a resume makes a SUSPENDED run, or an IDLE run marked for a restore, WAITING; a suspend makes a RUNNING run
SUSPENDING with the stop cycle asked for and a WAITING or READY run SUSPENDED with its ticket done; an end empties a run whose
bay-planes stand at a boundary and makes a RUNNING run in a cycle ENDING; a swap of a page that is not resident is entered in
the swap table and its ticket is done, and in mode 6 the swap of a resident page begins. With an operation in progress every
one of the five waits in the pending slot. A suspend with STOP 0 of a run with EXT routes, and a request for an EMPTY run, are
BAD_PARAM. RUN_COMPACT preempts every RUNNING run without EXT routes or an operation, and is done at once with no runs.
RUN_STATUS answers the run's sixteen words, RUN_SET writes priority, WHOLE_BAY and tile mask alone, and RUN_LIST answers one
bit a run. (R191, R192, R196, R197, R198, R199, R207, R208, R411) -/
def Obligations.RunOpcodes : Prop :=
  ∀ (c : Fin 64) (q : VReq) (i : Nat) (s : State), hdrOk q = true → s.mode ∈ [5, 6, 7, 8] →
    (s.fronts c 0x0400 q → q.payload.length = 8 → leAt q.payload 0 2 < 1024 → leAt q.payload 2 1 < 16 → leAt q.payload 3 1 < 2 → leAt q.payload 5 3 = 0 →
      ((s.design (leAt q.payload 0 2)).state ≠ 2 → ∃ t, exec (.runCreate c) s = .next t ∧ Answered s t q stBadState [] ∧ t = { s with vl := t.vl }) ∧
      (∀ u r, (s.taken q).runCreate c (leAt q.payload 0 2) (leAt q.payload 2 1) (maskOf (leAt q.payload 4 1)) (bitOf (leAt q.payload 3 1) 0) = (u, 0, r) →
        ∃ t, exec (.runCreate c) s = .next t ∧ Answered s t q stOk (leBytes 2 r) ∧ (t.run r).state = .idle ∧
          (t.run r).prio = leAt q.payload 2 1 ∧ (t.run r).tileMask = maskOf (leAt q.payload 4 1) ∧
          (t.run r).wholeBay = bitOf (leAt q.payload 3 1) 0 ∧ (t.run r).design = leAt q.payload 0 2)) ∧
    (∀ r, s.tktFree = some i → r < 4096 → leAt q.payload 0 2 = r → (s.run r).curOp = .none → (s.run r).pend = none → s.bit Reg.soCtrl 0 = true →
      (s.fronts c 0x0401 q → q.payload.length = 2 → (s.run r).started = false →
        ((s.run r).state = .idle → ∃ t, exec (.runStart c) s = .next t ∧
          Accepted s t q i [] ∧ (t.run r).state = .waiting ∧ (t.run r).curTkt = some i ∧ (t.tkt i).work = .runOp r ∧ ∀ a, t.byte a = s.byte a) ∧
        ((s.run r).state = .ready → s.mode = 6 → ∃ t, exec (.runStart c) s = .next t ∧ Accepted s t q i [] ∧ (t.run r).state = .running ∧
          (t.run r).started = true ∧ (t.run r).curTkt = some i ∧ ∀ a, t.byte a = s.byte a)) ∧
      (s.fronts c 0x0403 q → q.payload.length = 2 → (s.run r).state = .suspended ∨ (s.run r).state = .idle ∧ (s.run r).restoreFrom ≠ none →
        ∃ t, exec (.runResume c) s = .next t ∧ Accepted s t q i [] ∧ (t.run r).state = .waiting ∧ (t.run r).curTkt = some i ∧
          (t.tkt i).work = .runOp r ∧ ∀ a, t.byte a = s.byte a) ∧
      (s.fronts c 0x0402 q → q.payload.length = 16 → leAt q.payload 2 6 = 0 → (s.hasExt r = true → leAt q.payload 8 8 ≠ 0) →
        ((s.run r).state = .running → ∃ t, exec (.runSuspend c) s = .next t ∧ Accepted s t q i [] ∧ (t.run r).state = .suspending ∧
          (t.run r).curOp = .suspend ∧ (t.run r).curTkt = some i ∧ (t.run r).stop = leAt q.payload 8 8 ∧
          (t.run r).stops = (s.run r).stops ++ [⟨.suspend, s.stopCycle r (leAt q.payload 8 8)⟩] ∧ ∀ a, t.byte a = s.byte a) ∧
        ((s.run r).state = .waiting ∨ (s.run r).state = .ready → ∃ t, exec (.runSuspend c) s = .next t ∧ Accepted s t q i [] ∧
          (t.run r).state = .suspended ∧ (t.tkt i).state = 2 ∧ ∀ a, t.byte a = s.byte a)) ∧
      (s.fronts c 0x0402 q → q.payload.length = 16 → leAt q.payload 2 6 = 0 → (s.run r).state ≠ .empty → s.hasExt r = true → leAt q.payload 8 8 = 0 →
        ∃ t, exec (.runSuspend c) s = .next t ∧ Answered s t q stBadParam [] ∧ t = { s with vl := t.vl }) ∧
      (s.fronts c 0x0404 q → q.payload.length = 2 →
        ((s.run r).state ≠ .empty → (s.run r).state ≠ .ending → ((s.run r).state = .running → s.runAtBoundary r = true) →
          ∃ t, exec (.runEnd c) s = .next t ∧ Accepted s t q i [] ∧ (t.run r).state = .empty) ∧
        ((s.run r).state = .running → s.runAtBoundary r = false → ∃ t, exec (.runEnd c) s = .next t ∧ Accepted s t q i [] ∧
          (t.run r).state = .ending ∧ (t.run r).curOp = .endRun ∧ (t.run r).curTkt = some i ∧ ∀ a, t.byte a = s.byte a)) ∧
      (s.fronts c 0x0405 q → q.payload.length = 8 → leAt q.payload 2 2 < 2048 → leAt q.payload 4 2 < 1024 → leAt q.payload 6 2 < 2048 →
        (s.run r).state ∈ [.loading, .ready, .idle, .waiting, .running, .suspending, .suspended] →
        ∀ u h page, (s.taken q).swapCheck r { op := .swap, ticket := none, page := leAt q.payload 2 2, design := leAt q.payload 4 2, newPage := leAt q.payload 6 2 } =
          (u, 0, h, page) →
        (vPlace s.so.bps r (leAt q.payload 2 2) = none → ∃ t, exec (.runSwap c) s = .next t ∧ Accepted s t q i [] ∧ (t.tkt i).state = 2 ∧
          ((s.design (s.run r).design).cfgBase + leAt q.payload 2 2 ≠ h → ∃ e ∈ t.so.swaps, e.2 = ⟨r, leAt q.payload 2 2, h⟩)) ∧
        (vPlace s.so.bps r (leAt q.payload 2 2) ≠ none → s.mode = 6 → ∃ t, exec (.runSwap c) s = .next t ∧ Accepted s t q i [] ∧
          (t.run r).curOp = .swap ∧ (t.run r).curTkt = some i))) ∧
    (∀ r, s.tktFree = some i → r < 4096 → leAt q.payload 0 2 = r → (s.run r).state ≠ .empty → (s.run r).curOp ≠ .none →
      (q.payload.length = 2 →
        (s.fronts c 0x0401 q → ∃ t, exec (.runStart c) s = .next t ∧ Accepted s t q i [] ∧
          (t.run r).pend = some { op := .start, ticket := some i } ∧ (t.run r).state = (s.run r).state ∧ ∀ a, t.byte a = s.byte a) ∧
        (s.fronts c 0x0403 q → ∃ t, exec (.runResume c) s = .next t ∧ Accepted s t q i [] ∧
          (t.run r).pend = some { op := .start, ticket := some i, isResume := true } ∧ (t.run r).state = (s.run r).state ∧ ∀ a, t.byte a = s.byte a) ∧
        (s.fronts c 0x0404 q → ∃ t, exec (.runEnd c) s = .next t ∧ Accepted s t q i [] ∧
          (t.run r).pend = some { op := .endRun, ticket := some i } ∧ (t.run r).state = (s.run r).state ∧ ∀ a, t.byte a = s.byte a)) ∧
      (s.fronts c 0x0402 q → q.payload.length = 16 → leAt q.payload 2 6 = 0 → (s.hasExt r = true → leAt q.payload 8 8 ≠ 0) →
        ∃ t, exec (.runSuspend c) s = .next t ∧ Accepted s t q i [] ∧ (t.run r).state = (s.run r).state ∧
          (t.run r).pend = some { op := .suspend, ticket := some i, stop := leAt q.payload 8 8 } ∧ ∀ a, t.byte a = s.byte a) ∧
      (s.fronts c 0x0405 q → q.payload.length = 8 → leAt q.payload 2 2 < 2048 → leAt q.payload 4 2 < 1024 → leAt q.payload 6 2 < 2048 →
        ∃ t, exec (.runSwap c) s = .next t ∧ Accepted s t q i [] ∧ (t.run r).state = (s.run r).state ∧
          (t.run r).pend = some { op := .swap, ticket := some i, page := leAt q.payload 2 2, design := leAt q.payload 4 2, newPage := leAt q.payload 6 2 })) ∧
    (q.payload.length = 2 → leAt q.payload 0 2 < 4096 → (s.run (leAt q.payload 0 2)).state = .empty →
      (s.fronts c 0x0401 q → ∃ t, exec (.runStart c) s = .next t ∧ Answered s t q stBadParam [] ∧ t = { s with vl := t.vl }) ∧
      (s.fronts c 0x0403 q → ∃ t, exec (.runResume c) s = .next t ∧ Answered s t q stBadParam [] ∧ t = { s with vl := t.vl }) ∧
      (s.fronts c 0x0404 q → ∃ t, exec (.runEnd c) s = .next t ∧ Answered s t q stBadParam [] ∧ t = { s with vl := t.vl })) ∧
    (s.fronts c 0x0406 q → q.payload = [] → s.mode = 6 → s.tktFree = some i → ∃ t, exec (.runCompact c) s = .next t ∧ Accepted s t q i [] ∧
      (s.so.runs = [] → (t.tkt i).state = 2) ∧
      (∀ e ∈ s.so.runs, e.2.state = .running → e.2.curOp = .none → s.hasExt e.1 = false →
        (t.run e.1).state = .suspending ∧ (t.run e.1).curOp = .preempt ∧ (i, e.1) ∈ t.so.compactRuns)) ∧
    (s.fronts c 0x0407 q → q.payload.length = 2 → leAt q.payload 0 2 < 4096 → (s.run (leAt q.payload 0 2)).state ≠ .empty →
      ∃ t, exec (.runStatus c) s = .next t ∧ t = { s with vl := t.vl } ∧
        Answered s t q stOk ((List.range 16).flatMap (fun w => leBytes 4 (s.runWord (leAt q.payload 0 2) w)))) ∧
    (s.fronts c 0x0408 q → q.payload.length = 8 → leAt q.payload 0 2 < 4096 → (s.run (leAt q.payload 0 2)).state ≠ .empty →
      leAt q.payload 2 1 < 16 → leAt q.payload 3 1 < 2 → leAt q.payload 5 3 = 0 → ∃ t, exec (.runSet c) s = .next t ∧ Answered s t q stOk [] ∧
        t.run (leAt q.payload 0 2) = { s.run (leAt q.payload 0 2) with
          prio := leAt q.payload 2 1, wholeBay := bitOf (leAt q.payload 3 1) 0, tileMask := maskOf (leAt q.payload 4 1) } ∧
        (∀ r, r ≠ leAt q.payload 0 2 → t.run r = s.run r) ∧ t = { s with vl := t.vl, so := t.so }) ∧
    (s.fronts c 0x0409 q → q.payload = [] → ∃ t p, exec (.runList c) s = .next t ∧ Answered s t q stOk p ∧ p.length = 512 ∧
      (∀ r, r < 4096 → bitOf ((p.getD (r / 8) 0).toNat) (r % 8) = decide ((s.run r).state ≠ .empty)) ∧ t = { s with vl := t.vl })

/-- The opcodes of the Memory and register access group and of the Debug group, for every request in range, with its reserved
ticket entry. READ, WRITE, READ_LIST and WRITE_LIST make a job of their pieces, whose first piece that decodes is at once
outstanding for master 0x08 when its destination's stamp is held and an entry is free, and otherwise waits with nothing else
changed; a one-piece READ or WRITE that nothing decodes is answered BUS_ERROR with CAUSE 1; a READ beyond the address space is
BAD_PARAM. FILL is ACCEPTED with its ticket and fills in order from its first piece. DBG_READ and DBG_WRITE put their first
word's access at the end of the debug engine's queue, a peek unless CONSUME = 1, and DBG_CORE a write of its core's
DBG_Cc_CTRL with its action's bit and the other fields as they stand; a halt of a core above 3, and an action above 2, are
BAD_PARAM. (R256, R389, R412, R413, R421) -/
def Obligations.AccessOpcodes : Prop :=
  ∀ (c : Fin 64) (q : VReq) (i : Nat) (s : State), hdrOk q = true → s.mode ∈ allModes → q.resv = some i → i < 4096 →
    (∀ n, s.fronts c 0x0500 q → q.payload.length = 12 → leAt q.payload 8 4 = n → 1 ≤ n → n ≤ s.lpLimit q.port q.v6 - 16 →
      (leAt q.payload 0 8 + n ≤ 2 ^ 48 → s.decodes (leAt q.payload 0 8) = true →
        s.stampHeld (s.stopOf (leAt q.payload 0 8)) 0 = 0 ∨ s.freeTag 0 = none → ∃ t j, exec (.read c) s = .next t ∧
          t.vl.handed = s.vl.handed.erase q ∧ t.job s.vl.nextJob = some j ∧ j.kind = .read ∧ j.req = q ∧ j.ticket = i ∧
          (j.pieces.map (fun p => p.len)).sum = n ∧ t.vl.replies = s.vl.replies ∧ t = { s with vl := t.vl }) ∧
      (∀ g, leAt q.payload 0 8 + n ≤ 2 ^ 48 → s.decodes (leAt q.payload 0 8) = true →
        0 < s.stampHeld (s.stopOf (leAt q.payload 0 8)) 0 → s.freeTag 0 = some g → ∃ t e, exec (.read c) s = .next t ∧
          SMap.find t.rnd.out g = some e ∧ e.origin = .job s.vl.nextJob 0 ∧ e.pkt.kind = .readReq ∧ e.pkt.addr = leAt q.payload 0 8 ∧
          e.pkt.len = min n (256 - leAt q.payload 0 8 % 256) ∧ e.pkt.peek = false ∧ e.pkt.mid = 0x08 ∧ t.vl.replies = s.vl.replies) ∧
      (leAt q.payload 0 8 % 256 + n ≤ 256 → leAt q.payload 0 8 + n ≤ 2 ^ 48 → s.decodes (leAt q.payload 0 8) = false →
        ∃ t, exec (.read c) s = .next t ∧ Answered s t q stBusError (leBytes 4 0 ++ leBytes 1 1 ++ leBytes 1 1 ++ leBytes 2 0)) ∧
      (2 ^ 48 < leAt q.payload 0 8 + n → ∃ t, exec (.read c) s = .next t ∧ Answered s t q stBadParam [] ∧ t = { s with vl := t.vl })) ∧
    (∀ n, s.fronts c 0x0501 q → q.payload.length = 8 + n → 1 ≤ n → leAt q.payload 0 8 + n ≤ 2 ^ 48 →
      (s.decodes (leAt q.payload 0 8) = true → s.stampHeld (s.stopOf (leAt q.payload 0 8)) 0 = 0 ∨ s.freeTag 0 = none → ∃ t j,
        exec (.write c) s = .next t ∧ t.job s.vl.nextJob = some j ∧ j.kind = .write ∧ j.req = q ∧
        (j.pieces.flatMap (fun p => p.wdata)) = q.payload.drop 8 ∧ t = { s with vl := t.vl }) ∧
      (∀ g, s.decodes (leAt q.payload 0 8) = true → 0 < s.stampHeld (s.stopOf (leAt q.payload 0 8)) 0 → s.freeTag 0 = some g →
        ∃ t e, exec (.write c) s = .next t ∧ SMap.find t.rnd.out g = some e ∧ e.origin = .job s.vl.nextJob 0 ∧ e.pkt.kind = .writeReq ∧
          e.pkt.addr = leAt q.payload 0 8 ∧ e.pkt.data = (q.payload.drop 8).take (256 - leAt q.payload 0 8 % 256) ∧ e.pkt.mid = 0x08 ∧
          t.vl.replies = s.vl.replies) ∧
      (leAt q.payload 0 8 % 256 + n ≤ 256 → s.decodes (leAt q.payload 0 8) = false →
        ∃ t, exec (.write c) s = .next t ∧ Answered s t q stBusError (leBytes 4 0 ++ leBytes 1 1 ++ leBytes 1 1 ++ leBytes 2 0))) ∧
    (s.decodes (leAt q.payload 0 8) = true →
      (s.fronts c 0x0502 q → listOk 8 128 q.payload = true →
        (s.stampHeld (s.stopOf (leAt q.payload 0 8)) 0 = 0 ∨ s.freeTag 0 = none → ∃ t j, exec (.readList c) s = .next t ∧
          t.job s.vl.nextJob = some j ∧ j.kind = .readList ∧ j.req = q ∧ t = { s with vl := t.vl } ∧
          j.pieces.map (fun p => (p.addr, p.len)) = (listEntries 8 q.payload).map (fun e => (leAt e 0 8, 4))) ∧
        (∀ g, 0 < s.stampHeld (s.stopOf (leAt q.payload 0 8)) 0 → s.freeTag 0 = some g → ∃ t e, exec (.readList c) s = .next t ∧
          SMap.find t.rnd.out g = some e ∧ e.origin = .job s.vl.nextJob 0 ∧ e.pkt.kind = .readReq ∧ e.pkt.addr = leAt q.payload 0 8 ∧ e.pkt.len = 4)) ∧
      (s.fronts c 0x0503 q → listOk 16 64 q.payload = true → (listEntries 16 q.payload).all (fun e => zeroAt e 12 4) = true →
        (s.stampHeld (s.stopOf (leAt q.payload 0 8)) 0 = 0 ∨ s.freeTag 0 = none → ∃ t j, exec (.writeList c) s = .next t ∧
          t.job s.vl.nextJob = some j ∧ j.kind = .writeList ∧ j.req = q ∧ t = { s with vl := t.vl } ∧
          j.pieces.map (fun p => (p.addr, p.wdata)) = (listEntries 16 q.payload).map (fun e => (leAt e 0 8, (e.drop 8).take 4))) ∧
        (∀ g, 0 < s.stampHeld (s.stopOf (leAt q.payload 0 8)) 0 → s.freeTag 0 = some g → ∃ t e, exec (.writeList c) s = .next t ∧
          SMap.find t.rnd.out g = some e ∧ e.origin = .job s.vl.nextJob 0 ∧ e.pkt.kind = .writeReq ∧ e.pkt.addr = leAt q.payload 0 8 ∧
          e.pkt.data = (q.payload.drop 8).take 4))) ∧
    (s.fronts c 0x0504 q → q.payload.length = 24 → leAt q.payload 8 8 % 64 = 0 → 1 ≤ leAt q.payload 8 8 → leAt q.payload 0 8 + leAt q.payload 8 8 ≤ 2 ^ 48 →
      ∃ t, exec (.fill c) s = .next t ∧ Accepted s t q i [] ∧ (∀ a, t.byte a = s.byte a) ∧
        (s.decodes (leAt q.payload 0 8) = true → s.stampHeld (s.stopOf (leAt q.payload 0 8)) 0 = 0 ∨ s.freeTag 0 = none →
          ∃ j, t.job s.vl.nextJob = some j ∧ j.kind = .fill ∧ j.addr = leAt q.payload 0 8 ∧ j.len = leAt q.payload 8 8 ∧ j.pattern = leAt q.payload 16 8) ∧
        (∀ g, s.decodes (leAt q.payload 0 8) = true → 0 < s.stampHeld (s.stopOf (leAt q.payload 0 8)) 0 → s.freeTag 0 = some g →
          ∃ e, SMap.find t.rnd.out g = some e ∧ e.origin = .job s.vl.nextJob 0 ∧ e.pkt.kind = .writeReq ∧ e.pkt.addr = leAt q.payload 0 8)) ∧
    (s.fronts c 0x0B00 q → q.payload.length = 16 → leAt q.payload 0 8 % 4 = 0 → 1 ≤ leAt q.payload 8 2 → leAt q.payload 8 2 ≤ (s.lpLimit q.port q.v6 - 16) / 4 →
      leAt q.payload 10 1 < 2 → leAt q.payload 11 5 = 0 → leAt q.payload 0 8 + 4 * leAt q.payload 8 2 ≤ 2 ^ 48 →
      ∃ t, exec (.dbgRead c) s = .next t ∧ t.vl.handed = s.vl.handed.erase q ∧ t.dbg.queue = s.dbg.queue ++
          [{ tap := false, write := false, consume := bitOf (leAt q.payload 10 1) 0, addr := leAt q.payload 0 8, job := s.vl.nextJob }] ∧
        (s.dbg.queue = [] → privatePath (leAt q.payload 0 8) = true → t.dbg.busy = true ∧ t = { s with vl := t.vl, dbg := t.dbg })) ∧
    (s.fronts c 0x0B01 q → 12 ≤ q.payload.length → (q.payload.length - 8) % 4 = 0 → leAt q.payload 0 8 % 4 = 0 →
      leAt q.payload 0 8 + (q.payload.length - 8) ≤ 2 ^ 48 → ∃ t, exec (.dbgWrite c) s = .next t ∧ t.vl.handed = s.vl.handed.erase q ∧
        t.dbg.queue = s.dbg.queue ++ [{ tap := false, write := true, addr := leAt q.payload 0 8, data := leAt q.payload 8 4, job := s.vl.nextJob }] ∧
        (s.dbg.queue = [] → privatePath (leAt q.payload 0 8) = true → t.dbg.busy = true ∧ t = { s with vl := t.vl, dbg := t.dbg })) ∧
    (q.payload.length = 2 → s.fronts c 0x0B02 q →
      (leAt q.payload 0 1 < 4 → ∀ w, w = [(1, Instr.dbgCoreHalt c), (2, .dbgCoreResume c), (4, .dbgCoreStep c)].getD (leAt q.payload 1 1) (0, .dbgCoreHalt c) →
        leAt q.payload 1 1 < 3 → ∃ t, exec w.2 s = .next t ∧ t.vl.handed = s.vl.handed.erase q ∧ t.dbg.queue = s.dbg.queue ++
          [{ tap := false, write := true, addr := 0x90100 + 0x100 * leAt q.payload 0 1, job := s.vl.nextJob
             data := s.fld (Reg.dbgCCtrl (leAt q.payload 0 1)) 5 3 * 8 + w.1 }] ∧
          (s.dbg.queue = [] → t.dbg.busy = true ∧ t = { s with vl := t.vl, dbg := t.dbg })) ∧
      (leAt q.payload 1 1 ≠ 1 → leAt q.payload 1 1 ≠ 2 → 4 ≤ leAt q.payload 0 1 ∨ 2 < leAt q.payload 1 1 → ∃ t, exec (.dbgCoreHalt c) s = .next t ∧ Answered s t q stBadParam [] ∧ t = { s with vl := t.vl }))

/-- The opcodes of the Streams group and the delivery of what they buffer. STREAM_OPEN with its fields in range takes the
lowest free stream with the ring, control block, direction and allotment asked for and nothing buffered, and is NO_RESOURCE
when the pool of 32,768 buffers does not hold the allotment. STREAM_DATA at the offset expected fills buffers of a stream from
the host, is BUSY without buffers, BAD_PARAM at another offset and BAD_STATE for a stream to the host. STREAM_READ of a stream
to the host answers HEAD and the bytes from there, as many as asked for, held and within L, once the new HEAD is written, and
is BAD_STATE for the other direction; STREAM_STATUS answers HEAD, TAIL, free buffers, allotment, direction, delivery and run;
STREAM_CLOSE frees the stream. While the stream's run is RUNNING, a delivery that finds no room leaves the buffers, and one
whose ring and TAIL writes succeed gives up the oldest buffers that fit. (R395, R396, R398, R414) -/
def Obligations.StreamOpcodes : Prop :=
  ∀ (c : Fin 64) (q : VReq) (s : State), s.mode ∈ [5, 6, 7, 8] → q.ticket = 0 →
    (∀ k, s.fronts c 0x0600 q → hdrOk q = true → s.streamAskOk q.payload = true → s.streamFree = some k → k < 16384 →
      (s.poolUsed + (if leAt q.payload 2 1 = 1 then 0 else leAt q.payload 4 2) ≤ 32768 → ∃ t x, exec (.streamOpen c) s = .next t ∧
        Answered s t q stOk (leBytes 2 k) ∧ t.stream k = some x ∧ x.run = leAt q.payload 0 2 ∧ x.toHost = decide (leAt q.payload 2 1 = 1) ∧
        x.ringBase = leAt q.payload 8 8 ∧ x.logSize = leAt q.payload 3 1 ∧ x.ctl = leAt q.payload 16 8 ∧
        x.allot = (if leAt q.payload 2 1 = 1 then 0 else leAt q.payload 4 2) ∧ x.nextOff = 0 ∧ x.bufs = [] ∧ t = { s with vl := t.vl }) ∧
      (32768 < s.poolUsed + (if leAt q.payload 2 1 = 1 then 0 else leAt q.payload 4 2) → ∃ t, exec (.streamOpen c) s = .next t ∧
        Answered s t q stNoResource [] ∧ t.vl.streams = s.vl.streams ∧ t = { s with vl := t.vl })) ∧
    (∀ k x, s.streamOf q = some (k, x) →
      (s.fronts c 0x0601 q → q.aux = 0 → q.payload = [] → ∃ t, exec (.streamClose c) s = .next t ∧ Answered s t q stOk [] ∧ t.stream k = none ∧
        t = { s with vl := t.vl }) ∧
      (s.fronts c 0x0602 q → q.payload ≠ [] → x.toHost = false → q.aux = x.nextOff % 2 ^ 32 → x.allot < x.bufs.length + (bufsOf q.payload).length →
        ∃ t, exec (.streamData c) s = .next t ∧ Replied s t q stBusy 0 [] ∧ t.vl.streams = s.vl.streams) ∧
      (s.fronts c 0x0602 q → q.payload ≠ [] → x.toHost = false → q.aux ≠ x.nextOff % 2 ^ 32 →
        ∃ t, exec (.streamData c) s = .next t ∧ Answered s t q stBadParam [] ∧ t = { s with vl := t.vl }) ∧
      (s.fronts c 0x0602 q → q.payload ≠ [] → x.toHost = false → q.aux = x.nextOff % 2 ^ 32 →
        x.bufs.length + (bufsOf q.payload).length ≤ x.allot → ∃ t, exec (.streamData c) s = .next t ∧ Answered s t q stOk [] ∧
          t.stream k = some { x with bufs := x.bufs ++ bufsOf q.payload, nextOff := x.nextOff + q.payload.length } ∧ t = { s with vl := t.vl }) ∧
      (s.fronts c 0x0602 q → q.payload ≠ [] → x.toHost = true → ∃ t, exec (.streamData c) s = .next t ∧ Answered s t q stBadState [] ∧
        t = { s with vl := t.vl }) ∧
      (∀ u tail head n, s.fronts c 0x0603 q → q.aux = 0 → q.payload.length = 4 → x.toHost = true → (s.taken q).ringCtl x = (u, 0, tail, head) →
        n = min (min (leAt q.payload 0 4) (ringHeld tail head)) (min (ringSize x) (u.lpLimit q.port q.v6 - 8)) →
        (n = 0 → ∃ t, exec (.streamRead c) s = .next t ∧ Answered s t q stOk (leBytes 8 head)) ∧
        (∀ v d, n ≠ 0 → u.ringGet x head n = (v, 0, d) → (v.engineAccess 0 0x08 (x.ctl + 8) 8 true (leBytes 8 (head + n))).cause = 0 →
          ∃ t, exec (.streamRead c) s = .next t ∧ Answered s t q stOk (leBytes 8 head ++ d))) ∧
      (s.fronts c 0x0603 q → q.aux = 0 → q.payload.length = 4 → x.toHost = false →
        ∃ t, exec (.streamRead c) s = .next t ∧ Answered s t q stBadState [] ∧ t = { s with vl := t.vl }) ∧
      (∀ u tail head, s.fronts c 0x0604 q → q.aux = 0 → q.payload = [] → (s.taken q).ringCtl x = (u, 0, tail, head) →
        ∃ t, exec (.streamStatus c) s = .next t ∧ Answered s t q stOk (leBytes 8 head ++ leBytes 8 tail ++ leBytes 2 (x.allot - x.bufs.length) ++
          leBytes 2 x.allot ++ leBytes 1 (b2n x.toHost) ++ leBytes 1 (b2n (s.delivers x)) ++ leBytes 2 x.run))) ∧
    (∀ (k : BitVec 14) x out, s.hubOn = true → s.stream k.toNat = some x → x.bufs ≠ [] → s.delivers x = true →
      (∀ u tail head, s.ringCtl x = (u, 0, tail, head) →
        fitting x.bufs (ringSize x - ringHeld (x.nextOff - (x.bufs.map List.length).sum) head) = out →
        (out = [] → exec (.streamDelivery k) s = .next u) ∧
        (∀ v, out ≠ [] → u.ringPut x (x.nextOff - (x.bufs.map List.length).sum) out.flatten = (v, 0) →
          (v.engineAccess 0 0x08 x.ctl 8 true (leBytes 8 (x.nextOff - (x.bufs.map List.length).sum + out.flatten.length))).cause = 0 →
          ∃ t, exec (.streamDelivery k) s = .next t ∧ t.stream k.toNat = some { x with bufs := x.bufs.drop out.length })))

/-- The opcodes of the Snapshots and triggers group, each for a request in range. SNAP_TAKE is BAD_STATE where the run's state
does not admit a snapshot and NO_RESOURCE without a free entry; once the pages are read and the segments allocated it is
ACCEPTED with the lowest free entry, captured at once for a SUSPENDED run and otherwise due. SNAP_RING removes a run's ring,
or makes one of the slots, period, memory spacing and FLUSH asked for in the run's ring or the lowest free one, and is
NO_RESOURCE without consecutive entries; SNAP_LOCK writes LOCK alone; SNAP_FREE frees an entry, but not one being captured or
pinned (BAD_STATE). SNAP_RESTORE is answered with the error of its conditions, or marks the run for the snapshot, pins it,
takes its DCC and is done. SNAP_READ answers bytes of a VALID segment from its offset to its end at most, and BAD_STATE for
another. TRIG_SET writes its unit and answers its status; TRIG_STATUS answers FIRED, LAST, LAST_GAP and every unit, and clears
FIRED; STEP releases a held RUNNING run with a stop N cycles on, and is BAD_STATE for another. (R225, R231, R234, R235, R236,
R237, R246, R247, R249, R415, R416, R417) -/
def Obligations.SnapshotOpcodes : Prop :=
  ∀ (c : Fin 64) (q : VReq) (s : State), hdrOk q = true → s.mode ∈ [5, 6, 7, 8] →
    (s.fronts c 0x0700 q → q.payload.length = 16 → leAt q.payload 0 2 < 4096 → leAt q.payload 2 1 < 4 → leAt q.payload 3 5 = 0 →
      (s.run (leAt q.payload 0 2)).state ≠ .empty →
      ((s.taken q).snapAdmits (leAt q.payload 0 2) = false → ∃ t, exec (.snapTake c) s = .next t ∧ Answered s t q stBadState [] ∧ t = { s with vl := t.vl }) ∧
      ((s.taken q).snapAdmits (leAt q.payload 0 2) = true → (∀ k < 1024, s.entryFree k = false) →
        ∃ t, exec (.snapTake c) s = .next t ∧ Answered s t q stNoResource [] ∧ t = { s with vl := t.vl }) ∧
      (∀ k i u ps v h, (s.taken q).snapAdmits (leAt q.payload 0 2) = true → (List.range 1024).find? s.entryFree = some k →
        s.tktFree = some i → (s.taken q).runPages (leAt q.payload 0 2) = (u, some ps) →
        u.segAlloc c (leAt q.payload 0 2) (bitOf (leAt q.payload 2 1) 0) ps = (.done v, h) →
        ∃ t, exec (.snapTake c) s = .next t ∧ Accepted s t q i (leBytes 2 k) ∧
          (t.snap k).run = leAt q.payload 0 2 ∧ (t.snap k).ticket = some i ∧ (t.snap k).segBase = h ∧ (t.snap k).pageCount = ps.length ∧
          (t.snap k).mem = bitOf (leAt q.payload 2 1) 0 ∧
          ((v.run (leAt q.payload 0 2)).state = .suspended → (t.snap k).state = 2) ∧
          ((v.run (leAt q.payload 0 2)).state ≠ .suspended → s.mode ≠ 8 → (t.snap k).state = 1 ∧ (t.snap k).due = true ∧
            (t.snap k).atCycle = v.snapAt (leAt q.payload 0 2) (bitOf (leAt q.payload 2 1) 1) (leAt q.payload 8 8)))) ∧
    (s.fronts c 0x0701 q → q.payload.length = 16 → leAt q.payload 0 2 < 4096 → leAt q.payload 5 1 < 2 →
      leAt q.payload 6 2 = 0 → (s.run (leAt q.payload 0 2)).state ≠ .empty →
      (∀ g, leAt q.payload 2 2 = 0 → s.ringOf (leAt q.payload 0 2) = some g → ∃ t, exec (.snapRing c) s = .next t ∧ t.ring g = none ∧
        Answered s t q stOk (leBytes 1 g ++ leBytes 1 0 ++ leBytes 2 (((s.ring g).map (fun (x : Ring) => x.first)).getD 0))) ∧
      (leAt q.payload 2 2 = 0 → s.ringOf (leAt q.payload 0 2) = none → ∃ t p, exec (.snapRing c) s = .next t ∧ Answered s t q stOk p ∧
        p.length = 4 ∧ t = { s with vl := t.vl, draw := t.draw }) ∧
      (1 ≤ leAt q.payload 2 2 → leAt q.payload 2 2 ≤ 256 → leAt q.payload 8 8 ≠ 0 →
        leAt q.payload 4 1 = 0 ∨ leAt q.payload 2 2 % leAt q.payload 4 1 = 0 →
        (∀ g first, (s.ringOf (leAt q.payload 0 2)).orElse (fun _ => (List.range 64).find? (fun g => (s.ring g).isNone)) = some g →
          s.ringRoom (s.ringOf (leAt q.payload 0 2)) (leAt q.payload 2 2) = some first → ∃ t x, exec (.snapRing c) s = .next t ∧
            Answered s t q stOk (leBytes 1 g ++ leBytes 1 0 ++ leBytes 2 first) ∧ t.ring g = some x ∧ x.run = leAt q.payload 0 2 ∧
            x.slots = leAt q.payload 2 2 ∧ x.first = first ∧ x.period = leAt q.payload 8 8 ∧ x.memEvery = leAt q.payload 4 1 ∧
            x.flush = bitOf (leAt q.payload 5 1) 0) ∧
        (s.ringRoom (s.ringOf (leAt q.payload 0 2)) (leAt q.payload 2 2) = none → ∃ t, exec (.snapRing c) s = .next t ∧
          Answered s t q stNoResource [] ∧ t = { s with vl := t.vl }))) ∧
    (s.fronts c 0x0702 q → q.payload.length = 3 → leAt q.payload 0 2 < 1024 → leAt q.payload 2 1 < 2 → (s.snap (leAt q.payload 0 2)).state ≠ 0 →
      ∃ t, exec (.snapLock c) s = .next t ∧ Answered s t q stOk [] ∧
        t.snap (leAt q.payload 0 2) = { s.snap (leAt q.payload 0 2) with lock := bitOf (leAt q.payload 2 1) 0 } ∧
        (∀ j, j ≠ leAt q.payload 0 2 → t.snap j = s.snap j) ∧ t = { s with vl := t.vl, so := t.so }) ∧
    (s.fronts c 0x0703 q → q.payload.length = 2 → leAt q.payload 0 2 < 1024 →
      ((s.snap (leAt q.payload 0 2)).state = 2 ∨ ((s.snap (leAt q.payload 0 2)).pin = true ∧ (s.snap (leAt q.payload 0 2)).state ≠ 0) →
        ∃ t, exec (.snapFree c) s = .next t ∧ Answered s t q stBadState [] ∧ t = { s with vl := t.vl }) ∧
      ((s.snap (leAt q.payload 0 2)).state ≠ 0 → (s.snap (leAt q.payload 0 2)).state ≠ 2 → (s.snap (leAt q.payload 0 2)).pin = false →
        ∃ t, exec (.snapFree c) s = .next t ∧ Answered s t q stOk [] ∧ t.snap (leAt q.payload 0 2) = { ring := (s.snap (leAt q.payload 0 2)).ring })) ∧
    (∀ i, s.fronts c 0x0704 q → q.payload.length = 8 → leAt q.payload 0 2 < 1024 → leAt q.payload 2 2 < 4096 → leAt q.payload 4 1 < 2 → leAt q.payload 5 3 = 0 →
      (s.snap (leAt q.payload 0 2)).state ≠ 0 → (s.run (leAt q.payload 2 2)).state ≠ .empty →
      ((s.taken q).restoreErr (leAt q.payload 2 2) (leAt q.payload 0 2) (bitOf (leAt q.payload 4 1) 0) ≠ 0 → ∃ t, exec (.snapRestore c) s = .next t ∧
        Answered s t q ((s.taken q).restoreErr (leAt q.payload 2 2) (leAt q.payload 0 2) (bitOf (leAt q.payload 4 1) 0)) [] ∧ t = { s with vl := t.vl }) ∧
      ((s.taken q).restoreErr (leAt q.payload 2 2) (leAt q.payload 0 2) (bitOf (leAt q.payload 4 1) 0) = 0 → s.tktFree = some i →
      ∃ t, exec (.snapRestore c) s = .next t ∧ Accepted s t q i [] ∧ (t.run (leAt q.payload 2 2)).restoreFrom = some (leAt q.payload 0 2) ∧
        (t.run (leAt q.payload 2 2)).dcc = (s.snap (leAt q.payload 0 2)).dcc ∧ (t.run (leAt q.payload 2 2)).started = true ∧
        (t.snap (leAt q.payload 0 2)).pin = true ∧ (t.tkt i).state = 2)) ∧
    (∀ u e, s.fronts c 0x0705 q → q.payload.length = 12 → leAt q.payload 0 2 < 1024 → (s.snap (leAt q.payload 0 2)).state ≠ 0 →
      leAt q.payload 2 2 < (s.snap (leAt q.payload 0 2)).pageCount → 1 ≤ leAt q.payload 8 4 → leAt q.payload 8 4 ≤ s.lpLimit q.port q.v6 - 8 →
      (s.taken q).pmGet ((s.snap (leAt q.payload 0 2)).segBase + leAt q.payload 2 2) (s.snap (leAt q.payload 0 2)).run = (u, e) →
      (e.stat ≠ 1 → ∃ t, exec (.snapRead c) s = .next t ∧ Answered s t q stBadState []) ∧
      (∀ h len, e.stat = 1 → u.dramRead (granAddr e.stack e.granule) 64 0x20 = h → h.cause = 0 →
        len = min (leAt q.payload 8 4) (64 + leAt h.data 0x1C 4 - leAt q.payload 4 4) →
        (len = 0 → ∃ t, exec (.snapRead c) s = .next t ∧ Answered s t q stOk (leBytes 8 0)) ∧
        (∀ g, 0 < len → h.st.dramRead (granAddr e.stack e.granule + leAt q.payload 4 4) len 0x20 = g → g.cause = 0 →
          ∃ t, exec (.snapRead c) s = .next t ∧ Answered s t q stOk (leBytes 4 len ++ leBytes 4 0 ++ g.data)))) ∧
    (s.fronts c 0x0706 q → q.payload.length = 300 → leAt q.payload 0 1 < 64 → leAt q.payload 1 3 = 0 → ∃ t, exec (.trigSet c) s = .next t ∧
      t = { (s.taken q).trigSet (leAt q.payload 0 1) q.payload with vl := t.vl } ∧
      Answered s t q stOk (leBytes 4 (((s.taken q).trigSet (leAt q.payload 0 1) q.payload).rd (Reg.trgStat (leAt q.payload 0 1))))) ∧
    (s.fronts c 0x0707 q → q.payload = [] → ∃ t, exec (.trigStatus c) s = .next t ∧ Answered s t q stOk
        (leBytes 8 (s.rd64 Reg.trgFiredLo Reg.trgFiredHi) ++ leBytes 4 (s.rd Reg.trgLast) ++ leBytes 4 (s.rd Reg.trgLastGap) ++
          (List.range 64).flatMap (fun u => leBytes 4 (s.rd (Reg.trgStat u)) ++ leBytes 8 (s.rd64 (Reg.trgFireDccLo u) (Reg.trgFireDccHi u)))) ∧
      t.rd Reg.trgFiredLo = 0 ∧ t.rd Reg.trgFiredHi = 0 ∧ t = { s with regs := t.regs, vl := t.vl }) ∧
    (∀ i, s.fronts c 0x0708 q → s.mode = 8 → q.payload.length = 6 → leAt q.payload 0 2 < 4096 → leAt q.payload 2 1 < 2 → leAt q.payload 3 1 = 0 →
      1 ≤ leAt q.payload 4 2 → (s.run (leAt q.payload 0 2)).state ≠ .empty →
      (s.stepOk (leAt q.payload 0 2) = false → ∃ t, exec (.step c) s = .next t ∧ Answered s t q stBadState [] ∧ t = { s with vl := t.vl }) ∧
      (s.stepOk (leAt q.payload 0 2) = true → s.tktFree = some i → ∃ t, exec (.step c) s = .next t ∧ Accepted s t q i [] ∧
        (t.run (leAt q.payload 0 2)).held = false ∧ SMap.find t.so.steps (leAt q.payload 0 2) = some (i, s.dccOf (leAt q.payload 0 2)) ∧
        ⟨.step, s.dccOf (leAt q.payload 0 2) + leAt q.payload 4 2⟩ ∈ (t.run (leAt q.payload 0 2)).stops))

/-- The opcodes of the Update group. UPDATE_BEGIN in staging state 0 with no promotion and no staging active, for at most 16
MiB, moves to state 1 with staging empty under its ticket, and in another state or for a longer image is BAD_STATE.
UPDATE_DATA of the bytes expected next is taken while the piece buffer holds it. UPDATE_END with bytes missing fails its
ticket with TRUNCATED, with an image that does not frank with the franking's status, and with one that franks stages it with
NEXT 1 and STAGE 3 and ends the ticket done; for another handle it is BAD_STATE. UPDATE_STATUS answers versions, image and
staging. UPDATE_DISCARD in states 1 to 3 abandons a live writing ticket and queues the erase of staging, else BAD_STATE.
UPDATE_REVERT stages the fallback in state 0 outside a promotion (its copy is taken as immediate, log entry 63), withdraws a
trial in state 4, and is BAD_STATE otherwise. SETTINGS_READ answers a value, BAD_PARAM for an unknown key, and SETTINGS_WRITE
queues one to be written. The opcodes of the Event log group. LOG_READ answers the whole records at or after its cursor that
fit into the length asked for and L, each with its cursor, the cursor after the last, and whether the first lies past the
cursor asked for; LOG_CLEAR is accepted and waits for the next strobe with the records as they stand; LOG_STATUS answers the
records held at each severity, the records discarded, the oldest and the next cursor and the bytes held. (R418, R494, R498,
R500, R419, R503, R513, R514) -/
def Obligations.UpdateAndLogOpcodes : Prop :=
  (∀ (c : Fin 64) (q : VReq) (s : State), hdrOk q = true → s.mode ∈ [5, 6, 7, 8, 9] →
    (s.fronts c 0x0800 q → q.payload.length = 8 → s.bootRec.promote = 0 → s.fl.stg = none →
      (∀ i, s.bootRec.stage = 0 → leAt q.payload 0 8 ≤ 0x1000000 → s.tktFree = some i → ∃ t, exec (.updateBegin c) s = .next t ∧ Accepted s t q i [] ∧
        t.bootRec.stage = 1 ∧ t.fl.staging = [] ∧ t.fl.stg = some { ticket := i, len := leAt q.payload 0 8 } ∧ ∀ a, t.byte a = s.byte a) ∧
      (s.bootRec.stage ≠ 0 ∨ 0x1000000 < leAt q.payload 0 8 → ∃ t, exec (.updateBegin c) s = .next t ∧ Answered s t q stBadState [] ∧ t = { s with vl := t.vl })) ∧
    (∀ g, s.fronts c 0x0801 q → 17 ≤ q.payload.length → leAt q.payload 4 4 = 0 → s.stgOf (leAt q.payload 0 4) = some g → leAt q.payload 8 8 = g.got →
      g.got + (q.payload.length - 16) ≤ g.len → (stageWaiting s.fl.ops).length + (q.payload.length - 16) ≤ pieceBuf →
      ∃ t, exec (.updateData c) s = .next t ∧ Answered s t q stOk [] ∧ t.fl.ops = s.fl.ops ++ [.stage (q.payload.drop 16)] ∧
        t.fl.stg = some { g with got := g.got + (q.payload.length - 16) } ∧ t = { s with vl := t.vl, fl := t.fl }) ∧
    (s.fronts c 0x0802 q → q.payload.length = 4 →
      (∀ g, s.stgOf (leAt q.payload 0 4) = some g →
        (g.got < g.len → ∃ t, exec (.updateEnd c) s = .next t ∧ Answered s t q stOk [] ∧ t.fl.stg = none ∧ (t.tkt g.ticket).state = 3 ∧
          (t.tkt g.ticket).err = stTruncated) ∧
        (g.len ≤ g.got → s.fwCheck (s.fl.staging ++ stageWaiting s.fl.ops) ≠ 0 → ∃ t, exec (.updateEnd c) s = .next t ∧ Answered s t q stOk [] ∧
          t.fl.stg = none ∧ (t.tkt g.ticket).state = 3 ∧ (t.tkt g.ticket).err = s.fwCheck (s.fl.staging ++ stageWaiting s.fl.ops)) ∧
        (g.len ≤ g.got → s.fwCheck (s.fl.staging ++ stageWaiting s.fl.ops) = 0 → ∃ t, exec (.updateEnd c) s = .next t ∧ Answered s t q stOk [] ∧
          t.fl.stg = none ∧ (t.tkt g.ticket).state = 2 ∧ t.bootRec.next = 1 ∧ t.bootRec.stage = 3 ∧
          t.fl.staging = s.fl.staging ++ stageWaiting s.fl.ops)) ∧
      (s.stgOf (leAt q.payload 0 4) = none → ∃ t, exec (.updateEnd c) s = .next t ∧ Answered s t q stBadState [] ∧ t = { s with vl := t.vl })) ∧
    (s.fronts c 0x0803 q → q.payload = [] → ∃ t, exec (.updateStatus c) s = .next t ∧ t = { s with vl := t.vl } ∧
      Answered s t q stOk (leBytes 4 s.bootRec.verA ++ leBytes 4 s.bootRec.verS ++ leBytes 4 s.bootRec.verF ++ leBytes 1 (b2n (s.pw.image = 3)) ++
        leBytes 1 s.bootRec.stage ++ leBytes 2 0)) ∧
    (s.fronts c 0x0804 q → q.payload = [] →
      (∀ i, 1 ≤ s.bootRec.stage → s.bootRec.stage ≤ 3 → s.fl.ops.any isStageErase = false → s.tktFree = some i →
        ∃ t, exec (.updateDiscard c) s = .next t ∧ Accepted s t q i [] ∧ t.fl.stg = none ∧
          t.fl.ops = s.fl.ops.filter notStage ++ [.stageErase (max 1 (sectorsOf s.fl.staging.length)) 0 i] ∧
          (∀ g, s.fl.stg = some g → g.ticket ≠ i → tktLive (s.tkt g.ticket) = true → (t.tkt g.ticket).state = 5) ∧ ∀ a, t.byte a = s.byte a) ∧
      (s.bootRec.stage = 0 ∨ 4 ≤ s.bootRec.stage → ∃ t, exec (.updateDiscard c) s = .next t ∧ Answered s t q stBadState [] ∧ t = { s with vl := t.vl })) ∧
    (s.fronts c 0x0805 q → q.payload = [] →
      (s.bootRec.stage = 0 → s.bootRec.promote = 0 → ∃ t, exec (.updateRevert c) s = .next t ∧ Answered s t q stOk [] ∧ t.fl.staging = s.fl.fallback ∧
        t.bootRec.stage = 3 ∧ t.bootRec.next = 1) ∧
      (s.bootRec.stage = 4 → ∃ t, exec (.updateRevert c) s = .next t ∧ Answered s t q stOk [] ∧ t.bootRec.stage = 2 ∧ t.bootRec.next = 0) ∧
      (s.bootRec.stage ≠ 4 → s.bootRec.stage ≠ 0 ∨ s.bootRec.promote ≠ 0 → ∃ t, exec (.updateRevert c) s = .next t ∧ Answered s t q stBadState [] ∧
        t = { s with vl := t.vl })) ∧
    (s.fronts c 0x0806 q → q.payload.length = 2 → settingsKey (leAt q.payload 0 2) = false → ∃ t, exec (.settingsRead c) s = .next t ∧
      Answered s t q stBadParam [] ∧ t = { s with vl := t.vl }) ∧
    (s.fronts c 0x0806 q → q.payload.length = 2 → settingsKey (leAt q.payload 0 2) = true → ∃ t, exec (.settingsRead c) s = .next t ∧
      Answered s t q stOk (leBytes 2 (SMap.get s.settings (leAt q.payload 0 2) []).length ++ leBytes 2 0 ++ SMap.get s.settings (leAt q.payload 0 2) []) ∧
      t = { s with vl := t.vl }) ∧
    (∀ i, s.fronts c 0x0807 q → 4 ≤ q.payload.length → q.payload.length = 4 + leAt q.payload 2 2 → leAt q.payload 2 2 ≤ 256 →
      settingsKey (leAt q.payload 0 2) = true → s.tktFree = some i → ∃ t, exec (.settingsWrite c) s = .next t ∧ Accepted s t q i [] ∧
        t.fl.ops = s.fl.ops ++ [.settings (leAt q.payload 0 2) (q.payload.drop 4) (some i)] ∧ ∀ a, t.byte a = s.byte a)) ∧
  (∀ (c : Fin 64) (q : VReq) (s : State), hdrOk q = true → s.mode ∈ allModes →
    (s.fronts c 0x0900 q → q.payload.length = 8 → ∃ t rs, exec (.logRead c) s = .next t ∧ t = { s with vl := t.vl } ∧
      rs = recsIn (s.evFrom (leAt q.payload 0 4)) (min (leAt q.payload 4 4) (s.lpLimit q.port q.v6 - 8)) ∧
      Answered s t q stOk (leBytes 4 (match rs.getLast? with | some r => (r.cursor + 1) % 2 ^ 32 | none => leAt q.payload 0 4) ++
        leBytes 2 rs.length ++ leBytes 2 (b2n (match rs.head? with | some r => decide (r.cursor ≠ leAt q.payload 0 4) | none => false)) ++
        rs.flatMap (fun r => leBytes 4 r.cursor ++ recBytes r))) ∧
    (∀ i, s.fronts c 0x0901 q → q.payload.length = 1 → leAt q.payload 0 1 < 8 → s.tktFree = some i → ∃ t, exec (.logClear c) s = .next t ∧
      Accepted s t q i [] ∧ t.ev.clears = s.ev.clears ++ [(leAt q.payload 0 1, i)] ∧ t.ev.slots = s.ev.slots ∧ ∀ a, t.byte a = s.byte a) ∧
    (s.fronts c 0x0902 q → q.payload = [] → ∃ t, exec (.logStatus c) s = .next t ∧ t = { s with vl := t.vl } ∧
      Answered s t q stOk ((List.range 8).flatMap (fun v => leBytes 4 (s.heldAt v)) ++ leBytes 4 s.ev.discarded ++
        leBytes 4 (match s.evOldest with | some e => e.2.cursor | none => s.ev.cursor) ++ leBytes 4 s.ev.cursor ++
        leBytes 4 ((s.ev.slots.map (fun (e : Nat × EvRec) => (recBytes e.2).length)).sum))))

/-- The opcodes of the Lanes and Courier group, each for a request in range. LANE_STATUS answers sixteen entries, each with
the lane's state, group, loopback kind and corrected symbols, all zero while CRn is off. LINK_CONFIG, where no run with EXT
routes has pages in the tile (op 3 aside): with CRn on, op 0 turns every lane and the link off and powers CRn down; op 1 of an
accepted block from link state 0 holds the block in CR_CFG and trains under its ticket, and of a refused one ends failed with
BAD_PARAM; op 2 from link state 2 sends DLP_ENTER in every group in service, or enters deep low-power at once with none; op 3
from link state 3 trains again; an op that the link's state does not take fails with BAD_STATE. With CRn off, op 0 is done at
once and the others wait, one at a time, for it to wake. An EXT run makes ops 0 to 2 BAD_STATE. LANE_LOOPBACK sets a lane of
state 0 or 4, clears one in loopback with kind 0, is BAD_STATE otherwise, and waits for CRn to wake. LANE_RETIRE of a lane in
service asks the peer on every lane of the group in service and answers later; it is BAD_PARAM for a lane not in service and
NO_RESOURCE without a usable spare. (R406, R420, R430, R438, R439, R445, R449, R463, R464) -/
def Obligations.LaneOpcodes : Prop :=
  ∀ (c : Fin 64) (q : VReq) (n i : Nat) (s : State), hdrOk q = true → leAt q.payload 0 1 = n → n < 8 →
    (s.fronts c 0x0A00 q → s.mode ∈ [2, 5, 6, 7, 8, 9, 10] → q.payload.length = 1 → ∃ t, exec (.laneStatus c) s = .next t ∧ t = { s with vl := t.vl } ∧
      Answered s t q stOk ((List.range 16).flatMap (fun l => if s.domOn (domCr n) then
        leBytes 1 (s.laneSt n l) ++ leBytes 1 ((s.grpOf n l).getD 0) ++ leBytes 1 (s.fld (Reg.crLStat n l) 27 26) ++ leBytes 1 0 ++
          leBytes 4 (s.crl n l).corrLast else leBytes 8 0))) ∧
    (s.mode ∈ [6, 7, 9] → q.payload.length = 68 → leAt q.payload 2 2 = 0 → s.fronts c 0x0A01 q → s.tktFree = some i → (s.crt n).ticket ≠ some i →
      (s.extTile n = true →
        (leAt q.payload 1 1 = 0 → ∃ t, exec (.linkConfigOff c) s = .next t ∧ Answered s t q stBadState [] ∧ t = { s with vl := t.vl }) ∧
        (leAt q.payload 1 1 = 1 → ∃ t, exec (.linkConfigTrain c) s = .next t ∧ Answered s t q stBadState [] ∧ t = { s with vl := t.vl }) ∧
        (leAt q.payload 1 1 = 2 → ∃ t, exec (.linkConfigEnterDlp c) s = .next t ∧ Answered s t q stBadState [] ∧ t = { s with vl := t.vl })) ∧
      (s.domOn (domCr n) = true →
        (leAt q.payload 1 1 = 0 → s.extTile n = false → ∃ t, exec (.linkConfigOff c) s = .next t ∧ Accepted s t q i [] ∧ t.crLink n = 0 ∧
          (∀ l, l < 16 → t.laneSt n l = 0) ∧ (t.dom (domCr n)).ph = 3 ∧ (t.tkt i).state = 2 ∧ ∀ a, t.byte a = s.byte a) ∧
        (leAt q.payload 1 1 = 1 → s.extTile n = false →
          (cfgAccepted (cfgWords q.payload) = true → s.crLink n = 0 → ∃ t, exec (.linkConfigTrain c) s = .next t ∧
            Accepted s t q i [] ∧ t.crLink n = 1 ∧ (t.crt n).ticket = some i ∧ (t.tkt i).state = 1 ∧
            (∀ k, k < 16 → t.rd (Reg.crCfg n k) = leAt q.payload (4 + 4 * k) 4)) ∧
          (cfgAccepted (cfgWords q.payload) = false → ∃ t, exec (.linkConfigTrain c) s = .next t ∧ Accepted s t q i [] ∧ (t.tkt i).state = 3 ∧
            (t.tkt i).err = stBadParam ∧ t.crLink n = s.crLink n ∧ ∀ k, k < 16 → t.rd (Reg.crCfg n k) = s.rd (Reg.crCfg n k)) ∧
          (cfgAccepted (cfgWords q.payload) = true → s.crLink n ≠ 0 → ∃ t, exec (.linkConfigTrain c) s = .next t ∧ Accepted s t q i [] ∧
            (t.tkt i).state = 3 ∧ (t.tkt i).err = stBadState ∧ t.crLink n = s.crLink n)) ∧
        (leAt q.payload 1 1 = 2 → s.extTile n = false →
          (s.crLink n = 2 → (List.range 8).all (fun g => !s.inService n g) = true →
            ∃ t, exec (.linkConfigEnterDlp c) s = .next t ∧ Accepted s t q i [] ∧ t.crLink n = 3 ∧ (t.tkt i).state = 2) ∧
          (s.crLink n = 2 → (List.range 8).all (fun g => !s.inService n g) = false → ∃ t, exec (.linkConfigEnterDlp c) s = .next t ∧
            Accepted s t q i [] ∧ t.crLink n = 2 ∧ (t.tkt i).state = 1 ∧ (t.crt n).ticket = some i ∧ ∀ g, g < 8 → s.inService n g = true →
              (t.crg n g).dlpWait = true ∧ (t.crg n g).ctl = (s.crg n g).ctl ++ [(99, .dlpEnter)]) ∧
          (s.crLink n ≠ 2 → ∃ t, exec (.linkConfigEnterDlp c) s = .next t ∧ Accepted s t q i [] ∧ (t.tkt i).state = 3 ∧
            (t.tkt i).err = stBadState ∧ t.crLink n = s.crLink n)) ∧
        (leAt q.payload 1 1 = 3 →
          (s.crLink n = 3 → ∃ t, exec (.linkConfigExit c) s = .next t ∧ Accepted s t q i [] ∧ t.crLink n = 1 ∧
            (t.crt n).exiting = true ∧ (t.crt n).ticket = some i ∧ (t.tkt i).state = 1) ∧
          (s.crLink n ≠ 3 → ∃ t, exec (.linkConfigExit c) s = .next t ∧ Accepted s t q i [] ∧ (t.tkt i).state = 3 ∧
            (t.tkt i).err = stBadState ∧ t.crLink n = s.crLink n))) ∧
      (s.domOn (domCr n) = false →
        (leAt q.payload 1 1 = 0 → s.extTile n = false → ∃ t, exec (.linkConfigOff c) s = .next t ∧ Accepted s t q i [] ∧ (t.tkt i).state = 2 ∧
          (t.crt n).waitOp = none ∧ (t.crt n).ticket = none) ∧
        ((s.crt n).waitOp = none →
          (leAt q.payload 1 1 = 1 → s.extTile n = false → cfgAccepted (cfgWords q.payload) = true → ∃ t, exec (.linkConfigTrain c) s = .next t ∧
            Accepted s t q i [] ∧ (t.crt n).waitOp = some (1, (cfgWords q.payload).map (BitVec.ofNat 32)) ∧ (t.crt n).ticket = some i) ∧
          (leAt q.payload 1 1 = 2 → s.extTile n = false → ∃ t, exec (.linkConfigEnterDlp c) s = .next t ∧
            Accepted s t q i [] ∧ (t.crt n).waitOp = some (2, []) ∧ (t.crt n).ticket = some i) ∧
          (leAt q.payload 1 1 = 3 → ∃ t, exec (.linkConfigExit c) s = .next t ∧
            Accepted s t q i [] ∧ (t.crt n).waitOp = some (3, []) ∧ (t.crt n).ticket = some i)) ∧
        ((s.crt n).waitOp ≠ none → leAt q.payload 1 1 = 3 → ∃ t, exec (.linkConfigExit c) s = .next t ∧ Accepted s t q i [] ∧
          (t.tkt i).state = 3 ∧ (t.tkt i).err = stBadState ∧ t.cr = s.cr))) ∧
    (∀ l k, s.fronts c 0x0A02 q → s.mode = 9 → q.payload.length = 3 → leAt q.payload 1 1 = l → l < 16 → leAt q.payload 2 1 = k → k < 4 →
      (s.domOn (domCr n) = true →
        (1 ≤ k → s.laneSt n l = 0 ∨ s.laneSt n l = 4 → ∃ t, exec (.laneLoopback c) s = .next t ∧ Answered s t q stOk [] ∧
          t.laneSt n l = 6 ∧ t.fld (Reg.crLStat n l) 27 26 = k ∧ t = { s with regs := t.regs, vl := t.vl }) ∧
        (k = 0 → s.laneSt n l = 6 → ∃ t, exec (.laneLoopback c) s = .next t ∧ Answered s t q stOk [] ∧ t.rd (Reg.crLStat n l) = 0 ∧
          t = { s with regs := t.regs, vl := t.vl }) ∧
        ((k = 0 ∧ s.laneSt n l ≠ 6) ∨ (1 ≤ k ∧ s.laneSt n l ≠ 0 ∧ s.laneSt n l ≠ 4) → ∃ t, exec (.laneLoopback c) s = .next t ∧
          Answered s t q stBadState [] ∧ t = { s with vl := t.vl })) ∧
      (s.domOn (domCr n) = false → (s.crt n).waitOp = none → 1 ≤ k → ∃ t, exec (.laneLoopback c) s = .next t ∧ Answered s t q stOk [] ∧
        (t.crt n).waitOp = some (6, [BitVec.ofNat 32 l, BitVec.ofNat 32 k]))) ∧
    (∀ l, s.fronts c 0x0A03 q → s.mode ∈ [6, 7, 8, 9, 10] → q.payload.length = 2 → leAt q.payload 1 1 = l → l < 16 →
      (∀ g, s.grpOf n l = some g → s.laneSt n l = 2 → (grpData (s.grpWord n g)).contains l = true →
        (s.spareOk n g = true → (s.crg n g).move = none →
          ∃ t, exec (.laneRetire c) s = .next t ∧ t.vl.handed = s.vl.handed.erase q ∧ t.vl.replies = s.vl.replies ∧ (t.crg n g).retire = some q ∧
            (t.crg n g).move = some { lane := l, kind := 1 } ∧
            (t.crg n g).ctl = (s.crg n g).ctl ++ ((grpLanes (s.grpWord n g)).filter (fun k => s.laneSt n k = 2)).map
              (fun k => (k, .takeoverReq (l - bitsOf (s.grpWord n g) 3 0))) ∧ t = { s with vl := t.vl, cr := t.cr }) ∧
        (s.spareOk n g = false ∨ (s.crg n g).move ≠ none → ∃ t, exec (.laneRetire c) s = .next t ∧ Answered s t q stNoResource [] ∧
          t = { s with vl := t.vl })) ∧
      (s.grpOf n l = none ∨ s.laneSt n l ≠ 2 → ∃ t, exec (.laneRetire c) s = .next t ∧ Answered s t q stBadParam [] ∧ t = { s with vl := t.vl }))

/-- The link's ops, its training and its traffic, on a tile whose CRn is on. OP 1 of an accepted block from link state 0
trains, and of a refused block or from another state changes nothing; OP 2 from state 2 sends DLP_ENTER in every group in
service, or enters deep low-power with none; OP 3 and the peer's signal from state 3 begin the exit; OP 4 turns every lane
off. The end of training moves the link to state 2 and, where it was no exit and the block is accepted, puts a group whose
lanes all passed within their skew and whose tag is the expected one in service with its data lanes in state 2, and fails
another; a live ticket is done. An EXT bundle without a valid entry, or whose group is off, unused or failed, is discarded and
counted; with the buffer full it waits; otherwise it joins its group's egress, and from deep low-power begins the exit. A
group in service sends a queued control block, up to four bundles or IDLE on the lane whose turn it is, and a marker on every
live lane after 16,384 blocks. A codeword that is bad, with no good mirror, is counted and its blocks asked for again; a good
one gives them and counts what it corrected. A bundle block without recovery or skew outstanding delivers its valid slot to
the exchange, relays it, or counts it discarded or late. (R426, R427, R428, R432, R433, R436, R445, R446, R447, R450, R451,
R452) -/
def Obligations.CourierTraffic : Prop :=
  ∀ (n : Tile) (s : State), s.domOn (domCr n) = true → (∀ i, (s.crt n).ticket = some i → i < 4096) →
    (cfgAccepted ((List.range 16).map (fun k => s.rd (Reg.crCfg n k))) = true → s.crLink n = 0 →
      ∃ t, exec (.crCtrlTrain n) s = .next t ∧ t.crLink n = 1 ∧ ∀ a, t.byte a = s.byte a) ∧
    (cfgAccepted ((List.range 16).map (fun k => s.rd (Reg.crCfg n k))) = false ∨ s.crLink n ≠ 0 → exec (.crCtrlTrain n) s = .next s) ∧
    (s.crLink n = 2 → (List.range 8).all (fun g => !s.inService n g) = true → ∃ t, exec (.crCtrlEnterDlp n) s = .next t ∧ t.crLink n = 3 ∧
      ∀ a, t.byte a = s.byte a) ∧
    (s.crLink n = 2 → (List.range 8).all (fun g => !s.inService n g) = false → ∃ t, exec (.crCtrlEnterDlp n) s = .next t ∧ t.crLink n = 2 ∧
      (∀ g, g < 8 → s.inService n g = true → (t.crg n g).dlpWait = true ∧ (t.crg n g).ctl = (s.crg n g).ctl ++ [(99, .dlpEnter)]) ∧
      t = { s with cr := t.cr }) ∧
    (s.crLink n = 3 → (∃ t, exec (.crCtrlExit n) s = .next t ∧ t.crLink n = 1 ∧ (t.crt n).exiting = true ∧ ∀ a, t.byte a = s.byte a) ∧
      (∃ t, exec (.dlpExitDetect n) s = .next t ∧ t.crLink n = 1 ∧ (t.crt n).exiting = true)) ∧
    (∃ t, exec (.crCtrlOff n) s = .next t ∧ t.crLink n = 0 ∧ (∀ l : Fin 16, t.laneSt n l = 0) ∧ ∀ a, t.byte a = s.byte a) ∧
    (∀ ok tags, s.crLink n = 1 → ∃ t, exec (.linkTrainingComplete n ok tags) s = .next t ∧ t.crLink n = 2 ∧ (t.crt n).exiting = false ∧
      (∀ i, (s.crt n).ticket = some i → tktLive (s.tkt i) = true → (t.tkt i).state = 2) ∧
      ((s.crt n).exiting = false → cfgAccepted ((List.range 16).map (fun k => s.rd (Reg.crCfg n k))) = true → ∀ g w, g < 8 → s.grpWord n g = w → grpWidth w ≠ 0 →
        (((grpData w).all (fun l => bitOf ok.toNat l && s.laneSt n l ≠ 4 && decide (s.fld (Reg.crLStat n l) 23 16 ≤ 64)) = true ∧
          (bitsOf w 31 16 = 0 ∨ bitsOf w 31 16 = (tags.getD g 0).toNat)) → t.inService n g = true ∧ ∀ l ∈ grpData w, t.laneSt n l = 2) ∧
        (¬((grpData w).all (fun l => bitOf ok.toNat l && s.laneSt n l ≠ 4 && decide (s.fld (Reg.crLStat n l) 23 16 ≤ 64)) = true ∧
          (bitsOf w 31 16 = 0 ∨ bitsOf w 31 16 = (tags.getD g 0).toNat)) → t.inService n g = false ∧ ∀ l ∈ grpLanes w, t.laneSt n l = 4)) ∧
      ∀ a, t.byte a = s.byte a) ∧
    (∀ i q, s.fab.extOut[i]? = some q → bpTile q.src = n.val →
      (s.bit (Reg.crEgr n q.route) 31 = false → q.route < 2048 →
        ∃ t, exec (.courierEgress i) s = .next t ∧ t.fab.extOut = s.fab.extOut.eraseIdx i ∧
          t.fld (Reg.crEgrStat n) 15 0 = min 0xFFFF (s.fld (Reg.crEgrStat n) 15 0 + 1)) ∧
      (∀ m g, s.bit (Reg.crEgr n q.route) 31 = true → s.fld (Reg.crEgr n q.route) 30 28 = m → s.fld (Reg.crEgr n q.route) 26 24 = g →
        s.domOn (domCr m) = true →
        (s.crLink m = 0 ∨ grpWidth (s.grpWord m g) = 0 ∨ s.bit (Reg.crGStat m g) 28 = true → ∃ t, exec (.courierEgress i) s = .next t ∧
          t.fab.extOut = s.fab.extOut.eraseIdx i ∧ t.fld (Reg.crEgrStat m) 15 0 = min 0xFFFF (s.fld (Reg.crEgrStat m) 15 0 + 1)) ∧
        (s.crLink m ≠ 0 → grpWidth (s.grpWord m g) ≠ 0 → s.bit (Reg.crGStat m g) 28 = false →
          (4096 ≤ (s.crg m g).egress.length → exec (.courierEgress i) s = .next s) ∧
          ((s.crg m g).egress.length < 4096 → s.crLink m ≠ 3 → ∃ t, exec (.courierEgress i) s = .next t ∧ t.fab.extOut = s.fab.extOut.eraseIdx i ∧
            (t.crg m g).egress = (s.crg m g).egress ++ [⟨s.fld (Reg.crEgr n q.route) 11 0, q.cycle % 256, q.value⟩] ∧
            t = { s with fab := t.fab, cr := t.cr }) ∧
          ((s.crg m g).egress.length < 4096 → s.crLink m = 3 → (∀ i, (s.crt m).ticket = some i → i < 4096) → ∃ t, exec (.courierEgress i) s = .next t ∧
            t.crLink m = 1 ∧ (t.crt m).exiting = true ∧
            (t.crg m g).egress = (s.crg m g).egress ++ [⟨s.fld (Reg.crEgr n q.route) 11 0, q.cycle % 256, q.value⟩])))) ∧
    (∀ g : Tile, s.inService n g = true → grpData (s.grpWord n g) ≠ [] →
      (∀ l, 1 ≤ (s.crg n g).block → (s.crg n g).block < 16384 →
        l = (grpData (s.grpWord n g)).getD ((s.crg n g).seq % (grpData (s.grpWord n g)).length) 0 →
        (∀ x, (s.crg n g).ctl = [] → x = (if (s.crg n g).egress = [] then .idle else .bundles ((s.crg n g).egress.take 4)) →
          ∃ t, exec (.blockSend n g) s = .next t ∧ (t.crg n g).egress = (s.crg n g).egress.drop 4 ∧ (t.crg n g).seq = (s.crg n g).seq + 1 ∧
            (t.crl n (s.carrier n g l)).out = s.blkWire n (s.crg n g).block x ∧
            (t.crl n l).replay.head? = some ((s.crg n g).interval, (s.crg n g).block, x) ∧ t = { s with cr := t.cr }) ∧
        (∀ e, (s.crg n g).ctl.find? (fun e => e.1 = l || e.1 = s.carrier n g l || e.1 = 99) = some e →
          ∃ t, exec (.blockSend n g) s = .next t ∧ (t.crg n g).ctl = (s.crg n g).ctl.erase e ∧ (t.crg n g).egress = (s.crg n g).egress ∧
            (t.crg n g).seq = (s.crg n g).seq + 1 ∧ (t.crl n (s.carrier n g l)).out = s.blkWire n (s.crg n g).block e.2 ∧ t = { s with cr := t.cr })) ∧
      ((s.crg n g).block = 0 ∨ (s.crg n g).block = 16384 → ∃ t k, exec (.markerSend n g) s = .next t ∧ (t.crg n g).block = 1 ∧
        k = (if (s.crg n g).block = 0 then (s.crg n g).interval else (s.crg n g).interval + 1) ∧ (t.crg n g).interval = k ∧
        (∀ l ∈ grpData (s.grpWord n g), s.laneSt n l = 2 ∨ s.laneSt n l = 3 → (t.crl n l).out =
          s.blkWire n 0 (.marker k (4 * k % 10) (l - bitsOf (s.grpWord n g) 3 0) g (s.fld (Reg.crCfg n 10) 15 0) 0)) ∧ t = { s with cr := t.cr })) ∧
    (∀ (l : Fin 16) (g d : Nat) (cw : Codeword) (iv : Word) (f : BitVec 14) (mok : Bool), s.grpOf n l = some g → 1 ≤ s.laneSt n l → s.laneSt n l ≤ 3 →
      s.inService n g = true → s.carried n g l = some d →
      (cw = .uncorrectable ∨ (cwBlocks cw).any badHeader = true →
        (s.spareOk n g = false ∨ mok = false → ∃ t, exec (.codewordReceive n l cw iv f mok) s = .next t ∧
          (t.crg n g).missing = (s.crg n g).missing ++ [(d, iv.toNat, f.toNat)] ∧ t.fld (Reg.crLFec n l) 7 0 = min 255 (s.fld (Reg.crLFec n l) 7 0 + 1) ∧
          (t.crg n g).ctl = (s.crg n g).ctl ++ [(99, .replayReq (d - bitsOf (s.grpWord n g) 3 0) iv.toNat f.toNat 10)]) ∧
        (s.spareOk n g = true → (grpData (s.grpWord n g))[iv.toNat % max 1 (grpWidth (s.grpWord n g))]? = some d → mok = true →
          ∃ t, exec (.codewordReceive n l cw iv f mok) s = .next t ∧ t.crg n g = s.crg n g ∧
            t.fld (Reg.crLFec n l) 7 0 = min 255 (s.fld (Reg.crLFec n l) 7 0 + 1))) ∧
      (cw ≠ .uncorrectable → (cwBlocks cw).any badHeader = false → ∃ t, exec (.codewordReceive n l cw iv f mok) s = .next t ∧
        (d, iv.toNat, f.toNat) ∉ (t.crg n g).missing ∧ (t.crg n g).ctl = (s.crg n g).ctl ∧
        t.fld (Reg.crLFec n l) 31 8 = min (2 ^ 24 - 1) (s.fld (Reg.crLFec n l) 31 8 + (match cw with | .corrected e _ => e.val | _ => 0)))) ∧
    (∀ (g : Tile) (b : BitVec 14) (p : BitVec 256) (x : CrSlot), s.inService n g = true → (s.crg n g).missing = [] → s.deskewed n g = true →
      (List.range 4).filterMap (slotAt (s.blkClear n b.toNat p)) = [x] →
      (s.bit (Reg.crIngLo n x.tag) 31 = false → ∃ t, exec (.bundleBlockReceive n g b p) s = .next t ∧
        t.fld (Reg.crIngStat n) 15 0 = min 0xFFFF (s.fld (Reg.crIngStat n) 15 0 + 1) ∧ t = { s with regs := t.regs }) ∧
      (∀ t, s.bit (Reg.crIngLo n x.tag) 31 = true → s.bit (Reg.crIngLo n x.tag) 30 = true →
        s.egressVia n (s.fld (Reg.crIngLo n x.tag) 10 0) x.cyc x.data = some t → exec (.bundleBlockReceive n g b p) s = .next t) ∧
      (∀ dst, s.bit (Reg.crIngLo n x.tag) 31 = true → s.bit (Reg.crIngLo n x.tag) 30 = false → s.bit (Reg.crIngHi n x.tag) 31 = true →
        dst = bpIx (s.fld (Reg.crIngHi n x.tag) 30 28) (s.fld (Reg.crIngHi n x.tag) 27 22) (s.fld (Reg.crIngHi n x.tag) 21 20) →
        (x.cyc % 256 = s.cycleNo dst % 256 → ∃ t, exec (.bundleBlockReceive n g b p) s = .next t ∧ t.fab.bundles = s.fab.bundles ++
          [⟨2 ^ 20, dst, s.fld (Reg.crIngLo n x.tag) 6 1, x.data, s.fld (Reg.crIngLo n x.tag) 29 18⟩] ∧ t = { s with fab := t.fab }) ∧
        (x.cyc % 256 ≠ s.cycleNo dst % 256 → ∃ t, exec (.bundleBlockReceive n g b p) s = .next t ∧
          t.fld (Reg.crIngStat n) 31 16 = min 0xFFFF (s.fld (Reg.crIngStat n) 31 16 + 1) ∧ t = { s with regs := t.regs })))

/-- What the control blocks of a group in service do. IDLE is dropped; DLP_ENTER is acknowledged; DLP_ACK, or its timeout,
puts the lanes in deep low-power once no group waits. A marker sets its lane's lock and skew and the peer's tag, and a
tracking spare is usable while its skew can be absorbed. REPLAY_REQ of blocks that are held sends them again on the lane that
carries the stream and counts one, and of a block no longer held fails the lane. TAKEOVER_REQ and HANDBACK move the spare's
stream; EQ_REQ waits for a pause window, ADAPTATION_STEP begins the planned takeover in it, and EQ_ACK takes the new tap and
hands the lane back. A lane that fails goes to state 4, asking the peer for the takeover while a spare is usable, and without
one its whole group fails; a failed spare is no longer usable. TAKEOVER_ACK moves the stream to the spare: after a failure it
asks for the blocks from the first one missing, after a LANE_RETIRE it turns the lane off and answers OK, in an adaptation it
takes the step. (R427, R428, R429, R434, R437, R438, R439, R440, R442, R446) -/
def Obligations.CourierControlBlocks : Prop :=
  ∀ (n g : Tile) (s : State), exec (.idle n g) s = .next s ∧ (s.domOn (domCr n) = true → (∀ i, (s.crt n).ticket = some i → i < 4096) → s.inService n g = true →
    (∃ t, exec (.dlpEnter n g) s = .next t ∧ (t.crg n g).ctl = (s.crg n g).ctl ++ [(99, .dlpAck)] ∧ t = { s with cr := t.cr }) ∧
    ((s.crg n g).dlpWait = true →
      ((∀ k, k < 8 → k ≠ g.val → (s.crg n k).dlpWait = false) → ∃ t, exec (.dlpAck n g) s = .next t ∧ t.crLink n = 3 ∧ ∀ a, t.byte a = s.byte a) ∧
      (∀ k, k < 8 → k ≠ g.val → (s.crg n k).dlpWait = true → ∃ t, exec (.dlpAck n g) s = .next t ∧ (t.crg n g).dlpWait = false ∧ t = { s with cr := t.cr }) ∧
      (∃ t, exec (.dlpAckTimeout n) s = .next t ∧ t.crLink n = 3 ∧ ∀ a, t.byte a = s.byte a)) ∧
    (∀ (l : Fin 16) (iv : Word) (cp : Fin 16) (skew : Byte) (tag : BitVec 16) (m : Fin 16), s.grpOf n l = some g.val →
      1 ≤ s.laneSt n l → s.laneSt n l ≤ 3 →
      ∃ t, exec (.marker n l iv cp skew tag m) s = .next t ∧ t.fld (Reg.crLStat n l) 23 16 = skew.toNat ∧ t.peerTag n g = tag.toNat ∧
        (t.bit (Reg.crLStat n l) 24 = true ↔ cp.val = 4 * iv.toNat % 10 ∧ skew.toNat ≤ 64) ∧
        (grpSpare (s.grpWord n g) = some l.val → s.laneSt n l = 3 → t.spareOk n g = decide (skew.toNat ≤ 64)) ∧
        (grpSpare (s.grpWord n g) = some l.val → s.spareOk n g = true →
          t.fld (Reg.crGStat n g) 23 20 = (bitsOf (s.grpWord n g) 3 0 + m.val) % 16) ∧ ∀ a, t.byte a = s.byte a) ∧
    (∀ (l : Fin 16) (iv : Word) (f : BitVec 14) (d : Nat), d = bitsOf (s.grpWord n g) 3 0 + l.val → (grpData (s.grpWord n g)).contains d = true →
      (∀ x, (s.crl n d).replay.find? (fun e => e.1 = iv.toNat && e.2.1 = f.toNat) = some (iv.toNat, f.toNat, x) →
        ∃ t, exec (.replayReq n g l iv f 1) s = .next t ∧ (t.crl n (s.carrier n g d)).out = s.blkWire n f.toNat x ∧
          t.fld (Reg.crGCnt n g) 31 16 = min 0xFFFF (s.fld (Reg.crGCnt n g) 31 16 + 1)) ∧
      (d < 16 → (s.crl n d).replay.find? (fun e => e.1 = iv.toNat && e.2.1 = f.toNat) = none →
        ∃ t, exec (.replayReq n g l iv f 1) s = .next t ∧ t.laneSt n d = 4)) ∧
    (∀ (l : Fin 16) (k : Nat), (grpData (s.grpWord n g)).contains (bitsOf (s.grpWord n g) 3 0 + l.val) = true → s.spareOk n g = true →
      grpSpare (s.grpWord n g) = some k → k < 16 →
      (∃ t, exec (.takeoverReq n g l) s = .next t ∧ t.spareUsed n g = true ∧ t.spareOk n g = false ∧ t.laneSt n k = 2 ∧
        t.fld (Reg.crGStat n g) 27 24 = (bitsOf (s.grpWord n g) 3 0 + l.val) % 16 ∧
        (t.crg n g).ctl = (s.crg n g).ctl ++ [(k, .takeoverAck l)] ∧ t = { s with regs := t.regs, cr := t.cr }) ∧
      (∀ (tap : Fin 16) (st : Byte), tap.val ≤ 5 → ∃ t, exec (.eqReq n g l tap st) s = .next t ∧ crRequester n g ∈ t.so.pauseReq ∧
        (t.crg n g).eqPend = some (bitsOf (s.grpWord n g) 3 0 + l.val, tap.val, signedOf 8 st.toNat) ∧ t = { s with cr := t.cr, so := t.so })) ∧
    (∀ (l : Fin 16) why, s.grpOf n l = some g.val → s.laneSt n l = 2 ∨ s.laneSt n l = 3 →
      (why = .codewords → 4 ≤ ((s.crl n l).window.filter id).length) →
      (∃ t, exec (.laneFailure n l why) s = .next t ∧ t.laneSt n l = 4) ∧
      ((s.crg n g).move = none → grpSpare (s.grpWord n g) ≠ some l.val →
        (s.spareOk n g = true → ∃ t, exec (.laneFailure n l why) s = .next t ∧ (t.crg n g).move = some { lane := l.val, kind := 0 } ∧
          ∀ k ∈ grpLanes (s.grpWord n g), k ≠ l.val → s.laneSt n k = 2 → (k, .takeoverReq (l.val - bitsOf (s.grpWord n g) 3 0)) ∈ (t.crg n g).ctl) ∧
        (s.spareOk n g = false → ∃ t, exec (.laneFailure n l why) s = .next t ∧ t.inService n g = false ∧ t.bit (Reg.crGStat n g) 28 = true ∧
          (t.crg n g).egress = [])) ∧
      ((s.crg n g).move = none → s.spareUsed n g = false → grpSpare (s.grpWord n g) = some l.val →
        ∃ t, exec (.laneFailure n l why) s = .next t ∧ t.spareOk n g = false ∧ t.inService n g = true)) ∧
    (∀ (l : Fin 16) (ns : Word) m, (s.crg n g).move = some m → m.lane = l.val → m.acked = false →
      (m.kind = 0 → ∃ t, exec (.takeoverAck n g l ns) s = .next t ∧ t.spareUsed n g = true ∧ (t.crg n g).move = none ∧
        t.rd (Reg.crGTkoNs n g) = ns.toNat ∧ (l.val, (s.firstMissing n g l).1, (s.firstMissing n g l).2) ∈ (t.crg n g).missing ∧
        t.fld (Reg.crGCnt n g) 7 4 = min 15 (s.fld (Reg.crGCnt n g) 7 4 + 1) ∧ ∀ a, t.byte a = s.byte a) ∧
      (m.kind = 1 → ∃ t, exec (.takeoverAck n g l ns) s = .next t ∧ t.spareUsed n g = true ∧ (t.crg n g).move = none ∧ (t.crg n g).retire = none ∧
        t.laneSt n l = 0 ∧ (∀ r, (s.crg n g).retire = some r → Replied s t r stOk 0 []) ∧ ∀ a, t.byte a = s.byte a) ∧
      (m.kind = 2 → ∃ t, exec (.takeoverAck n g l ns) s = .next t ∧ t.spareUsed n g = true ∧ (t.crg n g).move = some { m with acked := true } ∧
        SMap.get (t.crl n l).taps m.tap 0 = m.oldTap + m.step ∧ ∀ a, t.byte a = s.byte a)) ∧
    (∀ l : Fin 16, s.spareUsed n g = true → s.fld (Reg.crGStat n g) 27 24 = bitsOf (s.grpWord n g) 3 0 + l.val → ∃ t, exec (.handback n g l) s = .next t ∧
      t.spareUsed n g = false ∧ t.spareOk n g = true ∧ t = { s with regs := t.regs }) ∧
    (∀ l tap st, (s.crg n g).eqPend = some (l, tap, st) → s.spareOk n g = true → (s.crg n g).move = none → s.so.pauseGrant = some (crRequester n g) →
      ∃ t, exec (.adaptationStep n g) s = .next t ∧ t.so.pauseGrant = none ∧ (t.crg n g).eqPend = none ∧ t.bit (Reg.crGStat n g) 19 = true ∧
        (∃ m, (t.crg n g).move = some m ∧ m.lane = l ∧ m.kind = 2 ∧ m.tap = tap ∧ m.step = st ∧ m.acked = false)) ∧
    (∀ (l tap : Fin 16) (v : Byte) m, (s.crg n g).move = some m → m.kind = 2 → m.acked = true → m.lane = bitsOf (s.grpWord n g) 3 0 + l.val → m.tap = tap.val →
      ∃ t, exec (.eqAck n g l tap v) s = .next t ∧ (t.crg n g).move = none ∧ t.bit (Reg.crGStat n g) 19 = false ∧ t.spareOk n g = true ∧
        t.spareUsed n g = false ∧ (t.crg n g).ctl = (s.crg n g).ctl ++ [(99, .handback l)] ∧
        SMap.get (t.crl n m.lane).taps tap.val 0 = signedOf 8 v.toNat ∧ t = { s with regs := t.regs, cr := t.cr }))

/-- A W row under check that passes does its part and starts the next: W1 the crystal, W2 MP's clock and the references, W3
the hub, or mode 4 after a cold reset whose FIRST_MODE is 4, W4 the hub with its start counted, W5 the network, W6 mode 2. A
failed attempt before the third undoes its row and waits, and its retry counts an attempt; the third removes every supply,
returns to the mode that was left, names the row in PM_WAKE_STAT and sets WAKE_FAIL, PM_FAULT.WAKE and FAULT_N. In a mode that
waits for a wake source: with no emergency cause active, WAKE_N, a good wake pattern frame, a good frame to MP's address and a
DBG_MODE_REQ of modes 5 to 11, each where it is enabled, starts the rows and is recorded as the source; a write of 1 to FAILED
starts them again, from the failed row when that was W1 or W2 and else from W3. With a cause active WAKE_N is held. A
DBG_MODE_REQ of modes 1 to 4 has no effect. (R459, R460, R461, R461, R470, R472, R473) -/
def Obligations.WakeTableAndSources : Prop :=
  (∀ (s : State) (r : Fin 7), s.pw.aon = true → s.mode = 1 → s.bit Reg.pmStat 12 = false → 1 ≤ r.val →
    s.fld Reg.pmStat 11 4 = r.val →
    (s.pw.wWait = false →
      (∃ t, exec (.wakeRowCheck (.w r) true) s = .next t ∧
        (r.val = 1 → t.pw.crystal = true ∧ t.fld Reg.pmStat 11 4 = 2) ∧
        (r.val = 2 → t.pw.mpClock = true ∧ t.fld Reg.pmStat 11 4 = 3 ∧ t.pw.refEn = 7) ∧
        (r.val = 3 → if s.pw.cold = true ∧ s.fld Reg.pmWakeCfg 11 8 = 4 then t.mode = 4 ∧ t.fld Reg.pmStat 11 4 = 0
          else t.mode = 1 ∧ t.fld Reg.pmStat 11 4 = 4) ∧
        (r.val = 4 → t.hubOn = true ∧ t.fld Reg.pmStat 11 4 = 5 ∧
          t.rd Reg.pmHubStarts = (s.rd Reg.pmHubStarts + 1) % 2 ^ 32) ∧
        (r.val = 5 → t.domOn domRnd = true ∧ t.fld Reg.pmStat 11 4 = 6) ∧
        (r.val = 6 → t.mode = 2 ∧ t.fld Reg.pmStat 11 4 = 0)) ∧
      (s.fld Reg.pmWakeStat 9 8 < 3 → ∃ t, exec (.wakeRowCheck (.w r) false) s = .next t ∧ t.pw.wWait = true ∧
        t.mode = 1 ∧ t.fld Reg.pmStat 11 4 = r.val ∧ (r.val = 1 → t.pw.crystal = false) ∧ (r.val = 2 → t.pw.mpClock = false) ∧
        (r.val = 3 → t.pw.refEn = 0)) ∧
      (s.fld Reg.pmWakeStat 9 8 = 3 → s.pw.wakeFrom < 16 → ∃ t, exec (.wakeRowCheck (.w r) false) s = .next t ∧
        t.mode = s.pw.wakeFrom ∧ t.bit Reg.pmStat 12 = true ∧ t.bit Reg.pmWakeStat 7 = true ∧
        t.fld Reg.pmWakeStat 6 0 = r.val ∧ t.bit Reg.pmFault 6 = true ∧ t.bit Reg.pmStat 14 = true ∧ ∀ d, t.domOn d = false)) ∧
    (s.pw.wWait = true → s.fld Reg.pmWakeStat 9 8 < 3 → ∃ t, exec (.wakeRowRetry (.w r)) s = .next t ∧ t.pw.wWait = false ∧
      t.fld Reg.pmWakeStat 9 8 = s.fld Reg.pmWakeStat 9 8 + 1 ∧ t.fld Reg.pmStat 11 4 = r.val)) ∧
  (∀ (s : State), s.canWake = true →
    (s.bit Reg.pmFault 24 = true → s.bit Reg.pmWakeCfg 2 = true →
      ∃ t, exec .wakePin s = .next t ∧ t.pw.heldWake = some 3 ∧ t = { s with pw := t.pw }) ∧
    (∀ w : Word, 1 ≤ w.toNat % 16 → w.toNat % 16 ≤ 4 → exec (.dbgModeReq w) s = .next s) ∧
    (s.bit Reg.pmFault 24 = false →
    (s.bit Reg.pmWakeStat 7 = true → ∃ t, exec .wakeRetry s = .next t ∧ t.mode = 1 ∧ t.bit Reg.pmWakeStat 7 = false ∧
      t.fld Reg.pmWakeStat 9 8 = 1 ∧ t.pw.toWake = true ∧
      t.fld Reg.pmStat 11 4 = (if s.bit Reg.pmStat 12 = true ∧ s.fld Reg.pmWakeStat 6 0 ≤ 2 then s.fld Reg.pmWakeStat 6 0 else 3)) ∧
    (s.bit Reg.pmWakeCfg 2 = true → ∃ t, exec .wakePin s = .next t ∧ t.mode = 1 ∧ t.fld Reg.pmWakeStat 19 16 = 3 ∧ t.pw.toWake = true) ∧
    (∀ f : EthFrame, s.pw.mpClock = true → s.bit Reg.pmWakeCfg 1 = true → f.fcs = true → f.tags ≤ 1 →
      f.dst.toNat = s.mpMac ∨ f.dst.toNat = 2 ^ 48 - 1 → f.etherType = 0x88B5 → 14 ≤ f.payload.length → leAt f.payload 0 4 = 0x4B57525A →
      (f.payload.drop 4).take 6 = beBytes 6 s.mpMac → s.rd Reg.pmWakeKey = 0 ∨ s.rd Reg.pmWakeKey = leAt f.payload 10 4 →
      ∃ t, exec (.wakePattern f) s = .next t ∧ t.mode = 1 ∧ t.fld Reg.pmWakeStat 19 16 = 2 ∧ t.pw.toWake = true) ∧
    (∀ f : EthFrame, s.pw.mpClock = true → s.bit Reg.pmWakeCfg 0 = true → f.fcs = true → f.dst.toNat = s.mpMac →
      ∃ t, exec (.mpActivityWake f) s = .next t ∧ t.mode = 1 ∧ t.fld Reg.pmWakeStat 19 16 = 1 ∧ t.pw.toWake = true) ∧
    (∀ w : Word, 4 < w.toNat % 16 → w.toNat % 16 < 12 →
      ∃ t, exec (.dbgModeReq w) s = .next t ∧ t.mode = 1 ∧ t.fld Reg.pmWakeStat 19 16 = 4 ∧ t.pw.toWake = true)))

/-- A domain row that passes, with no request held for the domain, turns the domain on, or begins the zeroing of a bank that
was off; a failed attempt before the third waits, and its retry counts an attempt; the third leaves the domain off with its
fail bit and PM_FAULT.WAKE set, and a write of 1 clears the fail bit. A power-down that is due begins; a drained domain is
isolated and goes off, except a bay that a page has been given to meanwhile, which stays on. A bay, and a tile, whose idle
time has passed begins its power-down with memory as it was. The first packet held for a domain that is off and may wake
starts its row when its parents are on, and else marks the domain wanted and starts the rows of the parents that are off and
may wake. (R46, R47, R459, R460, R462, R206, R361, R464) -/
def Obligations.PowerDomains : Prop :=
  (∀ (d : Dom) (s : State),
    ((s.dom (domCode d)).ph = 1 → (s.dom (domCode d)).waiting = false → (isSpDom (domCode d) = true → s.bit (Reg.spBStat (domCode d - 0x400)) 29 = false) →
      ((∀ h ∈ s.rnd.pr, h.dom ≠ domCode d) →
        (isSpDom (domCode d) = false ∨ s.fld (Reg.spBStat (domCode d - 0x400)) 25 24 = 1 →
          ∃ t, exec (.wakeRowCheck (.dom d) true) s = .next t ∧ t.domOn (domCode d) = true) ∧
        (isSpDom (domCode d) = true → s.fld (Reg.spBStat (domCode d - 0x400)) 25 24 ≠ 1 →
          ∃ t, exec (.wakeRowCheck (.dom d) true) s = .next t ∧ t.bit (Reg.spBStat (domCode d - 0x400)) 29 = true ∧ t.domOn (domCode d) = false)) ∧
      ((s.dom (domCode d)).attempts < 3 → ∃ t, exec (.wakeRowCheck (.dom d) false) s = .next t ∧
        (t.dom (domCode d)).waiting = true ∧ t.domOn (domCode d) = false ∧ ∀ a, t.byte a = s.byte a) ∧
      (3 ≤ (s.dom (domCode d)).attempts → domCode d < 31 ∨ isBayDom (domCode d) = true ∨ isSpDom (domCode d) = true →
        ∃ t, exec (.wakeRowCheck (.dom d) false) s = .next t ∧ t.domOn (domCode d) = false ∧
          t.domFailBit (domCode d) = true ∧ t.bit Reg.pmFault 6 = true)) ∧
    ((s.dom (domCode d)).ph = 1 → (s.dom (domCode d)).waiting = true → ∃ t, exec (.wakeRowRetry (.dom d)) s = .next t ∧
      (t.dom (domCode d)).waiting = false ∧ (t.dom (domCode d)).attempts = (s.dom (domCode d)).attempts + 1) ∧
    (s.pw.aon = true → (isSpDom (domCode d) = true → s.hubOn = true) → ∃ t, exec (.domainFailClear d) s = .next t ∧
      t.domFailBit (domCode d) = false ∧ t = { s with regs := t.regs }) ∧
    ((s.dom (domCode d)).ph = 3 → s.downDrained (domCode d) = true →
      (s.bayHolds (domCode d) = false → ∃ t, exec (.domainIsolation d) s = .next t ∧ t.domOn (domCode d) = false) ∧
      (s.bayHolds (domCode d) = true → ∃ t, exec (.domainIsolation d) s = .next t ∧ (t.dom (domCode d)).ph = 2 ∧ ∀ a, t.byte a = s.byte a)) ∧
    (s.downDue (domCode d) = true → ∃ t, exec (.domainPowerDown d) s = .next t ∧
      (t.dom (domCode d)).ph = 3 ∧ ∀ a, t.byte a = s.byte a)) ∧
  ((∀ (n : Tile) (b : Bay) (s : State), s.bayIdleDue n b = true → ∃ t, exec (.bayIdlePowerDown n b) s = .next t ∧
    (t.dom (domBay n b)).ph = 3 ∧ (∀ a, t.byte a = s.byte a) ∧ t = { s with pw := t.pw }) ∧
  (∀ (n : Tile) (s : State), s.tileIdleDue n = true → ∃ t, exec (.tileIdlePowerDown n) s = .next t ∧
    (t.dom (domTile n)).ph = 3 ∧ (∀ a, t.byte a = s.byte a) ∧ t = { s with pw := t.pw, regs := t.regs }) ∧
  (∀ (d : Dom) (s : State), (s.dom (domCode d)).ph = 0 → s.rnd.pr.any (fun h => h.dom = domCode d) = true → s.refuses (domCode d) = false →
    (s.allOn (domParents (domCode d)) = true → ∃ t, exec (.domainWakeRequest d) s = .next t ∧
      (t.dom (domCode d)).ph = 1 ∧ (t.dom (domCode d)).attempts = 1 ∧ t.fld Reg.pmWakeStat 9 8 = 1) ∧
    (s.allOn (domParents (domCode d)) = false → ∃ t, exec (.domainWakeRequest d) s = .next t ∧
      (t.dom (domCode d)).ph = 0 ∧ (t.dom (domCode d)).wanted = true ∧
      ∀ p ∈ domParents (domCode d), onDemand p = true → (s.dom p).ph = 0 → s.domFailed p = false → s.allOn (domParents p) = true →
        (t.dom p).ph = 1)))

/-- A write of the boot heartbeat is stored. In Boot with an image running: once everything that boot waits for is ready the
module enters Recovery for the fallback image, WAKE_TARGET after a wake and BOOT_TARGET otherwise; at the time limit without
that, an active image marks itself failed and a trial falls back, each followed by the warm module reset, at once or after the
log's flush, and the fallback image, or any image while a core is to halt on reset, stays in Boot with PM_FAULT.WAKE and
FAULT_N. A trial not confirmed in time falls back; a flush wait that runs out, and a Safe Hold entered from Boot or Recovery
once its faults are clear, re-enter mode 1 at row W3. (R459, R465, R477, R493, R497) -/
def Obligations.BootEnds : Prop :=
  ∀ (s : State), s.hubOn = true → s.pw.aon = true →
    (∀ v : Word, ∃ t, exec (.bootHeartbeatWrite v) s = .next t ∧ t.rd Reg.pmBootHb = v.toNat ∧ t = { s with regs := t.regs }) ∧
    (s.mode = 2 → s.pw.image ≠ 0 → s.pw.bootStuck = false → s.pw.flushReset = false →
      (s.bootReady = true → ∃ t, exec .bootComplete s = .next t ∧ t.fld Reg.mrMode 31 24 = stOk ∧ t.pw.chg = none ∧ t.pw.toWake = false ∧
        t.mode = (if s.pw.image = 3 then 3 else if s.pw.toWake then (if s.fld Reg.pmWakeCfg 7 4 = 5 then 5 else 6)
          else if s.fld Reg.mrBoot 3 0 = 5 ∨ s.fld Reg.mrBoot 3 0 = 9 then s.fld Reg.mrBoot 3 0 else 6)) ∧
      (s.bootReady = false → s.pw.image = 1 → s.anyHaltOnReset = false → ∃ t, exec .bootTimeout s = .next t ∧
        t.bit Reg.pmStat 15 = true ∧ (if s.readyBit 5 = true then t.pw.flushReset = true else t.mode = 1 ∧ t.fld Reg.pmStat 11 4 = 3)) ∧
      (s.bootReady = false → s.pw.image = 2 → s.anyHaltOnReset = false → ∃ t, exec .bootTimeout s = .next t ∧ t.bootRec.next = 0 ∧ t.bootRec.stage = 2 ∧
        (if s.readyBit 5 = true then t.pw.flushReset = true else t.mode = 1 ∧ t.fld Reg.pmStat 11 4 = 3)) ∧
      (s.bootReady = false → s.pw.image = 3 ∨ s.anyHaltOnReset = true → ∃ t, exec .bootTimeout s = .next t ∧ t.mode = 2 ∧ t.pw.bootStuck = true ∧
        t.bit Reg.pmFault 6 = true ∧ t.bit Reg.pmStat 14 = true)) ∧
    (s.bootRec.stage = 4 → s.bootRec.promote = 0 → s.pw.image = 2 → s.anyHalted = false → s.pw.flushReset = false →
      ∃ t, exec .confirmTimeout s = .next t ∧ t.bootRec.next = 0 ∧ t.bootRec.stage = 2 ∧
        (if s.readyBit 5 = true then t.pw.flushReset = true else t.mode = 1)) ∧
    (s.pw.flushReset = true → ∃ t, exec .flushWaitTimeout s = .next t ∧ t.mode = 1 ∧ t.fld Reg.pmStat 11 4 = 3) ∧
    (s.mode = 10 → (s.fld Reg.pmStat 19 16 = 2 ∨ s.fld Reg.pmStat 19 16 = 3) → s.faultClear = true →
      ∃ t, exec .safeHoldAutoReset s = .next t ∧ t.mode = 1 ∧ t.fld Reg.pmStat 11 4 = 3)

/-- A cold reset leaves the reset state, registers included, but for the queue, what is fitted, the postmark counters (free
values, log entry 24), the fuses and the battery-backed key, and what the flash and its log hold; losing the AON supply leaves
the same with PWR_EN low and mode 0. The warm module reset keeps AON (crystal, MP clock, postmark counters) and DBG (the TAP,
the cores' control registers), turns every domain off, forgets the hub's tables, tickets, mode change and loads, and starts
row W3 in mode 1. The debug reset gives the DBG domain its reset values, releases the cores, drops the TAP's accesses and
changes nothing else. (R48, R457, R522) -/
def Obligations.Resets : Prop :=
  ∀ (s : State),
    (s.pw.aon = false → ∃ t, exec .coldReset s = .next t ∧ t.mode = 1 ∧ t.fld Reg.pmStat 11 4 = 1 ∧ t.mem = [] ∧ (∀ d, t.domOn d = false) ∧
      t = { State.reset with
        pending := s.pending, draw := s.draw + 3, regs := t.regs
        pw := { State.reset.pw with ddrFit := s.pw.ddrFit, cycles := t.pw.cycles, hours := t.pw.hours, frac := t.pw.frac }
        ev := { halfA := s.ev.halfA, halfB := s.ev.halfB }
        fk := { s.fk with unlocked := none, fkeyStage := [], bkeyStage := [], imgStage := [], fwStage := [], busy := none, loads := [] }
        fl := { s.fl with ops := [], stg := none, storeBusy := [] } } ∧
      (∀ q : Reg, q.addr ≠ Reg.fkBkeyStat.addr → q.addr ≠ Reg.pmLodgeIp4.addr → t.rd q = State.reset.rd q) ∧
      t.rd Reg.pmLodgeIp4 = s.fk.mpIp4 % 2 ^ 32 ∧ FusesKept s t) ∧
    (s.pw.aon = true → ∃ t, exec .aonSupplyFail s = .next t ∧ t.mode = 0 ∧ t.pw.pwrEn = false ∧ t.mem = [] ∧ (∀ d, t.domOn d = false) ∧
      t = { State.reset with
        pending := s.pending, draw := s.draw, regs := t.regs
        pw := { State.reset.pw with ddrFit := s.pw.ddrFit, aon := false, pwrEn := false }
        ev := { halfA := s.ev.halfA, halfB := s.ev.halfB }
        fk := { s.fk with unlocked := none, fkeyStage := [], bkeyStage := [], imgStage := [], fwStage := [], busy := none, loads := [] }
        fl := { s.fl with ops := [], stg := none, storeBusy := [] } } ∧
      (∀ q : Reg, q.addr ≠ Reg.fkBkeyStat.addr → t.rd q = State.reset.rd q) ∧ FusesKept s t) ∧
    (s.pw.aon = true → ∃ t, exec .warmModuleReset s = .next t ∧ t.mode = 1 ∧ t.fld Reg.pmStat 11 4 = 3 ∧
      t.fld Reg.pmWakeStat 9 8 = 1 ∧ t.rd Reg.pmDomFail = 0 ∧ (∀ d, t.domOn d = false) ∧ t.pw.crystal = s.pw.crystal ∧
      t.pw.mpClock = s.pw.mpClock ∧ t.pw.cycles = s.pw.cycles ∧ t.pw.hours = s.pw.hours ∧ t.pw.frac = s.pw.frac ∧
      t.dbg.ir = s.dbg.ir ∧ t.dbg.extest = s.dbg.extest ∧ (∀ c : Fin 4, t.rd (Reg.dbgCCtrl c) = s.rd (Reg.dbgCCtrl c)) ∧
      (s.hubOn = true → t.so = {} ∧ t.vl = {} ∧ t.pw.chg = none ∧ t.pw.pend = none ∧ t.fk.loads = []) ∧
      t.pending = s.pending ∧ FusesKept s t) ∧
    (s.pw.aon = true → ∃ t, exec .debugReset s = .next t ∧ t.mode = s.mode ∧ t.dbg.ir = 2 ∧ t.dbg.extest = false ∧
      t.dbg.tapStatus = 0 ∧ t.dbg.queue = s.dbg.queue.filter (fun a => !a.tap) ∧
      (∀ c : Fin 4, (t.core c).vt = {} ∧ (t.core c).haltReq = none ∧ t.bit (Reg.dbgCStat c) 0 = false) ∧
      (∀ q : Reg, isDbgReg q.addr = true → (∀ c : Fin 4, q.addr ≠ (Reg.dbgCStat c).addr) → t.rd q = q.rst % 2 ^ 32) ∧
      (∀ q : Reg, (q.addr < 0x90000 ∨ 0x90800 ≤ q.addr) → t.rd q = s.rd q) ∧
      t = { s with regs := t.regs, loStage := t.loStage, rnd := { s.rnd with out := t.rnd.out }, dbg := t.dbg })

/-- A regulator with pages on whose power-good is lost, a page newly found out of range by a poll or an alert, and the third
poll in a row that a regulator with pages on does not answer, set PM_FAULT.SUPPLY; the loss of power-good also drives FAULT_N
low, turns off what the regulator's pages feed but the hub and the network, and enters Safe Hold, or asks it of the change in
progress. Supplies all back in range end the active bit and leave the latch. The hub's rail out of range too long makes the
emergency power-off: mode 4, every domain off, PWR_EN low. PWR_EN is driven again once every output is off. (R457, R469, R470,
R523, R524, R526) -/
def Obligations.SupplyFaults : Prop :=
  ∀ (s : State), s.pw.aon = true →
    (∀ pg : Fin 16, s.pagesUp pg ≠ [] → s.pw.pgLow.contains (pg : Nat) = false →
      ∃ t, exec (.powerGoodLoss pg) s = .next t ∧ t.pw.pgLow.contains (pg : Nat) = true ∧ t.bit Reg.pmFault 0 = true ∧
        t.bit Reg.pmFault 16 = true ∧ t.bit Reg.pmStat 14 = true ∧ (s.mode ∈ [2, 3, 5, 6, 7, 8, 9] → s.pw.chg = none → t.mode = 10) ∧
        (s.mode ∈ [5, 6, 7, 8, 9] → ∀ c, s.pw.chg = some c → c.req.src ≠ .boot → c.req.target ≠ 10 → t.pw.holdDue = true) ∧
        t.pinFaultN = false ∧ (∀ p ∈ s.pagesUp pg, ∀ d ∈ feeds p.1 p.2, d ≠ domHub → d ≠ domRnd → t.domOn d = false)) ∧
    (∀ pg : Fin 16, s.pw.pgLow.contains (pg : Nat) = true → ∃ t, exec (.powerGoodReturn pg) s = .next t ∧
      t.pw.pgLow.contains (pg : Nat) = false ∧ t.bit Reg.pmFault 0 = s.bit Reg.pmFault 0 ∧
      ((∀ k ∈ s.pw.pgLow, k = (pg : Nat)) → s.pw.pageBad = [] → (∀ e ∈ s.pw.pmbusErr, e.2 < 3) → t.bit Reg.pmFault 16 = false)) ∧
    (∀ (bad : List (Fin 16 × Fin 16)) (nak : List (Fin 16)) (p : Nat), ∃ t, exec (.pmbusPoll bad nak p) s = .next t ∧
      t.pw.pout = p ∧ t.pw.pageBad = s.badPages bad ∧
      ((s.badPages bad).filter (fun x => !s.pw.pageBad.contains x) ≠ [] → t.bit Reg.pmFault 0 = true) ∧
      (∀ k ∈ nak, SMap.get s.pw.pmbusErr k 0 = 2 → s.pagesUp k ≠ [] → t.bit Reg.pmFault 0 = true) ∧
      (s.badPages bad = [] → nak = [] → (∀ e ∈ s.pw.pmbusErr, e.1 < 16) → s.pw.pgLow = [] →
        t.bit Reg.pmFault 16 = false ∧ t.bit Reg.pmFault 0 = s.bit Reg.pmFault 0)) ∧
    (∀ bad : List (Fin 16 × Fin 16), (s.badPages bad).filter (fun x => !s.pw.pageBad.contains x) ≠ [] →
      ∃ t, exec (.pmbusAlert bad) s = .next t ∧ t.bit Reg.pmFault 0 = true ∧ t.bit Reg.pmFault 16 = true ∧
        (s.mode ∈ [2, 3, 5, 6, 7, 8, 9] → s.pw.chg = none → t.mode = 10)) ∧
    (s.hubOn = true → s.pw.pgLow.contains 0 = true ∨ s.pw.pageBad.contains (0, 0) = true ∨ SMap.get s.pw.pmbusErr 0 0 = 3 → ∃ t, exec .hubRailTimeout s = .next t ∧ t.mode = 4 ∧
      (∀ d, t.domOn d = false) ∧ t.pw.pwrEn = false ∧ t.bit Reg.pmFault 8 = true ∧ t.bit Reg.pmFault 24 = true) ∧
    (s.pw.pwrEnWait = true → ∃ t, exec .pwrEnRestore s = .next t ∧ t.pw.pwrEn = true ∧ t.pw.pwrEnWait = false ∧ t = { s with pw := t.pw })

/-- A thermal reading is shown; at HOLD_C and above it sets the fault and enters Safe Hold, at 127 °C the emergency power-off
is made, below HOLD_C neither cause is active, and at the warning threshold the warning is given. A window of an enabled
reference shows its count and whether it lies within 1,000 ppm; the second bad window in a row fails the reference, latched
and with FAULT_N: REF100 enters Safe Hold, REF156A takes the Host Ports' links down, REF156B fails every group in use; the
fourth good one in a row ends the active bit and leaves the latch. (R456, R458, R469, R470) -/
def Obligations.TemperatureAndReferences : Prop :=
  ∀ (s : State), s.pw.aon = true →
    (∀ x : Int, ∃ t, exec (.thermalRead x) s = .next t ∧ t.pw.hot16 = x ∧
      t.fld Reg.pmTherm 23 16 = unsignedOf 8 (x / 16) % 256 ∧
      (16 * 127 ≤ x → s.bit Reg.pmFault 18 = false → t.mode = 4 ∧ (∀ d, t.domOn d = false) ∧ t.pw.pwrEn = false ∧
        t.bit Reg.pmFault 2 = true ∧ t.bit Reg.pmFault 18 = true ∧ t.bit Reg.pmFault 8 = true) ∧
      (16 * (s.holdC : Int) ≤ x → x < 16 * 127 → t.bit Reg.pmFault 1 = true ∧ t.bit Reg.pmFault 17 = true ∧
        (s.mode ∈ [2, 3, 5, 6, 7, 8, 9] → s.pw.chg = none → t.mode = 10)) ∧
      (x < 16 * (s.holdC : Int) → t.bit Reg.pmFault 17 = false ∧ t.bit Reg.pmFault 18 = false) ∧
      (16 * (s.fld Reg.pmTherm 15 8 : Int) ≤ x → t.pw.warned = true)) ∧
    (∀ (c0 c1 c2 : BitVec 20) (i c : Nat) (r : Reg), s.pw.crystal = true → bitOf s.pw.refEn i = true →
      (i, c, r) ∈ [(0, c0.toNat, Reg.pmRefCnt0), (1, c1.toNat, Reg.pmRefCnt1), (2, c2.toNat, Reg.pmRefCnt2)] →
      ∃ t, exec (.refCheckWindow c0 c1 c2) s = .next t ∧
        t.rd r = c + b2n (refWithin i c) * 2 ^ 31 ∧
        (refWithin i c = false → 1 ≤ SMap.get s.pw.refBad i 0 → s.pw.refFail.contains i = false →
          t.pw.refFail.contains i = true ∧ t.bit Reg.pmFault (3 + i) = true ∧ t.bit Reg.pmFault (19 + i) = true ∧ t.pinFaultN = false ∧
          (i = 0 → s.mode ∈ [2, 3, 5, 6, 7, 8, 9] → s.pw.chg = none → t.mode = 10) ∧
          (i = 1 → s.hubOn = true → ∀ k, k < 8 → t.bit (Reg.vlLpStat (k + 1)) 31 = false) ∧
          (i = 2 → ∀ n g, n < 8 → g < 8 → s.domOn (domCr n) = true → s.crLink n ≠ 0 → grpWidth (s.grpWord n g) ≠ 0 →
            t.bit (Reg.crGStat n g) 28 = true)) ∧
        (refWithin i c = true → 3 ≤ SMap.get s.pw.refGood i 0 → s.pw.refFail.contains i = true →
          t.pw.refFail.contains i = false ∧ t.bit Reg.pmFault (19 + i) = false ∧ t.bit Reg.pmFault (3 + i) = s.bit Reg.pmFault (3 + i)))

/-- With AON and the hub on, a mode request in the slot, and no change in progress, in mode 2 or above: one that the checks
refuse ends with BAD_STATE and changes no mode; MODE_SET 2 in Recovery is the warm module reset; any other that they allow
starts, with the mode as it was until its steps are done: scheduling stops for modes 4, 8, 10 and 11, Exclusive marks its run,
Halted notes the mode it comes from, Safe Hold takes the outputs to high impedance. A change whose steps are carried out
enters its mode with status OK, scheduling in modes 6 and 7, every domain off in modes 4 and 11, and the mode it came from
noted in Safe Hold; one that a fault stops ends in Safe Hold with BAD_STATE. (R218, R465, R466, R467, R468, R469, R471) -/
def Obligations.ModeChanges : Prop :=
  ∀ (s : State), s.pw.aon = true → s.hubOn = true →
    (∀ q : ModeReq, s.pw.pend = some q → s.pw.chg = none → 2 ≤ s.mode →
      (s.mayStart q = false → ∃ t, exec .modeChangeStart s = .next t ∧ t.mode = s.mode ∧ t.pw.pend = none ∧ t.pw.chg = none ∧
        t.fld Reg.mrMode 31 24 = stBadState ∧ (∀ a, t.byte a = s.byte a) ∧
        ∀ i, q.ticket = some i → tktLive (s.tkt i) = true → (t.tkt i).state = 3 ∧ (t.tkt i).err = stBadState) ∧
      (s.mayStart q = true → (s.mode = 3 ∧ q.target = 2) → ∃ t, exec .modeChangeStart s = .next t ∧ t.mode = 1 ∧
        t.fld Reg.pmStat 11 4 = 3) ∧
      (s.mayStart q = true → ¬(s.mode = 3 ∧ q.target = 2) → ∃ t c, exec .modeChangeStart s = .next t ∧ t.mode = s.mode ∧
        t.pw.chg = some c ∧ c.req = q ∧ c.origin = s.mode ∧
        (q.target ∈ [4, 8, 10, 11] → t.pw.sched = false) ∧
        (q.target ∈ [4, 8, 10] → t.pw.pend = none ∧ ∀ i, q.ticket = some i → tktLive (s.tkt i) = true → (t.tkt i).state = 1) ∧
        (q.target = 8 → t.pw.haltFrom = s.mode) ∧ (q.target = 10 → t.pw.safeZ = true) ∧
        (q.target = 7 → s.mode ≠ 8 → (t.run q.run).excl = true ∧ t.so.exclRun = some q.run))) ∧
    (∀ c : ModeChg, s.pw.chg = some c → c.req.src ≠ .boot →
      (s.pw.holdDue = false → s.modeDone c = true → c.req.target < 16 → ∃ t, exec .modeChangeComplete s = .next t ∧
        t.mode = c.req.target ∧ t.pw.chg = none ∧
        (c.req.target = 4 ∨ c.req.target = 11 → (∀ d, t.domOn d = false) ∧ (c.req.target = 11 → t.bit Reg.pmStat 13 = true)) ∧
        (c.req.target = 10 → t.fld Reg.pmStat 19 16 = c.origin % 16) ∧
        (c.req.target = 6 ∨ c.req.target = 7 → t.pw.sched = true) ∧
        (c.req.target = 8 ∨ c.req.target = 10 → ∀ i, c.req.ticket = some i → tktLive (s.tkt i) = true → (t.tkt i).state = 2) ∧
        (¬(c.req.target = 4 ∨ c.req.target = 11) → t.fld Reg.mrMode 31 24 = stOk)) ∧
      (s.pw.holdDue = true → ∃ t, exec .modeChangeComplete s = .next t ∧ t.mode = 10 ∧ t.pw.chg = none ∧
        t.pw.holdDue = false ∧ t.pw.safeZ = true ∧
        t.fld Reg.pmStat 19 16 = s.mode ∧ t.fld Reg.mrMode 31 24 = stBadState))

/-- A write of a bank's STATE by its owner or by the debug master, with no handover under way, sets the state (3 is taken as
2): a bank that is on leaves it for one below 2, one that is off wakes for 2, and one in retention that is turned off reads
zeros; any other write sets FOREIGN alone. A write of OWNER takes an unowned bank at once, begins the handover when the owner
or the debug master makes it, and else sets FOREIGN; the handover's end moves the owner. A bank that has been zeroed is on,
with STATE 2, when no request is held for it. The patrol counts corrected words and double-bit errors, whose addresses it
records. (R480, R481, R482, R483, R484, R485) -/
def Obligations.ScratchpadBanks : Prop :=
  ∀ (b : Fin 16) (s : State), s.hubOn = true →
    (∀ (mid : Byte) (st : Fin 4),
      (mid.toNat ≠ s.spOwner b ∧ mid.toNat ≠ 0x30 ∨ (SMap.find s.sp.handing b).isSome = true →
        ∃ t, exec (.scratchpadStateWrite b mid st) s = .next t ∧ t.bit (Reg.spBStat b) 30 = true ∧
          (∀ q : Reg, q.addr ≠ (Reg.spBStat b).addr → t.rd q = s.rd q) ∧ t = { s with regs := t.regs }) ∧
      (mid.toNat = s.spOwner b ∨ mid.toNat = 0x30 → SMap.find s.sp.handing b = none →
        ∃ t, exec (.scratchpadStateWrite b mid st) s = .next t ∧
          t.fld (Reg.spBCtrl b) 25 24 = (if st.val = 3 then 2 else st.val) ∧
          ((s.dom (domSp b)).ph = 2 → st.val < 2 → (t.dom (domSp b)).ph = 3 ∧ t.fld (Reg.spBStat b) 25 24 = 3) ∧
          (2 ≤ st.val → (s.dom (domSp b)).ph = 0 → s.domFailed (domSp b) = false → (t.dom (domSp b)).ph = 1) ∧
          ((s.dom (domSp b)).ph = 0 → st.val = 0 → s.spPower b = 1 → t.spPower b = 0 ∧
            ∀ a, 0x10000000 + b.val * 0x800000 ≤ a → a < 0x10000000 + (b.val + 1) * 0x800000 → t.byte a = 0))) ∧
    (∀ mid owner : Byte,
      (s.spOwner b = 0xFF → ∃ t, exec (.scratchpadHandover b mid owner) s = .next t ∧ t.spOwner b = owner.toNat ∧
        (∀ q : Reg, q.addr ≠ (Reg.spBCtrl b).addr → t.rd q = s.rd q) ∧ t = { s with regs := t.regs }) ∧
      (s.spOwner b ≠ 0xFF → mid.toNat = s.spOwner b ∨ mid.toNat = 0x30 → ∃ t, exec (.scratchpadHandover b mid owner) s = .next t ∧
        t.bit (Reg.spBStat b) 28 = true ∧ t.spOwner b = s.spOwner b ∧ SMap.find t.sp.handing b = some owner.toNat) ∧
      (s.spOwner b ≠ 0xFF → mid.toNat ≠ s.spOwner b → mid.toNat ≠ 0x30 → ∃ t, exec (.scratchpadHandover b mid owner) s = .next t ∧
        t.bit (Reg.spBStat b) 30 = true ∧ t.spOwner b = s.spOwner b ∧ t = { s with regs := t.regs })) ∧
    (∀ o, SMap.find s.sp.handing b = some o → ∃ t, exec (.scratchpadHandoverComplete b) s = .next t ∧ t.spOwner b = o % 256 ∧
      t.bit (Reg.spBStat b) 28 = false ∧ SMap.find t.sp.handing b = none) ∧
    (s.bit (Reg.spBStat b) 29 = true → (∀ h ∈ s.rnd.pr, h.dom ≠ domSp b) → ∃ t, exec (.scratchpadZeroComplete b) s = .next t ∧
      t.domOn (domSp b) = true ∧ t.spPower b = 2 ∧ t.fld (Reg.spBCtrl b) 25 24 = 2 ∧ t.bit (Reg.spBStat b) 29 = false) ∧
    (∀ (corrected : Nat) (double : List Nat), s.domOn (domSp b) = true → s.fld Reg.spPatrol 7 0 ≠ 0 →
      ∃ t, exec (.scratchpadPatrol b corrected double) s = .next t ∧
        t.fld (Reg.spBEcc b) 31 16 = satAdd 65535 (s.fld (Reg.spBEcc b) 31 16) corrected ∧
        t.fld (Reg.spBEcc b) 15 0 = satAdd 65535 (s.fld (Reg.spBEcc b) 15 0) (double.filter (fun o => decide (o < 0x800000))).length ∧
        (∀ o, (double.filter (fun o => decide (o < 0x800000))).getLast? = some o → t.rd (Reg.spBErraddr b) = 2 ^ 31 + o / 8 * 8) ∧
        (∀ o ∈ double, o < 0x800000 → 0x10000000 + b.val * 0x800000 + o / 8 * 8 ∈ t.sp.bad) ∧ ∀ a, t.byte a = s.byte a)

/-- A write of UPD_CONFIRM is accepted when it is 0x434F_4E46, STAGE is 4, the boot is complete and no core has been reset by
its watchdog, and the promotion then begins, or goes on; any other write sets CONF_REFUSED and does nothing else. (R495) -/
def Obligations.ConfirmationWrites : Prop :=
  ∀ (key : Word) (s : State), s.hubOn = true →
    (¬(key.toNat = 0x434F4E46 ∧ s.bootRec.stage = 4 ∧ 3 ≤ s.mode ∧ s.pw.wdtReset = false) →
      ∃ t, exec (.updateConfirm key) s = .next t ∧ t.bit Reg.updStat 8 = true ∧
        (∀ q : Reg, q.addr ≠ Reg.updStat.addr → t.rd q = s.rd q) ∧ t = { s with regs := t.regs }) ∧
    (key.toNat = 0x434F4E46 → s.bootRec.stage = 4 → 3 ≤ s.mode → s.pw.wdtReset = false → s.bootRec.promote = 0 →
      ∃ t, exec (.updateConfirm key) s = .next t ∧ t.bootRec.promote = 1 ∧ t.rd Reg.updPieces = 0 ∧
        t.fl.active = s.fl.active ∧ t.fl.staging = s.fl.staging ∧ t.fl.fallback = s.fl.fallback) ∧
    (key.toNat = 0x434F4E46 → s.bootRec.stage = 4 → 3 ≤ s.mode → s.pw.wdtReset = false → s.bootRec.promote ≠ 0 →
      exec (.updateConfirm key) s = .next s)

/-- A promotion goes on by sectors while no log flush is under way and no settings write waits, and stands still otherwise:
each sector but the last of a step counts one; the last of step 1 makes the active image the fallback, of step 2 the staged
image the active one, of step 3 empties staging, each with the boot record of the next step. While no log flush is under way
the operation of highest precedence completes, a waiting settings write first: a settings value is what firmware reads from
then on and its ticket is done; bytes for staging are appended in order; an erase takes one sector off, and its last empties
staging or the store entry and ends its ticket done. (R496, R499, R500, R501) -/
def Obligations.PromotionAndFlash : Prop :=
  (∀ (s : State), s.hubOn = true →
    (s.ev.flushing ≠ none ∨ s.fl.ops.any isSettings = true → exec .promotionSector s = .next s) ∧
    (s.ev.flushing = none → s.fl.ops.any isSettings = false →
    (s.bootRec.promote ≠ 0 → s.rd Reg.updPieces + 1 < s.promoteTotal → s.rd Reg.updPieces + 1 < 2 ^ 32 →
      ∃ t, exec .promotionSector s = .next t ∧ t.rd Reg.updPieces = s.rd Reg.updPieces + 1 ∧
        t = { s with regs := t.regs, pw := s.flashEnds.pw }) ∧
    (s.promoteTotal ≤ s.rd Reg.updPieces + 1 →
      (s.bootRec.promote = 1 → ∃ t, exec .promotionSector s = .next t ∧ t.fl.fallback = s.fl.active ∧ t.fl.active = s.fl.active ∧
        t.bootRec.promote = 2 ∧ t.bootRec.verF = s.bootRec.verA) ∧
      (s.bootRec.promote = 2 → ∃ t, exec .promotionSector s = .next t ∧ t.fl.active = s.fl.staging ∧
        t.fl.fallback = s.fl.fallback ∧ t.bootRec.promote = 3 ∧ t.bootRec.verA = s.bootRec.verS ∧ t.bootRec.next = 0) ∧
      (s.bootRec.promote = 3 → ∃ t, exec .promotionSector s = .next t ∧ t.fl.staging = [] ∧ t.fl.active = s.fl.active ∧
        t.bootRec.promote = 0 ∧ t.bootRec.stage = 0)))) ∧
  (∀ (s : State) (os : List FlashOp), s.hubOn = true → s.ev.flushing = none →
    (∀ k v i, nextFlash s.fl.ops = some (.settings k v i, os) → ∃ t, exec .flashOperationComplete s = .next t ∧
      t.settings = SMap.put s.settings k v ∧ t.fl.ops = os ∧
      ∀ j, i = some j → tktLive (s.tkt j) = true → (t.tkt j).state = 2 ∧ (t.tkt j).err = 0) ∧
    (∀ bs, nextFlash s.fl.ops = some (.stage bs, os) → ∃ t, exec .flashOperationComplete s = .next t ∧
      t.fl.staging = s.fl.staging ++ bs ∧ t.fl.active = s.fl.active ∧ t.fl.fallback = s.fl.fallback ∧ t.fl.ops = os) ∧
    (∀ left done i, nextFlash s.fl.ops = some (.stageErase left done i, os) →
      (left ≤ 1 → ∃ t, exec .flashOperationComplete s = .next t ∧ t.fl.staging = [] ∧ t.bootRec.stage = 0 ∧ t.bootRec.next = 0 ∧
        t.fl.ops = os ∧ (tktLive (s.tkt i) = true → (t.tkt i).state = 2)) ∧
      (1 < left → ∃ t, exec .flashOperationComplete s = .next t ∧ t.fl = { s.fl with ops := os ++ [.stageErase (left - 1) (done + 1) i] } ∧
        (tktLive (s.tkt i) = true → (t.tkt i).state = 1))) ∧
    (∀ e left done i, nextFlash s.fl.ops = some (.storeErase e left done i, os) →
      ∃ t, exec .flashOperationComplete s = .next t ∧ SMap.find t.fl.store e = none ∧ t.fl.staging = s.fl.staging ∧
        t.fl.ops = (if left ≤ 1 then os else .storeErase e (left - 1) (done + 1) i :: os) ∧
        (tktLive (s.tkt i) = true → (t.tkt i).state = if left ≤ 1 then 2 else 1)))

/-- With the hub on: an event enters the intake with its epoch, or is counted as discarded when 4,096 wait. With the recorder
running and its flash good, a write of FLUSH, or a cause of its own (256 slots waiting, the interval, a flush that waited),
starts a flush of the slots that wait; a checkpoint takes every slot to the other half, and waits while that is not erased,
which the end of the erase ends; an entry to mode 4 or 11 starts its own. A flush that completes ends with EV_FLUSH_EPOCH
loaded and FLUSH 0, its batch in the active half or its checkpoint in the other, which is then active; the reset that waited
for it follows; a failure sets FLASH_FAIL, and stops flushing when it was the checkpoint's; the flush of a mode change stops
at its limit. A readback takes the readable half with the higher GEN, counts what it holds as arrived, and runs the recorder;
with neither it records the loss. (R331, R508, R515, R516, R517) -/
def Obligations.EventLog : Prop :=
  ∀ (s : State), s.hubOn = true →
    (∀ (typ : BitVec 16) (sev : Fin 8) (loc ctx : Word) (addr : BitVec 48) (d : List Word) (m : Bool),
      (s.ev.intake.length < 4096 → ∃ t, exec (.eventIntake typ sev loc ctx addr d m) s = .next t ∧
        (∃ e, t.ev.intake = s.ev.intake ++ [e] ∧ e.key = ⟨typ.toNat, sev, loc.toNat, ctx.toNat, addr.toNat⟩ ∧
          e.epoch = s.epoch ∧ e.merge = m) ∧
        t.ev.arrived = (s.ev.arrived + 1) % 2 ^ 32 ∧ t = { s with ev := t.ev }) ∧
      (¬s.ev.intake.length < 4096 → ∃ t, exec (.eventIntake typ sev loc ctx addr d m) s = .next t ∧
        t.ev.intake = s.ev.intake ∧ t.ev.arrived = (s.ev.arrived + 1) % 2 ^ 32 ∧
        t.ev.discarded = (s.ev.discarded + 1) % 2 ^ 32 ∧ t = { s with ev := t.ev, regs := t.regs })) ∧
    (s.ev.flushing = none → s.ev.flashDead = false → s.bit Reg.evStat 29 = true → s.evWantCkpt = true →
      ((s.evHalf (!s.evActive)).erased = true → ∃ t, exec .evFlushWrite s = .next t ∧ t.ev.flushing = some (List.range logSlots) ∧
        t.ev.ckpt = true ∧ t.ev.dirty = [] ∧ t.bit Reg.evCtrl 31 = true) ∧
      ((s.evHalf (!s.evActive)).erased = false → ∃ t, exec .evFlushWrite s = .next t ∧ t.ev = { s.ev with flushWait := true } ∧
        t.bit Reg.evCtrl 31 = true) ∧
      ((s.evHalf (!s.evActive)).erased = false → s.ev.flushWait = true → ∃ t, exec .logHalfEraseComplete s = .next t ∧
        t.ev.flushing = some (List.range logSlots) ∧ t.ev.ckpt = true ∧ (t.evHalf (!s.evActive)).erased = true)) ∧
    (s.ev.flushing = none → s.ev.flashDead = false → s.bit Reg.evStat 29 = true → s.evWantCkpt = false →
      (∃ t, exec .evFlushWrite s = .next t ∧ t.ev.flushing = some s.ev.dirty ∧ t.ev.dirty = [] ∧ t.bit Reg.evCtrl 31 = true) ∧
      (s.modeFlushDue = false → 256 ≤ s.ev.dirty.length ∨ max 1 (s.fld Reg.evCtrl 15 0) ≤ s.ev.sinceFlush ∨ s.ev.flushWait = true → ∃ t, exec .logFlushStart s = .next t ∧
        t.ev.flushing = some s.ev.dirty ∧ t.ev.dirty = []) ∧
      (s.modeFlushDue = true → ∃ t, exec .logFlushStart s = .next t ∧ t.ev.flushing = some s.ev.dirty ∧ t.ev.flushMode = true)) ∧
    (∀ xs, s.ev.flushing = some xs →
      (s.pw.flushReset = false → ∃ t, exec (.logFlushComplete true) s = .next t ∧ t.ev.flushing = none ∧
        t.rd Reg.evFlushEpoch = s.rd Reg.mrEpochLo ∧ t.bit Reg.evCtrl 31 = false ∧ t.ev.slots = s.ev.slots ∧
        (t.evHalf (if s.ev.ckpt then !s.evActive else s.evActive)).valid = true ∧
        (s.ev.ckpt = false → (t.evHalf s.evActive).batches = (s.evHalf s.evActive).batches ++ [xs.map (fun k => (k, SMap.find s.ev.slots k))]) ∧
        (s.ev.ckpt = true → (t.evHalf (!s.evActive)).ckpt = s.ev.slots ∧ (t.evHalf (!s.evActive)).batches = [] ∧
          t.bit Reg.evStat 28 = !s.evActive ∧ (t.evHalf s.evActive).valid = false)) ∧
      (s.pw.aon = true → s.pw.flushReset = true → (s.flushDone xs).failureUnflushed = false → ∃ t, exec (.logFlushComplete true) s = .next t ∧
        t.mode = 1 ∧ t.fld Reg.pmStat 11 4 = 3) ∧
      (∃ t, exec (.logFlushComplete false) s = .next t ∧ t.ev.flushing = none ∧ t.bit Reg.evStat 30 = true ∧
        t.ev.flashDead = s.ev.ckpt ∧ t.ev.slots = s.ev.slots) ∧
      (s.ev.flushMode = true → ∃ t, exec .logFlushStop s = .next t ∧ t.ev.flushing = none ∧ t.ev.flushMode = false ∧
        t.rd Reg.evFlushEpoch = s.rd Reg.mrEpochLo ∧ (t.evHalf s.evActive).valid = true)) ∧
    ((s.evHalf (!s.evActive)).erased = false → s.ev.flushWait = false → ∃ t, exec .logHalfEraseComplete s = .next t ∧
      (t.evHalf (!s.evActive)).erased = true ∧ (t.evHalf (!s.evActive)).valid = false ∧ t = { s with ev := t.ev }) ∧
    (s.bit Reg.evStat 29 = false →
      (∀ badA badB,
        (∀ m, s.ev.halfA.read badA = some m → s.ev.halfB.read badB = none ∨ s.ev.halfB.gen ≤ s.ev.halfA.gen →
          ∃ t, exec (.logReadbackComplete badA badB) s = .next t ∧ t.ev.slots = m ∧ t.bit Reg.evStat 29 = true ∧ t.bit Reg.evStat 28 = false ∧
            t.ev.arrived = (m.map (fun (e : Nat × EvRec) => e.2.rep)).sum + s.ev.intake.length ∧
            t.ev.discarded = 0 ∧ t.ev.overwritten = 0 ∧ t.ev.cleared = 0) ∧
        (∀ m, s.ev.halfB.read badB = some m → s.ev.halfA.read badA = none ∨ s.ev.halfA.gen < s.ev.halfB.gen →
          ∃ t, exec (.logReadbackComplete badA badB) s = .next t ∧ t.ev.slots = m ∧ t.bit Reg.evStat 29 = true ∧ t.bit Reg.evStat 28 = true ∧
            t.ev.arrived = (m.map (fun (e : Nat × EvRec) => e.2.rep)).sum + s.ev.intake.length ∧
            t.ev.discarded = 0 ∧ t.ev.overwritten = 0 ∧ t.ev.cleared = 0) ∧
        (s.ev.halfA.read badA = none → s.ev.halfB.read badB = none → ∃ t r, exec (.logReadbackComplete badA badB) s = .next t ∧
          t.bit Reg.evStat 29 = true ∧ t.ev.slots = [(0, r)] ∧ r.key = ⟨0x0C01, 4, 0, 0, 0⟩)))

/-- A write of PM_INVAL begins the invalidation with the Page Map's cache as it was, and its end empties the cache. A write of
LIMIT_GIB (a value outside 2 to 24 is taken as 16) takes effect while no run is held and every extent lies below the new
limit, and else changes nothing. The end of a compaction's move, with no load waiting for it, gives an object that is still
allocated and MOVING its new extent, and changes no extent otherwise. (R184, R186, R188) -/
def Obligations.PageStore : Prop :=
  ∀ (s : State), s.hubOn = true →
    (∃ t, exec .pmInval s = .next t ∧ t.so.invalidating = true ∧ t.bit Reg.soCtrl 1 = true ∧ t.so.pmCache = s.so.pmCache ∧
      ∀ a, t.byte a = s.byte a) ∧
    (s.so.invalidating = true → ∃ t, exec .pmInvalComplete s = .next t ∧ t.so.pmCache = [] ∧ t.so.invalidating = false ∧
      t.bit Reg.soCtrl 1 = false ∧ t.so.pmAlloc = s.so.pmAlloc ∧ ∀ a, t.byte a = s.byte a) ∧
    (∀ (w : Word) (l : Nat), l = (if 2 ≤ w.toNat % 32 ∧ w.toNat % 32 ≤ 24 then w.toNat % 32 else 16) →
      ((∀ e ∈ s.so.runs, e.2.state = .empty) → (∀ e ∈ s.so.pmAlloc, e.2.2.1 + e.2.2.2 ≤ l * 16384) → ∃ t, exec (.psLimitWrite w) s = .next t ∧
        t.fld Reg.soPsCfg 4 0 = l ∧ (∀ q : Reg, q.addr ≠ Reg.soPsCfg.addr → t.rd q = s.rd q) ∧ t = { s with regs := t.regs }) ∧
      ((∃ e ∈ s.so.runs, e.2.state ≠ .empty) ∨ (∃ e ∈ s.so.pmAlloc, l * 16384 < e.2.2.1 + e.2.2.2) → exec (.psLimitWrite w) s = .next s)) ∧
    (∀ (m : Tile) (v : CompMove), SMap.find s.so.comp m = some v → (∀ e ∈ s.fk.loads, e.2.reserved = true) →
      ((s.pmGet v.handle noRun).2.stat = 2 → (SMap.find s.so.pmAlloc v.handle).isSome = true → ∃ t, exec (.compactionMoveComplete m) s = .next t ∧
        SMap.find t.so.pmAlloc v.handle = some ((m : Nat), v.granule, (s.pmGet v.handle noRun).2.len)) ∧
      ((s.pmGet v.handle noRun).2.stat ≠ 2 → ∃ t, exec (.compactionMoveComplete m) s = .next t ∧ t.so.pmAlloc = s.so.pmAlloc))

/-- A write of a register sets its RW fields, clears the W1C bits that are written as 1 and leaves its RO fields and every
other register: here in PM_WAKE_KEY, all of it RW; in PM_FAULT, nine W1C bits whose PM_STAT.FAULT_N follows; and in
MR_EPOCH_LO, all of it RO. The write of another master ends a core's reservation on the granule that it touches, and changes
nothing else. A write to an address that no register takes changes nothing. (R16, R17, R18, R19, R269) -/
def Obligations.RegisterWrites : Prop :=
  ∀ (mid : Byte) (w : Word) (s : State), s.hubOn = true →
    (let rest : State → Nat → Prop := fun t a => t = { s with regs := t.regs, dbg := { s.dbg with cores := t.dbg.cores } } ∧
      ∀ c, c < 4 → t.core c = ({ s.core c with reservation := (s.core c).reservation.filter (fun g => c == mid.toNat || !(decide (a < g + 64) && decide (g < a + 4))) } : CoreSt);
    (∃ t, exec (.registerWrite mid 0xC w) s = .next t ∧ t.rd Reg.pmWakeKey = w.toNat ∧
      (∀ q : Reg, q.addr ≠ 0xC → t.rd q = s.rd q) ∧ rest t 0xC) ∧
    (∃ t, exec (.registerWrite mid 0x10 w) s = .next t ∧
      (∀ i, i < 9 → t.bit Reg.pmFault i = (s.bit Reg.pmFault i && !bitOf w.toNat i)) ∧
      t.fld Reg.pmFault 31 16 = s.fld Reg.pmFault 31 16 ∧
      t.bit Reg.pmStat 14 = (t.fld Reg.pmFault 15 0 != 0) ∧
      (∀ q : Reg, q.addr ≠ 0x10 → q.addr ≠ Reg.pmStat.addr → t.rd q = s.rd q) ∧ rest t 0x10) ∧
    (∃ t, exec (.registerWrite mid 0x10080 w) s = .next t ∧ t.rd Reg.mrEpochLo = s.rd Reg.mrEpochLo ∧
      (∀ q : Reg, q.addr ≠ 0x10080 → t.rd q = s.rd q) ∧ rest t 0x10080)) ∧
    (∀ a : BitVec 48, inRegs a.toNat = false ∨ a.toNat % 4 ≠ 0 → exec (.registerWrite mid a w) s = .next s)

/-- An epoch strobe, while the hub is on and the count runs, moves the epoch count on by one, and does nothing while it does
not run. (R30, R32) -/
def Obligations.EpochMovesOn : Prop :=
  ∀ (s : State),
    (s.hubOn = true → s.bit Reg.mrEpochStat 0 = true → ∃ t, exec .epochStrobe s = .next t ∧ t.epoch = (s.epoch + 1) % 2 ^ 64) ∧
    (s.hubOn = false ∨ s.bit Reg.mrEpochStat 0 = false → exec .epochStrobe s = .next s)

/-- Each MAC control frame of opcode 0x0001 or 0x0101 that a port receives is counted in VL_LPk_PAUSE and discarded: nothing
is sent and nothing else changes. (R371) -/
def Obligations.PauseFramesAreCounted : Prop :=
  ∀ (port : Fin 9) (s : State), s.lpUp port = true →
    (∃ t, exec (.pauseFrame port true) s = .next t ∧
      t.fld (Reg.vlLpPause port) 15 0 = min 0xFFFF (s.fld (Reg.vlLpPause port) 15 0 + 1) ∧
      t.fld (Reg.vlLpPause port) 31 16 = s.fld (Reg.vlLpPause port) 31 16 ∧
      (∀ q : Reg, q.addr ≠ (Reg.vlLpPause port).addr → t.rd q = s.rd q) ∧ t = { s with regs := t.regs }) ∧
    (∃ t, exec (.pauseFrame port false) s = .next t ∧
      t.fld (Reg.vlLpPause port) 31 16 = min 0xFFFF (s.fld (Reg.vlLpPause port) 31 16 + 1) ∧
      t.fld (Reg.vlLpPause port) 15 0 = s.fld (Reg.vlLpPause port) 15 0 ∧
      (∀ q : Reg, q.addr ≠ (Reg.vlLpPause port).addr → t.rd q = s.rd q) ∧ t = { s with regs := t.regs })

/-- A step takes the command at the front of the queue and runs it on the state with the queue's rest; on an empty queue the
block idles, which is the model's choice (log entry 25). -/
def Obligations.StepRunsFront : Prop :=
  (∀ (c : Instr) (cs : List Instr) (s : State), step { s with pending := c :: cs } = exec c { s with pending := cs }) ∧
  (∀ s : State, s.pending = [] → step s = .next s)

/-- What the cold reset leaves: mode 1 with row W1 in its first attempt, wake source 5, every switched domain off, no fuse
being programmed, and, of the registers, TC_MC_CTRL, UPD_CFG, MR_EPOCH_LO and PM_FAULT at the reset values of their tables.
That memory lists nothing (log entry 4) and that no command waits are the model's choice. (R48, R459, R522) -/
def Obligations.ResetState : Prop :=
  State.reset.mode = 1 ∧ State.reset.pw.aon = true ∧ State.reset.fld Reg.pmStat 11 4 = 1 ∧
  State.reset.fld Reg.pmWakeStat 9 8 = 1 ∧ State.reset.fld Reg.pmWakeStat 19 16 = 5 ∧
  (∀ d, State.reset.domOn d = false) ∧ (∀ a, State.reset.byte a = 0) ∧ State.reset.pending = [] ∧
  State.reset.memOk ∧ State.reset.fuseInv ∧
  (∀ n : Tile, State.reset.fld (Reg.tcMcCtrl n) 15 8 = 120 ∧ State.reset.fld (Reg.tcMcCtrl n) 7 0 = 120) ∧
  State.reset.rd Reg.updCfg = 600 ∧ State.reset.rd Reg.mrEpochLo = 0 ∧ State.reset.rd Reg.pmFault = 0

/-- Every command of the table has an effect in every state: exec never faults and never refuses. -/
def Obligations.EveryCommandCompletes : Prop :=
  ∀ (c : Instr) (s : State), Completes (exec c s)

/-- No step disturbs the canonical form of memory: from every state whose memory is in that form, each step that answers a
next state keeps it. (R35, R39) -/
def Obligations.MemoryStaysCanonical : Prop :=
  ∀ (s t : State), s.memOk → step s = .next t → t.memOk

/-- Whatever is commanded, a programmed fuse key, signer slot, revocation or BKEY_FORBID stays as it is: from every state in
which a key is being programmed only where none stands, an invariant that every step keeps. (R155, R156, R490) -/
def Obligations.FusesNeverChange : Prop :=
  ∀ (s t : State), s.fuseInv → step s = .next t → FusesKept s t ∧ t.fuseInv

/-- No command's effect reaches the queue: a step takes one command from it and nothing else. -/
def Obligations.QueueLosesOnlyItsFront : Prop :=
  ∀ (s t : State), step s = .next t → t.pending = s.pending.tail

/-- The commands that store nothing (Safety.lean lists those that may) leave every byte of the address space as it was. -/
def Obligations.StoringCommandsAlone : Prop :=
  ∀ (c : Instr) (s t : State), c.mayStore = false → exec c s = .next t → t.mem = s.mem ∧ ∀ a, t.byte a = s.byte a

/-- Frame of the commands of one shape each, grouped by the parts of the state that they may change: registers, one unit or a
few, the event recorder, the memory where it is named. Every other part of the state, the queue among it, stays as it is. -/
def Obligations.UnitCommandsFrame : Prop :=
    (let ch : State → State → State := fun s _ => s;
      (∀ (n g : Tile), OnlyChanges ch (.idle n g))) ∧
    (let ch : State → State → State := fun s t => { s with cr := t.cr };
      (∀ (n g : Tile), OnlyChanges ch (.dlpEnter n g))) ∧
    (let ch : State → State → State := fun s t => { s with dbg := t.dbg };
      (∀ (c : Fin 4), OnlyChanges ch (.reservationExpiry c)) ∧ OnlyChanges ch .dbgaccPoll ∧ OnlyChanges ch .tapIdcode ∧
      OnlyChanges ch .tapDbgacc) ∧
    (let ch : State → State → State := fun s t => { s with fab := t.fab };
      (∀ (k : Fin 12), OnlyChanges ch (.dclkoFall k)) ∧
      (∀ (k : Fin 12) (pins : BitVec 48), OnlyChanges ch (.designInputSample k pins)) ∧
      (∀ (k : Fin 12), OnlyChanges ch (.burstTransfer k)) ∧
      (∀ (k : Fin 12) (words : List (BitVec 48)), OnlyChanges ch (.inputBurst k words))) ∧
    (let ch : State → State → State := fun s t => { s with mcs := t.mcs };
      (∀ (c : Fin 20) (target : Fin 32) (rank : Fin 8) (bank : Fin 64), OnlyChanges ch (.refreshDue c target rank bank))) ∧
    (let ch : State → State → State := fun s t => { s with pw := t.pw };
      OnlyChanges ch .pwrEnRestore) ∧
    (let ch : State → State → State := fun s t => { s with regs := t.regs };
      (∀ (n : Tile) (target : Byte), OnlyChanges ch (.mcTargetWrite n target)) ∧
      (∀ (n : Tile), OnlyChanges ch (.microClockSwitch n)) ∧
      (∀ (n : Tile) (b : Bay) (q : Fin 4), OnlyChanges ch (.marginMinRead n b q)) ∧
      (∀ (c : Fin 4), OnlyChanges ch (.watchdogKick c)) ∧ (∀ (c : Fin 4), OnlyChanges ch (.lbTxConsumeRead c)) ∧
      (∀ (c : Fin 4), OnlyChanges ch (.lbRxConsumeRead c)) ∧
      (∀ (n g : Tile) (lane : Fin 16), OnlyChanges ch (.handback n g lane)) ∧
      (∀ (d : Dom), OnlyChanges ch (.domainFailClear d)) ∧ (∀ (r : Byte), OnlyChanges ch (.regionDisable r)) ∧
      (∀ (c : Fin 20) (word : Word), OnlyChanges ch (.modeRegisterAccess c word)) ∧
      (∀ (word : Word), OnlyChanges ch (.psLimitWrite word)) ∧ OnlyChanges ch .routingSwitch ∧
      (∀ (bank : Fin 2) (src dst : Fin 18) (word : Word), OnlyChanges ch (.routingTableWrite bank src dst word)) ∧
      (∀ (n : Tile) (upsets : List (Fin 22 × Fin 3 × Fin 32)), OnlyChanges ch (.voterRepair n upsets)) ∧
      (∀ (port : Fin 9) (pfc : Bool), OnlyChanges ch (.pauseFrame port pfc)) ∧
      (∀ (port : Fin 9) (up : Bool), OnlyChanges ch (.hostLinkChange port up)) ∧
      (∀ (value : Word), OnlyChanges ch (.bootHeartbeatWrite value))) ∧
    (let ch : State → State → State := fun s t => { s with rnd := t.rnd };
      (∀ (stop dest : Fin 18), OnlyChanges ch (.stampIdleReturn stop dest))) ∧
    (let ch : State → State → State := fun s t => { s with tal := t.tal };
      (∀ (stop : Fin 18), OnlyChanges ch (.tallyReport stop))) ∧
    (let ch : State → State → State := fun s t => { s with draw := t.draw, dbg := t.dbg };
      OnlyChanges ch .tapExtest ∧ OnlyChanges ch .tapSamplePreload ∧ (∀ (code : Fin 32), OnlyChanges ch (.tapBypass code))) ∧
    (let ch : State → State → State := fun s t => { s with mem := t.mem, fab := t.fab };
      (∀ (n : Tile) (b : Bay), OnlyChanges ch (.planeStepEnd n b))) ∧
    (let ch : State → State → State := fun s t => { s with regs := t.regs, cr := t.cr };
      (∀ (n g : Tile) (lane : Fin 16) (tap : Fin 16) (value : Byte), OnlyChanges ch (.eqAck n g lane tap value))) ∧
    (let ch : State → State → State := fun s t => { s with regs := t.regs, dbg := t.dbg };
      (∀ (c : Fin 4), OnlyChanges ch (.coreHalt c)) ∧ (∀ (c : Fin 4), OnlyChanges ch (.coreResume c)) ∧
      (∀ (c : Fin 4), OnlyChanges ch (.coreStep c)) ∧ (∀ (c : Fin 4) (word : Word), OnlyChanges ch (.lbTxWrite c word)) ∧
      (∀ (c : Fin 4) (word : Word), OnlyChanges ch (.lbRxWrite c word)) ∧
      (∀ (c : Fin 4) (toCore : Bool) (count : Fin 4) (bytes : BitVec 24), OnlyChanges ch (.vtData c toCore count bytes)) ∧
      (∀ (c : Fin 4) (toCore : Bool), OnlyChanges ch (.vtOpen c toCore)) ∧
      (∀ (c : Fin 4) (toCore : Bool), OnlyChanges ch (.vtClose c toCore)) ∧ (∀ (c : Fin 4), OnlyChanges ch (.vtBreak c)) ∧
      (∀ (c : Fin 4) (toCore : Bool), OnlyChanges ch (.vtTerminalReset c toCore)) ∧
      (∀ (c : Fin 4) (toCore : Bool) (credit : BitVec 16), OnlyChanges ch (.vtCredit c toCore credit))) ∧
    (let ch : State → State → State := fun s t => { s with regs := t.regs, ev := t.ev };
      (∀ (n : Tile), OnlyChanges ch (.relockTimeout n)) ∧
      (∀ (n : Tile) (lane : Fin 16) (interval : Word) (cwPos : Fin 16) (skew : Byte) (peerTag : BitVec 16) (mirror : Fin 16), OnlyChanges ch (.marker n lane interval cwPos skew peerTag mirror)) ∧
      (∀ (typ : BitVec 16) (sev : Fin 8) (loc ctx : Word) (addr : BitVec 48) (detail : List Word) (merge : Bool), OnlyChanges ch (.eventIntake typ sev loc ctx addr detail merge)) ∧
      OnlyChanges ch .evFlushWrite ∧ OnlyChanges ch .logHalfEraseComplete ∧
      (∀ (badA badB : Option Nat), OnlyChanges ch (.logReadbackComplete badA badB)) ∧
      (∀ (n : Tile) (sb : Bool), OnlyChanges ch (.sweepBoundExceeded n sb))) ∧
    (let ch : State → State → State := fun s t => { s with regs := t.regs, fab := t.fab };
      (∀ (n : Tile) (b : Bay) (q : Fin 4) (margin : Byte), OnlyChanges ch (.delayMonitorSample n b q margin)) ∧
      (∀ (n : Tile) (b : Bay) (p : Plane), OnlyChanges ch (.relOpFirstStart n b p)) ∧
      (∀ (n : Tile) (b : Bay) (p : Plane), OnlyChanges ch (.relOpResume n b p)) ∧
      (∀ (n : Tile) (b : Bay) (p : Plane), OnlyChanges ch (.relOpHold n b p)) ∧
      (∀ (n : Tile) (b : Bay) (p : Plane), OnlyChanges ch (.releaseStageAdvance n b p)) ∧
      (∀ (n : Tile), OnlyChanges ch (.holdLiftStage n)) ∧ (∀ (n : Tile) (k : Fin 8), OnlyChanges ch (.mmpFlush n k)) ∧
      (∀ (n : Tile) (k : Fin 8), OnlyChanges ch (.mmpFlushComplete n k)) ∧ (∀ (n : Tile), OnlyChanges ch (.scrubRestore n))) ∧
    (let ch : State → State → State := fun s t => { s with regs := t.regs, fk := t.fk };
      (∀ (mid : Byte) (key : Word), OnlyChanges ch (.fkUnlock mid key)) ∧ OnlyChanges ch .unlockTimeout ∧
      (∀ (mid : Byte), OnlyChanges ch (.fuseKeyProg mid)) ∧ OnlyChanges ch .fuseProgComplete ∧
      (∀ (mid : Byte), OnlyChanges ch (.forbidBkey mid)) ∧ (∀ (mid : Byte), OnlyChanges ch (.bkeyCommit mid)) ∧
      (∀ (mid : Byte), OnlyChanges ch (.bkeyErase mid)) ∧ (∀ (mid : Byte), OnlyChanges ch (.imgSlotProg mid)) ∧
      (∀ (mid : Byte), OnlyChanges ch (.imgSlotRevoke mid)) ∧ (∀ (mid : Byte), OnlyChanges ch (.fwSlotProg mid)) ∧
      (∀ (mid : Byte), OnlyChanges ch (.fwSlotRevoke mid)) ∧ OnlyChanges ch .vbatLoss) ∧
    (let ch : State → State → State := fun s t => { s with regs := t.regs, fl := t.fl };
      (∀ (key : Word), OnlyChanges ch (.updateConfirm key))) ∧
    (let ch : State → State → State := fun s t => { s with regs := t.regs, ic := t.ic };
      (∀ (key : BitVec 256), OnlyChanges ch (.rootKeyDrawn key)) ∧ (∀ (r : Byte), OnlyChanges ch (.regionEnable r)) ∧
      (∀ (r : Byte), OnlyChanges ch (.regionZero r)) ∧
      (∀ (offset : Fin 5) (word : Word), OnlyChanges ch (.icCrWrite offset word))) ∧
    (let ch : State → State → State := fun s t => { s with regs := t.regs, mcs := t.mcs };
      (∀ (c : Fin 20) (fail : BitVec 64) (errs first : Word), OnlyChanges ch (.trainingOpComplete c fail errs first)) ∧
      (∀ (c : Fin 20) (word : Word), OnlyChanges ch (.delayValueWrite c word)) ∧
      (∀ (c : Fin 20) (data : Byte), OnlyChanges ch (.modeRegisterAccessComplete c data))) ∧
    (let ch : State → State → State := fun s t => { s with regs := t.regs, pw := t.pw };
      (∀ (d : Dom), OnlyChanges ch (.domainPowerDown d)) ∧ (∀ (n : Tile) (b : Bay), OnlyChanges ch (.bayIdlePowerDown n b)) ∧
      (∀ (n : Tile), OnlyChanges ch (.tileIdlePowerDown n)) ∧ (∀ (d : Dom), OnlyChanges ch (.domainWakeRequest d))) ∧
    (let ch : State → State → State := fun s t => { s with regs := t.regs, rnd := t.rnd };
      (∀ (stop : Fin 18) (ring : Fin 8) (dir : Fin 2), OnlyChanges ch (.linkNak stop ring dir)) ∧
      (∀ (index : Nat), OnlyChanges ch (.returnedRequest index))) ∧
    (let ch : State → State → State := fun s t => { s with regs := t.regs, so := t.so };
      (∀ (n : Tile) (b : Bay) (p : Plane) (value : BitVec 64), OnlyChanges ch (.dccWrite n b p value)) ∧
      OnlyChanges ch .pmInval ∧ OnlyChanges ch .pmInvalComplete ∧
      (∀ (unit : Fin 64), OnlyChanges ch (.triggerWithinExpiry unit))) ∧
    (let ch : State → State → State := fun s t => { s with regs := t.regs, sp := t.sp };
      (∀ (b : Fin 16) (mid owner : Byte), OnlyChanges ch (.scratchpadHandover b mid owner)) ∧
      (∀ (b : Fin 16), OnlyChanges ch (.scratchpadHandoverComplete b))) ∧
    (let ch : State → State → State := fun s t => { s with rnd := t.rnd, mcs := t.mcs };
      (∀ (index : Nat), OnlyChanges ch (.packetAgeRise index))) ∧
    (let ch : State → State → State := fun s t => { s with regs := t.regs, draw := t.draw, dbg := t.dbg };
      (∀ (c : Fin 4), OnlyChanges ch (.coreHaltTakesEffect c))) ∧
    (let ch : State → State → State := fun s t => { s with regs := t.regs, draw := t.draw, ev := t.ev };
      OnlyChanges ch .logFlushStop) ∧
    (let ch : State → State → State := fun s t => { s with regs := t.regs, ev := t.ev, cr := t.cr };
      (∀ (n : Tile) (lane : Fin 16) (cw : Codeword) (interval : Word) (first : BitVec 14) (mirrorOk : Bool), OnlyChanges ch (.codewordReceive n lane cw interval first mirrorOk))) ∧
    (let ch : State → State → State := fun s t => { s with regs := t.regs, ev := t.ev, dbg := t.dbg };
      (∀ (c : Fin 4) (k : Fin 8) (kind : Fin 3) (addr : BitVec 48) (len : Fin 65) (pc : BitVec 64) (ctxid : BitVec 16), OnlyChanges ch (.comparatorMatch c k kind addr len pc ctxid))) ∧
    (let ch : State → State → State := fun s t => { s with regs := t.regs, ev := t.ev, ic := t.ic };
      (∀ (r : Byte), OnlyChanges ch (.regionRekey r))) ∧
    (let ch : State → State → State := fun s t => { s with regs := t.regs, ev := t.ev, mcs := t.mcs };
      (∀ (c : Fin 20) (word : Word), OnlyChanges ch (.spareGo c word))) ∧
    (let ch : State → State → State := fun s t => { s with regs := t.regs, ev := t.ev, pw := t.pw };
      OnlyChanges ch .logFlushStart) ∧
    (let ch : State → State → State := fun s t => { s with regs := t.regs, ev := t.ev, rnd := t.rnd };
      (∀ (stop : Fin 18) (ring : Fin 8) (dir : Fin 2) (ok : Bool), OnlyChanges ch (.linkRetrainComplete stop ring dir ok)) ∧
      (∀ (index : Nat), OnlyChanges ch (.resumeNotice index))) ∧
    (let ch : State → State → State := fun s t => { s with regs := t.regs, ev := t.ev, sp := t.sp };
      (∀ (b : Fin 16) (corrected : Nat) (double : List Nat), OnlyChanges ch (.scratchpadPatrol b corrected double))) ∧
    (let ch : State → State → State := fun s t => { s with regs := t.regs, fab := t.fab, ev := t.ev };
      (∀ (n : Tile) (b : Bay), OnlyChanges ch (.exchangeStall n b))) ∧
    (let ch : State → State → State := fun s t => { s with regs := t.regs, fab := t.fab, so := t.so };
      (∀ (index : Nat), OnlyChanges ch (.exchangeBundleArrival index)) ∧
      (∀ (n : Tile) (b : Bay) (waited : BitVec 16) (ioWait : BitVec 2) (mmpWait : Byte), OnlyChanges ch (.designCycleBegin n b waited ioWait mmpWait))) ∧
    (let ch : State → State → State := fun s t => { s with regs := t.regs, loStage := t.loStage, dbg := t.dbg };
      (∀ (c : Fin 4) (write : Bool) (hi : Bool) (value : Word), OnlyChanges ch (.coreRegdataAccess c write hi value))) ∧
    (let ch : State → State → State := fun s t => { s with regs := t.regs, mem := t.mem, fab := t.fab };
      (∀ (n : Tile) (sb : Bool), OnlyChanges ch (.scrubCorrection n sb))) ∧
    (let ch : State → State → State := fun s t => { s with regs := t.regs, pw := t.pw, fl := t.fl };
      OnlyChanges ch .promotionSector) ∧
    (let ch : State → State → State := fun s t => { s with regs := t.regs, so := t.so, ev := t.ev };
      (∀ (unit : Fin 64), OnlyChanges ch (.triggerEnable unit))) ∧
    (let ch : State → State → State := fun s t => { s with regs := t.regs, so := t.so, mcs := t.mcs };
      (∀ (c : Fin 20) (target : Fin 32) (rank : Fin 8) (taps : Byte), OnlyChanges ch (.driftMeasure c target rank taps)) ∧
      (∀ (c : Fin 20), OnlyChanges ch (.retrainIsolate c))) ∧
    (let ch : State → State → State := fun s t => { s with regs := t.regs, draw := t.draw, dbg := t.dbg, pw := t.pw };
      (∀ (row : WakeRow), OnlyChanges ch (.wakeRowRetry row))) ∧
    (let ch : State → State → State := fun s t => { s with regs := t.regs, draw := t.draw, ev := t.ev, cr := t.cr };
      (∀ (n g : Tile), OnlyChanges ch (.markerSend n g)) ∧
      (∀ (n g : Tile) (lane : Fin 16), OnlyChanges ch (.takeoverReq n g lane))) ∧
    (let ch : State → State → State := fun s t => { s with regs := t.regs, draw := t.draw, ev := t.ev, mcs := t.mcs };
      (∀ (c : Fin 20) (bad : List BadSym), OnlyChanges ch (.patrolRead c bad))) ∧
    (let ch : State → State → State := fun s t => { s with regs := t.regs, draw := t.draw, ev := t.ev, tal := t.tal };
      (∀ (slot : Fin 12288), OnlyChanges ch (.leafRebuild slot))) ∧
    (let ch : State → State → State := fun s t => { s with regs := t.regs, fab := t.fab, so := t.so, pw := t.pw };
      (∀ (entry : Fin 1024) (pauseNs : Word), OnlyChanges ch (.snapshotPauseEnd entry pauseNs))) ∧
    (let ch : State → State → State := fun s t => { s with regs := t.regs, loStage := t.loStage, rnd := t.rnd, dbg := t.dbg };
      OnlyChanges ch .debugReset) ∧
    (let ch : State → State → State := fun s t => { s with regs := t.regs, mem := t.mem, fab := t.fab, dbg := t.dbg };
      (∀ (n : Tile) (frame : Fin 786432) (mid : Byte) (offset : Fin 512) (bytes : List Byte), OnlyChanges ch (.frameWrite n frame mid offset bytes))) ∧
    (let ch : State → State → State := fun s t => { s with regs := t.regs, mem := t.mem, mcs := t.mcs, ic := t.ic };
      (∀ (c : Fin 20) (word : Word), OnlyChanges ch (.trainingOp c word))) ∧
    (let ch : State → State → State := fun s t => { s with regs := t.regs, draw := t.draw, ev := t.ev, mcs := t.mcs, fl := t.fl };
      (∀ (c : Fin 20) (bad : List (Fin 64 × BadSym)), OnlyChanges ch (.migrationPieceComplete c bad))) ∧
    (let ch : State → State → State := fun s t => { s with regs := t.regs, draw := t.draw, ev := t.ev, rnd := t.rnd, dbg := t.dbg };
      (∀ (addr : BitVec 48) (consume : Bool), OnlyChanges ch (.dbgaccRead addr consume)) ∧
      (∀ (addr : BitVec 48) (data : Word), OnlyChanges ch (.dbgaccWrite addr data))) ∧
    (let ch : State → State → State := fun s t => { s with regs := t.regs, draw := t.draw, ev := t.ev, tal := t.tal, pw := t.pw };
      (∀ (badA badB badNodes : List Nat), OnlyChanges ch (.tallyAudit badA badB badNodes))) ∧
    (let ch : State → State → State := fun s t => { s with regs := t.regs, draw := t.draw, tal := t.tal, dbg := t.dbg, pw := t.pw };
      (∀ (pg : Fin 16), OnlyChanges ch (.powerGoodReturn pg)) ∧ OnlyChanges ch .wakePin ∧
      (∀ (f : EthFrame), OnlyChanges ch (.wakePattern f)) ∧ (∀ (f : EthFrame), OnlyChanges ch (.mpActivityWake f)) ∧
      OnlyChanges ch .wakeRetry) ∧
    (let ch : State → State → State := fun s t => { s with regs := t.regs, mem := t.mem, draw := t.draw, fab := t.fab, ev := t.ev };
      (∀ (n : Tile) (sb : Bool) (upsets : List Nat), OnlyChanges ch (.scrubFrameRead n sb upsets))) ∧
    (let ch : State → State → State := fun s t => { s with regs := t.regs, mem := t.mem, ev := t.ev, ic := t.ic, dbg := t.dbg };
      (∀ (r : Byte), OnlyChanges ch (.rekeySectorComplete r))) ∧
    (let ch : State → State → State := fun s t => { s with regs := t.regs, fab := t.fab, so := t.so, ev := t.ev, tal := t.tal, pw := t.pw };
      (∀ (c : Fin 20) (temp : Byte), OnlyChanges ch (.dramTempRead c temp))) ∧
    (let ch : State → State → State := fun s t => { s with regs := t.regs, mem := t.mem, ev := t.ev, mcs := t.mcs, ic := t.ic, dbg := t.dbg };
      (∀ (r : Byte), OnlyChanges ch (.regionFillComplete r)))

/-- Frame of the commands that reach the Vollor port: grouped by the parts of the state that they may change beside the port
itself. Every other part of the state, memory and the queue among it, stays as it is. -/
def Obligations.PortCommandsFrame : Prop :=
    (let ch : State → State → State := fun s t => { s with vl := t.vl };
      (∀ (client : Fin 64), OnlyChanges ch (.designList client)) ∧ (∀ (client : Fin 64), OnlyChanges ch (.laneStatus client)) ∧
      OnlyChanges ch .envelopeDispatch ∧ (∀ (port : Fin 9) (ip : Word), OnlyChanges ch (.arpRequest port ip)) ∧
      (∀ (port : Fin 9) (ip : BitVec 128), OnlyChanges ch (.neighborSolicitation port ip)) ∧
      (∀ (port : Fin 9) (v6 : Bool) (data : List Byte), OnlyChanges ch (.icmpEcho port v6 data)) ∧
      (∀ (client : Fin 64), OnlyChanges ch (.runList client)) ∧ (∀ (client : Fin 64), OnlyChanges ch (.streamOpen client)) ∧
      (∀ (client : Fin 64), OnlyChanges ch (.streamClose client)) ∧ (∀ (client : Fin 64), OnlyChanges ch (.echo client)) ∧
      (∀ (client : Fin 64), OnlyChanges ch (.info client)) ∧ (∀ (client : Fin 64), OnlyChanges ch (.ready client)) ∧
      (∀ (client : Fin 64), OnlyChanges ch (.systemReset client)) ∧ (∀ (client : Fin 64), OnlyChanges ch (.time client)) ∧
      (∀ (client : Fin 64), OnlyChanges ch (.clientClose client)) ∧ (∀ (client : Fin 64), OnlyChanges ch (.modeGet client)) ∧
      (∀ (client : Fin 64), OnlyChanges ch (.powerGet client)) ∧ (∀ (client : Fin 64), OnlyChanges ch (.updateStatus client)) ∧
      (∀ (client : Fin 64), OnlyChanges ch (.settingsRead client)) ∧ (∀ (client : Fin 64), OnlyChanges ch (.logRead client)) ∧
      (∀ (client : Fin 64), OnlyChanges ch (.logStatus client))) ∧
    (let ch : State → State → State := fun s t => { s with draw := t.draw, vl := t.vl };
      (∀ (client : Fin 64), OnlyChanges ch (.streamData client))) ∧
    (let ch : State → State → State := fun s t => { s with fk := t.fk, vl := t.vl };
      (∀ (client : Fin 64), OnlyChanges ch (.loadData client))) ∧
    (let ch : State → State → State := fun s t => { s with regs := t.regs, vl := t.vl };
      (∀ (client : Fin 64), OnlyChanges ch (.storeList client)) ∧
      (∀ (index : Fin 4096), OnlyChanges ch (.ticketReclaim index)) ∧ (∀ (f : HostFrame), OnlyChanges ch (.envelopeReceive f)) ∧
      (∀ (port : Fin 9) (ip : Word), OnlyChanges ch (.dhcpMessage port ip)) ∧
      (∀ (client : Fin 64), OnlyChanges ch (.trigStatus client))) ∧
    (let ch : State → State → State := fun s t => { s with so := t.so, vl := t.vl };
      (∀ (client : Fin 64), OnlyChanges ch (.runSet client)) ∧ (∀ (client : Fin 64), OnlyChanges ch (.snapLock client))) ∧
    (let ch : State → State → State := fun s t => { s with vl := t.vl, cr := t.cr };
      (∀ (client : Fin 64), OnlyChanges ch (.laneRetire client))) ∧
    (let ch : State → State → State := fun s t => { s with vl := t.vl, fl := t.fl };
      (∀ (client : Fin 64), OnlyChanges ch (.updateData client))) ∧
    (let ch : State → State → State := fun s t => { s with regs := t.regs, ev := t.ev, vl := t.vl };
      (∀ (port : Fin 9) (ok : Bool), OnlyChanges ch (.dhcpRenew port ok))) ∧
    (let ch : State → State → State := fun s t => { s with regs := t.regs, fk := t.fk, vl := t.vl };
      (∀ (load : Fin 4) (count : Nat), OnlyChanges ch (.pageLoaderWriteAck load count))) ∧
    (let ch : State → State → State := fun s t => { s with regs := t.regs, vl := t.vl, cr := t.cr };
      (∀ (n : Tile), OnlyChanges ch (.dlpExitDetect n)) ∧
      (∀ (n : Tile) (lane : Fin 16) (why : LaneFault), OnlyChanges ch (.laneFailure n lane why))) ∧
    (let ch : State → State → State := fun s t => { s with regs := t.regs, vl := t.vl, fl := t.fl };
      (∀ (client : Fin 64), OnlyChanges ch (.updateEnd client)) ∧ (∀ (client : Fin 64), OnlyChanges ch (.updateRevert client))) ∧
    (let ch : State → State → State := fun s t => { s with regs := t.regs, draw := t.draw, ev := t.ev, vl := t.vl };
      (∀ (client : Fin 64), OnlyChanges ch (.logClear client))) ∧
    (let ch : State → State → State := fun s t => { s with regs := t.regs, draw := t.draw, so := t.so, vl := t.vl };
      (∀ (run : Fin 4096), OnlyChanges ch (.runReleaseComplete run))) ∧
    (let ch : State → State → State := fun s t => { s with regs := t.regs, draw := t.draw, vl := t.vl, fl := t.fl };
      (∀ (client : Fin 64), OnlyChanges ch (.storeErase client)) ∧ (∀ (client : Fin 64), OnlyChanges ch (.updateBegin client)) ∧
      (∀ (client : Fin 64), OnlyChanges ch (.updateDiscard client)) ∧
      (∀ (client : Fin 64), OnlyChanges ch (.settingsWrite client))) ∧
    (let ch : State → State → State := fun s t => { s with regs := t.regs, ev := t.ev, vl := t.vl, cr := t.cr };
      (∀ (n : Tile) (laneOk : BitVec 16) (peerTags : List (BitVec 16)), OnlyChanges ch (.linkTrainingComplete n laneOk peerTags))) ∧
    (let ch : State → State → State := fun s t => { s with regs := t.regs, fab := t.fab, vl := t.vl, cr := t.cr };
      (∀ (index : Nat), OnlyChanges ch (.courierEgress index)) ∧
      (∀ (n g : Tile) (block : BitVec 14) (payload : BitVec 256), OnlyChanges ch (.bundleBlockReceive n g block payload))) ∧
    (let ch : State → State → State := fun s t => { s with regs := t.regs, vl := t.vl, cr := t.cr, pw := t.pw };
      (∀ (n : Tile), OnlyChanges ch (.crCtrlTrain n)) ∧ (∀ (n : Tile), OnlyChanges ch (.crCtrlEnterDlp n)) ∧
      (∀ (n : Tile), OnlyChanges ch (.crCtrlExit n)) ∧ (∀ (n : Tile), OnlyChanges ch (.crCtrlOff n)) ∧
      (∀ (n g : Tile), OnlyChanges ch (.dlpAck n g)) ∧ (∀ (client : Fin 64), OnlyChanges ch (.laneLoopback client))) ∧
    (let ch : State → State → State := fun s t => { s with regs := t.regs, vl := t.vl, pw := t.pw, fl := t.fl };
      OnlyChanges ch .flashOperationComplete) ∧
    (let ch : State → State → State := fun s t => { s with regs := t.regs, draw := t.draw, ev := t.ev, vl := t.vl, cr := t.cr };
      (∀ (n g : Tile) (lane : Fin 16) (interval : Word) (first blocks : BitVec 14), OnlyChanges ch (.replayReq n g lane interval first blocks)) ∧
      (∀ (n g : Tile) (lane : Fin 16) (ns : Word), OnlyChanges ch (.takeoverAck n g lane ns))) ∧
    (let ch : State → State → State := fun s t => { s with regs := t.regs, draw := t.draw, ev := t.ev, vl := t.vl, pw := t.pw };
      (∀ (client : Fin 64), OnlyChanges ch (.modeSet client))) ∧
    (let ch : State → State → State := fun s t => { s with regs := t.regs, draw := t.draw, fk := t.fk, vl := t.vl, fl := t.fl };
      (∀ (client : Fin 64), OnlyChanges ch (.loadBegin client))) ∧
    (let ch : State → State → State := fun s t => { s with regs := t.regs, draw := t.draw, vl := t.vl, cr := t.cr, pw := t.pw };
      (∀ (client : Fin 64), OnlyChanges ch (.linkConfigOff client)) ∧
      (∀ (client : Fin 64), OnlyChanges ch (.linkConfigTrain client)) ∧
      (∀ (client : Fin 64), OnlyChanges ch (.linkConfigEnterDlp client)) ∧
      (∀ (client : Fin 64), OnlyChanges ch (.linkConfigExit client))) ∧
    (let ch : State → State → State := fun s t => { s with regs := t.regs, ev := t.ev, vl := t.vl, cr := t.cr, pw := t.pw };
      (∀ (n : Tile), OnlyChanges ch (.dlpAckTimeout n))) ∧
    (let ch : State → State → State := fun s t => { s with regs := t.regs, draw := t.draw, fab := t.fab, so := t.so, vl := t.vl, pw := t.pw };
      (∀ (client : Fin 64), OnlyChanges ch (.step client))) ∧
    (let ch : State → State → State := fun s t => { s with regs := t.regs, draw := t.draw, tal := t.tal, dbg := t.dbg, vl := t.vl, pw := t.pw };
      (∀ (f : HostFrame), OnlyChanges ch (.lodgeRequest f)) ∧ (∀ (ip : Word), OnlyChanges ch (.lodgeArp ip)) ∧
      (∀ (ip : BitVec 128), OnlyChanges ch (.lodgeNeighborSolicitation ip))) ∧
    (let ch : State → State → State := fun s t => { s with regs := t.regs, ev := t.ev, tal := t.tal, vl := t.vl, cr := t.cr, pw := t.pw };
      OnlyChanges ch .bootComplete) ∧
    (let ch : State → State → State := fun s t => { s with regs := t.regs, loStage := t.loStage, fab := t.fab, so := t.so, ev := t.ev, vl := t.vl };
      (∀ (client : Fin 64), OnlyChanges ch (.trigSet client))) ∧
    (let ch : State → State → State := fun s t => { s with regs := t.regs, loStage := t.loStage, draw := t.draw, ev := t.ev, rnd := t.rnd, tal := t.tal, dbg := t.dbg, vl := t.vl, pw := t.pw };
      (∀ (client : Fin 64), OnlyChanges ch (.dbgCoreHalt client)) ∧
      (∀ (client : Fin 64), OnlyChanges ch (.dbgCoreResume client)) ∧
      (∀ (client : Fin 64), OnlyChanges ch (.dbgCoreStep client)))
end

