-- ==== Sys2Proof/Laws/Ops.lean ====
section
/-!
SUPPORT. What each shared operation can do: events, domains, tickets, guarded commands, and work repeated over a list.
-/
namespace Sys2Proof.Machine

/-! ### Guarded commands and repeated work -/

/-- What a guarded command answers is the new state or the old one, as its guard says. -/
theorem State.when_cases (s t u : State) (c : Bool) (h : s.when c t = .next u) : (c = true ∧ u = t) ∨ (c = false ∧ u = s) := by
  cases c
  · exact .inr ⟨rfl, by cases h; rfl⟩
  · exact .inl ⟨rfl, by cases h; rfl⟩

/-- Work repeated over a list keeps what each piece of it keeps. -/
theorem State.each_keeps {α : Type} (P : State → Prop) (f : State → α → State) (xs : List α) (s : State)
    (hf : ∀ t x, x ∈ xs → P t → P (f t x)) (hs : P s) : P (s.each xs f) := by
  induction xs generalizing s with
  | nil => exact hs
  | cons x xs ih =>
    exact ih _ (fun t y hy ht => hf t y (List.mem_cons_of_mem _ hy) ht) (hf s x List.mem_cons_self hs)

@[simp] theorem State.each_nil {α : Type} (f : State → α → State) (s : State) : s.each [] f = s := rfl
@[simp] theorem State.each_cons {α : Type} (f : State → α → State) (s : State) (x : α) (xs : List α) :
    s.each (x :: xs) f = (f s x).each xs f := rfl

/-! ### Events (R508) -/

/-- An event changes the recorder and EV_DISC alone. -/
theorem State.event_eq (s : State) (typ sev loc ctx addr : Nat) (detail : List Nat) (merge : Bool) :
    s.event typ sev loc ctx addr detail merge =
      { s with regs := (s.event typ sev loc ctx addr detail merge).regs, ev := (s.event typ sev loc ctx addr detail merge).ev } := by
  unfold State.event
  split
  · dsimp only
    split <;> rfl
  · rfl

theorem State.event_rd_ne (s : State) (typ sev loc ctx addr : Nat) (detail : List Nat) (merge : Bool) (q : Reg)
    (h : q.addr ≠ Reg.evDisc.addr) : (s.event typ sev loc ctx addr detail merge).rd q = s.rd q := by
  unfold State.event
  split
  · dsimp only
    split
    · rw [State.count, State.rd_setFld_ne _ _ _ _ h]; rfl
    · rfl
  · rfl

@[simp] theorem State.event_byte (s : State) (typ sev loc ctx addr : Nat) (detail : List Nat) (merge : Bool) (a : Nat) :
    (s.event typ sev loc ctx addr detail merge).byte a = s.byte a := by rw [State.event_eq]; rfl

/-- With room in the intake an event joins it and is counted. -/
theorem State.event_room (s : State) (typ sev loc ctx addr : Nat) (detail : List Nat) (merge : Bool) (hh : s.hubOn = true)
    (h : s.ev.intake.length < 4096) :
    s.event typ sev loc ctx addr detail merge =
      { s with ev := { s.ev with
          intake := s.ev.intake ++ [{ key := ⟨typ, sev, loc, ctx, addr⟩, detail := detail, merge := merge, mark := s.mark, epoch := s.epoch }]
          arrived := (s.ev.arrived + 1) % 2 ^ 32 } } := by
  have hf : decide (4096 ≤ s.ev.intake.length) = false := by simpa using h
  simp [State.event, hh, hf]

/-! ### Domains -/

/-- A domain's record replaced changes the records and PM_DOM_STAT alone. -/
theorem State.setDom_eq (s : State) (d : Nat) (v : DomSt) :
    s.setDom d v = { s with regs := (s.setDom d v).regs, pw := { s.pw with doms := SMap.set s.pw.doms d v {} } } := by
  unfold State.setDom
  dsimp only
  split <;> rfl

theorem State.setDom_rd_ne (s : State) (d : Nat) (v : DomSt) (q : Reg) (h : q.addr ≠ Reg.pmDomStat.addr) :
    (s.setDom d v).rd q = s.rd q := by
  unfold State.setDom
  dsimp only
  split
  · rw [State.rd_setBit_ne _ _ _ h]; rfl
  · rfl

@[simp] theorem State.dom_setDom_same (s : State) (d : Nat) (v : DomSt) : (s.setDom d v).dom d = v := by
  rw [State.setDom_eq]; exact SMap.get_set_same _ _ _ _

theorem State.dom_setDom_ne (s : State) {d e : Nat} (v : DomSt) (h : e ≠ d) : (s.setDom d v).dom e = s.dom e := by
  rw [State.setDom_eq]; exact SMap.get_set_ne _ _ _ _ h

theorem State.domOn_setDom_ne (s : State) {d e : Nat} (v : DomSt) (h : e ≠ d) : (s.setDom d v).domOn e = s.domOn e := by
  unfold State.domOn; rw [State.dom_setDom_ne _ _ h]

/-! ### Tickets (R385–R388) -/

/-- The entry that the search finds is free, and lies in the range searched. -/
theorem State.tktFreeFrom_some (s : State) (n i k : Nat) (h : s.tktFreeFrom i n = some k) :
    i ≤ k ∧ k < i + n ∧ (s.tkt k).used = false ∧ (s.tkt k).resv = false := by
  induction n generalizing i with
  | zero => simp [State.tktFreeFrom] at h
  | succ n ih =>
    unfold State.tktFreeFrom at h
    split at h
    · obtain ⟨h1, h2, h3, h4⟩ := ih (i + 1) h
      exact ⟨by omega, by omega, h3, h4⟩
    · rename_i hn
      have hk : i = k := by simpa using h
      subst hk
      simp only [Bool.or_eq_true, not_or, Bool.not_eq_true] at hn
      exact ⟨by omega, by omega, hn.1, hn.2⟩

theorem State.tktFree_lt (s : State) (k : Nat) (h : s.tktFree = some k) : k < 4096 ∧ (s.tkt k).used = false :=
  have := s.tktFreeFrom_some 4096 0 k h
  ⟨by omega, this.2.2.1⟩

/-- A ticket that ends is changed only while its work goes on. -/
theorem State.tktEnd_live (s : State) (i st err : Nat) (h : tktLive (s.tkt i) = true) :
    s.tktEnd i st err = s.setTkt i { s.tkt i with state := st, err := err } := by simp [State.tktEnd, h]
theorem State.tktEnd_ended (s : State) (i st err : Nat) (h : tktLive (s.tkt i) = false) : s.tktEnd i st err = s := by
  simp [State.tktEnd, h]

/-- A ticket's end changes the port and the words of the ticket alone. -/
theorem State.tktEnd_eq (s : State) (i st err : Nat) :
    s.tktEnd i st err = { s with regs := (s.tktEnd i st err).regs, vl := (s.tktEnd i st err).vl } := by
  unfold State.tktEnd
  split <;> rfl

@[simp] theorem State.tktEnd_byte (s : State) (i st err a : Nat) : (s.tktEnd i st err).byte a = s.byte a := by
  rw [State.tktEnd_eq]; rfl

end Sys2Proof.Machine
end

