-- ==== Sys2Proof/Laws/Vollor.lean ====
section
/-!
SUPPORT. What the shared operations of the Vollor engine can do: the queue of replies, answers, the handler that a
dispatched request finds, and the checks before it.
-/
namespace Sys2Proof.Machine

/-- Replies put behind one another change the queue of replies alone, and keep its head. -/
theorem State.pushAll (ds : List VReq) (f : VReq → VReply) (s : State) :
    ∃ rs, s.each ds (fun t d => t.pushReply (f d)) = { s with vl := { s.vl with replies := s.vl.replies ++ rs } } := by
  induction ds generalizing s with
  | nil => exact ⟨[], by simp⟩
  | cons d ds ih =>
    obtain ⟨rs, h⟩ := ih (s.pushReply (f d))
    refine ⟨f d :: rs, ?_⟩
    rw [State.each_cons, h]
    simp [State.pushReply]

/-- The same behind a first reply, in a state whose clients and held duplicates have been replaced. -/
theorem State.pushAfter (s : State) (cs : SMap Client) (hs : List VReq) (x : VReply) (ds : List VReq) (f : VReq → VReply) :
    ∃ rs, ({ s with vl := { s.vl with clients := cs, replies := s.vl.replies ++ [x], heldDup := hs } } : State).each ds
        (fun t d => t.pushReply (f d)) =
      { s with vl := { s.vl with clients := cs, heldDup := hs, replies := s.vl.replies ++ x :: rs } } := by
  obtain ⟨rs, h⟩ := State.pushAll ds f { s with vl := { s.vl with clients := cs, replies := s.vl.replies ++ [x], heldDup := hs } }
  exact ⟨rs, h.trans (by simp)⟩

/-- A handler's reply: it goes behind the replies that wait, then the answers of the duplicates held for it; the client's slots
and the held duplicates change, and nothing else. -/
theorem State.sendReply_eq (s : State) (q : VReq) (r : VReply) :
    ∃ cs hs rs, s.sendReply q r =
      { s with vl := { s.vl with clients := cs, heldDup := hs, replies := s.vl.replies ++ { r with buf := true } :: rs } } := by
  let slots := (s.client q.client).slots.map (fun w => if w.seq = q.seq then { w with reply := some { r with thenReset := false } } else w)
  let mine := fun (d : VReq) => d.client = q.client && d.seq = q.seq
  obtain ⟨rs, h⟩ := State.pushAfter s (SMap.set s.vl.clients q.client { s.client q.client with slots := slots } {})
    (s.vl.heldDup.filter (fun d => !mine d)) { r with buf := true } (s.vl.heldDup.filter mine) (fun d => dupOf r d false)
  exact ⟨_, _, rs, h⟩

/-- A reserved entry dropped changes the ticket table alone. -/
theorem State.dropResv_eq (s : State) (q : VReq) : ∃ ts, s.dropResv q = { s with vl := { s.vl with tickets := ts } } := by
  unfold State.dropResv
  split
  · exact ⟨_, rfl⟩
  · exact ⟨s.vl.tickets, rfl⟩

/-- A direct answer changes the port alone. -/
theorem State.answer_eq (s : State) (q : VReq) (st : Nat) (p : List Byte) :
    ∃ cs hs ts rs, s.answer q st p = { s with vl := { s.vl with
      clients := cs, heldDup := hs, tickets := ts, replies := s.vl.replies ++ { s.replyOf q st p 0 0 with buf := true } :: rs } } := by
  obtain ⟨ts, ht⟩ := State.dropResv_eq s q
  obtain ⟨cs, hs, rs, h⟩ := State.sendReply_eq (s.dropResv q) q (s.replyOf q st p 0 0)
  refine ⟨cs, hs, ts, rs, ?_⟩
  unfold State.answer
  rw [h, ht]

theorem State.answer_frame (s : State) (q : VReq) (st : Nat) (p : List Byte) :
    s.answer q st p = { s with vl := (s.answer q st p).vl } := by
  obtain ⟨cs, hs, ts, rs, h⟩ := State.answer_eq s q st p
  rw [h]

theorem lor_one_mod (a : Nat) : Nat.lor a 1 % 2 = 1 := by
  have h : (a ||| 1).testBit 0 = true := by simp
  rw [Nat.testBit_zero] at h
  exact of_decide_eq_true h

/-- An answer given in a state whose queue of replies is that of `s` and whose request waits no longer answers that request. -/
theorem State.answer_answered (s t : State) (q : VReq) (st : Nat) (p : List Byte) (hr : t.vl.replies = s.vl.replies)
    (hh : t.vl.handed = s.vl.handed.erase q) : Answered s (t.answer q st p) q st p := by
  obtain ⟨cs, hs, ts, rs, h⟩ := State.answer_eq t q st p
  rw [h]
  exact ⟨⟨{ t.replyOf q st p 0 0 with buf := true }, ⟨rs, by simp [hr]⟩, rfl, rfl, rfl, rfl, rfl, rfl, rfl, lor_one_mod q.flags⟩, hh⟩

/-- A request that is at the front of its client's finds its handler. -/
theorem State.serve_fronts (s : State) (c op : Nat) (q : VReq) (ok : VReq → Bool) (f : State → VReq → State) (h : s.fronts c op q)
    (hok : ok q = true) : s.serve c op ok f = .next (f (s.taken q) q) := by
  obtain ⟨h1, h2, h3⟩ := h
  unfold State.serve
  rw [h2]
  simp [State.when, h1, h3, hok, State.taken]

/-- The checks of the mode and the payload passed, or failed. -/
theorem State.checked_ok (s : State) (q : VReq) (modes : List Nat) (good : Bool) (f : State) (hm : s.mode ∈ modes)
    (hg : good = true) (hq : hdrOk q = true) : s.checked q modes good f = f := by
  simp [State.checked, hm, hg, hq]
theorem State.checked_mode (s : State) (q : VReq) (modes : List Nat) (good : Bool) (f : State) (hm : s.mode ∉ modes) :
    s.checked q modes good f = s.answer q stBadState [] := by
  simp [State.checked, hm]

end Sys2Proof.Machine
end

