-- ==== Sys2Proof/Tests/Slice0.lean ====
section
/-!
SUPPORT. Tests of single commands on small states, the refusals of the well-formedness check, and witnesses: states and operands
that meet the hypotheses of the statements.
-/
namespace Sys2Proof.Tests
open Sys2Proof Sys2Proof.Machine

set_option Elab.async false

/-- The domains of the test states: all but most of the bays. -/
def doms : List Nat := List.range 33 ++ [0x200, 0x201, 0x240] ++ (List.range 16).map (fun b => 0x400 + b)

/-- A module in a mode, with every domain of the list on, running from its active image. -/
def at' (mode : Nat) : State :=
  { State.reset with
    regs := [(0x0, BitVec.ofNat 32 mode), (0x4, 0x50100), (0x10088, 1)]
    vl := { store := true }
    so := { ready := 2 ^ 53 - 1, mapReady := true }
    pw := { doms := doms.map (fun d => (d, { ph := 2 })), crystal := true, mpClock := true, refEn := 7, cold := false, image := 1,
            sched := true, fwReady := [0, 1, 4, 6, 9, 10, 11] } }

/-- The module in Serving. -/
def on : State := at' 6
/-- One domain of it off. -/
def offAt (s : State) (d : Nat) : State := s.setDom d {}
/-- A bay-plane held with a resident page of run 0. -/
def resident (s : State) : State := { s with so := { s.so with bps := [(0, { pstate := 2 })], runs := [(0, { state := .running })] } }
/-- The state after a step or a command. -/
def after (o : Out) : State := match o with | .next t => t | _ => State.reset

/-! ### Witnesses -/

theorem wit_MicroClockAndMonitors :
    on.domOn (domTile 0) = true ∧
    ((on.mcTarget 0 130).domOn (domTile 0) = true ∧ (on.mcTarget 0 130).bit (Reg.tcMcStat 0) 0 = true) ∧
    on.domOn (domBay 0 0) = true ∧ (3 : Nat) < (on.setFld (Reg.tcDmCfg 0) 7 0 4).fld (Reg.tcDmCfg 0) 7 0 := by decide +kernel

/-- A bay-plane in STAGE 3, one that is armed, and one in an earlier stage after some periods. -/
def stage3 : State := (resident on).wr (relStat 0) 3
def armed0 : State := (resident on).wr (relStat 0) 4
def staged (st per : Nat) : State := (resident on).wr (relStat 0) (st + 32 * per)
/-- Bay 0 in a phase of a cycle in which plane 0 steps. -/
def phased (s : State) (p : BayPhase) : State :=
  { s with fab := { s.fab with bays := [(0, { phase := p, planes := [0], stepped := if p = .captured then [0] else [] })], bps := [(0, { xph := 1 })] } }
/-- A tile whose holds lift, with TC_HOLD as given. -/
def lifting (h : Nat) : State := ({ on with fab := { on.fab with tiles := [(0, { lifting := true })] } }).wr (Reg.tcHold 0) h

theorem wit_StagedRelease :
    ((resident on).domOn (domBay 0 0) = true ∧ (resident on).stage 0 = 0 ∧ ((resident on).bpRec (bpIx 0 0 0)).pstate = 2) ∧
    (stage3.domOn (domBay 0 0) = true ∧ stage3.stage (bpIx 0 0 0) ≠ 0 ∧ (on.bpRec (bpIx 0 0 0)).pstate ≠ 2) ∧
    (on.atBoundary 0 0 = true ∧ on.inCycle (bpIx 0 0 0) = false) ∧
    ((phased on .captured).atBoundary 0 0 = false ∧ (phased on .captured).inCycle (bpIx 0 0 0) = true ∧ (phased on .captured).domOn (domBay 0 0) = true) ∧
    (armed0.domOn (domBay 0 0) = true ∧ armed0.relDue (bpIx 0 0 0) = true ∧ armed0.stage (bpIx 0 0 0) = 0) := by decide +kernel

theorem wit_StagedRelease_b :
    ((staged 1 8).domOn (domBay 0 0) = true ∧ (staged 1 8).relDue (bpIx 0 0 0) = true ∧ (staged 1 8).stage (bpIx 0 0 0) = 1 ∧ (staged 1 7).relDue (bpIx 0 0 0) = false) ∧
    ((staged 2 16).relDue (bpIx 0 0 0) = true ∧ (staged 2 16).stage (bpIx 0 0 0) = 2 ∧ (staged 2 15).relDue (bpIx 0 0 0) = false) ∧
    ((lifting 6).domOn (domTile 0) = true ∧ ((lifting 6).tile 0).lifting = true ∧ (lifting 6).wrHold 0 = true) ∧
    (((lifting 4).tile 0).lifting = true ∧ (lifting 4).wrHold 0 = false ∧ (lifting 4).clkHold 0 = true) := by decide +kernel

/-- A bundle on its way to the bay-plane that sent it, which stands where `x` says. -/
def bundled (s : State) (x : Nat) : State :=
  { s with fab := { s.fab with bundles := [⟨0, 0, 63, 7, 0⟩], bps := [(0, { xph := x, arrived := if x = 2 then 2 ^ 63 else 0 })] } }

theorem wit_Rotation :
    ((phased stage3 (.step 0)).bay 0 0).phase = .step 0 ∧
    (((phased stage3 .captured).bay 0 0).phase = .captured ∧ (phased stage3 .captured).ioTickReady 0 0 = true) ∧
    (((phased stage3 .captured).bay 0 0).stepped.Nodup ∧ 0 ∈ ((phased stage3 .captured).bay 0 0).stepped ∧ (phased stage3 .captured).inCycle (bpIx 0 0 0) = true) ∧
    (1 ∉ ((phased stage3 .captured).bay 0 0).stepped ∧ (phased stage3 .captured).inCycle (bpIx 0 0 1) = false) ∧
    ((phased stage3 .captured).stage (bpIx 0 0 0) = 3 ∧ (phased stage3 .captured).clkHold 0 = false ∧ (phased (staged 2 3) .captured).stage (bpIx 0 0 0) ≠ 3) ∧
    (stage3.atBoundary 0 0 = true ∧ stage3.domOn (domBay 0 0) = true ∧ stage3.cycleReady 0 0 = true) := by decide +kernel

theorem wit_Rotation_b :
    stage3.steppingPlanes 0 0 = [0] ∧
    ((let s := bundled stage3 1
      s.fab.bundles[0]? = some ⟨0, 0, 63, 7, 0⟩ ∧ s.takesBundles 0 0 = true ∧ (s.bp 0).xph ≠ 0 ∧ bitOf (s.bp 0).arrived 63 = false)) ∧
    ((let s := bundled stage3 0
      s.fab.bundles[0]? = some ⟨0, 0, 63, 7, 0⟩ ∧ s.takesBundles 0 0 = true ∧ (s.bp 0).xph = 0)) ∧
    ((bundled stage3 2).takesBundles 0 0 = true ∧ bitOf ((bundled stage3 2).bp 0).arrived 63 = true) ∧
    ((bundled on 1).fab.bundles[0]? = some ⟨0, 0, 63, 7, 0⟩ ∧ (bundled on 1).takesBundles 0 0 = false) ∧
    ((let s := { stage3 with fab := { stage3.fab with bundles := [⟨0, 4, 63, 7, 0⟩], bays := [(0, { phase := .exchange })], bps := [(0, { xph := 2 })] } }
      s.domOn (domBay 0 0) = true ∧ (s.bay 0 0).phase = .exchange ∧ s.cycleReady 0 0 = false)) := by decide +kernel

/-- A memory-model port over HB0 with a request, and with a dirty line. -/
def mmp0 (r : MmpRt) : State :=
  (({ on with fab := { on.fab with mmps := [(0, r)] } }.wr (Reg.mmpBaseLo 0 0) 0x10000000).wr (Reg.mmpBaseHi 0 0) 0x100).wr (Reg.mmpCtrl 0 0) 1
def mmpReq : MmpReq := { we := false, addr := 64, be := 0, wdata := 0 }
/-- A request on the Rounds that has been answered. -/
def trip (st : Nat) : Option MmpTrip := some { tag := 2047, answer := some (st, 3 * st, []) }

theorem wit_DesignIoAndMemoryPorts :
    (on.domOn (domTile (bankTile 11).1) = true ∧ on.domOn (domTile 0) = true) ∧
    (((mmp0 { flushing := true }).mmp 0 0).flushing = true ∧ ((mmp0 { flushing := true }).mmp 0 0).wbs = []) ∧
    (((mmp0 { pend := some mmpReq, fill := trip 0 }).mmp 0 0).pend = some mmpReq ∧ ((mmp0 { pend := some mmpReq, fill := trip 0 }).mmp 0 0).fill = trip 0) ∧
    (((mmp0 { pend := some mmpReq, fill := trip 1 }).mmp 0 0).pend = some mmpReq ∧ ((mmp0 { pend := some mmpReq, fill := trip 1 }).mmp 0 0).fill = trip 1) ∧
    (((mmp0 { wbs := [⟨64, [], true⟩], wb := trip 0 }).mmp 0 0).wbs = [⟨64, [], true⟩] ∧ ((mmp0 { wbs := [⟨64, [], true⟩], wb := trip 0 }).mmp 0 0).wb = trip 0) ∧
    (((mmp0 { wbs := [⟨64, [], true⟩], wb := trip 1 }).mmp 0 0).wbs = [⟨64, [], true⟩] ∧ ((mmp0 { wbs := [⟨64, [], true⟩], wb := trip 1 }).mmp 0 0).wb = trip 1) := by decide +kernel

/-- A state with one load. -/
def loading (l : Load) : State := { on with fk := { on.fk with loads := [(0, l)] } }
/-- The header of an image of 4,096 bytes; only the fields that the tests read. -/
def hdr : List Byte := leBytes 4 0x4749525A ++ List.replicate 252 0
/-- A complete load, with another design of its identifier committed, whose digest is its own or not. -/
def complete (place : Bool) (ds : SMap Design) : State :=
  { loading { trailerOk := true, sigOk := true, place := place, slot := some 0 } with so := { on.so with designs := ds } }

theorem wit_ImageLoads :
    (on.hubOn = true ∧ (loading {}).isLoad 0 = true) ∧
    ((let s := loading { piece := [1, 2] }
      (s.load 0).source = 0 ∧ (s.load 0).hdrOk = false ∧ (s.load 0).reserved = false ∧ (s.load 0).bytes.length + 2 < 256)) ∧
    ((let l := (loading { trailerOk := true, bytes := [] }).load 0
      l.trailerOk = true ∧ l.sigOk = false ∧ l.bytes.length = hImageLen l.bytes)) ∧
    ((let l := (complete false []).load 0
      l.trailerOk = true ∧ l.sigOk = true ∧ l.acked = hPayLen l.bytes ∧ l.place = false)) ∧
    ((complete false []).sameDesign ((complete false []).load 0) = none ∧ ((complete false []).loadPoisoned 0).2 = false) ∧
    ((let s := complete false [(5, { state := 2 })]
      s.sameDesign (s.load 0) = some 5 ∧ (s.loadPoisoned 0).2 = false)) ∧
    ((loading {}).load 0).hdrOk = false := by decide +kernel

/-- The Franking Unit unlocked for master 0x30. -/
def unlocked (f : FkSt → FkSt) : State := { on with fk := f { on.fk with unlocked := some 0x30 } }

theorem wit_FrankingActions :
    on.hubOn = true ∧ ((unlocked id).fk.unlocked ≠ none ∧ (unlocked id).fk.unlocked = some (0x30 : BitVec 8).toNat) ∧
    ((let s := { unlocked id with fk := { (unlocked id).fk with unlocked := some 3 } }
      s.fk.unlocked = some 3 ∧ s.bit (Reg.dbgCStat 3) 0 = false)) ∧
    ((unlocked id).fk.fuseKey = none ∧ (unlocked id).fk.busy = none) ∧
    ((unlocked (fun k => { k with fuseKey := some 5 })).fk.unlocked = some (0x30 : BitVec 8).toNat ∧ (unlocked (fun k => { k with fuseKey := some 5 })).fk.fuseKey ≠ none) ∧
    ((unlocked (fun k => { k with busy := some 0 })).fk.unlocked = some (0x30 : BitVec 8).toNat ∧ (unlocked (fun k => { k with busy := some 0 })).fk.busy ≠ none) ∧
    (unlocked id).fk.bkeyForbid = false := by decide +kernel

theorem wit_FrankingActions_b :
    (unlocked (fun k => { k with bkeyForbid := true })).fk.bkeyForbid = true ∧
    SMap.find (unlocked id).fk.imgSlots ((unlocked id).fld Reg.fkImgSel 1 0) = none ∧
    SMap.find (unlocked (fun k => { k with imgSlots := [(0, 9)] })).fk.imgSlots ((unlocked id).fld Reg.fkImgSel 1 0) ≠ none ∧
    SMap.find (unlocked id).fk.fwSlots ((unlocked id).fld Reg.fkFwSel 0 0) = none ∧
    SMap.find (unlocked (fun k => { k with fwSlots := [(0, 9)] })).fk.fwSlots ((unlocked id).fld Reg.fkFwSel 0 0) ≠ none ∧
    on.fk.unlocked ≠ some (0x30 : BitVec 8).toNat := by decide +kernel

/-- Scrub enabled for bay-plane 0 of tile 0, with a scrubber's record. -/
def scrubbing (r : ScrubRt) : State :=
  ({ resident on with fab := { on.fab with tiles := [(0, { sa := r })] } }.wr (Reg.csCtrl 0) 1).wr (Reg.csEn 0 0) 1
/-- A fault of the last frame of the tile. -/
def fault0 : FrameFault := ⟨786431, 1, 0, 0, 0⟩
/-- Tile 0's write buffer with all but the last four bytes of frame 0, staged by master 0x30. -/
def buffered (s : State) : State :=
  { s with fab := { s.fab with tiles := [(0, { wbFrame := 0, wbMid := 0x30, wbBytes := (List.range 508).map (fun k => (k, 0)) })] } }

theorem wit_FrameAndScrubberCommands :
    (on.domOn (domBay 0 (0 / 12288)) = true ∧ frameForm 508 4 = true ∧ frameForm 0 64 = true ∧ (on.tile 0).wbBytes = []) ∧
    ((buffered on).domOn (domBay 0 0) = true ∧ ((buffered on).tile 0).wbBytes.length = 508 ∧ (buffered on).stepping (frameBp 0 0) = false ∧ (buffered stage3).stepping (frameBp 0 0) = true) ∧
    ((scrubbing {}).bit (Reg.csCtrl 0) 0 = true ∧ ((scrubbing {}).scrub 0 false).queue.length < 8) ∧
    (scrubbing {}).sweepSet 0 false ≠ [] ∧
    nextFrame ((scrubbing {}).sweepSet 0 false) ((scrubbing {}).scrubPos 0 false) = some 0 ∧
    (scrubbing {}).frameClass 0 0 = .clean ∧ ({ scrubbing {} with mem := [(frameBase 0 0, 1)] }.frameClass 0 0 = .dataBit 0) := by decide +kernel

theorem wit_FrameAndScrubberCommands_b :
    (((scrubbing {}).wr (Reg.csSaPos 0) 3072).sweepSet 0 false = [0] ∧ nextFrame [0] (((scrubbing {}).wr (Reg.csSaPos 0) 3072).scrubPos 0 false) = none) ∧
    ((scrubbing { queue := [⟨786431, []⟩] }).scrub 0 false).queue = [⟨786431, []⟩] ∧
    (scrubbing {}).repairNow (frameBp 0 786431) = true ∧
    (((scrubbing { restores := [fault0] }).scrub 0 false).restores = [fault0] ∧ (scrubbing { restores := [fault0] }).repairNow (frameBp 0 786431) = true) ∧
    ((scrubbing {}).mc ((scrubbing {}).pmGet ((scrubbing {}).bpRec (frameBp 0 786431)).cfg 0).2.stack).iso = none ∧
    ((votedRegs 0)[0]?.map (fun e => bitOf e.2 0)) = some true := by decide +kernel

/-- Run 0, with a page in bay-plane 0 in STAGE 3 of bay 0, which stands at a boundary. -/
def running (f : Run → Run) : State := { stage3 with so := { stage3.so with runs := [(0, f { state := .running, pageCount := 1 })] } }
/-- HB0 ready, so that the page store can be read. -/
def hb0 (s : State) : State := s.wr (Reg.mcCtrl 0) 1
def q0 (op : RunOp) : PendReq := { op := op, ticket := none }

theorem wit_RunProgress :
    (running (fun r => { r with pend := some (q0 .suspend) })).hubOn = true ∧
    ((running (fun r => { r with pend := some (q0 .suspend) })).run 0).curOp = .none ∧
    ((running (fun r => { r with pend := some (q0 .suspend) })).run 0).pend = some (q0 .suspend) ∧
    ((running id).bit Reg.soCtrl 0 = true ∧ ((running id).run 0).modeAct = false ∧ ((running id).run 0).compactAct = false) ∧
    (((running (fun r => { r with pend := some (q0 .start) })).run 0).pend = some (q0 .start) ∧ (running (fun r => { r with pend := some (q0 .start) })).reqErr 0 (q0 .start) ≠ 0) ∧
    ((let s0 := running (fun r => { r with state := .loading, curOp := .place, xfer := [0], started := true, saveFail := true })
      let s := hb0 { s0 with so := { s0.so with bps := [(0, { pstate := 1, cfgOk := true })] } }
      s.xferReady 0 0 = true ∧ (s.xferWork 0).cause = 0)) := by decide +kernel

theorem wit_RunProgress_b :
    (running (fun r => { r with curOp := .start })).released 0 = true ∧
    ((let s := running (fun r => { r with stops := [⟨.suspend, 0⟩] })
      s.hubOn = true ∧ hasWhy (s.stopsMet 0) .suspend = true ∧ hasWhy (s.stopsMet 0) .endRun = false ∧
      s.portsClean 0 = true ∧ s.snapDueNow 0 = false)) ∧
    ((let s := hb0 (running (fun r => { r with state := .suspending, save := [0, 1] }))
      s.saveReady 0 0 = true ∧ poisonedEnt (s.pmGet (s.savePage 0 0) 0).2 = false ∧ (s.run 0).save.filter (· ≠ 0) ≠ [])) ∧
    ((let q : PendReq := { op := .swap, page := 7, ticket := none }
      let s := running (fun r => { r with curOp := .swap, curReq := some q })
      s.hubOn = true ∧ (s.run 0).curReq = some q ∧ (s.run 0).curOp = .swap ∧ vPlace s.so.bps 0 q.page = none)) ∧
    ((let q : PendReq := { op := .swap, page := 0, ticket := none }
      let s := { running (fun r => { r with curOp := .swap, curReq := some q, swapPause := true }) with fab := {} }
      vPlace s.so.bps 0 q.page = some 0 ∧ s.stepping 0 = false ∧ s.moving (s.swapCheck 0 q).2.2.1 = false)) := by decide +kernel

/-- Run 0 with a snapshot entry. -/
def snapped (e : Snap) : State := { running id with so := { (running id).so with snaps := [(0, e)] } }
/-- Run 0 at DCC 8 with a ring whose first slot is in a state; the second holds a locked snapshot where `locked`. -/
def ringed (locked : Bool) : State :=
  let s := { running id with so := { (running id).so with rings := [(0, { run := 0, slots := 2, first := 4, period := 8 })], snaps := [(4, { state := if locked then 3 else 1, lock := locked }), (5, { state := 3, lock := true })] } }
  s.wr (Reg.bayPDccLo 0 0 0) 8

theorem wit_SnapshotProgress :
    ((snapped { state := 1, due := true }).snapReady 0 = true ∧ ((snapped { state := 1, due := true }).snap 0).flush = false) ∧
    ((running (fun r => { r with snapPause := some 0 })).run 0).snapPause = some 0 ∧
    ((snapped { state := 2 }).snap 0).state = 2 ∧
    (snapped { state := 2 }).so.runs.any (fun e => e.2.snapPause = some 0) = false ∧
    (((snapped { state := 2 }).snap 0).bad = false ∧ ((snapped { state := 2 }).snap 0).ring = none) ∧
    (List.range ((snapped { state := 2 }).snap 0).pageCount).any (fun j => poisonedEnt ((snapped { state := 2 }).pmGet j 0).2) = false := by decide +kernel

theorem wit_SnapshotProgress_b :
    (((snapped { state := 2 }).segsClose 0).2.2 = true ∧ (snapped { state := 2, ring := some 0 }).hubOn = true) ∧
    (ringed false).ring 0 = some { run := 0, slots := 2, first := 4, period := 8 } ∧
    (ringed false).ringDue { run := 0, slots := 2, first := 4, period := 8 } = true ∧
    (ringed false).slotNext { run := 0, slots := 2, first := 4, period := 8 } = some 0 ∧
    ((ringed false).slotBusy { run := 0, slots := 2, first := 4, period := 8 } 0 = false ∧ ((ringed false).snap 4).state = 1) ∧
    ((ringed true).ringDue { run := 0, slots := 2, first := 4, period := 8 } = true ∧ (ringed true).slotNext { run := 0, slots := 2, first := 4, period := 8 } = none) := by decide +kernel

def probe0 : Probe := { slot := 15, unit := 63, run := 0, cycle := 5, word := 0 }
/-- Trigger unit 63, on and armed as a head, with a probe word of cycle 5 on its way, and the run at DCC 6. -/
def trigged : State :=
  let s := { running id with fab := { on.fab with tiles := [(0, { probes := [probe0] })] } }
  ((s.wr (Reg.trgCtrl 63) (2 ^ 31 + 2 ^ 24)).wr (Reg.trgStat 63) (2 ^ 30)).wr (Reg.bayPDccLo 0 0 0) 5
/-- Unit 1 on, armed at cycle 2 by unit 0, its head, with WITHIN 3; the run is at DCC 6. -/
def within : State :=
  let s := { running id with so := { (running id).so with trigs := [(1, { armedAt := some 2 })] } }
  ((((s.wr (Reg.trgCtrl 1) (2 ^ 31)).wr (Reg.trgCtrl 0) (2 ^ 31 + 2 ^ 24)).wr (Reg.trgStat 1) (2 ^ 30)).wr (Reg.trgWithin 1) 3).wr (Reg.bayPDccLo 0 0 0) 6

theorem wit_TriggersFire :
    ((on.wr (Reg.trgCtrl 63) (63 * 2 ^ 18)).trigOn 63 = false ∧ (on.wr (Reg.trgCtrl 63) (63 * 2 ^ 18)).trigPath 0 4 63 = none) ∧
    (on.wr (Reg.trgCtrl 0) (2 ^ 24)).trigOn 0 = false ∧
    ((on.wr (Reg.trgCtrl 0) (2 ^ 24)).trigPath 0 4 0 ≠ none ∧ (on.wr (Reg.trgCtrl 0) (2 ^ 24)).bit (Reg.trgCtrl 0) 24 = true) ∧
    (trigged.tile 0).probes.find? (fun q => q.slot = 15) = some probe0 ∧
    ∀ i ∈ (trigged.wr (Reg.bayPDccLo 0 0 0) 6).runBps 0, 5 < (trigged.wr (Reg.bayPDccLo 0 0 0) 6).dcc i ∧
    ∀ q ∈ trigged.runProbes 0, 5 ≤ q.cycle := by decide +kernel

theorem wit_TriggersFire_b :
    (trigged.trigOn 63 = true ∧ trigged.bit (Reg.trgStat 63) 30 = true ∧ (trigged.trig 63).armedAt = none) ∧
    (trigged.trigMatch 63 5 0 = true ∧ trigged.fld (Reg.trgParam 63) 15 0 ≤ 1) ∧
    (within.trigLimit 1 = some 5 ∧ within.trigOn 1 = true ∧ within.bit (Reg.trgStat 1) 30 = true) ∧
    ((5 : Nat) < within.dccOf (within.trigRun 1) ∧ (∀ q ∈ within.runProbes (within.trigRun 1), 5 < q.cycle)) ∧
    (within.trigPath (within.trigRun 1) 4 1 ≠ none ∧ within.trigOn (within.trigHead 1) = true) := by decide +kernel

/-- The debug engine in a state. -/
def dbg (d : DbgSt) : State := { on with dbg := d }
def acc0 : DbgAcc := { tap := true, write := false, addr := 0 }

theorem wit_DebugPort :
    (on.pw.aon = true ∧ (dbg { ir := 8 }).dbg.ir = 8) ∧
    (dbg { ir := 8, queue := [acc0] }).dbg.queue.any (fun a => a.tap) = true ∧
    ((dbg { ir := 8 }).dbg.queue.any (fun a => a.tap) = false ∧ (2 : BitVec 48).toNat % 4 ≠ 0) ∧
    ((0xFFFC : BitVec 48).toNat % 4 = 0 ∧ privatePath (0xFFFC : BitVec 48).toNat = true ∧ privatePath 0x907FC = true) ∧
    (dbg { queue := [acc0], busy := true, outcome := some (1, 5, 0) }).dbg.outcome = some (1, 5, 0) ∧
    ((dbg { queue := [acc0], busy := true }).regAccess false (!acc0.consume) acc0.addr 4 0x30 [0, 0, 0, 0] none).cause = 0 := by decide +kernel

/-- Core 3 in a state, halted or not. -/
def core3 (h : Bool) (x : CoreSt) : State := (dbg { cores := [(3, x)] }).wr (Reg.dbgCStat 3) (b2n h)

theorem wit_CoreRunControl :
    ((core3 false {}).coreOn 3 = true ∧ (core3 false {}).halted 3 = false) ∧
    ((core3 true {}).coreOn 3 = true ∧ (core3 true {}).halted 3 = true) ∧
    (((core3 false { haltReq := some 1 }).core 3).haltReq = some 1 ∧ (core3 false { haltReq := some 1 }).coreWaits 3 = false) ∧
    ((let s := (((core3 false { haltReq := some 1 }).wr (Reg.dbgCCtrl 3) 32).wr (Reg.dbgCCtrl 0) 32).wr (Reg.dbgCStat 0) 0
      s.bit (Reg.dbgCCtrl 3) 5 = true ∧ s.bit (Reg.dbgCCtrl 0) 5 = true ∧ s.coreOn 0 = true ∧ s.halted 0 = false ∧ s.coreWaits 0 = false)) := by decide +kernel

/-- Comparator 7 of core 3 matches an instruction at address 0 in any context. -/
def cmp7 : State := (core3 false {}).wr (Reg.dbgCCmpCtrl 3 7) (2 ^ 31)

theorem wit_CoreRegistersAndComparators :
    (((core3 true {}).wr (Reg.dbgCRegsel 3) 36).halted 3 = true ∧ ((core3 true {}).wr (Reg.dbgCRegsel 3) 36).fld (Reg.dbgCRegsel 3) 5 0 ≤ 36) ∧
    (core3 false {}).halted 3 = false ∧
    (cmp7.coreOn 3 = true ∧ (cmp7.core 3).haltReq = none ∧ cmp7.cmpMatches 3 7 0 0 4 0 = true ∧ cmp7.cmpFld 3 7 21 20 = 0) ∧
    (cmp7.wr (Reg.dbgCCmpCtrl 3 7) (2 ^ 31 + 2 ^ 20)).cmpMatches 3 7 0 0 64 0xFFFF = true ∧
    ((core3 false { reservation := some 0 }).core 3).reservation.isSome = true := by decide +kernel

theorem wit_Watchdogs :
    on.hubOn = true ∧
    (((core3 false {}).wr (Reg.dbgWdtStat 3) 1).wdtRuns 3 = true ∧ (((core3 false {}).wr (Reg.dbgWdtStat 3) 1).wr (Reg.dbgWdtCount 3) 0).rd (Reg.dbgWdtCount 3) = 0) ∧
    ((core3 false {}).wr (Reg.dbgWdtStat 3) 1).bit (Reg.dbgWdtStat 3) 2 = false ∧
    (((core3 false {}).wr (Reg.dbgWdtStat 3) 5).wdtRuns 3 = true ∧ ((core3 false {}).wr (Reg.dbgWdtStat 3) 5).bit (Reg.dbgWdtStat 3) 2 = true) ∧
    (on.pw.image ≠ 2 ∧ on.bit (Reg.dbgCCtrl 3) 4 = false) := by decide +kernel

theorem wit_LetterboxAndTerminal :
    ((core3 false {}).coreOn 3 = true ∧ (core3 false {}).bit (Reg.dbgCLbStat 3) 0 = false ∧ (core3 false {}).bit (Reg.dbgCLbStat 3) 1 = false) ∧
    (((core3 false {}).wr (Reg.dbgCLbStat 3) 3).bit (Reg.dbgCLbStat 3) 0 = true ∧ ((core3 false {}).wr (Reg.dbgCLbStat 3) 3).bit (Reg.dbgCLbStat 3) 1 = true) ∧
    (on.pw.aon = true ∧ (core3 false {}).vtSide 3 true = true ∧ (core3 false {}).vtSide 3 false = true) ∧
    ((core3 false { vt := { openDbg := true, openFw := true, creditDbg := 1, creditFw := 1 } }).core 3).vt.openDbg = true ∧
    0 < ((core3 false { vt := { openDbg := true, openFw := true, creditDbg := 1, creditFw := 1 } }).core 3).vt.creditDbg := by decide +kernel

/-- Controller c of the module ready, with a record. -/
def mcs (c : Nat) (m : McSt) : State := { on with mcs := [(c, m)] }.wr (Reg.mcCtrl c) 1
/-- A read of HB0 by master 0x10 from stop 2, which has reached its stop; its first block alone, and a write there. -/
def rdPkt : Pkt := { kind := .readReq, src := 2, dst := 2, mid := 0x10, len := 64, addr := 0x10010000000, pos := 2 }
def rd32 : Pkt := { rdPkt with len := 32 }
def wr32 : Pkt := { rd32 with kind := .writeReq, data := zeroBytes 32 }
/-- A request in the last of its blocks, and its block in a queue, of the highest age class. -/
def lastReq (p : Pkt) : McReq := { pkt := p, todo := 1, data := zeroBytes 32 }
def blk0 : McBlk := { id := 0, block := 0x10010000000, age := 15 }
/-- Three bad symbols of one codeword. -/
def bad3 : List BadSym := [⟨0, 0⟩, ⟨0, 1⟩, ⟨0, 63⟩]
/-- HB0 with the patrol on. -/
def patrolled (m : McSt) : State := (mcs 0 m).wr (Reg.mcCtrl 0) 0x1000005

theorem wit_MemoryControllerService :
    ((let s := mcs 0 { inbox := [{ pkt := rdPkt }] }
      s.roundsIn 0 = some 0 ∧ s.portIn 0 = none ∧ (s.mc 0).inbox[0]? = some { pkt := rdPkt } ∧ (s.mc 0).writes = [] ∧ s.mcReady 0 = true ∧
      s.fillingAt rdPkt.addr rdPkt.len = false ∧ reqBlocks 0 rdPkt ≠ [])) ∧
    ((let s := { on with mcs := [(0, { inbox := [{ pkt := rdPkt }] })] }
      s.roundsIn 0 = some 0 ∧ s.portIn 0 = none ∧ (s.mc 0).inbox[0]? = some { pkt := rdPkt } ∧ (s.mc 0).writes = [] ∧ s.mcReady 0 = false)) ∧
    ((let s := mcs 0 { inbox := [{ pkt := wr32 }], reads := [{ blk0 with block := 0x10010000020 }], reqs := [lastReq rd32] }
      s.roundsIn 0 = some 0 ∧ s.portIn 0 = none ∧ s.fillingAt wr32.addr wr32.len = false ∧ reqBlocks 0 wr32 = [0x10010000000] ∧
      ∃ x ∈ s.readable 0 (s.targetOf 0x10010000000).1, 15 ≤ x.age ∧ s.readHits x.block 0x10010000000 = false)) ∧
    ((let s := mcs 0 { reqs := [lastReq rd32], reads := [blk0] }
      s.domOn (mcDom 0) = true ∧ (s.mc 0).reqs = [lastReq rd32] ∧ (s.mc 0).reads = [blk0] ∧ (s.mc 0).writes = [] ∧ s.isoBlk blk0.block = false ∧
      s.poisoned blk0.block = false ∧ s.eccOf 0 blk0.block [] = some [] ∧ s.eccOf 0 blk0.block bad3 = none ∧
      (∀ l ∈ blocksOf 64 rd32.addr rd32.len, s.tagged l = false) ∧ (s.targetOf blk0.block).1 < 32)) ∧
    (mcs 0 { reqs := [lastReq rd32], reads := [blk0], poison := [0x10010000000] }).poisoned blk0.block = true ∧
    ((let s := mcs 0 { reqs := [lastReq wr32], writes := [blk0] }
      s.domOn (mcDom 0) = true ∧ (s.mc 0).reqs = [lastReq wr32] ∧ (s.mc 0).writes = [blk0] ∧ (s.mc 0).reads = [] ∧ blk0.also = [] ∧
      s.isoBlk blk0.block = false ∧ s.eccOf 0 blk0.block bad3 = none)) := by decide +kernel

theorem wit_MemoryControllerService_b :
    (on.domOn (mcDom 19) = true ∧ on.domOn (mcDom 0) = true) ∧
    (((mcs 0 { reads := [blk0] }).bankBusy 0 ((mcs 0 {}).bankRow blk0.block).1 = true ∧ (mcs 0 {}).bankBusy 0 0 = false ∧ (mcs 0 {}).bit (Reg.mcStat 0) 31 = false)) ∧
    (SMap.get ((mcs 0 { postponed := [(0, 4)] }).mc 0).postponed 0 0 = 4 ∧ SMap.get ((mcs 0 { postponed := [(0, 3)] }).mc 0).postponed 0 0 = 3) ∧
    (signedOf 8 (94 : Byte).toNat < 95 ∧ 95 ≤ signedOf 8 (95 : Byte).toNat ∧ 85 < signedOf 8 (86 : Byte).toNat ∧ signedOf 8 (82 : Byte).toNat ≤ 82 ∧ 82 < signedOf 8 (83 : Byte).toNat ∧ signedOf 8 (85 : Byte).toNat ≤ 85) ∧
    ((let s := patrolled {}
      s.mcReady 0 = true ∧ s.fld (Reg.mcCtrl 0) 31 24 ≠ 0 ∧ 0 < s.mcTop 0 ∧ (s.mc 0).mig = none ∧ s.idleTarget 0 (s.targetOf (s.mcAddr 0 0)).1 = true ∧
      s.isoBlk (s.mcAddr 0 0) = false ∧ s.eccOf 0 (s.mcAddr 0 0) bad3 = none ∧ s.mcOf (s.mcAddr 0 0) = 0 ∧ s.poisoned (s.mcAddr 0 0) = false)) ∧
    ((let s := patrolled { patrol := (mcs 0 {}).mcTop 0 - 32 }
      s.mcTop 0 ≤ (s.mc 0).patrol + 32 ∧ s.idleTarget 0 (s.targetOf (s.mcAddr 0 (s.mc 0).patrol)).1 = true)) := by decide +kernel

def iso0 : IsoStep := { target := 0, rank := 0, delays := [], row := [] }

theorem wit_MemoryTraining :
    (bitOf (0x80000000 : Word).toNat 31 = true ∧ ((mcs 0 {}).wr (Reg.mcCtrl 0) 3).trnMay 0 0x80000000 = true ∧ ((mcs 0 {}).mc 0).training = false ∧ (mcs 0 {}).trnMay 0 0x80000000 = false) ∧
    ((mcs 0 { iso := some iso0 }).trnMay 0 0x80000000 = true ∧ (mcs 0 { iso := some iso0 }).trnMay 0 0x80100000 = false) ∧
    ((let s := (mcs 0 { training := true }).wr (Reg.mcTrnCtrl 0) (2 ^ 31 + 3 * 2 ^ 29)
      (s.mc 0).training = true ∧ s.fld (Reg.mcTrnCtrl 0) 30 29 ≠ 0)) ∧
    (((mcs 19 {}).wr (Reg.mcDlySel 19) 0x6FFFFFFF).rd (Reg.mcDlySel 19) / 2 ^ 28 < 7 ∧ 7 ≤ ((mcs 19 {}).wr (Reg.mcDlySel 19) 0x70000000).rd (Reg.mcDlySel 19) / 2 ^ 28) ∧
    (mcs 0 {}).bit (Reg.mcMr 0) 31 = false := by decide +kernel

theorem wit_MemoryTraining_b :
    (((mcs 0 {}).wr (Reg.mcMr 0) (2 ^ 31)).bit (Reg.mcMr 0) 31 = true ∧ ((mcs 0 {}).wr (Reg.mcMr 0) (2 ^ 31)).bit (Reg.mcMr 0) 30 = false ∧ ((mcs 0 {}).wr (Reg.mcMr 0) (3 * 2 ^ 30)).bit (Reg.mcMr 0) 30 = true) ∧
    ((mcs 0 {}).mcReady 0 = true ∧ (signedOf 8 (0 : Byte).toNat).natAbs ≤ (mcs 0 {}).fld (Reg.mcRetrain 0) 7 0) ∧
    ((mcs 0 {}).wr (Reg.mcRetrain 0) 127).fld (Reg.mcRetrain 0) 7 0 < (signedOf 8 (0x80 : Byte).toNat).natAbs ∧
    (((mcs 0 {}).wr (Reg.mcRetrain 0) (2 ^ 31)).bit (Reg.mcRetrain 0) 31 = true ∧ ((mcs 0 {}).mc 0).iso = none ∧ (at' 9).mode = 9) ∧
    (((mcs 0 { iso := some iso0 }).mc 0).iso = some iso0 ∧ ((mcs 0 { iso := some iso0 }).mc 0).writes = []) := by decide +kernel

/-- HB0 with sparing on, no retirement made, and a copy in progress. -/
def copying (g : Migration) : State := patrolled { mig := some g }

theorem wit_Sparing :
    ((let s := patrolled {}
      on.domOn (mcDom 19) = true ∧ s.domOn (mcDom 0) = true ∧ (s.mc 0).mig = none ∧ s.bit (Reg.mcCtrl 0) 2 = true ∧ s.bit (Reg.mcStat 0) 28 = false ∧ (s.mc 0).failSet = false)) ∧
    ((let s := copying ⟨30, 0, 0⟩
      (s.mc 0).mig = some ⟨30, 0, 0⟩ ∧ s.migMay 0 ⟨30, 0, 0⟩ = true ∧ (s.mc 0).erased = [] ∧ 0 + 1 < s.migTop 0)) ∧
    ((let s := copying ⟨30, 393215, 0⟩
      (s.mc 0).mig = some ⟨30, 393215, 0⟩ ∧ s.migMay 0 ⟨30, 393215, 0⟩ = true ∧ s.migTop 0 ≤ 393215 + 1)) ∧
    ((let g : Migration := ⟨0, 1, 0⟩
      let s := patrolled { mig := some g, reads := [{ blk0 with block := 0x1000000F800 }] }
      s.mcReady 0 = true ∧ s.fld (Reg.mcCtrl 0) 31 24 ≠ 0 ∧ 0 < s.mcTop 0 ∧ s.idleTarget 0 (s.targetOf (s.mcAddr 0 0)).1 = true ∧ s.migMay 0 g = false ∧
      s.isoBlk (s.mcAddr 0 0) = false ∧ s.mcOf (s.mcAddr 0 0) = 0 ∧ s.poisoned (s.mcAddr 0 0) = false ∧ s.eccOf 0 (s.mcAddr 0 0) bad3 = none ∧
      (s.targetOf (s.mcAddr 0 0)).1 = s.spareOf 0)) ∧
    (on.domOn (domEdge 7) = true ∧ on.mode ≠ 9 ∧ (at' 9).mode = 9 ∧ (at' 9).domOn (domEdge 7) = true ∧ (at' 9).bit (Reg.mcCtrl 7) 2 ≠ true ∧ (at' 9).bit (Reg.mcCtrl 0) 2 ≠ true) := by decide +kernel

/-- Region 255 over the first 4 KiB block of HB1, on or off, and the crypto state. -/
def region (isOn : Bool) (ic : IcSt) : State :=
  let s := { on with ic := ic }.wr Reg.icStat (2 ^ 30)
  ((((s.wr (Reg.icRBaseLo 255) 0x00000000).wr (Reg.icRBaseHi 255) 0x106).wr (Reg.icRLimitLo 255) 0x00000000).wr (Reg.icRLimitHi 255) 0x106).wr
    (Reg.icRCtrl 255) (b2n isOn * 2 ^ 31 + 1)

theorem wit_Encryption :
    (on.hubOn = true ∧ on.ic.root = none) ∧
    ((region false { root := some 1 }).rOn 255 = false ∧ (region false { root := some 1 }).enableOk 255 = true) ∧
    (on.rOn 0 = false ∧ on.enableOk 0 = false) ∧
    ((region true {}).bit (Reg.icRStat 255) 31 = false ∧ (region true {}).bit (Reg.icRStat 255) 30 = false ∧ (region true {}).rOn 255 = true) ∧
    (255 ∈ (region true { filling := [255] }).ic.filling ∧ (region true { filling := [255] }).icRuns = true) ∧
    (255 ∉ (region true {}).ic.rekeying ∧ 255 ∉ (region true {}).ic.waiting ∧ (region true { rekeying := [0, 1, 2] }).ic.rekeying.length < 4) ∧
    (region true {}).rEpoch 255 ≠ 0xFFFFFFFF := by decide +kernel

theorem wit_Encryption_b :
    (255 ∈ (region true { rekeying := [255] }).ic.rekeying ∧ (region true { rekeying := [255] }).rMode 255 ≠ 3) ∧
    ((region true { rekeying := [255] }).wr (Reg.icRPosHi 255) 0x106).rPos 255 + 4096 < 2 ^ 48 ∧
    (region true { rekeying := [255] }).rPos 255 + 4096 ≤ (region true { rekeying := [255] }).rLimit 255 ∧
    (region true { rekeying := [255] }).rLimit 255 < ((region true { rekeying := [255] }).wr (Reg.icRPosHi 255) 0x106).rPos 255 + 4096 ∧
    ((region true { rekeying := [255] }).bit (Reg.icRStat 255) 29 = false ∧ (region true { rekeying := [255] }).ic.waiting = []) ∧
    (List.range 8).any on.tileExt = false := by decide +kernel

/-- The Rounds with a record. -/
def rounds (r : RndSt) : State := { on with rnd := r }
def outE (late : Bool) : OutEnt := { pkt := rdPkt, origin := .master, late := late }
def respPkt : Pkt := { rdPkt with kind := .readResp, tag := 2047 }
/-- A read of bay memory of tile 0 that a bay holds, and one of a scratchpad. -/
def fabPkt : Pkt := { rdPkt with addr := 0x1040000000 }
def spPkt : Pkt := { rdPkt with addr := 0x10000000, src := 0, dst := 0, pos := 0 }

theorem wit_RoundsTransactions :
    (on.domOn domRnd = true ∧ on.decodes (0xFFFFFFFFFFFF : BitVec 48).toNat = false ∧ atStop (0x30 : Byte).toNat 0 = true ∧ on.unitLive (0x30 : Byte).toNat 0 = true) ∧
    (atStop (3 : Byte).toNat 0 = true ∧ (core3 false {}).unitLive (3 : Byte).toNat 0 = true ∧ (core3 false {}).coreOn 3 = true ∧ (core3 false {}).halted 3 = false ∧ ((core3 false {}).core 3).reservation ≠ some 0) ∧
    (on.decodes (0x10010000000 : BitVec 48).toNat = true ∧ on.stampHeld (on.stopOf 0x10010000000) 0 = 0) ∧
    (0 < (rounds { stampHeld := [(18 * on.stopOf 0x10010000000, 64)] }).stampHeld (on.stopOf 0x10010000000) 0 ∧ (rounds {}).freeTag 0 = some 0 ∧ (rounds {}).rnd.inj = []) ∧
    (on.vl.jobs = [] ∧ on.dbg.queue = [] ∧ on.rnd.inj = [] ∧ on.fab.mmps = []) ∧
    (SMap.find (rounds { out := [(2048 * 17 + 2047, outE false)] }).rnd.out (2048 * 17 + 2047) = some (outE false) ∧ (outE false).origin = .master) := by decide +kernel

theorem wit_RoundsTransactions_b :
    SMap.find (rounds { out := [(2048 * 17 + 2047, outE true)] }).rnd.out (2048 * 17 + 2047) = some (outE true) ∧
    (rounds { net := [respPkt], out := [(2048 * 2 + 2047, outE false)] }).netAt 0 [.readResp, .writeResp] = some respPkt ∧
    SMap.find (rounds { net := [respPkt], out := [(2048 * 2 + 2047, outE false)] }).rnd.out (2048 * respPkt.dst + respPkt.tag) = some (outE false) ∧
    ((rounds { net := [respPkt], out := [(2048 * 2 + 2047, outE true)] }).netAt 0 [.readResp, .writeResp] = some respPkt ∧ respPkt.dst < 18) ∧
    ((rounds { net := [respPkt] }).netAt 0 [.readResp, .writeResp] = some respPkt ∧ SMap.find (rounds { net := [respPkt] }).rnd.out (2048 * respPkt.dst + respPkt.tag) = none) := by decide +kernel

theorem wit_RoundsArrivals :
    ((rounds { net := [rdPkt] }).netAt 0 [.readReq, .writeReq] = some rdPkt ∧ rdPkt.back = false ∧ rdPkt.src < 18 ∧ rdPkt.dst < 18 ∧ rdPkt.repoch < 2) ∧
    ((let s := rounds { net := [rdPkt], accepted := [(2, 256)] }
      s.netAt 0 [.readReq, .writeReq] = some rdPkt ∧ destSize rdPkt.dst ≤ s.accepted rdPkt.dst)) ∧
    ((let s := offAt (rounds { net := [rdPkt] }) (domEdge 0)
      s.netAt 0 [.readReq, .writeReq] = some rdPkt ∧ s.accepted rdPkt.dst < destSize rdPkt.dst ∧ (s.dom (s.domOf rdPkt.addr)).ph ≠ 3 ∧ s.refuses (s.domOf rdPkt.addr) = true)) ∧
    ((let s := rounds { net := [rdPkt] }
      s.accepted rdPkt.dst < destSize rdPkt.dst ∧ (s.dom (s.domOf rdPkt.addr)).ph = 2 ∧ s.decodes (rdPkt.addr + rdPkt.len - 1) = true ∧ rdPkt.bem = none)) ∧
    ((let s := rounds { net := [spPkt] }
      s.netAt 0 [.readReq, .writeReq] = some spPkt ∧ s.accepted spPkt.dst < destSize spPkt.dst ∧ (s.dom (s.domOf spPkt.addr)).ph = 2 ∧ s.fabricWaits spPkt.addr = false)) ∧
    ((let s := offAt (rounds { net := [fabPkt] }) (domBay 0 0)
      s.netAt 0 [.readReq, .writeReq] = some fabPkt ∧ (s.dom (s.domOf fabPkt.addr)).ph = 0 ∧ s.refuses (s.domOf fabPkt.addr) = false ∧ s.prOcc 2 < 64)) := by decide +kernel

theorem wit_RoundsArrivals_b :
    ((rounds { inj := [rdPkt] }).rnd.inj[0]? = some rdPkt ∧ (rounds { net := [rdPkt] }).rnd.net[0]? = some rdPkt) ∧
    ((mcs 0 { inbox := [{ pkt := rdPkt, eff := 15 }] }).mcs = [(0, { inbox := [{ pkt := rdPkt, eff := 15 }] })] ∧ (mcs 0 {}).rnd.inj.length + (mcs 0 {}).rnd.net.length = 0) ∧
    (rounds { net := [{ rdPkt with kind := .returned }] }).netAt 0 [.returned] = some { rdPkt with kind := .returned } ∧
    ((let s := rounds { net := [{ rdPkt with kind := .resume }], blocked := [38] }
      s.netAt 0 [.resume] = some { rdPkt with kind := .resume } ∧ 18 * 2 + 2 ∈ s.rnd.blocked ∧ 18 * 2 + 2 ∉ (rounds {}).rnd.blocked)) ∧
    ((let s := rounds { fabHeld := [fabPkt] }
      s.rnd.fabHeld[0]? = some fabPkt ∧ s.fabricWaits fabPkt.addr = false ∧ (s.rnd.fabHeld.take 0).any (sameOrder fabPkt) = false ∧ fabPkt.bem = none)) ∧
    (inTile fabPkt.addr = true ∧ 0x40000000 ≤ winOff fabPkt.addr ∧ winOff fabPkt.addr < 0x60000000 ∧ memForm fabPkt.addr fabPkt.len = true) := by decide +kernel

theorem wit_RoundsRoutesAndLinks :
    (on.domOn domRnd = true ∧ on.drained = true ∧ (511 : Word).toNat % 256 ≠ 0 ∧ (256 : Word).toNat % 256 = 0) ∧
    ((rounds { net := [{ rdPkt with repoch := 1 }] }).drained = false ∧ 1 ≠ (rounds {}).curBank ∧ 0 = (rounds {}).curBank) ∧
    (on.linkDown 17 7 1 = false ∧ (on.wr (Reg.rndSLink 17) (2 ^ 31)).linkDown 17 7 1 = true) ∧
    (SMap.get (rounds { nakRun := [(16 * 17 + 15, 7)] }).rnd.nakRun (16 * 17 + 2 * 7 + 1) 0 = 7 ∧ SMap.get (rounds { naks := [(16 * 17 + 15, 63)] }).rnd.naks (16 * 17 + 2 * 7 + 1) 0 = 63) := by decide +kernel

/-- The Tally with a record. -/
def tally (t : TalSt) : State := { on with tal := t }

theorem wit_ConservationLedgers :
    (on.domOn domRnd = true ∧ (rounds { stampHeld := [(18 * 2 + 17, 56)] }).stampHeld 2 17 + 8 ≤ 64 ∧ (rounds {}).stampUsed 2 + 8 ≤ destSize 2) ∧
    (64 < (rounds { stampHeld := [(18 * 2 + 17, 57)] }).stampHeld 2 17 + 8 ∧ destSize 1 < (rounds { stampUsed := [(1, 57)] }).stampUsed 1 + 8) ∧
    (64 ≤ (rounds { stampHeld := [(18 * 2 + 17, 64)], stampUsed := [(2, 64)] }).stampHeld 2 17 ∧ 64 ≤ (rounds { stampHeld := [(18 * 2 + 17, 64)], stampUsed := [(2, 64)] }).stampUsed 2) ∧
    ((rounds {}).vl.jobs = [] ∧ (rounds {}).dbg.queue = [] ∧ (rounds {}).fab.mmps = []) ∧
    ((let s := rounds { stampDue := [(18 * 2 + 17, 3)], stampHeld := [(18 * 2 + 17, 3)], stampUsed := [(2, 3)] }
      0 < SMap.get s.rnd.stampDue (18 * 2 + 17) 0 ∧ SMap.get s.rnd.stampDue (18 * 2 + 17) 0 ≤ s.stampHeld 2 17 ∧ SMap.get s.rnd.stampDue (18 * 2 + 17) 0 ≤ s.stampUsed 2)) ∧
    ((tally { due := true }).tal.due = true ∧ 17 ∉ (tally { due := true }).tal.reported) ∧
    12287 ∈ (tally { rebuild := [12287] }).tal.rebuild ∧
    (((tally { due := true }).wr Reg.talCtrl 0).bit Reg.talCtrl 0 = false ∧ ((tally { due := true, asked := true }).wr Reg.talCtrl 1).tal.asked = true ∧ ((tally { due := true, asked := true }).wr Reg.talCtrl 1).bit Reg.talCtrl 0 = true) := by decide +kernel

/-- A request of client 63 at MP, and a module in a mode to which it has been handed. -/
def req (op : Nat) (p : List Byte) : VReq := { port := 0, opcode := op, client := 63, seq := 1, payload := p }
def asked (m op : Nat) (p : List Byte) : State := { at' m with vl := { handed := [req op p], store := true } }
/-- The same with other parts of the state changed. -/
def withSo (s : State) (so : SoSt) : State := { s with so := so }
def withFl (s : State) (fl : FlSt) : State := { s with fl := fl }
def withTkt (s : State) (t : Ticket) : State := { s with vl := { s.vl with tickets := [(0, t)] } }

/-- Whatever the mode, the opcode and the payload, the request of `asked` is the one its handler finds. -/
theorem wit_fronts (m op : Nat) (p : List Byte) : (asked m op p).fronts 63 op (req op p) := ⟨rfl, rfl, rfl⟩

/-- MP up and serving. -/
def served : State := (on.wr (Reg.vlLpCfg 0) (2 ^ 31 + 2 ^ 28)).wr (Reg.vlLpStat 0) (2 ^ 31)
/-- An ECHO of client 1 as an envelope, with its CRC or without. -/
def env (crc : Nat) : List Byte :=
  leBytes 2 0x4C56 ++ [1, 0] ++ leBytes 2 0x0100 ++ [0, 0, 1, 0] ++ leBytes 2 0 ++ leBytes 4 1 ++ leBytes 12 0 ++ leBytes 4 crc
def goodEnv : List Byte := env (crc32c ((env 0).take 28))
/-- The same with another protocol version. -/
def badVer : List Byte := let e := (env 0).set 2 2; e.take 28 ++ leBytes 4 (crc32c (e.take 28))
/-- A UDP frame over IPv6 for MP's link-local address, with a payload. -/
def frame (p : List Byte) : HostFrame :=
  { port := 0, fcs := true, len := 14 + 40 + 8 + p.length + 4, dst := 0, src := 1, vid := none, v6 := true, srcIp := 1,
    dstIp := BitVec.ofNat 128 (linkLocal (on.lpMac 0)), ipOk := true, frag := false, udp := some (5, 47310), sum := .good, payload := p }
/-- Served, with the requests admitted and the replies waiting. -/
def vl (v : VlSt) : State := { served with vl := { v with store := true } }
def reply0 : VReply := { port := 0, opcode := 0x0100, client := 1, seq := 1, status := 0, mode := 6, buf := true }
def open0 (cl : Nat) (fl : Nat) : VReq := { port := 0, flags := fl, opcode := 0x0100, client := cl, seq := 2 ^ 32 - 1 }
def job0 : Job := { kind := .read, req := req 0x0500 [], ticket := 4095 }

theorem wit_EnvelopesAndReplies :
    served.lpServing 0 = true ∧
    (toVollor (frame []) = true ∧ toVollor { frame [] with udp := none } = false ∧ (frame []).port = 0 ∧ (frame []).v6 = true) ∧
    (served.intact (frame (env 0)) (served.lpOwns 0 true) = false ∧ served.intact (frame goodEnv) (served.lpOwns 0 true) = true) ∧
    ((reqOf (frame goodEnv)).payload.length ≤ served.lpLimit 0 true ∧ (reqOf (frame goodEnv)).version = 1 ∧ (reqOf (frame badVer)).version ≠ 1 ∧ served.intact (frame badVer) (served.lpOwns 0 true) = true) ∧
    (served.admits (reqOf (frame goodEnv)) = true ∧ (vl { bufs := [(0, physBufs 0)] }).admits (reqOf (frame goodEnv)) = false ∧ (vl { bufs := [(0, physBufs 0)] }).lpServing 0 = true) ∧
    (on.hubOn = true ∧ (vl { intake := [open0 63 2] }).vl.intake = [open0 63 2] ∧ ((vl {}).client 63).isOpen = false ∧ bitOf (open0 63 2).flags 1 = true) := by decide +kernel

theorem wit_EnvelopesAndReplies_b :
    (opListed 0x0100 = true ∧ served.opReady 0x0100 0 = true ∧ bitOf (open0 63 0).flags 1 = false) ∧
    64 ≤ (open0 64 0).client ∧
    ((vl { replies := [reply0] }).lpUp 0 = true ∧ (vl { replies := [reply0] }).vl.replies = [reply0] ∧ reply0.thenReset = false) ∧
    ((vl { jobs := [(0, job0)] }).job 0 = some job0 ∧ job0.deferred = false ∧ job0.kind ≠ .fill ∧ job0.ticket < 4096) ∧
    (((vl { tickets := [(4095, { used := true, state := 2 })] }).tkt 4095).used = true ∧ 2 ≤ ((vl { tickets := [(4095, { used := true, state := 2 })] }).tkt 4095).state) := by decide +kernel

theorem wit_NetworkAndLodge :
    (served.lpServing 0 = true ∧ (served.wr (Reg.vlLpIp4 0) 7).lpIp4 0 = (7 : Word).toNat ∧ served.lpIp4 0 ≠ (7 : Word).toNat) ∧
    (BitVec.ofNat 128 (linkLocal (served.lpMac 0))).toNat = linkLocal (served.lpMac 0) ∧
    ((served.wr (Reg.vlLpCfg 0) (2 ^ 31 + 2 ^ 29)).lpUp 0 = true ∧ (served.wr (Reg.vlLpCfg 0) (2 ^ 31 + 2 ^ 29)).fld (Reg.vlLpCfg 0) 29 28 = 2) ∧
    8 ∈ (vl { lease := [8] }).vl.lease ∧
    (served.lpExists 0 = true ∧ served.bit (Reg.vlLpCfg 0) 31 = true ∧ on.domOn domHost = true ∧ on.pw.refFail.contains 1 = false) := by decide +kernel

theorem wit_NetworkAndLodge_b :
    ((served.wr (Reg.vlLpCfg 5) (2 ^ 31 + 2 ^ 27)).lpExists 8 = true) ∧ (on.lodgeOn = true ∧ on.canWake = false) ∧
    (on.intact (frame goodEnv) (fun ip => if (frame goodEnv).v6 then decide (ip = linkLocal (on.lpMac 0)) else decide (ip ≠ 0 ∧ ip = on.rd Reg.pmLodgeIp4)) = true) ∧
    (on.wr Reg.pmLodgeIp4 7).rd Reg.pmLodgeIp4 = (7 : Word).toNat := by decide +kernel

theorem wit_SystemAndModeOpcodes :
    ((at' 2).mode ∈ allModes ∧ (at' 10).mode ∈ allModes ∧ hdrOk (req 0x0100 []) = true) ∧
    ((asked 6 0x0103 (leBytes 8 0x10000000)).tktOld 0x10000000 = true ∧ (asked 6 0x0103 (leBytes 8 0x1000)).tktOld 0x1000 = false) ∧
    ((req 0x0103 (leBytes 8 0x1000)).payload.length = 8 ∧ leAt (req 0x0103 (leBytes 8 0x1000)).payload 4 4 = 0) ∧
    (withTkt (asked 6 0x0103 (leBytes 8 0x1000)) { used := true }).tktOf 0x1000 = some 0 ∧
    ((withTkt (asked 6 0x0104 (leBytes 4 0x1000)) { used := true, work := .storeErase 0 }).tkt 0).work = .storeErase 0 := by decide +kernel

theorem wit_SystemAndModeOpcodes_b :
    leAt (req 0x0105 (leBytes 4 0x54535257)).payload 0 4 = 0x54535257 ∧
    ((asked 10 0x0201 (leBytes 4 10)).mode ∈ [2, 3, 5, 6, 7, 8, 9, 10] ∧ (asked 10 0x0201 (leBytes 4 10)).modeAskOk (leBytes 4 10) = true) ∧
    (leAt (leBytes 4 10) 0 1 = (asked 10 0x0201 (leBytes 4 10)).mode ∧ on.pw.chg = none ∧ on.pw.pend = none) ∧
    ((asked 6 0x0201 (leBytes 4 11)).modeAskOk (leBytes 4 11) = true ∧ leAt (leBytes 4 11) 0 1 ≠ on.mode ∧ (asked 6 0x0201 []).tktFree = some 0) := by decide +kernel

theorem wit_OpcodesRefusedByMode :
    ((asked 4 0x0201 []).mode ∉ [2, 3, 5, 6, 7, 8, 9, 10] ∧ (asked 10 0x0301 []).mode ∉ [5, 6, 7, 8, 9] ∧ (asked 9 0x0708 []).mode ∉ [8]) := by decide +kernel

/-- A design committed in slot 1,023, run 4,095 in a state, and a load whose intake is open. -/
def design1023 (st : Nat) : SoSt := { designs := [(1023, { state := st, pageCount := 1 })] }
def run4095 (f : Run → Run) : SoSt := { runs := [(4095, f { state := .idle, pageCount := 1 })] }
def loadOf (op : Nat) (p : List Byte) (l : Load) : State :=
  let s := withTkt (asked 6 op p) { used := true, work := .load 3 }
  { s with fk := { s.fk with loads := [(3, l)] } }

theorem wit_ImageOpcodes :
    ((asked 6 0x0300 (leBytes 8 0)).loadAskOk (leBytes 8 0) = true ∧ (asked 6 0x0300 (leBytes 8 0)).loadFree = some 0 ∧ (asked 6 0x0300 []).tktFree = some 0) ∧
    ({ asked 6 0x0300 (leBytes 8 0) with fk := { on.fk with loads := [(0, {}), (1, {}), (2, {}), (3, {})] } }).loadFree = none ∧
    ((let p := leBytes 8 0x1000 ++ leBytes 8 0 ++ [7]
      17 ≤ p.length ∧ leAt p 4 4 = 0 ∧ (loadOf 0x0301 p {}).pieceLoad (leAt p 0 4) = some 3 ∧ ((loadOf 0x0301 p {}).load 3).bytes.length < 48 ∧
      leAt p 8 8 = ((loadOf 0x0301 p {}).load 3).bytes.length + ((loadOf 0x0301 p {}).load 3).piece.length ∧ 0 + (p.length - 16) ≤ pieceBuf)) ∧
    ((loadOf 0x0302 (leBytes 4 0x1000) {}).pieceLoad 0x1000 = some 3 ∧ ((loadOf 0x0302 (leBytes 4 0x1000) {}).load 3).complete = false) ∧
    ((loadOf 0x0302 (leBytes 4 0x1000) { bytes := List.replicate 256 0 }).load 3).complete = true ∧
    (leAt (leBytes 2 1023) 0 2 < 1024 ∧ (leBytes 2 1023).length = 2) ∧
    (((withSo (asked 6 0x0304 (leBytes 2 1023)) (design1023 2)).design 1023).state = 2 ∧ ((withSo (asked 6 0x0304 (leBytes 2 1023)) (design1023 1)).design 1023).state < 2) ∧
    (leAt (leBytes 1 7) 0 1 < on.fl.entries ∧ on.fl.entries ≤ 255 ∧ on.fl.storeBusy = []) := by decide +kernel

theorem wit_RunOpcodes :
    ((asked 5 0x0400 []).mode ∈ [5, 6, 7, 8] ∧ (asked 8 0x0400 []).mode ∈ [5, 6, 7, 8]) ∧
    ((let p := leBytes 2 1023 ++ [15, 1, 0, 0, 0, 0]
      p.length = 8 ∧ leAt p 0 2 < 1024 ∧ leAt p 2 1 < 16 ∧ leAt p 3 1 < 2 ∧ leAt p 5 3 = 0 ∧ ((asked 6 0x0400 p).design 1023).state ≠ 2)) ∧
    (((withSo (asked 6 0x0401 (leBytes 2 4095)) (run4095 id)).run 4095).curOp = .none ∧
      ((withSo (asked 6 0x0401 (leBytes 2 4095)) (run4095 id)).run 4095).pend = none ∧ (asked 6 0x0401 []).bit Reg.soCtrl 0 = true) ∧
    ((asked 6 0x0401 (leBytes 2 4095)).tktFree = some 0 ∧ leAt (leBytes 2 4095) 0 2 = 4095) ∧
    (((withSo (asked 6 0x0401 (leBytes 2 4095)) (run4095 id)).run 4095).state = .idle ∧
      ((withSo (asked 6 0x0403 (leBytes 2 4095)) (run4095 (fun r => { r with state := .suspended }))).run 4095).state = .suspended) := by decide +kernel

theorem wit_RunOpcodes_b :
    ((let p := leBytes 8 4095 ++ leBytes 8 1
      p.length = 16 ∧ leAt p 2 6 = 0 ∧ leAt p 8 8 ≠ 0 ∧ ((withSo (asked 6 0x0402 p) (run4095 (fun r => { r with state := .running }))).run 4095).state = .running)) ∧
    ((withSo (asked 6 0x0401 []) (run4095 (fun r => { r with curOp := .start }))).run 4095).curOp ≠ .none ∧
    ((let p := leBytes 2 4095 ++ leBytes 2 2047 ++ leBytes 2 1023 ++ leBytes 2 2047
      p.length = 8 ∧ leAt p 2 2 < 2048 ∧ leAt p 4 2 < 1024 ∧ leAt p 6 2 < 2048)) ∧
    (((asked 6 0x0401 (leBytes 2 4095)).run 4095).state = .empty ∧ (asked 6 0x0406 []).so.runs = []) ∧
    ((let p := leBytes 2 4095 ++ [15, 1, 0, 0, 0, 0]
      p.length = 8 ∧ leAt p 2 1 < 16 ∧ leAt p 3 1 < 2 ∧ leAt p 5 3 = 0)) := by decide +kernel

/-- The request with a ticket entry reserved for it, handed to its handler in Serving. -/
def resv (op : Nat) (p : List Byte) : State :=
  { on with vl := { handed := [{ req op p with resv := some 4095 }], store := true } }
/-- The same with 64 stamps of hub stop 0 held there. -/
def stamped (op : Nat) (p : List Byte) : State := { resv op p with rnd := { on.rnd with stampHeld := [(0, 64)] } }
def spAddr (last : Nat) (b n : Nat) : List Byte := leBytes 8 (0x10000000 + b * 0x800000 + last) ++ leBytes 4 n

theorem wit_AccessOpcodes :
    (hdrOk (req 0x0500 []) = true ∧ on.mode ∈ allModes ∧ (resv 0x0500 []).vl.jobs = [] ∧ ((resv 0x0500 []).vl.handed.map (fun q => q.resv)) = [some 4095]) ∧
    ((let p := spAddr 0 0 256
      p.length = 12 ∧ leAt p 8 4 = 256 ∧ leAt p 8 4 ≤ (resv 0x0500 p).lpLimit 0 false - 16 ∧ leAt p 0 8 + 256 ≤ 2 ^ 48 ∧ (resv 0x0500 p).decodes (leAt p 0 8) = true)) ∧
    ((resv 0x0500 []).stampHeld ((resv 0x0500 []).stopOf 0x10000000) 0 = 0 ∧ (resv 0x0500 []).freeTag 0 = some 0) ∧
    (0 < (stamped 0x0500 []).stampHeld ((stamped 0x0500 []).stopOf 0x107FFF00) 0 ∧ (stamped 0x0500 []).freeTag 0 = some 0 ∧ (stamped 0x0500 []).rnd.inj = []) ∧
    (2 : Nat) ^ 48 < leAt (leBytes 8 (2 ^ 48 - 1) ++ leBytes 4 2) 0 8 + 2 ∧
    ((let p := leBytes 8 (2 ^ 48 - 4)
      leAt p 0 8 + 4 ≤ 2 ^ 48 ∧ on.decodes 0x10000000 = true)) ∧
    (listOk 8 128 (leBytes 8 0x10000000) = true ∧ listOk 16 64 (leBytes 8 0x10000000 ++ leBytes 8 7) = true) := by decide +kernel

theorem wit_AccessOpcodes_b :
    (listEntries 16 (leBytes 8 0x10000000 ++ leBytes 8 7)).all (fun e => zeroAt e 12 4) = true ∧
    ((let p := leBytes 8 0x10000000 ++ leBytes 8 64 ++ leBytes 8 0
      p.length = 24 ∧ leAt p 8 8 % 64 = 0 ∧ leAt p 0 8 + leAt p 8 8 ≤ 2 ^ 48)) ∧
    (on.dbg.queue = [] ∧ on.dbg.busy = false) ∧
    ((let p := leBytes 8 0x907FC ++ leBytes 8 1
      p.length = 16 ∧ leAt p 0 8 % 4 = 0 ∧ leAt p 8 2 = 1 ∧ leAt p 10 1 < 2 ∧ leAt p 11 5 = 0 ∧ privatePath (leAt p 0 8) = true ∧
      leAt p 8 2 ≤ (on.lpLimit 0 false - 16) / 4)) ∧
    ((let p := leBytes 8 0x0 ++ leBytes 4 1
      12 ≤ p.length ∧ (p.length - 8) % 4 = 0 ∧ privatePath (leAt p 0 8) = true)) ∧
    ((leBytes 2 3).length = 2 ∧ leAt (leBytes 2 3) 0 1 < 4 ∧ leAt (leBytes 2 3) 1 1 = 0 ∧ (on.wr (Reg.dbgCStat 3) 0).coreOn 3 = true) ∧
    (((on.wr (Reg.dbgCStat 3) 1).halted 3 = true) ∧ (on.wr (Reg.dbgCStat 3) 1).coreOn 3 = true) := by decide +kernel

/-- Run 0 with a stream 0 of the given direction. -/
def streamed (op aux : Nat) (p : List Byte) (toHost : Bool) (bs : List (List Byte)) (st : RunState) : State :=
  { on with
    so := { runs := [(0, { state := st })] }
    vl := { handed := [{ req op p with aux := aux, stream := 2 ^ 31 }], store := true
            streams := [(0, ⟨0, toHost, 0x10600000000, 12, 0x10600001000, 36, bs, 0⟩)] } }
def str0 (toHost : Bool) : Stream := ⟨0, toHost, 0x10600000000, 12, 0x10600001000, 36, [], 0⟩
def strReq : VReq := { req 0x0602 [7] with stream := 2 ^ 31 }
/-- The controllers serve. -/
def memUp (s : State) : State := (s.wr (Reg.mcCtrl 0) 1).wr (Reg.mcCtrl 1) 1

theorem wit_StreamOpcodes :
    (on.mode ∈ [5, 6, 7, 8] ∧ strReq.ticket = 0) ∧
    ((let p := leBytes 4 0x0C000000 ++ leBytes 4 36 ++ leBytes 8 0x10600000000 ++ leBytes 8 0x10600001000
      let s := withSo (asked 6 0x0600 p) { runs := [(0, { state := .running })] }
      s.streamAskOk p = true ∧ s.streamFree = some 0 ∧ s.poolUsed + 36 ≤ 32768)) ∧
    ((streamed 0x0602 0 [7] false [] .running).streamOf strReq = some (0, str0 false) ∧ strReq.aux = (str0 false).nextOff % 2 ^ 32) ∧
    ((str0 false).bufs.length + (bufsOf [7]).length ≤ (str0 false).allot ∧ (streamed 0x0602 0 [7] true [] .running).streamOf strReq = some (0, str0 true)) ∧
    ((let g := ((memUp (streamed 0x0603 0 (leBytes 4 1) true [] .running)).taken strReq).ringCtl (str0 true)
      g.2.1 = 0 ∧ g.2.2.1 = g.2.2.2)) := by decide +kernel

theorem wit_StreamOpcodes_b :
    ((memUp (streamed 0x0604 0 [] false [[7]] .running)).hubOn = true ∧ (streamed 0x0604 0 [] false [[7]] .running).delivers (str0 false) = true) ∧
    ((memUp (streamed 0x0604 0 [] false [[7]] .running)).ringCtl (str0 false)).2.1 = 0 ∧
    (fitting [[7]] (ringSize (str0 false) - ringHeld 0 0) = [[7]] ∧ fitting [[7]] 0 = []) ∧
    ((let s := memUp (streamed 0x0604 0 [] false [[7]] .running)
      (s.ringPut (str0 false) 0 [7]).2 = 0 ∧ ((s.ringPut (str0 false) 0 [7]).1.engineAccess 0 0x08 (str0 false).ctl 8 true (leBytes 8 1)).cause = 0)) := by decide +kernel

/-- Run 1 of design 0 with one page, in a state; its page's entry is in the cache. -/
def paged (op : Nat) (p : List Byte) (st : RunState) : State :=
  withSo (memUp (asked 6 op p))
    { designs := [(0, { state := 2, pageCount := 1 })], runs := [(1, { state := st, pageCount := 1, stateBase := 1 })],
      pmCache := [(0, { kind := 2, stat := 1, len := 1 }), (1, { kind := 1, stat := 1, len := 1, granule := 1, owner := 1 })],
      pmAlloc := [(0, 0, 0, 1), (1, 0, 1, 1)] }
/-- The same with a snapshot entry. -/
def snapEnt (op : Nat) (p : List Byte) (st : RunState) (k : Nat) (e : Snap) : State :=
  let s := paged op p st
  { s with so := { s.so with snaps := [(k, e)] } }
def stepping1 : State :=
  let s := paged 0x0708 (leBytes 4 1 ++ leBytes 2 1) .running
  { s with regs := SMap.set s.regs 0 8 0, so := { s.so with runs := [(1, { state := .running, held := true, pageCount := 1, stateBase := 1 })] } }

theorem wit_SnapshotOpcodes :
    ((let p := leBytes 8 1 ++ leBytes 8 0
      p.length = 16 ∧ leAt p 0 2 < 4096 ∧ leAt p 2 1 < 4 ∧ leAt p 3 5 = 0 ∧ ((paged 0x0700 p .ready).run 1).state ≠ .empty ∧ (paged 0x0700 p .ready).snapAdmits 1 = false)) ∧
    ((let s := (paged 0x0700 [] .running).taken (req 0x0700 [])
      (s.run 1).state = .running ∧ (List.range 1024).find? s.entryFree = some 0 ∧ (s.runPages 1).2.isSome = true ∧ (s.runPages 1).1.vl = s.vl)) ∧
    ((let s := (paged 0x0700 [] .running).taken (req 0x0700 [])
      (match (s.runPages 1).1.segAlloc 63 1 false ((s.runPages 1).2.getD []) with
      | (.done v, _) => decide ((v.run 1).state = .running) && v.mode = s.mode
      | _ => false) = true)) ∧
    ((let p := leBytes 8 (1 + 2 ^ 40) ++ leBytes 8 0
      p.length = 16 ∧ leAt p 2 2 = 0 ∧ leAt p 5 1 < 2 ∧ leAt p 6 2 = 0 ∧
      (withSo on { runs := [(1, { state := .idle })], rings := [(63, { run := 1 })] }).ringOf 1 = some 63)) ∧
    ((leBytes 3 1023).length = 3 ∧ leAt (leBytes 3 1023) 0 2 < 1024 ∧ ((snapEnt 0x0702 (leBytes 3 1023) .running 1023 { state := 3 }).snap 1023).state ≠ 0) ∧
    (((snapEnt 0x0703 [] .running 0 { state := 2 }).snap 0).state = 2 ∧ ((snapEnt 0x0703 [] .running 0 { state := 3, pin := true }).snap 0).pin = true) ∧
    (((snapEnt 0x0703 [] .running 0 { state := 3 }).snap 0).state = 3 ∧ ((snapEnt 0x0703 [] .running 0 { state := 3 }).snap 0).pin = false) := by decide +kernel

theorem wit_SnapshotOpcodes_b :
    ((let s := snapEnt 0x0704 (leBytes 8 (2 ^ 16)) .idle 0 { state := 3, mem := true, run := 1, segBase := 0, pageCount := 1 }
      (s.run 1).curOp = .none ∧ (s.taken (req 0x0704 [])).restoreErr 1 0 true = 0 ∧ s.tktFree = some 0)) ∧
    ((let s := (snapEnt 0x0705 [] .idle 0 { state := 3, run := 1, segBase := 0, pageCount := 1 }).taken (req 0x0705 [])
      (s.pmGet (0 + 0) 1).2.stat = 1 ∧ (s.pmGet 0 1).1.vl = s.vl ∧ (s.pmGet 0 1).1.mode = s.mode ∧ (s.dramRead (granAddr 0 0) 64 0x20).cause = 0)) ∧
    ((let s := (snapEnt 0x0705 [] .idle 0 { state := 3, run := 1, segBase := 5, pageCount := 1 }).taken (req 0x0705 [])
      (s.pmGet (5 + 0) 1).2.stat ≠ 1 ∧ (s.pmGet 5 1).1.vl = s.vl)) ∧
    ((let p := leBytes 4 0 ++ leBytes 4 0 ++ leBytes 4 1
      p.length = 12 ∧ 1 ≤ leAt p 8 4 ∧ leAt p 8 4 ≤ on.lpLimit 0 false - 8 ∧ 0 < min 1 (64 + 0 - leAt p 4 4))) ∧
    (([63, 0, 0, 0] ++ List.replicate 296 (0 : Byte)).length = 300 ∧ leAt [63, 0, 0, 0] 0 1 < 64) ∧
    (stepping1.mode = 8 ∧ stepping1.stepOk 1 = true ∧ stepping1.tktFree = some 0 ∧ 1 ≤ leAt (leBytes 4 1 ++ leBytes 2 1) 4 2) := by decide +kernel

/-- An update in which boot record 0 has a state and staging stands as given. -/
def updating (op : Nat) (p : List Byte) (stage : Nat) (g : Option Staging) : State :=
  let s := withTkt (asked 6 op p) { used := true, work := .update }
  { s with fl := { s.fl with rec0 := some { gen := 1, stage := stage, next := 1 }, stg := g } }

theorem wit_UpdateAndLogOpcodes :
    (on.mode ∈ [5, 6, 7, 8, 9] ∧ on.mode ∈ allModes ∧ hdrOk (req 0x0800 []) = true) ∧
    ((updating 0x0800 (leBytes 8 0x1000000) 0 none).bootRec.stage = 0 ∧ (updating 0x0800 [] 0 none).bootRec.promote = 0 ∧ (updating 0x0800 [] 0 none).fl.stg = none) ∧
    (leAt (leBytes 8 0x1000000) 0 8 ≤ 0x1000000 ∧ (updating 0x0800 [] 0 none).tktFree = some 1 ∧ (updating 0x0800 [] 3 none).bootRec.stage ≠ 0 ∧ 0x1000000 < leAt (leBytes 8 0x1000001) 0 8) ∧
    ((let p := leBytes 8 0x1000 ++ leBytes 8 0 ++ [7]
      17 ≤ p.length ∧ leAt p 4 4 = 0 ∧ (updating 0x0801 p 1 (some { ticket := 0, len := 1 })).stgOf 0x1000 = some { ticket := 0, len := 1 })) ∧
    (leAt (leBytes 8 0x1000 ++ leBytes 8 0 ++ [7]) 8 8 = 0 ∧ (stageWaiting on.fl.ops).length + 1 ≤ pieceBuf) ∧
    (updating 0x0802 (leBytes 4 0x1000) 1 (some { ticket := 0, len := 1 })).stgOf (leAt (leBytes 4 0x1000) 0 4) = some { ticket := 0, len := 1 } := by decide +kernel

theorem wit_UpdateAndLogOpcodes_b :
    (1 ≤ (updating 0x0804 [] 3 none).bootRec.stage ∧ (updating 0x0804 [] 1 none).bootRec.stage ≤ 3 ∧ (updating 0x0804 [] 3 none).fl.ops = []) ∧
    ((updating 0x0805 [] 4 none).bootRec.stage = 4 ∧ (updating 0x0805 [] 0 none).bootRec.promote = 0) ∧
    (settingsKey (leAt (leBytes 2 0x1FF) 0 2) = true ∧ settingsKey (leAt (leBytes 2 1) 0 2) = true ∧ settingsKey 0x44 = false) ∧
    ((let p := leBytes 2 0x1FF ++ leBytes 2 256 ++ List.replicate 256 0
      4 ≤ p.length ∧ p.length = 4 + leAt p 2 2 ∧ leAt p 2 2 ≤ 256)) ∧
    ((leBytes 1 7).length = 1 ∧ leAt (leBytes 1 7) 0 1 < 8 ∧ on.ev.slots = []) := by decide +kernel

/-- Link 0 with group 0 of lanes 0 to 4, the last its spare, in a state and in service or not. -/
def grp0 : Nat := 0x80000000 + 2 ^ 7 + 2 * 16
def linked (s : State) (link : Nat) (serving : Bool) : State :=
  ((s.wr (Reg.crCtrl 0) (link * 16)).wr (Reg.crCfg 0 2) grp0).wr (Reg.crGStat 0 0) (if serving then 2 ^ 31 + 2 ^ 30 else 0)
def lane0 (s : State) (l st : Nat) : State := s.wr (Reg.crLStat 0 l) (st * 2 ^ 28)
def cfg0 (op : Byte) : List Byte := [0, op, 0, 0] ++ List.replicate 64 0

theorem wit_LaneOpcodes :
    (leAt [7] 0 1 = 7 ∧ leAt (cfg0 3) 0 1 = 0 ∧ (7 : Nat) < 8 ∧ on.mode ∈ [6, 7, 9] ∧ on.domOn (domCr 7) = true) ∧
    ((cfg0 0).length = 68 ∧ leAt (cfg0 0) 1 1 = 0 ∧ leAt (cfg0 3) 1 1 = 3 ∧ leAt (cfg0 3) 2 2 = 0) ∧
    ((on.crt 0).ticket = none ∧ on.extTile 0 = false ∧ on.crLink 0 = 0 ∧ cfgAccepted (cfgWords (cfg0 1)) = true) ∧
    ((linked on 2 false).crLink 0 = 2 ∧ (List.range 8).all (fun g => !(linked on 2 false).inService 0 g) = true) ∧
    ((linked on 3 false).crLink 0 = 3 ∧ (linked on 2 true).crLink 0 ≠ 3) := by decide +kernel

theorem wit_LaneOpcodes_b :
    ((at' 9).mode = 9 ∧ ((at' 9).laneSt 0 15 = 0 ∨ (at' 9).laneSt 0 15 = 4) ∧ (lane0 (at' 9) 15 4).laneSt 0 15 = 4) ∧
    ((lane0 (linked on 2 true) 0 2).grpOf 0 0 = some 0 ∧ (lane0 (linked on 2 true) 0 2).laneSt 0 0 = 2) ∧
    ((grpData ((linked on 2 true).grpWord 0 0)).contains 0 = true ∧ (linked on 2 true).spareOk 0 0 = true ∧ ((linked on 2 true).crg 0 0).move = none) ∧
    (linked on 2 true).laneSt 0 0 ≠ 2 := by decide +kernel

def ext0 : ExtBundle := ⟨0, 2047, 0, 7⟩
def sending (s : State) : State := { s with fab := { s.fab with extOut := [ext0] } }
def grpRt (s : State) (g : CrGroup) : State := { s with cr := [(0, { groups := [(0, g)] })] }

theorem wit_CourierTraffic :
    (on.domOn (domCr 0) = true ∧ (on.crt 0).ticket = none ∧ on.crLink 0 = 0) ∧
    ({ on with cr := [(0, { ticket := some 4095 })] }.crt 0).ticket = some 4095 ∧
    ((linked on 2 false).crLink 0 = 2 ∧ (List.range 8).all (fun g => !(linked on 2 false).inService 0 g) = true ∧ (linked on 3 false).crLink 0 = 3 ∧ (linked on 1 false).crLink 0 = 1) ∧
    ((sending on).fab.extOut[0]? = some ext0 ∧ bpTile ext0.src = 0 ∧ (sending on).bit (Reg.crEgr 0 ext0.route) 31 = false ∧ ext0.route < 2048) ∧
    ((let s := (sending (linked on 2 true)).wr (Reg.crEgr 0 2047) (2 ^ 31 + 7)
      s.bit (Reg.crEgr 0 2047) 31 = true ∧ s.fld (Reg.crEgr 0 2047) 30 28 = 0 ∧ s.fld (Reg.crEgr 0 2047) 26 24 = 0 ∧ s.inService 0 0 = true ∧
      s.bit (Reg.crGStat 0 0) 28 = false ∧ s.crLink 0 ≠ 3 ∧ (s.crg 0 0).egress.length < 4096)) ∧
    ((linked on 2 true).inService 0 0 = true ∧ grpData ((linked on 2 true).grpWord 0 0) ≠ []) := by decide +kernel

theorem wit_CourierTraffic_b :
    (((grpRt on { block := 1 }).crg 0 0).block = 1 ∧ ((grpRt on { block := 16383 }).crg 0 0).block < 16384 ∧ ((grpRt on { block := 16384 }).crg 0 0).block = 16384) ∧
    ((grpRt on { block := 1 }).crg 0 0).ctl = [] ∧
    ((lane0 (linked on 2 true) 0 2).grpOf 0 0 = some 0 ∧ (lane0 (linked on 2 true) 0 2).laneSt 0 0 = 2 ∧ grpSpare ((linked on 2 true).grpWord 0 0) ≠ some 0) ∧
    (((linked on 2 true).crg 0 0).missing = [] ∧ (linked on 2 true).bit (Reg.crIngLo 0 4095) 31 = false) ∧
    ((let s := ((linked on 2 true).wr (Reg.crIngLo 0 0) (2 ^ 31)).wr (Reg.crIngHi 0 0) (2 ^ 31)
      s.bit (Reg.crIngLo 0 0) 31 = true ∧ s.bit (Reg.crIngLo 0 0) 30 = false ∧ s.bit (Reg.crIngHi 0 0) 31 = true ∧ (0 : Byte).toNat = s.cycleNo 0 % 256)) := by decide +kernel

/-- Group 0 with a step in progress, and with a change that its peer asked for. -/
def moving (s : State) (m : CrMove) : State := grpRt s { move := some m }
def adapting : State :=
  let s := grpRt (linked on 2 true) { eqPend := some (0, 5, -1) }
  { s with so := { s.so with pauseGrant := some (crRequester 0 0) } }

theorem wit_CourierControlBlocks :
    ((linked on 2 true).domOn (domCr 0) = true ∧ (linked on 2 true).inService 0 0 = true ∧ ((linked on 2 true).crt 0).ticket = none) ∧
    (((grpRt (linked on 2 true) { dlpWait := true }).crg 0 0).dlpWait = true ∧ ((List.range 8).all (fun k => k = 0 || !((grpRt on { dlpWait := true }).crg 0 k).dlpWait)) = true) ∧
    ((lane0 (linked on 2 true) 0 2).grpOf 0 0 = some 0 ∧ (lane0 (linked on 2 true) 0 2).laneSt 0 0 = 2) ∧
    (grpLanes ((linked on 2 true).grpWord 0 0)).contains (bitsOf ((linked on 2 true).grpWord 0 0) 3 0 + 0) = true ∧
    (({ linked on 2 true with cr := [(0, { lanes := [(0, { replay := [(0, 16383, .idle)] })] })] }).crl 0 0).replay.find? (fun e => e.1 = 0 && e.2.1 = 16383) = some (0, 16383, .idle) ∧
    ((grpData ((linked on 2 true).grpWord 0 0)).contains 0 = true ∧ (linked on 2 true).spareOk 0 0 = true ∧ (grpSpare ((linked on 2 true).grpWord 0 0)).isSome = true) := by decide +kernel

theorem wit_CourierControlBlocks_b :
    ((5 : Fin 16).val ≤ 5 ∧ ((linked on 2 true).crg 0 0).move = none ∧ (grpSpare ((linked on 2 true).grpWord 0 0)).getD 16 < 16 ∧ grpSpare ((linked on 2 true).grpWord 0 0) ≠ some 0) ∧
    ((moving (linked on 2 true) { lane := 15, kind := 0 }).crg 0 0).move = some { lane := 15, kind := 0 } ∧
    ((let s := (linked on 2 true).wr (Reg.crGStat 0 0) (2 ^ 31 + 2 ^ 29)
      s.spareUsed 0 0 = true ∧ s.fld (Reg.crGStat 0 0) 27 24 = bitsOf (s.grpWord 0 0) 3 0 + 0)) ∧
    ((adapting.crg 0 0).eqPend = some (0, 5, -1) ∧ adapting.spareOk 0 0 = true ∧ (adapting.crg 0 0).move = none ∧ adapting.so.pauseGrant = some (crRequester 0 0)) ∧
    ((moving (linked on 2 true) { lane := 0, kind := 2, acked := true, tap := 5 }).crg 0 0).move = some { lane := 0, kind := 2, acked := true, tap := 5 } := by decide +kernel

/-- Row k of the wake table, in its first attempt. -/
def row (k : Nat) : State := { State.reset with regs := [(0x0, 1 + 16 * BitVec.ofNat 32 k), (0x4, 0x50100)] }
/-- A domain in a state. -/
def dom (d : Nat) (x : DomSt) : State := on.setDom d x
/-- A module in mode 4 or 11. -/
def asleep (m : Nat) : State :=
  { State.reset with regs := [(0x0, BitVec.ofNat 32 m), (0x4, 0)], pw := { crystal := true, mpClock := true, cold := false } }
def idleTile : State :=
  ({ (at' 6) with pw := { (at' 6).pw with doms := [(0, { ph := 2 }), (31, { ph := 2 }), (32, { ph := 2 })] },
                  fab := { on.fab with tiles := [(0, { idle := 255 })] } })
def heldFor (d : Nat) : State :=
  let s := offAt on d
  { s with rnd := { s.rnd with pr := [⟨{ kind := .readReq, src := 0, dst := 1, mid := 8, len := 4, addr := 0 }, d⟩] } }

theorem wit_WakeTableAndSources_rows :
    ((row 1).pw.aon = true ∧ (row 1).mode = 1 ∧ (row 1).bit Reg.pmStat 12 = false ∧ (row 1).fld Reg.pmStat 11 4 = 1 ∧ (row 6).fld Reg.pmStat 11 4 = 6) ∧
    ((row 4).pw.wWait = false ∧ (row 4).fld Reg.pmWakeStat 9 8 < 3 ∧ (row 4).pw.wakeFrom < 16) ∧
    (((row 4).setFld Reg.pmWakeStat 9 8 3).fld Reg.pmWakeStat 9 8 = 3 ∧ { row 2 with pw := { (row 2).pw with wWait := true } }.pw.wWait = true) := by decide +kernel

theorem wit_PowerDomains_rows :
    (on.rnd.pr = [] ∧ ((dom 8 { ph := 1, attempts := 1 }).dom 8).ph = 1 ∧ ((dom 8 { ph := 1, attempts := 1 }).dom 8).waiting = false) ∧
    (isSpDom 8 = false ∧ ((dom 8 { ph := 1, attempts := 3 }).dom 8).attempts = 3 ∧ isBayDom 0x200 = true) ∧
    (((dom 0x200 { ph := 1, waiting := true }).dom 0x200).waiting = true ∧ on.pw.aon = true ∧ on.hubOn = true) ∧
    (((dom 0x200 { ph := 3 }).dom 0x200).ph = 3 ∧ (dom 0x200 { ph := 3 }).downDrained 0x200 = true ∧ ((dom 0x200 { ph := 3 }).dom 0x200).wanted = false) ∧
    (({ on with so := { on.so with bayIdle := [(0, 16)] } }).downDue 0x200 = true ∧ isSpDom 0x200 = false) := by decide +kernel

theorem wit_PowerDomains_idle :
    (({ on with so := { on.so with bayIdle := [(0, 16)] } }).bayIdleDue 0 0 = true ∧ ({ on with so := { on.so with bayIdle := [(0, 15)] } }).bayIdleDue 0 0 = false) ∧
    idleTile.tileIdleDue 0 = true ∧
    (((heldFor 0x200).dom 0x200).ph = 0 ∧ (heldFor 0x200).rnd.pr.any (fun h => h.dom = 0x200) = true ∧ (heldFor 0x200).refuses 0x200 = false ∧
      (heldFor 0x200).allOn (domParents 0x200) = true) := by decide +kernel

theorem wit_WakeTableAndSources_sources :
    ((asleep 4).canWake = true ∧ (asleep 11).canWake = true ∧ (asleep 4).bit Reg.pmFault 24 = false) ∧
    (((asleep 4).setBit Reg.pmWakeStat 7 true).canWake = true ∧ ((asleep 4).setBit Reg.pmWakeStat 7 true).bit Reg.pmWakeStat 7 = true) ∧
    (((asleep 11).wr Reg.pmWakeCfg 7).bit Reg.pmWakeCfg 2 && ((asleep 11).wr Reg.pmWakeCfg 7).bit Reg.pmWakeCfg 1 && ((asleep 11).wr Reg.pmWakeCfg 7).bit Reg.pmWakeCfg 0) = true ∧
    ((asleep 4).pw.mpClock = true ∧ (asleep 4).rd Reg.pmWakeKey = 0 ∧ 4 < (5 : Word).toNat % 16 ∧ (27 : Word).toNat % 16 < 12) := by decide +kernel

/-- Booting, from an image. -/
def booting (k : Nat) : State := let s := at' 2; { s with pw := { s.pw with image := k } }
/-- The recorder runs and the crypto keys are drawn. -/
def ready (s : State) : State := (s.setBit Reg.evStat 29 true).setBit Reg.icStat 30 true
def inTrial : State :=
  { on with pw := { on.pw with image := 2 }, fl := { on.fl with rec0 := some { gen := 1, stage := 4, next := 1 } } }

theorem wit_BootEnds :
    ((booting 1).hubOn = true ∧ (booting 1).pw.aon = true ∧ (booting 1).mode = 2 ∧ (booting 1).pw.image ≠ 0 ∧ (booting 1).pw.bootStuck = false) ∧
    ((ready (booting 1)).bootReady = true ∧ (booting 1).bootReady = false ∧ (booting 1).anyHaltOnReset = false) ∧
    ((booting 3).bootReady = false ∧ (booting 3).pw.image = 3 ∧ (booting 3).pw.flushReset = false) ∧
    (inTrial.bootRec.stage = 4 ∧ inTrial.bootRec.promote = 0 ∧ inTrial.pw.image = 2 ∧ inTrial.anyHalted = false) ∧
    { on with pw := { on.pw with flushReset := true } }.pw.flushReset = true ∧
    (((at' 10).setFld Reg.pmStat 19 16 2).mode = 10 ∧ ((at' 10).setFld Reg.pmStat 19 16 3).fld Reg.pmStat 19 16 = 3 ∧ (at' 10).faultClear = true) := by decide +kernel

theorem wit_Resets :
    ({ on with pw := { on.pw with aon := false } }.pw.aon = false ∧ on.pw.aon = true) := by decide +kernel

def hot (h : Nat) : State := { on with pw := { on.pw with pgLow := [h] } }

theorem wit_SupplyFaults :
    (on.pw.aon = true ∧ on.pagesUp 0 ≠ [] ∧ on.pw.pgLow.contains 0 = false ∧ on.pagesUp 15 ≠ [] ∧ on.mode = 6 ∧ on.pw.chg = none) ∧
    ((hot 15).pw.pgLow.contains 15 = true ∧ (∀ k ∈ (hot 15).pw.pgLow, k = 15) ∧ on.pw.pageBad = [] ∧ on.pw.pmbusErr = []) ∧
    ((on.badPages [(0, 0)]).filter (fun x => !on.pw.pageBad.contains x) ≠ [] ∧ on.badPages [] = []) ∧
    ((hot 0).hubOn = true ∧ (hot 0).pw.pgLow.contains 0 = true ∧ { on with pw := { on.pw with pwrEnWait := true } }.pw.pwrEnWait = true) := by decide +kernel

theorem wit_TemperatureAndReferences :
    (on.pw.aon = true ∧ on.bit Reg.pmFault 18 = false ∧ 16 * (on.holdC : Int) < 16 * 127 ∧ on.mode = 6 ∧ on.pw.chg = none) ∧
    (on.pw.crystal = true ∧ bitOf on.pw.refEn 0 = true ∧ refWithin 0 0 = false) ∧
    (refExpected 0 < 2 ^ 20 ∧ refWithin 0 (refExpected 0) = true) ∧
    (SMap.get { on with pw := { on.pw with refBad := [(0, 1)] } }.pw.refBad 0 0 = 1 ∧ on.pw.refFail.contains 0 = false) ∧
    SMap.get { on with pw := { on.pw with refGood := [(0, 3)], refFail := [0] } }.pw.refGood 0 0 = 3 := by decide +kernel

def asking (m : Nat) (q : ModeReq) : State := { at' m with pw := { (at' m).pw with pend := some q } }
def changing (m : Nat) (q : ModeReq) (hold : Bool) : State :=
  { at' m with pw := { (at' m).pw with chg := some { req := q, origin := m }, holdDue := hold } }

theorem wit_ModeChanges :
    (on.pw.aon = true ∧ on.hubOn = true ∧ (asking 6 { src := .debug, target := 2 }).pw.chg = none ∧ 2 ≤ on.mode) ∧
    ((asking 6 { src := .debug, target := 2 }).mayStart { src := .debug, target := 2 } = false ∧ (asking 3 { src := .debug, target := 2 }).mayStart { src := .debug, target := 2 } = true) ∧
    ((asking 6 { src := .debug, target := 8 }).mayStart { src := .debug, target := 8 } = true ∧ (asking 6 { src := .debug, target := 11 }).mayStart { src := .debug, target := 11 } = true) ∧
    ((changing 6 { src := .debug, target := 8 } false).pw.holdDue = false ∧ (changing 6 { src := .debug, target := 8 } false).modeDone { req := { src := .debug, target := 8 }, origin := 6 } = true) ∧
    ((changing 6 { src := .debug, target := 11 } false).modeDone { req := { src := .debug, target := 11 }, origin := 6 }) = true ∧
    ((changing 6 { src := .debug, target := 8 } true).pw.holdDue = true ∧ ModeSrc.debug ≠ .boot) := by decide +kernel

/-- Bank 15 with an owner; with a handover in progress. -/
def bank (o : Nat) (h : SMap Nat) : State := { (on.setFld (Reg.spBCtrl 15) 15 8 o) with sp := { handing := h } }

theorem wit_ScratchpadBanks :
    (on.hubOn = true ∧ (bank 7 []).spOwner 15 = 7 ∧ (8 : Byte).toNat ≠ 7 ∧ (SMap.find (bank 7 [(15, 8)]).sp.handing 15).isSome = true) ∧
    (SMap.find (bank 7 []).sp.handing 15 = none ∧ ((bank 7 []).dom (domSp 15)).ph = 2) ∧
    (((offAt on (domSp 15)).setFld (Reg.spBStat 15) 25 24 1).spPower 15 = 1 ∧ ((offAt on (domSp 15)).dom (domSp 15)).ph = 0) ∧
    ((bank 0xFF []).spOwner 15 = 0xFF ∧ SMap.find (bank 7 [(15, 8)]).sp.handing 15 = some 8) ∧
    ((on.setBit (Reg.spBStat 15) 29 true).bit (Reg.spBStat 15) 29 = true ∧ on.rnd.pr = []) ∧
    (on.domOn (domSp 15) = true ∧ (on.wr Reg.spPatrol 1).fld Reg.spPatrol 7 0 ≠ 0 ∧ (0x7FFFFF : Nat) < 0x800000) := by decide +kernel

def promoting (k : Nat) : State := { on with fl := { on.fl with rec0 := some { gen := 1, stage := 4, promote := k } } }
def bigActive : State := { promoting 1 with fl := { (promoting 1).fl with active := List.replicate 65537 0 } }

theorem wit_ConfirmationWrites :
    (on.hubOn = true ∧ ¬((0 : Word).toNat = 0x434F4E46 ∧ on.bootRec.stage = 4 ∧ 3 ≤ on.mode ∧ on.pw.wdtReset = false)) ∧
    ((0x434F4E46 : Word).toNat = 0x434F4E46 ∧ (promoting 0).bootRec.stage = 4 ∧ 3 ≤ (promoting 0).mode ∧ (promoting 0).pw.wdtReset = false ∧ (promoting 0).bootRec.promote = 0) := by decide +kernel

def flashing (o : FlashOp) : State := { on with fl := { on.fl with ops := [o] } }

theorem wit_PromotionAndFlash :
    (on.hubOn = true ∧ on.ev.flushing = none ∧ on.fl.ops.any isSettings = false) ∧
    (sectorsOf 65537 = 2 ∧ (promoting 1).bootRec.promote ≠ 0 ∧ on.rd Reg.updPieces + 1 < 2) ∧
    ((promoting 1).promoteTotal ≤ (promoting 1).rd Reg.updPieces + 1 ∧ (promoting 3).bootRec.promote = 3) ∧
    (nextFlash (flashing (.settings 1 [7] (some 0))).fl.ops = some (.settings 1 [7] (some 0), []) ∧ nextFlash [.stage [1], .settings 1 [7] (some 0)] = some (.settings 1 [7] (some 0), [.stage [1]])) ∧
    (nextFlash (flashing (.stage [7])).fl.ops = some (.stage [7], []) ∧ nextFlash [.stageErase 1 0 0] = some (.stageErase 1 0 0, []) ∧
      nextFlash [.storeErase 7 1 0 0] = some (.storeErase 7 1 0 0, [])) := by decide +kernel

/-- The recorder runs, with an active half and no checkpoint due. -/
def logging : State :=
  let s := on.setBit Reg.evStat 29 true
  { s with ev := { halfA := { valid := true, gen := 1 } } }
def flushDue : State := { logging with ev := { logging.ev with dirty := List.range 256 } }
def flushing : State := { logging with ev := { logging.ev with flushing := some [], flushMode := true } }

theorem wit_EventLog :
    (on.hubOn = true ∧ on.ev.intake.length < 4096) ∧
    (logging.ev.flushing = none ∧ logging.ev.flashDead = false ∧ logging.bit Reg.evStat 29 = true ∧ logging.evWantCkpt = false ∧ logging.modeFlushDue = false) ∧
    (256 ≤ flushDue.ev.dirty.length ∧ flushing.ev.flushing = some [] ∧ flushing.pw.flushReset = false ∧ flushing.ev.flushMode = true) ∧
    { logging with pw := { logging.pw with chg := some { req := { src := .debug, target := 4 }, origin := 6 } } }.modeFlushDue = true ∧
    (({ logging with ev := { logging.ev with halfB := { erased := false } } }.evHalf (!logging.evActive)).erased = false ∧ logging.ev.flushWait = false) ∧
    (on.bit Reg.evStat 29 = false ∧ ({ on with ev := { halfA := { valid := true } } }).ev.halfA.valid = true ∧ on.ev.halfB.valid = false) := by decide +kernel

theorem wit_PageStore :
    (on.hubOn = true ∧ { on with so := { on.so with invalidating := true } }.so.invalidating = true) ∧
    (on.so.runs = [] ∧ on.so.pmAlloc = [] ∧ 2 ≤ (2 : Word).toNat % 32 ∧ (24 : Word).toNat % 32 ≤ 24) ∧
    (resident on).so.runs.any (fun e => e.2.state ≠ .empty) = true ∧
    SMap.find ({ on with so := { on.so with comp := [(7, ⟨1, 2⟩)] } }).so.comp 7 = some ⟨1, 2⟩ := by decide +kernel

theorem wit_RegisterWrites :
    (on.hubOn = true ∧ inRegs (0x100000000000 : BitVec 48).toNat = false ∧ (0x0D : BitVec 48).toNat % 4 ≠ 0) := by decide +kernel

theorem wit_EpochMovesOn :
    (on.hubOn = true ∧ (on.setBit Reg.mrEpochStat 0 true).bit Reg.mrEpochStat 0 = true ∧ State.reset.hubOn = false) := by decide +kernel

theorem wit_PauseFramesAreCounted :
    (served.wr (Reg.vlLpCfg 0) (2 ^ 31 + 2 ^ 28)).lpUp 0 = true := by decide +kernel

theorem wit_MemoryStaysCanonical :
    Memory.wf on.mem = true := by decide +kernel

theorem wit_FusesNeverChange :
    (({ on with fk := { on.fk with busy := some 0 } }).fk.busy.isSome = true → on.fk.fuseKey = none) := by decide +kernel

theorem wit_StoringCommandsAlone :
    (Instr.wakePin.mayStore = false ∧ (Instr.echo 63).mayStore = false) := by decide +kernel


/-! ### Witnesses that rest on a free value -/

/-- A run with an external link on tile 7, for IC_CR_EN and the Courier keys. -/
def extRun : State :=
  { on with so := { on.so with bps := [(2047, { pstate := 2 })], runs := [(0, { state := .idle })] } }.wr (Reg.bayXrt 7 63 3 63) (2 ^ 31 + 2 ^ 27)
theorem wit_EncryptionRefused : extRun.hubOn = true ∧ (List.range 8).any extRun.tileExt = true ∧ (List.range 8).any on.tileExt = false := by
  decide +kernel

/-- A bank that is on, with a resident bay-plane whose frames are not blank. -/
def driving : State :=
  let s := { stage3 with mem := [(frameAddr 0 2560, 1)], fab := { banks := [(0, { samplePend := true, burstPend := true })] } }
  s.wr (Reg.dioBCfg 0 0) (2 ^ 31 + 2 * 2 ^ 29)
/-- Where the device database connects pin 0, the bank is not held. -/
theorem wit_BankDriven (h : Config.field (driving.cfg 0) 7 0 % 2 = 1) :
    driving.bankOn (bankTile 0).1 (bankTile 0).2 = true ∧ driving.bankHeld (bankTile 0).1 (bankTile 0).2 = false ∧
    (driving.bank 0).samplePend = true ∧ (driving.bank 0).burstPend = true ∧ driving.fld (Reg.dioBCfg 0 0) 30 29 = 2 := by
  have hb : driving.blank 0 = false := by decide +kernel
  have hp : driving.pinField 0 (bankTile 0).2 0 % 2 = 1 := by
    have e : (bankTile 0).2 = 0 := by decide
    rw [e]; unfold State.pinField State.hbField; rw [hb]; exact h
  have ha : ((List.range 48).any fun pin => decide (driving.pinField 0 (bankTile 0).2 pin % 2 = 1)) = true :=
    List.any_eq_true.2 ⟨0, by decide, by simpa using hp⟩
  have hd : driving.bankDrivers (bankTile 0).1 (bankTile 0).2 = [0] := by
    have e : driving.so.bps = [(0, { pstate := 2 })] := by rfl
    have c : ((bankTile 0).1 : Nat) = 0 := by decide
    unfold State.bankDrivers
    rw [e, List.filter_cons]
    simp [hb, ha, c, bpTile]
  refine ⟨by decide +kernel, ?_, by decide +kernel, by decide +kernel, by decide +kernel⟩
  unfold State.bankHeld
  rw [hd]
  decide +kernel

/-- A header of two chunks and no page, and a first chunk. -/
def chunkHdr : List Byte := zeroBytes 0x1C ++ leBytes 4 2 ++ leBytes 8 16 ++ zeroBytes 48 ++ leBytes 8 0x100 ++ zeroBytes 160
def chunkLoad (tag : List Byte) : Load := { bytes := chunkHdr ++ zeroBytes 16 ++ tag, reserved := true }
def chunkKey : List Byte := leBytes 32 0
/-- The tag that the chunk needs, whatever the cipher. -/
def chunkGood : List Byte := gcmTag chunkKey (chunkNonce (chunkLoad [])) (chunkAad (chunkLoad [])) (zeroBytes 16)
def chunked : State := loading (chunkLoad chunkGood)

theorem chunkFlds (t : List Byte) : hPayOff (chunkLoad t).bytes = 256 ∧ hPayLen (chunkLoad t).bytes = 16 ∧ hChunks (chunkLoad t).bytes = 2 ∧
    hPages (chunkLoad t).bytes = 0 ∧ hKeySrc (chunkLoad t).bytes = 0 := by
  have hl : (chunkHdr ++ zeroBytes 16).length = 272 := by decide +kernel
  have h : ∀ o n, o + n ≤ 272 → leAt (chunkLoad t).bytes o n = leAt (chunkHdr ++ zeroBytes 16) o n :=
    fun o n hn => leAt_append_left _ _ _ _ (by rw [hl]; exact hn)
  unfold hPayOff hPayLen hChunks hPages hKeySrc
  rw [h _ _ (by decide), h _ _ (by decide), h _ _ (by decide), h _ _ (by decide), h _ _ (by decide)]
  decide +kernel
theorem chunkParts (t : List Byte) : (chunkLoad t).bytes.drop 256 = zeroBytes 16 ++ t ∧
    (chunkLoad t).bytes.take 256 = chunkHdr := by
  have hl : chunkHdr.length = 256 := by decide +kernel
  have e : (chunkLoad t).bytes = chunkHdr ++ (zeroBytes 16 ++ t) := List.append_assoc _ _ _
  rw [e]
  exact ⟨List.drop_left' hl, List.take_left' hl⟩
theorem chunkHead (t : List Byte) (o n : Nat) (h : o + n ≤ 256) :
    ((chunkLoad t).bytes.drop o).take n = (chunkHdr.drop o).take n := by
  have hl : chunkHdr.length = 256 := by decide +kernel
  have e : (chunkLoad t).bytes = chunkHdr ++ (zeroBytes 16 ++ t) := List.append_assoc _ _ _
  rw [e, List.drop_append_of_le_length (by omega), List.take_append_of_le_length (by simp; omega)]

theorem wit_ChunkDecrypted : chunked.chunkReady 0 = true ∧
    gcmTag (chunked.loadKey (chunked.load 0)) (chunkNonce (chunked.load 0)) (chunkAad (chunked.load 0)) (chunkText (chunked.load 0)) =
      chunkTag (chunked.load 0) ∧
    (chunked.chunkWrite 0).2 = (false, false) ∧ (chunked.load 0).chunks + 1 < hChunks (chunked.load 0).bytes ∧
    ((chunked.chunkWrite 0).1.load 0).bytes = (chunked.load 0).bytes := by
  have hl : chunkGood.length = 16 := by unfold chunkGood gcmTag; simp [xorBytes, beBytes, aesBytes]
  obtain ⟨f1, f2, f3, f4, f5⟩ := chunkFlds chunkGood
  have el : chunked.load 0 = chunkLoad chunkGood := rfl
  have eo : chunkOff (chunkLoad chunkGood).bytes 0 = 256 := by unfold chunkOff; rw [f1]
  have en : chunkLen (chunkLoad chunkGood).bytes 0 = 16 := by unfold chunkLen; rw [f2]; decide
  have ed : loadDescs (chunkLoad chunkGood) = [] := by unfold loadDescs; rw [f4]; rfl
  have ew : chunked.chunkWrite 0 = (chunked, false, false) := by
    unfold State.chunkWrite State.storePayload
    simp only [el, ed, List.foldl_nil, List.filter_nil]
    rfl
  refine ⟨?_, ?_, by rw [ew], ?_, by rw [ew]⟩
  · have e6 : (chunkLoad chunkGood).bytes.length = 288 := by
      show (chunkHdr ++ zeroBytes 16 ++ chunkGood).length = _
      rw [List.length_append, hl]
      have : (chunkHdr ++ zeroBytes 16).length = 272 := by decide +kernel
      rw [this]
    have e11 : chunked.loadBps 0 = [] := by unfold State.loadBps; rfl
    have e12 : (chunkLoad chunkGood).chunks = 0 := rfl
    have e13 : (chunkLoad chunkGood).reserved = true := rfl
    have e14 : chunked.isLoad 0 = true := rfl
    unfold State.chunkReady
    simp only [el, e12, eo, en, e6, f3, ed, e11, e13, e14]
    decide
  · have h1 : chunkText (chunkLoad chunkGood) = zeroBytes 16 := by
      unfold chunkText
      rw [show (chunkLoad chunkGood).chunks = 0 from rfl, eo, en, (chunkParts _).1, List.take_left' (by decide)]
    have h2 : chunkTag (chunkLoad chunkGood) = chunkGood := by
      unfold chunkTag
      rw [show (chunkLoad chunkGood).chunks = 0 from rfl, eo, en, ← List.drop_drop, (chunkParts _).1, List.drop_left' (by decide),
        List.take_of_length_le (by rw [hl])]
    have h3 : chunkNonce (chunkLoad chunkGood) = chunkNonce (chunkLoad []) := by
      unfold chunkNonce
      rw [chunkHead _ _ _ (by decide), chunkHead _ _ _ (by decide)]; rfl
    have h4 : chunkAad (chunkLoad chunkGood) = chunkAad (chunkLoad []) := by
      obtain ⟨g1, g2, g3, g4, g5⟩ := chunkFlds []
      unfold chunkAad
      rw [chunkHead _ _ _ (by decide), chunkHead _ _ _ (by decide), f3, f2, g3, g2]; rfl
    have h5 : chunked.loadKey (chunkLoad chunkGood) = chunkKey := by
      unfold State.loadKey; rw [f5]; rfl
    rw [el, h1, h2, h3, h4, h5]; rfl
  · rw [el, f3]; decide

/-- A load whose signature block names slot 3, which holds the hash of its key, whatever the hash function. -/
def sigBlock : List Byte := leBytes 4 0x4647594D ++ leBytes 2 3 ++ zeroBytes 0x182 ++ beBytes 4 65537 ++ zeroBytes 0x80
def signedLoad : Load := { bytes := zeroBytes 0x68 ++ leBytes 8 0x70 ++ sigBlock, trailerOk := true }
def signed : State :=
  let s := loading signedLoad
  { s with fk := { s.fk with imgSlots := [(3, leNat (beBytes 48 (Config.sha384 ((sigBlock.drop 8).take 388 ++ (sigBlock.drop 0x18C).take 48)).toNat))] } }
theorem wit_SignerOk : signed.signerOk (signed.load 0) = true ∧ signed.isLoad 0 = true := by
  refine ⟨?_, rfl⟩
  have el : signed.load 0 = signedLoad := rfl
  have eg : signedLoad.bytes.drop (hSig signedLoad.bytes) = sigBlock := rfl
  have h1 : leAt sigBlock 0 4 = 0x4647594D := by decide +kernel
  have h2 : leAt sigBlock 4 2 = 3 := by decide +kernel
  have h3 : leAt sigBlock 6 2 = 0 := by decide +kernel
  have h4 : leAt sigBlock 0x1BC 4 = 0 := by decide +kernel
  have h5 : beNat ((sigBlock.drop 0x188).take 4) = 65537 := by decide +kernel
  have h6 : signed.fk.imgRevoked = [] := rfl
  have h7 : SMap.find signed.fk.imgSlots 3 = some (leNat (sha384Bytes ((sigBlock.drop 8).take 388 ++ (sigBlock.drop 0x18C).take 48))) := rfl
  unfold State.signerOk signerIn
  simp only [el, eg, h1, h2, h3, h4, h5, h6, h7]
  decide
/-! ### What the well-formedness check refuses -/

theorem test_wf_tallyAudit : (Instr.tallyAudit [12288] [] []).wf = false ∧ (Instr.tallyAudit [] [12288] []).wf = false ∧
    (Instr.tallyAudit [] [] [409]).wf = false ∧ (Instr.tallyAudit [12287] [0] [408]).wf = true := by decide
theorem test_wf_loads : (Instr.imageBytesArrive 0 0).wf = false ∧ (Instr.pageLoaderWriteAck 0 0).wf = false ∧
    (Instr.imageBytesArrive 0 1).wf = true := by decide
theorem test_wf_frameWrite : (Instr.frameWrite 0 0 8 0 []).wf = false ∧ (Instr.frameWrite 0 0 8 511 [1, 2]).wf = false ∧
    (Instr.frameWrite 0 0 8 511 [1]).wf = true := by decide
theorem test_wf_scrub : (Instr.scrubFrameRead 0 false [4112]).wf = false ∧ (Instr.scrubFrameRead 0 true [4111]).wf = true := by decide
theorem test_wf_debug : (Instr.comparatorMatch 0 0 0 0 0 0 0).wf = false ∧ (Instr.vtData 0 true 0 0).wf = false ∧
    (Instr.vtData 0 true 3 0).wf = true := by decide
theorem test_wf_ecc : (Instr.mcReadComplete 0 0 [⟨1, 0⟩]).wf = false ∧ (Instr.patrolRead 19 [⟨0, 10⟩]).wf = false ∧
    (Instr.patrolRead 19 [⟨7, 9⟩]).wf = true ∧ (Instr.migrationPieceComplete 19 [(32, ⟨0, 0⟩)]).wf = false := by decide
theorem test_wf_rounds : (Instr.roundsRequestInject 0 8 0 false false 0 [] none false).wf = false ∧
    (Instr.roundsRequestInject 0 8 0 true false 2 [1] none false).wf = false ∧
    (Instr.roundsRequestInject 0 8 0 false false 1 [1] none false).wf = false ∧
    (Instr.roundsRequestInject 0 8 0 true false 1 [1] none false).wf = true := by decide
theorem test_wf_frames : (Instr.envelopeReceive { frame [0] with len := 0 }).wf = false ∧
    (Instr.lodgeRequest { frame [] with port := 1 }).wf = false ∧ (Instr.icmpEcho 0 false (List.replicate 9037 0)).wf = false ∧
    (Instr.lodgeRequest (frame [])).wf = true := by decide +kernel
theorem test_wf_courier : (Instr.codewordReceive 0 0 (.clean []) 0 0 false).wf = false ∧
    (Instr.linkTrainingComplete 0 0 (List.replicate 9 0)).wf = false := by decide
theorem test_wf_power : (Instr.wakeRowCheck (.w 0) true).wf = false ∧ (Instr.wakeRowRetry (.w 0)).wf = false ∧
    (Instr.thermalRead 32768).wf = false ∧ (Instr.thermalRead (-32769)).wf = false := by decide
theorem test_wf_rest : (Instr.scratchpadPatrol 0 0 [0x800000]).wf = false ∧ (Instr.eventIntake 0 0 0 0 0 (List.replicate 56 0) false).wf = false ∧
    (Instr.inputBurst 0 [0, 0, 0]).wf = false ∧ (Instr.registerWrite 8 2 0).wf = false ∧ (Instr.registerWrite 8 4 0).wf = true := by decide

/-! ### Single commands: the values stand in the rules named -/

/-- R522, R465. -/
theorem test_cold_reset : (after (exec .coldReset { on with pw := { on.pw with aon := false } })).mode = 1 ∧
    (after (exec .coldReset { on with pw := { on.pw with aon := false } })).fld Reg.pmWakeStat 19 16 = 5 := by decide +kernel
/-- R457. -/
theorem test_supply_fail : (after (exec .aonSupplyFail on)).mode = 0 ∧ (after (exec .aonSupplyFail on)).pw.pwrEn = false := by
  decide +kernel
/-- R16, R17: RW fields take the word, reserved bits do not. -/
theorem test_register_write_masks : (after (exec (.registerWrite 8 0x100014 0xFFFFFFFF) on)).rd Reg.soPolQuantum = 0xFFFF := by
  decide +kernel
/-- R18: a 1 clears a W1C bit, a 0 leaves it. -/
theorem test_register_write_w1c : (after (exec (.registerWrite 8 0x10 1) (on.wr Reg.pmFault 3))).rd Reg.pmFault = 2 := by decide +kernel
/-- R71: a code above 144 is taken as 144, one below 88 as 88. -/
theorem test_mc_target : (after (exec (.mcTargetWrite 7 200) on)).fld (Reg.tcMcCtrl 7) 7 0 = 144 ∧
    (after (exec (.mcTargetWrite 7 1) on)).fld (Reg.tcMcCtrl 7) 7 0 = 88 := by decide +kernel
/-- R78: OP 1 arms the bay-plane; its stages follow from period 0 on. -/
theorem test_first_start : (after (exec (.relOpFirstStart 0 0 0) (resident on))).armed 0 = true ∧
    (after (exec (.relOpFirstStart 0 0 0) (resident on))).stage 0 = 0 := by decide +kernel
/-- R270. -/
theorem test_watchdog_kick : (after (exec (.watchdogKick 0) ((on.wr (Reg.dbgWdtLoad 0) 77).wr (Reg.dbgWdtCount 0) 3))).rd (Reg.dbgWdtCount 0) = 77 := by
  decide +kernel
/-- R272: a second word finds the Letterbox full. -/
theorem test_letterbox_full :
    (after (exec (.lbTxWrite 0 5) (after (exec (.lbTxWrite 0 7) (on.wr (Reg.dbgCStat 0) 0))))).rd (Reg.dbgCLbTx 0) = 7 ∧
    (after (exec (.lbTxWrite 0 5) (after (exec (.lbTxWrite 0 7) (on.wr (Reg.dbgCStat 0) 0))))).bit (Reg.dbgCLbStat 0) 2 = true := by decide +kernel
/-- R472. -/
theorem test_wake_pin : (after (exec .wakePin ((asleep 4).wr Reg.pmWakeCfg 4))).mode = 1 ∧
    (after (exec .wakePin ((asleep 4).wr Reg.pmWakeCfg 4))).fld Reg.pmStat 11 4 = 3 ∧
    (after (exec .wakePin ((asleep 4).wr Reg.pmWakeCfg 0))).mode = 4 := by decide +kernel
/-- R458: −1 °C reads as 0xFF. -/
theorem test_thermal_read : (after (exec (.thermalRead (-16)) on)).fld Reg.pmTherm 23 16 = 0xFF := by decide +kernel
/-- R470: 127 °C is the emergency. -/
theorem test_overtemperature : (after (exec (.thermalRead (16 * 127)) on)).mode = 4 ∧
    (after (exec (.thermalRead (16 * 127)) on)).bit Reg.pmFault 8 = true := by decide +kernel
/-- R481: another than the owner is recorded in FOREIGN. -/
theorem test_foreign_handover : (after (exec (.scratchpadHandover 15 9 8) (bank 7 []))).bit (Reg.spBStat 15) 30 = true ∧
    (after (exec (.scratchpadHandover 15 7 8) (bank 7 []))).bit (Reg.spBStat 15) 28 = true := by decide +kernel
/-- R371. -/
theorem test_pause_frame : (after (exec (.pauseFrame 0 true) served)).fld (Reg.vlLpPause 0) 15 0 = 1 := by decide +kernel
/-- R376, R407: ECHO answers what it was sent. -/
theorem test_echo : ((after (exec (.echo 63) (asked 6 0x0100 [1, 2, 3]))).vl.replies.map (fun r => (r.status, r.payload))) = [(0, [1, 2, 3])] := by
  decide +kernel
/-- R409: MODE_GET answers the mode in its first byte. -/
theorem test_mode_get : ((after (exec (.modeGet 63) (asked 6 0x0200 []))).vl.replies.map (fun r => r.payload.take 1)) = [[6]] := by decide +kernel
/-- R403: a payload of the wrong length. -/
theorem test_bad_length : ((after (exec (.modeSet 63) (asked 6 0x0201 [1]))).vl.replies.map (fun r => r.status)) = [stBadParam] := by decide +kernel
/-- R381: the window of a client that opens. -/
theorem test_dispatch_opens : (after (exec .envelopeDispatch (vl { intake := [open0 63 2] }))).vl.handed.length = 0 ∨
    ((after (exec .envelopeDispatch (vl { intake := [open0 63 2] }))).vl.clients).length = 1 := by decide +kernel
/-- The check value of CRC-32C over the digits 1 to 9. -/
theorem test_crc32c : crc32c [0x31, 0x32, 0x33, 0x34, 0x35, 0x36, 0x37, 0x38, 0x39] = 0xE3069283 := by decide +kernel
/-- R508, R331: an event is counted when it arrives. -/
theorem test_event_intake : (after (exec (.eventIntake 0x0103 5 0 0 0 [] false) on)).ev.intake.length = 1 ∧
    (after (exec (.eventIntake 0x0103 5 0 0 0 [] false) on)).ev.arrived = 1 := by decide +kernel
/-- R30: the epoch count goes from its low word into its high word. -/
theorem test_epoch_carry : (after (exec .epochStrobe ((on.wr Reg.mrEpochLo 0xFFFFFFFF).setBit Reg.mrEpochStat 0 true))).epoch = 2 ^ 32 := by
  decide +kernel
/-- R184. -/
theorem test_pm_inval : (after (exec .pmInvalComplete (after (exec .pmInval (resident on))))).bit Reg.soCtrl 1 = false := by decide +kernel
/-- R155: the debug master does not hold the sequence that another opened. -/
theorem test_fuse_prog_needs_unlock : (after (exec (.fuseKeyProg 0x30) on)).fk.busy = none := by decide +kernel
/-- R254: IDCODE is captured. -/
theorem test_idcode : (after (exec .tapIdcode on)).dbg.ir = 2 := by decide +kernel
/-- R106: the output clock falls. -/
theorem test_dclko : (after (exec (.dclkoFall 0) { on with fab := { on.fab with banks := [(0, { dclko := true })] } })).fab.banks = [] := by
  decide +kernel
/-- R445: only a link that is up is powered down. -/
theorem test_link_off : (after (exec (.crCtrlOff 0) (linked on 2 true))).crLink 0 = 0 := by decide +kernel
/-- R434, R425: a block leaves with four bundle slots. -/
theorem test_block_send : ((after (exec (.blockSend 0 0) (grpRt (linked on 2 true) { block := 1 }))).crg 0 0).seq = 1 := by decide +kernel
/-- R39: the address space begins with the registers, and the scratchpads stand at 0x1000_0000. -/
theorem test_decode : on.decodes 0x10000000 = true ∧ on.decodes 0x18000000 = false ∧ on.decodes (2 ^ 48 - 1) = false := by decide +kernel
/-- The queue's front is taken, and an empty queue idles. -/
theorem test_queue : (after (step { on with pending := [.wakePin, .coldReset] })).pending = [Instr.coldReset] ∧ (after (step on)).pending = [] := by
  decide +kernel
/-- No row of the table gives bits. -/
theorem test_no_bits : decodeTableWord 16 0 = none ∧ (on.withFetchWord 16 0).pending = [] := by decide +kernel

end Sys2Proof.Tests
end

section
/-!
Pause frames (R371). A saturating count moves its own field of its own register; a PAUSE or PFC frame on a port that is up is
such a count and nothing else.
-/
namespace Sys2Proof.Machine

theorem State.fld_count_other (s : State) (r : Reg) (hi lo n hi' lo' : Nat) (h : lo ≤ hi) (hh : hi < 32)
    (hd : hi' < lo ∨ hi < lo') : (s.count r hi lo n).fld r hi' lo' = s.fld r hi' lo' :=
  State.fld_setFld_other s r hi lo _ hi' lo' h hh hd

theorem State.rd_count_ne (s : State) {r q : Reg} (hi lo n : Nat) (h : q.addr ≠ r.addr) :
    (s.count r hi lo n).rd q = s.rd q := State.rd_setFld_ne s hi lo _ h

theorem State.count_changes_regs_alone (s : State) (r : Reg) (hi lo n : Nat) :
    s.count r hi lo n = { s with regs := (s.count r hi lo n).regs } := rfl

theorem exec_pauseFrame (port : Fin 9) (pfc : Bool) (s : State) :
    exec (.pauseFrame port pfc) s = execPauseFrame port pfc s := rfl

/-- A PFC frame, opcode 0x0101, goes into the lower half of VL_LPk_PAUSE. -/
theorem exec_pauseFrame_pfc {port : Fin 9} {s : State} (up : s.lpUp port = true) :
    exec (.pauseFrame port true) s = .next (s.count (Reg.vlLpPause port) 15 0 1) := by
  rw [exec_pauseFrame, execPauseFrame, up, State.when_true, if_pos rfl]

/-- A PAUSE frame, opcode 0x0001, goes into the upper half of VL_LPk_PAUSE. -/
theorem exec_pauseFrame_pause {port : Fin 9} {s : State} (up : s.lpUp port = true) :
    exec (.pauseFrame port false) s = .next (s.count (Reg.vlLpPause port) 31 16 1) := by
  rw [exec_pauseFrame, execPauseFrame, up, State.when_true, if_neg Bool.false_ne_true]

end Sys2Proof.Machine

namespace Sys2Proof.Proofs
open Sys2Proof Sys2Proof.Machine

/-- Settles O51: each of the two frames is one saturating count in its own half of VL_LPk_PAUSE. -/
theorem pauseFramesAreCounted : Obligations.PauseFramesAreCounted := by
  intro port s up
  refine ⟨⟨_, exec_pauseFrame_pfc up, ?count, ?otherHalf, ?otherRegs, State.count_changes_regs_alone ..⟩,
    ⟨_, exec_pauseFrame_pause up, ?count', ?otherHalf', ?otherRegs', State.count_changes_regs_alone ..⟩⟩
  case count | count' => exact State.fld_count_same _ _ _ _ _ (by decide) (by decide)
  case otherHalf | otherHalf' => exact State.fld_count_other _ _ _ _ _ _ _ (by decide) (by decide) (by decide)
  case otherRegs | otherRegs' => exact fun q hq => State.rd_count_ne s _ _ _ hq

end Sys2Proof.Proofs
end

