-- ==== Sys2Proof/Proofs/Footprint.lean ====
section
/-!
PROOF. The footprint of a step: which parts of the state it may change. `Touches P s t` says so of two states, with what every
step keeps: memory's form and the fuses.
-/
namespace Sys2Proof.Machine


/-- The parts of the state that the footprint of an operation tells apart. The registers come in five by their address: `pm` from
PM_STAT to PM_BOOT_HB, `mr` up to MR_BOOT, `ep` the epoch count, `evr` the recorder's, `regs` all that follow; tables that many
operations leave alone stand apart from their unit. -/
inductive Part where
  | pm | mr
        | ep | evr | regs | loStage | mem | draw | fab | so | runs | bps | cache | alloc | snaps | fk | ev | rnd | tal | mcs | ic | dbg
  | vl | tkts | handed | replies | cr | pw | doms | chg | fl | sp
  deriving DecidableEq, Repr

/-- The part that a register's address falls into. -/
def regPart (a : Nat) : Part :=
  if a < 0x40 then .pm else if a < 0x10080 then .mr else if a < 0x1008C then .ep else if a < 0x30000 then .evr else .regs

/-- The registers that a footprint leaves alone. -/
def keptRegs (P : List Part) (m : SMap Word) : SMap Word :=
  m.filter (fun e => !P.elem (regPart e.1))

/-- A value where the footprint leaves its part alone. -/
def keepOr {α : Type} (P : List Part) (p : Part) (v d : α) : α := bif P.elem p then d else v

/-- The state with the parts of a footprint blanked. -/
def State.mask (P : List Part) (s : State) : State :=
  { pending := s.pending
    regs := keptRegs P s.regs
    loStage := keepOr P .loStage s.loStage []
    mem := keepOr P .mem s.mem []
    draw := keepOr P .draw s.draw 0
    fab := keepOr P .fab s.fab {}
    so := { keepOr P .so s.so {} with
      runs := keepOr P .runs s.so.runs []
      bps := keepOr P .bps s.so.bps []
      pmCache := keepOr P .cache s.so.pmCache []
      pmAlloc := keepOr P .alloc s.so.pmAlloc []
      snaps := keepOr P .snaps s.so.snaps [] }
    fk := keepOr P .fk s.fk {}
    ev := keepOr P .ev s.ev {}
    rnd := keepOr P .rnd s.rnd {}
    tal := keepOr P .tal s.tal {}
    mcs := keepOr P .mcs s.mcs []
    ic := keepOr P .ic s.ic {}
    dbg := keepOr P .dbg s.dbg {}
    vl := { keepOr P .vl s.vl {} with
      tickets := keepOr P .tkts s.vl.tickets []
      handed := keepOr P .handed s.vl.handed []
      replies := keepOr P .replies s.vl.replies [] }
    cr := keepOr P .cr s.cr []
    pw := { keepOr P .pw s.pw {} with
      doms := keepOr P .doms s.pw.doms []
      chg := keepOr P .chg s.pw.chg none }
    fl := keepOr P .fl s.fl {}
    sp := keepOr P .sp s.sp {} }

/-- The fuses, and the programming of one that is under way. -/
def State.fuses (s : State) : Option Nat × Option Nat × Bool × SMap Nat × List Nat × SMap Nat × List Nat :=
  (s.fk.fuseKey, s.fk.busy, s.fk.bkeyForbid, s.fk.imgSlots, s.fk.imgRevoked, s.fk.fwSlots, s.fk.fwRevoked)

/-- `t` comes from `s` by a change of the parts `P` alone, which keeps memory canonical and programmed fuses as they are. -/
structure Touches (P : List Part) (s t : State) : Prop where
  mask : t.mask P = s.mask P
  mem : s.memOk → t.memOk
  fuses : s.fuseInv → FusesKept s t ∧ t.fuseInv

theorem FusesKept.refl (s : State) : FusesKept s s :=
  ⟨fun _ h => h, fun h => h, fun _ _ h => h, fun _ h => h, fun _ _ h => h, fun _ h => h⟩

theorem FusesKept.trans {s t u : State} (h : FusesKept s t) (h' : FusesKept t u) : FusesKept s u := by
  obtain ⟨h1, h2, h3, h4, h5, h6⟩ := h
  obtain ⟨g1, g2, g3, g4, g5, g6⟩ := h'
  exact ⟨fun k e => g1 k (h1 k e), fun e => g2 (h2 e), fun i v e => g3 i v (h3 i v e), fun i e => g4 i (h4 i e),
    fun i v e => g5 i v (h5 i v e), fun i e => g6 i (h6 i e)⟩

theorem FusesKept.of_eq {s t : State} (h : t.fuses = s.fuses) : FusesKept s t := by
  simp only [State.fuses, Prod.mk.injEq] at h
  obtain ⟨h1, -, h3, h4, h5, h6, h7⟩ := h
  simp only [FusesKept, h1, h3, h4, h5, h6, h7]
  exact FusesKept.refl s

theorem State.fuseInv_of_eq {s t : State} (h : t.fuses = s.fuses) (hs : s.fuseInv) : t.fuseInv := by
  simp only [State.fuses, Prod.mk.injEq] at h
  obtain ⟨h1, h2, -⟩ := h
  unfold State.fuseInv
  rw [h1, h2]
  exact hs

/-! ### A larger footprint -/

theorem keepOr_keepOr {α : Type} {P Q : List Part} (h : Q ⊆ P) (p : Part) (v d : α) :
    keepOr P p (keepOr Q p v d) d = keepOr P p v d := by
  unfold keepOr
  by_cases hp : p ∈ P
  · simp [hp]
  · have hq : p ∉ Q := fun hq => hp (h hq)
    simp [hp, hq]

theorem keptRegs_keptRegs {P Q : List Part} (h : Q ⊆ P) (m : SMap Word) : keptRegs P (keptRegs Q m) = keptRegs P m := by
  unfold keptRegs
  rw [List.filter_filter]
  congr 1
  funext x
  by_cases hp : regPart x.1 ∈ P
  · simp [hp]
  · have hq : regPart x.1 ∉ Q := fun hq => hp (h hq)
    simp [hp, hq]

theorem State.mask_mask {P Q : List Part} (h : Q ⊆ P) (s : State) : (s.mask Q).mask P = s.mask P := by
  simp only [State.mask, keepOr_keepOr h, keptRegs_keptRegs h, State.mk.injEq, true_and, and_true]
  refine ⟨?so, ?vl, ?pw⟩
  case so =>
    by_cases hp : Part.so ∈ P
    · simp [keepOr, hp]
    · have hq : Part.so ∉ Q := fun hq => hp (h hq)
      simp [keepOr, hp, hq]
  case vl =>
    by_cases hp : Part.vl ∈ P
    · simp [keepOr, hp]
    · have hq : Part.vl ∉ Q := fun hq => hp (h hq)
      simp [keepOr, hp, hq]
  case pw =>
    by_cases hp : Part.pw ∈ P
    · simp [keepOr, hp]
    · have hq : Part.pw ∉ Q := fun hq => hp (h hq)
      simp [keepOr, hp, hq]

theorem State.mask_mono {P Q : List Part} (h : Q ⊆ P) {s t : State} (e : t.mask Q = s.mask Q) : t.mask P = s.mask P := by
  rw [← State.mask_mask h t, e, State.mask_mask h]

/-! ### Composition -/

theorem Touches.refl {P : List Part} {s : State} : Touches P s s := ⟨rfl, id, fun h => ⟨FusesKept.refl s, h⟩⟩

/-- A further change of parts that the footprint holds. -/
theorem Touches.then {P Q : List Part} {s t u : State} (h : Touches P s t) (h' : Touches Q t u) (hQ : Q ⊆ P := by decide) :
    Touches P s u where
  mask := (State.mask_mono hQ h'.mask).trans h.mask
  mem := fun m => h'.mem (h.mem m)
  fuses := fun i =>
    have ⟨k, j⟩ := h.fuses i
    have ⟨k', j'⟩ := h'.fuses j
    ⟨k.trans k', j'⟩

theorem Touches.mono {P Q : List Part} {s t : State} (h : Touches Q s t) (hQ : Q ⊆ P := by decide) : Touches P s t :=
  Touches.refl.then h hQ

/-- A replacement of parts that leaves memory and the fuses as they are. -/
theorem Touches.upd (P : List Part) {s : State} {regs loStage mem draw fab so fk ev rnd tal mcs ic dbg vl cr pw fl sp}
    (h : State.mask P ⟨s.pending, regs, loStage, mem, draw, fab, so, fk, ev, rnd, tal, mcs, ic, dbg, vl, cr, pw, fl, sp⟩ = s.mask P :=
          by rfl)
    (hm : mem = s.mem := by rfl)
    (hf : State.fuses ⟨s.pending, regs, loStage, mem, draw, fab, so, fk, ev, rnd, tal, mcs, ic, dbg, vl, cr, pw, fl, sp⟩ = s.fuses := by
          rfl) :
    Touches P s ⟨s.pending, regs, loStage, mem, draw, fab, so, fk, ev, rnd, tal, mcs, ic, dbg, vl, cr, pw, fl, sp⟩ where
  mask := h
  mem := fun m => by unfold State.memOk; exact hm ▸ m
  fuses := fun i => ⟨FusesKept.of_eq hf, State.fuseInv_of_eq hf i⟩

/-! ### Replacements of one part -/

theorem Touches.setLoStage {s : State} {loStage} : Touches [.loStage] s
    { s with loStage := loStage } :=
  ⟨rfl, id, fun i => ⟨FusesKept.of_eq rfl, i⟩⟩

theorem Touches.setDraw {s : State} {draw} : Touches [.draw] s
    { s with draw := draw } :=
  ⟨rfl, id, fun i => ⟨FusesKept.of_eq rfl, i⟩⟩

theorem Touches.setFab {s : State} {fab} : Touches [.fab] s
    { s with fab := fab } :=
  ⟨rfl, id, fun i => ⟨FusesKept.of_eq rfl, i⟩⟩

theorem Touches.setSo
      {s :
      State}
      {designs
      swaps
      invalidating
      bayIdle
      pol
      pauseReq
      pauseLast
      pauseGrant
      retuneGrant
      ready
      mapReady sweepPos sweepSum sweepBad comp compactRuns compactBack compTried exclRun rings trigs steps switchRun} : Touches [.so] s
    { s with so := ⟨designs, s.so.runs, s.so.bps, swaps, s.so.pmCache, s.so.pmAlloc, invalidating, bayIdle, pol, pauseReq, pauseLast,
          pauseGrant,
          retuneGrant,
          ready,
          mapReady,
          sweepPos,
          sweepSum, sweepBad, comp, compactRuns, compactBack, compTried, exclRun, s.so.snaps, rings, trigs, steps, switchRun⟩ } :=
  ⟨rfl, id, fun i => ⟨FusesKept.of_eq rfl, i⟩⟩

theorem Touches.setRuns {s : State} {runs} : Touches [.runs] s
    { s with so := { s.so with runs := runs } } :=
  ⟨rfl, id, fun i => ⟨FusesKept.of_eq rfl, i⟩⟩

theorem Touches.setBps {s : State} {bps} : Touches [.bps] s
    { s with so := { s.so with bps := bps } } :=
  ⟨rfl, id, fun i => ⟨FusesKept.of_eq rfl, i⟩⟩

theorem Touches.setCache {s : State} {pmCache} : Touches [.cache] s
    { s with so := { s.so with pmCache := pmCache } } :=
  ⟨rfl, id, fun i => ⟨FusesKept.of_eq rfl, i⟩⟩

theorem Touches.setAlloc {s : State} {pmAlloc} : Touches [.alloc] s
    { s with so := { s.so with pmAlloc := pmAlloc } } :=
  ⟨rfl, id, fun i => ⟨FusesKept.of_eq rfl, i⟩⟩

theorem Touches.setSnaps {s : State} {snaps} : Touches [.snaps] s
    { s with so := { s.so with snaps := snaps } } :=
  ⟨rfl, id, fun i => ⟨FusesKept.of_eq rfl, i⟩⟩

theorem Touches.setFk
      {s :
      State}
      {unlocked
      bkey fkeyStage bkeyStage imgStage fwStage busyVal vbatOk vbatLost macBase mpIp4 serial siliconRev loads} : Touches [.fk] s
    { s with fk := ⟨unlocked, s.fk.fuseKey, bkey, s.fk.bkeyForbid, fkeyStage, bkeyStage, s.fk.imgSlots, s.fk.imgRevoked, imgStage,
          s.fk.fwSlots, s.fk.fwRevoked, fwStage, s.fk.busy, busyVal, vbatOk, vbatLost, macBase, mpIp4, serial, siliconRev, loads⟩ } :=
  ⟨rfl, id, fun i => ⟨FusesKept.of_eq rfl, i⟩⟩

theorem Touches.setEv {s : State} {ev} : Touches [.ev] s
    { s with ev := ev } :=
  ⟨rfl, id, fun i => ⟨FusesKept.of_eq rfl, i⟩⟩

theorem Touches.setRnd {s : State} {rnd} : Touches [.rnd] s
    { s with rnd := rnd } :=
  ⟨rfl, id, fun i => ⟨FusesKept.of_eq rfl, i⟩⟩

theorem Touches.setTal {s : State} {tal} : Touches [.tal] s
    { s with tal := tal } :=
  ⟨rfl, id, fun i => ⟨FusesKept.of_eq rfl, i⟩⟩

theorem Touches.setMcs {s : State} {mcs} : Touches [.mcs] s
    { s with mcs := mcs } :=
  ⟨rfl, id, fun i => ⟨FusesKept.of_eq rfl, i⟩⟩

theorem Touches.setIc {s : State} {ic} : Touches [.ic] s
    { s with ic := ic } :=
  ⟨rfl, id, fun i => ⟨FusesKept.of_eq rfl, i⟩⟩

theorem Touches.setDbg {s : State} {dbg} : Touches [.dbg] s
    { s with dbg := dbg } :=
  ⟨rfl, id, fun i => ⟨FusesKept.of_eq rfl, i⟩⟩

theorem Touches.setVl {s : State} {intake bufs heldDup owed sent netTx clients jobs nextJob streams lease store} : Touches [.vl] s
    { s with vl := ⟨intake, bufs, s.vl.handed, heldDup, owed, s.vl.replies, sent, netTx, clients, s.vl.tickets, jobs, nextJob, streams,
          lease, store⟩ } :=
  ⟨rfl, id, fun i => ⟨FusesKept.of_eq rfl, i⟩⟩

theorem Touches.setTkts {s : State} {tickets} : Touches [.tkts] s
    { s with vl := { s.vl with tickets := tickets } } :=
  ⟨rfl, id, fun i => ⟨FusesKept.of_eq rfl, i⟩⟩

theorem Touches.setHanded {s : State} {handed} : Touches [.handed] s
    { s with vl := { s.vl with handed := handed } } :=
  ⟨rfl, id, fun i => ⟨FusesKept.of_eq rfl, i⟩⟩

theorem Touches.setReplies {s : State} {replies} : Touches [.replies] s
    { s with vl := { s.vl with replies := replies } } :=
  ⟨rfl, id, fun i => ⟨FusesKept.of_eq rfl, i⟩⟩

theorem Touches.setCr {s : State} {cr} : Touches [.cr] s
    { s with cr := cr } :=
  ⟨rfl, id, fun i => ⟨FusesKept.of_eq rfl, i⟩⟩

theorem Touches.setPw
      {s :
      State}
      {aon
      pwrEn
      pwrEnWait
      refEn
      crystal
      mpClock
      wWait
      wakeFrom
      cold
      toWake
      epoNote
      heldWake
      pgLow
      pageBad
      pmbusErr
      pout
      refBad
      refGood
      refFail
      warned
      hot16
      dramHot
      cycles
      hours
      frac
      fracUs
      pend haltFrom holdDue safeZ sched deferred modeHeld image bootStuck flushReset wdtReset fwReady ddrFit dlpTemp} : Touches [.pw] s
    { s with pw := ⟨aon, pwrEn, pwrEnWait, refEn, crystal, mpClock, s.pw.doms, wWait, wakeFrom, cold, toWake, epoNote, heldWake, pgLow,
          pageBad,
          pmbusErr,
          pout,
          refBad,
          refGood,
          refFail,
          warned,
          hot16,
          dramHot,
          cycles,
          hours,
          frac,
          fracUs,
          s.pw.chg,
          pend,
          haltFrom, holdDue, safeZ, sched, deferred, modeHeld, image, bootStuck, flushReset, wdtReset, fwReady, ddrFit, dlpTemp⟩ } :=
  ⟨rfl, id, fun i => ⟨FusesKept.of_eq rfl, i⟩⟩

theorem Touches.setDoms {s : State} {doms} : Touches [.doms] s
    { s with pw := { s.pw with doms := doms } } :=
  ⟨rfl, id, fun i => ⟨FusesKept.of_eq rfl, i⟩⟩

theorem Touches.setChg {s : State} {chg} : Touches [.chg] s
    { s with pw := { s.pw with chg := chg } } :=
  ⟨rfl, id, fun i => ⟨FusesKept.of_eq rfl, i⟩⟩

theorem Touches.setFl {s : State} {fl} : Touches [.fl] s
    { s with fl := fl } :=
  ⟨rfl, id, fun i => ⟨FusesKept.of_eq rfl, i⟩⟩

theorem Touches.setSp {s : State} {sp} : Touches [.sp] s
    { s with sp := sp } :=
  ⟨rfl, id, fun i => ⟨FusesKept.of_eq rfl, i⟩⟩

theorem Touches.setSoRunsBpsCacheAllocSnaps {s : State} {so} : Touches [.so, .runs, .bps, .cache, .alloc, .snaps] s
    { s with so := so } :=
  ⟨rfl, id, fun i => ⟨FusesKept.of_eq rfl, i⟩⟩

theorem Touches.setVlTktsHandedReplies {s : State} {vl} : Touches [.vl, .tkts, .handed, .replies] s
    { s with vl := vl } :=
  ⟨rfl, id, fun i => ⟨FusesKept.of_eq rfl, i⟩⟩

theorem Touches.setPwDomsChg {s : State} {pw} : Touches [.pw, .doms, .chg] s
    { s with pw := pw } :=
  ⟨rfl, id, fun i => ⟨FusesKept.of_eq rfl, i⟩⟩

theorem Touches.setSoCache
      {s :
      State}
      {designs
      swaps
      pmCache
      invalidating
      bayIdle
      pol
      pauseReq
      pauseLast
      pauseGrant
      retuneGrant
      ready
      mapReady sweepPos sweepSum sweepBad comp compactRuns compactBack compTried exclRun rings trigs steps switchRun} : Touches [.so,
      .cache] s
    { s with so := ⟨designs, s.so.runs, s.so.bps, swaps, pmCache, s.so.pmAlloc, invalidating, bayIdle, pol, pauseReq, pauseLast,
          pauseGrant,
          retuneGrant,
          ready,
          mapReady,
          sweepPos,
          sweepSum, sweepBad, comp, compactRuns, compactBack, compTried, exclRun, s.so.snaps, rings, trigs, steps, switchRun⟩ } :=
  ⟨rfl, id, fun i => ⟨FusesKept.of_eq rfl, i⟩⟩

theorem Touches.setRndDbg {s : State} {rnd dbg} : Touches [.rnd, .dbg] s
    { s with rnd := rnd, dbg := dbg } :=
  ⟨rfl, id, fun i => ⟨FusesKept.of_eq rfl, i⟩⟩

theorem Touches.setTalPw
      {s :
      State}
      {tal
      aon
      pwrEn
      pwrEnWait
      refEn
      crystal
      mpClock
      wWait
      wakeFrom
      cold
      toWake
      epoNote
      heldWake
      pgLow
      pageBad
      pmbusErr
      pout
      refBad
      refGood
      refFail
      warned
      hot16
      dramHot
      cycles
      hours
      frac
      fracUs
      pend haltFrom holdDue safeZ sched deferred modeHeld image bootStuck flushReset wdtReset fwReady ddrFit dlpTemp} : Touches [.tal,
      .pw] s
    { s with tal := tal, pw := ⟨aon, pwrEn, pwrEnWait, refEn, crystal, mpClock, s.pw.doms, wWait, wakeFrom, cold, toWake, epoNote,
          heldWake,
          pgLow,
          pageBad,
          pmbusErr,
          pout,
          refBad,
          refGood,
          refFail,
          warned,
          hot16,
          dramHot,
          cycles,
          hours,
          frac,
          fracUs,
          s.pw.chg,
          pend,
          haltFrom, holdDue, safeZ, sched, deferred, modeHeld, image, bootStuck, flushReset, wdtReset, fwReady, ddrFit, dlpTemp⟩ } :=
  ⟨rfl, id, fun i => ⟨FusesKept.of_eq rfl, i⟩⟩

theorem Touches.ite {P : List Part} {s t u : State} {c : Prop} [Decidable c] (h : Touches P s t) (h' : Touches P s u) :
    Touches P s (if c then t else u) := by
  split
  · exact h
  · exact h'

/-- Work repeated over a list touches what each piece of it touches. -/
theorem Touches.each {P : List Part} {α : Type} {s t : State} {xs : List α} {f : State → α → State} (h : Touches P s t)
    (hf : ∀ u x, Touches P u (f u x)) : Touches P s (t.each xs f) := by
  induction xs generalizing t with
  | nil => exact h
  | cons x xs ih => exact ih (h.then (hf t x) (List.Subset.refl P))

theorem Touches.foldl {P : List Part} {α : Type} {s t : State} {xs : List α} {f : State → α → State} (h : Touches P s t)
    (hf : ∀ u x, Touches P u (f u x)) : Touches P s (xs.foldl f t) := Touches.each h hf

/-- An intermediate state named. -/
theorem Touches.via {P : List Part} {s t u : State} (h : Touches P s t) (k : Touches P s t → Touches P s u) : Touches P s u := k h

/-- A state that may be answered: nothing is said where none is. -/
theorem Touches.ofSome {P : List Part} {s t : State} {o : Option State} (h : Touches P s (o.getD s)) (e : o = some
      t) : Touches P s t := by
  subst e; exact h

theorem Touches.ofSomeFst {P : List Part} {α : Type} {s : State} {p : State × α} {o : Option (State × α)}
    (h : Touches P s ((o.map Prod.fst).getD s)) (e : o = some p) : Touches P s p.1 := by
  subst e; exact h

theorem Touches.getD {P Q : List Part} {s t : State} {o : Option State} (h : Touches P s t) (h' : Touches Q t (o.getD t))
    (hQ : Q ⊆ P := by decide) : Touches P s (o.getD s) := by
  cases o with
  | none => exact .refl
  | some u => exact h.then h' hQ

/-- A replacement in the Franking Unit that keeps what is programmed. -/
theorem Touches.fk {s : State} {fk : FkSt} (h : s.fuseInv → FusesKept s { s with fk := fk } ∧ State.fuseInv { s with fk := fk }) :
    Touches [.fk] s { s with fk := fk } := ⟨rfl, id, h⟩

/-! ### States that an answer carries along with something else -/

/-- The state that an allocation's answer carries. -/
def AllocRes.st : AllocRes → State
  | .done t => t
  | .waits t => t
  | .short t => t

/-- `Touches` of the state that `f` takes out of an answer. -/
def Carries {β : Type} (P : List Part) (s : State) (f : β → State) (p : β) : Prop := Touches P s (f p)

section
variable {α β : Type} {P Q : List Part} {s t u : State} {f : β → State} {p q : β}

theorem Carries.then (h : Touches P s t) (h' : Carries Q t f p) (hQ : Q ⊆ P := by decide) : Carries P s f p :=
  Touches.then h h' hQ

theorem Carries.pair {b : α} (h : Touches P s t) : Carries P s Prod.fst (t, b) := h
theorem Carries.comp {b : α} (h : Carries P s f p) : Carries P s (f ∘ Prod.fst) (p, b) := h
theorem Carries.got {c : Nat} {d : List Byte} (h : Touches P s t) : Carries P s Got.st ⟨t, c, d⟩ := h
theorem Carries.done (h : Touches P s t) : Carries P s AllocRes.st (.done t) := h
theorem Carries.waits (h : Touches P s t) : Carries P s AllocRes.st (.waits t) := h
theorem Carries.short (h : Touches P s t) : Carries P s AllocRes.st (.short t) := h

theorem Carries.sched {n : Nat} {a b c : Bool} (h : Touches P s t) : Carries P s Sched.st ⟨t, n, a, b, c⟩ := h

theorem Carries.ite {c : Prop} [Decidable c] (h : Carries P s f p) (h' : Carries P s f q) :
    Carries P s f (if c then p else q) := by
  split
  · exact h
  · exact h'

theorem Carries.foldlFst {b : α} {γ : Type} {xs : List γ} {g : State × α → γ → State × α} (h : Touches P s t)
    (hf : ∀ u b x, Carries P u Prod.fst (g (u, b) x)) : Carries P s Prod.fst (xs.foldl g (t, b)) := by
  induction xs generalizing t b with
  | nil => exact h
  | cons x xs ih => exact ih (b := (g (t, b) x).2) (h.then (hf t b x) (List.Subset.refl P))

theorem Carries.foldl {γ : Type} {xs : List γ} {g : β → γ → β} (h : Touches P s (f p))
    (hf : ∀ p x, Carries P (f p) f (g p x)) : Carries P s f (xs.foldl g p) := by
  induction xs generalizing p with
  | nil => exact h
  | cons x xs ih => exact ih (h.then (hf p x) (List.Subset.refl P))

theorem Carries.via {g : α → State} {r : α} (h : Touches P s t) (k : Touches P s t → Carries P s g r) : Carries P s g r := k h

theorem Touches.viaOf (f : β → State) (p : β) (h : Carries P s f p) (k : Touches P s (f p) → Touches P s u) : Touches P s u := k h
theorem Carries.viaOf {g : α → State} {r : α} (f : β → State) (p : β) (h : Carries P s f p)
    (k : Touches P s (f p) → Carries P s g r) : Carries P s g r := k h

/-- An answer taken apart: its state is that of the pattern. -/
theorem Touches.viaEq (f : β → State) (e : p = q) (h : Carries P s f p) (k : Touches P s (f q) → Touches P s u) :
    Touches P s u := k (e ▸ h)
theorem Carries.viaEq {g : α → State} {r : α} (f : β → State) (e : p = q) (h : Carries P s f p)
    (k : Touches P s (f q) → Carries P s g r) : Carries P s g r := k (e ▸ h)
end

/-- A command that answers a next state, which differs in the parts `P` alone. -/
def Ends (P : List Part) (s : State) (o : Out) : Prop := ∃ t, o = .next t ∧ Touches P s t

theorem Ends.next {P : List Part} {s t : State} (h : Touches P s t) : Ends P s (.next t) := ⟨t, rfl, h⟩

theorem Ends.when {P : List Part} {s t : State} {c : Bool} (h : Touches P s t) : Ends P s (s.when c t) :=
  ⟨_, rfl, Touches.ite h Touches.refl⟩

theorem Ends.ite {P : List Part} {s : State} {o o' : Out} {c : Prop} [Decidable c] (h : Ends P s o) (h' : Ends P s o') :
    Ends P s (if c then o else o') := by
  split
  · exact h
  · exact h'

theorem Ends.via {P : List Part} {s t : State} {o : Out} (h : Touches P s t) (k : Touches P s t → Ends P s o) : Ends P s o := k h

theorem Ends.viaOf {β : Type} {P : List Part} {s : State} {o : Out} (f : β → State) (p : β) (h : Carries P s f p)
    (k : Touches P s (f p) → Ends P s o) : Ends P s o := k h

theorem Ends.viaEq {β : Type} {P : List Part} {s : State} {p q : β} {o : Out} (f : β → State) (e : p = q)
    (h : Carries P s f p) (k : Touches P s (f q) → Ends P s o) : Ends P s o := k (e ▸ h)

/-! ### Registers and memory -/

/-- Programming a slot that is unprogrammed keeps the others. -/
theorem SMap.find_put_free {α : Type} {m : SMap α} {k i : Nat} {v w : α} (h : ¬ (SMap.find m k).isSome = true)
    (hi : SMap.find m i = some v) : SMap.find (SMap.put m k w) i = some v := by
  rw [SMap.find_put_ne _ _ (fun e => h (by simp [← e, hi]))]
  exact hi

theorem SMap.filter_insert {α : Type} (p : Nat × α → Bool) (m : SMap α) (k : Nat) (v : α) (h : p (k, v) = false) :
    (SMap.insert m k v).filter p = m.filter p := by
  induction m with
  | nil => simp [SMap.insert, h]
  | cons e t ih => by_cases hk : k < e.1 <;> simp [SMap.insert, hk, h, List.filter_cons, ih]

theorem SMap.filter_erase {α : Type} (p : Nat × α → Bool) (m : SMap α) (k : Nat) (h : ∀ v, p (k, v) = false) :
    (SMap.erase m k).filter p = m.filter p := by
  unfold SMap.erase
  rw [List.filter_filter]
  congr 1
  funext e
  by_cases hk : e.1 = k
  · have : p e = false := by obtain ⟨a, v⟩ := e; subst hk; exact h v
    simp [this]
  · simp [hk]

theorem SMap.filter_set {α : Type} [DecidableEq α] (p : Nat × α → Bool) (m : SMap α) (k : Nat) (v d : α)
    (h : ∀ v, p (k, v) = false) : (SMap.set m k v d).filter p = m.filter p := by
  unfold SMap.set
  split
  · exact SMap.filter_erase p m k h
  · rw [SMap.put, SMap.filter_insert p _ _ _ (h v), SMap.filter_erase p m k h]

/-- A change of the registers alone, of those that a footprint names. -/
theorem Touches.regs {P : List Part} {s : State} {m : SMap Word} (h : keptRegs P m = keptRegs P s.regs) :
    Touches P s { s with regs := m } where
  mask := by simp only [State.mask, h]
  mem := id
  fuses := fun i => ⟨FusesKept.of_eq rfl, i⟩

/-- The parts that the registers make up. -/
def Part.registers : List Part := [.pm, .mr, .ep, .evr, .regs]

theorem regPart_mem (a : Nat) : regPart a ∈ Part.registers := by
  unfold regPart
  split_ifs <;> simp [Part.registers]

theorem regPart_regs {a : Nat} (h : 0x30000 ≤ a) : regPart a = .regs := by
  unfold regPart
  split_ifs <;> first | omega | rfl

theorem regPart_ite {c : Prop} [Decidable c] {A B : Reg} {p : Part} (hA : regPart A.addr = p) (hB : regPart B.addr = p) :
    regPart (if c then A else B).addr = p := by
  split
  · exact hA
  · exact hB

theorem State.wr_part (p : Part) (s : State) (r : Reg) (v : Nat) (h : regPart r.addr = p) : Touches [p] s (s.wr r v) :=
  Touches.regs (SMap.filter_set _ _ _ _ _ fun _ => by simp [h])
theorem State.wr_touches (s : State) (r : Reg) (v : Nat) : Touches [.pm, .mr, .ep, .evr, .regs] s (s.wr r v) :=
  (s.wr_part _ r v rfl).mono (by simpa [Part.registers] using regPart_mem r.addr)

theorem State.setFld_part (p : Part) (s : State) (r : Reg) (hi lo v : Nat) (h : regPart r.addr = p) : Touches [p] s (s.setFld r hi lo
      v) :=
  State.wr_part p s r _ h
theorem State.setFld_touches (s : State) (r : Reg) (hi lo v : Nat) : Touches [.pm, .mr, .ep, .evr, .regs] s (s.setFld r hi lo v) :=
  State.wr_touches s r _

theorem State.setBit_part (p : Part) (s : State) (r : Reg) (i : Nat) (v : Bool) (h : regPart r.addr = p) : Touches [p] s (s.setBit r i
      v) :=
  State.wr_part p s r _ h
theorem State.setBit_touches (s : State) (r : Reg) (i : Nat) (v : Bool) : Touches [.pm, .mr, .ep, .evr, .regs] s (s.setBit r i v) :=
  State.wr_touches s r _

theorem State.count_part (p : Part) (s : State) (r : Reg) (hi lo n : Nat) (h : regPart r.addr = p) : Touches [p] s (s.count r hi lo
      n) :=
  State.wr_part p s r _ h
theorem State.count_touches (s : State) (r : Reg) (hi lo n : Nat) : Touches [.pm, .mr, .ep, .evr, .regs] s (s.count r hi lo n) :=
  State.wr_touches s r _

theorem State.wrFields_part (p : Part) (s : State) (r : Reg) (v : Nat) (h : regPart r.addr = p) : Touches [p] s (s.wrFields r v) := by
  unfold State.wrFields
  split
  · exact State.wr_part p s r _ h
  · exact (Touches.refl (P := [])).mono (List.nil_subset _)

theorem State.wr64_part (p : Part) (s : State) (lo hi : Reg) (v : Nat) (h : regPart lo.addr = p) (h' : regPart hi.addr = p) :
    Touches [p] s (s.wr64 lo hi v) := (s.wr_part p lo _ h).then (State.wr_part p _ hi _ h') (List.Subset.refl _)

/-- An address in a strided table lies at or above the table's base. -/
theorem le_index {c a i : Nat} (h : c ≤ a) : c ≤ a + i := Nat.le_add_right_of_le h

/-- The controllers' registers lie above those of the Postmaster and of the recorder. -/
theorem le_mcBase (c : Nat) : 0x30000 ≤ mcBase c := by
  unfold mcBase
  split <;> omega

/-- A change of memory alone, which keeps it canonical. -/
theorem Touches.memory {s : State} {m : List Host.Cell} (h : s.memOk → Memory.wf m = true) : Touches [.mem] s { s with mem := m } where
  mask := rfl
  mem := h
  fuses := fun i => ⟨FusesKept.of_eq rfl, i⟩

theorem State.putByte_touches (s : State) (a : Nat) (b : Byte) : Touches [.mem] s (s.putByte a b) :=
  Touches.memory (s.putByte_wf a b)
theorem State.putBytes_touches (s : State) (a : Nat) (bs : List Byte) : Touches [.mem] s (s.putBytes a bs) := by
  rw [State.putBytes_eq]; exact Touches.memory (State.putBytes_wf bs s a)
theorem State.blankRange_touches (s : State) (lo hi : Nat) : Touches [.mem] s (s.blankRange lo hi) :=
  Touches.memory (Memory.wf_filter _ s.mem)


end Sys2Proof.Machine
end

