-- ==== Sys2Proof/Proofs/Footprints.lean ====
section
/-!
PROOF. The footprint of every operation of the model, in the order in which they call each other: an operation's footprint is
what it writes itself and the footprints of what it calls.
-/
namespace Sys2Proof.Machine
set_option Elab.async false

theorem State.setJob_touches (s : State) (id : ℕ) (j : Job) :
    Touches [.vl] s (s.setJob id j) := by
  unfold State.setJob
  exact (Touches.refl.then .setVl)

theorem State.dropResv_touches (s : State) (q : VReq) :
    Touches [.tkts] s (s.dropResv q) := by
  unfold State.dropResv
  split
  · exact (Touches.refl.then .setTkts)
  · exact Touches.refl

theorem State.setClient_touches (s : State) (c : ℕ) (v : Client) :
    Touches [.vl] s (s.setClient c v) := by
  unfold State.setClient
  exact (Touches.refl.then .setVl)

theorem State.pushReply_touches (s : State) (r : VReply) :
    Touches [.replies] s (s.pushReply r) := by
  unfold State.pushReply
  exact (Touches.refl.then .setReplies)

theorem State.sendReply_touches (s : State) (q : VReq) (r : VReply) :
    Touches [.vl, .replies] s (s.sendReply q r) := by
  unfold State.sendReply
  extract_lets +onlyGivenNames cl slots mine s1
  refine .via (t := s1) ((Touches.refl.then (State.setClient_touches ..)).then (State.pushReply_touches ..)) fun hs1 => ?_
  generalize s1 = s1 at hs1 ⊢
  extract_lets +onlyGivenNames src s2
  refine .via (t := s2) (hs1.then .setVl) fun hs2 => ?_
  generalize s2 = s2 at hs2 ⊢
  exact (.each hs2 fun _ _ => (Touches.refl.then (State.pushReply_touches ..)))

theorem State.answer_touches (s : State) (q : VReq) (status : ℕ) (payload : List Byte) :
    Touches [.vl, .tkts, .replies] s (s.answer q status payload) := by
  unfold State.answer
  exact ((Touches.refl.then (State.dropResv_touches ..)).then (State.sendReply_touches ..))

theorem State.setTkt_touches (s : State) (i : ℕ) (t : Ticket) :
    Touches [.regs, .tkts] s (s.setTkt i t) := by
  unfold State.setTkt
  extract_lets +onlyGivenNames src s1
  refine .via (t := s1) (Touches.refl.then .setTkts) fun hs1 => ?_
  generalize s1 = s1 at hs1 ⊢
  exact (hs1.then (State.wr64_part .regs _ _ _ _ (regPart_regs (le_index (by decide))) (regPart_regs (le_index (by decide)))))

theorem State.tktData_touches (s : State) (i : ℕ) (d : List Byte) :
    Touches [.regs, .tkts] s (s.tktData i d) := by
  unfold State.tktData
  exact (Touches.refl.then (State.setTkt_touches ..))

theorem State.tktEnd_touches (s : State) (i : ℕ) (st : ℕ) (err : ℕ) :
    Touches [.regs, .tkts] s (s.tktEnd i st err) := by
  unfold State.tktEnd
  exact (.ite (Touches.refl.then (State.setTkt_touches ..)) Touches.refl)

theorem State.dropJob_touches (s : State) (id : ℕ) :
    Touches [.vl] s (s.dropJob id) := by
  unfold State.dropJob
  exact (Touches.refl.then .setVl)

theorem State.jobEnd_touches (s : State) (id : ℕ) (j : Job) :
    Touches [.regs, .draw, .vl, .tkts, .replies] s (s.jobEnd id j) := by
  unfold State.jobEnd
  extract_lets +onlyGivenNames r src s1
  refine .via (t := s1) ((Touches.refl.then (State.dropJob_touches ..)).then .setDraw) fun hs1 => ?_
  generalize s1 = s1 at hs1 ⊢
  exact (.ite hs1 (.ite (hs1.then (State.tktEnd_touches ..)) (.ite ((hs1.then (State.tktData_touches ..)).then (State.tktEnd_touches
        ..)) (hs1.then (State.answer_touches ..)))))

theorem State.tktProgress_touches (s : State) (i : ℕ) (prog : ℕ) (part : ℕ) :
    Touches [.regs, .tkts] s (s.tktProgress i prog part) := by
  unfold State.tktProgress
  exact (.ite (Touches.refl.then (State.setTkt_touches ..)) Touches.refl)

theorem State.launchTo_touches (s : State) (p : Pkt) (y : ℕ) :
    Touches [.rnd] s (s.launchTo p y) := by
  unfold State.launchTo
  extract_lets +onlyGivenNames l p' k out
  exact (Touches.refl.then .setRnd)

theorem State.sendOver_touches (s : State) (x : ℕ) (g : ℕ) (d : ℕ) (m : Bool × Pkt) :
    Touches [.rnd] s (s.sendOver x g d m) := by
  unfold State.sendOver
  extract_lets +onlyGivenNames y p late src s1
  refine .via (t := s1) (.ite (Touches.refl.then (State.launchTo_touches ..)) (Touches.refl.then .setRnd)) fun hs1 => ?_
  generalize s1 = s1 at hs1 ⊢
  extract_lets +onlyGivenNames k
  exact (hs1.then .setRnd)

theorem State.netCycle_touches (s : State) :
    Carries [.rnd] s Prod.fst (s.netCycle) := by
  unfold State.netCycle
  extract_lets +onlyGivenNames picks
  exact (.pair (.each Touches.refl fun _ _ => (Touches.refl.then (State.sendOver_touches ..))))

theorem State.settleN_touches (n : Nat) (s : State) : Touches [.rnd] s (State.settleN n s) := by
  induction n generalizing s with
  | zero => exact .refl
  | succ n ih =>
    unfold State.settleN
    split
    · exact .then (.then .refl (State.netCycle_touches s)) (ih _)
    · exact .refl

theorem State.launchLocal_touches (s : State) :
    Touches [.rnd] s (s.launchLocal) := by
  unfold State.launchLocal
  exact (.each Touches.refl fun _ _ => (.ite (Touches.refl.then (State.launchTo_touches ..)) Touches.refl))

theorem State.settle_touches (s : State) :
    Touches [.rnd] s (s.settle) := by
  unfold State.settle
  extract_lets +onlyGivenNames s1
  refine .via (t := s1) (Touches.refl.then (State.launchLocal_touches ..)) fun hs1 => ?_
  generalize s1 = s1 at hs1 ⊢
  exact (hs1.then (State.settleN_touches ..))

theorem State.post_touches (s : State) (p : Pkt) :
    Touches [.rnd] s (s.post p) := by
  unfold State.post
  exact ((Touches.refl.then .setRnd).then (State.settle_touches ..))

theorem State.setHeld_touches (s : State) (d : ℕ) (t : ℕ) (v : ℕ) :
    Touches [.rnd] s (s.setHeld d t v) := by
  unfold State.setHeld
  extract_lets +onlyGivenNames k
  exact (Touches.refl.then .setRnd)

theorem State.loadLastErr_touches (s : State) (kind : ℕ) (dst : ℕ) (mid : ℕ) (stop : ℕ) :
    Touches [.regs] s (s.loadLastErr kind dst mid stop) := by
  unfold State.loadLastErr
  exact (Touches.refl.then (State.wr_part .regs _ _ _ rfl))

theorem State.event_touches (s : State) (typ : ℕ) (sev : ℕ) (loc : ℕ) (ctx : ℕ) (addr : ℕ) (detail : List ℕ) (merge : Bool) :
    Touches [.evr, .ev] s (s.event typ sev loc ctx addr detail merge) := by
  unfold State.event
  exact (.ite (.ite ((Touches.refl.then .setEv).then (State.count_part .evr _ _ _ _ _ rfl)) (Touches.refl.then .setEv)) Touches.refl)

theorem State.deadLetter_touches (s : State) (stop : ℕ) (kind : ℕ) (dst : ℕ) (mid : ℕ) (addr : ℕ) :
    Touches [.evr, .regs, .ev, .rnd] s (s.deadLetter stop kind dst mid addr) := by
  unfold State.deadLetter
  extract_lets +onlyGivenNames s1
  refine .via (t := s1) (Touches.refl.then (State.count_part .regs _ _ _ _ _ (regPart_regs (le_index (by decide))))) fun hs1 => ?_
  generalize s1 = s1 at hs1 ⊢
  split
  · exact (hs1.then (State.event_touches ..))
  · extract_lets +onlyGivenNames key s2
    refine .via (t := s2) ((hs1.then (State.loadLastErr_touches ..)).then (State.event_touches ..)) fun hs2 => ?_
    generalize s2 = s2 at hs2 ⊢
    exact (hs2.then .setRnd)

theorem State.drawn_touches (s : State) :
    Touches [.draw] s (s.drawn) := by
  unfold State.drawn
  exact (Touches.refl.then .setDraw)

theorem State.noDecode_touches (s : State) (stop : ℕ) (mid : ℕ) (addr : ℕ) :
    Touches [.evr, .regs, .draw, .ev, .rnd] s (s.noDecode stop mid addr) := by
  unfold State.noDecode
  exact ((Touches.refl.then (State.deadLetter_touches ..)).then (State.drawn_touches ..))

theorem State.inject_touches (s : State) (stop : ℕ) (mid : ℕ) (addr : ℕ) (write : Bool) (peek : Bool) (len : ℕ) (data : List Byte) (bem
      : Option ℕ) (origin : Origin) :
    Carries [.evr, .regs, .draw, .ev, .rnd] s Prod.fst (s.inject stop mid addr write peek len data bem origin) := by
  unfold State.inject
  split
  · extract_lets +onlyGivenNames q
    exact (.pair (Touches.refl.then (State.noDecode_touches ..)))
  · extract_lets +onlyGivenNames dst
    split
    · exact (.pair Touches.refl)
    · exact (.ite (.pair Touches.refl) (.pair ((((Touches.refl.then (State.setHeld_touches ..)).then .setRnd).then (State.setFld_part
          .regs _ _ _ _ _ (regPart_regs (le_index (by decide))))).then (State.post_touches ..))))

theorem State.dbgStart_touches (s : State) :
    Touches [.evr, .regs, .draw, .ev, .rnd, .dbg] s (s.dbgStart) := by
  unfold State.dbgStart
  split
  · exact Touches.refl
  · extract_lets +onlyGivenNames go
    split
    · exact Touches.refl
    · split
      · exact (Touches.refl.then .setDbg)
      · split
        · exact (Touches.refl.then .setDbg)
        · split
          · rename_i x t heq
            refine .viaEq Prod.fst heq (.then Touches.refl (State.inject_touches ..)) fun ht => ?_
            exact (ht.then .setDbg)
          · rename_i x t p heq
            refine .viaEq Prod.fst heq (.then Touches.refl (State.inject_touches ..)) fun ht => ?_
            exact (ht.then .setDbg)
          · rename_i x fst heq
            refine .viaEq Prod.fst heq (.then Touches.refl (State.inject_touches ..)) fun hfst => ?_
            exact hfst

theorem State.dbgQueue_touches (s : State) (a : DbgAcc) :
    Touches [.evr, .regs, .draw, .ev, .rnd, .dbg] s (s.dbgQueue a) := by
  unfold State.dbgQueue
  exact ((Touches.refl.then .setDbg).then (State.dbgStart_touches ..))

theorem State.jobIssue_touches (s : State) (id n : Nat) : Touches [.evr, .regs, .draw, .ev, .rnd, .dbg, .vl] s (s.jobIssue id n) := by
  induction n generalizing s with
  | zero => exact .refl
  | succ n ih =>
    unfold State.jobIssue
    split
    · exact .refl
    split
    · exact .refl
    extract_lets p issued
    split
    · exact Touches.refl.then (State.setJob_touches ..) |>.then (State.dbgQueue_touches ..)
    split <;> rename_i t heq
    · refine .viaEq Prod.fst heq (.then .refl (State.inject_touches ..)) fun ht => ?_
      exact (ht.then (State.setJob_touches ..)).then (ih _)
    · refine .viaEq Prod.fst heq (.then .refl (State.inject_touches ..)) fun ht => ?_
      exact (ht.then (State.setJob_touches ..)).then (ih _)
    · exact .refl

theorem State.jobStep_touches (s : State) (id : ℕ) :
    Touches [.evr, .regs, .draw, .ev, .rnd, .dbg, .vl, .tkts, .replies] s (s.jobStep id) := by
  unfold State.jobStep
  split
  · exact Touches.refl
  · extract_lets +onlyGivenNames j s1
    refine .via (t := s1) ((Touches.refl.then (State.setJob_touches ..)).then (State.jobIssue_touches ..)) fun hs1 => ?_
    generalize s1 = s1 at hs1 ⊢
    split
    · exact hs1
    · extract_lets +onlyGivenNames k' ended s2
      refine .via (t := s2) (.ite (hs1.then (State.tktProgress_touches ..)) hs1) fun hs2 => ?_
      generalize s2 = s2 at hs2 ⊢
      exact (.ite ((hs2.then (State.setJob_touches ..)).then (State.jobEnd_touches ..)) (hs2.then (State.setJob_touches ..)))

theorem State.jobBegin_touches (s : State) (q : VReq) (j : ℕ → Job) :
    Touches [.evr, .regs, .draw, .ev, .rnd, .dbg, .vl, .tkts, .replies] s (s.jobBegin q j) := by
  unfold State.jobBegin
  split
  · exact Touches.refl
  · extract_lets +onlyGivenNames id
    exact (((Touches.refl.then .setVl).then (State.setJob_touches ..)).then (State.jobStep_touches ..))

theorem State.checked_touches {P : List Part} {s t : State} {q : VReq} {modes : List Nat} {good : Bool} {f : State} (h : Touches P s t)
    (hf : Touches P s f) (hP : [.vl, .tkts, .replies] ⊆ P := by decide) : Touches P s (t.checked q modes good f) := by
  unfold State.checked
  split
  · exact h.then (State.answer_touches ..) hP
  · split
    · exact h.then (State.answer_touches ..) hP
    · exact hf

theorem Ends.serve {P : List Part} {s : State} {client op : Nat} {ok : VReq → Bool} {f : State → VReq → State}
    (hf : ∀ t q, Touches P t (f t q)) (hP : [.handed] ⊆ P := by decide) : Ends P s (s.serve client op ok f) := by
  unfold State.serve
  split
  · exact .when (.then (.then .refl .setHanded hP) (hf _ _) (List.Subset.refl P))
  · exact .next .refl

theorem execWriteList_touches (client : Fin 64) (s : State) :
    Ends [.evr, .regs, .draw, .ev, .rnd, .dbg, .vl, .tkts, .handed, .replies] s (execWriteList client s) := by
  unfold execWriteList
  exact (.serve fun _ _ => (State.checked_touches Touches.refl (Touches.refl.then (State.jobBegin_touches ..))))

theorem execWrite_touches (client : Fin 64) (s : State) :
    Ends [.evr, .regs, .draw, .ev, .rnd, .dbg, .vl, .tkts, .handed, .replies] s (execWrite client s) := by
  unfold execWrite
  exact (.serve fun _ _ => (State.checked_touches Touches.refl (Touches.refl.then (State.jobBegin_touches ..))))

theorem State.wdtKick_touches (s : State) (c : ℕ) (w : ℕ) :
    Touches [.regs] s (s.wdtKick c w) := by
  unfold State.wdtKick
  exact (.ite (Touches.refl.then (State.wr_part .regs _ _ _ (regPart_regs (le_index (by decide))))) Touches.refl)

theorem execWatchdogKick_touches (c : Fin 4) (s : State) :
    Ends [.regs] s (execWatchdogKick c s) := by
  unfold execWatchdogKick
  refine .when ?_
  exact (Touches.refl.then (State.wdtKick_touches ..))

theorem State.showUpd_touches (s : State) :
    Touches [.regs] s (s.showUpd) := by
  unfold State.showUpd
  extract_lets +onlyGivenNames r s1
  refine .via (t := s1) ((((Touches.refl.then (State.setFld_part .regs _ _ _ _ _ rfl)).then (State.setFld_part .regs _ _ _ _ _
        rfl)).then (State.setBit_part .regs _ _ _ _ rfl)).then (State.setBit_part .regs _ _ _ _ rfl)) fun hs1 => ?_
  generalize s1 = s1 at hs1 ⊢
  exact (((hs1.then (State.wr_part .regs _ _ _ rfl)).then (State.wr_part .regs _ _ _ rfl)).then (State.wr_part .regs _ _ _ rfl))

theorem State.bootWrite_touches (s : State) (f : BootRec → BootRec) :
    Touches [.regs, .fl] s (s.bootWrite f) := by
  unfold State.bootWrite
  extract_lets +onlyGivenNames src r
  exact (.then (.ite (Touches.refl.then .setFl) (Touches.refl.then .setFl)) (State.showUpd_touches ..))

theorem State.showWake_touches (s : State) :
    Touches [.pm] s (s.showWake) := by
  unfold State.showWake
  extract_lets +onlyGivenNames now
  exact (Touches.refl.then (State.setBit_part .pm _ _ _ _ rfl))

theorem State.wakeClear_touches (s : State) :
    Touches [.pm] s (s.wakeClear) := by
  unfold State.wakeClear
  exact (((Touches.refl.then (State.setBit_part .pm _ _ _ _ rfl)).then (State.setBit_part .pm _ _ _ _ rfl)).then (State.showWake_touches
        ..))

theorem State.showMode_touches (s : State) :
    Touches [.mr] s (s.showMode) := by
  unfold State.showMode
  split
  · exact Touches.refl
  · extract_lets +onlyGivenNames s1
    refine .via (t := s1) ((Touches.refl.then (State.setFld_part .mr _ _ _ _ _ rfl)).then (State.setBit_part .mr _ _ _ _
          rfl)) fun hs1 => ?_
    generalize s1 = s1 at hs1 ⊢
    extract_lets +onlyGivenNames s2
    refine .via (t := s2) ?_ fun hs2 => ?_
    · unfold s2
      split
      · exact (hs1.then (State.setFld_part .mr _ _ _ _ _ rfl))
      · exact (hs1.then (State.setFld_part .mr _ _ _ _ _ rfl))
    generalize s2 = s2 at hs2 ⊢
    split
    · exact (((hs2.then (State.setBit_part .mr _ _ _ _ rfl)).then (State.setFld_part .mr _ _ _ _ _ rfl)).then (State.wr_part .mr _ _ _
          rfl))
    · exact (((hs2.then (State.setBit_part .mr _ _ _ _ rfl)).then (State.setFld_part .mr _ _ _ _ _ rfl)).then (State.wr_part .mr _ _ _
          rfl))

theorem State.setMode_touches (s : State) (m : ℕ) :
    Touches [.pm, .mr, .tal] s (s.setMode m) := by
  unfold State.setMode
  extract_lets +onlyGivenNames src s1
  refine .via (t := s1) (.ite (Touches.refl.then .setTal) Touches.refl) fun hs1 => ?_
  generalize s1 = s1 at hs1 ⊢
  exact ((hs1.then (State.setFld_part .pm _ _ _ _ _ rfl)).then (State.showMode_touches ..))

theorem State.setCore_touches (s : State) (c : ℕ) (v : CoreSt) :
    Touches [.dbg] s (s.setCore c v) := by
  unfold State.setCore
  exact (Touches.refl.then .setDbg)

theorem State.freeRegs_touches (s : State) (c : ℕ) :
    Touches [.regs, .draw, .dbg] s (s.freeRegs c) := by
  unfold State.freeRegs
  extract_lets +onlyGivenNames x v s1
  refine .via (t := s1) (Touches.refl.then (State.setCore_touches ..)) fun hs1 => ?_
  generalize s1 = s1 at hs1 ⊢
  exact ((hs1.then .setDraw).then (State.setFld_part .regs _ _ _ _ _ (regPart_regs (le_index (by decide)))))

theorem State.haltOne_touches (s : State) (c : ℕ) (cause : ℕ) (cmp : ℕ) :
    Touches [.regs, .draw, .dbg] s (s.haltOne c cause cmp) := by
  unfold State.haltOne
  extract_lets +onlyGivenNames src s1
  refine .via (t := s1) (Touches.refl.then (State.setCore_touches ..)) fun hs1 => ?_
  generalize s1 = s1 at hs1 ⊢
  extract_lets +onlyGivenNames s2
  refine .via (t := s2) (((hs1.then (State.setBit_part .regs _ _ _ _ (regPart_regs (le_index (by decide))))).then (State.setFld_part
        .regs _ _ _ _ _ (regPart_regs (le_index (by decide))))).then (State.setBit_part .regs _ _ _ _ (regPart_regs (le_index (by
        decide))))) fun hs2 => ?_
  generalize s2 = s2 at hs2 ⊢
  extract_lets +onlyGivenNames s3
  refine .via (t := s3) (.ite (hs2.then (State.setFld_part .regs _ _ _ _ _ (regPart_regs (le_index (by decide))))) hs2) fun hs3 => ?_
  generalize s3 = s3 at hs3 ⊢
  exact (.ite hs3 (hs3.then (State.freeRegs_touches ..)))

theorem State.haltAsk_touches (s : State) (c : ℕ) (cause : ℕ) (cmp : ℕ) :
    Touches [.dbg] s (s.haltAsk c cause cmp) := by
  unfold State.haltAsk
  exact (.ite (Touches.refl.then (State.setCore_touches ..)) Touches.refl)

theorem State.groupHalt_touches (s : State) (c : ℕ) :
    Touches [.regs, .draw, .dbg] s (s.groupHalt c) := by
  unfold State.groupHalt
  exact (.each Touches.refl fun _ _ => (.ite ((Touches.refl.then (State.setCore_touches ..)).then (State.haltAsk_touches ..))
        (Touches.refl.then (State.haltOne_touches ..))))

theorem State.coreUp_touches (s : State) (c : ℕ) :
    Touches [.regs, .dbg] s (s.coreUp c) := by
  unfold State.coreUp
  exact (((Touches.refl.then (State.setCore_touches ..)).then (State.wr_part .regs _ _ _ (regPart_regs (le_index (by decide))))).then
        (State.setBit_part .regs _ _ _ _ (regPart_regs (le_index (by decide)))))

theorem State.coresStart_touches (s : State) (cs : List ℕ) :
    Touches [.regs, .draw, .dbg] s (s.coresStart cs) := by
  unfold State.coresStart
  extract_lets +onlyGivenNames held s1
  refine .via (t := s1) (.each (.each Touches.refl fun _ _ => (Touches.refl.then (State.coreUp_touches ..))) fun _ _ =>
        (Touches.refl.then (State.haltOne_touches ..))) fun hs1 => ?_
  generalize s1 = s1 at hs1 ⊢
  split
  · exact (hs1.then (State.groupHalt_touches ..))
  · exact hs1

theorem State.startRow_touches (s : State) (row : ℕ) (att : ℕ) :
    Touches [.pm, .regs, .draw, .dbg, .pw] s (s.startRow row att) := by
  unfold State.startRow
  extract_lets +onlyGivenNames s1
  refine .via (t := s1) ((Touches.refl.then (State.setFld_part .pm _ _ _ _ _ rfl)).then (State.setFld_part .pm _ _ _ _ _
        rfl)) fun hs1 => ?_
  generalize s1 = s1 at hs1 ⊢
  extract_lets +onlyGivenNames src s2
  refine .via (t := s2) (.ite (hs1.then .setPw) hs1) fun hs2 => ?_
  generalize s2 = s2 at hs2 ⊢
  extract_lets +onlyGivenNames s3
  refine .via (t := s3) (.ite (hs2.then (State.coresStart_touches ..)) hs2) fun hs3 => ?_
  generalize s3 = s3 at hs3 ⊢
  exact (hs3.then .setPw)

/-- The first registers of the Postmaster block lie in no switched domain. -/
theorem regInDom_pm {d a : Nat} (h : a < 0x40) : regInDom d a = false := by
  have ht : ∀ n, 0x1000000000 ≤ tileBase n := fun n => Nat.le_add_right _ _
  have hm : ∀ c, 0x200000 ≤ mcBase c := fun c => by unfold mcBase; split <;> omega
  have h1 := ht d
  have h2 := ht (d - 8)
  have h3 := ht ((d - 0x200) / 64)
  have h4 := hm (8 + 2 * (d - 16))
  have h5 := hm (d - 22)
  unfold regInDom
  repeat' split
  all_goals simp only [Bool.and_eq_false_iff, decide_eq_false_iff_not]
  all_goals omega

theorem State.resetRegs_touches (s : State) (d : Nat) : Touches [.mr, .ep, .evr, .regs, .loStage] s (s.resetRegs d) := by
  have hk : keptRegs [.mr, .ep, .evr, .regs] (s.regs.filter fun e => !regInDom d e.1) = keptRegs [.mr, .ep, .evr, .regs] s.regs := by
    unfold keptRegs
    rw [List.filter_filter]
    congr 1
    funext e
    by_cases he : e.1 < 0x40
    · simp [regInDom_pm he]
    · have hmem : regPart e.1 ∈ [Part.mr, .ep, .evr, .regs] := by
        unfold regPart
        split_ifs <;> simp
      simp only [List.elem_eq_mem, hmem, decide_true, Bool.not_true, Bool.false_and]
  exact (Touches.regs hk).mono.then .setLoStage

theorem State.bayLost_touches (s : State) (n : ℕ) (b : ℕ) :
    Touches [.mem, .fab] s (s.bayLost n b) := by
  unfold State.bayLost
  extract_lets +onlyGivenNames lo mine s1
  refine .via (t := s1) ((Touches.refl.then (State.blankRange_touches ..)).then (State.blankRange_touches ..)) fun hs1 => ?_
  generalize s1 = s1 at hs1 ⊢
  extract_lets +onlyGivenNames s2
  refine .via (t := s2) (((hs1.then (State.blankRange_touches ..)).then (State.blankRange_touches ..)).then (State.blankRange_touches
        ..)) fun hs2 => ?_
  generalize s2 = s2 at hs2 ⊢
  extract_lets +onlyGivenNames f
  exact (hs2.then .setFab)

theorem State.rndLost_touches (s : State) :
    Touches [.rnd, .dbg] s (s.rndLost) := by
  unfold State.rndLost
  extract_lets +onlyGivenNames cut
  exact (Touches.refl.then .setRndDbg)

theorem State.hubLost_touches (s : State) :
    Touches [.so, .runs, .bps, .cache, .alloc, .snaps, .fk, .ev, .tal, .ic, .dbg, .vl, .tkts, .handed, .replies, .pw, .chg, .fl, .sp]
      s s.hubLost where
  mask := rfl
  mem := id
  fuses := fun _ => ⟨FusesKept.refl s, nofun⟩

theorem State.dramLost_touches (s : State) (lo : ℕ) (hi : ℕ) :
    Touches [.mem, .ic] s (s.dramLost lo hi) := by
  unfold State.dramLost
  extract_lets +onlyGivenNames s1
  refine .via (t := s1) (Touches.refl.then (State.blankRange_touches ..)) fun hs1 => ?_
  generalize s1 = s1 at hs1 ⊢
  exact (hs1.then .setIc)

theorem State.chanZero_touches (s : State) (c : Nat) : Touches [.mem, .ic] s (s.chanZero c) := by
  unfold State.chanZero
  extract_lets mine f
  split
  · exact (Touches.memory (Memory.wf_filter (fun e => !mine e.1) s.mem)).mono.then .setIc
  · exact .refl

theorem State.ddrLost_touches (s : State) (p : ℕ) :
    Touches [.mem, .ic] s (s.ddrLost p) := by
  unfold State.ddrLost
  exact (.ite ((Touches.refl.then (State.chanZero_touches ..)).then (State.chanZero_touches ..)) (Touches.refl.then
        (State.dramLost_touches ..)))

theorem State.setCrt_touches (s : State) (n : ℕ) (v : CrTile) :
    Touches [.cr] s (s.setCrt n v) := by
  unfold State.setCrt
  exact (Touches.refl.then .setCr)

theorem State.setCrg_touches (s : State) (n : ℕ) (g : ℕ) (v : CrGroup) :
    Touches [.cr] s (s.setCrg n g v) := by
  unfold State.setCrg
  exact (Touches.refl.then (State.setCrt_touches ..))

theorem State.retireOwed_touches (s : State) (n : ℕ) (g : ℕ) :
    Touches [.vl, .tkts, .handed, .replies, .cr] s (s.retireOwed n g) := by
  unfold State.retireOwed
  split
  · extract_lets +onlyGivenNames src
    extract_lets +onlyGivenNames src'
    exact ((Touches.refl.then (State.setCrg_touches ..)).then .setVlTktsHandedReplies)
  · exact Touches.refl

theorem State.retiresOwed_touches (s : State) (n : ℕ) :
    Touches [.vl, .tkts, .handed, .replies, .cr] s (s.retiresOwed n) := by
  unfold State.retiresOwed
  exact (.each Touches.refl fun _ _ => (Touches.refl.then (State.retireOwed_touches ..)))

theorem State.tileLost_touches (s : State) (n : ℕ) :
    Touches [.fab] s (s.tileLost n) := by
  unfold State.tileLost
  exact (Touches.refl.then .setFab)

theorem State.domLost_touches (s : State) (d : ℕ) :
    Touches [.mr, .ep, .evr, .regs, .loStage, .mem, .fab, .so, .runs, .bps, .cache, .alloc, .snaps, .fk, .ev, .rnd, .tal, .mcs, .ic,
          .dbg, .vl, .tkts, .handed, .replies, .cr, .pw, .chg, .fl, .sp] s (s.domLost d) := by
  unfold State.domLost
  extract_lets +onlyGivenNames t
  refine .via (t := t) (Touches.refl.then (State.retiresOwed_touches ..)) fun ht => ?_
  generalize t = t at ht ⊢
  extract_lets +onlyGivenNames t'
  refine .via (t := t') (Touches.refl.then (State.ddrLost_touches ..)) fun ht' => ?_
  generalize t' = t' at ht' ⊢
  extract_lets +onlyGivenNames n t''
  refine .via (t := t'') (Touches.refl.then (State.dramLost_touches ..)) fun ht'' => ?_
  generalize t'' = t'' at ht'' ⊢
  extract_lets +onlyGivenNames b t'''
  refine .via (t := t''') (Touches.refl.then (State.blankRange_touches ..)) fun ht''' => ?_
  generalize t''' = t''' at ht''' ⊢
  extract_lets +onlyGivenNames src s1
  refine .via (t := s1) (.ite (Touches.refl.then (State.tileLost_touches ..)) (.ite (ht.then .setCr) (.ite (ht'.then .setMcs) (.ite
        (ht''.then .setMcs) (.ite (.each Touches.refl fun _ _ => (Touches.refl.then (State.setBit_part .regs _ _ _ _ (regPart_regs
        (le_index (by
        decide))))))
        (.ite (.each (Touches.refl.then (State.hubLost_touches ..)) fun _ _ => (Touches.refl.then (State.wr_part .regs _ _ _
        (regPart_regs (le_index (by
        decide))))))
        (.ite (Touches.refl.then (State.rndLost_touches ..)) (.ite (Touches.refl.then (State.bayLost_touches ..)) (.ite (ht'''.then
        .setSp) Touches.refl))))))))) fun hs1 => ?_
  generalize s1 = s1 at hs1 ⊢
  exact (hs1.then (State.resetRegs_touches ..))

theorem State.setDom_touches (s : State) (d : ℕ) (v : DomSt) :
    Touches [.pm, .doms] s (s.setDom d v) := by
  unfold State.setDom
  extract_lets +onlyGivenNames src s1
  refine .via (t := s1) (Touches.refl.then .setDoms) fun hs1 => ?_
  generalize s1 = s1 at hs1 ⊢
  exact (.ite (hs1.then (State.setBit_part .pm _ _ _ _ rfl)) hs1)

theorem State.domOff_touches (s : State) (d : ℕ) :
    Touches [.pm, .mr, .ep, .evr, .regs, .loStage, .mem, .fab, .so, .runs, .bps, .cache, .alloc, .snaps, .fk, .ev, .rnd, .tal, .mcs,
          .ic, .dbg, .vl, .tkts, .handed, .replies, .cr, .pw, .doms, .chg, .fl, .sp] s (s.domOff d) := by
  unfold State.domOff
  exact (.ite (Touches.refl.then (State.setDom_touches ..)) (.ite (((Touches.refl.then (State.domLost_touches ..)).then
        (State.setDom_touches ..)).then .setTal) ((Touches.refl.then (State.domLost_touches ..)).then (State.setDom_touches ..))))

theorem State.allOff_touches (s : State) :
    Touches [.pm, .mr, .ep, .evr, .regs, .loStage, .mem, .fab, .so, .runs, .bps, .cache, .alloc, .snaps, .fk, .ev, .rnd, .tal, .mcs,
          .ic, .dbg, .vl, .tkts, .handed, .replies, .cr, .pw, .doms, .chg, .fl, .sp] s (s.allOff) := by
  unfold State.allOff
  extract_lets +onlyGivenNames s1
  refine .via (t := s1) (.each Touches.refl fun _ _ => (Touches.refl.then (State.domOff_touches ..))) fun hs1 => ?_
  generalize s1 = s1 at hs1 ⊢
  exact (hs1.then .setDoms)

theorem State.warmReset_touches (s : State) :
    Touches [.pm, .mr, .ep, .evr, .regs, .loStage, .mem, .draw, .fab, .so, .runs, .bps, .cache, .alloc, .snaps, .fk, .ev, .rnd, .tal,
          .mcs, .ic, .dbg, .vl, .tkts, .handed, .replies, .cr, .pw, .doms, .chg, .fl, .sp] s (s.warmReset) := by
  unfold State.warmReset
  extract_lets +onlyGivenNames s1
  refine .via (t := s1) (.each ((Touches.refl.then (State.allOff_touches ..)).then (State.wr_part .pm _ _ _ rfl)) fun _ _ =>
        (Touches.refl.then (State.wr_touches ..))) fun hs1 => ?_
  generalize s1 = s1 at hs1 ⊢
  extract_lets +onlyGivenNames src s2
  refine .via (t := s2) (hs1.then .setPw) fun hs2 => ?_
  generalize s2 = s2 at hs2 ⊢
  exact ((((hs2.then (State.wakeClear_touches ..)).then (State.setBit_part .pm _ _ _ _ rfl)).then (State.setMode_touches ..)).then
        (State.startRow_touches ..))

theorem State.resetAfterFlush_touches (s : State) :
    Touches [.pm, .mr, .ep, .evr, .regs, .loStage, .mem, .draw, .fab, .so, .runs, .bps, .cache, .alloc, .snaps, .fk, .ev, .rnd, .tal,
          .mcs, .ic, .dbg, .vl, .tkts, .handed, .replies, .cr, .pw, .doms, .chg, .fl, .sp] s (s.resetAfterFlush) := by
  unfold State.resetAfterFlush
  exact (.ite (Touches.refl.then .setPw) (Touches.refl.then (State.warmReset_touches ..)))

theorem State.trialFallback_touches (s : State) :
    Touches [.pm, .mr, .ep, .evr, .regs, .loStage, .mem, .draw, .fab, .so, .runs, .bps, .cache, .alloc, .snaps, .fk, .ev, .rnd, .tal,
          .mcs, .ic, .dbg, .vl, .tkts, .handed, .replies, .cr, .pw, .doms, .chg, .fl, .sp] s (s.trialFallback) := by
  unfold State.trialFallback
  exact (((Touches.refl.then (State.bootWrite_touches ..)).then (State.event_touches ..)).then (State.resetAfterFlush_touches ..))

theorem State.wdtReset_touches (s : State) (c : ℕ) :
    Touches [.pm, .mr, .ep, .evr, .regs, .loStage, .mem, .draw, .fab, .so, .runs, .bps, .cache, .alloc, .snaps, .fk, .ev, .rnd, .tal,
          .mcs, .ic, .dbg, .vl, .tkts, .handed, .replies, .cr, .pw, .doms, .chg, .fl, .sp] s (s.wdtReset c) := by
  unfold State.wdtReset
  extract_lets +onlyGivenNames s1
  refine .via (t := s1) ((Touches.refl.then (State.event_touches ..)).then (State.setBit_part .regs _ _ _ _ (regPart_regs (le_index (by
        decide))))) fun hs1 => ?_
  generalize s1 = s1 at hs1 ⊢
  extract_lets +onlyGivenNames s2
  refine .via (t := s2) ((hs1.then (State.wr_part .regs _ _ _ (regPart_regs (le_index (by decide))))).then (State.coresStart_touches
        ..)) fun hs2 => ?_
  generalize s2 = s2 at hs2 ⊢
  extract_lets +onlyGivenNames src s3
  refine .via (t := s3) (hs2.then .setPw) fun hs3 => ?_
  generalize s3 = s3 at hs3 ⊢
  exact (.ite (hs3.then (State.trialFallback_touches ..)) hs3)

theorem execWatchdogExpiry_touches (c : Fin 4) (s : State) :
    Ends [.pm, .mr, .ep, .evr, .regs, .loStage, .mem, .draw, .fab, .so, .runs, .bps, .cache, .alloc, .snaps, .fk, .ev, .rnd, .tal, .mcs,
          .ic, .dbg, .vl, .tkts, .handed, .replies, .cr, .pw, .doms, .chg, .fl, .sp] s (execWatchdogExpiry c s) := by
  unfold execWatchdogExpiry
  extract_lets +onlyGivenNames cc core irqs first
  refine .via (t := first) ((((Touches.refl.then (State.setCore_touches ..)).then (State.setBit_part .regs _ _ _ _ (regPart_regs
        (le_index (by decide))))).then (State.wr_part .regs _ _ _ (regPart_regs (le_index (by
        decide))))).then (State.event_touches ..)) fun hfirst => ?_
  generalize first = first at hfirst ⊢
  refine .when ?_
  exact (.ite (Touches.refl.then (State.wdtReset_touches ..)) hfirst)

theorem execWarmModuleReset_touches (s : State) :
    Ends [.pm, .mr, .ep, .evr, .regs, .loStage, .mem, .draw, .fab, .so, .runs, .bps, .cache, .alloc, .snaps, .fk, .ev, .rnd, .tal, .mcs,
          .ic, .dbg, .vl, .tkts, .handed, .replies, .cr, .pw, .doms, .chg, .fl, .sp] s (execWarmModuleReset s) := by
  unfold execWarmModuleReset
  refine .when ?_
  exact (Touches.refl.then (State.warmReset_touches ..))

theorem execWakeRowRetry_touches (row : WakeRow) (s : State) :
    Ends [.pm, .regs, .draw, .dbg, .pw, .doms] s (execWakeRowRetry row s) := by
  unfold execWakeRowRetry
  split
  · refine .when ?_
    exact (Touches.refl.then (State.startRow_touches ..))
  · extract_lets +onlyGivenNames c r
    refine .when ?_
    exact ((Touches.refl.then (State.setDom_touches ..)).then (State.setFld_part .pm _ _ _ _ _ rfl))

theorem State.stampBack_touches (s : State) (t : ℕ) :
    Touches [.rnd] s (s.stampBack t) := by
  unfold State.stampBack
  exact (Touches.refl.then .setRnd)

theorem State.respond_touches (s : State) (q : Pkt) (cause : ℕ) (data : List Byte) :
    Touches [.rnd] s (s.respond q cause data) := by
  unfold State.respond
  exact ((Touches.refl.then (State.stampBack_touches ..)).then (State.post_touches ..))

theorem State.prRelease_touches {P : List Part} {s t : State} {d : Nat} {f : State → Pkt → State} (h : Touches P s t)
    (hf : ∀ u q, Touches P u (f u q)) (hP : [.rnd] ⊆ P := by decide) : Touches P s (t.prRelease d f) := by
  unfold State.prRelease
  exact .each (.then h .setRnd hP) fun _ _ => hf _ _

theorem State.resumeAll_touches (s : State) (t : ℕ) :
    Touches [.rnd] s (s.resumeAll t) := by
  unfold State.resumeAll
  extract_lets +onlyGivenNames mine note
  exact ((Touches.refl.then .setRnd).then (State.settle_touches ..))

theorem State.prRefuse_touches (s : State) (d : ℕ) :
    Touches [.rnd] s (s.prRefuse d) := by
  unfold State.prRefuse
  exact (.ite (.then (State.prRelease_touches Touches.refl fun _ _ => (Touches.refl.then (State.respond_touches ..)))
        (State.resumeAll_touches ..)) Touches.refl)

theorem State.tktEnd?_touches (s : State) (i : Option ℕ) (st : ℕ) (err : ℕ) :
    Touches [.regs, .tkts] s (s.tktEnd? i st err) := by
  unfold State.tktEnd?
  split
  · exact (Touches.refl.then (State.tktEnd_touches ..))
  · exact Touches.refl

theorem State.crWaitFail_touches (s : State) (n : ℕ) :
    Touches [.regs, .tkts, .cr] s (s.crWaitFail n) := by
  unfold State.crWaitFail
  exact (.ite ((Touches.refl.then (State.tktEnd?_touches ..)).then (State.setCrt_touches ..)) Touches.refl)

theorem State.faultN_touches (s : State) :
    Touches [.pm] s (s.faultN) := by
  unfold State.faultN
  exact (Touches.refl.then (State.setBit_part .pm _ _ _ _ rfl))

/-- The fail words of the bays lie below the mode registers. -/
theorem regPart_pmBayFail {d : Nat} (h : isBayDom d = true) : regPart (Reg.pmBayFail ((d - 0x200) / 32)).addr = .mr := by
  simp only [isBayDom, Bool.and_eq_true, decide_eq_true_eq] at h
  have hlo : ¬ (Reg.pmBayFail ((d - 0x200) / 32)).addr < 0x40 := by simp [Reg.pmBayFail]
  have hhi : (Reg.pmBayFail ((d - 0x200) / 32)).addr < 0x10080 := by
    show 0x40 + 0x4 * ((d - 0x200) / 32) < 0x10080
    omega
  simp only [regPart, if_neg hlo, if_pos hhi]

theorem State.setFail_touches (s : State) (d : Nat) (v : Bool) : Touches [.pm, .mr, .regs] s (s.setFail d v) := by
  unfold State.setFail
  split
  · exact (State.setBit_part .mr _ _ _ _ (regPart_pmBayFail ‹_›)).mono
  · exact .ite (State.setBit_part .regs _ _ _ _ (regPart_regs (le_index (by decide)))).mono
      (.ite (State.setBit_part .pm _ _ _ _ rfl).mono Touches.refl)

theorem State.domRowFail_touches (s : State) (d : ℕ) :
    Touches [.pm, .mr, .evr, .regs, .ev, .rnd, .tkts, .cr, .doms] s (s.domRowFail d) := by
  unfold State.domRowFail
  extract_lets +onlyGivenNames s1
  refine .via (t := s1) (((Touches.refl.then (State.setDom_touches ..)).then (State.setFail_touches ..)).then (State.setBit_part .pm _ _
        _ _ rfl)) fun hs1 => ?_
  generalize s1 = s1 at hs1 ⊢
  extract_lets +onlyGivenNames s2
  refine .via (t := s2) (((hs1.then (State.faultN_touches ..)).then (State.showWake_touches ..)).then (State.event_touches
        ..)) fun hs2 => ?_
  generalize s2 = s2 at hs2 ⊢
  extract_lets +onlyGivenNames kids s3
  refine .via (t := s3) (.ite (hs2.then (State.crWaitFail_touches ..)) (.ite (hs2.then (State.crWaitFail_touches ..))
        hs2)) fun hs3 => ?_
  generalize s3 = s3 at hs3 ⊢
  exact (.each hs3 fun _ _ => (Touches.refl.then (State.prRefuse_touches ..)))

theorem State.setLink_touches (s : State) (n : ℕ) (v : ℕ) :
    Touches [.regs] s (s.setLink n v) := by
  unfold State.setLink
  exact (Touches.refl.then (State.setFld_part .regs _ _ _ _ _ (regPart_regs (le_index (by decide)))))

theorem State.crTktEnd_touches (s : State) (n : ℕ) (st : ℕ) (err : ℕ) :
    Touches [.regs, .tkts, .cr] s (s.crTktEnd n st err) := by
  unfold State.crTktEnd
  exact ((Touches.refl.then (State.tktEnd?_touches ..)).then (State.setCrt_touches ..))

theorem State.crOff_touches (s : State) (n : ℕ) :
    Touches [.regs, .vl, .tkts, .handed, .replies, .cr] s (s.crOff n) := by
  unfold State.crOff
  extract_lets +onlyGivenNames s1
  refine .via (t := s1) ((Touches.refl.then (State.retiresOwed_touches ..)).then (State.crTktEnd_touches ..)) fun hs1 => ?_
  generalize s1 = s1 at hs1 ⊢
  extract_lets +onlyGivenNames s2
  refine .via (t := s2) (.each hs1 fun _ _ => (Touches.refl.then (State.wr_part .regs _ _ _ (regPart_regs (le_index (le_index (by
        decide))))))) fun hs2 => ?_
  generalize s2 = s2 at hs2 ⊢
  extract_lets +onlyGivenNames s3
  refine .via (t := s3) (.each hs2 fun _ _ => (Touches.refl.then (State.wr_part .regs _ _ _ (regPart_regs (le_index (le_index (by
        decide))))))) fun hs3 => ?_
  generalize s3 = s3 at hs3 ⊢
  exact ((hs3.then (State.setLink_touches ..)).then (State.setCrt_touches ..))

theorem State.tktActive_touches (s : State) (i : ℕ) :
    Touches [.regs, .tkts] s (s.tktActive i) := by
  unfold State.tktActive
  exact (.ite (Touches.refl.then (State.setTkt_touches ..)) Touches.refl)

theorem State.tktActive?_touches (s : State) (i : Option ℕ) :
    Touches [.regs, .tkts] s (s.tktActive? i) := by
  unfold State.tktActive?
  split
  · exact (Touches.refl.then (State.tktActive_touches ..))
  · exact Touches.refl

theorem State.crExit_touches (s : State) (n : ℕ) (ticket : Option ℕ) :
    Touches [.regs, .tkts, .cr] s (s.crExit n ticket) := by
  unfold State.crExit
  extract_lets +onlyGivenNames was full s1
  refine .via (t := s1) ((Touches.refl.then (State.crTktEnd_touches ..)).then (State.tktActive?_touches ..)) fun hs1 => ?_
  generalize s1 = s1 at hs1 ⊢
  exact ((hs1.then (State.setCrt_touches ..)).then (State.setLink_touches ..))

theorem State.setCrl_touches (s : State) (n : ℕ) (l : ℕ) (v : CrLane) :
    Touches [.cr] s (s.setCrl n l v) := by
  unfold State.setCrl
  exact (Touches.refl.then (State.setCrt_touches ..))

theorem State.setLaneSt_touches (s : State) (n : ℕ) (l : ℕ) (v : ℕ) :
    Touches [.regs] s (s.setLaneSt n l v) := by
  unfold State.setLaneSt
  exact (Touches.refl.then (State.setFld_part .regs _ _ _ _ _ (regPart_regs (le_index (le_index (by decide))))))

theorem State.crDlp_touches (s0 : State) (n : ℕ) :
    Touches [.regs, .vl, .tkts, .handed, .replies, .cr, .pw] s0 (s0.crDlp n) := by
  unfold State.crDlp
  extract_lets +onlyGivenNames s
  refine .via (t := s) (Touches.refl.then (State.retiresOwed_touches ..)) fun hs => ?_
  generalize s = s at hs ⊢
  extract_lets +onlyGivenNames s1
  refine .via (t := s1) (.each hs fun _ _ => (.ite (((Touches.refl.then (State.setCrl_touches ..)).then (State.setLaneSt_touches
        ..)).then (State.setFld_part .regs _ _ _ _ _ (regPart_regs (le_index (le_index (by decide)))))) Touches.refl)) fun hs1 => ?_
  generalize s1 = s1 at hs1 ⊢
  extract_lets +onlyGivenNames s2
  refine .via (t := s2) (.each hs1 fun _ _ => ((Touches.refl.then (State.setFld_part .regs _ _ _ _ _ (regPart_regs (le_index (le_index
        (by decide)))))).then (State.setCrg_touches ..))) fun hs2 => ?_
  generalize s2 = s2 at hs2 ⊢
  extract_lets +onlyGivenNames src s3
  refine .via (t := s3) (hs2.then .setPw) fun hs3 => ?_
  generalize s3 = s3 at hs3 ⊢
  exact ((hs3.then (State.setLink_touches ..)).then (State.crTktEnd_touches ..))

theorem State.crSendCtl_touches (s : State) (n : ℕ) (g : ℕ) (l : ℕ) (b : CrBlk) :
    Touches [.cr] s (s.crSendCtl n g l b) := by
  unfold State.crSendCtl
  exact (Touches.refl.then (State.setCrg_touches ..))

theorem State.crEnterDlp_touches (s : State) (n : ℕ) (ticket : Option ℕ) :
    Touches [.regs, .vl, .tkts, .handed, .replies, .cr, .pw] s (s.crEnterDlp n ticket) := by
  unfold State.crEnterDlp
  extract_lets +onlyGivenNames gs src s1
  refine .via (t := s1) ((Touches.refl.then (State.setCrt_touches ..)).then (State.tktActive?_touches ..)) fun hs1 => ?_
  generalize s1 = s1 at hs1 ⊢
  extract_lets +onlyGivenNames s2
  refine .via (t := s2) (.each hs1 fun _ _ => ((Touches.refl.then (State.crSendCtl_touches ..)).then (State.setCrg_touches
        ..))) fun hs2 => ?_
  generalize s2 = s2 at hs2 ⊢
  exact (.ite (hs2.then (State.crDlp_touches ..)) hs2)

theorem State.crTrain_touches (s : State) (n : ℕ) (ticket : Option ℕ) :
    Touches [.regs, .tkts, .cr] s (s.crTrain n ticket) := by
  unfold State.crTrain
  extract_lets +onlyGivenNames s1
  refine .via (t := s1) (.each Touches.refl fun _ _ => (.ite (Touches.refl.then (State.setLaneSt_touches ..))
        Touches.refl)) fun hs1 => ?_
  generalize s1 = s1 at hs1 ⊢
  exact (((hs1.then (State.setLink_touches ..)).then (State.setCrt_touches ..)).then (State.tktActive?_touches ..))

theorem State.crOp_touches (s : State) (n : ℕ) (op : ℕ) (ticket : Option ℕ) :
    Touches [.regs, .vl, .tkts, .handed, .replies, .cr, .pw] s (s.crOp n op ticket) := by
  unfold State.crOp
  extract_lets +onlyGivenNames refuse
  refine .via (t := refuse) (Touches.refl.then (State.tktEnd?_touches ..)) fun hrefuse => ?_
  generalize refuse = refuse at hrefuse ⊢
  split
  · exact (.ite (Touches.refl.then (State.tktEnd?_touches ..)) (.ite (Touches.refl.then (State.crTrain_touches ..)) hrefuse))
  · exact (.ite (Touches.refl.then (State.crEnterDlp_touches ..)) hrefuse)
  · exact (.ite (Touches.refl.then (State.crExit_touches ..)) hrefuse)
  · exact ((Touches.refl.then (State.crOff_touches ..)).then (State.tktEnd?_touches ..))
  · exact Touches.refl

theorem State.laneLoop_touches (s : State) (n : ℕ) (l : ℕ) (kind : ℕ) :
    Carries [.regs] s Prod.fst (s.laneLoop n l kind) := by
  unfold State.laneLoop
  extract_lets +onlyGivenNames v
  exact (.ite (.ite (.pair (Touches.refl.then (State.wr_part .regs _ _ _ (regPart_regs (le_index (le_index (by decide))))))) (.pair
        Touches.refl)) (.ite (.pair ((Touches.refl.then (State.setLaneSt_touches ..)).then (State.setFld_part .regs _ _ _ _ _
        (regPart_regs (le_index (le_index (by decide))))))) (.pair Touches.refl)))

theorem State.loopsRun_touches (s : State) (n : Nat) (ls : List Nat) : Touches [.regs] s (s.loopsRun n ls) := by
  induction s, ls using State.loopsRun.induct n with
  | case1 s l k rest ih => exact .then (.then .refl (State.laneLoop_touches s n l k)) ih
  | case2 s ls h =>
    unfold State.loopsRun
    split
    · exact absurd rfl (h _ _ _)
    · exact .refl

theorem State.wrFields_touches (s : State) (r : Reg) (v : Nat) : Touches [.pm, .mr, .ep, .evr, .regs] s (s.wrFields r v) := by
  unfold State.wrFields
  split
  · exact State.wr_touches ..
  · exact .refl

theorem State.crConfig_touches (s : State) (n : ℕ) (ws : List ℕ) (ticket : Option ℕ) :
    Touches [.regs, .tkts, .cr] s (s.crConfig n ws ticket) := by
  unfold State.crConfig
  exact (.ite (Touches.refl.then (State.tktEnd?_touches ..)) (.ite (Touches.refl.then (State.tktEnd?_touches ..)) (.then (.each
        Touches.refl fun _ _ => (Touches.refl.then (State.wrFields_part .regs _ _ _ (regPart_regs (le_index (le_index (by
        decide))))))) (State.crTrain_touches ..))))

theorem State.crUp_touches (s : State) (n : ℕ) :
    Touches [.regs, .vl, .tkts, .handed, .replies, .cr, .pw] s (s.crUp n) := by
  unfold State.crUp
  split
  · extract_lets +onlyGivenNames t src s1
    refine .via (t := s1) (Touches.refl.then (State.setCrt_touches ..)) fun hs1 => ?_
    generalize s1 = s1 at hs1 ⊢
    exact (.ite (hs1.then (State.crConfig_touches ..)) (.ite (hs1.then (State.loopsRun_touches ..)) (hs1.then (State.crOp_touches ..))))
  · exact Touches.refl

theorem State.spareFailed_touches (s : State) (c : ℕ) :
    Touches [.regs] s (s.spareFailed c) := by
  unfold State.spareFailed
  split
  · exact (Touches.refl.then (State.setFld_part .regs _ _ _ _ _ (regPart_regs (le_index (le_mcBase _)))))
  · exact Touches.refl

theorem State.setTile_touches (s : State) (n : ℕ) (v : TileRt) :
    Touches [.fab] s (s.setTile n v) := by
  unfold State.setTile
  exact (Touches.refl.then .setFab)

theorem State.holdApply_touches (s : State) (n : ℕ) :
    Touches [.regs, .fab] s (s.holdApply n) := by
  unfold State.holdApply
  exact ((Touches.refl.then (State.setFld_part .regs _ _ _ _ _ (regPart_regs (le_index (by decide))))).then (State.setTile_touches ..))

theorem State.domStay_touches (s : State) (d : ℕ) :
    Touches [.pm, .regs, .doms] s (s.domStay d) := by
  unfold State.domStay
  extract_lets +onlyGivenNames s1
  refine .via (t := s1) (Touches.refl.then (State.setDom_touches ..)) fun hs1 => ?_
  generalize s1 = s1 at hs1 ⊢
  exact (.ite ((hs1.then (State.setFld_part .regs _ _ _ _ _ (regPart_regs (le_index (by decide))))).then (State.setFld_part .regs _ _ _
        _ _ (regPart_regs (le_index (by decide))))) hs1)

theorem State.domWake1_touches (s : State) (d : ℕ) :
    Touches [.pm, .regs, .doms] s (s.domWake1 d) := by
  unfold State.domWake1
  extract_lets +onlyGivenNames r
  exact (.ite (.ite ((Touches.refl.then (State.setDom_touches ..)).then (State.setFld_part .pm _ _ _ _ _ rfl)) (Touches.refl.then
        (State.setDom_touches ..))) (.ite (Touches.refl.then (State.domStay_touches ..)) Touches.refl))

theorem State.domUp_touches (s : State) (d : ℕ) :
    Touches [.pm, .regs, .doms] s (s.domUp d) := by
  unfold State.domUp
  extract_lets +onlyGivenNames s1
  refine .via (t := s1) (Touches.refl.then (State.setDom_touches ..)) fun hs1 => ?_
  generalize s1 = s1 at hs1 ⊢
  extract_lets +onlyGivenNames s2
  refine .via (t := s2) (.ite (hs1.then (State.setFld_part .regs _ _ _ _ _ (regPart_regs (le_index (by decide))))) hs1) fun hs2 => ?_
  generalize s2 = s2 at hs2 ⊢
  exact (.each hs2 fun _ _ => (Touches.refl.then (State.domWake1_touches ..)))

theorem State.mcErr_touches (s : State) (c : ℕ) (kind : ℕ) (a : ℕ) (symbol : ℕ) (mid : ℕ) :
    Touches [.regs] s (s.mcErr c kind a symbol mid) := by
  unfold State.mcErr
  extract_lets +onlyGivenNames t v
  exact ((Touches.refl.then (State.wr_part .regs _ _ _ (regPart_regs (le_index (le_mcBase _))))).then (State.wr64_part .regs _ _ _ _
        (regPart_regs (le_index (le_mcBase _))) (regPart_regs (le_index (le_mcBase _)))))

theorem State.poisonRead_touches (s : State) (b : ℕ) (mid : ℕ) :
    Touches [.regs] s (s.poisonRead b mid) := by
  unfold State.poisonRead
  exact ((Touches.refl.then (State.count_part .regs _ _ _ _ _ (regPart_regs (le_index (le_mcBase _))))).then (State.mcErr_touches ..))

theorem State.icAlarm_touches (s : State) (r : ℕ) (addr : ℕ) (mid : ℕ) (kind : ℕ) :
    Touches [.evr, .regs, .ev] s (s.icAlarm r addr mid kind) := by
  unfold State.icAlarm
  extract_lets +onlyGivenNames s1
  refine .via (t := s1) ((Touches.refl.then (State.count_part .regs _ _ _ _ _ rfl)).then (State.setBit_part .regs _ _ _ _
        rfl)) fun hs1 => ?_
  generalize s1 = s1 at hs1 ⊢
  extract_lets +onlyGivenNames s2
  refine .via (t := s2) (hs1.then (State.wr_part .regs _ _ _ rfl)) fun hs2 => ?_
  generalize s2 = s2 at hs2 ⊢
  exact ((hs2.then (State.wr64_part .regs _ _ _ _ rfl rfl)).then (State.event_touches ..))

theorem State.tagFail_touches (s : State) (x : ℕ) (mid : ℕ) :
    Touches [.evr, .regs, .ev] s (s.tagFail x mid) := by
  unfold State.tagFail
  exact (Touches.refl.then (State.icAlarm_touches ..))

theorem State.tagUnread_touches (s : State) (x : ℕ) (mid : ℕ) :
    Carries [.evr, .regs, .draw, .ev] s Prod.fst (s.tagUnread x mid) := by
  unfold State.tagUnread
  extract_lets +onlyGivenNames t
  exact (.ite (.ite (.pair (Touches.refl.then (State.drawn_touches ..))) (.pair ((Touches.refl.then (State.drawn_touches ..)).then
        (State.tagFail_touches ..)))) (.ite (.pair (((Touches.refl.then (State.drawn_touches ..)).then (State.event_touches
        ..)).then (State.poisonRead_touches ..))) (.pair ((Touches.refl.then (State.drawn_touches ..)).then (State.event_touches ..)))))

theorem State.lineCheck_touches (s : State) (x : ℕ) (mid : ℕ) :
    Carries [.evr, .regs, .draw, .ev] s Prod.fst (s.lineCheck x mid) := by
  unfold State.lineCheck
  exact (.ite (.pair Touches.refl) (.ite (.then Touches.refl (State.tagUnread_touches ..)) (.ite (.pair Touches.refl) (.pair
        (Touches.refl.then (State.tagFail_touches ..))))))

theorem State.linesCheck_touches (s : State) (a : ℕ) (n : ℕ) (mid : ℕ) :
    Carries [.evr, .regs, .draw, .ev] s Prod.fst (s.linesCheck a n mid) := by
  unfold State.linesCheck
  refine (.foldlFst Touches.refl fun u c x => ?_)
  exact (.ite (.pair Touches.refl) (.then Touches.refl (State.lineCheck_touches ..)))

theorem State.setMc_touches (s : State) (c : ℕ) (v : McSt) :
    Touches [.mcs] s (s.setMc c v) := by
  unfold State.setMc
  exact (Touches.refl.then .setMcs)

theorem State.showRekeys_touches (s : State) :
    Touches [.regs] s (s.showRekeys) := by
  unfold State.showRekeys
  exact (Touches.refl.then (State.setFld_part .regs _ _ _ _ _ rfl))

theorem State.rekeyBegin_touches (s : State) (r : ℕ) :
    Touches [.evr, .regs, .ev, .ic] s (s.rekeyBegin r) := by
  unfold State.rekeyBegin
  exact (.ite ((((Touches.refl.then (State.setBit_part .regs _ _ _ _ (regPart_regs (le_index (by decide))))).then (State.setBit_part
        .regs _ _ _ _ (regPart_regs (le_index (by decide))))).then (State.setBit_part .regs _ _ _ _ (regPart_regs (le_index (by
        decide))))).then (State.event_touches ..)) (((((((Touches.refl.then .setIc).then (State.wr_part .regs _ _ _ (regPart_regs
        (le_index (by decide))))).then (State.wr_part .regs _ _ _ (regPart_regs (le_index (by
        decide))))).then
        (State.wr64_part .regs _ _ _ _ (regPart_regs (le_index (by decide))) (regPart_regs (le_index (by
        decide))))).then
        (State.setBit_part .regs _ _ _ _ (regPart_regs (le_index (by decide))))).then (State.setBit_part .regs _ _ _ _ (regPart_regs
        (le_index (by decide))))).then (State.showRekeys_touches ..)))

theorem State.rekey_touches (s : State) (r : ℕ) :
    Touches [.evr, .regs, .ev, .ic] s (s.rekey r) := by
  unfold State.rekey
  exact (.ite Touches.refl (.ite (Touches.refl.then (State.setBit_part .regs _ _ _ _ (regPart_regs (le_index (by decide))))) (.ite
        (Touches.refl.then (State.rekeyBegin_touches ..)) (((Touches.refl.then .setIc).then (State.setBit_part .regs _ _ _ _
        (regPart_regs (le_index (by decide))))).then (State.setBit_part .regs _ _ _ _ (regPart_regs (le_index (by decide))))))))

theorem State.countWrite_touches (s : State) (a : ℕ) (n : ℕ) (mid : ℕ) :
    Touches [.regs, .ic] s (s.countWrite a n mid) := by
  unfold State.countWrite
  exact (.ite Touches.refl (.each Touches.refl fun _ _ => ((Touches.refl.then .setIc).then (State.wr_part .regs _ _ _ (regPart_regs
        (le_index (by decide)))))))

theorem State.wroteDram_touches (s : State) (a : ℕ) (n : ℕ) (mid : ℕ) :
    Touches [.evr, .regs, .ev, .ic] s (s.wroteDram a n mid) := by
  unfold State.wroteDram
  exact (.each (Touches.refl.then (State.countWrite_touches ..)) fun _ _ => (.ite (Touches.refl.then (State.rekey_touches ..))
        Touches.refl))

theorem State.breakReservations_touches (s : State) (mid : ℕ) (a : ℕ) (n : ℕ) :
    Touches [.dbg] s (s.breakReservations mid a n) := by
  unfold State.breakReservations
  refine (.foldl Touches.refl fun t c => ?_)
  split
  · exact (.ite (Touches.refl.then (State.setCore_touches ..)) Touches.refl)
  · exact Touches.refl

theorem State.setMmp_touches (s : State) (n : ℕ) (k : ℕ) (v : MmpRt) :
    Touches [.fab] s (s.setMmp n k v) := by
  unfold State.setMmp
  exact (Touches.refl.then .setFab)

theorem State.mcAnswer_touches (s : State) (q : McReq) (cause : ℕ) (data : List Byte) :
    Touches [.fab, .rnd] s (s.mcAnswer q cause data) := by
  unfold State.mcAnswer
  extract_lets +onlyGivenNames src p
  split
  · exact (Touches.refl.then (State.setMmp_touches ..))
  · exact (Touches.refl.then (State.setMmp_touches ..))
  · exact (Touches.refl.then (State.respond_touches ..))

theorem State.reqDone_touches (s : State) (q : McReq) :
    Touches [.evr, .regs, .draw, .fab, .ev, .rnd, .ic, .dbg] s (s.reqDone q) := by
  unfold State.reqDone
  extract_lets +onlyGivenNames p
  exact (.ite (.ite (Touches.refl.then (State.mcAnswer_touches ..)) (.then (.then Touches.refl (State.linesCheck_touches ..))
        (State.mcAnswer_touches ..))) (((Touches.refl.then (State.wroteDram_touches ..)).then (State.breakReservations_touches
        ..)).then (State.mcAnswer_touches ..)))

theorem State.blkDone_touches (s : State) (c : ℕ) (id : ℕ) (b : ℕ) (cause : ℕ) (bytes : List Byte) :
    Touches [.evr, .regs, .draw, .fab, .ev, .rnd, .mcs, .ic, .dbg] s (s.blkDone c id b cause bytes) := by
  unfold State.blkDone
  split
  · exact Touches.refl
  · extract_lets +onlyGivenNames data q' others
    exact (.ite ((Touches.refl.then (State.setMc_touches ..)).then (State.reqDone_touches ..)) (Touches.refl.then (State.setMc_touches
          ..)))

theorem State.setForm_touches (s : State) (lo : ℕ) (hi : ℕ) (f : Form) :
    Touches [.ic] s (s.setForm lo hi f) := by
  unfold State.setForm
  exact (.ite Touches.refl (Touches.refl.then .setIc))

theorem State.putBlock_touches (s : State) (a : ℕ) (b : List Byte) :
    Touches [.mem, .ic] s (s.putBlock a b) := by
  unfold State.putBlock
  extract_lets +onlyGivenNames f s1
  refine .via (t := s1) ((Touches.refl.then (State.putBytes_touches ..)).then (State.setForm_touches ..)) fun hs1 => ?_
  generalize s1 = s1 at hs1 ⊢
  exact (.ite (.ite (hs1.then .setIc) ((hs1.then .setIc).then .setIc)) hs1)

theorem State.putBlocks_touches (s : State) (a k : Nat) (bs : List Byte) : Touches [.mem, .ic] s (s.putBlocks a k bs) := by
  induction k generalizing s a bs with
  | zero => exact .refl
  | succ k ih => exact (State.putBlock_touches s _ _).then (ih _ _ _)

theorem State.putDram_touches (s : State) (a : ℕ) (bs : List Byte) :
    Touches [.mem, .ic] s (s.putDram a bs) := by
  unfold State.putDram
  extract_lets +onlyGivenNames n k old
  exact (Touches.refl.then (State.putBlocks_touches ..))

theorem State.putBlk_touches (s : State) (b : ℕ) (bytes : List Byte) (mask : ℕ) (mid : ℕ) :
    Carries [.regs, .mem, .mcs, .ic] s Got.st (s.putBlk b bytes mask mid) := by
  unfold State.putBlk
  extract_lets +onlyGivenNames sz
  exact (.ite (.got (Touches.refl.then (State.poisonRead_touches ..))) (.got ((Touches.refl.then (State.putDram_touches ..)).then
        (State.setMc_touches ..))))

theorem State.rowOpen_touches (s : State) (c : ℕ) (b : ℕ) :
    Touches [.mcs] s (s.rowOpen c b) := by
  unfold State.rowOpen
  extract_lets +onlyGivenNames m k t
  exact (Touches.refl.then (State.setMc_touches ..))

theorem State.unqueue_touches (s : State) (c : ℕ) (w : McBlk) :
    Touches [.mcs] s (s.unqueue c w) := by
  unfold State.unqueue
  exact (Touches.refl.then (State.setMc_touches ..))

theorem State.writeCheck_touches (s : State) (a : ℕ) (n : ℕ) (bem : Option ℕ) (b : ℕ) (mid : ℕ) :
    Carries [.evr, .regs, .draw, .ev] s Prod.fst (s.writeCheck a n bem b mid) := by
  unfold State.writeCheck
  exact (.ite (.pair Touches.refl) (.then Touches.refl (State.lineCheck_touches ..)))

theorem State.issueWrite_touches (s : State) (c : ℕ) (w : McBlk) :
    Touches [.evr, .regs, .mem, .draw, .fab, .ev, .rnd, .mcs, .ic, .dbg] s (s.issueWrite c w) := by
  unfold State.issueWrite
  extract_lets +onlyGivenNames b qs v
  refine .viaOf Prod.fst v ?_ fun hv => ?_
  · unfold v
    refine (.foldlFst ((Touches.refl.then (State.rowOpen_touches ..)).then (State.unqueue_touches ..)) fun u c q => ?_)
    extract_lets +onlyGivenNames r
    refine .viaOf Prod.fst r (.then Touches.refl (State.writeCheck_touches ..)) fun hr => ?_
    generalize r = r at hr ⊢
    exact (.pair hr)
  generalize v = v at hv ⊢
  extract_lets +onlyGivenNames bad good m mid g
  refine .viaOf Got.st g (.ite (.got hv) (.then hv (State.putBlk_touches ..))) fun hg => ?_
  generalize g = g at hg ⊢
  extract_lets +onlyGivenNames s2
  refine .via (t := s2) (.each hg fun _ _ => (Touches.refl.then (State.blkDone_touches ..))) fun hs2 => ?_
  generalize s2 = s2 at hs2 ⊢
  exact (.each hs2 fun _ _ => (Touches.refl.then (State.blkDone_touches ..)))

theorem State.issueFor_touches (s : State) (a : ℕ) (n : ℕ) :
    Touches [.evr, .regs, .mem, .draw, .fab, .ev, .rnd, .mcs, .ic, .dbg] s (s.issueFor a n) := by
  unfold State.issueFor
  exact (.each Touches.refl fun _ _ => (.each Touches.refl fun _ _ => (Touches.refl.then (State.issueWrite_touches ..))))

theorem State.dramRead_touches (s0 : State) (a : ℕ) (n : ℕ) (mid : ℕ) :
    Carries [.evr, .regs, .mem, .draw, .fab, .ev, .rnd, .mcs, .ic, .dbg] s0 Got.st (s0.dramRead a n mid) := by
  unfold State.dramRead
  extract_lets +onlyGivenNames s
  refine .via (t := s) (Touches.refl.then (State.issueFor_touches ..)) fun hs => ?_
  generalize s = s at hs ⊢
  split
  · exact (.got hs)
  · split
    · extract_lets +onlyGivenNames g
      refine .viaOf Prod.fst g (.then hs (State.linesCheck_touches ..)) fun hg => ?_
      generalize g = g at hg ⊢
      exact (.ite (.got hg) (.got hg))
    · exact (.got (.each hs fun _ _ => (Touches.refl.then (State.poisonRead_touches ..))))

theorem State.dramWriteBlock_touches (s : State) (a : ℕ) (data : List Byte) (bem : Option ℕ) (mid : ℕ) (b : ℕ) :
    Carries [.evr, .regs, .mem, .draw, .ev, .mcs, .ic] s Got.st (s.dramWriteBlock a data bem mid b) := by
  unfold State.dramWriteBlock
  extract_lets +onlyGivenNames v
  refine .viaOf Prod.fst v (.then Touches.refl (State.writeCheck_touches ..)) fun hv => ?_
  generalize v = v at hv ⊢
  exact (.ite (.got hv) (.then hv (State.putBlk_touches ..)))

theorem State.dramWrite_touches (s0 : State) (a : ℕ) (data : List Byte) (bem : Option ℕ) (mid : ℕ) :
    Carries [.evr, .regs, .mem, .draw, .fab, .ev, .rnd, .mcs, .ic, .dbg] s0 Got.st (s0.dramWrite a data bem mid) := by
  unfold State.dramWrite
  extract_lets +onlyGivenNames n s
  refine .via (t := s) (Touches.refl.then (State.issueFor_touches ..)) fun hs => ?_
  generalize s = s at hs ⊢
  split
  · exact (.got hs)
  · extract_lets +onlyGivenNames g
    refine .viaOf Got.st g ?_ fun hg => ?_
    · unfold g
      refine (.foldl hs fun g b => ?_)
      extract_lets +onlyGivenNames r
      refine .viaOf Got.st r (.then Touches.refl (State.dramWriteBlock_touches ..)) fun hr => ?_
      generalize r = r at hr ⊢
      exact (.got hr)
    generalize g = g at hg ⊢
    exact (.got ((hg.then (State.wroteDram_touches ..)).then (State.breakReservations_touches ..)))

theorem State.spUe_touches (s : State) (b : ℕ) (a : ℕ) :
    Touches [.evr, .regs, .ev] s (s.spUe b a) := by
  unfold State.spUe
  extract_lets +onlyGivenNames s1
  refine .via (t := s1) ((Touches.refl.then (State.count_part .regs _ _ _ _ _ (regPart_regs (le_index (by decide))))).then
        (State.wr_part .regs _ _ _ (regPart_regs (le_index (by decide))))) fun hs1 => ?_
  generalize s1 = s1 at hs1 ⊢
  exact (hs1.then (State.event_touches ..))

theorem State.spFound_touches (s : State) (w : ℕ) :
    Touches [.evr, .regs, .ev] s (s.spFound w) := by
  unfold State.spFound
  exact (Touches.refl.then (State.spUe_touches ..))

theorem State.spAccess_touches (s : State) (write : Bool) (a : ℕ) (n : ℕ) (data : List Byte) (bem : Option ℕ) :
    Carries [.evr, .regs, .mem, .ev, .sp] s Got.st (s.spAccess write a n data bem) := by
  unfold State.spAccess
  split
  · exact (.got Touches.refl)
  · split
    · extract_lets +onlyGivenNames hit kept s1
      refine .via (t := s1) (.each Touches.refl fun _ _ => (.ite (Touches.refl.then (State.putByte_touches ..))
            Touches.refl)) fun hs1 => ?_
      generalize s1 = s1 at hs1 ⊢
      extract_lets +onlyGivenNames src s2
      refine .via (t := s2) (hs1.then .setSp) fun hs2 => ?_
      generalize s2 = s2 at hs2 ⊢
      exact (.got (.each hs2 fun _ _ => (Touches.refl.then (State.spFound_touches ..))))
    · split
      · exact (.got Touches.refl)
      · exact (.got (.each Touches.refl fun _ _ => (Touches.refl.then (State.spFound_touches ..))))

theorem State.setBp_touches (s : State) (i : ℕ) (v : BpRt) :
    Touches [.fab] s (s.setBp i v) := by
  unfold State.setBp
  exact (Touches.refl.then .setFab)

theorem State.setInBundle_touches (s : State) (i : ℕ) (k : ℕ) (v : Word) :
    Touches [.fab] s (s.setInBundle i k v) := by
  unfold State.setInBundle
  extract_lets +onlyGivenNames rt
  exact (Touches.refl.then (State.setBp_touches ..))

theorem State.putSlotByte_touches (s : State) (i : ℕ) (o : ℕ) (b : Byte) :
    Touches [.mem, .fab] s (s.putSlotByte i o b) := by
  unfold State.putSlotByte
  exact (.ite (Touches.refl.then (State.putByte_touches ..)) (.ite (Touches.refl.then (State.setInBundle_touches ..)) Touches.refl))

theorem State.putLe_touches (s : State) (a : ℕ) (n : ℕ) (v : ℕ) :
    Touches [.mem] s (s.putLe a n v) := by
  unfold State.putLe
  exact (Touches.refl.then (State.putBytes_touches ..))

theorem State.putSlice_touches (s : State) (i : ℕ) (sl : ℕ) (v : SliceRegs) :
    Touches [.mem] s (s.putSlice i sl v) := by
  unfold State.putSlice
  extract_lets +onlyGivenNames a
  exact ((((((Touches.refl.then (State.putLe_touches ..)).then (State.putLe_touches ..)).then (State.putLe_touches ..)).then
        (State.putLe_touches ..)).then (State.putLe_touches ..)).then (State.putLe_touches ..))

theorem State.frameRead_touches (s : State) (n : ℕ) (a : ℕ) (o : ℕ) (k : ℕ) :
    Carries [] s Got.st (s.frameRead n a o k) := by
  unfold State.frameRead
  split
  · exact (.got Touches.refl)
  · split
    · exact (.got Touches.refl)
    · exact (.got Touches.refl)
    · exact (.got Touches.refl)

theorem State.putFrame_touches (s : State) (n : ℕ) (a : ℕ) (bs : List Byte) :
    Touches [.mem, .fab] s (s.putFrame n a bs) := by
  unfold State.putFrame
  extract_lets +onlyGivenNames s1
  refine .via (t := s1) (Touches.refl.then (State.putBytes_touches ..)) fun hs1 => ?_
  generalize s1 = s1 at hs1 ⊢
  exact (hs1.then .setFab)

theorem State.cancelCorr_touches (s : State) (n : ℕ) (a : ℕ) :
    Touches [.fab] s (s.cancelCorr n a) := by
  unfold State.cancelCorr
  extract_lets +onlyGivenNames t cut
  exact (Touches.refl.then (State.setTile_touches ..))

theorem State.wbClear_touches (s : State) (n : ℕ) :
    Touches [.fab] s (s.wbClear n) := by
  unfold State.wbClear
  exact (Touches.refl.then (State.setTile_touches ..))

theorem State.frameWrite_touches (s : State) (n : ℕ) (a : ℕ) (mid : ℕ) (o : ℕ) (bs : List Byte) :
    Carries [.regs, .mem, .fab] s Got.st (s.frameWrite n a mid o bs) := by
  unfold State.frameWrite
  exact (.ite (.got Touches.refl) (.ite (.got (.then (.ite ((Touches.refl.then (State.wbClear_touches ..)).then (State.setBit_part .regs
        _ _ _ _ (regPart_regs (le_index (by
        decide)))))
        Touches.refl) (State.setTile_touches ..))) (.ite (.got (.then (.then (.then (.ite ((Touches.refl.then (State.wbClear_touches
        ..)).then (State.setBit_part .regs _ _ _ _ (regPart_regs (le_index (by
        decide)))))
        Touches.refl)
        (State.setTile_touches ..)) (State.wbClear_touches ..)) (State.setBit_part .regs _ _ _ _ (regPart_regs (le_index (by
        decide)))))) (.got (.then (.then (.then (.then (.ite ((Touches.refl.then (State.wbClear_touches ..)).then (State.setBit_part
        .regs _ _ _ _ (regPart_regs (le_index (by
        decide)))))
        Touches.refl)
        (State.setTile_touches ..)) (State.putFrame_touches ..)) (State.wbClear_touches ..)) (State.cancelCorr_touches ..))))))

theorem State.fabricAccess_touches (s : State) (write : Bool) (a : ℕ) (n : ℕ) (mid : ℕ) (data : List Byte) (bem : Option ℕ) :
    Carries [.regs, .mem, .fab] s Got.st (s.fabricAccess write a n mid data bem) := by
  unfold State.fabricAccess
  extract_lets +onlyGivenNames t o
  exact (.ite (.ite (.got Touches.refl) (.ite (.then Touches.refl (State.frameWrite_touches ..)) (.then Touches.refl
        (State.frameRead_touches ..)))) (.ite (.ite (.got Touches.refl) (.ite (.got (.ite ((Touches.refl.then (State.putBytes_touches
        ..)).then
        (State.putSlice_touches
        ..))
        Touches.refl)) (.got Touches.refl))) (.ite (.got Touches.refl) (.ite (.ite (.got (.each Touches.refl fun _ _ => (.ite
        (Touches.refl.then (State.putSlotByte_touches
        ..))
        Touches.refl))) (.got Touches.refl)) (.ite (.got (.each Touches.refl fun _ _ => (.ite (Touches.refl.then (State.putByte_touches
        ..)) Touches.refl))) (.got Touches.refl))))))

theorem State.lbRxTake_touches (s : State) (c : ℕ) :
    Touches [.regs] s (s.lbRxTake c) := by
  unfold State.lbRxTake
  exact (Touches.refl.then (State.setBit_part .regs _ _ _ _ (regPart_regs (le_index (by decide)))))

theorem State.lbTxTake_touches (s : State) (c : ℕ) :
    Touches [.regs] s (s.lbTxTake c) := by
  unfold State.lbTxTake
  exact (Touches.refl.then (State.setBit_part .regs _ _ _ _ (regPart_regs (le_index (by decide)))))

theorem State.store_touches (s : State) (a w : Nat) : Touches [.pm, .mr, .ep, .evr, .regs] s (s.store a w) :=
  State.wr_touches s ⟨a, regResetAt a⟩ w

theorem State.consume_touches (s : State) (a : ℕ) :
    Touches [.pm, .mr, .ep, .evr, .regs] s (s.consume a) := by
  unfold State.consume
  split
  · exact Touches.refl
  · extract_lets +onlyGivenNames m
    exact (.ite (Touches.refl.then (State.store_touches ..)) (.ite (Touches.refl.then (State.lbTxTake_touches ..)) (.ite
          (Touches.refl.then (State.lbRxTake_touches ..)) Touches.refl)))

theorem State.regRead_touches (s : State) (a : ℕ) (peek : Bool) :
    Carries [.pm, .mr, .ep, .evr, .regs] s Prod.fst (s.regRead a peek) := by
  unfold State.regRead
  exact (.ite (.pair Touches.refl) (.pair (.ite Touches.refl (Touches.refl.then (State.consume_touches ..)))))

theorem State.plainWrite_touches (s : State) (a : ℕ) (w : ℕ) :
    Touches [.pm, .mr, .ep, .evr, .regs] s (s.plainWrite a w) := by
  unfold State.plainWrite
  split
  · exact (Touches.refl.then (State.store_touches ..))
  · exact Touches.refl

theorem State.pairPlain_touches (s : State) (a : ℕ) (lo : ℕ) (hi : ℕ) :
    Touches [.pm, .mr, .ep, .evr, .regs] s (s.pairPlain a lo hi) := by
  unfold State.pairPlain
  exact ((Touches.refl.then (State.plainWrite_touches ..)).then (State.plainWrite_touches ..))

theorem State.pairWrite_touches {P : List Part} {s t : State} {a w : Nat} {f : State → Nat → Nat → State} (h : Touches P s t)
    (hf : ∀ u lo w, Touches P u (f u lo w)) (hP : [.loStage] ⊆ P := by decide) : Touches P s (t.pairWrite a w f) := by
  unfold State.pairWrite
  split
  · exact .then h .setLoStage hP
  · exact .then (.then h .setLoStage hP) (hf _ _ _) (List.Subset.refl P)

theorem State.anyWrite_touches (s : State) (a : ℕ) (w : ℕ) :
    Touches [.pm, .mr, .ep, .evr, .regs, .loStage] s (s.anyWrite a w) := by
  unfold State.anyWrite
  exact (.ite (State.pairWrite_touches Touches.refl fun _ _ _ => (Touches.refl.then (State.pairPlain_touches ..))) (Touches.refl.then
        (State.plainWrite_touches ..)))

theorem State.setDrain_touches (s : State) (c : ℕ) (t : ℕ) (v : Bool) :
    Touches [.mcs] s (s.setDrain c t v) := by
  unfold State.setDrain
  extract_lets +onlyGivenNames d
  exact (Touches.refl.then (State.setMc_touches ..))

theorem State.drainTarget_touches (s : State) (c t n : Nat) : Touches [.evr, .regs, .mem, .draw, .fab, .ev, .rnd, .mcs, .ic,
      .dbg] s (s.drainTarget c t n) := by
  induction n generalizing s with
  | zero => exact .refl
  | succ n ih =>
    unfold State.drainTarget
    split
    · split
      · split
        · exact Touches.refl.then (State.setDrain_touches ..)
        · exact ((Touches.refl.then (State.issueWrite_touches ..)).then (State.setDrain_touches ..)).then (ih _)
      · exact Touches.refl.then (State.setDrain_touches ..)
    · exact Touches.refl.then (State.setDrain_touches ..)

theorem State.drainCheck_touches (s : State) (c : ℕ) :
    Touches [.evr, .regs, .mem, .draw, .fab, .ev, .rnd, .mcs, .ic, .dbg] s (s.drainCheck c) := by
  unfold State.drainCheck
  extract_lets +onlyGivenNames ts
  exact (.each Touches.refl fun _ _ => (Touches.refl.then (State.drainTarget_touches ..)))

theorem State.isoEnd_touches (s : State) (c : ℕ) :
    Touches [.evr, .regs, .mem, .draw, .fab, .ev, .rnd, .mcs, .ic, .dbg] s (s.isoEnd c) := by
  unfold State.isoEnd
  exact (((Touches.refl.then (State.setMc_touches ..)).then (State.setBit_part .regs _ _ _ _ (regPart_regs (le_index (le_mcBase
        _))))).then (State.drainCheck_touches ..))

theorem State.isoRelease_touches (s : State) (c : ℕ) :
    Touches [.evr, .regs, .mem, .draw, .fab, .ev, .rnd, .mcs, .ic, .dbg] s (s.isoRelease c) := by
  unfold State.isoRelease
  exact (.ite ((Touches.refl.then (State.isoEnd_touches ..)).then (State.count_part .regs _ _ _ _ _ (regPart_regs (le_index (le_mcBase
        _))))) Touches.refl)

theorem State.isolate_touches (s : State) (c : ℕ) :
    Touches [.regs, .so, .mcs] s (s.isolate c) := by
  unfold State.isolate
  extract_lets +onlyGivenNames r t k m
  exact (.ite ((((Touches.refl.then (State.setMc_touches ..)).then .setSo).then (State.setBit_part .regs _ _ _ _ (regPart_regs (le_index
        (le_mcBase _))))).then (State.setBit_part .regs _ _ _ _ (regPart_regs (le_index (le_mcBase _))))) Touches.refl)

theorem State.mrAccess_touches (s : State) (c : ℕ) (w : ℕ) :
    Touches [.regs] s (s.mrAccess c w) := by
  unfold State.mrAccess
  exact (.ite Touches.refl (Touches.refl.then (State.wr_part .regs _ _ _ (regPart_regs (le_index (le_mcBase _))))))

theorem State.delayWrite_touches (s : State) (c : ℕ) (w : ℕ) :
    Touches [.regs, .mcs] s (s.delayWrite c w) := by
  unfold State.delayWrite
  extract_lets +onlyGivenNames sel kind s1
  refine .via (t := s1) (Touches.refl.then (State.wr_part .regs _ _ _ (regPart_regs (le_index (le_mcBase _))))) fun hs1 => ?_
  generalize s1 = s1 at hs1 ⊢
  extract_lets +onlyGivenNames src s2
  refine .via (t := s2) (hs1.then (State.setMc_touches ..)) fun hs2 => ?_
  generalize s2 = s2 at hs2 ⊢
  extract_lets +onlyGivenNames key
  exact (.ite (Touches.refl.then (State.wr_part .regs _ _ _ (regPart_regs (le_index (le_mcBase _))))) (.ite (hs2.then
        (State.setMc_touches ..)) hs2))

theorem State.trnPut_touches (s : State) (c : ℕ) (target : ℕ) (rank : ℕ) (w : ℕ) (v : Byte) :
    Touches [.mem, .mcs, .ic] s (s.trnPut c target rank w v) := by
  unfold State.trnPut
  split
  · exact ((Touches.refl.then (State.setForm_touches ..)).then (State.putByte_touches ..))
  · exact (Touches.refl.then (State.setMc_touches ..))

theorem State.trainWrites_touches (s : State) (c : ℕ) :
    Touches [.mem, .mcs, .ic] s (s.trainWrites c) := by
  unfold State.trainWrites
  extract_lets +onlyGivenNames r
  exact (.ite Touches.refl (.each Touches.refl fun _ _ => (.each Touches.refl fun _ _ => (Touches.refl.then (State.trnPut_touches
        ..)))))

theorem State.trainingOp_touches (s : State) (c : ℕ) (w : ℕ) :
    Touches [.pm, .mr, .ep, .evr, .regs, .mem, .mcs, .ic] s (s.trainingOp c w) := by
  unfold State.trainingOp
  extract_lets +onlyGivenNames s1
  refine .via (t := s1) (Touches.refl.then (State.wr_part .regs _ _ _ (regPart_regs (le_index (le_mcBase _))))) fun hs1 => ?_
  generalize s1 = s1 at hs1 ⊢
  exact (.ite (.then (.then (.foldl (hs1.then (State.setBit_part .regs _ _ _ _ (regPart_regs (le_index (le_mcBase _))))) fun _ _ =>
        (Touches.refl.then (State.wr_touches ..))) (State.setMc_touches ..)) (State.trainWrites_touches ..)) (.ite Touches.refl hs1))

theorem State.retire_touches (s : State) (c : ℕ) (target : ℕ) (mid : ℕ) :
    Touches [.evr, .regs, .ev, .mcs] s (s.retire c target mid) := by
  unfold State.retire
  extract_lets +onlyGivenNames m
  exact (.ite Touches.refl (.ite ((((Touches.refl.then (State.setMc_touches ..)).then (State.setBit_part .regs _ _ _ _ (regPart_regs
        (le_index (le_mcBase _))))).then (State.setBit_part .regs _ _ _ _ (regPart_regs (le_index (le_mcBase
        _))))).then (State.wr_part .regs _ _ _ (regPart_regs (le_index (le_mcBase _))))) (Touches.refl.then (State.event_touches ..))))

theorem State.spareWrite_touches (s : State) (c : ℕ) (w : ℕ) :
    Touches [.evr, .regs, .ev, .mcs] s (s.spareWrite c w) := by
  unfold State.spareWrite
  extract_lets +onlyGivenNames r s1
  refine .via (t := s1) (((Touches.refl.then (State.setFld_part .regs _ _ _ _ _ (regPart_regs (le_index (le_mcBase _))))).then
        (State.setFld_part .regs _ _ _ _ _ (regPart_regs (le_index (le_mcBase
        _))))).then (State.setFld_part .regs _ _ _ _ _ (regPart_regs (le_index (le_mcBase _))))) fun hs1 => ?_
  generalize s1 = s1 at hs1 ⊢
  extract_lets +onlyGivenNames s2
  refine .via (t := s2) (.ite (hs1.then (State.setBit_part .regs _ _ _ _ (regPart_regs (le_index (le_mcBase _))))) hs1) fun hs2 => ?_
  generalize s2 = s2 at hs2 ⊢
  exact (.ite (hs2.then (State.retire_touches ..)) (.ite (hs2.then (State.setMc_touches ..)) hs2))

theorem State.supersede_touches (s : State) (r : ModeReq) :
    Touches [.evr, .regs, .ev, .tkts] s (s.supersede r) := by
  unfold State.supersede
  extract_lets +onlyGivenNames s1
  refine .via (t := s1) ?_ fun hs1 => ?_
  · unfold s1
    split
    · exact (.ite (Touches.refl.then (State.setTkt_touches ..)) Touches.refl)
    · exact Touches.refl
  generalize s1 = s1 at hs1 ⊢
  split
  · exact (hs1.then (State.event_touches ..))
  · exact (hs1.then (State.event_touches ..))
  · exact hs1

theorem State.modeQueue_touches (s : State) (r : ModeReq) :
    Touches [.mr, .evr, .regs, .ev, .tkts, .pw] s (s.modeQueue r) := by
  unfold State.modeQueue
  extract_lets +onlyGivenNames s1
  refine .via (t := s1) ?_ fun hs1 => ?_
  · unfold s1
    split
    · exact (Touches.refl.then (State.supersede_touches ..))
    · exact Touches.refl
  generalize s1 = s1 at hs1 ⊢
  exact ((hs1.then .setPw).then (State.showMode_touches ..))

theorem State.setTrig_touches (s : State) (u : ℕ) (v : TrigRt) :
    Touches [.so] s (s.setTrig u v) := by
  unfold State.setTrig
  exact (Touches.refl.then .setSo)

theorem State.trigUnload_touches (s : State) (u : ℕ) :
    Touches [.regs, .fab, .so] s (s.trigUnload u) := by
  unfold State.trigUnload
  split
  · extract_lets +onlyGivenNames s1
    refine .via (t := s1) (.each (Touches.refl.then (State.wr_part .regs _ _ _ (regPart_regs (le_index (le_index (by decide)))))) fun _
          _ => (Touches.refl.then (State.wr_part .regs _ _ _ (regPart_regs (le_index (le_index (le_index (by
          decide)))))))) fun hs1 => ?_
    generalize s1 = s1 at hs1 ⊢
    extract_lets +onlyGivenNames src s2
    refine .via (t := s2) (hs1.then (State.setTile_touches ..)) fun hs2 => ?_
    generalize s2 = s2 at hs2 ⊢
    exact ((hs2.then (State.setTrig_touches ..)).then (State.setBit_part .regs _ _ _ _ (regPart_regs (le_index (by decide)))))
  · exact Touches.refl

theorem State.trigSweep_touches (s : State) :
    Touches [.regs, .fab, .so] s (s.trigSweep) := by
  unfold State.trigSweep
  exact (.each Touches.refl fun _ _ => (Touches.refl.then (State.trigUnload_touches ..)))

theorem State.setRun_touches (s : State) (r : ℕ) (v : Run) :
    Touches [.runs] s (s.setRun r v) := by
  unfold State.setRun
  exact (Touches.refl.then .setRuns)

theorem State.leavePort_touches (s : State) (n : ℕ) (k : ℕ) (e : BpRec) :
    Touches [.regs, .fab, .runs] s (s.leavePort n k e) := by
  unfold State.leavePort
  extract_lets +onlyGivenNames s1
  refine .via (t := s1) (((Touches.refl.then (State.setBit_part .regs _ _ _ _ (regPart_regs (le_index (le_index (by decide)))))).then
        (State.setBit_part .regs _ _ _ _ (regPart_regs (le_index (le_index (by
        decide)))))).then (State.setMmp_touches ..)) fun hs1 => ?_
  generalize s1 = s1 at hs1 ⊢
  exact (.ite hs1 (hs1.then (State.setRun_touches ..)))

theorem State.releaseTile_touches (s : State) (i : ℕ) (e : BpRec) :
    Touches [.regs, .fab, .runs] s (s.releaseTile i e) := by
  unfold State.releaseTile
  extract_lets +onlyGivenNames n rest s1
  refine .via (t := s1) (.each Touches.refl fun _ _ => (.ite (Touches.refl.then (State.setBit_part .regs _ _ _ _ (regPart_regs (le_index
        (le_index (by decide)))))) Touches.refl)) fun hs1 => ?_
  generalize s1 = s1 at hs1 ⊢
  extract_lets +onlyGivenNames s2
  refine .via (t := s2) (.each hs1 fun _ _ => (.ite (Touches.refl.then (State.setBit_part .regs _ _ _ _ (regPart_regs (le_index
        (le_index (le_index (by decide))))))) Touches.refl)) fun hs2 => ?_
  generalize s2 = s2 at hs2 ⊢
  extract_lets +onlyGivenNames s3
  refine .via (t := s3) ?_ fun hs3 => ?_
  · unfold s3
    split
    · exact (hs2.then (State.leavePort_touches ..))
    · exact hs2
  generalize s3 = s3 at hs3 ⊢
  exact (.each hs3 fun _ _ => (.ite (Touches.refl.then (State.setBit_part .regs _ _ _ _ (regPart_regs (le_index (le_index (by
        decide)))))) Touches.refl))

theorem State.setBpRec_touches (s : State) (i : ℕ) (v : BpRec) :
    Touches [.bps] s (s.setBpRec i v) := by
  unfold State.setBpRec
  exact (Touches.refl.then .setBps)

theorem State.scrubEn_touches (s : State) (i : ℕ) (v : Bool) :
    Touches [.regs, .fab] s (s.scrubEn i v) := by
  unfold State.scrubEn
  extract_lets +onlyGivenNames n t cut
  exact (.then (.ite (Touches.refl.then (State.setTile_touches ..)) Touches.refl) (State.setBit_part .regs _ _ _ _ (regPart_regs
        (le_index (le_index (by decide))))))

theorem State.setOwner_touches (s : State) (n : ℕ) (b : ℕ) (deep : Bool) (m : ℕ) (o : Option ℕ) :
    Touches [.regs] s (s.setOwner n b deep m o) := by
  unfold State.setOwner
  extract_lets +onlyGivenNames r
  split
  · exact (Touches.refl.then (State.setFld_part .regs _ _ _ _ _ (regPart_ite (regPart_regs (le_index (le_index (le_index (by decide)))))
        (regPart_regs (le_index (le_index (le_index (by decide))))))))
  · exact (Touches.refl.then (State.setFld_part .regs _ _ _ _ _ (regPart_ite (regPart_regs (le_index (le_index (le_index (by decide)))))
        (regPart_regs (le_index (le_index (le_index (by decide))))))))

theorem State.ownMems_touches (s : State) (i : ℕ) (p : PageD) (o : Option ℕ) :
    Touches [.regs] s (s.ownMems i p o) := by
  unfold State.ownMems
  exact (.each (.each Touches.refl fun _ _ => (Touches.refl.then (State.setOwner_touches ..))) fun _ _ => (Touches.refl.then
        (State.setOwner_touches ..)))

theorem State.relHoldNow_touches (s : State) (i : ℕ) :
    Touches [.regs, .fab] s (s.relHoldNow i) := by
  unfold State.relHoldNow
  extract_lets +onlyGivenNames s1
  refine .via (t := s1) (((Touches.refl.then (State.setFld_part .regs _ _ _ _ _ (regPart_regs (le_index (le_index (le_index (by
        decide))))))).then
        (State.setBit_part .regs _ _ _ _ (regPart_regs (le_index (le_index (le_index (by
        decide))))))).then (State.setBit_part .regs _ _ _ _ (regPart_regs (le_index (le_index (le_index (by decide))))))) fun hs1 => ?_
  generalize s1 = s1 at hs1 ⊢
  exact ((hs1.then (State.setFld_part .regs _ _ _ _ _ (regPart_regs (le_index (le_index (le_index (by decide))))))).then
        (State.setBp_touches ..))

theorem State.evictBp_touches (s : State) (i : ℕ) :
    Touches [.regs, .fab, .runs, .bps] s (s.evictBp i) := by
  unfold State.evictBp
  extract_lets +onlyGivenNames e
  exact (.ite Touches.refl ((((((Touches.refl.then (State.scrubEn_touches ..)).then (State.ownMems_touches ..)).then
        (State.relHoldNow_touches
        ..)).then (State.setBp_touches ..)).then (State.setBpRec_touches ..)).then (State.releaseTile_touches ..)))

theorem State.holdAll_touches (s : State) (r : ℕ) :
    Touches [.regs, .fab] s (s.holdAll r) := by
  unfold State.holdAll
  exact (.each Touches.refl fun _ _ => (Touches.refl.then (State.relHoldNow_touches ..)))

theorem State.cachePut_touches (s : State) (h : ℕ) (e : PmEnt) :
    Touches [.draw, .cache] s (s.cachePut h e) := by
  unfold State.cachePut
  exact (.ite (Touches.refl.then .setCache) ((Touches.refl.then .setCache).then (State.drawn_touches ..)))

theorem State.pmPut_touches (s : State) (h : ℕ) (e : PmEnt) :
    Touches [.evr, .regs, .mem, .draw, .fab, .so, .cache, .ev, .rnd, .mcs, .ic, .dbg] s (s.pmPut h e) := by
  unfold State.pmPut
  extract_lets +onlyGivenNames old src s1
  refine .via (t := s1) (.ite (Touches.refl.then .setSo) Touches.refl) fun hs1 => ?_
  generalize s1 = s1 at hs1 ⊢
  exact (.then (hs1.then (State.cachePut_touches ..)) (State.dramWrite_touches ..))

theorem State.giveUp_touches (s : State) (r : ℕ) :
    Touches [.runs] s (s.giveUp r) := by
  unfold State.giveUp
  exact (.each Touches.refl fun _ _ => (Touches.refl.then (State.setRun_touches ..)))

theorem State.compactDone_touches (s : State) (r : ℕ) (saved : Bool) :
    Touches [.regs, .so, .runs, .bps, .cache, .alloc, .snaps, .tkts] s (s.compactDone r saved) := by
  unfold State.compactDone
  extract_lets +onlyGivenNames mine rest
  exact (.each (Touches.refl.then .setSo) fun _ _ => (.ite (.ite ((Touches.refl.then (State.tktProgress_touches ..)).then
        .setSoRunsBpsCacheAllocSnaps) Touches.refl) (.then (.then (.ite ((Touches.refl.then (State.tktProgress_touches ..)).then
        .setSoRunsBpsCacheAllocSnaps) Touches.refl) (State.tktEnd_touches ..)) .setSoRunsBpsCacheAllocSnaps)))

theorem State.stepDrop_touches (s : State) (r : ℕ) (err : ℕ) :
    Touches [.regs, .fab, .so, .tkts] s (s.stepDrop r err) := by
  unfold State.stepDrop
  split
  · exact Touches.refl
  · extract_lets +onlyGivenNames src s1
    refine .via (t := s1) (Touches.refl.then .setSo) fun hs1 => ?_
    generalize s1 = s1 at hs1 ⊢
    exact (.then (.each hs1 fun _ _ => (Touches.refl.then (State.holdApply_touches ..))) (State.tktEnd_touches ..))

theorem State.runFault_touches (s : State) (r : ℕ) :
    Touches [.mr, .evr, .regs, .fab, .so, .runs, .bps, .cache, .alloc, .snaps, .ev, .tkts, .pw] s (s.runFault r) := by
  unfold State.runFault
  extract_lets +onlyGivenNames x
  exact (.ite Touches.refl (.ite ((((((Touches.refl.then (State.setRun_touches ..)).then (State.tktEnd?_touches ..)).then
        (State.giveUp_touches
        ..)).then
        (State.compactDone_touches ..)).then (State.stepDrop_touches ..)).then (State.modeQueue_touches ..)) (((((Touches.refl.then
        (State.setRun_touches
        ..)).then
        (State.tktEnd?_touches
        ..)).then (State.giveUp_touches ..)).then (State.compactDone_touches ..)).then (State.stepDrop_touches ..))))

theorem State.pmFail_touches (s : State) (h : ℕ) (run : ℕ) :
    Touches [.mr, .evr, .regs, .fab, .so, .runs, .bps, .cache, .alloc, .snaps, .ev, .tkts, .pw] s (s.pmFail h run) := by
  unfold State.pmFail
  extract_lets +onlyGivenNames t
  refine .via (t := t) ((Touches.refl.then (State.count_part .regs _ _ _ _ _ rfl)).then (State.event_touches ..)) fun ht => ?_
  generalize t = t at ht ⊢
  exact (.each ht fun _ _ => (Touches.refl.then (State.runFault_touches ..)))

theorem State.pmGet_touches (s : State) (h : ℕ) (run : ℕ) :
    Carries [.mr, .evr, .regs, .mem, .draw, .fab, .so, .runs, .bps, .cache, .alloc, .snaps, .ev, .rnd, .mcs, .ic, .dbg, .tkts,
          .pw] s Prod.fst (s.pmGet h run) := by
  unfold State.pmGet
  split
  · exact (.pair Touches.refl)
  · extract_lets +onlyGivenNames g
    refine .viaOf Got.st g (.then Touches.refl (State.dramRead_touches ..)) fun hg => ?_
    generalize g = g at hg ⊢
    extract_lets +onlyGivenNames s1
    refine .via (t := s1) (hg.then (State.count_part .regs _ _ _ _ _ rfl)) fun hs1 => ?_
    generalize s1 = s1 at hs1 ⊢
    exact (.ite (.pair (hs1.then (State.cachePut_touches ..))) (.pair ((hs1.then (State.cachePut_touches ..)).then (State.pmFail_touches
          ..))))

theorem State.pmFree_touches (s : State) (h : ℕ) :
    Touches [.mr, .evr, .regs, .mem, .draw, .fab, .so, .runs, .bps, .cache, .alloc, .snaps, .ev, .rnd, .mcs, .ic, .dbg, .tkts,
          .pw] s (s.pmFree h) := by
  unfold State.pmFree
  split
  rename_i x t e heq
  refine .viaEq Prod.fst heq (.then Touches.refl (State.pmGet_touches ..)) fun ht => ?_
  exact (.ite ht ((ht.then .setAlloc).then (State.pmPut_touches ..)))

theorem State.setDesign_touches (s : State) (d : ℕ) (v : Design) :
    Touches [.so] s (s.setDesign d v) := by
  unfold State.setDesign
  exact (Touches.refl.then .setSo)

theorem State.loadFail_touches (s : State) (j : ℕ) (st : ℕ) (err : ℕ) :
    Touches [.mr, .evr, .regs, .mem, .draw, .fab, .so, .runs, .bps, .cache, .alloc, .snaps, .fk, .ev, .rnd, .mcs, .ic, .dbg, .tkts, .pw,
          .fl] s (s.loadFail j st err) := by
  unfold State.loadFail
  extract_lets +onlyGivenNames l s1
  refine .via (t := s1) ?_ fun hs1 => ?_
  · unfold s1
    split
    · exact (.then (.each Touches.refl fun _ _ => (Touches.refl.then (State.pmFree_touches ..))) (State.setDesign_touches ..))
    · exact Touches.refl
  generalize s1 = s1 at hs1 ⊢
  extract_lets +onlyGivenNames s2
  refine .via (t := s2) (.each hs1 fun _ _ => (Touches.refl.then (State.evictBp_touches ..))) fun hs2 => ?_
  generalize s2 = s2 at hs2 ⊢
  extract_lets +onlyGivenNames src src' s3
  refine .via (t := s3) (hs2.then (.upd [.fk, .fl])) fun hs3 => ?_
  generalize s3 = s3 at hs3 ⊢
  exact (hs3.then (State.tktEnd_touches ..))

theorem State.pageStoreLost_touches (s : State) :
    Touches [.mr, .evr, .regs, .mem, .draw, .fab, .so, .runs, .bps, .cache, .alloc, .snaps, .fk, .ev, .rnd, .mcs, .ic, .dbg, .vl, .tkts,
          .pw, .fl] s (s.pageStoreLost) := by
  unfold State.pageStoreLost
  extract_lets +onlyGivenNames s1
  refine .via (t := s1) (.each Touches.refl fun _ _ => (Touches.refl.then (State.loadFail_touches ..))) fun hs1 => ?_
  generalize s1 = s1 at hs1 ⊢
  extract_lets +onlyGivenNames s2
  refine .via (t := s2) ?_ fun hs2 => ?_
  · unfold s2
    refine (.each hs1 fun t e => ?_)
    extract_lets +onlyGivenNames u
    refine .via (t := u) (.then (.each (Touches.refl.then (State.holdAll_touches ..)) fun _ _ => (Touches.refl.then
          (State.evictBp_touches ..))) (State.tktEnd?_touches ..)) fun hu => ?_
    generalize u = u at hu ⊢
    split
    · exact (hu.then (State.tktEnd?_touches ..))
    · exact hu
  generalize s2 = s2 at hs2 ⊢
  extract_lets +onlyGivenNames s3
  refine .via (t := s3) (.each hs2 fun _ _ => (Touches.refl.then (State.tktEnd?_touches ..))) fun hs3 => ?_
  generalize s3 = s3 at hs3 ⊢
  extract_lets +onlyGivenNames excl s4
  refine .via (t := s4) (.each (.each hs3 fun _ _ => (Touches.refl.then (State.tktEnd_touches ..))) fun _ _ => (Touches.refl.then
        (State.tktEnd_touches ..))) fun hs4 => ?_
  generalize s4 = s4 at hs4 ⊢
  extract_lets +onlyGivenNames src src' src'' s5
  refine .via (t := s5) ((hs4.then (.upd [.so, .runs, .cache, .alloc, .snaps, .vl, .pw])).then (State.trigSweep_touches
        ..)) fun hs5 => ?_
  generalize s5 = s5 at hs5 ⊢
  exact (.ite (hs5.then (State.modeQueue_touches ..)) hs5)

theorem State.spareEn_touches (s : State) (c : ℕ) (v : Bool) :
    Touches [.mr, .evr, .regs, .mem, .draw, .fab, .so, .runs, .bps, .cache, .alloc, .snaps, .fk, .ev, .rnd, .mcs, .ic, .dbg, .vl, .tkts,
          .pw, .fl] s (s.spareEn c v) := by
  unfold State.spareEn
  exact (.ite Touches.refl (.ite (.then (.then (.then (.then (.then (.then (.ite (Touches.refl.then (State.dramLost_touches ..))
        (Touches.refl.then (State.chanZero_touches
        ..)))
        (State.setMc_touches ..)) (State.setBit_part .regs _ _ _ _ (regPart_regs (le_index (le_mcBase
        _)))))
        (State.setBit_part .regs _ _ _ _ (regPart_regs (le_index (le_mcBase _))))) (State.setBit_part .regs _ _ _ _ (regPart_regs
        (le_index (le_mcBase _))))) (State.setBit_part .regs _ _ _ _ (regPart_regs (le_index (le_mcBase
        _))))) (State.pageStoreLost_touches ..)) (.then (.then (.then (.then (.then (.ite (Touches.refl.then (State.dramLost_touches
        ..))
        (Touches.refl.then (State.chanZero_touches
        ..)))
        (State.setMc_touches ..)) (State.setBit_part .regs _ _ _ _ (regPart_regs (le_index (le_mcBase
        _)))))
        (State.setBit_part .regs _ _ _ _ (regPart_regs (le_index (le_mcBase _))))) (State.setBit_part .regs _ _ _ _ (regPart_regs
        (le_index (le_mcBase _))))) (State.setBit_part .regs _ _ _ _ (regPart_regs (le_index (le_mcBase _)))))))

theorem State.mcWrite_touches (s : State) (a : ℕ) (w : ℕ) :
    Touches [.pm, .mr, .ep, .evr, .regs, .loStage, .mem, .draw, .fab, .so, .runs, .bps, .cache, .alloc, .snaps, .fk, .ev, .rnd, .mcs,
          .ic, .dbg, .vl, .tkts, .pw, .fl] s (s.mcWrite a w) := by
  unfold State.mcWrite
  extract_lets +onlyGivenNames c o
  exact (.ite (.then (.then (.then (.ite (Touches.refl.then (State.setMc_touches ..)) Touches.refl) (State.plainWrite_touches ..))
        (State.setBit_part .regs _ _ _ _ (regPart_regs (le_index (le_mcBase
        _)))))
        (State.spareEn_touches ..)) (.ite (Touches.refl.then (State.spareWrite_touches ..)) (.ite (Touches.refl.then
        (State.trainingOp_touches ..)) (.ite (Touches.refl.then (State.delayWrite_touches ..)) (.ite (Touches.refl.then
        (State.mrAccess_touches ..)) (.ite (.ite (.then (.ite ((Touches.refl.then (State.plainWrite_touches ..)).then
        (State.isolate_touches ..)) (Touches.refl.then (State.plainWrite_touches
        ..)))
        (State.isoRelease_touches ..)) (.ite ((Touches.refl.then (State.plainWrite_touches ..)).then (State.isolate_touches
        ..)) (Touches.refl.then (State.plainWrite_touches ..)))) (Touches.refl.then (State.anyWrite_touches ..))))))))

theorem State.trigLoad_touches (s : State) (u : ℕ) :
    Touches [.evr, .regs, .so, .ev] s (s.trigLoad u) := by
  unfold State.trigLoad
  extract_lets +onlyGivenNames r bps taps tiles lowest byMode refuse
  split
  · exact Touches.refl
  · split
    · exact ((Touches.refl.then (State.setBit_part .regs _ _ _ _ (regPart_regs (le_index (by decide))))).then (State.event_touches ..))
    · extract_lets +onlyGivenNames n
      split
      · exact ((Touches.refl.then (State.setBit_part .regs _ _ _ _ (regPart_regs (le_index (by decide))))).then (State.event_touches
            ..))
      · extract_lets +onlyGivenNames s1
        refine .via (t := s1) (Touches.refl.then (State.wr_part .regs _ _ _ (regPart_regs (le_index (le_index (by
              decide)))))) fun hs1 => ?_
        generalize s1 = s1 at hs1 ⊢
        extract_lets +onlyGivenNames s2
        refine .via (t := s2) (.each hs1 fun _ _ => (Touches.refl.then (State.wr_part .regs _ _ _ (regPart_regs (le_index (le_index
              (le_index (by decide)))))))) fun hs2 => ?_
        generalize s2 = s2 at hs2 ⊢
        extract_lets +onlyGivenNames s3
        refine .via (t := s3) (.each hs2 fun _ _ => (Touches.refl.then (State.wr_part .regs _ _ _ (regPart_regs (le_index (le_index
              (le_index (by decide)))))))) fun hs3 => ?_
        generalize s3 = s3 at hs3 ⊢
        exact ((hs3.then (State.setTrig_touches ..)).then (State.setBit_part .regs _ _ _ _ (regPart_regs (le_index (by decide)))))

theorem State.trigArm_touches (s : State) (u : ℕ) (at' : Option ℕ) :
    Touches [.regs, .so] s (s.trigArm u at') := by
  unfold State.trigArm
  exact (((Touches.refl.then (State.setBit_part .regs _ _ _ _ (regPart_regs (le_index (by decide))))).then (State.setFld_part .regs _ _
        _ _ _ (regPart_regs (le_index (by decide))))).then (State.setTrig_touches ..))

theorem State.trigEnable_touches (s : State) (u : ℕ) :
    Touches [.evr, .regs, .so, .ev] s (s.trigEnable u) := by
  unfold State.trigEnable
  exact (.ite Touches.refl (.ite (Touches.refl.then (State.setBit_part .regs _ _ _ _ (regPart_regs (le_index (by decide))))) (.then
        (.ite ((Touches.refl.then (State.setBit_part .regs _ _ _ _ (regPart_regs (le_index (by decide))))).then (State.trigArm_touches
        ..)) (Touches.refl.then (State.setBit_part .regs _ _ _ _ (regPart_regs (le_index (by decide)))))) (State.trigLoad_touches ..))))

theorem State.trigDisarm_touches (s : State) (u : ℕ) :
    Touches [.regs, .so] s (s.trigDisarm u) := by
  unfold State.trigDisarm
  exact ((Touches.refl.then (State.setBit_part .regs _ _ _ _ (regPart_regs (le_index (by decide))))).then (State.setTrig_touches ..))

theorem State.trigDisable_touches (s : State) (u : ℕ) :
    Touches [.regs, .fab, .so] s (s.trigDisable u) := by
  unfold State.trigDisable
  exact ((((Touches.refl.then (State.setBit_part .regs _ _ _ _ (regPart_regs (le_index (by decide))))).then (State.trigUnload_touches
        ..)).then (State.trigDisarm_touches ..)).then (State.setFld_part .regs _ _ _ _ _ (regPart_regs (le_index (by decide)))))

theorem State.trgWrite_touches (s : State) (u : ℕ) (a : ℕ) (w : ℕ) :
    Touches [.pm, .mr, .ep, .evr, .regs, .loStage, .fab, .so, .ev] s (s.trgWrite u a w) := by
  unfold State.trgWrite
  extract_lets +onlyGivenNames o
  exact (.ite (.ite (.ite Touches.refl (Touches.refl.then (State.trigDisable_touches ..))) (.ite ((Touches.refl.then
        (State.plainWrite_touches ..)).then (State.trigEnable_touches ..)) ((Touches.refl.then (State.plainWrite_touches
        ..)).then (State.setFld_part .regs _ _ _ _ _ (regPart_regs (le_index (by
        decide)))))))
        (.ite (Touches.refl.then (State.plainWrite_touches ..)) (.ite Touches.refl (Touches.refl.then (State.anyWrite_touches ..)))))

theorem State.psLimit_touches (s : State) (w : ℕ) :
    Touches [.regs] s (s.psLimit w) := by
  unfold State.psLimit
  extract_lets +onlyGivenNames l
  exact (.ite Touches.refl (Touches.refl.then (State.setFld_part .regs _ _ _ _ _ rfl)))

theorem State.pmInval_touches (s : State) :
    Touches [.regs, .so] s (s.pmInval) := by
  unfold State.pmInval
  exact ((Touches.refl.then .setSo).then (State.setBit_part .regs _ _ _ _ rfl))

theorem State.updConfirm_touches (s : State) (key : ℕ) :
    Touches [.regs, .fl] s (s.updConfirm key) := by
  unfold State.updConfirm
  exact (.ite (.ite ((Touches.refl.then (State.bootWrite_touches ..)).then (State.wr_part .regs _ _ _ rfl)) Touches.refl)
        (Touches.refl.then (State.setBit_part .regs _ _ _ _ rfl)))

theorem State.setVt_touches (s : State) (c : ℕ) (v : VtSt) :
    Touches [.dbg] s (s.setVt c v) := by
  unfold State.setVt
  exact (Touches.refl.then (State.setCore_touches ..))

theorem State.vtWord_touches (s : State) (c : ℕ) (toCore : Bool) (w : ℕ) :
    Touches [.dbg] s (s.vtWord c toCore w) := by
  unfold State.vtWord
  extract_lets +onlyGivenNames v typ
  exact (.ite (.ite Touches.refl (.ite (Touches.refl.then (State.setVt_touches ..)) (Touches.refl.then (State.setVt_touches ..)))) (.ite
        (.ite (.ite (Touches.refl.then (State.setVt_touches ..)) (Touches.refl.then (State.setVt_touches ..))) (.ite (Touches.refl.then
        (State.setVt_touches ..)) (.ite (Touches.refl.then (State.setVt_touches
        ..))
        Touches.refl))) (.ite (.ite (Touches.refl.then (State.setVt_touches ..)) (Touches.refl.then (State.setVt_touches
        ..))) Touches.refl)))

theorem State.lbRxWrite_touches (s : State) (c : ℕ) (w : ℕ) :
    Touches [.regs, .dbg] s (s.lbRxWrite c w) := by
  unfold State.lbRxWrite
  exact (.ite (Touches.refl.then (State.setBit_part .regs _ _ _ _ (regPart_regs (le_index (by decide))))) (((Touches.refl.then
        (State.wr_part .regs _ _ _ (regPart_regs (le_index (by decide))))).then (State.setBit_part .regs _ _ _ _ (regPart_regs (le_index
        (by decide))))).then (State.vtWord_touches ..)))

theorem State.lbTxWrite_touches (s : State) (c : ℕ) (w : ℕ) :
    Touches [.regs, .dbg] s (s.lbTxWrite c w) := by
  unfold State.lbTxWrite
  exact (.ite (Touches.refl.then (State.setBit_part .regs _ _ _ _ (regPart_regs (le_index (by decide))))) (((Touches.refl.then
        (State.wr_part .regs _ _ _ (regPart_regs (le_index (by decide))))).then (State.setBit_part .regs _ _ _ _ (regPart_regs (le_index
        (by decide))))).then (State.vtWord_touches ..)))

theorem State.coreRegWrite_touches (s : State) (c : ℕ) (v : ℕ) :
    Touches [.regs, .dbg] s (s.coreRegWrite c v) := by
  unfold State.coreRegWrite
  extract_lets +onlyGivenNames i
  exact (.ite Touches.refl (.ite ((Touches.refl.then (State.setCore_touches ..)).then (State.setFld_part .regs _ _ _ _ _ (regPart_regs
        (le_index (by decide))))) (Touches.refl.then (State.setCore_touches ..))))

theorem State.regdataWrite_touches (s : State) (c : ℕ) (hi : Bool) (w : ℕ) :
    Touches [.regs, .loStage, .dbg] s (s.regdataWrite c hi w) := by
  unfold State.regdataWrite
  extract_lets +onlyGivenNames lo
  exact (.ite ((Touches.refl.then .setLoStage).then (State.coreRegWrite_touches ..)) (Touches.refl.then .setLoStage))

theorem State.coreRelease_touches (s : State) (c : ℕ) :
    Touches [.regs, .dbg] s (s.coreRelease c) := by
  unfold State.coreRelease
  extract_lets +onlyGivenNames src s1
  refine .via (t := s1) (Touches.refl.then (State.setCore_touches ..)) fun hs1 => ?_
  generalize s1 = s1 at hs1 ⊢
  extract_lets +onlyGivenNames s2
  refine .via (t := s2) (((hs1.then (State.setBit_part .regs _ _ _ _ (regPart_regs (le_index (by decide))))).then (State.setFld_part
        .regs _ _ _ _ _ (regPart_regs (le_index (by decide))))).then (State.setBit_part .regs _ _ _ _ (regPart_regs (le_index (by
        decide))))) fun hs2 => ?_
  generalize s2 = s2 at hs2 ⊢
  exact (.ite ((hs2.then (State.wr_part .regs _ _ _ (regPart_regs (le_index (by decide))))).then (State.setBit_part .regs _ _ _ _
        (regPart_regs (le_index (by decide))))) hs2)

theorem State.coreCtrl_touches (s : State) (c : ℕ) (w : ℕ) :
    Touches [.regs, .dbg] s (s.coreCtrl c w) := by
  unfold State.coreCtrl
  exact (.ite Touches.refl (.ite (.ite ((Touches.refl.then (State.coreRelease_touches ..)).then (State.setCore_touches ..)) (.ite
        ((Touches.refl.then (State.coreRelease_touches ..)).then (State.setCore_touches
        ..)) Touches.refl)) (.ite (Touches.refl.then (State.haltAsk_touches ..)) Touches.refl)))

theorem State.wakeRows_touches (s : State) :
    Touches [.pm, .mr, .regs, .draw, .tal, .dbg, .pw] s (s.wakeRows) := by
  unfold State.wakeRows
  extract_lets +onlyGivenNames row src s1
  refine .via (t := s1) (Touches.refl.then .setPw) fun hs1 => ?_
  generalize s1 = s1 at hs1 ⊢
  exact ((((hs1.then (State.wakeClear_touches ..)).then (State.setBit_part .pm _ _ _ _ rfl)).then (State.setMode_touches ..)).then
        (State.startRow_touches ..))

theorem State.wakeBy_touches (s : State) (src : ℕ) :
    Touches [.pm, .mr, .regs, .draw, .tal, .dbg, .pw] s (s.wakeBy src) := by
  unfold State.wakeBy
  exact (.ite Touches.refl (.ite (Touches.refl.then .setPw) ((Touches.refl.then (State.setFld_part .pm _ _ _ _ _ rfl)).then
        (State.wakeRows_touches ..))))

theorem State.dbgModeReq_touches (s : State) (w : ℕ) :
    Touches [.pm, .mr, .evr, .regs, .draw, .ev, .tal, .dbg, .tkts, .pw] s (s.dbgModeReq w) := by
  unfold State.dbgModeReq
  extract_lets +onlyGivenNames m
  exact (.ite Touches.refl (.ite (.ite (Touches.refl.then (State.wakeBy_touches ..)) Touches.refl) (Touches.refl.then
        (State.modeQueue_touches ..))))

theorem State.dbgWrite_touches (s : State) (a : ℕ) (w : ℕ) :
    Touches [.pm, .mr, .ep, .evr, .regs, .loStage, .draw, .ev, .tal, .dbg, .tkts, .pw] s (s.dbgWrite a w) := by
  unfold State.dbgWrite
  exact (.ite (Touches.refl.then (State.dbgModeReq_touches ..)) (.ite (.ite ((Touches.refl.then (State.plainWrite_touches ..)).then
        (State.coreCtrl_touches ..)) (.ite (Touches.refl.then (State.regdataWrite_touches ..)) (.ite (Touches.refl.then
        (State.regdataWrite_touches ..)) (.ite (Touches.refl.then (State.lbTxWrite_touches ..)) (.ite (Touches.refl.then
        (State.lbRxWrite_touches ..)) (Touches.refl.then (State.anyWrite_touches
        ..))))))) (.ite (Touches.refl.then (State.wdtKick_touches ..)) (Touches.refl.then (State.plainWrite_touches ..)))))

theorem State.spForeign_touches (s : State) (b : ℕ) :
    Touches [.regs] s (s.spForeign b) := by
  unfold State.spForeign
  exact (Touches.refl.then (State.setBit_part .regs _ _ _ _ (regPart_regs (le_index (by decide)))))

theorem State.spWriteOwner_touches (s : State) (b : ℕ) (mid : ℕ) (owner : ℕ) :
    Touches [.regs, .sp] s (s.spWriteOwner b mid owner) := by
  unfold State.spWriteOwner
  exact (.ite (Touches.refl.then (State.setFld_part .regs _ _ _ _ _ (regPart_regs (le_index (by decide))))) (.ite ((Touches.refl.then
        .setSp).then (State.setBit_part .regs _ _ _ _ (regPart_regs (le_index (by
        decide))))) (Touches.refl.then (State.spForeign_touches ..))))

theorem State.setPower_touches (s : State) (b : ℕ) (v : ℕ) :
    Touches [.regs] s (s.setPower b v) := by
  unfold State.setPower
  exact (Touches.refl.then (State.setFld_part .regs _ _ _ _ _ (regPart_regs (le_index (by decide)))))

theorem State.spLost_touches (s : State) (b : ℕ) :
    Touches [.mr, .ep, .evr, .regs, .loStage, .mem, .fab, .so, .runs, .bps, .cache, .alloc, .snaps, .fk, .ev, .rnd, .tal, .mcs, .ic,
          .dbg, .vl, .tkts, .handed, .replies, .cr, .pw, .chg, .fl, .sp] s (s.spLost b) := by
  unfold State.spLost
  exact (Touches.refl.then (State.domLost_touches ..))

theorem State.spDown_touches (s : State) (b : ℕ) :
    Touches [.pm, .regs, .doms] s (s.spDown b) := by
  unfold State.spDown
  exact (.ite ((Touches.refl.then (State.setDom_touches ..)).then (State.setPower_touches ..)) Touches.refl)

theorem State.domWake_touches (s : State) (d : ℕ) :
    Touches [.pm, .regs, .doms] s (s.domWake d) := by
  unfold State.domWake
  exact (.then (.each Touches.refl fun _ _ => (Touches.refl.then (State.domWake1_touches ..))) (State.domWake1_touches ..))

theorem State.spState_touches (s : State) (b : ℕ) (v : ℕ) :
    Touches [.pm, .mr, .ep, .evr, .regs, .loStage, .mem, .fab, .so, .runs, .bps, .cache, .alloc, .snaps, .fk, .ev, .rnd, .tal, .mcs,
          .ic, .dbg, .vl, .tkts, .handed, .replies, .cr, .pw, .doms, .chg, .fl, .sp] s (s.spState b v) := by
  unfold State.spState
  extract_lets +onlyGivenNames st s1
  refine .via (t := s1) (Touches.refl.then (State.setFld_part .regs _ _ _ _ _ (regPart_regs (le_index (by decide))))) fun hs1 => ?_
  generalize s1 = s1 at hs1 ⊢
  exact (.ite (.ite hs1 (hs1.then (State.domWake_touches ..))) (.ite (hs1.then (State.spDown_touches ..)) (.ite ((hs1.then
        (State.setPower_touches ..)).then (State.spLost_touches ..)) hs1)))

theorem State.spWriteState_touches (s : State) (b : ℕ) (mid : ℕ) (v : ℕ) :
    Touches [.pm, .mr, .ep, .evr, .regs, .loStage, .mem, .fab, .so, .runs, .bps, .cache, .alloc, .snaps, .fk, .ev, .rnd, .tal, .mcs,
          .ic, .dbg, .vl, .tkts, .handed, .replies, .cr, .pw, .doms, .chg, .fl, .sp] s (s.spWriteState b mid v) := by
  unfold State.spWriteState
  exact (.ite (Touches.refl.then (State.spForeign_touches ..)) (Touches.refl.then (State.spState_touches ..)))

theorem State.spCtrl_touches (s : State) (b : ℕ) (mid : ℕ) (w : ℕ) :
    Touches [.pm, .mr, .ep, .evr, .regs, .loStage, .mem, .fab, .so, .runs, .bps, .cache, .alloc, .snaps, .fk, .ev, .rnd, .tal, .mcs,
          .ic, .dbg, .vl, .tkts, .handed, .replies, .cr, .pw, .doms, .chg, .fl, .sp] s (s.spCtrl b mid w) := by
  unfold State.spCtrl
  extract_lets +onlyGivenNames st ow s1
  refine .via (t := s1) (.ite (Touches.refl.then (State.spWriteState_touches ..)) (.ite (Touches.refl.then (State.spForeign_touches ..))
        Touches.refl)) fun hs1 => ?_
  generalize s1 = s1 at hs1 ⊢
  exact (.ite (hs1.then (State.spWriteOwner_touches ..)) hs1)

theorem State.icRefused_touches (s : State) :
    Touches [.regs] s (s.icRefused) := by
  unfold State.icRefused
  exact (Touches.refl.then (State.setBit_part .regs _ _ _ _ rfl))

theorem State.regionZero_touches (s : State) (r : ℕ) :
    Touches [.regs, .ic] s (s.regionZero r) := by
  unfold State.regionZero
  exact (.ite ((((Touches.refl.then .setIc).then (State.setBit_part .regs _ _ _ _ (regPart_regs (le_index (by decide))))).then
        (State.setBit_part .regs _ _ _ _ (regPart_regs (le_index (by decide))))).then (State.wr64_part .regs _ _ _ _ (regPart_regs
        (le_index (by decide))) (regPart_regs (le_index (by decide))))) (Touches.refl.then (State.icRefused_touches ..)))

theorem State.regionEnable_touches (s : State) (r : ℕ) :
    Touches [.regs, .ic] s (s.regionEnable r) := by
  unfold State.regionEnable
  exact (.ite Touches.refl (.ite ((((Touches.refl.then .setIc).then (State.setBit_part .regs _ _ _ _ (regPart_regs (le_index (by
        decide))))).then
        (State.wr_part .regs _ _ _ (regPart_regs (le_index (by decide))))).then (State.wr_part .regs _ _ _ (regPart_regs (le_index (by
        decide))))) (Touches.refl.then (State.icRefused_touches ..))))

theorem State.regionDisable_touches (s : State) (r : ℕ) :
    Touches [.regs] s (s.regionDisable r) := by
  unfold State.regionDisable
  exact (.ite (Touches.refl.then (State.icRefused_touches ..)) (Touches.refl.then (State.setBit_part .regs _ _ _ _ (regPart_regs
        (le_index (by decide))))))

theorem State.icCtrl_touches (s : State) (r : ℕ) (w : ℕ) :
    Touches [.evr, .regs, .ev, .ic] s (s.icCtrl r w) := by
  unfold State.icCtrl
  extract_lets +onlyGivenNames t
  refine .via (t := t) (Touches.refl.then (State.setFld_part .regs _ _ _ _ _ (regPart_regs (le_index (by decide))))) fun ht => ?_
  generalize t = t at ht ⊢
  extract_lets +onlyGivenNames s1
  refine .via (t := s1) (.ite (.ite Touches.refl (Touches.refl.then (State.regionDisable_touches ..))) (.ite (.ite (ht.then
        (State.regionEnable_touches ..)) (Touches.refl.then (State.icRefused_touches ..))) ht)) fun hs1 => ?_
  generalize s1 = s1 at hs1 ⊢
  extract_lets +onlyGivenNames s2
  refine .via (t := s2) (.ite (hs1.then (State.regionZero_touches ..)) hs1) fun hs2 => ?_
  generalize s2 = s2 at hs2 ⊢
  exact (.ite (hs2.then (State.rekey_touches ..)) hs2)

theorem State.icCrWrite_touches (s : State) (o : ℕ) (w : Word) :
    Touches [.regs, .ic] s (s.icCrWrite o w) := by
  unfold State.icCrWrite
  exact (.ite (.ite (Touches.refl.then (State.icRefused_touches ..)) (Touches.refl.then (State.wr_part .regs _ _ _ rfl))) (.ite
        (Touches.refl.then (State.icRefused_touches ..)) (Touches.refl.then .setIc)))

theorem State.fkClear_touches (s : State) :
    Touches [.fk] s (s.fkClear) := by
  unfold State.fkClear
  exact (Touches.refl.then .setFk)

theorem State.fwProg_touches (s : State) : Touches [.regs, .fk] s s.fwProg := by
  unfold State.fwProg
  extract_lets k
  split <;> rename_i hk
  · exact (Touches.refl.then (State.setBit_part .regs _ _ _ _ rfl)).then (State.fkClear_touches ..)
  · refine .then (.then (.then .refl (.fk fun i => ?_)) (State.setBit_part .regs _ _ _ _ rfl)) (State.fkClear_touches ..)
    exact ⟨⟨fun _ h => h, id, fun _ _ h => h, fun _ h => h, fun _ _ => SMap.find_put_free hk, fun _ h => h⟩, i⟩

theorem State.fwRevoke_touches (s : State) : Touches [.regs, .fk] s s.fwRevoke := by
  unfold State.fwRevoke
  extract_lets k
  split
  · exact (Touches.refl.then (State.setBit_part .regs _ _ _ _ rfl)).then (State.fkClear_touches ..)
  · refine .then (.then (.then .refl (.fk fun i => ?_)) (State.setBit_part .regs _ _ _ _ rfl)) (State.fkClear_touches ..)
    exact ⟨⟨fun _ h => h, id, fun _ _ h => h, fun _ h => h, fun _ _ h => h, fun _ => List.mem_cons_of_mem _⟩, i⟩

theorem State.imgProg_touches (s : State) : Touches [.regs, .fk] s s.imgProg := by
  unfold State.imgProg
  extract_lets k
  split <;> rename_i hk
  · exact (Touches.refl.then (State.setBit_part .regs _ _ _ _ rfl)).then (State.fkClear_touches ..)
  · refine .then (.then (.then .refl (.fk fun i => ?_)) (State.setBit_part .regs _ _ _ _ rfl)) (State.fkClear_touches ..)
    exact ⟨⟨fun _ h => h, id, fun _ _ h => SMap.find_put_free hk h, fun _ h => h, fun _ _ h => h, fun _ h => h⟩, i⟩

theorem State.imgRevoke_touches (s : State) : Touches [.regs, .fk] s s.imgRevoke := by
  unfold State.imgRevoke
  extract_lets k
  split
  · exact (Touches.refl.then (State.setBit_part .regs _ _ _ _ rfl)).then (State.fkClear_touches ..)
  · refine .then (.then (.then .refl (.fk fun i => ?_)) (State.setBit_part .regs _ _ _ _ rfl)) (State.fkClear_touches ..)
    exact ⟨⟨fun _ h => h, id, fun _ _ h => h, fun _ h => List.mem_cons_of_mem _ h, fun _ _ h => h, fun _ h => h⟩, i⟩

theorem State.bkeyCommit_touches (s : State) :
    Touches [.regs, .fk] s (s.bkeyCommit) := by
  unfold State.bkeyCommit
  exact (.ite (Touches.refl.then (State.fkClear_touches ..)) (((Touches.refl.then .setFk).then (State.setBit_part .regs _ _ _ _
        rfl)).then (State.fkClear_touches ..)))

theorem State.bkeyErase_touches (s : State) :
    Touches [.regs, .fk] s (s.bkeyErase) := by
  unfold State.bkeyErase
  exact (((Touches.refl.then .setFk).then (State.setBit_part .regs _ _ _ _ rfl)).then (State.fkClear_touches ..))

theorem State.fuseProg_touches (s : State) : Touches [.regs, .fk] s s.fuseProg := by
  unfold State.fuseProg
  split <;> rename_i hk
  · exact (Touches.refl.then (State.setBit_part .regs _ _ _ _ rfl)).then (State.fkClear_touches ..)
  · have hn : s.fk.fuseKey = none := by simp at hk; exact hk.1
    refine .then (.then (.then (.then .refl (.fk fun _ => ?_)) (State.setBit_part .regs _ _ _ _ rfl))
      (State.setBit_part .regs _ _ _ _ rfl)) (State.fkClear_touches ..)
    exact ⟨FusesKept.refl s, fun _ => hn⟩

theorem State.forbidBkey_touches (s : State) : Touches [.regs, .fk] s s.forbidBkey := by
  unfold State.forbidBkey
  refine .then (.then .refl (.fk fun i => ?_)) (State.fkClear_touches ..)
  exact ⟨⟨fun _ h => h, fun _ => rfl, fun _ _ h => h, fun _ h => h, fun _ _ h => h, fun _ h => h⟩, i⟩

theorem State.fkUnlock_touches (s : State) (mid : ℕ) (key : ℕ) :
    Touches [.regs, .fk] s (s.fkUnlock mid key) := by
  unfold State.fkUnlock
  exact (.ite ((Touches.refl.then .setFk).then (State.setBit_part .regs _ _ _ _ rfl)) Touches.refl)

theorem State.fkClose_touches (s : State) :
    Touches [.regs, .fk] s (s.fkClose) := by
  unfold State.fkClose
  exact ((Touches.refl.then .setFk).then (State.setBit_part .regs _ _ _ _ rfl))

theorem State.fkAct_touches {P : List Part} {s t : State} {mid : Nat} {f : State → State} (h : Touches P s t)
    (hf : ∀ u, Touches P u (f u)) (hP : [.regs, .fk] ⊆ P := by decide) : Touches P s (t.fkAct mid f) := by
  unfold State.fkAct
  split
  · exact .then (.then h (State.fkClose_touches t) hP) (hf _) (List.Subset.refl P)
  · exact .then h ((Touches.refl.then (State.setBit_part .regs _ _ _ _ rfl)) : Touches [.regs, .fk] _ _) hP

theorem State.fkWrite_touches (s : State) (mid : ℕ) (a : ℕ) (w : ℕ) :
    Touches [.pm, .mr, .ep, .evr, .regs, .fk] s (s.fkWrite mid a w) := by
  unfold State.fkWrite
  extract_lets +onlyGivenNames act
  exact (.ite (Touches.refl.then (State.fkUnlock_touches ..)) (.ite (Touches.refl.then .setFk) (.ite (Touches.refl.then .setFk) (.ite
        (.ite (State.fkAct_touches (.ite (State.fkAct_touches Touches.refl fun _ => (Touches.refl.then (State.fuseProg_touches ..)))
        Touches.refl) fun _ => (Touches.refl.then (State.forbidBkey_touches
        ..))) (.ite (State.fkAct_touches Touches.refl fun _ => (Touches.refl.then (State.fuseProg_touches
        ..))) Touches.refl)) (.ite (.ite (State.fkAct_touches (.ite (State.fkAct_touches Touches.refl fun _ => (Touches.refl.then
        (State.bkeyCommit_touches
        ..)))
        Touches.refl) fun _ => (Touches.refl.then (State.bkeyErase_touches
        ..))) (.ite (State.fkAct_touches Touches.refl fun _ => (Touches.refl.then (State.bkeyCommit_touches
        ..))) Touches.refl)) (.ite (Touches.refl.then .setFk) (.ite (.ite (State.fkAct_touches (.ite (State.fkAct_touches Touches.refl
        fun _ => (Touches.refl.then (State.imgProg_touches
        ..)))
        Touches.refl) fun _ => (Touches.refl.then (State.imgRevoke_touches
        ..))) (.ite (State.fkAct_touches Touches.refl fun _ => (Touches.refl.then (State.imgProg_touches
        ..))) Touches.refl)) (.ite (Touches.refl.then .setFk) (.ite (.ite (State.fkAct_touches (.ite (State.fkAct_touches Touches.refl
        fun _ => (Touches.refl.then (State.fwProg_touches
        ..)))
        Touches.refl) fun _ => (Touches.refl.then (State.fwRevoke_touches
        ..))) (.ite (State.fkAct_touches Touches.refl fun _ => (Touches.refl.then (State.fwProg_touches
        ..))) Touches.refl)) (Touches.refl.then (State.plainWrite_touches ..)))))))))))

theorem State.routeWrite_touches (s : State) (bank : ℕ) (x : ℕ) (y : ℕ) (w : ℕ) :
    Touches [.regs] s (s.routeWrite bank x y w) := by
  unfold State.routeWrite
  exact (.ite (Touches.refl.then (State.setBit_part .regs _ _ _ _ rfl)) (Touches.refl.then (State.wr_part .regs _ _ _ (regPart_regs
        (le_index (le_index (le_index (by decide))))))))

theorem State.routingSwitch_touches (s : State) :
    Touches [.regs] s (s.routingSwitch) := by
  unfold State.routingSwitch
  exact (.ite (Touches.refl.then (State.setBit_part .regs _ _ _ _ rfl)) (Touches.refl.then (State.setBit_part .regs _ _ _ _ rfl)))

theorem State.evShow_touches (s : State) :
    Touches [.evr] s (s.evShow) := by
  unfold State.evShow
  extract_lets +onlyGivenNames low s1
  refine .via (t := s1) (((Touches.refl.then (State.setBit_part .evr _ _ _ _ rfl)).then (State.setFld_part .evr _ _ _ _ _ rfl)).then
        (State.setFld_part .evr _ _ _ _ _ rfl)) fun hs1 => ?_
  generalize s1 = s1 at hs1 ⊢
  exact (((hs1.then (State.wr_part .evr _ _ _ rfl)).then (State.wr_part .evr _ _ _ rfl)).then (State.wr_part .evr _ _ _ rfl))

theorem State.flushStart_touches (s : State) (forMode : Bool) :
    Touches [.evr, .ev] s (s.flushStart forMode) := by
  unfold State.flushStart
  exact (.ite Touches.refl (.ite (Touches.refl.then .setEv) ((Touches.refl.then .setEv).then (State.evShow_touches ..))))

theorem State.evFlushWrite_touches (s : State) :
    Touches [.evr, .ev] s (s.evFlushWrite) := by
  unfold State.evFlushWrite
  exact ((Touches.refl.then (State.setBit_part .evr _ _ _ _ rfl)).then (State.flushStart_touches ..))

theorem State.wakeRetry_touches (s : State) :
    Touches [.pm, .mr, .regs, .draw, .tal, .dbg, .pw] s (s.wakeRetry) := by
  unfold State.wakeRetry
  exact (.ite (Touches.refl.then (State.wakeRows_touches ..)) Touches.refl)

theorem State.relRefused_touches (s : State) (i : ℕ) :
    Touches [.regs] s (s.relRefused i) := by
  unfold State.relRefused
  exact (Touches.refl.then (State.setBit_part .regs _ _ _ _ (regPart_regs (le_index (le_index (le_index (by decide)))))))

theorem State.setDcc_touches (s : State) (i : ℕ) (v : ℕ) :
    Touches [.regs] s (s.setDcc i v) := by
  unfold State.setDcc
  exact (Touches.refl.then (State.wr64_part .regs _ _ _ _ (regPart_regs (le_index (le_index (le_index (by decide))))) (regPart_regs
        (le_index (le_index (le_index (by decide)))))))

theorem State.ringAfresh_touches (s : State) (r : ℕ) :
    Touches [.so] s (s.ringAfresh r) := by
  unfold State.ringAfresh
  exact (Touches.refl.then .setSo)

theorem State.dccWrite_touches (s : State) (i : ℕ) (v : ℕ) :
    Touches [.regs, .so] s (s.dccWrite i v) := by
  unfold State.dccWrite
  exact (.ite ((Touches.refl.then (State.setDcc_touches ..)).then (State.ringAfresh_touches ..)) (Touches.refl.then
        (State.relRefused_touches ..)))

theorem State.relHold_touches (s : State) (i : ℕ) :
    Touches [.regs, .fab] s (s.relHold i) := by
  unfold State.relHold
  exact (.ite (Touches.refl.then (State.relHoldNow_touches ..)) (Touches.refl.then (State.setBp_touches ..)))

theorem State.relArm_touches (s : State) (i : ℕ) (first : Bool) :
    Touches [.regs, .fab] s (s.relArm i first) := by
  unfold State.relArm
  exact (.ite (Touches.refl.then (State.relRefused_touches ..)) (.then (.then (.then (.then (.ite (Touches.refl.then
        (State.setDcc_touches ..)) Touches.refl) (State.setBit_part .regs _ _ _ _ (regPart_regs (le_index (le_index (le_index (by
        decide)))))))
        (State.setBit_part .regs _ _ _ _ (regPart_regs (le_index (le_index (le_index (by
        decide)))))))
        (State.setFld_part .regs _ _ _ _ _ (regPart_regs (le_index (le_index (le_index (by decide))))))) (State.setBp_touches ..)))

theorem State.relOp_touches (s : State) (i : ℕ) (op : ℕ) :
    Touches [.regs, .fab] s (s.relOp i op) := by
  unfold State.relOp
  split
  · exact (Touches.refl.then (State.relArm_touches ..))
  · exact (Touches.refl.then (State.relArm_touches ..))
  · exact (Touches.refl.then (State.relHold_touches ..))
  · exact Touches.refl

theorem State.mmpFlushTry_touches (s : State) (n : ℕ) (k : ℕ) :
    Touches [.fab] s (s.mmpFlushTry n k) := by
  unfold State.mmpFlushTry
  extract_lets +onlyGivenNames m
  exact (.ite (Touches.refl.then (State.setMmp_touches ..)) Touches.refl)

theorem State.mmpFlush_touches (s : State) (n : ℕ) (k : ℕ) :
    Touches [.regs, .fab] s (s.mmpFlush n k) := by
  unfold State.mmpFlush
  exact ((Touches.refl.then (State.setBit_part .regs _ _ _ _ (regPart_regs (le_index (le_index (by decide)))))).then
        (State.mmpFlushTry_touches ..))

theorem State.mcTarget_touches (s : State) (n : ℕ) (v : ℕ) :
    Touches [.regs] s (s.mcTarget n v) := by
  unfold State.mcTarget
  extract_lets +onlyGivenNames c cur s1
  refine .via (t := s1) (Touches.refl.then (State.setFld_part .regs _ _ _ _ _ (regPart_regs (le_index (by decide))))) fun hs1 => ?_
  generalize s1 = s1 at hs1 ⊢
  exact (.ite ((hs1.then (State.setBit_part .regs _ _ _ _ (regPart_regs (le_index (by decide))))).then (State.setBit_part .regs _ _ _ _
        (regPart_regs (le_index (by decide))))) (hs1.then (State.setBit_part .regs _ _ _ _ (regPart_regs (le_index (by decide))))))

theorem State.scrubRestore_touches (s : State) (n : ℕ) :
    Touches [.regs, .fab] s (s.scrubRestore n) := by
  unfold State.scrubRestore
  extract_lets +onlyGivenNames s1
  refine .via (t := s1) ((Touches.refl.then (State.setFld_part .regs _ _ _ _ _ (regPart_regs (le_index (by decide))))).then
        (State.setBit_part .regs _ _ _ _ (regPart_regs (le_index (by decide))))) fun hs1 => ?_
  generalize s1 = s1 at hs1 ⊢
  extract_lets +onlyGivenNames t
  exact (hs1.then (State.setTile_touches ..))

theorem State.tileWrite_touches (s : State) (a : ℕ) (w : ℕ) :
    Touches [.pm, .mr, .ep, .evr, .regs, .loStage, .fab, .so, .vl, .tkts, .handed, .replies, .cr, .pw] s (s.tileWrite a w) := by
  unfold State.tileWrite
  extract_lets +onlyGivenNames n o
  exact (.ite (.ite ((Touches.refl.then (State.plainWrite_touches ..)).then (State.scrubRestore_touches ..)) (Touches.refl.then
        (State.plainWrite_touches ..))) (.ite (Touches.refl.then (State.plainWrite_touches ..)) (.ite (Touches.refl.then
        (State.mcTarget_touches ..)) (.ite (.ite (.ite ((Touches.refl.then (State.plainWrite_touches ..)).then (State.mmpFlush_touches
        ..)) (Touches.refl.then (State.plainWrite_touches ..))) (.ite (.ite Touches.refl (Touches.refl.then (State.plainWrite_touches
        ..)))
        (Touches.refl.then (State.anyWrite_touches ..)))) (.ite (.ite (.ite (Touches.refl.then (State.relOp_touches ..)) (.ite
        (State.pairWrite_touches Touches.refl fun _ _ _ => (Touches.refl.then (State.dccWrite_touches ..))) (Touches.refl.then
        (State.plainWrite_touches
        ..))))
        (Touches.refl.then (State.anyWrite_touches ..))) (.ite (Touches.refl.then (State.crOp_touches ..)) (.ite (.ite
        (Touches.refl.then (State.plainWrite_touches ..)) Touches.refl) (Touches.refl.then (State.anyWrite_touches ..)))))))))

theorem State.regWrite_touches (s : State) (mid : ℕ) (a : ℕ) (w : ℕ) :
    Touches [.pm, .mr, .ep, .evr, .regs, .loStage, .mem, .draw, .fab, .so, .runs, .bps, .cache, .alloc, .snaps, .fk, .ev, .rnd, .tal,
          .mcs, .ic, .dbg, .vl, .tkts, .handed, .replies, .cr, .pw, .doms, .chg, .fl, .sp] s (s.regWrite mid a w) := by
  unfold State.regWrite
  exact (.ite (Touches.refl.then (State.tileWrite_touches ..)) (.ite (.ite (.ite (Touches.refl.then (State.wakeRetry_touches ..))
        Touches.refl) (.ite ((Touches.refl.then (State.plainWrite_touches ..)).then (State.faultN_touches ..)) (.ite ((Touches.refl.then
        (State.plainWrite_touches
        ..)).then
        (State.showWake_touches ..)) (Touches.refl.then (State.plainWrite_touches
        ..)))))
        (.ite (.ite ((Touches.refl.then (State.plainWrite_touches ..)).then (State.evFlushWrite_touches ..)) (Touches.refl.then
        (State.plainWrite_touches ..))) (.ite (.ite ((Touches.refl.then (State.plainWrite_touches ..)).then (State.routingSwitch_touches
        ..)) (Touches.refl.then (State.plainWrite_touches ..))) (.ite (.ite (Touches.refl.then (State.routeWrite_touches
        ..)) Touches.refl) (.ite (.ite (Touches.refl.then (State.plainWrite_touches ..)) (Touches.refl.then (State.plainWrite_touches
        ..))) (.ite (Touches.refl.then (State.fkWrite_touches ..)) (.ite (Touches.refl.then (State.icCrWrite_touches
        ..)) (.ite (Touches.refl.then (State.icCrWrite_touches ..)) (.ite (.ite (Touches.refl.then (State.icCtrl_touches ..)) (.ite
        (.ite Touches.refl (Touches.refl.then (State.anyWrite_touches ..))) (Touches.refl.then (State.plainWrite_touches
        ..)))) (.ite (.ite (Touches.refl.then (State.spCtrl_touches ..)) (.ite ((Touches.refl.then (State.plainWrite_touches
        ..)).then
        (State.showWake_touches ..)) (Touches.refl.then (State.plainWrite_touches
        ..))))
        (.ite (Touches.refl.then (State.dbgWrite_touches ..)) (.ite (Touches.refl.then (State.updConfirm_touches ..)) (.ite Touches.refl
        (.ite (.ite ((Touches.refl.then (State.plainWrite_touches ..)).then (State.pmInval_touches ..)) (Touches.refl.then
        (State.plainWrite_touches ..))) (.ite (Touches.refl.then (State.psLimit_touches ..)) (.ite (Touches.refl.then
        (State.trgWrite_touches ..)) (.ite (.ite Touches.refl (Touches.refl.then (State.plainWrite_touches ..))) (.ite
        (Touches.refl.then (State.mcWrite_touches ..)) (Touches.refl.then (State.plainWrite_touches ..)))))))))))))))))))))

theorem State.regAccess_touches (s : State) (write : Bool) (peek : Bool) (a : ℕ) (n : ℕ) (mid : ℕ) (data : List Byte) (bem : Option ℕ) :
    Carries [.pm, .mr, .ep, .evr, .regs, .loStage, .mem, .draw, .fab, .so, .runs, .bps, .cache, .alloc, .snaps, .fk, .ev, .rnd, .tal,
          .mcs,
          .ic,
          .dbg, .vl, .tkts, .handed, .replies, .cr, .pw, .doms, .chg, .fl, .sp] s Got.st (s.regAccess write peek a n mid data bem) := by
  unfold State.regAccess
  exact (.ite (.got Touches.refl) (.ite (.got (Touches.refl.then (State.regWrite_touches ..))) (.got (.then Touches.refl
        (State.regRead_touches ..)))))

theorem State.soAccess_touches (s : State) (write : Bool) (a : ℕ) (n : ℕ) :
    Carries [] s Got.st (s.soAccess write a n) := by
  unfold State.soAccess
  split
  · exact (.got Touches.refl)
  · split
    · exact (.ite (.got Touches.refl) (.got Touches.refl))
    · exact (.got Touches.refl)

theorem State.access_touches (s : State) (write : Bool) (peek : Bool) (a : ℕ) (n : ℕ) (mid : ℕ) (data : List Byte) (bem : Option ℕ) :
    Carries [.pm, .mr, .ep, .evr, .regs, .loStage, .mem, .draw, .fab, .so, .runs, .bps, .cache, .alloc, .snaps, .fk, .ev, .rnd, .tal,
          .mcs,
          .ic,
          .dbg, .vl, .tkts, .handed, .replies, .cr, .pw, .doms, .chg, .fl, .sp] s Got.st (s.access write peek a n mid data bem) := by
  unfold State.access
  split
  · exact (.got Touches.refl)
  · split
    · exact (.then Touches.refl (State.soAccess_touches ..))
    · split
      · extract_lets +onlyGivenNames g
        refine .viaOf Got.st g (.ite (.then Touches.refl (State.regAccess_touches ..)) (.then Touches.refl (State.fabricAccess_touches
              ..))) fun hg => ?_
        generalize g = g at hg ⊢
        exact (.ite (.got (hg.then (State.breakReservations_touches ..))) hg)
      · exact (.ite (.ite (.got (.then (.then Touches.refl (State.spAccess_touches ..)) (State.breakReservations_touches ..))) (.then
            Touches.refl (State.spAccess_touches ..))) (.ite (.got Touches.refl) (.ite (.then Touches.refl (State.dramWrite_touches
            ..)) (.then Touches.refl (State.dramRead_touches ..)))))

theorem State.serveReq_touches (s : State) (q : Pkt) :
    Touches [.pm, .mr, .ep, .evr, .regs, .loStage, .mem, .draw, .fab, .so, .runs, .bps, .cache, .alloc, .snaps, .fk, .ev, .rnd, .tal,
          .mcs, .ic, .dbg, .vl, .tkts, .handed, .replies, .cr, .pw, .doms, .chg, .fl, .sp] s (s.serveReq q) := by
  unfold State.serveReq
  extract_lets +onlyGivenNames wide
  exact (.ite (Touches.refl.then (State.setMc_touches ..)) (.ite (Touches.refl.then .setRnd) (.then (.then Touches.refl
        (State.access_touches ..)) (State.respond_touches ..))))

theorem State.prDeliver_touches (s : State) (d : ℕ) :
    Touches [.pm, .mr, .ep, .evr, .regs, .loStage, .mem, .draw, .fab, .so, .runs, .bps, .cache, .alloc, .snaps, .fk, .ev, .rnd, .tal,
          .mcs, .ic, .dbg, .vl, .tkts, .handed, .replies, .cr, .pw, .doms, .chg, .fl, .sp] s (s.prDeliver d) := by
  unfold State.prDeliver
  exact (.ite (.then (State.prRelease_touches Touches.refl fun _ _ => (Touches.refl.then (State.serveReq_touches ..)))
        (State.resumeAll_touches ..)) Touches.refl)

theorem State.zeroRange_touches (s : State) (lo : ℕ) (hi : ℕ) :
    Touches [.mem] s (s.zeroRange lo hi) := by
  unfold State.zeroRange
  extract_lets +onlyGivenNames a
  exact ((Touches.refl.then (State.blankRange_touches ..)).then (State.putBytes_touches ..))

theorem State.spUp_touches (s : State) (b : ℕ) :
    Touches [.pm, .regs, .doms] s (s.spUp b) := by
  unfold State.spUp
  exact (((Touches.refl.then (State.domUp_touches ..)).then (State.setPower_touches ..)).then (State.setFld_part .regs _ _ _ _ _
        (regPart_regs (le_index (by decide)))))

theorem State.spRowPass_touches (s : State) (b : ℕ) :
    Touches [.pm, .regs, .mem, .doms] s (s.spRowPass b) := by
  unfold State.spRowPass
  exact (.ite (Touches.refl.then (State.spUp_touches ..)) ((((Touches.refl.then (State.zeroRange_touches ..)).then (State.setDom_touches
        ..)).then (State.setPower_touches ..)).then (State.setBit_part .regs _ _ _ _ (regPart_regs (le_index (by decide))))))

theorem State.domRowPass_touches (s : State) (d : ℕ) :
    Touches [.pm, .mr, .ep, .evr, .regs, .loStage, .mem, .draw, .fab, .so, .runs, .bps, .cache, .alloc, .snaps, .fk, .ev, .rnd, .tal,
          .mcs, .ic, .dbg, .vl, .tkts, .handed, .replies, .cr, .pw, .doms, .chg, .fl, .sp] s (s.domRowPass d) := by
  unfold State.domRowPass
  exact (.ite (.ite ((Touches.refl.then (State.spRowPass_touches ..)).then (State.prDeliver_touches ..)) (Touches.refl.then
        (State.spRowPass_touches ..))) (.then (.ite (.then (.ite ((Touches.refl.then (State.domUp_touches ..)).then
        (State.holdApply_touches ..)) (Touches.refl.then (State.domUp_touches
        ..))) (State.spareFailed_touches ..)) (.ite (.then (.then (.ite ((Touches.refl.then (State.domUp_touches ..)).then
        (State.holdApply_touches ..)) (Touches.refl.then (State.domUp_touches
        ..)))
        (State.spareFailed_touches ..)) (State.spareFailed_touches ..)) (.ite (.then (.ite ((Touches.refl.then (State.domUp_touches
        ..)).then
        (State.holdApply_touches ..)) (Touches.refl.then (State.domUp_touches
        ..)))
        (State.crUp_touches ..)) (.ite ((Touches.refl.then (State.domUp_touches ..)).then (State.holdApply_touches
        ..)) (Touches.refl.then (State.domUp_touches ..)))))) (State.prDeliver_touches ..)))

theorem State.domCheck_touches (s : State) (d : ℕ) (pass : Bool) :
    Touches [.pm, .mr, .ep, .evr, .regs, .loStage, .mem, .draw, .fab, .so, .runs, .bps, .cache, .alloc, .snaps, .fk, .ev, .rnd, .tal,
          .mcs, .ic, .dbg, .vl, .tkts, .handed, .replies, .cr, .pw, .doms, .chg, .fl, .sp] s (s.domCheck d pass) := by
  unfold State.domCheck
  extract_lets +onlyGivenNames r
  exact (.ite (Touches.refl.then (State.domRowPass_touches ..)) (.ite (Touches.refl.then (State.setDom_touches ..)) (Touches.refl.then
        (State.domRowFail_touches ..))))

theorem State.undoRow_touches (s : State) (row : ℕ) :
    Touches [.regs, .pw] s (s.undoRow row) := by
  unfold State.undoRow
  split
  · exact (Touches.refl.then .setPw)
  · exact (Touches.refl.then .setPw)
  · exact (Touches.refl.then .setPw)
  · exact (.each Touches.refl fun _ _ => (Touches.refl.then (State.wr_part .regs _ _ _ (regPart_regs (le_index (by decide))))))
  · exact Touches.refl

theorem State.rowFail_touches (s : State) (row : ℕ) :
    Touches [.pm, .mr, .ep, .evr, .regs, .loStage, .mem, .fab, .so, .runs, .bps, .cache, .alloc, .snaps, .fk, .ev, .rnd, .tal, .mcs,
          .ic, .dbg, .vl, .tkts, .handed, .replies, .cr, .pw, .doms, .chg, .fl, .sp] s (s.rowFail row) := by
  unfold State.rowFail
  extract_lets +onlyGivenNames s1
  refine .via (t := s1) (Touches.refl.then (State.undoRow_touches ..)) fun hs1 => ?_
  generalize s1 = s1 at hs1 ⊢
  exact (.ite (hs1.then .setPw) ((((((((((hs1.then (State.allOff_touches ..)).then .setPw).then (State.setFld_part .pm _ _ _ _ _
        rfl)).then
        (State.setBit_part .pm _ _ _ _
        rfl)).then
        (State.setMode_touches
        ..)).then
        (State.setBit_part .pm _ _ _ _
        rfl)).then
        (State.setFld_part .pm _ _ _ _ _
        rfl)).then (State.setBit_part .pm _ _ _ _ rfl)).then (State.faultN_touches ..)).then (State.showWake_touches ..)))

theorem State.banksAssign_touches (s : State) (img : List Byte) :
    Touches [.pm, .evr, .regs, .mem, .ev, .doms] s (s.banksAssign img) := by
  unfold State.banksAssign
  extract_lets +onlyGivenNames bs s1
  refine .via (t := s1) (.each Touches.refl fun _ _ => (Touches.refl.then (State.setFld_part .regs _ _ _ _ _ (regPart_regs (le_index (by
        decide)))))) fun hs1 => ?_
  generalize s1 = s1 at hs1 ⊢
  extract_lets +onlyGivenNames s2
  refine .via (t := s2) (.each hs1 fun _ _ => (((Touches.refl.then (State.setDom_touches ..)).then (State.setFld_part .regs _ _ _ _ _
        (regPart_regs (le_index (by decide))))).then (State.setPower_touches ..))) fun hs2 => ?_
  generalize s2 = s2 at hs2 ⊢
  extract_lets +onlyGivenNames s3
  refine .via (t := s3) (.each hs2 fun _ _ => (Touches.refl.then (State.event_touches ..))) fun hs3 => ?_
  generalize s3 = s3 at hs3 ⊢
  exact ((hs3.then (State.putBytes_touches ..)).then (State.putBytes_touches ..))

theorem State.setRegs_touches (s : State) (v : List Byte) (rs : List Reg) :
    Touches [.pm, .mr, .ep, .evr, .regs] s (s.setRegs v rs) := by
  unfold State.setRegs
  exact (.each Touches.refl fun _ _ => (.ite (Touches.refl.then (State.wrFields_touches ..)) Touches.refl))

theorem State.settingsApply_touches (s : State) :
    Touches [.pm, .mr, .ep, .evr, .regs] s (s.settingsApply) := by
  unfold State.settingsApply
  exact (.each Touches.refl fun _ _ => (Touches.refl.then (State.setRegs_touches ..)))

theorem State.lodgeSync_touches (s : State) :
    Touches [.mr] s (s.lodgeSync) := by
  unfold State.lodgeSync
  exact (.ite (Touches.refl.then (State.wr_part .mr _ _ _ rfl)) Touches.refl)

theorem State.bootStop_touches (s : State) :
    Touches [.pm, .mr, .pw, .chg] s (s.bootStop) := by
  unfold State.bootStop
  exact ((((Touches.refl.then (.upd [.pw, .chg])).then (State.setBit_part .pm _ _ _ _ rfl)).then (State.faultN_touches ..)).then
        (State.showMode_touches ..))

theorem State.bootBegin_touches (s : State) :
    Touches [.pm, .mr, .ep, .evr, .regs, .mem, .ev, .tal, .vl, .pw, .doms, .chg, .fl] s (s.bootBegin) := by
  unfold State.bootBegin
  extract_lets +onlyGivenNames k src s1
  refine .via (t := s1) (((Touches.refl.then .setPw).then (State.setFld_part .pm _ _ _ _ _ rfl)).then (State.setMode_touches
        ..)) fun hs1 => ?_
  generalize s1 = s1 at hs1 ⊢
  exact (.ite (.then (.each hs1 fun _ _ => ((Touches.refl.then (State.setBit_part .regs _ _ _ _ (regPart_regs (le_index (by
        decide))))).then
        (State.setBit_part .regs _ _ _ _ (regPart_regs (le_index (by
        decide)))))) (State.bootStop_touches ..)) (.then (.each (.then (.ite (.then (.then (.then (.then (.ite (.then (.ite (hs1.then
        (State.setBit_part .pm _ _ _ _ rfl)) hs1) (State.bootWrite_touches ..)) (.then (.ite (hs1.then (State.setBit_part .pm _ _ _ _
        rfl))
        hs1)
        (State.showUpd_touches
        ..)))
        (State.banksAssign_touches
        ..))
        (State.settingsApply_touches ..)) (State.lodgeSync_touches ..)) (State.event_touches ..)) (.then (.then (.then (.ite (.then
        (.ite (hs1.then (State.setBit_part .pm _ _ _ _ rfl)) hs1) (State.bootWrite_touches ..)) (.then (.ite (hs1.then
        (State.setBit_part .pm _ _ _ _
        rfl))
        hs1)
        (State.showUpd_touches
        ..)))
        (State.banksAssign_touches
        ..))
        (State.settingsApply_touches
        ..))
        (State.lodgeSync_touches
        ..))) (.upd [.vl, .pw, .chg])) fun _ _ => (Touches.refl.then (State.domWake_touches ..))) (State.showMode_touches ..)))

theorem State.hubUp_touches (s : State) :
    Touches [.pm, .mr, .ep, .evr, .regs, .fk, .ev, .tal, .doms] s (s.hubUp) := by
  unfold State.hubUp
  extract_lets +onlyGivenNames src s0
  refine .via (t := s0) (Touches.refl.then .setTal) fun hs0 => ?_
  generalize s0 = s0 at hs0 ⊢
  extract_lets +onlyGivenNames s1
  refine .via (t := s1) ((hs0.then (State.setDom_touches ..)).then (State.wr_part .pm _ _ _ rfl)) fun hs1 => ?_
  generalize s1 = s1 at hs1 ⊢
  extract_lets +onlyGivenNames s2
  refine .via (t := s2) (.each hs1 fun _ _ => (Touches.refl.then (State.setDom_touches ..))) fun hs2 => ?_
  generalize s2 = s2 at hs2 ⊢
  extract_lets +onlyGivenNames s3
  refine .via (t := s3) ((((hs2.then (State.wr_part .ep _ _ _ rfl)).then (State.wr_part .regs _ _ _ (regPart_regs (le_index (by
        decide))))).then (State.showUpd_touches ..)).then (State.showMode_touches ..)) fun hs3 => ?_
  generalize s3 = s3 at hs3 ⊢
  exact (.ite ((hs3.then .setFk).then (State.event_touches ..)) hs3)

theorem State.wPass_touches (s : State) (row : ℕ) :
    Touches [.pm, .mr, .ep, .evr, .regs, .mem, .draw, .fk, .ev, .tal, .dbg, .vl, .pw, .doms, .chg, .fl] s (s.wPass row) := by
  unfold State.wPass
  split
  · exact ((Touches.refl.then .setPw).then (State.startRow_touches ..))
  · exact ((Touches.refl.then .setPw).then (State.startRow_touches ..))
  · exact (.ite ((Touches.refl.then (State.setFld_part .pm _ _ _ _ _ rfl)).then (State.setMode_touches ..)) (Touches.refl.then
        (State.startRow_touches ..)))
  · exact ((Touches.refl.then (State.hubUp_touches ..)).then (State.startRow_touches ..))
  · exact ((Touches.refl.then (State.setDom_touches ..)).then (State.startRow_touches ..))
  · exact (Touches.refl.then (State.bootBegin_touches ..))
  · exact Touches.refl

theorem execWakeRowCheck_touches (row : WakeRow) (pass : Bool) (s : State) :
    Ends [.pm, .mr, .ep, .evr, .regs, .loStage, .mem, .draw, .fab, .so, .runs, .bps, .cache, .alloc, .snaps, .fk, .ev, .rnd, .tal, .mcs,
          .ic, .dbg, .vl, .tkts, .handed, .replies, .cr, .pw, .doms, .chg, .fl, .sp] s (execWakeRowCheck row pass s) := by
  unfold execWakeRowCheck
  split
  · refine .when ?_
    exact (.ite (Touches.refl.then (State.wPass_touches ..)) (Touches.refl.then (State.rowFail_touches ..)))
  · extract_lets +onlyGivenNames c
    refine .when ?_
    exact (Touches.refl.then (State.domCheck_touches ..))

theorem execWakeRetry_touches (s : State) :
    Ends [.pm, .mr, .regs, .draw, .tal, .dbg, .pw] s (execWakeRetry s) := by
  unfold execWakeRetry
  refine .when ?_
  exact (.ite Touches.refl (Touches.refl.then (State.wakeRows_touches ..)))

theorem execWakePin_touches (s : State) :
    Ends [.pm, .mr, .regs, .draw, .tal, .dbg, .pw] s (execWakePin s) := by
  unfold execWakePin
  refine .when ?_
  exact (Touches.refl.then (State.wakeBy_touches ..))

theorem execWakePattern_touches (f : EthFrame) (s : State) :
    Ends [.pm, .mr, .regs, .draw, .tal, .dbg, .pw] s (execWakePattern f s) := by
  unfold execWakePattern
  refine .when ?_
  exact (Touches.refl.then (State.wakeBy_touches ..))

theorem State.vtSend_touches (s : State) (c : ℕ) (toCore : Bool) (w : ℕ) :
    Touches [.regs, .dbg] s (s.vtSend c toCore w) := by
  unfold State.vtSend
  exact (.ite (.ite Touches.refl (Touches.refl.then (State.lbRxWrite_touches ..))) (.ite Touches.refl (Touches.refl.then
        (State.lbTxWrite_touches ..))))

theorem execVtTerminalReset_touches (c : Fin 4) (toCore : Bool) (s : State) :
    Ends [.regs, .dbg] s (execVtTerminalReset c toCore s) := by
  unfold execVtTerminalReset
  refine .when ?_
  exact (Touches.refl.then (State.vtSend_touches ..))

theorem execVtOpen_touches (c : Fin 4) (toCore : Bool) (s : State) :
    Ends [.regs, .dbg] s (execVtOpen c toCore s) := by
  unfold execVtOpen
  refine .when ?_
  exact (Touches.refl.then (State.vtSend_touches ..))

theorem execVtData_touches (c : Fin 4) (toCore : Bool) (count : Fin 4) (bytes : BitVec 24) (s : State) :
    Ends [.regs, .dbg] s (execVtData c toCore count bytes s) := by
  unfold execVtData
  extract_lets +onlyGivenNames v credit
  refine .when ?_
  exact (Touches.refl.then (State.vtSend_touches ..))

theorem execVtCredit_touches (c : Fin 4) (toCore : Bool) (credit : BitVec 16) (s : State) :
    Ends [.regs, .dbg] s (execVtCredit c toCore credit s) := by
  unfold execVtCredit
  refine .when ?_
  exact (Touches.refl.then (State.vtSend_touches ..))

theorem execVtClose_touches (c : Fin 4) (toCore : Bool) (s : State) :
    Ends [.regs, .dbg] s (execVtClose c toCore s) := by
  unfold execVtClose
  refine .when ?_
  exact (Touches.refl.then (State.vtSend_touches ..))

theorem execVtBreak_touches (c : Fin 4) (s : State) :
    Ends [.regs, .dbg] s (execVtBreak c s) := by
  unfold execVtBreak
  refine .when ?_
  exact (Touches.refl.then (State.vtSend_touches ..))

theorem State.vote_touches (s : State) (n : ℕ) (w : ℕ) (upsets : List (Fin 22 × Fin 3 × Fin 32)) :
    Touches [.pm, .mr, .ep, .evr, .regs] s (s.vote n w upsets) := by
  unfold State.vote
  split
  · exact Touches.refl
  · extract_lets +onlyGivenNames cs v
    exact ((Touches.refl.then (State.wr_touches ..)).then (State.count_part .regs _ _ _ _ _ (regPart_regs (le_index (by decide)))))

theorem execVoterRepair_touches (n : Tile) (upsets : List (Fin 22 × Fin 3 × Fin 32)) (s : State) :
    Ends [.pm, .mr, .ep, .evr, .regs] s (execVoterRepair n upsets s) := by
  unfold execVoterRepair
  refine .when ?_
  exact (.each Touches.refl fun _ _ => (Touches.refl.then (State.vote_touches ..)))

theorem execVbatLoss_touches (s : State) :
    Ends [.regs, .fk] s (execVbatLoss s) := by
  unfold execVbatLoss
  refine .next ?_
  exact (((Touches.refl.then .setFk).then (State.setBit_part .regs _ _ _ _ rfl)).then (State.setBit_part .regs _ _ _ _ rfl))

theorem execUpdateStatus_touches (client : Fin 64) (s : State) :
    Ends [.vl, .tkts, .handed, .replies] s (execUpdateStatus client s) := by
  unfold execUpdateStatus
  exact (.serve fun _ _ => (State.checked_touches Touches.refl (Touches.refl.then (State.answer_touches ..))))

theorem execUpdateRevert_touches (client : Fin 64) (s : State) :
    Ends [.regs, .vl, .tkts, .handed, .replies, .fl] s (execUpdateRevert client s) := by
  unfold execUpdateRevert
  exact (.serve fun _ _ => (State.checked_touches Touches.refl (.ite ((Touches.refl.then (State.bootWrite_touches ..)).then
        (State.answer_touches ..)) (.ite (((Touches.refl.then .setFl).then (State.bootWrite_touches ..)).then (State.answer_touches
        ..)) (Touches.refl.then (State.answer_touches ..))))))

theorem State.stageVerified_touches (s : State) (ticket : ℕ) :
    Touches [.regs, .tkts, .fl] s (s.stageVerified ticket) := by
  unfold State.stageVerified
  extract_lets +onlyGivenNames s1
  refine .via (t := s1) ((Touches.refl.then (State.bootWrite_touches ..)).then (State.bootWrite_touches ..)) fun hs1 => ?_
  generalize s1 = s1 at hs1 ⊢
  extract_lets +onlyGivenNames src s2
  refine .via (t := s2) (hs1.then .setFl) fun hs2 => ?_
  generalize s2 = s2 at hs2 ⊢
  exact ((hs2.then (State.tktProgress_touches ..)).then (State.tktEnd_touches ..))

theorem State.stageEnd_touches (s : State) (g : Staging) :
    Touches [.regs, .tkts, .fl] s (s.stageEnd g) := by
  unfold State.stageEnd
  extract_lets +onlyGivenNames all src s1
  refine .via (t := s1) (Touches.refl.then .setFl) fun hs1 => ?_
  generalize s1 = s1 at hs1 ⊢
  split
  · exact ((Touches.refl.then .setFl).then (State.tktEnd_touches ..))
  · extract_lets +onlyGivenNames s2
    refine .via (t := s2) (hs1.then (State.tktProgress_touches ..)) fun hs2 => ?_
    generalize s2 = s2 at hs2 ⊢
    split
    · exact (hs2.then (State.stageVerified_touches ..))
    · exact ((hs2.then .setFl).then (State.tktEnd_touches ..))

theorem execUpdateEnd_touches (client : Fin 64) (s : State) :
    Ends [.regs, .vl, .tkts, .handed, .replies, .fl] s (execUpdateEnd client s) := by
  unfold execUpdateEnd
  refine (.serve fun t q => ?_)
  refine (State.checked_touches Touches.refl ?_)
  split
  · exact ((Touches.refl.then (State.answer_touches ..)).then (State.stageEnd_touches ..))
  · exact (Touches.refl.then (State.answer_touches ..))

theorem State.tktIssue_touches (s : State) (i : ℕ) (client : ℕ) (work : TktWork) (active : Bool) :
    Touches [.regs, .tkts] s (s.tktIssue i client work active) := by
  unfold State.tktIssue
  exact (Touches.refl.then (State.setTkt_touches ..))

theorem State.accept_touches (s : State) (q : VReq) (i : ℕ) (payload : List Byte) :
    Touches [.vl, .replies] s (s.accept q i payload) := by
  unfold State.accept
  exact (Touches.refl.then (State.sendReply_touches ..))

theorem State.handlerBusy_touches (s : State) (q : VReq) (retry : ℕ) :
    Touches [.vl, .tkts, .replies] s (s.handlerBusy q retry) := by
  unfold State.handlerBusy
  extract_lets +onlyGivenNames cl mine src r s1
  refine .via (t := s1) (((Touches.refl.then (State.dropResv_touches ..)).then (State.setClient_touches ..)).then
        (State.pushReply_touches ..)) fun hs1 => ?_
  generalize s1 = s1 at hs1 ⊢
  extract_lets +onlyGivenNames src' s2
  refine .via (t := s2) (hs1.then .setVl) fun hs2 => ?_
  generalize s2 = s2 at hs2 ⊢
  exact (.each hs2 fun _ _ => (Touches.refl.then (State.pushReply_touches ..)))

theorem State.withTicket_touches {P : List Part} {s t : State} {q : VReq} {f : Nat → State} (h : Touches P s t)
    (hf : ∀ i, Touches P s (f i)) (hP : [.draw, .vl, .tkts, .replies] ⊆ P := by decide) : Touches P s (t.withTicket q f) := by
  unfold State.withTicket
  split
  · exact hf _
  · exact h.then ((Touches.refl.then (State.handlerBusy_touches ..)).then (State.drawn_touches ..) : Touches [.draw, .vl, .tkts,
        .replies] _ _) hP

theorem execUpdateDiscard_touches (client : Fin 64) (s : State) :
    Ends [.regs, .draw, .vl, .tkts, .handed, .replies, .fl] s (execUpdateDiscard client s) := by
  unfold execUpdateDiscard
  refine (.serve fun t q => ?_)
  extract_lets +onlyGivenNames r
  refine (State.checked_touches Touches.refl ?_)
  split
  · exact (Touches.refl.then (State.answer_touches ..))
  · refine (State.withTicket_touches Touches.refl fun i => ?_)
    extract_lets +onlyGivenNames s1
    refine .via (t := s1) ?_ fun hs1 => ?_
    · unfold s1
      split
      · exact (Touches.refl.then (State.tktEnd_touches ..))
      · exact Touches.refl
    generalize s1 = s1 at hs1 ⊢
    extract_lets +onlyGivenNames s2
    refine .via (t := s2) ((hs1.then (State.tktIssue_touches ..)).then (State.accept_touches ..)) fun hs2 => ?_
    generalize s2 = s2 at hs2 ⊢
    extract_lets +onlyGivenNames n
    exact (hs2.then .setFl)

theorem State.stageTake_touches (s : State) (q : VReq) (g : Staging) :
    Touches [.vl, .tkts, .replies, .fl] s (s.stageTake q g) := by
  unfold State.stageTake
  extract_lets +onlyGivenNames d off held
  exact (.ite (Touches.refl.then (State.answer_touches ..)) (.ite (Touches.refl.then (State.handlerBusy_touches ..)) ((Touches.refl.then
        .setFl).then (State.answer_touches ..))))

theorem execUpdateData_touches (client : Fin 64) (s : State) :
    Ends [.vl, .tkts, .handed, .replies, .fl] s (execUpdateData client s) := by
  unfold execUpdateData
  refine (.serve fun t q => ?_)
  extract_lets +onlyGivenNames p
  refine (State.checked_touches Touches.refl ?_)
  split
  · exact (Touches.refl.then (State.stageTake_touches ..))
  · exact (Touches.refl.then (State.answer_touches ..))

theorem execUpdateConfirm_touches (key : Word) (s : State) :
    Ends [.regs, .fl] s (execUpdateConfirm key s) := by
  unfold execUpdateConfirm
  refine .when ?_
  exact (Touches.refl.then (State.updConfirm_touches ..))

theorem execUpdateBegin_touches (client : Fin 64) (s : State) :
    Ends [.regs, .draw, .vl, .tkts, .handed, .replies, .fl] s (execUpdateBegin client s) := by
  unfold execUpdateBegin
  exact (.serve fun _ _ => (State.checked_touches Touches.refl (.ite (Touches.refl.then (State.answer_touches ..))
        (State.withTicket_touches Touches.refl fun _ => ((((Touches.refl.then (State.tktIssue_touches ..)).then (State.accept_touches
        ..)).then (State.bootWrite_touches ..)).then .setFl)))))

theorem execUnlockTimeout_touches (s : State) :
    Ends [.regs, .fk] s (execUnlockTimeout s) := by
  unfold execUnlockTimeout
  extract_lets +onlyGivenNames held
  refine .when ?_
  exact (Touches.refl.then (State.fkClose_touches ..))

theorem State.chainReset_touches (s : State) (u : ℕ) (k : ℕ) :
    Touches [.regs, .so] s (s.chainReset u k) := by
  unfold State.chainReset
  extract_lets +onlyGivenNames s1
  refine .via (t := s1) (.each Touches.refl fun _ _ => ((Touches.refl.then (State.trigDisarm_touches ..)).then (State.setFld_part .regs
        _ _ _ _ _ (regPart_regs (le_index (by decide)))))) fun hs1 => ?_
  generalize s1 = s1 at hs1 ⊢
  exact (.ite (hs1.then (State.trigArm_touches ..)) hs1)

theorem execTriggerWithinExpiry_touches (unit : Fin 64) (s : State) :
    Ends [.regs, .so] s (execTriggerWithinExpiry unit s) := by
  unfold execTriggerWithinExpiry
  extract_lets +onlyGivenNames u
  split
  · refine .next ?_
    exact Touches.refl
  · refine .when ?_
    exact (Touches.refl.then (State.chainReset_touches ..))

theorem State.trigAct_touches (s : State) (u k : Nat) : Touches [.mr, .evr, .regs, .runs, .snaps, .ev, .tkts, .pw] s ((s.trigAct u
      k).getD s) := by
  have hm : ∀ x m, Touches [.mr, .evr, .regs, .runs, .snaps, .ev, .tkts, .pw] s ((s.setRun (s.trigRun u) x).modeQueue m) := fun _ _ =>
    (Touches.refl.then (State.setRun_touches ..)).then (State.modeQueue_touches ..)
  unfold State.trigAct
  extract_lets +onlyGivenNames r x act halt e n snap
  split
  · exact .refl
  split
  · exact .refl
  split
  · exact hm _ _
  split
  · exact hm _ _
  · dsimp only [snap]
    split
    · exact Touches.refl.then .setSnaps
    · exact .refl

theorem State.trigFire_touches (s : State) (u : ℕ) (k : ℕ) :
    Touches [.mr, .evr, .regs, .so, .runs, .snaps, .ev, .tkts, .pw] s (s.trigFire u k) := by
  unfold State.trigFire
  extract_lets +onlyGivenNames again s1
  refine .via (t := s1) ((Touches.refl.then (State.setBit_part .regs _ _ _ _ (regPart_regs (le_index (by decide))))).then
        (State.wr64_part .regs _ _ _ _ (regPart_regs (le_index (by decide))) (regPart_regs (le_index (by decide))))) fun hs1 => ?_
  generalize s1 = s1 at hs1 ⊢
  extract_lets +onlyGivenNames s2
  refine .via (t := s2) (.then (.ite (hs1.then (State.setBit_part .regs _ _ _ _ rfl)) (hs1.then (State.setBit_part .regs _ _ _ _ rfl)))
        (State.event_touches ..)) fun hs2 => ?_
  generalize s2 = s2 at hs2 ⊢
  extract_lets +onlyGivenNames s3
  refine .via (t := s3) (.ite (hs2.then (State.trigArm_touches ..)) (hs2.then (State.trigDisarm_touches ..))) fun hs3 => ?_
  generalize s3 = s3 at hs3 ⊢
  extract_lets +onlyGivenNames s4
  refine .via (t := s4) (.each hs3 fun _ _ => (Touches.refl.then (State.trigArm_touches ..))) fun hs4 => ?_
  generalize s4 = s4 at hs4 ⊢
  split
  · rename_i x t heq
    refine .via (hs4.then ((State.trigAct_touches ..).ofSome heq)) fun ht => ?_
    exact ht
  · rename_i x heq
    exact (hs4.then (State.setBit_part .regs _ _ _ _ (regPart_regs (le_index (by decide)))))

theorem State.trigEval_touches (s : State) (u : ℕ) (k : ℕ) (w : ℕ) :
    Touches [.mr, .evr, .regs, .so, .runs, .snaps, .ev, .tkts, .pw] s (s.trigEval u k w) := by
  unfold State.trigEval
  extract_lets +onlyGivenNames after
  split
  · split
    · exact (Touches.refl.then (State.chainReset_touches ..))
    · extract_lets +onlyGivenNames hit m src s1
      refine .via (t := s1) (Touches.refl.then (State.setTrig_touches ..)) fun hs1 => ?_
      generalize s1 = s1 at hs1 ⊢
      extract_lets +onlyGivenNames hits s2
      refine .via (t := s2) (hs1.then (State.setFld_part .regs _ _ _ _ _ (regPart_regs (le_index (by decide))))) fun hs2 => ?_
      generalize s2 = s2 at hs2 ⊢
      exact (.ite hs1 (.ite (hs2.then (State.trigFire_touches ..)) hs2))
  · exact Touches.refl

theorem execTriggerProbe_touches (n : Tile) (slot : Fin 16) (s : State) :
    Ends [.mr, .evr, .regs, .fab, .so, .runs, .snaps, .ev, .tkts, .pw] s (execTriggerProbe n slot s) := by
  unfold execTriggerProbe
  split
  · refine .next ?_
    exact Touches.refl
  · extract_lets +onlyGivenNames src s1
    refine .via (t := s1) (Touches.refl.then (State.setTile_touches ..)) fun hs1 => ?_
    generalize s1 = s1 at hs1 ⊢
    refine .when ?_
    exact (hs1.then (State.trigEval_touches ..))

theorem execTriggerEnable_touches (unit : Fin 64) (s : State) :
    Ends [.evr, .regs, .so, .ev] s (execTriggerEnable unit s) := by
  unfold execTriggerEnable
  refine .when ?_
  exact (Touches.refl.then (State.trigEnable_touches ..))

theorem execTrigStatus_touches (client : Fin 64) (s : State) :
    Ends [.regs, .vl, .tkts, .handed, .replies] s (execTrigStatus client s) := by
  unfold execTrigStatus
  exact (.serve fun _ _ => (State.checked_touches Touches.refl (((Touches.refl.then (State.wr_part .regs _ _ _ rfl)).then (State.wr_part
        .regs _ _ _ rfl)).then (State.answer_touches ..))))

theorem State.trigSet_touches (s : State) (u : ℕ) (p : List Byte) :
    Touches [.pm, .mr, .ep, .evr, .regs, .loStage, .fab, .so, .ev] s (s.trigSet u p) := by
  unfold State.trigSet
  extract_lets +onlyGivenNames a s1
  refine .via (t := s1) (Touches.refl.then (State.trgWrite_touches ..)) fun hs1 => ?_
  generalize s1 = s1 at hs1 ⊢
  extract_lets +onlyGivenNames s2
  refine .via (t := s2) (.each hs1 fun _ _ => (Touches.refl.then (State.trgWrite_touches ..))) fun hs2 => ?_
  generalize s2 = s2 at hs2 ⊢
  extract_lets +onlyGivenNames s3
  refine .via (t := s3) (.each hs2 fun _ _ => (Touches.refl.then (State.trgWrite_touches ..))) fun hs3 => ?_
  generalize s3 = s3 at hs3 ⊢
  extract_lets +onlyGivenNames s4
  refine .via (t := s4) (.each hs3 fun _ _ => (Touches.refl.then (State.plainWrite_touches ..))) fun hs4 => ?_
  generalize s4 = s4 at hs4 ⊢
  exact (hs4.then (State.trgWrite_touches ..))

theorem execTrigSet_touches (client : Fin 64) (s : State) :
    Ends [.pm, .mr, .ep, .evr, .regs, .loStage, .fab, .so, .ev, .vl, .tkts, .handed, .replies] s (execTrigSet client s) := by
  unfold execTrigSet
  exact (.serve fun _ _ => (State.checked_touches Touches.refl ((Touches.refl.then (State.trigSet_touches ..)).then
        (State.answer_touches ..))))

theorem execTrainingOpComplete_touches (c : Fin 20) (fail : BitVec 64) (errs : Word) (first : Word) (s : State) :
    Ends [.regs, .mcs] s (execTrainingOpComplete c fail errs first s) := by
  unfold execTrainingOpComplete
  extract_lets +onlyGivenNames k src s1
  refine .via (t := s1) ((Touches.refl.then (State.setMc_touches ..)).then (State.setBit_part .regs _ _ _ _ (regPart_regs (le_index
        (le_mcBase _))))) fun hs1 => ?_
  generalize s1 = s1 at hs1 ⊢
  extract_lets +onlyGivenNames d lanes bits burst
  refine .when ?_
  exact (.ite hs1 (((hs1.then (State.wr64_part .regs _ _ _ _ (regPart_regs (le_index (le_mcBase _))) (regPart_regs (le_index (le_mcBase
        _))))).then
        (State.wr_part .regs _ _ _ (regPart_regs (le_index (le_mcBase _))))).then (State.wr_part .regs _ _ _ (regPart_regs (le_index
        (le_mcBase _))))))

theorem execTrainingOp_touches (c : Fin 20) (word : Word) (s : State) :
    Ends [.pm, .mr, .ep, .evr, .regs, .mem, .mcs, .ic] s (execTrainingOp c word s) := by
  unfold execTrainingOp
  refine .when ?_
  exact (Touches.refl.then (State.trainingOp_touches ..))

theorem execTime_touches (client : Fin 64) (s : State) :
    Ends [.vl, .tkts, .handed, .replies] s (execTime client s) := by
  unfold execTime
  exact (.serve fun _ _ => (State.checked_touches Touches.refl (Touches.refl.then (State.answer_touches ..))))

theorem State.downBegin_touches (s : State) (d : ℕ) :
    Touches [.pm, .regs, .doms] s (s.downBegin d) := by
  unfold State.downBegin
  exact (.ite (Touches.refl.then (State.spDown_touches ..)) (Touches.refl.then (State.setDom_touches ..)))

theorem execTileIdlePowerDown_touches (n : Tile) (s : State) :
    Ends [.pm, .regs, .doms] s (execTileIdlePowerDown n s) := by
  unfold execTileIdlePowerDown
  refine .when ?_
  exact (Touches.refl.then (State.downBegin_touches ..))

theorem State.reclaim_touches (s : State) (i : ℕ) :
    Touches [.regs, .tkts] s (s.reclaim i) := by
  unfold State.reclaim
  exact (Touches.refl.then (State.setTkt_touches ..))

theorem execTicketStatus_touches (client : Fin 64) (s : State) :
    Ends [.regs, .vl, .tkts, .handed, .replies] s (execTicketStatus client s) := by
  unfold execTicketStatus
  refine (.serve fun t q => ?_)
  extract_lets +onlyGivenNames h fl
  refine (State.checked_touches Touches.refl ?_)
  split
  · exact (Touches.refl.then (State.answer_touches ..))
  · split
    · exact (Touches.refl.then (State.answer_touches ..))
    · extract_lets +onlyGivenNames e data u
      refine .via (t := u) (Touches.refl.then (State.answer_touches ..)) fun hu => ?_
      generalize u = u at hu ⊢
      exact (.ite (hu.then (State.reclaim_touches ..)) hu)

theorem execTicketReclaim_touches (index : Fin 4096) (s : State) :
    Ends [.regs, .tkts] s (execTicketReclaim index s) := by
  unfold execTicketReclaim
  refine .when ?_
  exact (Touches.refl.then (State.reclaim_touches ..))

theorem State.snapDrop_touches (s : State) (k : ℕ) :
    Touches [.mr, .evr, .regs, .mem, .draw, .fab, .so, .runs, .bps, .cache, .alloc, .snaps, .ev, .rnd, .mcs, .ic, .dbg, .tkts,
          .pw] s (s.snapDrop k) := by
  unfold State.snapDrop
  extract_lets +onlyGivenNames x s1
  refine .via (t := s1) (.ite (.each Touches.refl fun _ _ => (Touches.refl.then (State.pmFree_touches ..))) Touches.refl) fun hs1 => ?_
  generalize s1 = s1 at hs1 ⊢
  extract_lets +onlyGivenNames s2
  refine .via (t := s2) ?_ fun hs2 => ?_
  · unfold s2
    split
    · exact (hs1.then (State.tktEnd_touches ..))
    · exact hs1
  generalize s2 = s2 at hs2 ⊢
  exact (hs2.then .setSnaps)

theorem State.abandon_touches (s : State) (i : ℕ) :
    Touches [.regs, .tkts] s (s.abandon i) := by
  unfold State.abandon
  exact (Touches.refl.then (State.tktEnd_touches ..))

theorem State.cancelRun_touches (s : State) (r : ℕ) (i : ℕ) :
    Touches [.regs, .runs, .tkts] s ((s.cancelRun r i).getD s) := by
  unfold State.cancelRun
  extract_lets +onlyGivenNames x
  split
  · exact ((Touches.refl.then (State.setRun_touches ..)).then (State.abandon_touches ..))
  · split
    · exact ((Touches.refl.then (State.setRun_touches ..)).then (State.abandon_touches ..))
    · exact Touches.refl

theorem State.cancelWork_touches (s : State) (i : ℕ) :
    Touches [.mr, .evr, .regs, .mem, .draw, .fab, .so, .runs, .bps, .cache, .alloc, .snaps, .fk, .ev, .rnd, .mcs, .ic, .dbg, .vl, .tkts,
          .handed, .replies, .cr, .pw, .fl] s ((s.cancelWork i).getD s) := by
  unfold State.cancelWork
  extract_lets +onlyGivenNames e queued
  split
  · split
    · exact (((Touches.refl.then .setPw).then (State.showMode_touches ..)).then (State.abandon_touches ..))
    · exact Touches.refl
  · exact (Touches.refl.then (State.loadFail_touches ..))
  · split
    · exact (.getD Touches.refl (State.cancelRun_touches ..))
    · exact Touches.refl
  · split
    · split
      · exact (((Touches.refl.then (State.setJob_touches ..)).then (State.abandon_touches ..)).then (State.jobStep_touches ..))
      · exact Touches.refl
    · exact Touches.refl
  · split
    · exact ((Touches.refl.then (State.snapDrop_touches ..)).then (State.abandon_touches ..))
    · exact Touches.refl
  · exact ((Touches.refl.then .setFl).then (State.abandon_touches ..))
  · extract_lets +onlyGivenNames src s1
    refine .via (t := s1) (Touches.refl.then (State.setCrt_touches ..)) fun hs1 => ?_
    generalize s1 = s1 at hs1 ⊢
    exact (.then (.ite (hs1.then (State.crOff_touches ..)) hs1) (State.abandon_touches ..))
  · split
    · exact ((Touches.refl.then .setEv).then (State.abandon_touches ..))
    · exact Touches.refl
  · split
    · exact ((Touches.refl.then .setFl).then (State.abandon_touches ..))
    · exact Touches.refl
  · split
    · exact ((Touches.refl.then .setFl).then (State.abandon_touches ..))
    · exact Touches.refl
  · split
    · exact ((Touches.refl.then .setFl).then (State.abandon_touches ..))
    · exact Touches.refl
  · exact Touches.refl

theorem execTicketCancel_touches (client : Fin 64) (s : State) : Ends [.mr, .evr, .regs, .mem, .draw, .fab, .so, .runs, .bps, .cache,
      .alloc, .snaps, .fk, .ev, .rnd, .mcs, .ic, .dbg, .vl, .tkts, .handed, .replies, .cr, .pw, .fl] s (execTicketCancel client s) := by
  unfold execTicketCancel
  refine .serve fun t q => ?_
  extract_lets +onlyGivenNames h
  refine State.checked_touches .refl ?_
  split
  · exact Touches.refl.then (State.answer_touches ..)
  split
  · exact Touches.refl.then (State.answer_touches ..)
  split
  next u heq =>
    split at heq
    · exact .then (.then .refl ((State.cancelWork_touches ..).ofSome heq)) (State.answer_touches ..)
    · cases heq
  · exact Touches.refl.then (State.answer_touches ..)

theorem State.portSend_touches (s : State) (n : ℕ) (k : ℕ) (a : ℕ) (len : ℕ) (write : Bool) (data : List Byte) (bem : Option ℕ) (o :
      Origin) :
    Touches [.mcs] s (s.portSend n k a len write data bem o) := by
  unfold State.portSend
  extract_lets +onlyGivenNames p
  exact (Touches.refl.then (State.setMc_touches ..))

theorem State.mmpSend_touches (s : State) (n : ℕ) (k : ℕ) (a : ℕ) (len : ℕ) (write : Bool) (data : List Byte) (bem : Option ℕ) (o :
      Origin) :
    Touches [.evr, .regs, .draw, .ev, .rnd] s (((s.mmpSend n k a len write data bem o).map Prod.fst).getD s) := by
  unfold State.mmpSend
  extract_lets +onlyGivenNames stop tag
  split
  · rename_i x t heq
    refine .viaEq Prod.fst heq (.then Touches.refl (State.inject_touches ..)) fun ht => ?_
    exact ht
  · rename_i x t p heq
    refine .viaEq Prod.fst heq (.then Touches.refl (State.inject_touches ..)) fun ht => ?_
    exact ht
  · rename_i x fst heq
    refine .viaEq Prod.fst heq (.then Touches.refl (State.inject_touches ..)) fun hfst => ?_
    exact Touches.refl

theorem State.mmpGo_touches (s : State) (n : ℕ) (k : ℕ) (a : ℕ) (len : ℕ) (write : Bool) (data : List Byte) (bem : Option ℕ) (o :
      Origin) :
    Touches [.evr, .regs, .draw, .ev, .rnd, .mcs] s (((s.mmpGo n k a len write data bem o).map Prod.fst).getD s) := by
  unfold State.mmpGo
  split
  · exact (.getD Touches.refl (State.mmpSend_touches ..))
  · split
    · exact (Touches.refl.then (State.portSend_touches ..))
    · split
      · exact Touches.refl
      · exact Touches.refl

theorem State.mmpIssue_touches (s : State) (n : ℕ) (k : ℕ) :
    Touches [.evr, .regs, .draw, .fab, .ev, .rnd, .mcs] s (s.mmpIssue n k) := by
  unfold State.mmpIssue
  extract_lets +onlyGivenNames m direct s1
  refine .via (t := s1) ?_ fun hs1 => ?_
  · unfold s1
    split
    · extract_lets +onlyGivenNames r
      split
      · exact Touches.refl
      · extract_lets +onlyGivenNames w
        split
        · rename_i x t x' heq
          refine .via (Touches.refl.then ((State.mmpGo_touches ..).ofSomeFst heq)) fun ht => ?_
          exact (ht.then (State.setMmp_touches ..))
        · rename_i x heq
          exact Touches.refl
    · exact Touches.refl
  generalize s1 = s1 at hs1 ⊢
  split
  · split
    · exact hs1
    · split
      · rename_i x t x' heq
        refine .via (hs1.then ((State.mmpGo_touches ..).ofSomeFst heq)) fun ht => ?_
        exact (ht.then (State.setMmp_touches ..))
      · rename_i x heq
        exact hs1
  · exact hs1

theorem State.markStep_touches (s : State) (i : ℕ) :
    Touches [.runs] s (s.markStep i) := by
  unfold State.markStep
  extract_lets +onlyGivenNames r
  exact (.ite Touches.refl (Touches.refl.then (State.setRun_touches ..)))

theorem State.stepCount_touches (s : State) (i : ℕ) :
    Touches [.regs, .tkts] s (s.stepCount i) := by
  unfold State.stepCount
  extract_lets +onlyGivenNames r
  split
  · exact (Touches.refl.then (State.tktProgress_touches ..))
  · exact Touches.refl

theorem State.setBay_touches (s : State) (n : ℕ) (b : ℕ) (v : BayRt) :
    Touches [.fab] s (s.setBay n b v) := by
  unfold State.setBay
  exact (Touches.refl.then .setFab)

theorem State.setBank_touches (s : State) (k : ℕ) (v : BankRt) :
    Touches [.fab] s (s.setBank k v) := by
  unfold State.setBank
  exact (Touches.refl.then .setFab)

theorem State.launch_touches (s : State) (n : ℕ) (b : ℕ) (j : ℕ) (planes : List ℕ) :
    Touches [.fab] s (s.launch n b j planes) := by
  unfold State.launch
  split
  · exact Touches.refl
  · exact (.ite (.ite Touches.refl (Touches.refl.then (State.setBank_touches ..))) Touches.refl)

theorem State.sendBundles_touches (s : State) (i : ℕ) (cyc : ℕ) :
    Touches [.fab] s (s.sendBundles i cyc) := by
  unfold State.sendBundles
  exact (.each Touches.refl fun _ _ => (.ite (.ite (Touches.refl.then .setFab) (Touches.refl.then .setFab)) Touches.refl))

theorem State.oversub_touches (s : State) (i : ℕ) :
    Touches [.regs] s (s.oversub i) := by
  unfold State.oversub
  extract_lets +onlyGivenNames mine all
  exact (.each Touches.refl fun _ _ => (Touches.refl.then (State.setBit_part .regs _ _ _ _ (regPart_regs (le_index (by decide))))))

theorem State.tickDcc_touches (s : State) (i : ℕ) :
    Touches [.regs, .fab] s (s.tickDcc i) := by
  unfold State.tickDcc
  extract_lets +onlyGivenNames up s1
  refine .via (t := s1) (.ite (Touches.refl.then (State.setDcc_touches ..)) Touches.refl) fun hs1 => ?_
  generalize s1 = s1 at hs1 ⊢
  extract_lets +onlyGivenNames s2
  refine .via (t := s2) (.ite (hs1.then (State.setFld_part .regs _ _ _ _ _ (regPart_regs (le_index (le_index (le_index (by decide)))))))
        hs1) fun hs2 => ?_
  generalize s2 = s2 at hs2 ⊢
  exact (hs2.then (State.setBp_touches ..))

theorem State.eccCount_touches (s : State) (i : ℕ) (qs : List MemReq) :
    Touches [.regs] s (s.eccCount i qs) := by
  unfold State.eccCount
  refine (.each Touches.refl fun t q => ?_)
  split
  · exact (Touches.refl.then (State.count_part .regs _ _ _ _ _ (regPart_regs (le_index (le_index (by decide))))))
  · exact (Touches.refl.then (State.count_part .regs _ _ _ _ _ (regPart_regs (le_index (le_index (by decide))))))
  · exact Touches.refl

theorem State.putBit_touches (s : State) (base : ℕ) (n : ℕ) (v : Bool) :
    Touches [.mem] s (s.putBit base n v) := by
  unfold State.putBit
  exact (Touches.refl.then (State.putByte_touches ..))

theorem State.tickFfs_touches (s : State) (i : ℕ) :
    Touches [.mem] s (s.tickFfs i) := by
  unfold State.tickFfs
  exact (.each Touches.refl fun _ _ => (Touches.refl.then (State.putBit_touches ..)))

theorem State.tickSlices_touches (s : State) (i : ℕ) :
    Touches [.mem] s (s.tickSlices i) := by
  unfold State.tickSlices
  exact (.each Touches.refl fun _ _ => (Touches.refl.then (State.putSlice_touches ..)))

theorem State.putBitsAt_touches (s : State) (base : ℕ) (o : ℕ) (w : ℕ) (v : ℕ) (mask : ℕ) :
    Touches [.mem] s (s.putBitsAt base o w v mask) := by
  unfold State.putBitsAt
  extract_lets +onlyGivenNames old new win
  exact (Touches.refl.then (State.putLe_touches ..))

theorem State.memWrite_touches (s : State) (i : ℕ) (deep : Bool) (m : ℕ) (a : ℕ) (useBe : Bool) (be : ℕ) (v : ℕ) :
    Touches [.mem] s (s.memWrite i deep m a useBe be v) := by
  unfold State.memWrite
  extract_lets +onlyGivenNames c unit mask word
  exact (Touches.refl.then (State.putBitsAt_touches ..))

theorem State.setMemAdr_touches (s : State) (n : ℕ) (b : ℕ) (deep : Bool) (m : ℕ) (portB : Bool) (v : ℕ) :
    Touches [.regs] s (s.setMemAdr n b deep m portB v) := by
  unfold State.setMemAdr
  extract_lets +onlyGivenNames r
  exact (.ite (.ite (Touches.refl.then (State.setFld_part .regs _ _ _ _ _ (regPart_ite (regPart_regs (le_index (le_index (le_index (by
        decide)))))
        (regPart_regs (le_index (le_index (le_index (by
        decide))))))))
        (Touches.refl.then (State.setFld_part .regs _ _ _ _ _ (regPart_ite (regPart_regs (le_index (le_index (le_index (by decide)))))
        (regPart_regs (le_index (le_index (le_index (by
        decide)))))))))
        (.ite (Touches.refl.then (State.setFld_part .regs _ _ _ _ _ (regPart_ite (regPart_regs (le_index (le_index (le_index (by
        decide)))))
        (regPart_regs (le_index (le_index (le_index (by
        decide))))))))
        (Touches.refl.then (State.setFld_part .regs _ _ _ _ _ (regPart_ite (regPart_regs (le_index (le_index (le_index (by decide)))))
        (regPart_regs (le_index (le_index (le_index (by decide))))))))))

theorem State.tickPort_touches (s : State) (i : ℕ) (q : MemReq) :
    Touches [.regs, .mem] s (s.tickPort i q) := by
  unfold State.tickPort
  extract_lets +onlyGivenNames n b c s1
  refine .via (t := s1) (.each Touches.refl fun _ _ => (Touches.refl.then (State.setMemAdr_touches ..))) fun hs1 => ?_
  generalize s1 = s1 at hs1 ⊢
  exact (.ite hs1 (.ite (hs1.then (State.count_part .regs _ _ _ _ _ (regPart_regs (le_index (le_index (by decide)))))) (.ite (hs1.then
        (State.memWrite_touches ..)) hs1)))

theorem State.tickPorts_touches (s : State) (i : ℕ) :
    Touches [.regs, .mem] s (s.tickPorts i) := by
  unfold State.tickPorts
  exact (.each Touches.refl fun _ _ => (Touches.refl.then (State.tickPort_touches ..)))

theorem State.mmpRespond_touches (s : State) (n : ℕ) (k : ℕ) (data : ℕ) (err : Bool) (ue : Bool) :
    Touches [.regs, .fab] s (s.mmpRespond n k data err ue) := by
  unfold State.mmpRespond
  extract_lets +onlyGivenNames s1
  refine .via (t := s1) (.each Touches.refl fun _ _ => (Touches.refl.then (State.wr_part .regs _ _ _ (regPart_regs (le_index (le_index
        (le_index (by decide)))))))) fun hs1 => ?_
  generalize s1 = s1 at hs1 ⊢
  exact (((hs1.then (State.setBit_part .regs _ _ _ _ (regPart_regs (le_index (le_index (by decide)))))).then (State.setBit_part .regs _
        _ _ _ (regPart_regs (le_index (le_index (by decide)))))).then (State.setMmp_touches ..))

theorem State.mmpHit_touches (s : State) (n : ℕ) (k : ℕ) (q : MmpReq) (l : MmpLine) :
    Touches [.regs, .fab] s (s.mmpHit n k q l) := by
  unfold State.mmpHit
  extract_lets +onlyGivenNames m l' s1
  refine .via (t := s1) (Touches.refl.then (State.setMmp_touches ..)) fun hs1 => ?_
  generalize s1 = s1 at hs1 ⊢
  exact (hs1.then (State.mmpRespond_touches ..))

theorem State.mmpTake_touches (s : State) (n : ℕ) (k : ℕ) (q : MmpReq) :
    Touches [.regs, .fab] s (s.mmpTake n k q) := by
  unfold State.mmpTake
  split
  · exact ((Touches.refl.then (State.setBit_part .regs _ _ _ _ (regPart_regs (le_index (le_index (by decide)))))).then
        (State.mmpRespond_touches ..))
  · extract_lets +onlyGivenNames src wait
    refine .via (t := wait) (Touches.refl.then (State.setMmp_touches ..)) fun hwait => ?_
    generalize wait = wait at hwait ⊢
    split
    · exact hwait
    · split
      · exact (Touches.refl.then (State.mmpHit_touches ..))
      · exact (hwait.then (State.count_part .regs _ _ _ _ _ (regPart_regs (le_index (le_index (by decide))))))

theorem State.tickMmp_touches (s : State) (i : ℕ) :
    Touches [.regs, .fab] s (s.tickMmp i) := by
  unfold State.tickMmp
  split
  · exact (.ite (Touches.refl.then (State.mmpTake_touches ..)) Touches.refl)
  · exact Touches.refl

theorem State.tickPlane_touches (s : State) (i : ℕ) :
    Touches [.regs, .mem, .fab] s (s.tickPlane i) := by
  unfold State.tickPlane
  extract_lets +onlyGivenNames cyc s1
  refine .via (t := s1) ((((Touches.refl.then (State.tickFfs_touches ..)).then (State.tickSlices_touches ..)).then
        (State.tickPorts_touches ..)).then (State.tickMmp_touches ..)) fun hs1 => ?_
  generalize s1 = s1 at hs1 ⊢
  extract_lets +onlyGivenNames s2
  refine .via (t := s2) (.each hs1 fun _ _ => (Touches.refl.then (State.putBit_touches ..))) fun hs2 => ?_
  generalize s2 = s2 at hs2 ⊢
  extract_lets +onlyGivenNames s3
  refine .via (t := s3) ((hs2.then (State.tickDcc_touches ..)).then (State.eccCount_touches ..)) fun hs3 => ?_
  generalize s3 = s3 at hs3 ⊢
  extract_lets +onlyGivenNames src s4
  refine .via (t := s4) (hs3.then .setFab) fun hs4 => ?_
  generalize s4 = s4 at hs4 ⊢
  extract_lets +onlyGivenNames src' s5
  refine .via (t := s5) (hs4.then (State.setBp_touches ..)) fun hs5 => ?_
  generalize s5 = s5 at hs5 ⊢
  exact ((hs5.then (State.sendBundles_touches ..)).then (State.oversub_touches ..))

theorem State.tickEdge_touches (s : State) (n : ℕ) (b : ℕ) :
    Touches [.regs, .mem, .fab, .runs, .tkts] s (s.tickEdge n b) := by
  unfold State.tickEdge
  extract_lets +onlyGivenNames planes s1
  refine .via (t := s1) (.each Touches.refl fun _ _ => (Touches.refl.then (State.tickPlane_touches ..))) fun hs1 => ?_
  generalize s1 = s1 at hs1 ⊢
  extract_lets +onlyGivenNames s2
  refine .via (t := s2) ((hs1.then (State.launch_touches ..)).then (State.launch_touches ..)) fun hs2 => ?_
  generalize s2 = s2 at hs2 ⊢
  extract_lets +onlyGivenNames src s3
  refine .via (t := s3) (hs2.then (State.setBay_touches ..)) fun hs3 => ?_
  generalize s3 = s3 at hs3 ⊢
  extract_lets +onlyGivenNames s4
  refine .via (t := s4) (.each hs3 fun _ _ => (Touches.refl.then (State.relHoldNow_touches ..))) fun hs4 => ?_
  generalize s4 = s4 at hs4 ⊢
  extract_lets +onlyGivenNames s5
  refine .via (t := s5) (.each hs4 fun _ _ => ((Touches.refl.then (State.markStep_touches ..)).then (State.stepCount_touches
        ..))) fun hs5 => ?_
  generalize s5 = s5 at hs5 ⊢
  exact (.each hs5 fun _ _ => (Touches.refl.then (State.mmpFlushTry_touches ..)))

theorem execTickEdge_touches (n : Tile) (b : Bay) (s : State) :
    Ends [.evr, .regs, .mem, .draw, .fab, .runs, .ev, .rnd, .mcs, .tkts] s (execTickEdge n b s) := by
  unfold execTickEdge
  extract_lets +onlyGivenNames t s1
  refine .via (t := s1) (.each (Touches.refl.then (State.tickEdge_touches ..)) fun _ _ => (Touches.refl.then (State.mmpIssue_touches
        ..))) fun hs1 => ?_
  generalize s1 = s1 at hs1 ⊢
  refine .when ?_
  exact hs1

theorem State.pmFaultSet_touches (s : State) (bit : ℕ) (active : Bool) :
    Touches [.pm] s (s.pmFaultSet bit active) := by
  unfold State.pmFaultSet
  exact (((Touches.refl.then (State.setBit_part .pm _ _ _ _ rfl)).then (State.setBit_part .pm _ _ _ _ rfl)).then (State.faultN_touches
        ..))

theorem State.emergencyOff_touches (s : State) :
    Touches [.pm, .mr, .ep, .evr, .regs, .loStage, .mem, .fab, .so, .runs, .bps, .cache, .alloc, .snaps, .fk, .ev, .rnd, .tal, .mcs,
          .ic, .dbg, .vl, .tkts, .handed, .replies, .cr, .pw, .doms, .chg, .fl, .sp] s (s.emergencyOff) := by
  unfold State.emergencyOff
  extract_lets +onlyGivenNames s1
  refine .via (t := s1) (Touches.refl.then (State.allOff_touches ..)) fun hs1 => ?_
  generalize s1 = s1 at hs1 ⊢
  extract_lets +onlyGivenNames s2
  refine .via (t := s2) ((hs1.then (State.setFld_part .pm _ _ _ _ _ rfl)).then (State.pmFaultSet_touches ..)) fun hs2 => ?_
  generalize s2 = s2 at hs2 ⊢
  exact ((hs2.then .setPw).then (State.setMode_touches ..))

theorem State.modeReached_touches (s : State) (m : ℕ) :
    Touches [.pm, .mr, .evr, .ev, .tal, .chg] s (s.modeReached m) := by
  unfold State.modeReached
  exact ((((Touches.refl.then .setChg).then (State.setMode_touches ..)).then (State.setFld_part .mr _ _ _ _ _ rfl)).then
        (State.event_touches ..))

theorem State.applyHolds_touches (s : State) :
    Touches [.regs, .fab] s (s.applyHolds) := by
  unfold State.applyHolds
  exact (.ite (.each Touches.refl fun _ _ => (Touches.refl.then (State.holdApply_touches ..))) Touches.refl)

theorem State.stopRuns_touches (s : State) (halting : Bool) :
    Touches [.regs, .fab, .runs] s (s.stopRuns halting) := by
  unfold State.stopRuns
  extract_lets +onlyGivenNames live
  exact (.then (.each Touches.refl fun _ _ => (Touches.refl.then (State.setRun_touches ..))) (State.applyHolds_touches ..))

theorem State.enterHold_touches (s : State) :
    Touches [.pm, .mr, .evr, .regs, .fab, .runs, .ev, .tal, .pw, .chg] s (s.enterHold) := by
  unfold State.enterHold
  extract_lets +onlyGivenNames from' s1
  refine .via (t := s1) ((Touches.refl.then (State.setFld_part .pm _ _ _ _ _ rfl)).then (State.event_touches ..)) fun hs1 => ?_
  generalize s1 = s1 at hs1 ⊢
  extract_lets +onlyGivenNames src s2
  refine .via (t := s2) (hs1.then .setPw) fun hs2 => ?_
  generalize s2 = s2 at hs2 ⊢
  extract_lets +onlyGivenNames s3
  refine .via (t := s3) (.each hs2 fun _ _ => (Touches.refl.then (State.setRun_touches ..))) fun hs3 => ?_
  generalize s3 = s3 at hs3 ⊢
  exact ((hs3.then (State.modeReached_touches ..)).then (State.stopRuns_touches ..))

theorem State.safeHold_touches (s : State) :
    Touches [.pm, .mr, .evr, .regs, .fab, .runs, .ev, .tal, .pw, .chg] s (s.safeHold) := by
  unfold State.safeHold
  split
  · exact Touches.refl
  · extract_lets +onlyGivenNames src s1
    refine .via (t := s1) (Touches.refl.then .setPw) fun hs1 => ?_
    generalize s1 = s1 at hs1 ⊢
    split
    · exact (.ite (hs1.then (State.enterHold_touches ..)) (.ite hs1 (hs1.then .setPw)))
    · exact (hs1.then (State.enterHold_touches ..))

theorem State.pmFaultEnd_touches (s : State) (bit : ℕ) :
    Touches [.pm] s (s.pmFaultEnd bit) := by
  unfold State.pmFaultEnd
  exact (Touches.refl.then (State.setBit_part .pm _ _ _ _ rfl))

theorem State.emergencyClear_touches (s : State) :
    Touches [.pm, .mr, .regs, .draw, .tal, .dbg, .pw] s (s.emergencyClear) := by
  unfold State.emergencyClear
  split
  · extract_lets +onlyGivenNames s1
    refine .via (t := s1) (Touches.refl.then (State.pmFaultEnd_touches ..)) fun hs1 => ?_
    generalize s1 = s1 at hs1 ⊢
    split
    · exact (hs1.then (State.wakeBy_touches ..))
    · exact hs1
  · exact Touches.refl

theorem State.thermalEnds_touches (s : State) (t16 : ℤ) :
    Touches [.pm, .mr, .regs, .draw, .tal, .dbg, .pw] s (s.thermalEnds t16) := by
  unfold State.thermalEnds
  extract_lets +onlyGivenNames s1
  refine .via (t := s1) (.ite (Touches.refl.then (State.pmFaultEnd_touches ..)) Touches.refl) fun hs1 => ?_
  generalize s1 = s1 at hs1 ⊢
  exact (.then (.ite (hs1.then (State.pmFaultEnd_touches ..)) hs1) (State.emergencyClear_touches ..))

theorem execThermalRead_touches (sixteenths : ℤ) (s : State) :
    Ends [.pm, .mr, .ep, .evr, .regs, .loStage, .mem, .draw, .fab, .so, .runs, .bps, .cache, .alloc, .snaps, .fk, .ev, .rnd, .tal, .mcs,
          .ic, .dbg, .vl, .tkts, .handed, .replies, .cr, .pw, .doms, .chg, .fl, .sp] s (execThermalRead sixteenths s) := by
  unfold execThermalRead
  extract_lets +onlyGivenNames t warn src s1
  refine .via (t := s1) ((Touches.refl.then .setPw).then (State.setFld_part .pm _ _ _ _ _ rfl)) fun hs1 => ?_
  generalize s1 = s1 at hs1 ⊢
  extract_lets +onlyGivenNames src' s2
  refine .via (t := s2) (.ite ((hs1.then .setPw).then (State.event_touches ..)) (.ite (hs1.then .setPw) hs1)) fun hs2 => ?_
  generalize s2 = s2 at hs2 ⊢
  extract_lets +onlyGivenNames s3
  refine .via (t := s3) (hs2.then (State.thermalEnds_touches ..)) fun hs3 => ?_
  generalize s3 = s3 at hs3 ⊢
  extract_lets +onlyGivenNames s4
  refine .via (t := s4) (.ite ((hs3.then (State.pmFaultSet_touches ..)).then (State.safeHold_touches ..)) hs3) fun hs4 => ?_
  generalize s4 = s4 at hs4 ⊢
  extract_lets +onlyGivenNames s5
  refine .via (t := s5) (.ite (.ite hs4 ((hs4.then (State.pmFaultSet_touches ..)).then (State.emergencyOff_touches ..)))
        hs4) fun hs5 => ?_
  generalize s5 = s5 at hs5 ⊢
  refine .when ?_
  exact hs5

theorem State.tapIr_touches (s : State) (ir : ℕ) (cap : ℕ) :
    Touches [.dbg] s (s.tapIr ir cap) := by
  unfold State.tapIr
  exact (Touches.refl.then .setDbg)

theorem State.tapCode_touches (s : State) (code : ℕ) :
    Touches [.draw, .dbg] s (s.tapCode code) := by
  unfold State.tapCode
  split
  · exact ((Touches.refl.then (State.tapIr_touches ..)).then (State.drawn_touches ..))
  · exact ((Touches.refl.then (State.tapIr_touches ..)).then (State.drawn_touches ..))
  · exact (Touches.refl.then (State.tapIr_touches ..))
  · exact (Touches.refl.then (State.tapIr_touches ..))
  · exact (Touches.refl.then (State.tapIr_touches ..))

theorem execTapSamplePreload_touches (s : State) :
    Ends [.draw, .dbg] s (execTapSamplePreload s) := by
  unfold execTapSamplePreload
  refine .when ?_
  exact (Touches.refl.then (State.tapCode_touches ..))

theorem execTapIdcode_touches (s : State) :
    Ends [.draw, .dbg] s (execTapIdcode s) := by
  unfold execTapIdcode
  refine .when ?_
  exact (Touches.refl.then (State.tapCode_touches ..))

theorem execTapExtest_touches (s : State) :
    Ends [.draw, .dbg] s (execTapExtest s) := by
  unfold execTapExtest
  refine .when ?_
  exact (Touches.refl.then (State.tapCode_touches ..))

theorem execTapDbgacc_touches (s : State) :
    Ends [.draw, .dbg] s (execTapDbgacc s) := by
  unfold execTapDbgacc
  refine .when ?_
  exact (Touches.refl.then (State.tapCode_touches ..))

theorem execTapBypass_touches (code : Fin 32) (s : State) :
    Ends [.draw, .dbg] s (execTapBypass code s) := by
  unfold execTapBypass
  refine .when ?_
  exact (Touches.refl.then (State.tapCode_touches ..))

theorem State.putLeaf_touches (s : State) (j : ℕ) (v : ℕ) :
    Touches [.tal] s (s.putLeaf j v) := by
  unfold State.putLeaf
  extract_lets +onlyGivenNames c
  exact (Touches.refl.then .setTal)

theorem execTallyReport_touches (stop : Fin 18) (s : State) :
    Ends [.tal] s (execTallyReport stop s) := by
  unfold execTallyReport
  extract_lets +onlyGivenNames s1
  refine .via (t := s1) (.each Touches.refl fun _ _ => (Touches.refl.then (State.putLeaf_touches ..))) fun hs1 => ?_
  generalize s1 = s1 at hs1 ⊢
  refine .when ?_
  exact (hs1.then .setTal)

theorem State.repairEvent_touches (s : State) (l : ℕ) (level : ℕ) (slot : ℕ) :
    Touches [.evr, .draw, .ev] s (s.repairEvent l level slot) := by
  unfold State.repairEvent
  exact ((Touches.refl.then (State.event_touches ..)).then (State.drawn_touches ..))

theorem State.recompute_touches (s : State) (k : ℕ) :
    Touches [.evr, .regs, .draw, .ev] s (s.recompute k) := by
  unfold State.recompute
  extract_lets +onlyGivenNames s1
  refine .via (t := s1) (Touches.refl.then (State.count_part .regs _ _ _ _ _ rfl)) fun hs1 => ?_
  generalize s1 = s1 at hs1 ⊢
  exact (.ite ((hs1.then (State.wr_part .regs _ _ _ (regPart_regs (le_index (by decide))))).then (State.repairEvent_touches ..)) (.ite
        (hs1.then (State.repairEvent_touches ..)) (hs1.then (State.repairEvent_touches ..))))

theorem State.sumNodes_touches (s : State) :
    Touches [.regs] s (s.sumNodes) := by
  unfold State.sumNodes
  extract_lets +onlyGivenNames dev s1
  refine .via (t := s1) (.each Touches.refl fun _ _ => ((Touches.refl.then (State.wr_part .regs _ _ _ (regPart_regs (le_index (by
        decide))))).then (State.wr_part .regs _ _ _ (regPart_regs (le_index (by decide)))))) fun hs1 => ?_
  generalize s1 = s1 at hs1 ⊢
  extract_lets +onlyGivenNames sum bad n s2
  refine .via (t := s2) ((hs1.then (State.wr_part .regs _ _ _ rfl)).then (State.wr_part .regs _ _ _ rfl)) fun hs2 => ?_
  generalize s2 = s2 at hs2 ⊢
  exact (((hs2.then (State.setBit_part .regs _ _ _ _ rfl)).then (State.setBit_part .regs _ _ _ _ rfl)).then (State.setFld_part .regs _ _
        _ _ _ rfl))

theorem State.discrepancy_touches (s : State) (l : ℕ) (dev : ℕ) :
    Touches [.evr, .regs, .ev] s (s.discrepancy l dev) := by
  unfold State.discrepancy
  extract_lets +onlyGivenNames ep leaves s1
  refine .via (t := s1) (((Touches.refl.then (State.count_part .regs _ _ _ _ _ rfl)).then (State.wr_part .regs _ _ _ rfl)).then
        (State.wr_part .regs _ _ _ rfl)) fun hs1 => ?_
  generalize s1 = s1 at hs1 ⊢
  extract_lets +onlyGivenNames s2
  refine .via (t := s2) (hs1.then (State.wr_part .regs _ _ _ rfl)) fun hs2 => ?_
  generalize s2 = s2 at hs2 ⊢
  extract_lets +onlyGivenNames s3
  refine .via (t := s3) (.ite hs2 (hs2.then (State.setBit_part .regs _ _ _ _ rfl))) fun hs3 => ?_
  generalize s3 = s3 at hs3 ⊢
  exact (hs3.then (State.event_touches ..))

theorem State.auditLedger_touches (s : State) (l : ℕ) :
    Touches [.evr, .regs, .ev, .tal] s (s.auditLedger l) := by
  unfold State.auditLedger
  extract_lets +onlyGivenNames info
  exact (.ite ((Touches.refl.then (State.setBit_part .regs _ _ _ _ (regPart_regs (le_index (by decide))))).then (State.setBit_part .regs
        _ _ _ _ (regPart_regs (le_index (by decide))))) (.ite (.ite (((((Touches.refl.then .setTal).then (State.count_part .regs _ _ _ _
        _ rfl)).then (State.setBit_part .regs _ _ _ _ (regPart_regs (le_index (by
        decide))))).then
        (State.setBit_part .regs _ _ _ _ (regPart_regs (le_index (by decide))))).then (State.event_touches ..)) ((((Touches.refl.then
        .setTal).then (State.count_part .regs _ _ _ _ _ rfl)).then (State.setBit_part .regs _ _ _ _ (regPart_regs (le_index (by
        decide))))).then
        (State.setBit_part .regs _ _ _ _ (regPart_regs (le_index (by decide)))))) (.ite (((Touches.refl.then .setTal).then
        (State.setBit_part .regs _ _ _ _ (regPart_regs (le_index (by decide))))).then (State.setBit_part .regs _ _ _ _ (regPart_regs
        (le_index (by decide))))) (.ite (.then (.each ((((Touches.refl.then .setTal).then (State.setBit_part .regs _ _ _ _ (regPart_regs
        (le_index (by decide))))).then (State.setBit_part .regs _ _ _ _ (regPart_regs (le_index (by
        decide))))).then
        (State.wr_part .regs _ _ _ (regPart_regs (le_index (by decide))))) fun _ _ => (Touches.refl.then (State.wr_part .regs _ _ _
        (regPart_regs (le_index (by decide)))))) (State.discrepancy_touches ..)) (.each ((((Touches.refl.then
        .setTal).then (State.setBit_part .regs _ _ _ _ (regPart_regs (le_index (by
        decide))))).then
        (State.setBit_part .regs _ _ _ _ (regPart_regs (le_index (by decide))))).then (State.wr_part .regs _ _ _ (regPart_regs (le_index
        (by decide))))) fun _ _ => (Touches.refl.then (State.wr_part .regs _ _ _ (regPart_regs (le_index (by decide))))))))))

theorem State.readLeaf_touches (s : State) (j : ℕ) :
    Touches [.evr, .regs, .draw, .ev, .tal] s (s.readLeaf j) := by
  unfold State.readLeaf
  extract_lets +onlyGivenNames a b
  exact (.ite Touches.refl (((Touches.refl.then (State.putLeaf_touches ..)).then (State.count_part .regs _ _ _ _ _ rfl)).then
        (State.repairEvent_touches ..)))

theorem execTallyAudit_touches (badA : List ℕ) (badB : List ℕ) (badNodes : List ℕ) (s : State) :
    Ends [.evr, .regs, .draw, .ev, .tal, .pw] s (execTallyAudit badA badB badNodes s) := by
  unfold execTallyAudit
  extract_lets +onlyGivenNames inUse src s1
  refine .via (t := s1) (Touches.refl.then .setTal) fun hs1 => ?_
  generalize s1 = s1 at hs1 ⊢
  extract_lets +onlyGivenNames touched s2
  refine .via (t := s2) (.each hs1 fun _ _ => (Touches.refl.then (State.readLeaf_touches ..))) fun hs2 => ?_
  generalize s2 = s2 at hs2 ⊢
  extract_lets +onlyGivenNames lost src' s3
  refine .via (t := s3) (hs2.then .setTal) fun hs3 => ?_
  generalize s3 = s3 at hs3 ⊢
  extract_lets +onlyGivenNames s4
  refine .via (t := s4) (.each hs3 fun _ _ => (Touches.refl.then (State.auditLedger_touches ..))) fun hs4 => ?_
  generalize s4 = s4 at hs4 ⊢
  extract_lets +onlyGivenNames s5
  refine .via (t := s5) (.then (.each hs4 fun _ _ => (Touches.refl.then (State.recompute_touches ..))) (State.sumNodes_touches
        ..)) fun hs5 => ?_
  generalize s5 = s5 at hs5 ⊢
  extract_lets +onlyGivenNames s6
  refine .via (t := s6) (hs5.then (State.wr_part .regs _ _ _ rfl)) fun hs6 => ?_
  generalize s6 = s6 at hs6 ⊢
  extract_lets +onlyGivenNames src'' src''' s7
  refine .via (t := s7) (hs6.then .setTalPw) fun hs7 => ?_
  generalize s7 = s7 at hs7 ⊢
  refine .when ?_
  exact (.ite (Touches.refl.then .setTal) (.ite hs3 hs7))

theorem State.spareTakes_touches (s : State) (n : ℕ) (g : ℕ) (l : ℕ) :
    Touches [.regs] s (s.spareTakes n g l) := by
  unfold State.spareTakes
  extract_lets +onlyGivenNames s1
  refine .via (t := s1) (((Touches.refl.then (State.setBit_part .regs _ _ _ _ (regPart_regs (le_index (le_index (by decide)))))).then
        (State.setBit_part .regs _ _ _ _ (regPart_regs (le_index (le_index (by
        decide)))))).then (State.setFld_part .regs _ _ _ _ _ (regPart_regs (le_index (le_index (by decide)))))) fun hs1 => ?_
  generalize s1 = s1 at hs1 ⊢
  split
  · exact (hs1.then (State.setLaneSt_touches ..))
  · exact hs1

theorem execTakeoverReq_touches (n : Tile) (g : Tile) (lane : Fin 16) (s : State) :
    Ends [.regs, .cr] s (execTakeoverReq n g lane s) := by
  unfold execTakeoverReq
  extract_lets +onlyGivenNames l spare
  refine .when ?_
  exact ((Touches.refl.then (State.spareTakes_touches ..)).then (State.crSendCtl_touches ..))

theorem State.takeoverAck_touches (s : State) (n : ℕ) (g : ℕ) (l : ℕ) (ns : ℕ) :
    Carries [.evr, .regs, .draw, .ev, .cr] s Prod.fst (s.takeoverAck n g l ns) := by
  unfold State.takeoverAck
  split
  · exact (.pair Touches.refl)
  · extract_lets +onlyGivenNames s1
    refine .via (t := s1) (Touches.refl.then (State.spareTakes_touches ..)) fun hs1 => ?_
    generalize s1 = s1 at hs1 ⊢
    split
    · split
      extract_lets +onlyGivenNames rest src s2
      refine .via (t := s2) ((hs1.then (State.setCrg_touches ..)).then (State.crSendCtl_touches ..)) fun hs2 => ?_
      generalize s2 = s2 at hs2 ⊢
      exact (.pair ((((hs2.then (State.drawn_touches ..)).then (State.count_part .regs _ _ _ _ _ (regPart_regs (le_index (le_index (by
            decide)))))).then
            (State.wr_part .regs _ _ _ (regPart_regs (le_index (le_index (by decide)))))).then (State.event_touches ..)))
    · exact (.ite (.pair ((hs1.then (State.setLaneSt_touches ..)).then (State.setCrg_touches ..))) (.pair ((hs1.then
          (State.setCrl_touches ..)).then (State.setCrg_touches ..))))

theorem execTakeoverAck_touches (n : Tile) (g : Tile) (lane : Fin 16) (ns : Word) (s : State) :
    Ends [.evr, .regs, .draw, .ev, .vl, .tkts, .replies, .cr] s (execTakeoverAck n g lane ns s) := by
  unfold execTakeoverAck
  split
  rename_i x t q heq
  refine .viaEq Prod.fst heq (.then Touches.refl (State.takeoverAck_touches ..)) fun ht => ?_
  refine .when ?_
  split
  · rename_i x' q
    refine .viaEq Prod.fst heq (.then Touches.refl (State.takeoverAck_touches ..)) fun ht' => ?_
    exact (ht.then (State.answer_touches ..))
  · rename_i x'
    refine .viaEq Prod.fst heq (.then Touches.refl (State.takeoverAck_touches ..)) fun ht' => ?_
    exact ht

theorem execSystemReset_touches (client : Fin 64) (s : State) :
    Ends [.vl, .tkts, .handed, .replies] s (execSystemReset client s) := by
  unfold execSystemReset
  exact (.serve fun _ _ => (State.checked_touches Touches.refl ((Touches.refl.then (State.dropResv_touches ..)).then
        (State.sendReply_touches ..))))

theorem execSweepBoundExceeded_touches (n : Tile) (sb : Bool) (s : State) :
    Ends [.evr, .regs, .ev] s (execSweepBoundExceeded n sb s) := by
  unfold execSweepBoundExceeded
  refine .when ?_
  exact ((Touches.refl.then (State.setBit_part .regs _ _ _ _ (regPart_regs (le_index (by decide))))).then (State.event_touches ..))

theorem State.tktProgress?_touches (s : State) (i : Option ℕ) (prog : ℕ) (part : ℕ) :
    Touches [.regs, .tkts] s (s.tktProgress? i prog part) := by
  unfold State.tktProgress?
  split
  · exact (Touches.refl.then (State.tktProgress_touches ..))
  · exact Touches.refl

theorem State.takePort_touches (s : State) (n : ℕ) (k : ℕ) (i : ℕ) :
    Touches [.regs] s (s.takePort n k i) := by
  unfold State.takePort
  extract_lets +onlyGivenNames e
  split
  · exact Touches.refl
  · extract_lets +onlyGivenNames s1
    refine .via (t := s1) ((Touches.refl.then (State.setFld_part .regs _ _ _ _ _ (regPart_regs (le_index (le_index (by decide)))))).then
          (State.setBit_part .regs _ _ _ _ (regPart_regs (le_index (le_index (by decide)))))) fun hs1 => ?_
    generalize s1 = s1 at hs1 ⊢
    split
    · exact (((hs1.then (State.wr64_part .regs _ _ _ _ (regPart_regs (le_index (le_index (by decide)))) (regPart_regs (le_index
          (le_index (by decide)))))).then (State.wr64_part .regs _ _ _ _ (regPart_regs (le_index (le_index (by
          decide))))
          (regPart_regs (le_index (le_index (by decide)))))).then (State.setBit_part .regs _ _ _ _ (regPart_regs (le_index (le_index (by
          decide))))))
    · exact hs1

theorem State.takeSlot_touches (s : State) (n : ℕ) (t : ℕ) (p : ℕ) (src : ℕ) (bay : ℕ) :
    Touches [.regs, .draw, .fab] s (s.takeSlot n t p src bay) := by
  unfold State.takeSlot
  extract_lets +onlyGivenNames w
  refine .via (t := w) (Touches.refl.then (State.wr_part .regs _ _ _ (regPart_regs (le_index (le_index (le_index (by
        decide))))))) fun hw => ?_
  generalize w = w at hw ⊢
  exact (.ite hw ((hw.then (State.drawn_touches ..)).then .setFab))

theorem State.writeTile_touches (s : State) (i : ℕ) :
    Touches [.regs, .draw, .fab] s (s.writeTile i) := by
  unfold State.writeTile
  extract_lets +onlyGivenNames e n s1
  refine .via (t := s1) (.each Touches.refl fun _ _ => (.ite (Touches.refl.then (State.wr_part .regs _ _ _ (regPart_regs (le_index
        (le_index (by decide)))))) Touches.refl)) fun hs1 => ?_
  generalize s1 = s1 at hs1 ⊢
  extract_lets +onlyGivenNames s2
  refine .via (t := s2) (.each hs1 fun _ _ => (Touches.refl.then (State.takeSlot_touches ..))) fun hs2 => ?_
  generalize s2 = s2 at hs2 ⊢
  extract_lets +onlyGivenNames s3
  refine .via (t := s3) ?_ fun hs3 => ?_
  · unfold s3
    split
    · exact (hs2.then (State.takePort_touches ..))
    · exact hs2
  generalize s3 = s3 at hs3 ⊢
  exact (.each hs3 fun _ _ => (Touches.refl.then (State.wrFields_part .regs _ _ _ (regPart_regs (le_index (le_index (by decide)))))))

theorem State.writeRoutes_touches (s : State) (i : ℕ) :
    Touches [.regs] s (s.writeRoutes i) := by
  unfold State.writeRoutes
  extract_lets +onlyGivenNames e s1
  refine .via (t := s1) (.each Touches.refl fun _ _ => (Touches.refl.then (State.wr_part .regs _ _ _ (regPart_regs (le_index (le_index
        (le_index (le_index (by decide))))))))) fun hs1 => ?_
  generalize s1 = s1 at hs1 ⊢
  exact (hs1.then (State.wr64_part .regs _ _ _ _ (regPart_regs (le_index (le_index (le_index (by decide))))) (regPart_regs (le_index
        (le_index (le_index (by decide)))))))

theorem State.putFrames_touches (s : State) (i f k : Nat) (d : List Byte) : Touches [.mem, .fab] s (s.putFrames i f k d) := by
  induction k generalizing s f d with
  | zero => exact .refl
  | succ k ih => exact (State.putFrame_touches s _ _ _).then (ih _ _ _)

theorem State.loadFrames_touches (s : State) (i : ℕ) :
    Carries [.mr, .evr, .regs, .mem, .draw, .fab, .so, .runs, .bps, .cache, .alloc, .snaps, .ev, .rnd, .mcs, .ic, .dbg, .tkts,
          .pw] s Got.st (s.loadFrames i) := by
  unfold State.loadFrames
  extract_lets +onlyGivenNames e
  split
  · exact (.got Touches.refl)
  · split
    rename_i x t e' heq
    refine .viaEq Prod.fst heq (.then Touches.refl (State.pmGet_touches ..)) fun ht => ?_
    extract_lets +onlyGivenNames g
    refine .viaOf Got.st g (.then ht (State.dramRead_touches ..)) fun hg => ?_
    generalize g = g at hg ⊢
    exact (.ite (.got hg) (.got (hg.then (State.putFrames_touches ..))))

theorem State.designGc_touches (s : State) (d : ℕ) :
    Touches [.so] s (s.designGc d) := by
  unfold State.designGc
  extract_lets +onlyGivenNames x
  exact (.ite (Touches.refl.then (State.setDesign_touches ..)) Touches.refl)

theorem State.refUp_touches (s : State) (h : ℕ) :
    Touches [.mr, .evr, .regs, .mem, .draw, .fab, .so, .runs, .bps, .cache, .alloc, .snaps, .ev, .rnd, .mcs, .ic, .dbg, .tkts,
          .pw] s (s.refUp h) := by
  unfold State.refUp
  split
  rename_i x t e heq
  refine .viaEq Prod.fst heq (.then Touches.refl (State.pmGet_touches ..)) fun ht => ?_
  exact (.ite ht (ht.then (State.pmPut_touches ..)))

theorem State.refDown_touches (s : State) (h : ℕ) :
    Touches [.mr, .evr, .regs, .mem, .draw, .fab, .so, .runs, .bps, .cache, .alloc, .snaps, .ev, .rnd, .mcs, .ic, .dbg, .tkts,
          .pw] s (s.refDown h) := by
  unfold State.refDown
  split
  rename_i x t e heq
  refine .viaEq Prod.fst heq (.then Touches.refl (State.pmGet_touches ..)) fun ht => ?_
  exact (.ite ht (.ite (ht.then (State.pmFree_touches ..)) (ht.then (State.pmPut_touches ..))))

theorem State.swapTable_touches (s : State) (r : ℕ) (k : ℕ) (h : ℕ) (page : PageD) :
    Touches [.mr, .evr, .regs, .mem, .draw, .fab, .so, .runs, .bps, .cache, .alloc, .snaps, .ev, .rnd, .mcs, .ic, .dbg, .tkts,
          .pw] s (s.swapTable r k h page) := by
  unfold State.swapTable
  extract_lets +onlyGivenNames old design s0
  refine .via (t := s0) ((Touches.refl.then (State.refUp_touches ..)).then (State.refDown_touches ..)) fun hs0 => ?_
  generalize s0 = s0 at hs0 ⊢
  extract_lets +onlyGivenNames rest' src s1
  refine .via (t := s1) (hs0.then (State.setRun_touches ..)) fun hs1 => ?_
  generalize s1 = s1 at hs1 ⊢
  extract_lets +onlyGivenNames rest own slot src' s2
  refine .via (t := s2) (hs1.then .setSo) fun hs2 => ?_
  generalize s2 = s2 at hs2 ⊢
  generalize design = design
  split
  · exact (hs2.then (State.designGc_touches ..))
  · exact hs2

theorem State.pageAt_touches (s : State) (h : ℕ) (run : ℕ) :
    Carries [.mr, .evr, .regs, .mem, .draw, .fab, .so, .runs, .bps, .cache, .alloc, .snaps, .ev, .rnd, .mcs, .ic, .dbg, .tkts,
          .pw] s Prod.fst (s.pageAt h run) := by
  unfold State.pageAt
  split
  rename_i x t e heq
  refine .viaEq Prod.fst heq (.then Touches.refl (State.pmGet_touches ..)) fun ht => ?_
  exact (.ite (.pair ht) (.ite (.pair (.then (.then ht (State.dramRead_touches ..)) (State.dramRead_touches ..))) (.pair (.then (.then
        ht (State.dramRead_touches ..)) (State.dramRead_touches ..)))))

theorem State.swapCheck_touches (s : State) (r : ℕ) (q : PendReq) :
    Carries [.mr, .evr, .regs, .mem, .draw, .fab, .so, .runs, .bps, .cache, .alloc, .snaps, .ev, .rnd, .mcs, .ic, .dbg, .tkts,
          .pw] s Prod.fst (s.swapCheck r q) := by
  unfold State.swapCheck
  extract_lets +onlyGivenNames x d back
  split
  · exact (.pair Touches.refl)
  · extract_lets +onlyGivenNames h
    split
    · rename_i x' t heq
      refine .viaEq Prod.fst heq (.then Touches.refl (State.pageAt_touches ..)) fun ht => ?_
      exact (.pair ht)
    · rename_i x' t p heq
      refine .viaEq Prod.fst heq (.then Touches.refl (State.pageAt_touches ..)) fun ht => ?_
      split
      · rename_i x'' t' heq'
        refine .viaEq Prod.fst heq' (.then ht (State.pageAt_touches ..)) fun ht' => ?_
        exact (.pair ht')
      · rename_i x'' t' p' heq'
        refine .viaEq Prod.fst heq' (.then ht (State.pageAt_touches ..)) fun ht' => ?_
        extract_lets +onlyGivenNames v at' tiles clkOk planes retOk base routesOk same full
        exact (.ite (.pair ht') (.ite (.pair ht') (.pair ht')))

theorem execSwapFramesWritten_touches (run : Fin 4096) (s : State) :
    Ends [.mr, .evr, .regs, .mem, .draw, .fab, .so, .runs, .bps, .cache, .alloc, .snaps, .ev, .rnd, .mcs, .ic, .dbg, .tkts,
          .pw] s (execSwapFramesWritten run s) := by
  unfold execSwapFramesWritten
  extract_lets +onlyGivenNames r x
  split
  · split
    · split
      rename_i x' t err h page heq
      refine .viaEq Prod.fst heq (.then Touches.refl (State.swapCheck_touches ..)) fun ht => ?_
      extract_lets +onlyGivenNames e t1
      refine .via (t := t1) ((ht.then (State.swapTable_touches ..)).then (State.setBpRec_touches ..)) fun ht1 => ?_
      generalize t1 = t1 at ht1 ⊢
      extract_lets +onlyGivenNames g
      refine .viaOf Got.st g (.then ht1 (State.loadFrames_touches ..)) fun hg => ?_
      generalize g = g at hg ⊢
      extract_lets +onlyGivenNames src t2
      refine .via (t := t2) ((((hg.then (State.setBpRec_touches ..)).then (State.releaseTile_touches ..)).then (State.writeTile_touches
            ..)).then (State.writeRoutes_touches ..)) fun ht2 => ?_
      generalize t2 = t2 at ht2 ⊢
      extract_lets +onlyGivenNames fin done
      refine .via (t := done) (((ht2.then (State.setRun_touches ..)).then (State.tktProgress?_touches ..)).then (State.tktEnd?_touches
            ..)) fun hdone => ?_
      generalize done = done at hdone ⊢
      extract_lets +onlyGivenNames res
      refine .via (t := res) (.ite ((ht.then (State.setRun_touches ..)).then (State.tktEnd?_touches ..)) (.ite ((hg.then
            (State.setRun_touches ..)).then (State.runFault_touches ..)) hdone)) fun hres => ?_
      generalize res = res at hres ⊢
      refine .when ?_
      exact hres
    · split
      rename_i x' t err h page heq
      refine .viaEq Prod.fst heq (.then Touches.refl (State.swapCheck_touches ..)) fun ht => ?_
      extract_lets +onlyGivenNames u
      refine .via (t := u) (.ite (ht.then (State.tktEnd?_touches ..)) ((ht.then (State.swapTable_touches ..)).then
            (State.tktEnd?_touches ..))) fun hu => ?_
      generalize u = u at hu ⊢
      refine .when ?_
      exact (hu.then (State.setRun_touches ..))
  · refine .next ?_
    exact Touches.refl

theorem State.engineAccess_touches (s : State) (stop : ℕ) (mid : ℕ) (a : ℕ) (n : ℕ) (write : Bool) (data : List Byte) :
    Carries [.pm, .mr, .ep, .evr, .regs, .loStage, .mem, .draw, .fab, .so, .runs, .bps, .cache, .alloc, .snaps, .fk, .ev, .rnd, .tal,
          .mcs,
          .ic,
          .dbg, .vl, .tkts, .handed, .replies, .cr, .pw, .doms, .chg, .fl, .sp] s Got.st (s.engineAccess stop mid a n write data) := by
  unfold State.engineAccess
  exact (.ite (.got (Touches.refl.then (State.noDecode_touches ..))) (.ite (.got Touches.refl) (.then Touches.refl (State.access_touches
        ..))))

theorem State.ringCtl_touches (s : State) (x : Stream) :
    Carries [.pm, .mr, .ep, .evr, .regs, .loStage, .mem, .draw, .fab, .so, .runs, .bps, .cache, .alloc, .snaps, .fk, .ev, .rnd, .tal,
          .mcs, .ic, .dbg, .vl, .tkts, .handed, .replies, .cr, .pw, .doms, .chg, .fl, .sp] s Prod.fst (s.ringCtl x) := by
  unfold State.ringCtl
  extract_lets +onlyGivenNames g
  refine .viaOf Got.st g (.then Touches.refl (State.engineAccess_touches ..)) fun hg => ?_
  generalize g = g at hg ⊢
  exact (.pair hg)

theorem State.onStream_touches {P : List Part} {s t : State} {q : VReq} {good : Bool} {f : Nat → Stream → State} (h : Touches P s t)
    (hf : ∀ k x, Touches P s (f k x)) (hP : [.vl, .tkts, .replies] ⊆ P := by decide) : Touches P s (t.onStream q good f) := by
  unfold State.onStream
  refine State.checked_touches h ?_ hP
  split
  · exact hf _ _
  · exact h.then (State.answer_touches ..) hP

theorem execStreamStatus_touches (client : Fin 64) (s : State) :
    Ends [.pm, .mr, .ep, .evr, .regs, .loStage, .mem, .draw, .fab, .so, .runs, .bps, .cache, .alloc, .snaps, .fk, .ev, .rnd, .tal, .mcs,
          .ic, .dbg, .vl, .tkts, .handed, .replies, .cr, .pw, .doms, .chg, .fl, .sp] s (execStreamStatus client s) := by
  unfold execStreamStatus
  refine (.serve fun t q => ?_)
  refine (State.onStream_touches Touches.refl fun x x' => ?_)
  split
  rename_i x'' t' c tail head heq
  refine .viaEq Prod.fst heq (.then Touches.refl (State.ringCtl_touches ..)) fun ht' => ?_
  exact (.ite (ht'.then (State.answer_touches ..)) (ht'.then (State.answer_touches ..)))

theorem State.ringRead_touches (s : State) (a : ℕ) (n : ℕ) :
    Carries [.pm, .mr, .ep, .evr, .regs, .loStage, .mem, .draw, .fab, .so, .runs, .bps, .cache, .alloc, .snaps, .fk, .ev, .rnd, .tal,
          .mcs, .ic, .dbg, .vl, .tkts, .handed, .replies, .cr, .pw, .doms, .chg, .fl, .sp] s Prod.fst (s.ringRead a n) := by
  unfold State.ringRead
  refine (.foldlFst Touches.refl fun u c c' => ?_)
  exact (.ite (.pair Touches.refl) (.pair (.then Touches.refl (State.engineAccess_touches ..))))

theorem State.ringGet_touches (s : State) (x : Stream) (n : ℕ) (len : ℕ) :
    Carries [.pm, .mr, .ep, .evr, .regs, .loStage, .mem, .draw, .fab, .so, .runs, .bps, .cache, .alloc, .snaps, .fk, .ev, .rnd, .tal,
          .mcs, .ic, .dbg, .vl, .tkts, .handed, .replies, .cr, .pw, .doms, .chg, .fl, .sp] s Prod.fst (s.ringGet x n len) := by
  unfold State.ringGet
  extract_lets +onlyGivenNames o k
  split
  rename_i x' u e f heq
  refine .viaEq Prod.fst heq (.then Touches.refl (State.ringRead_touches ..)) fun hu => ?_
  split
  · exact (.pair hu)
  · split
    rename_i x'' u' e' f' heq'
    refine .viaEq Prod.fst heq' (.then hu (State.ringRead_touches ..)) fun hu' => ?_
    exact (.pair hu')

theorem State.streamTake_touches (s : State) (q : VReq) (x : Stream) (want : ℕ) :
    Touches [.pm, .mr, .ep, .evr, .regs, .loStage, .mem, .draw, .fab, .so, .runs, .bps, .cache, .alloc, .snaps, .fk, .ev, .rnd, .tal,
          .mcs, .ic, .dbg, .vl, .tkts, .handed, .replies, .cr, .pw, .doms, .chg, .fl, .sp] s (s.streamTake q x want) := by
  unfold State.streamTake
  split
  rename_i x' t c tail head heq
  refine .viaEq Prod.fst heq (.then Touches.refl (State.ringCtl_touches ..)) fun ht => ?_
  split
  · exact (ht.then (State.answer_touches ..))
  · extract_lets +onlyGivenNames n
    split
    rename_i x'' u e f heq'
    refine .viaEq Prod.fst heq' (.then ht (State.ringGet_touches ..)) fun hu => ?_
    exact (.ite (hu.then (State.answer_touches ..)) (.ite (hu.then (State.answer_touches ..)) (.ite (.then (.then hu
          (State.engineAccess_touches ..)) (State.answer_touches ..)) (.then (.then hu (State.engineAccess_touches
          ..)) (State.answer_touches ..)))))

theorem execStreamRead_touches (client : Fin 64) (s : State) :
    Ends [.pm, .mr, .ep, .evr, .regs, .loStage, .mem, .draw, .fab, .so, .runs, .bps, .cache, .alloc, .snaps, .fk, .ev, .rnd, .tal, .mcs,
          .ic, .dbg, .vl, .tkts, .handed, .replies, .cr, .pw, .doms, .chg, .fl, .sp] s (execStreamRead client s) := by
  unfold execStreamRead
  exact (.serve fun _ _ => (State.onStream_touches Touches.refl fun _ _ => (.ite (Touches.refl.then (State.streamTake_touches ..))
        (Touches.refl.then (State.answer_touches ..)))))

theorem State.setStream_touches (s : State) (k : ℕ) (x : Stream) :
    Touches [.vl] s (s.setStream k x) := by
  unfold State.setStream
  exact (Touches.refl.then .setVl)

theorem execStreamOpen_touches (client : Fin 64) (s : State) :
    Ends [.vl, .tkts, .handed, .replies] s (execStreamOpen client s) := by
  unfold execStreamOpen
  refine (.serve fun t q => ?_)
  extract_lets +onlyGivenNames p out al
  refine (State.checked_touches Touches.refl ?_)
  split
  · exact (Touches.refl.then (State.answer_touches ..))
  · exact (.ite (Touches.refl.then (State.answer_touches ..)) ((Touches.refl.then (State.setStream_touches ..)).then
        (State.answer_touches ..)))

theorem State.ringWrite_touches (s : State) (a : ℕ) (d : List Byte) :
    Carries [.pm, .mr, .ep, .evr, .regs, .loStage, .mem, .draw, .fab, .so, .runs, .bps, .cache, .alloc, .snaps, .fk, .ev, .rnd, .tal,
          .mcs, .ic, .dbg, .vl, .tkts, .handed, .replies, .cr, .pw, .doms, .chg, .fl, .sp] s Prod.fst (s.ringWrite a d) := by
  unfold State.ringWrite
  refine (.foldlFst Touches.refl fun u c p => ?_)
  exact (.ite (.pair Touches.refl) (.pair (.then Touches.refl (State.engineAccess_touches ..))))

theorem State.ringPut_touches (s : State) (x : Stream) (n : ℕ) (d : List Byte) :
    Carries [.pm, .mr, .ep, .evr, .regs, .loStage, .mem, .draw, .fab, .so, .runs, .bps, .cache, .alloc, .snaps, .fk, .ev, .rnd, .tal,
          .mcs, .ic, .dbg, .vl, .tkts, .handed, .replies, .cr, .pw, .doms, .chg, .fl, .sp] s Prod.fst (s.ringPut x n d) := by
  unfold State.ringPut
  extract_lets +onlyGivenNames o
  split
  rename_i x' t k heq
  refine .viaEq Prod.fst heq (.then Touches.refl (State.ringWrite_touches ..)) fun ht => ?_
  exact (.ite (.pair ht) (.then ht (State.ringWrite_touches ..)))

theorem execStreamDelivery_touches (id : BitVec 14) (s : State) :
    Ends [.pm, .mr, .ep, .evr, .regs, .loStage, .mem, .draw, .fab, .so, .runs, .bps, .cache, .alloc, .snaps, .fk, .ev, .rnd, .tal, .mcs,
          .ic, .dbg, .vl, .tkts, .handed, .replies, .cr, .pw, .doms, .chg, .fl, .sp] s (execStreamDelivery id s) := by
  unfold execStreamDelivery
  extract_lets +onlyGivenNames k
  split
  · refine .next ?_
    exact Touches.refl
  · extract_lets +onlyGivenNames sent
    split
    rename_i x t c tail head heq
    refine .viaEq Prod.fst heq (.then Touches.refl (State.ringCtl_touches ..)) fun ht => ?_
    extract_lets +onlyGivenNames out d
    split
    rename_i x' t' k' heq'
    refine .viaEq Prod.fst heq' (.then ht (State.ringPut_touches ..)) fun ht' => ?_
    extract_lets +onlyGivenNames g
    refine .viaOf Got.st g (.then ht' (State.engineAccess_touches ..)) fun hg => ?_
    generalize g = g at hg ⊢
    extract_lets +onlyGivenNames res
    refine .via (t := res) (.ite ht (.ite ht' (.ite hg (hg.then (State.setStream_touches ..))))) fun hres => ?_
    generalize res = res at hres ⊢
    refine .when ?_
    exact hres

theorem execStreamData_touches (client : Fin 64) (s : State) :
    Ends [.draw, .vl, .tkts, .handed, .replies] s (execStreamData client s) := by
  unfold execStreamData
  exact (.serve fun _ _ => (State.onStream_touches Touches.refl fun _ _ => (.ite (Touches.refl.then (State.answer_touches ..)) (.ite
        (Touches.refl.then (State.answer_touches ..)) (.ite ((Touches.refl.then (State.handlerBusy_touches ..)).then
        (State.drawn_touches ..)) ((Touches.refl.then (State.setStream_touches ..)).then (State.answer_touches ..)))))))

theorem execStreamClose_touches (client : Fin 64) (s : State) :
    Ends [.vl, .tkts, .handed, .replies] s (execStreamClose client s) := by
  unfold execStreamClose
  exact (.serve fun _ _ => (State.onStream_touches Touches.refl fun _ _ => ((Touches.refl.then .setVl).then (State.answer_touches ..))))

theorem execStoreList_touches (client : Fin 64) (s : State) :
    Ends [.vl, .tkts, .handed, .replies] s (execStoreList client s) := by
  unfold execStoreList
  exact (.serve fun _ _ => (State.checked_touches Touches.refl (Touches.refl.then (State.answer_touches ..))))

theorem execStoreErase_touches (client : Fin 64) (s : State) :
    Ends [.regs, .draw, .vl, .tkts, .handed, .replies, .fl] s (execStoreErase client s) := by
  unfold execStoreErase
  exact (.serve fun _ _ => (State.checked_touches Touches.refl (.ite (Touches.refl.then (State.answer_touches ..))
        (State.withTicket_touches Touches.refl fun _ => (((Touches.refl.then (State.tktIssue_touches ..)).then (State.accept_touches
        ..)).then .setFl)))))

theorem State.stepCut_touches (s : State) (r : ℕ) :
    Touches [.regs, .so, .runs, .tkts] s (s.stepCut r) := by
  unfold State.stepCut
  split
  · exact Touches.refl
  · extract_lets +onlyGivenNames src s1
    refine .via (t := s1) (Touches.refl.then .setSo) fun hs1 => ?_
    generalize s1 = s1 at hs1 ⊢
    exact ((hs1.then (State.setRun_touches ..)).then (State.tktEnd_touches ..))

theorem State.freezeRun_touches (s : State) (r : ℕ) :
    Touches [.regs, .fab, .runs, .pw] s (s.freezeRun r) := by
  unfold State.freezeRun
  extract_lets +onlyGivenNames x
  exact (.ite (((Touches.refl.then (State.holdAll_touches ..)).then (State.setRun_touches ..)).then .setPw) Touches.refl)

theorem State.stepBegin_touches (s : State) (r : ℕ) (n : ℕ) (holdIo : Bool) (ticket : ℕ) :
    Touches [.regs, .fab, .so, .runs, .tkts, .pw] s (s.stepBegin r n holdIo ticket) := by
  unfold State.stepBegin
  extract_lets +onlyGivenNames tiles others s1
  refine .via (t := s1) (.each Touches.refl fun _ _ => ((Touches.refl.then (State.stepCut_touches ..)).then (State.freezeRun_touches
        ..))) fun hs1 => ?_
  generalize s1 = s1 at hs1 ⊢
  extract_lets +onlyGivenNames s2
  refine .via (t := s2) (.each hs1 fun _ _ => (.ite (Touches.refl.then (State.setFld_part .regs _ _ _ _ _ (regPart_regs (le_index (by
        decide))))) ((Touches.refl.then (State.setFld_part .regs _ _ _ _ _ (regPart_regs (le_index (by
        decide))))).then (State.setBit_part .regs _ _ _ _ (regPart_regs (le_index (by decide))))))) fun hs2 => ?_
  generalize s2 = s2 at hs2 ⊢
  extract_lets +onlyGivenNames s3
  refine .via (t := s3) (.each hs2 fun _ _ => (Touches.refl.then (State.relOp_touches ..))) fun hs3 => ?_
  generalize s3 = s3 at hs3 ⊢
  extract_lets +onlyGivenNames d x s4
  refine .via (t := s4) (hs3.then (State.setRun_touches ..)) fun hs4 => ?_
  generalize s4 = s4 at hs4 ⊢
  exact (hs4.then .setSo)

theorem execStep_touches (client : Fin 64) (s : State) :
    Ends [.regs, .draw, .fab, .so, .runs, .vl, .tkts, .handed, .replies, .pw] s (execStep client s) := by
  unfold execStep
  exact (.serve fun _ _ => (State.checked_touches Touches.refl (.ite (State.withTicket_touches Touches.refl fun _ =>
        (((Touches.refl.then (State.tktIssue_touches ..)).then (State.accept_touches ..)).then (State.stepBegin_touches
        ..))) (Touches.refl.then (State.answer_touches ..)))))

theorem State.setUsed_touches (s : State) (d : ℕ) (v : ℕ) :
    Touches [.rnd] s (s.setUsed d v) := by
  unfold State.setUsed
  exact (Touches.refl.then .setRnd)

theorem execStampIdleReturn_touches (stop : Fin 18) (dest : Fin 18) (s : State) :
    Ends [.rnd] s (execStampIdleReturn stop dest s) := by
  unfold execStampIdleReturn
  extract_lets +onlyGivenNames d t n
  refine .when ?_
  exact ((Touches.refl.then (State.setHeld_touches ..)).then (State.setUsed_touches ..))

theorem State.pump_touches (s : State) :
    Touches [.evr, .regs, .draw, .fab, .ev, .rnd, .mcs, .dbg, .vl, .tkts, .replies] s (s.pump) := by
  unfold State.pump
  exact (.each (.then (.each Touches.refl fun _ _ => (Touches.refl.then (State.jobStep_touches ..))) (State.dbgStart_touches ..)) fun _
        _ => (Touches.refl.then (State.mmpIssue_touches ..)))

theorem execStampBatch_touches (stop : Fin 18) (dest : Fin 18) (grant : Bool) (count : Fin 65) (s : State) :
    Ends [.evr, .regs, .draw, .fab, .ev, .rnd, .mcs, .dbg, .vl, .tkts, .replies] s (execStampBatch stop dest grant count s) := by
  unfold execStampBatch
  extract_lets +onlyGivenNames d t n
  split
  · refine .when ?_
    exact (((Touches.refl.then (State.setHeld_touches ..)).then (State.setUsed_touches ..)).then (State.pump_touches ..))
  · refine .when ?_
    exact ((Touches.refl.then (State.setHeld_touches ..)).then (State.setUsed_touches ..))

theorem execSpareGo_touches (c : Fin 20) (word : Word) (s : State) :
    Ends [.evr, .regs, .ev, .mcs] s (execSpareGo c word s) := by
  unfold execSpareGo
  refine .when ?_
  exact (Touches.refl.then (State.spareWrite_touches ..))

theorem execSpareEnWrite_touches (c : Fin 8) (enable : Bool) (s : State) :
    Ends [.mr, .evr, .regs, .mem, .draw, .fab, .so, .runs, .bps, .cache, .alloc, .snaps, .fk, .ev, .rnd, .mcs, .ic, .dbg, .vl, .tkts,
          .pw, .fl] s (execSpareEnWrite c enable s) := by
  unfold execSpareEnWrite
  refine .when ?_
  exact (Touches.refl.then (State.spareEn_touches ..))

theorem State.setSnap_touches (s : State) (k : ℕ) (v : Snap) :
    Touches [.snaps] s (s.setSnap k v) := by
  unfold State.setSnap
  exact (Touches.refl.then .setSnaps)

theorem execSnapshotPauseEnd_touches (entry : Fin 1024) (pauseNs : Word) (s : State) :
    Ends [.regs, .fab, .runs, .snaps, .pw] s (execSnapshotPauseEnd entry pauseNs s) := by
  unfold execSnapshotPauseEnd
  extract_lets +onlyGivenNames k rs s1
  refine .via (t := s1) (.each Touches.refl fun _ _ => ((Touches.refl.then (State.setRun_touches ..)).then (State.freezeRun_touches
        ..))) fun hs1 => ?_
  generalize s1 = s1 at hs1 ⊢
  refine .when ?_
  exact (hs1.then (State.setSnap_touches ..))

theorem State.segBody_touches (s : State) (r : ℕ) (j : ℕ) (p : PageD) (mem : Bool) :
    Carries [.mr, .evr, .regs, .mem, .draw, .fab, .so, .runs, .bps, .cache, .alloc, .snaps, .ev, .rnd, .mcs, .ic, .dbg, .tkts,
          .pw] s Got.st (s.segBody r j p mem) := by
  unfold State.segBody
  split
  · exact (.got Touches.refl)
  · split
    rename_i x t e heq
    refine .viaEq Prod.fst heq (.then Touches.refl (State.pmGet_touches ..)) fun ht => ?_
    extract_lets +onlyGivenNames g
    refine .viaOf Got.st g (.then ht (State.dramRead_touches ..)) fun hg => ?_
    generalize g = g at hg ⊢
    extract_lets +onlyGivenNames mo
    exact (.ite (.got hg) (.ite hg (.got hg)))

theorem State.segCapture_touches (s : State) (k : ℕ) (j : ℕ) (p : PageD) :
    Touches [.mr, .evr, .regs, .mem, .draw, .fab, .so, .runs, .bps, .cache, .alloc, .snaps, .ev, .rnd, .mcs, .ic, .dbg, .tkts,
          .pw] s (s.segCapture k j p) := by
  unfold State.segCapture
  extract_lets +onlyGivenNames x g
  refine .viaOf Got.st g (.then Touches.refl (State.segBody_touches ..)) fun hg => ?_
  generalize g = g at hg ⊢
  split
  rename_i x' t e heq
  refine .viaEq Prod.fst heq (.then hg (State.pmGet_touches ..)) fun ht => ?_
  extract_lets +onlyGivenNames w
  refine .viaOf Got.st w (.then ht (State.dramWrite_touches ..)) fun hw => ?_
  generalize w = w at hw ⊢
  extract_lets +onlyGivenNames bad u
  refine .via (t := u) (.ite ht hw) fun hu => ?_
  generalize u = u at hu ⊢
  exact ((hu.then (State.setSnap_touches ..)).then (State.tktProgress?_touches ..))

theorem State.pagesAt_touches (s : State) (run : Nat) (hs : List Nat) : Carries [.mr, .evr, .regs, .mem, .draw, .fab, .so, .runs, .bps,
      .cache, .alloc, .snaps, .ev, .rnd, .mcs, .ic, .dbg, .tkts, .pw] s Prod.fst (s.pagesAt run hs) := by
  induction hs generalizing s with
  | nil => exact .pair .refl
  | cons h hs ih =>
    unfold State.pagesAt
    have hp := State.pageAt_touches s h run
    split
    next t heq => rw [heq] at hp; exact .pair hp
    next t p heq =>
      rw [heq] at hp
      have hr := ih t
      split
      next u ps heq' => rw [heq'] at hr; exact .pair (Touches.then hp hr)
      next u heq' => rw [heq'] at hr; exact .pair (Touches.then hp hr)

theorem State.runPages_touches (s : State) (r : ℕ) :
    Carries [.mr, .evr, .regs, .mem, .draw, .fab, .so, .runs, .bps, .cache, .alloc, .snaps, .ev, .rnd, .mcs, .ic, .dbg, .tkts,
          .pw] s Prod.fst (s.runPages r) := by
  unfold State.runPages
  exact (.then Touches.refl (State.pagesAt_touches ..))

theorem State.snapCapture_touches (s : State) (k : ℕ) :
    Touches [.mr, .evr, .regs, .mem, .draw, .fab, .so, .runs, .bps, .cache, .alloc, .snaps, .ev, .rnd, .mcs, .ic, .dbg, .tkts,
          .pw] s (s.snapCapture k) := by
  unfold State.snapCapture
  extract_lets +onlyGivenNames x d s1
  refine .via (t := s1) (Touches.refl.then (State.setSnap_touches ..)) fun hs1 => ?_
  generalize s1 = s1 at hs1 ⊢
  split
  · rename_i x' u ps heq
    refine .viaEq Prod.fst heq (.then hs1 (State.runPages_touches ..)) fun hu => ?_
    exact (.each (hu.then (State.tktActive?_touches ..)) fun _ _ => (Touches.refl.then (State.segCapture_touches ..)))
  · rename_i x' u heq
    refine .viaEq Prod.fst heq (.then hs1 (State.runPages_touches ..)) fun hu => ?_
    exact (hu.then (State.setSnap_touches ..))

theorem State.portsFlush_touches (s : State) (r : ℕ) :
    Touches [.regs, .fab] s (s.portsFlush r) := by
  unfold State.portsFlush
  exact (.each Touches.refl fun _ _ => (Touches.refl.then (State.mmpFlush_touches ..)))

theorem execSnapshotCycle_touches (entry : Fin 1024) (s : State) :
    Ends [.mr, .evr, .regs, .mem, .draw, .fab, .so, .runs, .bps, .cache, .alloc, .snaps, .ev, .rnd, .mcs, .ic, .dbg, .tkts,
          .pw] s (execSnapshotCycle entry s) := by
  unfold execSnapshotCycle
  extract_lets +onlyGivenNames k x s1
  refine .via (t := s1) (.each Touches.refl fun _ _ => (Touches.refl.then (State.setRun_touches ..))) fun hs1 => ?_
  generalize s1 = s1 at hs1 ⊢
  refine .when ?_
  exact (.ite (Touches.refl.then (State.portsFlush_touches ..)) (hs1.then (State.snapCapture_touches ..)))

theorem State.markLate_touches (s : State) (r : ℕ) :
    Touches [.snaps] s (s.markLate r) := by
  unfold State.markLate
  exact (.each Touches.refl fun _ _ => (Touches.refl.then (State.setSnap_touches ..)))

theorem State.snapFail_touches (s : State) (k : ℕ) (n : ℕ) (err : ℕ) :
    Touches [.evr, .regs, .snaps, .ev, .tkts] s (s.snapFail k n err) := by
  unfold State.snapFail
  extract_lets +onlyGivenNames x s1
  refine .via (t := s1) ((Touches.refl.then (State.setSnap_touches ..)).then (State.event_touches ..)) fun hs1 => ?_
  generalize s1 = s1 at hs1 ⊢
  exact ((hs1.then (State.tktProgress?_touches ..)).then (State.tktEnd?_touches ..))

theorem State.setRing_touches (s : State) (g : ℕ) (v : Ring) :
    Touches [.so] s (s.setRing g v) := by
  unfold State.setRing
  exact (Touches.refl.then .setSo)

theorem State.nextMove_touches (s : State) (m : ℕ) :
    Carries [.mr, .evr, .regs, .mem, .draw, .fab, .so, .runs, .bps, .cache, .alloc, .snaps, .ev, .rnd, .mcs, .ic, .dbg, .tkts,
          .pw] s Prod.fst (s.nextMove m) := by
  unfold State.nextMove
  extract_lets +onlyGivenNames xs ys
  refine (.foldlFst Touches.refl fun u c v => ?_)
  split
  · exact (.pair Touches.refl)
  · split
    rename_i x t e heq
    refine .viaEq Prod.fst heq (.then Touches.refl (State.pmGet_touches ..)) fun ht => ?_
    exact (.pair ht)

theorem State.compStep_touches (s : State) (m : ℕ) :
    Touches [.mr, .evr, .regs, .mem, .draw, .fab, .so, .runs, .bps, .cache, .alloc, .snaps, .ev, .rnd, .mcs, .ic, .dbg, .tkts,
          .pw] s (s.compStep m) := by
  unfold State.compStep
  split
  · rename_i x t v heq
    refine .viaEq Prod.fst heq (.then Touches.refl (State.nextMove_touches ..)) fun ht => ?_
    split
    rename_i x' t' e heq'
    refine .viaEq Prod.fst heq' (.then ht (State.pmGet_touches ..)) fun ht' => ?_
    exact ((ht'.then .setSo).then (State.pmPut_touches ..))
  · rename_i x t heq
    refine .viaEq Prod.fst heq (.then Touches.refl (State.nextMove_touches ..)) fun ht => ?_
    exact (ht.then .setSo)

theorem State.allocFailed_touches (s : State) (m : ℕ) (len : ℕ) :
    Touches [.mr, .evr, .regs, .mem, .draw, .fab, .so, .runs, .bps, .cache, .alloc, .snaps, .ev, .rnd, .mcs, .ic, .dbg, .tkts,
          .pw] s (s.allocFailed m len) := by
  unfold State.allocFailed
  exact (.ite (Touches.refl.then (State.compStep_touches ..)) Touches.refl)

theorem State.compForget_touches (s : State) (w : ℕ) :
    Touches [.so] s (s.compForget w) := by
  unfold State.compForget
  exact (Touches.refl.then .setSo)

theorem State.alloc_touches (s : State) (h : ℕ) (m : ℕ) (g : ℕ) (len : ℕ) :
    Touches [.alloc] s (s.alloc h m g len) := by
  unfold State.alloc
  exact (Touches.refl.then .setAlloc)

theorem State.allocWith_touches (s : State) (find : State → Nat → Nat → Option Nat) (h : Nat) (ext : List (Nat × Nat)) :
    Touches [.alloc] s ((s.allocWith find h ext).getD s) := by
  induction ext generalizing s h with
  | nil => exact .refl
  | cons x xs ih =>
    unfold State.allocWith
    split
    · exact .getD (State.alloc_touches ..).mono (ih _ _)
    · exact .refl

theorem State.allocFor_touches (s : State) (find : State → ℕ → ℕ → Option ℕ) (w : ℕ) (h : ℕ) (ext : List (ℕ × ℕ)) :
    Carries [.mr, .evr, .regs, .mem, .draw, .fab, .so, .runs, .bps, .cache, .alloc, .snaps, .ev, .rnd, .mcs, .ic, .dbg, .tkts,
          .pw] s AllocRes.st (s.allocFor find w h ext) := by
  unfold State.allocFor
  split
  · rename_i x t heq
    refine .via (Touches.refl.then ((State.allocWith_touches ..).ofSome heq)) fun ht => ?_
    exact (.done (ht.then (State.compForget_touches ..)))
  · rename_i x heq
    extract_lets +onlyGivenNames need stuck
    exact (.ite (.short (Touches.refl.then (State.compForget_touches ..))) (.ite (.ite (.waits Touches.refl) (.short (Touches.refl.then
          (State.compForget_touches
          ..)))) (.waits (.each (Touches.refl.then .setSo) fun _ _ => (Touches.refl.then (State.allocFailed_touches ..))))))

theorem State.segAlloc_touches (s : State) (w : ℕ) (r : ℕ) (mem : Bool) (ps : List PageD) :
    Carries [.mr, .evr, .regs, .mem, .draw, .fab, .so, .runs, .bps, .cache, .alloc, .snaps, .ev, .rnd, .mcs, .ic, .dbg, .tkts,
          .pw] s (AllocRes.st ∘ Prod.fst) (s.segAlloc w r mem ps) := by
  unfold State.segAlloc
  extract_lets +onlyGivenNames ext
  split
  · exact (.comp (.short (Touches.refl.then (State.compForget_touches ..))))
  · split
    · rename_i x t heq
      refine .viaEq AllocRes.st heq (.then Touches.refl (State.allocFor_touches ..)) fun ht => ?_
      refine (.comp (.done (.each ht fun u p => ?_)))
      split
      exact (Touches.refl.then (State.pmPut_touches ..))
    · exact (.comp (.then Touches.refl (State.allocFor_touches ..)))

theorem State.segFree_touches (s : State) (k : ℕ) :
    Touches [.mr, .evr, .regs, .mem, .draw, .fab, .so, .runs, .bps, .cache, .alloc, .snaps, .ev, .rnd, .mcs, .ic, .dbg, .tkts,
          .pw] s (s.segFree k) := by
  unfold State.segFree
  extract_lets +onlyGivenNames x
  exact (.ite (.each Touches.refl fun _ _ => (Touches.refl.then (State.pmFree_touches ..))) Touches.refl)

theorem State.ringPrepare_touches (s : State) (g : ℕ) (x : Ring) (j : ℕ) :
    Carries [.mr, .evr, .regs, .mem, .draw, .fab, .so, .runs, .bps, .cache, .alloc, .snaps, .ev, .rnd, .mcs, .ic, .dbg, .tkts,
          .pw] s Prod.fst (s.ringPrepare g x j) := by
  unfold State.ringPrepare
  extract_lets +onlyGivenNames k mem base s1
  refine .via (t := s1) ((Touches.refl.then (State.segFree_touches ..)).then (State.setSnap_touches ..)) fun hs1 => ?_
  generalize s1 = s1 at hs1 ⊢
  split
  · rename_i x' t heq
    refine .viaEq Prod.fst heq (.then hs1 (State.runPages_touches ..)) fun ht => ?_
    exact (.pair ht)
  · rename_i x' t ps heq
    refine .viaEq Prod.fst heq (.then hs1 (State.runPages_touches ..)) fun ht => ?_
    split
    · rename_i x'' u h heq'
      refine .viaEq (AllocRes.st ∘ Prod.fst) heq' (.then ht (State.segAlloc_touches ..)) fun hu => ?_
      exact (.pair (hu.then (State.setSnap_touches ..)))
    · rename_i x'' u snd heq'
      refine .viaEq (AllocRes.st ∘ Prod.fst) heq' (.then ht (State.segAlloc_touches ..)) fun hu => ?_
      exact (.pair hu)
    · rename_i x'' u snd heq'
      refine .viaEq (AllocRes.st ∘ Prod.fst) heq' (.then ht (State.segAlloc_touches ..)) fun hu => ?_
      exact (.pair hu)

theorem State.ringAhead_touches (s : State) (g : ℕ) :
    Touches [.mr, .evr, .regs, .mem, .draw, .fab, .so, .runs, .bps, .cache, .alloc, .snaps, .ev, .rnd, .mcs, .ic, .dbg, .tkts,
          .pw] s (s.ringAhead g) := by
  unfold State.ringAhead
  split
  · split
    · exact (.ite Touches.refl (.then Touches.refl (State.ringPrepare_touches ..)))
    · exact Touches.refl
  · exact Touches.refl

theorem State.snapDone_touches (s : State) (k : ℕ) :
    Touches [.mr, .evr, .regs, .mem, .draw, .fab, .so, .runs, .bps, .cache, .alloc, .snaps, .ev, .rnd, .mcs, .ic, .dbg, .tkts,
          .pw] s (s.snapDone k) := by
  unfold State.snapDone
  extract_lets +onlyGivenNames x s1
  refine .via (t := s1) (Touches.refl.then (State.setSnap_touches ..)) fun hs1 => ?_
  generalize s1 = s1 at hs1 ⊢
  extract_lets +onlyGivenNames s2
  refine .via (t := s2) ((hs1.then (State.tktProgress?_touches ..)).then (State.tktEnd?_touches ..)) fun hs2 => ?_
  generalize s2 = s2 at hs2 ⊢
  split
  · split
    · exact ((hs2.then (State.setRing_touches ..)).then (State.ringAhead_touches ..))
    · exact hs2
  · exact hs2

theorem State.segsClose_touches (s : State) (k : ℕ) :
    Carries [.mr, .evr, .regs, .mem, .draw, .fab, .so, .runs, .bps, .cache, .alloc, .snaps, .ev, .rnd, .mcs, .ic, .dbg, .tkts,
          .pw] s Prod.fst (s.segsClose k) := by
  unfold State.segsClose
  extract_lets +onlyGivenNames x
  refine (.foldlFst Touches.refl fun u c h => ?_)
  split
  rename_i x' t e heq
  refine .viaEq Prod.fst heq (.then Touches.refl (State.pmGet_touches ..)) fun ht => ?_
  extract_lets +onlyGivenNames a body w
  refine .viaOf Got.st w (.then ht (State.dramWrite_touches ..)) fun hw => ?_
  generalize w = w at hw ⊢
  exact (.ite (.pair ht) (.ite (.pair hw) (.pair (hw.then (State.pmPut_touches ..)))))

theorem execSnapshotComplete_touches (entry : Fin 1024) (ok : Bool) (s : State) :
    Ends [.mr, .evr, .regs, .mem, .draw, .fab, .so, .runs, .bps, .cache, .alloc, .snaps, .ev, .rnd, .mcs, .ic, .dbg, .tkts,
          .pw] s (execSnapshotComplete entry ok s) := by
  unfold execSnapshotComplete
  extract_lets +onlyGivenNames k x poisoned
  split
  rename_i x' t n closed heq
  refine .viaEq Prod.fst heq (.ite (.then Touches.refl (State.segsClose_touches ..)) (.pair Touches.refl)) fun ht => ?_
  extract_lets +onlyGivenNames res
  refine .via (t := res) (.ite (ht.then (State.snapDone_touches ..)) (ht.then (State.snapFail_touches ..))) fun hres => ?_
  generalize res = res at hres ⊢
  refine .when ?_
  exact (hres.then (State.markLate_touches ..))

theorem State.snapBegin_touches (s : State) (k : ℕ) :
    Touches [.mr, .evr, .regs, .mem, .draw, .fab, .so, .runs, .bps, .cache, .alloc, .snaps, .ev, .rnd, .mcs, .ic, .dbg, .tkts,
          .pw] s (s.snapBegin k) := by
  unfold State.snapBegin
  extract_lets +onlyGivenNames x y
  exact (.ite (Touches.refl.then (State.snapCapture_touches ..)) (Touches.refl.then (State.setSnap_touches ..)))

theorem State.snapIssue_touches (s : State) (q : VReq) (k : ℕ) (h : ℕ) (n : ℕ) (i : ℕ) :
    Touches [.mr, .evr, .regs, .mem, .draw, .fab, .so, .runs, .bps, .cache, .alloc, .snaps, .ev, .rnd, .mcs, .ic, .dbg, .vl, .tkts,
          .replies, .pw] s (s.snapIssue q k h n i) := by
  unfold State.snapIssue
  extract_lets +onlyGivenNames p r flush u
  refine .via (t := u) (((Touches.refl.then (State.tktIssue_touches ..)).then (State.tktData_touches ..)).then (State.accept_touches
        ..)) fun hu => ?_
  generalize u = u at hu ⊢
  extract_lets +onlyGivenNames base
  exact ((hu.then (State.setSnap_touches ..)).then (State.snapBegin_touches ..))

theorem State.keep_touches (s : State) (q : VReq) :
    Touches [.handed] s (s.keep q) := by
  unfold State.keep
  exact (Touches.refl.then .setHanded)

theorem execSnapTake_touches (client : Fin 64) (s : State) :
    Ends [.mr, .evr, .regs, .mem, .draw, .fab, .so, .runs, .bps, .cache, .alloc, .snaps, .ev, .rnd, .mcs, .ic, .dbg, .vl, .tkts,
          .handed, .replies, .pw] s (execSnapTake client s) := by
  unfold execSnapTake
  refine (.serve fun t q => ?_)
  extract_lets +onlyGivenNames p r
  refine (State.checked_touches Touches.refl ?_)
  split
  · exact (Touches.refl.then (State.answer_touches ..))
  · split
    · exact (Touches.refl.then (State.answer_touches ..))
    · refine (State.withTicket_touches Touches.refl fun i => ?_)
      split
      · rename_i x t' heq
        refine .viaEq Prod.fst heq (.then Touches.refl (State.runPages_touches ..)) fun ht' => ?_
        exact (ht'.then (State.answer_touches ..))
      · rename_i x t' ps heq
        refine .viaEq Prod.fst heq (.then Touches.refl (State.runPages_touches ..)) fun ht' => ?_
        split
        · rename_i x' v snd heq'
          refine .viaEq (AllocRes.st ∘ Prod.fst) heq' (.then ht' (State.segAlloc_touches ..)) fun hv => ?_
          exact (hv.then (State.answer_touches ..))
        · rename_i x' v snd heq'
          refine .viaEq (AllocRes.st ∘ Prod.fst) heq' (.then ht' (State.segAlloc_touches ..)) fun hv => ?_
          exact (hv.then (State.keep_touches ..))
        · rename_i x' v h heq'
          refine .viaEq (AllocRes.st ∘ Prod.fst) heq' (.then ht' (State.segAlloc_touches ..)) fun hv => ?_
          exact (hv.then (State.snapIssue_touches ..))

theorem State.ringBegin_touches (s : State) (g : ℕ) (x : Ring) :
    Touches [.mr, .evr, .regs, .mem, .draw, .fab, .so, .runs, .bps, .cache, .alloc, .snaps, .ev, .rnd, .mcs, .ic, .dbg, .tkts,
          .pw] s (s.ringBegin g x) := by
  unfold State.ringBegin
  extract_lets +onlyGivenNames s1
  refine .via (t := s1) (.each Touches.refl fun _ _ => (Touches.refl.then (State.setSnap_touches ..))) fun hs1 => ?_
  generalize s1 = s1 at hs1 ⊢
  exact ((hs1.then (State.setRing_touches ..)).then (State.ringAhead_touches ..))

theorem State.ringDrop_touches (s : State) (g : ℕ) :
    Touches [.mr, .evr, .regs, .mem, .draw, .fab, .so, .runs, .bps, .cache, .alloc, .snaps, .ev, .rnd, .mcs, .ic, .dbg, .tkts,
          .pw] s (s.ringDrop g) := by
  unfold State.ringDrop
  extract_lets +onlyGivenNames s1
  refine .via (t := s1) (.each Touches.refl fun _ _ => (.ite (Touches.refl.then (State.snapDrop_touches ..)) (Touches.refl.then
        (State.setSnap_touches ..)))) fun hs1 => ?_
  generalize s1 = s1 at hs1 ⊢
  exact (hs1.then .setSo)

theorem execSnapRing_touches (client : Fin 64) (s : State) :
    Ends [.mr, .evr, .regs, .mem, .draw, .fab, .so, .runs, .bps, .cache, .alloc, .snaps, .ev, .rnd, .mcs, .ic, .dbg, .vl, .tkts,
          .handed, .replies, .pw] s (execSnapRing client s) := by
  unfold execSnapRing
  refine (.serve fun t q => ?_)
  extract_lets +onlyGivenNames p r n every period old
  refine (State.checked_touches Touches.refl ?_)
  split
  · generalize old = old
    split
    · exact ((Touches.refl.then (State.ringDrop_touches ..)).then (State.answer_touches ..))
    · exact (((Touches.refl.then (State.answer_touches ..)).then (State.drawn_touches ..)).then (State.drawn_touches ..))
  · split
    · extract_lets +onlyGivenNames u
      refine .via (t := u) ?_ fun hu => ?_
      · unfold u
        generalize old = old
        split
        · exact (Touches.refl.then (State.ringDrop_touches ..))
        · exact Touches.refl
      generalize u = u at hu ⊢
      exact ((hu.then (State.ringBegin_touches ..)).then (State.answer_touches ..))
    · exact (Touches.refl.then (State.answer_touches ..))

theorem State.ingress_touches (s : State) (r : ℕ) (k : ℕ) (hi : ℕ) :
    Touches [.regs] s (s.ingress r k hi) := by
  unfold State.ingress
  exact (.each Touches.refl fun _ _ => (.each Touches.refl fun _ _ => (.ite (Touches.refl.then (State.wr_part .regs _ _ _ (regPart_regs
        (le_index (le_index (by decide)))))) Touches.refl)))

theorem State.evict_touches (s : State) (is : List ℕ) :
    Touches [.mr, .evr, .regs, .mem, .draw, .fab, .so, .runs, .bps, .cache, .alloc, .snaps, .ev, .rnd, .mcs, .ic, .dbg, .tkts,
          .pw] s (s.evict is) := by
  unfold State.evict
  refine (.then (.each Touches.refl fun t i => ?_) (State.trigSweep_touches ..))
  extract_lets +onlyGivenNames e
  split
  · extract_lets +onlyGivenNames h t1
    refine .via (t := t1) ((Touches.refl.then (State.evictBp_touches ..)).then (State.count_part .regs _ _ _ _ _ rfl)) fun ht1 => ?_
    generalize t1 = t1 at ht1 ⊢
    split
    · exact ht1
    · split
      rename_i x t' e' heq
      refine .viaEq Prod.fst heq (.then ht1 (State.pmGet_touches ..)) fun ht' => ?_
      extract_lets +onlyGivenNames w
      refine .via (t := w) (.ite ht' (ht'.then (State.pmPut_touches ..))) fun hw => ?_
      generalize w = w at hw ⊢
      exact (hw.then (State.ingress_touches ..))
  · exact (Touches.refl.then (State.evictBp_touches ..))

theorem State.evictRun_touches (s : State) (r : ℕ) (is : List ℕ) :
    Touches [.mr, .evr, .regs, .mem, .draw, .fab, .so, .runs, .bps, .cache, .alloc, .snaps, .ev, .rnd, .mcs, .ic, .dbg, .tkts,
          .pw] s (s.evictRun r is) := by
  unfold State.evictRun
  extract_lets +onlyGivenNames t
  refine .via (t := t) (Touches.refl.then (State.evict_touches ..)) fun ht => ?_
  generalize t = t at ht ⊢
  exact (ht.then (State.setRun_touches ..))

theorem State.restoreMark_touches (s : State) (r : ℕ) (k : ℕ) :
    Touches [.mr, .evr, .regs, .mem, .draw, .fab, .so, .runs, .bps, .cache, .alloc, .snaps, .ev, .rnd, .mcs, .ic, .dbg, .tkts,
          .pw] s (s.restoreMark r k) := by
  unfold State.restoreMark
  extract_lets +onlyGivenNames s0
  refine .via (t := s0) ?_ fun hs0 => ?_
  · unfold s0
    split
    · exact (Touches.refl.then (State.setSnap_touches ..))
    · exact Touches.refl
  generalize s0 = s0 at hs0 ⊢
  extract_lets +onlyGivenNames s1
  refine .via (t := s1) ((hs0.then (State.evictRun_touches ..)).then (State.ringAfresh_touches ..)) fun hs1 => ?_
  generalize s1 = s1 at hs1 ⊢
  exact ((hs1.then (State.setSnap_touches ..)).then (State.setRun_touches ..))

theorem execSnapRestore_touches (client : Fin 64) (s : State) :
    Ends [.mr, .evr, .regs, .mem, .draw, .fab, .so, .runs, .bps, .cache, .alloc, .snaps, .ev, .rnd, .mcs, .ic, .dbg, .vl, .tkts,
          .handed, .replies, .pw] s (execSnapRestore client s) := by
  unfold execSnapRestore
  exact (.serve fun _ _ => (State.checked_touches Touches.refl (.ite (Touches.refl.then (State.answer_touches ..))
        (State.withTicket_touches Touches.refl fun _ => ((((Touches.refl.then (State.tktIssue_touches ..)).then (State.accept_touches
        ..)).then (State.restoreMark_touches ..)).then (State.tktEnd_touches ..))))))

theorem execSnapRead_touches (client : Fin 64) (s : State) :
    Ends [.mr, .evr, .regs, .mem, .draw, .fab, .so, .runs, .bps, .cache, .alloc, .snaps, .ev, .rnd, .mcs, .ic, .dbg, .vl, .tkts,
          .handed, .replies, .pw] s (execSnapRead client s) := by
  unfold execSnapRead
  refine (.serve fun t q => ?_)
  extract_lets +onlyGivenNames p k j off n x
  refine (State.checked_touches Touches.refl ?_)
  split
  rename_i x' t' e heq
  refine .viaEq Prod.fst heq (.then Touches.refl (State.pmGet_touches ..)) fun ht' => ?_
  extract_lets +onlyGivenNames a h
  refine .viaOf Got.st h (.then ht' (State.dramRead_touches ..)) fun hh => ?_
  generalize h = h at hh ⊢
  extract_lets +onlyGivenNames len g
  refine .viaOf Got.st g (.then hh (State.dramRead_touches ..)) fun hg => ?_
  generalize g = g at hg ⊢
  exact (.ite (ht'.then (State.answer_touches ..)) (.ite (hh.then (State.answer_touches ..)) (.ite (hh.then (State.answer_touches ..))
        (.ite (hg.then (State.answer_touches ..)) (hg.then (State.answer_touches ..))))))

theorem execSnapLock_touches (client : Fin 64) (s : State) :
    Ends [.snaps, .vl, .tkts, .handed, .replies] s (execSnapLock client s) := by
  unfold execSnapLock
  exact (.serve fun _ _ => (State.checked_touches Touches.refl ((Touches.refl.then (State.setSnap_touches ..)).then
        (State.answer_touches ..))))

theorem execSnapFree_touches (client : Fin 64) (s : State) :
    Ends [.mr, .evr, .regs, .mem, .draw, .fab, .so, .runs, .bps, .cache, .alloc, .snaps, .ev, .rnd, .mcs, .ic, .dbg, .vl, .tkts,
          .handed, .replies, .pw] s (execSnapFree client s) := by
  unfold execSnapFree
  exact (.serve fun _ _ => (State.checked_touches Touches.refl (.ite (Touches.refl.then (State.answer_touches ..)) (((Touches.refl.then
        (State.snapDrop_touches ..)).then (State.setSnap_touches ..)).then (State.answer_touches ..)))))

theorem State.setLoad_touches (s : State) (j : ℕ) (l : Load) :
    Touches [.fk] s (s.setLoad j l) := by
  unfold State.setLoad
  exact (Touches.refl.then .setFk)

theorem execSignatureVerifyComplete_touches (load : Fin 4) (s : State) :
    Ends [.mr, .evr, .regs, .mem, .draw, .fab, .so, .runs, .bps, .cache, .alloc, .snaps, .fk, .ev, .rnd, .mcs, .ic, .dbg, .tkts, .pw,
          .fl] s (execSignatureVerifyComplete load s) := by
  unfold execSignatureVerifyComplete
  extract_lets +onlyGivenNames j l
  refine .when ?_
  exact (.ite (Touches.refl.then (State.setLoad_touches ..)) (Touches.refl.then (State.loadFail_touches ..)))

theorem execSettingsWrite_touches (client : Fin 64) (s : State) :
    Ends [.regs, .draw, .vl, .tkts, .handed, .replies, .fl] s (execSettingsWrite client s) := by
  unfold execSettingsWrite
  exact (.serve fun _ _ => (State.checked_touches Touches.refl (State.withTicket_touches Touches.refl fun _ => (((Touches.refl.then
        (State.tktIssue_touches ..)).then (State.accept_touches ..)).then .setFl))))

theorem execSettingsRead_touches (client : Fin 64) (s : State) :
    Ends [.vl, .tkts, .handed, .replies] s (execSettingsRead client s) := by
  unfold execSettingsRead
  exact (.serve fun _ _ => (State.checked_touches Touches.refl (Touches.refl.then (State.answer_touches ..))))

theorem execScrubRestore_touches (n : Tile) (s : State) :
    Ends [.regs, .fab] s (execScrubRestore n s) := by
  unfold execScrubRestore
  refine .when ?_
  exact (Touches.refl.then (State.scrubRestore_touches ..))

theorem State.sweepEnd_touches (s : State) (n : ℕ) (sb : Bool) :
    Touches [.regs, .draw] s (s.sweepEnd n sb) := by
  unfold State.sweepEnd
  extract_lets +onlyGivenNames s1
  refine .via (t := s1) (Touches.refl.then (State.wr_part .regs _ _ _ (regPart_ite (regPart_regs (le_index (by decide))) (regPart_regs
        (le_index (by decide)))))) fun hs1 => ?_
  generalize s1 = s1 at hs1 ⊢
  extract_lets +onlyGivenNames mine s2
  refine .via (t := s2) (.each hs1 fun _ _ => (Touches.refl.then (State.wr_part .regs _ _ _ (regPart_ite (regPart_regs (le_index
        (le_index (by decide)))) (regPart_regs (le_index (le_index (by decide)))))))) fun hs2 => ?_
  generalize s2 = s2 at hs2 ⊢
  exact ((hs2.then (State.wr_part .regs _ _ _ (regPart_regs (le_index (by decide))))).then (State.drawn_touches ..))

theorem State.setPos_touches (s : State) (n : ℕ) (sb : Bool) (a : ℕ) :
    Touches [.regs] s (s.setPos n sb a) := by
  unfold State.setPos
  exact (Touches.refl.then (State.wr_part .regs _ _ _ (regPart_ite (regPart_regs (le_index (by decide))) (regPart_regs (le_index (by
        decide))))))

theorem State.upset_touches (s : State) (n : ℕ) (a : ℕ) (b : ℕ) :
    Touches [.mem, .fab] s (s.upset n a b) := by
  unfold State.upset
  exact (.ite (Touches.refl.then (State.putBit_touches ..)) (.ite (Touches.refl.then .setFab) Touches.refl))

theorem State.lastErr_touches (s : State) (n : ℕ) (a : ℕ) (kind : ℕ) :
    Touches [.regs] s (s.lastErr n a kind) := by
  unfold State.lastErr
  exact (Touches.refl.then (State.wr_part .regs _ _ _ (regPart_regs (le_index (by decide)))))

theorem State.frameEvent_touches (s : State) (n : ℕ) (typ : ℕ) (sev : ℕ) (f : FrameFault) (bit : List ℕ) :
    Touches [.evr, .ev] s (s.frameEvent n typ sev f bit) := by
  unfold State.frameEvent
  exact (Touches.refl.then (State.event_touches ..))

theorem State.setScrub_touches (s : State) (n : ℕ) (sb : Bool) (v : ScrubRt) :
    Touches [.fab] s (s.setScrub n sb v) := by
  unfold State.setScrub
  exact (Touches.refl.then (State.setTile_touches ..))

theorem State.scrubFound_touches (s : State) (n : ℕ) (sb : Bool) (a : ℕ) :
    Touches [.evr, .regs, .fab, .ev] s (s.scrubFound n sb a) := by
  unfold State.scrubFound
  extract_lets +onlyGivenNames c s1
  refine .via (t := s1) (Touches.refl.then (State.setScrub_touches ..)) fun hs1 => ?_
  generalize s1 = s1 at hs1 ⊢
  extract_lets +onlyGivenNames fixable lost
  split
  · exact Touches.refl
  · exact (.ite Touches.refl (.ite (((hs1.then (State.lastErr_touches ..)).then (State.frameEvent_touches ..)).then (State.setBit_part
        .regs _ _ _ _ (regPart_regs (le_index (by decide))))) ((hs1.then (State.lastErr_touches
        ..)).then (State.frameEvent_touches ..))))
  · exact (.ite Touches.refl (.ite (((hs1.then (State.lastErr_touches ..)).then (State.frameEvent_touches ..)).then (State.setBit_part
        .regs _ _ _ _ (regPart_regs (le_index (by decide))))) ((hs1.then (State.lastErr_touches
        ..)).then (State.frameEvent_touches ..))))
  · exact (.ite Touches.refl (.ite (((hs1.then (State.lastErr_touches ..)).then (State.frameEvent_touches ..)).then (State.setBit_part
        .regs _ _ _ _ (regPart_regs (le_index (by decide))))) ((hs1.then (State.lastErr_touches
        ..)).then (State.frameEvent_touches ..))))
  · exact (.ite Touches.refl (.ite (((Touches.refl.then (State.setScrub_touches ..)).then (State.lastErr_touches ..)).then
        (State.count_part .regs _ _ _ _ _ (regPart_regs (le_index (by decide))))) ((Touches.refl.then (State.setScrub_touches
        ..)).then (State.lastErr_touches ..))))
  · exact (.ite Touches.refl (.ite (((Touches.refl.then (State.setScrub_touches ..)).then (State.lastErr_touches ..)).then
        (State.count_part .regs _ _ _ _ _ (regPart_regs (le_index (by decide))))) ((Touches.refl.then (State.setScrub_touches
        ..)).then (State.lastErr_touches ..))))

theorem State.scrubStep_touches (s : State) (n : ℕ) (sb : Bool) (a : ℕ) (upsets : List ℕ) :
    Touches [.evr, .regs, .mem, .draw, .fab, .ev] s (s.scrubStep n sb a upsets) := by
  unfold State.scrubStep
  extract_lets +onlyGivenNames k c s1
  refine .via (t := s1) (.ite (Touches.refl.then (State.setScrub_touches ..)) Touches.refl) fun hs1 => ?_
  generalize s1 = s1 at hs1 ⊢
  extract_lets +onlyGivenNames s2
  refine .via (t := s2) (.then (.each hs1 fun _ _ => (Touches.refl.then (State.upset_touches ..))) (State.scrubFound_touches
        ..)) fun hs2 => ?_
  generalize s2 = s2 at hs2 ⊢
  extract_lets +onlyGivenNames src s3
  refine .via (t := s3) (hs2.then (State.setScrub_touches ..)) fun hs3 => ?_
  generalize s3 = s3 at hs3 ⊢
  split
  · extract_lets +onlyGivenNames s4
    refine .via (t := s4) (hs3.then (State.setBit_part .regs _ _ _ _ (regPart_ite (regPart_regs (le_index (le_index (by decide))))
          (regPart_regs (le_index (le_index (by decide))))))) fun hs4 => ?_
    generalize s4 = s4 at hs4 ⊢
    split
    · exact (hs4.then (State.setPos_touches ..))
    · exact ((hs4.then (State.sweepEnd_touches ..)).then (State.setPos_touches ..))
  · exact (hs3.then (State.setPos_touches ..))

theorem execScrubFrameRead_touches (n : Tile) (sb : Bool) (upsets : List ℕ) (s : State) :
    Ends [.evr, .regs, .mem, .draw, .fab, .ev] s (execScrubFrameRead n sb upsets s) := by
  unfold execScrubFrameRead
  extract_lets +onlyGivenNames ks go
  split
  · refine .when ?_
    exact (Touches.refl.then (State.scrubStep_touches ..))
  · extract_lets +onlyGivenNames s1
    refine .via (t := s1) (Touches.refl.then (State.sweepEnd_touches ..)) fun hs1 => ?_
    generalize s1 = s1 at hs1 ⊢
    refine .when ?_
    exact (hs1.then (State.scrubStep_touches ..))

theorem execScrubCorrection_touches (n : Tile) (sb : Bool) (s : State) :
    Ends [.regs, .mem, .fab] s (execScrubCorrection n sb s) := by
  unfold execScrubCorrection
  extract_lets +onlyGivenNames c
  split
  · refine .next ?_
    exact Touches.refl
  · refine .when ?_
    exact (((Touches.refl.then (State.setScrub_touches ..)).then (State.putFrame_touches ..)).then (State.count_part .regs _ _ _ _ _
          (regPart_regs (le_index (by decide)))))

theorem execScratchpadZeroComplete_touches (b : Fin 16) (s : State) :
    Ends [.pm, .mr, .ep, .evr, .regs, .loStage, .mem, .draw, .fab, .so, .runs, .bps, .cache, .alloc, .snaps, .fk, .ev, .rnd, .tal, .mcs,
          .ic, .dbg, .vl, .tkts, .handed, .replies, .cr, .pw, .doms, .chg, .fl, .sp] s (execScratchpadZeroComplete b s) := by
  unfold execScratchpadZeroComplete
  refine .when ?_
  exact (((Touches.refl.then (State.setBit_part .regs _ _ _ _ (regPart_regs (le_index (by decide))))).then (State.spUp_touches ..)).then
        (State.prDeliver_touches ..))

theorem execScratchpadStateWrite_touches (b : Fin 16) (mid : Byte) (st : Fin 4) (s : State) :
    Ends [.pm, .mr, .ep, .evr, .regs, .loStage, .mem, .fab, .so, .runs, .bps, .cache, .alloc, .snaps, .fk, .ev, .rnd, .tal, .mcs, .ic,
          .dbg, .vl, .tkts, .handed, .replies, .cr, .pw, .doms, .chg, .fl, .sp] s (execScratchpadStateWrite b mid st s) := by
  unfold execScratchpadStateWrite
  refine .when ?_
  exact (Touches.refl.then (State.spWriteState_touches ..))

theorem execScratchpadPatrol_touches (b : Fin 16) (corrected : ℕ) (double : List ℕ) (s : State) :
    Ends [.evr, .regs, .ev, .sp] s (execScratchpadPatrol b corrected double s) := by
  unfold execScratchpadPatrol
  extract_lets +onlyGivenNames at' s1
  refine .via (t := s1) (Touches.refl.then (State.count_part .regs _ _ _ _ _ (regPart_regs (le_index (by decide))))) fun hs1 => ?_
  generalize s1 = s1 at hs1 ⊢
  extract_lets +onlyGivenNames src s2
  refine .via (t := s2) (hs1.then .setSp) fun hs2 => ?_
  generalize s2 = s2 at hs2 ⊢
  refine .when ?_
  exact (.each hs2 fun _ _ => (Touches.refl.then (State.spUe_touches ..)))

theorem execScratchpadHandoverComplete_touches (b : Fin 16) (s : State) :
    Ends [.regs, .sp] s (execScratchpadHandoverComplete b s) := by
  unfold execScratchpadHandoverComplete
  split
  · refine .when ?_
    exact (((Touches.refl.then .setSp).then (State.setBit_part .regs _ _ _ _ (regPart_regs (le_index (by decide))))).then
          (State.setFld_part .regs _ _ _ _ _ (regPart_regs (le_index (by decide)))))
  · refine .next ?_
    exact Touches.refl

theorem execScratchpadHandover_touches (b : Fin 16) (mid : Byte) (owner : Byte) (s : State) :
    Ends [.regs, .sp] s (execScratchpadHandover b mid owner s) := by
  unfold execScratchpadHandover
  refine .when ?_
  exact (Touches.refl.then (State.spWriteOwner_touches ..))

theorem State.saveFailed_touches (s : State) (r : ℕ) (h : ℕ) :
    Touches [.evr, .regs, .so, .runs, .bps, .cache, .alloc, .snaps, .ev, .tkts] s (s.saveFailed r h) := by
  unfold State.saveFailed
  extract_lets +onlyGivenNames x s1
  refine .via (t := s1) (Touches.refl.then (State.setRun_touches ..)) fun hs1 => ?_
  generalize s1 = s1 at hs1 ⊢
  exact ((((hs1.then (State.event_touches ..)).then (State.tktEnd?_touches ..)).then (State.compactDone_touches ..)).then
        (State.giveUp_touches ..))

theorem State.writeBay_touches (s : State) (i : ℕ) :
    Touches [.regs] s (s.writeBay i) := by
  unfold State.writeBay
  extract_lets +onlyGivenNames e p s1
  refine .via (t := s1) ((Touches.refl.then (State.ownMems_touches ..)).then (State.setFld_part .regs _ _ _ _ _ (regPart_regs (le_index
        (le_index (le_index (by decide))))))) fun hs1 => ?_
  generalize s1 = s1 at hs1 ⊢
  exact (((hs1.then (State.setFld_part .regs _ _ _ _ _ (regPart_regs (le_index (le_index (le_index (by decide))))))).then
        (State.setFld_part .regs _ _ _ _ _ (regPart_regs (le_index (le_index (le_index (by
        decide))))))).then (State.writeRoutes_touches ..))

theorem State.wakeBay_touches (s : State) (n : ℕ) (b : ℕ) :
    Touches [.pm, .regs, .doms] s (s.wakeBay n b) := by
  unfold State.wakeBay
  exact (Touches.refl.then (State.domWake_touches ..))

theorem State.placementWrite_touches (s : State) (i : ℕ) :
    Touches [.pm, .regs, .draw, .fab, .doms] s (s.placementWrite i) := by
  unfold State.placementWrite
  extract_lets +onlyGivenNames n b s1
  refine .via (t := s1) (Touches.refl.then (State.wakeBay_touches ..)) fun hs1 => ?_
  generalize s1 = s1 at hs1 ⊢
  extract_lets +onlyGivenNames s2
  refine .via (t := s2) (.ite (hs1.then (State.writeTile_touches ..)) hs1) fun hs2 => ?_
  generalize s2 = s2 at hs2 ⊢
  exact (.ite (hs2.then (State.writeBay_touches ..)) hs2)

theorem State.segFollow_touches (s : State) (k : ℕ) (recs : View) :
    Touches [.mr, .evr, .regs, .mem, .draw, .fab, .so, .runs, .bps, .cache, .alloc, .snaps, .ev, .rnd, .mcs, .ic, .dbg, .tkts,
          .pw] s (s.segFollow k recs) := by
  unfold State.segFollow
  extract_lets +onlyGivenNames x r
  refine .viaOf Prod.fst r ?_ fun hr => ?_
  · unfold r
    refine (.foldlFst Touches.refl fun u c e => ?_)
    extract_lets +onlyGivenNames h
    split
    rename_i x' t e' heq
    refine .viaEq Prod.fst heq (.then Touches.refl (State.pmGet_touches ..)) fun ht => ?_
    split
    · exact (.pair ht)
    · extract_lets +onlyGivenNames t1
      refine .via (t := t1) (.ite (ht.then (State.allocFailed_touches ..)) ht) fun ht1 => ?_
      generalize t1 = t1 at ht1 ⊢
      split
      · exact (.pair ((ht1.then (State.alloc_touches ..)).then (State.pmPut_touches ..)))
      · exact (.pair ht1)
  generalize r = r at hr ⊢
  split
  · exact hr
  · extract_lets +onlyGivenNames s1
    refine .via (t := s1) ((hr.then (State.tktEnd?_touches ..)).then (State.snapDrop_touches ..)) fun hs1 => ?_
    generalize s1 = s1 at hs1 ⊢
    split
    · exact (hs1.then (.upd [.so, .snaps]))
    · exact hs1

theorem State.beginLoad_touches (s : State) (r : ℕ) (recs : View) (backfill : Bool) :
    Touches [.pm, .mr, .evr, .regs, .mem, .draw, .fab, .so, .runs, .bps, .cache, .alloc, .snaps, .ev, .rnd, .mcs, .ic, .dbg, .tkts, .pw,
          .doms] s (s.beginLoad r recs backfill) := by
  unfold State.beginLoad
  extract_lets +onlyGivenNames x gone left
  refine .via (t := left) (.ite (.each Touches.refl fun _ _ => (Touches.refl.then (State.setBpRec_touches ..))) (Touches.refl.then
        (State.evict_touches ..))) fun hleft => ?_
  generalize left = left at hleft ⊢
  extract_lets +onlyGivenNames segs s0
  refine .via (t := s0) (.each hleft fun _ _ => (Touches.refl.then (State.segFollow_touches ..))) fun hs0 => ?_
  generalize s0 = s0 at hs0 ⊢
  extract_lets +onlyGivenNames back s0'
  refine .via (t := s0') (.each hs0 fun _ _ => (Touches.refl.then (State.tktProgress_touches ..))) fun hs0' => ?_
  generalize s0' = s0' at hs0' ⊢
  extract_lets +onlyGivenNames src s1
  refine .via (t := s1) (.each (hs0'.then .setSo) fun _ _ => (Touches.refl.then (State.setBpRec_touches ..))) fun hs1 => ?_
  generalize s1 = s1 at hs1 ⊢
  extract_lets +onlyGivenNames s2
  refine .via (t := s2) (.each hs1 fun _ _ => (Touches.refl.then (State.placementWrite_touches ..))) fun hs2 => ?_
  generalize s2 = s2 at hs2 ⊢
  extract_lets +onlyGivenNames s3
  refine .via (t := s3) (.each hs2 fun _ _ => (Touches.refl.then (State.ingress_touches ..))) fun hs3 => ?_
  generalize s3 = s3 at hs3 ⊢
  extract_lets +onlyGivenNames groups
  exact (((hs3.then (State.setRun_touches ..)).then (State.tktActive?_touches ..)).then (State.tktProgress?_touches ..))

theorem State.victimGone_touches (s : State) (r : ℕ) :
    Touches [.pm, .mr, .evr, .regs, .mem, .draw, .fab, .so, .runs, .bps, .cache, .alloc, .snaps, .ev, .rnd, .mcs, .ic, .dbg, .tkts, .pw,
          .doms] s (s.victimGone r) := by
  unfold State.victimGone
  exact (.each Touches.refl fun _ _ => (.ite (Touches.refl.then (State.beginLoad_touches ..)) (Touches.refl.then (State.setRun_touches
        ..))))

theorem State.saveDone_touches (s : State) (r : ℕ) :
    Touches [.pm, .mr, .evr, .regs, .mem, .draw, .fab, .so, .runs, .bps, .cache, .alloc, .snaps, .ev, .rnd, .mcs, .ic, .dbg, .tkts, .pw,
          .doms] s (s.saveDone r) := by
  unfold State.saveDone
  extract_lets +onlyGivenNames x s1
  refine .via (t := s1) (Touches.refl.then (State.setRun_touches ..)) fun hs1 => ?_
  generalize s1 = s1 at hs1 ⊢
  extract_lets +onlyGivenNames s2
  refine .via (t := s2) ((hs1.then (State.evict_touches ..)).then (State.tktProgress?_touches ..)) fun hs2 => ?_
  generalize s2 = s2 at hs2 ⊢
  exact (((hs2.then (State.tktEnd?_touches ..)).then (State.compactDone_touches ..)).then (State.victimGone_touches ..))

theorem State.saveExtent_touches (s : State) (h : ℕ) (n : ℕ) (e : PmEnt) :
    Carries [.mr, .evr, .regs, .mem, .draw, .fab, .so, .runs, .bps, .cache, .alloc, .snaps, .ev, .rnd, .mcs, .ic, .dbg, .tkts,
          .pw] s Prod.fst (s.saveExtent h n e) := by
  unfold State.saveExtent
  split
  · exact (.pair Touches.refl)
  · extract_lets +onlyGivenNames t
    refine .via (t := t) (.ite (Touches.refl.then (State.allocFailed_touches ..)) Touches.refl) fun ht => ?_
    generalize t = t at ht ⊢
    split
    · exact (.pair (ht.then (State.alloc_touches ..)))
    · exact (.pair ht)

theorem State.saveWrite_touches (s : State) (r : ℕ) (i : ℕ) :
    Carries [.mr, .evr, .regs, .mem, .draw, .fab, .so, .runs, .bps, .cache, .alloc, .snaps, .ev, .rnd, .mcs, .ic, .dbg, .tkts,
          .pw] s (Got.st ∘ Prod.fst) (s.saveWrite r i) := by
  unfold State.saveWrite
  extract_lets +onlyGivenNames h
  split
  rename_i x t e heq
  refine .viaEq Prod.fst heq (.then Touches.refl (State.pmGet_touches ..)) fun ht => ?_
  split
  rename_i x' t' e' heq'
  refine .viaEq Prod.fst heq' (.then ht (State.saveExtent_touches ..)) fun ht' => ?_
  exact (.comp (.then ht' (State.dramWrite_touches ..)))

theorem execSaveComplete_touches (run : Fin 4096) (bp : Fin 2048) (ok : Bool) (s : State) :
    Ends [.pm, .mr, .evr, .regs, .mem, .draw, .fab, .so, .runs, .bps, .cache, .alloc, .snaps, .ev, .rnd, .mcs, .ic, .dbg, .tkts, .pw,
          .doms] s (execSaveComplete run bp ok s) := by
  unfold execSaveComplete
  extract_lets +onlyGivenNames r i x h
  split
  rename_i x' t e heq
  refine .viaEq Prod.fst heq (.then Touches.refl (State.pmGet_touches ..)) fun ht => ?_
  split
  rename_i x'' g e2 heq'
  refine .viaEq (Got.st ∘ Prod.fst) heq' (.then Touches.refl (State.saveWrite_touches ..)) fun hg => ?_
  extract_lets +onlyGivenNames rest s1
  refine .via (t := s1) (hg.then (State.pmPut_touches ..)) fun hs1 => ?_
  generalize s1 = s1 at hs1 ⊢
  extract_lets +onlyGivenNames src s2
  refine .via (t := s2) ((hs1.then (State.setRun_touches ..)).then (State.tktProgress?_touches ..)) fun hs2 => ?_
  generalize s2 = s2 at hs2 ⊢
  refine .when ?_
  exact (.ite (ht.then (State.runFault_touches ..)) (.ite (.ite (hs2.then (State.saveDone_touches ..)) hs2) (ht.then
        (State.saveFailed_touches ..))))

theorem execSafeHoldAutoReset_touches (s : State) :
    Ends [.pm, .mr, .ep, .evr, .regs, .loStage, .mem, .draw, .fab, .so, .runs, .bps, .cache, .alloc, .snaps, .fk, .ev, .rnd, .tal, .mcs,
          .ic, .dbg, .vl, .tkts, .handed, .replies, .cr, .pw, .doms, .chg, .fl, .sp] s (execSafeHoldAutoReset s) := by
  unfold execSafeHoldAutoReset
  extract_lets +onlyGivenNames h
  refine .when ?_
  exact (Touches.refl.then (State.warmReset_touches ..))

theorem State.dropPend_touches (s : State) (r : ℕ) :
    Touches [.regs, .runs, .tkts] s (s.dropPend r) := by
  unfold State.dropPend
  split
  · exact Touches.refl
  · extract_lets +onlyGivenNames s1
    refine .via (t := s1) ?_ fun hs1 => ?_
    · unfold s1
      split
      · exact (.ite (Touches.refl.then (State.setTkt_touches ..)) Touches.refl)
      · exact Touches.refl
    generalize s1 = s1 at hs1 ⊢
    exact (hs1.then (State.setRun_touches ..))

theorem State.swapBegin_touches (s : State) (r : ℕ) (q : PendReq) :
    Touches [.mr, .evr, .regs, .mem, .draw, .fab, .so, .runs, .bps, .cache, .alloc, .snaps, .ev, .rnd, .mcs, .ic, .dbg, .tkts,
          .pw] s (s.swapBegin r q) := by
  unfold State.swapBegin
  split
  rename_i x t err h page heq
  refine .viaEq Prod.fst heq (.then Touches.refl (State.swapCheck_touches ..)) fun ht => ?_
  split
  · exact (ht.then (State.tktEnd?_touches ..))
  · split
    · exact ((ht.then (State.swapTable_touches ..)).then (State.tktEnd?_touches ..))
    · extract_lets +onlyGivenNames x' stops
      exact ((ht.then (State.setRun_touches ..)).then (State.tktActive?_touches ..))

theorem State.closeStreams_touches (s : State) (r : ℕ) :
    Touches [.vl] s (s.closeStreams r) := by
  unfold State.closeStreams
  exact (Touches.refl.then .setVl)

theorem State.dropSnaps_touches (s : State) (r : ℕ) :
    Touches [.mr, .evr, .regs, .mem, .draw, .fab, .so, .runs, .bps, .cache, .alloc, .snaps, .ev, .rnd, .mcs, .ic, .dbg, .tkts,
          .pw] s (s.dropSnaps r) := by
  unfold State.dropSnaps
  extract_lets +onlyGivenNames mine s1
  refine .via (t := s1) (.each Touches.refl fun _ _ => (Touches.refl.then (State.snapDrop_touches ..))) fun hs1 => ?_
  generalize s1 = s1 at hs1 ⊢
  exact (hs1.then .setSo)

theorem State.endFree_touches (s : State) (r : ℕ) :
    Touches [.mr, .evr, .regs, .mem, .draw, .fab, .so, .runs, .bps, .cache, .alloc, .snaps, .ev, .rnd, .mcs, .ic, .dbg, .vl, .tkts,
          .pw] s (s.endFree r) := by
  unfold State.endFree
  extract_lets +onlyGivenNames x hs own ds s1
  refine .via (t := s1) (((Touches.refl.then (State.holdAll_touches ..)).then (State.stepDrop_touches ..)).then (State.evict_touches
        ..)) fun hs1 => ?_
  generalize s1 = s1 at hs1 ⊢
  extract_lets +onlyGivenNames s2
  refine .via (t := s2) (.each hs1 fun _ _ => (Touches.refl.then (State.pmFree_touches ..))) fun hs2 => ?_
  generalize s2 = s2 at hs2 ⊢
  extract_lets +onlyGivenNames s3
  refine .via (t := s3) (.each hs2 fun _ _ => (Touches.refl.then (State.refDown_touches ..))) fun hs3 => ?_
  generalize s3 = s3 at hs3 ⊢
  extract_lets +onlyGivenNames src s4
  refine .via (t := s4) (hs3.then .setSo) fun hs4 => ?_
  generalize s4 = s4 at hs4 ⊢
  extract_lets +onlyGivenNames d s5
  refine .via (t := s5) ((hs4.then (State.setDesign_touches ..)).then (State.designGc_touches ..)) fun hs5 => ?_
  generalize s5 = s5 at hs5 ⊢
  extract_lets +onlyGivenNames s6
  refine .via (t := s6) (.each hs5 fun _ _ => (Touches.refl.then (State.designGc_touches ..))) fun hs6 => ?_
  generalize s6 = s6 at hs6 ⊢
  extract_lets +onlyGivenNames s7
  refine .via (t := s7) ((hs6.then (State.closeStreams_touches ..)).then (State.dropSnaps_touches ..)) fun hs7 => ?_
  generalize s7 = s7 at hs7 ⊢
  extract_lets +onlyGivenNames s8
  refine .via (t := s8) ((((hs7.then (State.tktProgress?_touches ..)).then (State.tktEnd?_touches ..)).then (State.giveUp_touches
        ..)).then (State.compactDone_touches ..)) fun hs8 => ?_
  generalize s8 = s8 at hs8 ⊢
  extract_lets +onlyGivenNames s9
  refine .via (t := s9) ?_ fun hs9 => ?_
  · unfold s9
    split
    · exact (hs8.then (State.tktEnd?_touches ..))
    · exact hs8
  generalize s9 = s9 at hs9 ⊢
  extract_lets +onlyGivenNames s10
  refine .via (t := s10) (hs9.then (State.setRun_touches ..)) fun hs10 => ?_
  generalize s10 = s10 at hs10 ⊢
  extract_lets +onlyGivenNames src' src'' s11
  refine .via (t := s11) (hs10.then (.upd [.so, .pw])) fun hs11 => ?_
  generalize s11 = s11 at hs11 ⊢
  exact (.ite (hs11.then (State.modeQueue_touches ..)) hs11)

theorem State.dropStart_touches (s : State) (r : ℕ) :
    Touches [.regs, .runs, .tkts] s (s.dropStart r) := by
  unfold State.dropStart
  extract_lets +onlyGivenNames x
  split
  · exact (.then (.ite (Touches.refl.then (State.setTkt_touches ..)) Touches.refl) (State.setRun_touches ..))
  · exact Touches.refl

theorem State.release_touches (s : State) (r : ℕ) :
    Touches [.regs, .fab, .runs] s (s.release r) := by
  unfold State.release
  extract_lets +onlyGivenNames x s1
  refine .via (t := s1) (.each Touches.refl fun _ _ => (Touches.refl.then (State.relOp_touches ..))) fun hs1 => ?_
  generalize s1 = s1 at hs1 ⊢
  exact (hs1.then (State.setRun_touches ..))

theorem State.reqRun_touches (s : State) (r : ℕ) (q : PendReq) :
    Touches [.mr, .evr, .regs, .mem, .draw, .fab, .so, .runs, .bps, .cache, .alloc, .snaps, .ev, .rnd, .mcs, .ic, .dbg, .vl, .tkts,
          .pw] s (s.reqRun r q) := by
  unfold State.reqRun
  extract_lets +onlyGivenNames x
  split
  · exact (.ite (.ite (((Touches.refl.then (State.setRun_touches ..)).then (State.tktActive?_touches ..)).then (State.release_touches
        ..)) (Touches.refl.then (State.setRun_touches ..))) (Touches.refl.then (State.setRun_touches ..)))
  · exact (.ite ((Touches.refl.then (State.setRun_touches ..)).then (State.tktActive?_touches ..)) (((Touches.refl.then
        (State.dropStart_touches ..)).then (State.setRun_touches ..)).then (State.tktEnd?_touches ..)))
  · extract_lets +onlyGivenNames s1
    refine .via (t := s1) ((Touches.refl.then (State.dropStart_touches ..)).then (State.tktActive?_touches ..)) fun hs1 => ?_
    generalize s1 = s1 at hs1 ⊢
    extract_lets +onlyGivenNames y
    exact (.ite (hs1.then (State.setRun_touches ..)) ((hs1.then (State.setRun_touches ..)).then (State.endFree_touches ..)))
  · exact (Touches.refl.then (State.swapBegin_touches ..))
  · exact Touches.refl

theorem State.reqPend_touches (s : State) (r : ℕ) (q : PendReq) :
    Touches [.regs, .runs, .tkts] s (s.reqPend r q) := by
  unfold State.reqPend
  extract_lets +onlyGivenNames x s1
  refine .via (t := s1) ?_ fun hs1 => ?_
  · unfold s1
    split
    · exact (.ite (Touches.refl.then (State.setTkt_touches ..)) Touches.refl)
    · exact Touches.refl
  generalize s1 = s1 at hs1 ⊢
  exact (hs1.then (State.setRun_touches ..))

theorem State.runAsk_touches (s : State) (q : VReq) (r : ℕ) (early : ℕ) (err : ℕ) (x : PendReq) :
    Touches [.mr, .evr, .regs, .mem, .draw, .fab, .so, .runs, .bps, .cache, .alloc, .snaps, .ev, .rnd, .mcs, .ic, .dbg, .vl, .tkts,
          .replies, .pw] s (s.runAsk q r early err x) := by
  unfold State.runAsk
  exact (.ite (Touches.refl.then (State.answer_touches ..)) (.ite (Touches.refl.then (State.answer_touches ..)) (.ite (Touches.refl.then
        (State.answer_touches ..)) (State.withTicket_touches Touches.refl fun _ => (.ite (((Touches.refl.then (State.tktIssue_touches
        ..)).then (State.accept_touches ..)).then (State.reqPend_touches ..)) ((((Touches.refl.then (State.tktIssue_touches
        ..)).then (State.accept_touches ..)).then (State.dropPend_touches ..)).then (State.reqRun_touches ..)))))))

theorem execRunSwap_touches (client : Fin 64) (s : State) :
    Ends [.mr, .evr, .regs, .mem, .draw, .fab, .so, .runs, .bps, .cache, .alloc, .snaps, .ev, .rnd, .mcs, .ic, .dbg, .vl, .tkts,
          .handed, .replies, .pw] s (execRunSwap client s) := by
  unfold execRunSwap
  refine (.serve fun t q => ?_)
  extract_lets +onlyGivenNames p r x placed now
  split
  rename_i x' t' err h page heq
  refine .viaEq Prod.fst heq (.then Touches.refl (State.swapCheck_touches ..)) fun ht' => ?_
  exact (State.checked_touches Touches.refl (.ite (ht'.then (State.runAsk_touches ..)) (Touches.refl.then (State.runAsk_touches ..))))

theorem execRunSuspend_touches (client : Fin 64) (s : State) :
    Ends [.mr, .evr, .regs, .mem, .draw, .fab, .so, .runs, .bps, .cache, .alloc, .snaps, .ev, .rnd, .mcs, .ic, .dbg, .vl, .tkts,
          .handed, .replies, .pw] s (execRunSuspend client s) := by
  unfold execRunSuspend
  exact (.serve fun _ _ => (State.checked_touches Touches.refl (Touches.refl.then (State.runAsk_touches ..))))

theorem State.stepDone_touches (s : State) (r : ℕ) :
    Touches [.regs, .fab, .so, .tkts] s (s.stepDone r) := by
  unfold State.stepDone
  split
  · exact Touches.refl
  · extract_lets +onlyGivenNames s1
    refine .via (t := s1) (.each Touches.refl fun _ _ => (Touches.refl.then (State.holdApply_touches ..))) fun hs1 => ?_
    generalize s1 = s1 at hs1 ⊢
    extract_lets +onlyGivenNames d s2
    refine .via (t := s2) (((hs1.then (State.tktProgress_touches ..)).then (State.tktEnd_touches ..)).then (State.tktData_touches
          ..)) fun hs2 => ?_
    generalize s2 = s2 at hs2 ⊢
    exact (hs2.then .setSo)

theorem State.modeHeldRun_touches (s : State) (r : ℕ) :
    Touches [.regs, .fab, .so, .runs, .tkts, .pw] s (s.modeHeldRun r) := by
  unfold State.modeHeldRun
  extract_lets +onlyGivenNames x first src s1
  refine .via (t := s1) ((Touches.refl.then (State.holdAll_touches ..)).then (State.setRun_touches ..)) fun hs1 => ?_
  generalize s1 = s1 at hs1 ⊢
  extract_lets +onlyGivenNames pw add late
  exact (((hs1.then .setPw).then (State.applyHolds_touches ..)).then (State.stepDone_touches ..))

theorem State.saveBegin_touches (s : State) (r : ℕ) :
    Touches [.runs] s (s.saveBegin r) := by
  unfold State.saveBegin
  extract_lets +onlyGivenNames x
  exact (Touches.refl.then (State.setRun_touches ..))

theorem State.haltTaken_touches (s : State) (r : ℕ) (u : ℕ) :
    Touches [.regs] s (s.haltTaken r u) := by
  unfold State.haltTaken
  extract_lets +onlyGivenNames fire
  exact ((Touches.refl.then (State.wr_part .regs _ _ _ rfl)).then (State.wr_part .regs _ _ _ rfl))

theorem execRunStopCycle_touches (run : Fin 4096) (s : State) :
    Ends [.mr, .evr, .regs, .mem, .draw, .fab, .so, .runs, .bps, .cache, .alloc, .snaps, .ev, .rnd, .mcs, .ic, .dbg, .vl, .tkts,
          .pw] s (execRunStopCycle run s) := by
  unfold execRunStopCycle
  extract_lets +onlyGivenNames r x met saves halts src stopped
  refine .via (t := stopped) ((Touches.refl.then (State.holdAll_touches ..)).then (State.setRun_touches ..)) fun hstopped => ?_
  generalize stopped = stopped at hstopped ⊢
  extract_lets +onlyGivenNames withHalts
  refine .via (t := withHalts) ?_ fun hwithHalts => ?_
  · unfold withHalts
    split
    · exact (hstopped.then (State.haltTaken_touches ..))
    · exact hstopped
  generalize withHalts = withHalts at hwithHalts ⊢
  extract_lets +onlyGivenNames withStep
  refine .via (t := withStep) (.ite (hwithHalts.then (State.stepDone_touches ..)) hwithHalts) fun hwithStep => ?_
  generalize withStep = withStep at hwithStep ⊢
  extract_lets +onlyGivenNames willSave keep heldOnly
  refine .via (t := heldOnly) ((Touches.refl.then (State.holdAll_touches ..)).then (State.setRun_touches ..)) fun hheldOnly => ?_
  generalize heldOnly = heldOnly at hheldOnly ⊢
  extract_lets +onlyGivenNames res
  refine .via (t := res) (.ite (Touches.refl.then (State.endFree_touches ..)) (.ite (Touches.refl.then (State.portsFlush_touches ..))
        (.ite (.ite (hwithStep.then (State.saveBegin_touches ..)) hwithStep) (.ite (hheldOnly.then (State.stepDone_touches ..)) (.ite
        (Touches.refl.then (State.modeHeldRun_touches ..)) (Touches.refl.then (State.setRun_touches ..))))))) fun hres => ?_
  generalize res = res at hres ⊢
  refine .when ?_
  exact hres

theorem execRunStatus_touches (client : Fin 64) (s : State) :
    Ends [.vl, .tkts, .handed, .replies] s (execRunStatus client s) := by
  unfold execRunStatus
  exact (.serve fun _ _ => (State.checked_touches Touches.refl (Touches.refl.then (State.answer_touches ..))))

theorem execRunStart_touches (client : Fin 64) (s : State) :
    Ends [.mr, .evr, .regs, .mem, .draw, .fab, .so, .runs, .bps, .cache, .alloc, .snaps, .ev, .rnd, .mcs, .ic, .dbg, .vl, .tkts,
          .handed, .replies, .pw] s (execRunStart client s) := by
  unfold execRunStart
  exact (.serve fun _ _ => (State.checked_touches Touches.refl (Touches.refl.then (State.runAsk_touches ..))))

theorem execRunSet_touches (client : Fin 64) (s : State) :
    Ends [.runs, .vl, .tkts, .handed, .replies] s (execRunSet client s) := by
  unfold execRunSet
  exact (.serve fun _ _ => (State.checked_touches Touches.refl ((Touches.refl.then (State.setRun_touches ..)).then (State.answer_touches
        ..))))

theorem execRunResume_touches (client : Fin 64) (s : State) :
    Ends [.mr, .evr, .regs, .mem, .draw, .fab, .so, .runs, .bps, .cache, .alloc, .snaps, .ev, .rnd, .mcs, .ic, .dbg, .vl, .tkts,
          .handed, .replies, .pw] s (execRunResume client s) := by
  unfold execRunResume
  exact (.serve fun _ _ => (State.checked_touches Touches.refl (Touches.refl.then (State.runAsk_touches ..))))

theorem execRunReleaseComplete_touches (run : Fin 4096) (s : State) :
    Ends [.regs, .draw, .so, .runs, .snaps, .tkts] s (execRunReleaseComplete run s) := by
  unfold execRunReleaseComplete
  extract_lets +onlyGivenNames r x s1
  refine .via (t := s1) ((Touches.refl.then (State.setRun_touches ..)).then (State.tktEnd?_touches ..)) fun hs1 => ?_
  generalize s1 = s1 at hs1 ⊢
  extract_lets +onlyGivenNames src s2
  refine .via (t := s2) ?_ fun hs2 => ?_
  · unfold s2
    split
    · exact (hs1.then .setSnaps)
    · exact hs1
  generalize s2 = s2 at hs2 ⊢
  refine .when ?_
  exact (.ite (((hs2.then .setSo).then (State.wr_part .regs _ _ _ rfl)).then (State.drawn_touches ..)) hs2)

theorem execRunList_touches (client : Fin 64) (s : State) :
    Ends [.vl, .tkts, .handed, .replies] s (execRunList client s) := by
  unfold execRunList
  exact (.serve fun _ _ => (State.checked_touches Touches.refl (Touches.refl.then (State.answer_touches ..))))

theorem execRunEnd_touches (client : Fin 64) (s : State) :
    Ends [.mr, .evr, .regs, .mem, .draw, .fab, .so, .runs, .bps, .cache, .alloc, .snaps, .ev, .rnd, .mcs, .ic, .dbg, .vl, .tkts,
          .handed, .replies, .pw] s (execRunEnd client s) := by
  unfold execRunEnd
  exact (.serve fun _ _ => (State.checked_touches Touches.refl (Touches.refl.then (State.runAsk_touches ..))))

theorem State.runSpace_touches (s : State) (w : ℕ) (h : ℕ) (ps : List PageD) :
    Carries [.mr, .evr, .regs, .mem, .draw, .fab, .so, .runs, .bps, .cache, .alloc, .snaps, .ev, .rnd, .mcs, .ic, .dbg, .tkts,
          .pw] s AllocRes.st (s.runSpace w h ps) := by
  unfold State.runSpace
  exact (.then Touches.refl (State.allocFor_touches ..))

theorem State.runMake_touches (s : State) (w : ℕ) (d : ℕ) (prio : ℕ) (mask : ℕ) (whole : Bool) (st : RunState) (ps : List PageD) :
    Carries [.mr, .evr, .regs, .mem, .draw, .fab, .so, .runs, .bps, .cache, .alloc, .snaps, .ev, .rnd, .mcs, .ic, .dbg, .tkts,
          .pw] s Prod.fst (s.runMake w d prio mask whole st ps) := by
  unfold State.runMake
  extract_lets +onlyGivenNames x
  split
  · split
    · rename_i x' t heq
      refine .viaEq AllocRes.st heq (.then Touches.refl (State.runSpace_touches ..)) fun ht => ?_
      exact (.pair ht)
    · rename_i x' t heq
      refine .viaEq AllocRes.st heq (.then Touches.refl (State.runSpace_touches ..)) fun ht => ?_
      exact (.pair ht)
    · rename_i x' t heq
      refine .viaEq AllocRes.st heq (.then Touches.refl (State.runSpace_touches ..)) fun ht => ?_
      extract_lets +onlyGivenNames t1
      refine .via (t := t1) ?_ fun ht1 => ?_
      · unfold t1
        refine (.each ht fun u p => ?_)
        split
        exact (Touches.refl.then (State.pmPut_touches ..))
      generalize t1 = t1 at ht1 ⊢
      extract_lets +onlyGivenNames t2
      refine .via (t := t2) (.each ht1 fun _ _ => (Touches.refl.then (State.refUp_touches ..))) fun ht2 => ?_
      generalize t2 = t2 at ht2 ⊢
      extract_lets +onlyGivenNames t3
      refine .via (t := t3) (ht2.then (State.setDesign_touches ..)) fun ht3 => ?_
      generalize t3 = t3 at ht3 ⊢
      exact (.pair (ht3.then (State.setRun_touches ..)))
  · exact (.pair (Touches.refl.then (State.compForget_touches ..)))

theorem State.runCreate_touches (s : State) (w : ℕ) (d : ℕ) (prio : ℕ) (mask : ℕ) (whole : Bool) :
    Carries [.mr, .evr, .regs, .mem, .draw, .fab, .so, .runs, .bps, .cache, .alloc, .snaps, .ev, .rnd, .mcs, .ic, .dbg, .tkts,
          .pw] s Prod.fst (s.runCreate w d prio mask whole) := by
  unfold State.runCreate
  split
  · exact (.pair Touches.refl)
  · split
    · rename_i x t heq
      refine .viaEq Prod.fst heq (.then Touches.refl (State.pagesAt_touches ..)) fun ht => ?_
      exact (.pair ht)
    · rename_i x t ps heq
      refine .viaEq Prod.fst heq (.then Touches.refl (State.pagesAt_touches ..)) fun ht => ?_
      exact (.then ht (State.runMake_touches ..))

theorem execRunCreate_touches (client : Fin 64) (s : State) :
    Ends [.mr, .evr, .regs, .mem, .draw, .fab, .so, .runs, .bps, .cache, .alloc, .snaps, .ev, .rnd, .mcs, .ic, .dbg, .vl, .tkts,
          .handed, .replies, .pw] s (execRunCreate client s) := by
  unfold execRunCreate
  refine (.serve fun t q => ?_)
  extract_lets +onlyGivenNames p d
  refine (State.checked_touches Touches.refl ?_)
  split
  rename_i x w e r heq
  refine .viaEq Prod.fst heq (.then Touches.refl (State.runCreate_touches ..)) fun hw => ?_
  exact (.ite (hw.then (State.keep_touches ..)) (hw.then (State.answer_touches ..)))

theorem State.preempt_touches (s : State) (r : ℕ) (claimed : List ℕ) :
    Touches [.regs, .runs] s (s.preempt r claimed) := by
  unfold State.preempt
  extract_lets +onlyGivenNames x
  exact ((Touches.refl.then (State.setRun_touches ..)).then (State.count_part .regs _ _ _ _ _ rfl))

theorem State.compactAll_touches (s : State) (ticket : ℕ) :
    Touches [.mr, .evr, .regs, .mem, .draw, .fab, .so, .runs, .bps, .cache, .alloc, .snaps, .ev, .rnd, .mcs, .ic, .dbg, .tkts,
          .pw] s (s.compactAll ticket) := by
  unfold State.compactAll
  extract_lets +onlyGivenNames rs others busy s1
  refine .via (t := s1) (.each Touches.refl fun _ _ => (Touches.refl.then (State.evictRun_touches ..))) fun hs1 => ?_
  generalize s1 = s1 at hs1 ⊢
  extract_lets +onlyGivenNames s2
  refine .via (t := s2) (.each (.each hs1 fun _ _ => (Touches.refl.then (State.preempt_touches ..))) fun _ _ => (Touches.refl.then
        (State.setRun_touches ..))) fun hs2 => ?_
  generalize s2 = s2 at hs2 ⊢
  extract_lets +onlyGivenNames src s3
  refine .via (t := s3) (hs2.then .setSo) fun hs3 => ?_
  generalize s3 = s3 at hs3 ⊢
  extract_lets +onlyGivenNames s4
  refine .via (t := s4) (hs3.then (State.tktActive_touches ..)) fun hs4 => ?_
  generalize s4 = s4 at hs4 ⊢
  exact (.ite (hs4.then (State.tktEnd_touches ..)) hs4)

theorem execRunCompact_touches (client : Fin 64) (s : State) :
    Ends [.mr, .evr, .regs, .mem, .draw, .fab, .so, .runs, .bps, .cache, .alloc, .snaps, .ev, .rnd, .mcs, .ic, .dbg, .vl, .tkts,
          .handed, .replies, .pw] s (execRunCompact client s) := by
  unfold execRunCompact
  exact (.serve fun _ _ => (State.checked_touches Touches.refl (State.withTicket_touches Touches.refl fun _ => (((Touches.refl.then
        (State.tktIssue_touches ..)).then (State.accept_touches ..)).then (State.compactAll_touches ..)))))

theorem execRoutingTableWrite_touches (bank : Fin 2) (x : Fin 18) (y : Fin 18) (word : Word) (s : State) :
    Ends [.regs] s (execRoutingTableWrite bank x y word s) := by
  unfold execRoutingTableWrite
  refine .when ?_
  exact (Touches.refl.then (State.routeWrite_touches ..))

theorem execRoutingSwitch_touches (s : State) :
    Ends [.regs] s (execRoutingSwitch s) := by
  unfold execRoutingSwitch
  refine .when ?_
  exact (Touches.refl.then (State.routingSwitch_touches ..))

theorem State.pieceDone_touches (s : State) (id : ℕ) (i : ℕ) (status : ℕ) (cause : ℕ) (data : List Byte) :
    Touches [.evr, .regs, .draw, .ev, .rnd, .dbg, .vl, .tkts, .replies] s (s.pieceDone id i status cause data) := by
  unfold State.pieceDone
  split
  · exact Touches.refl
  · exact ((Touches.refl.then (State.setJob_touches ..)).then (State.jobStep_touches ..))

theorem State.deliver_touches (s : State) (o : Origin) (p : Pkt) :
    Touches [.evr, .regs, .draw, .fab, .ev, .rnd, .dbg, .vl, .tkts, .replies] s (s.deliver o p) := by
  unfold State.deliver
  split
  · exact (Touches.refl.then .setRnd)
  · exact (Touches.refl.then (State.pieceDone_touches ..))
  · exact (Touches.refl.then .setDbg)
  · exact (Touches.refl.then (State.setMmp_touches ..))
  · exact (Touches.refl.then (State.setMmp_touches ..))

theorem execRoundsTimeout_touches (stop : Fin 18) (tag : Fin 2048) (s : State) :
    Ends [.evr, .regs, .draw, .fab, .ev, .rnd, .mcs, .dbg, .vl, .tkts, .replies] s (execRoundsTimeout stop tag s) := by
  unfold execRoundsTimeout
  extract_lets +onlyGivenNames t k
  split
  · extract_lets +onlyGivenNames p s1
    refine .via (t := s1) (((Touches.refl.then (State.count_part .regs _ _ _ _ _ (regPart_regs (le_index (by decide))))).then
          (State.loadLastErr_touches ..)).then (State.event_touches ..)) fun hs1 => ?_
    generalize s1 = s1 at hs1 ⊢
    extract_lets +onlyGivenNames src s2
    refine .via (t := s2) (hs1.then .setRnd) fun hs2 => ?_
    generalize s2 = s2 at hs2 ⊢
    refine .when ?_
    exact (((hs2.then (State.deliver_touches ..)).then (State.settle_touches ..)).then (State.pump_touches ..))
  · refine .next ?_
    exact Touches.refl

theorem State.freeEntry_touches (s : State) (k : ℕ) :
    Touches [.rnd] s (s.freeEntry k) := by
  unfold State.freeEntry
  exact (Touches.refl.then .setRnd)

theorem State.takeNet_touches (s : State) (i : ℕ) :
    Touches [.rnd] s (s.takeNet i) := by
  unfold State.takeNet
  exact ((Touches.refl.then .setRnd).then (State.settle_touches ..))

theorem execRoundsResponseArrival_touches (index : ℕ) (s : State) :
    Ends [.evr, .regs, .draw, .fab, .ev, .rnd, .mcs, .dbg, .vl, .tkts, .replies] s (execRoundsResponseArrival index s) := by
  unfold execRoundsResponseArrival
  split
  · extract_lets +onlyGivenNames k s1
    refine .via (t := s1) (Touches.refl.then (State.takeNet_touches ..)) fun hs1 => ?_
    generalize s1 = s1 at hs1 ⊢
    split
    · split
      · refine .next ?_
        exact ((((hs1.then (State.freeEntry_touches ..)).then (State.count_part .regs _ _ _ _ _ (regPart_regs (le_index (by
              decide))))).then (State.settle_touches ..)).then (State.pump_touches ..))
      · refine .next ?_
        exact ((((hs1.then (State.freeEntry_touches ..)).then (State.deliver_touches ..)).then (State.settle_touches ..)).then
              (State.pump_touches ..))
    · refine .next ?_
      exact (hs1.then (State.deadLetter_touches ..))
  · refine .next ?_
    exact Touches.refl

theorem execRoundsRequestInject_touches (stop : Fin 18) (mid : Byte) (addr : BitVec 48) (write : Bool) (peek : Bool) (len : Fin
      257) (data : List Byte) (bem : Option (BitVec 64)) (excl : Bool) (s : State) :
    Ends [.evr, .regs, .draw, .fab, .ev, .rnd, .dbg, .vl, .tkts, .replies] s (execRoundsRequestInject stop mid addr write peek len data
          bem excl s) := by
  unfold execRoundsRequestInject
  extract_lets +onlyGivenNames c runs a core held src s1
  refine .via (t := s1) (.ite (Touches.refl.then (State.setCore_touches ..)) Touches.refl) fun hs1 => ?_
  generalize s1 = s1 at hs1 ⊢
  extract_lets +onlyGivenNames r
  refine .viaOf Prod.fst r (.then hs1 (State.inject_touches ..)) fun hr => ?_
  generalize r = r at hr ⊢
  refine .when ?_
  split
  · exact hs1
  · split
    · exact Touches.refl
    · exact (hr.then (State.deliver_touches ..))
    · exact hr

theorem State.holdReq_touches (s : State) (q : Pkt) (d : ℕ) :
    Touches [.pm, .regs, .rnd, .doms] s (s.holdReq q d) := by
  unfold State.holdReq
  extract_lets +onlyGivenNames t
  exact (.ite (.ite (((Touches.refl.then .setRnd).then (State.setFld_part .regs _ _ _ _ _ (regPart_regs (le_index (by decide))))).then
        (State.setDom_touches ..)) ((Touches.refl.then .setRnd).then (State.setFld_part .regs _ _ _ _ _ (regPart_regs (le_index (by
        decide)))))) ((Touches.refl.then .setRnd).then (State.post_touches ..)))

theorem State.arrive_touches (s : State) (q : Pkt) :
    Touches [.pm, .mr, .ep, .evr, .regs, .loStage, .mem, .draw, .fab, .so, .runs, .bps, .cache, .alloc, .snaps, .fk, .ev, .rnd, .tal,
          .mcs, .ic, .dbg, .vl, .tkts, .handed, .replies, .cr, .pw, .doms, .chg, .fl, .sp] s (s.arrive q) := by
  unfold State.arrive
  extract_lets +onlyGivenNames t
  exact (.ite (((Touches.refl.then (State.count_part .regs _ _ _ _ _ rfl)).then (State.event_touches ..)).then (State.post_touches ..))
        (.ite (.then (.then (.ite Touches.refl (Touches.refl.then .setRnd)) (State.domStay_touches ..)) (State.serveReq_touches ..))
        (.ite (.then (.ite Touches.refl (Touches.refl.then .setRnd)) (State.serveReq_touches ..)) (.ite (.then (.ite Touches.refl
        (Touches.refl.then .setRnd)) (State.respond_touches ..)) (.then (.ite Touches.refl (Touches.refl.then
        .setRnd)) (State.holdReq_touches ..))))))

theorem execRoundsRequestArrival_touches (index : ℕ) (s : State) :
    Ends [.pm, .mr, .ep, .evr, .regs, .loStage, .mem, .draw, .fab, .so, .runs, .bps, .cache, .alloc, .snaps, .fk, .ev, .rnd, .tal, .mcs,
          .ic, .dbg, .vl, .tkts, .handed, .replies, .cr, .pw, .doms, .chg, .fl, .sp] s (execRoundsRequestArrival index s) := by
  unfold execRoundsRequestArrival
  split
  · refine .next ?_
    exact ((Touches.refl.then (State.takeNet_touches ..)).then (State.arrive_touches ..))
  · refine .next ?_
    exact Touches.refl

theorem execRootKeyDrawn_touches (key : BitVec 256) (s : State) :
    Ends [.regs, .ic] s (execRootKeyDrawn key s) := by
  unfold execRootKeyDrawn
  refine .when ?_
  exact ((Touches.refl.then .setIc).then (State.setBit_part .regs _ _ _ _ rfl))

theorem execRingSnapshotDue_touches (ring : Fin 64) (s : State) :
    Ends [.mr, .evr, .regs, .mem, .draw, .fab, .so, .runs, .bps, .cache, .alloc, .snaps, .ev, .rnd, .mcs, .ic, .dbg, .tkts,
          .pw] s (execRingSnapshotDue ring s) := by
  unfold execRingSnapshotDue
  extract_lets +onlyGivenNames g
  split
  · refine .next ?_
    exact Touches.refl
  · extract_lets +onlyGivenNames d before pins skip res
    refine .via (t := res) ?_ fun hres => ?_
    · unfold res
      split
      · exact (Touches.refl.then (State.setRing_touches ..))
      · split
        · exact (Touches.refl.then (State.setRing_touches ..))
        · split
          rename_i x s2 severe heq
          refine .viaEq Prod.fst heq (.ite (.pair Touches.refl) (.then Touches.refl (State.ringPrepare_touches ..))) fun hs2 => ?_
          exact (.ite ((hs2.then (State.setSnap_touches ..)).then (State.setRing_touches ..)) (hs2.then (State.setRing_touches ..)))
    generalize res = res at hres ⊢
    refine .when ?_
    exact hres

theorem execReturnedRequest_touches (index : ℕ) (s : State) :
    Ends [.regs, .rnd] s (execReturnedRequest index s) := by
  unfold execReturnedRequest
  split
  · extract_lets +onlyGivenNames k s1
    refine .via (t := s1) ((Touches.refl.then (State.takeNet_touches ..)).then (State.count_part .regs _ _ _ _ _ (regPart_regs (le_index
          (by decide))))) fun hs1 => ?_
    generalize s1 = s1 at hs1 ⊢
    refine .next ?_
    exact (hs1.then .setRnd)
  · refine .next ?_
    exact Touches.refl

theorem execRetrainStepTimeout_touches (c : Fin 20) (s : State) :
    Ends [.evr, .regs, .mem, .draw, .fab, .ev, .rnd, .mcs, .ic, .dbg] s (execRetrainStepTimeout c s) := by
  unfold execRetrainStepTimeout
  extract_lets +onlyGivenNames k
  split
  · extract_lets +onlyGivenNames src s1
    refine .via (t := s1) (Touches.refl.then (State.setMc_touches ..)) fun hs1 => ?_
    generalize s1 = s1 at hs1 ⊢
    refine .when ?_
    exact (((hs1.then (State.isoEnd_touches ..)).then (State.count_part .regs _ _ _ _ _ (regPart_regs (le_index (le_mcBase _))))).then
          (State.event_touches ..))
  · refine .next ?_
    exact Touches.refl

theorem execRetrainRelease_touches (c : Fin 20) (s : State) :
    Ends [.evr, .regs, .mem, .draw, .fab, .ev, .rnd, .mcs, .ic, .dbg] s (execRetrainRelease c s) := by
  unfold execRetrainRelease
  refine .when ?_
  exact (Touches.refl.then (State.isoRelease_touches ..))

theorem execRetrainIsolate_touches (c : Fin 20) (s : State) :
    Ends [.regs, .so, .mcs] s (execRetrainIsolate c s) := by
  unfold execRetrainIsolate
  refine .when ?_
  exact (Touches.refl.then (State.isolate_touches ..))

theorem State.trigReload_touches (s : State) (r : ℕ) :
    Touches [.evr, .regs, .fab, .so, .ev] s (s.trigReload r) := by
  unfold State.trigReload
  extract_lets +onlyGivenNames us s1
  refine .via (t := s1) (.each Touches.refl fun _ _ => ((Touches.refl.then (State.trigUnload_touches ..)).then (State.setFld_part .regs
        _ _ _ _ _ (regPart_regs (le_index (by decide)))))) fun hs1 => ?_
  generalize s1 = s1 at hs1 ⊢
  exact (.each hs1 fun _ _ => (Touches.refl.then (State.trigLoad_touches ..)))

theorem State.releaseDue_touches (s : State) (r : ℕ) :
    Touches [.regs, .fab, .runs, .pw] s (s.releaseDue r) := by
  unfold State.releaseDue
  exact (.ite (Touches.refl.then .setPw) (Touches.refl.then (State.release_touches ..)))

theorem State.pmReside_touches (s : State) (i : ℕ) :
    Touches [.mr, .evr, .regs, .mem, .draw, .fab, .so, .runs, .bps, .cache, .alloc, .snaps, .ev, .rnd, .mcs, .ic, .dbg, .tkts,
          .pw] s (s.pmReside i) := by
  unfold State.pmReside
  extract_lets +onlyGivenNames e h
  split
  rename_i x t e' heq
  refine .viaEq Prod.fst heq (.then Touches.refl (State.pmGet_touches ..)) fun ht => ?_
  exact (.ite ht (ht.then (State.pmPut_touches ..)))

theorem State.initMems_touches (s : State) (i : ℕ) (rs : List MemRec) :
    Touches [.regs, .mem] s (s.initMems i rs) := by
  unfold State.initMems
  extract_lets +onlyGivenNames n b p s1
  refine .via (t := s1) (.each Touches.refl fun _ _ => ((Touches.refl.then (State.zeroRange_touches ..)).then (State.wr_part .regs _ _ _
        (regPart_ite (regPart_regs (le_index (le_index (le_index (by decide))))) (regPart_regs (le_index (le_index (le_index (by
        decide))))))))) fun hs1 => ?_
  generalize s1 = s1 at hs1 ⊢
  exact (.each hs1 fun _ _ => (Touches.refl.then (State.putBytes_touches ..)))

theorem State.putSlot_touches (s : State) (i o : Nat) (bs : List Byte) : Touches [.mem, .fab] s (s.putSlot i o bs) := by
  induction bs generalizing s o with
  | nil => exact .refl
  | cons b bs ih => exact (State.putSlotByte_touches s i o b).then (ih _ _)

theorem State.putMems_touches (s : State) (n b : Nat) (ms : List (Bool × Nat × Nat)) (d : List Byte) :
    Touches [.mem] s (s.putMems n b ms d) := by
  induction ms generalizing s d with
  | nil => exact .refl
  | cons m ms ih => exact (State.putBytes_touches s _ _).then (ih _ _)

theorem State.restoreItems_touches (s : State) (i : ℕ) (d : List Byte) :
    Touches [.regs, .mem, .fab] s (s.restoreItems i d) := by
  unfold State.restoreItems
  extract_lets +onlyGivenNames n b e ms memLen mo ao co s1
  refine .via (t := s1) (Touches.refl.then (State.putMems_touches ..)) fun hs1 => ?_
  generalize s1 = s1 at hs1 ⊢
  extract_lets +onlyGivenNames s2
  refine .via (t := s2) (.each hs1 fun _ _ => (Touches.refl.then (State.wr_part .regs _ _ _ (regPart_ite (regPart_regs (le_index
        (le_index (le_index (by decide))))) (regPart_regs (le_index (le_index (le_index (by decide))))))))) fun hs2 => ?_
  generalize s2 = s2 at hs2 ⊢
  extract_lets +onlyGivenNames s3
  refine .via (t := s3) (.each hs2 fun _ _ => (Touches.refl.then (State.putBytes_touches ..))) fun hs3 => ?_
  generalize s3 = s3 at hs3 ⊢
  extract_lets +onlyGivenNames s4
  refine .via (t := s4) ((hs3.then (State.setDcc_touches ..)).then (State.putSlot_touches ..)) fun hs4 => ?_
  generalize s4 = s4 at hs4 ⊢
  split
  · extract_lets +onlyGivenNames s5
    refine .via (t := s5) (.each hs4 fun _ _ => (Touches.refl.then (State.wr_part .regs _ _ _ (regPart_regs (le_index (le_index
          (le_index (by decide)))))))) fun hs5 => ?_
    generalize s5 = s5 at hs5 ⊢
    exact (hs5.then (State.setFld_part .regs _ _ _ _ _ (regPart_regs (le_index (le_index (by decide))))))
  · exact hs4

theorem State.loadState_touches (s : State) (i : ℕ) :
    Carries [.mr, .evr, .regs, .mem, .draw, .fab, .so, .runs, .bps, .cache, .alloc, .snaps, .ev, .rnd, .mcs, .ic, .dbg, .tkts,
          .pw] s Got.st (s.loadState i) := by
  unfold State.loadState
  extract_lets +onlyGivenNames e x p
  split
  · split
    · split
      · exact (.got (Touches.refl.then (State.restoreItems_touches ..)))
      · exact (.got Touches.refl)
    · split
      split
      rename_i x' t e' heq
      refine .viaEq Prod.fst heq (.then Touches.refl (State.pmGet_touches ..)) fun ht => ?_
      extract_lets +onlyGivenNames mem g
      refine .viaOf Got.st g (.then ht (State.dramRead_touches ..)) fun hg => ?_
      generalize g = g at hg ⊢
      split
      · exact (.got hg)
      · split
        · exact (.got (hg.then (State.restoreItems_touches ..)))
        · split
          rename_i x'' t' e'' heq'
          refine .viaEq Prod.fst heq' (.then hg (State.pmGet_touches ..)) fun ht' => ?_
          extract_lets +onlyGivenNames f
          refine .viaOf Got.st f (.then ht' (State.dramRead_touches ..)) fun hf => ?_
          generalize f = f at hf ⊢
          exact (.ite (.got hf) (.got (hf.then (State.restoreItems_touches ..))))
  · split
    rename_i x' t e' heq
    refine .viaEq Prod.fst heq (.then Touches.refl (State.pmGet_touches ..)) fun ht => ?_
    extract_lets +onlyGivenNames g
    refine .viaOf Got.st g (.then ht (State.dramRead_touches ..)) fun hg => ?_
    generalize g = g at hg ⊢
    exact (.ite (.got hg) (.got ((hg.then (State.initMems_touches ..)).then (State.setDcc_touches ..))))

theorem State.xferWork_touches (s : State) (i : ℕ) :
    Carries [.pm, .mr, .evr, .regs, .mem, .draw, .fab, .so, .runs, .bps, .cache, .alloc, .snaps, .ev, .rnd, .mcs, .ic, .dbg, .tkts, .pw,
          .doms] s Got.st (s.xferWork i) := by
  unfold State.xferWork
  extract_lets +onlyGivenNames f
  refine .viaOf Got.st f (.then (Touches.refl.then (State.placementWrite_touches ..)) (State.loadFrames_touches ..)) fun hf => ?_
  generalize f = f at hf ⊢
  exact (.ite (.then hf (State.loadState_touches ..)) hf)

theorem execResumeTransferComplete_touches (run : Fin 4096) (bp : Fin 2048) (s : State) :
    Ends [.pm, .mr, .evr, .regs, .mem, .draw, .fab, .so, .runs, .bps, .cache, .alloc, .snaps, .ev, .rnd, .mcs, .ic, .dbg, .tkts, .pw,
          .doms] s (execResumeTransferComplete run bp s) := by
  unfold execResumeTransferComplete
  extract_lets +onlyGivenNames r i x w
  refine .viaOf Got.st w (.then Touches.refl (State.xferWork_touches ..)) fun hw => ?_
  generalize w = w at hw ⊢
  extract_lets +onlyGivenNames g
  refine .viaOf Got.st g ?_ fun hg => ?_
  · unfold g
    split
    · exact (.ite (.got ((hw.then (State.evictBp_touches ..)).then (State.count_part .regs _ _ _ _ _ rfl))) hw)
    · exact hw
  generalize g = g at hg ⊢
  extract_lets +onlyGivenNames src s1
  refine .via (t := s1) (hg.then (State.setBpRec_touches ..)) fun hs1 => ?_
  generalize s1 = s1 at hs1 ⊢
  extract_lets +onlyGivenNames s2
  refine .via (t := s2) ((hs1.then (State.setBp_touches ..)).then (State.pmReside_touches ..)) fun hs2 => ?_
  generalize s2 = s2 at hs2 ⊢
  extract_lets +onlyGivenNames s3
  refine .via (t := s3) (hs2.then (State.scrubEn_touches ..)) fun hs3 => ?_
  generalize s3 = s3 at hs3 ⊢
  extract_lets +onlyGivenNames rest src' s4
  refine .via (t := s4) ((hs3.then (State.setRun_touches ..)).then (State.tktProgress?_touches ..)) fun hs4 => ?_
  generalize s4 = s4 at hs4 ⊢
  refine .when ?_
  exact (.ite (hg.then (State.runFault_touches ..)) (.ite ((hs4.then (State.trigReload_touches ..)).then (State.releaseDue_touches ..))
        hs4))

theorem execResumeNotice_touches (index : ℕ) (s : State) :
    Ends [.evr, .regs, .ev, .rnd] s (execResumeNotice index s) := by
  unfold execResumeNotice
  split
  · extract_lets +onlyGivenNames k s1
    refine .via (t := s1) (Touches.refl.then (State.takeNet_touches ..)) fun hs1 => ?_
    generalize s1 = s1 at hs1 ⊢
    refine .next ?_
    exact (.ite ((hs1.then .setRnd).then (State.settle_touches ..)) (hs1.then (State.deadLetter_touches ..)))
  · refine .next ?_
    exact Touches.refl

theorem execReservationExpiry_touches (c : Fin 4) (s : State) :
    Ends [.dbg] s (execReservationExpiry c s) := by
  unfold execReservationExpiry
  refine .when ?_
  exact (Touches.refl.then (State.setCore_touches ..))

theorem State.bufFree_touches (s : State) (p : ℕ) :
    Touches [.vl] s (s.bufFree p) := by
  unfold State.bufFree
  exact (Touches.refl.then .setVl)

theorem execReplySent_touches (port : Fin 9) (s : State) :
    Ends [.pm, .mr, .ep, .evr, .regs, .loStage, .mem, .draw, .fab, .so, .runs, .bps, .cache, .alloc, .snaps, .fk, .ev, .rnd, .tal, .mcs,
          .ic, .dbg, .vl, .tkts, .handed, .replies, .cr, .pw, .doms, .chg, .fl, .sp] s (execReplySent port s) := by
  unfold execReplySent
  split
  · refine .next ?_
    exact Touches.refl
  · extract_lets +onlyGivenNames src s1
    refine .via (t := s1) (Touches.refl.then (.upd [.vl, .replies])) fun hs1 => ?_
    generalize s1 = s1 at hs1 ⊢
    extract_lets +onlyGivenNames s2
    refine .via (t := s2) (.ite (hs1.then (State.bufFree_touches ..)) hs1) fun hs2 => ?_
    generalize s2 = s2 at hs2 ⊢
    refine .when ?_
    exact (.ite (hs2.then (State.warmReset_touches ..)) hs2)

theorem State.takeoverAsk_touches (s : State) (n : ℕ) (g : ℕ) (l : ℕ) :
    Touches [.cr] s (s.takeoverAsk n g l) := by
  unfold State.takeoverAsk
  extract_lets +onlyGivenNames w
  exact (.each Touches.refl fun _ _ => (Touches.refl.then (State.crSendCtl_touches ..)))

theorem State.grpFail_touches (s0 : State) (n : ℕ) (g : ℕ) :
    Touches [.regs, .vl, .tkts, .handed, .replies, .cr] s0 (s0.grpFail n g) := by
  unfold State.grpFail
  extract_lets +onlyGivenNames s
  refine .via (t := s) (Touches.refl.then (State.retireOwed_touches ..)) fun hs => ?_
  generalize s = s at hs ⊢
  extract_lets +onlyGivenNames s1
  refine .via (t := s1) (.each hs fun _ _ => (Touches.refl.then (State.setLaneSt_touches ..))) fun hs1 => ?_
  generalize s1 = s1 at hs1 ⊢
  extract_lets +onlyGivenNames s2
  refine .via (t := s2) ((((hs1.then (State.setBit_part .regs _ _ _ _ (regPart_regs (le_index (le_index (by decide)))))).then
        (State.setFld_part .regs _ _ _ _ _ (regPart_regs (le_index (le_index (by
        decide)))))).then
        (State.setBit_part .regs _ _ _ _ (regPart_regs (le_index (le_index (by
        decide)))))).then (State.setBit_part .regs _ _ _ _ (regPart_regs (le_index (le_index (by decide)))))) fun hs2 => ?_
  generalize s2 = s2 at hs2 ⊢
  exact (hs2.then (State.setCrg_touches ..))

theorem State.spareBack_touches (s : State) (n : ℕ) (g : ℕ) :
    Touches [.regs] s (s.spareBack n g) := by
  unfold State.spareBack
  extract_lets +onlyGivenNames s1
  refine .via (t := s1) (((Touches.refl.then (State.setBit_part .regs _ _ _ _ (regPart_regs (le_index (le_index (by decide)))))).then
        (State.setBit_part .regs _ _ _ _ (regPart_regs (le_index (le_index (by
        decide)))))).then (State.setFld_part .regs _ _ _ _ _ (regPart_regs (le_index (le_index (by decide)))))) fun hs1 => ?_
  generalize s1 = s1 at hs1 ⊢
  split
  · exact (hs1.then (State.setLaneSt_touches ..))
  · exact hs1

theorem State.moveUndo_touches (s : State) (n : ℕ) (g : ℕ) :
    Touches [.regs, .cr] s (s.moveUndo n g) := by
  unfold State.moveUndo
  split
  · exact (.ite (.ite (((((Touches.refl.then (State.setCrl_touches ..)).then (State.setCrg_touches ..)).then (State.setBit_part .regs _
        _ _ _ (regPart_regs (le_index (le_index (by
        decide)))))).then
        (State.spareBack_touches ..)).then (State.crSendCtl_touches ..)) (((Touches.refl.then (State.setCrl_touches
        ..)).then (State.setCrg_touches ..)).then (State.setBit_part .regs _ _ _ _ (regPart_regs (le_index (le_index (by
        decide))))))) Touches.refl)
  · exact Touches.refl

theorem State.laneFail_touches (s : State) (n : ℕ) (g : ℕ) (l : ℕ) :
    Touches [.regs, .vl, .tkts, .handed, .replies, .cr] s (s.laneFail n g l) := by
  unfold State.laneFail
  extract_lets +onlyGivenNames w s0
  refine .via (t := s0) ((Touches.refl.then (State.setFld_part .regs _ _ _ _ _ (regPart_regs (le_index (le_index (by decide)))))).then
        (State.moveUndo_touches ..)) fun hs0 => ?_
  generalize s0 = s0 at hs0 ⊢
  exact (.ite (.ite (hs0.then (State.grpFail_touches ..)) ((hs0.then (State.setLaneSt_touches ..)).then (State.setBit_part .regs _ _ _ _
        (regPart_regs (le_index (le_index (by decide))))))) (.ite (((hs0.then (State.setLaneSt_touches ..)).then (State.setCrg_touches
        ..)).then (State.takeoverAsk_touches ..)) (hs0.then (State.grpFail_touches ..))))

theorem State.laneOut_touches (s : State) (n : ℕ) (l : ℕ) (b : ℕ) (x : CrBlk) :
    Touches [.cr] s (s.laneOut n l b x) := by
  unfold State.laneOut
  exact (Touches.refl.then (State.setCrl_touches ..))

theorem execReplayReq_touches (n : Tile) (g : Tile) (lane : Fin 16) (interval : Word) (first : BitVec 14) (blocks : BitVec 14) (s :
      State) :
    Ends [.regs, .vl, .tkts, .handed, .replies, .cr] s (execReplayReq n g lane interval first blocks s) := by
  unfold execReplayReq
  extract_lets +onlyGivenNames l q want got sent
  refine .via (t := sent) ?_ fun hsent => ?_
  · unfold sent
    split
    · exact (Touches.refl.then (State.laneOut_touches ..))
    · exact Touches.refl
  generalize sent = sent at hsent ⊢
  refine .when ?_
  exact (.ite (hsent.then (State.count_part .regs _ _ _ _ _ (regPart_regs (le_index (le_index (by decide)))))) (Touches.refl.then
        (State.laneFail_touches ..)))

theorem execRelockTimeout_touches (n : Tile) (s : State) :
    Ends [.evr, .regs, .ev] s (execRelockTimeout n s) := by
  unfold execRelockTimeout
  refine .when ?_
  exact (((Touches.refl.then (State.setBit_part .regs _ _ _ _ (regPart_regs (le_index (by decide))))).then (State.setBit_part .regs _ _
        _ _ (regPart_regs (le_index (by decide))))).then (State.event_touches ..))

theorem State.relAdvance_touches (s : State) (i : ℕ) :
    Touches [.regs, .fab] s (s.relAdvance i) := by
  unfold State.relAdvance
  extract_lets +onlyGivenNames per
  exact (.ite ((((Touches.refl.then (State.setFld_part .regs _ _ _ _ _ (regPart_regs (le_index (le_index (le_index (by
        decide))))))).then
        (State.setBit_part .regs _ _ _ _ (regPart_regs (le_index (le_index (le_index (by
        decide))))))).then
        (State.setFld_part .regs _ _ _ _ _ (regPart_regs (le_index (le_index (le_index (by
        decide))))))).then
        (State.setBp_touches ..)) (.ite (Touches.refl.then (State.setFld_part .regs _ _ _ _ _ (regPart_regs (le_index (le_index
        (le_index (by decide))))))) (.ite ((Touches.refl.then (State.setFld_part .regs _ _ _ _ _ (regPart_regs (le_index (le_index
        (le_index (by decide))))))).then (State.setBit_part .regs _ _ _ _ (regPart_regs (le_index (le_index (le_index (by
        decide))))))) Touches.refl)))

theorem execReleaseStageAdvance_touches (n : Tile) (b : Bay) (p : Plane) (s : State) :
    Ends [.regs, .fab] s (execReleaseStageAdvance n b p s) := by
  unfold execReleaseStageAdvance
  refine .when ?_
  exact (Touches.refl.then (State.relAdvance_touches ..))

theorem execRelOpResume_touches (n : Tile) (b : Bay) (p : Plane) (s : State) :
    Ends [.regs, .fab] s (execRelOpResume n b p s) := by
  unfold execRelOpResume
  refine .when ?_
  exact (Touches.refl.then (State.relOp_touches ..))

theorem execRelOpHold_touches (n : Tile) (b : Bay) (p : Plane) (s : State) :
    Ends [.regs, .fab] s (execRelOpHold n b p s) := by
  unfold execRelOpHold
  refine .when ?_
  exact (Touches.refl.then (State.relOp_touches ..))

theorem execRelOpFirstStart_touches (n : Tile) (b : Bay) (p : Plane) (s : State) :
    Ends [.regs, .fab] s (execRelOpFirstStart n b p s) := by
  unfold execRelOpFirstStart
  refine .when ?_
  exact (Touches.refl.then (State.relOp_touches ..))

theorem State.rekeyNext_touches (s : State) :
    Touches [.evr, .regs, .ev, .ic] s (s.rekeyNext) := by
  unfold State.rekeyNext
  split
  · split
    · exact (Touches.refl.then (State.rekeyBegin_touches ..))
    · exact Touches.refl
  · exact Touches.refl

theorem State.rekeyEnd_touches (s : State) (r : ℕ) :
    Touches [.evr, .regs, .ev, .ic] s (s.rekeyEnd r) := by
  unfold State.rekeyEnd
  extract_lets +onlyGivenNames src s1
  refine .via (t := s1) (Touches.refl.then .setIc) fun hs1 => ?_
  generalize s1 = s1 at hs1 ⊢
  extract_lets +onlyGivenNames s2
  refine .via (t := s2) (((hs1.then (State.setBit_part .regs _ _ _ _ (regPart_regs (le_index (by decide))))).then (State.setBit_part
        .regs _ _ _ _ (regPart_regs (le_index (by decide))))).then (State.showRekeys_touches ..)) fun hs2 => ?_
  generalize s2 = s2 at hs2 ⊢
  extract_lets +onlyGivenNames s3
  refine .via (t := s3) (.ite ((hs2.then (State.setBit_part .regs _ _ _ _ (regPart_regs (le_index (by decide))))).then
        (State.rekey_touches ..)) hs2) fun hs3 => ?_
  generalize s3 = s3 at hs3 ⊢
  exact (hs3.then (State.rekeyNext_touches ..))

theorem State.rekeySector_touches (s : State) (r : ℕ) :
    Touches [.evr, .regs, .mem, .ev, .ic] s (s.rekeySector r) := by
  unfold State.rekeySector
  extract_lets +onlyGivenNames p plain sick bad s1
  refine .via (t := s1) (Touches.refl.then (State.wr64_part .regs _ _ _ _ (regPart_regs (le_index (by decide))) (regPart_regs (le_index
        (by decide))))) fun hs1 => ?_
  generalize s1 = s1 at hs1 ⊢
  extract_lets +onlyGivenNames f t same s2
  refine .via (t := s2) (.ite hs1 (hs1.then (State.putBytes_touches ..))) fun hs2 => ?_
  generalize s2 = s2 at hs2 ⊢
  extract_lets +onlyGivenNames src s3
  refine .via (t := s3) (hs2.then .setIc) fun hs3 => ?_
  generalize s3 = s3 at hs3 ⊢
  exact (.each hs3 fun _ _ => (((Touches.refl.then (State.putBytes_touches ..)).then .setIc).then (State.icAlarm_touches ..)))

theorem execRekeySectorComplete_touches (r : Byte) (s : State) :
    Ends [.evr, .regs, .mem, .ev, .ic, .dbg] s (execRekeySectorComplete r s) := by
  unfold execRekeySectorComplete
  extract_lets +onlyGivenNames q s1
  refine .via (t := s1) (Touches.refl.then (State.rekeySector_touches ..)) fun hs1 => ?_
  generalize s1 = s1 at hs1 ⊢
  extract_lets +onlyGivenNames s2
  refine .via (t := s2) (hs1.then (State.breakReservations_touches ..)) fun hs2 => ?_
  generalize s2 = s2 at hs2 ⊢
  refine .when ?_
  exact (.ite (hs2.then (State.rekeyEnd_touches ..)) hs2)

theorem execRegisterWrite_touches (mid : Byte) (addr : BitVec 48) (word : Word) (s : State) :
    Ends [.pm, .mr, .ep, .evr, .regs, .loStage, .mem, .draw, .fab, .so, .runs, .bps, .cache, .alloc, .snaps, .fk, .ev, .rnd, .tal, .mcs,
          .ic, .dbg, .vl, .tkts, .handed, .replies, .cr, .pw, .doms, .chg, .fl, .sp] s (execRegisterWrite mid addr word s) := by
  unfold execRegisterWrite
  extract_lets +onlyGivenNames a on
  refine .when ?_
  exact ((Touches.refl.then (State.regWrite_touches ..)).then (State.breakReservations_touches ..))

theorem execRegionZero_touches (r : Byte) (s : State) :
    Ends [.regs, .ic] s (execRegionZero r s) := by
  unfold execRegionZero
  refine .when ?_
  exact (Touches.refl.then (State.regionZero_touches ..))

theorem execRegionRekey_touches (r : Byte) (s : State) :
    Ends [.evr, .regs, .ev, .ic] s (execRegionRekey r s) := by
  unfold execRegionRekey
  refine .when ?_
  exact (Touches.refl.then (State.rekey_touches ..))

theorem State.wroteWhole_touches (s : State) (lo : ℕ) (hi : ℕ) :
    Touches [.mcs, .dbg] s (s.wroteWhole lo hi) := by
  unfold State.wroteWhole
  exact (.then (.each Touches.refl fun _ _ => (.ite (Touches.refl.then (State.setMc_touches ..)) Touches.refl))
        (State.breakReservations_touches ..))

theorem execRegionFillComplete_touches (r : Byte) (s : State) :
    Ends [.evr, .regs, .mem, .ev, .mcs, .ic, .dbg] s (execRegionFillComplete r s) := by
  unfold execRegionFillComplete
  extract_lets +onlyGivenNames q lo hi s1
  refine .via (t := s1) (Touches.refl.then (State.zeroRange_touches ..)) fun hs1 => ?_
  generalize s1 = s1 at hs1 ⊢
  extract_lets +onlyGivenNames tagForms src s2
  refine .via (t := s2) (hs1.then .setIc) fun hs2 => ?_
  generalize s2 = s2 at hs2 ⊢
  extract_lets +onlyGivenNames s3
  refine .via (t := s3) (hs2.then (State.wroteWhole_touches ..)) fun hs3 => ?_
  generalize s3 = s3 at hs3 ⊢
  extract_lets +onlyGivenNames s4
  refine .via (t := s4) (.ite (hs3.then (State.wroteWhole_touches ..)) hs3) fun hs4 => ?_
  generalize s4 = s4 at hs4 ⊢
  refine .when ?_
  exact ((((hs4.then (State.setBit_part .regs _ _ _ _ (regPart_regs (le_index (by decide))))).then (State.setBit_part .regs _ _ _ _
        (regPart_regs (le_index (by decide))))).then (State.wr64_part .regs _ _ _ _ (regPart_regs (le_index (by
        decide))) (regPart_regs (le_index (by decide))))).then (State.rekeyNext_touches ..))

theorem execRegionEnable_touches (r : Byte) (s : State) :
    Ends [.regs, .ic] s (execRegionEnable r s) := by
  unfold execRegionEnable
  refine .when ?_
  exact (Touches.refl.then (State.regionEnable_touches ..))

theorem execRegionDisable_touches (r : Byte) (s : State) :
    Ends [.regs] s (execRegionDisable r s) := by
  unfold execRegionDisable
  refine .when ?_
  exact (Touches.refl.then (State.regionDisable_touches ..))

theorem execRefreshDue_touches (c : Fin 20) (target : Fin 32) (rank : Fin 8) (bank : Fin 64) (s : State) :
    Ends [.mcs] s (execRefreshDue c target rank bank s) := by
  unfold execRefreshDue
  extract_lets +onlyGivenNames k m n lim
  refine .when ?_
  exact (.ite (Touches.refl.then (State.setMc_touches ..)) (Touches.refl.then (State.setMc_touches ..)))

theorem State.refReturns_touches (s : State) (i : ℕ) :
    Touches [.pm, .pw] s (s.refReturns i) := by
  unfold State.refReturns
  exact ((Touches.refl.then .setPw).then (State.pmFaultEnd_touches ..))

theorem State.crFailAll_touches (s : State) :
    Touches [.regs, .vl, .tkts, .handed, .replies, .cr] s (s.crFailAll) := by
  unfold State.crFailAll
  exact (.each Touches.refl fun _ _ => (.each Touches.refl fun _ _ => (Touches.refl.then (State.grpFail_touches ..))))

theorem State.refFails_touches (s : State) (i : ℕ) :
    Touches [.pm, .mr, .ep, .evr, .regs, .fab, .runs, .ev, .tal, .vl, .tkts, .handed, .replies, .cr, .pw, .chg] s (s.refFails i) := by
  unfold State.refFails
  extract_lets +onlyGivenNames src s1
  refine .via (t := s1) (((Touches.refl.then .setPw).then (State.pmFaultSet_touches ..)).then (State.event_touches ..)) fun hs1 => ?_
  generalize s1 = s1 at hs1 ⊢
  exact (.ite (.then (.ite ((hs1.then (State.setBit_part .ep _ _ _ _ rfl)).then (State.event_touches ..)) hs1) (State.safeHold_touches
        ..)) (.ite (.each hs1 fun _ _ => (.ite (Touches.refl.then (State.setBit_part .regs _ _ _ _ (regPart_regs (le_index (by
        decide))))) Touches.refl)) (hs1.then (State.crFailAll_touches ..))))

theorem State.refWindow_touches (s : State) (i : ℕ) (c : ℕ) (r : Reg) :
    Touches [.pm, .mr, .ep, .evr, .regs, .fab, .runs, .ev, .tal, .vl, .tkts, .handed, .replies, .cr, .pw, .chg] s (s.refWindow i c
          r) := by
  unfold State.refWindow
  extract_lets +onlyGivenNames ok bad good src s1
  refine .via (t := s1) (Touches.refl.then .setPw) fun hs1 => ?_
  generalize s1 = s1 at hs1 ⊢
  extract_lets +onlyGivenNames s2
  refine .via (t := s2) (hs1.then (State.wr_touches ..)) fun hs2 => ?_
  generalize s2 = s2 at hs2 ⊢
  exact (.ite (hs2.then (State.refFails_touches ..)) (.ite (hs2.then (State.refReturns_touches ..)) hs2))

theorem execRefCheckWindow_touches (c0 : BitVec 20) (c1 : BitVec 20) (c2 : BitVec 20) (s : State) :
    Ends [.pm, .mr, .ep, .evr, .regs, .fab, .runs, .ev, .tal, .vl, .tkts, .handed, .replies, .cr, .pw, .chg] s (execRefCheckWindow c0 c1
          c2 s) := by
  unfold execRefCheckWindow
  extract_lets +onlyGivenNames one
  refine .when ?_
  exact (.ite (.then (.ite (.then (.ite (Touches.refl.then (State.refWindow_touches ..)) Touches.refl) (State.refWindow_touches ..))
        (.ite (Touches.refl.then (State.refWindow_touches ..)) Touches.refl)) (State.refWindow_touches ..)) (.ite (.then (.ite
        (Touches.refl.then (State.refWindow_touches
        ..)) Touches.refl) (State.refWindow_touches ..)) (.ite (Touches.refl.then (State.refWindow_touches ..)) Touches.refl)))

theorem execReady_touches (client : Fin 64) (s : State) :
    Ends [.vl, .tkts, .handed, .replies] s (execReady client s) := by
  unfold execReady
  exact (.serve fun _ _ => (State.checked_touches Touches.refl (Touches.refl.then (State.answer_touches ..))))

theorem execReadList_touches (client : Fin 64) (s : State) :
    Ends [.evr, .regs, .draw, .ev, .rnd, .dbg, .vl, .tkts, .handed, .replies] s (execReadList client s) := by
  unfold execReadList
  exact (.serve fun _ _ => (State.checked_touches Touches.refl (Touches.refl.then (State.jobBegin_touches ..))))

theorem execRead_touches (client : Fin 64) (s : State) :
    Ends [.evr, .regs, .draw, .ev, .rnd, .dbg, .vl, .tkts, .handed, .replies] s (execRead client s) := by
  unfold execRead
  exact (.serve fun _ _ => (State.checked_touches Touches.refl (Touches.refl.then (State.jobBegin_touches ..))))

theorem execPwrEnRestore_touches (s : State) :
    Ends [.pw] s (execPwrEnRestore s) := by
  unfold execPwrEnRestore
  refine .when ?_
  exact (Touches.refl.then .setPw)

theorem execPsLimitWrite_touches (word : Word) (s : State) :
    Ends [.regs] s (execPsLimitWrite word s) := by
  unfold execPsLimitWrite
  refine .when ?_
  exact (Touches.refl.then (State.psLimit_touches ..))

theorem State.flashEnds_touches (s : State) :
    Touches [.chg] s (s.flashEnds) := by
  unfold State.flashEnds
  exact (Touches.refl.then .setChg)

theorem State.promoteNext_touches (s : State) :
    Touches [.regs, .fl] s (s.promoteNext) := by
  unfold State.promoteNext
  extract_lets +onlyGivenNames s1
  refine .via (t := s1) (Touches.refl.then (State.wr_part .regs _ _ _ rfl)) fun hs1 => ?_
  generalize s1 = s1 at hs1 ⊢
  split
  · exact ((hs1.then .setFl).then (State.bootWrite_touches ..))
  · exact ((hs1.then .setFl).then (State.bootWrite_touches ..))
  · exact ((hs1.then .setFl).then (State.bootWrite_touches ..))
  · exact Touches.refl

theorem execPromotionSector_touches (s : State) :
    Ends [.regs, .chg, .fl] s (execPromotionSector s) := by
  unfold execPromotionSector
  extract_lets +onlyGivenNames n
  refine .when ?_
  exact (.ite ((Touches.refl.then (State.flashEnds_touches ..)).then (State.promoteNext_touches ..)) ((Touches.refl.then
        (State.flashEnds_touches ..)).then (State.wr_part .regs _ _ _ rfl)))

theorem State.supplyCheck_touches (s : State) :
    Touches [.pm, .mr, .regs, .draw, .tal, .dbg, .pw] s (s.supplyCheck) := by
  unfold State.supplyCheck
  exact (.ite ((Touches.refl.then (State.pmFaultEnd_touches ..)).then (State.emergencyClear_touches ..)) Touches.refl)

theorem execPowerGoodReturn_touches (pg : Fin 16) (s : State) :
    Ends [.pm, .mr, .regs, .draw, .tal, .dbg, .pw] s (execPowerGoodReturn pg s) := by
  unfold execPowerGoodReturn
  refine .when ?_
  exact ((Touches.refl.then .setPw).then (State.supplyCheck_touches ..))

theorem State.pmPoison_touches (s : State) (h : ℕ) :
    Touches [.mr, .evr, .regs, .mem, .draw, .fab, .so, .runs, .bps, .cache, .alloc, .snaps, .ev, .rnd, .mcs, .ic, .dbg, .tkts,
          .pw] s (s.pmPoison h) := by
  unfold State.pmPoison
  split
  rename_i x t e heq
  refine .viaEq Prod.fst heq (.then Touches.refl (State.pmGet_touches ..)) fun ht => ?_
  exact (ht.then (State.pmPut_touches ..))

theorem State.stackLost_touches (s : State) (n : ℕ) :
    Touches [.mr, .evr, .regs, .mem, .draw, .fab, .so, .runs, .bps, .cache, .alloc, .snaps, .fk, .ev, .rnd, .mcs, .ic, .dbg, .vl, .tkts,
          .pw, .fl] s (s.stackLost n) := by
  unfold State.stackLost
  exact (.ite (Touches.refl.then (State.pageStoreLost_touches ..)) (.each (.each (.each Touches.refl fun _ _ => (Touches.refl.then
        (State.pmPoison_touches
        ..))) fun _ _ => (Touches.refl.then (State.runFault_touches ..))) fun _ _ => (Touches.refl.then (State.snapFail_touches ..))))

theorem State.supplyOff_touches (s : State) (ds : List ℕ) :
    Touches [.pm, .mr, .ep, .evr, .regs, .loStage, .mem, .draw, .fab, .so, .runs, .bps, .cache, .alloc, .snaps, .fk, .ev, .rnd, .tal,
          .mcs, .ic, .dbg, .vl, .tkts, .handed, .replies, .cr, .pw, .doms, .chg, .fl, .sp] s (s.supplyOff ds) := by
  unfold State.supplyOff
  extract_lets +onlyGivenNames gone here runs s1
  refine .via (t := s1) (.each Touches.refl fun _ _ => (Touches.refl.then (State.runFault_touches ..))) fun hs1 => ?_
  generalize s1 = s1 at hs1 ⊢
  extract_lets +onlyGivenNames s2
  refine .via (t := s2) (.each hs1 fun _ _ => (.ite (.then (.then (.ite (Touches.refl.then (State.crTktEnd_touches ..)) Touches.refl)
        (State.domOff_touches ..)) (State.setPower_touches ..)) (.then (.ite (Touches.refl.then (State.crTktEnd_touches
        ..)) Touches.refl) (State.domOff_touches ..)))) fun hs2 => ?_
  generalize s2 = s2 at hs2 ⊢
  exact (.each hs2 fun _ _ => (Touches.refl.then (State.stackLost_touches ..)))

theorem State.supplyFault_touches (s : State) (ps : List (ℕ × ℕ)) :
    Touches [.pm, .mr, .ep, .evr, .regs, .loStage, .mem, .draw, .fab, .so, .runs, .bps, .cache, .alloc, .snaps, .fk, .ev, .rnd, .tal,
          .mcs, .ic, .dbg, .vl, .tkts, .handed, .replies, .cr, .pw, .doms, .chg, .fl, .sp] s (s.supplyFault ps) := by
  unfold State.supplyFault
  exact (.ite Touches.refl (.then (.then (.ite ((Touches.refl.then (State.pmFaultSet_touches ..)).then .setTal) (Touches.refl.then
        (State.pmFaultSet_touches ..))) (State.safeHold_touches ..)) (State.supplyOff_touches ..)))

theorem execPowerGoodLoss_touches (pg : Fin 16) (s : State) :
    Ends [.pm, .mr, .ep, .evr, .regs, .loStage, .mem, .draw, .fab, .so, .runs, .bps, .cache, .alloc, .snaps, .fk, .ev, .rnd, .tal, .mcs,
          .ic, .dbg, .vl, .tkts, .handed, .replies, .cr, .pw, .doms, .chg, .fl, .sp] s (execPowerGoodLoss pg s) := by
  unfold execPowerGoodLoss
  extract_lets +onlyGivenNames ps
  refine .when ?_
  exact ((Touches.refl.then .setPw).then (State.supplyFault_touches ..))

theorem execPowerGet_touches (client : Fin 64) (s : State) :
    Ends [.vl, .tkts, .handed, .replies] s (execPowerGet client s) := by
  unfold execPowerGet
  exact (.serve fun _ _ => (State.checked_touches Touches.refl (Touches.refl.then (State.answer_touches ..))))

theorem execPmbusPoll_touches (bad : List (Fin 16 × Fin 16)) (nak : List (Fin 16)) (poutMw : ℕ) (s : State) :
    Ends [.pm, .mr, .ep, .evr, .regs, .loStage, .mem, .draw, .fab, .so, .runs, .bps, .cache, .alloc, .snaps, .fk, .ev, .rnd, .tal, .mcs,
          .ic, .dbg, .vl, .tkts, .handed, .replies, .cr, .pw, .doms, .chg, .fl, .sp] s (execPmbusPoll bad nak poutMw s) := by
  unfold execPmbusPoll
  extract_lets +onlyGivenNames now fresh naks errs dead src s1
  refine .via (t := s1) (Touches.refl.then .setPw) fun hs1 => ?_
  generalize s1 = s1 at hs1 ⊢
  refine .when ?_
  exact ((hs1.then (State.supplyFault_touches ..)).then (State.supplyCheck_touches ..))

theorem execPmbusAlert_touches (bad : List (Fin 16 × Fin 16)) (s : State) :
    Ends [.pm, .mr, .ep, .evr, .regs, .loStage, .mem, .draw, .fab, .so, .runs, .bps, .cache, .alloc, .snaps, .fk, .ev, .rnd, .tal, .mcs,
          .ic, .dbg, .vl, .tkts, .handed, .replies, .cr, .pw, .doms, .chg, .fl, .sp] s (execPmbusAlert bad s) := by
  unfold execPmbusAlert
  extract_lets +onlyGivenNames fresh
  refine .when ?_
  exact ((Touches.refl.then .setPw).then (State.supplyFault_touches ..))

theorem execPmInvalComplete_touches (s : State) :
    Ends [.regs, .so, .cache] s (execPmInvalComplete s) := by
  unfold execPmInvalComplete
  refine .when ?_
  exact ((Touches.refl.then .setSoCache).then (State.setBit_part .regs _ _ _ _ rfl))

theorem execPmInval_touches (s : State) :
    Ends [.regs, .so] s (execPmInval s) := by
  unfold execPmInval
  refine .when ?_
  exact (Touches.refl.then (State.pmInval_touches ..))

theorem State.probe_touches (s : State) (i : ℕ) :
    Touches [.fab] s (s.probe i) := by
  unfold State.probe
  extract_lets +onlyGivenNames n r
  exact (.ite (.each Touches.refl fun _ _ => (Touches.refl.then (State.setTile_touches ..))) Touches.refl)

theorem State.capture_touches (s : State) (i : ℕ) :
    Touches [.mem, .fab] s (s.capture i) := by
  unfold State.capture
  extract_lets +onlyGivenNames rt rt1
  exact (.each ((Touches.refl.then (State.probe_touches ..)).then (State.setBp_touches ..)) fun _ _ => (Touches.refl.then
        (State.putBit_touches ..)))

theorem execPlaneStepEnd_touches (n : Tile) (b : Bay) (s : State) :
    Ends [.mem, .fab] s (execPlaneStepEnd n b s) := by
  unfold execPlaneStepEnd
  split
  · extract_lets +onlyGivenNames s1
    refine .via (t := s1) (.ite (Touches.refl.then (State.capture_touches ..)) Touches.refl) fun hs1 => ?_
    generalize s1 = s1 at hs1 ⊢
    extract_lets +onlyGivenNames rt
    refine .next ?_
    exact (hs1.then (State.setBay_touches ..))
  · refine .next ?_
    exact Touches.refl

theorem State.compactOne_touches (s : State) (r : ℕ) :
    Touches [.mr, .evr, .regs, .mem, .draw, .fab, .so, .runs, .bps, .cache, .alloc, .snaps, .ev, .rnd, .mcs, .ic, .dbg, .tkts,
          .pw] s (s.compactOne r) := by
  unfold State.compactOne
  extract_lets +onlyGivenNames x s1
  refine .via (t := s1) (Touches.refl.then (State.setRun_touches ..)) fun hs1 => ?_
  generalize s1 = s1 at hs1 ⊢
  exact (.ite (hs1.then (State.preempt_touches ..)) (.ite ((hs1.then (State.evictRun_touches ..)).then (State.compactDone_touches ..))
        (hs1.then (State.compactDone_touches ..))))

theorem execPendingOpStart_touches (run : Fin 4096) (s : State) :
    Ends [.mr, .evr, .regs, .mem, .draw, .fab, .so, .runs, .bps, .cache, .alloc, .snaps, .ev, .rnd, .mcs, .ic, .dbg, .vl, .tkts,
          .pw] s (execPendingOpStart run s) := by
  unfold execPendingOpStart
  extract_lets +onlyGivenNames r x s1
  refine .via (t := s1) (Touches.refl.then (State.setRun_touches ..)) fun hs1 => ?_
  generalize s1 = s1 at hs1 ⊢
  extract_lets +onlyGivenNames leaves acted
  refine .via (t := acted) (.ite (hs1.then (State.preempt_touches ..)) (.ite (hs1.then (State.evictRun_touches ..))
        hs1)) fun hacted => ?_
  generalize acted = acted at hacted ⊢
  split
  · extract_lets +onlyGivenNames s1'
    refine .via (t := s1') (Touches.refl.then (State.setRun_touches ..)) fun hs1' => ?_
    generalize s1' = s1' at hs1' ⊢
    extract_lets +onlyGivenNames e run1
    refine .via (t := run1) (.ite (hs1'.then (State.tktEnd?_touches ..)) (.ite (hs1'.then (State.tktEnd?_touches ..)) (hs1'.then
          (State.reqRun_touches ..)))) fun hrun1 => ?_
    generalize run1 = run1 at hrun1 ⊢
    refine .when ?_
    exact (.ite hacted (.ite (Touches.refl.then (State.compactOne_touches ..)) hrun1))
  · refine .when ?_
    exact (.ite hacted (Touches.refl.then (State.compactOne_touches ..)))

theorem execPauseFrame_touches (port : Fin 9) (pfc : Bool) (s : State) :
    Ends [.regs] s (execPauseFrame port pfc s) := by
  unfold execPauseFrame
  refine .when ?_
  exact (.ite (Touches.refl.then (State.count_part .regs _ _ _ _ _ (regPart_regs (le_index (by decide))))) (Touches.refl.then
        (State.count_part .regs _ _ _ _ _ (regPart_regs (le_index (by decide))))))

theorem State.migEnd_touches (s : State) (c : ℕ) :
    Touches [.regs, .mcs] s (s.migEnd c) := by
  unfold State.migEnd
  exact (((Touches.refl.then (State.setMc_touches ..)).then (State.setBit_part .regs _ _ _ _ (regPart_regs (le_index (le_mcBase
        _))))).then (State.setBit_part .regs _ _ _ _ (regPart_regs (le_index (le_mcBase _)))))

theorem State.migAbort_touches (s : State) (c : ℕ) (target : ℕ) :
    Touches [.evr, .regs, .ev, .mcs] s (s.migAbort c target) := by
  unfold State.migAbort
  exact (((Touches.refl.then (State.migEnd_touches ..)).then (State.setBit_part .regs _ _ _ _ (regPart_regs (le_index (le_mcBase
        _))))).then (State.event_touches ..))

theorem State.poisonBlock_touches (s : State) (b : ℕ) (mid : ℕ) :
    Touches [.evr, .regs, .ev, .mcs] s (s.poisonBlock b mid) := by
  unfold State.poisonBlock
  extract_lets +onlyGivenNames c m t s1
  refine .via (t := s1) (Touches.refl.then (State.setMc_touches ..)) fun hs1 => ?_
  generalize s1 = s1 at hs1 ⊢
  exact (((hs1.then (State.count_part .regs _ _ _ _ _ (regPart_regs (le_index (le_mcBase _))))).then (State.mcErr_touches ..)).then
        (State.event_touches ..))

theorem State.eraseSymbol_touches (s : State) (c : ℕ) (b : ℕ) (t : ℕ) (r : ℕ) (sym : ℕ) (mid : ℕ) :
    Touches [.evr, .regs, .ev, .mcs] s (s.eraseSymbol c b t r sym mid) := by
  unfold State.eraseSymbol
  extract_lets +onlyGivenNames m s1
  refine .via (t := s1) (Touches.refl.then (State.setMc_touches ..)) fun hs1 => ?_
  generalize s1 = s1 at hs1 ⊢
  extract_lets +onlyGivenNames s2
  refine .via (t := s2) ((hs1.then (State.mcErr_touches ..)).then (State.event_touches ..)) fun hs2 => ?_
  generalize s2 = s2 at hs2 ⊢
  exact (.ite (.ite (hs2.then (State.retire_touches ..)) hs2) (.ite (hs2.then (State.retire_touches ..)) hs2))

theorem State.symbolFixed_touches (s : State) (c : ℕ) (b : ℕ) (sym : ℕ) (mid : ℕ) :
    Touches [.evr, .regs, .ev, .mcs] s (s.symbolFixed c b sym mid) := by
  unfold State.symbolFixed
  split
  extract_lets +onlyGivenNames k m
  exact (.ite Touches.refl (.ite ((Touches.refl.then (State.setMc_touches ..)).then (State.eraseSymbol_touches ..)) (Touches.refl.then
        (State.setMc_touches ..))))

theorem State.eccRead_touches (s : State) (c : ℕ) (b : ℕ) (mid : ℕ) (bad : List BadSym) :
    Touches [.evr, .regs, .ev, .mcs] s (s.eccRead c b mid bad) := by
  unfold State.eccRead
  split
  · exact Touches.refl
  · split
    · exact Touches.refl
    · extract_lets +onlyGivenNames s1
      refine .via (t := s1) ((Touches.refl.then (State.count_part .regs _ _ _ _ _ (regPart_regs (le_index (le_mcBase _))))).then
            (State.mcErr_touches ..)) fun hs1 => ?_
      generalize s1 = s1 at hs1 ⊢
      exact (.each hs1 fun _ _ => (Touches.refl.then (State.symbolFixed_touches ..)))
    · extract_lets +onlyGivenNames s1
      refine .via (t := s1) (Touches.refl.then (State.poisonBlock_touches ..)) fun hs1 => ?_
      generalize s1 = s1 at hs1 ⊢
      split
      extract_lets +onlyGivenNames x
      split
      · exact (.ite (hs1.then (State.migAbort_touches ..)) hs1)
      · exact (.ite (hs1.then (State.retire_touches ..)) hs1)

theorem State.blkRead_touches (s : State) (c : ℕ) (b : ℕ) (mid : ℕ) (bad : List BadSym) :
    Carries [.evr, .regs, .ev, .mcs] s Prod.fst (s.blkRead c b mid bad) := by
  unfold State.blkRead
  exact (.ite (.pair (Touches.refl.then (State.poisonRead_touches ..))) (.pair (Touches.refl.then (State.eccRead_touches ..))))

theorem execPatrolRead_touches (c : Fin 20) (bad : List BadSym) (s : State) :
    Ends [.evr, .regs, .draw, .ev, .mcs] s (execPatrolRead c bad s) := by
  unfold execPatrolRead
  extract_lets +onlyGivenNames k o b mid next src s1
  refine .via (t := s1) ((Touches.refl.then (State.drawn_touches ..)).then (State.setMc_touches ..)) fun hs1 => ?_
  generalize s1 = s1 at hs1 ⊢
  extract_lets +onlyGivenNames copies
  refine .when ?_
  exact (.then hs1 (State.blkRead_touches ..))

theorem execPageLoaderWriteAck_touches (load : Fin 4) (count : ℕ) (s : State) :
    Ends [.regs, .fk, .tkts] s (execPageLoaderWriteAck load count s) := by
  unfold execPageLoaderWriteAck
  extract_lets +onlyGivenNames j l a
  refine .when ?_
  exact ((Touches.refl.then (State.setLoad_touches ..)).then (State.tktProgress_touches ..))

theorem execPacketAgeRise_touches (index : ℕ) (s : State) :
    Ends [.rnd, .mcs] s (execPacketAgeRise index s) := by
  unfold execPacketAgeRise
  extract_lets +onlyGivenNames up n m
  split
  · refine .next ?_
    exact (Touches.refl.then .setMcs)
  · refine .when ?_
    exact (.ite (Touches.refl.then .setRnd) (Touches.refl.then .setRnd))

theorem execOutstandingEntryRelease_touches (stop : Fin 18) (tag : Fin 2048) (s : State) :
    Ends [.evr, .regs, .draw, .fab, .ev, .rnd, .mcs, .dbg, .vl, .tkts, .replies] s (execOutstandingEntryRelease stop tag s) := by
  unfold execOutstandingEntryRelease
  extract_lets +onlyGivenNames k
  split
  · refine .when ?_
    exact (((Touches.refl.then (State.freeEntry_touches ..)).then (State.settle_touches ..)).then (State.pump_touches ..))
  · refine .next ?_
    exact Touches.refl

theorem State.netSend_touches (s : State) (k : ℕ) (x : NetTx) :
    Touches [.vl] s (s.netSend k x) := by
  unfold State.netSend
  exact (Touches.refl.then .setVl)

theorem execNeighborSolicitation_touches (port : Fin 9) (ip : BitVec 128) (s : State) :
    Ends [.vl] s (execNeighborSolicitation port ip s) := by
  unfold execNeighborSolicitation
  extract_lets +onlyGivenNames k
  refine .when ?_
  exact (Touches.refl.then (State.netSend_touches ..))

theorem execMpActivityWake_touches (f : EthFrame) (s : State) :
    Ends [.pm, .mr, .regs, .draw, .tal, .dbg, .pw] s (execMpActivityWake f s) := by
  unfold execMpActivityWake
  refine .when ?_
  exact (Touches.refl.then (State.wakeBy_touches ..))

theorem execModeSet_touches (client : Fin 64) (s : State) :
    Ends [.mr, .evr, .regs, .draw, .ev, .vl, .tkts, .handed, .replies, .pw] s (execModeSet client s) := by
  unfold execModeSet
  exact (.serve fun _ _ => (State.checked_touches Touches.refl (.ite (Touches.refl.then (State.answer_touches ..))
        (State.withTicket_touches Touches.refl fun _ => (((Touches.refl.then (State.tktIssue_touches ..)).then (State.accept_touches
        ..)).then (State.modeQueue_touches ..))))))

theorem execModeRegisterAccessComplete_touches (c : Fin 20) (data : Byte) (s : State) :
    Ends [.regs, .mcs] s (execModeRegisterAccessComplete c data s) := by
  unfold execModeRegisterAccessComplete
  extract_lets +onlyGivenNames k w key s1
  refine .via (t := s1) (Touches.refl.then (State.setBit_part .regs _ _ _ _ (regPart_regs (le_index (le_mcBase _))))) fun hs1 => ?_
  generalize s1 = s1 at hs1 ⊢
  refine .when ?_
  exact (.ite (hs1.then (State.setFld_part .regs _ _ _ _ _ (regPart_regs (le_index (le_mcBase _))))) (hs1.then (State.setMc_touches
        ..)))

theorem execModeRegisterAccess_touches (c : Fin 20) (word : Word) (s : State) :
    Ends [.regs] s (execModeRegisterAccess c word s) := by
  unfold execModeRegisterAccess
  refine .when ?_
  exact (Touches.refl.then (State.mrAccess_touches ..))

theorem execModeGet_touches (client : Fin 64) (s : State) :
    Ends [.vl, .tkts, .handed, .replies] s (execModeGet client s) := by
  unfold execModeGet
  exact (.serve fun _ _ => (State.checked_touches Touches.refl (Touches.refl.then (State.answer_touches ..))))

theorem State.dropPlaced_touches (s : State) (r : ℕ) (st : RunState) :
    Touches [.mr, .evr, .regs, .mem, .draw, .fab, .so, .runs, .bps, .cache, .alloc, .snaps, .ev, .rnd, .mcs, .ic, .dbg, .tkts,
          .pw] s (s.dropPlaced r st) := by
  unfold State.dropPlaced
  extract_lets +onlyGivenNames s1
  refine .via (t := s1) (Touches.refl.then (State.evict_touches ..)) fun hs1 => ?_
  generalize s1 = s1 at hs1 ⊢
  exact (hs1.then (State.setRun_touches ..))

theorem State.clearRun_touches (s : State) (r : ℕ) :
    Touches [.mr, .evr, .regs, .mem, .draw, .fab, .so, .runs, .bps, .cache, .alloc, .snaps, .ev, .rnd, .mcs, .ic, .dbg, .tkts,
          .pw] s (s.clearRun r) := by
  unfold State.clearRun
  extract_lets +onlyGivenNames x
  exact (.ite (.ite (Touches.refl.then (State.preempt_touches ..)) ((Touches.refl.then (State.dropPlaced_touches ..)).then
        (State.setRun_touches ..))) (.ite (Touches.refl.then (State.setRun_touches ..)) (.ite (Touches.refl.then (State.preempt_touches
        ..)) (Touches.refl.then (State.dropPlaced_touches ..)))))

theorem State.unplaceLoads_touches (s : State) :
    Touches [.regs, .fab, .runs, .bps, .fk] s (s.unplaceLoads) := by
  unfold State.unplaceLoads
  exact (.each Touches.refl fun _ _ => (.then (.each Touches.refl fun _ _ => (Touches.refl.then (State.evictBp_touches ..)))
        (State.setLoad_touches ..)))

theorem State.clearFabric_touches (s : State) :
    Touches [.mr, .evr, .regs, .mem, .draw, .fab, .so, .runs, .bps, .cache, .alloc, .snaps, .fk, .ev, .rnd, .mcs, .ic, .dbg, .tkts,
          .pw] s (s.clearFabric) := by
  unfold State.clearFabric
  extract_lets +onlyGivenNames busy
  exact (.each (Touches.refl.then (State.unplaceLoads_touches ..)) fun _ _ => (Touches.refl.then (State.clearRun_touches ..)))

theorem State.exclEnd_touches (s : State) :
    Touches [.so, .runs] s (s.exclEnd) := by
  unfold State.exclEnd
  extract_lets +onlyGivenNames s1
  refine .via (t := s1) (.each Touches.refl fun _ _ => (Touches.refl.then (State.setRun_touches ..))) fun hs1 => ?_
  generalize s1 = s1 at hs1 ⊢
  exact (hs1.then .setSo)

theorem State.exclBegin_touches (s : State) (x : ℕ) :
    Touches [.regs, .so, .runs] s (s.exclBegin x) := by
  unfold State.exclBegin
  extract_lets +onlyGivenNames others src s1
  refine .via (t := s1) (Touches.refl.then (State.setRun_touches ..)) fun hs1 => ?_
  generalize s1 = s1 at hs1 ⊢
  exact (.each (hs1.then .setSo) fun _ _ => (.ite (Touches.refl.then (State.setRun_touches ..)) (Touches.refl.then
        (State.preempt_touches ..))))

theorem State.releaseHeld_touches (s : State) :
    Touches [.regs, .fab, .runs, .pw] s (s.releaseHeld) := by
  unfold State.releaseHeld
  extract_lets +onlyGivenNames held late src s1
  refine .via (t := s1) (Touches.refl.then .setPw) fun hs1 => ?_
  generalize s1 = s1 at hs1 ⊢
  exact (.each hs1 fun _ _ => (Touches.refl.then (State.release_touches ..)))

theorem State.holdLiftBegin_touches (s : State) (n : ℕ) :
    Touches [.regs, .fab] s (s.holdLiftBegin n) := by
  unfold State.holdLiftBegin
  exact (.ite Touches.refl ((Touches.refl.then (State.setBit_part .regs _ _ _ _ (regPart_regs (le_index (by decide))))).then
        (State.setTile_touches ..)))

theorem State.liftHolds_touches (s : State) :
    Touches [.regs, .fab] s (s.liftHolds) := by
  unfold State.liftHolds
  exact (.each Touches.refl fun _ _ => (Touches.refl.then (State.holdLiftBegin_touches ..)))

theorem State.abandonWork_touches (s : State) :
    Touches [.mr, .evr, .regs, .mem, .draw, .fab, .so, .runs, .bps, .cache, .alloc, .snaps, .fk, .ev, .rnd, .mcs, .ic, .dbg, .tkts, .pw,
          .fl] s (s.abandonWork) := by
  unfold State.abandonWork
  extract_lets +onlyGivenNames s1
  refine .via (t := s1) (.each Touches.refl fun _ _ => (Touches.refl.then (State.loadFail_touches ..))) fun hs1 => ?_
  generalize s1 = s1 at hs1 ⊢
  extract_lets +onlyGivenNames ops src s2
  refine .via (t := s2) (hs1.then .setFl) fun hs2 => ?_
  generalize s2 = s2 at hs2 ⊢
  split
  · exact ((hs2.then .setFl).then (State.tktEnd_touches ..))
  · exact hs2

theorem State.setSched_touches (s : State) (b : Bool) :
    Touches [.pw] s (s.setSched b) := by
  unfold State.setSched
  exact (Touches.refl.then .setPw)

theorem State.closeAllStreams_touches (s : State) :
    Touches [.vl] s (s.closeAllStreams) := by
  unfold State.closeAllStreams
  exact (Touches.refl.then .setVl)

theorem State.modeBegin_touches (s : State) (m : ℕ) (x : ℕ) :
    Touches [.mr, .evr, .regs, .mem, .draw, .fab, .so, .runs, .bps, .cache, .alloc, .snaps, .fk, .ev, .rnd, .mcs, .ic, .dbg, .vl, .tkts,
          .pw, .fl] s (s.modeBegin m x) := by
  unfold State.modeBegin
  extract_lets +onlyGivenNames c
  exact (.ite (.ite ((((Touches.refl.then (State.setSched_touches ..)).then (State.stopRuns_touches ..)).then
        (State.closeAllStreams_touches ..)).then (State.abandonWork_touches ..)) (((Touches.refl.then (State.setSched_touches
        ..)).then
        (State.stopRuns_touches ..)).then (State.closeAllStreams_touches ..))) (.ite (((Touches.refl.then (State.setSched_touches
        ..)).then .setPw).then (State.stopRuns_touches ..)) (.ite (((Touches.refl.then (State.setSched_touches
        ..)).then
        .setPw).then (State.stopRuns_touches ..)) (.ite ((Touches.refl.then (State.releaseHeld_touches
        ..)).then (State.liftHolds_touches ..)) (.ite (Touches.refl.then (State.exclBegin_touches ..)) (.ite (.ite (((Touches.refl.then
        (State.releaseHeld_touches
        ..)).then
        (State.liftHolds_touches
        ..)).then
        (State.exclEnd_touches ..)) (Touches.refl.then (State.exclEnd_touches ..))) (.ite ((Touches.refl.then (State.setSched_touches
        ..)).then (State.clearFabric_touches ..)) Touches.refl)))))))

theorem State.modeStart_touches (s : State) (q : ModeReq) :
    Touches [.pm, .mr, .ep, .evr, .regs, .loStage, .mem, .draw, .fab, .so, .runs, .bps, .cache, .alloc, .snaps, .fk, .ev, .rnd, .tal,
          .mcs, .ic, .dbg, .vl, .tkts, .handed, .replies, .cr, .pw, .doms, .chg, .fl, .sp] s (s.modeStart q) := by
  unfold State.modeStart
  extract_lets +onlyGivenNames src s1
  refine .via (t := s1) (Touches.refl.then .setPw) fun hs1 => ?_
  generalize s1 = s1 at hs1 ⊢
  exact (.ite (.ite (((hs1.then .setChg).then (State.tktActive?_touches ..)).then (State.warmReset_touches ..)) ((((hs1.then
        .setChg).then
        (State.tktActive?_touches
        ..)).then
        (State.modeBegin_touches ..)).then (State.showMode_touches ..))) (((hs1.then (State.tktEnd?_touches
        ..)).then (State.setFld_part .mr _ _ _ _ _ rfl)).then (State.showMode_touches ..)))

theorem execModeChangeStart_touches (s : State) :
    Ends [.pm, .mr, .ep, .evr, .regs, .loStage, .mem, .draw, .fab, .so, .runs, .bps, .cache, .alloc, .snaps, .fk, .ev, .rnd, .tal, .mcs,
          .ic, .dbg, .vl, .tkts, .handed, .replies, .cr, .pw, .doms, .chg, .fl, .sp] s (execModeChangeStart s) := by
  unfold execModeChangeStart
  split
  · refine .when ?_
    exact (Touches.refl.then (State.modeStart_touches ..))
  · refine .next ?_
    exact Touches.refl

theorem State.enterLow_touches (s : State) (m : ℕ) :
    Touches [.pm, .mr, .ep, .evr, .regs, .loStage, .mem, .fab, .so, .runs, .bps, .cache, .alloc, .snaps, .fk, .ev, .rnd, .tal, .mcs,
          .ic, .dbg, .vl, .tkts, .handed, .replies, .cr, .pw, .doms, .chg, .fl, .sp] s (s.enterLow m) := by
  unfold State.enterLow
  extract_lets +onlyGivenNames s1
  refine .via (t := s1) (Touches.refl.then (State.allOff_touches ..)) fun hs1 => ?_
  generalize s1 = s1 at hs1 ⊢
  extract_lets +onlyGivenNames src s2
  refine .via (t := s2) (hs1.then .setPw) fun hs2 => ?_
  generalize s2 = s2 at hs2 ⊢
  exact (.then (.ite (hs2.then (State.setBit_part .pm _ _ _ _ rfl)) hs2) (State.setMode_touches ..))

theorem State.stampsHome_touches (s : State) (n : ℕ) :
    Touches [.rnd] s (s.stampsHome n) := by
  unfold State.stampsHome
  exact (.ite (.each Touches.refl fun _ _ => ((Touches.refl.then (State.setUsed_touches ..)).then (State.setHeld_touches ..)))
        Touches.refl)

theorem State.tilesOff_touches (s : State) (m : ℕ) :
    Touches [.pm, .mr, .ep, .evr, .regs, .loStage, .mem, .draw, .fab, .so, .runs, .bps, .cache, .alloc, .snaps, .fk, .ev, .rnd, .tal,
          .mcs, .ic, .dbg, .vl, .tkts, .handed, .replies, .cr, .pw, .doms, .chg, .fl, .sp] s (s.tilesOff m) := by
  unfold State.tilesOff
  extract_lets +onlyGivenNames keep bays gone left s1
  refine .via (t := s1) (.each Touches.refl fun _ _ => (Touches.refl.then (State.dropPlaced_touches ..))) fun hs1 => ?_
  generalize s1 = s1 at hs1 ⊢
  exact (.each (.each (.each hs1 fun _ _ => (Touches.refl.then (State.domOff_touches ..))) fun _ _ => ((((Touches.refl.then
        (State.crTktEnd_touches
        ..)).then
        (State.domOff_touches
        ..)).then
        (State.stampsHome_touches ..)).then (State.domOff_touches ..))) fun _ _ => (Touches.refl.then (State.holdLiftBegin_touches ..)))

theorem State.placeDecided_touches (s : State) (r : ℕ) (recs : View) (backfill : Bool) (victims : List ℕ) :
    Touches [.pm, .mr, .evr, .regs, .mem, .draw, .fab, .so, .runs, .bps, .cache, .alloc, .snaps, .ev, .rnd, .mcs, .ic, .dbg, .tkts, .pw,
          .doms] s (s.placeDecided r recs backfill victims) := by
  unfold State.placeDecided
  exact (.ite (Touches.refl.then (State.beginLoad_touches ..)) (Touches.refl.then (State.setRun_touches ..)))

theorem State.evictFor_touches (s : State) (w : ℕ) (recs : View) (vs : List ℕ) (backfill : Bool) :
    Touches [.pm, .mr, .evr, .regs, .mem, .draw, .fab, .so, .runs, .bps, .cache, .alloc, .snaps, .ev, .rnd, .mcs, .ic, .dbg, .tkts, .pw,
          .doms] s (s.evictFor w recs vs backfill) := by
  unfold State.evictFor
  extract_lets +onlyGivenNames whole idle busy s1
  refine .via (t := s1) (.each Touches.refl fun _ _ => (Touches.refl.then (State.evictRun_touches ..))) fun hs1 => ?_
  generalize s1 = s1 at hs1 ⊢
  extract_lets +onlyGivenNames s2
  refine .via (t := s2) (.each hs1 fun _ _ => (Touches.refl.then (State.preempt_touches ..))) fun hs2 => ?_
  generalize s2 = s2 at hs2 ⊢
  exact ((hs2.then .setSo).then (State.placeDecided_touches ..))

theorem State.placeRun_touches (s : State) (r : ℕ) (v : View) :
    Carries [.mr, .evr, .regs, .mem, .draw, .fab, .so, .runs, .bps, .cache, .alloc, .snaps, .ev, .rnd, .mcs, .ic, .dbg, .tkts,
          .pw] s Prod.fst (s.placeRun r v) := by
  unfold State.placeRun
  extract_lets +onlyGivenNames x hs c
  split
  · rename_i x' t heq
    refine .viaEq Prod.fst heq (.then Touches.refl (State.pagesAt_touches ..)) fun ht => ?_
    exact (.pair ht)
  · rename_i x' t ps heq
    refine .viaEq Prod.fst heq (.then Touches.refl (State.pagesAt_touches ..)) fun ht => ?_
    extract_lets +onlyGivenNames gs own resident
    split
    · exact (.pair ht)
    · extract_lets +onlyGivenNames v0
      split
      · exact (.pair ht)
      · exact (.pair ht)

theorem State.trial_touches (s : State) (w : Nat) (xs gone : List Nat) (v : View) :
    Carries [.mr, .evr, .regs, .mem, .draw, .fab, .so, .runs, .bps, .cache, .alloc, .snaps, .ev, .rnd, .mcs, .ic, .dbg, .tkts,
          .pw] s Prod.fst (s.trial w xs gone v) := by
  induction xs generalizing s gone v with
  | nil => exact .pair .refl
  | cons x xs ih =>
    unfold State.trial
    have hp := State.placeRun_touches s w (vWithout v x)
    extract_lets v1
    split
    next t v2 heq => rw [heq] at hp; exact .pair hp
    next t r hr heq => rw [heq] at hp; exact .then hp (ih t _ _)

theorem State.lastFail_touches (s : State) (r : ℕ) (group : ℕ) (reason : ℕ) (v : View) :
    Touches [.regs] s (s.lastFail r group reason v) := by
  unfold State.lastFail
  extract_lets +onlyGivenNames n
  exact (Touches.refl.then (State.wr_part .regs _ _ _ rfl))

theorem Sched.one_touches (c : Sched) (w : Nat) : Carries [.pm, .mr, .evr, .regs, .mem, .draw, .fab, .so, .runs, .bps, .cache, .alloc,
      .snaps, .ev, .rnd, .mcs, .ic, .dbg, .tkts, .pw, .doms] c.st Sched.st (Sched.one c w) := by
  unfold Sched.one
  extract_lets +onlyGivenNames s limit
  split
  · exact .sched .refl
  extract_lets +onlyGivenNames v
  have hp := State.placeRun_touches s w v
  split
  next t heq =>
    rw [heq] at hp
    exact .sched ((Touches.mono hp).then (State.runFault_touches ..))
  next t v2 heq =>
    rw [heq] at hp
    exact .sched ((Touches.mono hp).then (State.placeDecided_touches ..))
  next t g reason heq =>
    rw [heq] at hp
    extract_lets +onlyGivenNames t1
    refine .via (t := t1) ((Touches.mono hp).then (State.lastFail_touches ..)) fun ht1 => ?_
    generalize t1 = t1 at ht1 ⊢
    split
    next u found heq' =>
      have hu : Touches [.pm, .mr, .evr, .regs, .mem, .draw, .fab, .so, .runs, .bps, .cache, .alloc, .snaps, .ev, .rnd, .mcs, .ic, .dbg,
            .tkts, .pw, .doms] c.st u := by
        by_cases hs : c.searched = true
        · rw [if_pos hs] at heq'
          cases heq'
          exact ht1
        · rw [if_neg hs] at heq'
          have ht := State.trial_touches t1 w (t1.victims w) [] v
          rw [heq'] at ht
          exact .then ht1 ht
      split
      · exact .sched (hu.then (State.evictFor_touches ..))
      · exact .sched hu

theorem State.exclPlace_touches (s : State) (x : Nat) : Touches [.pm, .mr, .evr, .regs, .mem, .draw, .fab, .so, .runs, .bps, .cache,
      .alloc, .snaps, .ev, .rnd, .mcs, .ic, .dbg, .tkts, .pw, .doms] s (s.exclPlace x) := by
  unfold State.exclPlace
  extract_lets +onlyGivenNames y
  split
  · extract_lets +onlyGivenNames s1
    refine .via (t := s1) (.ite .refl (Touches.refl.then (State.setRun_touches ..))) fun hs1 => ?_
    generalize s1 = s1 at hs1 ⊢
    exact .then hs1 (Sched.one_touches { st := s1 } x)
  · exact .refl

theorem State.modeLast_touches (s : State) (c : ModeChg) :
    Touches [.pm, .mr, .ep, .evr, .regs, .loStage, .mem, .draw, .fab, .so, .runs, .bps, .cache, .alloc, .snaps, .fk, .ev, .rnd, .tal,
          .mcs, .ic, .dbg, .vl, .tkts, .handed, .replies, .cr, .pw, .doms, .chg, .fl, .sp] s (s.modeLast c) := by
  unfold State.modeLast
  extract_lets +onlyGivenNames m
  exact (.ite (.each Touches.refl fun _ _ => (Touches.refl.then (State.holdApply_touches ..))) (.ite ((Touches.refl.then
        (State.setSched_touches ..)).then (State.exclPlace_touches ..)) (.ite (Touches.refl.then (State.setSched_touches
        ..)) (.ite (Touches.refl.then (State.setSched_touches ..)) (.ite (.ite Touches.refl (.ite (((Touches.refl.then .setPw).then
        (State.tilesOff_touches
        ..)).then (State.exclEnd_touches ..)) (Touches.refl.then (State.tilesOff_touches ..)))) Touches.refl)))))

theorem State.modeFinish_touches (s : State) (c : ModeChg) :
    Touches [.pm, .mr, .ep, .evr, .regs, .loStage, .mem, .draw, .fab, .so, .runs, .bps, .cache, .alloc, .snaps, .fk, .ev, .rnd, .tal,
          .mcs, .ic, .dbg, .vl, .tkts, .handed, .replies, .cr, .pw, .doms, .chg, .fl, .sp] s (s.modeFinish c) := by
  unfold State.modeFinish
  extract_lets +onlyGivenNames m s1
  refine .via (t := s1) (((Touches.refl.then (State.modeLast_touches ..)).then (State.tktProgress?_touches ..)).then
        (State.tktEnd?_touches ..)) fun hs1 => ?_
  generalize s1 = s1 at hs1 ⊢
  exact (.ite (hs1.then (State.enterLow_touches ..)) (.ite ((((hs1.then .setChg).then (State.setFld_part .pm _ _ _ _ _ rfl)).then
        (State.event_touches ..)).then (State.modeReached_touches ..)) (hs1.then (State.modeReached_touches ..))))

theorem State.modeStopped_touches (s : State) (c : ModeChg) :
    Touches [.pm, .mr, .evr, .regs, .fab, .runs, .ev, .tal, .tkts, .pw, .chg] s (s.modeStopped c) := by
  unfold State.modeStopped
  extract_lets +onlyGivenNames src s1
  refine .via (t := s1) (((Touches.refl.then .setChg).then (State.tktProgress?_touches ..)).then (State.tktEnd?_touches
        ..)) fun hs1 => ?_
  generalize s1 = s1 at hs1 ⊢
  exact ((hs1.then (State.enterHold_touches ..)).then (State.setFld_part .mr _ _ _ _ _ rfl))

theorem execModeChangeComplete_touches (s : State) :
    Ends [.pm, .mr, .ep, .evr, .regs, .loStage, .mem, .draw, .fab, .so, .runs, .bps, .cache, .alloc, .snaps, .fk, .ev, .rnd, .tal, .mcs,
          .ic, .dbg, .vl, .tkts, .handed, .replies, .cr, .pw, .doms, .chg, .fl, .sp] s (execModeChangeComplete s) := by
  unfold execModeChangeComplete
  split
  · refine .when ?_
    exact (.ite (Touches.refl.then (State.modeStopped_touches ..)) (Touches.refl.then (State.modeFinish_touches ..)))
  · refine .next ?_
    exact Touches.refl

theorem State.mmpRetry_touches (s : State) (n : ℕ) (k : ℕ) (a : ℕ) :
    Touches [.pm, .evr, .regs, .draw, .fab, .ev, .rnd, .mcs, .doms] s (s.mmpRetry n k a) := by
  unfold State.mmpRetry
  exact (.ite (Touches.refl.then (State.domWake_touches ..)) (Touches.refl.then (State.mmpIssue_touches ..)))

theorem execMmpWritebackComplete_touches (n : Tile) (k : Fin 8) (s : State) :
    Ends [.pm, .evr, .regs, .draw, .fab, .ev, .rnd, .mcs, .doms] s (execMmpWritebackComplete n k s) := by
  unfold execMmpWritebackComplete
  extract_lets +onlyGivenNames t p
  split
  · refine .next ?_
    exact Touches.refl
  · extract_lets +onlyGivenNames done
    split
    · split
      · refine .when ?_
        exact (.then (.ite (((Touches.refl.then (State.setMmp_touches ..)).then (State.setBit_part .regs _ _ _ _ (regPart_regs (le_index
              (le_index (by
              decide)))))).then (State.event_touches ..)) (Touches.refl.then (State.setMmp_touches ..))) (State.mmpIssue_touches ..))
      · refine .next ?_
        exact Touches.refl
    · refine .when ?_
      exact (Touches.refl.then (State.mmpRetry_touches ..))

theorem execMmpFlushComplete_touches (n : Tile) (k : Fin 8) (s : State) :
    Ends [.regs, .fab] s (execMmpFlushComplete n k s) := by
  unfold execMmpFlushComplete
  extract_lets +onlyGivenNames m
  refine .when ?_
  exact ((Touches.refl.then (State.setBit_part .regs _ _ _ _ (regPart_regs (le_index (le_index (by decide)))))).then
        (State.setMmp_touches ..))

theorem execMmpFlush_touches (n : Tile) (k : Fin 8) (s : State) :
    Ends [.regs, .fab] s (execMmpFlush n k s) := by
  unfold execMmpFlush
  refine .when ?_
  exact (Touches.refl.then (State.mmpFlush_touches ..))

theorem State.mmpPut_touches (s : State) (n : ℕ) (k : ℕ) (l : MmpLine) :
    Touches [.fab] s (s.mmpPut n k l) := by
  unfold State.mmpPut
  extract_lets +onlyGivenNames m set'
  split
  · exact (Touches.refl.then (State.setMmp_touches ..))
  · exact (Touches.refl.then (State.setMmp_touches ..))

theorem State.mmpError_touches (s : State) (n : ℕ) (k : ℕ) (cause : ℕ) (addr : ℕ) :
    Touches [.evr, .regs, .draw, .fab, .ev] s (s.mmpError n k cause addr) := by
  unfold State.mmpError
  extract_lets +onlyGivenNames ue
  exact ((((Touches.refl.then (State.drawn_touches ..)).then (State.setBit_part .regs _ _ _ _ (regPart_regs (le_index (le_index (by
        decide)))))).then (State.event_touches ..)).then (State.mmpRespond_touches ..))

theorem State.mmpAnswer_touches (s : State) (n : ℕ) (k : ℕ) (q : MmpReq) (bad : Bool) (cause : ℕ) (data : List Byte) :
    Touches [.evr, .regs, .draw, .fab, .ev] s (s.mmpAnswer n k q bad cause data) := by
  unfold State.mmpAnswer
  extract_lets +onlyGivenNames a
  exact (.ite (Touches.refl.then (State.mmpError_touches ..)) (.ite (Touches.refl.then (State.mmpRespond_touches ..))
        ((Touches.refl.then (State.mmpPut_touches ..)).then (State.mmpHit_touches ..))))

theorem execMmpFillComplete_touches (n : Tile) (k : Fin 8) (s : State) :
    Ends [.pm, .evr, .regs, .draw, .fab, .ev, .rnd, .mcs, .doms] s (execMmpFillComplete n k s) := by
  unfold execMmpFillComplete
  extract_lets +onlyGivenNames t p
  split
  · refine .next ?_
    exact Touches.refl
  · split
    · split
      · refine .when ?_
        exact (((Touches.refl.then (State.mmpAnswer_touches ..)).then (State.mmpFlushTry_touches ..)).then (State.mmpIssue_touches ..))
      · refine .next ?_
        exact Touches.refl
    · refine .when ?_
      exact (Touches.refl.then (State.mmpRetry_touches ..))

theorem State.migDone_touches (s : State) (c : ℕ) (target : ℕ) :
    Touches [.regs, .mcs, .fl] s (s.migDone c target) := by
  unfold State.migDone
  extract_lets +onlyGivenNames s1
  refine .via (t := s1) (((Touches.refl.then (State.migEnd_touches ..)).then (State.setFld_part .regs _ _ _ _ _ (regPart_regs (le_index
        (le_mcBase _))))).then (State.setBit_part .regs _ _ _ _ (regPart_regs (le_index (le_mcBase _))))) fun hs1 => ?_
  generalize s1 = s1 at hs1 ⊢
  exact (.ite (hs1.then .setFl) hs1)

theorem State.migRead_touches (s : State) (c : ℕ) (target : ℕ) (o : ℕ) (mid : ℕ) (bad : List BadSym) :
    Touches [.evr, .regs, .ev, .mcs] s (s.migRead c target o mid bad) := by
  unfold State.migRead
  split
  · exact Touches.refl
  · split
    · exact (.ite (.then Touches.refl (State.blkRead_touches ..)) Touches.refl)
    · exact Touches.refl

theorem execMigrationPieceComplete_touches (c : Fin 20) (bad : List (Fin 64 × BadSym)) (s : State) :
    Ends [.evr, .regs, .draw, .ev, .mcs, .fl] s (execMigrationPieceComplete c bad s) := by
  unfold execMigrationPieceComplete
  extract_lets +onlyGivenNames k
  split
  · refine .next ?_
    exact Touches.refl
  · extract_lets +onlyGivenNames mid read
    refine .via (t := read) (.each (Touches.refl.then (State.drawn_touches ..)) fun _ _ => (Touches.refl.then (State.migRead_touches
          ..))) fun hread => ?_
    generalize read = read at hread ⊢
    extract_lets +onlyGivenNames src at'
    refine .via (t := at') ?_ fun hat' => ?_
    · unfold at'
      split
      · exact ((hread.then (State.setMc_touches ..)).then (State.wr_part .regs _ _ _ (regPart_regs (le_index (le_mcBase _)))))
      · exact hread
    generalize at' = at' at hat' ⊢
    refine .when ?_
    exact (.ite (hat'.then (State.migDone_touches ..)) hat')

theorem execMicroClockSwitch_touches (n : Tile) (s : State) :
    Ends [.regs] s (execMicroClockSwitch n s) := by
  unfold execMicroClockSwitch
  extract_lets +onlyGivenNames s1
  refine .via (t := s1) (Touches.refl.then (State.setBit_part .regs _ _ _ _ (regPart_regs (le_index (by decide))))) fun hs1 => ?_
  generalize s1 = s1 at hs1 ⊢
  extract_lets +onlyGivenNames s2
  refine .via (t := s2) ((hs1.then (State.setBit_part .regs _ _ _ _ (regPart_regs (le_index (by decide))))).then (State.setFld_part
        .regs _ _ _ _ _ (regPart_regs (le_index (by decide))))) fun hs2 => ?_
  generalize s2 = s2 at hs2 ⊢
  refine .when ?_
  exact (hs2.then (State.setBit_part .regs _ _ _ _ (regPart_regs (le_index (by decide)))))

theorem execMcTargetWrite_touches (n : Tile) (target : Byte) (s : State) :
    Ends [.regs] s (execMcTargetWrite n target s) := by
  unfold execMcTargetWrite
  refine .when ?_
  exact (Touches.refl.then (State.mcTarget_touches ..))

theorem State.queueWrite_touches (s : State) (c : ℕ) (q : McReq) (b : ℕ) :
    Touches [.mcs] s (s.queueWrite c q b) := by
  unfold State.queueWrite
  extract_lets +onlyGivenNames m
  split
  · exact (Touches.refl.then (State.setMc_touches ..))
  · exact (Touches.refl.then (State.setMc_touches ..))

theorem State.takeIn_touches (s : State) (c : ℕ) (q0 : McReq) :
    Touches [.evr, .regs, .draw, .fab, .ev, .rnd, .mcs, .ic, .dbg] s (s.takeIn c q0) := by
  unfold State.takeIn
  exact (.ite (Touches.refl.then (State.mcAnswer_touches ..)) (.ite ((Touches.refl.then (State.setMc_touches ..)).then
        (State.reqDone_touches ..)) (.ite ((Touches.refl.then (State.setMc_touches ..)).then (State.setMc_touches ..)) (.each
        (Touches.refl.then (State.setMc_touches ..)) fun _ _ => (Touches.refl.then (State.queueWrite_touches ..))))))

theorem execMcRequestIntake_touches (c : Fin 20) (s : State) :
    Ends [.evr, .regs, .mem, .draw, .fab, .ev, .rnd, .mcs, .ic, .dbg] s (execMcRequestIntake c s) := by
  unfold execMcRequestIntake
  extract_lets +onlyGivenNames k m go rounds port
  split
  · refine .next ?_
    exact (.ite (((Touches.refl.then (State.setMc_touches ..)).then (State.takeIn_touches ..)).then (State.drainCheck_touches ..))
          (((Touches.refl.then (State.setMc_touches ..)).then (State.takeIn_touches ..)).then (State.drainCheck_touches ..)))
  · refine .next ?_
    exact (((Touches.refl.then (State.setMc_touches ..)).then (State.takeIn_touches ..)).then (State.drainCheck_touches ..))
  · refine .next ?_
    exact (((Touches.refl.then (State.setMc_touches ..)).then (State.takeIn_touches ..)).then (State.drainCheck_touches ..))
  · refine .next ?_
    exact Touches.refl

theorem State.refuseWrite_touches (s : State) (c : ℕ) (w : McBlk) :
    Touches [.evr, .regs, .draw, .fab, .ev, .rnd, .mcs, .ic, .dbg] s (s.refuseWrite c w) := by
  unfold State.refuseWrite
  exact (.each (Touches.refl.then (State.unqueue_touches ..)) fun _ _ => (Touches.refl.then (State.blkDone_touches ..)))

theorem execMcReadComplete_touches (c : Fin 20) (target : Fin 32) (bad : List BadSym) (s : State) :
    Ends [.evr, .regs, .mem, .draw, .fab, .ev, .rnd, .mcs, .ic, .dbg] s (execMcReadComplete c target bad s) := by
  unfold execMcReadComplete
  extract_lets +onlyGivenNames k t mid write r
  refine .via (t := r) ?_ fun hr => ?_
  · unfold r
    generalize write = write
    split
    · extract_lets +onlyGivenNames g
      refine .viaOf Prod.fst g (.then Touches.refl (State.blkRead_touches ..)) fun hg => ?_
      generalize g = g at hg ⊢
      exact (.ite (hg.then (State.refuseWrite_touches ..)) (hg.then (State.issueWrite_touches ..)))
    · split
      · extract_lets +onlyGivenNames s1
        refine .via (t := s1) (Touches.refl.then (State.rowOpen_touches ..)) fun hs1 => ?_
        generalize s1 = s1 at hs1 ⊢
        extract_lets +onlyGivenNames src s2
        refine .via (t := s2) (hs1.then (State.setMc_touches ..)) fun hs2 => ?_
        generalize s2 = s2 at hs2 ⊢
        extract_lets +onlyGivenNames g
        refine .viaOf Prod.fst g (.then hs2 (State.blkRead_touches ..)) fun hg => ?_
        generalize g = g at hg ⊢
        exact (hg.then (State.blkDone_touches ..))
      · exact Touches.refl
  generalize r = r at hr ⊢
  refine .when ?_
  exact (hr.then (State.drainCheck_touches ..))

theorem State.laneSend_touches (s : State) (n : ℕ) (l : ℕ) (interval : ℕ) (b : ℕ) (x : CrBlk) :
    Touches [.cr] s (s.laneSend n l interval b x) := by
  unfold State.laneSend
  extract_lets +onlyGivenNames t
  refine .via (t := t) (Touches.refl.then (State.laneOut_touches ..)) fun ht => ?_
  generalize t = t at ht ⊢
  exact (ht.then (State.setCrl_touches ..))

theorem execMarkerSend_touches (n : Tile) (g : Tile) (s : State) :
    Ends [.cr] s (execMarkerSend n g s) := by
  unfold execMarkerSend
  extract_lets +onlyGivenNames q w ls k tag mark s1
  refine .via (t := s1) (Touches.refl.then (State.setCrg_touches ..)) fun hs1 => ?_
  generalize s1 = s1 at hs1 ⊢
  extract_lets +onlyGivenNames live s2
  refine .via (t := s2) (.each hs1 fun _ _ => (Touches.refl.then (State.laneSend_touches ..))) fun hs2 => ?_
  generalize s2 = s2 at hs2 ⊢
  extract_lets +onlyGivenNames s3
  refine .via (t := s3) ?_ fun hs3 => ?_
  · unfold s3
    split
    · exact (.ite (hs2.then (State.laneSend_touches ..)) hs2)
    · exact hs2
  generalize s3 = s3 at hs3 ⊢
  refine .when ?_
  exact hs3

theorem execMarker_touches (n : Tile) (lane : Fin 16) (interval : Word) (cwPos : Fin 16) (skew : Byte) (peerTag : BitVec 16) (mirror :
      Fin 16) (s : State) :
    Ends [.evr, .regs, .ev] s (execMarker n lane interval cwPos skew peerTag mirror s) := by
  unfold execMarker
  extract_lets +onlyGivenNames l g lock s1
  refine .via (t := s1) ((Touches.refl.then (State.setBit_part .regs _ _ _ _ (regPart_regs (le_index (le_index (by decide)))))).then
        (State.setFld_part .regs _ _ _ _ _ (regPart_regs (le_index (le_index (by decide)))))) fun hs1 => ?_
  generalize s1 = s1 at hs1 ⊢
  extract_lets +onlyGivenNames s2
  refine .via (t := s2) (.ite (hs1.then (State.event_touches ..)) hs1) fun hs2 => ?_
  generalize s2 = s2 at hs2 ⊢
  extract_lets +onlyGivenNames s3
  refine .via (t := s3) (hs2.then (State.setFld_part .regs _ _ _ _ _ (regPart_regs (le_index (le_index (by decide)))))) fun hs3 => ?_
  generalize s3 = s3 at hs3 ⊢
  extract_lets +onlyGivenNames s4
  refine .via (t := s4) (.ite (hs3.then (State.setFld_part .regs _ _ _ _ _ (regPart_regs (le_index (le_index (by decide))))))
        hs3) fun hs4 => ?_
  generalize s4 = s4 at hs4 ⊢
  extract_lets +onlyGivenNames s5
  refine .via (t := s5) (.ite (hs4.then (State.setBit_part .regs _ _ _ _ (regPart_regs (le_index (le_index (by decide))))))
        hs4) fun hs5 => ?_
  generalize s5 = s5 at hs5 ⊢
  refine .when ?_
  exact hs5

theorem execMarginMinRead_touches (n : Tile) (b : Bay) (q : Fin 4) (s : State) :
    Ends [.regs] s (execMarginMinRead n b q s) := by
  unfold execMarginMinRead
  refine .when ?_
  exact (Touches.refl.then (State.setFld_part .regs _ _ _ _ _ (regPart_regs (le_index (le_index (le_index (by decide)))))))

theorem execLogStatus_touches (client : Fin 64) (s : State) :
    Ends [.vl, .tkts, .handed, .replies] s (execLogStatus client s) := by
  unfold execLogStatus
  exact (.serve fun _ _ => (State.checked_touches Touches.refl (Touches.refl.then (State.answer_touches ..))))

theorem State.evDirty_touches (s : State) (slot : ℕ) :
    Touches [.ev] s (s.evDirty slot) := by
  unfold State.evDirty
  exact (Touches.refl.then .setEv)

theorem State.evPut_touches (s : State) (slot : ℕ) (r : EvRec) :
    Touches [.ev] s (s.evPut slot r) := by
  unfold State.evPut
  exact ((Touches.refl.then .setEv).then (State.evDirty_touches ..))

theorem State.evOver_touches (s : State) (slot : ℕ) (old : EvRec) (r : EvRec) :
    Touches [.ev] s (s.evOver slot old r) := by
  unfold State.evOver
  exact ((Touches.refl.then .setEv).then (State.evPut_touches ..))

theorem State.evStore_touches (s : State) (r : EvRec) (keep : Option ℕ) :
    Carries [.evr, .ev] s Prod.fst (s.evStore r keep) := by
  unfold State.evStore
  split
  · exact (.pair (Touches.refl.then (State.evPut_touches ..)))
  · extract_lets +onlyGivenNames m
    split
    · split
      · exact (.pair (Touches.refl.then (State.evOver_touches ..)))
      · exact (.pair Touches.refl)
    · exact (.pair ((Touches.refl.then .setEv).then (State.count_part .evr _ _ _ _ _ rfl)))

theorem State.evRepeat_touches (s : State) (slot : ℕ) (r : EvRec) (mark : Postmark) (epoch : ℕ) :
    Carries [.evr, .ev] s Prod.fst (s.evRepeat slot r mark epoch) := by
  unfold State.evRepeat
  split
  · exact (.pair ((Touches.refl.then .setEv).then (State.evDirty_touches ..)))
  · split
    rename_i x t k heq
    refine .viaEq Prod.fst heq (.then Touches.refl (State.evStore_touches ..)) fun ht => ?_
    exact (.pair ht)

theorem State.evTake_touches (s : State) (e : EvIn) :
    Touches [.evr, .ev] s (s.evTake e) := by
  unfold State.evTake
  extract_lets +onlyGivenNames fresh
  refine .via (t := fresh) ?_ fun hfresh => ?_
  · unfold fresh
    split
    rename_i x t k heq
    refine .viaEq Prod.fst heq (.then Touches.refl (State.evStore_touches ..)) fun ht => ?_
    split
    · rename_i i t'
      refine .viaEq Prod.fst heq (.then Touches.refl (State.evStore_touches ..)) fun ht' => ?_
      exact (ht.then .setEv)
    · rename_i i
      refine .viaEq Prod.fst heq (.then Touches.refl (State.evStore_touches ..)) fun ht' => ?_
      exact ht
  generalize fresh = fresh at hfresh ⊢
  extract_lets +onlyGivenNames merged
  refine .via (t := merged) ?_ fun hmerged => ?_
  · unfold merged
    split
    · split
      · exact (.then Touches.refl (State.evRepeat_touches ..))
      · exact hfresh
    · exact hfresh
  generalize merged = merged at hmerged ⊢
  split
  · split
    · split
      · split
        rename_i x t k heq
        refine .viaEq Prod.fst heq (.then Touches.refl (State.evRepeat_touches ..)) fun ht => ?_
        exact (ht.then .setEv)
      · exact hmerged
    · exact hmerged
  · exact hmerged

theorem execLogReadbackComplete_touches (badA : Option ℕ) (badB : Option ℕ) (s : State) :
    Ends [.evr, .ev] s (execLogReadbackComplete badA badB s) := by
  unfold execLogReadbackComplete
  extract_lets +onlyGivenNames a b useB found slots src s0
  refine .via (t := s0) (Touches.refl.then .setEv) fun hs0 => ?_
  generalize s0 = s0 at hs0 ⊢
  extract_lets +onlyGivenNames cs next src' s1
  refine .via (t := s1) (hs0.then .setEv) fun hs1 => ?_
  generalize s1 = s1 at hs1 ⊢
  extract_lets +onlyGivenNames s2
  refine .via (t := s2) ((hs1.then (State.setBit_part .evr _ _ _ _ rfl)).then (State.setBit_part .evr _ _ _ _ rfl)) fun hs2 => ?_
  generalize s2 = s2 at hs2 ⊢
  extract_lets +onlyGivenNames lost src'' s3
  refine .via (t := s3) (.ite hs2 ((hs2.then .setEv).then (State.evTake_touches ..))) fun hs3 => ?_
  generalize s3 = s3 at hs3 ⊢
  refine .when ?_
  exact (hs3.then (State.evShow_touches ..))

theorem execLogRead_touches (client : Fin 64) (s : State) :
    Ends [.vl, .tkts, .handed, .replies] s (execLogRead client s) := by
  unfold execLogRead
  exact (.serve fun _ _ => (State.checked_touches Touches.refl (Touches.refl.then (State.answer_touches ..))))

theorem State.setHalf_touches (s : State) (b : Bool) (h : EvHalf) :
    Touches [.ev] s (s.setHalf b h) := by
  unfold State.setHalf
  exact (.ite (Touches.refl.then .setEv) (Touches.refl.then .setEv))

theorem execLogHalfEraseComplete_touches (s : State) :
    Ends [.evr, .ev] s (execLogHalfEraseComplete s) := by
  unfold execLogHalfEraseComplete
  extract_lets +onlyGivenNames b s1
  refine .via (t := s1) (Touches.refl.then (State.setHalf_touches ..)) fun hs1 => ?_
  generalize s1 = s1 at hs1 ⊢
  refine .when ?_
  exact (.ite (hs1.then (State.flushStart_touches ..)) hs1)

theorem State.evProgram_touches (s : State) (b : Bool) (xs : List ℕ) :
    Touches [.ev] s (s.evProgram b xs) := by
  unfold State.evProgram
  extract_lets +onlyGivenNames h
  exact (.ite (Touches.refl.then (State.setHalf_touches ..)) (Touches.refl.then (State.setHalf_touches ..)))

theorem State.flushEnd_touches (s : State) :
    Touches [.evr, .ev] s (s.flushEnd) := by
  unfold State.flushEnd
  exact ((((Touches.refl.then .setEv).then (State.setBit_part .evr _ _ _ _ rfl)).then (State.wr_part .evr _ _ _ rfl)).then
        (State.evShow_touches ..))

theorem execLogFlushStop_touches (s : State) :
    Ends [.evr, .draw, .ev] s (execLogFlushStop s) := by
  unfold execLogFlushStop
  split
  · extract_lets +onlyGivenNames before k
    refine .when ?_
    exact ((((Touches.refl.then .setEv).then (State.evProgram_touches ..)).then (State.flushEnd_touches ..)).then (State.drawn_touches
          ..))
  · refine .next ?_
    exact Touches.refl

theorem execLogFlushStart_touches (s : State) :
    Ends [.evr, .ev, .chg] s (execLogFlushStart s) := by
  unfold execLogFlushStart
  extract_lets +onlyGivenNames src marked
  refine .via (t := marked) (Touches.refl.then .setChg) fun hmarked => ?_
  generalize marked = marked at hmarked ⊢
  split
  · refine .when ?_
    exact (hmarked.then (State.flushStart_touches ..))
  · refine .when ?_
    exact (Touches.refl.then (State.flushStart_touches ..))

theorem State.flushFail_touches (s : State) (xs : List ℕ) :
    Touches [.evr, .ev] s (s.flushFail xs) := by
  unfold State.flushFail
  extract_lets +onlyGivenNames b src s1
  refine .via (t := s1) ((Touches.refl.then .setEv).then (State.setBit_part .evr _ _ _ _ rfl)) fun hs1 => ?_
  generalize s1 = s1 at hs1 ⊢
  exact ((hs1.then (State.flushEnd_touches ..)).then (State.event_touches ..))

theorem State.flushDone_touches (s : State) (xs : List ℕ) :
    Touches [.evr, .ev] s (s.flushDone xs) := by
  unfold State.flushDone
  extract_lets +onlyGivenNames b s1
  refine .via (t := s1) (Touches.refl.then (State.evProgram_touches ..)) fun hs1 => ?_
  generalize s1 = s1 at hs1 ⊢
  extract_lets +onlyGivenNames old s2
  refine .via (t := s2) (.ite ((hs1.then (State.setHalf_touches ..)).then (State.setBit_part .evr _ _ _ _ rfl)) hs1) fun hs2 => ?_
  generalize s2 = s2 at hs2 ⊢
  exact ((hs2.then .setEv).then (State.flushEnd_touches ..))

theorem execLogFlushComplete_touches (ok : Bool) (s : State) :
    Ends [.pm, .mr, .ep, .evr, .regs, .loStage, .mem, .draw, .fab, .so, .runs, .bps, .cache, .alloc, .snaps, .fk, .ev, .rnd, .tal, .mcs,
          .ic, .dbg, .vl, .tkts, .handed, .replies, .cr, .pw, .doms, .chg, .fl, .sp] s (execLogFlushComplete ok s) := by
  unfold execLogFlushComplete
  split
  · extract_lets +onlyGivenNames t
    refine .via (t := t) (Touches.refl.then (State.flushDone_touches ..)) fun ht => ?_
    generalize t = t at ht ⊢
    refine .when ?_
    exact (.ite (.ite (ht.then (State.warmReset_touches ..)) ht) (Touches.refl.then (State.flushFail_touches ..)))
  · refine .next ?_
    exact Touches.refl

theorem execLogClear_touches (client : Fin 64) (s : State) :
    Ends [.regs, .draw, .ev, .vl, .tkts, .handed, .replies] s (execLogClear client s) := by
  unfold execLogClear
  exact (.serve fun _ _ => (State.checked_touches Touches.refl (State.withTicket_touches Touches.refl fun _ => (((Touches.refl.then
        (State.tktIssue_touches ..)).then (State.accept_touches ..)).then .setEv))))

theorem State.mpActivity_touches (s : State) :
    Touches [.pm, .mr, .regs, .draw, .tal, .dbg, .pw] s (s.mpActivity) := by
  unfold State.mpActivity
  exact (.ite (Touches.refl.then (State.wakeBy_touches ..)) Touches.refl)

theorem execLodgeRequest_touches (f : HostFrame) (s : State) :
    Ends [.pm, .mr, .regs, .draw, .tal, .dbg, .vl, .pw] s (execLodgeRequest f s) := by
  unfold execLodgeRequest
  extract_lets +onlyGivenNames q s1
  refine .via (t := s1) (Touches.refl.then (State.count_part .mr _ _ _ _ _ rfl)) fun hs1 => ?_
  generalize s1 = s1 at hs1 ⊢
  extract_lets +onlyGivenNames src s2
  refine .via (t := s2) (hs1.then .setVl) fun hs2 => ?_
  generalize s2 = s2 at hs2 ⊢
  extract_lets +onlyGivenNames mine
  refine .when ?_
  exact (hs2.then (State.mpActivity_touches ..))

theorem execLodgeNeighborSolicitation_touches (ip : BitVec 128) (s : State) :
    Ends [.pm, .mr, .regs, .draw, .tal, .dbg, .vl, .pw] s (execLodgeNeighborSolicitation ip s) := by
  unfold execLodgeNeighborSolicitation
  refine .when ?_
  exact ((Touches.refl.then (State.netSend_touches ..)).then (State.mpActivity_touches ..))

theorem execLodgeArp_touches (ip : Word) (s : State) :
    Ends [.pm, .mr, .regs, .draw, .tal, .dbg, .vl, .pw] s (execLodgeArp ip s) := by
  unfold execLodgeArp
  refine .when ?_
  exact ((Touches.refl.then (State.netSend_touches ..)).then (State.mpActivity_touches ..))

theorem execLoadIntakeTimeout_touches (load : Fin 4) (s : State) :
    Ends [.mr, .evr, .regs, .mem, .draw, .fab, .so, .runs, .bps, .cache, .alloc, .snaps, .fk, .ev, .rnd, .mcs, .ic, .dbg, .tkts, .pw,
          .fl] s (execLoadIntakeTimeout load s) := by
  unfold execLoadIntakeTimeout
  extract_lets +onlyGivenNames j l
  refine .when ?_
  exact (Touches.refl.then (State.loadFail_touches ..))

theorem execLoadEnd_touches (client : Fin 64) (s : State) :
    Ends [.mr, .evr, .regs, .mem, .draw, .fab, .so, .runs, .bps, .cache, .alloc, .snaps, .fk, .ev, .rnd, .mcs, .ic, .dbg, .vl, .tkts,
          .handed, .replies, .pw, .fl] s (execLoadEnd client s) := by
  unfold execLoadEnd
  refine (.serve fun t q => ?_)
  extract_lets +onlyGivenNames h
  refine (State.checked_touches Touches.refl ?_)
  split
  · exact (Touches.refl.then (State.answer_touches ..))
  · split
    · exact (.ite (Touches.refl.then (State.answer_touches ..)) ((Touches.refl.then (State.loadFail_touches ..)).then
          (State.answer_touches ..)))
    · exact (Touches.refl.then (State.answer_touches ..))

theorem State.pieceTake_touches (s : State) (q : VReq) (j : ℕ) :
    Touches [.fk, .vl, .tkts, .replies] s (s.pieceTake q j) := by
  unfold State.pieceTake
  extract_lets +onlyGivenNames l d off got
  exact (.ite (Touches.refl.then (State.answer_touches ..)) (.ite (Touches.refl.then (State.handlerBusy_touches ..)) ((Touches.refl.then
        (State.setLoad_touches ..)).then (State.answer_touches ..))))

theorem execLoadData_touches (client : Fin 64) (s : State) :
    Ends [.fk, .vl, .tkts, .handed, .replies] s (execLoadData client s) := by
  unfold execLoadData
  refine (.serve fun t q => ?_)
  extract_lets +onlyGivenNames p
  refine (State.checked_touches Touches.refl ?_)
  split
  · exact (Touches.refl.then (State.pieceTake_touches ..))
  · exact (Touches.refl.then (State.answer_touches ..))

theorem State.commitWaits_touches (s : State) (j : ℕ) (ps : List PageD) :
    Touches [.mr, .evr, .regs, .mem, .draw, .fab, .so, .runs, .bps, .cache, .alloc, .snaps, .fk, .ev, .rnd, .mcs, .ic, .dbg, .tkts, .pw,
          .fl] s (s.commitWaits j ps) := by
  unfold State.commitWaits
  split
  · rename_i x t heq
    refine .viaEq AllocRes.st heq (.then Touches.refl (State.runSpace_touches ..)) fun ht => ?_
    exact ht
  · rename_i x t heq
    refine .viaEq AllocRes.st heq (.then Touches.refl (State.runSpace_touches ..)) fun ht => ?_
    exact Touches.refl
  · rename_i x t heq
    refine .viaEq AllocRes.st heq (.then Touches.refl (State.runSpace_touches ..)) fun ht => ?_
    exact (ht.then (State.loadFail_touches ..))

theorem State.commitPlaced_touches (s : State) (j : ℕ) (r : ℕ) (ps : List PageD) :
    Touches [.pm, .mr, .evr, .regs, .mem, .draw, .fab, .so, .runs, .bps, .cache, .alloc, .snaps, .ev, .rnd, .mcs, .ic, .dbg, .tkts, .pw,
          .doms] s (s.commitPlaced j r ps) := by
  unfold State.commitPlaced
  extract_lets +onlyGivenNames is base s1
  refine .via (t := s1) (.each Touches.refl fun _ _ => ((Touches.refl.then (State.setBp_touches ..)).then (State.setBpRec_touches
        ..))) fun hs1 => ?_
  generalize s1 = s1 at hs1 ⊢
  extract_lets +onlyGivenNames s2
  refine .via (t := s2) (.each hs1 fun _ _ => (((Touches.refl.then (State.placementWrite_touches ..)).then (State.pmReside_touches
        ..)).then (State.scrubEn_touches ..))) fun hs2 => ?_
  generalize s2 = s2 at hs2 ⊢
  extract_lets +onlyGivenNames s3
  refine .via (t := s3) (.each hs2 fun _ _ => (Touches.refl.then (State.ingress_touches ..))) fun hs3 => ?_
  generalize s3 = s3 at hs3 ⊢
  exact ((hs3.then (State.setRun_touches ..)).then (State.trigReload_touches ..))

theorem State.loadDone_touches (s : State) (j : ℕ) (d : ℕ) (run : ℕ) :
    Touches [.regs, .fk, .tkts, .fl] s (s.loadDone j d run) := by
  unfold State.loadDone
  extract_lets +onlyGivenNames l s1
  refine .via (t := s1) ((Touches.refl.then (State.tktEnd_touches ..)).then (State.tktData_touches ..)) fun hs1 => ?_
  generalize s1 = s1 at hs1 ⊢
  extract_lets +onlyGivenNames st
  exact (hs1.then (.upd [.fk, .fl]))

theorem State.commitPages_touches (s : State) (j : ℕ) (same : Option ℕ) :
    Carries [.mr, .evr, .regs, .mem, .draw, .fab, .so, .runs, .bps, .cache, .alloc, .snaps, .ev, .rnd, .mcs, .ic, .dbg, .tkts,
          .pw] s Prod.fst (s.commitPages j same) := by
  unfold State.commitPages
  extract_lets +onlyGivenNames l d hs
  split
  · exact (.pair (.then (.each Touches.refl fun _ _ => (Touches.refl.then (State.pmFree_touches ..))) (State.setDesign_touches ..)))
  · extract_lets +onlyGivenNames s1
    refine .via (t := s1) ?_ fun hs1 => ?_
    · unfold s1
      refine (.each Touches.refl fun t h => ?_)
      split
      rename_i x t' e heq
      refine .viaEq Prod.fst heq (.then Touches.refl (State.pmGet_touches ..)) fun ht' => ?_
      exact (ht'.then (State.pmPut_touches ..))
    generalize s1 = s1 at hs1 ⊢
    exact (.pair (hs1.then (State.setDesign_touches ..)))

theorem State.loadPoisoned_touches (s : State) (j : ℕ) :
    Carries [.mr, .evr, .regs, .mem, .draw, .fab, .so, .runs, .bps, .cache, .alloc, .snaps, .ev, .rnd, .mcs, .ic, .dbg, .tkts,
          .pw] s Prod.fst (s.loadPoisoned j) := by
  unfold State.loadPoisoned
  refine (.foldlFst Touches.refl fun u c h => ?_)
  split
  rename_i x t e heq
  refine .viaEq Prod.fst heq (.then Touches.refl (State.pmGet_touches ..)) fun ht => ?_
  exact (.pair ht)

theorem execLoadCommit_touches (load : Fin 4) (s : State) :
    Ends [.pm, .mr, .evr, .regs, .mem, .draw, .fab, .so, .runs, .bps, .cache, .alloc, .snaps, .fk, .ev, .rnd, .mcs, .ic, .dbg, .tkts,
          .pw, .doms, .fl] s (execLoadCommit load s) := by
  unfold execLoadCommit
  extract_lets +onlyGivenNames j l same
  split
  rename_i x s2 severe heq
  refine .viaEq Prod.fst heq (.then Touches.refl (State.loadPoisoned_touches ..)) fun hs2 => ?_
  extract_lets +onlyGivenNames ps
  split
  rename_i x' t k heq'
  refine .viaEq Prod.fst heq' (.then hs2 (State.commitPages_touches ..)) fun ht => ?_
  extract_lets +onlyGivenNames res
  refine .via (t := res) ?_ fun hres => ?_
  · unfold res
    split
    · exact (Touches.refl.then (State.loadFail_touches ..))
    · split
      · exact (hs2.then (State.loadFail_touches ..))
      · split
        · split
          rename_i x'' w e r heq''
          refine .viaEq Prod.fst heq'' (.then ht (State.runMake_touches ..)) fun hw => ?_
          exact (.ite ((hw.then (State.commitPlaced_touches ..)).then (State.loadDone_touches ..)) (.ite (Touches.refl.then
                (State.commitWaits_touches ..)) (hs2.then (State.loadFail_touches ..))))
        · exact (ht.then (State.loadDone_touches ..))
  generalize res = res at hres ⊢
  refine .when ?_
  exact hres

theorem State.loadStart_touches (s : State) (q : VReq) (j : ℕ) (i : ℕ) :
    Touches [.regs, .fk, .vl, .tkts, .replies, .fl] s (s.loadStart q j i) := by
  unfold State.loadStart
  extract_lets +onlyGivenNames p e l l1 s1
  refine .via (t := s1) ((Touches.refl.then (State.tktIssue_touches ..)).then (State.setLoad_touches ..)) fun hs1 => ?_
  generalize s1 = s1 at hs1 ⊢
  extract_lets +onlyGivenNames src s2
  refine .via (t := s2) (.ite (hs1.then .setFl) hs1) fun hs2 => ?_
  generalize s2 = s2 at hs2 ⊢
  exact (hs2.then (State.accept_touches ..))

theorem execLoadBegin_touches (client : Fin 64) (s : State) :
    Ends [.regs, .draw, .fk, .vl, .tkts, .handed, .replies, .fl] s (execLoadBegin client s) := by
  unfold execLoadBegin
  refine (.serve fun t q => ?_)
  extract_lets +onlyGivenNames p src e uses
  refine (State.checked_touches Touches.refl ?_)
  split
  · exact (Touches.refl.then (State.answer_touches ..))
  · split
    · exact (Touches.refl.then (State.answer_touches ..))
    · exact (State.withTicket_touches Touches.refl fun _ => (Touches.refl.then (State.loadStart_touches ..)))

theorem State.grpTrained_touches (s : State) (n : ℕ) (g : ℕ) (laneOk : ℕ) (tag : ℕ) (exiting : Bool) (full : Bool) :
    Touches [.evr, .regs, .ev, .vl, .tkts, .handed, .replies, .cr] s (s.grpTrained n g laneOk tag exiting full) := by
  unfold State.grpTrained
  extract_lets +onlyGivenNames w ok want idBad s1
  refine .via (t := s1) (.ite (Touches.refl.then (State.setFld_part .regs _ _ _ _ _ (regPart_regs (le_index (le_index (by decide))))))
        Touches.refl) fun hs1 => ?_
  generalize s1 = s1 at hs1 ⊢
  extract_lets +onlyGivenNames s2
  refine .via (t := s2) (.ite ((hs1.then (State.setBit_part .regs _ _ _ _ (regPart_regs (le_index (le_index (by decide)))))).then
        (State.event_touches ..)) hs1) fun hs2 => ?_
  generalize s2 = s2 at hs2 ⊢
  extract_lets +onlyGivenNames before carries
  split
  · extract_lets +onlyGivenNames s3
    refine .via (t := s3) (.each hs2 fun _ _ => ((Touches.refl.then (State.setLaneSt_touches ..)).then (State.setFld_part .regs _ _ _ _
          _ (regPart_regs (le_index (le_index (by decide))))))) fun hs3 => ?_
    generalize s3 = s3 at hs3 ⊢
    extract_lets +onlyGivenNames s4
    refine .via (t := s4) ((hs3.then (State.setBit_part .regs _ _ _ _ (regPart_regs (le_index (le_index (by decide)))))).then
          (State.setBit_part .regs _ _ _ _ (regPart_regs (le_index (le_index (by decide)))))) fun hs4 => ?_
    generalize s4 = s4 at hs4 ⊢
    split
    · extract_lets +onlyGivenNames good
      exact (.ite ((hs4.then (State.setLaneSt_touches ..)).then (State.setFld_part .regs _ _ _ _ _ (regPart_regs (le_index (le_index (by
            decide))))))
            (.ite (((hs4.then (State.setLaneSt_touches ..)).then (State.setFld_part .regs _ _ _ _ _ (regPart_regs (le_index (le_index
            (by
            decide)))))).then
            (State.setBit_part .regs _ _ _ _ (regPart_regs (le_index (le_index (by decide)))))) (.ite (hs4.then (State.grpFail_touches
            ..)) ((hs4.then (State.setLaneSt_touches ..)).then (State.setBit_part .regs _ _ _ _ (regPart_regs (le_index (le_index (by
            decide)))))))))
    · exact hs4
  · exact (hs2.then (State.grpFail_touches ..))

theorem execLinkTrainingComplete_touches (n : Tile) (laneOk : BitVec 16) (peerTags : List (BitVec 16)) (s : State) :
    Ends [.evr, .regs, .ev, .vl, .tkts, .handed, .replies, .cr] s (execLinkTrainingComplete n laneOk peerTags s) := by
  unfold execLinkTrainingComplete
  extract_lets +onlyGivenNames gs exiting s1
  refine .via (t := s1) (.each Touches.refl fun _ _ => (Touches.refl.then (State.grpTrained_touches ..))) fun hs1 => ?_
  generalize s1 = s1 at hs1 ⊢
  extract_lets +onlyGivenNames trained up src s2
  refine .via (t := s2) (hs1.then (State.setCrt_touches ..)) fun hs2 => ?_
  generalize s2 = s2 at hs2 ⊢
  extract_lets +onlyGivenNames s3
  refine .via (t := s3) ((hs2.then (State.setLink_touches ..)).then (State.tktProgress?_touches ..)) fun hs3 => ?_
  generalize s3 = s3 at hs3 ⊢
  refine .when ?_
  exact (hs3.then (State.crTktEnd_touches ..))

theorem execLinkRetrainComplete_touches (stop : Fin 18) (ring : Fin 8) (dir : Fin 2) (ok : Bool) (s : State) :
    Ends [.evr, .regs, .ev, .rnd] s (execLinkRetrainComplete stop ring dir ok s) := by
  unfold execLinkRetrainComplete
  extract_lets +onlyGivenNames x g d s1
  refine .via (t := s1) ((Touches.refl.then (State.setBit_part .regs _ _ _ _ (regPart_regs (le_index (by decide))))).then
        (State.setBit_part .regs _ _ _ _ (regPart_regs (le_index (by decide))))) fun hs1 => ?_
  generalize s1 = s1 at hs1 ⊢
  extract_lets +onlyGivenNames s2
  refine .via (t := s2) (hs1.then (State.event_touches ..)) fun hs2 => ?_
  generalize s2 = s2 at hs2 ⊢
  refine .when ?_
  exact (.ite (hs1.then (State.settle_touches ..)) (hs2.then .setRnd))

theorem State.nakLast_touches (s : State) (x : ℕ) (g : ℕ) (d : ℕ) :
    Touches [.rnd] s (s.nakLast x g d) := by
  unfold State.nakLast
  split
  · exact (Touches.refl.then .setRnd)
  · exact Touches.refl

theorem execLinkNak_touches (stop : Fin 18) (ring : Fin 8) (dir : Fin 2) (s : State) :
    Ends [.regs, .rnd] s (execLinkNak stop ring dir s) := by
  unfold execLinkNak
  extract_lets +onlyGivenNames x k r m train s1
  refine .via (t := s1) (Touches.refl.then (State.count_part .regs _ _ _ _ _ (regPart_regs (le_index (by decide))))) fun hs1 => ?_
  generalize s1 = s1 at hs1 ⊢
  extract_lets +onlyGivenNames src s2
  refine .via (t := s2) ((hs1.then .setRnd).then (State.nakLast_touches ..)) fun hs2 => ?_
  generalize s2 = s2 at hs2 ⊢
  refine .when ?_
  exact (.ite (hs2.then (State.setBit_part .regs _ _ _ _ (regPart_regs (le_index (by decide))))) hs2)

theorem State.linkWait_touches (s : State) (n : ℕ) (op : ℕ) (ws : List Word) (ticket : Option ℕ) :
    Touches [.pm, .regs, .cr, .doms] s (s.linkWait n op ws ticket) := by
  unfold State.linkWait
  exact ((Touches.refl.then (State.setCrt_touches ..)).then (State.domWake_touches ..))

theorem State.linkTrain_touches (s : State) (n : ℕ) (ws : List ℕ) (ticket : Option ℕ) :
    Touches [.pm, .regs, .tkts, .cr, .doms] s (s.linkTrain n ws ticket) := by
  unfold State.linkTrain
  exact (.ite (Touches.refl.then (State.crConfig_touches ..)) (.ite (Touches.refl.then (State.tktEnd?_touches ..)) ((Touches.refl.then
        (State.setCrt_touches ..)).then (State.domWake_touches ..))))

theorem State.linkAct_touches (s : State) (n : ℕ) (op : ℕ) (ws : List ℕ) (i : ℕ) :
    Touches [.pm, .regs, .vl, .tkts, .handed, .replies, .cr, .pw, .doms] s (s.linkAct n op ws i) := by
  unfold State.linkAct
  exact (.ite (.ite (Touches.refl.then (State.crConfig_touches ..)) (Touches.refl.then (State.crOp_touches ..))) (.ite
        (Touches.refl.then (State.tktEnd_touches ..)) (.ite (Touches.refl.then (State.linkTrain_touches ..)) (Touches.refl.then
        (State.linkWait_touches ..)))))

theorem State.linkAsk_touches {P : List Part} {s t : State} {q : VReq} {ext : Bool} {f : State → Nat → Nat → State} (h : Touches P s t)
    (hf : ∀ u n i, Touches P u (f u n i)) (hP : [.regs, .draw, .vl, .tkts, .replies] ⊆ P := by decide) : Touches P s (t.linkAsk q ext
          f) := by
  unfold State.linkAsk
  extract_lets +onlyGivenNames n
  refine State.checked_touches h (.ite (h.then (State.answer_touches ..) (List.Subset.trans (by decide) hP)) ?_) (List.Subset.trans (by
        decide) hP)
  refine State.withTicket_touches h (fun i => ?_) (List.Subset.trans (by decide) hP)
  refine .then (.then (.then h (State.tktIssue_touches ..) (List.Subset.trans (by decide) hP)) (State.accept_touches ..)
        (List.Subset.trans (by decide) hP))
    (hf _ _ _) (List.Subset.refl P)

theorem execLinkConfigTrain_touches (client : Fin 64) (s : State) :
    Ends [.pm, .regs, .draw, .vl, .tkts, .handed, .replies, .cr, .pw, .doms] s (execLinkConfigTrain client s) := by
  unfold execLinkConfigTrain
  exact (.serve fun _ _ => (State.linkAsk_touches Touches.refl fun _ _ _ => (Touches.refl.then (State.linkAct_touches ..))))

theorem State.linkOff_touches (s : State) (n : ℕ) (i : ℕ) :
    Touches [.pm, .regs, .vl, .tkts, .handed, .replies, .cr, .pw, .doms] s (s.linkOff n i) := by
  unfold State.linkOff
  exact (.ite ((Touches.refl.then (State.crOp_touches ..)).then (State.setDom_touches ..)) (((Touches.refl.then (State.crTktEnd_touches
        ..)).then (State.setCrt_touches ..)).then (State.tktEnd_touches ..)))

theorem execLinkConfigOff_touches (client : Fin 64) (s : State) :
    Ends [.pm, .regs, .draw, .vl, .tkts, .handed, .replies, .cr, .pw, .doms] s (execLinkConfigOff client s) := by
  unfold execLinkConfigOff
  exact (.serve fun _ _ => (State.linkAsk_touches Touches.refl fun _ _ _ => (Touches.refl.then (State.linkOff_touches ..))))

theorem execLinkConfigExit_touches (client : Fin 64) (s : State) :
    Ends [.pm, .regs, .draw, .vl, .tkts, .handed, .replies, .cr, .pw, .doms] s (execLinkConfigExit client s) := by
  unfold execLinkConfigExit
  exact (.serve fun _ _ => (State.linkAsk_touches Touches.refl fun _ _ _ => (Touches.refl.then (State.linkAct_touches ..))))

theorem execLinkConfigEnterDlp_touches (client : Fin 64) (s : State) :
    Ends [.pm, .regs, .draw, .vl, .tkts, .handed, .replies, .cr, .pw, .doms] s (execLinkConfigEnterDlp client s) := by
  unfold execLinkConfigEnterDlp
  exact (.serve fun _ _ => (State.linkAsk_touches Touches.refl fun _ _ _ => (Touches.refl.then (State.linkAct_touches ..))))

theorem execLeafRebuild_touches (slot : Fin 12288) (s : State) :
    Ends [.evr, .regs, .draw, .ev, .tal] s (execLeafRebuild slot s) := by
  unfold execLeafRebuild
  extract_lets +onlyGivenNames j s1
  refine .via (t := s1) (((Touches.refl.then (State.putLeaf_touches ..)).then (State.count_part .regs _ _ _ _ _ rfl)).then
        (State.repairEvent_touches ..)) fun hs1 => ?_
  generalize s1 = s1 at hs1 ⊢
  refine .when ?_
  exact (hs1.then .setTal)

theorem execLbTxWrite_touches (c : Fin 4) (word : Word) (s : State) :
    Ends [.regs, .dbg] s (execLbTxWrite c word s) := by
  unfold execLbTxWrite
  refine .when ?_
  exact (Touches.refl.then (State.lbTxWrite_touches ..))

theorem execLbTxConsumeRead_touches (c : Fin 4) (s : State) :
    Ends [.regs] s (execLbTxConsumeRead c s) := by
  unfold execLbTxConsumeRead
  refine .when ?_
  exact (Touches.refl.then (State.lbTxTake_touches ..))

theorem execLbRxWrite_touches (c : Fin 4) (word : Word) (s : State) :
    Ends [.regs, .dbg] s (execLbRxWrite c word s) := by
  unfold execLbRxWrite
  refine .when ?_
  exact (Touches.refl.then (State.lbRxWrite_touches ..))

theorem execLbRxConsumeRead_touches (c : Fin 4) (s : State) :
    Ends [.regs] s (execLbRxConsumeRead c s) := by
  unfold execLbRxConsumeRead
  refine .when ?_
  exact (Touches.refl.then (State.lbRxTake_touches ..))

theorem execLaneStatus_touches (client : Fin 64) (s : State) :
    Ends [.vl, .tkts, .handed, .replies] s (execLaneStatus client s) := by
  unfold execLaneStatus
  exact (.serve fun _ _ => (State.checked_touches Touches.refl (Touches.refl.then (State.answer_touches ..))))

theorem State.laneRetire_touches (s : State) (n : ℕ) (l : ℕ) (q : VReq) :
    Carries [.cr] s Prod.fst (s.laneRetire n l q) := by
  unfold State.laneRetire
  split
  · exact (.pair Touches.refl)
  · extract_lets +onlyGivenNames w
    exact (.ite (.pair Touches.refl) (.ite (.pair Touches.refl) (.pair ((Touches.refl.then (State.setCrg_touches ..)).then
          (State.takeoverAsk_touches ..)))))

theorem execLaneRetire_touches (client : Fin 64) (s : State) :
    Ends [.vl, .tkts, .handed, .replies, .cr] s (execLaneRetire client s) := by
  unfold execLaneRetire
  refine (.serve fun t q => ?_)
  extract_lets +onlyGivenNames p n l
  refine (State.checked_touches Touches.refl ?_)
  split
  rename_i x t' k heq
  refine .viaEq Prod.fst heq (.then Touches.refl (State.laneRetire_touches ..)) fun ht' => ?_
  exact (.ite ht' (ht'.then (State.answer_touches ..)))

theorem State.loopWait_touches (s : State) (q : VReq) (n : ℕ) (l : ℕ) (kind : ℕ) :
    Touches [.pm, .regs, .vl, .tkts, .replies, .cr, .doms] s (s.loopWait q n l kind) := by
  unfold State.loopWait
  extract_lets +onlyGivenNames pair
  split
  · exact (.ite (Touches.refl.then (State.answer_touches ..)) ((Touches.refl.then (State.answer_touches ..)).then
        (State.linkWait_touches ..)))
  · exact (.ite ((Touches.refl.then (State.setCrt_touches ..)).then (State.answer_touches ..)) (Touches.refl.then (State.answer_touches
        ..)))

theorem execLaneLoopback_touches (client : Fin 64) (s : State) :
    Ends [.pm, .regs, .vl, .tkts, .handed, .replies, .cr, .doms] s (execLaneLoopback client s) := by
  unfold execLaneLoopback
  refine (.serve fun t q => ?_)
  extract_lets +onlyGivenNames p n l k
  refine (State.checked_touches Touches.refl ?_)
  split
  · split
    rename_i x s2 severe heq
    refine .viaEq Prod.fst heq (.then Touches.refl (State.laneLoop_touches ..)) fun hs2 => ?_
    exact (hs2.then (State.answer_touches ..))
  · exact (Touches.refl.then (State.loopWait_touches ..))

theorem execLaneFailure_touches (n : Tile) (lane : Fin 16) (why : LaneFault) (s : State) :
    Ends [.regs, .vl, .tkts, .handed, .replies, .cr] s (execLaneFailure n lane why s) := by
  unfold execLaneFailure
  extract_lets +onlyGivenNames l g true'
  refine .when ?_
  exact (Touches.refl.then (State.laneFail_touches ..))

theorem execInputBurst_touches (k : Fin 12) (words : List (BitVec 48)) (s : State) :
    Ends [.fab] s (execInputBurst k words s) := by
  unfold execInputBurst
  split
  refine .when ?_
  exact (Touches.refl.then (State.setBank_touches ..))

theorem execInfo_touches (client : Fin 64) (s : State) :
    Ends [.vl, .tkts, .handed, .replies] s (execInfo client s) := by
  unfold execInfo
  exact (.serve fun _ _ => (State.checked_touches Touches.refl (Touches.refl.then (State.answer_touches ..))))

theorem execImgSlotRevoke_touches (mid : Byte) (s : State) :
    Ends [.regs, .fk] s (execImgSlotRevoke mid s) := by
  unfold execImgSlotRevoke
  refine .when ?_
  exact (State.fkAct_touches Touches.refl fun _ => (Touches.refl.then (State.imgRevoke_touches ..)))

theorem execImgSlotProg_touches (mid : Byte) (s : State) :
    Ends [.regs, .fk] s (execImgSlotProg mid s) := by
  unfold execImgSlotProg
  refine .when ?_
  exact (State.fkAct_touches Touches.refl fun _ => (Touches.refl.then (State.imgProg_touches ..)))

theorem State.trailerCheck_touches (s : State) (j : ℕ) :
    Touches [.mr, .evr, .regs, .mem, .draw, .fab, .so, .runs, .bps, .cache, .alloc, .snaps, .fk, .ev, .rnd, .mcs, .ic, .dbg, .tkts, .pw,
          .fl] s (s.trailerCheck j) := by
  unfold State.trailerCheck
  extract_lets +onlyGivenNames l t crc
  exact (.ite (.ite (Touches.refl.then (State.setLoad_touches ..)) (Touches.refl.then (State.loadFail_touches ..))) Touches.refl)

/-- A match on a triple, taken apart by its cases (unfolded beside a projection, the kernel would evaluate what that projects). -/
theorem Touches.triple {P : List Part} {s : State} {o : Nat × Nat × Nat} {f : Nat → Nat → Nat → State}
    (h : ∀ m g n, Touches P s (f m g n)) : Touches P s (match o with | (a, b, c) => f a b c) := by
  obtain ⟨m, g, n⟩ := o
  exact h m g n
theorem State.reserveStore_touches (s : State) (j : Nat) (d : Nat) (h : Nat) (ps : List PageD) :
    Touches [.evr, .regs, .mem, .draw, .fab, .so, .cache, .fk, .ev, .rnd, .mcs, .ic, .dbg] s (s.reserveStore j d h ps) := by
  unfold State.reserveStore
  extract_lets +onlyGivenNames l s1
  refine .via (t := s1) (.each .refl fun t p => ?_) fun hs1 => ?_
  · refine Touches.triple (o := SMap.get t.so.pmAlloc (h + p.2) (0, 0, 0)) (f := fun m g len =>
      ((t.pmPut (h + p.2) { kind := 1, stat := 0, stack := m, granule := g, len := len, owner := d, pageNo := p.2 }).dramWrite
        (granAddr m g) ((l.bytes.drop (0x100 + 160 * p.2)).take 160 ++ zeroBytes (descBytes - 160)) none (0x10 + p.2 % 8)).st)
      fun m g n => ?_
    exact .then (.then .refl (State.pmPut_touches ..)) (State.dramWrite_touches ..)
  generalize s1 = s1 at hs1 ⊢
  exact (hs1.then (State.setDesign_touches ..)).then (State.setLoad_touches ..)

theorem State.loadReserve_touches (s : State) (j : ℕ) :
    Carries [.pm, .mr, .evr, .regs, .mem, .draw, .fab, .so, .runs, .bps, .cache, .alloc, .snaps, .fk, .ev, .rnd, .mcs, .ic, .dbg, .tkts,
          .pw, .doms] s Prod.fst (s.loadReserve j) := by
  unfold State.loadReserve
  extract_lets +onlyGivenNames l ps ext
  split
  · split
    · rename_i x t heq
      refine .viaEq AllocRes.st heq (.then Touches.refl (State.allocFor_touches ..)) fun ht => ?_
      exact (.pair ht)
    · rename_i x t heq
      refine .viaEq AllocRes.st heq (.then Touches.refl (State.allocFor_touches ..)) fun ht => ?_
      exact (.pair ht)
    · rename_i x t heq
      refine .viaEq AllocRes.st heq (.then Touches.refl (State.allocFor_touches ..)) fun ht => ?_
      split
      · extract_lets +onlyGivenNames hs c
        split
        · exact (.pair (Touches.refl.then (State.wr_part .regs _ _ _ rfl)))
        · extract_lets +onlyGivenNames recs u
          refine .via (t := u) (.each (ht.then (State.reserveStore_touches ..)) fun _ _ => ((Touches.refl.then (State.setBpRec_touches
                ..)).then (State.wakeBay_touches ..))) fun hu => ?_
          generalize u = u at hu ⊢
          exact (.pair hu)
      · exact (.pair (ht.then (State.reserveStore_touches ..)))
  · exact (.pair (Touches.refl.then (State.compForget_touches ..)))

theorem State.intakeChecks_touches (s : State) (j : ℕ) :
    Touches [.pm, .mr, .evr, .regs, .mem, .draw, .fab, .so, .runs, .bps, .cache, .alloc, .snaps, .fk, .ev, .rnd, .mcs, .ic, .dbg, .tkts,
          .pw, .doms, .fl] s (s.intakeChecks j) := by
  unfold State.intakeChecks
  extract_lets +onlyGivenNames l e s1
  refine .via (t := s1) (.ite (.ite (Touches.refl.then (State.setLoad_touches ..)) (Touches.refl.then (State.loadFail_touches ..)))
        Touches.refl) fun hs1 => ?_
  generalize s1 = s1 at hs1 ⊢
  extract_lets +onlyGivenNames l1 s2
  refine .via (t := s2) ?_ fun hs2 => ?_
  · unfold s2
    split
    · split
      · exact (hs1.then (State.loadFail_touches ..))
      · split
        rename_i x t k heq
        refine .viaEq Prod.fst heq (.then hs1 (State.loadReserve_touches ..)) fun ht => ?_
        exact (.ite ht (ht.then (State.loadFail_touches ..)))
    · exact hs1
  generalize s2 = s2 at hs2 ⊢
  exact (hs2.then (State.trailerCheck_touches ..))

theorem State.sourceBytes_touches (s : State) (j : ℕ) (n : ℕ) :
    Carries [.evr, .regs, .mem, .draw, .fab, .fk, .ev, .rnd, .mcs, .ic, .dbg] s Prod.fst (s.sourceBytes j n) := by
  unfold State.sourceBytes
  extract_lets +onlyGivenNames l
  exact (.ite (.pair (Touches.refl.then (State.setLoad_touches ..))) (.ite (.pair Touches.refl) (.pair (.then Touches.refl
        (State.dramRead_touches ..)))))

theorem execImageBytesArrive_touches (load : Fin 4) (count : ℕ) (s : State) :
    Ends [.pm, .mr, .evr, .regs, .mem, .draw, .fab, .so, .runs, .bps, .cache, .alloc, .snaps, .fk, .ev, .rnd, .mcs, .ic, .dbg, .tkts,
          .pw, .doms, .fl] s (execImageBytesArrive load count s) := by
  unfold execImageBytesArrive
  extract_lets +onlyGivenNames j l n
  split
  rename_i x t bs bad heq
  refine .viaEq Prod.fst heq (.then Touches.refl (State.sourceBytes_touches ..)) fun ht => ?_
  extract_lets +onlyGivenNames src t1
  refine .via (t := t1) (ht.then (State.setLoad_touches ..)) fun ht1 => ?_
  generalize t1 = t1 at ht1 ⊢
  extract_lets +onlyGivenNames u
  refine .via (t := u) (ht1.then (State.intakeChecks_touches ..)) fun hu => ?_
  generalize u = u at hu ⊢
  extract_lets +onlyGivenNames m ended
  refine .when ?_
  exact (.ite (ht.then (State.loadFail_touches ..)) (.ite (hu.then (State.loadFail_touches ..)) hu))

theorem execIdle_touches (_n : Tile) (_g : Tile) (s : State) :
    Ends [] s (execIdle _n _g s) := by
  unfold execIdle
  refine .next ?_
  exact Touches.refl

theorem execIcmpEcho_touches (port : Fin 9) (v6 : Bool) (data : List Byte) (s : State) :
    Ends [.vl] s (execIcmpEcho port v6 data s) := by
  unfold execIcmpEcho
  refine .when ?_
  exact (Touches.refl.then (State.netSend_touches ..))

theorem execIcCrWrite_touches (offset : Fin 5) (word : Word) (s : State) :
    Ends [.regs, .ic] s (execIcCrWrite offset word s) := by
  unfold execIcCrWrite
  refine .when ?_
  exact (Touches.refl.then (State.icCrWrite_touches ..))

theorem execHubRailTimeout_touches (s : State) :
    Ends [.pm, .mr, .ep, .evr, .regs, .loStage, .mem, .fab, .so, .runs, .bps, .cache, .alloc, .snaps, .fk, .ev, .rnd, .tal, .mcs, .ic,
          .dbg, .vl, .tkts, .handed, .replies, .cr, .pw, .doms, .chg, .fl, .sp] s (execHubRailTimeout s) := by
  unfold execHubRailTimeout
  refine .when ?_
  exact ((Touches.refl.then (State.pmFaultSet_touches ..)).then (State.emergencyOff_touches ..))

theorem execHostLinkChange_touches (port : Fin 9) (up : Bool) (s : State) :
    Ends [.regs] s (execHostLinkChange port up s) := by
  unfold execHostLinkChange
  extract_lets +onlyGivenNames k
  refine .when ?_
  exact (Touches.refl.then (State.setBit_part .regs _ _ _ _ (regPart_regs (le_index (by decide)))))

theorem execHoldLiftStage_touches (n : Tile) (s : State) :
    Ends [.regs, .fab] s (execHoldLiftStage n s) := by
  unfold execHoldLiftStage
  extract_lets +onlyGivenNames src next
  refine .via (t := next) (.ite (Touches.refl.then (State.setBit_part .regs _ _ _ _ (regPart_regs (le_index (by decide)))))
        ((Touches.refl.then (State.setBit_part .regs _ _ _ _ (regPart_regs (le_index (by decide))))).then (State.setTile_touches
        ..))) fun hnext => ?_
  generalize next = next at hnext ⊢
  refine .when ?_
  exact hnext

theorem execHeldFabricAccess_touches (index : ℕ) (s : State) :
    Ends [.pm, .mr, .ep, .evr, .regs, .loStage, .mem, .draw, .fab, .so, .runs, .bps, .cache, .alloc, .snaps, .fk, .ev, .rnd, .tal, .mcs,
          .ic, .dbg, .vl, .tkts, .handed, .replies, .cr, .pw, .doms, .chg, .fl, .sp] s (execHeldFabricAccess index s) := by
  unfold execHeldFabricAccess
  split
  · refine .when ?_
    exact ((Touches.refl.then .setRnd).then (State.serveReq_touches ..))
  · refine .next ?_
    exact Touches.refl

theorem execHandback_touches (n : Tile) (g : Tile) (lane : Fin 16) (s : State) :
    Ends [.regs] s (execHandback n g lane s) := by
  unfold execHandback
  extract_lets +onlyGivenNames l
  refine .when ?_
  exact (Touches.refl.then (State.spareBack_touches ..))

theorem execFwSlotRevoke_touches (mid : Byte) (s : State) :
    Ends [.regs, .fk] s (execFwSlotRevoke mid s) := by
  unfold execFwSlotRevoke
  refine .when ?_
  exact (State.fkAct_touches Touches.refl fun _ => (Touches.refl.then (State.fwRevoke_touches ..)))

theorem execFwSlotProg_touches (mid : Byte) (s : State) :
    Ends [.regs, .fk] s (execFwSlotProg mid s) := by
  unfold execFwSlotProg
  refine .when ?_
  exact (State.fkAct_touches Touches.refl fun _ => (Touches.refl.then (State.fwProg_touches ..)))

theorem execFuseProgComplete_touches (s : State) : Ends [.regs, .fk] s (execFuseProgComplete s) := by
  unfold execFuseProgComplete
  by_cases hb : s.fk.busy.isSome = true
  · refine .when (.then (.then .refl (.fk fun i => ?_)) (State.setBit_part .regs _ _ _ _ rfl))
    exact ⟨⟨fun _ h => absurd h (by simp [i hb]), id, fun _ _ h => h, fun _ h => h, fun _ _ h => h, fun _ h => h⟩, nofun⟩
  · rw [Bool.not_eq_true] at hb
    rw [hb, Bool.and_false]
    exact .next .refl

theorem execFuseKeyProg_touches (mid : Byte) (s : State) :
    Ends [.regs, .fk] s (execFuseKeyProg mid s) := by
  unfold execFuseKeyProg
  refine .when ?_
  exact (State.fkAct_touches Touches.refl fun _ => (Touches.refl.then (State.fuseProg_touches ..)))

theorem execFrameWrite_touches (n : Tile) (frame : Fin 786432) (mid : Byte) (offset : Fin 512) (bytes : List Byte) (s : State) :
    Ends [.regs, .mem, .fab, .dbg] s (execFrameWrite n frame mid offset bytes s) := by
  unfold execFrameWrite
  refine .when ?_
  exact (.then (.then Touches.refl (State.frameWrite_touches ..)) (State.breakReservations_touches ..))

theorem execFrameRestore_touches (n : Tile) (sb : Bool) (ok : Bool) (s : State) :
    Ends [.mr, .evr, .regs, .mem, .draw, .fab, .so, .runs, .bps, .cache, .alloc, .snaps, .ev, .rnd, .mcs, .ic, .dbg, .tkts,
          .pw] s (execFrameRestore n sb ok s) := by
  unfold execFrameRestore
  extract_lets +onlyGivenNames c
  split
  · refine .next ?_
    exact Touches.refl
  · extract_lets +onlyGivenNames i b
    split
    rename_i x t e heq
    refine .viaEq Prod.fst heq (.then Touches.refl (State.pmGet_touches ..)) fun ht => ?_
    extract_lets +onlyGivenNames s1
    refine .via (t := s1) (ht.then (State.setScrub_touches ..)) fun hs1 => ?_
    generalize s1 = s1 at hs1 ⊢
    extract_lets +onlyGivenNames g
    refine .viaOf Got.st g (.then hs1 (State.dramRead_touches ..)) fun hg => ?_
    generalize g = g at hg ⊢
    extract_lets +onlyGivenNames good done
    refine .via (t := done) (((hg.then (State.putFrame_touches ..)).then (State.count_part .regs _ _ _ _ _ (regPart_regs (le_index (by
          decide))))).then (State.frameEvent_touches ..)) fun hdone => ?_
    generalize done = done at hdone ⊢
    extract_lets +onlyGivenNames bad
    refine .via (t := bad) (.then (.each (hg.then (State.frameEvent_touches ..)) fun _ _ => (Touches.refl.then (State.setRun_touches
          ..))) (State.runFault_touches ..)) fun hbad => ?_
    generalize bad = bad at hbad ⊢
    refine .when ?_
    exact (.ite hdone hbad)

theorem execForbidBkey_touches (mid : Byte) (s : State) :
    Ends [.regs, .fk] s (execForbidBkey mid s) := by
  unfold execForbidBkey
  refine .when ?_
  exact (State.fkAct_touches Touches.refl fun _ => (Touches.refl.then (State.forbidBkey_touches ..)))

theorem execFlushWaitTimeout_touches (s : State) :
    Ends [.pm, .mr, .ep, .evr, .regs, .loStage, .mem, .draw, .fab, .so, .runs, .bps, .cache, .alloc, .snaps, .fk, .ev, .rnd, .tal, .mcs,
          .ic, .dbg, .vl, .tkts, .handed, .replies, .cr, .pw, .doms, .chg, .fl, .sp] s (execFlushWaitTimeout s) := by
  unfold execFlushWaitTimeout
  refine .when ?_
  exact (Touches.refl.then (State.warmReset_touches ..))

theorem State.settingsPut_touches (s : State) (key : ℕ) (value : List Byte) :
    Touches [.fl] s (s.settingsPut key value) := by
  unfold State.settingsPut
  extract_lets +onlyGivenNames a b r keep newest toB gen c
  exact (.ite (Touches.refl.then .setFl) (Touches.refl.then .setFl))

theorem State.flashOp_touches (s : State) (o : FlashOp) :
    Touches [.regs, .tkts, .fl] s (s.flashOp o) := by
  unfold State.flashOp
  split
  · exact ((Touches.refl.then (State.settingsPut_touches ..)).then (State.tktEnd?_touches ..))
  · extract_lets +onlyGivenNames stg src s1
    refine .via (t := s1) (Touches.refl.then .setFl) fun hs1 => ?_
    generalize s1 = s1 at hs1 ⊢
    split
    · exact (hs1.then (State.tktProgress_touches ..))
    · exact hs1
  · extract_lets +onlyGivenNames s1
    refine .via (t := s1) ((Touches.refl.then (State.tktActive_touches ..)).then (State.tktProgress_touches ..)) fun hs1 => ?_
    generalize s1 = s1 at hs1 ⊢
    exact (.ite (((hs1.then .setFl).then (State.bootWrite_touches ..)).then (State.tktEnd_touches ..)) (hs1.then .setFl))
  · extract_lets +onlyGivenNames src s1
    refine .via (t := s1) (((Touches.refl.then .setFl).then (State.tktActive_touches ..)).then (State.tktProgress_touches
          ..)) fun hs1 => ?_
    generalize s1 = s1 at hs1 ⊢
    exact (.ite (hs1.then (State.tktEnd_touches ..)) (hs1.then .setFl))

theorem execFlashOperationComplete_touches (s : State) :
    Ends [.regs, .tkts, .chg, .fl] s (execFlashOperationComplete s) := by
  unfold execFlashOperationComplete
  split
  · refine .when ?_
    exact (((Touches.refl.then .setFl).then (State.flashEnds_touches ..)).then (State.flashOp_touches ..))
  · refine .next ?_
    exact Touches.refl

theorem execFkUnlock_touches (mid : Byte) (key : Word) (s : State) :
    Ends [.regs, .fk] s (execFkUnlock mid key s) := by
  unfold execFkUnlock
  refine .when ?_
  exact (Touches.refl.then (State.fkUnlock_touches ..))

theorem execFill_touches (client : Fin 64) (s : State) :
    Ends [.evr, .regs, .draw, .ev, .rnd, .dbg, .vl, .tkts, .handed, .replies] s (execFill client s) := by
  unfold execFill
  refine (.serve fun t q => ?_)
  extract_lets +onlyGivenNames p a n
  refine (State.checked_touches Touches.refl ?_)
  split
  · exact Touches.refl
  · extract_lets +onlyGivenNames id u
    refine .via (t := u) ((Touches.refl.then (State.tktIssue_touches ..)).then (State.accept_touches ..)) fun hu => ?_
    generalize u = u at hu ⊢
    exact (hu.then (State.jobBegin_touches ..))

theorem execExchangeStall_touches (n : Tile) (b : Bay) (s : State) :
    Ends [.evr, .regs, .fab, .ev] s (execExchangeStall n b s) := by
  unfold execExchangeStall
  extract_lets +onlyGivenNames s1
  refine .via (t := s1) (Touches.refl.then (State.setBit_part .regs _ _ _ _ (regPart_regs (le_index (by decide))))) fun hs1 => ?_
  generalize s1 = s1 at hs1 ⊢
  extract_lets +onlyGivenNames src s2
  refine .via (t := s2) (.ite hs1 ((hs1.then (State.event_touches ..)).then (State.setBay_touches ..))) fun hs2 => ?_
  generalize s2 = s2 at hs2 ⊢
  refine .when ?_
  exact hs2

theorem State.peerLate_touches (s : State) (q : Bundle) :
    Touches [.runs] s (s.peerLate q) := by
  unfold State.peerLate
  exact (.ite (Touches.refl.then (State.setRun_touches ..)) Touches.refl)

theorem State.putBundle_touches (s : State) (i : ℕ) (j : ℕ) (v : Word) :
    Touches [.fab] s (s.putBundle i j v) := by
  unfold State.putBundle
  extract_lets +onlyGivenNames rt
  exact (Touches.refl.then (State.setBp_touches ..))

theorem execExchangeBundleArrival_touches (index : ℕ) (s : State) :
    Ends [.regs, .fab, .runs] s (execExchangeBundleArrival index s) := by
  unfold execExchangeBundleArrival
  split
  · refine .next ?_
    exact Touches.refl
  · extract_lets +onlyGivenNames src s1
    refine .via (t := s1) (Touches.refl.then .setFab) fun hs1 => ?_
    generalize s1 = s1 at hs1 ⊢
    split
    · split
      · refine .next ?_
        exact Touches.refl
      · refine .next ?_
        exact (hs1.then (State.putBundle_touches ..))
    · refine .next ?_
      exact ((hs1.then (State.count_part .regs _ _ _ _ _ (regPart_regs (le_index (by decide))))).then (State.peerLate_touches ..))

theorem execEventIntake_touches (typ : BitVec 16) (sev : Fin 8) (loc : Word) (ctx : Word) (addr : BitVec 48) (detail : List Word) (merge
      : Bool) (s : State) :
    Ends [.evr, .ev] s (execEventIntake typ sev loc ctx addr detail merge s) := by
  unfold execEventIntake
  refine .next ?_
  exact (Touches.refl.then (State.event_touches ..))

theorem execEvFlushWrite_touches (s : State) :
    Ends [.evr, .ev] s (execEvFlushWrite s) := by
  unfold execEvFlushWrite
  refine .when ?_
  exact (Touches.refl.then (State.evFlushWrite_touches ..))

theorem execEqReq_touches (n : Tile) (g : Tile) (lane : Fin 16) (tap : Fin 16) (step : Byte) (s : State) :
    Ends [.so, .cr] s (execEqReq n g lane tap step s) := by
  unfold execEqReq
  extract_lets +onlyGivenNames l src s1
  refine .via (t := s1) (Touches.refl.then (State.setCrg_touches ..)) fun hs1 => ?_
  generalize s1 = s1 at hs1 ⊢
  extract_lets +onlyGivenNames k
  refine .when ?_
  exact (hs1.then .setSo)

theorem execEqAck_touches (n : Tile) (g : Tile) (lane : Fin 16) (tap : Fin 16) (value : Byte) (s : State) :
    Ends [.regs, .cr] s (execEqAck n g lane tap value s) := by
  unfold execEqAck
  extract_lets +onlyGivenNames l
  split
  · extract_lets +onlyGivenNames src s1
    refine .via (t := s1) (Touches.refl.then (State.setCrl_touches ..)) fun hs1 => ?_
    generalize s1 = s1 at hs1 ⊢
    extract_lets +onlyGivenNames src' s2
    refine .via (t := s2) (((hs1.then (State.setCrg_touches ..)).then (State.setBit_part .regs _ _ _ _ (regPart_regs (le_index (le_index
          (by decide)))))).then (State.spareBack_touches ..)) fun hs2 => ?_
    generalize s2 = s2 at hs2 ⊢
    refine .when ?_
    exact (hs2.then (State.crSendCtl_touches ..))
  · refine .next ?_
    exact Touches.refl

theorem State.grantPause_touches (s : State) :
    Touches [.regs, .so] s (s.grantPause) := by
  unfold State.grantPause
  split
  · extract_lets +onlyGivenNames src s1
    refine .via (t := s1) (Touches.refl.then .setSo) fun hs1 => ?_
    generalize s1 = s1 at hs1 ⊢
    exact (.ite (hs1.then (State.setBit_part .regs _ _ _ _ (regPart_regs (le_index (le_mcBase _))))) hs1)
  · exact Touches.refl

theorem State.grantWindows_touches (s : State) :
    Touches [.regs, .so] s (s.grantWindows) := by
  unfold State.grantWindows
  extract_lets +onlyGivenNames s1
  refine .via (t := s1) (Touches.refl.then (State.grantPause_touches ..)) fun hs1 => ?_
  generalize s1 = s1 at hs1 ⊢
  exact (hs1.then .setSo)

theorem State.retune_touches (s : State) (n : ℕ) :
    Touches [.evr, .regs, .fab, .ev] s (s.retune n) := by
  unfold State.retune
  extract_lets +onlyGivenNames t
  exact (.ite Touches.refl (.ite (.ite (((Touches.refl.then (State.setBit_part .regs _ _ _ _ (regPart_regs (le_index (by
        decide))))).then
        (State.setTile_touches ..)).then (State.event_touches ..)) ((Touches.refl.then (State.setBit_part .regs _ _ _ _ (regPart_regs
        (le_index (by
        decide))))).then
        (State.setTile_touches ..))) (.ite (Touches.refl.then (State.setTile_touches ..)) (.ite (Touches.refl.then
        (State.mcTarget_touches ..)) Touches.refl))))

theorem State.retunes_touches (s : State) :
    Touches [.evr, .regs, .fab, .ev] s (s.retunes) := by
  unfold State.retunes
  exact (.ite (.each Touches.refl fun _ _ => (Touches.refl.then (State.retune_touches ..))) Touches.refl)

theorem State.crossCheck_touches (v s : State) (n : Nat) (sb : Bool) : Touches [.evr, .regs, .fab, .ev] s (v.crossCheck s n sb) := by
  unfold State.crossCheck
  extract_lets +onlyGivenNames c words mapBad stall loc
  split
  · exact Touches.refl.then (State.setScrub_touches ..)
  extract_lets +onlyGivenNames s1
  refine .via (t := s1) (.ite (((Touches.refl.then (State.setPos_touches ..)).then (State.count_part .regs _ _ _ _ _ (regPart_regs
        (le_index (by decide))))).then (State.event_touches ..))
    .refl) fun hs1 => ?_
  generalize s1 = s1 at hs1 ⊢
  extract_lets +onlyGivenNames s2
  refine .via (t := s2) (.ite (.then (.then (.each hs1 fun _ _ => (State.wr_part .regs _ _ _
    (regPart_ite (regPart_regs (le_index (le_index (by decide)))) (regPart_regs (le_index (le_index (by decide)))))).mono)
    (State.count_part .regs _ _ _ _ _ (regPart_regs (le_index (by decide)))))
    (State.event_touches ..)) hs1) fun hs2 => ?_
  generalize s2 = s2 at hs2 ⊢
  extract_lets +onlyGivenNames fails src s3
  refine .via (t := s3) (hs2.then (State.setScrub_touches ..)) fun hs3 => ?_
  generalize s3 = s3 at hs3 ⊢
  exact .ite ((hs3.then (State.setBit_part .regs _ _ _ _ (regPart_regs (le_index (by decide))))).then (State.event_touches ..)) hs3

theorem State.crossChecks_touches (s : State) : Touches [.evr, .regs, .fab, .ev] s s.crossChecks :=
  .each .refl fun _ _ => (State.crossCheck_touches ..).then (State.crossCheck_touches ..)

theorem State.sweepEntry_touches (s : State) (h : ℕ) :
    Touches [.mr, .evr, .regs, .mem, .draw, .fab, .so, .runs, .bps, .cache, .alloc, .snaps, .ev, .rnd, .mcs, .ic, .dbg, .tkts,
          .pw] s (s.sweepEntry h) := by
  unfold State.sweepEntry
  extract_lets +onlyGivenNames g
  refine .viaOf Got.st g (.then Touches.refl (State.dramRead_touches ..)) fun hg => ?_
  generalize g = g at hg ⊢
  exact (.ite (hg.then .setSo) (((hg.then (State.cachePut_touches ..)).then (State.pmFail_touches ..)).then .setSo))

theorem State.sweepTurn_touches (s : State) :
    Touches [.mr, .evr, .regs, .mem, .draw, .fab, .so, .runs, .bps, .cache, .alloc, .snaps, .ev, .rnd, .mcs, .ic, .dbg, .tkts,
          .pw] s (s.sweepTurn) := by
  unfold State.sweepTurn
  exact (.ite (.then (.each Touches.refl fun _ _ => (Touches.refl.then (State.sweepEntry_touches ..))) .setSo) Touches.refl)

theorem State.flushCheck_touches (s : State) (severe : Bool) :
    Touches [.evr, .ev] s (s.flushCheck severe) := by
  unfold State.flushCheck
  extract_lets +onlyGivenNames due
  exact (.ite (Touches.refl.then (State.flushStart_touches ..)) Touches.refl)

theorem State.evClear_touches (s : State) (lv : ℕ) :
    Carries [.ev] s Prod.fst (s.evClear lv) := by
  unfold State.evClear
  extract_lets +onlyGivenNames gone src s1
  refine .via (t := s1) (Touches.refl.then .setEv) fun hs1 => ?_
  generalize s1 = s1 at hs1 ⊢
  exact (.pair (.each hs1 fun _ _ => (Touches.refl.then (State.evDirty_touches ..))))

theorem State.evMerge_touches (s : State) :
    Touches [.evr, .regs, .ev, .tkts] s (s.evMerge) := by
  unfold State.evMerge
  split
  · extract_lets +onlyGivenNames s1
    refine .via (t := s1) ?_ fun hs1 => ?_
    · unfold s1
      refine (.each Touches.refl fun t c => ?_)
      split
      rename_i x t' k heq
      refine .viaEq Prod.fst heq (.then Touches.refl (State.evClear_touches ..)) fun ht' => ?_
      exact ((ht'.then (State.tktProgress_touches ..)).then (State.tktEnd_touches ..))
    generalize s1 = s1 at hs1 ⊢
    split
    rename_i x s2 severe heq
    refine .viaEq Prod.fst heq ?_ fun hs2 => ?_
    · refine (.foldlFst (hs1.then .setEv) fun u c e => ?_)
      extract_lets +onlyGivenNames u'
      refine .via (t := u') (Touches.refl.then (State.evTake_touches ..)) fun hu' => ?_
      generalize u' = u' at hu' ⊢
      exact (.pair hu')
    extract_lets +onlyGivenNames src s3
    refine .via (t := s3) (hs2.then .setEv) fun hs3 => ?_
    generalize s3 = s3 at hs3 ⊢
    exact ((hs3.then (State.flushCheck_touches ..)).then (State.evShow_touches ..))
  · exact Touches.refl

theorem State.readyLatch_touches (s : State) :
    Touches [.so] s (s.readyLatch) := by
  unfold State.readyLatch
  extract_lets +onlyGivenNames src t
  refine .via (t := t) (Touches.refl.then .setSo) fun ht => ?_
  generalize t = t at ht ⊢
  exact (ht.then .setSo)

theorem State.ageRuns_touches (s : State) :
    Touches [.runs] s (s.ageRuns) := by
  unfold State.ageRuns
  exact (.each Touches.refl fun _ _ => (Touches.refl.then (State.setRun_touches ..)))

theorem State.stepsClosed_touches (s : State) :
    Touches [.runs] s (s.stepsClosed) := by
  unfold State.stepsClosed
  exact (.each Touches.refl fun _ _ => (Touches.refl.then (State.setRun_touches ..)))

theorem State.serveRuns_touches (s : State) :
    Touches [.runs] s (s.serveRuns) := by
  unfold State.serveRuns
  exact (.each Touches.refl fun _ _ => (Touches.refl.then (State.setRun_touches ..)))

theorem State.schedule_touches (s : State) : Touches [.pm, .mr, .evr, .regs, .mem, .draw, .fab, .so, .runs, .bps, .cache, .alloc,
      .snaps, .ev, .rnd, .mcs, .ic, .dbg, .tkts, .pw, .doms] s s.schedule := by
  unfold State.schedule
  extract_lets +onlyGivenNames src s0 s1
  refine .via (t := s1) (.then (t := s0) (.then .refl .setSo) (State.serveRuns_touches s0)) fun hs1 => ?_
  generalize s1 = s1 at hs1 ⊢
  split
  · extract_lets +onlyGivenNames s2
    refine .via (t := s2) (.then (.ite (hs1.then (State.ageRuns_touches ..)) hs1) (State.stepsClosed_touches ..)) fun hs2 => ?_
    generalize s2 = s2 at hs2 ⊢
    exact Carries.foldl (f := Sched.st) hs2 fun _ _ => Touches.mono (Sched.one_touches ..)
  · exact hs1.then (State.stepsClosed_touches ..)

theorem State.tileEpoch_touches (s : State) (n : ℕ) :
    Touches [.regs, .fab] s (s.tileEpoch n) := by
  unfold State.tileEpoch
  extract_lets +onlyGivenNames t s1
  refine .via (t := s1) (Touches.refl.then (State.wr_part .regs _ _ _ (regPart_regs (le_index (by decide))))) fun hs1 => ?_
  generalize s1 = s1 at hs1 ⊢
  extract_lets +onlyGivenNames s2
  refine .via (t := s2) (.ite hs1 (hs1.then (State.setBit_part .regs _ _ _ _ (regPart_regs (le_index (by decide)))))) fun hs2 => ?_
  generalize s2 = s2 at hs2 ⊢
  extract_lets +onlyGivenNames off
  exact (hs2.then (State.setTile_touches ..))

theorem State.epochNext_touches (s : State) :
    Touches [.ep, .evr, .ev] s (s.epochNext) := by
  unfold State.epochNext
  extract_lets +onlyGivenNames s1
  refine .via (t := s1) (Touches.refl.then (State.wr64_part .ep _ _ _ _ rfl rfl)) fun hs1 => ?_
  generalize s1 = s1 at hs1 ⊢
  exact (.ite ((hs1.then (State.setBit_part .ep _ _ _ _ rfl)).then (State.event_touches ..)) hs1)

theorem State.bankFlip_touches (s : State) :
    Touches [.regs] s (s.bankFlip) := by
  unfold State.bankFlip
  exact (.ite ((Touches.refl.then (State.setBit_part .regs _ _ _ _ rfl)).then (State.setBit_part .regs _ _ _ _ rfl)) Touches.refl)

theorem State.counterLatch_touches (s : State) :
    Touches [.tal] s (s.counterLatch) := by
  unfold State.counterLatch
  extract_lets +onlyGivenNames off down one latch
  exact (Touches.refl.then .setTal)

theorem State.latchEpoch_touches (s : State) :
    Touches [.so, .tal] s (s.latchEpoch) := by
  unfold State.latchEpoch
  extract_lets +onlyGivenNames src s1
  refine .via (t := s1) (Touches.refl.then .setTal) fun hs1 => ?_
  generalize s1 = s1 at hs1 ⊢
  extract_lets +onlyGivenNames s2
  refine .via (t := s2) (hs1.then (State.counterLatch_touches ..)) fun hs2 => ?_
  generalize s2 = s2 at hs2 ⊢
  exact (.ite (hs2.then .setSo) hs2)

theorem State.stampEpoch_touches (s : State) :
    Touches [.rnd] s (s.stampEpoch) := by
  unfold State.stampEpoch
  exact (Touches.refl.then .setRnd)

theorem State.epochCounts_touches (s : State) :
    Touches [.regs, .fab, .so, .rnd, .mcs, .cr] s (s.epochCounts) := by
  unfold State.epochCounts
  extract_lets +onlyGivenNames src src' src'' s1
  refine .via (t := s1) (Touches.refl.then (.upd [.fab, .so, .rnd, .mcs, .cr])) fun hs1 => ?_
  generalize s1 = s1 at hs1 ⊢
  exact (.each hs1 fun _ _ => (Touches.refl.then (State.setBit_part .regs _ _ _ _ (regPart_regs (le_index (le_mcBase _))))))

theorem State.owedAnswers_touches (s : State) :
    Touches [.vl, .tkts, .replies] s (s.owedAnswers) := by
  unfold State.owedAnswers
  exact (.each (Touches.refl.then .setVl) fun _ _ => (Touches.refl.then (State.answer_touches ..)))

theorem State.wdtEpoch_touches (s : State) (us : ℕ) :
    Touches [.regs] s (s.wdtEpoch us) := by
  unfold State.wdtEpoch
  exact (.each Touches.refl fun _ _ => (Touches.refl.then (State.wr_part .regs _ _ _ (regPart_regs (le_index (by decide))))))

theorem State.strobe_touches (s : State) :
    Touches [.pm, .mr, .ep, .evr, .regs, .mem, .draw, .fab, .so, .runs, .bps, .cache, .alloc, .snaps, .ev, .rnd, .tal, .mcs, .ic, .dbg,
          .vl, .tkts, .replies, .cr, .pw, .doms, .chg] s (s.strobe) := by
  unfold State.strobe
  extract_lets +onlyGivenNames s1
  refine .via (t := s1) ((Touches.refl.then (State.owedAnswers_touches ..)).then (State.wdtEpoch_touches ..)) fun hs1 => ?_
  generalize s1 = s1 at hs1 ⊢
  extract_lets +onlyGivenNames s2
  refine .via (t := s2) (hs1.then .setPwDomsChg) fun hs2 => ?_
  generalize s2 = s2 at hs2 ⊢
  extract_lets +onlyGivenNames s3
  refine .via (t := s3) (((((hs2.then (State.epochNext_touches ..)).then (State.bankFlip_touches ..)).then (State.latchEpoch_touches
        ..)).then (State.stampEpoch_touches ..)).then (State.epochCounts_touches ..)) fun hs3 => ?_
  generalize s3 = s3 at hs3 ⊢
  extract_lets +onlyGivenNames s4
  refine .via (t := s4) (.each hs3 fun _ _ => (Touches.refl.then (State.tileEpoch_touches ..))) fun hs4 => ?_
  generalize s4 = s4 at hs4 ⊢
  extract_lets +onlyGivenNames s5
  refine .via (t := s5) (((hs4.then (State.evMerge_touches ..)).then (State.readyLatch_touches ..)).then (State.schedule_touches
        ..)) fun hs5 => ?_
  generalize s5 = s5 at hs5 ⊢
  exact ((((hs5.then (State.grantWindows_touches ..)).then (State.retunes_touches ..)).then (State.crossChecks_touches ..)).then
        (State.sweepTurn_touches ..))

theorem execEpochStrobe_touches (s : State) :
    Ends [.pm, .mr, .ep, .evr, .regs, .mem, .draw, .fab, .so, .runs, .bps, .cache, .alloc, .snaps, .ev, .rnd, .tal, .mcs, .ic, .dbg,
          .vl, .tkts, .replies, .cr, .pw, .doms, .chg] s (execEpochStrobe s) := by
  unfold execEpochStrobe
  refine .when ?_
  exact (Touches.refl.then (State.strobe_touches ..))

theorem State.bufAdd_touches (s : State) (p : ℕ) :
    Touches [.vl] s (s.bufAdd p) := by
  unfold State.bufAdd
  exact (Touches.refl.then .setVl)

theorem State.admitReq_touches (s : State) (q : VReq) :
    Touches [.regs, .vl, .tkts] s (s.admitReq q) := by
  unfold State.admitReq
  extract_lets +onlyGivenNames i src s1
  refine .via (t := s1) ?_ fun hs1 => ?_
  · unfold s1
    generalize i = i
    split
    · exact (Touches.refl.then .setTkts)
    · exact Touches.refl
  generalize s1 = s1 at hs1 ⊢
  extract_lets +onlyGivenNames s2
  refine .via (t := s2) ((hs1.then (State.count_part .regs _ _ _ _ _ (regPart_regs (le_index (by decide))))).then (State.bufAdd_touches
        ..)) fun hs2 => ?_
  generalize s2 = s2 at hs2 ⊢
  exact (hs2.then .setVl)

theorem execEnvelopeReceive_touches (f : HostFrame) (s : State) :
    Ends [.regs, .vl, .tkts, .replies] s (execEnvelopeReceive f s) := by
  unfold execEnvelopeReceive
  extract_lets +onlyGivenNames k q other
  refine .via (t := other) (Touches.refl.then (State.count_part .regs _ _ _ _ _ (regPart_regs (le_index (by decide))))) fun hother => ?_
  generalize other = other at hother ⊢
  extract_lets +onlyGivenNames torn
  refine .via (t := torn) (Touches.refl.then (State.count_part .regs _ _ _ _ _ (regPart_regs (le_index (by decide))))) fun htorn => ?_
  generalize torn = torn at htorn ⊢
  extract_lets +onlyGivenNames noAddr
  refine .when ?_
  exact (.ite hother (.ite Touches.refl (.ite htorn (.ite (Touches.refl.then (State.pushReply_touches ..)) (.ite (Touches.refl.then
        (State.admitReq_touches ..)) ((Touches.refl.then (State.count_part .regs _ _ _ _ _ (regPart_regs (le_index (by
        decide))))).then (State.pushReply_touches ..)))))))

theorem State.passed_touches (s : State) (q : VReq) :
    Touches [.vl, .handed] s (s.passed q) := by
  unfold State.passed
  extract_lets +onlyGivenNames c h slots s1
  refine .via (t := s1) (Touches.refl.then (State.setClient_touches ..)) fun hs1 => ?_
  generalize s1 = s1 at hs1 ⊢
  exact (hs1.then .setHanded)

theorem State.turnAway_touches (s : State) (q : VReq) (status : ℕ) :
    Touches [.tkts, .replies] s (s.turnAway q status) := by
  unfold State.turnAway
  exact ((Touches.refl.then (State.dropResv_touches ..)).then (State.pushReply_touches ..))

theorem State.classify_touches (s : State) (q : VReq) : Touches [.vl, .tkts, .handed, .replies] s (s.classify q) := by
  -- unfolded as a function: applied, the kernel would evaluate the match before the definition
  generalize hf : State.classify = f
  delta State.classify at hf
  subst hf
  beta_reduce
  extract_lets +onlyGivenNames c
  split
  · split
    · exact (Touches.refl.then (State.dropResv_touches ..)).then (State.pushReply_touches ..)
    · extract_lets +onlyGivenNames s1
      refine .via (t := s1) ((Touches.refl.then (State.dropResv_touches ..)).then (State.bufFree_touches ..)) fun hs1 => ?_
      generalize s1 = s1 at hs1 ⊢
      exact hs1.then .setVl
  · exact .ite (Touches.refl.then (State.turnAway_touches ..)) (.ite (Touches.refl.then (State.turnAway_touches ..))
      (.ite (Touches.refl.then (State.turnAway_touches ..)) (Touches.refl.then (State.passed_touches ..))))

theorem State.dispatch_touches (s : State) (q : VReq) :
    Touches [.vl, .tkts, .handed, .replies] s (s.dispatch q) := by
  unfold State.dispatch
  extract_lets +onlyGivenNames c opens
  exact (.ite (Touches.refl.then (State.turnAway_touches ..)) (.ite ((Touches.refl.then (State.setClient_touches ..)).then
        (State.classify_touches ..)) (.ite (Touches.refl.then (State.turnAway_touches ..)) (Touches.refl.then (State.classify_touches
        ..)))))

theorem execEnvelopeDispatch_touches (s : State) :
    Ends [.vl, .tkts, .handed, .replies] s (execEnvelopeDispatch s) := by
  unfold execEnvelopeDispatch
  split
  · refine .next ?_
    exact Touches.refl
  · refine .when ?_
    exact ((Touches.refl.then .setVl).then (State.dispatch_touches ..))

theorem execEcho_touches (client : Fin 64) (s : State) :
    Ends [.vl, .tkts, .handed, .replies] s (execEcho client s) := by
  unfold execEcho
  exact (.serve fun _ _ => (State.checked_touches Touches.refl (Touches.refl.then (State.answer_touches ..))))

theorem State.follow_touches (s : State) (c : ℕ) (target : ℕ) (rank : ℕ) (d : ℤ) :
    Touches [.mcs] s (s.follow c target rank d) := by
  unfold State.follow
  extract_lets +onlyGivenNames m key
  exact (Touches.refl.then (State.setMc_touches ..))

theorem execDriftMeasure_touches (c : Fin 20) (target : Fin 32) (rank : Fin 8) (taps : Byte) (s : State) :
    Ends [.regs, .so, .mcs] s (execDriftMeasure c target rank taps s) := by
  unfold execDriftMeasure
  extract_lets +onlyGivenNames k d ask
  refine .via (t := ask) (Touches.refl.then (State.setBit_part .regs _ _ _ _ (regPart_regs (le_index (le_mcBase _))))) fun hask => ?_
  generalize ask = ask at hask ⊢
  extract_lets +onlyGivenNames src ask2
  refine .via (t := ask2) (hask.then .setSo) fun hask2 => ?_
  generalize ask2 = ask2 at hask2 ⊢
  refine .when ?_
  exact (.ite (Touches.refl.then (State.follow_touches ..)) hask2)

theorem execDramTempRead_touches (c : Fin 20) (temp : Byte) (s : State) :
    Ends [.pm, .mr, .evr, .regs, .fab, .runs, .ev, .tal, .pw, .chg] s (execDramTempRead c temp s) := by
  unfold execDramTempRead
  extract_lets +onlyGivenNames k t r s1
  refine .via (t := s1) (Touches.refl.then (State.setFld_part .regs _ _ _ _ _ (regPart_regs (le_index (le_mcBase _))))) fun hs1 => ?_
  generalize s1 = s1 at hs1 ⊢
  extract_lets +onlyGivenNames s2
  refine .via (t := s2) (.ite (hs1.then (State.setBit_part .regs _ _ _ _ (regPart_regs (le_index (le_mcBase _))))) (.ite (hs1.then
        (State.setBit_part .regs _ _ _ _ (regPart_regs (le_index (le_mcBase _))))) hs1)) fun hs2 => ?_
  generalize s2 = s2 at hs2 ⊢
  extract_lets +onlyGivenNames hot u
  refine .via (t := u) ((hs2.then (State.setBit_part .regs _ _ _ _ (regPart_regs (le_index (le_mcBase _))))).then (State.event_touches
        ..)) fun hu => ?_
  generalize u = u at hu ⊢
  extract_lets +onlyGivenNames src v
  refine .via (t := v) (hu.then .setPw) fun hv => ?_
  generalize v = v at hv ⊢
  extract_lets +onlyGivenNames u'
  refine .via (t := u') (hs2.then (State.setBit_part .regs _ _ _ _ (regPart_regs (le_index (le_mcBase _))))) fun hu' => ?_
  generalize u' = u' at hu' ⊢
  extract_lets +onlyGivenNames src' v'
  refine .via (t := v') (hu'.then .setPw) fun hv' => ?_
  generalize v' = v' at hv' ⊢
  extract_lets +onlyGivenNames s3
  refine .via (t := s3) (.ite ((hv.then (State.pmFaultSet_touches ..)).then (State.safeHold_touches ..)) (.ite (hv'.then
        (State.pmFaultEnd_touches ..)) hv')) fun hs3 => ?_
  generalize s3 = s3 at hs3 ⊢
  refine .when ?_
  exact hs3

theorem execDomainWakeRequest_touches (d : Dom) (s : State) :
    Ends [.pm, .regs, .doms] s (execDomainWakeRequest d s) := by
  unfold execDomainWakeRequest
  extract_lets +onlyGivenNames c
  refine .when ?_
  exact (Touches.refl.then (State.domWake_touches ..))

theorem execDomainPowerDown_touches (d : Dom) (s : State) :
    Ends [.pm, .regs, .doms] s (execDomainPowerDown d s) := by
  unfold execDomainPowerDown
  refine .when ?_
  exact (Touches.refl.then (State.downBegin_touches ..))

theorem State.spDownEnd_touches (s : State) (b : ℕ) :
    Touches [.pm, .mr, .ep, .evr, .regs, .loStage, .mem, .fab, .so, .runs, .bps, .cache, .alloc, .snaps, .fk, .ev, .rnd, .tal, .mcs,
          .ic, .dbg, .vl, .tkts, .handed, .replies, .cr, .pw, .doms, .chg, .fl, .sp] s (s.spDownEnd b) := by
  unfold State.spDownEnd
  extract_lets +onlyGivenNames v s1
  refine .via (t := s1) ((Touches.refl.then (State.setDom_touches ..)).then (State.setPower_touches ..)) fun hs1 => ?_
  generalize s1 = s1 at hs1 ⊢
  exact (.ite (hs1.then (State.spLost_touches ..)) hs1)

theorem State.isolateDom_touches (s : State) (d : ℕ) :
    Touches [.pm, .mr, .ep, .evr, .regs, .loStage, .mem, .fab, .so, .runs, .bps, .cache, .alloc, .snaps, .fk, .ev, .rnd, .tal, .mcs,
          .ic, .dbg, .vl, .tkts, .handed, .replies, .cr, .pw, .doms, .chg, .fl, .sp] s (s.isolateDom d) := by
  unfold State.isolateDom
  extract_lets +onlyGivenNames r s1
  refine .via (t := s1) (.ite (Touches.refl.then (State.stampsHome_touches ..)) Touches.refl) fun hs1 => ?_
  generalize s1 = s1 at hs1 ⊢
  extract_lets +onlyGivenNames s2
  refine .via (t := s2) (.ite (hs1.then (State.spDownEnd_touches ..)) (hs1.then (State.domOff_touches ..))) fun hs2 => ?_
  generalize s2 = s2 at hs2 ⊢
  exact (.ite (hs2.then (State.domWake_touches ..)) hs2)

theorem execDomainIsolation_touches (d : Dom) (s : State) :
    Ends [.pm, .mr, .ep, .evr, .regs, .loStage, .mem, .fab, .so, .runs, .bps, .cache, .alloc, .snaps, .fk, .ev, .rnd, .tal, .mcs, .ic,
          .dbg, .vl, .tkts, .handed, .replies, .cr, .pw, .doms, .chg, .fl, .sp] s (execDomainIsolation d s) := by
  unfold execDomainIsolation
  refine .when ?_
  exact (.ite (Touches.refl.then (State.domStay_touches ..)) (Touches.refl.then (State.isolateDom_touches ..)))

theorem execDomainFailClear_touches (d : Dom) (s : State) :
    Ends [.pm, .mr, .regs] s (execDomainFailClear d s) := by
  unfold execDomainFailClear
  extract_lets +onlyGivenNames c
  refine .when ?_
  exact ((Touches.refl.then (State.setFail_touches ..)).then (State.showWake_touches ..))

theorem execDlpExitDetect_touches (n : Tile) (s : State) :
    Ends [.regs, .tkts, .cr] s (execDlpExitDetect n s) := by
  unfold execDlpExitDetect
  refine .when ?_
  exact (Touches.refl.then (State.crExit_touches ..))

theorem execDlpEnter_touches (n : Tile) (g : Tile) (s : State) :
    Ends [.cr] s (execDlpEnter n g s) := by
  unfold execDlpEnter
  refine .when ?_
  exact (Touches.refl.then (State.crSendCtl_touches ..))

theorem execDlpAckTimeout_touches (n : Tile) (s : State) :
    Ends [.evr, .regs, .ev, .vl, .tkts, .handed, .replies, .cr, .pw] s (execDlpAckTimeout n s) := by
  unfold execDlpAckTimeout
  extract_lets +onlyGivenNames gs
  refine .when ?_
  exact (.then (.each Touches.refl fun _ _ => (Touches.refl.then (State.event_touches ..))) (State.crDlp_touches ..))

theorem execDlpAck_touches (n : Tile) (g : Tile) (s : State) :
    Ends [.regs, .vl, .tkts, .handed, .replies, .cr, .pw] s (execDlpAck n g s) := by
  unfold execDlpAck
  extract_lets +onlyGivenNames src s1
  refine .via (t := s1) (Touches.refl.then (State.setCrg_touches ..)) fun hs1 => ?_
  generalize s1 = s1 at hs1 ⊢
  refine .when ?_
  exact (.ite hs1 (hs1.then (State.crDlp_touches ..)))

theorem State.lodgeAddr_touches (s : State) (k : ℕ) (ip : ℕ) :
    Touches [.mr] s (s.lodgeAddr k ip) := by
  unfold State.lodgeAddr
  exact (.ite (Touches.refl.then (State.wr_part .mr _ _ _ rfl)) Touches.refl)

theorem execDhcpRenew_touches (port : Fin 9) (ok : Bool) (s : State) :
    Ends [.mr, .evr, .regs, .ev, .vl] s (execDhcpRenew port ok s) := by
  unfold execDhcpRenew
  extract_lets +onlyGivenNames k src lost
  refine .via (t := lost) (Touches.refl.then .setVl) fun hlost => ?_
  generalize lost = lost at hlost ⊢
  refine .when ?_
  exact (.ite (Touches.refl.then (State.netSend_touches ..)) (((hlost.then (State.wr_part .regs _ _ _ (regPart_regs (le_index (by
        decide))))).then (State.event_touches ..)).then (State.lodgeAddr_touches ..)))

theorem execDhcpMessage_touches (port : Fin 9) (ip : Word) (s : State) :
    Ends [.mr, .regs, .vl] s (execDhcpMessage port ip s) := by
  unfold execDhcpMessage
  extract_lets +onlyGivenNames k src s1
  refine .via (t := s1) (Touches.refl.then .setVl) fun hs1 => ?_
  generalize s1 = s1 at hs1 ⊢
  refine .when ?_
  exact ((hs1.then (State.wr_part .regs _ _ _ (regPart_regs (le_index (by decide))))).then (State.lodgeAddr_touches ..))

theorem execDesignList_touches (client : Fin 64) (s : State) :
    Ends [.vl, .tkts, .handed, .replies] s (execDesignList client s) := by
  unfold execDesignList
  exact (.serve fun _ _ => (State.checked_touches Touches.refl (Touches.refl.then (State.answer_touches ..))))

theorem execDesignInputSample_touches (k : Fin 12) (pins : BitVec 48) (s : State) :
    Ends [.fab] s (execDesignInputSample k pins s) := by
  unfold execDesignInputSample
  split
  refine .when ?_
  exact (Touches.refl.then (State.setBank_touches ..))

theorem State.discard_touches (s : State) (d : ℕ) :
    Touches [.mr, .evr, .regs, .mem, .draw, .fab, .so, .runs, .bps, .cache, .alloc, .snaps, .ev, .rnd, .mcs, .ic, .dbg, .tkts,
          .pw] s (s.discard d) := by
  unfold State.discard
  extract_lets +onlyGivenNames x
  exact (.then (.each (Touches.refl.then (State.setDesign_touches ..)) fun _ _ => (Touches.refl.then (State.refDown_touches ..)))
        (State.designGc_touches ..))

theorem execDesignDiscard_touches (client : Fin 64) (s : State) :
    Ends [.mr, .evr, .regs, .mem, .draw, .fab, .so, .runs, .bps, .cache, .alloc, .snaps, .ev, .rnd, .mcs, .ic, .dbg, .vl, .tkts,
          .handed, .replies, .pw] s (execDesignDiscard client s) := by
  unfold execDesignDiscard
  exact (.serve fun _ _ => (State.checked_touches Touches.refl (.ite ((Touches.refl.then (State.discard_touches ..)).then
        (State.answer_touches ..)) (.ite (Touches.refl.then (State.answer_touches ..)) (Touches.refl.then (State.answer_touches ..))))))

theorem State.flushAhead_touches (s : State) (i : ℕ) :
    Touches [.regs, .fab] s (s.flushAhead i) := by
  unfold State.flushAhead
  split
  · exact (.ite (Touches.refl.then (State.mmpFlush_touches ..)) Touches.refl)
  · exact Touches.refl

theorem execDesignCycleBegin_touches (n : Tile) (b : Bay) (waited : BitVec 16) (ioWait : BitVec 2) (mmpWait : Byte) (s : State) :
    Ends [.regs, .fab, .runs] s (execDesignCycleBegin n b waited ioWait mmpWait s) := by
  unfold execDesignCycleBegin
  extract_lets +onlyGivenNames planes first s1
  refine .via (t := s1) (.each Touches.refl fun _ _ => (Touches.refl.then (State.setBp_touches ..))) fun hs1 => ?_
  generalize s1 = s1 at hs1 ⊢
  extract_lets +onlyGivenNames s3
  refine .via (t := s3) (hs1.then (State.setFld_part .regs _ _ _ _ _ (regPart_regs (le_index (le_index (by decide)))))) fun hs3 => ?_
  generalize s3 = s3 at hs3 ⊢
  extract_lets +onlyGivenNames s4
  refine .via (t := s4) (hs3.then (State.setFld_part .regs _ _ _ _ _ (regPart_regs (le_index (le_index (by decide)))))) fun hs4 => ?_
  generalize s4 = s4 at hs4 ⊢
  extract_lets +onlyGivenNames s5
  refine .via (t := s5) (.each hs4 fun _ _ => (.ite (Touches.refl.then (State.count_part .regs _ _ _ _ _ (regPart_regs (le_index
        (le_index (by decide)))))) Touches.refl)) fun hs5 => ?_
  generalize s5 = s5 at hs5 ⊢
  extract_lets +onlyGivenNames s2
  refine .via (t := s2) (.ite hs1 (.each hs5 fun _ _ => (.ite (Touches.refl.then (State.count_part .regs _ _ _ _ _ (regPart_regs
        (le_index (le_index (by decide)))))) Touches.refl))) fun hs2 => ?_
  generalize s2 = s2 at hs2 ⊢
  extract_lets +onlyGivenNames phase
  refine .when ?_
  exact (.each (hs2.then (State.setBay_touches ..)) fun _ _ => ((Touches.refl.then (State.markStep_touches ..)).then
        (State.flushAhead_touches ..)))

theorem execDelayValueWrite_touches (c : Fin 20) (word : Word) (s : State) :
    Ends [.regs, .mcs] s (execDelayValueWrite c word s) := by
  unfold execDelayValueWrite
  refine .when ?_
  exact (Touches.refl.then (State.delayWrite_touches ..))

theorem execDelayMonitorSample_touches (n : Tile) (b : Bay) (q : Fin 4) (margin : Byte) (s : State) :
    Ends [.regs, .fab] s (execDelayMonitorSample n b q margin s) := by
  unfold execDelayMonitorSample
  extract_lets +onlyGivenNames m r low s1
  refine .via (t := s1) ((Touches.refl.then (State.setFld_part .regs _ _ _ _ _ (regPart_regs (le_index (le_index (le_index (by
        decide))))))).then
        (State.setFld_part .regs _ _ _ _ _ (regPart_regs (le_index (le_index (le_index (by decide))))))) fun hs1 => ?_
  generalize s1 = s1 at hs1 ⊢
  extract_lets +onlyGivenNames t t1 s2
  refine .via (t := s2) (hs1.then (State.setTile_touches ..)) fun hs2 => ?_
  generalize s2 = s2 at hs2 ⊢
  extract_lets +onlyGivenNames s3
  refine .via (t := s3) (.ite (hs2.then (State.setBit_part .regs _ _ _ _ (regPart_regs (le_index (le_index (le_index (by decide)))))))
        hs2) fun hs3 => ?_
  generalize s3 = s3 at hs3 ⊢
  extract_lets +onlyGivenNames s4
  refine .via (t := s4) (.ite ((hs3.then (State.setBit_part .regs _ _ _ _ (regPart_regs (le_index (by decide))))).then (State.count_part
        .regs _ _ _ _ _ (regPart_regs (le_index (by decide))))) hs3) fun hs4 => ?_
  generalize s4 = s4 at hs4 ⊢
  refine .when ?_
  exact hs4

/-- The debug block's registers lie above the Postmaster's and the recorder's. -/
theorem isDbgReg_low {a : Nat} (h : a < 0x30000) : isDbgReg a = false := by
  unfold isDbgReg
  rw [decide_eq_false (show ¬ 0x90000 ≤ a by omega), Bool.false_and, Bool.false_and]

theorem execDebugReset_touches (s : State) : Ends [.regs, .loStage, .rnd, .dbg] s (execDebugReset s) := by
  unfold execDebugReset
  extract_lets +onlyGivenNames off s1
  refine .via (t := s1) (.each .refl fun _ _ => (State.coreRelease_touches ..).mono) fun hs1 => ?_
  generalize s1 = s1 at hs1 ⊢
  extract_lets +onlyGivenNames s2
  have hk : keptRegs [.regs] (s1.regs.filter fun e => !isDbgReg e.1) = keptRegs [.regs] s1.regs := by
    unfold keptRegs
    rw [List.filter_filter]
    congr 1
    funext e
    by_cases he : e.1 < 0x30000
    · simp [isDbgReg_low he]
    · simp [regPart_regs (Nat.not_lt.mp he)]
  refine .via (t := s2) (.then (.then hs1 (Touches.regs hk)) .setLoStage) fun hs2 => ?_
  generalize s2 = s2 at hs2 ⊢
  extract_lets +onlyGivenNames s3
  refine .via (t := s3) (.each hs2 fun _ _ => (Touches.refl.then (State.setCore_touches ..)).then
    (State.wr_part .regs _ _ _ (regPart_regs (le_index (by decide))))) fun hs3 => ?_
  generalize s3 = s3 at hs3 ⊢
  extract_lets +onlyGivenNames mine drop
  exact .when ((hs3.then .setRnd).then .setDbg)

theorem State.dbgLatch_touches (s : State) (a : DbgAcc) (o : ℕ × ℕ × ℕ) :
    Touches [.evr, .regs, .draw, .ev, .rnd, .dbg, .vl, .tkts, .replies] s (s.dbgLatch a o) := by
  unfold State.dbgLatch
  exact (.ite (Touches.refl.then .setDbg) (Touches.refl.then (State.pieceDone_touches ..)))

theorem State.privateAccess_touches (s : State) (a : DbgAcc) :
    Carries [.pm, .mr, .ep, .evr, .regs, .loStage, .mem, .draw, .fab, .so, .runs, .bps, .cache, .alloc, .snaps, .fk, .ev, .rnd, .tal,
          .mcs, .ic, .dbg, .vl, .tkts, .handed, .replies, .cr, .pw, .doms, .chg, .fl, .sp] s Prod.fst (s.privateAccess a) := by
  unfold State.privateAccess
  extract_lets +onlyGivenNames g
  refine .viaOf Got.st g (.then Touches.refl (State.regAccess_touches ..)) fun hg => ?_
  generalize g = g at hg ⊢
  exact (.pair hg)

theorem execDebugAccessComplete_touches (s : State) :
    Ends [.pm, .mr, .ep, .evr, .regs, .loStage, .mem, .draw, .fab, .so, .runs, .bps, .cache, .alloc, .snaps, .fk, .ev, .rnd, .tal, .mcs,
          .ic, .dbg, .vl, .tkts, .handed, .replies, .cr, .pw, .doms, .chg, .fl, .sp] s (execDebugAccessComplete s) := by
  unfold execDebugAccessComplete
  split
  · refine .next ?_
    exact Touches.refl
  · extract_lets +onlyGivenNames clear
    split
    · refine .next ?_
      exact Touches.refl
    · split
      · extract_lets +onlyGivenNames r
        refine .viaOf Prod.fst r (.then Touches.refl (State.privateAccess_touches ..)) fun hr => ?_
        generalize r = r at hr ⊢
        refine .next ?_
        exact (((hr.then .setDbg).then (State.dbgLatch_touches ..)).then (State.dbgStart_touches ..))
      · split
        · refine .next ?_
          exact (((Touches.refl.then .setDbg).then (State.dbgLatch_touches ..)).then (State.dbgStart_touches ..))
        · refine .next ?_
          exact Touches.refl

theorem execDclkoFall_touches (k : Fin 12) (s : State) :
    Ends [.fab] s (execDclkoFall k s) := by
  unfold execDclkoFall
  refine .when ?_
  exact (Touches.refl.then (State.setBank_touches ..))

theorem execDccWrite_touches (n : Tile) (b : Bay) (p : Plane) (value : BitVec 64) (s : State) :
    Ends [.regs, .so] s (execDccWrite n b p value s) := by
  unfold execDccWrite
  refine .when ?_
  exact (Touches.refl.then (State.dccWrite_touches ..))

theorem State.dbgaccShift_touches (s : State) :
    Touches [.dbg] s (s.dbgaccShift) := by
  unfold State.dbgaccShift
  exact (Touches.refl.then .setDbg)

theorem State.dbgaccStart_touches (s : State) (a : DbgAcc) :
    Touches [.evr, .regs, .draw, .ev, .rnd, .dbg] s (s.dbgaccStart a) := by
  unfold State.dbgaccStart
  extract_lets +onlyGivenNames s1
  refine .via (t := s1) (Touches.refl.then (State.dbgaccShift_touches ..)) fun hs1 => ?_
  generalize s1 = s1 at hs1 ⊢
  exact (.ite hs1 (.ite (hs1.then .setDbg) (hs1.then (State.dbgQueue_touches ..))))

theorem execDbgaccWrite_touches (addr : BitVec 48) (data : Word) (s : State) :
    Ends [.evr, .regs, .draw, .ev, .rnd, .dbg] s (execDbgaccWrite addr data s) := by
  unfold execDbgaccWrite
  refine .when ?_
  exact (Touches.refl.then (State.dbgaccStart_touches ..))

theorem execDbgaccRead_touches (addr : BitVec 48) (consume : Bool) (s : State) :
    Ends [.evr, .regs, .draw, .ev, .rnd, .dbg] s (execDbgaccRead addr consume s) := by
  unfold execDbgaccRead
  refine .when ?_
  exact (Touches.refl.then (State.dbgaccStart_touches ..))

theorem execDbgaccPoll_touches (s : State) :
    Ends [.dbg] s (execDbgaccPoll s) := by
  unfold execDbgaccPoll
  refine .when ?_
  exact (Touches.refl.then (State.dbgaccShift_touches ..))

theorem execDbgWrite_touches (client : Fin 64) (s : State) :
    Ends [.evr, .regs, .draw, .ev, .rnd, .dbg, .vl, .tkts, .handed, .replies] s (execDbgWrite client s) := by
  unfold execDbgWrite
  exact (.serve fun _ _ => (State.checked_touches Touches.refl (Touches.refl.then (State.jobBegin_touches ..))))

theorem execDbgRead_touches (client : Fin 64) (s : State) :
    Ends [.evr, .regs, .draw, .ev, .rnd, .dbg, .vl, .tkts, .handed, .replies] s (execDbgRead client s) := by
  unfold execDbgRead
  exact (.serve fun _ _ => (State.checked_touches Touches.refl (Touches.refl.then (State.jobBegin_touches ..))))

theorem execDbgModeReq_touches (word : Word) (s : State) :
    Ends [.pm, .mr, .evr, .regs, .draw, .ev, .tal, .dbg, .tkts, .pw] s (execDbgModeReq word s) := by
  unfold execDbgModeReq
  refine .when ?_
  exact (Touches.refl.then (State.dbgModeReq_touches ..))

theorem State.dbgCore_touches (s : State) (q : VReq) (w : ℕ) :
    Touches [.evr, .regs, .draw, .ev, .rnd, .dbg, .vl, .tkts, .replies] s (s.dbgCore q w) := by
  unfold State.dbgCore
  extract_lets +onlyGivenNames c
  exact (State.checked_touches Touches.refl (Touches.refl.then (State.jobBegin_touches ..)))

theorem execDbgCoreStep_touches (client : Fin 64) (s : State) :
    Ends [.evr, .regs, .draw, .ev, .rnd, .dbg, .vl, .tkts, .handed, .replies] s (execDbgCoreStep client s) := by
  unfold execDbgCoreStep
  exact (.serve fun _ _ => (Touches.refl.then (State.dbgCore_touches ..)))

theorem execDbgCoreResume_touches (client : Fin 64) (s : State) :
    Ends [.evr, .regs, .draw, .ev, .rnd, .dbg, .vl, .tkts, .handed, .replies] s (execDbgCoreResume client s) := by
  unfold execDbgCoreResume
  exact (.serve fun _ _ => (Touches.refl.then (State.dbgCore_touches ..)))

theorem execDbgCoreHalt_touches (client : Fin 64) (s : State) :
    Ends [.evr, .regs, .draw, .ev, .rnd, .dbg, .vl, .tkts, .handed, .replies] s (execDbgCoreHalt client s) := by
  unfold execDbgCoreHalt
  exact (.serve fun _ _ => (.ite (Touches.refl.then (State.dbgCore_touches ..)) (State.checked_touches Touches.refl Touches.refl)))

theorem execCrCtrlTrain_touches (n : Tile) (s : State) :
    Ends [.regs, .vl, .tkts, .handed, .replies, .cr, .pw] s (execCrCtrlTrain n s) := by
  unfold execCrCtrlTrain
  refine .when ?_
  exact (Touches.refl.then (State.crOp_touches ..))

theorem execCrCtrlOff_touches (n : Tile) (s : State) :
    Ends [.regs, .vl, .tkts, .handed, .replies, .cr, .pw] s (execCrCtrlOff n s) := by
  unfold execCrCtrlOff
  refine .when ?_
  exact (Touches.refl.then (State.crOp_touches ..))

theorem execCrCtrlExit_touches (n : Tile) (s : State) :
    Ends [.regs, .vl, .tkts, .handed, .replies, .cr, .pw] s (execCrCtrlExit n s) := by
  unfold execCrCtrlExit
  refine .when ?_
  exact (Touches.refl.then (State.crOp_touches ..))

theorem execCrCtrlEnterDlp_touches (n : Tile) (s : State) :
    Ends [.regs, .vl, .tkts, .handed, .replies, .cr, .pw] s (execCrCtrlEnterDlp n s) := by
  unfold execCrCtrlEnterDlp
  refine .when ?_
  exact (Touches.refl.then (State.crOp_touches ..))

theorem State.egressPut_touches (s : State) (m : ℕ) (g : ℕ) (b : CrSlot) :
    Touches [.regs, .tkts, .cr] s ((s.egressPut m g b).getD s) := by
  unfold State.egressPut
  split
  · split
    · exact Touches.refl
    · extract_lets +onlyGivenNames src s1
      refine .via (t := s1) (Touches.refl.then (State.setCrg_touches ..)) fun hs1 => ?_
      generalize s1 = s1 at hs1 ⊢
      exact (.ite (hs1.then (State.crExit_touches ..)) hs1)
  · exact (.ite (Touches.refl.then (State.count_part .regs _ _ _ _ _ (regPart_regs (le_index (by decide))))) Touches.refl)

theorem State.egressVia_touches (s : State) (n : ℕ) (e : ℕ) (cyc : ℕ) (v : Word) :
    Touches [.regs, .tkts, .cr] s ((s.egressVia n e cyc v).getD s) := by
  unfold State.egressVia
  extract_lets +onlyGivenNames r
  split
  · exact Touches.refl
  · split
    · exact (.getD Touches.refl (State.egressPut_touches ..))
    · exact (Touches.refl.then (State.count_part .regs _ _ _ _ _ (regPart_regs (le_index (by decide)))))

theorem execCourierEgress_touches (index : ℕ) (s : State) :
    Ends [.regs, .fab, .tkts, .cr] s (execCourierEgress index s) := by
  unfold execCourierEgress
  split
  · refine .next ?_
    exact Touches.refl
  · extract_lets +onlyGivenNames src s1
    refine .via (t := s1) (Touches.refl.then .setFab) fun hs1 => ?_
    generalize s1 = s1 at hs1 ⊢
    split
    · rename_i x t heq
      refine .via (hs1.then ((State.egressVia_touches ..).ofSome heq)) fun ht => ?_
      refine .next ?_
      exact ht
    · rename_i x heq
      refine .next ?_
      exact Touches.refl

theorem execCoreStep_touches (c : Fin 4) (s : State) :
    Ends [.regs, .dbg] s (execCoreStep c s) := by
  unfold execCoreStep
  refine .next ?_
  exact (Touches.refl.then (State.coreCtrl_touches ..))

theorem execCoreResume_touches (c : Fin 4) (s : State) :
    Ends [.regs, .dbg] s (execCoreResume c s) := by
  unfold execCoreResume
  refine .next ?_
  exact (Touches.refl.then (State.coreCtrl_touches ..))

theorem execCoreRegdataAccess_touches (c : Fin 4) (write : Bool) (hi : Bool) (value : Word) (s : State) :
    Ends [.regs, .loStage, .dbg] s (execCoreRegdataAccess c write hi value s) := by
  unfold execCoreRegdataAccess
  refine .when ?_
  exact (Touches.refl.then (State.regdataWrite_touches ..))

theorem State.haltNow_touches (s : State) (c : ℕ) (cause : ℕ) (cmp : ℕ) :
    Touches [.regs, .draw, .dbg] s (s.haltNow c cause cmp) := by
  unfold State.haltNow
  extract_lets +onlyGivenNames s1
  refine .via (t := s1) (Touches.refl.then (State.haltOne_touches ..)) fun hs1 => ?_
  generalize s1 = s1 at hs1 ⊢
  exact (.ite (hs1.then (State.groupHalt_touches ..)) hs1)

theorem execCoreHaltTakesEffect_touches (c : Fin 4) (s : State) :
    Ends [.regs, .draw, .dbg] s (execCoreHaltTakesEffect c s) := by
  unfold execCoreHaltTakesEffect
  split
  · refine .when ?_
    exact (Touches.refl.then (State.haltNow_touches ..))
  · refine .next ?_
    exact Touches.refl

theorem execCoreHalt_touches (c : Fin 4) (s : State) :
    Ends [.regs, .dbg] s (execCoreHalt c s) := by
  unfold execCoreHalt
  refine .next ?_
  exact (Touches.refl.then (State.coreCtrl_touches ..))

theorem execConfirmTimeout_touches (s : State) :
    Ends [.pm, .mr, .ep, .evr, .regs, .loStage, .mem, .draw, .fab, .so, .runs, .bps, .cache, .alloc, .snaps, .fk, .ev, .rnd, .tal, .mcs,
          .ic, .dbg, .vl, .tkts, .handed, .replies, .cr, .pw, .doms, .chg, .fl, .sp] s (execConfirmTimeout s) := by
  unfold execConfirmTimeout
  refine .when ?_
  exact (Touches.refl.then (State.trialFallback_touches ..))

theorem execComparatorMatch_touches (c : Fin 4) (k : Fin 8) (kind : Fin 3) (addr : BitVec 48) (len : Fin 65) (pc : BitVec 64) (ctxid :
      BitVec 16) (s : State) :
    Ends [.evr, .regs, .ev, .dbg] s (execComparatorMatch c k kind addr len pc ctxid s) := by
  unfold execComparatorMatch
  extract_lets +onlyGivenNames cc s0
  refine .via (t := s0) (Touches.refl.then (State.setFld_part .regs _ _ _ _ _ (regPart_regs (le_index (by decide))))) fun hs0 => ?_
  generalize s0 = s0 at hs0 ⊢
  extract_lets +onlyGivenNames stepping act s1
  refine .via (t := s1) (.ite (.each hs0 fun _ _ => (Touches.refl.then (State.setBit_part .regs _ _ _ _ (regPart_regs (le_index
        (le_index (by decide))))))) hs0) fun hs1 => ?_
  generalize s1 = s1 at hs1 ⊢
  extract_lets +onlyGivenNames s2
  refine .via (t := s2) (hs1.then (State.setBit_part .regs _ _ _ _ (regPart_regs (le_index (le_index (by decide)))))) fun hs2 => ?_
  generalize s2 = s2 at hs2 ⊢
  extract_lets +onlyGivenNames at' src s3
  refine .via (t := s3) (.ite (.ite ((hs2.then (State.setCore_touches ..)).then (State.setCore_touches ..)) (.ite ((hs2.then
        (State.setCore_touches ..)).then (State.haltAsk_touches ..)) hs2)) (.ite (hs2.then (State.event_touches ..)) hs2)) fun hs3 => ?_
  generalize s3 = s3 at hs3 ⊢
  refine .when ?_
  exact hs3

theorem State.compMoved_touches (s : State) (m : ℕ) (v : CompMove) :
    Touches [.mr, .evr, .regs, .mem, .draw, .fab, .so, .runs, .bps, .cache, .alloc, .snaps, .ev, .rnd, .mcs, .ic, .dbg, .tkts,
          .pw] s (s.compMoved m v) := by
  unfold State.compMoved
  split
  rename_i x t e heq
  refine .viaEq Prod.fst heq (.then Touches.refl (State.pmGet_touches ..)) fun ht => ?_
  extract_lets +onlyGivenNames u
  refine .via (t := u) (.then ht (State.dramWrite_touches ..)) fun hu => ?_
  generalize u = u at hu ⊢
  extract_lets +onlyGivenNames w
  refine .via (t := w) ((hu.then (State.alloc_touches ..)).then (State.pmPut_touches ..)) fun hw => ?_
  generalize w = w at hw ⊢
  exact (.then (.ite hw ht) (State.compStep_touches ..))

theorem execCompactionMoveComplete_touches (stack : Tile) (s : State) :
    Ends [.pm, .mr, .evr, .regs, .mem, .draw, .fab, .so, .runs, .bps, .cache, .alloc, .snaps, .fk, .ev, .rnd, .mcs, .ic, .dbg, .tkts,
          .pw, .doms, .fl] s (execCompactionMoveComplete stack s) := by
  unfold execCompactionMoveComplete
  extract_lets +onlyGivenNames m
  split
  · refine .next ?_
    exact Touches.refl
  · extract_lets +onlyGivenNames t
    refine .via (t := t) (Touches.refl.then (State.compMoved_touches ..)) fun ht => ?_
    generalize t = t at ht ⊢
    extract_lets +onlyGivenNames wait
    refine .when ?_
    exact (.ite (.each ht fun _ _ => (Touches.refl.then (State.intakeChecks_touches ..))) ht)

/-- Everything that a state holds. -/
def Part.all : List Part :=
  [.pm, .mr, .ep, .evr, .regs, .loStage, .mem, .draw, .fab, .so, .runs, .bps, .cache, .alloc, .snaps, .fk, .ev, .rnd, .tal, .mcs, .ic,
        .dbg, .vl,
    .tkts, .handed, .replies, .cr, .pw, .doms, .chg, .fl, .sp]

/-- A state that keeps the queue and the fuses, and whose memory lists nothing. -/
theorem Touches.renewed {s t : State} (hp : t.pending = s.pending) (hm : t.mem = []) (hf : FusesKept s t) (hb : t.fk.busy = none) :
    Touches Part.all s t where
  mask := by
    have hr : ∀ m, keptRegs Part.all m = [] := fun m =>
      List.filter_eq_nil_iff.mpr fun e _ => by
        have h : regPart e.1 ∈ Part.all := (show Part.registers ⊆ Part.all by decide) (regPart_mem e.1)
        simp [h]
    unfold State.mask
    rw [hr, hr, hp]
    rfl
  mem := fun _ => by unfold State.memOk; rw [hm]; rfl
  fuses := fun _ => ⟨hf, by unfold State.fuseInv; rw [hb]; exact nofun⟩

theorem execColdReset_touches (s : State) : Ends Part.all s (execColdReset s) :=
  .when (.then (t := { { s.unpowered with draw := s.draw + 3, pw := { s.unpowered.pw with
    cycles := s.freeVal (2 ^ 24), hours := s.drawn.freeVal (2 ^ 32), frac := s.drawn.drawn.freeVal 4096 } } with
    regs := sortRegs s.unpowered.regs }) (.renewed rfl rfl (FusesKept.refl s) rfl) (State.wr_touches ..))

theorem execCodewordReceive_touches (n : Tile) (lane : Fin 16) (cw : Codeword) (interval : Word) (first : BitVec 14) (mirrorOk :
      Bool) (s : State) :
    Ends [.evr, .regs, .ev, .cr] s (execCodewordReceive n lane cw interval first mirrorOk s) := by
  unfold execCodewordReceive
  extract_lets +onlyGivenNames l v g w k mirrors mirrored bad pos key q s1
  refine .via (t := s1) (Touches.refl.then (State.setCrl_touches ..)) fun hs1 => ?_
  generalize s1 = s1 at hs1 ⊢
  extract_lets +onlyGivenNames s2
  refine .via (t := s2) ?_ fun hs2 => ?_
  · unfold s2
    generalize k = k
    split
    · exact (hs1.then (State.setCrl_touches ..))
    · exact hs1
  generalize s2 = s2 at hs2 ⊢
  extract_lets +onlyGivenNames src s3
  refine .via (t := s3) ?_ fun hs3 => ?_
  · unfold s3
    split
    · exact ((hs2.then (State.setCrl_touches ..)).then (State.count_part .regs _ _ _ _ _ (regPart_regs (le_index (le_index (by
          decide))))))
    · exact hs2
  generalize s3 = s3 at hs3 ⊢
  extract_lets +onlyGivenNames types s4
  refine .via (t := s4) (.ite (hs3.then (State.count_part .regs _ _ _ _ _ (regPart_regs (le_index (le_index (by decide))))))
        hs3) fun hs4 => ?_
  generalize s4 = s4 at hs4 ⊢
  extract_lets +onlyGivenNames u
  refine .via (t := u) (hs3.then (State.count_part .regs _ _ _ _ _ (regPart_regs (le_index (le_index (by decide)))))) fun hu => ?_
  generalize u = u at hu ⊢
  extract_lets +onlyGivenNames src' src'' u'
  refine .via (t := u') ?_ fun hu' => ?_
  · unfold u'
    generalize k = k
    split
    · exact (hs4.then (State.setCrg_touches ..))
    · exact hs4
  generalize u' = u' at hu' ⊢
  extract_lets +onlyGivenNames res
  refine .via (t := res) ?_ fun hres => ?_
  · unfold res
    split
    · generalize k = k
      split
      · exact (.ite hu ((hu.then (State.setCrg_touches ..)).then (State.crSendCtl_touches ..)))
      · exact hu
    · split
      · exact (.ite ((hu'.then (State.count_part .regs _ _ _ _ _ (regPart_regs (le_index (le_index (by decide)))))).then
            (State.event_touches ..)) hu')
      · exact hu'
  generalize res = res at hres ⊢
  refine .when ?_
  exact hres

theorem execClientClose_touches (client : Fin 64) (s : State) :
    Ends [.vl, .tkts, .handed, .replies] s (execClientClose client s) := by
  unfold execClientClose
  exact (.serve fun _ _ => (State.checked_touches Touches.refl ((Touches.refl.then (State.answer_touches ..)).then
        (State.setClient_touches ..))))

theorem State.pageDone_touches (s : State) (j : ℕ) (plain : List Byte) (p : PageD) :
    Carries [.regs, .mem, .fab] s Prod.fst (s.pageDone j plain p) := by
  unfold State.pageDone
  extract_lets +onlyGivenNames d x
  split
  · exact (.pair Touches.refl)
  · split
    · exact (.pair Touches.refl)
    · exact (.pair (((Touches.refl.then (State.putFrames_touches ..)).then (State.ownMems_touches ..)).then (State.initMems_touches
          ..)))

theorem State.storePayload_touches (s : State) (j : ℕ) (a : ℕ) (bs : List Byte) :
    Carries [.mr, .evr, .regs, .mem, .draw, .fab, .so, .runs, .bps, .cache, .alloc, .snaps, .ev, .rnd, .mcs, .ic, .dbg, .tkts,
          .pw] s Prod.fst (s.storePayload j a bs) := by
  unfold State.storePayload
  extract_lets +onlyGivenNames l
  refine (.foldlFst Touches.refl fun u c p => ?_)
  extract_lets +onlyGivenNames lo hi
  split
  · split
    rename_i x t e heq
    refine .viaEq Prod.fst heq (.then Touches.refl (State.pmGet_touches ..)) fun ht => ?_
    extract_lets +onlyGivenNames g
    refine .viaOf Got.st g (.then ht (State.dramWrite_touches ..)) fun hg => ?_
    generalize g = g at hg ⊢
    exact (.pair hg)
  · exact (.pair Touches.refl)

theorem State.chunkWrite_touches (s : State) (j : ℕ) :
    Carries [.mr, .evr, .regs, .mem, .draw, .fab, .so, .runs, .bps, .cache, .alloc, .snaps, .ev, .rnd, .mcs, .ic, .dbg, .tkts,
          .pw] s Prod.fst (s.chunkWrite j) := by
  unfold State.chunkWrite
  extract_lets +onlyGivenNames l bs plain
  split
  rename_i x s2 severe heq
  refine .viaEq Prod.fst heq (.then Touches.refl (State.storePayload_touches ..)) fun hs2 => ?_
  extract_lets +onlyGivenNames done
  split
  rename_i x' s2' severe' heq'
  refine .viaEq Prod.fst heq' ?_ fun hs2' => ?_
  · refine (.foldlFst hs2 fun u c p => ?_)
    extract_lets +onlyGivenNames r
    refine .viaOf Prod.fst r (.then Touches.refl (State.pageDone_touches ..)) fun hr => ?_
    generalize r = r at hr ⊢
    exact (.pair hr)
  exact (.pair hs2')

theorem execChunkDecrypted_touches (load : Fin 4) (s : State) :
    Ends [.mr, .evr, .regs, .mem, .draw, .fab, .so, .runs, .bps, .cache, .alloc, .snaps, .fk, .ev, .rnd, .mcs, .ic, .dbg, .tkts, .pw,
          .fl] s (execChunkDecrypted load s) := by
  unfold execChunkDecrypted
  extract_lets +onlyGivenNames j l
  split
  rename_i x u merr werr heq
  refine .viaEq Prod.fst heq (.then Touches.refl (State.chunkWrite_touches ..)) fun hu => ?_
  extract_lets +onlyGivenNames good
  refine .via (t := good) ((hu.then (State.setLoad_touches ..)).then (State.trailerCheck_touches ..)) fun hgood => ?_
  generalize good = good at hgood ⊢
  refine .when ?_
  exact (.ite (Touches.refl.then (State.loadFail_touches ..)) (.ite (hu.then (State.loadFail_touches ..)) (.ite (hu.then
        (State.loadFail_touches ..)) hgood)))

theorem execBurstTransfer_touches (k : Fin 12) (s : State) :
    Ends [.fab] s (execBurstTransfer k s) := by
  unfold execBurstTransfer
  split
  extract_lets +onlyGivenNames w word
  refine .when ?_
  exact (Touches.refl.then (State.setBank_touches ..))

theorem State.slotIn_touches (s : State) (n : ℕ) (x : CrSlot) :
    Touches [.regs, .fab, .tkts, .cr] s ((s.slotIn n x).getD s) := by
  unfold State.slotIn
  extract_lets +onlyGivenNames lo hi dst
  split
  · exact (Touches.refl.then (State.count_part .regs _ _ _ _ _ (regPart_regs (le_index (by decide)))))
  · split
    · exact (.getD Touches.refl (State.egressVia_touches ..))
    · split
      · exact (Touches.refl.then (State.count_part .regs _ _ _ _ _ (regPart_regs (le_index (by decide)))))
      · split
        · exact (Touches.refl.then (State.count_part .regs _ _ _ _ _ (regPart_regs (le_index (by decide)))))
        · exact (Touches.refl.then .setFab)

theorem State.slotsIn_touches (s : State) (n : Nat) (xs : List CrSlot) : Touches [.regs, .fab, .tkts, .cr] s ((s.slotsIn n xs).getD
      s) := by
  induction xs generalizing s with
  | nil => exact .refl
  | cons x xs ih =>
    unfold State.slotsIn
    split
    · rename_i t heq
      exact .getD ((State.slotIn_touches s n x).ofSome heq).mono (ih _)
    · exact .refl

theorem execBundleBlockReceive_touches (n : Tile) (g : Tile) (block : BitVec 14) (payload : BitVec 256) (s : State) :
    Ends [.regs, .fab, .tkts, .cr] s (execBundleBlockReceive n g block payload s) := by
  unfold execBundleBlockReceive
  extract_lets +onlyGivenNames p
  refine .when ?_
  exact (.getD Touches.refl (State.slotsIn_touches ..))

theorem execBootTimeout_touches (s : State) :
    Ends [.pm, .mr, .ep, .evr, .regs, .loStage, .mem, .draw, .fab, .so, .runs, .bps, .cache, .alloc, .snaps, .fk, .ev, .rnd, .tal, .mcs,
          .ic, .dbg, .vl, .tkts, .handed, .replies, .cr, .pw, .doms, .chg, .fl, .sp] s (execBootTimeout s) := by
  unfold execBootTimeout
  extract_lets +onlyGivenNames rec1
  refine .via (t := rec1) (Touches.refl.then (State.event_touches ..)) fun hrec1 => ?_
  generalize rec1 = rec1 at hrec1 ⊢
  refine .when ?_
  exact (.ite (hrec1.then (State.bootStop_touches ..)) (.ite (Touches.refl.then (State.trialFallback_touches ..)) ((hrec1.then
        (State.setBit_part .pm _ _ _ _ rfl)).then (State.resetAfterFlush_touches ..))))

theorem execBootHeartbeatWrite_touches (value : Word) (s : State) :
    Ends [.pm] s (execBootHeartbeatWrite value s) := by
  unfold execBootHeartbeatWrite
  refine .when ?_
  exact (Touches.refl.then (State.wr_part .pm _ _ _ rfl))

theorem execBootComplete_touches (s : State) :
    Ends [.pm, .mr, .evr, .regs, .ev, .tal, .tkts, .cr, .pw, .doms, .chg] s (execBootComplete s) := by
  unfold execBootComplete
  extract_lets +onlyGivenNames m src s1
  refine .via (t := s1) ((Touches.refl.then .setPw).then (State.modeReached_touches ..)) fun hs1 => ?_
  generalize s1 = s1 at hs1 ⊢
  extract_lets +onlyGivenNames s2
  refine .via (t := s2) ?_ fun hs2 => ?_
  · unfold s2
    split
    · refine (.each hs1 fun t n => ?_)
      split
      · exact (Touches.refl.then (State.linkTrain_touches ..))
      · exact Touches.refl
    · exact hs1
  generalize s2 = s2 at hs2 ⊢
  refine .when ?_
  exact hs2

theorem State.streamSend_touches (s : State) (n : ℕ) (g : ℕ) (l : ℕ) (interval : ℕ) (b : ℕ) (x : CrBlk) :
    Touches [.cr] s (s.streamSend n g l interval b x) := by
  unfold State.streamSend
  extract_lets +onlyGivenNames w src s1
  refine .via (t := s1) ((Touches.refl.then (State.setCrl_touches ..)).then (State.laneOut_touches ..)) fun hs1 => ?_
  generalize s1 = s1 at hs1 ⊢
  split
  · exact (.ite (hs1.then (State.laneOut_touches ..)) hs1)
  · exact hs1

theorem execBlockSend_touches (n : Tile) (g : Tile) (s : State) :
    Ends [.cr] s (execBlockSend n g s) := by
  unfold execBlockSend
  extract_lets +onlyGivenNames q ls l last step p res
  refine .via (t := res) ?_ fun hres => ?_
  · unfold res
    split
    · exact ((Touches.refl.then (State.setCrg_touches ..)).then (State.streamSend_touches ..))
    · exact (.ite ((Touches.refl.then (State.setCrg_touches ..)).then (State.streamSend_touches ..)) ((Touches.refl.then
          (State.setCrg_touches ..)).then (State.streamSend_touches ..)))
  generalize res = res at hres ⊢
  refine .when ?_
  exact hres

theorem execBkeyErase_touches (mid : Byte) (s : State) :
    Ends [.regs, .fk] s (execBkeyErase mid s) := by
  unfold execBkeyErase
  refine .when ?_
  exact (State.fkAct_touches Touches.refl fun _ => (Touches.refl.then (State.bkeyErase_touches ..)))

theorem execBkeyCommit_touches (mid : Byte) (s : State) :
    Ends [.regs, .fk] s (execBkeyCommit mid s) := by
  unfold execBkeyCommit
  refine .when ?_
  exact (State.fkAct_touches Touches.refl fun _ => (Touches.refl.then (State.bkeyCommit_touches ..)))

theorem execBayIdlePowerDown_touches (n : Tile) (b : Bay) (s : State) :
    Ends [.pm, .regs, .doms] s (execBayIdlePowerDown n b s) := by
  unfold execBayIdlePowerDown
  refine .when ?_
  exact (Touches.refl.then (State.downBegin_touches ..))

theorem execArpRequest_touches (port : Fin 9) (ip : Word) (s : State) :
    Ends [.vl] s (execArpRequest port ip s) := by
  unfold execArpRequest
  extract_lets +onlyGivenNames k
  refine .when ?_
  exact (Touches.refl.then (State.netSend_touches ..))

theorem execAonSupplyFail_touches (s : State) : Ends Part.all s (execAonSupplyFail s) :=
  .when (.renewed rfl rfl (FusesKept.refl s) rfl)

theorem execAdaptationStep_touches (n : Tile) (g : Tile) (s : State) :
    Ends [.regs, .so, .cr] s (execAdaptationStep n g s) := by
  unfold execAdaptationStep
  split
  · extract_lets +onlyGivenNames old src s0
    refine .via (t := s0) (Touches.refl.then .setSo) fun hs0 => ?_
    generalize s0 = s0 at hs0 ⊢
    extract_lets +onlyGivenNames src' s1
    refine .via (t := s1) (hs0.then (State.setCrg_touches ..)) fun hs1 => ?_
    generalize s1 = s1 at hs1 ⊢
    refine .when ?_
    exact ((hs1.then (State.setBit_part .regs _ _ _ _ (regPart_regs (le_index (le_index (by decide)))))).then (State.takeoverAsk_touches
          ..))
  · refine .next ?_
    exact Touches.refl

theorem execAccessDeferral_touches (job : ℕ) (s : State) :
    Ends [.regs, .vl, .tkts, .replies] s (execAccessDeferral job s) := by
  unfold execAccessDeferral
  split
  · refine .next ?_
    exact Touches.refl
  · extract_lets +onlyGivenNames src s1
    refine .via (t := s1) (Touches.refl.then (State.setJob_touches ..)) fun hs1 => ?_
    generalize s1 = s1 at hs1 ⊢
    extract_lets +onlyGivenNames s2
    refine .via (t := s2) (hs1.then (State.tktIssue_touches ..)) fun hs2 => ?_
    generalize s2 = s2 at hs2 ⊢
    refine .when ?_
    exact ((hs2.then (State.accept_touches ..)).then (State.tktProgress_touches ..))

theorem State.taken_touches (s : State) (q : VReq) :
    Touches [.handed] s (s.taken q) := by
  unfold State.taken
  exact (Touches.refl.then .setHanded)

theorem State.copyMem_touches (s : State) (src : ℕ) (dst : ℕ) (n : ℕ) :
    Touches [.mem] s (s.copyMem src dst n) := by
  unfold State.copyMem
  exact (Touches.refl.then (State.putBytes_touches ..))


end Sys2Proof.Machine
end

