-- ==== Sys2Proof/Proofs/Commands.lean ====
section
/-!
PROOF. The footprint of every command, and what follows from it for a step.
-/

/-- The parts of the state that a command may change. -/
def Sys2Proof.Instr.parts : Sys2Proof.Instr → List Sys2Proof.Machine.Part
  | .coldReset | .aonSupplyFail =>
      Sys2Proof.Machine.Part.all
  | .warmModuleReset | .heldFabricAccess .. | .debugAccessComplete | .watchdogExpiry .. | .roundsRequestArrival .. | .replySent ..
  | .streamDelivery .. | .streamRead .. | .streamStatus .. | .wakeRowCheck .. | .powerGoodLoss .. | .pmbusPoll .. | .pmbusAlert ..
  | .thermalRead .. | .safeHoldAutoReset | .modeChangeStart | .modeChangeComplete | .bootTimeout | .scratchpadZeroComplete ..
  | .confirmTimeout | .logFlushComplete .. | .registerWrite .. | .flushWaitTimeout =>
      [.pm, .mr, .ep, .evr, .regs, .loStage, .mem, .draw, .fab, .so, .runs, .bps, .cache, .alloc, .snaps, .fk, .ev, .rnd, .tal, .mcs,
            .ic, .dbg, .vl, .tkts, .handed, .replies, .cr, .pw, .doms, .chg, .fl, .sp]
  | .debugReset =>
      [.regs, .loStage, .rnd, .dbg]
  | .epochStrobe =>
      [.pm, .mr, .ep, .evr, .regs, .mem, .draw, .fab, .so, .runs, .bps, .cache, .alloc, .snaps, .ev, .rnd, .tal, .mcs, .ic, .dbg, .vl,
            .tkts, .replies, .cr, .pw, .doms, .chg]
  | .tallyReport .. =>
      [.tal]
  | .tallyAudit .. =>
      [.evr, .regs, .draw, .ev, .tal, .pw]
  | .leafRebuild .. =>
      [.evr, .regs, .draw, .ev, .tal]
  | .stampBatch .. | .roundsResponseArrival .. | .roundsTimeout .. | .outstandingEntryRelease .. =>
      [.evr, .regs, .draw, .fab, .ev, .rnd, .mcs, .dbg, .vl, .tkts, .replies]
  | .stampIdleReturn .. =>
      [.rnd]
  | .domainPowerDown .. | .domainWakeRequest .. | .bayIdlePowerDown .. | .tileIdlePowerDown .. =>
      [.pm, .regs, .doms]
  | .domainIsolation .. | .hubRailTimeout | .scratchpadStateWrite .. =>
      [.pm, .mr, .ep, .evr, .regs, .loStage, .mem, .fab, .so, .runs, .bps, .cache, .alloc, .snaps, .fk, .ev, .rnd, .tal, .mcs, .ic,
            .dbg, .vl, .tkts, .handed, .replies, .cr, .pw, .doms, .chg, .fl, .sp]
  | .mcTargetWrite .. | .microClockSwitch .. | .psLimitWrite .. | .watchdogKick .. | .lbTxConsumeRead .. | .lbRxConsumeRead ..
  | .marginMinRead .. | .modeRegisterAccess .. | .regionDisable .. | .routingSwitch | .routingTableWrite .. | .pauseFrame ..
  | .hostLinkChange .. | .handback .. =>
      [.regs]
  | .relockTimeout .. | .sweepBoundExceeded .. | .marker .. =>
      [.evr, .regs, .ev]
  | .delayMonitorSample .. | .relOpFirstStart .. | .relOpResume .. | .relOpHold .. | .releaseStageAdvance .. | .holdLiftStage ..
  | .mmpFlush .. | .mmpFlushComplete .. | .scrubRestore .. =>
      [.regs, .fab]
  | .dccWrite .. | .pmInval | .triggerWithinExpiry .. =>
      [.regs, .so]
  | .planeStepEnd .. =>
      [.mem, .fab]
  | .tickEdge .. =>
      [.evr, .regs, .mem, .draw, .fab, .runs, .ev, .rnd, .mcs, .tkts]
  | .exchangeBundleArrival .. | .designCycleBegin .. =>
      [.regs, .fab, .runs]
  | .exchangeStall .. =>
      [.evr, .regs, .fab, .ev]
  | .dclkoFall .. | .designInputSample .. | .burstTransfer .. | .inputBurst .. =>
      [.fab]
  | .mmpFillComplete .. | .mmpWritebackComplete .. =>
      [.pm, .evr, .regs, .draw, .fab, .ev, .rnd, .mcs, .doms]
  | .imageBytesArrive .. | .loadCommit .. | .compactionMoveComplete .. =>
      [.pm, .mr, .evr, .regs, .mem, .draw, .fab, .so, .runs, .bps, .cache, .alloc, .snaps, .fk, .ev, .rnd, .mcs, .ic, .dbg, .tkts, .pw,
            .doms, .fl]
  | .chunkDecrypted .. | .signatureVerifyComplete .. | .loadIntakeTimeout .. =>
      [.mr, .evr, .regs, .mem, .draw, .fab, .so, .runs, .bps, .cache, .alloc, .snaps, .fk, .ev, .rnd, .mcs, .ic, .dbg, .tkts, .pw, .fl]
  | .pageLoaderWriteAck .. =>
      [.regs, .fk, .tkts]
  | .fkUnlock .. | .unlockTimeout | .fuseKeyProg .. | .fuseProgComplete | .forbidBkey .. | .bkeyCommit .. | .bkeyErase ..
  | .imgSlotProg .. | .imgSlotRevoke .. | .fwSlotProg .. | .fwSlotRevoke .. | .vbatLoss =>
      [.regs, .fk]
  | .frameWrite .. =>
      [.regs, .mem, .fab, .dbg]
  | .scrubFrameRead .. =>
      [.evr, .regs, .mem, .draw, .fab, .ev]
  | .scrubCorrection .. =>
      [.regs, .mem, .fab]
  | .frameRestore .. | .swapFramesWritten .. | .snapshotCycle .. | .snapshotComplete .. | .ringSnapshotDue .. =>
      [.mr, .evr, .regs, .mem, .draw, .fab, .so, .runs, .bps, .cache, .alloc, .snaps, .ev, .rnd, .mcs, .ic, .dbg, .tkts, .pw]
  | .voterRepair .. =>
      [.pm, .mr, .ep, .evr, .regs]
  | .pendingOpStart .. | .runStopCycle .. =>
      [.mr, .evr, .regs, .mem, .draw, .fab, .so, .runs, .bps, .cache, .alloc, .snaps, .ev, .rnd, .mcs, .ic, .dbg, .vl, .tkts, .pw]
  | .resumeTransferComplete .. | .saveComplete .. =>
      [.pm, .mr, .evr, .regs, .mem, .draw, .fab, .so, .runs, .bps, .cache, .alloc, .snaps, .ev, .rnd, .mcs, .ic, .dbg, .tkts, .pw,
            .doms]
  | .runReleaseComplete .. =>
      [.regs, .draw, .so, .runs, .snaps, .tkts]
  | .snapshotPauseEnd .. =>
      [.regs, .fab, .runs, .snaps, .pw]
  | .triggerProbe .. =>
      [.mr, .evr, .regs, .fab, .so, .runs, .snaps, .ev, .tkts, .pw]
  | .triggerEnable .. =>
      [.evr, .regs, .so, .ev]
  | .tapExtest | .tapSamplePreload | .tapIdcode | .tapBypass .. | .tapDbgacc =>
      [.draw, .dbg]
  | .dbgaccPoll | .reservationExpiry .. =>
      [.dbg]
  | .dbgaccRead .. | .dbgaccWrite .. =>
      [.evr, .regs, .draw, .ev, .rnd, .dbg]
  | .dbgModeReq .. =>
      [.pm, .mr, .evr, .regs, .draw, .ev, .tal, .dbg, .tkts, .pw]
  | .coreHalt .. | .coreResume .. | .coreStep .. | .lbTxWrite .. | .lbRxWrite .. | .vtData .. | .vtOpen .. | .vtClose .. | .vtBreak ..
  | .vtTerminalReset .. | .vtCredit .. =>
      [.regs, .dbg]
  | .coreHaltTakesEffect .. =>
      [.regs, .draw, .dbg]
  | .coreRegdataAccess .. =>
      [.regs, .loStage, .dbg]
  | .comparatorMatch .. =>
      [.evr, .regs, .ev, .dbg]
  | .mcRequestIntake .. | .mcReadComplete .. | .retrainRelease .. | .retrainStepTimeout .. =>
      [.evr, .regs, .mem, .draw, .fab, .ev, .rnd, .mcs, .ic, .dbg]
  | .refreshDue .. =>
      [.mcs]
  | .dramTempRead .. =>
      [.pm, .mr, .evr, .regs, .fab, .runs, .ev, .tal, .pw, .chg]
  | .trainingOp .. =>
      [.pm, .mr, .ep, .evr, .regs, .mem, .mcs, .ic]
  | .trainingOpComplete .. | .delayValueWrite .. | .modeRegisterAccessComplete .. =>
      [.regs, .mcs]
  | .driftMeasure .. | .retrainIsolate .. =>
      [.regs, .so, .mcs]
  | .patrolRead .. =>
      [.evr, .regs, .draw, .ev, .mcs]
  | .spareGo .. =>
      [.evr, .regs, .ev, .mcs]
  | .migrationPieceComplete .. =>
      [.evr, .regs, .draw, .ev, .mcs, .fl]
  | .spareEnWrite .. =>
      [.mr, .evr, .regs, .mem, .draw, .fab, .so, .runs, .bps, .cache, .alloc, .snaps, .fk, .ev, .rnd, .mcs, .ic, .dbg, .vl, .tkts, .pw,
            .fl]
  | .rootKeyDrawn .. | .regionEnable .. | .regionZero .. | .icCrWrite .. =>
      [.regs, .ic]
  | .regionFillComplete .. =>
      [.evr, .regs, .mem, .ev, .mcs, .ic, .dbg]
  | .regionRekey .. =>
      [.evr, .regs, .ev, .ic]
  | .rekeySectorComplete .. =>
      [.evr, .regs, .mem, .ev, .ic, .dbg]
  | .roundsRequestInject .. =>
      [.evr, .regs, .draw, .fab, .ev, .rnd, .dbg, .vl, .tkts, .replies]
  | .packetAgeRise .. =>
      [.rnd, .mcs]
  | .returnedRequest .. | .linkNak .. =>
      [.regs, .rnd]
  | .resumeNotice .. | .linkRetrainComplete .. =>
      [.evr, .regs, .ev, .rnd]
  | .envelopeReceive .. | .accessDeferral .. =>
      [.regs, .vl, .tkts, .replies]
  | .envelopeDispatch | .echo .. | .info .. | .ready .. | .systemReset .. | .time .. | .clientClose .. | .modeGet .. | .powerGet ..
  | .designList .. | .storeList .. | .runStatus .. | .runList .. | .streamOpen .. | .streamClose .. | .updateStatus ..
  | .settingsRead .. | .logRead .. | .logStatus .. | .laneStatus .. =>
      [.vl, .tkts, .handed, .replies]
  | .ticketReclaim .. =>
      [.regs, .tkts]
  | .arpRequest .. | .neighborSolicitation .. | .icmpEcho .. =>
      [.vl]
  | .dhcpMessage .. =>
      [.mr, .regs, .vl]
  | .dhcpRenew .. =>
      [.mr, .evr, .regs, .ev, .vl]
  | .lodgeRequest .. | .lodgeArp .. | .lodgeNeighborSolicitation .. =>
      [.pm, .mr, .regs, .draw, .tal, .dbg, .vl, .pw]
  | .ticketStatus .. | .trigStatus .. =>
      [.regs, .vl, .tkts, .handed, .replies]
  | .ticketCancel .. =>
      [.mr, .evr, .regs, .mem, .draw, .fab, .so, .runs, .bps, .cache, .alloc, .snaps, .fk, .ev, .rnd, .mcs, .ic, .dbg, .vl, .tkts,
            .handed, .replies, .cr, .pw, .fl]
  | .modeSet .. =>
      [.mr, .evr, .regs, .draw, .ev, .vl, .tkts, .handed, .replies, .pw]
  | .loadBegin .. =>
      [.regs, .draw, .fk, .vl, .tkts, .handed, .replies, .fl]
  | .loadData .. =>
      [.fk, .vl, .tkts, .handed, .replies]
  | .loadEnd .. =>
      [.mr, .evr, .regs, .mem, .draw, .fab, .so, .runs, .bps, .cache, .alloc, .snaps, .fk, .ev, .rnd, .mcs, .ic, .dbg, .vl, .tkts,
            .handed, .replies, .pw, .fl]
  | .designDiscard .. | .runCreate .. | .runStart .. | .runSuspend .. | .runResume .. | .runEnd .. | .runSwap .. | .runCompact ..
  | .snapTake .. | .snapRing .. | .snapFree .. | .snapRestore .. | .snapRead .. =>
      [.mr, .evr, .regs, .mem, .draw, .fab, .so, .runs, .bps, .cache, .alloc, .snaps, .ev, .rnd, .mcs, .ic, .dbg, .vl, .tkts, .handed,
            .replies, .pw]
  | .storeErase .. | .updateBegin .. | .updateDiscard .. | .settingsWrite .. =>
      [.regs, .draw, .vl, .tkts, .handed, .replies, .fl]
  | .runSet .. =>
      [.runs, .vl, .tkts, .handed, .replies]
  | .read .. | .write .. | .readList .. | .writeList .. | .fill .. | .dbgRead .. | .dbgWrite .. | .dbgCoreHalt .. | .dbgCoreResume ..
  | .dbgCoreStep .. =>
      [.evr, .regs, .draw, .ev, .rnd, .dbg, .vl, .tkts, .handed, .replies]
  | .streamData .. =>
      [.draw, .vl, .tkts, .handed, .replies]
  | .snapLock .. =>
      [.snaps, .vl, .tkts, .handed, .replies]
  | .trigSet .. =>
      [.pm, .mr, .ep, .evr, .regs, .loStage, .fab, .so, .ev, .vl, .tkts, .handed, .replies]
  | .step .. =>
      [.regs, .draw, .fab, .so, .runs, .vl, .tkts, .handed, .replies, .pw]
  | .updateData .. =>
      [.vl, .tkts, .handed, .replies, .fl]
  | .updateEnd .. | .updateRevert .. =>
      [.regs, .vl, .tkts, .handed, .replies, .fl]
  | .logClear .. =>
      [.regs, .draw, .ev, .vl, .tkts, .handed, .replies]
  | .linkConfigOff .. | .linkConfigTrain .. | .linkConfigEnterDlp .. | .linkConfigExit .. =>
      [.pm, .regs, .draw, .vl, .tkts, .handed, .replies, .cr, .pw, .doms]
  | .laneLoopback .. =>
      [.pm, .regs, .vl, .tkts, .handed, .replies, .cr, .doms]
  | .laneRetire .. =>
      [.vl, .tkts, .handed, .replies, .cr]
  | .crCtrlTrain .. | .crCtrlEnterDlp .. | .crCtrlExit .. | .crCtrlOff .. | .dlpAck .. =>
      [.regs, .vl, .tkts, .handed, .replies, .cr, .pw]
  | .courierEgress .. | .bundleBlockReceive .. =>
      [.regs, .fab, .tkts, .cr]
  | .blockSend .. | .markerSend .. | .dlpEnter .. =>
      [.cr]
  | .codewordReceive .. =>
      [.evr, .regs, .ev, .cr]
  | .idle .. =>
      []
  | .replayReq .. | .laneFailure .. =>
      [.regs, .vl, .tkts, .handed, .replies, .cr]
  | .takeoverReq .. | .eqAck .. =>
      [.regs, .cr]
  | .takeoverAck .. =>
      [.evr, .regs, .draw, .ev, .vl, .tkts, .replies, .cr]
  | .eqReq .. =>
      [.so, .cr]
  | .dlpAckTimeout .. =>
      [.evr, .regs, .ev, .vl, .tkts, .handed, .replies, .cr, .pw]
  | .dlpExitDetect .. =>
      [.regs, .tkts, .cr]
  | .adaptationStep .. =>
      [.regs, .so, .cr]
  | .linkTrainingComplete .. =>
      [.evr, .regs, .ev, .vl, .tkts, .handed, .replies, .cr]
  | .wakeRowRetry .. =>
      [.pm, .regs, .draw, .dbg, .pw, .doms]
  | .bootHeartbeatWrite .. =>
      [.pm]
  | .wakeRetry | .wakePin | .wakePattern .. | .mpActivityWake .. | .powerGoodReturn .. =>
      [.pm, .mr, .regs, .draw, .tal, .dbg, .pw]
  | .domainFailClear .. =>
      [.pm, .mr, .regs]
  | .refCheckWindow .. =>
      [.pm, .mr, .ep, .evr, .regs, .fab, .runs, .ev, .tal, .vl, .tkts, .handed, .replies, .cr, .pw, .chg]
  | .pwrEnRestore =>
      [.pw]
  | .bootComplete =>
      [.pm, .mr, .evr, .regs, .ev, .tal, .tkts, .cr, .pw, .doms, .chg]
  | .scratchpadHandover .. | .scratchpadHandoverComplete .. =>
      [.regs, .sp]
  | .scratchpadPatrol .. =>
      [.evr, .regs, .ev, .sp]
  | .updateConfirm .. =>
      [.regs, .fl]
  | .promotionSector =>
      [.regs, .chg, .fl]
  | .flashOperationComplete =>
      [.regs, .tkts, .chg, .fl]
  | .eventIntake .. | .evFlushWrite | .logHalfEraseComplete | .logReadbackComplete .. =>
      [.evr, .ev]
  | .logFlushStart =>
      [.evr, .ev, .chg]
  | .logFlushStop =>
      [.evr, .draw, .ev]
  | .pmInvalComplete =>
      [.regs, .so, .cache]

namespace Sys2Proof.Machine
set_option Elab.async false

/-- Every command answers a next state, and changes its parts alone. -/
theorem exec_ends (c : Instr) (s : State) : Ends c.parts s (exec c s) := by
  cases c with
  | coldReset => exact execColdReset_touches ..
  | aonSupplyFail => exact execAonSupplyFail_touches ..
  | warmModuleReset => exact execWarmModuleReset_touches ..
  | debugReset => exact execDebugReset_touches ..
  | epochStrobe => exact execEpochStrobe_touches ..
  | tallyReport => exact execTallyReport_touches ..
  | tallyAudit => exact execTallyAudit_touches ..
  | leafRebuild => exact execLeafRebuild_touches ..
  | stampBatch => exact execStampBatch_touches ..
  | stampIdleReturn => exact execStampIdleReturn_touches ..
  | domainPowerDown => exact execDomainPowerDown_touches ..
  | domainIsolation => exact execDomainIsolation_touches ..
  | domainWakeRequest => exact execDomainWakeRequest_touches ..
  | bayIdlePowerDown => exact execBayIdlePowerDown_touches ..
  | tileIdlePowerDown => exact execTileIdlePowerDown_touches ..
  | heldFabricAccess => exact execHeldFabricAccess_touches ..
  | mcTargetWrite => exact execMcTargetWrite_touches ..
  | microClockSwitch => exact execMicroClockSwitch_touches ..
  | relockTimeout => exact execRelockTimeout_touches ..
  | delayMonitorSample => exact execDelayMonitorSample_touches ..
  | relOpFirstStart => exact execRelOpFirstStart_touches ..
  | relOpResume => exact execRelOpResume_touches ..
  | relOpHold => exact execRelOpHold_touches ..
  | dccWrite => exact execDccWrite_touches ..
  | releaseStageAdvance => exact execReleaseStageAdvance_touches ..
  | holdLiftStage => exact execHoldLiftStage_touches ..
  | planeStepEnd => exact execPlaneStepEnd_touches ..
  | tickEdge => exact execTickEdge_touches ..
  | exchangeBundleArrival => exact execExchangeBundleArrival_touches ..
  | designCycleBegin => exact execDesignCycleBegin_touches ..
  | exchangeStall => exact execExchangeStall_touches ..
  | dclkoFall => exact execDclkoFall_touches ..
  | designInputSample => exact execDesignInputSample_touches ..
  | burstTransfer => exact execBurstTransfer_touches ..
  | mmpFillComplete => exact execMmpFillComplete_touches ..
  | mmpWritebackComplete => exact execMmpWritebackComplete_touches ..
  | mmpFlush => exact execMmpFlush_touches ..
  | mmpFlushComplete => exact execMmpFlushComplete_touches ..
  | imageBytesArrive => exact execImageBytesArrive_touches ..
  | chunkDecrypted => exact execChunkDecrypted_touches ..
  | pageLoaderWriteAck => exact execPageLoaderWriteAck_touches ..
  | signatureVerifyComplete => exact execSignatureVerifyComplete_touches ..
  | loadCommit => exact execLoadCommit_touches ..
  | loadIntakeTimeout => exact execLoadIntakeTimeout_touches ..
  | fkUnlock => exact execFkUnlock_touches ..
  | unlockTimeout => exact execUnlockTimeout_touches ..
  | fuseKeyProg => exact execFuseKeyProg_touches ..
  | fuseProgComplete => exact execFuseProgComplete_touches ..
  | forbidBkey => exact execForbidBkey_touches ..
  | bkeyCommit => exact execBkeyCommit_touches ..
  | bkeyErase => exact execBkeyErase_touches ..
  | imgSlotProg => exact execImgSlotProg_touches ..
  | imgSlotRevoke => exact execImgSlotRevoke_touches ..
  | fwSlotProg => exact execFwSlotProg_touches ..
  | fwSlotRevoke => exact execFwSlotRevoke_touches ..
  | vbatLoss => exact execVbatLoss_touches ..
  | frameWrite => exact execFrameWrite_touches ..
  | scrubFrameRead => exact execScrubFrameRead_touches ..
  | scrubCorrection => exact execScrubCorrection_touches ..
  | frameRestore => exact execFrameRestore_touches ..
  | sweepBoundExceeded => exact execSweepBoundExceeded_touches ..
  | voterRepair => exact execVoterRepair_touches ..
  | scrubRestore => exact execScrubRestore_touches ..
  | pmInval => exact execPmInval_touches ..
  | psLimitWrite => exact execPsLimitWrite_touches ..
  | compactionMoveComplete => exact execCompactionMoveComplete_touches ..
  | pendingOpStart => exact execPendingOpStart_touches ..
  | resumeTransferComplete => exact execResumeTransferComplete_touches ..
  | runReleaseComplete => exact execRunReleaseComplete_touches ..
  | runStopCycle => exact execRunStopCycle_touches ..
  | saveComplete => exact execSaveComplete_touches ..
  | swapFramesWritten => exact execSwapFramesWritten_touches ..
  | snapshotCycle => exact execSnapshotCycle_touches ..
  | snapshotPauseEnd => exact execSnapshotPauseEnd_touches ..
  | snapshotComplete => exact execSnapshotComplete_touches ..
  | ringSnapshotDue => exact execRingSnapshotDue_touches ..
  | triggerProbe => exact execTriggerProbe_touches ..
  | triggerWithinExpiry => exact execTriggerWithinExpiry_touches ..
  | triggerEnable => exact execTriggerEnable_touches ..
  | tapExtest => exact execTapExtest_touches ..
  | tapSamplePreload => exact execTapSamplePreload_touches ..
  | tapIdcode => exact execTapIdcode_touches ..
  | tapBypass => exact execTapBypass_touches ..
  | dbgaccPoll => exact execDbgaccPoll_touches ..
  | dbgaccRead => exact execDbgaccRead_touches ..
  | dbgaccWrite => exact execDbgaccWrite_touches ..
  | debugAccessComplete => exact execDebugAccessComplete_touches ..
  | dbgModeReq => exact execDbgModeReq_touches ..
  | coreHalt => exact execCoreHalt_touches ..
  | coreResume => exact execCoreResume_touches ..
  | coreStep => exact execCoreStep_touches ..
  | coreHaltTakesEffect => exact execCoreHaltTakesEffect_touches ..
  | coreRegdataAccess => exact execCoreRegdataAccess_touches ..
  | comparatorMatch => exact execComparatorMatch_touches ..
  | reservationExpiry => exact execReservationExpiry_touches ..
  | watchdogExpiry => exact execWatchdogExpiry_touches ..
  | watchdogKick => exact execWatchdogKick_touches ..
  | lbTxWrite => exact execLbTxWrite_touches ..
  | lbTxConsumeRead => exact execLbTxConsumeRead_touches ..
  | lbRxWrite => exact execLbRxWrite_touches ..
  | lbRxConsumeRead => exact execLbRxConsumeRead_touches ..
  | marginMinRead => exact execMarginMinRead_touches ..
  | vtData => exact execVtData_touches ..
  | vtOpen => exact execVtOpen_touches ..
  | vtClose => exact execVtClose_touches ..
  | vtBreak => exact execVtBreak_touches ..
  | vtTerminalReset => exact execVtTerminalReset_touches ..
  | vtCredit => exact execVtCredit_touches ..
  | mcRequestIntake => exact execMcRequestIntake_touches ..
  | mcReadComplete => exact execMcReadComplete_touches ..
  | refreshDue => exact execRefreshDue_touches ..
  | dramTempRead => exact execDramTempRead_touches ..
  | trainingOp => exact execTrainingOp_touches ..
  | trainingOpComplete => exact execTrainingOpComplete_touches ..
  | delayValueWrite => exact execDelayValueWrite_touches ..
  | modeRegisterAccess => exact execModeRegisterAccess_touches ..
  | driftMeasure => exact execDriftMeasure_touches ..
  | retrainIsolate => exact execRetrainIsolate_touches ..
  | retrainRelease => exact execRetrainRelease_touches ..
  | retrainStepTimeout => exact execRetrainStepTimeout_touches ..
  | patrolRead => exact execPatrolRead_touches ..
  | spareGo => exact execSpareGo_touches ..
  | migrationPieceComplete => exact execMigrationPieceComplete_touches ..
  | spareEnWrite => exact execSpareEnWrite_touches ..
  | rootKeyDrawn => exact execRootKeyDrawn_touches ..
  | regionEnable => exact execRegionEnable_touches ..
  | regionDisable => exact execRegionDisable_touches ..
  | regionZero => exact execRegionZero_touches ..
  | regionFillComplete => exact execRegionFillComplete_touches ..
  | regionRekey => exact execRegionRekey_touches ..
  | rekeySectorComplete => exact execRekeySectorComplete_touches ..
  | icCrWrite => exact execIcCrWrite_touches ..
  | roundsRequestInject => exact execRoundsRequestInject_touches ..
  | roundsRequestArrival => exact execRoundsRequestArrival_touches ..
  | roundsResponseArrival => exact execRoundsResponseArrival_touches ..
  | roundsTimeout => exact execRoundsTimeout_touches ..
  | outstandingEntryRelease => exact execOutstandingEntryRelease_touches ..
  | packetAgeRise => exact execPacketAgeRise_touches ..
  | routingSwitch => exact execRoutingSwitch_touches ..
  | routingTableWrite => exact execRoutingTableWrite_touches ..
  | returnedRequest => exact execReturnedRequest_touches ..
  | resumeNotice => exact execResumeNotice_touches ..
  | linkNak => exact execLinkNak_touches ..
  | linkRetrainComplete => exact execLinkRetrainComplete_touches ..
  | envelopeReceive => exact execEnvelopeReceive_touches ..
  | envelopeDispatch => exact execEnvelopeDispatch_touches ..
  | replySent => exact execReplySent_touches ..
  | accessDeferral => exact execAccessDeferral_touches ..
  | ticketReclaim => exact execTicketReclaim_touches ..
  | pauseFrame => exact execPauseFrame_touches ..
  | arpRequest => exact execArpRequest_touches ..
  | neighborSolicitation => exact execNeighborSolicitation_touches ..
  | icmpEcho => exact execIcmpEcho_touches ..
  | dhcpMessage => exact execDhcpMessage_touches ..
  | dhcpRenew => exact execDhcpRenew_touches ..
  | hostLinkChange => exact execHostLinkChange_touches ..
  | streamDelivery => exact execStreamDelivery_touches ..
  | lodgeRequest => exact execLodgeRequest_touches ..
  | lodgeArp => exact execLodgeArp_touches ..
  | lodgeNeighborSolicitation => exact execLodgeNeighborSolicitation_touches ..
  | echo => exact execEcho_touches ..
  | info => exact execInfo_touches ..
  | ready => exact execReady_touches ..
  | ticketStatus => exact execTicketStatus_touches ..
  | ticketCancel => exact execTicketCancel_touches ..
  | systemReset => exact execSystemReset_touches ..
  | time => exact execTime_touches ..
  | clientClose => exact execClientClose_touches ..
  | modeGet => exact execModeGet_touches ..
  | modeSet => exact execModeSet_touches ..
  | powerGet => exact execPowerGet_touches ..
  | loadBegin => exact execLoadBegin_touches ..
  | loadData => exact execLoadData_touches ..
  | loadEnd => exact execLoadEnd_touches ..
  | designList => exact execDesignList_touches ..
  | designDiscard => exact execDesignDiscard_touches ..
  | storeList => exact execStoreList_touches ..
  | storeErase => exact execStoreErase_touches ..
  | runCreate => exact execRunCreate_touches ..
  | runStart => exact execRunStart_touches ..
  | runSuspend => exact execRunSuspend_touches ..
  | runResume => exact execRunResume_touches ..
  | runEnd => exact execRunEnd_touches ..
  | runSwap => exact execRunSwap_touches ..
  | runCompact => exact execRunCompact_touches ..
  | runStatus => exact execRunStatus_touches ..
  | runSet => exact execRunSet_touches ..
  | runList => exact execRunList_touches ..
  | read => exact execRead_touches ..
  | write => exact execWrite_touches ..
  | readList => exact execReadList_touches ..
  | writeList => exact execWriteList_touches ..
  | fill => exact execFill_touches ..
  | streamOpen => exact execStreamOpen_touches ..
  | streamClose => exact execStreamClose_touches ..
  | streamData => exact execStreamData_touches ..
  | streamRead => exact execStreamRead_touches ..
  | streamStatus => exact execStreamStatus_touches ..
  | snapTake => exact execSnapTake_touches ..
  | snapRing => exact execSnapRing_touches ..
  | snapLock => exact execSnapLock_touches ..
  | snapFree => exact execSnapFree_touches ..
  | snapRestore => exact execSnapRestore_touches ..
  | snapRead => exact execSnapRead_touches ..
  | trigSet => exact execTrigSet_touches ..
  | trigStatus => exact execTrigStatus_touches ..
  | step => exact execStep_touches ..
  | updateBegin => exact execUpdateBegin_touches ..
  | updateData => exact execUpdateData_touches ..
  | updateEnd => exact execUpdateEnd_touches ..
  | updateStatus => exact execUpdateStatus_touches ..
  | updateDiscard => exact execUpdateDiscard_touches ..
  | updateRevert => exact execUpdateRevert_touches ..
  | settingsRead => exact execSettingsRead_touches ..
  | settingsWrite => exact execSettingsWrite_touches ..
  | logRead => exact execLogRead_touches ..
  | logClear => exact execLogClear_touches ..
  | logStatus => exact execLogStatus_touches ..
  | laneStatus => exact execLaneStatus_touches ..
  | linkConfigOff => exact execLinkConfigOff_touches ..
  | linkConfigTrain => exact execLinkConfigTrain_touches ..
  | linkConfigEnterDlp => exact execLinkConfigEnterDlp_touches ..
  | linkConfigExit => exact execLinkConfigExit_touches ..
  | laneLoopback => exact execLaneLoopback_touches ..
  | laneRetire => exact execLaneRetire_touches ..
  | dbgRead => exact execDbgRead_touches ..
  | dbgWrite => exact execDbgWrite_touches ..
  | dbgCoreHalt => exact execDbgCoreHalt_touches ..
  | dbgCoreResume => exact execDbgCoreResume_touches ..
  | dbgCoreStep => exact execDbgCoreStep_touches ..
  | crCtrlTrain => exact execCrCtrlTrain_touches ..
  | crCtrlEnterDlp => exact execCrCtrlEnterDlp_touches ..
  | crCtrlExit => exact execCrCtrlExit_touches ..
  | crCtrlOff => exact execCrCtrlOff_touches ..
  | courierEgress => exact execCourierEgress_touches ..
  | blockSend => exact execBlockSend_touches ..
  | markerSend => exact execMarkerSend_touches ..
  | codewordReceive => exact execCodewordReceive_touches ..
  | bundleBlockReceive => exact execBundleBlockReceive_touches ..
  | idle n g => exact execIdle_touches n g s
  | marker => exact execMarker_touches ..
  | replayReq => exact execReplayReq_touches ..
  | takeoverReq => exact execTakeoverReq_touches ..
  | takeoverAck => exact execTakeoverAck_touches ..
  | handback => exact execHandback_touches ..
  | eqReq => exact execEqReq_touches ..
  | eqAck => exact execEqAck_touches ..
  | dlpEnter => exact execDlpEnter_touches ..
  | dlpAck => exact execDlpAck_touches ..
  | dlpAckTimeout => exact execDlpAckTimeout_touches ..
  | dlpExitDetect => exact execDlpExitDetect_touches ..
  | laneFailure => exact execLaneFailure_touches ..
  | adaptationStep => exact execAdaptationStep_touches ..
  | linkTrainingComplete => exact execLinkTrainingComplete_touches ..
  | wakeRowCheck => exact execWakeRowCheck_touches ..
  | wakeRowRetry => exact execWakeRowRetry_touches ..
  | bootHeartbeatWrite => exact execBootHeartbeatWrite_touches ..
  | wakeRetry => exact execWakeRetry_touches ..
  | domainFailClear => exact execDomainFailClear_touches ..
  | refCheckWindow => exact execRefCheckWindow_touches ..
  | powerGoodLoss => exact execPowerGoodLoss_touches ..
  | pmbusPoll => exact execPmbusPoll_touches ..
  | pmbusAlert => exact execPmbusAlert_touches ..
  | thermalRead => exact execThermalRead_touches ..
  | hubRailTimeout => exact execHubRailTimeout_touches ..
  | pwrEnRestore => exact execPwrEnRestore_touches ..
  | safeHoldAutoReset => exact execSafeHoldAutoReset_touches ..
  | modeChangeStart => exact execModeChangeStart_touches ..
  | modeChangeComplete => exact execModeChangeComplete_touches ..
  | bootComplete => exact execBootComplete_touches ..
  | bootTimeout => exact execBootTimeout_touches ..
  | wakePin => exact execWakePin_touches ..
  | wakePattern => exact execWakePattern_touches ..
  | mpActivityWake => exact execMpActivityWake_touches ..
  | scratchpadStateWrite => exact execScratchpadStateWrite_touches ..
  | scratchpadHandover => exact execScratchpadHandover_touches ..
  | scratchpadZeroComplete => exact execScratchpadZeroComplete_touches ..
  | scratchpadPatrol => exact execScratchpadPatrol_touches ..
  | updateConfirm => exact execUpdateConfirm_touches ..
  | confirmTimeout => exact execConfirmTimeout_touches ..
  | promotionSector => exact execPromotionSector_touches ..
  | flashOperationComplete => exact execFlashOperationComplete_touches ..
  | eventIntake => exact execEventIntake_touches ..
  | evFlushWrite => exact execEvFlushWrite_touches ..
  | logFlushStart => exact execLogFlushStart_touches ..
  | logFlushComplete => exact execLogFlushComplete_touches ..
  | logFlushStop => exact execLogFlushStop_touches ..
  | logHalfEraseComplete => exact execLogHalfEraseComplete_touches ..
  | logReadbackComplete => exact execLogReadbackComplete_touches ..
  | registerWrite => exact execRegisterWrite_touches ..
  | tapDbgacc => exact execTapDbgacc_touches ..
  | inputBurst => exact execInputBurst_touches ..
  | powerGoodReturn => exact execPowerGoodReturn_touches ..
  | flushWaitTimeout => exact execFlushWaitTimeout_touches ..
  | scratchpadHandoverComplete => exact execScratchpadHandoverComplete_touches ..
  | pmInvalComplete => exact execPmInvalComplete_touches ..
  | modeRegisterAccessComplete => exact execModeRegisterAccessComplete_touches ..

/-! ### What a footprint leaves -/

/-- The state `t` in the parts `P`, and `s` in every other. -/
def State.blend (P : List Part) (s t : State) : State :=
  { pending := s.pending
    regs := bif P.elem .regs then t.regs else s.regs
    loStage := bif P.elem .loStage then t.loStage else s.loStage
    mem := bif P.elem .mem then t.mem else s.mem
    draw := bif P.elem .draw then t.draw else s.draw
    fab := bif P.elem .fab then t.fab else s.fab
    so := { bif P.elem .so then t.so else s.so with
      runs := bif P.elem .runs then t.so.runs else s.so.runs
      bps := bif P.elem .bps then t.so.bps else s.so.bps
      pmCache := bif P.elem .cache then t.so.pmCache else s.so.pmCache
      pmAlloc := bif P.elem .alloc then t.so.pmAlloc else s.so.pmAlloc
      snaps := bif P.elem .snaps then t.so.snaps else s.so.snaps }
    fk := bif P.elem .fk then t.fk else s.fk
    ev := bif P.elem .ev then t.ev else s.ev
    rnd := bif P.elem .rnd then t.rnd else s.rnd
    tal := bif P.elem .tal then t.tal else s.tal
    mcs := bif P.elem .mcs then t.mcs else s.mcs
    ic := bif P.elem .ic then t.ic else s.ic
    dbg := bif P.elem .dbg then t.dbg else s.dbg
    vl := { bif P.elem .vl then t.vl else s.vl with
      tickets := bif P.elem .tkts then t.vl.tickets else s.vl.tickets
      handed := bif P.elem .handed then t.vl.handed else s.vl.handed
      replies := bif P.elem .replies then t.vl.replies else s.vl.replies }
    cr := bif P.elem .cr then t.cr else s.cr
    pw := { bif P.elem .pw then t.pw else s.pw with
      doms := bif P.elem .doms then t.pw.doms else s.pw.doms
      chg := bif P.elem .chg then t.pw.chg else s.pw.chg }
    fl := bif P.elem .fl then t.fl else s.fl
    sp := bif P.elem .sp then t.sp else s.sp }

@[simp] theorem bif_keepOr {α : Type} (P : List Part) (p : Part) (v w d : α) :
    (bif P.elem p then w else keepOr P p v d) = bif P.elem p then w else v := by
  unfold keepOr
  cases P.elem p <;> rfl

theorem keptRegs_eq_self {P : List Part} (hregs : ∀ p ∈ Part.registers, p ∉ P) (m : SMap Word) : keptRegs P m = m :=
  List.filter_eq_self.mpr fun e _ => by simpa using hregs _ (regPart_mem e.1)

theorem State.blend_self (P : List Part) (s : State) : s.blend P s = s := by simp [State.blend]

/-- A blend reads of its first state only what the mask leaves. -/
theorem State.blend_mask {P : List Part} (hregs : ∀ p ∈ Part.registers, p ∈ P → Part.regs ∈ P) (s t : State) : (s.mask
      P).blend P t = s.blend P t := by
  simp only [State.blend, State.mask, bif_keepOr, State.mk.injEq, true_and, and_true]
  refine ⟨?regs, ?so, ?vl, ?pw⟩
  case regs =>
    by_cases hr : Part.regs ∈ P
    · simp [hr]
    · simp [hr, keptRegs_eq_self fun p hp hP => hr (hregs p hp hP)]
  case so => by_cases hp : Part.so ∈ P <;> simp [keepOr, hp]
  case vl => by_cases hp : Part.vl ∈ P <;> simp [keepOr, hp]
  case pw => by_cases hp : Part.pw ∈ P <;> simp [keepOr, hp]

/-- A step that touches a footprint's parts alone takes nothing else from the state after it. -/
theorem Touches.eq_blend {P : List Part} {s t : State} (h : Touches P s t) (hregs : ∀ p ∈ Part.registers, p ∈ P → Part.regs ∈ P) :
    t = s.blend P t := by
  calc t = t.blend P t := (t.blend_self P).symm
    _ = (t.mask P).blend P t := (State.blend_mask hregs t t).symm
    _ = (s.mask P).blend P t := by rw [h.mask]
    _ = s.blend P t := State.blend_mask hregs s t

theorem Touches.pending_eq {P : List Part} {s t : State} (h : Touches P s t) : t.pending = s.pending := by
  have hp : (t.mask P).pending = (s.mask P).pending := by rw [h.mask]
  exact hp

theorem Touches.mem_eq {P : List Part} {s t : State} (h : Touches P s t) (hP : Part.mem ∉ P) : t.mem = s.mem := by
  simpa [State.mask, keepOr, hP] using congrArg State.mem h.mask

/-- A command changes no more of the state than a footprint that holds its parts. -/
theorem Instr.onlyChanges_blend (P : List Part) {c : Instr} (hregs : Part.registers.all (fun p => !P.elem p || P.elem .regs) = true)
    (hsub : c.parts.all (fun p => P.elem p) = true) : OnlyChanges (State.blend P) c := by
  intro s t hst
  obtain ⟨t', ht', hP⟩ := exec_ends c s
  obtain rfl : t' = t := by simpa [ht'] using hst
  have hsub' : c.parts ⊆ P := fun p hp => by simpa using List.all_eq_true.mp hsub p hp
  exact (hP.mono hsub').eq_blend (by simpa [imp_iff_not_or] using hregs)

/-- A register outside a footprint reads as before. -/
theorem Touches.rd_eq {P : List Part} {s t : State} (h : Touches P s t) (r : Reg) (hr : regPart r.addr ∉ P) : t.rd r = s.rd r := by
  have hk : keptRegs P t.regs = keptRegs P s.regs := congrArg State.regs h.mask
  have hfind : ∀ m : SMap Word, SMap.find (keptRegs P m) r.addr = SMap.find m r.addr := fun m => by
    rw [keptRegs, SMap.find_filter_key m r.addr (fun a => !P.elem (regPart a))]
    simp [hr]
  unfold State.rd SMap.get
  rw [← hfind t.regs, hk, hfind]

end Sys2Proof.Machine
end

