-- ==== Sys2Proof/Proofs/Safety.lean ====
section
/-!
PROOF. The obligations that hold of every command: O54 to O58 and O60.
-/
namespace Sys2Proof.Proofs
open Sys2Proof Sys2Proof.Machine

/-- Settles O54: every command ends in a next state. -/
theorem everyCommandCompletes : Obligations.EveryCommandCompletes := fun c s =>
  (exec_ends c s).imp fun _ h => h.1

/-- A step keeps what a footprint keeps: memory's form, the fuses, the rest of the queue. -/
theorem step_touches {s t : State} (h : step s = .next t) :
    ∃ P, Touches P { s with pending := s.pending.tail } t := by
  unfold step at h
  split at h
  next hp =>
    obtain rfl : s = t := by simpa using h
    refine ⟨[], ?_⟩
    have hs : ({ s with pending := s.pending.tail } : State) = s := by rw [hp, List.tail_nil, ← hp]
    rw [hs]
    exact .refl
  next c cs hp =>
    obtain ⟨t', ht', hP⟩ := exec_ends c { s with pending := cs }
    obtain rfl : t' = t := by simpa [ht'] using h
    exact ⟨c.parts, by simpa [hp] using hP⟩

/-- Settles O55: no command's footprint disturbs the canonical form. -/
theorem memoryStaysCanonical : Obligations.MemoryStaysCanonical := by
  intro s t hs h
  obtain ⟨P, hP⟩ := step_touches h
  exact hP.mem hs

/-- Settles O56: programmed fuses are kept, and none is programmed over, by every footprint. -/
theorem fusesNeverChange : Obligations.FusesNeverChange := by
  intro s t hs h
  obtain ⟨P, hP⟩ := step_touches h
  exact hP.fuses hs

/-- Settles O57: the queue is part of no footprint. -/
theorem queueLosesOnlyItsFront : Obligations.QueueLosesOnlyItsFront := by
  intro s t h
  obtain ⟨P, hP⟩ := step_touches h
  exact hP.pending_eq

/-- Only the storing commands have memory among their parts. -/
theorem mayStore_or_notMem_parts (c : Instr) : (c.mayStore || !c.parts.elem .mem) = true := by
  cases c <;> rfl

/-- Settles O58: memory is no part of the other commands. -/
theorem storingCommandsAlone : Obligations.StoringCommandsAlone := by
  intro c s t hc h
  obtain ⟨t', ht', hP⟩ := exec_ends c s
  obtain rfl : t' = t := by simpa [ht'] using h
  have hm : t'.mem = s.mem := hP.mem_eq (by simpa [hc] using mayStore_or_notMem_parts c)
  exact ⟨hm, fun a => by unfold State.byte; rw [hm]⟩

/-- Settles O60: each group's parts hold the parts of its commands. -/
theorem portCommandsFrame : Obligations.PortCommandsFrame := by
  unfold Obligations.PortCommandsFrame
  refine ⟨?g0, ?g1, ?g2, ?g3, ?g4, ?g5, ?g6, ?g7, ?g8, ?g9, ?g10, ?g11, ?g12, ?g13, ?g14, ?g15, ?g16, ?g17, ?g18, ?g19, ?g20, ?g21,
        ?g22, ?g23, ?g24, ?g25, ?g26, ?g27⟩
  case g0 =>
    have h {c : Instr} := Instr.onlyChanges_blend [.vl, .tkts, .handed, .replies] (c := c) rfl
    exact ⟨fun _ => h rfl, fun _ => h rfl, h rfl, fun _ _ => h rfl, fun _ _ => h rfl, fun _ _ _ => h rfl, fun _ => h rfl, fun _ => h
          rfl,
          fun
          _ =>
          h rfl,
          fun
          _ =>
          h rfl,
          fun
          _ =>
          h rfl,
          fun
          _ =>
          h rfl,
          fun
          _ =>
          h rfl,
          fun
          _ => h rfl, fun _ => h rfl, fun _ => h rfl, fun _ => h rfl, fun _ => h rfl, fun _ => h rfl, fun _ => h rfl, fun _ => h rfl⟩
  case g1 =>
    have h {c : Instr} := Instr.onlyChanges_blend [.draw, .vl, .tkts, .handed, .replies] (c := c) rfl
    exact fun _ => h rfl
  case g2 =>
    have h {c : Instr} := Instr.onlyChanges_blend [.fk, .vl, .tkts, .handed, .replies] (c := c) rfl
    exact fun _ => h rfl
  case g3 =>
    have h {c : Instr} := Instr.onlyChanges_blend [.pm, .mr, .ep, .evr, .regs, .vl, .tkts, .handed, .replies] (c := c) rfl
    exact ⟨fun _ => h rfl, fun _ => h rfl, fun _ => h rfl, fun _ _ => h rfl, fun _ => h rfl⟩
  case g4 =>
    have h {c : Instr} := Instr.onlyChanges_blend [.so, .runs, .bps, .cache, .alloc, .snaps, .vl, .tkts, .handed, .replies] (c := c) rfl
    exact ⟨fun _ => h rfl, fun _ => h rfl⟩
  case g5 =>
    have h {c : Instr} := Instr.onlyChanges_blend [.vl, .tkts, .handed, .replies, .cr] (c := c) rfl
    exact fun _ => h rfl
  case g6 =>
    have h {c : Instr} := Instr.onlyChanges_blend [.vl, .tkts, .handed, .replies, .fl] (c := c) rfl
    exact fun _ => h rfl
  case g7 =>
    have h {c : Instr} := Instr.onlyChanges_blend [.pm, .mr, .ep, .evr, .regs, .ev, .vl, .tkts, .handed, .replies] (c := c) rfl
    exact fun _ _ => h rfl
  case g8 =>
    have h {c : Instr} := Instr.onlyChanges_blend [.pm, .mr, .ep, .evr, .regs, .fk, .vl, .tkts, .handed, .replies] (c := c) rfl
    exact fun _ _ => h rfl
  case g9 =>
    have h {c : Instr} := Instr.onlyChanges_blend [.pm, .mr, .ep, .evr, .regs, .vl, .tkts, .handed, .replies, .cr] (c := c) rfl
    exact ⟨fun _ => h rfl, fun _ _ _ => h rfl⟩
  case g10 =>
    have h {c : Instr} := Instr.onlyChanges_blend [.pm, .mr, .ep, .evr, .regs, .vl, .tkts, .handed, .replies, .fl] (c := c) rfl
    exact ⟨fun _ => h rfl, fun _ => h rfl⟩
  case g11 =>
    have h {c : Instr} := Instr.onlyChanges_blend [.pm, .mr, .ep, .evr, .regs, .draw, .ev, .vl, .tkts, .handed, .replies] (c := c) rfl
    exact fun _ => h rfl
  case g12 =>
    have h {c : Instr} := Instr.onlyChanges_blend [.pm, .mr, .ep, .evr, .regs, .draw, .so, .runs, .bps, .cache, .alloc, .snaps, .vl,
          .tkts, .handed, .replies] (c := c) rfl
    exact fun _ => h rfl
  case g13 =>
    have h {c : Instr} := Instr.onlyChanges_blend [.pm, .mr, .ep, .evr, .regs, .draw, .vl, .tkts, .handed, .replies, .fl] (c := c) rfl
    exact ⟨fun _ => h rfl, fun _ => h rfl, fun _ => h rfl, fun _ => h rfl⟩
  case g14 =>
    have h {c : Instr} := Instr.onlyChanges_blend [.pm, .mr, .ep, .evr, .regs, .ev, .vl, .tkts, .handed, .replies, .cr] (c := c) rfl
    exact fun _ _ _ => h rfl
  case g15 =>
    have h {c : Instr} := Instr.onlyChanges_blend [.pm, .mr, .ep, .evr, .regs, .fab, .vl, .tkts, .handed, .replies, .cr] (c := c) rfl
    exact ⟨fun _ => h rfl, fun _ _ _ _ => h rfl⟩
  case g16 =>
    have h {c : Instr} := Instr.onlyChanges_blend [.pm, .mr, .ep, .evr, .regs, .vl, .tkts, .handed, .replies, .cr, .pw, .doms, .chg] (c
          := c) rfl
    exact ⟨fun _ => h rfl, fun _ => h rfl, fun _ => h rfl, fun _ => h rfl, fun _ _ => h rfl, fun _ => h rfl⟩
  case g17 =>
    have h {c : Instr} := Instr.onlyChanges_blend [.pm, .mr, .ep, .evr, .regs, .vl, .tkts, .handed, .replies, .pw, .doms, .chg, .fl] (c
          := c) rfl
    exact h rfl
  case g18 =>
    have h {c : Instr} := Instr.onlyChanges_blend [.pm, .mr, .ep, .evr, .regs, .draw, .ev, .vl, .tkts, .handed, .replies, .cr] (c :=
          c) rfl
    exact ⟨fun _ _ _ _ _ _ => h rfl, fun _ _ _ _ => h rfl⟩
  case g19 =>
    have h {c : Instr} := Instr.onlyChanges_blend [.pm, .mr, .ep, .evr, .regs, .draw, .ev, .vl, .tkts, .handed, .replies, .pw, .doms,
          .chg] (c := c) rfl
    exact fun _ => h rfl
  case g20 =>
    have h {c : Instr} := Instr.onlyChanges_blend [.pm, .mr, .ep, .evr, .regs, .draw, .fk, .vl, .tkts, .handed, .replies, .fl] (c :=
          c) rfl
    exact fun _ => h rfl
  case g21 =>
    have h {c : Instr} := Instr.onlyChanges_blend [.pm, .mr, .ep, .evr, .regs, .draw, .vl, .tkts, .handed, .replies, .cr, .pw, .doms,
          .chg] (c := c) rfl
    exact ⟨fun _ => h rfl, fun _ => h rfl, fun _ => h rfl, fun _ => h rfl⟩
  case g22 =>
    have h {c : Instr} := Instr.onlyChanges_blend [.pm, .mr, .ep, .evr, .regs, .ev, .vl, .tkts, .handed, .replies, .cr, .pw, .doms,
          .chg] (c := c) rfl
    exact fun _ => h rfl
  case g23 =>
    have h {c : Instr} := Instr.onlyChanges_blend [.pm, .mr, .ep, .evr, .regs, .draw, .fab, .so, .runs, .bps, .cache, .alloc, .snaps,
          .vl, .tkts, .handed, .replies, .pw, .doms, .chg] (c := c) rfl
    exact fun _ => h rfl
  case g24 =>
    have h {c : Instr} := Instr.onlyChanges_blend [.pm, .mr, .ep, .evr, .regs, .draw, .tal, .dbg, .vl, .tkts, .handed, .replies, .pw,
          .doms, .chg] (c := c) rfl
    exact ⟨fun _ => h rfl, fun _ => h rfl, fun _ => h rfl⟩
  case g25 =>
    have h {c : Instr} := Instr.onlyChanges_blend [.pm, .mr, .ep, .evr, .regs, .ev, .tal, .vl, .tkts, .handed, .replies, .cr, .pw,
          .doms, .chg] (c := c) rfl
    exact h rfl
  case g26 =>
    have h {c : Instr} := Instr.onlyChanges_blend [.pm, .mr, .ep, .evr, .regs, .loStage, .fab, .so, .runs, .bps, .cache, .alloc, .snaps,
          .ev, .vl, .tkts, .handed, .replies] (c := c) rfl
    exact fun _ => h rfl
  case g27 =>
    have h {c : Instr} := Instr.onlyChanges_blend [.pm, .mr, .ep, .evr, .regs, .loStage, .draw, .ev, .rnd, .tal, .dbg, .vl, .tkts,
          .handed, .replies, .pw, .doms, .chg] (c := c) rfl
    exact ⟨fun _ => h rfl, fun _ => h rfl, fun _ => h rfl⟩

end Sys2Proof.Proofs
end

