-- ==== Sys2Proof/Proofs/Reads.lean ====
section
set_option Elab.async false
/-!
PROOF. What a read of the state gives after an operation: what an event and a domain's record leave, and the registers, fields
and bytes behind an operation that does not write them.
-/
namespace Sys2Proof.Machine

theorem State.when_of (s t : State) {c : Bool} (h : c = true) : s.when c t = .next t := by rw [h, State.when_true]
theorem State.when_not (s t : State) {c : Bool} (h : c = false) : s.when c t = .next s := by rw [h, State.when_false]

/-- Work repeated over a list that establishes `Q` at one of its elements, and keeps it there and at every other. -/
theorem State.each_establishes {α : Type} (P Q : State → Prop) (f : State → α → State) (x : α) (xs : List α) (s : State) (hx : x ∈ xs)
    (hP : ∀ t y, y ∈ xs → P t → P (f t y)) (hQx : ∀ t, P t → Q (f t x)) (hQ : ∀ t y, y ∈ xs → P t → Q t → Q (f t y)) (hs : P s) :
    Q (s.each xs f) := by
  induction xs generalizing s with
  | nil => cases hx
  | cons y ys ih =>
    have hP' : ∀ t z, z ∈ ys → P t → P (f t z) := fun t z hz => hP t z (List.mem_cons_of_mem _ hz)
    have hQ' : ∀ t z, z ∈ ys → P t → Q t → Q (f t z) := fun t z hz => hQ t z (List.mem_cons_of_mem _ hz)
    have hy : P (f s y) := hP s y List.mem_cons_self hs
    rw [State.each_cons]
    rcases List.mem_cons.mp hx with rfl | hmem
    · exact (State.each_keeps (fun t => P t ∧ Q t) f ys _ (fun t z hz ht => ⟨hP' t z hz ht.1, hQ' t z hz ht.1 ht.2⟩)
        ⟨hy, hQx s hs⟩).2
    · exact ih _ hmem hP' hQ' hy

/-! ### Parts that a footprint leaves -/

theorem Touches.loStage_eq {P : List Part} {s t : State} (h : Touches P s t) (hP : Part.loStage ∉ P := by decide) : t.loStage = s.loStage := by
  simpa [State.mask, keepOr, hP] using congrArg State.loStage h.mask
theorem Touches.draw_eq {P : List Part} {s t : State} (h : Touches P s t) (hP : Part.draw ∉ P := by decide) : t.draw = s.draw := by
  simpa [State.mask, keepOr, hP] using congrArg State.draw h.mask
theorem Touches.fab_eq {P : List Part} {s t : State} (h : Touches P s t) (hP : Part.fab ∉ P := by decide) : t.fab = s.fab := by
  simpa [State.mask, keepOr, hP] using congrArg State.fab h.mask
theorem Touches.fk_eq {P : List Part} {s t : State} (h : Touches P s t) (hP : Part.fk ∉ P := by decide) : t.fk = s.fk := by
  simpa [State.mask, keepOr, hP] using congrArg State.fk h.mask
theorem Touches.ev_eq {P : List Part} {s t : State} (h : Touches P s t) (hP : Part.ev ∉ P := by decide) : t.ev = s.ev := by
  simpa [State.mask, keepOr, hP] using congrArg State.ev h.mask
theorem Touches.rnd_eq {P : List Part} {s t : State} (h : Touches P s t) (hP : Part.rnd ∉ P := by decide) : t.rnd = s.rnd := by
  simpa [State.mask, keepOr, hP] using congrArg State.rnd h.mask
theorem Touches.tal_eq {P : List Part} {s t : State} (h : Touches P s t) (hP : Part.tal ∉ P := by decide) : t.tal = s.tal := by
  simpa [State.mask, keepOr, hP] using congrArg State.tal h.mask
theorem Touches.mcs_eq {P : List Part} {s t : State} (h : Touches P s t) (hP : Part.mcs ∉ P := by decide) : t.mcs = s.mcs := by
  simpa [State.mask, keepOr, hP] using congrArg State.mcs h.mask
theorem Touches.ic_eq {P : List Part} {s t : State} (h : Touches P s t) (hP : Part.ic ∉ P := by decide) : t.ic = s.ic := by
  simpa [State.mask, keepOr, hP] using congrArg State.ic h.mask
theorem Touches.dbg_eq {P : List Part} {s t : State} (h : Touches P s t) (hP : Part.dbg ∉ P := by decide) : t.dbg = s.dbg := by
  simpa [State.mask, keepOr, hP] using congrArg State.dbg h.mask
theorem Touches.cr_eq {P : List Part} {s t : State} (h : Touches P s t) (hP : Part.cr ∉ P := by decide) : t.cr = s.cr := by
  simpa [State.mask, keepOr, hP] using congrArg State.cr h.mask
theorem Touches.fl_eq {P : List Part} {s t : State} (h : Touches P s t) (hP : Part.fl ∉ P := by decide) : t.fl = s.fl := by
  simpa [State.mask, keepOr, hP] using congrArg State.fl h.mask
theorem Touches.sp_eq {P : List Part} {s t : State} (h : Touches P s t) (hP : Part.sp ∉ P := by decide) : t.sp = s.sp := by
  simpa [State.mask, keepOr, hP] using congrArg State.sp h.mask
theorem Touches.bps_eq {P : List Part} {s t : State} (h : Touches P s t) (hP : Part.bps ∉ P := by decide) : t.so.bps = s.so.bps := by
  simpa [State.mask, keepOr, hP] using congrArg (fun u => u.so.bps) h.mask
theorem Touches.runs_eq {P : List Part} {s t : State} (h : Touches P s t) (hP : Part.runs ∉ P := by decide) : t.so.runs = s.so.runs := by
  simpa [State.mask, keepOr, hP] using congrArg (fun u => u.so.runs) h.mask
theorem Touches.snaps_eq {P : List Part} {s t : State} (h : Touches P s t) (hP : Part.snaps ∉ P := by decide) :
    t.so.snaps = s.so.snaps := by
  simpa [State.mask, keepOr, hP] using congrArg (fun u => u.so.snaps) h.mask
theorem Touches.handed_eq {P : List Part} {s t : State} (h : Touches P s t) (hP : Part.handed ∉ P := by decide) :
    t.vl.handed = s.vl.handed := by
  simpa [State.mask, keepOr, hP] using congrArg (fun u => u.vl.handed) h.mask
theorem Touches.replies_eq {P : List Part} {s t : State} (h : Touches P s t) (hP : Part.replies ∉ P := by decide) :
    t.vl.replies = s.vl.replies := by
  simpa [State.mask, keepOr, hP] using congrArg (fun u => u.vl.replies) h.mask
theorem Touches.tickets_eq {P : List Part} {s t : State} (h : Touches P s t) (hP : Part.tkts ∉ P := by decide) :
    t.vl.tickets = s.vl.tickets := by
  simpa [State.mask, keepOr, hP] using congrArg (fun u => u.vl.tickets) h.mask
theorem Touches.doms_eq {P : List Part} {s t : State} (h : Touches P s t) (hP : Part.doms ∉ P := by decide) :
    t.pw.doms = s.pw.doms := by
  simpa [State.mask, keepOr, hP] using congrArg (fun u => u.pw.doms) h.mask
theorem Touches.chg_eq {P : List Part} {s t : State} (h : Touches P s t) (hP : Part.chg ∉ P := by decide) : t.pw.chg = s.pw.chg := by
  simpa [State.mask, keepOr, hP] using congrArg (fun u => u.pw.chg) h.mask
theorem Touches.so_eq {P : List Part} {s t : State} (h : Touches P s t)
    (hP : P.all (fun p => !([.so, .runs, .bps, .cache, .alloc, .snaps] : List Part).elem p) = true := by decide) : t.so = s.so := by
  have hn : ∀ p ∈ ([.so, .runs, .bps, .cache, .alloc, .snaps] : List Part), p ∉ P := fun p hp hq => by
    simpa [hp] using List.all_eq_true.mp hP p hq
  have e := congrArg State.so h.mask
  simp only [State.mask, keepOr, List.elem_eq_mem, hn .so (by simp), hn .runs (by simp), hn .bps (by simp), hn .cache (by simp), hn .alloc (by simp), hn .snaps (by simp), decide_false, cond_false] at e
  exact e
theorem Touches.vl_eq {P : List Part} {s t : State} (h : Touches P s t)
    (hP : P.all (fun p => !([.vl, .tkts, .handed, .replies] : List Part).elem p) = true := by decide) : t.vl = s.vl := by
  have hn : ∀ p ∈ ([.vl, .tkts, .handed, .replies] : List Part), p ∉ P := fun p hp hq => by
    simpa [hp] using List.all_eq_true.mp hP p hq
  have e := congrArg State.vl h.mask
  simp only [State.mask, keepOr, List.elem_eq_mem, hn .vl (by simp), hn .tkts (by simp), hn .handed (by simp), hn .replies (by simp), decide_false, cond_false] at e
  exact e
theorem Touches.pw_eq {P : List Part} {s t : State} (h : Touches P s t)
    (hP : P.all (fun p => !([.pw, .doms, .chg] : List Part).elem p) = true := by decide) : t.pw = s.pw := by
  have hn : ∀ p ∈ ([.pw, .doms, .chg] : List Part), p ∉ P := fun p hp hq => by
    simpa [hp] using List.all_eq_true.mp hP p hq
  have e := congrArg State.pw h.mask
  simp only [State.mask, keepOr, List.elem_eq_mem, hn .pw (by simp), hn .doms (by simp), hn .chg (by simp), decide_false, cond_false] at e
  exact e
theorem Touches.byte_eq {P : List Part} {s t : State} (h : Touches P s t) (a : Nat) (hP : Part.mem ∉ P := by decide) :
    t.byte a = s.byte a := by
  unfold State.byte
  rw [h.mem_eq hP]
theorem Touches.regs_eq {P : List Part} {s t : State} (h : Touches P s t)
    (hP : P.all (fun p => !Part.registers.elem p) = true := by decide) : t.regs = s.regs := by
  have hn : ∀ p ∈ Part.registers, p ∉ P := fun p hp hq => by simpa [hp] using List.all_eq_true.mp hP p hq
  have hk : keptRegs P t.regs = keptRegs P s.regs := congrArg State.regs h.mask
  rwa [keptRegs_eq_self hn, keptRegs_eq_self hn] at hk
/-- A register of a part that a footprint leaves reads as before. -/
theorem Touches.rd_keep {P : List Part} {s t : State} (h : Touches P s t) (p : Part) {r : Reg} (hr : regPart r.addr = p)
    (hP : p ∉ P := by decide) : t.rd r = s.rd r := h.rd_eq r (hr ▸ hP)

/-! ### A register read in a state that is written out -/

/-- What a register holds in a table of registers. -/
def rdOf (m : SMap Word) (r : Reg) : Nat := (SMap.get m r.addr (BitVec.ofNat 32 r.rst)).toNat

@[simp] theorem rdOf_regs (s : State) (r : Reg) : rdOf s.regs r = s.rd r := (rfl)
@[simp] theorem bitsOf_rd (s : State) (r : Reg) (hi lo : Nat) : bitsOf (s.rd r) hi lo = s.fld r hi lo := (rfl)
@[simp] theorem bitOf_rd (s : State) (r : Reg) (i : Nat) : bitOf (s.rd r) i = s.bit r i := (rfl)

section
variable (pending : List Instr) (regs loStage : SMap Word) (mem : List Host.Cell) (draw : Nat) (fab : FabSt) (so : SoSt) (fk : FkSt)
  (ev : EvSt) (rnd : RndSt) (tal : TalSt) (mcs : SMap McSt) (ic : IcSt) (dbg : DbgSt) (vl : VlSt) (cr : SMap CrTile) (pw : PwSt)
  (fl : FlSt) (sp : SpSt)
@[simp] theorem State.rd_mk (r : Reg) :
    State.rd ⟨pending, regs, loStage, mem, draw, fab, so, fk, ev, rnd, tal, mcs, ic, dbg, vl, cr, pw, fl, sp⟩ r = rdOf regs r := (rfl)
@[simp] theorem State.fld_mk (r : Reg) (hi lo : Nat) :
    State.fld ⟨pending, regs, loStage, mem, draw, fab, so, fk, ev, rnd, tal, mcs, ic, dbg, vl, cr, pw, fl, sp⟩ r hi lo =
      bitsOf (rdOf regs r) hi lo := (rfl)
@[simp] theorem State.bit_mk (r : Reg) (i : Nat) :
    State.bit ⟨pending, regs, loStage, mem, draw, fab, so, fk, ev, rnd, tal, mcs, ic, dbg, vl, cr, pw, fl, sp⟩ r i =
      bitOf (rdOf regs r) i := (rfl)
@[simp] theorem State.core_mk (c : Nat) :
    State.core ⟨pending, regs, loStage, mem, draw, fab, so, fk, ev, rnd, tal, mcs, ic, dbg, vl, cr, pw, fl, sp⟩ c =
      SMap.get dbg.cores c {} := (rfl)
@[simp] theorem State.dom_mk (d : Nat) :
    State.dom ⟨pending, regs, loStage, mem, draw, fab, so, fk, ev, rnd, tal, mcs, ic, dbg, vl, cr, pw, fl, sp⟩ d =
      SMap.get pw.doms d {} := (rfl)
@[simp] theorem State.tile_mk (n : Nat) :
    State.tile ⟨pending, regs, loStage, mem, draw, fab, so, fk, ev, rnd, tal, mcs, ic, dbg, vl, cr, pw, fl, sp⟩ n =
      SMap.get fab.tiles n {} := (rfl)
@[simp] theorem State.bp_mk (i : Nat) :
    State.bp ⟨pending, regs, loStage, mem, draw, fab, so, fk, ev, rnd, tal, mcs, ic, dbg, vl, cr, pw, fl, sp⟩ i =
      SMap.get fab.bps i {} := (rfl)
@[simp] theorem State.bank_mk (k : Nat) :
    State.bank ⟨pending, regs, loStage, mem, draw, fab, so, fk, ev, rnd, tal, mcs, ic, dbg, vl, cr, pw, fl, sp⟩ k =
      SMap.get fab.banks k {} := (rfl)
@[simp] theorem State.bpRec_mk (i : Nat) :
    State.bpRec ⟨pending, regs, loStage, mem, draw, fab, so, fk, ev, rnd, tal, mcs, ic, dbg, vl, cr, pw, fl, sp⟩ i =
      SMap.get so.bps i {} := (rfl)
@[simp] theorem State.run_mk (r : Nat) :
    State.run ⟨pending, regs, loStage, mem, draw, fab, so, fk, ev, rnd, tal, mcs, ic, dbg, vl, cr, pw, fl, sp⟩ r =
      SMap.get so.runs r {} := (rfl)
@[simp] theorem State.mc_mk (c : Nat) :
    State.mc ⟨pending, regs, loStage, mem, draw, fab, so, fk, ev, rnd, tal, mcs, ic, dbg, vl, cr, pw, fl, sp⟩ c =
      SMap.get mcs c {} := (rfl)
@[simp] theorem State.crt_mk (n : Nat) :
    State.crt ⟨pending, regs, loStage, mem, draw, fab, so, fk, ev, rnd, tal, mcs, ic, dbg, vl, cr, pw, fl, sp⟩ n =
      SMap.get cr n {} := (rfl)
@[simp] theorem State.tkt_mk (i : Nat) :
    State.tkt ⟨pending, regs, loStage, mem, draw, fab, so, fk, ev, rnd, tal, mcs, ic, dbg, vl, cr, pw, fl, sp⟩ i =
      SMap.get vl.tickets i {} := (rfl)
@[simp] theorem State.client_mk (c : Nat) :
    State.client ⟨pending, regs, loStage, mem, draw, fab, so, fk, ev, rnd, tal, mcs, ic, dbg, vl, cr, pw, fl, sp⟩ c =
      SMap.get vl.clients c {} := (rfl)
@[simp] theorem State.load_mk (j : Nat) :
    State.load ⟨pending, regs, loStage, mem, draw, fab, so, fk, ev, rnd, tal, mcs, ic, dbg, vl, cr, pw, fl, sp⟩ j =
      SMap.get fk.loads j {} := (rfl)
@[simp] theorem State.snap_mk (k : Nat) :
    State.snap ⟨pending, regs, loStage, mem, draw, fab, so, fk, ev, rnd, tal, mcs, ic, dbg, vl, cr, pw, fl, sp⟩ k =
      SMap.get so.snaps k {} := (rfl)
@[simp] theorem State.design_mk (d : Nat) :
    State.design ⟨pending, regs, loStage, mem, draw, fab, so, fk, ev, rnd, tal, mcs, ic, dbg, vl, cr, pw, fl, sp⟩ d =
      SMap.get so.designs d {} := (rfl)
@[simp] theorem State.byte_mk (a : Nat) :
    State.byte ⟨pending, regs, loStage, mem, draw, fab, so, fk, ev, rnd, tal, mcs, ic, dbg, vl, cr, pw, fl, sp⟩ a =
      SMap.get mem a (blankByte a) := (rfl)
end
@[simp] theorem State.get_core (s : State) (c : Nat) : SMap.get s.dbg.cores c {} = s.core c := (rfl)
@[simp] theorem State.get_dom (s : State) (d : Nat) : SMap.get s.pw.doms d {} = s.dom d := (rfl)
@[simp] theorem State.get_tile (s : State) (n : Nat) : SMap.get s.fab.tiles n {} = s.tile n := (rfl)
@[simp] theorem State.get_bp (s : State) (i : Nat) : SMap.get s.fab.bps i {} = s.bp i := (rfl)
@[simp] theorem State.get_bank (s : State) (k : Nat) : SMap.get s.fab.banks k {} = s.bank k := (rfl)
@[simp] theorem State.get_bpRec (s : State) (i : Nat) : SMap.get s.so.bps i {} = s.bpRec i := (rfl)
@[simp] theorem State.get_run (s : State) (r : Nat) : SMap.get s.so.runs r {} = s.run r := (rfl)
@[simp] theorem State.get_mc (s : State) (c : Nat) : SMap.get s.mcs c {} = s.mc c := (rfl)
@[simp] theorem State.get_crt (s : State) (n : Nat) : SMap.get s.cr n {} = s.crt n := (rfl)
@[simp] theorem State.get_tkt (s : State) (i : Nat) : SMap.get s.vl.tickets i {} = s.tkt i := (rfl)
@[simp] theorem State.get_client (s : State) (c : Nat) : SMap.get s.vl.clients c {} = s.client c := (rfl)
@[simp] theorem State.get_load (s : State) (j : Nat) : SMap.get s.fk.loads j {} = s.load j := (rfl)
@[simp] theorem State.get_snap (s : State) (k : Nat) : SMap.get s.so.snaps k {} = s.snap k := (rfl)
@[simp] theorem State.get_design (s : State) (d : Nat) : SMap.get s.so.designs d {} = s.design d := (rfl)
@[simp] theorem State.get_mem (s : State) (a : Nat) : SMap.get s.mem a (blankByte a) = s.byte a := (rfl)

/-! ### Operations that write no register -/

section
variable (s : State)
@[simp] theorem State.setTile_rd (n : Nat) (v : TileRt) (q : Reg) : (s.setTile n v).rd q = s.rd q := (rfl)
@[simp] theorem State.setTile_fld (n : Nat) (v : TileRt) (q : Reg) (hi lo : Nat) : (s.setTile n v).fld q hi lo = s.fld q hi lo := (rfl)
@[simp] theorem State.setTile_bit (n : Nat) (v : TileRt) (q : Reg) (i' : Nat) : (s.setTile n v).bit q i' = s.bit q i' := (rfl)
@[simp] theorem State.setTile_byte (n : Nat) (v : TileRt) (a : Nat) : (s.setTile n v).byte a = s.byte a := (rfl)
@[simp] theorem State.setBp_rd (i : Nat) (v : BpRt) (q : Reg) : (s.setBp i v).rd q = s.rd q := (rfl)
@[simp] theorem State.setBp_fld (i : Nat) (v : BpRt) (q : Reg) (hi lo : Nat) : (s.setBp i v).fld q hi lo = s.fld q hi lo := (rfl)
@[simp] theorem State.setBp_bit (i : Nat) (v : BpRt) (q : Reg) (i' : Nat) : (s.setBp i v).bit q i' = s.bit q i' := (rfl)
@[simp] theorem State.setBp_byte (i : Nat) (v : BpRt) (a : Nat) : (s.setBp i v).byte a = s.byte a := (rfl)
@[simp] theorem State.setBay_rd (n b : Nat) (v : BayRt) (q : Reg) : (s.setBay n b v).rd q = s.rd q := (rfl)
@[simp] theorem State.setBay_fld (n b : Nat) (v : BayRt) (q : Reg) (hi lo : Nat) : (s.setBay n b v).fld q hi lo = s.fld q hi lo := (rfl)
@[simp] theorem State.setBay_bit (n b : Nat) (v : BayRt) (q : Reg) (i' : Nat) : (s.setBay n b v).bit q i' = s.bit q i' := (rfl)
@[simp] theorem State.setBay_byte (n b : Nat) (v : BayRt) (a : Nat) : (s.setBay n b v).byte a = s.byte a := (rfl)
@[simp] theorem State.setMmp_rd (n k : Nat) (v : MmpRt) (q : Reg) : (s.setMmp n k v).rd q = s.rd q := (rfl)
@[simp] theorem State.setMmp_fld (n k : Nat) (v : MmpRt) (q : Reg) (hi lo : Nat) : (s.setMmp n k v).fld q hi lo = s.fld q hi lo := (rfl)
@[simp] theorem State.setMmp_bit (n k : Nat) (v : MmpRt) (q : Reg) (i' : Nat) : (s.setMmp n k v).bit q i' = s.bit q i' := (rfl)
@[simp] theorem State.setMmp_byte (n k : Nat) (v : MmpRt) (a : Nat) : (s.setMmp n k v).byte a = s.byte a := (rfl)
@[simp] theorem State.setBank_rd (k : Nat) (v : BankRt) (q : Reg) : (s.setBank k v).rd q = s.rd q := (rfl)
@[simp] theorem State.setBank_fld (k : Nat) (v : BankRt) (q : Reg) (hi lo : Nat) : (s.setBank k v).fld q hi lo = s.fld q hi lo := (rfl)
@[simp] theorem State.setBank_bit (k : Nat) (v : BankRt) (q : Reg) (i' : Nat) : (s.setBank k v).bit q i' = s.bit q i' := (rfl)
@[simp] theorem State.setBank_byte (k : Nat) (v : BankRt) (a : Nat) : (s.setBank k v).byte a = s.byte a := (rfl)
@[simp] theorem State.setBpRec_rd (i : Nat) (v : BpRec) (q : Reg) : (s.setBpRec i v).rd q = s.rd q := (rfl)
@[simp] theorem State.setBpRec_fld (i : Nat) (v : BpRec) (q : Reg) (hi lo : Nat) : (s.setBpRec i v).fld q hi lo = s.fld q hi lo := (rfl)
@[simp] theorem State.setBpRec_bit (i : Nat) (v : BpRec) (q : Reg) (i' : Nat) : (s.setBpRec i v).bit q i' = s.bit q i' := (rfl)
@[simp] theorem State.setBpRec_byte (i : Nat) (v : BpRec) (a : Nat) : (s.setBpRec i v).byte a = s.byte a := (rfl)
@[simp] theorem State.setRun_rd (r : Nat) (v : Run) (q : Reg) : (s.setRun r v).rd q = s.rd q := (rfl)
@[simp] theorem State.setRun_fld (r : Nat) (v : Run) (q : Reg) (hi lo : Nat) : (s.setRun r v).fld q hi lo = s.fld q hi lo := (rfl)
@[simp] theorem State.setRun_bit (r : Nat) (v : Run) (q : Reg) (i' : Nat) : (s.setRun r v).bit q i' = s.bit q i' := (rfl)
@[simp] theorem State.setRun_byte (r : Nat) (v : Run) (a : Nat) : (s.setRun r v).byte a = s.byte a := (rfl)
@[simp] theorem State.setMc_rd (c : Nat) (v : McSt) (q : Reg) : (s.setMc c v).rd q = s.rd q := (rfl)
@[simp] theorem State.setMc_fld (c : Nat) (v : McSt) (q : Reg) (hi lo : Nat) : (s.setMc c v).fld q hi lo = s.fld q hi lo := (rfl)
@[simp] theorem State.setMc_bit (c : Nat) (v : McSt) (q : Reg) (i' : Nat) : (s.setMc c v).bit q i' = s.bit q i' := (rfl)
@[simp] theorem State.setMc_byte (c : Nat) (v : McSt) (a : Nat) : (s.setMc c v).byte a = s.byte a := (rfl)
@[simp] theorem State.setCore_rd (c : Nat) (v : CoreSt) (q : Reg) : (s.setCore c v).rd q = s.rd q := (rfl)
@[simp] theorem State.setCore_fld (c : Nat) (v : CoreSt) (q : Reg) (hi lo : Nat) : (s.setCore c v).fld q hi lo = s.fld q hi lo := (rfl)
@[simp] theorem State.setCore_bit (c : Nat) (v : CoreSt) (q : Reg) (i' : Nat) : (s.setCore c v).bit q i' = s.bit q i' := (rfl)
@[simp] theorem State.setCore_byte (c : Nat) (v : CoreSt) (a : Nat) : (s.setCore c v).byte a = s.byte a := (rfl)
@[simp] theorem State.setCrt_rd (n : Nat) (v : CrTile) (q : Reg) : (s.setCrt n v).rd q = s.rd q := (rfl)
@[simp] theorem State.setCrt_fld (n : Nat) (v : CrTile) (q : Reg) (hi lo : Nat) : (s.setCrt n v).fld q hi lo = s.fld q hi lo := (rfl)
@[simp] theorem State.setCrt_bit (n : Nat) (v : CrTile) (q : Reg) (i' : Nat) : (s.setCrt n v).bit q i' = s.bit q i' := (rfl)
@[simp] theorem State.setCrt_byte (n : Nat) (v : CrTile) (a : Nat) : (s.setCrt n v).byte a = s.byte a := (rfl)
@[simp] theorem State.setCrg_rd (n g : Nat) (v : CrGroup) (q : Reg) : (s.setCrg n g v).rd q = s.rd q := (rfl)
@[simp] theorem State.setCrg_fld (n g : Nat) (v : CrGroup) (q : Reg) (hi lo : Nat) : (s.setCrg n g v).fld q hi lo = s.fld q hi lo := (rfl)
@[simp] theorem State.setCrg_bit (n g : Nat) (v : CrGroup) (q : Reg) (i' : Nat) : (s.setCrg n g v).bit q i' = s.bit q i' := (rfl)
@[simp] theorem State.setCrg_byte (n g : Nat) (v : CrGroup) (a : Nat) : (s.setCrg n g v).byte a = s.byte a := (rfl)
@[simp] theorem State.setCrl_rd (n l : Nat) (v : CrLane) (q : Reg) : (s.setCrl n l v).rd q = s.rd q := (rfl)
@[simp] theorem State.setCrl_fld (n l : Nat) (v : CrLane) (q : Reg) (hi lo : Nat) : (s.setCrl n l v).fld q hi lo = s.fld q hi lo := (rfl)
@[simp] theorem State.setCrl_bit (n l : Nat) (v : CrLane) (q : Reg) (i' : Nat) : (s.setCrl n l v).bit q i' = s.bit q i' := (rfl)
@[simp] theorem State.setCrl_byte (n l : Nat) (v : CrLane) (a : Nat) : (s.setCrl n l v).byte a = s.byte a := (rfl)
@[simp] theorem State.drawn_rd (q : Reg) : (s.drawn ).rd q = s.rd q := (rfl)
@[simp] theorem State.drawn_fld  (q : Reg) (hi lo : Nat) : (s.drawn ).fld q hi lo = s.fld q hi lo := (rfl)
@[simp] theorem State.drawn_bit  (q : Reg) (i' : Nat) : (s.drawn ).bit q i' = s.bit q i' := (rfl)
@[simp] theorem State.drawn_byte  (a : Nat) : (s.drawn ).byte a = s.byte a := (rfl)
@[simp] theorem State.putByte_fld (a : Nat) (b : Byte) (q : Reg) (hi lo : Nat) : (s.putByte a b).fld q hi lo = s.fld q hi lo := (rfl)
@[simp] theorem State.putByte_bit (a : Nat) (b : Byte) (q : Reg) (i' : Nat) : (s.putByte a b).bit q i' = s.bit q i' := (rfl)
@[simp] theorem State.putBytes_fld (a : Nat) (bs : List Byte) (q : Reg) (hi lo : Nat) : (s.putBytes a bs).fld q hi lo = s.fld q hi lo := by
  rw [State.fld, State.putBytes_rd, State.fld]
@[simp] theorem State.putBytes_bit (a : Nat) (bs : List Byte) (q : Reg) (i : Nat) : (s.putBytes a bs).bit q i = s.bit q i := by
  rw [State.bit, State.putBytes_rd, State.bit]
@[simp] theorem State.wr_byte (r : Reg) (v : Nat) (a : Nat) : (s.wr r v).byte a = s.byte a := (rfl)
@[simp] theorem State.setFld_byte (r : Reg) (hi lo v : Nat) (a : Nat) : (s.setFld r hi lo v).byte a = s.byte a := (rfl)
@[simp] theorem State.setBit_byte (r : Reg) (i : Nat) (b : Bool) (a : Nat) : (s.setBit r i b).byte a = s.byte a := (rfl)
@[simp] theorem State.count_byte (r : Reg) (hi lo n : Nat) (a : Nat) : (s.count r hi lo n).byte a = s.byte a := (rfl)
@[simp] theorem State.wr64_byte (q r : Reg) (v : Nat) (a : Nat) : (s.wr64 q r v).byte a = s.byte a := (rfl)
end

/-! ### Registers behind a write of another register -/

theorem State.fld_lt (s : State) (r : Reg) (hi lo : Nat) : s.fld r hi lo < 2 ^ (hi + 1 - lo) := bitsOf_lt _ _ _
@[simp] theorem bitOf_zero (i : Nat) : bitOf 0 i = false := by simp [bitOf_eq]
@[simp] theorem bitsOf_zero (hi lo : Nat) : bitsOf 0 hi lo = 0 := by simp [bitsOf]
@[simp] theorem State.rd_mod (s : State) (r : Reg) : s.rd r % 4294967296 = s.rd r := Nat.mod_eq_of_lt (s.rd_lt r)
theorem State.fld_wr_same (s : State) (r : Reg) (v hi lo : Nat) : (s.wr r v).fld r hi lo = bitsOf (v % 2 ^ 32) hi lo := by
  rw [State.fld, State.rd_wr_same]
theorem State.bit_wr_same (s : State) (r : Reg) (v i : Nat) : (s.wr r v).bit r i = bitOf (v % 2 ^ 32) i := by
  rw [State.bit, State.rd_wr_same]
theorem State.fld_wr_ne (s : State) {r q : Reg} (v hi lo : Nat) (h : q.addr ≠ r.addr) : (s.wr r v).fld q hi lo = s.fld q hi lo := by
  rw [State.fld, State.rd_wr_ne s v h, State.fld]
theorem State.bit_wr_ne (s : State) {r q : Reg} (v i : Nat) (h : q.addr ≠ r.addr) : (s.wr r v).bit q i = s.bit q i := by
  rw [State.bit, State.rd_wr_ne s v h, State.bit]
theorem State.fld_count_ne (s : State) {r q : Reg} (hi lo n hi' lo' : Nat) (h : q.addr ≠ r.addr) :
    (s.count r hi lo n).fld q hi' lo' = s.fld q hi' lo' := by rw [State.fld, State.rd_count_ne s hi lo n h, State.fld]
theorem State.bit_count_ne (s : State) {r q : Reg} (hi lo n i : Nat) (h : q.addr ≠ r.addr) :
    (s.count r hi lo n).bit q i = s.bit q i := by rw [State.bit, State.rd_count_ne s hi lo n h, State.bit]
theorem State.bit_count_other (s : State) (r : Reg) (hi lo n i : Nat) (h : lo ≤ hi) (hh : hi < 32) (hd : i < lo ∨ hi < i) :
    (s.count r hi lo n).bit r i = s.bit r i := State.bit_setFld_other s r hi lo _ i h hh hd
theorem State.event_fld_ne (s : State) (typ sev loc ctx addr : Nat) (detail : List Nat) (merge : Bool) (q : Reg) (hi lo : Nat)
    (h : q.addr ≠ Reg.evDisc.addr) : (s.event typ sev loc ctx addr detail merge).fld q hi lo = s.fld q hi lo := by
  rw [State.fld, State.event_rd_ne _ _ _ _ _ _ _ _ _ h, State.fld]
theorem State.event_bit_ne (s : State) (typ sev loc ctx addr : Nat) (detail : List Nat) (merge : Bool) (q : Reg) (i : Nat)
    (h : q.addr ≠ Reg.evDisc.addr) : (s.event typ sev loc ctx addr detail merge).bit q i = s.bit q i := by
  rw [State.bit, State.event_rd_ne _ _ _ _ _ _ _ _ _ h, State.bit]
theorem State.setDom_fld_ne (s : State) (d : Nat) (v : DomSt) (q : Reg) (hi lo : Nat) (h : q.addr ≠ Reg.pmDomStat.addr) :
    (s.setDom d v).fld q hi lo = s.fld q hi lo := by rw [State.fld, State.setDom_rd_ne s d v q h, State.fld]
theorem State.setDom_bit_ne (s : State) (d : Nat) (v : DomSt) (q : Reg) (i : Nat) (h : q.addr ≠ Reg.pmDomStat.addr) :
    (s.setDom d v).bit q i = s.bit q i := by rw [State.bit, State.setDom_rd_ne s d v q h, State.bit]

/-! ### What an event, a domain's record and a ticket's end leave -/

section
variable (s : State)
@[simp] theorem State.event_pending (typ sev loc ctx addr : Nat) (detail : List Nat) (merge : Bool) :
    (s.event typ sev loc ctx addr detail merge).pending = s.pending := by rw [State.event_eq]
@[simp] theorem State.event_loStage (typ sev loc ctx addr : Nat) (detail : List Nat) (merge : Bool) :
    (s.event typ sev loc ctx addr detail merge).loStage = s.loStage := by rw [State.event_eq]
@[simp] theorem State.event_mem (typ sev loc ctx addr : Nat) (detail : List Nat) (merge : Bool) :
    (s.event typ sev loc ctx addr detail merge).mem = s.mem := by rw [State.event_eq]
@[simp] theorem State.event_draw (typ sev loc ctx addr : Nat) (detail : List Nat) (merge : Bool) :
    (s.event typ sev loc ctx addr detail merge).draw = s.draw := by rw [State.event_eq]
@[simp] theorem State.event_fab (typ sev loc ctx addr : Nat) (detail : List Nat) (merge : Bool) :
    (s.event typ sev loc ctx addr detail merge).fab = s.fab := by rw [State.event_eq]
@[simp] theorem State.event_so (typ sev loc ctx addr : Nat) (detail : List Nat) (merge : Bool) :
    (s.event typ sev loc ctx addr detail merge).so = s.so := by rw [State.event_eq]
@[simp] theorem State.event_fk (typ sev loc ctx addr : Nat) (detail : List Nat) (merge : Bool) :
    (s.event typ sev loc ctx addr detail merge).fk = s.fk := by rw [State.event_eq]
@[simp] theorem State.event_rnd (typ sev loc ctx addr : Nat) (detail : List Nat) (merge : Bool) :
    (s.event typ sev loc ctx addr detail merge).rnd = s.rnd := by rw [State.event_eq]
@[simp] theorem State.event_tal (typ sev loc ctx addr : Nat) (detail : List Nat) (merge : Bool) :
    (s.event typ sev loc ctx addr detail merge).tal = s.tal := by rw [State.event_eq]
@[simp] theorem State.event_mcs (typ sev loc ctx addr : Nat) (detail : List Nat) (merge : Bool) :
    (s.event typ sev loc ctx addr detail merge).mcs = s.mcs := by rw [State.event_eq]
@[simp] theorem State.event_ic (typ sev loc ctx addr : Nat) (detail : List Nat) (merge : Bool) :
    (s.event typ sev loc ctx addr detail merge).ic = s.ic := by rw [State.event_eq]
@[simp] theorem State.event_dbg (typ sev loc ctx addr : Nat) (detail : List Nat) (merge : Bool) :
    (s.event typ sev loc ctx addr detail merge).dbg = s.dbg := by rw [State.event_eq]
@[simp] theorem State.event_vl (typ sev loc ctx addr : Nat) (detail : List Nat) (merge : Bool) :
    (s.event typ sev loc ctx addr detail merge).vl = s.vl := by rw [State.event_eq]
@[simp] theorem State.event_cr (typ sev loc ctx addr : Nat) (detail : List Nat) (merge : Bool) :
    (s.event typ sev loc ctx addr detail merge).cr = s.cr := by rw [State.event_eq]
@[simp] theorem State.event_pw (typ sev loc ctx addr : Nat) (detail : List Nat) (merge : Bool) :
    (s.event typ sev loc ctx addr detail merge).pw = s.pw := by rw [State.event_eq]
@[simp] theorem State.event_fl (typ sev loc ctx addr : Nat) (detail : List Nat) (merge : Bool) :
    (s.event typ sev loc ctx addr detail merge).fl = s.fl := by rw [State.event_eq]
@[simp] theorem State.event_sp (typ sev loc ctx addr : Nat) (detail : List Nat) (merge : Bool) :
    (s.event typ sev loc ctx addr detail merge).sp = s.sp := by rw [State.event_eq]
@[simp] theorem State.setDom_pending (d : Nat) (v : DomSt) : (s.setDom d v).pending = s.pending := by rw [State.setDom_eq]
@[simp] theorem State.setDom_loStage (d : Nat) (v : DomSt) : (s.setDom d v).loStage = s.loStage := by rw [State.setDom_eq]
@[simp] theorem State.setDom_mem (d : Nat) (v : DomSt) : (s.setDom d v).mem = s.mem := by rw [State.setDom_eq]
@[simp] theorem State.setDom_draw (d : Nat) (v : DomSt) : (s.setDom d v).draw = s.draw := by rw [State.setDom_eq]
@[simp] theorem State.setDom_fab (d : Nat) (v : DomSt) : (s.setDom d v).fab = s.fab := by rw [State.setDom_eq]
@[simp] theorem State.setDom_so (d : Nat) (v : DomSt) : (s.setDom d v).so = s.so := by rw [State.setDom_eq]
@[simp] theorem State.setDom_fk (d : Nat) (v : DomSt) : (s.setDom d v).fk = s.fk := by rw [State.setDom_eq]
@[simp] theorem State.setDom_ev (d : Nat) (v : DomSt) : (s.setDom d v).ev = s.ev := by rw [State.setDom_eq]
@[simp] theorem State.setDom_rnd (d : Nat) (v : DomSt) : (s.setDom d v).rnd = s.rnd := by rw [State.setDom_eq]
@[simp] theorem State.setDom_tal (d : Nat) (v : DomSt) : (s.setDom d v).tal = s.tal := by rw [State.setDom_eq]
@[simp] theorem State.setDom_mcs (d : Nat) (v : DomSt) : (s.setDom d v).mcs = s.mcs := by rw [State.setDom_eq]
@[simp] theorem State.setDom_ic (d : Nat) (v : DomSt) : (s.setDom d v).ic = s.ic := by rw [State.setDom_eq]
@[simp] theorem State.setDom_dbg (d : Nat) (v : DomSt) : (s.setDom d v).dbg = s.dbg := by rw [State.setDom_eq]
@[simp] theorem State.setDom_vl (d : Nat) (v : DomSt) : (s.setDom d v).vl = s.vl := by rw [State.setDom_eq]
@[simp] theorem State.setDom_cr (d : Nat) (v : DomSt) : (s.setDom d v).cr = s.cr := by rw [State.setDom_eq]
@[simp] theorem State.setDom_fl (d : Nat) (v : DomSt) : (s.setDom d v).fl = s.fl := by rw [State.setDom_eq]
@[simp] theorem State.setDom_sp (d : Nat) (v : DomSt) : (s.setDom d v).sp = s.sp := by rw [State.setDom_eq]
@[simp] theorem State.setDom_byte (d : Nat) (v : DomSt) (a : Nat) : (s.setDom d v).byte a = s.byte a := by rw [State.setDom_eq]; rfl
theorem State.setDom_pw (d : Nat) (v : DomSt) : (s.setDom d v).pw = { s.pw with doms := SMap.set s.pw.doms d v {} } := by
  rw [State.setDom_eq]
@[simp] theorem State.tktEnd_pending (i st err : Nat) : (s.tktEnd i st err).pending = s.pending := by rw [State.tktEnd_eq]
@[simp] theorem State.tktEnd_loStage (i st err : Nat) : (s.tktEnd i st err).loStage = s.loStage := by rw [State.tktEnd_eq]
@[simp] theorem State.tktEnd_mem (i st err : Nat) : (s.tktEnd i st err).mem = s.mem := by rw [State.tktEnd_eq]
@[simp] theorem State.tktEnd_draw (i st err : Nat) : (s.tktEnd i st err).draw = s.draw := by rw [State.tktEnd_eq]
@[simp] theorem State.tktEnd_fab (i st err : Nat) : (s.tktEnd i st err).fab = s.fab := by rw [State.tktEnd_eq]
@[simp] theorem State.tktEnd_so (i st err : Nat) : (s.tktEnd i st err).so = s.so := by rw [State.tktEnd_eq]
@[simp] theorem State.tktEnd_fk (i st err : Nat) : (s.tktEnd i st err).fk = s.fk := by rw [State.tktEnd_eq]
@[simp] theorem State.tktEnd_ev (i st err : Nat) : (s.tktEnd i st err).ev = s.ev := by rw [State.tktEnd_eq]
@[simp] theorem State.tktEnd_rnd (i st err : Nat) : (s.tktEnd i st err).rnd = s.rnd := by rw [State.tktEnd_eq]
@[simp] theorem State.tktEnd_tal (i st err : Nat) : (s.tktEnd i st err).tal = s.tal := by rw [State.tktEnd_eq]
@[simp] theorem State.tktEnd_mcs (i st err : Nat) : (s.tktEnd i st err).mcs = s.mcs := by rw [State.tktEnd_eq]
@[simp] theorem State.tktEnd_ic (i st err : Nat) : (s.tktEnd i st err).ic = s.ic := by rw [State.tktEnd_eq]
@[simp] theorem State.tktEnd_dbg (i st err : Nat) : (s.tktEnd i st err).dbg = s.dbg := by rw [State.tktEnd_eq]
@[simp] theorem State.tktEnd_cr (i st err : Nat) : (s.tktEnd i st err).cr = s.cr := by rw [State.tktEnd_eq]
@[simp] theorem State.tktEnd_pw (i st err : Nat) : (s.tktEnd i st err).pw = s.pw := by rw [State.tktEnd_eq]
@[simp] theorem State.tktEnd_fl (i st err : Nat) : (s.tktEnd i st err).fl = s.fl := by rw [State.tktEnd_eq]
@[simp] theorem State.tktEnd_sp (i st err : Nat) : (s.tktEnd i st err).sp = s.sp := by rw [State.tktEnd_eq]
end


/-! ### Addresses of the registers -/

@[simp] theorem Reg.mrEpochLo_addr : Reg.mrEpochLo.addr = 0x10080 := rfl
@[simp] theorem Reg.mrEpochHi_addr : Reg.mrEpochHi.addr = 0x10084 := rfl
@[simp] theorem Reg.mrEpochStat_addr : Reg.mrEpochStat.addr = 0x10088 := rfl
@[simp] theorem Reg.tcMcCtrl_addr (n : Nat) : (Reg.tcMcCtrl n).addr = 0x1000010000 + 0x100000000 * n := rfl
@[simp] theorem Reg.tcMcStat_addr (n : Nat) : (Reg.tcMcStat n).addr = 0x1000010004 + 0x100000000 * n := rfl
@[simp] theorem Reg.tcCt_addr (n t : Nat) : (Reg.tcCt n t).addr = 0x1000010040 + 0x100000000 * n + 0x4 * t := rfl
@[simp] theorem Reg.tcRetSrc_addr (n t p : Nat) : (Reg.tcRetSrc n t p).addr = 0x1000010080 + 0x100000000 * n + 0x10 * t + 0x4 * p := rfl
@[simp] theorem Reg.tcHold_addr (n : Nat) : (Reg.tcHold n).addr = 0x10000100D0 + 0x100000000 * n := rfl
@[simp] theorem Reg.tcDmCfg_addr (n : Nat) : (Reg.tcDmCfg n).addr = 0x10000100E0 + 0x100000000 * n := rfl
@[simp] theorem Reg.tcDmSum_addr (n : Nat) : (Reg.tcDmSum n).addr = 0x10000100E4 + 0x100000000 * n := rfl
@[simp] theorem Reg.tcStretch_addr (n : Nat) : (Reg.tcStretch n).addr = 0x10000100E8 + 0x100000000 * n := rfl
@[simp] theorem Reg.bayDm_addr (n b q : Nat) : (Reg.bayDm n b q).addr = 0x1000020000 + 0x100000000 * n + 0x1000 * b + 0x4 * q := rfl
@[simp] theorem Reg.bayPRelCtrl_addr (n b p : Nat) : (Reg.bayPRelCtrl n b p).addr = 0x1000020100 + 0x100000000 * n + 0x1000 * b + 0x40 * p := rfl
@[simp] theorem Reg.bayPRelStat_addr (n b p : Nat) : (Reg.bayPRelStat n b p).addr = 0x1000020104 + 0x100000000 * n + 0x1000 * b + 0x40 * p := rfl
@[simp] theorem Reg.bayPDccLo_addr (n b p : Nat) : (Reg.bayPDccLo n b p).addr = 0x1000020108 + 0x100000000 * n + 0x1000 * b + 0x40 * p := rfl
@[simp] theorem Reg.bayPDccHi_addr (n b p : Nat) : (Reg.bayPDccHi n b p).addr = 0x100002010C + 0x100000000 * n + 0x1000 * b + 0x40 * p := rfl
@[simp] theorem Reg.bayXwait_addr (n b : Nat) : (Reg.bayXwait n b).addr = 0x1000020010 + 0x100000000 * n + 0x1000 * b := rfl
@[simp] theorem Reg.bayXwaitMax_addr (n b : Nat) : (Reg.bayXwaitMax n b).addr = 0x1000020014 + 0x100000000 * n + 0x1000 * b := rfl
@[simp] theorem Reg.bayPStep_addr (n b p : Nat) : (Reg.bayPStep n b p).addr = 0x1000020110 + 0x100000000 * n + 0x1000 * b + 0x40 * p := rfl
@[simp] theorem Reg.bayXrt_addr (n b p i : Nat) : (Reg.bayXrt n b p i).addr = 0x1000020800 + 0x100000000 * n + 0x1000 * b + 0x100 * p + 0x4 * i := rfl
@[simp] theorem Reg.bayXexpLo_addr (n b p : Nat) : (Reg.bayXexpLo n b p).addr = 0x1000020C00 + 0x100000000 * n + 0x1000 * b + 0x8 * p := rfl
@[simp] theorem Reg.bayXexpHi_addr (n b p : Nat) : (Reg.bayXexpHi n b p).addr = 0x1000020C04 + 0x100000000 * n + 0x1000 * b + 0x8 * p := rfl
@[simp] theorem Reg.tcXstat_addr (n : Nat) : (Reg.tcXstat n).addr = 0x10000100F0 + 0x100000000 * n := rfl
@[simp] theorem Reg.dioBCfg_addr (n j : Nat) : (Reg.dioBCfg n j).addr = 0x1000010200 + 0x100000000 * n + 0x40 * j := rfl
@[simp] theorem Reg.dioBHold_addr (n j : Nat) : (Reg.dioBHold n j).addr = 0x1000010204 + 0x100000000 * n + 0x40 * j := rfl
@[simp] theorem Reg.dioBStat_addr (n j : Nat) : (Reg.dioBStat n j).addr = 0x1000010208 + 0x100000000 * n + 0x40 * j := rfl
@[simp] theorem Reg.bayMemerr_addr (n b : Nat) : (Reg.bayMemerr n b).addr = 0x1000020018 + 0x100000000 * n + 0x1000 * b := rfl
@[simp] theorem Reg.bayBmown_addr (n b i : Nat) : (Reg.bayBmown n b i).addr = 0x1000020200 + 0x100000000 * n + 0x1000 * b + 0x4 * i := rfl
@[simp] theorem Reg.bayDmown_addr (n b i : Nat) : (Reg.bayDmown n b i).addr = 0x1000020250 + 0x100000000 * n + 0x1000 * b + 0x4 * i := rfl
@[simp] theorem Reg.bayBmadr_addr (n b m : Nat) : (Reg.bayBmadr n b m).addr = 0x1000020400 + 0x100000000 * n + 0x1000 * b + 0x4 * m := rfl
@[simp] theorem Reg.bayDmadr_addr (n b d : Nat) : (Reg.bayDmadr n b d).addr = 0x1000020680 + 0x100000000 * n + 0x1000 * b + 0x4 * d := rfl
@[simp] theorem Reg.mmpBaseLo_addr (n k : Nat) : (Reg.mmpBaseLo n k).addr = 0x1000010400 + 0x100000000 * n + 0x40 * k := rfl
@[simp] theorem Reg.mmpBaseHi_addr (n k : Nat) : (Reg.mmpBaseHi n k).addr = 0x1000010404 + 0x100000000 * n + 0x40 * k := rfl
@[simp] theorem Reg.mmpSizeLo_addr (n k : Nat) : (Reg.mmpSizeLo n k).addr = 0x1000010408 + 0x100000000 * n + 0x40 * k := rfl
@[simp] theorem Reg.mmpSizeHi_addr (n k : Nat) : (Reg.mmpSizeHi n k).addr = 0x100001040C + 0x100000000 * n + 0x40 * k := rfl
@[simp] theorem Reg.mmpCtrl_addr (n k : Nat) : (Reg.mmpCtrl n k).addr = 0x1000010410 + 0x100000000 * n + 0x40 * k := rfl
@[simp] theorem Reg.mmpStat_addr (n k : Nat) : (Reg.mmpStat n k).addr = 0x1000010414 + 0x100000000 * n + 0x40 * k := rfl
@[simp] theorem Reg.mmpMiss_addr (n k : Nat) : (Reg.mmpMiss n k).addr = 0x1000010418 + 0x100000000 * n + 0x40 * k := rfl
@[simp] theorem Reg.mmpWait_addr (n k : Nat) : (Reg.mmpWait n k).addr = 0x100001041C + 0x100000000 * n + 0x40 * k := rfl
@[simp] theorem Reg.mmpRdata_addr (n k i : Nat) : (Reg.mmpRdata n k i).addr = 0x1000010420 + 0x100000000 * n + 0x40 * k + 0x4 * i := rfl
@[simp] theorem Reg.fkUnlock_addr : Reg.fkUnlock.addr = 0x60400 := rfl
@[simp] theorem Reg.fkStat_addr : Reg.fkStat.addr = 0x60404 := rfl
@[simp] theorem Reg.fkFkey_addr (w : Nat) : (Reg.fkFkey w).addr = 0x60410 + 0x4 * w := rfl
@[simp] theorem Reg.fkBkey_addr (w : Nat) : (Reg.fkBkey w).addr = 0x60440 + 0x4 * w := rfl
@[simp] theorem Reg.fkFkeyCtrl_addr : Reg.fkFkeyCtrl.addr = 0x60430 := rfl
@[simp] theorem Reg.fkFkeyStat_addr : Reg.fkFkeyStat.addr = 0x60434 := rfl
@[simp] theorem Reg.fkFkeyKcv_addr : Reg.fkFkeyKcv.addr = 0x60438 := rfl
@[simp] theorem Reg.fkBkeyKcv_addr : Reg.fkBkeyKcv.addr = 0x60468 := rfl
@[simp] theorem Reg.fkBkeyCtrl_addr : Reg.fkBkeyCtrl.addr = 0x60460 := rfl
@[simp] theorem Reg.fkBkeyStat_addr : Reg.fkBkeyStat.addr = 0x60464 := rfl
@[simp] theorem Reg.fkImgSel_addr : Reg.fkImgSel.addr = 0x60480 := rfl
@[simp] theorem Reg.fkImgHash_addr (w : Nat) : (Reg.fkImgHash w).addr = 0x60484 + 0x4 * w := rfl
@[simp] theorem Reg.fkImgCtrl_addr : Reg.fkImgCtrl.addr = 0x604B4 := rfl
@[simp] theorem Reg.fkImgStat_addr : Reg.fkImgStat.addr = 0x604B8 := rfl
@[simp] theorem Reg.csFrameSel_addr (n : Nat) : (Reg.csFrameSel n).addr = 0x10000000A0 + 0x100000000 * n := rfl
@[simp] theorem Reg.csFrameChk_addr (n : Nat) : (Reg.csFrameChk n).addr = 0x10000000A4 + 0x100000000 * n := rfl
@[simp] theorem Reg.csCtrl_addr (n : Nat) : (Reg.csCtrl n).addr = 0x1000000000 + 0x100000000 * n := rfl
@[simp] theorem Reg.csStat_addr (n : Nat) : (Reg.csStat n).addr = 0x1000000004 + 0x100000000 * n := rfl
@[simp] theorem Reg.csSaPos_addr (n : Nat) : (Reg.csSaPos n).addr = 0x1000000010 + 0x100000000 * n := rfl
@[simp] theorem Reg.csSbPos_addr (n : Nat) : (Reg.csSbPos n).addr = 0x1000000018 + 0x100000000 * n := rfl
@[simp] theorem Reg.csSaSweeps_addr (n : Nat) : (Reg.csSaSweeps n).addr = 0x1000000014 + 0x100000000 * n := rfl
@[simp] theorem Reg.csSbSweeps_addr (n : Nat) : (Reg.csSbSweeps n).addr = 0x100000001C + 0x100000000 * n := rfl
@[simp] theorem Reg.csSaDone_addr (n i : Nat) : (Reg.csSaDone n i).addr = 0x1000000020 + 0x100000000 * n + 0x4 * i := rfl
@[simp] theorem Reg.csSbDone_addr (n i : Nat) : (Reg.csSbDone n i).addr = 0x1000000030 + 0x100000000 * n + 0x4 * i := rfl
@[simp] theorem Reg.csEn_addr (n i : Nat) : (Reg.csEn n i).addr = 0x1000000040 + 0x100000000 * n + 0x4 * i := rfl
@[simp] theorem Reg.csCorr_addr (n : Nat) : (Reg.csCorr n).addr = 0x1000000060 + 0x100000000 * n := rfl
@[simp] theorem Reg.csUncorr_addr (n : Nat) : (Reg.csUncorr n).addr = 0x1000000064 + 0x100000000 * n := rfl
@[simp] theorem Reg.csLasterr_addr (n : Nat) : (Reg.csLasterr n).addr = 0x1000000068 + 0x100000000 * n := rfl
@[simp] theorem Reg.csVote_addr (n : Nat) : (Reg.csVote n).addr = 0x100000006C + 0x100000000 * n := rfl
@[simp] theorem Reg.csXchk_addr (n : Nat) : (Reg.csXchk n).addr = 0x1000000070 + 0x100000000 * n := rfl
@[simp] theorem Reg.csSweepTime_addr (n : Nat) : (Reg.csSweepTime n).addr = 0x1000000080 + 0x100000000 * n := rfl
@[simp] theorem Reg.soCtrl_addr : Reg.soCtrl.addr = 0x100000 := rfl
@[simp] theorem Reg.soStat_addr : Reg.soStat.addr = 0x100004 := rfl
@[simp] theorem Reg.soPolWeight_addr : Reg.soPolWeight.addr = 0x100010 := rfl
@[simp] theorem Reg.soPolQuantum_addr : Reg.soPolQuantum.addr = 0x100014 := rfl
@[simp] theorem Reg.soPolAge_addr : Reg.soPolAge.addr = 0x100018 := rfl
@[simp] theorem Reg.soPolSched_addr : Reg.soPolSched.addr = 0x10001C := rfl
@[simp] theorem Reg.soPsCfg_addr : Reg.soPsCfg.addr = 0x100020 := rfl
@[simp] theorem Reg.soPmStat_addr : Reg.soPmStat.addr = 0x100030 := rfl
@[simp] theorem Reg.soPmMiss_addr : Reg.soPmMiss.addr = 0x100034 := rfl
@[simp] theorem Reg.soLastFail_addr : Reg.soLastFail.addr = 0x100040 := rfl
@[simp] theorem Reg.soSwitchUs_addr : Reg.soSwitchUs.addr = 0x100044 := rfl
@[simp] theorem Reg.soEvict_addr : Reg.soEvict.addr = 0x100048 := rfl
@[simp] theorem Reg.soBridge_addr (j d s : Nat) : (Reg.soBridge j d s).addr = 0x100400 + 0x20 * j + 0x10 * d + 0x4 * s := rfl
@[simp] theorem Reg.trgCtrl_addr (u : Nat) : (Reg.trgCtrl u).addr = 0x1C0000 + 0x40 * u := rfl
@[simp] theorem Reg.trgMaskLo_addr (u : Nat) : (Reg.trgMaskLo u).addr = 0x1C0004 + 0x40 * u := rfl
@[simp] theorem Reg.trgMaskHi_addr (u : Nat) : (Reg.trgMaskHi u).addr = 0x1C0008 + 0x40 * u := rfl
@[simp] theorem Reg.trgLowLo_addr (u : Nat) : (Reg.trgLowLo u).addr = 0x1C000C + 0x40 * u := rfl
@[simp] theorem Reg.trgLowHi_addr (u : Nat) : (Reg.trgLowHi u).addr = 0x1C0010 + 0x40 * u := rfl
@[simp] theorem Reg.trgHighLo_addr (u : Nat) : (Reg.trgHighLo u).addr = 0x1C0014 + 0x40 * u := rfl
@[simp] theorem Reg.trgHighHi_addr (u : Nat) : (Reg.trgHighHi u).addr = 0x1C0018 + 0x40 * u := rfl
@[simp] theorem Reg.trgParam_addr (u : Nat) : (Reg.trgParam u).addr = 0x1C001C + 0x40 * u := rfl
@[simp] theorem Reg.trgWithin_addr (u : Nat) : (Reg.trgWithin u).addr = 0x1C0020 + 0x40 * u := rfl
@[simp] theorem Reg.trgSnap_addr (u : Nat) : (Reg.trgSnap u).addr = 0x1C0024 + 0x40 * u := rfl
@[simp] theorem Reg.trgStat_addr (u : Nat) : (Reg.trgStat u).addr = 0x1C0028 + 0x40 * u := rfl
@[simp] theorem Reg.trgFireDccLo_addr (u : Nat) : (Reg.trgFireDccLo u).addr = 0x1C002C + 0x40 * u := rfl
@[simp] theorem Reg.trgFireDccHi_addr (u : Nat) : (Reg.trgFireDccHi u).addr = 0x1C0030 + 0x40 * u := rfl
@[simp] theorem Reg.trgTap_addr (u i : Nat) : (Reg.trgTap u i).addr = 0x1C1000 + 0x100 * u + 0x4 * i := rfl
@[simp] theorem Reg.trgFiredLo_addr : Reg.trgFiredLo.addr = 0x1C5000 := rfl
@[simp] theorem Reg.trgFiredHi_addr : Reg.trgFiredHi.addr = 0x1C5004 := rfl
@[simp] theorem Reg.trgLast_addr : Reg.trgLast.addr = 0x1C5008 := rfl
@[simp] theorem Reg.trgLastGap_addr : Reg.trgLastGap.addr = 0x1C500C := rfl
@[simp] theorem Reg.tcTslot_addr (n s : Nat) : (Reg.tcTslot n s).addr = 0x1000011000 + 0x100000000 * n + 0x4 * s := rfl
@[simp] theorem Reg.tcTtap_addr (n s i : Nat) : (Reg.tcTtap n s i).addr = 0x1000011100 + 0x100000000 * n + 0x100 * s + 0x4 * i := rfl
@[simp] theorem Reg.dbgModeReq_addr : Reg.dbgModeReq.addr = 0x90010 := rfl
@[simp] theorem Reg.dbgModeStat_addr : Reg.dbgModeStat.addr = 0x90014 := rfl
@[simp] theorem Reg.dbgCCtrl_addr (c : Nat) : (Reg.dbgCCtrl c).addr = 0x90100 + 0x100 * c := rfl
@[simp] theorem Reg.dbgCStat_addr (c : Nat) : (Reg.dbgCStat c).addr = 0x90104 + 0x100 * c := rfl
@[simp] theorem Reg.dbgCRegsel_addr (c : Nat) : (Reg.dbgCRegsel c).addr = 0x90108 + 0x100 * c := rfl
@[simp] theorem Reg.dbgCRegdataLo_addr (c : Nat) : (Reg.dbgCRegdataLo c).addr = 0x9010C + 0x100 * c := rfl
@[simp] theorem Reg.dbgCRegdataHi_addr (c : Nat) : (Reg.dbgCRegdataHi c).addr = 0x90110 + 0x100 * c := rfl
@[simp] theorem Reg.dbgCLbTx_addr (c : Nat) : (Reg.dbgCLbTx c).addr = 0x90114 + 0x100 * c := rfl
@[simp] theorem Reg.dbgCLbRx_addr (c : Nat) : (Reg.dbgCLbRx c).addr = 0x90118 + 0x100 * c := rfl
@[simp] theorem Reg.dbgCLbStat_addr (c : Nat) : (Reg.dbgCLbStat c).addr = 0x9011C + 0x100 * c := rfl
@[simp] theorem Reg.dbgCCmpCtrl_addr (c k : Nat) : (Reg.dbgCCmpCtrl c k).addr = 0x90140 + 0x100 * c + 0x10 * k := rfl
@[simp] theorem Reg.dbgCCmpAddrLo_addr (c k : Nat) : (Reg.dbgCCmpAddrLo c k).addr = 0x90144 + 0x100 * c + 0x10 * k := rfl
@[simp] theorem Reg.dbgCCmpAddrHi_addr (c k : Nat) : (Reg.dbgCCmpAddrHi c k).addr = 0x90148 + 0x100 * c + 0x10 * k := rfl
@[simp] theorem Reg.dbgWdtLoad_addr (c : Nat) : (Reg.dbgWdtLoad c).addr = 0x90800 + 0x10 * c := rfl
@[simp] theorem Reg.dbgWdtCount_addr (c : Nat) : (Reg.dbgWdtCount c).addr = 0x90804 + 0x10 * c := rfl
@[simp] theorem Reg.dbgWdtKick_addr (c : Nat) : (Reg.dbgWdtKick c).addr = 0x90808 + 0x10 * c := rfl
@[simp] theorem Reg.dbgWdtStat_addr (c : Nat) : (Reg.dbgWdtStat c).addr = 0x9080C + 0x10 * c := rfl
@[simp] theorem Reg.mcCtrl_addr (c : Nat) : (Reg.mcCtrl c).addr = mcBase c + 0x0 := rfl
@[simp] theorem Reg.mcStat_addr (c : Nat) : (Reg.mcStat c).addr = mcBase c + 0x4 := rfl
@[simp] theorem Reg.mcSpare_addr (c : Nat) : (Reg.mcSpare c).addr = mcBase c + 0x8 := rfl
@[simp] theorem Reg.mcMigPos_addr (c : Nat) : (Reg.mcMigPos c).addr = mcBase c + 0xC := rfl
@[simp] theorem Reg.mcCe_addr (c : Nat) : (Reg.mcCe c).addr = mcBase c + 0x10 := rfl
@[simp] theorem Reg.mcUe_addr (c : Nat) : (Reg.mcUe c).addr = mcBase c + 0x14 := rfl
@[simp] theorem Reg.mcErrAddrLo_addr (c : Nat) : (Reg.mcErrAddrLo c).addr = mcBase c + 0x18 := rfl
@[simp] theorem Reg.mcErrAddrHi_addr (c : Nat) : (Reg.mcErrAddrHi c).addr = mcBase c + 0x1C := rfl
@[simp] theorem Reg.mcErrInfo_addr (c : Nat) : (Reg.mcErrInfo c).addr = mcBase c + 0x20 := rfl
@[simp] theorem Reg.mcGeom_addr (c : Nat) : (Reg.mcGeom c).addr = mcBase c + 0x30 := rfl
@[simp] theorem Reg.mcIlv_addr (c : Nat) : (Reg.mcIlv c).addr = mcBase c + 0x34 := rfl
@[simp] theorem Reg.mcTrnCtrl_addr (c : Nat) : (Reg.mcTrnCtrl c).addr = mcBase c + 0x100 := rfl
@[simp] theorem Reg.mcTrnAddr_addr (c : Nat) : (Reg.mcTrnAddr c).addr = mcBase c + 0x104 := rfl
@[simp] theorem Reg.mcTrnUserLo_addr (c : Nat) : (Reg.mcTrnUserLo c).addr = mcBase c + 0x108 := rfl
@[simp] theorem Reg.mcTrnUserHi_addr (c : Nat) : (Reg.mcTrnUserHi c).addr = mcBase c + 0x10C := rfl
@[simp] theorem Reg.mcTrnFailLo_addr (c : Nat) : (Reg.mcTrnFailLo c).addr = mcBase c + 0x110 := rfl
@[simp] theorem Reg.mcTrnFailHi_addr (c : Nat) : (Reg.mcTrnFailHi c).addr = mcBase c + 0x114 := rfl
@[simp] theorem Reg.mcTrnErrs_addr (c : Nat) : (Reg.mcTrnErrs c).addr = mcBase c + 0x118 := rfl
@[simp] theorem Reg.mcTrnFirst_addr (c : Nat) : (Reg.mcTrnFirst c).addr = mcBase c + 0x11C := rfl
@[simp] theorem Reg.mcDlySel_addr (c : Nat) : (Reg.mcDlySel c).addr = mcBase c + 0x120 := rfl
@[simp] theorem Reg.mcDlyVal_addr (c : Nat) : (Reg.mcDlyVal c).addr = mcBase c + 0x124 := rfl
@[simp] theorem Reg.mcMr_addr (c : Nat) : (Reg.mcMr c).addr = mcBase c + 0x128 := rfl
@[simp] theorem Reg.mcRetrain_addr (c : Nat) : (Reg.mcRetrain c).addr = mcBase c + 0x130 := rfl
@[simp] theorem Reg.mcRetrainCnt_addr (c : Nat) : (Reg.mcRetrainCnt c).addr = mcBase c + 0x134 := rfl
@[simp] theorem Reg.icStat_addr : Reg.icStat.addr = 0x70000 := rfl
@[simp] theorem Reg.icAlarmInfo_addr : Reg.icAlarmInfo.addr = 0x70004 := rfl
@[simp] theorem Reg.icAlarmAddrLo_addr : Reg.icAlarmAddrLo.addr = 0x70008 := rfl
@[simp] theorem Reg.icAlarmAddrHi_addr : Reg.icAlarmAddrHi.addr = 0x7000C := rfl
@[simp] theorem Reg.icTagfail_addr : Reg.icTagfail.addr = 0x70010 := rfl
@[simp] theorem Reg.icCrEn_addr : Reg.icCrEn.addr = 0x70014 := rfl
@[simp] theorem Reg.icCrKey_addr (w : Nat) : (Reg.icCrKey w).addr = 0x70018 + 0x4 * w := rfl
@[simp] theorem Reg.icRCtrl_addr (r : Nat) : (Reg.icRCtrl r).addr = 0x71000 + 0x40 * r := rfl
@[simp] theorem Reg.icRStat_addr (r : Nat) : (Reg.icRStat r).addr = 0x71004 + 0x40 * r := rfl
@[simp] theorem Reg.icRBaseLo_addr (r : Nat) : (Reg.icRBaseLo r).addr = 0x71008 + 0x40 * r := rfl
@[simp] theorem Reg.icRBaseHi_addr (r : Nat) : (Reg.icRBaseHi r).addr = 0x7100C + 0x40 * r := rfl
@[simp] theorem Reg.icRLimitLo_addr (r : Nat) : (Reg.icRLimitLo r).addr = 0x71010 + 0x40 * r := rfl
@[simp] theorem Reg.icRLimitHi_addr (r : Nat) : (Reg.icRLimitHi r).addr = 0x71014 + 0x40 * r := rfl
@[simp] theorem Reg.icRTagLo_addr (r : Nat) : (Reg.icRTagLo r).addr = 0x71018 + 0x40 * r := rfl
@[simp] theorem Reg.icRTagHi_addr (r : Nat) : (Reg.icRTagHi r).addr = 0x7101C + 0x40 * r := rfl
@[simp] theorem Reg.icRWcnt_addr (r : Nat) : (Reg.icRWcnt r).addr = 0x71020 + 0x40 * r := rfl
@[simp] theorem Reg.icREpoch_addr (r : Nat) : (Reg.icREpoch r).addr = 0x71024 + 0x40 * r := rfl
@[simp] theorem Reg.icRPosLo_addr (r : Nat) : (Reg.icRPosLo r).addr = 0x71028 + 0x40 * r := rfl
@[simp] theorem Reg.icRPosHi_addr (r : Nat) : (Reg.icRPosHi r).addr = 0x7102C + 0x40 * r := rfl
@[simp] theorem Reg.talCtrl_addr : Reg.talCtrl.addr = 0x30000 := rfl
@[simp] theorem Reg.talStat_addr : Reg.talStat.addr = 0x30004 := rfl
@[simp] theorem Reg.talEpochs_addr : Reg.talEpochs.addr = 0x30008 := rfl
@[simp] theorem Reg.talDisc_addr : Reg.talDisc.addr = 0x3000C := rfl
@[simp] theorem Reg.talLast_addr : Reg.talLast.addr = 0x30010 := rfl
@[simp] theorem Reg.talLastDev_addr : Reg.talLastDev.addr = 0x30014 := rfl
@[simp] theorem Reg.talLastEpoch_addr : Reg.talLastEpoch.addr = 0x30018 := rfl
@[simp] theorem Reg.talRepair_addr : Reg.talRepair.addr = 0x3001C := rfl
@[simp] theorem Reg.talMissing_addr : Reg.talMissing.addr = 0x30020 := rfl
@[simp] theorem Reg.talOverrun_addr : Reg.talOverrun.addr = 0x30024 := rfl
@[simp] theorem Reg.talLedgerInfo_addr (l : Nat) : (Reg.talLedgerInfo l).addr = 0x31000 + 0x10 * l := rfl
@[simp] theorem Reg.talLedgerExpect_addr (l : Nat) : (Reg.talLedgerExpect l).addr = 0x31004 + 0x10 * l := rfl
@[simp] theorem Reg.talLedgerSign_addr (l : Nat) : (Reg.talLedgerSign l).addr = 0x31008 + 0x10 * l := rfl
@[simp] theorem Reg.talLedgerDev_addr (l : Nat) : (Reg.talLedgerDev l).addr = 0x3100C + 0x10 * l := rfl
@[simp] theorem Reg.talGroupDev_addr (k : Nat) : (Reg.talGroupDev k).addr = 0x32800 + 0x8 * k := rfl
@[simp] theorem Reg.talGroupBad_addr (k : Nat) : (Reg.talGroupBad k).addr = 0x32804 + 0x8 * k := rfl
@[simp] theorem Reg.talRootDev_addr : Reg.talRootDev.addr = 0x328C0 := rfl
@[simp] theorem Reg.talRootBad_addr : Reg.talRootBad.addr = 0x328C4 := rfl
@[simp] theorem Reg.talLeaf_addr (j : Nat) : (Reg.talLeaf j).addr = 0x34000 + 0x4 * j := rfl
@[simp] theorem Reg.rndTimeout_addr : Reg.rndTimeout.addr = 0x40000 := rfl
@[simp] theorem Reg.rndEpoch_addr : Reg.rndEpoch.addr = 0x40004 := rfl
@[simp] theorem Reg.rndLasterr_addr : Reg.rndLasterr.addr = 0x40008 := rfl
@[simp] theorem Reg.rndRt_addr (b s t : Nat) : (Reg.rndRt b s t).addr = 0x41000 + 0x1000 * b + 0x80 * s + 0x4 * t := rfl
@[simp] theorem Reg.rndSDead_addr (s : Nat) : (Reg.rndSDead s).addr = 0x44000 + 0x40 * s := rfl
@[simp] theorem Reg.rndSLate_addr (s : Nat) : (Reg.rndSLate s).addr = 0x44004 + 0x40 * s := rfl
@[simp] theorem Reg.rndSTo_addr (s : Nat) : (Reg.rndSTo s).addr = 0x44008 + 0x40 * s := rfl
@[simp] theorem Reg.rndSRetry_addr (s : Nat) : (Reg.rndSRetry s).addr = 0x44010 + 0x40 * s := rfl
@[simp] theorem Reg.rndSPr_addr (s : Nat) : (Reg.rndSPr s).addr = 0x4400C + 0x40 * s := rfl
@[simp] theorem Reg.rndSLink_addr (s : Nat) : (Reg.rndSLink s).addr = 0x44014 + 0x40 * s := rfl
@[simp] theorem Reg.rndSOut_addr (s : Nat) : (Reg.rndSOut s).addr = 0x44018 + 0x40 * s := rfl
@[simp] theorem Reg.vlCfg_addr : Reg.vlCfg.addr = 0x50000 := rfl
@[simp] theorem Reg.vlLpCfg_addr (k : Nat) : (Reg.vlLpCfg k).addr = 0x50100 + 0x40 * k := rfl
@[simp] theorem Reg.vlLpStat_addr (k : Nat) : (Reg.vlLpStat k).addr = 0x50104 + 0x40 * k := rfl
@[simp] theorem Reg.vlLpMacLo_addr (k : Nat) : (Reg.vlLpMacLo k).addr = 0x50108 + 0x40 * k := rfl
@[simp] theorem Reg.vlLpMacHi_addr (k : Nat) : (Reg.vlLpMacHi k).addr = 0x5010C + 0x40 * k := rfl
@[simp] theorem Reg.vlLpIp4_addr (k : Nat) : (Reg.vlLpIp4 k).addr = 0x50110 + 0x40 * k := rfl
@[simp] theorem Reg.vlLpIp6_addr (k w : Nat) : (Reg.vlLpIp6 k w).addr = 0x50114 + 0x40 * k + 0x4 * w := rfl
@[simp] theorem Reg.vlLpRx_addr (k : Nat) : (Reg.vlLpRx k).addr = 0x50124 + 0x40 * k := rfl
@[simp] theorem Reg.vlLpBusy_addr (k : Nat) : (Reg.vlLpBusy k).addr = 0x50128 + 0x40 * k := rfl
@[simp] theorem Reg.vlLpDrop_addr (k : Nat) : (Reg.vlLpDrop k).addr = 0x5012C + 0x40 * k := rfl
@[simp] theorem Reg.vlLpPause_addr (k : Nat) : (Reg.vlLpPause k).addr = 0x50130 + 0x40 * k := rfl
@[simp] theorem Reg.vlTktLo_addr (i : Nat) : (Reg.vlTktLo i).addr = 0x58000 + 0x8 * i := rfl
@[simp] theorem Reg.vlTktHi_addr (i : Nat) : (Reg.vlTktHi i).addr = 0x58004 + 0x8 * i := rfl
@[simp] theorem Reg.pmLodgeIp4_addr : Reg.pmLodgeIp4.addr = 0x200 := rfl
@[simp] theorem Reg.pmLodgeCnt_addr : Reg.pmLodgeCnt.addr = 0x204 := rfl
@[simp] theorem Reg.crCtrl_addr (n : Nat) : (Reg.crCtrl n).addr = 0x1000080000 + 0x100000000 * n := rfl
@[simp] theorem Reg.crCfg_addr (n w : Nat) : (Reg.crCfg n w).addr = 0x1000080040 + 0x100000000 * n + 0x4 * w := rfl
@[simp] theorem Reg.crGStat_addr (n g : Nat) : (Reg.crGStat n g).addr = 0x1000080100 + 0x100000000 * n + 0x10 * g := rfl
@[simp] theorem Reg.crGCnt_addr (n g : Nat) : (Reg.crGCnt n g).addr = 0x1000080104 + 0x100000000 * n + 0x10 * g := rfl
@[simp] theorem Reg.crGTkoNs_addr (n g : Nat) : (Reg.crGTkoNs n g).addr = 0x1000080108 + 0x100000000 * n + 0x10 * g := rfl
@[simp] theorem Reg.crLStat_addr (n l : Nat) : (Reg.crLStat n l).addr = 0x1000080400 + 0x100000000 * n + 0x20 * l := rfl
@[simp] theorem Reg.crLFec_addr (n l : Nat) : (Reg.crLFec n l).addr = 0x1000080404 + 0x100000000 * n + 0x20 * l := rfl
@[simp] theorem Reg.crEgr_addr (n e : Nat) : (Reg.crEgr n e).addr = 0x1000084000 + 0x100000000 * n + 0x4 * e := rfl
@[simp] theorem Reg.crIngLo_addr (n t : Nat) : (Reg.crIngLo n t).addr = 0x1000088000 + 0x100000000 * n + 0x8 * t := rfl
@[simp] theorem Reg.crIngHi_addr (n t : Nat) : (Reg.crIngHi n t).addr = 0x1000088004 + 0x100000000 * n + 0x8 * t := rfl
@[simp] theorem Reg.crIngStat_addr (n : Nat) : (Reg.crIngStat n).addr = 0x1000090000 + 0x100000000 * n := rfl
@[simp] theorem Reg.crEgrStat_addr (n : Nat) : (Reg.crEgrStat n).addr = 0x1000090004 + 0x100000000 * n := rfl
@[simp] theorem Reg.pmStat_addr : Reg.pmStat.addr = 0x0 := rfl
@[simp] theorem Reg.pmWakeStat_addr : Reg.pmWakeStat.addr = 0x4 := rfl
@[simp] theorem Reg.pmWakeCfg_addr : Reg.pmWakeCfg.addr = 0x8 := rfl
@[simp] theorem Reg.pmWakeKey_addr : Reg.pmWakeKey.addr = 0xC := rfl
@[simp] theorem Reg.pmFault_addr : Reg.pmFault.addr = 0x10 := rfl
@[simp] theorem Reg.pmRefCnt0_addr : Reg.pmRefCnt0.addr = 0x14 := rfl
@[simp] theorem Reg.pmRefCnt1_addr : Reg.pmRefCnt1.addr = 0x18 := rfl
@[simp] theorem Reg.pmRefCnt2_addr : Reg.pmRefCnt2.addr = 0x1C := rfl
@[simp] theorem Reg.pmTherm_addr : Reg.pmTherm.addr = 0x24 := rfl
@[simp] theorem Reg.pmDomStat_addr : Reg.pmDomStat.addr = 0x28 := rfl
@[simp] theorem Reg.pmDomFail_addr : Reg.pmDomFail.addr = 0x2C := rfl
@[simp] theorem Reg.pmDomCfg_addr : Reg.pmDomCfg.addr = 0x30 := rfl
@[simp] theorem Reg.pmBayFail_addr (i : Nat) : (Reg.pmBayFail i).addr = 0x40 + 0x4 * i := rfl
@[simp] theorem Reg.pmHubStarts_addr : Reg.pmHubStarts.addr = 0x34 := rfl
@[simp] theorem Reg.pmBootHb_addr : Reg.pmBootHb.addr = 0x38 := rfl
@[simp] theorem Reg.mrReadyLo_addr : Reg.mrReadyLo.addr = 0x10000 := rfl
@[simp] theorem Reg.mrReadyHi_addr : Reg.mrReadyHi.addr = 0x10004 := rfl
@[simp] theorem Reg.mrMode_addr : Reg.mrMode.addr = 0x10010 := rfl
@[simp] theorem Reg.mrModeTkt_addr : Reg.mrModeTkt.addr = 0x10014 := rfl
@[simp] theorem Reg.mrBoot_addr : Reg.mrBoot.addr = 0x10018 := rfl
@[simp] theorem Reg.spBCtrl_addr (b : Nat) : (Reg.spBCtrl b).addr = 0x80000 + 0x10 * b := rfl
@[simp] theorem Reg.spBStat_addr (b : Nat) : (Reg.spBStat b).addr = 0x80004 + 0x10 * b := rfl
@[simp] theorem Reg.spBEcc_addr (b : Nat) : (Reg.spBEcc b).addr = 0x80008 + 0x10 * b := rfl
@[simp] theorem Reg.spBErraddr_addr (b : Nat) : (Reg.spBErraddr b).addr = 0x8000C + 0x10 * b := rfl
@[simp] theorem Reg.spPatrol_addr : Reg.spPatrol.addr = 0x80100 := rfl
@[simp] theorem Reg.evCtrl_addr : Reg.evCtrl.addr = 0x20000 := rfl
@[simp] theorem Reg.evStat_addr : Reg.evStat.addr = 0x20004 := rfl
@[simp] theorem Reg.evHeld_addr : Reg.evHeld.addr = 0x20008 := rfl
@[simp] theorem Reg.evDisc_addr : Reg.evDisc.addr = 0x2000C := rfl
@[simp] theorem Reg.evNext_addr : Reg.evNext.addr = 0x20010 := rfl
@[simp] theorem Reg.evOldest_addr : Reg.evOldest.addr = 0x20014 := rfl
@[simp] theorem Reg.evFlushEpoch_addr : Reg.evFlushEpoch.addr = 0x20018 := rfl
@[simp] theorem Reg.fkFwSel_addr : Reg.fkFwSel.addr = 0x60500 := rfl
@[simp] theorem Reg.fkFwHash_addr (w : Nat) : (Reg.fkFwHash w).addr = 0x60504 + 0x4 * w := rfl
@[simp] theorem Reg.fkFwCtrl_addr : Reg.fkFwCtrl.addr = 0x60534 := rfl
@[simp] theorem Reg.fkFwStat_addr : Reg.fkFwStat.addr = 0x60538 := rfl
@[simp] theorem Reg.updStat_addr : Reg.updStat.addr = 0xA0000 := rfl
@[simp] theorem Reg.updConfirm_addr : Reg.updConfirm.addr = 0xA0004 := rfl
@[simp] theorem Reg.updCfg_addr : Reg.updCfg.addr = 0xA0008 := rfl
@[simp] theorem Reg.updVerActive_addr : Reg.updVerActive.addr = 0xA000C := rfl
@[simp] theorem Reg.updVerStaged_addr : Reg.updVerStaged.addr = 0xA0010 := rfl
@[simp] theorem Reg.updVerFallback_addr : Reg.updVerFallback.addr = 0xA0014 := rfl
@[simp] theorem Reg.updPieces_addr : Reg.updPieces.addr = 0xA0018 := rfl

/-! ### Bundles for rewriting: what a write leaves of another register, and of the other bits of its own -/

theorem State.reads_ne (s : State) {r q : Reg} (h : q.addr ≠ r.addr) :
    ((∀ v, (s.wr r v).rd q = s.rd q) ∧ (∀ v hi lo, (s.wr r v).fld q hi lo = s.fld q hi lo) ∧ ∀ v i, (s.wr r v).bit q i = s.bit q i) ∧
    ((∀ a b v, (s.setFld r a b v).rd q = s.rd q) ∧ (∀ a b v hi lo, (s.setFld r a b v).fld q hi lo = s.fld q hi lo) ∧
      ∀ a b v i, (s.setFld r a b v).bit q i = s.bit q i) ∧
    ((∀ j v, (s.setBit r j v).rd q = s.rd q) ∧ (∀ j v hi lo, (s.setBit r j v).fld q hi lo = s.fld q hi lo) ∧
      ∀ j v i, (s.setBit r j v).bit q i = s.bit q i) ∧
    ((∀ a b n, (s.count r a b n).rd q = s.rd q) ∧ (∀ a b n hi lo, (s.count r a b n).fld q hi lo = s.fld q hi lo) ∧
      ∀ a b n i, (s.count r a b n).bit q i = s.bit q i) :=
  ⟨⟨fun v => s.rd_wr_ne v h, fun v hi lo => s.fld_wr_ne v hi lo h, fun v i => s.bit_wr_ne v i h⟩,
   ⟨fun a b v => s.rd_setFld_ne a b v h, fun a b v hi lo => s.fld_setFld_ne a b v hi lo h, fun a b v i => s.bit_setFld_ne a b v i h⟩,
   ⟨fun j v => s.rd_setBit_ne j v h, fun j v hi lo => s.fld_setBit_ne j v hi lo h, fun j v i => s.bit_setBit_ne j i v h⟩,
   ⟨fun a b n => s.rd_count_ne a b n h, fun a b n hi lo => s.fld_count_ne a b n hi lo h, fun a b n i => s.bit_count_ne a b n i h⟩⟩

theorem State.reads_event (s : State) (typ sev loc ctx addr : Nat) (detail : List Nat) (merge : Bool) {q : Reg}
    (h : q.addr ≠ Reg.evDisc.addr) :
    (s.event typ sev loc ctx addr detail merge).rd q = s.rd q ∧
    (∀ hi lo, (s.event typ sev loc ctx addr detail merge).fld q hi lo = s.fld q hi lo) ∧
    ∀ i, (s.event typ sev loc ctx addr detail merge).bit q i = s.bit q i :=
  ⟨s.event_rd_ne _ _ _ _ _ _ _ q h, fun hi lo => s.event_fld_ne _ _ _ _ _ _ _ q hi lo h, fun i => s.event_bit_ne _ _ _ _ _ _ _ q i h⟩

theorem State.reads_setDom (s : State) (d : Nat) (v : DomSt) {q : Reg} (h : q.addr ≠ Reg.pmDomStat.addr) :
    (s.setDom d v).rd q = s.rd q ∧ (∀ hi lo, (s.setDom d v).fld q hi lo = s.fld q hi lo) ∧ ∀ i, (s.setDom d v).bit q i = s.bit q i :=
  ⟨s.setDom_rd_ne d v q h, fun hi lo => s.setDom_fld_ne d v q hi lo h, fun i => s.setDom_bit_ne d v q i h⟩

/-- A field beside the one that is written. -/
theorem State.reads_fld_other (s : State) (r : Reg) {hi lo hi' lo' : Nat} (h : lo ≤ hi) (hh : hi < 32) (hd : hi' < lo ∨ hi < lo') :
    (∀ v, (s.setFld r hi lo v).fld r hi' lo' = s.fld r hi' lo') ∧ ∀ n, (s.count r hi lo n).fld r hi' lo' = s.fld r hi' lo' :=
  ⟨fun v => s.fld_setFld_other r hi lo v hi' lo' h hh hd, fun n => s.fld_count_other r hi lo n hi' lo' h hh hd⟩

/-- A bit beside the field that is written. -/
theorem State.reads_bit_other (s : State) (r : Reg) {hi lo i : Nat} (h : lo ≤ hi) (hh : hi < 32) (hd : i < lo ∨ hi < i) :
    (∀ v, (s.setFld r hi lo v).bit r i = s.bit r i) ∧ ∀ n, (s.count r hi lo n).bit r i = s.bit r i :=
  ⟨fun v => s.bit_setFld_other r hi lo v i h hh hd, fun n => s.bit_count_other r hi lo n i h hh hd⟩

end Sys2Proof.Machine
end

