-- ==== Sys2Proof/Proofs/States.lean ====
section
set_option Elab.async false
/-!
PROOF. Concrete states for the refutations: a module at work, from which each counterexample departs.
-/
namespace Sys2Proof.Machine

/-- The state that a command leaves. -/
def stateAfter (o : Out) : State := match o with | .next t => t | _ => State.reset

/-- A module in a mode with the domains of a list on, the epoch count running and scheduling enabled. -/
def State.working (mode : Nat) (doms : List Nat) : State :=
  { State.reset with
    regs := [(0x0, BitVec.ofNat 32 mode), (0x10088, 1)]
    so := { ready := 2 ^ 53 - 1, mapReady := true }
    pw := { doms := doms.map fun d => (d, { ph := 2 }), crystal := true, mpClock := true, cold := false, image := 1, sched := true } }

/-- The entry whose ticket register is the design-cycle counter of plane 0 of bay 0 in tile 0: no entry of the ticket table. -/
def dccTicket : Nat := (0x1000020108 - 0x58000) / 8

end Sys2Proof.Machine
end


-- ==== Sys2Proof/Proofs/QueueAndEpoch.lean ====
section
set_option Elab.async false
/-!
PROOF. The queue's front, the reset state and the epoch count: O52, O53, O50.
-/
namespace Sys2Proof.Machine

/-- What keeps the registers of the epoch keeps the epoch count. -/
theorem Touches.epoch_eq {P : List Part} {s t : State} (h : Touches P s t) (hP : Part.ep ∉ P := by decide) : t.epoch = s.epoch := by
  unfold State.epoch State.rd64
  rw [h.rd_keep .ep (r := Reg.mrEpochLo) rfl hP, h.rd_keep .ep (r := Reg.mrEpochHi) rfl hP]

theorem State.epoch_wr64 (s : State) (v : Nat) (h : v < 2 ^ 64) : (s.wr64 Reg.mrEpochLo Reg.mrEpochHi v).epoch = v :=
  State.rd64_wr64_same _ _ _ _ (by decide) h

/-- The count goes on by one; the slow clock's flag stands beside it. -/
theorem State.epochNext_epoch (s : State) : s.epochNext.epoch = (s.epoch + 1) % 2 ^ 64 := by
  have hnext : (s.wr64 Reg.mrEpochLo Reg.mrEpochHi ((s.epoch + 1) % 2 ^ 64)).epoch = (s.epoch + 1) % 2 ^ 64 :=
    State.epoch_wr64 s _ (Nat.mod_lt _ (Nat.two_pow_pos _))
  unfold State.epochNext
  extract_lets s1
  split
  · have hlo : (s1.setBit Reg.mrEpochStat 1 false).epoch = s1.epoch := by
      unfold State.epoch State.rd64
      rw [State.rd_setBit_ne _ _ _ (by decide), State.rd_setBit_ne _ _ _ (by decide)]
    rw [(State.event_touches ..).epoch_eq, hlo, hnext]
  · exact hnext

/-- Before the count goes on, a strobe answers what is owed and counts the watchdogs down; neither touches the count. -/
theorem State.strobe_epoch (s : State) : s.strobe.epoch = (s.epoch + 1) % 2 ^ 64 := by
  unfold State.strobe
  extract_lets s1 s2 s3 s4 s5
  have h2 : Touches [.regs, .vl, .tkts, .replies, .pw] s s2 :=
    .then (.then (State.owedAnswers_touches s).mono (State.wdtEpoch_touches ..)) .setPw
  have h3 : Touches [.regs, .fab, .so, .rnd, .tal, .mcs, .cr] s2.epochNext s3 :=
    .then (.then (.then (State.bankFlip_touches _).mono (State.latchEpoch_touches _)) (State.stampEpoch_touches _))
      (State.epochCounts_touches _)
  have h4 : Touches [.regs, .fab] s3 s4 := .each .refl fun _ _ => State.tileEpoch_touches ..
  have h5 : s5.epoch = s4.epoch := by
    rw [(State.schedule_touches _).epoch_eq, (State.readyLatch_touches _).epoch_eq, (State.evMerge_touches _).epoch_eq]
  rw [(State.sweepTurn_touches _).epoch_eq, (State.crossChecks_touches _).epoch_eq, (State.retunes_touches _).epoch_eq,
    (State.grantWindows_touches _).epoch_eq, h5, h4.epoch_eq, h3.epoch_eq, State.epochNext_epoch, h2.epoch_eq]

theorem exec_epochStrobe (s : State) : exec .epochStrobe s = s.when (s.hubOn && s.bit Reg.mrEpochStat 0) s.strobe := rfl

end Sys2Proof.Machine

namespace Sys2Proof.Proofs
open Sys2Proof Sys2Proof.Machine

/-- Settles O52: both by the queue's two forms. -/
theorem stepRunsFront : Obligations.StepRunsFront :=
  ⟨fun _ _ _ => rfl, fun s h => by rw [step, h]⟩

/-- In the Page Map region an unlisted address reads as the check word of a free entry (log entry 11), which is not 0. -/
theorem reset_byte_pageMap : State.reset.byte 0x1000000000C ≠ 0 := by decide +kernel

/-- Refutes O53: it says that every byte reads 0 after a cold reset, and the check word of the Page Map's first entry does not. -/
theorem not_resetState : ¬ Obligations.ResetState := by
  intro h
  obtain ⟨-, -, -, -, -, -, hbyte, -⟩ := h
  exact reset_byte_pageMap (hbyte 0x1000000000C)

/-- Settles O50: every operation of the strobe but the count's own leaves the count. -/
theorem epochMovesOn : Obligations.EpochMovesOn := by
  intro s
  refine ⟨fun hhub hrun => ⟨_, State.when_of _ _ (by rw [hhub, hrun]; rfl), s.strobe_epoch⟩, fun hoff => ?_⟩
  rw [exec_epochStrobe, State.when_not _ _ (Bool.and_eq_false_iff.mpr hoff)]

end Sys2Proof.Proofs
end

