-- ==== Sys2Proof/Proofs/Cores.lean ====
section
set_option Elab.async false
/-!
PROOF. The four hart cores: watchdogs, run control, register access, comparators (R258–R270): O14, O12, O13.
-/
namespace Sys2Proof.Machine

/-! ### A core that halts -/

/-- A core that halts changes its own status and watchdog, and its record. -/
theorem State.freeRegs_rd_ne (s : State) (c : Nat) {q : Reg} (h : q.addr ≠ (Reg.dbgCStat c).addr) : (s.freeRegs c).rd q = s.rd q := by
  unfold State.freeRegs
  exact State.rd_setFld_ne _ _ _ _ h

theorem State.freeRegs_low (s : State) (c : Nat) :
    (s.freeRegs c).bit (Reg.dbgCStat c) 0 = s.bit (Reg.dbgCStat c) 0 ∧
      (s.freeRegs c).fld (Reg.dbgCStat c) 3 1 = s.fld (Reg.dbgCStat c) 3 1 := by
  simp (disch := decide) [State.freeRegs, State.reads_bit_other, State.reads_fld_other]

theorem State.haltOne_rd_ne (s : State) (c cause cmp : Nat) {q : Reg} (h : q.addr ≠ (Reg.dbgCStat c).addr)
    (h' : q.addr ≠ (Reg.dbgWdtStat c).addr) : (s.haltOne c cause cmp).rd q = s.rd q := by
  simp only [State.haltOne]
  split_ifs <;> simp [State.freeRegs_rd_ne _ _ h, State.reads_ne _ h, State.reads_ne _ h']

theorem Reg.dbgCStat_ne_wdtStat (c d : Fin 4) : (Reg.dbgCStat c).addr ≠ (Reg.dbgWdtStat d).addr := by
  simp only [Reg.dbgCStat, Reg.dbgWdtStat]
  omega

theorem State.haltOne_stat (s : State) (c : Fin 4) (cause cmp : Nat) :
    (s.haltOne c cause cmp).halted c = true ∧ (s.haltOne c cause cmp).fld (Reg.dbgCStat c) 3 1 = cause % 8 ∧
      (s.haltOne c cause cmp).bit (Reg.dbgWdtStat c) 1 = true := by
  have hne := Reg.dbgCStat_ne_wdtStat c c
  have hfree : ∀ t : State, (t.freeRegs c).bit (Reg.dbgWdtStat c) 1 = t.bit (Reg.dbgWdtStat c) 1 := fun t => by
    rw [State.bit, State.freeRegs_rd_ne _ _ hne.symm, State.bit]
  simp only [State.haltOne, State.halted]
  split_ifs <;>
    simp (disch := decide) [State.freeRegs_low, hfree, State.reads_ne _ hne, State.reads_ne _ hne.symm, State.reads_bit_other,
      State.reads_fld_other, State.fld_setFld_same]

theorem State.haltAsk_regs (s : State) (c cause cmp : Nat) : (s.haltAsk c cause cmp).regs = s.regs := by
  unfold State.haltAsk
  split <;> simp

/-- A core's halt reaches the other cores of the group and leaves every register of its own. -/
theorem State.groupHalt_rd_ne (s : State) (c : Nat) {q : Reg}
    (h : ∀ d : Fin 4, d.val ≠ c → q.addr ≠ (Reg.dbgCStat d).addr ∧ q.addr ≠ (Reg.dbgWdtStat d).addr) :
    (s.groupHalt c).rd q = s.rd q := by
  unfold State.groupHalt
  refine State.each_keeps (fun t => t.rd q = s.rd q) _ _ _ (fun t d hd ht => ?_) rfl
  obtain ⟨hlt, hdc⟩ : d < 4 ∧ d ≠ c := by
    simp only [List.mem_filter, List.mem_range, Bool.and_eq_true, decide_eq_true_eq] at hd
    exact ⟨hd.1, hd.2.1.1.1⟩
  obtain ⟨h1, h2⟩ := h ⟨d, hlt⟩ hdc
  split
  · rw [State.rd, State.haltAsk_regs]
    exact ht
  · rw [State.haltOne_rd_ne _ _ _ _ h1 h2, ht]

theorem State.groupHalt_stat (s : State) (c : Fin 4) :
    (s.groupHalt c).rd (Reg.dbgCStat c) = s.rd (Reg.dbgCStat c) ∧ (s.groupHalt c).rd (Reg.dbgWdtStat c) = s.rd (Reg.dbgWdtStat c) ∧
      (s.groupHalt c).rd (Reg.dbgWdtCount c) = s.rd (Reg.dbgWdtCount c) := by
  refine ⟨?_, ?_, ?_⟩ <;>
    exact State.groupHalt_rd_ne _ _ fun d hd => by
      simp only [Reg.dbgCStat, Reg.dbgWdtStat, Reg.dbgWdtCount]
      omega

/-! ### A core that starts -/

/-- A core that is not to halt at its start runs; one that is halts with cause 4. -/
theorem State.coresStart_one (s : State) (c : Nat) :
    s.coresStart [c] = if s.bit (Reg.dbgCCtrl c) 4 then
      (if s.bit (Reg.dbgCCtrl c) 5 then ((s.coreUp c).haltOne c 4 0).groupHalt c else (s.coreUp c).haltOne c 4 0)
      else s.coreUp c := by
  unfold State.coresStart
  by_cases h4 : s.bit (Reg.dbgCCtrl c) 4 = true <;> by_cases h5 : s.bit (Reg.dbgCCtrl c) 5 = true <;> simp [h4, h5]

/-! ### Watchdogs (R270) -/

/-- The state after the first expiry. -/
def State.wdtFirst (s : State) (c : Nat) : State :=
  let core := s.core c
  let irqs := if core.haltReq.isSome && !core.irqs.contains 0 then core.irqs ++ [0] else core.irqs
  (((s.setCore c { core with irqs := irqs }).setBit (Reg.dbgWdtStat c) 2 true).wr (Reg.dbgWdtCount c)
    (s.rd (Reg.dbgWdtLoad c))).event 0x0402 5 (256 * c) (s.fld (Reg.dbgCStat c) 31 16)

theorem exec_watchdogExpiry (c : Fin 4) (s : State) : exec (.watchdogExpiry c) s =
    s.when (s.wdtRuns c && s.rd (Reg.dbgWdtCount c) = 0) (if s.bit (Reg.dbgWdtStat c) 2 then s.wdtReset c else s.wdtFirst c) := rfl

theorem State.wdtFirst_reads (s : State) (c : Fin 4) : (s.wdtFirst c).bit (Reg.dbgWdtStat c) 2 = true ∧
    (s.wdtFirst c).rd (Reg.dbgWdtCount c) = s.rd (Reg.dbgWdtLoad c) := by
  have hstat : (Reg.dbgWdtStat c).addr ≠ Reg.evDisc.addr := by simp only [Reg.dbgWdtStat, Reg.evDisc]; omega
  have hcount : (Reg.dbgWdtCount c).addr ≠ Reg.evDisc.addr := by simp only [Reg.dbgWdtCount, Reg.evDisc]; omega
  have hne : (Reg.dbgWdtStat c).addr ≠ (Reg.dbgWdtCount c).addr := by simp only [Reg.dbgWdtStat, Reg.dbgWdtCount]; omega
  constructor
  · simp [State.wdtFirst, State.reads_event _ _ _ _ _ _ _ _ hstat, State.reads_ne _ hne]
  · simp [State.wdtFirst, State.reads_event _ _ _ _ _ _ _ _ hcount]

/-- The state in which a second expiry resets the core: its event sent, its bit cleared, its count reloaded. -/
def State.wdtCleared (s : State) (c : Nat) : State :=
  let s1 := (s.event 0x0403 6 (256 * c) (s.fld (Reg.dbgCStat c) 31 16)).setBit (Reg.dbgWdtStat c) 2 false
  s1.wr (Reg.dbgWdtCount c) (s1.rd (Reg.dbgWdtLoad c))

/-- Outside a trial that is not confirmed the core alone starts. -/
theorem State.wdtReset_core (s : State) (c : Nat)
    (h : ¬(s.pw.image = 2 ∧ s.bootRec.stage = 4 ∧ s.bootRec.promote = 0 ∧ s.pw.flushReset = false)) :
    s.wdtReset c = { (s.wdtCleared c).coresStart [c] with pw := { ((s.wdtCleared c).coresStart [c]).pw with wdtReset := true } } := by
  have hT : Touches [.evr, .regs, .draw, .ev, .dbg] s ((s.wdtCleared c).coresStart [c]) :=
    .then (.then (.then (State.event_touches ..).mono (State.setBit_part .regs _ _ _ _ (regPart_regs (le_index (by decide)))))
      (State.wr_part .regs _ _ _ (regPart_regs (le_index (by decide))))) (State.coresStart_touches _ _)
  unfold State.wdtReset
  extract_lets +onlyGivenNames s1 s2 src s3
  have hpw : s2.pw = s.pw := hT.pw_eq
  have hrec : s3.bootRec = s.bootRec := by
    unfold State.bootRec State.recOne
    rw [show s3.fl = s.fl from hT.fl_eq]
  have hguard : (s3.pw.image = 2 && s3.bootRec.stage = 4 && s3.bootRec.promote = 0 && !s3.pw.flushReset) = false := by
    rw [hrec]
    simpa [s3, src, hpw] using h
  rw [hguard]
  rfl

theorem State.wdtCleared_coreUp (s : State) (c : Fin 4) :
    ((s.wdtCleared c).coreUp c).bit (Reg.dbgWdtStat c) 2 = false ∧
      ((s.wdtCleared c).coreUp c).rd (Reg.dbgWdtCount c) = s.rd (Reg.dbgWdtLoad c) ∧
      ((s.wdtCleared c).coreUp c).halted c = false ∧ (s.wdtCleared c).bit (Reg.dbgCCtrl c) 4 = s.bit (Reg.dbgCCtrl c) 4 := by
  refine ⟨?_, ?_, ?_, ?_⟩ <;>
  simp (disch := first | omega | (dsimp; omega) | fail) [State.wdtCleared, State.coreUp, State.halted, State.reads_ne, State.reads_event, State.bit_setBit_other, State.bit_wr_same]

theorem State.coreUp_core (s : State) (c : Nat) : (s.coreUp c).core c = { wdtHold := s.bit (Reg.dbgCCtrl c) 4 } := by
  exact State.core_setCore _ _ _

/-- A core that halts at its start, alone or with its group, reads as one that starts, but for the halt. -/
theorem State.coresStart_one_stat (s : State) (c : Fin 4) :
    (s.coresStart [c.val]).bit (Reg.dbgWdtStat c) 2 = (s.coreUp c).bit (Reg.dbgWdtStat c) 2 ∧
      (s.coresStart [c.val]).rd (Reg.dbgWdtCount c) = (s.coreUp c).rd (Reg.dbgWdtCount c) ∧
      (s.bit (Reg.dbgCCtrl c) 4 = true → (s.coresStart [c.val]).halted c = true ∧ (s.coresStart [c.val]).fld (Reg.dbgCStat c) 3 1 = 4) := by
  obtain ⟨hhalted, hcause, -⟩ := (s.coreUp c).haltOne_stat c 4 0
  obtain ⟨g1, g2, g3⟩ := ((s.coreUp c).haltOne c 4 0).groupHalt_stat c
  have hbit : ((s.coreUp c).haltOne c 4 0).bit (Reg.dbgWdtStat c) 2 = (s.coreUp c).bit (Reg.dbgWdtStat c) 2 := by
    simp (disch := first | omega | (dsimp; omega) | fail) [State.haltOne, State.reads_ne, State.bit_setBit_other]
  have hrd : ((s.coreUp c).haltOne c 4 0).rd (Reg.dbgWdtCount c) = (s.coreUp c).rd (Reg.dbgWdtCount c) :=
    State.haltOne_rd_ne _ _ _ _ (by simp; omega) (by simp)
  rw [State.coresStart_one]
  split_ifs with h4 h5
  · refine ⟨?_, g3.trans hrd, fun _ => ⟨?_, ?_⟩⟩
    · rw [State.bit, g2]; exact hbit
    · rw [State.halted, State.bit, g1]; exact hhalted
    · rw [State.fld, g1]; exact hcause
  · exact ⟨hbit, hrd, fun _ => ⟨hhalted, hcause⟩⟩
  · exact ⟨rfl, rfl, fun h => absurd h h4⟩

end Sys2Proof.Machine

namespace Sys2Proof.Proofs
open Sys2Proof Sys2Proof.Machine

/-- Settles O14: a kick and the first expiry are two writes; the second expiry clears the watchdog and starts the core. -/
theorem watchdogs : Obligations.Watchdogs := by
  intro c s
  refine ⟨fun hhub => ⟨s.wr (Reg.dbgWdtCount c) (s.rd (Reg.dbgWdtLoad c)), State.when_of _ _ hhub, ?_,
    fun q hq => State.rd_wr_ne _ _ hq, rfl⟩, fun hruns hzero => ⟨fun hbit => ?_, fun hbit htrial => ?_⟩⟩
  · simp
  · obtain ⟨h1, h2⟩ := s.wdtFirst_reads c
    refine ⟨s.wdtFirst c, ?_, h1, h2, fun a => by simp [State.wdtFirst]⟩
    rw [exec_watchdogExpiry, State.when_of _ _ (by simp [hruns, hzero]), hbit]
    rfl
  · obtain ⟨h1, h2, h3, h4⟩ := s.wdtCleared_coreUp c
    obtain ⟨g1, g2, g3⟩ := (s.wdtCleared c).coresStart_one_stat c
    refine ⟨s.wdtReset c, ?_, ?_⟩
    · rw [exec_watchdogExpiry, State.when_of _ _ (by simp [hruns, hzero]), hbit]
      rfl
    rw [State.wdtReset_core s c htrial]
    refine ⟨g1.trans h1, g2.trans h2, rfl, fun a => ?_, fun hc => ?_, fun hc => g3 (h4.trans hc)⟩
    · have hb := (State.coresStart_touches (s.wdtCleared c) [c.val]).byte_eq a
      simpa [State.wdtCleared] using hb
    · have hc' : (s.wdtCleared c).bit (Reg.dbgCCtrl c) 4 = false := h4.trans hc
      have hup : (s.wdtCleared c).coresStart [c.val] = (s.wdtCleared c).coreUp c := by
        rw [State.coresStart_one, if_neg (by simp [hc'])]
      rw [hup]
      exact ⟨by simpa [hc'] using (s.wdtCleared c).coreUp_core c, by simpa [State.halted] using h3⟩

end Sys2Proof.Proofs
end

