-- ==== Sys2Proof/Proofs/CoreControl.lean ====
section
set_option Elab.async false
/-!
PROOF. Run control of the cores, their registers and comparators (R258–R269): O12, O13.
-/
namespace Sys2Proof.Machine

/-! ### Halt, resume and step -/

theorem State.coreOn_haltOne_ne (s : State) {c d : Fin 4} (cause cmp : Nat) (h : d ≠ c) :
    (s.haltOne c cause cmp).coreOn d = s.coreOn d ∧ (s.haltOne c cause cmp).halted d = s.halted d := by
  have hne : d.val ≠ c.val := fun e => h (Fin.ext e)
  have hrd : (s.haltOne c cause cmp).rd (Reg.dbgCStat d) = s.rd (Reg.dbgCStat d) :=
    State.haltOne_rd_ne _ _ _ _ (by simp; omega) (Reg.dbgCStat_ne_wdtStat d c)
  have hhub : (s.haltOne c cause cmp).hubOn = s.hubOn := by
    unfold State.hubOn State.domOn State.dom
    rw [(State.haltOne_touches ..).pw_eq]
  simp only [State.coreOn, State.halted, State.bit, hrd, hhub, and_self]

theorem State.coreWaits_congr {s t : State} (h : t.rnd = s.rnd) (d : Nat) : t.coreWaits d = s.coreWaits d := by
  unfold State.coreWaits
  rw [h]

/-- The other cores of the group that run and wait for no access halt with cause 5. -/
theorem State.groupHalt_halts (s : State) {c d : Fin 4} (h : d ≠ c) (hgroup : s.bit (Reg.dbgCCtrl d) 5 = true) (hon : s.coreOn d = true)
    (hruns : s.halted d = false) (hwaits : s.coreWaits d = false) :
    (s.groupHalt c).halted d = true ∧ (s.groupHalt c).fld (Reg.dbgCStat d) 3 1 = 5 := by
  have hne : d.val ≠ c.val := fun e => h (Fin.ext e)
  unfold State.groupHalt
  refine State.each_establishes (fun t => t.coreWaits d = false) (fun t => t.halted d = true ∧ t.fld (Reg.dbgCStat d) 3 1 = 5) _ d.val _ s
    (by simp [hne, hgroup, hon, hruns]) (fun t e he ht => ?_) (fun t ht => ?_) (fun t e he ht hq => ?_) hwaits
  · split
    · exact (State.coreWaits_congr (State.haltAsk_touches ..).rnd_eq d).trans ht
    · exact (State.coreWaits_congr (State.haltOne_touches ..).rnd_eq d).trans ht
  · rw [if_neg (by simp [ht])]
    obtain ⟨h1, h2, -⟩ := t.haltOne_stat d 5 0
    exact ⟨h1, h2⟩
  · have he4 : e < 4 := List.mem_range.mp (List.mem_of_mem_filter he)
    split
    · have hrd : ∀ q, ((t.setCore e { t.core e with haltReq := none }).haltAsk e 5 0).rd q = t.rd q := fun q => by
        rw [State.rd, State.haltAsk_regs]
        rfl
      simpa only [State.halted, State.bit, State.fld, hrd] using hq
    · by_cases hed : e = d
      · subst hed
        obtain ⟨h1, h2, -⟩ := t.haltOne_stat d 5 0
        exact ⟨h1, h2⟩
      · have hrd : (t.haltOne e 5 0).rd (Reg.dbgCStat d) = t.rd (Reg.dbgCStat d) :=
          State.haltOne_rd_ne _ _ _ _ (by simp; omega) (by simp; omega)
        simpa only [State.halted, State.bit, State.fld, hrd] using hq

/-- A core that is released runs, with no cause and its watchdog counting; nothing changes but its registers and its record. -/
theorem State.coreRelease_stat (s : State) (c : Fin 4) :
    (s.coreRelease c).halted c = false ∧ (s.coreRelease c).bit (Reg.dbgWdtStat c) 1 = false := by
  simp only [State.coreRelease, State.halted]
  split_ifs <;>
    simp (disch := first | omega | (dsimp; omega) | fail) [State.reads_ne, State.reads_bit_other, State.bit_setBit_other]

theorem State.coreRelease_core (s : State) (c : Nat) : (s.coreRelease c).core c = { s.core c with wdtHold := false } := by
  unfold State.coreRelease
  dsimp only
  split
  · simp only [State.core]
    simp
  · simp only [State.core]
    simp

end Sys2Proof.Machine

namespace Sys2Proof.Proofs
open Sys2Proof Sys2Proof.Machine

theorem coreRunControl : Obligations.CoreRunControl := by
  intro c s hon
  refine ⟨fun hruns => ⟨⟨s.haltAsk c 1 0, ?_, ?_, State.haltAsk_regs ..⟩, ?_, ?_⟩, fun hhalt => ?_, fun r hr hruns hwaits => ?_⟩
  · simp [exec, execCoreHalt, State.coreCtrl, hon, hruns, bitOf]
  · cases hreq : (s.core c).haltReq <;> simp [State.haltAsk, hon, hruns, hreq]
  · simp [exec, execCoreResume, State.coreCtrl, hon, hruns, bitOf]
  · simp [exec, execCoreStep, State.coreCtrl, hon, hruns, bitOf]
  · obtain ⟨h1, h2⟩ := s.coreRelease_stat c
    refine ⟨?_, ⟨(s.coreRelease c).setCore c { (s.coreRelease c).core c with irqs := [] }, ?_, ?_, ?_, ?_, ?_⟩,
      ⟨s.coreCtrl c 4, rfl, ?_⟩⟩
    · simp [exec, execCoreHalt, State.coreCtrl, hon, hhalt, bitOf]
    · simp [exec, execCoreResume, State.coreCtrl, hon, hhalt, bitOf]
    · simpa [State.halted] using h1
    · simpa using h2
    · simp
    · exact Touches.eq_blend (P := [.regs, .dbg]) (.then (State.coreRelease_touches s c).mono (State.setCore_touches ..)) (by decide)
    · have hstep : s.coreCtrl c 4 = (s.coreRelease c).setCore c { (s.coreRelease c).core c with
          haltReq := some 3
          irqs := if s.bit (Reg.dbgCCtrl c) 3 then (s.core c).irqs.filter (fun q => (s.coreIrqs c).head? ≠ some q) else (s.core c).irqs } := by
        simp [State.coreCtrl, hon, hhalt, bitOf, State.coreRelease_core]
      rw [hstep]
      refine ⟨by simpa [State.halted] using h1, by simp, by simp,
        Touches.eq_blend (P := [.regs, .dbg]) (.then (State.coreRelease_touches s c).mono (State.setCore_touches ..)) (by decide)⟩
  · obtain ⟨h1, h2, h3⟩ := s.haltOne_stat c (r % 8) (r / 8)
    obtain ⟨g1, g2, -⟩ := (s.haltOne c (r % 8) (r / 8)).groupHalt_stat c
    refine ⟨s.haltNow c (r % 8) (r / 8), ?_, ?_⟩
    · simp [exec, execCoreHaltTakesEffect, hr, hon, hruns, hwaits]
    · have hmod : r % 8 % 8 = r % 8 := by omega
      have hbyte : ∀ a, (s.haltNow c (r % 8) (r / 8)).byte a = s.byte a := fun a => (State.haltNow_touches ..).byte_eq a
      by_cases hgrp : s.bit (Reg.dbgCCtrl c) 5 = true
      · have hnow : s.haltNow c (r % 8) (r / 8) = (s.haltOne c (r % 8) (r / 8)).groupHalt c := by simp [State.haltNow, hgrp]
        refine ⟨?_, ?_, ?_, fun d _ hd hdg hdon hdr hdw => ?_, hbyte⟩
        · rw [hnow, State.halted, State.bit, g1]; exact h1
        · rw [hnow, State.fld, g1]; exact h2.trans hmod
        · rw [hnow, State.bit, g2]; exact h3
        · obtain ⟨k1, k2⟩ := s.coreOn_haltOne_ne (r % 8) (r / 8) hd
          have hne : d.val ≠ c.val := fun e => hd (Fin.ext e)
          have hbit : (s.haltOne c (r % 8) (r / 8)).bit (Reg.dbgCCtrl d) 5 = s.bit (Reg.dbgCCtrl d) 5 := by
            rw [State.bit, State.haltOne_rd_ne _ _ _ _ (by simp; omega) (by simp; omega), State.bit]
          rw [hnow]
          exact State.groupHalt_halts _ hd (hbit.trans hdg) (k1.trans hdon) (k2.trans hdr)
            ((State.coreWaits_congr (State.haltOne_touches ..).rnd_eq d).trans hdw)
      · have hnow : s.haltNow c (r % 8) (r / 8) = s.haltOne c (r % 8) (r / 8) := by simp [State.haltNow, hgrp]
        exact ⟨hnow ▸ h1, hnow ▸ h2.trans hmod, hnow ▸ h3, fun d hg => absurd hg hgrp, hbyte⟩

end Sys2Proof.Proofs
end

