-- ==== Sys2Proof/Proofs/CoreAccess.lean ====
section
set_option Elab.async false
/-!
PROOF. The registers of a halted core, comparators and reservations (R261–R269): O13.
-/
namespace Sys2Proof.Machine

/-! ### Register access -/

theorem exec_coreRegdataAccess (c : Fin 4) (write hi : Bool) (v : Word) (s : State) :
    exec (.coreRegdataAccess c write hi v) s = s.when (s.halted c && write) (s.regdataWrite c hi v.toNat) := rfl

/-- A register of a halted core takes what is written, and the core's others stay. -/
theorem State.coreRegWrite_reg (s : State) (c : Fin 4) (v : Nat) (h : s.fld (Reg.dbgCRegsel c) 5 0 ≤ 36) :
    (s.coreRegWrite c v).coreReg c = v ∧
      ∀ i, i ≠ s.fld (Reg.dbgCRegsel c) 5 0 → SMap.get ((s.coreRegWrite c v).core c).regs i 0 = SMap.get (s.core c).regs i 0 := by
  have hsel : (s.coreRegWrite c v).fld (Reg.dbgCRegsel c) 5 0 = s.fld (Reg.dbgCRegsel c) 5 0 := by
    simp only [State.coreRegWrite]
    split_ifs <;> simp (disch := first | omega | (dsimp; omega) | fail) [State.reads_ne]
  have hcore : (s.coreRegWrite c v).core c = { s.core c with regs := SMap.set (s.core c).regs (s.fld (Reg.dbgCRegsel c) 5 0) v 0 } := by
    simp only [State.coreRegWrite, if_neg (Nat.not_lt.mpr h)]
    split
    · simp only [State.core]
      simp
    · simp
  constructor
  · rw [State.coreReg, hsel, hcore, SMap.get_set_same]
  · intro i hi
    rw [hcore, SMap.get_set_ne _ _ _ _ hi]

/-! ### Comparators -/

/-- The state behind a match, before its action: the context shown, the path's hits taken, the comparator's own set. -/
def State.cmpHit (s : State) (c k ctx : Nat) : State :=
  let s0 := s.setFld (Reg.dbgCStat c) 31 16 ctx
  let s1 := if s.cmpFld c k 21 20 < 2 then
      s0.each ((s.linkPath c 9 k).getD []) (fun t p => t.setBit (Reg.dbgCCmpCtrl c p) 19 false) else s0
  s1.setBit (Reg.dbgCCmpCtrl c k) 19 true

theorem State.cmpHit_touches (s : State) (c k ctx : Nat) : Touches [.regs] s (s.cmpHit c k ctx) := by
  refine .then (.ite (.each ?_ fun _ _ => ?_) ?_) (State.setBit_part .regs _ _ _ _ (regPart_regs (le_index (le_index (by decide)))))
  · exact State.setFld_part .regs _ _ _ _ _ (regPart_regs (le_index (by decide)))
  · exact State.setBit_part .regs _ _ _ _ (regPart_regs (le_index (le_index (by decide))))
  · exact State.setFld_part .regs _ _ _ _ _ (regPart_regs (le_index (by decide)))

theorem State.cmpHit_reads (s : State) (c : Fin 4) (k : Fin 8) (ctx : BitVec 16) :
    (s.cmpHit c k ctx.toNat).bit (Reg.dbgCCmpCtrl c k) 19 = true ∧ (s.cmpHit c k ctx.toNat).fld (Reg.dbgCStat c) 31 16 = ctx.toNat ∧
      (s.cmpHit c k ctx.toNat).coreOn c = s.coreOn c ∧ (s.cmpHit c k ctx.toNat).halted c = s.halted c ∧
      (s.cmpHit c k ctx.toNat).core c = s.core c := by
  have hpath : ∀ (xs : List Nat) (t : State), (t.each xs (fun t p => t.setBit (Reg.dbgCCmpCtrl c p) 19 false)).rd (Reg.dbgCStat c) =
      t.rd (Reg.dbgCStat c) := fun xs t =>
    State.each_keeps (fun u => u.rd (Reg.dbgCStat c) = t.rd (Reg.dbgCStat c)) _ _ _
      (fun u p _ hu => (State.rd_setBit_ne _ _ _ (by simp; omega)).trans hu) rfl
  have hstat : (s.cmpHit c k ctx.toNat).rd (Reg.dbgCStat c) = (s.setFld (Reg.dbgCStat c) 31 16 ctx.toNat).rd (Reg.dbgCStat c) := by
    unfold State.cmpHit
    dsimp only
    rw [State.rd_setBit_ne _ _ _ (by simp; omega)]
    split
    · exact hpath _ _
    · rfl
  have hT := s.cmpHit_touches c k ctx.toNat
  have hlow : ∀ i, i < 16 → (s.cmpHit c k ctx.toNat).bit (Reg.dbgCStat c) i = s.bit (Reg.dbgCStat c) i := fun i hi => by
    rw [State.bit, hstat, bitOf_rd, State.bit_setFld_other _ _ _ _ _ _ (by decide) (by decide) (.inl hi)]
  refine ⟨?_, ?_, ?_, hlow 0 (by decide), ?_⟩
  · unfold State.cmpHit
    exact State.bit_setBit_same _ _ _ _ (by decide)
  · rw [State.fld, hstat, bitsOf_rd, State.fld_setFld_same _ _ _ _ _ (by decide) (by decide)]
    have := ctx.isLt
    omega
  · unfold State.coreOn State.hubOn State.domOn State.dom
    rw [hlow 8 (by decide), hT.pw_eq]
  · unfold State.core
    rw [hT.dbg_eq]

theorem exec_comparatorMatch (c : Fin 4) (k : Fin 8) (kind : Fin 3) (addr : BitVec 48) (len : Fin 65) (pc : BitVec 64) (ctx : BitVec 16)
    (s : State) (hon : s.coreOn c = true) (hruns : s.halted c = false) (hreq : (s.core c).haltReq = none)
    (hm : s.cmpMatches c k kind addr.toNat len ctx.toNat = true) :
    exec (.comparatorMatch c k kind addr len pc ctx) s = .next (
      let s2 := s.cmpHit c k ctx.toNat
      if s.cmpFld c k 21 20 = 0 then
        (s2.setCore c { s2.core c with haltPc := if kind.val = 0 then some pc.toNat else none, haltCtx := some ctx.toNat }).haltAsk c 2 k
      else if s.cmpFld c k 21 20 = 1 then
        s2.event 0x0401 1 (256 * c + k.val) ctx.toNat 0 [pc.toNat % 2 ^ 32, pc.toNat / 2 ^ 32]
      else s2) := by
  obtain ⟨-, -, -, -, hcore⟩ := s.cmpHit_reads c k ctx
  have hnone : ((s.cmpHit c k ctx.toNat).core c).haltReq.isNone = true := by rw [hcore, hreq]; rfl
  refine (State.when_of s _ (by simp [hon, hruns, hreq, hm])).trans (congrArg _ ?_)
  by_cases h0 : s.cmpFld c k 21 20 = 0
  · rw [if_pos h0, if_pos h0, if_neg (by simp [hreq])]
    exact if_pos hnone
  · rw [if_neg h0, if_neg h0]
    rfl

theorem State.coreOn_congr {s t : State} (hp : t.pw = s.pw) (hr : t.regs = s.regs) (c : Nat) :
    t.coreOn c = s.coreOn c ∧ t.halted c = s.halted c := by
  have hhub : t.hubOn = s.hubOn := by unfold State.hubOn State.domOn State.dom; rw [hp]
  have hrd : t.rd (Reg.dbgCStat c) = s.rd (Reg.dbgCStat c) := by unfold State.rd; rw [hr]
  simp only [State.coreOn, State.halted, State.bit, hhub, hrd, and_self]

theorem State.haltAsk_reads (s : State) (c cause cmp : Nat) (q : Reg) : (∀ i, (s.haltAsk c cause cmp).bit q i = s.bit q i) ∧
    ∀ hi lo, (s.haltAsk c cause cmp).fld q hi lo = s.fld q hi lo := by
  simp only [State.bit, State.fld, State.rd, State.haltAsk_regs, implies_true, and_self]

theorem State.haltAsk_core (s : State) (c cause cmp : Nat) (hon : s.coreOn c = true) (hruns : s.halted c = false)
    (hreq : (s.core c).haltReq = none) : ((s.haltAsk c cause cmp).core c).haltReq = some (cause + 8 * cmp) := by
  simp [State.haltAsk, hon, hruns, hreq]

end Sys2Proof.Machine

namespace Sys2Proof.Proofs
open Sys2Proof Sys2Proof.Machine

/-- Settles O13. -/
theorem coreRegistersAndComparators : Obligations.CoreRegistersAndComparators := by
  intro c s
  refine ⟨fun lo hi hhalt hsel => ?_, fun hi w hruns => ?_, fun k kind addr len pc ctx hon hruns hreq hm => ?_, fun hon hruns hres => ?_⟩
  · refine ⟨s.regdataWrite c false lo.toNat, _, ?_, State.when_of _ _ ?_, ?_⟩
    · rw [exec_coreRegdataAccess, State.when_of _ _ (by simp [hhalt])]
    · simpa [State.regdataWrite, State.halted] using hhalt
    · obtain ⟨h1, h2⟩ := ({ s.regdataWrite c false lo.toNat with
        loStage := SMap.erase (s.regdataWrite c false lo.toNat).loStage (Reg.dbgCRegdataLo c).addr } : State).coreRegWrite_reg c
          (lo.toNat + 2 ^ 32 * hi.toNat) (by simpa [State.regdataWrite] using hsel)
      have hval : (SMap.get (s.regdataWrite c false lo.toNat).loStage (Reg.dbgCRegdataLo c).addr 0).toNat + 2 ^ 32 * (hi.toNat % 2 ^ 32) =
          lo.toNat + 2 ^ 32 * hi.toNat := by
        have hlo : SMap.get (s.regdataWrite c false lo.toNat).loStage (Reg.dbgCRegdataLo c).addr 0 = lo := by
          simp [State.regdataWrite, SMap.get]
        rw [hlo, Nat.mod_eq_of_lt hi.isLt]
      have ht : (s.regdataWrite c false lo.toNat).regdataWrite c true hi.toNat = ({ s.regdataWrite c false lo.toNat with
          loStage := SMap.erase (s.regdataWrite c false lo.toNat).loStage (Reg.dbgCRegdataLo c).addr } : State).coreRegWrite c
            (lo.toNat + 2 ^ 32 * hi.toNat) := by
        rw [← hval]
        rfl
      rw [ht]
      refine ⟨h1, fun i hi => ?_, fun a => ?_⟩
      · refine (h2 i (by simpa [State.regdataWrite] using hi)).trans ?_
        simp [State.regdataWrite]
      · refine ((State.coreRegWrite_touches ..).byte_eq a).trans ?_
        simp [State.regdataWrite]
  · rw [exec_coreRegdataAccess, State.when_not _ _ (by simp [hruns])]
  · obtain ⟨h1, h2, h3, h4, h5⟩ := s.cmpHit_reads c k ctx
    have hreq' : ((s.cmpHit c k ctx.toNat).core c).haltReq = none := by rw [h5, hreq]
    have hbyte : ∀ a, (s.cmpHit c k ctx.toNat).byte a = s.byte a := fun a => (s.cmpHit_touches ..).byte_eq a
    refine ⟨_, exec_comparatorMatch c k kind addr len pc ctx s hon hruns hreq hm, ?_⟩
    dsimp only
    by_cases h0 : s.cmpFld c k 21 20 = 0
    · rw [if_pos h0]
      have hask := State.haltAsk_reads ((s.cmpHit c k ctx.toNat).setCore c { (s.cmpHit c k ctx.toNat).core c with
        haltPc := if kind.val = 0 then some pc.toNat else none, haltCtx := some ctx.toNat }) c 2 k
      refine ⟨((hask _).1 _).trans ((State.setCore_bit ..).trans h1), ((hask _).2 _ _).trans ((State.setCore_fld ..).trans h2), fun _ => State.haltAsk_core _ _ _ _ ?_ ?_ ?_, fun h => absurd h0 h,
        fun a => ((State.haltAsk_touches ..).byte_eq a).trans ((State.setCore_byte ..).trans (hbyte a))⟩
      · exact (State.coreOn_congr (State.setCore_pw ..) (State.setCore_regs ..) c).1.trans (h3.trans hon)
      · exact (State.coreOn_congr (State.setCore_pw ..) (State.setCore_regs ..) c).2.trans (h4.trans hruns)
      · simpa using hreq'
    rw [if_neg h0]
    by_cases hev : s.cmpFld c k 21 20 = 1
    · rw [if_pos hev]
      refine ⟨?_, ?_, fun h => absurd h h0, fun _ => ?_, fun a => (State.event_byte ..).trans (hbyte a)⟩
      · rw [State.event_bit_ne _ _ _ _ _ _ _ _ _ _ (by simp; omega)]; exact h1
      · rw [State.event_fld_ne _ _ _ _ _ _ _ _ _ _ _ (by simp; omega)]; exact h2
      · simp only [State.core, State.event_dbg]; exact hreq'
    · rw [if_neg hev]
      exact ⟨h1, h2, fun h => absurd h h0, fun _ => hreq', hbyte⟩
  · exact ⟨_, State.when_of _ _ (by simp [hon, hruns, hres]), by simp, Touches.eq_blend (State.setCore_touches ..) (by decide)⟩

end Sys2Proof.Proofs
end

