-- ==== Sys2Proof/Proofs/DebugPort.lean ====
section
set_option Elab.async false
/-!
PROOF. The TAP and the debug accesses behind it (R253–R255): O11.
-/
namespace Sys2Proof.Machine

/-- What the TAP shows of its latest access: the address and the data stand below the status. -/
theorem State.dbgaccCapture_status (s : State) : bitsOf s.dbgaccCapture 83 82 =
    if s.dbg.queue.any (fun a => a.tap) then 1 else s.dbg.tapStatus % 4 := by
  have ha : s.dbg.tapAddr % 2 ^ 48 * 2 ^ 33 + s.dbg.tapData % 2 ^ 32 < 2 ^ 82 := by omega
  have hst : ∀ st : Nat, bitsOf (st * 2 ^ 82 + s.dbg.tapAddr % 2 ^ 48 * 2 ^ 33 + s.dbg.tapData % 2 ^ 32) 83 82 = st % 4 := fun st => by
    unfold bitsOf
    omega
  unfold State.dbgaccCapture
  rw [hst]
  split <;> rfl

/-- The next access, when it begins, leaves what the TAP latched. -/
theorem State.dbgStart_tap (s : State) : s.dbgStart.dbg.tapStatus = s.dbg.tapStatus ∧ s.dbgStart.dbg.tapData = s.dbg.tapData := by
  unfold State.dbgStart
  split
  · exact ⟨rfl, rfl⟩
  next a _ _ =>
    have hdbg : (s.inject 0 0x30 a.addr a.write (!a.consume) 4 (if a.write then leBytes 4 a.data else []) none .debug).1.dbg = s.dbg :=
      Touches.dbg_eq (State.inject_touches ..)
    dsimp only
    split
    · exact ⟨rfl, rfl⟩
    split
    · exact ⟨rfl, rfl⟩
    split
    · exact ⟨rfl, rfl⟩
    split <;> simp_all

/-- An access on the private path is in progress as soon as it is alone in the queue. -/
theorem State.dbgQueue_private (s : State) (a : DbgAcc) (hq : s.dbg.queue = []) (hb : s.dbg.busy = false)
    (hp : privatePath a.addr = true) : (s.dbgQueue a).dbg.busy = true ∧ (s.dbgQueue a).dbg.queue = [a] := by
  simp [State.dbgQueue, State.dbgStart, hq, hb, hp]

/-- What the TAP shows after its access has ended: the status, and the data of a read without error. -/
theorem State.dbgLatch_tap (s : State) (a : DbgAcc) (o : Nat × Nat × Nat) (ht : a.tap = true) :
    (s.dbgLatch a o).dbgStart.dbg.tapStatus = (if o.1 = 0 then 0 else o.1 + 1) ∧
      (o.1 = 0 → a.write = false → (s.dbgLatch a o).dbgStart.dbg.tapData = o.2.2) := by
  obtain ⟨h1, h2⟩ := (s.dbgLatch a o).dbgStart_tap
  rw [h1, h2]
  unfold State.dbgLatch
  rw [if_pos ht]
  exact ⟨rfl, fun h0 hw => by simp [h0, hw]⟩

/-- A state whose access in progress has left the queue. -/
def State.dbgCleared (s : State) : State := { s with dbg := { s.dbg with queue := s.dbg.queue.drop 1, busy := false, outcome := none } }

theorem exec_debugAccessComplete (s : State) (a : DbgAcc) (hq : s.dbg.queue = [a]) (hb : s.dbg.busy = true) :
    (∀ o, s.dbg.outcome = some o → exec .debugAccessComplete s = .next (s.dbgCleared.dbgLatch a o).dbgStart) ∧
      (s.dbg.outcome = none → privatePath a.addr = true → exec .debugAccessComplete s =
        .next (((s.privateAccess a).1.dbgCleared.dbgLatch a (s.privateAccess a).2).dbgStart)) := by
  have hexec : exec .debugAccessComplete s = execDebugAccessComplete s := rfl
  rw [hexec, execDebugAccessComplete, hq]
  constructor
  · intro o ho
    simp [hb, ho, hq, State.dbgCleared]
  · intro ho hp
    simp [hb, ho, hp, State.dbgCleared]

end Sys2Proof.Machine

namespace Sys2Proof.Proofs
open Sys2Proof Sys2Proof.Machine

/-- Settles O11. -/
theorem debugPort : Obligations.DebugPort := by
  refine ⟨fun s haon => ⟨?_, ?_, ?_, ?_, fun code h0 h1 h2 h8 => ?_⟩, fun s => ⟨fun haon hir => ⟨?_, ?_, ?_, ?_⟩, fun a hq hb ht => ⟨?_, ?_⟩⟩⟩
  · exact ⟨_, State.when_of _ _ haon, rfl, rfl, rfl⟩
  · exact ⟨_, State.when_of _ _ haon, rfl, rfl, rfl⟩
  · exact ⟨_, State.when_of _ _ haon, rfl, rfl, rfl, rfl⟩
  · exact ⟨_, State.when_of _ _ haon, rfl, rfl, rfl, rfl⟩
  · have hcode : s.tapCode code = s.tapIr 0x1F 0 := by
      unfold State.tapCode
      split <;> first | contradiction | rfl
    exact ⟨_, (State.when_of _ _ haon).trans (by rw [hcode]), rfl, rfl, rfl, rfl⟩
  · exact ⟨s.dbgaccShift, State.when_of _ _ (by simp [haon, hir]), rfl, s.dbgaccCapture_status⟩
  · intro addr consume data hany
    have hstart : ∀ a, s.dbgaccStart a = s.dbgaccShift := fun a => if_pos hany
    exact ⟨⟨s.dbgaccShift, (State.when_of _ _ (by simp [haon, hir])).trans (by rw [hstart]), rfl, rfl⟩,
      ⟨s.dbgaccShift, (State.when_of _ _ (by simp [haon, hir])).trans (by rw [hstart]), rfl, rfl⟩⟩
  · intro addr consume data hany hmis
    have hstart : ∀ a : DbgAcc, a.addr = addr.toNat →
        (s.dbgaccStart a).dbg.tapStatus = 2 ∧ (s.dbgaccStart a).dbg.queue = s.dbg.queue := fun a ha => by
      simp [State.dbgaccStart, State.dbgaccShift, hany, ha, hmis]
    exact ⟨⟨_, State.when_of _ _ (by simp [haon, hir]), hstart _ rfl⟩, ⟨_, State.when_of _ _ (by simp [haon, hir]), hstart _ rfl⟩⟩
  · intro addr consume data hq hb hal hp
    have hstart : ∀ a : DbgAcc, a.addr = addr.toNat →
        (s.dbgaccStart a).dbg.busy = true ∧ (s.dbgaccStart a).dbg.queue = [a] := fun a ha => by
      have h1 : s.dbgaccStart a = s.dbgaccShift.dbgQueue a := by simp [State.dbgaccStart, hq, ha, hal]
      rw [h1]
      exact State.dbgQueue_private _ a hq hb (ha ▸ hp)
    exact ⟨⟨_, State.when_of _ _ (by simp [haon, hir]), hstart _ rfl⟩, ⟨_, State.when_of _ _ (by simp [haon, hir]), hstart _ rfl⟩⟩
  · intro st c v ho
    have hend : (s.dbgCleared.dbgLatch a (st, c, v)).dbgStart = s.dbgCleared.dbgLatch a (st, c, v) := by
      simp [State.dbgStart, State.dbgLatch, State.dbgCleared, ht, hq]
    refine ⟨_, (exec_debugAccessComplete s a hq hb).1 _ ho, ?_⟩
    obtain ⟨h1, h2⟩ := s.dbgCleared.dbgLatch_tap a (st, c, v) ht
    rw [hend] at h1 h2 ⊢
    refine ⟨?_, ?_, ?_, h1, h2⟩ <;> simp [State.dbgLatch, State.dbgCleared, ht, hq]
  · intro g ho hp hg
    obtain ⟨h1, h2⟩ := (s.privateAccess a).1.dbgCleared.dbgLatch_tap a (s.privateAccess a).2 ht
    refine ⟨_, (exec_debugAccessComplete s a hq hb).2 ho hp, ?_, ?_⟩
    · rw [h1]
      simp only [State.privateAccess, ← hg]
      split <;> rfl
    · intro hc hw
      rw [h2 (by simp [State.privateAccess, ← hg, hc]) hw]
      simp only [State.privateAccess, ← hg]

end Sys2Proof.Proofs
end

