-- ==== Sys2Proof/Proofs/Clocks.lean ====
section
set_option Elab.async false
/-!
PROOF. Micro-clocks, delay monitors (R71–R75, R21): O1.
-/
namespace Sys2Proof.Machine

theorem State.mcTarget_reads (s : State) (n : Tile) (v : Nat) :
    (s.mcTarget n v).fld (Reg.tcMcCtrl n) 7 0 = clampCode v ∧
      ((s.mcTarget n v).bit (Reg.tcMcStat n) 0 = true ↔ clampCode v ≠ s.fld (Reg.tcMcCtrl n) 15 8) := by
  have hc : clampCode v < 256 := by
    unfold clampCode
    omega
  have hidle : s.idlePll n = 0 ∨ s.idlePll n = 1 := by
    unfold State.idlePll
    split
    · exact .inl rfl
    · exact .inr rfl
  simp only [State.mcTarget]
  by_cases h : clampCode v = s.fld (Reg.tcMcCtrl n) 15 8
  · simpa (disch := first | omega | (dsimp; omega) | fail) [← h, State.reads_ne, State.fld_setFld_same] using hc
  · rcases hidle with hi | hi <;>
      simpa (disch := first | omega | (dsimp; omega) | fail) [h, hi, State.reads_ne, State.fld_setFld_same, State.bit_setBit_other]
        using hc

/-- What a delay monitor's sample leaves, with the tile's record as the sample makes it. -/
def State.marginSample (s : State) (n b q m : Nat) (v : TileRt) : State :=
  let r := Reg.bayDm n b q
  let low := decide (m < s.fld (Reg.tcDmCfg n) 7 0)
  let s2 := ((s.setFld r 7 0 m).setFld r 15 8 (min m (s.fld r 15 8))).setTile n v
  let s3 := if low then s2.setBit r 16 true else s2
  if low && !s3.bit (Reg.tcStretch n) 31 then (s3.setBit (Reg.tcStretch n) 31 true).count (Reg.tcStretch n) 15 0 1 else s3

theorem exec_delayMonitorSample (n : Tile) (b : Bay) (q : Fin 4) (m : Byte) (s : State) :
    ∃ v, exec (.delayMonitorSample n b q m) s = s.when (s.domOn (domBay n b)) (s.marginSample n b q m.toNat v) := ⟨_, rfl⟩

theorem State.marginSample_reads (s : State) (n : Tile) (b : Bay) (q : Fin 4) (m : Byte) (v : TileRt) :
    (s.marginSample n b q m.toNat v).fld (Reg.bayDm n b q) 7 0 = m.toNat ∧
      (m.toNat < s.fld (Reg.tcDmCfg n) 7 0 → (s.marginSample n b q m.toNat v).bit (Reg.bayDm n b q) 16 = true ∧
        (s.marginSample n b q m.toNat v).bit (Reg.tcStretch n) 31 = true) ∧
      ∀ a, (s.marginSample n b q m.toNat v).byte a = s.byte a := by
  have hm : m.toNat < 256 := m.isLt
  by_cases hlow : m.toNat < s.fld (Reg.tcDmCfg n) 7 0 <;> by_cases hst : s.bit (Reg.tcStretch n) 31 = true <;>
    simp (disch := first | omega | (dsimp; omega) | fail) [State.marginSample, hlow, hst, State.reads_ne, State.reads_fld_other,
      State.reads_bit_other, State.fld_setFld_same, State.fld_setBit_other, hm]

end Sys2Proof.Machine

namespace Sys2Proof.Proofs
open Sys2Proof Sys2Proof.Machine

/-- Settles O1. -/
theorem microClockAndMonitors : Obligations.MicroClockAndMonitors := by
  refine ⟨fun n s hon => ⟨fun v => ⟨_, State.when_of _ _ hon, s.mcTarget_reads n v.toNat⟩, fun hbusy => ⟨?_, ?_⟩⟩,
    fun n b q s hon => ⟨fun m => ?_, ?_⟩⟩
  · refine ⟨_, State.when_of _ _ (by simp [hon, hbusy]), ?_, ?_, ?_⟩ <;>
    simp (disch := first | omega | (dsimp; omega) | fail) [State.reads_ne, State.fld_setFld_same, State.fld_setBit_other]
    exact State.fld_lt _ _ 7 0
  · refine ⟨_, State.when_of _ _ (by simp [hon, hbusy]), ?_, ?_, ?_⟩ <;>
    simp (disch := first | omega | (dsimp; omega) | fail) [State.reads_ne, State.reads_event, State.bit_setBit_other]
  · obtain ⟨v, hv⟩ := exec_delayMonitorSample n b q m s
    exact ⟨_, hv.trans (State.when_of _ _ hon), s.marginSample_reads n b q m v⟩
  · refine ⟨_, State.when_of _ _ hon, ?_, ?_, fun a => ?_⟩ <;>
    simp (disch := first | omega | (dsimp; omega) | fail) [State.reads_fld_other, State.fld_setFld_same]

end Sys2Proof.Proofs
end

