-- ==== Sys2Proof/Proofs/Release.lean ====
section
set_option Elab.async false
/-!
PROOF. The staged release of a bay-plane (R69, R78–R81): O2.
-/
namespace Sys2Proof.Machine

theorem relStat_eq (i : Nat) : relStat i = Reg.bayPRelStat (bpTile i) (bpBay i) (bpPlane i) := rfl

@[simp] theorem bpTile_bpIx (n : Tile) (b : Bay) (p : Plane) : bpTile (bpIx n b p) = n := by
  simp only [bpTile, bpIx]
  omega
@[simp] theorem bpBay_bpIx (n : Tile) (b : Bay) (p : Plane) : bpBay (bpIx n b p) = b := by
  simp only [bpBay, bpIx]
  omega
@[simp] theorem bpPlane_bpIx (n : Tile) (b : Bay) (p : Plane) : bpPlane (bpIx n b p) = p := by
  simp only [bpPlane, bpIx]
  omega

/-- A 64-bit count takes what is written and keeps it behind writes of another register. -/
theorem State.dcc_setDcc (s : State) (i v : Nat) : (s.setDcc i v).dcc i = v % 2 ^ 64 :=
  State.rd64_wr64_same _ _ _ _ (by simp) (Nat.mod_lt _ (by decide))

theorem State.dcc_congr {s t : State} (i : Nat) (h : ∀ q : Reg, q.addr ≠ (relStat i).addr → t.rd q = s.rd q) : t.dcc i = s.dcc i := by
  unfold State.dcc State.rd64
  rw [h _ (by simp [relStat_eq]), h _ (by simp [relStat_eq])]

theorem State.tile_congr {s t : State} (h : t.fab = s.fab) (n : Nat) : t.tile n = s.tile n := by
  simp only [State.tile, h]

/-- OP 1 and OP 2 on a bay-plane that holds a page and stands at STAGE 0. -/
theorem State.relArm_ok (s : State) (i : Nat) (first : Bool) (hst : s.stage i = 0) (hp : (s.bpRec i).pstate = 2) :
    (s.relArm i first).armed i = true ∧ (s.relArm i first).grs i = first ∧ (s.relArm i first).stage i = 0 ∧
      (s.relArm i first).dcc i = (if first then 0 else s.dcc i) ∧ ((s.relArm i first).bp i).holdPend = false := by
  have hguard : ¬((decide (s.stage i ≠ 0) || decide ((s.bpRec i).pstate ≠ 2)) = true) := by simp [hst, hp]
  simp only [State.relArm, if_neg hguard]
  generalize hs1 : (if first then s.setDcc i 0 else s) = s1
  have hst1 : s1.stage i = 0 := by
    rw [← hs1]
    split
    · have hrd : (s.setDcc i 0).rd (relStat i) = s.rd (relStat i) :=
        State.rd_wr64_ne _ _ (by simp [relStat_eq]) (by simp [relStat_eq])
      rw [State.stage, State.fld, hrd]
      exact hst
    · exact hst
  refine ⟨?_, ?_, ?_, ?_, ?_⟩
  · simp (disch := first | omega | (dsimp; omega) | fail) [State.armed, State.reads_bit_other]
  · simp (disch := first | omega | (dsimp; omega) | fail) [State.grs, State.reads_bit_other, State.bit_setBit_other]
  · simpa (disch := first | omega | (dsimp; omega) | fail) [State.stage, State.reads_fld_other, State.fld_setBit_other] using hst1
  · refine (State.dcc_congr i fun q hq => ?_).trans (?_ : s1.dcc i = _)
    · simp [State.reads_ne _ hq]
    · rw [← hs1]
      split
      · exact s.dcc_setDcc i 0
      · rfl
  · simp

/-- A hold that takes effect at once. -/
theorem State.relHoldNow_reads (s : State) (i : Nat) :
    (s.relHoldNow i).stage i = 0 ∧ (s.relHoldNow i).armed i = false ∧ (s.relHoldNow i).grs i = false ∧
      ((s.relHoldNow i).bp i).holdPend = false := by
  refine ⟨?_, ?_, ?_, ?_⟩ <;>
    simp (disch := first | omega | (dsimp; omega) | fail) [State.relHoldNow, State.stage, State.armed, State.grs,
      State.reads_fld_other, State.reads_bit_other, State.fld_setBit_other, State.bit_setBit_other, State.fld_setFld_same]

/-- What the strobe of a release that is due does at each stage. -/
theorem State.relAdvance_reads (s : State) (i : Nat) (hdue : s.relDue i = true) :
    (s.stage i = 0 → (s.relAdvance i).stage i = 1 ∧ (s.relAdvance i).armed i = false ∧ (s.relAdvance i).grs i = s.grs i) ∧
      (s.stage i = 1 → (s.relAdvance i).stage i = 2 ∧ (s.relAdvance i).grs i = s.grs i) ∧
      (s.stage i = 2 → (s.relAdvance i).stage i = 3 ∧ (s.relAdvance i).grs i = false) := by
  refine ⟨fun h => ?_, fun h => ?_, fun h => ?_⟩
  · have harm : s.armed i = true := by
      simp only [State.relDue, h] at hdue
      simp at hdue
      exact hdue.2.1.1
    obtain ⟨v, hv⟩ : ∃ v, s.relAdvance i =
        (((s.setFld (relStat i) 1 0 1).setBit (relStat i) 2 false).setFld (relStat i) 9 5 0).setBp i v :=
      ⟨_, if_pos (by simp [h, harm])⟩
    rw [hv]
    refine ⟨?_, ?_, ?_⟩ <;>
      simp (disch := first | omega | (dsimp; omega) | fail) [State.stage, State.armed, State.grs, State.reads_fld_other,
        State.reads_bit_other, State.fld_setBit_other, State.bit_setBit_other, State.fld_setFld_same]
  · have hper : 8 ≤ s.fld (relStat i) 9 5 := by
      simp only [State.relDue, h] at hdue
      simp at hdue
      exact hdue.2
    have hv : s.relAdvance i = s.setFld (relStat i) 1 0 2 := by simp [State.relAdvance, h, hper]
    rw [hv]
    constructor <;>
      simp (disch := first | omega | (dsimp; omega) | fail) [State.stage, State.grs, State.reads_bit_other, State.fld_setFld_same]
  · have hper : 16 ≤ s.fld (relStat i) 9 5 := by
      simp only [State.relDue, h] at hdue
      simp at hdue
      exact hdue.2
    have hv : s.relAdvance i = (s.setFld (relStat i) 1 0 3).setBit (relStat i) 3 false := by simp [State.relAdvance, h, hper]
    rw [hv]
    constructor <;>
      simp (disch := first | omega | (dsimp; omega) | fail) [State.stage, State.grs, State.fld_setBit_other, State.fld_setFld_same]

end Sys2Proof.Machine

namespace Sys2Proof.Proofs
open Sys2Proof Sys2Proof.Machine

/-- Settles O2. -/
theorem stagedRelease : Obligations.StagedRelease := by
  intro n b p s hon
  refine ⟨fun hst hp => ⟨⟨_, State.when_of _ _ hon, s.relArm_ok _ true hst hp⟩, ⟨_, State.when_of _ _ hon, s.relArm_ok _ false hst hp⟩⟩,
    fun href c hc => ?_, fun hnow => ?_, fun hb hin => ?_, fun v => ⟨fun hst => ?_, fun hst => ?_⟩, fun hdue => ?_, fun htile hlift => ?_⟩
  · have hrel : ∀ first, s.relArm (bpIx n b p) first = s.relRefused (bpIx n b p) := fun first => if_pos (by simpa using href)
    have hreads : (s.relRefused (bpIx n b p)).bit (relStat (bpIx n b p)) 4 = true ∧
        (s.relRefused (bpIx n b p)).armed (bpIx n b p) = s.armed (bpIx n b p) ∧
        (s.relRefused (bpIx n b p)).stage (bpIx n b p) = s.stage (bpIx n b p) := by
      simp (disch := first | omega | (dsimp; omega) | fail) [State.relRefused, State.armed, State.stage, State.bit_setBit_other,
        State.fld_setBit_other]
    refine ⟨s.relRefused (bpIx n b p), ?_, hreads⟩
    rcases List.mem_pair.mp hc with rfl | rfl
    · exact (State.when_of _ _ hon).trans (congrArg _ (hrel true))
    · exact (State.when_of _ _ hon).trans (congrArg _ (hrel false))
  · refine ⟨s.relHoldNow (bpIx n b p), (State.when_of _ _ hon).trans (congrArg _ (if_pos ?_)), s.relHoldNow_reads _⟩
    rw [bpTile_bpIx, bpBay_bpIx]
    simpa using hnow
  · refine ⟨s.setBp (bpIx n b p) { s.bp (bpIx n b p) with holdPend := true }, (State.when_of _ _ hon).trans (congrArg _ (if_neg ?_)), ?_⟩
    · rw [bpTile_bpIx, bpBay_bpIx]
      simp [hb, hin]
    · simp [State.stage, State.armed]
  · refine ⟨_, (State.when_of _ _ hon).trans (congrArg _ (if_pos hst)), ?_⟩
    refine (State.dcc_congr _ fun q _ => ?_).trans ((State.dcc_setDcc s _ v.toNat).trans (Nat.mod_eq_of_lt v.isLt))
    simp [State.ringAfresh]
  · refine ⟨_, (State.when_of _ _ hon).trans (congrArg _ (if_neg hst)), State.dcc_congr _ fun q hq => ?_, ?_⟩
    · simp [State.relRefused, State.reads_ne _ hq]
    · simp [State.relRefused]
  · obtain ⟨h0, h1, h2⟩ := s.relAdvance_reads _ hdue
    have hgo : (s.domOn (domBay n b) && s.relDue (bpIx n b p)) = true := by simp [hon, hdue]
    exact ⟨fun h => ⟨_, State.when_of _ _ hgo, h0 h⟩, fun h => ⟨_, State.when_of _ _ hgo, h1 h⟩, fun h => ⟨_, State.when_of _ _ hgo, h2 h⟩⟩
  · have hgo : (s.domOn (domTile n) && (s.tile n).lifting) = true := by simp [htile, hlift]
    refine ⟨_, State.when_of _ _ hgo, fun hw => ?_, fun hw => ?_⟩
    · rw [if_pos hw]
      simp (disch := first | omega | (dsimp; omega) | fail) [State.wrHold, State.clkHold, State.bit_setBit_other]
      exact (congrArg TileRt.lifting (State.tile_congr (State.setBit_fab ..) _)).trans hlift
    · rw [if_neg (by simp [hw])]
      simp (disch := first | omega | (dsimp; omega) | fail) [State.wrHold, State.clkHold, State.bit_setBit_other]
      exact hw

end Sys2Proof.Proofs
end

