-- ==== Sys2Proof/Proofs/Triggers.lean ====
section
set_option Elab.async false
/-!
PROOF. The trigger units: O10.
-/
namespace Sys2Proof.Machine

/-- The entry whose ticket register is the status register of trigger unit 63: no entry of the table of 1,024. -/
def strayTicket : Nat := (0x1C0028 + 0x40 * 63 - 0x58000) / 8

/-- A probe word of cycle 5 of run 0 for unit 63. -/
def probeWord : Probe := { slot := 15, unit := 63, run := 0, cycle := 5, word := 0 }

/-- Run 0 runs at DCC 6; trigger unit 63, armed, with the action halt and its probe word on its way; a mode request in the pending
slot whose ticket is the stray one. -/
def firesOverStrayTicket : State :=
  let s := State.working 6 [domHub]
  let s1 : State := { s with
    fab := { s.fab with tiles := [(0, { probes := [probeWord] })] }
    so := { s.so with bps := [(0, { pstate := 2 })], runs := [(0, { state := .running, pageCount := 1 })] }
    pw := { s.pw with pend := some { src := .vollor, target := 8, ticket := some strayTicket } }
    vl := { s.vl with tickets := [(strayTicket, { used := true })] } }
  ((s1.wr (Reg.trgCtrl 63) (2 ^ 31 + 2 ^ 25 + 2 ^ 24)).wr (Reg.trgStat 63) (2 ^ 30)).wr (Reg.bayPDccLo 0 0 0) 6

end Sys2Proof.Machine

namespace Sys2Proof.Proofs
open Sys2Proof Sys2Proof.Machine

/-- Refutes O10: the mode request that the halt supersedes holds a ticket whose index lies beyond the table, and the word of that
ticket falls on the status register of the unit that fires. -/
theorem not_triggersFire : ¬ Obligations.TriggersFire := by
  intro h
  obtain ⟨-, hprobe, -⟩ := h 63 firesOverStrayTicket (by decide +kernel)
  obtain ⟨-, hfire⟩ := hprobe 0 15 probeWord (by decide +kernel) (by decide +kernel) (by decide +kernel)
  obtain ⟨t, ht, hfired, -⟩ := hfire (by decide +kernel) (by decide +kernel) (by decide +kernel) (by decide +kernel) (by decide +kernel)
    (by decide +kernel) (by decide +kernel)
  have hlost : (stateAfter (exec (.triggerProbe 0 15) firesOverStrayTicket)).bit (Reg.trgStat 63) 31 = false := by decide +kernel
  rw [ht] at hlost
  exact Bool.false_ne_true (hlost.symm.trans hfired)

end Sys2Proof.Proofs
end

