-- ==== Sys2Proof/Proofs/Rotation.lean ====
section
set_option Elab.async false
/-!
PROOF. The rotation of a bay: O3.
-/
namespace Sys2Proof.Machine

/-- Plane 0 of bay 0 has stepped in STAGE 0 and the tick edge is next; STEP of its run is in progress under the ticket. -/
def stepsUnderStrayTicket : State :=
  let s := State.working 6 [domHub, domTile 0, domBay 0 0]
  { s with
    fab := { s.fab with bays := [(0, { phase := .captured, planes := [0], stepped := [0] })], bps := [(0, { xph := 1 })] }
    so := { s.so with bps := [(0, { pstate := 2 })], runs := [(0, { state := .running, pageCount := 1 })], steps := [(0, (dccTicket, 0))] }
    vl := { s.vl with tickets := [(dccTicket, { used := true, state := 1 })] } }

end Sys2Proof.Machine

namespace Sys2Proof.Proofs
open Sys2Proof Sys2Proof.Machine

/-- Refutes O3: a tick edge in STAGE 0 leaves the counter, but the progress of STEP goes to a ticket whose index lies beyond the
table, and its word falls on the design-cycle counter of the plane. -/
theorem not_rotation : ¬ Obligations.Rotation := by
  intro h
  obtain ⟨t, ht, hstep, -⟩ := h.2 0 0 stepsUnderStrayTicket (by decide +kernel) (by decide +kernel) (by decide +kernel)
  have hkeeps := hstep 0 (by decide +kernel) (by decide +kernel)
  have hmoved : (stateAfter (exec (.tickEdge 0 0) stepsUnderStrayTicket)).dcc (bpIx 0 0 0) ≠
      if stepsUnderStrayTicket.stage (bpIx 0 0 0) = 3 ∧ stepsUnderStrayTicket.clkHold 0 = false
      then (stepsUnderStrayTicket.dcc (bpIx 0 0 0) + 1) % 2 ^ 64 else stepsUnderStrayTicket.dcc (bpIx 0 0 0) := by decide +kernel
  rw [ht] at hmoved
  exact hmoved hkeeps

end Sys2Proof.Proofs
end

