-- ==== Sys2Proof/Proofs/ImageLoads.lean ====
section
set_option Elab.async false
/-!
PROOF. The loader: O5.
-/
namespace Sys2Proof.Machine

@[simp] theorem State.load_setLoad_same (s : State) (j : Nat) (l : Load) : (s.setLoad j l).load j = l := by
  rw [State.setLoad, State.load]
  dsimp
  rw [SMap.get, SMap.find_put_same, Option.getD_some]

theorem State.load_congr {s t : State} (h : t.fk = s.fk) (j : Nat) : t.load j = s.load j := by simp only [State.load, h]
theorem State.isLoad_congr {s t : State} (h : t.fk = s.fk) (j : Nat) : t.isLoad j = s.isLoad j := by simp only [State.isLoad, h]

theorem State.isLoad_erased (s : State) (j : Nat) (h : ∃ m, s.fk.loads = SMap.erase m j) : s.isLoad j = false := by
  obtain ⟨m, hm⟩ := h
  rw [State.isLoad, hm, SMap.find_erase_same]
  rfl

/-- A load that fails is no load any more. -/
theorem State.loadFail_isLoad (s : State) (j st err : Nat) : (s.loadFail j st err).isLoad j = false := by
  unfold State.loadFail
  exact (State.isLoad_congr (State.tktEnd_fk ..) j).trans (State.isLoad_erased _ j ⟨_, rfl⟩)

/-- A load that is done is no load any more; the designs stay. -/
theorem State.loadDone_isLoad (s : State) (j d run : Nat) : (s.loadDone j d run).isLoad j = false :=
  State.isLoad_erased _ j ⟨_, rfl⟩
theorem State.loadDone_design (s : State) (j d run k : Nat) : (s.loadDone j d run).design k = s.design k := by
  simp only [State.design, (State.loadDone_touches s j d run).so_eq]

/-- The trailer is checked only once every chunk is in. -/
theorem State.trailerCheck_of_chunks (s : State) (j : Nat) (h : (s.load j).chunks ≠ hChunks (s.load j).bytes) : s.trailerCheck j = s := by
  unfold State.trailerCheck
  exact if_neg (by simp [h])
theorem State.trailerCheck_of_bytes (s : State) (j : Nat) (h : (s.load j).bytes.length < hTrailer (s.load j).bytes + 16) :
    s.trailerCheck j = s := by
  unfold State.trailerCheck
  exact if_neg (by simp [Nat.not_le.mpr h])
theorem State.trailerCheck_of_unreserved (s : State) (j : Nat) (h : (s.load j).reserved = false) : s.trailerCheck j = s := by
  unfold State.trailerCheck
  exact if_neg (by simp [h])

/-- The intake has nothing to check while the header is incomplete, and between the reservation and the end of the trailer. -/
theorem State.intakeChecks_in_header (s : State) (j : Nat) (hh : (s.load j).hdrOk = false) (hr : (s.load j).reserved = false)
    (hl : (s.load j).bytes.length < 256) : s.intakeChecks j = s := by
  have hc : decide (256 ≤ (s.load j).bytes.length) = false := decide_eq_false (Nat.not_le.mpr hl)
  simp only [State.intakeChecks, hh, hc, Bool.not_false, Bool.true_and, Bool.false_eq_true, if_false, Bool.and_false]
  exact s.trailerCheck_of_unreserved j hr
theorem State.intakeChecks_in_payload (s : State) (j : Nat) (hh : (s.load j).hdrOk = true) (hr : (s.load j).reserved = true)
    (hl : (s.load j).bytes.length < hTrailer (s.load j).bytes + 16) : s.intakeChecks j = s := by
  simp only [State.intakeChecks, hh, hr, Bool.not_true, Bool.false_and, Bool.and_false, Bool.false_eq_true, if_false]
  exact s.trailerCheck_of_bytes j hl

/-- The load after bytes of the piece buffer have been taken. -/
def Load.taking (l : Load) (n : Nat) : Load := { l with piece := l.piece.drop n, bytes := l.bytes ++ l.piece.take n }

theorem execImageBytesArrive_vollor (s : State) (j : Fin 4) (count : Nat) (hh : s.hubOn = true) (hl : s.isLoad j = true) (hpos : 0 < count)
    (hs : (s.load j).source = 0) (hw : count ≤ (s.load j).wants)
    (hc : ∀ t : State, t.load j = (s.load j).taking count → t.intakeChecks j = t) :
    ∃ t, exec (.imageBytesArrive j count) s = .next t ∧ t.load j = (s.load j).taking count := by
  have hn : min count (s.load j).wants = count := Nat.min_eq_left hw
  have hsrc : s.sourceBytes j count = (s.setLoad j { s.load j with piece := (s.load j).piece.drop count }, (s.load j).piece.take count, false) :=
    if_pos hs
  obtain ⟨u, hu⟩ : ∃ u, u = (s.setLoad j { s.load j with piece := (s.load j).piece.drop count }).setLoad j ((s.load j).taking count) := ⟨_, rfl⟩
  have hload : u.load j = (s.load j).taking count := by rw [hu, State.load_setLoad_same]
  refine ⟨u, ?_, hload⟩
  have hexec : exec (.imageBytesArrive j count) s = execImageBytesArrive j count s := rfl
  rw [hexec]
  simp only [execImageBytesArrive, hn, hsrc, State.load_setLoad_same]
  rw [State.when_of _ _ (by simp [hh, hl, hpos])]
  simp only [Bool.false_eq_true, if_false]
  have hrec : ({ s.load j with piece := (s.load j).piece.drop count, bytes := (s.load j).bytes ++ (s.load j).piece.take count } : Load) =
      (s.load j).taking count := rfl
  rw [hrec, ← hu, hc u hload, hload, if_neg (by simp [Load.taking, hs])]

theorem State.design_setDesign_same (s : State) (d : Nat) (v : Design) : (s.setDesign d v).design d = v := SMap.get_set_same ..

/-- What the pages' commit leaves of the design's slot, with and without the same design in the table. -/
theorem commitPages_fresh {s u : State} {j : Nat} {b : Bool} (hu : s.loadPoisoned j = (u, b)) :
    ∃ v : State, u.commitPages j none = (v.setDesign ((s.load j).slot.getD 0) { v.design ((s.load j).slot.getD 0) with
      state := 2, digest := imageDigest (s.load j) }, (s.load j).slot.getD 0) := by
  have ht : Touches _ s (s.loadPoisoned j).1 := s.loadPoisoned_touches j
  rw [hu] at ht
  rw [← State.load_congr ht.fk_eq j]
  exact ⟨_, rfl⟩
theorem commitPages_same {s u : State} {j : Nat} {b : Bool} (hu : s.loadPoisoned j = (u, b)) (k : Nat) :
    ∃ v : State, u.commitPages j (some k) = (v.setDesign ((s.load j).slot.getD 0) {}, k) := by
  have ht : Touches _ s (s.loadPoisoned j).1 := s.loadPoisoned_touches j
  rw [hu] at ht
  rw [← State.load_congr ht.fk_eq j]
  exact ⟨_, rfl⟩

/-- The commit of a load to the store alone, whose pages read good. -/
theorem execLoadCommit_store {s u v : State} {j : Fin 4} {d : Nat} {same : Option Nat} (hh : s.hubOn = true) (hl : s.isLoad j = true)
    (htr : (s.load j).trailerOk = true) (hsig : (s.load j).sigOk = true) (hack : (s.load j).acked = hPayLen (s.load j).bytes)
    (hplace : (s.load j).place = false) (hsame : s.sameDesign (s.load j) = same)
    (hdig : same.any (fun k => (s.design k).digest ≠ imageDigest (s.load j)) = false) (hu : s.loadPoisoned j = (u, false))
    (hv : u.commitPages j same = (v, d)) : exec (.loadCommit j) s = .next (v.loadDone j d 0xFFFF) := by
  have hexec : exec (.loadCommit j) s = execLoadCommit j s := rfl
  rw [hexec]
  simp only [execLoadCommit, hu, hsame, hv]
  rw [State.when_of _ _ (by simp [hh, hl, htr, hsig, hack]), if_neg (by rw [hdig]; exact Bool.false_ne_true), if_neg Bool.false_ne_true,
    if_neg (by rw [hplace]; exact Bool.false_ne_true)]

end Sys2Proof.Machine

namespace Sys2Proof.Proofs
open Sys2Proof Sys2Proof.Machine

/-- Settles O5. -/
theorem imageLoads : Obligations.ImageLoads := by
  intro j s hh hl
  refine ⟨fun count hpos hsrc hcase => ?_, fun hready htag hw hlt => ?_, fun count => ?_, fun htr hsig hlen => ?_,
    fun htr hsig hack hplace => ⟨fun hsame hp => ?_, fun k hsame hdig hp => ?_, fun k hsame hdig => ?_⟩, fun hinc => ?_⟩
  · obtain ⟨t, ht, hload⟩ : ∃ t, exec (.imageBytesArrive j count) s = .next t ∧ t.load j = (s.load j).taking count := by
      rcases hcase with ⟨hhdr, hres, hlen⟩ | ⟨hhdr, hres, hlen, htrail⟩
      · refine execImageBytesArrive_vollor s j count hh hl hpos hsrc ?_ fun t ht => t.intakeChecks_in_header j ?_ ?_ ?_
        · simp only [Load.wants, hhdr, Bool.false_eq_true, if_false]
          omega
        · rw [ht]; exact hhdr
        · rw [ht]; exact hres
        · rw [ht, Load.taking, List.length_append, List.length_take]
          omega
      · refine execImageBytesArrive_vollor s j count hh hl hpos hsrc ?_ fun t ht => t.intakeChecks_in_payload j ?_ ?_ ?_
        · simp only [Load.wants, hhdr, if_true]
          omega
        · rw [ht]; exact hhdr
        · rw [ht]; exact hres
        · rw [ht, Load.taking, List.length_append, List.length_take]
          dsimp only
          omega
    exact ⟨t, ht, by rw [hload]; exact ⟨rfl, rfl⟩⟩
  · have hexec : exec (.chunkDecrypted j) s = execChunkDecrypted j s := rfl
    obtain ⟨u, hu⟩ : ∃ u, s.chunkWrite j = (u, false, false) := ⟨_, Prod.ext rfl hw⟩
    let l : Load := { s.load j with chunks := (s.load j).chunks + 1, plain := (s.load j).plain ++ s.chunkPlain (s.load j) }
    refine ⟨u.setLoad j l, ?_, by simp [l], by simp [l]⟩
    rw [hexec]
    simp only [execChunkDecrypted, hu]
    rw [State.when_of _ _ (by simp [hh, hready]), if_neg (not_not.mpr htag), if_neg (by simp), if_neg (by simp),
      State.trailerCheck_of_chunks _ _ (by simpa using hlt.ne)]
  · refine ⟨_, State.when_of _ _ (by simp [hh, hl]), ?_, fun a => ?_⟩
    · rw [State.load_congr (State.tktProgress_touches ..).fk_eq, State.load_setLoad_same]
    · exact (State.tktProgress_touches ..).byte_eq a
  · refine ⟨_, State.when_of _ _ (by simp [hh, hl, htr, hsig, hlen]), ?_⟩
    by_cases hf : s.franked (s.load j) = true
    · rw [if_pos hf, if_pos hf]
    · rw [if_neg hf, if_neg hf]
      exact State.loadFail_isLoad ..
  · obtain ⟨u, hu⟩ : ∃ u, s.loadPoisoned j = (u, false) := ⟨_, Prod.ext rfl hp⟩
    obtain ⟨v, hv⟩ := commitPages_fresh hu
    refine ⟨_, execLoadCommit_store hh hl htr hsig hack hplace hsame rfl hu hv, State.loadDone_isLoad .., ?_, ?_⟩
    · rw [State.loadDone_design, State.design_setDesign_same]
    · rw [State.loadDone_design, State.design_setDesign_same]
  · obtain ⟨u, hu⟩ : ∃ u, s.loadPoisoned j = (u, false) := ⟨_, Prod.ext rfl hp⟩
    obtain ⟨v, hv⟩ := commitPages_same hu k
    refine ⟨_, execLoadCommit_store hh hl htr hsig hack hplace hsame (by simp [hdig]) hu hv, State.loadDone_isLoad .., ?_⟩
    rw [State.loadDone_design, State.design_setDesign_same]
  · refine ⟨_, (State.when_of _ _ (by simp [hh, hl, htr, hsig, hack])).trans (congrArg _ (if_pos ?_)), State.loadFail_isLoad ..⟩
    simp [hsame, hdig]
  · refine ⟨_, State.when_of _ _ ?_, State.loadFail_isLoad ..⟩
    rcases hinc with h | h
    · simp [hh, hl, h]
    · simp [hh, hl, h]

end Sys2Proof.Proofs
end

