-- ==== Sys2Proof/Proofs/RunProgress.lean ====
section
set_option Elab.async false
/-!
PROOF. The progress of a run's operations: O8.
-/
namespace Sys2Proof.Machine

/-- Run 0 stands in STAGE 0 on bay-plane 0 with a suspend and the end of STEP owed; the ticket of STEP is the stray one. -/
def stopsUnderStrayTicket : State :=
  let s := State.working 6 [domHub, domTile 0, domBay 0 0]
  { s with
    so := { s.so with
      bps := [(0, { pstate := 2 })]
      runs := [(0, { state := .suspending, curOp := .suspend, pageCount := 1, stops := [⟨.suspend, 0⟩, ⟨.step, 0⟩] })]
      steps := [(0, (dccTicket, 0))] }
    vl := { s.vl with tickets := [(dccTicket, { used := true, state := 1 })] } }

end Sys2Proof.Machine

namespace Sys2Proof.Proofs
open Sys2Proof Sys2Proof.Machine

/-- Refutes O8: at the stop of a suspend that also ends STEP, the ticket of STEP is done first; its index lies beyond the table, its
word falls on the design-cycle counter of the run's bay-plane, and the run keeps that instead of its counter. -/
theorem not_runProgress : ¬ Obligations.RunProgress := by
  intro h
  obtain ⟨-, -, -, hstop, -⟩ := h 0 stopsUnderStrayTicket
  obtain ⟨t, ht, -, -, hkeeps, -⟩ := hstop (by decide +kernel) (by decide +kernel) (by decide +kernel) (by decide +kernel)
    (by decide +kernel)
  have hmoved : ((stateAfter (exec (.runStopCycle 0) stopsUnderStrayTicket)).run 0).dcc ≠ stopsUnderStrayTicket.runDcc 0 := by
    decide +kernel
  rw [ht] at hmoved
  exact hmoved hkeeps

end Sys2Proof.Proofs
end

