-- ==== Sys2Proof/Proofs/Rings.lean ====
section
set_option Elab.async false
/-!
PROOF. What the rings do with the packets between two events (R343–R353): no packet is lost or made, and an outstanding entry
keeps the request it stands for.
-/
namespace Sys2Proof.Machine

/-! ### The packet that an output picks -/

theorem State.mem_injHeads {s : State} {x g d : Nat} {p : Pkt} (h : p ∈ s.injHeads x g d) :
    p ∈ s.rnd.inj ∧ p.start = x ∧ s.laneOf p = (g, d) := by
  obtain ⟨hmem, hp⟩ := List.mem_filter.mp h
  simp only [Bool.and_eq_true, decide_eq_true_eq] at hp
  exact ⟨hmem, hp.1.1.1, hp.1.2⟩

/-- The packet of a pick waits in the injection queue of the output's stop and lane, or stands on the ring before the output. -/
def State.picked (s : State) (o : Nat × Nat × Nat) (m : Bool × Pkt) : Prop :=
  (m.1 = true → m.2 ∈ s.rnd.inj ∧ m.2.start = o.1 ∧ s.laneOf m.2 = o.2) ∧
    (m.1 = false → m.2 ∈ s.rnd.net ∧ m.2.pos = o.1 ∧ (m.2.ring, m.2.dir) = o.2)

/-- The eldest of two candidates is one of them. -/
theorem foldl_eldest_mem (cs : List (Bool × Pkt)) (b : Option (Bool × Pkt)) {m : Bool × Pkt}
    (h : cs.foldl (fun (b : Option (Bool × Pkt)) c => match b with
      | some v => if v.2.age < c.2.age then some c else some v
      | none => some c) b = some m) : b = some m ∨ m ∈ cs := by
  induction cs generalizing b with
  | nil => exact .inl h
  | cons c cs ih =>
    rcases ih _ h with hb | hm
    · cases b with
      | none => exact .inr (by simp at hb; simp [hb])
      | some v =>
        simp only at hb
        split at hb
        · exact .inr (by simp at hb; simp [hb])
        · exact .inl hb
    · exact .inr (List.mem_cons_of_mem _ hm)

theorem State.outPick_picked {s : State} {x g d : Nat} {m : Bool × Pkt} (h : s.outPick x g d = some m) : s.picked (x, g, d) m := by
  have hinj : ∀ {p : Pkt} {l : List Pkt} {f : Pkt → Bool}, l = (s.injHeads x g d).filter f → p ∈ l → s.picked (x, g, d) (true, p) := by
    intro p l f hl hp
    rw [hl] at hp
    exact ⟨fun _ => State.mem_injHeads (List.mem_filter.mp hp).1, fun hf => (by cases hf)⟩
  unfold State.outPick at h
  extract_lets +onlyGivenNames y fits head thr inj at h
  split at h
  · cases h
  · split at h
    next p hfind =>
      cases h
      have hp := List.find?_some hfind
      simp only [Bool.and_eq_true, decide_eq_true_eq] at hp
      obtain ⟨⟨⟨-, hpos⟩, hring⟩, hdir⟩ := hp
      exact ⟨fun hf => (by cases hf), fun _ => ⟨List.mem_of_find?_eq_some hfind, hpos, Prod.ext hring hdir⟩⟩
    next =>
      split at h
      next p hfind =>
        cases h
        exact hinj rfl (List.mem_of_find?_eq_some hfind)
      next =>
        rcases foldl_eldest_mem _ _ h with hnone | hm
        · cases hnone
        · rcases List.mem_append.mp hm with hthr | hin
          · obtain ⟨p, hp, rfl⟩ := List.mem_map.mp hthr
            obtain ⟨req, -, hhead⟩ := List.mem_filterMap.mp (List.mem_filter.mp hp).1
            have hb := List.mem_filter.mp (List.mem_of_find?_eq_some hhead)
            have hf := List.find?_some hhead
            simp only [Bool.and_eq_true, decide_eq_true_eq, Bool.not_eq_true'] at hb hf
            obtain ⟨hmem, ⟨⟨-, hring⟩, hdir⟩, hpos⟩ := hb
            obtain ⟨⟨hnak, -⟩, -⟩ := hf
            rw [if_neg (by simp [hnak])] at hpos
            exact ⟨fun hf => (by cases hf), fun _ => ⟨hmem, hpos.symm, Prod.ext hring hdir⟩⟩
          · obtain ⟨p, hp, rfl⟩ := List.mem_map.mp hin
            exact hinj rfl hp

/-! ### One launch, one crossing -/

theorem State.laneOf_congr {s t : State} (h : t.regs = s.regs) (p : Pkt) : t.laneOf p = s.laneOf p := by
  simp only [State.laneOf, State.ringDir, State.curBank, State.fld, State.rd, h]

theorem State.launchTo_length (s : State) (p : Pkt) (y : Nat) (h : p ∈ s.rnd.inj) :
    (s.launchTo p y).rnd.net.length + (s.launchTo p y).rnd.inj.length = s.rnd.net.length + s.rnd.inj.length := by
  have := List.length_pos_of_mem h
  simp only [State.launchTo, List.length_append, List.length_singleton, List.length_erase_of_mem h]
  omega

theorem State.mem_inj_of_mayLaunch {s : State} {p : Pkt} (h : s.mayLaunch p = true) : p ∈ s.rnd.inj := by
  simp only [State.mayLaunch, Bool.and_eq_true, decide_eq_true_eq] at h
  exact List.mem_of_find?_eq_some h.1

theorem State.sendOver_length (s : State) (o : Nat × Nat × Nat) (m : Bool × Pkt) (h : s.picked o m) :
    (s.sendOver o.1 o.2.1 o.2.2 m).rnd.net.length + (s.sendOver o.1 o.2.1 o.2.2 m).rnd.inj.length =
      s.rnd.net.length + s.rnd.inj.length := by
  unfold State.sendOver
  simp only [List.length_map]
  cases hm : m.1 with
  | true =>
    rw [if_pos rfl]
    exact s.launchTo_length _ _ (h.1 hm).1
  | false =>
    have hmem := (h.2 hm).1
    have := List.length_pos_of_mem hmem
    simp only [Bool.false_eq_true, if_false, List.length_append, List.length_singleton, List.length_erase_of_mem hmem]
    omega

/-- A crossing of one output leaves the pick of another. -/
theorem State.sendOver_picked {s : State} {o o' : Nat × Nat × Nat} {m m' : Bool × Pkt} (hne : o ≠ o') (h : s.picked o m)
    (h' : s.picked o' m') : (s.sendOver o.1 o.2.1 o.2.2 m).picked o' m' := by
  have hregs : (s.sendOver o.1 o.2.1 o.2.2 m).regs = s.regs := (State.sendOver_touches ..).regs_eq
  constructor
  · intro ht
    obtain ⟨hmem, hstart, hlane⟩ := h'.1 ht
    refine ⟨?_, hstart, (State.laneOf_congr hregs _).trans hlane⟩
    have hlate : m'.2 ∉ (s.injHeads o.1 o.2.1 o.2.2).filter (fun q => q ≠ m.2) := fun hin => by
      obtain ⟨-, hs, hl⟩ := State.mem_injHeads (List.mem_filter.mp hin).1
      exact hne (Prod.ext (hs.symm.trans hstart) (hl.symm.trans hlane))
    unfold State.sendOver
    refine List.mem_map.mpr ⟨m'.2, ?_, if_neg (by simpa using hlate)⟩
    cases hm : m.1 with
    | true =>
      rw [if_pos rfl]
      refine (List.mem_erase_of_ne fun heq => hne ?_).mpr hmem
      obtain ⟨-, hs, hl⟩ := h.1 hm
      rw [← heq] at hs hl
      exact Prod.ext (hs.symm.trans hstart) (hl.symm.trans hlane)
    | false => exact hmem
  · intro hf
    obtain ⟨hmem, hpos, hlane⟩ := h'.2 hf
    refine ⟨?_, hpos, hlane⟩
    unfold State.sendOver
    cases hm : m.1 with
    | true => exact List.mem_append_left _ hmem
    | false =>
      refine List.mem_append_left _ ((List.mem_erase_of_ne fun heq => hne ?_).mpr hmem)
      obtain ⟨-, hp, hl⟩ := h.2 hm
      rw [← heq] at hp hl
      exact Prod.ext (hp.symm.trans hpos) (hl.symm.trans hlane)

/-! ### A cycle of the rings, and their settling -/

theorem State.each_sendOver_length (ps : List ((Nat × Nat × Nat) × (Bool × Pkt))) (s : State) (hd : (ps.map Prod.fst).Nodup)
    (hp : ∀ e ∈ ps, s.picked e.1 e.2) :
    (s.each ps fun t e => t.sendOver e.1.1 e.1.2.1 e.1.2.2 e.2).rnd.net.length +
      (s.each ps fun t e => t.sendOver e.1.1 e.1.2.1 e.1.2.2 e.2).rnd.inj.length = s.rnd.net.length + s.rnd.inj.length := by
  induction ps generalizing s with
  | nil => rfl
  | cons e ps ih =>
    have he := hp e List.mem_cons_self
    rw [List.map_cons, List.nodup_cons] at hd
    rw [State.each_cons]
    refine (ih _ hd.2 fun e' he' => ?_).trans (s.sendOver_length e.1 e.2 he)
    exact State.sendOver_picked (fun heq => hd.1 (heq ▸ List.mem_map_of_mem he')) he (hp e' (List.mem_cons_of_mem _ he'))

/-- The outputs of a cycle with their picks. -/
def State.picks (s : State) : List ((Nat × Nat × Nat) × (Bool × Pkt)) :=
  s.outputs.filterMap fun o => (s.outPick o.1 o.2.1 o.2.2).map fun m => (o, m)

theorem State.netCycle_eq (s : State) :
    s.netCycle = (s.each s.picks fun t e => t.sendOver e.1.1 e.1.2.1 e.1.2.2 e.2, !s.picks.isEmpty) := rfl

theorem State.picked_of_mem_picks {s : State} {e : (Nat × Nat × Nat) × (Bool × Pkt)} (h : e ∈ s.picks) : s.picked e.1 e.2 := by
  obtain ⟨o, -, ho⟩ := List.mem_filterMap.mp h
  obtain ⟨m, hm, rfl⟩ := Option.map_eq_some_iff.mp ho
  exact State.outPick_picked hm

theorem State.picks_nodup (s : State) : (s.picks.map Prod.fst).Nodup := by
  have hsub : ∀ os : List (Nat × Nat × Nat), ((os.filterMap fun o => (s.outPick o.1 o.2.1 o.2.2).map fun m => (o, m)).map Prod.fst).Sublist os := by
    intro os
    induction os with
    | nil => exact .slnil
    | cons o os ih =>
      rw [List.filterMap_cons]
      cases h : s.outPick o.1 o.2.1 o.2.2 with
      | none => exact ih.cons _
      | some m => exact ih.cons_cons _
  exact (List.nodup_dedup _).sublist (hsub _)

theorem State.netCycle_length (s : State) :
    s.netCycle.1.rnd.net.length + s.netCycle.1.rnd.inj.length = s.rnd.net.length + s.rnd.inj.length :=
  s.each_sendOver_length _ s.picks_nodup fun _ => State.picked_of_mem_picks

/-- What every launch of a waiting packet keeps, and every crossing of a packet that waits or stands on the ring, a cycle keeps. -/
theorem State.netCycle_keeps (P : State → Prop) (s : State) (hs : P s)
    (hP : ∀ t x g d m, P t → (m.1 = true → m.2 ∈ s.rnd.inj) → P (t.sendOver x g d m)) : P s.netCycle.1 :=
  State.each_keeps P _ s.picks s (fun t _ he ht => hP t _ _ _ _ ht fun hm => ((State.picked_of_mem_picks he).1 hm).1) hs

theorem State.settleN_keeps (P : State → Prop) (hn : ∀ t, P t → P t.netCycle.1) (n : Nat) (s : State) (hs : P s) :
    P (State.settleN n s) := by
  induction n generalizing s with
  | zero => exact hs
  | succ n ih =>
    unfold State.settleN
    split
    · exact ih _ (hn s hs)
    · exact hs

/-- What a launch and a cycle keep, the rings keep while they settle. -/
theorem State.settle_keeps (P : State → Prop) (s : State) (hs : P s) (hl : ∀ t p y, P t → p ∈ t.rnd.inj → P (t.launchTo p y))
    (hn : ∀ t, P t → P t.netCycle.1) : P s.settle := by
  refine State.settleN_keeps P hn _ _ (State.each_keeps P _ _ s (fun t p _ ht => ?_) hs)
  split
  next h =>
    rw [Bool.and_eq_true] at h
    exact hl t p _ ht (State.mem_inj_of_mayLaunch h.2)
  next => exact ht

/-! ### What settling leaves -/

/-- The rings neither lose nor make a packet. -/
theorem State.settle_length (s : State) :
    s.settle.rnd.net.length + s.settle.rnd.inj.length = s.rnd.net.length + s.rnd.inj.length :=
  State.settle_keeps (fun t => t.rnd.net.length + t.rnd.inj.length = s.rnd.net.length + s.rnd.inj.length) s rfl
    (fun t p y ht hp => (t.launchTo_length p y hp).trans ht) fun t ht => t.netCycle_length.trans ht

/-- A reading of the network's state that no launch and no crossing changes. -/
theorem State.settle_reads {β : Type} (f : State → β) (s : State) (hl : ∀ t p y, f (t.launchTo p y) = f t)
    (hs : ∀ t x g d m, f (t.sendOver x g d m) = f t) : f s.settle = f s :=
  State.settle_keeps (fun t => f t = f s) s rfl (fun t p y ht _ => (hl t p y).trans ht) fun t ht =>
    State.netCycle_keeps (fun u => f u = f s) t ht fun u x g d m hu _ => (hs u x g d m).trans hu

theorem State.settle_delivered (s : State) : s.settle.rnd.delivered = s.rnd.delivered := by
  refine State.settle_reads (fun t => t.rnd.delivered) s (fun _ _ _ => rfl) fun t x g d m => ?_
  unfold State.sendOver
  cases m.1 <;> rfl
theorem State.settle_stampHeld (s : State) : s.settle.rnd.stampHeld = s.rnd.stampHeld := by
  refine State.settle_reads (fun t => t.rnd.stampHeld) s (fun _ _ _ => rfl) fun t x g d m => ?_
  unfold State.sendOver
  cases m.1 <;> rfl

theorem State.stampHeld_settle (s : State) (d t : Nat) : s.settle.stampHeld d t = s.stampHeld d t := by
  unfold State.stampHeld
  rw [State.settle_stampHeld]

/-- With nothing to inject, the outstanding entries stay, and nothing is injected. -/
theorem State.settle_of_inj_nil (s : State) (h : s.rnd.inj = []) : s.settle.rnd.inj = [] ∧ s.settle.rnd.out = s.rnd.out := by
  refine State.settle_keeps (fun t => t.rnd.inj = [] ∧ t.rnd.out = s.rnd.out) s ⟨h, rfl⟩
    (fun t p y ht hp => absurd hp (by simp [ht.1])) fun t ht => ?_
  refine State.netCycle_keeps (fun u => u.rnd.inj = [] ∧ u.rnd.out = s.rnd.out) t ht fun u x g d m hu hm => ?_
  have hf : m.1 = false := by
    cases hm1 : m.1 with
    | true => exact absurd (hm hm1) (by simp [ht.1])
    | false => rfl
  unfold State.sendOver
  simp only [hf, Bool.false_eq_true, if_false]
  exact ⟨by rw [hu.1]; rfl, hu.2⟩

theorem State.settle_net_length (s : State) (h : s.rnd.inj = []) : s.settle.rnd.net.length = s.rnd.net.length := by
  have hlen := s.settle_length
  rw [(s.settle_of_inj_nil h).1, h] at hlen
  exact hlen

/-- A packet for an address from a master to a stop. -/
def Pkt.isFor (a mid dst : Nat) (p : Pkt) : Prop := p.addr = a ∧ p.mid = mid ∧ p.dst = dst

/-- Every packet that waits is for one address, and so is the live outstanding entry `k` of the master. -/
def State.entryFor (k a mid dst : Nat) (s : State) : Prop :=
  (∀ q ∈ s.rnd.inj, q.isFor a mid dst) ∧
    ∃ e, SMap.find s.rnd.out k = some e ∧ e.late = false ∧ e.origin = .master ∧ e.pkt.isFor a mid dst

theorem State.launchTo_entryFor {k a mid dst : Nat} (s : State) (p : Pkt) (y : Nat) (h : s.entryFor k a mid dst) (hp : p.isFor a mid dst) :
    (s.launchTo p y).entryFor k a mid dst := by
  obtain ⟨hinj, e, he, hlate, horigin, hpkt⟩ := h
  refine ⟨fun q hq => hinj q (List.mem_of_mem_erase hq), ?_⟩
  unfold State.launchTo
  dsimp only
  split
  next e' hfind =>
    split at hfind
    · by_cases hk : 2048 * p.src + p.tag = k
      · rw [hk, he] at hfind
        rw [hk]
        cases hfind
        exact ⟨_, SMap.find_put_same _ _ _, hlate, horigin, hp⟩
      · exact ⟨e, (SMap.find_put_ne _ _ (Ne.symm hk)).trans he, hlate, horigin, hpkt⟩
    · cases hfind
  next => exact ⟨e, he, hlate, horigin, hpkt⟩

theorem State.settle_entryFor {k a mid dst : Nat} (s : State) (h : s.entryFor k a mid dst) : s.settle.entryFor k a mid dst := by
  refine State.settle_keeps (State.entryFor k a mid dst) s h (fun t p y ht hp => t.launchTo_entryFor p y ht (ht.1 p hp)) fun t ht => ?_
  refine State.netCycle_keeps (State.entryFor k a mid dst) t ht fun u x g d m hu hm => ?_
  have hwaited : ∀ v : State, v.entryFor k a mid dst → ∀ (f : Pkt → Bool) (n : Nat) (lq : SMap Nat) (nr : SMap Nat),
      State.entryFor k a mid dst { v with rnd := { v.rnd with
        inj := v.rnd.inj.map (fun q => if f q then { q with waited := q.waited + n } else q), linkSeq := lq, nakRun := nr } } := by
    intro v hv f n lq nr
    refine ⟨fun q hq => ?_, hv.2⟩
    obtain ⟨r, hr, rfl⟩ := List.mem_map.mp hq
    split
    · exact hv.1 r hr
    · exact hv.1 r hr
  unfold State.sendOver
  refine hwaited _ ?_ _ _ _ _
  cases hm1 : m.1 with
  | true => exact u.launchTo_entryFor _ _ hu (ht.1 _ (hm hm1))
  | false => exact hu

end Sys2Proof.Machine
end

