-- ==== Sys2Proof/Proofs/Transactions.lean ====
section
set_option Elab.async false
/-!
PROOF. Requests and responses at the stops of the network (R327, R345, R355–R357, R364): O20.
-/
namespace Sys2Proof.Machine

theorem State.fld_of_regs {s t : State} (h : t.regs = s.regs) (r : Reg) (hi lo : Nat) : t.fld r hi lo = s.fld r hi lo := by
  simp only [State.fld, State.rd, h]

/-- With no host access, debug access or memory-model port waiting for the network, there is nothing to send on. -/
theorem State.pump_of_quiet (s : State) (hj : s.vl.jobs = []) (hd : s.dbg.queue = []) (hm : s.fab.mmps = []) : s.pump = s := by
  have hdbg : s.dbgStart = s := by
    unfold State.dbgStart
    rw [hd]
  simp [State.pump, hj, hm, SMap.keys, hdbg]

theorem State.settle_fld (s : State) (r : Reg) (hi lo : Nat) : s.settle.fld r hi lo = s.fld r hi lo :=
  State.fld_of_regs s.settle_touches.regs_eq r hi lo

theorem guard_request {s : State} {stop : Fin 18} {mid : Byte} {write peek : Bool} {len : Fin 257}
    {data : List Byte} (hon : s.domOn domRnd = true) (hlen : 0 < len.val) (hdata : write = true → data.length = len.val)
    (hat : atStop mid.toNat stop = true) (hlive : s.unitLive mid.toNat stop = true) (hpeek : peek = true → mid.toNat = 0x30)
    (hrun : 4 ≤ mid.toNat ∨ (s.coreOn mid.toNat = true ∧ s.halted mid.toNat = false)) :
    (s.domOn domRnd && atStop mid.toNat stop.val && (decide (4 ≤ mid.toNat) || (s.coreOn mid.toNat && !s.halted mid.toNat)) &&
      s.unitLive mid.toNat stop.val && (!peek || decide (mid.toNat = 0x30)) && decide (0 < len.val) &&
      (!write || decide (data.length = len.val))) = true := by
  have h1 : (decide (4 ≤ mid.toNat) || (s.coreOn mid.toNat && !s.halted mid.toNat)) = true := by
    rcases hrun with h | ⟨h, h'⟩
    · simp [h]
    · simp [h, h']
  have h2 : (!peek || decide (mid.toNat = 0x30)) = true := by
    cases peek with
    | false => rfl
    | true => simp [hpeek rfl]
  have h3 : (!write || decide (data.length = len.val)) = true := by
    cases write with
    | false => rfl
    | true => simp [hdata rfl]
  rw [hon, hat, h1, hlive, h2, h3, decide_eq_true hlen]
  rfl

/-- An ordinary request of a master that may make it. -/
theorem execRoundsRequestInject_plain {s : State} {stop : Fin 18} {mid : Byte} {addr : BitVec 48} {write peek : Bool} {len : Fin 257}
    {data : List Byte} (hon : s.domOn domRnd = true) (hlen : 0 < len.val) (hdata : write = true → data.length = len.val)
    (hat : atStop mid.toNat stop = true) (hlive : s.unitLive mid.toNat stop = true) (hpeek : peek = true → mid.toNat = 0x30)
    (hrun : 4 ≤ mid.toNat ∨ (s.coreOn mid.toNat = true ∧ s.halted mid.toNat = false)) :
    exec (.roundsRequestInject stop mid addr write peek len data none false) s =
      .next (match s.inject stop.val mid.toNat addr.toNat write peek len.val data none .master with
        | (_, .waits) => s
        | (t, .refused p) => t.deliver .master p
        | (t, .sent) => t) := by
  refine (State.when_of _ _ (guard_request hon hlen hdata hat hlive hpeek hrun)).trans ?_
  rfl

/-- A request that nothing decodes is answered at its stop. -/
theorem State.inject_undecoded (s : State) (stop mid a : Nat) (write peek : Bool) (len : Nat) (data : List Byte) (h : s.decodes a = false) :
    ∃ p : Pkt, p.mid = mid ∧ p.status = 1 ∧ p.cause = 1 ∧
      s.inject stop mid a write peek len data none .master = (s.noDecode stop mid a, .refused p) := by
  unfold State.inject
  rw [if_pos (by simp [h])]
  exact ⟨_, rfl, rfl, rfl, rfl⟩

theorem State.deadLetter_out (s : State) (stop kind dst mid a : Nat) :
    (s.deadLetter stop kind dst mid a).rnd.out = s.rnd.out ∧ (s.deadLetter stop kind dst mid a).rnd.net = s.rnd.net ∧
      (s.deadLetter stop kind dst mid a).rnd.inj = s.rnd.inj := by
  simp only [State.deadLetter]
  generalize hs1 : s.count (Reg.rndSDead stop) 31 0 1 = s1
  have hcount : s1.rnd = s.rnd := by rw [← hs1, State.count_rnd]
  split
  · rw [State.event_rnd, hcount]
    exact ⟨rfl, rfl, rfl⟩
  · rw [State.event_rnd, State.loadLastErr, State.wr_rnd, hcount]
    exact ⟨rfl, rfl, rfl⟩

theorem State.deadLetter_count (s : State) (stop kind dst mid a : Nat) (h : stop < 18) :
    (s.deadLetter stop kind dst mid a).fld (Reg.rndSDead stop) 31 0 = min (2 ^ 32 - 1) (s.fld (Reg.rndSDead stop) 31 0 + 1) := by
  have hcount : (s.count (Reg.rndSDead stop) 31 0 1).fld (Reg.rndSDead stop) 31 0 = min (2 ^ 32 - 1) (s.fld (Reg.rndSDead stop) 31 0 + 1) :=
    State.fld_count_same _ _ _ _ _ (by decide) (by decide)
  simp only [State.deadLetter]
  generalize s.count (Reg.rndSDead stop) 31 0 1 = s1 at hcount ⊢
  split
  · rw [State.event_fld_ne _ _ _ _ _ _ _ _ _ _ _ (by simp; omega), hcount]
  · refine (State.fld_of_regs (s := (s1.loadLastErr kind dst mid stop).event 0x0802 3 (stop * 256 + dst) mid a) rfl _ _ _).trans ?_
    rw [State.event_fld_ne _ _ _ _ _ _ _ _ _ _ _ (by simp; omega), State.loadLastErr,
      State.fld_wr_ne _ _ _ _ (by simp; omega), hcount]

/-- The state in which a request that goes out waits for its launch: its stamp spent, its entry held. -/
def State.sending (s : State) (stop g a mid : Nat) (write peek : Bool) (len : Nat) (data : List Byte) : State :=
  let p := mkReq stop (s.stopOf a) mid g a write peek len data none
  let s1 := s.setHeld (s.stopOf a) stop (s.stampHeld (s.stopOf a) stop - 1)
  let s2 := { s1 with rnd := { s1.rnd with out := SMap.put s1.rnd.out (2048 * stop + g) { pkt := p, origin := .master } } }
  let s3 := s2.setFld (Reg.rndSOut stop) 27 16 (max (s2.fld (Reg.rndSOut stop) 27 16) (s2.outOcc stop))
  { s3 with rnd := { s3.rnd with inj := s3.rnd.inj ++ [p] } }

theorem State.inject_decoded (s : State) (stop mid a : Nat) (write peek : Bool) (len : Nat) (data : List Byte) (g : Nat)
    (h : s.decodes a = true) (hs : 0 < s.stampHeld (s.stopOf a) stop) (hg : s.freeTag stop = some g) :
    s.inject stop mid a write peek len data none .master = ((s.sending stop g a mid write peek len data).settle, .sent) := by
  unfold State.inject
  rw [if_neg (by simp [h]), hg]
  dsimp only
  rw [if_neg (by omega)]
  unfold State.sending State.post
  rfl

theorem State.sending_stamps (s : State) (stop g a mid : Nat) (write peek : Bool) (len : Nat) (data : List Byte)
    (h : 0 < s.stampHeld (s.stopOf a) stop) :
    (s.sending stop g a mid write peek len data).stampHeld (s.stopOf a) stop + 1 = s.stampHeld (s.stopOf a) stop := by
  have hget : (s.sending stop g a mid write peek len data).stampHeld (s.stopOf a) stop = s.stampHeld (s.stopOf a) stop - 1 := by
    simp only [State.sending, State.setHeld, State.setFld_rnd]
    rw [State.stampHeld, SMap.get_set_same]
  omega

theorem State.sending_inj (s : State) (stop g a mid : Nat) (write peek : Bool) (len : Nat) (data : List Byte) :
    (s.sending stop g a mid write peek len data).rnd.inj =
      s.rnd.inj ++ [mkReq stop (s.stopOf a) mid g a write peek len data none] := by
  unfold State.sending
  dsimp only
  rw [State.setFld_rnd]
  rfl
theorem State.sending_net (s : State) (stop g a mid : Nat) (write peek : Bool) (len : Nat) (data : List Byte) :
    (s.sending stop g a mid write peek len data).rnd.net = s.rnd.net := by
  unfold State.sending
  dsimp only
  rw [State.setFld_rnd]
  rfl

theorem State.sending_byte (s : State) (stop g a mid : Nat) (write peek : Bool) (len : Nat) (data : List Byte) (x : Nat) :
    (s.sending stop g a mid write peek len data).byte x = s.byte x := by
  unfold State.sending State.byte
  dsimp only
  rw [State.setFld_mem]
  rfl

theorem State.sending_entryFor (s : State) (stop g a mid : Nat) (write peek : Bool) (len : Nat) (data : List Byte) (h : s.rnd.inj = []) :
    (s.sending stop g a mid write peek len data).entryFor (2048 * stop + g) a mid (s.stopOf a) := by
  have hout : (s.sending stop g a mid write peek len data).rnd.out = SMap.put s.rnd.out (2048 * stop + g)
      { pkt := mkReq stop (s.stopOf a) mid g a write peek len data none, origin := .master } := by
    simp only [State.sending, State.setHeld, State.setFld_rnd]
  refine ⟨fun q hq => ?_, { pkt := mkReq stop (s.stopOf a) mid g a write peek len data none, origin := .master },
    by rw [hout, SMap.find_put_same], rfl, rfl, rfl, rfl, rfl⟩
  rw [State.sending_inj, h, List.nil_append, List.mem_singleton] at hq
  rw [hq]
  exact ⟨rfl, rfl, rfl⟩

/-- A packet that stands at its goal leaves the rings. -/
theorem State.takeNet_length (s : State) (i : Nat) (h : i < s.rnd.net.length) :
    (s.takeNet i).rnd.net.length + (s.takeNet i).rnd.inj.length + 1 = s.rnd.net.length + s.rnd.inj.length := by
  rw [State.takeNet, State.settle_length]
  have := List.length_eraseIdx_of_lt h
  dsimp only
  omega

theorem State.takeNet_of_inj_nil (s : State) (i : Nat) (h : s.rnd.inj = []) (hi : i < s.rnd.net.length) :
    (s.takeNet i).rnd.inj = [] ∧ (s.takeNet i).rnd.out = s.rnd.out ∧ (s.takeNet i).rnd.net.length + 1 = s.rnd.net.length := by
  obtain ⟨hinj, hout⟩ := State.settle_of_inj_nil { s with rnd := { s.rnd with net := s.rnd.net.eraseIdx i } } h
  refine ⟨hinj, hout, ?_⟩
  have hlen := s.takeNet_length i hi
  have hinj' : (s.takeNet i).rnd.inj = [] := hinj
  rw [hinj', h] at hlen
  exact hlen

theorem State.netAt_lt {s : State} {i : Nat} {ks : List PktKind} {p : Pkt} (h : s.netAt i ks = some p) : i < s.rnd.net.length := by
  unfold State.netAt at h
  split at h
  next q hq => exact (List.getElem?_eq_some_iff.mp hq).1
  next => cases h

theorem State.deliver_master (s : State) (p : Pkt) :
    s.deliver .master p = { s with rnd := { s.rnd with delivered := SMap.put s.rnd.delivered p.mid p } } := rfl

/-- The rings settle in a module whose masters have nothing more to send. -/
theorem State.settle_pump (s : State) (hj : s.vl.jobs = []) (hd : s.dbg.queue = []) (hm : s.fab.mmps = []) :
    s.settle.pump = s.settle := by
  refine State.pump_of_quiet _ ?_ ?_ ?_
  · rw [s.settle_touches.vl_eq, hj]
  · rw [s.settle_touches.dbg_eq, hd]
  · rw [s.settle_touches.fab_eq, hm]

/-- What the timer of an outstanding request shows as it expires. -/
def State.showTimeout (s : State) (stop : Nat) (p : Pkt) : State :=
  ((s.count (Reg.rndSTo stop) 31 0 1).loadLastErr 0 p.dst p.mid stop).event 0x0801 4 (stop * 256 + p.dst) p.mid p.addr

theorem State.showTimeout_rnd (s : State) (stop : Nat) (p : Pkt) : (s.showTimeout stop p).rnd = s.rnd := by
  rw [State.showTimeout, State.event_rnd, State.loadLastErr, State.wr_rnd, State.count_rnd]
theorem State.showTimeout_touches (s : State) (stop : Nat) (p : Pkt) : Touches [.evr, .regs, .ev] s (s.showTimeout stop p) :=
  .then (.then (.then .refl (State.count_part .regs _ _ _ _ _ (regPart_regs (le_index (by decide))))) (State.loadLastErr_touches ..))
    (State.event_touches ..)
theorem State.showTimeout_count (s : State) (stop : Nat) (p : Pkt) (h : stop < 18) :
    (s.showTimeout stop p).fld (Reg.rndSTo stop) 31 0 = min (2 ^ 32 - 1) (s.fld (Reg.rndSTo stop) 31 0 + 1) := by
  rw [State.showTimeout, State.event_fld_ne _ _ _ _ _ _ _ _ _ _ _ (by simp; omega), State.loadLastErr,
    State.fld_wr_ne _ _ _ _ (by simp; omega)]
  exact State.fld_count_same _ _ _ _ _ (by decide) (by decide)

theorem execRoundsTimeout_live {s : State} {stop : Fin 18} {g : Fin 2048} {e : OutEnt} (hon : s.domOn domRnd = true)
    (hfind : SMap.find s.rnd.out (2048 * stop.val + g.val) = some e) (hl : e.late = false) :
    exec (.roundsTimeout stop g) s =
      .next (({ s.showTimeout stop e.pkt with rnd := { (s.showTimeout stop e.pkt).rnd with
        out := SMap.put (s.showTimeout stop e.pkt).rnd.out (2048 * stop.val + g.val) { e with late := true } } } : State).deliver e.origin
          (State.responseOf { s.showTimeout stop e.pkt with rnd := { (s.showTimeout stop e.pkt).rnd with
            out := SMap.put (s.showTimeout stop e.pkt).rnd.out (2048 * stop.val + g.val) { e with late := true } } } e.pkt 2 0 [])).settle.pump := by
  have hexec : exec (.roundsTimeout stop g) s = execRoundsTimeout stop g s := rfl
  rw [hexec]
  simp only [execRoundsTimeout, hfind]
  exact State.when_of _ _ (by simp [hon, hl])

theorem execOutstandingEntryRelease_late {s : State} {stop : Fin 18} {g : Fin 2048} {e : OutEnt} (hon : s.domOn domRnd = true)
    (hfind : SMap.find s.rnd.out (2048 * stop.val + g.val) = some e) (hl : e.late = true) :
    exec (.outstandingEntryRelease stop g) s = .next (s.freeEntry (2048 * stop.val + g.val)).settle.pump := by
  have hexec : exec (.outstandingEntryRelease stop g) s = execOutstandingEntryRelease stop g s := rfl
  rw [hexec]
  simp only [execOutstandingEntryRelease, hfind]
  exact State.when_of _ _ (by simp [hon, hl])

/-- A response that finds its entry: late, or for a master. -/
theorem execRoundsResponseArrival_found {s : State} {i : Nat} {p : Pkt} {e : OutEnt} (hnet : s.netAt i [.readResp, .writeResp] = some p)
    (hfind : SMap.find s.rnd.out (2048 * p.dst + p.tag) = some e) :
    exec (.roundsResponseArrival i) s = .next
      (if e.late = true then (((s.takeNet i).freeEntry (2048 * p.dst + p.tag)).count (Reg.rndSLate p.dst) 31 0 1).settle.pump
      else (((s.takeNet i).freeEntry (2048 * p.dst + p.tag)).deliver e.origin p).settle.pump) := by
  have hexec : exec (.roundsResponseArrival i) s = execRoundsResponseArrival i s := rfl
  rw [hexec]
  simp only [execRoundsResponseArrival, hnet, hfind]
  split <;> rfl

theorem execRoundsResponseArrival_dead {s : State} {i : Nat} {p : Pkt} (hnet : s.netAt i [.readResp, .writeResp] = some p)
    (hfind : SMap.find s.rnd.out (2048 * p.dst + p.tag) = none) :
    exec (.roundsResponseArrival i) s = .next ((s.takeNet i).deadLetter p.dst 2 p.dst p.mid p.addr) := by
  have hexec : exec (.roundsResponseArrival i) s = execRoundsResponseArrival i s := rfl
  rw [hexec]
  simp only [execRoundsResponseArrival, hnet, hfind]

end Sys2Proof.Machine

namespace Sys2Proof.Proofs
open Sys2Proof Sys2Proof.Machine

/-- Settles O20. -/
theorem roundsTransactions : Obligations.RoundsTransactions := by
  intro stop s hon
  refine ⟨fun mid addr write peek len data excl hlen hdata hat hlive hpeek hrun => ⟨fun he hw hc hres => ?_, fun he hdec => ?_,
    fun hdec hst he => ?_, fun he hdec hst hinj g hg => ?_⟩, fun hj hd hinj hm => ⟨fun g e he ho hl => ?_, fun g e he hl => ?_,
    fun i p e hnet he hcase => ?_⟩, fun i p hnet hnone hdst => ?_⟩
  · subst he hw
    refine ⟨s.setCore mid.toNat { s.core mid.toNat with reservation := none }, ?_, by simp, rfl⟩
    refine (State.when_of _ _ (guard_request hon hlen hdata hat hlive hpeek hrun)).trans ?_
    rw [if_pos (by simp [hc, hres])]
    simp [hc]
  · subst he
    obtain ⟨p, hmid, hst, hca, hinj⟩ := s.inject_undecoded stop mid.toNat addr.toNat write peek len.val data hdec
    refine ⟨(s.noDecode stop mid.toNat addr.toNat).deliver .master p, ?_, ?_, fun a => ?_, p, ?_, hst, hca⟩
    · rw [execRoundsRequestInject_plain hon hlen hdata hat hlive hpeek hrun, hinj]
    · exact (State.deadLetter_out ..).1
    · exact (State.noDecode_touches ..).byte_eq a
    · exact hmid ▸ SMap.find_put_same _ _ _
  · subst he
    rw [execRoundsRequestInject_plain hon hlen hdata hat hlive hpeek hrun]
    unfold State.inject
    rw [if_neg (by simp [hdec])]
    dsimp only
    cases s.freeTag stop with
    | none => rfl
    | some g =>
      dsimp only
      rw [if_pos hst]
  · subst he
    refine ⟨(s.sending stop g addr.toNat mid.toNat write peek len.val data).settle, ?_, ?_, ?_, ?_, fun a => ?_⟩
    · rw [execRoundsRequestInject_plain hon hlen hdata hat hlive hpeek hrun,
        s.inject_decoded _ _ _ _ _ _ _ g hdec hst hg]
    · obtain ⟨-, e, he, hlate, horigin, haddr, hmid, hdst⟩ :=
        State.settle_entryFor _ (s.sending_entryFor stop g addr.toNat mid.toNat write peek len.val data hinj)
      exact ⟨e, he, hlate, haddr, hmid, hdst, horigin⟩
    · rw [State.settle_length]
      rw [State.sending_net, State.sending_inj, hinj]
      rfl
    · rw [State.stampHeld_settle, State.sending_stamps _ _ _ _ _ _ _ _ _ hst]
    · rw [(State.settle_touches _).byte_eq a, State.sending_byte]
  · have htouch := s.showTimeout_touches stop e.pkt
    have hrnd := s.showTimeout_rnd stop e.pkt
    have hcount := s.showTimeout_count stop e.pkt stop.isLt
    have hexec := execRoundsTimeout_live hon he hl
    generalize s.showTimeout stop e.pkt = s1 at htouch hrnd hcount hexec
    rw [ho, State.deliver_master] at hexec
    rw [State.settle_pump _ (htouch.vl_eq ▸ hj) (htouch.dbg_eq ▸ hd) (htouch.fab_eq ▸ hm)] at hexec
    refine ⟨_, hexec, ⟨{ e with late := true }, ?_, rfl⟩, ?_, ?_, fun a => ?_⟩
    · rw [(State.settle_of_inj_nil _ (hrnd ▸ hinj)).2, SMap.find_put_same, ho]
    · rw [State.settle_delivered]
      exact ⟨_, SMap.find_put_same _ _ _, rfl⟩
    · rw [State.settle_fld, ← hcount]
      exact State.fld_of_regs rfl _ _ _
    · rw [(State.settle_touches _).byte_eq a, ← htouch.byte_eq a]
      rfl
  · have hexec := execOutstandingEntryRelease_late hon he hl
    rw [State.settle_pump (s.freeEntry _) hj hd hm] at hexec
    refine ⟨_, hexec, (State.settle_of_inj_nil (s.freeEntry _) hinj).2, ?_⟩
    exact ((s.freeEntry_touches _).then (State.settle_touches _)).eq_blend (P := [.rnd]) (by decide)
  · obtain ⟨hinj', hout, hlen⟩ := s.takeNet_of_inj_nil i hinj (State.netAt_lt hnet)
    have htouch := s.takeNet_touches i
    have hexec := execRoundsResponseArrival_found hnet he
    have hdeliv : (s.takeNet i).rnd.delivered = s.rnd.delivered := State.settle_delivered _
    generalize s.takeNet i = s1 at hinj' hout hlen htouch hexec
    have hquiet : ∀ s2 : State, Touches [.regs, .rnd] s1 s2 → s2.settle.pump = s2.settle := fun s2 h2 =>
      State.settle_pump _ (by rw [h2.vl_eq, htouch.vl_eq, hj]) (by rw [h2.dbg_eq, htouch.dbg_eq, hd]) (by rw [h2.fab_eq, htouch.fab_eq, hm])
    by_cases hl : e.late = true
    · rw [if_pos hl] at hexec
      have hfree : Touches [.regs, .rnd] s1 ((s1.freeEntry (2048 * p.dst + p.tag)).count (Reg.rndSLate p.dst) 31 0 1) :=
        .then (.then .refl (State.freeEntry_touches ..)) (State.count_part .regs _ _ _ _ _ (regPart_regs (le_index (by decide))))
      rw [hquiet _ hfree] at hexec
      refine ⟨_, hexec, ?_, ?_, fun h => absurd (h.symm.trans hl) Bool.false_ne_true, fun _ hdst => ?_, fun a => ?_⟩
      · rw [State.settle_net_length _ (by rw [State.count_rnd]; exact hinj'), State.count_rnd]
        exact hlen
      · rw [(State.settle_of_inj_nil _ (by rw [State.count_rnd]; exact hinj')).2, State.count_rnd]
        exact congrArg (SMap.erase · _) hout
      · rw [State.settle_fld, State.fld_count_same _ _ _ _ _ (by decide) (by decide), State.fld_of_regs (s := s1) (s1.freeEntry_touches _).regs_eq,
          State.fld_of_regs htouch.regs_eq]
      · rw [(State.settle_touches _).byte_eq a, hfree.byte_eq a, htouch.byte_eq a]
    · rw [if_neg hl, hcase.resolve_left hl, State.deliver_master] at hexec
      have hdone : Touches [.regs, .rnd] s1 ({ s1.freeEntry (2048 * p.dst + p.tag) with rnd := { (s1.freeEntry (2048 * p.dst + p.tag)).rnd with
          delivered := SMap.put (s1.freeEntry (2048 * p.dst + p.tag)).rnd.delivered p.mid p } } : State) :=
        .then (.then .refl (State.freeEntry_touches ..)) .setRnd
      rw [hquiet _ hdone] at hexec
      refine ⟨_, hexec, ?_, ?_, fun _ => ?_, fun h => absurd h hl, fun a => ?_⟩
      · rw [State.settle_net_length _ (by exact hinj')]
        exact hlen
      · rw [(State.settle_of_inj_nil _ (by exact hinj')).2]
        exact congrArg (SMap.erase · _) hout
      · rw [State.settle_delivered]
        exact SMap.find_put_same _ _ _
      · rw [(State.settle_touches _).byte_eq a, hdone.byte_eq a, htouch.byte_eq a]
  · rw [execRoundsResponseArrival_dead hnet hnone]
    obtain ⟨hout, hnet', hinj'⟩ := (s.takeNet i).deadLetter_out p.dst 2 p.dst p.mid p.addr
    refine ⟨_, rfl, ?_, ?_, fun a => ?_⟩
    · rw [hnet', hinj', s.takeNet_length i (State.netAt_lt hnet)]
    · rw [State.deadLetter_count _ _ _ _ _ _ hdst, State.fld_of_regs (s.takeNet_touches i).regs_eq]
    · rw [(State.deadLetter_touches ..).byte_eq a, (s.takeNet_touches i).byte_eq a]

end Sys2Proof.Proofs
end

