-- ==== Sys2Proof/Proofs/Arrivals.lean ====
section
set_option Elab.async false
/-!
PROOF. Requests, notices and held accesses that arrive at a stop (R349, R352, R360–R362): O21.
-/
namespace Sys2Proof.Machine

/-! ### Answers on their way -/

/-- A packet that answers a request with a cause and data. -/
def Pkt.isAnswer (q : Pkt) (cause : Nat) (data : List Byte) (p : Pkt) : Bool :=
  p.kind = (if q.kind = .readReq then .readResp else .writeResp) && p.src = q.dst && p.dst = q.src &&
    p.mid = q.mid && p.tag = q.tag && p.addr = q.addr && p.status = (if cause = 0 then 0 else 1) && p.cause = cause && p.data = data

theorem State.answers_iff (s : State) (q : Pkt) (cause : Nat) (data : List Byte) :
    s.answers q cause data = true ↔ ∃ p, (p ∈ s.rnd.net ∨ p ∈ s.rnd.inj) ∧ q.isAnswer cause data p = true := by
  simp only [State.answers, List.any_eq_true, List.mem_append, Pkt.isAnswer]

/-- A packet stays somewhere on the network while another, or it itself in a new place, goes on. -/
theorem exists_mem_moved {F : Pkt → Bool} {net inj : List Pkt} {p p' : Pkt} (hp : F p = true → F p' = true)
    (h : ∃ q, (q ∈ net ∨ q ∈ inj) ∧ F q = true) : ∃ q, (q ∈ net.erase p ++ [p'] ∨ q ∈ inj) ∧ F q = true := by
  obtain ⟨q, hq, hF⟩ := h
  by_cases heq : q = p
  · exact ⟨p', .inl (by simp), hp (heq ▸ hF)⟩
  · exact ⟨q, hq.imp_left fun hn => List.mem_append_left _ ((List.mem_erase_of_ne heq).mpr hn), hF⟩

theorem State.launchTo_answers (s : State) (p : Pkt) (y : Nat) (q : Pkt) (cause : Nat) (data : List Byte)
    (h : s.answers q cause data = true) : (s.launchTo p y).answers q cause data = true := by
  rw [State.answers_iff] at h ⊢
  obtain ⟨r, hr, hF⟩ := h
  by_cases heq : r = p
  · exact ⟨_, .inl (List.mem_append_right _ (List.mem_singleton.mpr rfl)), heq ▸ hF⟩
  · exact ⟨r, hr.imp (List.mem_append_left _) fun hi => (List.mem_erase_of_ne heq).mpr hi, hF⟩

theorem State.sendOver_answers (s : State) (x g d : Nat) (m : Bool × Pkt) (q : Pkt) (cause : Nat) (data : List Byte)
    (h : s.answers q cause data = true) : (s.sendOver x g d m).answers q cause data = true := by
  have hwaited : ∀ t : State, t.answers q cause data = true → ∀ (f : Pkt → Bool) (n : Nat) (lq nr : SMap Nat),
      State.answers { t with rnd := { t.rnd with
        inj := t.rnd.inj.map (fun r => if f r then { r with waited := r.waited + n } else r), linkSeq := lq, nakRun := nr } } q cause data = true := by
    intro t ht f n lq nr
    rw [State.answers_iff] at ht ⊢
    obtain ⟨r, hr, hF⟩ := ht
    rcases hr with hn | hi
    · exact ⟨r, .inl hn, hF⟩
    · refine ⟨_, .inr (List.mem_map_of_mem hi), ?_⟩
      split
      · exact hF
      · exact hF
  unfold State.sendOver
  refine hwaited _ ?_ _ _ _ _
  cases hm : m.1 with
  | true => exact s.launchTo_answers _ _ q cause data h
  | false =>
    rw [State.answers_iff] at h ⊢
    exact exists_mem_moved (fun hF => hF) h

theorem State.settle_answers (s : State) (q : Pkt) (cause : Nat) (data : List Byte) (h : s.answers q cause data = true) :
    s.settle.answers q cause data = true :=
  State.settle_keeps (fun t => t.answers q cause data = true) s h (fun t p y ht _ => t.launchTo_answers p y q cause data ht)
    fun t ht => State.netCycle_keeps (fun u => u.answers q cause data = true) t ht fun u x g d m hu _ => u.sendOver_answers x g d m q cause data hu

/-- A response that a stop sends is on its way. -/
theorem State.post_answers (s t : State) (q : Pkt) (cause : Nat) (data : List Byte) :
    (s.post (t.responseOf q (if cause = 0 then 0 else 1) cause data)).answers q cause (if cause = 0 ∨ inFrames q.addr = true then data else []) = true := by
  refine State.settle_answers _ q cause _ ?_
  rw [State.answers_iff]
  refine ⟨_, .inr (List.mem_append_right _ (List.mem_singleton.mpr rfl)), ?_⟩
  by_cases hc : cause = 0
  · simp [Pkt.isAnswer, State.responseOf, hc]
  · simp [Pkt.isAnswer, State.responseOf, hc]

theorem State.settle_rest (s : State) : s.settle.rnd.accepted = s.rnd.accepted ∧ s.settle.rnd.pr = s.rnd.pr ∧
    s.settle.rnd.blocked = s.rnd.blocked ∧ s.settle.rnd.fabHeld = s.rnd.fabHeld := by
  have hread : ∀ {β : Type} (f : RndSt → β), (∀ r : RndSt, ∀ inj net out lq nr,
      f { r with inj := inj, net := net, out := out, linkSeq := lq, nakRun := nr } = f r) → f s.settle.rnd = f s.rnd := by
    intro β f hf
    refine State.settle_reads (fun t => f t.rnd) s (fun t p y => hf t.rnd _ _ _ _ _) fun t x g d m => ?_
    unfold State.sendOver
    cases m.1 with
    | true => exact (hf (t.launchTo m.2 (stopNext x d)).rnd _ _ _ _ _).trans (hf t.rnd _ _ _ _ _)
    | false => exact hf t.rnd _ _ _ _ _
  exact ⟨hread RndSt.accepted fun _ _ _ _ _ _ => rfl, hread RndSt.pr fun _ _ _ _ _ _ => rfl,
    hread RndSt.blocked fun _ _ _ _ _ _ => rfl, hread RndSt.fabHeld fun _ _ _ _ _ _ => rfl⟩

/-! ### A request at its stop -/

/-- A module that differs in the network's state alone. -/
def State.withRnd (s : State) (r : RndSt) : State := { s with rnd := r }

theorem Touches.eq_withRnd {s t : State} (h : Touches [.rnd] s t) : t = s.withRnd t.rnd := h.eq_blend (by decide)

section
variable (s : State) (r : RndSt)
theorem State.domOf_withRnd (a : Nat) : (s.withRnd r).domOf a = s.domOf a := rfl
theorem State.dom_withRnd (d : Nat) : (s.withRnd r).dom d = s.dom d := rfl
theorem State.domOn_withRnd (d : Nat) : (s.withRnd r).domOn d = s.domOn d := rfl
theorem State.refuses_withRnd (d : Nat) : (s.withRnd r).refuses d = s.refuses d := rfl
theorem State.fabricWaits_withRnd (a : Nat) : (s.withRnd r).fabricWaits a = s.fabricWaits a := rfl
theorem State.decodes_withRnd (a : Nat) : (s.withRnd r).decodes a = s.decodes a := rfl
theorem State.mcOf_withRnd (a : Nat) : (s.withRnd r).mcOf a = s.mcOf a := rfl
theorem State.mc_withRnd (c : Nat) : (s.withRnd r).mc c = s.mc c := rfl
theorem State.byte_withRnd (a : Nat) : (s.withRnd r).byte a = s.byte a := rfl
end

/-- A request taken into the stop's pool. -/
def State.accepting (s : State) (t : Nat) : State :=
  { s with rnd := { s.rnd with accepted := SMap.set s.rnd.accepted t (s.accepted t + 1) 0 } }

theorem State.accepting_accepted (s : State) (t : Nat) : (s.accepting t).accepted t = s.accepted t + 1 := by
  rw [State.accepting, State.accepted, SMap.get_set_same]

section
variable {s : State} {q : Pkt} (hb : q.back = false)
include hb

theorem State.arrive_full (hf : destSize q.dst ≤ s.accepted q.dst) :
    s.arrive q = ((s.count Reg.talOverrun 31 0 1).event 0x0704 6 (306 + q.dst) 0).post
      (((s.count Reg.talOverrun 31 0 1).event 0x0704 6 (306 + q.dst) 0).responseOf q (if 7 = 0 then 0 else 1) 7 []) :=
  if_pos (by simp [hb, hf])

theorem State.arrive_taken (hf : s.accepted q.dst < destSize q.dst) (h3 : (s.dom (s.domOf q.addr)).ph ≠ 3) :
    s.arrive q = if s.domOn (s.domOf q.addr) then (s.accepting q.dst).serveReq q
      else if s.refuses (s.domOf q.addr) then (s.accepting q.dst).respond q 5 [] else (s.accepting q.dst).holdReq q (s.domOf q.addr) := by
  unfold State.arrive
  rw [if_neg (by simp [hb, hf])]
  simp only [hb, Bool.false_eq_true, if_false, if_neg h3]
  rfl
end

theorem State.respond_answers (s : State) (q : Pkt) (cause : Nat) (data : List Byte) :
    (s.respond q cause data).answers q cause (if cause = 0 ∨ inFrames q.addr = true then data else []) = true :=
  State.post_answers (s.stampBack q.dst) s q cause data

/-- An answer without data. -/
theorem State.post_answers_nil (s t : State) (q : Pkt) (cause : Nat) :
    (s.post (t.responseOf q (if cause = 0 then 0 else 1) cause [])).answers q cause [] = true := by
  have h := State.post_answers s t q cause []
  rwa [ite_self] at h

theorem State.respond_mem (s : State) (q : Pkt) (cause : Nat) (data : List Byte) : (s.respond q cause data).mem = s.mem := by
  rw [(s.respond_touches q cause data).eq_withRnd]
  rfl
theorem State.respond_fabHeld (s : State) (q : Pkt) (cause : Nat) (data : List Byte) :
    (s.respond q cause data).rnd.fabHeld = s.rnd.fabHeld := by
  rw [State.respond, State.post, (State.settle_rest _).2.2.2]
  rfl

theorem State.takeNet_accepted (s : State) (i t : Nat) : (s.takeNet i).accepted t = s.accepted t := by
  unfold State.accepted
  rw [State.takeNet, (State.settle_rest _).1]

/-- A request to memory reaches its controller's Rounds input. -/
theorem State.serveReq_memory {s : State} {q : Pkt} (ha : 0x10000000000 ≤ q.addr) (hd : s.decodes (q.addr + q.len - 1) = true)
    (hb : q.bem = none) :
    s.serveReq q = s.setMc (s.mcOf q.addr) { s.mc (s.mcOf q.addr) with
      inbox := (s.mc (s.mcOf q.addr)).inbox ++ [{ pkt := q, eff := q.age }] } :=
  if_pos (by simp [ha, hd, hb])

/-- Any other request whose plane does not step in its cycle is answered with what its access gives. -/
theorem State.serveReq_access {s : State} {q : Pkt} (ha : q.addr < 0x10000000000) (hw : s.fabricWaits q.addr = false) :
    s.serveReq q = (s.access (q.kind = .writeReq) q.peek q.addr q.len q.mid q.data q.bem).st.respond q
      (s.access (q.kind = .writeReq) q.peek q.addr q.len q.mid q.data q.bem).cause
      (s.access (q.kind = .writeReq) q.peek q.addr q.len q.mid q.data q.bem).data := by
  unfold State.serveReq
  rw [if_neg (by simp [Nat.not_le.mpr ha]), if_neg (by simp [hw])]

/-- A read of fabric memory in its form gives the bytes. -/
theorem State.access_fabricMemory (s : State) {peek : Bool} {a n : Nat} (mid : Nat) (data : List Byte) (ht : inTile a = true)
    (hlo : 0x40000000 ≤ winOff a) (hhi : winOff a < 0x60000000) (hf : memForm a n = true) :
    s.access false peek a n mid data none = { st := s, data := s.bytes a n } := by
  have ha : 0x1000000000 ≤ a := by
    simp only [inTile, Bool.and_eq_true, decide_eq_true_eq] at ht
    exact ht.1
  have hso : inSoTable a = false := by
    simp only [inSoTable, Bool.and_eq_false_iff, decide_eq_false_iff_not]
    omega
  have hregs : inRegs a = false := by
    simp only [inRegs, Bool.or_eq_false_iff, Bool.and_eq_false_iff, decide_eq_false_iff_not]
    omega
  unfold State.access
  rw [if_neg (by simp), if_neg (by simp [hso]), if_pos (by simp [ht])]
  simp only [hregs, Bool.false_eq_true, if_false]
  unfold State.fabricAccess
  dsimp only
  rw [if_neg (by omega), if_neg (by omega), if_neg (by simp [hf]), if_neg (by omega)]
  rfl

/-- A returned request stands again at the head of its queue, and its pair is blocked. -/
def State.putBack (s : State) (p : Pkt) : State :=
  { s with rnd := { s.rnd with
    inj := { p with kind := if p.data.isEmpty then .readReq else .writeReq, waited := 0 } :: s.rnd.inj
    blocked := if s.rnd.blocked.contains (18 * p.src + p.dst) then s.rnd.blocked else s.rnd.blocked ++ [18 * p.src + p.dst] } }

theorem State.putBack_touches (s : State) (p : Pkt) : Touches [.rnd] s (s.putBack p) := by
  unfold State.putBack
  exact .setRnd

theorem Touches.eq_withRegs {s t : State} (h : Touches [.regs, .rnd] s t) : t = { s with regs := t.regs, rnd := t.rnd } :=
  h.eq_blend (by decide)

theorem execReturnedRequest_some {s : State} {i : Nat} {p : Pkt} (h : s.netAt i [.returned] = some p) :
    execReturnedRequest i s = .next (((s.takeNet i).count (Reg.rndSPr p.src) 31 16 1).putBack p) := by
  unfold execReturnedRequest State.putBack
  rw [h]

theorem State.holdReq_room {s : State} {q : Pkt} {d : Nat} (hp : s.prOcc q.dst < 64) (hd : (s.dom d).ph = 0) :
    (s.holdReq q d).rnd.pr = s.rnd.pr ++ [{ pkt := q, dom := d }] ∧ ((s.holdReq q d).dom d).wanted = true := by
  unfold State.holdReq
  rw [if_pos hp]
  dsimp only
  rw [if_pos hd]
  constructor
  · rw [State.setDom_rnd, State.setFld_rnd]
  · rw [State.dom_setDom_same]

end Sys2Proof.Machine

namespace Sys2Proof.Proofs
open Sys2Proof Sys2Proof.Machine

/-- Settles O21. -/
theorem roundsArrivals : Obligations.RoundsArrivals := by
  intro i s
  refine ⟨fun p hnet hback hsrc hdst _ => ?_, fun hon => ⟨fun p hp => ?_, fun p k hi hp => ?_⟩, fun c m rest k q hmcs hi hq => ?_,
    fun p hnet => ?_, fun p hnet => ⟨fun hb => ?_, fun hb hdst => ?_⟩, fun q hq hw hord htile hlo hhi hkind hbem hform => ?_⟩
  · have hexec : exec (.roundsRequestArrival i) s = .next ((s.takeNet i).arrive p) := by
      have h : exec (.roundsRequestArrival i) s = execRoundsRequestArrival i s := rfl
      simp only [h, execRoundsRequestArrival, hnet]
    rw [hexec]
    have hacc := s.takeNet_accepted i p.dst
    have hu : ∀ u : State, u = { s.takeNet i with rnd := { (s.takeNet i).rnd with
        accepted := SMap.set (s.takeNet i).rnd.accepted p.dst (s.accepted p.dst + 1) 0 } } → u = (s.takeNet i).accepting p.dst :=
      fun u h => h.trans (by rw [State.accepting, hacc])
    have hpr : (s.takeNet i).rnd.pr = s.rnd.pr := (State.settle_rest _).2.1
    have hnetOf := (s.takeNet_touches i).eq_withRnd
    generalize s.takeNet i = t at hnetOf hacc hu hpr
    generalize t.rnd = r at hnetOf hpr
    subst hnetOf
    have hdom : ∀ d, (s.withRnd r).dom d = s.dom d := s.dom_withRnd r
    refine ⟨fun hf => ⟨_, rfl, ?_⟩, fun hf => ?_⟩
    · rw [State.arrive_full hback (hacc.symm ▸ hf)]
      refine ⟨State.post_answers_nil _ _ p 7, fun a => ?_⟩
      rw [(State.post_touches ..).byte_eq a, (State.event_touches ..).byte_eq a, State.count_byte, State.byte_withRnd]
    · have htaken : (s.dom (s.domOf p.addr)).ph ≠ 3 → (s.withRnd r).arrive p = if s.domOn (s.domOf p.addr)
          then ((s.withRnd r).accepting p.dst).serveReq p
          else if s.refuses (s.domOf p.addr) then ((s.withRnd r).accepting p.dst).respond p 5 []
          else ((s.withRnd r).accepting p.dst).holdReq p (s.domOf p.addr) := State.arrive_taken hback (hacc.symm ▸ hf)
      have hsame : ∃ r', (s.withRnd r).accepting p.dst = s.withRnd r' ∧ r'.pr = r.pr := ⟨_, rfl, rfl⟩
      have hone := (s.withRnd r).accepting_accepted p.dst
      rw [hacc] at hone
      generalize (s.withRnd r).accepting p.dst = v at htaken hsame hone hu
      obtain ⟨r', rfl, hpr'⟩ := hsame
      refine ⟨fun h3 href => ⟨_, rfl, ?_⟩, fun h2 ha hd hbem => ⟨_, rfl, ?_⟩, fun u g h2 ha hw hueq hg => ⟨_, rfl, ?_⟩,
        fun h0 href hocc => ⟨_, rfl, ?_⟩⟩
      · have hoff : s.domOn (s.domOf p.addr) = false := by
          rw [State.refuses, Bool.and_eq_true, Bool.not_eq_true'] at href
          exact href.1
        rw [htaken h3, hoff, if_neg Bool.false_ne_true, if_pos href]
        exact ⟨State.post_answers_nil _ _ p 5, (Touches.then (P := [.rnd]) .setRnd (State.respond_touches ..)).eq_withRnd⟩
      · have hon2 : s.domOn (s.domOf p.addr) = true := by simp [State.domOn, h2]
        rw [htaken (by rw [h2]; decide), hon2, if_pos rfl, State.serveReq_memory (s := s.withRnd r') ha hd hbem]
        exact ⟨hone, congrArg McSt.inbox (State.mc_setMc ..), rfl⟩
      · have hon2 : s.domOn (s.domOf p.addr) = true := by simp [State.domOn, h2]
        rw [htaken (by rw [h2]; decide), hon2, if_pos rfl, State.serveReq_access (s := s.withRnd r') ha hw, ← hu u hueq, ← hg]
        exact ⟨State.respond_mem .., State.respond_answers ..⟩
      · have hoff : s.domOn (s.domOf p.addr) = false := by simp [State.domOn, h0]
        obtain ⟨hprq, hwant⟩ := State.holdReq_room (s := s.withRnd r') (q := p) (d := s.domOf p.addr)
          (by rw [State.prOcc]; exact (congrArg (fun l : List HeldPkt => (l.filter (fun h => h.pkt.dst = p.dst)).length) (hpr'.trans hpr)).trans_lt hocc) h0
        rw [htaken (by rw [h0]; decide), hoff, if_neg Bool.false_ne_true, href, if_neg Bool.false_ne_true]
        exact ⟨hprq.trans (congrArg (· ++ _) (hpr'.trans hpr)), hwant, fun a => (State.holdReq_touches ..).byte_eq a⟩
  · have hlt : i < s.rnd.inj.length := (List.getElem?_eq_some_iff.mp hp).1
    refine ⟨s.withRnd { s.rnd with inj := s.rnd.inj.mapIdx (fun k p => if k = i then { p with age := min 15 (p.age + 1) } else p) }, ?_, ?_, rfl⟩
    · refine (if_neg (by omega)).trans ((State.when_of _ _ hon).trans (congrArg _ (if_pos hlt)))
    · simp [State.withRnd, hp]
  · have hlt : k < s.rnd.net.length := (List.getElem?_eq_some_iff.mp hp).1
    refine ⟨s.withRnd { s.rnd with net := s.rnd.net.mapIdx (fun k p => if k + s.rnd.inj.length = i then { p with age := min 15 (p.age + 1) } else p) },
      ?_, ?_, rfl⟩
    · refine (if_neg (by omega)).trans ((State.when_of _ _ hon).trans (congrArg _ (if_neg (by omega))))
    · simp [State.withRnd, hp, hi]
  · have hlt : k < m.inbox.length := (List.getElem?_eq_some_iff.mp hq).1
    have hrise : mcsAgeRise (i - (s.rnd.inj.length + s.rnd.net.length)) s.mcs = (c, m.ageRise k) :: rest := by
      have hk : i - (s.rnd.inj.length + s.rnd.net.length) = k := by omega
      rw [hmcs, hk, mcsAgeRise, if_pos (by rw [McSt.waiting]; omega)]
    refine ⟨{ s with mcs := mcsAgeRise (i - (s.rnd.inj.length + s.rnd.net.length)) s.mcs }, if_pos (by omega), ?_, rfl⟩
    rw [hrise]
    simp [State.mc, SMap.get, SMap.find, McSt.ageRise, hq]
  · have hexec : exec (.returnedRequest i) s = execReturnedRequest i s := rfl
    have htouch : Touches [.regs, .rnd] s ((s.takeNet i).count (Reg.rndSPr p.src) 31 16 1) :=
      .then (.then .refl (s.takeNet_touches i)) (State.count_part .regs _ _ _ _ _ (regPart_regs (le_index (by decide))))
    have hback := execReturnedRequest_some hnet
    generalize (s.takeNet i).count (Reg.rndSPr p.src) 31 16 1 = s1 at htouch hback
    refine ⟨_, hexec.trans hback, ⟨_, _, rfl, rfl, rfl, ?_⟩, ?_, ?_⟩
    · dsimp only [Pkt.isReq]
      split <;> rfl
    · dsimp only [State.putBack]
      split
      next h => exact List.contains_iff_mem.mp h
      next h => simp
    · have hput : Touches [.regs, .rnd] s (s1.putBack p) := htouch.then (s1.putBack_touches p)
      exact hput.eq_withRegs
  · have hexec : exec (.resumeNotice i) s = execResumeNotice i s := rfl
    simp only [hexec, execResumeNotice, hnet]
    rw [if_pos (by simpa using hb)]
    refine ⟨_, rfl, ?_, ?_⟩
    · rw [(State.settle_rest _).2.2.1]
      simp
    · exact (((s.takeNet_touches i).then (Q := [.rnd]) .setRnd).then (State.settle_touches _)).eq_withRnd
  · have hexec : exec (.resumeNotice i) s = execResumeNotice i s := rfl
    simp only [hexec, execResumeNotice, hnet]
    rw [if_neg (by simpa using hb)]
    refine ⟨_, rfl, ?_⟩
    rw [State.deadLetter_count _ _ _ _ _ _ hdst, State.fld_of_regs (s.takeNet_touches i).regs_eq]
  · have hexec : exec (.heldFabricAccess i) s = execHeldFabricAccess i s := rfl
    simp only [hexec, execHeldFabricAccess, hq]
    have haddr : q.addr < 0x10000000000 := by
      simp only [inTile, Bool.and_eq_true, decide_eq_true_eq] at htile
      omega
    rw [State.when_of _ _ (by simp [hw, hord])]
    obtain ⟨r, hr, hfab⟩ : ∃ r, ({ s with rnd := { s.rnd with fabHeld := s.rnd.fabHeld.eraseIdx i } } : State) = s.withRnd r ∧
        r.fabHeld = s.rnd.fabHeld.eraseIdx i := ⟨_, rfl, rfl⟩
    have hread := State.access_fabricMemory (s.withRnd r) q.mid q.data htile hlo hhi hform (peek := q.peek)
    rw [State.bytes_congr s (s.withRnd r) q.addr q.len fun c _ _ => s.byte_withRnd r c] at hread
    rw [hr, State.serveReq_access (s := s.withRnd r) haddr hw, hkind, hbem]
    simp only [reduceCtorEq, decide_false, hread]
    refine ⟨_, rfl, ?_, ?_, ?_⟩
    · rw [State.respond_fabHeld]
      exact hfab
    · have hans := State.respond_answers (s.withRnd r) q 0 (s.bytes q.addr q.len)
      rwa [if_pos (.inl rfl)] at hans
    · exact (Touches.then (P := [.rnd]) .setRnd (State.respond_touches ..)).eq_withRnd

end Sys2Proof.Proofs
end

