-- ==== Sys2Proof/Proofs/Envelopes.lean ====
section
set_option Elab.async false
/-!
PROOF. Envelopes in, replies out, tickets reclaimed (R370, R377–R392): O24.
-/
namespace Sys2Proof.Machine

/-- A reply behind those that wait. -/
theorem replied_of {s t : State} {q : VReq} {st tk : Nat} {p : List Byte} (r : VReply) (rs : List VReply)
    (h : t.vl.replies = s.vl.replies ++ r :: rs) (hr : r.port = q.port ∧ r.opcode = q.opcode ∧ r.client = q.client ∧ r.seq = q.seq ∧
      r.status = st ∧ r.ticket = tk ∧ r.payload = p ∧ r.flags % 2 = 1) : Replied s t q st tk p :=
  ⟨r, ⟨rs, by rw [h]; simp⟩, hr⟩

theorem State.turnAway_eq (s : State) (q : VReq) (st : Nat) :
    ∃ ts, s.turnAway q st = { s with vl := { s.vl with
      tickets := ts, replies := s.vl.replies ++ [{ s.replyOf q st [] 0 0 with buf := true }] } } := by
  obtain ⟨ts, ht⟩ := s.dropResv_eq q
  exact ⟨ts, by rw [State.turnAway, ht]; rfl⟩

/-- A sequence number one above the head is newer, and not in the window. -/
theorem isNewer_next (q : Nat) (h : q < 2 ^ 32) :
    isNewer ((q + 2 ^ 32 - 1) % 2 ^ 32) q = true ∧ inWindow ((q + 2 ^ 32 - 1) % 2 ^ 32) q = false := by
  simp only [Nat.reducePow] at h
  have hup : seqDist q ((q + 2 ^ 32 - 1) % 2 ^ 32) = 1 := by
    simp only [seqDist, Nat.reducePow]
    omega
  have hdown : seqDist ((q + 2 ^ 32 - 1) % 2 ^ 32) q = 4294967295 := by
    simp only [seqDist, Nat.reducePow]
    omega
  rw [isNewer, inWindow, hup, hdown]
  decide

/-- A newer request of an open client, for a unit that is ready, goes to its handler. -/
theorem State.classify_newer (s : State) (q : VReq) (hop : opListed q.opcode = true)
    (hnew : isNewer (s.client q.client).h q.seq = true) (hwin : inWindow (s.client q.client).h q.seq = false)
    (hready : s.opReady q.opcode (leAt q.payload 0 1) = true) : s.classify q = s.passed q := by
  -- unfolded as a function, as in `State.classify_touches`
  generalize hf : State.classify = f
  delta State.classify at hf
  subst hf
  beta_reduce
  simp only [hwin, hnew, hop, hready, Bool.false_eq_true, if_false, Bool.not_true, Bool.not_false, Bool.and_false]

/-- A frame for port 47310 of an addressed logical port. -/
theorem execEnvelopeReceive_vollor {s : State} {f : HostFrame} (hserv : s.lpServing f.port = true) (hto : toVollor f = true)
    (haddr : f.v6 = true ∨ s.lpIp4 f.port ≠ 0) :
    exec (.envelopeReceive f) s = .next
      (if !s.intact f (s.lpOwns f.port f.v6) then s.count (Reg.vlLpDrop f.port) 31 16 1
      else if s.lpLimit f.port f.v6 < (reqOf f).payload.length || (reqOf f).version ≠ 1 then
        s.pushReply (s.replyOf (reqOf f) stBadParam [] 0 0)
      else if s.admits (reqOf f) then s.admitReq (reqOf f)
      else (s.count (Reg.vlLpBusy f.port) 31 0 1).pushReply (s.replyOf (reqOf f) stBusy [] 0 (s.busyRetry f.port))) := by
  refine (State.when_of _ _ hserv).trans (congrArg _ ?_)
  rw [if_neg (by simp [hto]), if_neg (by rcases haddr with h | h <;> simp [h])]

theorem execEnvelopeDispatch_front {s : State} {q : VReq} {rest : List VReq} (hh : s.hubOn = true) (hq : s.vl.intake = q :: rest) :
    exec .envelopeDispatch s = .next (({ s with vl := { s.vl with intake := rest } } : State).dispatch q) := by
  have hexec : exec .envelopeDispatch s = execEnvelopeDispatch s := rfl
  rw [hexec]
  simp only [execEnvelopeDispatch, hq]
  exact State.when_of _ _ hh

/-- A request of a client that does not exist, and one of a client that is not open and that does not open it, is turned away. -/
theorem State.dispatch_no_client {s : State} {q : VReq} (hc : 64 ≤ q.client) : s.dispatch q = s.turnAway q stBadParam := if_pos hc
theorem State.dispatch_closed {s : State} {q : VReq} (hc : q.client < 64) (ho : (s.client q.client).isOpen = false)
    (hf : bitOf q.flags 1 = false) : s.dispatch q = s.turnAway q stBadState := by
  unfold State.dispatch
  rw [if_neg (by omega), if_neg (by simp [hf]), if_pos (by simp [ho])]
theorem State.dispatch_opens {s : State} {q : VReq} (hc : q.client < 64) (ho : (s.client q.client).isOpen = false)
    (hf : bitOf q.flags 1 = true) : s.dispatch q = (s.setClient q.client (openClient q)).classify q := by
  unfold State.dispatch
  rw [if_neg (by omega), if_pos (by simp [hf, ho])]

theorem State.client_setClient_same (s : State) (c : Nat) (v : Client) : (s.setClient c v).client c = v := by
  rw [State.client, State.setClient, SMap.get_set_same]

/-- Past the last check the client's head is the request's number, when that is newer, and the request is handed over. -/
def State.handsOver (s : State) (q : VReq) (slots : List WinSlot) : State :=
  let s1 := s.setClient q.client { s.client q.client with h := q.seq, slots := slots }
  { s1 with vl := { s1.vl with handed := s1.vl.handed ++ [q] } }

theorem State.passed_newer (s : State) (q : VReq) (h : isNewer (s.client q.client).h q.seq = true) :
    ∃ slots, s.passed q = s.handsOver q slots := by
  unfold State.passed
  simp only [h, if_true]
  exact ⟨_, rfl⟩

theorem State.handsOver_client (s : State) (q : VReq) (slots : List WinSlot) :
    ((s.handsOver q slots).client q.client).h = q.seq ∧ ((s.handsOver q slots).client q.client).isOpen = (s.client q.client).isOpen := by
  have hc : (s.handsOver q slots).client q.client = { s.client q.client with h := q.seq, slots := slots } :=
    State.client_setClient_same ..
  rw [hc]
  exact ⟨rfl, rfl⟩

theorem State.opReady_setClient (s : State) (c : Nat) (v : Client) (op tile : Nat) : (s.setClient c v).opReady op tile = s.opReady op tile := rfl
theorem State.opReady_intake (s : State) (qs : List VReq) (op tile : Nat) :
    ({ s with vl := { s.vl with intake := qs } } : State).opReady op tile = s.opReady op tile := rfl

/-- A request that opens its client, for a unit that is ready, goes to its handler. -/
theorem State.dispatch_opens_ready {s : State} {q : VReq} (hc : q.client < 64) (ho : (s.client q.client).isOpen = false)
    (hf : bitOf q.flags 1 = true) (hseq : q.seq < 2 ^ 32) (hop : opListed q.opcode = true)
    (hready : s.opReady q.opcode (leAt q.payload 0 1) = true) :
    ∃ slots, s.dispatch q = (s.setClient q.client (openClient q)).handsOver q slots := by
  obtain ⟨hnew, hwin⟩ := isNewer_next q.seq hseq
  have hh : (openClient q).h = (q.seq + 2 ^ 32 - 1) % 2 ^ 32 := by simp only [openClient]
  rw [← hh, ← s.client_setClient_same q.client (openClient q)] at hnew hwin
  obtain ⟨slots, hpass⟩ := State.passed_newer _ q hnew
  exact ⟨slots, (State.dispatch_opens hc ho hf).trans ((State.classify_newer _ q hop hnew hwin (by rw [State.opReady_setClient, hready])).trans hpass)⟩

theorem openClient_isOpen (q : VReq) : (openClient q).isOpen = true := by simp only [openClient]

theorem State.count_withVl (s : State) (v : VlSt) (r : Reg) (hi lo n : Nat) :
    ({ s with vl := v } : State).count r hi lo n = { s with regs := (s.count r hi lo n).regs, vl := v } := rfl

/-- A request admitted with the ticket entry that it reserves: a count, a buffer, and its place behind those that wait. -/
def State.admitWith (s : State) (q : VReq) (i : Option Nat) : State :=
  let s1 := match i with
    | some j => { s with vl := { s.vl with tickets := SMap.put s.vl.tickets j { s.tkt j with resv := true } } }
    | none => s
  let s2 := (s1.count (Reg.vlLpRx q.port) 31 0 1).bufAdd q.port
  { s2 with vl := { s2.vl with intake := s2.vl.intake ++ [{ q with resv := i }] } }

theorem State.admitReq_eq_admitWith (s : State) (q : VReq) : s.admitReq q = s.admitWith q (if opReserves q.opcode then s.tktFree else none) := rfl

theorem State.admitWith_eq (s : State) (q : VReq) (i : Option Nat) : ∃ ts, s.admitWith q i = { s with
    regs := (s.count (Reg.vlLpRx q.port) 31 0 1).regs
    vl := { s.vl with
      tickets := ts, bufs := SMap.set s.vl.bufs (physPort q.port) (s.bufsUsed q.port + 1) 0
      intake := s.vl.intake ++ [{ q with resv := i }] } } := by
  have hcount : ∀ v : VlSt, ({ s with vl := v } : State).count (Reg.vlLpRx q.port) 31 0 1 =
      { s with regs := (s.count (Reg.vlLpRx q.port) 31 0 1).regs, vl := v } := fun v => State.count_withVl s v _ _ _ _
  have hsame := State.count_changes_regs_alone s (Reg.vlLpRx q.port) 31 0 1
  generalize (s.count (Reg.vlLpRx q.port) 31 0 1).regs = regs at hcount hsame ⊢
  cases i with
  | some j =>
    exact ⟨SMap.put s.vl.tickets j { s.tkt j with resv := true }, by simp only [State.admitWith, hcount, State.bufAdd, State.bufsUsed]⟩
  | none => exact ⟨s.vl.tickets, by simp only [State.admitWith, hsame, State.bufAdd, State.bufsUsed]⟩

theorem State.setTkt_vl (s : State) (i : Nat) (v : Ticket) : (s.setTkt i v).vl = { s.vl with tickets := SMap.set s.vl.tickets i v {} } := by
  simp only [State.setTkt, State.wr64, State.wr_vl]

theorem State.setTkt_fld_below (s : State) (i : Nat) (v : Ticket) (r : Reg) (hi lo : Nat) (h : r.addr < 0x58000) :
    (s.setTkt i v).fld r hi lo = s.fld r hi lo := by
  have hrd : (s.setTkt i v).rd r = s.rd r := by
    unfold State.setTkt
    rw [State.rd_wr64_ne _ _ (by simp; omega) (by simp; omega)]
    rfl
  rw [State.fld, hrd, State.fld]

/-- A ticket made active carries the generation of its entry. -/
theorem State.tktIssue_handle (s : State) (i c : Nat) (w : TktWork) : (s.tktIssue i c w true).handle i = s.handle i := by
  rw [State.handle, State.handle, State.tktIssue, State.setTkt_fld_below _ _ _ _ _ _ (by decide), State.tkt_setTkt]

/-- Progress leaves a live ticket live, and the queue of replies and the accesses as they are. -/
theorem State.tktProgress_live (s : State) (i p q : Nat) (hu : (s.tkt i).used = true) (hs : (s.tkt i).state = 1) :
    ((s.tktProgress i p q).tkt i).used = true ∧ ((s.tktProgress i p q).tkt i).state = 1 := by
  rw [State.tktProgress, if_pos (by simp [tktLive, hu, hs]), State.tkt_setTkt]
  exact ⟨hu, hs⟩
theorem State.tktProgress_port (s : State) (i p q : Nat) :
    (s.tktProgress i p q).vl.replies = s.vl.replies ∧ (s.tktProgress i p q).vl.jobs = s.vl.jobs := by
  unfold State.tktProgress
  split
  · rw [State.setTkt_vl]
    exact ⟨rfl, rfl⟩
  · exact ⟨rfl, rfl⟩

/-- A handler's reply goes behind those that wait; the accesses and the tickets stay. -/
theorem State.sendReply_port (s : State) (q : VReq) (r : VReply) : ∃ rs, (s.sendReply q r).vl.replies = s.vl.replies ++ { r with buf := true } :: rs ∧
    (s.sendReply q r).vl.jobs = s.vl.jobs ∧ ∀ i, (s.sendReply q r).tkt i = s.tkt i := by
  obtain ⟨cs, hs, rs, hsend⟩ := s.sendReply_eq q r
  rw [hsend]
  exact ⟨rs, rfl, rfl, fun _ => rfl⟩

/-- ACCEPTED with the ticket of an access that is deferred. -/
theorem State.deferral (s : State) (q : VReq) (i id n : Nat) :
    Replied s (((s.tktIssue i q.client (.access id) true).accept q i []).tktProgress i n 0) q stAccepted (s.handle i) [] ∧
      ((((s.tktIssue i q.client (.access id) true).accept q i []).tktProgress i n 0).tkt i).used = true ∧
      ((((s.tktIssue i q.client (.access id) true).accept q i []).tktProgress i n 0).tkt i).state = 1 ∧
      (((s.tktIssue i q.client (.access id) true).accept q i []).tktProgress i n 0).vl.jobs = s.vl.jobs := by
  have hhandle := s.tktIssue_handle i q.client (.access id)
  have hissued : ((s.tktIssue i q.client (.access id) true).tkt i).used = true ∧ ((s.tktIssue i q.client (.access id) true).tkt i).state = 1 := by
    rw [State.tktIssue, State.tkt_setTkt]
    exact ⟨rfl, rfl⟩
  have hport : (s.tktIssue i q.client (.access id) true).vl.replies = s.vl.replies ∧
      (s.tktIssue i q.client (.access id) true).vl.jobs = s.vl.jobs := by
    rw [State.tktIssue, State.setTkt_vl]
    exact ⟨rfl, rfl⟩
  generalize s.tktIssue i q.client (.access id) true = u at hhandle hissued hport ⊢
  rw [← hhandle, State.accept]
  generalize u.handle i = h
  obtain ⟨rs, hreplies, hjobs, htkt⟩ := State.sendReply_port u q (u.replyOf q stAccepted [] h 0)
  have hflags : (u.replyOf q stAccepted [] h 0).flags % 2 = 1 := lor_one_mod _
  have hreply : (u.replyOf q stAccepted [] h 0).port = q.port ∧ (u.replyOf q stAccepted [] h 0).opcode = q.opcode ∧
      (u.replyOf q stAccepted [] h 0).client = q.client ∧ (u.replyOf q stAccepted [] h 0).seq = q.seq ∧
      (u.replyOf q stAccepted [] h 0).status = stAccepted ∧ (u.replyOf q stAccepted [] h 0).ticket = h ∧
      (u.replyOf q stAccepted [] h 0).payload = [] := ⟨rfl, rfl, rfl, rfl, rfl, rfl, rfl⟩
  generalize u.replyOf q stAccepted [] h 0 = r at hreplies hjobs htkt hflags hreply ⊢
  generalize u.sendReply q r = v at hreplies hjobs htkt ⊢
  rw [← htkt i] at hissued
  obtain ⟨hu, hst⟩ := v.tktProgress_live i n 0 hissued.1 hissued.2
  obtain ⟨hreplies', hjobs'⟩ := v.tktProgress_port i n 0
  obtain ⟨hp, ho, hc, hs, hst', ht, hpl⟩ := hreply
  exact ⟨replied_of { r with buf := true } rs (by rw [hreplies', hreplies, hport.1]) ⟨hp, ho, hc, hs, hst', ht, hpl, hflags⟩, hu, hst,
    by rw [hjobs', hjobs, hport.2]⟩

end Sys2Proof.Machine

namespace Sys2Proof.Proofs
open Sys2Proof Sys2Proof.Machine

/-- Settles O24. -/
theorem envelopesAndReplies : Obligations.EnvelopesAndReplies := by
  intro s
  refine ⟨fun f hserv => ⟨fun hto => ?_, fun hto haddr => ⟨fun hint => ?_, fun hint => ⟨fun hbad => ?_, fun hlen hver =>
    ⟨fun hadm => ?_, fun hadm => ?_⟩⟩⟩⟩, fun q rest hh hq => ⟨fun hc hopen hflag hseq hop hready => ?_, fun hc hopen hflag => ?_, fun hc => ?_⟩,
    fun port r rest hup hr hport hreset => ?_, fun id j hh hj hdef hkind _ => ?_, fun i hh hused hst => ?_⟩
  · refine ⟨_, (State.when_of _ _ hserv).trans (congrArg _ (if_pos (by simp [hto]))),
      State.fld_count_same _ _ _ _ _ (by decide) (by decide), rfl⟩
  · exact ⟨_, (execEnvelopeReceive_vollor hserv hto haddr).trans (congrArg _ (if_pos (by simp [hint]))),
      State.fld_count_same _ _ _ _ _ (by decide) (by decide), rfl⟩
  · refine ⟨_, (execEnvelopeReceive_vollor hserv hto haddr).trans (congrArg _ ((if_neg (by simp [hint])).trans (if_pos ?_))), rfl, ?_, rfl⟩
    · rcases hbad with h | h
      · simp [h]
      · simp [h]
    · exact replied_of _ [] rfl ⟨rfl, rfl, rfl, rfl, rfl, rfl, rfl, lor_one_mod _⟩
  · have hgood : ¬ (decide (s.lpLimit f.port f.v6 < (reqOf f).payload.length) || decide ((reqOf f).version ≠ 1)) = true := by
      simp [hver, Nat.not_lt.mpr hlen]
    have hexec : exec (.envelopeReceive f) s = .next (s.admitReq (reqOf f)) := by
      rw [execEnvelopeReceive_vollor hserv hto haddr, if_neg (by simp [hint]), if_neg hgood, if_pos hadm]
    rw [State.admitReq_eq_admitWith] at hexec
    generalize (if opReserves (reqOf f).opcode then s.tktFree else none) = i at hexec
    obtain ⟨ts, hts⟩ := s.admitWith_eq (reqOf f) i
    have hport : (reqOf f).port = f.port := rfl
    have hrx : (s.count (Reg.vlLpRx f.port) 31 0 1).fld (Reg.vlLpRx f.port) 31 0 = min (2 ^ 32 - 1) (s.fld (Reg.vlLpRx f.port) 31 0 + 1) :=
      State.fld_count_same _ _ _ _ _ (by decide) (by decide)
    have hrd : ∀ u : State, u.regs = (s.count (Reg.vlLpRx f.port) 31 0 1).regs → u.fld (Reg.vlLpRx f.port) 31 0 = min (2 ^ 32 - 1) (s.fld (Reg.vlLpRx f.port) 31 0 + 1) :=
      fun u hu => (State.fld_of_regs hu _ _ _).trans hrx
    rw [hport] at hts
    generalize (s.count (Reg.vlLpRx f.port) 31 0 1).regs = regs at hts hrd
    rw [hts] at hexec
    refine ⟨_, i, hexec, rfl, ?_, rfl, hrd _ rfl, rfl⟩
    rw [State.bufsUsed, SMap.get_set_same]
  · have hgood : ¬ (decide (s.lpLimit f.port f.v6 < (reqOf f).payload.length) || decide ((reqOf f).version ≠ 1)) = true := by
      simp [hver, Nat.not_lt.mpr hlen]
    have hexec : exec (.envelopeReceive f) s = .next ((s.count (Reg.vlLpBusy f.port) 31 0 1).pushReply
        (s.replyOf (reqOf f) stBusy [] 0 (s.busyRetry f.port))) := by
      rw [execEnvelopeReceive_vollor hserv hto haddr, if_neg (by simp [hint]), if_neg hgood, if_neg (by simp [hadm])]
    generalize s.busyRetry f.port = n at hexec
    obtain ⟨regs, hregs⟩ : ∃ regs, s.count (Reg.vlLpBusy f.port) 31 0 1 = { s with regs := regs } :=
      ⟨_, State.count_changes_regs_alone ..⟩
    rw [hregs] at hexec
    exact ⟨_, hexec, rfl, replied_of _ [] rfl ⟨rfl, rfl, rfl, rfl, rfl, rfl, rfl, lor_one_mod _⟩, rfl⟩
  · obtain ⟨slots, hdisp⟩ := State.dispatch_opens_ready (s := { s with vl := { s.vl with intake := rest } }) hc hopen hflag hseq hop
      (by rw [State.opReady_intake, hready])
    rw [execEnvelopeDispatch_front hh hq, hdisp]
    have hclient := State.client_setClient_same { s with vl := { s.vl with intake := rest } } q.client (openClient q)
    have hopened := openClient_isOpen q
    generalize openClient q = c at hclient hopened ⊢
    obtain ⟨hhead, hisopen⟩ := State.handsOver_client (({ s with vl := { s.vl with intake := rest } } : State).setClient q.client c) q slots
    exact ⟨_, rfl, rfl, rfl, by rw [hisopen, hclient, hopened], hhead, rfl⟩
  · rw [execEnvelopeDispatch_front hh hq, State.dispatch_closed (s := { s with vl := { s.vl with intake := rest } }) hc hopen hflag]
    obtain ⟨ts, hts⟩ := State.turnAway_eq { s with vl := { s.vl with intake := rest } } q stBadState
    rw [hts]
    exact ⟨_, rfl, rfl, rfl, replied_of _ [] rfl ⟨rfl, rfl, rfl, rfl, rfl, rfl, rfl, lor_one_mod _⟩, rfl⟩
  · rw [execEnvelopeDispatch_front hh hq, State.dispatch_no_client hc]
    obtain ⟨ts, hts⟩ := State.turnAway_eq { s with vl := { s.vl with intake := rest } } q stBadParam
    rw [hts]
    exact ⟨_, rfl, rfl, replied_of _ [] rfl ⟨rfl, rfl, rfl, rfl, rfl, rfl, rfl, lor_one_mod _⟩, rfl⟩
  · have hexec : exec (.replySent port) s = execReplySent port s := rfl
    have hfind : s.vl.replies.find? (fun r => r.port = port.val) = some r := by simp [hr, hport]
    have herase : s.vl.replies.erase r = rest := by simp [hr]
    simp only [hexec, execReplySent, hfind, herase, hreset, Bool.false_eq_true, if_false]
    refine ⟨_, State.when_of _ _ hup, ?_⟩
    cases hbuf : r.buf with
    | true =>
      rw [if_pos rfl]
      refine ⟨rfl, SMap.find_put_same _ _ _, fun _ => ?_, rfl⟩
      rw [State.bufsUsed, State.bufFree, hport, SMap.get_set_same]
      rfl
    | false =>
      rw [if_neg Bool.false_ne_true]
      exact ⟨rfl, SMap.find_put_same _ _ _, fun h => absurd h Bool.false_ne_true, rfl⟩
  · obtain ⟨s1, hs1, h1⟩ : ∃ s1 : State, s1 = s.setJob id { j with deferred := true, req := { j.req with resv := none } } ∧
        s1.job id = some { j with deferred := true, req := { j.req with resv := none } } :=
      ⟨_, rfl, SMap.find_put_same _ _ _⟩
    have hexec : exec (.accessDeferral id) s = .next (((s1.tktIssue j.ticket j.req.client (.access id) true).accept j.req j.ticket []).tktProgress
        j.ticket (jobProgress j) 0) := by
      have h : exec (.accessDeferral id) s = execAccessDeferral id s := rfl
      simp only [h, execAccessDeferral, hj, ← hs1]
      exact State.when_of _ _ (by simp [hh, hdef, hkind])
    obtain ⟨⟨r, hr, hreply⟩, hu, hst, hjobs⟩ := s1.deferral j.req j.ticket id (jobProgress j)
    have hsame : s1.vl.replies = s.vl.replies ∧ s1.handle j.ticket = s.handle j.ticket := by rw [hs1]; exact ⟨rfl, rfl⟩
    rw [hsame.1] at hr
    rw [hsame.2] at hreply
    refine ⟨_, hexec, ⟨r, hr, hreply⟩, hu, hst, { j with deferred := true, req := { j.req with resv := none } }, ?_, rfl⟩
    rw [State.job, hjobs]
    exact h1
  · refine ⟨s.reclaim i, State.when_of _ _ (by simp [hh, hused, hst]), ?_, fun k hk => ?_, rfl⟩
    · exact SMap.get_set_same _ _ _ _
    · exact SMap.get_set_ne _ _ _ _ (by simpa [Fin.val_eq_val] using hk)

end Sys2Proof.Proofs
end

