-- ==== Sys2Proof/Proofs/RunOpcodes.lean ====
section
set_option Elab.async false
/-!
PROOF. The opcodes of the Runs group: O29.
-/
namespace Sys2Proof.Machine

/-- RUN_SUSPEND of run 0. -/
def suspendRun0 : VReq := { port := 0, opcode := 0x0402, client := 0, seq := 0, payload := List.replicate 16 0 }

/-- Run 0 waits for its placement; the ticket that it names for its start is the free entry 0. -/
def waitsUnderFreeTicket : State :=
  let s := (State.working 6 [domHub]).wr Reg.soCtrl 1
  { s with
    so := { s.so with runs := [(0, { state := .waiting, curTkt := some 0 })] }
    vl := { s.vl with handed := [suspendRun0] } }

end Sys2Proof.Machine

namespace Sys2Proof.Proofs
open Sys2Proof Sys2Proof.Machine

/-- Refutes O29: a suspend of a run that waits drops the start first and supersedes its ticket; where the run names the very entry
that the suspend takes, the suspend's ticket ends superseded and not done. -/
theorem not_runOpcodes : ¬ Obligations.RunOpcodes := by
  intro h
  obtain ⟨-, hidle, -⟩ := h 0 suspendRun0 0 waitsUnderFreeTicket (by decide +kernel) (by decide +kernel)
  obtain ⟨-, -, hsuspend, -⟩ := hidle 0 (by decide +kernel) (by decide +kernel) (by decide +kernel) (by decide +kernel) (by decide +kernel)
    (by decide +kernel)
  obtain ⟨-, hwaits⟩ := hsuspend ⟨by decide +kernel, by decide +kernel, by decide +kernel⟩ (by decide +kernel) (by decide +kernel)
    (by decide +kernel)
  obtain ⟨t, ht, -, -, hdone, -⟩ := hwaits (by decide +kernel)
  have hsuperseded : ((stateAfter (exec (.runSuspend 0) waitsUnderFreeTicket)).tkt 0).state = 4 := by decide +kernel
  rw [ht] at hsuperseded
  exact absurd (hsuperseded.symm.trans hdone) (by decide)

end Sys2Proof.Proofs
end

