-- ==== Sys2Proof/Proofs/Resets.lean ====
section
set_option Elab.async false
/-!
PROOF. The resets: O40.
-/
namespace Sys2Proof.Machine

/-- Core 0 stands halted, its watchdog frozen. -/
def haltedCore : State := ((State.working 6 [domHub]).wr (Reg.dbgCStat 0) 1).wr (Reg.dbgWdtStat 0) 2

end Sys2Proof.Machine

namespace Sys2Proof.Proofs
open Sys2Proof Sys2Proof.Machine

/-- Refutes O40: the debug reset releases a halted core, which thaws its watchdog; that register lies behind the ones that the debug
reset changes. -/
theorem not_resets : ¬ Obligations.Resets := by
  intro h
  obtain ⟨-, -, -, hdebug⟩ := h haltedCore
  obtain ⟨t, ht, -, -, -, -, -, -, -, hother, -⟩ := hdebug (by decide +kernel)
  have hfrozen : haltedCore.rd (Reg.dbgWdtStat 0) = 2 := by decide +kernel
  have hthawed : (stateAfter (exec .debugReset haltedCore)).rd (Reg.dbgWdtStat 0) = 0 := by decide +kernel
  rw [ht] at hthawed
  have hkept := hother (Reg.dbgWdtStat 0) (by decide +kernel)
  exact absurd (hthawed.symm.trans (hkept.trans hfrozen)) (by decide)

end Sys2Proof.Proofs
end

