-- ==== Sys2Proof/Proofs/Franking.lean ====
section
set_option Elab.async false
/-!
PROOF. The Franking Unit's actions (R154–R157, R268, R490): O6.
-/
namespace Sys2Proof.Machine

theorem State.fkClose_fk (s : State) : s.fkClose.fk = { s.fk with unlocked := none } := State.setBit_fk ..

theorem State.fkClose_fld (s : State) {q : Reg} (hi lo : Nat) (h : q.addr ≠ Reg.fkStat.addr) : s.fkClose.fld q hi lo = s.fld q hi lo :=
  State.fld_setBit_ne _ _ _ _ _ h

@[simp] theorem State.fkClear_fk (s : State) : s.fkClear.fk = { s.fk with fkeyStage := [], bkeyStage := [] } := (rfl)
@[simp] theorem State.fkClear_bit (s : State) (q : Reg) (i : Nat) : s.fkClear.bit q i = s.bit q i := (rfl)

theorem State.fkAct_own (s : State) {mid : Nat} (f : State → State) (h : s.fk.unlocked = some mid) : s.fkAct mid f = f s.fkClose := if_pos h

theorem State.fkAct_other (s : State) {mid : Nat} (f : State → State) (h : s.fk.unlocked ≠ some mid) :
    s.fkAct mid f = s.setBit Reg.fkStat 1 true := if_neg h

/-! ### The actions -/

theorem State.fuseProg_blank (s : State) (hkey : s.fk.fuseKey = none) (hbusy : s.fk.busy = none) :
    s.fuseProg.bit Reg.fkFkeyStat 1 = true ∧
      s.fuseProg.fk = { s.fk with busy := some 0, busyVal := stagedNum s.fk.fkeyStage 8, fkeyStage := [], bkeyStage := [] } := by
  rw [State.fuseProg, if_neg (by simp [hkey, hbusy])]
  refine ⟨?_, by simp⟩
  rw [State.fkClear_bit, State.bit_setBit_other _ _ _ _ _ (by decide) (by decide)]
  exact State.bit_setBit_same _ _ _ _ (by decide)

theorem State.fuseProg_taken (s : State) (h : s.fk.fuseKey ≠ none ∨ s.fk.busy ≠ none) :
    s.fuseProg.bit Reg.fkFkeyStat 2 = true ∧ s.fuseProg.fk = { s.fk with fkeyStage := [], bkeyStage := [] } := by
  rw [State.fuseProg, if_pos (by simpa [Option.isSome_iff_ne_none] using h)]
  exact ⟨(State.fkClear_bit ..).trans (State.bit_setBit_same _ _ _ _ (by decide)), by simp⟩

theorem State.bkeyCommit_allowed (s : State) (h : s.fk.bkeyForbid = false) : s.bkeyCommit.bit Reg.fkBkeyStat 0 = true ∧
    s.bkeyCommit.fk = { s.fk with bkey := some (stagedNum s.fk.bkeyStage 8), fkeyStage := [], bkeyStage := [] } := by
  rw [State.bkeyCommit, if_neg (by simp [h])]
  exact ⟨(State.fkClear_bit ..).trans (State.bit_setBit_same _ _ _ _ (by decide)), by simp⟩

theorem State.bkeyErase_effect (s : State) : s.bkeyErase.bit Reg.fkBkeyStat 0 = false ∧
    s.bkeyErase.fk = { s.fk with bkey := none, fkeyStage := [], bkeyStage := [] } := by
  rw [State.bkeyErase]
  exact ⟨(State.fkClear_bit ..).trans (State.bit_setBit_same _ _ _ _ (by decide)), by simp⟩

theorem State.imgProg_blank (s : State) (h : SMap.find s.fk.imgSlots (s.fld Reg.fkImgSel 1 0) = none) :
    s.imgProg.fk = { s.fk with fkeyStage := [], bkeyStage := []
                               imgSlots := SMap.put s.fk.imgSlots (s.fld Reg.fkImgSel 1 0) (stagedNum s.fk.imgStage 12) } := by
  rw [State.imgProg]
  simp [h]

theorem State.imgProg_taken (s : State) (h : SMap.find s.fk.imgSlots (s.fld Reg.fkImgSel 1 0) ≠ none) :
    s.imgProg.bit Reg.fkImgStat 8 = true ∧ s.imgProg.fk = { s.fk with fkeyStage := [], bkeyStage := [] } := by
  rw [State.imgProg]
  dsimp only
  rw [if_pos (Option.isSome_iff_ne_none.mpr h)]
  exact ⟨(State.fkClear_bit ..).trans (State.bit_setBit_same _ _ _ _ (by decide)), by simp⟩

theorem State.fwProg_blank (s : State) (h : SMap.find s.fk.fwSlots (s.fld Reg.fkFwSel 0 0) = none) :
    s.fwProg.fk = { s.fk with fkeyStage := [], bkeyStage := []
                              fwSlots := SMap.put s.fk.fwSlots (s.fld Reg.fkFwSel 0 0) (stagedNum s.fk.fwStage 12) } := by
  rw [State.fwProg]
  simp [h]

theorem State.fwProg_taken (s : State) (h : SMap.find s.fk.fwSlots (s.fld Reg.fkFwSel 0 0) ≠ none) :
    s.fwProg.bit Reg.fkFwStat 8 = true ∧ s.fwProg.fk = { s.fk with fkeyStage := [], bkeyStage := [] } := by
  rw [State.fwProg]
  dsimp only
  rw [if_pos (Option.isSome_iff_ne_none.mpr h)]
  exact ⟨(State.fkClear_bit ..).trans (State.bit_setBit_same _ _ _ _ (by decide)), by simp⟩

theorem State.imgRevoke_effect (s : State) : s.fld Reg.fkImgSel 1 0 ∈ s.imgRevoke.fk.imgRevoked ∧
    s.imgRevoke.fk = { s.fk with imgRevoked := s.imgRevoke.fk.imgRevoked, fkeyStage := [], bkeyStage := [] } := by
  rw [State.imgRevoke]
  dsimp only
  split
  next hin => exact ⟨by simpa using hin, by simp⟩
  next => simp

theorem State.fwRevoke_effect (s : State) : s.fld Reg.fkFwSel 0 0 ∈ s.fwRevoke.fk.fwRevoked ∧
    s.fwRevoke.fk = { s.fk with fwRevoked := s.fwRevoke.fk.fwRevoked, fkeyStage := [], bkeyStage := [] } := by
  rw [State.fwRevoke]
  dsimp only
  split
  next hin => exact ⟨by simpa using hin, by simp⟩
  next => simp

end Sys2Proof.Machine

namespace Sys2Proof.Proofs
open Sys2Proof Sys2Proof.Machine

/-- An action in the master's own sequence: it acts on the state whose sequence has ended. -/
theorem fkAct_next {s : State} {mid : Nat} (f : State → State) (hon : s.hubOn = true) (hown : s.fk.unlocked = some mid) :
    s.when s.hubOn (s.fkAct mid f) = .next (f s.fkClose) := by
  rw [State.when_of _ _ hon, State.fkAct_own _ _ hown]

/-- Settles O6. -/
theorem frankingActions : Obligations.FrankingActions := by
  intro mid s
  refine ⟨fun hon => ⟨?unlock, fun hopen hrun => ?timeout, fun hown => ?own, fun hother c hc => ?locked, fun hbusy => ?complete⟩, ?vbat⟩
  case unlock => exact ⟨_, State.when_of _ _ hon, by simp [State.fkUnlock]⟩
  case timeout =>
    refine ⟨_, State.when_of _ _ ?_, s.fkClose_fk⟩
    obtain ⟨m, hm⟩ := Option.ne_none_iff_exists'.mp hopen
    have hfree : (decide (m < 4) && s.bit (Reg.dbgCStat m) 0) = false := by simpa using hrun m hm
    simp only [hon, hm, Option.any_some, hfree, Option.isSome_some, Bool.not_false, Bool.and_self]
  case own =>
    have himg := s.fkClose_fld 1 0 (q := Reg.fkImgSel) (by decide)
    have hfw := s.fkClose_fld 0 0 (q := Reg.fkFwSel) (by decide)
    have hfk := s.fkClose_fk
    refine ⟨fun hkey hbusy => ⟨_, fkAct_next _ hon hown, ?_⟩, fun htaken => ⟨_, fkAct_next _ hon hown, ?_⟩, ⟨_, fkAct_next _ hon hown, ?_⟩,
      fun hallow => ⟨_, fkAct_next _ hon hown, ?_⟩, fun hforbid => ⟨_, fkAct_next _ hon hown, ?_⟩, ⟨_, fkAct_next _ hon hown, ?_⟩,
      fun hblank => ⟨_, fkAct_next _ hon hown, ?_⟩, fun htaken => ⟨_, fkAct_next _ hon hown, ?_⟩, ⟨_, fkAct_next _ hon hown, ?_⟩,
      fun hblank => ⟨_, fkAct_next _ hon hown, ?_⟩, fun htaken => ⟨_, fkAct_next _ hon hown, ?_⟩, ⟨_, fkAct_next _ hon hown, ?_⟩⟩
    · simpa only [hfk] using s.fkClose.fuseProg_blank (by rw [hfk]; exact hkey) (by rw [hfk]; exact hbusy)
    · simpa only [hfk] using s.fkClose.fuseProg_taken (by rw [hfk]; exact htaken)
    · simp only [State.forbidBkey, State.fkClear_fk, hfk]
    · simpa only [hfk] using s.fkClose.bkeyCommit_allowed (by rw [hfk]; exact hallow)
    · rw [State.bkeyCommit, if_pos (by rw [hfk]; exact hforbid), State.fkClear_fk, hfk]
    · simpa only [hfk] using s.fkClose.bkeyErase_effect
    · simpa only [hfk, himg] using s.fkClose.imgProg_blank (by rw [hfk, himg]; exact hblank)
    · simpa only [hfk] using s.fkClose.imgProg_taken (by rw [hfk, himg]; exact htaken)
    · simpa only [hfk, himg] using s.fkClose.imgRevoke_effect
    · simpa only [hfk, hfw] using s.fkClose.fwProg_blank (by rw [hfk, hfw]; exact hblank)
    · simpa only [hfk] using s.fkClose.fwProg_taken (by rw [hfk, hfw]; exact htaken)
    · simpa only [hfk, hfw] using s.fkClose.fwRevoke_effect
  case locked =>
    have hact : ∀ f, s.when s.hubOn (s.fkAct mid.toNat f) = .next (s.setBit Reg.fkStat 1 true) := fun f => by
      rw [State.when_of _ _ hon, State.fkAct_other _ _ hother]
    simp only [List.mem_cons, List.not_mem_nil, or_false] at hc
    rcases hc with rfl | rfl | rfl | rfl | rfl | rfl | rfl | rfl <;> exact hact _
  case complete =>
    refine ⟨_, State.when_of _ _ (by simpa [hon, Option.isSome_iff_ne_none] using hbusy), ?_, by simp⟩
    exact State.bit_setBit_same _ _ _ _ (by decide)
  case vbat =>
    refine ⟨_, rfl, State.bit_setBit_same _ _ _ _ (by decide), ?_, by simp⟩
    rw [State.bit_setBit_other _ _ _ _ _ (by decide) (by decide)]
    exact State.bit_setBit_same _ _ _ _ (by decide)

end Sys2Proof.Proofs
end

