-- ==== Sys2Proof/Proofs/Letterbox.lean ====
section
set_option Elab.async false
/-!
PROOF. Letterbox and virtual terminal (R272–R274): O15.
-/
namespace Sys2Proof.Machine

/-! ### The terminal -/

/-- What a word of the terminal makes of it. -/
def VtSt.after (v : VtSt) (toCore : Bool) (w : Nat) : VtSt :=
  if bitsOf w 31 30 = 0 then
    if bitsOf w 25 24 = 0 then v else if toCore then { v with creditDbg := v.creditDbg - 1 } else { v with creditFw := v.creditFw - 1 }
  else if bitsOf w 31 30 = 1 then
    if bitsOf w 7 0 = 1 then
      if toCore then { v with openDbg := true, openFw := false, creditDbg := 0, creditFw := 0 }
      else { v with openFw := true, creditDbg := 0, creditFw := 0 }
    else if bitsOf w 7 0 = 2 ∨ bitsOf w 7 0 = 4 then {}
    else if bitsOf w 7 0 = 3 && toCore then { v with monitor := true } else v
  else if bitsOf w 31 30 = 2 && v.openDbg && v.openFw then
    if toCore then { v with creditFw := v.creditFw + w % 2 ^ 16 } else { v with creditDbg := v.creditDbg + w % 2 ^ 16 }
  else v

theorem State.vtWord_vt (s : State) (c : Nat) (toCore : Bool) (w : Nat) :
    ((s.vtWord c toCore w).core c).vt = (s.core c).vt.after toCore w := by
  unfold State.vtWord VtSt.after
  dsimp only
  split_ifs <;> simp [State.setVt]

/-- A word that the Letterbox takes, of either direction: the register, its FULL bit and the terminal. -/
def State.lbTake (s : State) (c : Nat) (toCore : Bool) (w : Nat) : State :=
  ((s.wr (if toCore then Reg.dbgCLbRx c else Reg.dbgCLbTx c) w).setBit (Reg.dbgCLbStat c) (if toCore then 1 else 0) true).vtWord c toCore w

theorem State.lbTake_rd (s : State) (c : Fin 4) (toCore : Bool) (w : Nat) (hw : w < 2 ^ 32) :
    (s.lbTake c toCore w).rd (if toCore then Reg.dbgCLbRx c else Reg.dbgCLbTx c) = w := by
  rw [State.lbTake, (State.vtWord_touches ..).rd_keep .regs (by cases toCore <;> exact regPart_regs (le_index (by decide))),
    State.rd_setBit_ne _ _ _ (by cases toCore <;> simp), State.rd_wr_same, Nat.mod_eq_of_lt hw]

theorem State.lbTake_full (s : State) (c : Fin 4) (toCore : Bool) (w : Nat) :
    (s.lbTake c toCore w).bit (Reg.dbgCLbStat c) (if toCore then 1 else 0) = true := by
  rw [State.bit, State.lbTake, (State.vtWord_touches ..).rd_keep .regs (regPart_regs (le_index (by decide)))]
  exact State.bit_setBit_same _ _ _ _ (by split <;> decide)

theorem State.lbTake_vt (s : State) (c : Nat) (toCore : Bool) (w : Nat) :
    ((s.lbTake c toCore w).core c).vt = (s.core c).vt.after toCore w := by
  rw [State.lbTake, State.vtWord_vt]
  simp only [State.core, State.setBit_dbg, State.wr_dbg]

theorem State.lbTxWrite_empty (s : State) (c w : Nat) (h : s.bit (Reg.dbgCLbStat c) 0 = false) : s.lbTxWrite c w = s.lbTake c false w :=
  if_neg (by simp [h])

theorem State.lbRxWrite_empty (s : State) (c w : Nat) (h : s.bit (Reg.dbgCLbStat c) 1 = false) : s.lbRxWrite c w = s.lbTake c true w :=
  if_neg (by simp [h])

theorem State.vtSend_empty (s : State) (c : Nat) (toCore : Bool) (w : Nat)
    (h : s.bit (Reg.dbgCLbStat c) (if toCore then 1 else 0) = false) : s.vtSend c toCore w = s.lbTake c toCore w := by
  cases toCore
  · have hempty : s.bit (Reg.dbgCLbStat c) 0 = false := h
    rw [State.vtSend, if_neg Bool.false_ne_true, if_neg (by simp [hempty]), s.lbTxWrite_empty c w hempty]
  · have hempty : s.bit (Reg.dbgCLbStat c) 1 = false := h
    rw [State.vtSend, if_pos rfl, if_neg (by simp [hempty]), s.lbRxWrite_empty c w hempty]

theorem State.vtSend_vt (s : State) (c : Nat) (toCore : Bool) (w : Nat)
    (h : s.bit (Reg.dbgCLbStat c) (if toCore then 1 else 0) = false) :
    ((s.vtSend c toCore w).core c).vt = (s.core c).vt.after toCore w := by
  rw [s.vtSend_empty c toCore w h, State.lbTake_vt]

/-! ### The words of the terminal -/

theorem VtSt.after_open (v : VtSt) (toCore : Bool) : v.after toCore 0x40000001 =
    if toCore then { v with openDbg := true, openFw := false, creditDbg := 0, creditFw := 0 }
    else { v with openFw := true, creditDbg := 0, creditFw := 0 } := rfl

theorem VtSt.after_close (v : VtSt) (toCore : Bool) : v.after toCore 0x40000002 = {} := rfl

theorem VtSt.after_reset (v : VtSt) (toCore : Bool) : v.after toCore 0x40000004 = {} := rfl

theorem VtSt.after_break (v : VtSt) : v.after true 0x40000003 = { v with monitor := true } := rfl

theorem VtSt.after_credit (v : VtSt) (toCore : Bool) (n : BitVec 16) (hdbg : v.openDbg = true) (hfw : v.openFw = true) :
    v.after toCore (0x80000000 + n.toNat) =
      if toCore then { v with creditFw := v.creditFw + n.toNat } else { v with creditDbg := v.creditDbg + n.toNat } := by
  have hn := n.isLt
  have htyp : bitsOf (0x80000000 + n.toNat) 31 30 = 2 := by
    simp only [bitsOf, Nat.reducePow, Nat.reduceAdd, Nat.reduceSub] at *
    omega
  have hval : (0x80000000 + n.toNat) % 2 ^ 16 = n.toNat := by omega
  simp only [VtSt.after, htyp, hval, hdbg, hfw]
  simp

theorem VtSt.after_data (v : VtSt) (toCore : Bool) (n : Fin 4) (b : BitVec 24) (hn : n.val ≠ 0) :
    v.after toCore (n.val * 2 ^ 24 + b.toNat) =
      if toCore then { v with creditDbg := v.creditDbg - 1 } else { v with creditFw := v.creditFw - 1 } := by
  have hb := b.isLt
  have hlt := n.isLt
  have htyp : bitsOf (n.val * 2 ^ 24 + b.toNat) 31 30 = 0 := by
    simp only [bitsOf, Nat.reducePow, Nat.reduceAdd, Nat.reduceSub] at *
    omega
  have hcnt : bitsOf (n.val * 2 ^ 24 + b.toNat) 25 24 ≠ 0 := by
    simp only [bitsOf, Nat.reducePow, Nat.reduceAdd, Nat.reduceSub] at *
    omega
  rw [VtSt.after, if_pos htyp, if_neg hcnt]

end Sys2Proof.Machine

namespace Sys2Proof.Proofs
open Sys2Proof Sys2Proof.Machine

/-- Settles O15. -/
theorem letterboxAndTerminal : Obligations.LetterboxAndTerminal := by
  refine ⟨fun c s => ⟨fun w hon hruns hempty => ?_, fun w hon hruns hfull => ?_, fun w haon hempty => ?_, fun w haon hfull => ?_,
    fun haon => ?_, fun hon hruns => ?_⟩, fun c toCore s hside hempty => ⟨fun hopen => ?_, ?_, ?_, fun hdbg => ?_, fun n hdbg hfw => ?_,
    fun n b hn hcredit => ?_⟩⟩
  · refine ⟨_, State.when_of _ _ (by simp [hon, hruns]), ?_, ?_, Touches.eq_blend (State.lbTxWrite_touches ..) (by decide)⟩
    all_goals rw [s.lbTxWrite_empty c _ hempty]
    · exact s.lbTake_rd c false _ w.isLt
    · exact s.lbTake_full c false _
  · refine ⟨_, State.when_of _ _ (by simp [hon, hruns]), ?_⟩
    rw [State.lbTxWrite, if_pos hfull]
    exact ⟨State.rd_setBit_ne _ _ _ (by simp), State.bit_setBit_same _ _ _ _ (by decide), rfl⟩
  · refine ⟨_, State.when_of _ _ haon, ?_, ?_, Touches.eq_blend (State.lbRxWrite_touches ..) (by decide)⟩
    all_goals rw [s.lbRxWrite_empty c _ hempty]
    · exact s.lbTake_rd c true _ w.isLt
    · exact s.lbTake_full c true _
  · refine ⟨_, State.when_of _ _ haon, ?_⟩
    rw [State.lbRxWrite, if_pos hfull]
    exact ⟨State.rd_setBit_ne _ _ _ (by simp), State.bit_setBit_same _ _ _ _ (by decide), rfl⟩
  · exact ⟨_, State.when_of _ _ haon, State.bit_setBit_same _ _ _ _ (by decide), fun q hq => State.rd_setBit_ne _ _ _ hq, rfl⟩
  · exact ⟨_, State.when_of _ _ (by simp [hon, hruns]), State.bit_setBit_same _ _ _ _ (by decide), fun q hq => State.rd_setBit_ne _ _ _ hq, rfl⟩
  · refine ⟨_, State.when_of _ _ (by simpa [hside] using hopen), ?_⟩
    rw [s.vtSend_vt c toCore _ hempty, VtSt.after_open]
    cases toCore <;> simp
  · exact ⟨_, State.when_of _ _ hside, by rw [s.vtSend_vt c toCore _ hempty, VtSt.after_close]⟩
  · exact ⟨_, State.when_of _ _ hside, by rw [s.vtSend_vt c toCore _ hempty, VtSt.after_reset]⟩
  · subst hdbg
    exact ⟨_, State.when_of _ _ hside, by rw [s.vtSend_vt c true _ hempty, VtSt.after_break]⟩
  · refine ⟨_, State.when_of _ _ hside, ?_⟩
    rw [s.vtSend_vt c toCore _ hempty, VtSt.after_credit _ _ _ hdbg hfw]
    cases toCore <;> simp
  · refine ⟨_, State.when_of _ _ (by simpa [hside] using hcredit), ?_, ?_⟩
    · rw [s.vtSend_empty c toCore _ hempty]
      have hb := b.isLt
      have hlt := n.isLt
      exact s.lbTake_rd c toCore _ (by omega)
    · rw [s.vtSend_vt c toCore _ hempty, VtSt.after_data _ _ _ _ hn]
      cases toCore
      · exact Nat.sub_add_cancel hcredit
      · exact Nat.sub_add_cancel hcredit

end Sys2Proof.Proofs
end

