-- ==== Sys2Proof/Proofs/Flash.lean ====
section
set_option Elab.async false
/-!
PROOF. Tickets as they end, the boot records and the settings copies (R491, R499–R501); promotion and flash operations: O46.
-/
namespace Sys2Proof.Machine

/-! ### Tickets -/

theorem State.tkt_congr {s t : State} (h : t.vl = s.vl) (i : Nat) : t.tkt i = s.tkt i := by
  unfold State.tkt
  rw [h]

theorem State.tktEnd_tkt (s : State) (i st err : Nat) (h : tktLive (s.tkt i) = true) :
    (s.tktEnd i st err).tkt i = { s.tkt i with state := st, err := err } := by
  rw [State.tktEnd_live _ _ _ _ h, State.tkt_setTkt]

theorem State.tktActive_tkt (s : State) (i : Nat) (h : tktLive (s.tkt i) = true) :
    (s.tktActive i).tkt i = { s.tkt i with state := 1 } := by
  rw [State.tktActive, if_pos h, State.tkt_setTkt]

/-- Progress changes neither the state nor the use of a ticket. -/
theorem State.tktProgress_tkt (s : State) (i p q : Nat) :
    ((s.tktProgress i p q).tkt i).state = (s.tkt i).state ∧ ((s.tktProgress i p q).tkt i).used = (s.tkt i).used ∧
      ((s.tktProgress i p q).tkt i).err = (s.tkt i).err := by
  rw [State.tktProgress]
  split
  · rw [State.tkt_setTkt]
    exact ⟨rfl, rfl, rfl⟩
  · exact ⟨rfl, rfl, rfl⟩

theorem tktLive_active (v : Ticket) (h : tktLive v = true) : tktLive { v with state := 1 } = true := by
  simp only [tktLive, Bool.and_eq_true] at h ⊢
  exact ⟨h.1, rfl⟩

/-- A ticket that becomes active and shows progress stays live, in state 1. -/
theorem State.activeProgress_tkt (s : State) (i p q : Nat) (h : tktLive (s.tkt i) = true) :
    (((s.tktActive i).tktProgress i p q).tkt i).state = 1 ∧ tktLive (((s.tktActive i).tktProgress i p q).tkt i) = true := by
  obtain ⟨hst, hused, -⟩ := (s.tktActive i).tktProgress_tkt i p q
  rw [s.tktActive_tkt i h] at hst hused
  refine ⟨hst, ?_⟩
  rw [tktLive, hst, hused]
  exact tktLive_active _ h

/-! ### Boot records -/

theorem State.bootRec_congr {s t : State} (h : t.fl = s.fl) : t.bootRec = s.bootRec := by
  unfold State.bootRec State.recOne
  rw [h]

theorem State.showUpd_fl (s : State) : s.showUpd.fl = s.fl := by
  simp only [State.showUpd, State.wr_fl, State.setBit_fl, State.setFld_fl]

/-- The record written is the one in force. -/
theorem State.bootWrite_bootRec (s : State) (f : BootRec → BootRec) :
    (s.bootWrite f).bootRec = { f s.bootRec with gen := s.bootRec.gen + 1 } := by
  unfold State.bootWrite
  dsimp only
  rw [State.bootRec_congr (State.showUpd_fl _)]
  by_cases hone : s.recOne = true
  · rw [if_pos hone]
    obtain ⟨b, hb⟩ : ∃ b, s.fl.rec1 = some b := by
      cases h1 : s.fl.rec1 with
      | some b => exact ⟨b, rfl⟩
      | none => simp [State.recOne, h1] at hone
    have hcur : s.bootRec = b := by rw [State.bootRec, if_pos hone, hb, Option.getD_some]
    rw [hcur]
    have hnew : ({ s with fl := { s.fl with rec0 := some { f b with gen := b.gen + 1 } } } : State).recOne = false := by
      simp [State.recOne, hb]
    rw [State.bootRec, if_neg (by simp [hnew]), Option.getD_some]
  · rw [if_neg hone]
    have hcur : s.bootRec = s.fl.rec0.getD {} := by rw [State.bootRec, if_neg hone]
    have hnew : ({ s with fl := { s.fl with rec1 := some { f s.bootRec with gen := s.bootRec.gen + 1 } } } : State).recOne = true := by
      rw [hcur]
      cases h0 : s.fl.rec0 <;> simp [State.recOne, h0]
    rw [State.bootRec, if_pos hnew, Option.getD_some]

/-- A change of the boot record reaches the two records, and the registers that show them. -/
theorem State.bootWrite_fl (s : State) (f : BootRec → BootRec) :
    (s.bootWrite f).fl = { s.fl with rec0 := (s.bootWrite f).fl.rec0, rec1 := (s.bootWrite f).fl.rec1 } := by
  unfold State.bootWrite
  dsimp only
  rw [State.showUpd_fl]
  split <;> rfl

/-! ### Settings -/

theorem newestCopy_covers (a b : SetCopy) :
    (a.valid = true → a.gen < (match newestCopy a b (fun _ => true) with | some (_, c) => c.gen | none => 0) + 1) ∧
    (b.valid = true → b.gen < (match newestCopy a b (fun _ => true) with | some (_, c) => c.gen | none => 0) + 1) := by
  unfold newestCopy
  cases ha : a.valid <;> cases hb : b.valid <;> by_cases h : a.gen < b.gen <;> simp [h] <;> omega

/-- A valid copy that a test admits, newer than the other valid one, is the one taken. -/
theorem newestCopy_second (a b : SetCopy) (p : SetCopy → Bool) (hb : b.valid = true) (hp : p b = true) (h : a.valid = true → a.gen < b.gen) :
    newestCopy a b p = some (true, b) := by
  cases ha : a.valid
  · simp [newestCopy, ha, hb, hp]
  · simp [newestCopy, hb, hp, h ha]

theorem newestCopy_first (a b : SetCopy) (p : SetCopy → Bool) (ha : a.valid = true) (hp : p a = true) (h : b.valid = true → b.gen < a.gen) :
    newestCopy a b p = some (false, a) := by
  cases hb : b.valid
  · simp [newestCopy, ha, hb, hp]
  · have hnot : ¬ a.gen < b.gen := Nat.lt_asymm (h hb)
    simp [newestCopy, ha, hb, hp, hnot]

/-- What firmware reads after a settings write. -/
theorem State.settingsPut_settings (s : State) (k : Nat) (v : List Byte) : (s.settingsPut k v).settings = SMap.put s.settings k v := by
  unfold State.settingsPut
  extract_lets a b r keep newest toB gen c
  have hgenA : a.valid = true → a.gen < gen := (newestCopy_covers a b).1
  have hgenB : b.valid = true → b.gen < gen := (newestCopy_covers a b).2
  clear_value toB gen
  cases toB
  · have hfmt : ({ s with fl := { s.fl with setA := c } } : State).runFmt = s.runFmt := rfl
    rw [if_neg Bool.false_ne_true, State.settings, hfmt, newestCopy_first _ _ _ rfl (by simp [c]) hgenB]
  · have hfmt : ({ s with fl := { s.fl with setB := c } } : State).runFmt = s.runFmt := rfl
    rw [if_pos rfl, State.settings, hfmt, newestCopy_second _ _ _ rfl (by simp [c]) hgenA]

theorem State.settings_congr {s t : State} (hf : t.fl = s.fl) (hp : t.pw.image = s.pw.image) : t.settings = s.settings := by
  unfold State.settings State.runFmt
  rw [hf, hp]

/-! ### Promotion -/

theorem State.flashEnds_fl (s : State) : s.flashEnds.fl = s.fl := (rfl)

theorem State.promoteNext_fallback (s : State) (h : s.bootRec.promote = 1) :
    s.promoteNext.fl.fallback = s.fl.active ∧ s.promoteNext.fl.active = s.fl.active ∧ s.promoteNext.bootRec.promote = 2 ∧
      s.promoteNext.bootRec.verF = s.bootRec.verA := by
  have hrec : ∀ fb, ({ s.wr Reg.updPieces 0 with fl := { (s.wr Reg.updPieces 0).fl with fallback := fb } } : State).bootRec = s.bootRec :=
    fun _ => rfl
  simp only [State.promoteNext, h]
  rw [State.bootWrite_bootRec, State.bootWrite_fl, hrec]
  exact ⟨rfl, rfl, rfl, rfl⟩

theorem State.promoteNext_active (s : State) (h : s.bootRec.promote = 2) :
    s.promoteNext.fl.active = s.fl.staging ∧ s.promoteNext.fl.fallback = s.fl.fallback ∧ s.promoteNext.bootRec.promote = 3 ∧
      s.promoteNext.bootRec.verA = s.bootRec.verS ∧ s.promoteNext.bootRec.next = 0 := by
  have hrec : ∀ im, ({ s.wr Reg.updPieces 0 with fl := { (s.wr Reg.updPieces 0).fl with active := im } } : State).bootRec = s.bootRec :=
    fun _ => rfl
  simp only [State.promoteNext, h]
  rw [State.bootWrite_bootRec, State.bootWrite_fl, hrec]
  exact ⟨rfl, rfl, rfl, rfl, rfl⟩

theorem State.promoteNext_staging (s : State) (h : s.bootRec.promote = 3) :
    s.promoteNext.fl.staging = [] ∧ s.promoteNext.fl.active = s.fl.active ∧ s.promoteNext.bootRec.promote = 0 ∧
      s.promoteNext.bootRec.stage = 0 := by
  simp only [State.promoteNext, h]
  rw [State.bootWrite_bootRec, State.bootWrite_fl]
  exact ⟨rfl, rfl, rfl, rfl⟩

/-! ### Flash operations -/

theorem State.flashOp_settings (s : State) (k : Nat) (v : List Byte) (i : Option Nat) :
    (s.flashOp (.settings k v i)).settings = SMap.put s.settings k v ∧ (s.flashOp (.settings k v i)).fl.ops = s.fl.ops ∧
      ∀ j, i = some j → tktLive (s.tkt j) = true →
        ((s.flashOp (.settings k v i)).tkt j).state = 2 ∧ ((s.flashOp (.settings k v i)).tkt j).err = 0 := by
  have hput : (s.settingsPut k v).fl.ops = s.fl.ops ∧ (s.settingsPut k v).vl = s.vl := by
    unfold State.settingsPut
    dsimp only
    split_ifs <;> exact ⟨rfl, rfl⟩
  have hT := (s.settingsPut k v).tktEnd?_touches i 2 0
  refine ⟨?_, ?_, fun j hj hlive => ?_⟩
  · exact (State.settings_congr hT.fl_eq (by rw [hT.pw_eq])).trans (s.settingsPut_settings k v)
  · exact (congrArg FlSt.ops hT.fl_eq).trans hput.1
  · subst hj
    have hj := State.tkt_congr hput.2 j
    have hend := (s.settingsPut k v).tktEnd_tkt j 2 0 (by rw [hj]; exact hlive)
    exact ⟨congrArg Ticket.state hend, congrArg Ticket.err hend⟩

theorem State.flashOp_stage (s : State) (bs : List Byte) :
    (s.flashOp (.stage bs)).fl.staging = s.fl.staging ++ bs ∧ (s.flashOp (.stage bs)).fl.active = s.fl.active ∧
      (s.flashOp (.stage bs)).fl.fallback = s.fl.fallback ∧ (s.flashOp (.stage bs)).fl.ops = s.fl.ops := by
  simp only [State.flashOp]
  split
  · rw [(State.tktProgress_touches ..).fl_eq]
    exact ⟨rfl, rfl, rfl, rfl⟩
  · exact ⟨rfl, rfl, rfl, rfl⟩

/-- What is left of a step of an erase: its ticket active and shown. -/
theorem State.activeProgress_fl (s : State) (i p q : Nat) : ((s.tktActive i).tktProgress i p q).fl = s.fl :=
  (State.tktProgress_touches ..).fl_eq.trans (State.tktActive_touches ..).fl_eq

theorem State.flashOp_stageErase_last (s : State) (left done i : Nat) (h : left ≤ 1) :
    (s.flashOp (.stageErase left done i)).fl.staging = [] ∧ (s.flashOp (.stageErase left done i)).bootRec.stage = 0 ∧
      (s.flashOp (.stageErase left done i)).bootRec.next = 0 ∧ (s.flashOp (.stageErase left done i)).fl.ops = s.fl.ops ∧
      (tktLive (s.tkt i) = true → ((s.flashOp (.stageErase left done i)).tkt i).state = 2) := by
  have hfl := s.activeProgress_fl i (done + 1) 0
  have htkt := s.activeProgress_tkt i (done + 1) 0
  simp only [State.flashOp, if_pos h]
  generalize (s.tktActive i).tktProgress i (done + 1) 0 = u at hfl htkt ⊢
  have hvl : ∀ f, (({ u with fl := { u.fl with staging := [] } } : State).bootWrite f).vl = u.vl := fun f =>
    (State.bootWrite_touches ..).vl_eq
  refine ⟨?_, ?_, ?_, ?_, fun hlive => ?_⟩
  · rw [State.tktEnd_fl, State.bootWrite_fl]
  · rw [State.bootRec_congr (State.tktEnd_fl ..), State.bootWrite_bootRec]
  · rw [State.bootRec_congr (State.tktEnd_fl ..), State.bootWrite_bootRec]
  · rw [State.tktEnd_fl, State.bootWrite_fl, hfl]
  · exact congrArg Ticket.state (State.tktEnd_tkt _ i 2 0 (by rw [State.tkt_congr (hvl _)]; exact (htkt hlive).2))

theorem State.flashOp_stageErase (s : State) (left done i : Nat) (h : 1 < left) :
    (s.flashOp (.stageErase left done i)).fl = { s.fl with ops := s.fl.ops ++ [.stageErase (left - 1) (done + 1) i] } ∧
      (tktLive (s.tkt i) = true → ((s.flashOp (.stageErase left done i)).tkt i).state = 1) := by
  have hfl := s.activeProgress_fl i (done + 1) 0
  have htkt := s.activeProgress_tkt i (done + 1) 0
  simp only [State.flashOp, if_neg (Nat.not_le.mpr h)]
  generalize (s.tktActive i).tktProgress i (done + 1) 0 = u at hfl htkt ⊢
  exact ⟨by rw [← hfl], fun hlive => (htkt hlive).1⟩

theorem State.flashOp_storeErase (s : State) (e left done i : Nat) :
    SMap.find (s.flashOp (.storeErase e left done i)).fl.store e = none ∧
      (s.flashOp (.storeErase e left done i)).fl.staging = s.fl.staging ∧
      (s.flashOp (.storeErase e left done i)).fl.ops = (if left ≤ 1 then s.fl.ops else .storeErase e (left - 1) (done + 1) i :: s.fl.ops) ∧
      (tktLive (s.tkt i) = true → ((s.flashOp (.storeErase e left done i)).tkt i).state = if left ≤ 1 then 2 else 1) := by
  have hfl := State.activeProgress_fl { s with fl := { s.fl with store := SMap.erase s.fl.store e } } i (done + 1) 0
  have htkt := State.activeProgress_tkt { s with fl := { s.fl with store := SMap.erase s.fl.store e } } i (done + 1) 0
  have hold : ({ s with fl := { s.fl with store := SMap.erase s.fl.store e } } : State).tkt i = s.tkt i := rfl
  rw [hold] at htkt
  simp only [State.flashOp]
  generalize (State.tktActive { s with fl := { s.fl with store := SMap.erase s.fl.store e } } i).tktProgress i (done + 1) 0 = u at hfl htkt ⊢
  by_cases h : left ≤ 1
  · simp only [if_pos h]
    rw [State.tktEnd_fl, hfl]
    exact ⟨SMap.find_erase_same .., rfl, rfl, fun hlive => congrArg Ticket.state (u.tktEnd_tkt i 2 0 (htkt hlive).2)⟩
  · simp only [if_neg h]
    rw [hfl]
    exact ⟨SMap.find_erase_same .., rfl, rfl, fun hlive => (htkt hlive).1⟩

end Sys2Proof.Machine

namespace Sys2Proof.Proofs
open Sys2Proof Sys2Proof.Machine

/-- The last sector of a step of the promotion. -/
theorem promotionSector_last (s : State) (hon : s.hubOn = true) (hev : s.ev.flushing = none) (hops : s.fl.ops.any isSettings = false)
    (hlast : s.promoteTotal ≤ s.rd Reg.updPieces + 1) (hp : s.bootRec.promote ≠ 0) :
    exec .promotionSector s = .next s.flashEnds.promoteNext :=
  (State.when_of _ _ (by simp [hon, hev, hops, hp])).trans (congrArg _ (if_pos hlast))

/-- The flash operation that goes first completes. -/
theorem flashOperationComplete_next (s : State) (o : FlashOp) (os : List FlashOp) (hon : s.hubOn = true) (hev : s.ev.flushing = none)
    (h : nextFlash s.fl.ops = some (o, os)) :
    exec .flashOperationComplete s = .next (State.flashOp (State.flashEnds { s with fl := { s.fl with ops := os } }) o) := by
  change execFlashOperationComplete s = _
  rw [execFlashOperationComplete, h]
  exact State.when_of _ _ (by simp [hon, hev])

/-- Settles O46. -/
theorem promotionAndFlash : Obligations.PromotionAndFlash := by
  refine ⟨fun s hon => ⟨fun hstill => ?still, fun hev hops => ⟨fun hp hmore hlt => ?sector, fun hlast => ⟨fun hp => ?fallback, fun hp => ?active,
    fun hp => ?staging⟩⟩⟩, fun s os hon hev => ⟨fun k v i hnext => ?settings, fun bs hnext => ?stage, fun left done i hnext => ?stageErase,
    fun e left done i hnext => ?storeErase⟩⟩
  case still =>
    refine State.when_not _ _ ?_
    rcases hstill with hev | hops
    · simp [hev]
    · simp [hops]
  case sector =>
    refine ⟨_, (State.when_of _ _ (by simp [hon, hev, hops, hp])).trans (congrArg _ (if_neg (Nat.not_le.mpr hmore))), ?_, rfl⟩
    rw [State.rd_wr_same, Nat.mod_eq_of_lt hlt]
  case fallback => exact ⟨_, promotionSector_last s hon hev hops hlast (by simp [hp]), s.flashEnds.promoteNext_fallback hp⟩
  case active => exact ⟨_, promotionSector_last s hon hev hops hlast (by simp [hp]), s.flashEnds.promoteNext_active hp⟩
  case staging => exact ⟨_, promotionSector_last s hon hev hops hlast (by simp [hp]), s.flashEnds.promoteNext_staging hp⟩
  case settings => exact ⟨_, flashOperationComplete_next s _ _ hon hev hnext, State.flashOp_settings ..⟩
  case stage => exact ⟨_, flashOperationComplete_next s _ _ hon hev hnext, State.flashOp_stage ..⟩
  case stageErase =>
    exact ⟨fun hl => ⟨_, flashOperationComplete_next s _ _ hon hev hnext, State.flashOp_stageErase_last _ _ _ _ hl⟩,
      fun hl => ⟨_, flashOperationComplete_next s _ _ hon hev hnext, State.flashOp_stageErase _ _ _ _ hl⟩⟩
  case storeErase => exact ⟨_, flashOperationComplete_next s _ _ hon hev hnext, State.flashOp_storeErase ..⟩

end Sys2Proof.Proofs
end

