-- ==== Sys2Proof/Proofs/Answers.lean ====
section
set_option Elab.async false
/-!
PROOF. Vollor requests that are answered at once (R402–R404): O27.
-/
namespace Sys2Proof.Machine

/-- A request whose handler answers it directly. -/
theorem State.serve_answer (s : State) {c op : Nat} {q : VReq} (st : Nat) (p : List Byte) (f : State → VReq → State) (h : s.fronts c op q)
    (hf : f (s.taken q) q = (s.taken q).answer q st p) :
    ∃ t, s.serve c op (fun _ => true) f = .next t ∧ Answered s t q st p ∧ t = { s with vl := t.vl } :=
  ⟨_, (State.serve_fronts s c op q _ f h rfl).trans (congrArg _ hf), State.answer_answered s (s.taken q) q st p rfl rfl,
    State.answer_frame (s.taken q) q st p⟩

end Sys2Proof.Machine

namespace Sys2Proof.Proofs
open Sys2Proof Sys2Proof.Machine

/-- A request outside the modes of its opcode. -/
theorem serve_refused {s : State} {o : Out} {c op : Nat} {q : VReq} {modes : List Nat} {f : State → VReq → State} {good : Bool} {g : State}
    (hexec : o = s.serve c op (fun _ => true) f) (hf : f (s.taken q) q = (s.taken q).checked q modes good g)
    (h : s.fronts c op q) (hm : s.mode ∉ modes) :
    ∃ t, o = .next t ∧ Answered s t q stBadState [] ∧ t = { s with vl := t.vl } := by
  rw [hexec]
  exact s.serve_answer stBadState [] f h (hf.trans (State.checked_mode _ _ _ _ _ hm))

/-- Settles O27. -/
theorem opcodesRefusedByMode : Obligations.OpcodesRefusedByMode := by
  intro c q s row hrow
  simp only [List.mem_cons, List.not_mem_nil, or_false] at hrow
  rcases hrow with rfl | rfl | rfl | rfl | rfl | rfl | rfl | rfl | rfl | rfl | rfl | rfl | rfl | rfl | rfl | rfl | rfl | rfl | rfl | rfl |
    rfl | rfl | rfl | rfl | rfl | rfl | rfl | rfl | rfl | rfl | rfl | rfl | rfl | rfl | rfl | rfl | rfl | rfl | rfl | rfl | rfl | rfl
  case inr.inl =>
    intro h hm
    delta exec
    dsimp only
    refine serve_refused (by exact rfl) (by exact rfl) h ?_
    split
    next h6 => exact fun h5 => hm (by simp at h5; simp [h5])
    next => exact hm
  all_goals
    delta exec
    dsimp only
    exact serve_refused (by exact rfl) (by exact rfl)

end Sys2Proof.Proofs
end

