-- ==== Sys2Proof/Proofs/SystemOpcodes.lean ====
section
set_option Elab.async false
/-!
PROOF. The System and Mode groups of opcodes (R385–R388, R406–R409, R467): O26.
-/
namespace Sys2Proof.Machine

/-! ### A request that has left the queue of its client: what the state says otherwise -/

@[simp] theorem State.taken_bootRec (s : State) (q : VReq) : (s.taken q).bootRec = s.bootRec := (rfl)
@[simp] theorem State.taken_fuseWord (s : State) (q : VReq) : (s.taken q).fuseWord = s.fuseWord := (rfl)
@[simp] theorem State.taken_readyBit (s : State) (q : VReq) (k : Nat) : (s.taken q).readyBit k = s.readyBit k := (rfl)
@[simp] theorem State.taken_readyVec (s : State) (q : VReq) : (s.taken q).readyVec = s.readyVec := (rfl)
@[simp] theorem State.taken_mode (s : State) (q : VReq) : (s.taken q).mode = s.mode := (rfl)
@[simp] theorem State.taken_pendMode (s : State) (q : VReq) : (s.taken q).pendMode = s.pendMode := (rfl)
@[simp] theorem State.taken_chgMode (s : State) (q : VReq) : (s.taken q).chgMode = s.chgMode := (rfl)
@[simp] theorem State.taken_epoch (s : State) (q : VReq) : (s.taken q).epoch = s.epoch := (rfl)
@[simp] theorem State.taken_rd (s : State) (q : VReq) (r : Reg) : (s.taken q).rd r = s.rd r := (rfl)
@[simp] theorem State.taken_fld (s : State) (q : VReq) (r : Reg) (hi lo : Nat) : (s.taken q).fld r hi lo = s.fld r hi lo := (rfl)
@[simp] theorem State.taken_bit (s : State) (q : VReq) (r : Reg) (i : Nat) : (s.taken q).bit r i = s.bit r i := (rfl)
@[simp] theorem State.taken_tkt (s : State) (q : VReq) (i : Nat) : (s.taken q).tkt i = s.tkt i := (rfl)
@[simp] theorem State.taken_tktOld (s : State) (q : VReq) (h : Nat) : (s.taken q).tktOld h = s.tktOld h := (rfl)
@[simp] theorem State.taken_tktOf (s : State) (q : VReq) (h : Nat) : (s.taken q).tktOf h = s.tktOf h := (rfl)
@[simp] theorem State.taken_tktNow (s : State) (q : VReq) (i : Nat) : (s.taken q).tktNow i = s.tktNow i := (rfl)
@[simp] theorem State.taken_handle (s : State) (q : VReq) (i : Nat) : (s.taken q).handle i = s.handle i := (rfl)
@[simp] theorem State.taken_powerDoms (s : State) (q : VReq) : (s.taken q).powerDoms = s.powerDoms := (rfl)
@[simp] theorem State.taken_powerBays (s : State) (q : VReq) (n : Nat) : (s.taken q).powerBays n = s.powerBays n := (rfl)
@[simp] theorem State.taken_run (s : State) (q : VReq) (r : Nat) : (s.taken q).run r = s.run r := (rfl)
@[simp] theorem State.taken_modeAskOk (s : State) (q : VReq) (p : List Byte) : (s.taken q).modeAskOk p = s.modeAskOk p := (rfl)
@[simp] theorem State.taken_pw (s : State) (q : VReq) : (s.taken q).pw = s.pw := (rfl)
@[simp] theorem State.taken_fk (s : State) (q : VReq) : (s.taken q).fk = s.fk := (rfl)
@[simp] theorem State.taken_fl (s : State) (q : VReq) : (s.taken q).fl = s.fl := (rfl)
@[simp] theorem State.taken_so (s : State) (q : VReq) : (s.taken q).so = s.so := (rfl)

theorem State.tktFreeFrom_congr {s t : State} (h : ∀ i, t.tkt i = s.tkt i) (n i : Nat) : t.tktFreeFrom i n = s.tktFreeFrom i n := by
  induction n generalizing i with
  | zero => rfl
  | succ n ih => simp only [State.tktFreeFrom, h, ih]

@[simp] theorem State.taken_tktFree (s : State) (q : VReq) : (s.taken q).tktFree = s.tktFree := by
  rw [State.tktFree, State.tktFree, State.tktFreeFrom_congr (s := s) (t := s.taken q) (fun _ => rfl)]

/-! ### Requests within the modes and the range of their opcode -/

/-- A request that is in order and whose handler answers it directly. -/
theorem State.serve_checked_answer {s : State} {o : Out} {c op : Nat} {q : VReq} {modes : List Nat} {f : State → VReq → State} {good : Bool}
    {g : State} (hexec : o = s.serve c op (fun _ => true) f) (hf : f (s.taken q) q = (s.taken q).checked q modes good g)
    (h : s.fronts c op q) (hm : s.mode ∈ modes) (hgood : good = true) (hq : hdrOk q = true) (st : Nat) (p : List Byte)
    (hg : g = (s.taken q).answer q st p) :
    ∃ t, o = .next t ∧ Answered s t q st p ∧ t = { s with vl := t.vl } := by
  rw [hexec]
  exact s.serve_answer st p f h (hf.trans ((State.checked_ok (s.taken q) _ _ _ _ hm hgood hq).trans hg))

/-- A request that is in order: what its handler makes of it. -/
theorem State.serve_checked {s : State} {o : Out} {c op : Nat} {q : VReq} {modes : List Nat} {f : State → VReq → State} {good : Bool}
    {g : State} (hexec : o = s.serve c op (fun _ => true) f) (hf : f (s.taken q) q = (s.taken q).checked q modes good g)
    (h : s.fronts c op q) (hm : s.mode ∈ modes) (hgood : good = true) (hq : hdrOk q = true) : o = .next g := by
  rw [hexec, State.serve_fronts s c op q _ f h rfl, hf]
  exact congrArg _ (State.checked_ok _ _ _ _ _ hm hgood hq)

/-! ### Acceptance with a ticket -/

/-- Acceptance queues the reply, and reaches the client's and the replies of the port alone. -/
theorem State.accept_eq (s : State) (q : VReq) (i : Nat) (p : List Byte) :
    ∃ cs hs rs, s.accept q i p = { s with vl := { s.vl with
      clients := cs, heldDup := hs, replies := s.vl.replies ++ { s.replyOf q stAccepted p (s.handle i) 0 with buf := true } :: rs } } :=
  State.sendReply_eq s q _

theorem State.accept_accepted (s t : State) (q : VReq) (i : Nat) (p : List Byte) (hr : t.vl.replies = s.vl.replies)
    (hh : t.vl.handed = s.vl.handed.erase q) (hgen : t.handle i = s.handle i) (hu : (t.tkt i).used = true)
    (hc : (t.tkt i).client = q.client) : Accepted s (t.accept q i p) q i p := by
  obtain ⟨cs, hs, rs, h⟩ := t.accept_eq q i p
  rw [h]
  refine ⟨⟨{ t.replyOf q stAccepted p (t.handle i) 0 with buf := true }, ⟨rs, by simp [hr]⟩, rfl, rfl, rfl, rfl, rfl, hgen, rfl,
    lor_one_mod q.flags⟩, hh, hu, hc⟩

theorem State.accept_frame (s : State) (q : VReq) (i : Nat) (p : List Byte) :
    s.accept q i p = { s with vl := (s.accept q i p).vl } ∧ (s.accept q i p).vl.tickets = s.vl.tickets := by
  obtain ⟨cs, hs, rs, h⟩ := s.accept_eq q i p
  rw [h]
  exact ⟨rfl, rfl⟩

theorem State.handle_tktIssue (s : State) (i c : Nat) (w : TktWork) (active : Bool) : (s.tktIssue i c w active).handle i = s.handle i := by
  rw [State.handle, State.handle, State.tktIssue, State.setTkt_fld_below _ _ _ _ _ _ (by decide), State.tkt_setTkt]

/-- A request accepted with a new ticket. -/
theorem State.issue_accepted (s : State) (q : VReq) (i : Nat) (w : TktWork) (active : Bool) (p : List Byte) :
    Accepted s (((s.taken q).tktIssue i q.client w active).accept q i p) q i p := by
  refine State.accept_accepted s _ q i p ?_ ?_ ?_ ?_ ?_
  · rw [State.tktIssue, State.setTkt_vl]
    rfl
  · rw [State.tktIssue, State.setTkt_vl]
    rfl
  · rw [State.handle_tktIssue, State.taken_handle]
  · rw [State.tktIssue, State.tkt_setTkt]
  · rw [State.tktIssue, State.tkt_setTkt]

theorem Accepted.congr {s t u : State} {q : VReq} {i : Nat} {p : List Byte} (h : Accepted s t q i p) (hv : u.vl = t.vl) :
    Accepted s u q i p := by
  unfold Accepted Replied at *
  rwa [State.tkt_congr hv i, hv]

theorem Answered.congr {s t u : State} {q : VReq} {st : Nat} {p : List Byte} (h : Answered s t q st p)
    (hr : u.vl.replies = t.vl.replies) (hh : u.vl.handed = t.vl.handed) : Answered s u q st p := by
  unfold Answered Replied at *
  rwa [hr, hh]

/-- A handler that takes a ticket finds one. -/
theorem State.withTicket_some (s : State) (q : VReq) (f : Nat → State) {i : Nat} (h : s.tktFree = some i) : s.withTicket q f = f i := by
  rw [State.withTicket, h]

/-! ### Tickets -/

theorem State.tktOf_used {s : State} {h i : Nat} (hi : s.tktOf h = some i) : (s.tkt i).used = true := by
  unfold State.tktOf at hi
  extract_lets j at hi
  split at hi
  next hc =>
    obtain rfl := Option.some.inj hi
    simp only [Bool.and_eq_true] at hc
    exact hc.1
  next => cases hi

/-- An answer gives a reserved entry back; the state of a ticket stays. -/
theorem State.answer_tkt_state (s : State) (q : VReq) (st : Nat) (p : List Byte) (i : Nat) :
    ((s.answer q st p).tkt i).state = (s.tkt i).state := by
  obtain ⟨cs, hs, rs, h⟩ := State.sendReply_eq (s.dropResv q) q (s.replyOf q st p 0 0)
  rw [State.answer, h]
  change ((s.dropResv q).tkt i).state = _
  unfold State.dropResv
  split
  next j hj =>
    by_cases hij : i = j
    · subst hij
      rw [State.tkt, SMap.get_set_same]
    · rw [State.tkt, SMap.get_set_ne _ _ _ _ hij]
      rfl
  next => rfl

theorem State.cancelWork_queuedErase (s : State) {i e : Nat} (hw : (s.tkt i).work = .storeErase e) (hs : (s.tkt i).state = 0) :
    s.cancelWork i = some ({ s with fl := { s.fl with ops := s.fl.ops.filter (fun o => flashTkt o ≠ some i) } }.abandon i) := by
  simp [State.cancelWork, hw, hs]

end Sys2Proof.Machine

namespace Sys2Proof.Proofs
open Sys2Proof Sys2Proof.Machine

/-- The opcodes that report, and TICKET_STATUS. -/
theorem systemReports (c : Fin 64) (q : VReq) (s : State) (hm : s.mode ∈ allModes) (hq : hdrOk q = true) :
    (s.fronts c 0x0100 q → ∃ t, exec (.echo c) s = .next t ∧ Answered s t q stOk q.payload ∧ t = { s with vl := t.vl }) ∧
    (s.fronts c 0x0101 q → q.payload = [] → ∃ t, exec (.info c) s = .next t ∧ t = { s with vl := t.vl } ∧
      Answered s t q stOk (leBytes 2 0x9480 ++ leBytes 2 s.fk.siliconRev ++ leBytes 4 s.pw.cycles ++ leBytes 8 s.fk.macBase ++
        leBytes 4 s.bootRec.verA ++ leBytes 4 s.bootRec.verF ++ leBytes 4 s.fuseWord ++ leBytes 4 0)) ∧
    (s.fronts c 0x0102 q → q.payload = [] → ∃ t, exec (.ready c) s = .next t ∧ t = { s with vl := t.vl } ∧
      Answered s t q stOk (leBytes 8 s.readyVec ++ leBytes 1 s.mode ++ leBytes 1 s.pendMode ++ leBytes 6 0)) ∧
    (s.fronts c 0x0106 q → q.payload = [] → ∃ t, exec (.time c) s = .next t ∧ t = { s with vl := t.vl } ∧
      Answered s t q stOk (leBytes 8 s.epoch ++ leBytes 4 s.pw.hours ++ leBytes 2 (s.pw.frac % 4096) ++ leBytes 2 0 ++
        leBytes 4 (s.pw.cycles % 2 ^ 24) ++ leBytes 4 0)) := by
  refine ⟨fun h => State.serve_checked_answer (execEcho.eq_1 c s) rfl h hm rfl hq _ _ rfl, fun h hp => ?_, fun h hp => ?_, fun h hp => ?_⟩
  · obtain ⟨t, ht, hans, hframe⟩ := State.serve_checked_answer (execInfo.eq_1 c s) rfl h hm (by rw [hp]; rfl) hq _ _ rfl
    exact ⟨t, ht, hframe, hans⟩
  · obtain ⟨t, ht, hans, hframe⟩ := State.serve_checked_answer (execReady.eq_1 c s) rfl h hm (by rw [hp]; rfl) hq _ _ rfl
    exact ⟨t, ht, hframe, hans⟩
  · obtain ⟨t, ht, hans, hframe⟩ := State.serve_checked_answer (execTime.eq_1 c s) rfl h hm (by rw [hp]; rfl) hq _ _ rfl
    exact ⟨t, ht, hframe, hans⟩

theorem ticketStatusAnswers (c : Fin 64) (q : VReq) (s : State) (hm : s.mode ∈ allModes) (hq : hdrOk q = true)
    (h : s.fronts c 0x0103 q) (hlen : q.payload.length = 8) (hflags : leAt q.payload 4 4 = 0) :
    (s.tktOld (leAt q.payload 0 4) = true → ∃ t, exec (.ticketStatus c) s = .next t ∧
      Answered s t q stOk (leBytes 8 (5 * 2 ^ 60)) ∧ t = { s with vl := t.vl }) ∧
    (∀ i, s.tktOld (leAt q.payload 0 4) = false → s.tktOf (leAt q.payload 0 4) = some i → ∃ t, exec (.ticketStatus c) s = .next t ∧
      Answered s t q stOk (leBytes 8 (tktWord (s.tktNow i))) ∧ t = { s with vl := t.vl }) ∧
    (s.tktOld (leAt q.payload 0 4) = false → s.tktOf (leAt q.payload 0 4) = none → ∃ t, exec (.ticketStatus c) s = .next t ∧
      Answered s t q stBadParam [] ∧ t = { s with vl := t.vl }) := by
  have hgood : (decide (q.payload.length = 8) && decide (leAt q.payload 4 4 < 4)) = true := by simp [hlen, hflags]
  refine ⟨fun hold => ?_, fun i hnew hi => ?_, fun hnew hi => ?_⟩
  · refine State.serve_checked_answer (execTicketStatus.eq_1 c s) rfl h hm hgood hq _ _ ?_
    rw [State.taken_tktOld, if_pos hold]
  · refine State.serve_checked_answer (execTicketStatus.eq_1 c s) rfl h hm hgood hq _ _ ?_
    rw [State.taken_tktOld, if_neg (by simp [hnew]), State.taken_tktOf, hi]
    simp only [State.taken_tktNow, hflags, bitOf_zero, Bool.false_and, Bool.false_eq_true, if_false, List.append_nil]
  · refine State.serve_checked_answer (execTicketStatus.eq_1 c s) rfl h hm hgood hq _ _ ?_
    rw [State.taken_tktOld, if_neg (by simp [hnew]), State.taken_tktOf, hi]

theorem ticketCancelAnswers (c : Fin 64) (q : VReq) (s : State) (hm : s.mode ∈ allModes) (hq : hdrOk q = true)
    (h : s.fronts c 0x0104 q) (hlen : q.payload.length = 4) :
    (s.tktOld (leAt q.payload 0 4) = true → ∃ t, exec (.ticketCancel c) s = .next t ∧ Answered s t q stBadState [] ∧ t = { s with vl := t.vl }) ∧
    (∀ i e, s.tktOld (leAt q.payload 0 4) = false → s.tktOf (leAt q.payload 0 4) = some i → (s.tkt i).work = .storeErase e → (s.tkt i).state = 0 →
      ∃ t, exec (.ticketCancel c) s = .next t ∧ Answered s t q stOk [] ∧ (t.tkt i).state = 5 ∧ t = { s with regs := t.regs, vl := t.vl, fl := t.fl }) := by
  refine ⟨fun hold => ?_, fun i e hnew hi hw hs => ?_⟩
  · refine State.serve_checked_answer (execTicketCancel.eq_1 c s) rfl h hm (by simp [hlen]) hq _ _ ?_
    rw [State.taken_tktOld, if_pos hold]
  · have hlive : tktLive ((s.taken q).tkt i) = true := by simp [tktLive, State.tktOf_used hi, hs]
    refine ⟨_, State.serve_checked (execTicketCancel.eq_1 c s) rfl h hm (by simp [hlen]) hq, ?_⟩
    rw [State.taken_tktOld, if_neg (by simp [hnew]), State.taken_tktOf, hi]
    dsimp only
    rw [if_pos hlive, (s.taken q).cancelWork_queuedErase hw hs]
    dsimp only
    generalize hu : ({ s.taken q with fl := { (s.taken q).fl with ops := (s.taken q).fl.ops.filter (fun o => flashTkt o ≠ some i) } } : State) = u
    have huvl : u.vl = (s.taken q).vl := by rw [← hu]
    have hulive : tktLive (u.tkt i) = true := by rw [State.tkt_congr huvl]; exact hlive
    have habvl : (u.abandon i).vl.replies = s.vl.replies ∧ (u.abandon i).vl.handed = s.vl.handed.erase q := by
      rw [State.abandon, State.tktEnd_live _ _ _ _ hulive, State.setTkt_vl, huvl]
      exact ⟨rfl, rfl⟩
    refine ⟨State.answer_answered s _ q _ _ habvl.1 habvl.2, ?_, ?_⟩
    · rw [State.answer_tkt_state, State.abandon, State.tktEnd_tkt _ _ _ _ hulive]
    · rw [State.answer_frame, State.abandon, State.tktEnd_eq, ← hu]
      rfl

theorem systemResetAnswers (c : Fin 64) (q : VReq) (s : State) (hm : s.mode ∈ allModes) (hq : hdrOk q = true)
    (h : s.fronts c 0x0105 q) (hlen : q.payload.length = 4) (hkey : leAt q.payload 0 4 = 0x54535257) :
    ∃ t, exec (.systemReset c) s = .next t ∧ Answered s t q stOk [] ∧
      (∃ r ∈ t.vl.replies, r.thenReset = true ∧ r.client = q.client ∧ r.seq = q.seq) ∧ t = { s with vl := t.vl } := by
  refine ⟨_, State.serve_checked (execSystemReset.eq_1 c s) rfl h hm (by simp [hlen, hkey]) hq, ?_⟩
  obtain ⟨ts, hdrop⟩ := State.dropResv_eq (s.taken q) q
  obtain ⟨cs, hs, rs, hsend⟩ := State.sendReply_eq ((s.taken q).dropResv q) q { (s.taken q).replyOf q stOk [] 0 0 with thenReset := true }
  rw [hsend, hdrop]
  exact ⟨⟨⟨{ (s.taken q).replyOf q stOk [] 0 0 with thenReset := true, buf := true }, ⟨rs, List.append_assoc ..⟩, rfl, rfl, rfl, rfl, rfl, rfl, rfl, lor_one_mod q.flags⟩, rfl⟩,
    ⟨{ (s.taken q).replyOf q stOk [] 0 0 with thenReset := true, buf := true }, List.mem_append_right _ List.mem_cons_self, rfl, rfl, rfl⟩, rfl⟩

theorem clientCloseAnswers (c : Fin 64) (q : VReq) (s : State) (hm : s.mode ∈ allModes) (hq : hdrOk q = true)
    (h : s.fronts c 0x0107 q) (hp : q.payload = []) :
    ∃ t, exec (.clientClose c) s = .next t ∧ Answered s t q stOk [] ∧ t.client q.client = {} ∧ t = { s with vl := t.vl } := by
  refine ⟨_, State.serve_checked (execClientClose.eq_1 c s) rfl h hm (by rw [hp]; rfl) hq, ?_, State.client_setClient_same .., ?_⟩
  · exact (State.answer_answered s (s.taken q) q stOk [] rfl rfl).congr rfl rfl
  · rw [State.answer_frame]
    rfl

/-- MODE_GET, POWER_GET and MODE_SET. -/
theorem modeOpcodes (c : Fin 64) (q : VReq) (s : State) (hq : hdrOk q = true) :
    (s.mode ∈ allModes → q.payload = [] →
      (s.fronts c 0x0200 q → ∃ t, exec (.modeGet c) s = .next t ∧ t = { s with vl := t.vl } ∧ Answered s t q stOk
        (leBytes 1 s.mode ++ leBytes 1 s.chgMode ++ leBytes 1 s.pendMode ++ leBytes 1 (s.fld Reg.mrMode 31 24) ++ leBytes 4 (s.rd Reg.mrModeTkt))) ∧
      (s.fronts c 0x0202 q → ∃ t, exec (.powerGet c) s = .next t ∧ t = { s with vl := t.vl } ∧ Answered s t q stOk
        (leBytes 4 (s.pw.pout + 4500) ++ leBytes 2 (s.pw.hot16 % 65536).toNat ++ leBytes 2 0 ++ leBytes 8 s.powerDoms ++
          (List.range 8).flatMap (fun n => leBytes 8 (s.powerBays n))))) ∧
    (s.fronts c 0x0201 q → s.mode ∈ [2, 3, 5, 6, 7, 8, 9, 10] → s.modeAskOk q.payload = true →
      (leAt q.payload 0 1 = s.mode → s.pw.chg = none → s.pw.pend = none → ∃ t, exec (.modeSet c) s = .next t ∧ Answered s t q stOk [] ∧
        t = { s with vl := t.vl }) ∧
      (∀ i, leAt q.payload 0 1 ≠ s.mode → s.tktFree = some i → s.pw.pend = none → ∃ t, exec (.modeSet c) s = .next t ∧ Accepted s t q i [] ∧
        t.pw.pend = some { src := .vollor, target := leAt q.payload 0 1, run := leAt q.payload 2 2, ticket := some i } ∧
        ∀ a, t.byte a = s.byte a)) := by
  refine ⟨fun hm hp => ⟨fun h => ?_, fun h => ?_⟩, fun h hm hask => ⟨fun hsame hchg hpend => ?_, fun i hother hfree hpend => ?_⟩⟩
  · obtain ⟨t, ht, hans, hframe⟩ := State.serve_checked_answer (execModeGet.eq_1 c s) rfl h hm (by rw [hp]; rfl) hq _ _ rfl
    exact ⟨t, ht, hframe, hans⟩
  · obtain ⟨t, ht, hans, hframe⟩ := State.serve_checked_answer (execPowerGet.eq_1 c s) rfl h hm (by rw [hp]; rfl) hq _ _ rfl
    exact ⟨t, ht, hframe, hans⟩
  · refine State.serve_checked_answer (execModeSet.eq_1 c s) rfl h hm hask hq _ _ ?_
    exact if_pos (by simp [hsame, hchg, hpend])
  · refine ⟨_, State.serve_checked (execModeSet.eq_1 c s) rfl h hm hask hq, ?_⟩
    rw [if_neg (by simp [hother]), State.withTicket_some _ _ _ (i := i) (by rw [State.taken_tktFree]; exact hfree)]
    have hacc := s.issue_accepted q i .modeSet false []
    have hpw : (((s.taken q).tktIssue i q.client .modeSet false).accept q i []).pw = s.pw := by
      rw [(State.accept_touches ..).pw_eq, (State.tktIssue_touches ..).pw_eq, State.taken_pw]
    have hbyte : ∀ a, (((s.taken q).tktIssue i q.client .modeSet false).accept q i []).byte a = s.byte a := fun a => by
      rw [(State.accept_touches ..).byte_eq, (State.tktIssue_touches ..).byte_eq]
      rfl
    generalize ((s.taken q).tktIssue i q.client .modeSet false).accept q i [] = u at hacc hpw hbyte ⊢
    rw [State.modeQueue, hpw, hpend]
    dsimp only
    refine ⟨hacc.congr (State.showMode_touches ..).vl_eq, ?_, fun a => ?_⟩
    · rw [(State.showMode_touches ..).pw_eq]
    · rw [(State.showMode_touches ..).byte_eq]
      exact hbyte a

/-- Settles O26. -/
theorem systemAndModeOpcodes : Obligations.SystemAndModeOpcodes := by
  refine ⟨fun c q s hm hq => ?_, modeOpcodes⟩
  obtain ⟨hecho, hinfo, hready, htime⟩ := systemReports c q s hm hq
  exact ⟨hecho, hinfo, hready, htime, ticketStatusAnswers c q s hm hq, ticketCancelAnswers c q s hm hq, systemResetAnswers c q s hm hq,
    clientCloseAnswers c q s hm hq⟩

end Sys2Proof.Proofs
end

