-- ==== Sys2Proof/Proofs/UpdateOpcodes.lean ====
section
set_option Elab.async false
/-!
PROOF. The Update and Event log groups of opcodes (R418, R419, R494, R498, R500, R503): O33.
-/
namespace Sys2Proof.Machine

/-! ### A request accepted, and its frame -/

theorem State.setTkt_frame (s : State) (i : Nat) (v : Ticket) :
    s.setTkt i v = { s with regs := (s.setTkt i v).regs, vl := (s.setTkt i v).vl } := (rfl)

/-- The state behind an acceptance with ticket entry `i`. -/
def State.issued (s : State) (q : VReq) (i : Nat) (w : TktWork) (active : Bool) (p : List Byte) : State :=
  (s.tktIssue i q.client w active).accept q i p

/-- An acceptance reaches the registers and the port alone. -/
theorem State.issued_frame (s : State) (q : VReq) (i : Nat) (w : TktWork) (active : Bool) (p : List Byte) :
    s.issued q i w active p = { s with regs := (s.issued q i w active p).regs, vl := (s.issued q i w active p).vl } := by
  have hissue : s.tktIssue i q.client w active = { s with
      regs := (s.tktIssue i q.client w active).regs, vl := (s.tktIssue i q.client w active).vl } := State.setTkt_frame ..
  rw [State.issued, (State.accept_frame ..).1, hissue]

theorem State.issued_fl (s : State) (q : VReq) (i : Nat) (w : TktWork) (active : Bool) (p : List Byte) :
    (s.issued q i w active p).fl = s.fl := by rw [State.issued_frame]

theorem State.issued_ev (s : State) (q : VReq) (i : Nat) (w : TktWork) (active : Bool) (p : List Byte) :
    (s.issued q i w active p).ev = s.ev := by rw [State.issued_frame]

theorem State.issued_byte (s : State) (q : VReq) (i : Nat) (w : TktWork) (active : Bool) (p : List Byte) (a : Nat) :
    (s.issued q i w active p).byte a = s.byte a := by
  rw [State.issued_frame]
  rfl

theorem State.issued_tkt_ne (s : State) (q : VReq) {i j : Nat} (w : TktWork) (active : Bool) (p : List Byte) (h : j ≠ i) :
    (s.issued q i w active p).tkt j = s.tkt j := by
  rw [State.tkt, State.issued, (State.accept_frame ..).2, State.tktIssue, State.setTkt_vl, SMap.get_set_ne _ _ _ _ h]
  rfl

/-- The acceptance of a request on a state that keeps what the reply and the ticket rest on. -/
theorem State.issued_accepted (s t : State) (q : VReq) (i : Nat) (w : TktWork) (active : Bool) (p : List Byte)
    (hr : t.vl.replies = s.vl.replies) (hh : t.vl.handed = s.vl.handed.erase q) (hgen : t.handle i = s.handle i) :
    Accepted s (t.issued q i w active p) q i p := by
  refine State.accept_accepted s _ q i p ?_ ?_ ?_ ?_ ?_
  · rw [State.tktIssue, State.setTkt_vl]
    exact hr
  · rw [State.tktIssue, State.setTkt_vl]
    exact hh
  · rw [State.handle_tktIssue, hgen]
  · rw [State.tktIssue, State.tkt_setTkt]
  · rw [State.tktIssue, State.tkt_setTkt]

/-! ### Tickets beside an answer, and tickets that end -/

theorem State.tktEnd_port (s : State) (i st err : Nat) :
    (s.tktEnd i st err).vl.replies = s.vl.replies ∧ (s.tktEnd i st err).vl.handed = s.vl.handed := by
  unfold State.tktEnd
  split
  · rw [State.setTkt_vl]
    exact ⟨rfl, rfl⟩
  · exact ⟨rfl, rfl⟩

theorem State.tktProgress_handed (s : State) (i p q : Nat) : (s.tktProgress i p q).vl.handed = s.vl.handed := by
  unfold State.tktProgress
  split
  · rw [State.setTkt_vl]
  · rfl

theorem State.tktEnd_handle (s : State) (j st err i : Nat) : (s.tktEnd j st err).handle i = s.handle i := by
  unfold State.tktEnd
  split
  · rw [State.handle, State.handle, State.setTkt_fld_below _ _ _ _ _ _ (by decide)]
    have hgen : ((s.setTkt j { s.tkt j with state := st, err := err }).tkt i).gen = (s.tkt i).gen := by
      by_cases h : i = j
      · rw [h, State.tkt_setTkt]
      · rw [State.tkt, State.setTkt_vl, SMap.get_set_ne _ _ _ _ h, State.get_tkt]
    rw [hgen]
  · rfl

theorem State.answer_tkt_live (s : State) (q : VReq) (st : Nat) (p : List Byte) (i : Nat) :
    tktLive ((s.answer q st p).tkt i) = tktLive (s.tkt i) := by
  obtain ⟨cs, hs, rs, h⟩ := State.sendReply_eq (s.dropResv q) q (s.replyOf q st p 0 0)
  rw [State.answer, h]
  change tktLive ((s.dropResv q).tkt i) = _
  unfold State.dropResv
  split
  next j hj =>
    by_cases hij : i = j
    · subst hij
      rw [State.tkt, SMap.get_set_same]
      rfl
    · rw [State.tkt, SMap.get_set_ne _ _ _ _ hij]
      rfl
  next => rfl

theorem State.stgOf_some {s : State} {h : Nat} {g : Staging} (hg : s.stgOf h = some g) :
    s.fl.stg = some g ∧ tktLive (s.tkt g.ticket) = true := by
  unfold State.stgOf at hg
  split at hg
  next i x hi hx =>
    split at hg
    next hc =>
      obtain rfl := Option.some.inj hg
      simp only [Bool.and_eq_true, decide_eq_true_eq] at hc
      exact ⟨hx, hc.1 ▸ hc.2⟩
    next => cases hg
  next => cases hg

/-! ### The end of an update (R418, R494) -/

theorem State.fwCheck_congr {s t : State} (h : t.fk = s.fk) (img : List Byte) : t.fwCheck img = s.fwCheck img := by
  unfold State.fwCheck
  rw [h]

theorem State.stageEnd_missing (s : State) (g : Staging) (hlive : tktLive (s.tkt g.ticket) = true) (h : g.got < g.len) :
    (s.stageEnd g).fl.stg = none ∧ ((s.stageEnd g).tkt g.ticket).state = 3 ∧ ((s.stageEnd g).tkt g.ticket).err = stTruncated ∧
      (s.stageEnd g).vl.replies = s.vl.replies ∧ (s.stageEnd g).vl.handed = s.vl.handed := by
  have hlive' : tktLive (({ s with fl := { s.fl with stg := none } } : State).tkt g.ticket) = true := hlive
  simp only [State.stageEnd, if_pos h]
  rw [State.tktEnd_fl, State.tktEnd_tkt _ _ _ _ hlive']
  exact ⟨rfl, rfl, rfl, State.tktEnd_port ..⟩

/-- Everything received is staged, and the ticket shows it. -/
def State.stagedAll (s : State) (g : Staging) : State :=
  State.tktProgress { s with fl := { s.fl with staging := s.fl.staging ++ stageWaiting s.fl.ops, ops := s.fl.ops.filter notStage } }
    g.ticket ((s.fl.staging ++ stageWaiting s.fl.ops).length / 1024) 0

theorem State.stagedAll_reads (s : State) (g : Staging) (hlive : tktLive (s.tkt g.ticket) = true) :
    tktLive ((s.stagedAll g).tkt g.ticket) = true ∧ (s.stagedAll g).fl.staging = s.fl.staging ++ stageWaiting s.fl.ops ∧
      (s.stagedAll g).fk = s.fk ∧ (s.stagedAll g).vl.replies = s.vl.replies ∧ (s.stagedAll g).vl.handed = s.vl.handed := by
  have hT := State.tktProgress_touches
    { s with fl := { s.fl with staging := s.fl.staging ++ stageWaiting s.fl.ops, ops := s.fl.ops.filter notStage } }
    g.ticket ((s.fl.staging ++ stageWaiting s.fl.ops).length / 1024) 0
  have hport := State.tktProgress_port
    { s with fl := { s.fl with staging := s.fl.staging ++ stageWaiting s.fl.ops, ops := s.fl.ops.filter notStage } }
    g.ticket ((s.fl.staging ++ stageWaiting s.fl.ops).length / 1024) 0
  have htkt := State.tktProgress_tkt
    { s with fl := { s.fl with staging := s.fl.staging ++ stageWaiting s.fl.ops, ops := s.fl.ops.filter notStage } }
    g.ticket ((s.fl.staging ++ stageWaiting s.fl.ops).length / 1024) 0
  unfold State.stagedAll
  refine ⟨?_, congrArg FlSt.staging hT.fl_eq, hT.fk_eq, hport.1, State.tktProgress_handed ..⟩
  rw [tktLive, htkt.1, htkt.2.1]
  exact hlive

theorem State.stageEnd_refused (s : State) (g : Staging) (hlive : tktLive (s.tkt g.ticket) = true) (h : g.len ≤ g.got)
    (hbad : s.fwCheck (s.fl.staging ++ stageWaiting s.fl.ops) ≠ 0) :
    (s.stageEnd g).fl.stg = none ∧ ((s.stageEnd g).tkt g.ticket).state = 3 ∧
      ((s.stageEnd g).tkt g.ticket).err = s.fwCheck (s.fl.staging ++ stageWaiting s.fl.ops) ∧
      (s.stageEnd g).vl.replies = s.vl.replies ∧ (s.stageEnd g).vl.handed = s.vl.handed := by
  obtain ⟨hlive2, -, hfk, hrep, hhand⟩ := s.stagedAll_reads g hlive
  have hend : s.stageEnd g = State.tktEnd { s.stagedAll g with fl := { (s.stagedAll g).fl with stg := none } } g.ticket 3
      (s.fwCheck (s.fl.staging ++ stageWaiting s.fl.ops)) := by
    simp only [State.stageEnd, if_neg (Nat.not_lt.mpr h)]
    rw [← State.stagedAll, State.fwCheck_congr hfk]
    split
    next h0 => exact absurd h0 hbad
    next => rfl
  have hlive3 : tktLive (({ s.stagedAll g with fl := { (s.stagedAll g).fl with stg := none } } : State).tkt g.ticket) = true := hlive2
  rw [hend, State.tktEnd_fl, State.tktEnd_tkt _ _ _ _ hlive3, (State.tktEnd_port ..).1, (State.tktEnd_port ..).2]
  exact ⟨rfl, rfl, rfl, hrep, hhand⟩

theorem State.bootRec_stg (s : State) (g : Option Staging) : ({ s with fl := { s.fl with stg := g } } : State).bootRec = s.bootRec := (rfl)

/-- The boot record behind a good franking: staging is verified, then scheduled. -/
def State.bootStaged (s : State) : State :=
  (s.bootWrite (fun r => { r with stage := 2 })).bootWrite (fun r => { r with next := 1, stage := 3, verS := leAt s.fl.staging 0x10 4 })

theorem State.bootStaged_reads (s : State) : s.bootStaged.vl = s.vl ∧ s.bootStaged.bootRec.next = 1 ∧ s.bootStaged.bootRec.stage = 3 ∧
    s.bootStaged.fl.staging = s.fl.staging := by
  unfold State.bootStaged
  rw [State.bootWrite_bootRec, State.bootWrite_fl, State.bootWrite_fl]
  exact ⟨(State.bootWrite_touches ..).vl_eq.trans (State.bootWrite_touches ..).vl_eq, rfl, rfl, rfl⟩

theorem State.stageVerified_reads (s : State) (i : Nat) (hlive : tktLive (s.tkt i) = true) :
    (s.stageVerified i).fl.stg = none ∧ ((s.stageVerified i).tkt i).state = 2 ∧ (s.stageVerified i).bootRec.next = 1 ∧
      (s.stageVerified i).bootRec.stage = 3 ∧ (s.stageVerified i).fl.staging = s.fl.staging ∧
      (s.stageVerified i).vl.replies = s.vl.replies ∧ (s.stageVerified i).vl.handed = s.vl.handed := by
  obtain ⟨hvl, hnext, hstage, hstg⟩ := s.bootStaged_reads
  have hv : s.stageVerified i = (State.tktProgress { s.bootStaged with fl := { s.bootStaged.fl with stg := none } } i 0 1).tktEnd i 2 0 := rfl
  rw [hv]
  generalize s.bootStaged = b at hvl hnext hstage hstg ⊢
  generalize hu : ({ b with fl := { b.fl with stg := none } } : State) = u
  have huvl : u.vl = s.vl := by rw [← hu]; exact hvl
  have hurec : u.bootRec = b.bootRec := by rw [← hu, State.bootRec_stg]
  have hustg : u.fl.staging = s.fl.staging := by rw [← hu]; exact hstg
  have hunone : u.fl.stg = none := by rw [← hu]
  have hT := u.tktProgress_touches i 0 1
  have hlive3 : tktLive ((u.tktProgress i 0 1).tkt i) = true := by
    obtain ⟨hst, hu, -⟩ := u.tktProgress_tkt i 0 1
    rw [tktLive, hst, hu, State.tkt_congr huvl]
    exact hlive
  rw [State.bootRec_congr (State.tktEnd_fl ..), State.tktEnd_fl, State.bootRec_congr hT.fl_eq, hT.fl_eq,
    State.tktEnd_tkt _ _ _ _ hlive3, (State.tktEnd_port ..).1, (State.tktEnd_port ..).2, State.tktProgress_handed,
    (State.tktProgress_port ..).1, huvl, hurec]
  exact ⟨hunone, rfl, hnext, hstage, hustg, rfl, rfl⟩

theorem State.stageEnd_franked (s : State) (g : Staging) (hlive : tktLive (s.tkt g.ticket) = true) (h : g.len ≤ g.got)
    (hgood : s.fwCheck (s.fl.staging ++ stageWaiting s.fl.ops) = 0) :
    (s.stageEnd g).fl.stg = none ∧ ((s.stageEnd g).tkt g.ticket).state = 2 ∧ (s.stageEnd g).bootRec.next = 1 ∧
      (s.stageEnd g).bootRec.stage = 3 ∧ (s.stageEnd g).fl.staging = s.fl.staging ++ stageWaiting s.fl.ops ∧
      (s.stageEnd g).vl.replies = s.vl.replies ∧ (s.stageEnd g).vl.handed = s.vl.handed := by
  obtain ⟨hlive2, hstg, hfk, hrep, hhand⟩ := s.stagedAll_reads g hlive
  have hend : s.stageEnd g = (s.stagedAll g).stageVerified g.ticket := by
    simp only [State.stageEnd, if_neg (Nat.not_lt.mpr h)]
    rw [← State.stagedAll, State.fwCheck_congr hfk, hgood]
    rfl
  rw [hend, ← hrep, ← hhand, ← hstg]
  exact (s.stagedAll g).stageVerified_reads g.ticket hlive2

@[simp] theorem State.taken_stgOf (s : State) (q : VReq) (h : Nat) : (s.taken q).stgOf h = s.stgOf h := (rfl)
@[simp] theorem State.taken_settings (s : State) (q : VReq) : (s.taken q).settings = s.settings := (rfl)

/-- A request out of the range of its opcode. -/
theorem State.serve_badParam {s : State} {o : Out} {c op : Nat} {q : VReq} {modes : List Nat} {f : State → VReq → State} {good : Bool}
    {g : State} (hexec : o = s.serve c op (fun _ => true) f) (hf : f (s.taken q) q = (s.taken q).checked q modes good g)
    (h : s.fronts c op q) (hm : s.mode ∈ modes) (hgood : good = false) :
    ∃ t, o = .next t ∧ Answered s t q stBadParam [] ∧ t = { s with vl := t.vl } := by
  rw [hexec]
  refine s.serve_answer stBadParam [] f h (hf.trans ?_)
  simp [State.checked, hm, hgood]

theorem State.serve_withTicket {s : State} {o : Out} {c op : Nat} {q : VReq} {modes : List Nat} {f : State → VReq → State} {good : Bool}
    {g : Nat → State} {i : Nat} (hexec : o = s.serve c op (fun _ => true) f)
    (hf : f (s.taken q) q = (s.taken q).checked q modes good ((s.taken q).withTicket q g))
    (h : s.fronts c op q) (hm : s.mode ∈ modes) (hgood : good = true) (hq : hdrOk q = true) (hfree : s.tktFree = some i) : o = .next (g i) := by
  rw [State.serve_checked hexec hf h hm hgood hq, State.withTicket_some _ _ _ (i := i) (by rw [State.taken_tktFree]; exact hfree)]

end Sys2Proof.Machine

namespace Sys2Proof.Proofs
open Sys2Proof Sys2Proof.Machine

theorem zeroAt_of_leAt {p : List Byte} {off n : Nat} (h : leAt p off n = 0) : zeroAt p off n = true := by
  simp [zeroAt, h]

theorem updateBeginAnswers (c : Fin 64) (q : VReq) (s : State) (hq : hdrOk q = true) (hm : s.mode ∈ [5, 6, 7, 8, 9])
    (h : s.fronts c 0x0800 q) (hlen : q.payload.length = 8) (hprom : s.bootRec.promote = 0) (hstg : s.fl.stg = none) :
    (∀ i, s.bootRec.stage = 0 → leAt q.payload 0 8 ≤ 0x1000000 → s.tktFree = some i → ∃ t, exec (.updateBegin c) s = .next t ∧ Accepted s t q i [] ∧
      t.bootRec.stage = 1 ∧ t.fl.staging = [] ∧ t.fl.stg = some { ticket := i, len := leAt q.payload 0 8 } ∧ ∀ a, t.byte a = s.byte a) ∧
    (s.bootRec.stage ≠ 0 ∨ 0x1000000 < leAt q.payload 0 8 → ∃ t, exec (.updateBegin c) s = .next t ∧ Answered s t q stBadState [] ∧ t = { s with vl := t.vl }) := by
  refine ⟨fun i hst hle hfree => ?_, fun hbad => ?_⟩
  · refine ⟨_, State.serve_checked (execUpdateBegin.eq_1 c s) rfl h hm (by simp [hlen]) hq, ?_⟩
    rw [State.taken_bootRec, State.taken_fl, if_neg (by simp [hst, hprom, hstg]; omega),
      State.withTicket_some _ _ _ (i := i) (by rw [State.taken_tktFree]; exact hfree)]
    have hacc := State.issued_accepted s (s.taken q) q i .update true [] rfl rfl rfl
    have hbyte := (s.taken q).issued_byte q i .update true []
    unfold State.issued at hacc hbyte
    dsimp only
    generalize ((s.taken q).tktIssue i q.client .update true).accept q i [] = u at hacc hbyte ⊢
    have hrec := u.bootWrite_bootRec (fun x => { x with stage := 1 })
    have hT := u.bootWrite_touches (fun x => { x with stage := 1 })
    generalize u.bootWrite (fun x => { x with stage := 1 }) = w at hrec hT ⊢
    refine ⟨hacc.congr hT.vl_eq, ?_, rfl, rfl, fun a => ?_⟩
    · exact (congrArg BootRec.stage hrec).trans rfl
    · exact (hT.byte_eq a).trans (hbyte a)
  · refine State.serve_checked_answer (execUpdateBegin.eq_1 c s) rfl h hm (by simp [hlen]) hq _ _ ?_
    rw [State.taken_bootRec, State.taken_fl]
    exact if_pos (by simpa [hprom, hstg] using hbad)

theorem updateDataAnswers (c : Fin 64) (q : VReq) (s : State) (hq : hdrOk q = true) (hm : s.mode ∈ [5, 6, 7, 8, 9]) (g : Staging)
    (h : s.fronts c 0x0801 q) (hlen : 17 ≤ q.payload.length) (hzero : leAt q.payload 4 4 = 0) (hg : s.stgOf (leAt q.payload 0 4) = some g)
    (hoff : leAt q.payload 8 8 = g.got) (hfit : g.got + (q.payload.length - 16) ≤ g.len)
    (hroom : (stageWaiting s.fl.ops).length + (q.payload.length - 16) ≤ pieceBuf) :
    ∃ t, exec (.updateData c) s = .next t ∧ Answered s t q stOk [] ∧ t.fl.ops = s.fl.ops ++ [.stage (q.payload.drop 16)] ∧
      t.fl.stg = some { g with got := g.got + (q.payload.length - 16) } ∧ t = { s with vl := t.vl, fl := t.fl } := by
  refine ⟨_, State.serve_checked (execUpdateData.eq_1 c s) rfl h hm (by simp [hlen, zeroAt_of_leAt hzero]) hq, ?_⟩
  rw [State.taken_stgOf, hg]
  dsimp only
  rw [State.stageTake]
  dsimp only
  rw [State.taken_fl, hoff, List.length_drop, if_neg (by simp; omega), if_neg (by omega)]
  generalize hv : ({ s.taken q with fl := { s.fl with ops := s.fl.ops ++ [FlashOp.stage (q.payload.drop 16)]
                                                      stg := some { g with got := g.got + (q.payload.length - 16) } } } : State) = v
  have hans := State.answer_answered s v q stOk [] (by rw [← hv]; rfl) (by rw [← hv]; rfl)
  have hframe := v.answer_frame q stOk []
  have hfl : (v.answer q stOk []).fl = v.fl := by rw [hframe]
  exact ⟨hans, by rw [hfl, ← hv], by rw [hfl, ← hv], by rw [hframe, ← hv]; rfl⟩

theorem updateEndAnswers (c : Fin 64) (q : VReq) (s : State) (hq : hdrOk q = true) (hm : s.mode ∈ [5, 6, 7, 8, 9])
    (h : s.fronts c 0x0802 q) (hlen : q.payload.length = 4) :
    (∀ g, s.stgOf (leAt q.payload 0 4) = some g →
      (g.got < g.len → ∃ t, exec (.updateEnd c) s = .next t ∧ Answered s t q stOk [] ∧ t.fl.stg = none ∧ (t.tkt g.ticket).state = 3 ∧
        (t.tkt g.ticket).err = stTruncated) ∧
      (g.len ≤ g.got → s.fwCheck (s.fl.staging ++ stageWaiting s.fl.ops) ≠ 0 → ∃ t, exec (.updateEnd c) s = .next t ∧ Answered s t q stOk [] ∧
        t.fl.stg = none ∧ (t.tkt g.ticket).state = 3 ∧ (t.tkt g.ticket).err = s.fwCheck (s.fl.staging ++ stageWaiting s.fl.ops)) ∧
      (g.len ≤ g.got → s.fwCheck (s.fl.staging ++ stageWaiting s.fl.ops) = 0 → ∃ t, exec (.updateEnd c) s = .next t ∧ Answered s t q stOk [] ∧
        t.fl.stg = none ∧ (t.tkt g.ticket).state = 2 ∧ t.bootRec.next = 1 ∧ t.bootRec.stage = 3 ∧
        t.fl.staging = s.fl.staging ++ stageWaiting s.fl.ops)) ∧
    (s.stgOf (leAt q.payload 0 4) = none → ∃ t, exec (.updateEnd c) s = .next t ∧ Answered s t q stBadState [] ∧ t = { s with vl := t.vl }) := by
  refine ⟨fun g hg => ?_, fun hnone => ?_⟩
  · have hexec : exec (.updateEnd c) s = .next (((s.taken q).answer q stOk []).stageEnd g) := by
      refine (State.serve_checked (execUpdateEnd.eq_1 c s) rfl h hm (by simp [hlen]) hq).trans ?_
      rw [State.taken_stgOf, hg]
    have hans := State.answer_answered s (s.taken q) q stOk [] rfl rfl
    have hlive : tktLive (((s.taken q).answer q stOk []).tkt g.ticket) = true := by
      rw [State.answer_tkt_live, State.taken_tkt]
      exact (State.stgOf_some hg).2
    have hfl : ((s.taken q).answer q stOk []).fl = s.fl := by rw [State.answer_frame, State.taken_fl]
    have hfk : ((s.taken q).answer q stOk []).fk = s.fk := by rw [State.answer_frame, State.taken_fk]
    generalize (s.taken q).answer q stOk [] = u at hexec hans hlive hfl hfk
    have hfw := State.fwCheck_congr hfk (s.fl.staging ++ stageWaiting s.fl.ops)
    refine ⟨fun hmiss => ?_, fun hall hbad => ?_, fun hall hgood => ?_⟩
    · obtain ⟨hstg, hst, herr, hr, hh⟩ := u.stageEnd_missing g hlive hmiss
      exact ⟨_, hexec, hans.congr hr hh, hstg, hst, herr⟩
    · obtain ⟨hstg, hst, herr, hr, hh⟩ := u.stageEnd_refused g hlive hall (by rw [hfl, hfw]; exact hbad)
      rw [hfl, hfw] at herr
      exact ⟨_, hexec, hans.congr hr hh, hstg, hst, herr⟩
    · obtain ⟨hstg, hst, hnext, hstage, hbytes, hr, hh⟩ := u.stageEnd_franked g hlive hall (by rw [hfl, hfw]; exact hgood)
      rw [hfl] at hbytes
      exact ⟨_, hexec, hans.congr hr hh, hstg, hst, hnext, hstage, hbytes⟩
  · refine State.serve_checked_answer (execUpdateEnd.eq_1 c s) rfl h hm (by simp [hlen]) hq _ _ ?_
    rw [State.taken_stgOf, hnone]

/-- The erase of staging queued under its ticket, on a state that keeps what the request's reply rests on. -/
theorem updateDiscard_queued (s v : State) (q : VReq) (i n : Nat) (hr : v.vl.replies = s.vl.replies)
    (hh : v.vl.handed = s.vl.handed.erase q) (hgen : v.handle i = s.handle i) (hfl : v.fl = s.fl) (hbyte : ∀ a, v.byte a = s.byte a) (t : State)
    (ht : t = { v.issued q i .updDiscard false [] with
      fl := { (v.issued q i .updDiscard false []).fl with
        stg := none, ops := (v.issued q i .updDiscard false []).fl.ops.filter notStage ++ [FlashOp.stageErase n 0 i] } }) :
    Accepted s t q i [] ∧ t.fl.stg = none ∧ t.fl.ops = s.fl.ops.filter notStage ++ [.stageErase n 0 i] ∧
      (∀ j, j ≠ i → t.tkt j = v.tkt j) ∧ ∀ a, t.byte a = s.byte a := by
  have hacc := State.issued_accepted s v q i .updDiscard false [] hr hh hgen
  have hops := (v.issued_fl q i .updDiscard false []).trans hfl
  have hbytes := fun a => (v.issued_byte q i .updDiscard false [] a).trans (hbyte a)
  have hother := fun j hj => v.issued_tkt_ne q (i := i) (j := j) .updDiscard false [] hj
  generalize v.issued q i .updDiscard false [] = u at hacc hops hbytes hother ht
  subst ht
  exact ⟨hacc.congr rfl, rfl, by rw [hops], hother, hbytes⟩

theorem updateDiscardAnswers (c : Fin 64) (q : VReq) (s : State) (hq : hdrOk q = true) (hm : s.mode ∈ [5, 6, 7, 8, 9])
    (h : s.fronts c 0x0804 q) (hp : q.payload = []) :
    (∀ i, 1 ≤ s.bootRec.stage → s.bootRec.stage ≤ 3 → s.fl.ops.any isStageErase = false → s.tktFree = some i →
      ∃ t, exec (.updateDiscard c) s = .next t ∧ Accepted s t q i [] ∧ t.fl.stg = none ∧
        t.fl.ops = s.fl.ops.filter notStage ++ [.stageErase (max 1 (sectorsOf s.fl.staging.length)) 0 i] ∧
        (∀ g, s.fl.stg = some g → g.ticket ≠ i → tktLive (s.tkt g.ticket) = true → (t.tkt g.ticket).state = 5) ∧ ∀ a, t.byte a = s.byte a) ∧
    (s.bootRec.stage = 0 ∨ 4 ≤ s.bootRec.stage → ∃ t, exec (.updateDiscard c) s = .next t ∧ Answered s t q stBadState [] ∧ t = { s with vl := t.vl }) := by
  refine ⟨fun i hlo hhi herase hfree => ?_, fun hbad => ?_⟩
  · refine ⟨_, State.serve_checked (execUpdateDiscard.eq_1 c s) rfl h hm (by rw [hp]; rfl) hq, ?_⟩
    rw [State.taken_bootRec, State.taken_fl, if_neg (by simp [herase]; omega),
      State.withTicket_some _ _ _ (i := i) (by rw [State.taken_tktFree]; exact hfree)]
    dsimp only
    cases hg : s.fl.stg with
    | some g =>
      obtain ⟨hacc, hnone, hops, hother, hbytes⟩ := updateDiscard_queued s ((s.taken q).tktEnd g.ticket 5 0) q i
        (max 1 (sectorsOf s.fl.staging.length)) (State.tktEnd_port ..).1 (State.tktEnd_port ..).2 (State.tktEnd_handle ..)
        (State.tktEnd_fl ..) (fun a => State.tktEnd_byte ..) _ rfl
      refine ⟨hacc, hnone, hops, fun g' hg' hne hlive => ?_, hbytes⟩
      obtain rfl := Option.some.inj hg'
      exact congrArg Ticket.state ((hother _ hne).trans ((s.taken q).tktEnd_tkt g.ticket 5 0 hlive))
    | none =>
      obtain ⟨hacc, hnone, hops, -, hbytes⟩ := updateDiscard_queued s (s.taken q) q i
        (max 1 (sectorsOf s.fl.staging.length)) rfl rfl rfl rfl (fun _ => rfl) _ rfl
      exact ⟨hacc, hnone, hops, (fun g hg' => by cases hg'), hbytes⟩
  · refine State.serve_checked_answer (execUpdateDiscard.eq_1 c s) rfl h hm (by rw [hp]; rfl) hq _ _ ?_
    rw [State.taken_bootRec]
    exact if_pos (by rcases hbad with hb | hb <;> simp [hb])

theorem updateRevertAnswers (c : Fin 64) (q : VReq) (s : State) (hq : hdrOk q = true) (hm : s.mode ∈ [5, 6, 7, 8, 9])
    (h : s.fronts c 0x0805 q) (hp : q.payload = []) :
    (s.bootRec.stage = 0 → s.bootRec.promote = 0 → ∃ t, exec (.updateRevert c) s = .next t ∧ Answered s t q stOk [] ∧ t.fl.staging = s.fl.fallback ∧
      t.bootRec.stage = 3 ∧ t.bootRec.next = 1) ∧
    (s.bootRec.stage = 4 → ∃ t, exec (.updateRevert c) s = .next t ∧ Answered s t q stOk [] ∧ t.bootRec.stage = 2 ∧ t.bootRec.next = 0) ∧
    (s.bootRec.stage ≠ 4 → s.bootRec.stage ≠ 0 ∨ s.bootRec.promote ≠ 0 → ∃ t, exec (.updateRevert c) s = .next t ∧ Answered s t q stBadState [] ∧
      t = { s with vl := t.vl }) := by
  have hm3 : s.mode ∈ [3, 5, 6, 7, 8, 9] := List.mem_cons_of_mem _ hm
  have hwrites : ∀ (u : State) (f : BootRec → BootRec), u.vl = (s.taken q).vl →
      Answered s ((u.bootWrite f).answer q stOk []) q stOk [] ∧ ((u.bootWrite f).answer q stOk []).fl = (u.bootWrite f).fl := fun u f hu => by
    have hvl : (u.bootWrite f).vl = (s.taken q).vl := (u.bootWrite_touches f).vl_eq.trans hu
    refine ⟨State.answer_answered s _ q stOk [] (by rw [hvl]; rfl) (by rw [hvl]; rfl), ?_⟩
    rw [State.answer_frame]
  refine ⟨fun hst hprom => ?_, fun hst => ?_, fun hst hbad => ?_⟩
  · refine ⟨_, State.serve_checked (execUpdateRevert.eq_1 c s) rfl h hm3 (by rw [hp]; rfl) hq, ?_⟩
    rw [State.taken_bootRec, if_neg (by simp [hst]), if_pos (by simp [hst, hprom])]
    obtain ⟨hans, hfl⟩ := hwrites { s.taken q with fl := { (s.taken q).fl with staging := (s.taken q).fl.fallback } }
      (fun x => { x with next := 1, stage := 3, verS := x.verF }) rfl
    refine ⟨hans, ?_, ?_⟩
    · rw [hfl, State.bootWrite_fl]
      rfl
    · rw [State.bootRec_congr hfl, State.bootWrite_bootRec]
      exact ⟨rfl, rfl⟩
  · refine ⟨_, State.serve_checked (execUpdateRevert.eq_1 c s) rfl h hm3 (by rw [hp]; rfl) hq, ?_⟩
    rw [State.taken_bootRec, if_pos hst]
    obtain ⟨hans, hfl⟩ := hwrites (s.taken q) (fun x => { x with next := 0, stage := 2 }) rfl
    refine ⟨hans, ?_⟩
    rw [State.bootRec_congr hfl, State.bootWrite_bootRec]
    exact ⟨rfl, rfl⟩
  · refine State.serve_checked_answer (execUpdateRevert.eq_1 c s) rfl h hm3 (by rw [hp]; rfl) hq _ _ ?_
    rw [State.taken_bootRec, if_neg hst, if_neg (by simpa [Decidable.imp_iff_not_or] using hbad)]

theorem settingsAnswers (c : Fin 64) (q : VReq) (s : State) (hq : hdrOk q = true) (hm : s.mode ∈ [5, 6, 7, 8, 9]) :
    (s.fronts c 0x0806 q → q.payload.length = 2 → settingsKey (leAt q.payload 0 2) = false → ∃ t, exec (.settingsRead c) s = .next t ∧
      Answered s t q stBadParam [] ∧ t = { s with vl := t.vl }) ∧
    (s.fronts c 0x0806 q → q.payload.length = 2 → settingsKey (leAt q.payload 0 2) = true → ∃ t, exec (.settingsRead c) s = .next t ∧
      Answered s t q stOk (leBytes 2 (SMap.get s.settings (leAt q.payload 0 2) []).length ++ leBytes 2 0 ++ SMap.get s.settings (leAt q.payload 0 2) []) ∧
      t = { s with vl := t.vl }) ∧
    (∀ i, s.fronts c 0x0807 q → 4 ≤ q.payload.length → q.payload.length = 4 + leAt q.payload 2 2 → leAt q.payload 2 2 ≤ 256 →
      settingsKey (leAt q.payload 0 2) = true → s.tktFree = some i → ∃ t, exec (.settingsWrite c) s = .next t ∧ Accepted s t q i [] ∧
        t.fl.ops = s.fl.ops ++ [.settings (leAt q.payload 0 2) (q.payload.drop 4) (some i)] ∧ ∀ a, t.byte a = s.byte a) := by
  have hm2 : s.mode ∈ setModes := List.mem_cons_of_mem _ (List.mem_cons_of_mem _ hm)
  refine ⟨fun h hlen hkey => ?_, fun h hlen hkey => ?_, fun i h h4 hlen h256 hkey hfree => ?_⟩
  · exact State.serve_badParam (execSettingsRead.eq_1 c s) rfl h hm2 (by simp [hkey])
  · exact State.serve_checked_answer (execSettingsRead.eq_1 c s) rfl h hm2 (by simp [hlen, hkey]) hq _ _ rfl
  · refine ⟨_, State.serve_withTicket (execSettingsWrite.eq_1 c s) rfl h hm2 ?_ hq hfree, ?_⟩
    · simp only [← hlen, hkey, h4, h256, decide_true, Bool.and_self]
    · have hacc := State.issued_accepted s (s.taken q) q i .settings false [] rfl rfl rfl
      have hfl := (s.taken q).issued_fl q i .settings false []
      have hbyte := (s.taken q).issued_byte q i .settings false []
      unfold State.issued at hacc hfl hbyte
      generalize ((s.taken q).tktIssue i q.client .settings false).accept q i [] = u at hacc hfl hbyte ⊢
      dsimp only
      exact ⟨hacc.congr rfl, by rw [hfl]; rfl, hbyte⟩

/-- The opcodes of the Event log group. -/
theorem logAnswers (c : Fin 64) (q : VReq) (s : State) (hq : hdrOk q = true) (hm : s.mode ∈ allModes) :
    (s.fronts c 0x0900 q → q.payload.length = 8 → ∃ t rs, exec (.logRead c) s = .next t ∧ t = { s with vl := t.vl } ∧
      rs = recsIn (s.evFrom (leAt q.payload 0 4)) (min (leAt q.payload 4 4) (s.lpLimit q.port q.v6 - 8)) ∧
      Answered s t q stOk (leBytes 4 (match rs.getLast? with | some r => (r.cursor + 1) % 2 ^ 32 | none => leAt q.payload 0 4) ++
        leBytes 2 rs.length ++ leBytes 2 (b2n (match rs.head? with | some r => decide (r.cursor ≠ leAt q.payload 0 4) | none => false)) ++
        rs.flatMap (fun r => leBytes 4 r.cursor ++ recBytes r))) ∧
    (∀ i, s.fronts c 0x0901 q → q.payload.length = 1 → leAt q.payload 0 1 < 8 → s.tktFree = some i → ∃ t, exec (.logClear c) s = .next t ∧
      Accepted s t q i [] ∧ t.ev.clears = s.ev.clears ++ [(leAt q.payload 0 1, i)] ∧ t.ev.slots = s.ev.slots ∧ ∀ a, t.byte a = s.byte a) ∧
    (s.fronts c 0x0902 q → q.payload = [] → ∃ t, exec (.logStatus c) s = .next t ∧ t = { s with vl := t.vl } ∧
      Answered s t q stOk ((List.range 8).flatMap (fun v => leBytes 4 (s.heldAt v)) ++ leBytes 4 s.ev.discarded ++
        leBytes 4 (match s.evOldest with | some e => e.2.cursor | none => s.ev.cursor) ++ leBytes 4 s.ev.cursor ++
        leBytes 4 ((s.ev.slots.map (fun (e : Nat × EvRec) => (recBytes e.2).length)).sum))) := by
  refine ⟨fun h hlen => ?_, fun i h hlen hlv hfree => ?_, fun h hp => ?_⟩
  · obtain ⟨t, ht, hans, hframe⟩ := State.serve_checked_answer (execLogRead.eq_1 c s) rfl h hm (by simp [hlen]) hq _ _ rfl
    exact ⟨t, _, ht, hframe, rfl, hans⟩
  · refine ⟨_, State.serve_withTicket (execLogClear.eq_1 c s) rfl h hm (by simp [hlen, hlv]) hq hfree, ?_⟩
    have hacc := State.issued_accepted s (s.taken q) q i .logClear false [] rfl rfl rfl
    have hev := (s.taken q).issued_ev q i .logClear false []
    have hbyte := (s.taken q).issued_byte q i .logClear false []
    unfold State.issued at hacc hev hbyte
    generalize ((s.taken q).tktIssue i q.client .logClear false).accept q i [] = u at hacc hev hbyte ⊢
    dsimp only
    exact ⟨hacc.congr rfl, by rw [hev]; rfl, by rw [hev]; rfl, hbyte⟩
  · obtain ⟨t, ht, hans, hframe⟩ := State.serve_checked_answer (execLogStatus.eq_1 c s) rfl h hm (by rw [hp]; rfl) hq _ _ rfl
    exact ⟨t, ht, hframe, hans⟩

/-- Settles O33. -/
theorem updateAndLogOpcodes : Obligations.UpdateAndLogOpcodes := by
  refine ⟨fun c q s hq hm => ⟨updateBeginAnswers c q s hq hm, updateDataAnswers c q s hq hm, updateEndAnswers c q s hq hm, fun h hp => ?_,
    updateDiscardAnswers c q s hq hm, updateRevertAnswers c q s hq hm, settingsAnswers c q s hq hm⟩, logAnswers⟩
  have hall : s.mode ∈ allModes := List.mem_cons_of_mem _ (List.mem_cons_of_mem _ (List.mem_append_left [10, 11] hm))
  obtain ⟨t, ht, hans, hframe⟩ := State.serve_checked_answer (execUpdateStatus.eq_1 c s) rfl h hall (by rw [hp]; rfl) hq _ _ rfl
  exact ⟨t, ht, hframe, hans⟩

end Sys2Proof.Proofs
end

