-- ==== Sys2Proof/Proofs/RoutesAndLinks.lean ====
section
set_option Elab.async false
/-!
PROOF. Routing tables and links of the Rounds (R358, R359, R365, R366): O22.
-/
namespace Sys2Proof.Machine

theorem State.linkDown_congr {s t : State} {x : Nat} (h : t.rd (Reg.rndSLink x) = s.rd (Reg.rndSLink x)) (g d : Nat) :
    t.linkDown x g d = s.linkDown x g d := by
  simp only [State.linkDown, State.bit, h]

/-! ### A NAK (R365) -/

/-- The counts behind a NAK, before the link may retrain. -/
def State.nakCounted (s : State) (x g d : Nat) (train : Bool) : State :=
  let s1 := s.count (Reg.rndSRetry x) 31 0 1
  State.nakLast { s1 with rnd := { s1.rnd with
    nakRun := SMap.set s1.rnd.nakRun (16 * x + 2 * g + d) (if train then 0 else SMap.get s.rnd.nakRun (16 * x + 2 * g + d) 0 + 1) 0
    naks := SMap.set s1.rnd.naks (16 * x + 2 * g + d) (if train then 0 else SMap.get s.rnd.naks (16 * x + 2 * g + d) 0 + 1) 0 } } x g d

theorem State.nakCounted_touches (s : State) (x g d : Nat) (train : Bool) : Touches [.regs, .rnd] s (s.nakCounted x g d train) :=
  ((Touches.refl.then (State.count_part .regs _ _ _ _ _ (regPart_regs (le_index (by decide))))).then .setRnd).then (State.nakLast_touches ..)

theorem State.nakCounted_regs (s : State) (x g d : Nat) (train : Bool) :
    (s.nakCounted x g d train).regs = (s.count (Reg.rndSRetry x) 31 0 1).regs :=
  (State.nakLast_touches ..).regs_eq

theorem State.nakCounted_reads (s : State) (x g d : Nat) (train : Bool) :
    (s.nakCounted x g d train).fld (Reg.rndSRetry x) 31 0 = min (2 ^ 32 - 1) (s.fld (Reg.rndSRetry x) 31 0 + 1) ∧
      (s.nakCounted x g d train).linkDown x g d = s.linkDown x g d := by
  have hregs := s.nakCounted_regs x g d train
  constructor
  · rw [State.fld_of_regs hregs, State.fld_count_same _ _ _ _ _ (by decide) (by decide)]
  · refine State.linkDown_congr ?_ g d
    rw [← rdOf_regs, hregs, rdOf_regs, State.rd_count_ne _ _ _ _ (by simp)]

end Sys2Proof.Machine

namespace Sys2Proof.Proofs
open Sys2Proof Sys2Proof.Machine

theorem linkNak_next (s : State) (x : Fin 18) (g : Fin 8) (d : Fin 2) (hon : s.domOn domRnd = true) (hup : s.linkDown x g d = false)
    (train : Bool) (htrain : (decide (8 ≤ SMap.get s.rnd.nakRun (16 * x.val + 2 * g.val + d.val) 0 + 1) ||
      decide (64 ≤ SMap.get s.rnd.naks (16 * x.val + 2 * g.val + d.val) 0 + 1)) = train) :
    exec (.linkNak x g d) s = .next (if train then (s.nakCounted x g d train).setBit (Reg.rndSLink x) (16 + 2 * g + d) true
      else s.nakCounted x g d train) := by
  subst htrain
  exact State.when_of _ _ (by simp [hon, hup])

theorem linkNak_effect (s : State) (x : Fin 18) (g : Fin 8) (d : Fin 2) (hon : s.domOn domRnd = true) (hup : s.linkDown x g d = false) :
    ∃ t, exec (.linkNak x g d) s = .next t ∧
      t.fld (Reg.rndSRetry x) 31 0 = min (2 ^ 32 - 1) (s.fld (Reg.rndSRetry x) 31 0 + 1) ∧
      (t.linkDown x g d = true ↔ 7 ≤ SMap.get s.rnd.nakRun (16 * x.val + 2 * g.val + d.val) 0 ∨
        63 ≤ SMap.get s.rnd.naks (16 * x.val + 2 * g.val + d.val) 0) ∧ t = { s with regs := t.regs, rnd := t.rnd } := by
  generalize htrain : (decide (8 ≤ SMap.get s.rnd.nakRun (16 * x.val + 2 * g.val + d.val) 0 + 1) ||
      decide (64 ≤ SMap.get s.rnd.naks (16 * x.val + 2 * g.val + d.val) 0 + 1)) = train
  have hiff : train = true ↔ 7 ≤ SMap.get s.rnd.nakRun (16 * x.val + 2 * g.val + d.val) 0 ∨
      63 ≤ SMap.get s.rnd.naks (16 * x.val + 2 * g.val + d.val) 0 := by
    rw [← htrain, Bool.or_eq_true, decide_eq_true_iff, decide_eq_true_iff]
    omega
  refine ⟨_, linkNak_next s x g d hon hup train htrain, ?_⟩
  rw [← hiff]
  obtain ⟨hretry, hlink⟩ := s.nakCounted_reads x g d train
  have hT := s.nakCounted_touches x g d train
  cases train
  · refine ⟨hretry, ?_, Touches.eq_blend hT (by decide)⟩
    rw [if_neg Bool.false_ne_true, hlink, hup]
  · rw [if_pos rfl]
    refine ⟨?_, ?_, Touches.eq_blend (hT.then (State.setBit_part .regs _ _ _ _ (regPart_regs (le_index (by decide))))) (by decide)⟩
    · rw [State.fld_setBit_ne _ _ _ _ _ (by simp), hretry]
    · simp only [State.linkDown, iff_true, Bool.or_eq_true]
      exact .inl (State.bit_setBit_same _ _ _ _ (by omega))

/-- Settles O22. -/
theorem roundsRoutesAndLinks : Obligations.RoundsRoutesAndLinks := by
  intro s hon
  refine ⟨?switch, fun bank x y w hok hvalid => ?write, fun bank x y w hbad => ?refused, fun x g d hup => linkNak_effect s x g d hon hup,
    fun x g d hdown => ⟨?back, ?fails⟩⟩
  case switch =>
    refine ⟨_, State.when_of _ _ hon, ?_⟩
    unfold State.routingSwitch
    split
    · exact ⟨State.bit_setBit_same _ _ _ _ (by decide), fun q hq => State.rd_setBit_ne _ _ _ hq, rfl⟩
    · exact ⟨State.bit_setBit_same _ _ _ _ (by decide), fun q hq => State.rd_setBit_ne _ _ _ hq, rfl⟩
  case write =>
    refine ⟨_, State.when_of _ _ hon, ?_⟩
    have hacc : ¬ ((decide (bank.val ≠ s.curBank) && !s.drained || decide (w.toNat % 256 = 0)) = true) := by
      rcases hok with h | h <;> simp [h, hvalid]
    rw [State.routeWrite, if_neg hacc]
    refine ⟨?_, fun q hq => State.rd_wr_ne _ _ hq, rfl⟩
    rw [State.rd_wr_same, Nat.mod_eq_of_lt (by omega)]
  case refused =>
    refine ⟨_, State.when_of _ _ hon, ?_⟩
    have href : (decide (bank.val ≠ s.curBank) && !s.drained || decide (w.toNat % 256 = 0)) = true := by
      rcases hbad with ⟨h1, h2⟩ | h
      · simp [h1, h2]
      · simp [h]
    rw [State.routeWrite, if_pos href]
    exact ⟨State.bit_setBit_same _ _ _ _ (by decide), fun q hq => State.rd_setBit_ne _ _ _ hq, rfl⟩
  case back =>
    refine ⟨_, State.when_of _ _ (by simp [hon, hdown]), ?_⟩
    rw [if_pos rfl]
    have hT := ((Touches.refl (P := [.regs, .rnd]) (s := s)).then (State.setBit_part .regs s (Reg.rndSLink x) (16 + 2 * g + d) false
      (regPart_regs (le_index (by decide))))).then (State.setBit_part .regs _ (Reg.rndSLink x) (2 * g + d) (!true) (regPart_regs (le_index (by decide))))
    have hbits : (((s.setBit (Reg.rndSLink x) (16 + 2 * g + d) false).setBit (Reg.rndSLink x) (2 * g + d) (!true))).linkDown x g d = false := by
      unfold State.linkDown
      rw [State.bit_setBit_other _ _ _ _ _ (by omega) (by omega), State.bit_setBit_same _ _ _ _ (by omega),
        State.bit_setBit_same _ _ _ _ (by omega)]
      rfl
    generalize (s.setBit (Reg.rndSLink x) (16 + 2 * g + d) false).setBit (Reg.rndSLink x) (2 * g + d) (!true) = u at hT hbits ⊢
    refine ⟨?_, Touches.eq_blend (hT.then u.settle_touches) (by decide)⟩
    rw [State.linkDown_congr (s := u) _ g d, hbits]
    rw [← rdOf_regs, u.settle_touches.regs_eq, rdOf_regs]
  case fails =>
    refine ⟨_, State.when_of _ _ (by simp [hon, hdown]), ?_⟩
    rw [if_neg Bool.false_ne_true]
    refine ⟨?_, ?_, ?_, fun a => ?_⟩
    · refine ((State.reads_event _ _ _ _ _ _ _ _ (q := Reg.rndSLink x) (by simp; omega)).2.2 _).trans ?_
      exact State.bit_setBit_same _ _ _ _ (by omega)
    · refine ((State.reads_event _ _ _ _ _ _ _ _ (q := Reg.rndSLink x) (by simp; omega)).2.2 _).trans ?_
      rw [State.bit_setBit_other _ _ _ _ _ (by omega) (by omega)]
      exact State.bit_setBit_same _ _ _ _ (by omega)
    · rw [State.event_rnd, State.setBit_rnd, State.setBit_rnd]
    · exact (State.event_byte ..).trans rfl

end Sys2Proof.Proofs
end

