-- ==== Sys2Proof/Proofs/Network.lean ====
section
set_option Elab.async false
/-!
PROOF. The logical ports' network duties and the Lodge (R367, R372–R374, R400, R401): O25.
-/
namespace Sys2Proof.Machine

@[simp] theorem State.netSend_netTx (s : State) (k : Nat) (x : NetTx) : SMap.find (s.netSend k x).vl.netTx k = some x := SMap.find_put_same ..

theorem State.netSend_frame (s : State) (k : Nat) (x : NetTx) : s.netSend k x = { s with vl := (s.netSend k x).vl } := (rfl)

/-- The DHCP address of port 0 is the Lodge's too. -/
theorem State.lodgeAddr_frame (s : State) (k ip : Nat) : s.lodgeAddr k ip = { s with regs := (s.lodgeAddr k ip).regs } := by
  unfold State.lodgeAddr
  split <;> rfl

theorem State.lodgeAddr_rd (s : State) (k ip : Nat) {q : Reg} (h : q.addr ≠ Reg.pmLodgeIp4.addr) : (s.lodgeAddr k ip).rd q = s.rd q := by
  unfold State.lodgeAddr
  split
  · exact State.rd_wr_ne _ _ h
  · rfl

theorem State.canWake_congr {s t : State} (hp : t.pw = s.pw) (hr : t.rd Reg.pmStat = s.rd Reg.pmStat) : t.canWake = s.canWake := by
  have hm : t.mode = s.mode := by rw [State.mode, State.mode, State.fld, State.fld, hp, hr]
  have hb : t.bit Reg.pmStat 12 = s.bit Reg.pmStat 12 := by rw [State.bit, State.bit, hr]
  rw [State.canWake, State.canWake, hp, hm, hb]

/-- The Lodge's answer sent, and counted. -/
def State.lodgeSent (s : State) (q : VReq) : State :=
  let s1 := s.count Reg.pmLodgeCnt 31 0 1
  { s1 with vl := { s1.vl with sent := SMap.put s1.vl.sent 0 (s.sentEnv (s.lodgeReply q)) } }

theorem State.lodgeSent_reads (s : State) (q : VReq) :
    (s.lodgeSent q).fld Reg.pmLodgeCnt 31 0 = min (2 ^ 32 - 1) (s.fld Reg.pmLodgeCnt 31 0 + 1) ∧
      SMap.find (s.lodgeSent q).vl.sent 0 = some (s.sentEnv (s.lodgeReply q)) ∧ (s.lodgeSent q).canWake = s.canWake ∧
      s.lodgeSent q = { s with regs := (s.lodgeSent q).regs, vl := (s.lodgeSent q).vl } := by
  have hcnt : (s.count Reg.pmLodgeCnt 31 0 1).rd Reg.pmStat = s.rd Reg.pmStat := State.rd_count_ne _ _ _ _ (by simp)
  have hfld := State.fld_count_same s Reg.pmLodgeCnt 31 0 1 (by decide) (by decide)
  obtain ⟨regs, hregs⟩ : ∃ regs, s.count Reg.pmLodgeCnt 31 0 1 = { s with regs := regs } := ⟨_, State.count_changes_regs_alone ..⟩
  rw [hregs] at hcnt hfld
  rw [State.lodgeSent, hregs]
  exact ⟨hfld, SMap.find_put_same .., State.canWake_congr rfl hcnt, rfl⟩

/-- MP activity wakes nothing in a mode that waits for no wake. -/
theorem State.mpActivity_awake (s : State) (h : s.canWake = false) : s.mpActivity = s := by
  rw [State.mpActivity, if_neg (by simp [h])]

end Sys2Proof.Machine

namespace Sys2Proof.Proofs
open Sys2Proof Sys2Proof.Machine

/-- A port's answers to the network, its lease and its link. -/
theorem portDuties (port : Fin 9) (s : State) :
    (∀ ip : Word, s.lpServing port = true → ip ≠ 0 → s.lpIp4 port = ip.toNat → ∃ t, exec (.arpRequest port ip) s = .next t ∧
      SMap.find t.vl.netTx port = some (.arp ip.toNat (s.lpMac port)) ∧ t = { s with vl := t.vl }) ∧
    (∀ ip : Word, s.lpIp4 port ≠ ip.toNat → exec (.arpRequest port ip) s = .next s) ∧
    (∀ ip : BitVec 128, s.lpServing port = true → (ip.toNat = linkLocal (s.lpMac port) ∨ (ip.toNat ≠ 0 ∧ s.lpIp6 port = ip.toNat)) →
      ∃ t, exec (.neighborSolicitation port ip) s = .next t ∧
        SMap.find t.vl.netTx port = some (.neighbour ip.toNat (s.lpMac port)) ∧ t = { s with vl := t.vl }) ∧
    (∀ v6 data, s.lpServing port = true → (v6 = true ∨ s.lpIp4 port ≠ 0) → ∃ t, exec (.icmpEcho port v6 data) s = .next t ∧
      SMap.find t.vl.netTx port = some (.echo v6 data) ∧ t = { s with vl := t.vl }) := by
  refine ⟨fun ip hserve hip hown => ?_, fun ip hother => ?_, fun ip hserve hown => ?_, fun v6 data hserve hown => ?_⟩
  · have hip' : ip.toNat ≠ 0 := fun h => hip (BitVec.eq_of_toNat_eq h)
    exact ⟨_, State.when_of _ _ (by simp only [hserve, hown, Bool.true_and, Bool.and_eq_true, decide_eq_true_eq]; exact ⟨hip', trivial⟩), s.netSend_netTx .., s.netSend_frame ..⟩
  · exact State.when_not _ _ (by simp [hother])
  · exact ⟨_, State.when_of _ _ (by simpa [hserve] using hown), s.netSend_netTx .., s.netSend_frame ..⟩
  · exact ⟨_, State.when_of _ _ (by simpa [hserve] using hown), s.netSend_netTx .., s.netSend_frame ..⟩

/-- Settles O25. -/
theorem networkAndLodge : Obligations.NetworkAndLodge := by
  refine ⟨fun port s => ?port, fun s hon hawake => ⟨fun f hport hto hint => ?request, fun ip hip hown => ?arp, fun ip hown => ?neighbour⟩⟩
  case port =>
    obtain ⟨harp, hother, hneigh, hecho⟩ := portDuties port s
    refine ⟨harp, hother, hneigh, hecho, fun ip hup hcfg => ?_, fun hon hlease => ⟨?_, ?_⟩, fun hon => ⟨?_, fun hex hcfg hok => ?_⟩⟩
    · refine ⟨_, State.when_of _ _ (by simp [hup, hcfg]), ?_, ?_, ?_⟩
      · rw [State.lodgeAddr_rd _ _ _ (by simp; omega), State.rd_wr_same, Nat.mod_eq_of_lt ip.isLt]
      · rw [State.lodgeAddr_frame, State.wr_vl]
        dsimp only
        split
        next h => simpa using h
        next => simp
      · rw [State.lodgeAddr_frame]
        rfl
    · exact ⟨_, (State.when_of _ _ (by simp [hon, hlease])).trans (congrArg _ (if_pos rfl)), s.netSend_netTx .., s.netSend_frame ..⟩
    · refine ⟨_, (State.when_of _ _ (by simp [hon, hlease])).trans (congrArg _ (if_neg Bool.false_ne_true)), ?_, ?_, fun a => ?_⟩
      · rw [State.lodgeAddr_frame, State.event_vl, State.wr_vl]
        simp
      · rw [State.lodgeAddr_rd _ _ _ (by simp; omega), State.event_rd_ne _ _ _ _ _ _ _ _ _ (by simp; omega), State.rd_wr_same]
        rfl
      · rw [State.lodgeAddr_frame]
        exact (State.event_byte ..).trans rfl
    · exact ⟨_, State.when_of _ _ (by simp [hon]), State.bit_setBit_same _ _ _ _ (by decide), rfl⟩
    · refine ⟨_, State.when_of _ _ ?_, State.bit_setBit_same _ _ _ _ (by decide), rfl⟩
      rcases hok with h0 | ⟨hdom, href⟩
      · simp only [hon, hex, hcfg, decide_eq_true h0, Bool.true_or, Bool.or_true, Bool.and_self]
      · simp only [hon, hex, hcfg, hdom, href, Bool.not_false, Bool.or_true, Bool.and_self]
  case request =>
    have hexec : exec (.lodgeRequest f) s = .next (s.lodgeSent (reqOf f)).mpActivity :=
      State.when_of _ _ (Bool.and_eq_true_iff.mpr ⟨by simp [hon, hport, hto], hint⟩)
    obtain ⟨hcnt, hsent, hwake, hframe⟩ := s.lodgeSent_reads (reqOf f)
    rw [State.mpActivity_awake _ (hwake.trans hawake)] at hexec
    exact ⟨_, hexec, hcnt, ⟨s.sentEnv (s.lodgeReply (reqOf f)), hsent, rfl, rfl, rfl, rfl, rfl, rfl⟩, hframe⟩
  case arp =>
    have hip' : ip.toNat ≠ 0 := fun h => hip (BitVec.eq_of_toNat_eq h)
    have hawake' : (s.netSend 0 (.arp ip.toNat (s.lpMac 0))).canWake = false := hawake
    refine ⟨_, State.when_of _ _ (by simp only [hon, hown, Bool.true_and, Bool.and_eq_true, decide_eq_true_eq]; exact ⟨hip', trivial⟩), ?_⟩
    rw [State.mpActivity_awake _ hawake']
    exact ⟨s.netSend_netTx .., s.netSend_frame ..⟩
  case neighbour =>
    have hawake' : (s.netSend 0 (.neighbour ip.toNat (s.lpMac 0))).canWake = false := hawake
    refine ⟨_, State.when_of _ _ (by simp [hon, hown]), ?_⟩
    rw [State.mpActivity_awake _ hawake']
    exact ⟨s.netSend_netTx .., s.netSend_frame ..⟩

end Sys2Proof.Proofs
end

