-- ==== Sys2Proof/Proofs/Scratchpads.lean ====
section
set_option Elab.async false
/-!
PROOF. Domains that wake, and the scratchpad banks (R46, R361, R480–R485): O44.
-/
namespace Sys2Proof.Machine

/-! ### Domains that wake (R46, R361) -/

/-- A delivery to a domain that no request is held for reaches the Rounds alone. -/
theorem State.prDeliver_none (s : State) (d : Nat) (h : ∀ x ∈ s.rnd.pr, x.dom ≠ d) : Touches [.rnd] s (s.prDeliver d) := by
  have hmine : s.rnd.pr.filter (fun x => x.dom = d) = [] := by
    rw [List.filter_eq_nil_iff]
    exact fun x hx => by simpa using h x hx
  have hrel : Touches [.rnd] s (s.prRelease d State.serveReq) := by
    unfold State.prRelease
    simp only [hmine, State.each_nil]
    exact Touches.refl.then .setRnd
  unfold State.prDeliver
  exact .ite (hrel.then (State.resumeAll_touches ..)) Touches.refl

theorem State.dom_congr {s t : State} (h : t.pw = s.pw) (d : Nat) : t.dom d = s.dom d := by
  unfold State.dom
  rw [h]

theorem State.domOn_congr {s t : State} (h : t.pw = s.pw) (d : Nat) : t.domOn d = s.domOn d := by
  unfold State.domOn
  rw [State.dom_congr h]

/-- A domain that is off starts its row when its parents are on and it has not failed. -/
theorem State.domWake1_starts (s : State) (d : Nat) (hoff : (s.dom d).ph = 0) (hpar : s.allOn (domParents d) = true)
    (hok : s.domFailed d = false) : s.domWake1 d = (s.setDom d { ph := 1, attempts := 1 }).setFld Reg.pmWakeStat 9 8 1 := by
  simp only [State.domWake1, if_pos hoff, hpar, hok]
  rfl

theorem domParents_sp (b : Fin 16) : domParents (domSp b) = [domHub] := by
  revert b
  decide

/-- No domain lies behind a scratchpad bank. -/
theorem domParents_not_sp (d : Nat) (b : Fin 16) : (domParents d).contains (domSp b) = false := by
  have hb := b.isLt
  have hlow : ∀ x ∈ domParents d, x < 0x400 := by
    unfold domParents
    split_ifs with h8 h16 hhub hbay
    all_goals simp [domRnd, domEdge, domTile, domHub]
    · omega
    · omega
    · simp only [isBayDom, Bool.and_eq_true, decide_eq_true_eq] at hbay
      omega
  rw [List.contains_eq_mem, decide_eq_false_iff_not]
  intro hmem
  have := hlow _ hmem
  simp only [domSp] at this
  omega

theorem State.domWake_sp (s : State) (b : Fin 16) : s.domWake (domSp b) = s.domWake1 (domSp b) := by
  rw [State.domWake, domParents_sp]
  rfl

theorem State.domUp_sp (s : State) (b : Fin 16) : s.domUp (domSp b) = s.setDom (domSp b) { ph := 2 } := by
  have hb := b.isLt
  unfold State.domUp
  dsimp only
  rw [if_neg (by simp [domSp]; omega)]
  have hnone : ∀ l : SMap DomSt, List.filter (fun e => decide (e.2.ph = 0) && e.2.wanted && (domParents e.1).contains (domSp b)) l = [] :=
    fun l => by
      rw [List.filter_eq_nil_iff]
      exact fun e _ => by rw [domParents_not_sp, Bool.and_false]; exact Bool.false_ne_true
  rw [hnone]
  rfl

/-! ### The power states of a bank (R482) -/

theorem isSpDom_domSp (b : Fin 16) : isSpDom (domSp b) = true := by
  revert b
  decide

theorem not_isBayDom {d : Nat} (h : 0x400 ≤ d) : isBayDom d = false := by
  simp only [isBayDom, Bool.and_eq_false_iff, decide_eq_false_iff_not]
  omega

theorem regInDom_high {d : Nat} (h : 0x400 ≤ d) (a : Nat) : regInDom d a = false := by
  unfold regInDom
  rw [if_neg (by omega), if_neg (by omega), if_neg (by omega), if_neg (by omega), if_neg (by unfold domRnd; omega),
    if_neg (by unfold domHub; omega), not_isBayDom h, if_neg Bool.false_ne_true]

theorem State.resetRegs_high (s : State) {d : Nat} (h : 0x400 ≤ d) : s.resetRegs d = s := by
  have hreset : ∀ l : SMap Word, l.filter (fun e => !regInDom d e.1) = l := fun l => by
    rw [List.filter_eq_self]
    exact fun e _ => by rw [regInDom_high h]; rfl
  unfold State.resetRegs
  rw [hreset, hreset]

/-- A bank that loses its contents reads zeros, and its registers stay. -/
theorem State.spLost_reads (s : State) (b : Fin 16) : (s.spLost b).regs = s.regs ∧
    ∀ a, spBase b ≤ a → a < spBase b + 0x800000 → (s.spLost b).byte a = 0 := by
  have hd : 0x400 ≤ domSp b := Nat.le_add_right ..
  have hix : domSp b - 0x400 = b := Nat.add_sub_cancel_left ..
  have hlost : (s.spLost b).regs = s.regs ∧
      (s.spLost b).mem = (s.blankRange (0x10000000 + b * 0x800000) (0x10000000 + (b + 1) * 0x800000)).mem := by
    unfold State.spLost State.domLost
    rw [not_isBayDom hd, isSpDom_domSp, hix]
    generalize domSp b = d at hd
    dsimp only
    rw [State.resetRegs_high _ hd, if_neg (by omega), if_neg (by omega), if_neg (by omega), if_neg (by omega),
      if_neg (by unfold domHost; omega), if_neg (by unfold domHub; omega), if_neg (by unfold domRnd; omega), if_neg Bool.false_ne_true,
      if_pos rfl]
    exact ⟨rfl, rfl⟩
  refine ⟨hlost.1, fun a hlo hhi => ?_⟩
  rw [State.byte, hlost.2]
  refine (s.byte_blankRange _ _ a).trans ?_
  unfold spBase at hlo hhi
  have hb := b.isLt
  rw [if_pos (by omega), blankByte, if_neg (by omega)]

theorem State.domStay_sp (s : State) (b : Fin 16) :
    s.domStay (domSp b) = ((s.setDom (domSp b) { ph := 2 }).setFld (Reg.spBStat b) 25 24 2).setFld (Reg.spBCtrl b) 25 24 2 := by
  have hix : domSp b - 0x400 = b := Nat.add_sub_cancel_left ..
  unfold State.domStay
  rw [isSpDom_domSp, hix]
  exact if_pos rfl

/-- The wake of a bank leaves its STATE at 2. -/
theorem State.domWake_ctrl (s : State) (b : Fin 16) (h : s.fld (Reg.spBCtrl b) 25 24 = 2) :
    (s.domWake (domSp b)).fld (Reg.spBCtrl b) 25 24 = 2 := by
  rw [State.domWake_sp, State.domWake1]
  split
  · split
    · rw [State.fld_setFld_ne _ _ _ _ _ _ (by simp; omega), State.setDom_fld_ne _ _ _ _ _ _ (by simp; omega), h]
    · rw [State.setDom_fld_ne _ _ _ _ _ _ (by simp; omega), h]
  · split
    · rw [State.domStay_sp, State.fld_setFld_same _ _ _ _ _ (by decide) (by decide)]
      rfl
    · exact h

theorem State.domFailed_sp (s : State) (b : Fin 16) : s.domFailed (domSp b) = s.bit (Reg.spBStat b) 31 := by
  have hix : domSp b - 0x400 = b := Nat.add_sub_cancel_left ..
  have hself : s.domFailBit (domSp b) = s.bit (Reg.spBStat b) 31 := by
    rw [State.domFailBit, not_isBayDom (d := domSp b) (Nat.le_add_right ..), isSpDom_domSp, hix]
    rfl
  have hhub : s.domFailBit domHub = false := rfl
  rw [State.domFailed, domParents_sp, hself]
  simp [hhub]

/-- What a write of STATE by a bank's master does (R482). -/
theorem State.spState_reads (s : State) (b : Fin 16) (v : Fin 4) (hon : s.hubOn = true) :
    (s.spState b v).fld (Reg.spBCtrl b) 25 24 = (if v.val = 3 then 2 else v.val) ∧
    ((s.dom (domSp b)).ph = 2 → v.val < 2 → ((s.spState b v).dom (domSp b)).ph = 3 ∧ (s.spState b v).fld (Reg.spBStat b) 25 24 = 3) ∧
    (2 ≤ v.val → (s.dom (domSp b)).ph = 0 → s.domFailed (domSp b) = false → ((s.spState b v).dom (domSp b)).ph = 1) ∧
    ((s.dom (domSp b)).ph = 0 → v.val = 0 → s.spPower b = 1 → (s.spState b v).spPower b = 0 ∧
      ∀ a, spBase b ≤ a → a < spBase b + 0x800000 → (s.spState b v).byte a = 0) := by
  generalize hst : (if v.val = 3 then 2 else v.val) = st
  have hstlt : st < 3 := by
    have := v.isLt
    rw [← hst]
    split <;> omega
  have hv2 : v.val < 2 ↔ st < 2 := by
    rw [← hst]
    split <;> omega
  have hv0 : v.val = 0 → st = 0 := fun h => by rw [← hst, h]; rfl
  have hctrl : (s.setFld (Reg.spBCtrl b) 25 24 st).fld (Reg.spBCtrl b) 25 24 = st := by
    rw [State.fld_setFld_same _ _ _ _ _ (by decide) (by decide)]
    exact Nat.mod_eq_of_lt (by omega)
  have hdom : (s.setFld (Reg.spBCtrl b) 25 24 st).dom (domSp b) = s.dom (domSp b) := State.dom_congr (State.setFld_pw ..) _
  have heq : s.spState b v = (if st = 2 then
        (if (s.dom (domSp b)).ph = 2 then s.setFld (Reg.spBCtrl b) 25 24 st else (s.setFld (Reg.spBCtrl b) 25 24 st).domWake (domSp b))
      else if (s.dom (domSp b)).ph = 2 then (s.setFld (Reg.spBCtrl b) 25 24 st).spDown b
      else if (s.dom (domSp b)).ph = 0 && st = 0 && s.spPower b = 1 then ((s.setFld (Reg.spBCtrl b) 25 24 st).setPower b 0).spLost b
      else s.setFld (Reg.spBCtrl b) 25 24 st) := by
    rw [← hst]
    rfl
  rw [heq]
  clear heq hst
  by_cases h2 : st = 2
  · rw [if_pos h2]
    have hnot : ¬ v.val < 2 := by omega
    by_cases hph : (s.dom (domSp b)).ph = 2
    · rw [if_pos hph]
      exact ⟨hctrl, fun _ h => absurd h hnot, fun _ h => by omega, fun h => by omega⟩
    · rw [if_neg hph]
      refine ⟨?_, fun h => absurd h hph, fun _ hoff hok => ?_, fun _ h => by omega⟩
      · rw [h2]
        exact State.domWake_ctrl _ _ (by rw [← h2]; exact hctrl)
      · rw [State.domWake_sp, State.domWake1_starts]
        · rw [State.dom_congr (State.setFld_pw ..), State.dom_setDom_same]
        · rw [hdom, hoff]
        · simp only [domParents_sp, State.allOn, List.all_cons, List.all_nil, Bool.and_true]
          rw [State.domOn_congr (State.setFld_pw ..)]
          exact hon
        · rw [State.domFailed_sp, State.bit_setFld_ne _ _ _ _ _ (by simp), ← State.domFailed_sp, hok]
  · rw [if_neg h2]
    have hlt : st < 2 := by omega
    by_cases hph : (s.dom (domSp b)).ph = 2
    · rw [if_pos hph, State.spDown, if_pos (by rw [hdom]; exact hph)]
      refine ⟨?_, fun _ _ => ⟨?_, ?_⟩, fun h => absurd (hv2.mpr hlt) (by omega), fun h => by omega⟩
      · rw [State.setPower, State.fld_setFld_ne _ _ _ _ _ _ (by simp), State.setDom_fld_ne _ _ _ _ _ _ (by simp; omega), hctrl]
      · rw [State.setPower, State.dom_congr (State.setFld_pw ..), State.dom_setDom_same]
      · rw [State.setPower, State.fld_setFld_same _ _ _ _ _ (by decide) (by decide)]
        rfl
    · rw [if_neg hph]
      have hspLost := (((s.setFld (Reg.spBCtrl b) 25 24 st).setPower b 0)).spLost_reads b
      by_cases hoff : (decide ((s.dom (domSp b)).ph = 0) && decide (st = 0) && decide (s.spPower b = 1)) = true
      · rw [if_pos hoff]
        refine ⟨?_, fun h => absurd h hph, fun h => absurd (hv2.mpr hlt) (by omega), fun _ _ _ => ⟨?_, hspLost.2⟩⟩
        · rw [State.fld_of_regs hspLost.1, State.setPower, State.fld_setFld_ne _ _ _ _ _ _ (by simp), hctrl]
        · rw [State.spPower, State.fld_of_regs hspLost.1, State.setPower, State.fld_setFld_same _ _ _ _ _ (by decide) (by decide)]
          rfl
      · rw [if_neg hoff]
        refine ⟨hctrl, fun h => absurd h hph, fun h => absurd (hv2.mpr hlt) (by omega), fun hp0 hz h1 => absurd ?_ hoff⟩
        simp [hp0, hv0 hz, h1]

/-- A bank that has been filled is on. -/
theorem State.spUp_reads (s : State) (b : Fin 16) : (s.spUp b).domOn (domSp b) = true ∧ (s.spUp b).spPower b = 2 ∧
    (s.spUp b).fld (Reg.spBCtrl b) 25 24 = 2 ∧ (s.spUp b).bit (Reg.spBStat b) 29 = s.bit (Reg.spBStat b) 29 ∧ (s.spUp b).rnd = s.rnd := by
  unfold State.spUp State.setPower
  rw [State.domUp_sp]
  refine ⟨?_, ?_, ?_, ?_, ?_⟩
  · rw [State.domOn, State.dom_congr (State.setFld_pw ..), State.dom_congr (State.setFld_pw ..), State.dom_setDom_same]
    rfl
  · rw [State.spPower, State.fld_setFld_ne _ _ _ _ _ _ (by simp), State.fld_setFld_same _ _ _ _ _ (by decide) (by decide)]
    rfl
  · rw [State.fld_setFld_same _ _ _ _ _ (by decide) (by decide)]
    rfl
  · rw [State.bit_setFld_ne _ _ _ _ _ (by simp), State.bit_setFld_other _ _ _ _ _ _ (by decide) (by decide) (by decide),
      State.setDom_bit_ne _ _ _ _ _ (by simp; omega)]
  · rw [State.setFld_rnd, State.setFld_rnd, State.setDom_rnd]

/-! ### The patrol (R485) -/

/-- One word found with a double-bit error. -/
theorem State.spUe_reads (s : State) (b : Fin 16) (a : Nat) (h : a < spBase b + 0x800000) :
    (s.spUe b a).fld (Reg.spBEcc b) 15 0 = satAdd 65535 (s.fld (Reg.spBEcc b) 15 0) 1 ∧
      (s.spUe b a).fld (Reg.spBEcc b) 31 16 = s.fld (Reg.spBEcc b) 31 16 ∧
      (s.spUe b a).rd (Reg.spBErraddr b) = 2 ^ 31 + (a - spBase b) / 8 * 8 ∧ (s.spUe b a).sp = s.sp ∧
      ∀ x, (s.spUe b a).byte x = s.byte x := by
  have hcnt := State.fld_count_same s (Reg.spBEcc b) 15 0 1 (by decide) (by decide)
  have hother := (s.reads_fld_other (Reg.spBEcc b) (hi := 15) (lo := 0) (hi' := 31) (lo' := 16) (by decide) (by decide) (by decide)).2 1
  have hsp := State.count_sp s (Reg.spBEcc b) 15 0 1
  have hbyte := State.count_byte s (Reg.spBEcc b) 15 0 1
  unfold State.spUe
  generalize s.count (Reg.spBEcc b) 15 0 1 = u at hcnt hother hsp hbyte ⊢
  refine ⟨?_, ?_, ?_, ?_, fun x => ?_⟩
  · rw [State.event_fld_ne _ _ _ _ _ _ _ _ _ _ _ (by simp; omega), State.fld_wr_ne _ _ _ _ (by simp), hcnt]
    rfl
  · rw [State.event_fld_ne _ _ _ _ _ _ _ _ _ _ _ (by simp; omega), State.fld_wr_ne _ _ _ _ (by simp), hother]
  · rw [State.event_rd_ne _ _ _ _ _ _ _ _ _ (by simp; omega), State.rd_wr_same]
    exact Nat.mod_eq_of_lt (by omega)
  · rw [State.event_sp, State.wr_sp, hsp]
  · exact (State.event_byte ..).trans ((State.wr_byte ..).trans (hbyte x))

theorem satAdd_satAdd (l a n m : Nat) : satAdd l (satAdd l a n) m = satAdd l a (n + m) := by
  unfold satAdd
  omega

/-- The corrected words counted, and the bad ones recorded. -/
def State.patrolCounted (s : State) (b corrected : Nat) (os : List Nat) : State :=
  let s1 := s.count (Reg.spBEcc b) 31 16 corrected
  { s1 with sp := { s1.sp with bad := (s1.sp.bad ++ os.map (fun o => spBase b + o / 8 * 8)).dedup } }

theorem State.patrolCounted_reads (s : State) (b : Fin 16) (corrected : Nat) (os : List Nat) :
    (s.patrolCounted b corrected os).fld (Reg.spBEcc b) 31 16 = satAdd 65535 (s.fld (Reg.spBEcc b) 31 16) corrected ∧
      (s.patrolCounted b corrected os).fld (Reg.spBEcc b) 15 0 = s.fld (Reg.spBEcc b) 15 0 ∧
      (∀ o ∈ os, spBase b + o / 8 * 8 ∈ (s.patrolCounted b corrected os).sp.bad) ∧
      ∀ a, (s.patrolCounted b corrected os).byte a = s.byte a := by
  have hcnt := State.fld_count_same s (Reg.spBEcc b) 31 16 corrected (by decide) (by decide)
  have hother := (s.reads_fld_other (Reg.spBEcc b) (hi := 31) (lo := 16) (hi' := 15) (lo' := 0) (by decide) (by decide) (by decide)).2 corrected
  obtain ⟨regs, hregs⟩ : ∃ regs, s.count (Reg.spBEcc b) 31 16 corrected = { s with regs := regs } := ⟨_, State.count_changes_regs_alone ..⟩
  rw [hregs] at hcnt hother
  rw [State.patrolCounted, hregs]
  exact ⟨hcnt, hother, fun o ho => List.mem_dedup.mpr (List.mem_append_right _ (List.mem_map.mpr ⟨o, ho, rfl⟩)), fun _ => rfl⟩

/-- The words found with double-bit errors, one after the other. -/
theorem State.each_spUe (b : Fin 16) (os : List Nat) (s : State) (h : ∀ o ∈ os, o < 0x800000) :
    (s.each (os.map (fun o => spBase b + o / 8 * 8)) (fun t a => t.spUe b a)).fld (Reg.spBEcc b) 15 0 =
        satAdd 65535 (s.fld (Reg.spBEcc b) 15 0) os.length ∧
      (s.each (os.map (fun o => spBase b + o / 8 * 8)) (fun t a => t.spUe b a)).fld (Reg.spBEcc b) 31 16 = s.fld (Reg.spBEcc b) 31 16 ∧
      (∀ o, os.getLast? = some o →
        (s.each (os.map (fun o => spBase b + o / 8 * 8)) (fun t a => t.spUe b a)).rd (Reg.spBErraddr b) = 2 ^ 31 + o / 8 * 8) ∧
      (s.each (os.map (fun o => spBase b + o / 8 * 8)) (fun t a => t.spUe b a)).sp = s.sp ∧
      ∀ x, (s.each (os.map (fun o => spBase b + o / 8 * 8)) (fun t a => t.spUe b a)).byte x = s.byte x := by
  induction os generalizing s with
  | nil =>
    refine ⟨?_, rfl, (fun o ho => by cases ho), rfl, fun _ => rfl⟩
    have := State.fld_lt s (Reg.spBEcc b) 15 0
    simp only [satAdd, List.length_nil, List.map_nil, State.each_nil] at this ⊢
    omega
  | cons o os ih =>
    have ho : spBase b + o / 8 * 8 < spBase b + 0x800000 := by
      have := h o List.mem_cons_self
      omega
    obtain ⟨hdouble, hsingle, haddr, hsp, hbyte⟩ := s.spUe_reads b (spBase b + o / 8 * 8) ho
    obtain ⟨hdouble', hsingle', haddr', hsp', hbyte'⟩ := ih (s.spUe b (spBase b + o / 8 * 8)) (fun x hx => h x (List.mem_cons_of_mem _ hx))
    simp only [List.map_cons, State.each_cons]
    refine ⟨?_, hsingle'.trans hsingle, fun x hx => ?_, hsp'.trans hsp, fun x => (hbyte' x).trans (hbyte x)⟩
    · rw [hdouble', hdouble, satAdd_satAdd, List.length_cons, Nat.add_comm]
    · cases os with
      | nil =>
        obtain rfl : o = x := by simpa using hx
        rw [List.map_nil, State.each_nil, haddr]
        omega
      | cons y ys => exact haddr' x (by rw [← hx, List.getLast?_cons_cons])

end Sys2Proof.Machine

namespace Sys2Proof.Proofs
open Sys2Proof Sys2Proof.Machine

/-- A write without effect sets FOREIGN alone. -/
theorem spForeign_effect (s : State) (b : Nat) : (s.spForeign b).bit (Reg.spBStat b) 30 = true ∧
    (∀ q : Reg, q.addr ≠ (Reg.spBStat b).addr → (s.spForeign b).rd q = s.rd q) ∧ s.spForeign b = { s with regs := (s.spForeign b).regs } :=
  ⟨State.bit_setBit_same _ _ _ _ (by decide), fun _ hq => State.rd_setBit_ne _ _ _ hq, rfl⟩

theorem scratchpadHandover_effect (b : Fin 16) (mid owner : Byte) (s : State) (hon : s.hubOn = true) :
    (s.spOwner b = 0xFF → ∃ t, exec (.scratchpadHandover b mid owner) s = .next t ∧ t.spOwner b = owner.toNat ∧
      (∀ q : Reg, q.addr ≠ (Reg.spBCtrl b).addr → t.rd q = s.rd q) ∧ t = { s with regs := t.regs }) ∧
    (s.spOwner b ≠ 0xFF → mid.toNat = s.spOwner b ∨ mid.toNat = 0x30 → ∃ t, exec (.scratchpadHandover b mid owner) s = .next t ∧
      t.bit (Reg.spBStat b) 28 = true ∧ t.spOwner b = s.spOwner b ∧ SMap.find t.sp.handing b = some owner.toNat) ∧
    (s.spOwner b ≠ 0xFF → mid.toNat ≠ s.spOwner b → mid.toNat ≠ 0x30 → ∃ t, exec (.scratchpadHandover b mid owner) s = .next t ∧
      t.bit (Reg.spBStat b) 30 = true ∧ t.spOwner b = s.spOwner b ∧ t = { s with regs := t.regs }) := by
  refine ⟨fun hfree => ?_, fun howned hmine => ?_, fun howned hother hdbg => ?_⟩
  · refine ⟨_, (State.when_of _ _ hon).trans (congrArg _ (if_pos hfree)), ?_, fun q hq => State.rd_setFld_ne _ _ _ _ hq, rfl⟩
    rw [State.spOwner, State.fld_setFld_same _ _ _ _ _ (by decide) (by decide)]
    exact Nat.mod_eq_of_lt owner.isLt
  · refine ⟨_, (State.when_of _ _ hon).trans (congrArg _ ((if_neg howned).trans (if_pos (by simpa using hmine)))),
      State.bit_setBit_same _ _ _ _ (by decide), ?_, ?_⟩
    · exact State.fld_setBit_ne _ _ _ _ _ (by simp)
    · rw [State.setBit_sp]
      exact SMap.find_put_same ..
  · refine ⟨_, (State.when_of _ _ hon).trans (congrArg _ ((if_neg howned).trans (if_neg (by simp [hother, hdbg])))),
      (spForeign_effect s b).1, ?_, (spForeign_effect s b).2.2⟩
    exact State.fld_setBit_ne _ _ _ _ _ (by simp)

/-- Settles O44. -/
theorem scratchpadBanks : Obligations.ScratchpadBanks := by
  intro b s hon
  refine ⟨fun mid st => ⟨fun hbad => ?foreign, fun hmine hfree => ?state⟩, fun mid owner => scratchpadHandover_effect b mid owner s hon,
    fun o ho => ?handed, fun hzero hpr => ?filled, fun corrected double hbank hpatrol => ?patrol⟩
  case foreign =>
    refine ⟨_, (State.when_of _ _ hon).trans (congrArg _ (if_pos ?_)), spForeign_effect s b⟩
    rcases hbad with ⟨h1, h2⟩ | h
    · simp [h1, h2]
    · simp [h]
  case state =>
    have hacc : ¬ ((decide (mid.toNat ≠ s.spOwner b) && decide (mid.toNat ≠ 0x30) || (SMap.find s.sp.handing b).isSome) = true) := by
      rcases hmine with h | h <;> simp [h, hfree]
    obtain ⟨hctrl, hdown, hup, hlost⟩ := s.spState_reads b st hon
    refine ⟨_, (State.when_of _ _ hon).trans (congrArg _ (if_neg hacc)), hctrl, hdown, hup, fun hp0 hz h1 => ?_⟩
    obtain ⟨hpower, hbyte⟩ := hlost hp0 hz h1
    refine ⟨hpower, fun a hlo hhi => hbyte a ?_ ?_⟩
    · unfold spBase
      omega
    · unfold spBase
      omega
  case handed =>
    have hexec : exec (.scratchpadHandoverComplete b) s = s.when s.hubOn
        (({ s with sp := { s.sp with handing := SMap.erase s.sp.handing b } }.setBit (Reg.spBStat b) 28 false).setFld (Reg.spBCtrl b) 15 8 o) := by
      change execScratchpadHandoverComplete b s = _
      rw [execScratchpadHandoverComplete, ho]
    refine ⟨_, hexec.trans (State.when_of _ _ hon), ?_, ?_, ?_⟩
    · exact State.fld_setFld_same _ _ _ _ _ (by decide) (by decide)
    · rw [State.bit_setFld_ne _ _ _ _ _ (by simp)]
      exact State.bit_setBit_same _ _ _ _ (by decide)
    · rw [State.setFld_sp, State.setBit_sp]
      exact SMap.find_erase_same ..
  case filled =>
    refine ⟨_, State.when_of _ _ (by simp [hon, hzero]), ?_⟩
    obtain ⟨hdom, hpower, hctrl, hbit, hrnd⟩ := (s.setBit (Reg.spBStat b) 29 false).spUp_reads b
    rw [State.bit_setBit_same _ _ _ _ (by decide)] at hbit
    rw [State.setBit_rnd] at hrnd
    generalize (s.setBit (Reg.spBStat b) 29 false).spUp b = u at hdom hpower hctrl hbit hrnd ⊢
    have hT := u.prDeliver_none (domSp b) (by rw [hrnd]; exact hpr)
    refine ⟨(State.domOn_congr hT.pw_eq _).trans hdom, ?_, ?_, ?_⟩
    · exact (State.fld_of_regs hT.regs_eq ..).trans hpower
    · exact (State.fld_of_regs hT.regs_eq ..).trans hctrl
    · rw [State.bit, ← rdOf_regs, hT.regs_eq]
      exact hbit
  case patrol =>
    have hexec : exec (.scratchpadPatrol b corrected double) s = .next
        ((s.patrolCounted b corrected (double.filter (fun o => decide (o < 0x800000)))).each
          ((double.filter (fun o => decide (o < 0x800000))).map (fun o => spBase b + o / 8 * 8)) (fun t a => t.spUe b a)) :=
      State.when_of _ _ (by simp [hon, hbank, hpatrol])
    obtain ⟨hcnt, hother, hbad, hbyte⟩ := s.patrolCounted_reads b corrected (double.filter (fun o => decide (o < 0x800000)))
    obtain ⟨hdouble, hsingle, haddr, hsp, hbytes⟩ := State.each_spUe b (double.filter (fun o => decide (o < 0x800000)))
      (s.patrolCounted b corrected (double.filter (fun o => decide (o < 0x800000)))) (fun o ho => by simpa using (List.mem_filter.mp ho).2)
    refine ⟨_, hexec, hsingle.trans hcnt, hdouble.trans (congrArg (satAdd 65535 · _) hother), haddr, fun o ho hlt => ?_,
      fun a => (hbytes a).trans (hbyte a)⟩
    rw [hsp]
    exact hbad o (List.mem_filter.mpr ⟨ho, by simpa using hlt⟩)

end Sys2Proof.Proofs
end

