-- ==== Sys2Proof/Proofs/PageStore.lean ====
section
set_option Elab.async false
/-!
PROOF. The page store: what keeps its allocation, the Page Map's invalidation, limit and compaction (R184–R188): O48.
-/
namespace Sys2Proof.Machine

/-! ### What leaves the extents as they are -/

theorem Touches.pmAlloc_eq {P : List Part} {s t : State} (h : Touches P s t) (hP : Part.alloc ∉ P := by decide) : t.so.pmAlloc = s.so.pmAlloc := by
  simpa [State.mask, keepOr, hP] using congrArg (fun u => u.so.pmAlloc) h.mask

theorem State.compactDone_pmAlloc (s : State) (r : Nat) (saved : Bool) : (s.compactDone r saved).so.pmAlloc = s.so.pmAlloc := by
  unfold State.compactDone
  extract_lets +onlyGivenNames mine rest
  refine State.each_keeps (fun u => u.so.pmAlloc = s.so.pmAlloc) _ _ _ (fun u e _ hu => ?_) rfl
  dsimp only
  split_ifs <;> exact hu

theorem State.runFault_pmAlloc (s : State) (r : Nat) : (s.runFault r).so.pmAlloc = s.so.pmAlloc := by
  unfold State.runFault
  extract_lets +onlyGivenNames x
  have hkeep : ∀ u : State, u.so.pmAlloc = s.so.pmAlloc →
      (((u.tktEnd? x.curTkt 3 stIntegrity).giveUp r).compactDone r false |>.stepDrop r stIntegrity).so.pmAlloc = s.so.pmAlloc := fun u hu => by
    rw [(State.stepDrop_touches ..).pmAlloc_eq, State.compactDone_pmAlloc, (State.giveUp_touches ..).pmAlloc_eq, (State.tktEnd?_touches ..).pmAlloc_eq]
    exact hu
  split
  · rfl
  · split
    · rw [(State.modeQueue_touches ..).pmAlloc_eq]
      exact hkeep _ rfl
    · exact hkeep _ rfl

theorem State.pmFail_pmAlloc (s : State) (h run : Nat) : (s.pmFail h run).so.pmAlloc = s.so.pmAlloc := by
  unfold State.pmFail
  extract_lets +onlyGivenNames t
  have ht : t.so.pmAlloc = s.so.pmAlloc :=
    ((Touches.refl.then (State.count_part .regs s _ _ _ _ rfl)).then (State.event_touches ..) : Touches [.evr, .regs, .ev] s t).pmAlloc_eq
  clear_value t
  exact State.each_keeps (fun u => u.so.pmAlloc = s.so.pmAlloc) _ _ _ (fun u r _ hu => (u.runFault_pmAlloc r).trans hu) ht

theorem State.pmGet_pmAlloc (s : State) (h run : Nat) : (s.pmGet h run).1.so.pmAlloc = s.so.pmAlloc := by
  unfold State.pmGet
  split
  · rfl
  · extract_lets +onlyGivenNames g s1 e
    have hs1 : s1.so.pmAlloc = s.so.pmAlloc := by
      rw [(State.count_part .regs g.st Reg.soPmMiss 31 0 1 rfl : Touches [.regs] g.st s1).pmAlloc_eq]
      exact (State.dramRead_touches s (pmAddr h) 16 0x20 : Touches _ s g.st).pmAlloc_eq
    clear_value s1
    split
    · exact (State.cachePut_touches ..).pmAlloc_eq.trans hs1
    · exact (State.pmFail_pmAlloc ..).trans ((State.cachePut_touches ..).pmAlloc_eq.trans hs1)

theorem State.nextMove_pmAlloc (s : State) (m : Nat) : (s.nextMove m).1.so.pmAlloc = s.so.pmAlloc := by
  unfold State.nextMove
  extract_lets +onlyGivenNames xs ys
  have hkeep : ∀ (vs : List CompMove) (acc : State × Option CompMove), acc.1.so.pmAlloc = s.so.pmAlloc →
      (vs.foldl (fun (acc : State × Option CompMove) v =>
        if acc.2.isSome then acc
        else
          let (t, e) := acc.1.pmGet v.handle noRun
          (t, if e.stat = 1 then some v else none)) acc).1.so.pmAlloc = s.so.pmAlloc := fun vs => by
    induction vs with
    | nil => exact fun _ h => h
    | cons v vs ih =>
      intro acc hacc
      rw [List.foldl_cons]
      refine ih _ ?_
      split
      · exact hacc
      · exact (State.pmGet_pmAlloc ..).trans hacc
  exact hkeep ys _ rfl

theorem State.compStep_pmAlloc (s : State) (m : Nat) : (s.compStep m).so.pmAlloc = s.so.pmAlloc := by
  have hnext := s.nextMove_pmAlloc m
  unfold State.compStep
  split
  next t v ht =>
    rw [ht] at hnext
    have hget := t.pmGet_pmAlloc v.handle noRun
    exact (State.pmPut_touches ..).pmAlloc_eq.trans (hget.trans hnext)
  next t ht =>
    rw [ht] at hnext
    exact hnext

/-! ### A move of the compaction (R188) -/

theorem State.compMoved_fk (s : State) (m : Nat) (v : CompMove) : (s.compMoved m v).fk = s.fk := (State.compMoved_touches ..).fk_eq

/-- An object that is still allocated and MOVING gets its new extent. -/
theorem State.compMoved_moving (s : State) (m : Nat) (v : CompMove) (hst : (s.pmGet v.handle noRun).2.stat = 2)
    (hin : (SMap.find s.so.pmAlloc v.handle).isSome = true) :
    SMap.find (s.compMoved m v).so.pmAlloc v.handle = some (m, v.granule, (s.pmGet v.handle noRun).2.len) := by
  unfold State.compMoved
  dsimp only
  rw [if_pos (by simp [hst, hin]), State.compStep_pmAlloc, (State.pmPut_touches ..).pmAlloc_eq]
  exact SMap.find_put_same ..

/-- Another object's extent stays, and so does every other one. -/
theorem State.compMoved_still (s : State) (m : Nat) (v : CompMove) (hst : (s.pmGet v.handle noRun).2.stat ≠ 2) :
    (s.compMoved m v).so.pmAlloc = s.so.pmAlloc := by
  unfold State.compMoved
  dsimp only
  rw [if_neg (by simp [hst]), State.compStep_pmAlloc, State.pmGet_pmAlloc]

end Sys2Proof.Machine

namespace Sys2Proof.Proofs
open Sys2Proof Sys2Proof.Machine

/-- The end of a move for which no load waits. -/
theorem compactionMoveComplete_next (s : State) (m : Tile) (v : CompMove) (hon : s.hubOn = true) (hv : SMap.find s.so.comp m = some v)
    (hloads : ∀ e ∈ s.fk.loads, e.2.reserved = true) : exec (.compactionMoveComplete m) s = .next (s.compMoved m v) := by
  change execCompactionMoveComplete m s = _
  rw [execCompactionMoveComplete]
  dsimp only
  rw [hv]
  dsimp only
  rw [State.when_of _ _ hon, State.compMoved_fk]
  have hnone : ∀ p : Nat × Load → Bool, s.fk.loads.filter (fun e => e.2.hdrOk && !e.2.reserved && p e) = [] := fun p => by
    rw [List.filter_eq_nil_iff]
    intro e he
    rw [hloads e he]
    simp
  rw [hnone, List.map_nil, State.each_nil]
  split <;> rfl

/-- Settles O48. -/
theorem pageStore : Obligations.PageStore := by
  intro s hon
  refine ⟨?inval, fun hinv => ?done, fun w l hl => ⟨fun hruns hext => ?limit, fun hheld => ?kept⟩, fun m v hv hloads => ⟨fun hst hin => ?moving,
    fun hst => ?still⟩⟩
  case inval => exact ⟨_, State.when_of _ _ hon, rfl, State.bit_setBit_same _ _ _ _ (by decide), rfl, fun _ => rfl⟩
  case done =>
    exact ⟨_, State.when_of _ _ (by simp [hon, hinv]), rfl, rfl, State.bit_setBit_same _ _ _ _ (by decide), rfl, fun _ => rfl⟩
  case limit =>
    have hfree : ¬ ((s.so.runs.any (fun e => e.2.state ≠ .empty) || s.so.pmAlloc.any (fun e => decide (l * 16384 < e.2.2.1 + e.2.2.2))) = true) := by
      simp only [Bool.or_eq_true, List.any_eq_true, decide_eq_true_eq, not_or, not_exists, not_and]
      exact ⟨fun e he hne => hne (hruns e he), fun e he hlt => Nat.not_lt.mpr (hext e he) hlt⟩
    rw [hl] at hfree
    refine ⟨_, (State.when_of _ _ hon).trans (congrArg _ (if_neg hfree)), ?_, fun q hq => State.rd_setFld_ne _ _ _ _ hq, rfl⟩
    rw [State.fld_setFld_same _ _ _ _ _ (by decide) (by decide), hl]
    split
    · exact Nat.mod_eq_of_lt (by omega)
    · rfl
  case kept =>
    have hbusy : (s.so.runs.any (fun e => e.2.state ≠ .empty) || s.so.pmAlloc.any (fun e => decide (l * 16384 < e.2.2.1 + e.2.2.2))) = true := by
      simp only [Bool.or_eq_true, List.any_eq_true, decide_eq_true_eq]
      exact hheld
    rw [hl] at hbusy
    exact (State.when_of _ _ hon).trans (congrArg _ (if_pos hbusy))
  case moving => exact ⟨_, compactionMoveComplete_next s m v hon hv hloads, s.compMoved_moving m v hst hin⟩
  case still => exact ⟨_, compactionMoveComplete_next s m v hon hv hloads, s.compMoved_still m v hst⟩

end Sys2Proof.Proofs
end


-- ==== Sys2Proof/Proofs/RegisterWrites.lean ====
section
set_option Elab.async false
/-!
PROOF. What a master's write of a register does (R16, R17), bit by bit of the register's fields, and what it does to the
reservations of the cores (R269). Settles O49.
-/
namespace Sys2Proof.Machine

/-- Bit `k` of what a write of `w` leaves: written where the field is RW, cleared or set where it is W1C or W1S, kept elsewhere. -/
theorem testBit_fieldWrite (fs : List RegField) (old w k : Nat) (hk : k < 32) : (fieldWrite fs old w).testBit k =
    ((((fieldMask fs .rw).testBit k && w.testBit k || !(fieldMask fs .rw).testBit k && old.testBit k) &&
      !((fieldMask fs .w1c).testBit k && w.testBit k)) || ((fieldMask fs .w1s).testBit k && w.testBit k)) := by
  have hall : (2 ^ 32 - 1).testBit k = true := by rw [Nat.testBit_two_pow_sub_one]; exact decide_eq_true hk
  change (((((fieldMask fs .rw) &&& w) ||| (((fieldMask fs .rw) ^^^ (2 ^ 32 - 1)) &&& old)) &&&
    (((fieldMask fs .w1c) &&& w) ^^^ (2 ^ 32 - 1))) ||| ((fieldMask fs .w1s) &&& w)).testBit k = _
  simp only [Nat.testBit_or, Nat.testBit_and, Nat.testBit_xor, hall, Bool.xor_true]

namespace State
variable (s : State)

/-- A plain write of a register of the map stores what its fields make of the value. -/
theorem plainWrite_eq {r : Reg} {d : RegDef} {ix : List Nat} (hf : regFind r.addr = some (d, ix)) (hr : regResetAt r.addr = r.rst) (w : Nat) :
    s.plainWrite r.addr w = s.wr r (fieldWrite d.fields (s.rd r) w) := by
  unfold State.plainWrite State.store State.raw State.wr State.rd
  rw [hf, hr]

/-- The core without a reservation on a granule that the `n` bytes from `a` touch. -/
def untouched (k : CoreSt) (a n : Nat) : CoreSt :=
  { k with reservation := k.reservation.filter (fun g => !(decide (a < g + 64) && decide (g < a + n))) }

theorem untouched_of_none {k : CoreSt} (h : k.reservation = none) (a n : Nat) : untouched k a n = k := by
  cases k
  simp_all [untouched]

theorem untouched_of_some {k : CoreSt} {g : Nat} (h : k.reservation = some g) (a n : Nat) :
    untouched k a n = if a < g + 64 && g < a + n then { k with reservation := none } else k := by
  unfold untouched
  rw [h, Option.filter_some]
  cases hg : (decide (a < g + 64) && decide (g < a + n)) with
  | true => rfl
  | false => exact congrArg (fun r => ({ k with reservation := r } : CoreSt)) h.symm

/-- The cores alone, given another value. -/
def withCores (m : SMap CoreSt) : State := { s with dbg := { s.dbg with cores := m } }

theorem withCores_self : s.withCores s.dbg.cores = s := rfl

theorem breakReservations_one (c a n : Nat) : ∃ m,
    (match (s.core c).reservation with
      | some g => if a < g + 64 && g < a + n then s.setCore c { s.core c with reservation := none } else s
      | none => s) = s.withCores m ∧
    ∀ c', SMap.get m c' {} = if c' = c then untouched (s.core c) a n else s.core c' := by
  have hsame : untouched (s.core c) a n = s.core c →
      ∀ c', SMap.get s.dbg.cores c' {} = if c' = c then untouched (s.core c) a n else s.core c' := by
    intro h c'
    rw [h]
    split
    · next hc => rw [hc]; rfl
    · rfl
  cases hr : (s.core c).reservation with
  | none => exact ⟨_, rfl, hsame (untouched_of_none hr a n)⟩
  | some g =>
    have hu := untouched_of_some hr a n
    dsimp only
    split at hu
    · next hg =>
      refine ⟨_, if_pos hg, fun c' => ?_⟩
      split
      · next hc => rw [hc, hu]; exact SMap.get_set_same _ _ _ _
      · next hc => exact SMap.get_set_ne _ _ _ _ hc
    · next hg => exact ⟨_, if_neg hg, hsame hu⟩

theorem breakReservations_fold (a n : Nat) (l : List Nat) (hl : l.Nodup) : ∃ m,
    l.foldl (fun t c =>
      match (t.core c).reservation with
      | some g => if a < g + 64 && g < a + n then t.setCore c { t.core c with reservation := none } else t
      | none => t) s = s.withCores m ∧
    ∀ c', SMap.get m c' {} = if c' ∈ l then untouched (s.core c') a n else s.core c' := by
  induction l generalizing s with
  | nil => exact ⟨_, rfl, fun c' => rfl⟩
  | cons c l ih =>
    obtain ⟨hc, hnd⟩ := List.nodup_cons.mp hl
    obtain ⟨m, hm, hget⟩ := s.breakReservations_one c a n
    obtain ⟨m', hm', hget'⟩ := ih (s.withCores m) hnd
    rw [List.foldl_cons, hm, hm']
    refine ⟨m', rfl, fun c' => (hget' c').trans ?_⟩
    have hcore : (s.withCores m).core c' = if c' = c then untouched (s.core c) a n else s.core c' := hget c'
    rw [hcore]
    by_cases h : c' = c
    · subst h
      rw [if_neg hc, if_pos rfl, if_pos List.mem_cons_self]
    · simp only [List.mem_cons, h, false_or, if_false]

/-- Every core of another master loses a reservation on a granule that the access touches, and nothing else changes (R269). -/
theorem breakReservations_eq (mid a n : Nat) : ∃ m, s.breakReservations mid a n = s.withCores m ∧
    ∀ c, c < 4 → SMap.get m c {} =
      ({ s.core c with reservation := (s.core c).reservation.filter (fun g => c == mid || !(decide (a < g + 64) && decide (g < a + n))) } : CoreSt) := by
  obtain ⟨m, hm, hget⟩ := s.breakReservations_fold a n ((List.range 4).filter (· ≠ mid)) (List.nodup_range.filter _)
  refine ⟨m, hm, fun c hc => (hget c).trans ?_⟩
  by_cases h : c = mid
  · rw [if_neg (by simp [h]), beq_iff_eq.mpr h]
    simp only [Bool.true_or]
    rw [show ∀ r : Option Nat, r.filter (fun _ => true) = r from fun r => by cases r <;> rfl]
  · rw [if_pos (by simp [h, hc]), beq_eq_false_iff_ne.mpr h]
    simp only [Bool.false_or]
    rfl

/-- A write of a register: its own effect, then the reservations that it ends. -/
theorem registerWrite_done (mid : Byte) (a : BitVec 48) (w : Word) {t : State} (hg : (s.decodes a.toNat && inRegs a.toNat &&
    a.toNat % 4 = 0 && (s.domOn (s.domOf a.toNat) || (mid.toNat = 0x30 && privatePath a.toNat && s.pw.aon)) && !s.regBarred a.toNat) = true)
    (hw : s.regWrite mid.toNat a.toNat w.toNat = t) (ht : t = { s with regs := t.regs }) :
    ∃ t', exec (.registerWrite mid a w) s = .next t' ∧ (∀ q, t'.rd q = t.rd q) ∧
      (t' = { s with regs := t'.regs, dbg := { s.dbg with cores := t'.dbg.cores } } ∧
      ∀ c, c < 4 → t'.core c = ({ s.core c with reservation := (s.core c).reservation.filter (fun g => c == mid.toNat ||
        !(decide (a.toNat < g + 64) && decide (g < a.toNat + 4))) } : CoreSt)) := by
  obtain ⟨m, hm, hget⟩ := t.breakReservations_eq mid.toNat a.toNat 4
  refine ⟨t.withCores m, (State.when_of _ _ hg).trans (congrArg Host.Outcome.next
    (show (s.regWrite mid.toNat a.toNat w.toNat).breakReservations mid.toNat a.toNat 4 = _ from hw ▸ hm)), fun q => rfl, ?_, fun c hc => (hget c hc).trans ?_⟩
  · generalize t.regs = r at ht
    subst ht
    rfl
  · have hcore : t.core c = s.core c := by rw [ht]; rfl
    rw [hcore]

end State
end Sys2Proof.Machine

namespace Sys2Proof.Proofs
open Sys2Proof Sys2Proof.Machine

theorem plainWrite_keeps (s : State) {r : Reg} {d : RegDef} {ix : List Nat} (hf : regFind r.addr = some (d, ix)) (hr : regResetAt r.addr = r.rst)
    (w : Nat) : s.plainWrite r.addr w = { s with regs := (s.plainWrite r.addr w).regs } ∧
      ∀ q : Reg, q.addr ≠ r.addr → (s.plainWrite r.addr w).rd q = s.rd q := by
  rw [s.plainWrite_eq hf hr]
  exact ⟨rfl, fun q hq => State.rd_wr_ne _ _ hq⟩

/-- A bit that no field of the write's register makes writable, clears or sets stays. -/
theorem fieldWrite_ro {fs : List RegField} (h : fieldMask fs .rw = 0 ∧ fieldMask fs .w1c = 0 ∧ fieldMask fs .w1s = 0) {old : Nat}
    (ho : old < 2 ^ 32) (w : Nat) : fieldWrite fs old w % 2 ^ 32 = old := by
  refine Nat.eq_of_testBit_eq fun k => ?_
  rw [Nat.testBit_mod_two_pow]
  by_cases hk : k < 32
  · rw [testBit_fieldWrite _ _ _ _ hk, h.1, h.2.1, h.2.2]
    simp [hk]
  · rw [Nat.testBit_lt_two_pow (ho.trans_le (Nat.pow_le_pow_right (by omega) (Nat.not_lt.mp hk)))]
    simp [hk]

theorem fieldWrite_rw {fs : List RegField} (h : fieldMask fs .rw = 2 ^ 32 - 1 ∧ fieldMask fs .w1c = 0 ∧ fieldMask fs .w1s = 0) (old : Nat)
    {w : Nat} (hw : w < 2 ^ 32) : fieldWrite fs old w % 2 ^ 32 = w := by
  refine Nat.eq_of_testBit_eq fun k => ?_
  rw [Nat.testBit_mod_two_pow]
  by_cases hk : k < 32
  · rw [testBit_fieldWrite _ _ _ _ hk, h.1, h.2.1, h.2.2, Nat.testBit_two_pow_sub_one]
    simp [hk]
  · rw [Nat.testBit_lt_two_pow (hw.trans_le (Nat.pow_le_pow_right (by omega) (Nat.not_lt.mp hk)))]
    simp [hk]

/-- What a write leaves of PM_FAULT: nine W1C bits below the RO field ACTIVE. -/
theorem testBit_pmFault (fs : List RegField) (h : fieldMask fs .rw = 0 ∧ fieldMask fs .w1c = 2 ^ 9 - 1 ∧ fieldMask fs .w1s = 0) (old w k : Nat)
    (hk : k < 32) : (fieldWrite fs old w).testBit k = (old.testBit k && !(decide (k < 9) && w.testBit k)) := by
  rw [testBit_fieldWrite _ _ _ _ hk, h.1, h.2.1, h.2.2, Nat.testBit_two_pow_sub_one]
  simp

/-- `State.faultN` on a value written to PM_FAULT: PM_STAT.FAULT_N follows, and the value stays. -/
theorem faultN_reads (s : State) (v : Nat) : ((s.wr Reg.pmFault v).faultN).rd Reg.pmFault = v % 2 ^ 32 ∧
    ((s.wr Reg.pmFault v).faultN).bit Reg.pmStat 14 = (bitsOf (v % 2 ^ 32) 15 0 != 0) ∧
    ∀ q : Reg, q.addr ≠ 0x10 → q.addr ≠ Reg.pmStat.addr → ((s.wr Reg.pmFault v).faultN).rd q = s.rd q := by
  unfold State.faultN
  refine ⟨?_, ?_, fun q hq hs => ?_⟩
  · rw [State.rd_setBit_ne _ _ _ (by decide), State.rd_wr_same]
  · rw [State.bit_setBit_same _ _ _ _ (by decide), State.fld_wr_same]
  · rw [State.rd_setBit_ne _ _ _ hs, State.rd_wr_ne _ _ hq]

/-- Settles O49: the registers are of the hub's domain, and each write is its fields' (`State.plainWrite_eq`). -/
theorem registerWrites : Obligations.RegisterWrites := by
  intro mid w s hon
  have hdom : ∀ a, a < 0x40000 → s.domOf a = domHub := fun a ha => by
    unfold State.domOf
    rw [if_neg (by omega), if_pos (by omega)]
  have hg : ∀ a : BitVec 48, a.toNat = 0xC ∨ a.toNat = 0x10 ∨ a.toNat = 0x10080 → (s.decodes a.toNat && inRegs a.toNat &&
      a.toNat % 4 = 0 && (s.domOn (s.domOf a.toNat) || (mid.toNat = 0x30 && privatePath a.toNat && s.pw.aon)) &&
      !s.regBarred a.toNat) = true := by
    intro a ha
    have hd : s.domOn (s.domOf a.toNat) = true := by
      rw [hdom _ (by omega)]
      exact hon
    have hin : inRegs a.toNat = true := by
      unfold inRegs
      simp only [Bool.or_eq_true, decide_eq_true_eq]
      omega
    have hdec : s.decodes a.toNat = true := by
      unfold State.decodes
      rw [hin]
      simp only [Bool.and_true, Bool.or_eq_true, decide_eq_true_eq]
      omega
    have hbar : s.regBarred a.toNat = false := by
      unfold State.regBarred
      rw [decide_eq_false (by omega)]
      rfl
    rw [hdec, hin, hd, hbar, decide_eq_true (by omega)]
    rfl
  refine ⟨⟨?key, ?fault, ?epoch⟩, fun a ha => ?none⟩
  case key =>
    obtain ⟨heq, hne⟩ := plainWrite_keeps s (r := Reg.pmWakeKey) rfl rfl w.toNat
    have hw : s.regWrite mid.toNat 0xC w.toNat = s.plainWrite 0xC w.toNat := rfl
    obtain ⟨t, ht, hrd, hrest⟩ := s.registerWrite_done mid 0xC w (hg _ (.inl rfl)) hw heq
    refine ⟨t, ht, (hrd _).trans ?_, fun q hq => (hrd q).trans (hne q hq), hrest⟩
    rw [show s.plainWrite 0xC w.toNat = _ from s.plainWrite_eq (r := Reg.pmWakeKey) rfl rfl w.toNat, State.rd_wr_same]
    exact fieldWrite_rw (by decide) _ w.isLt
  case fault =>
    obtain ⟨heq, hne⟩ := plainWrite_keeps s (r := Reg.pmFault) rfl rfl w.toNat
    have heq' := s.plainWrite_eq (r := Reg.pmFault) rfl rfl w.toNat
    have hw : s.regWrite mid.toNat 0x10 w.toNat = (s.plainWrite 0x10 w.toNat).faultN := rfl
    obtain ⟨t, ht, hrd, hrest⟩ := s.registerWrite_done mid 0x10 w (hg _ (.inr (.inl rfl))) hw rfl
    replace hrd : ∀ q, t.rd q = _ := fun q => (hrd q).trans (congrArg (fun u => (State.faultN u).rd q) heq')
    obtain ⟨hp, hn, hne⟩ := faultN_reads s (fieldWrite _ (s.rd Reg.pmFault) w.toNat)
    have hbit : ∀ k, k < 32 → (t.rd Reg.pmFault).testBit k = ((s.rd Reg.pmFault).testBit k && !(decide (k < 9) && w.toNat.testBit k)) :=
      fun k hk => by
        rw [hrd, hp, Nat.testBit_mod_two_pow, testBit_pmFault _ (by decide) _ _ _ hk, decide_eq_true hk, Bool.true_and]
    refine ⟨t, ht, fun i hi => ?_, ?_, ?_, fun q hq hs => (hrd q).trans (hne q hq hs), hrest⟩
    · rw [State.bit, State.bit, bitOf_eq, bitOf_eq, bitOf_eq, hbit i (by omega), decide_eq_true hi, Bool.true_and]
    · refine Nat.eq_of_testBit_eq fun k => ?_
      rw [State.fld, State.fld, testBit_bitsOf, testBit_bitsOf]
      by_cases hk : k < 31 + 1 - 16
      · rw [hbit _ (by omega), decide_eq_false (by omega : ¬ 16 + k < 9)]
        simp
      · rw [decide_eq_false hk, Bool.false_and, Bool.false_and]
    · rw [State.bit, State.fld, hrd, hrd, hp]
      exact hn
  case epoch =>
    obtain ⟨heq, hne⟩ := plainWrite_keeps s (r := Reg.mrEpochLo) rfl rfl w.toNat
    have hw : s.regWrite mid.toNat 0x10080 w.toNat = s.plainWrite 0x10080 w.toNat := rfl
    obtain ⟨t, ht, hrd, hrest⟩ := s.registerWrite_done mid 0x10080 w (hg _ (.inr (.inr rfl))) hw heq
    refine ⟨t, ht, (hrd _).trans ?_, fun q hq => (hrd q).trans (hne q hq), hrest⟩
    rw [show s.plainWrite 0x10080 w.toNat = _ from s.plainWrite_eq (r := Reg.mrEpochLo) rfl rfl w.toNat, State.rd_wr_same]
    exact fieldWrite_ro (by decide) (s.rd_lt _) _
  case none =>
    refine State.when_not _ _ ?_
    rcases ha with ha | ha
    · rw [ha, Bool.and_false]
      rfl
    · rw [decide_eq_false ha, Bool.and_false]
      rfl

end Sys2Proof.Proofs
end


-- ==== Sys2Proof/Proofs/Power.lean ====
section
set_option Elab.async false
/-!
PROOF. The always-on part through what the power commands do: turning a domain off, the mode register and the wake rows
(R457, R459, R465). Used by the obligations about power, boot and the event log.
-/
namespace Sys2Proof.Machine

theorem Touches.aon_eq {P : List Part} {s t : State} (h : Touches P s t) (hP : Part.pw ∉ P := by decide) : t.pw.aon = s.pw.aon := by
  have e := congrArg (fun u => u.pw.aon) h.mask
  simp only [State.mask, keepOr, List.elem_eq_mem, hP, decide_false, cond_false] at e
  exact e

/-- AON has its supply in both states, or in neither. -/
def AonSame (s t : State) : Prop := t.pw.aon = s.pw.aon

theorem AonSame.ite {s t u : State} {c : Prop} [Decidable c] (h : AonSame s t) (h' : AonSame s u) : AonSame s (if c then t else u) := by
  split
  · exact h
  · exact h'

theorem AonSame.of_touches {P : List Part} {s t : State} (h : Touches P s t) (hP : Part.pw ∉ P := by decide) : AonSame s t := h.aon_eq hP

theorem AonSame.each {α : Type} {s t : State} {xs : List α} {f : State → α → State} (h : AonSame s t) (hf : ∀ u x, (f u x).pw = u.pw) :
    AonSame s (t.each xs f) :=
  State.each_keeps (AonSame s) _ _ _ (fun u x _ hu => by
    unfold AonSame
    rw [hf]
    exact hu) h

theorem AonSame.of_pw {s t u : State} (h : AonSame s t) (h' : u.pw = t.pw) : AonSame s u := by
  unfold AonSame
  rw [h']
  exact h

namespace State
variable (s : State)

theorem domLost_aon (d : Nat) : AonSame s (s.domLost d) := by
  unfold State.domLost
  extract_lets +onlyGivenNames t t1 n t2 b t3 src s1
  have ht : AonSame s t := .of_touches (s.retiresOwed_touches _)
  have ht1 : AonSame s t1 := .of_touches (s.ddrLost_touches _)
  have ht2 : AonSame s t2 := .of_touches (s.dramLost_touches _ _)
  have ht3 : AonSame s t3 := .of_touches (s.blankRange_touches _ _)
  have hs1 : AonSame s s1 := by
    clear_value t t1 t2 t3
    refine .ite ?_ (.ite ?_ (.ite ?_ (.ite ?_ (.ite ?_ (.ite ?_ (.ite ?_ (.ite ?_ (.ite ?_ ?_))))))))
    · exact .of_touches (s.tileLost_touches _)
    · exact .of_pw ht rfl
    · exact .of_pw ht1 rfl
    · exact .of_pw ht2 rfl
    · refine .each (by exact rfl) fun u k => ?_
      exact State.setBit_pw _ _ _ _
    · refine .each (by exact rfl) fun u k => ?_
      exact State.wr_pw _ _ _
    · exact .of_touches s.rndLost_touches
    · exact .of_touches (s.bayLost_touches _ _)
    · exact .of_pw ht3 rfl
    · exact (Eq.refl _)
  exact (s1.resetRegs_touches d).aon_eq.trans hs1

/-- What stays of the always-on part: whether AON has its supply, and the power manager's registers but PM_DOM_STAT. -/
def AonKept (s t : State) : Prop := t.pw.aon = s.pw.aon ∧ ∀ q : Reg, q.addr < 0x40 → q.addr ≠ 0x28 → t.rd q = s.rd q

theorem AonKept.trans {s t u : State} (h : AonKept s t) (h' : AonKept t u) : AonKept s u :=
  ⟨h'.1.trans h.1, fun q hq hn => (h'.2 q hq hn).trans (h.2 q hq hn)⟩

theorem regPart_pm {a : Nat} (h : a < 0x40) : regPart a = .pm := if_pos h

theorem domOff_aonKept (d : Nat) : AonKept s (s.domOff d) := by
  have hset : ∀ (t : State) v, AonKept t (t.setDom d v) := fun t v => ⟨(State.setDom_touches ..).aon_eq, fun q _ hn => by
    unfold State.setDom
    dsimp only
    split
    · exact State.rd_setBit_ne _ _ _ hn
    · rfl⟩
  have hlost : AonKept s (s.domLost d) :=
    ⟨s.domLost_aon d, fun q hq _ => (s.domLost_touches d).rd_keep .pm (regPart_pm hq)⟩
  unfold State.domOff
  dsimp only
  split
  · exact hset _ _
  · have hoff := hlost.trans (hset (s.domLost d) {})
    generalize (s.domLost d).setDom d {} = u at hoff ⊢
    split
    · exact ⟨hoff.1, hoff.2⟩
    · exact hoff

theorem allOff_aonKept : AonKept s s.allOff := by
  have h : AonKept s (s.each (sortBy (fun a b => decide (offRank a ≤ offRank b)) (SMap.keys s.pw.doms)) (fun t d => t.domOff d)) :=
    State.each_keeps (AonKept s) _ _ _ (fun t d _ ht => ht.trans (t.domOff_aonKept d)) ⟨rfl, fun _ _ _ => rfl⟩
  unfold State.allOff
  dsimp only
  generalize s.each (sortBy (fun a b => decide (offRank a ≤ offRank b)) (SMap.keys s.pw.doms)) (fun t d => t.domOff d) = u at h ⊢
  exact ⟨h.1, h.2⟩

theorem allOff_doms : s.allOff.pw.doms = [] := rfl

/-- A field of the power manager's registers is none of those that the mode register shows. -/
theorem showMode_fld (q : Reg) (hi lo : Nat) (hq : q.addr < 0x40) : s.showMode.fld q hi lo = s.fld q hi lo :=
  congrArg (bitsOf · hi lo) (s.showMode_touches.rd_keep .pm (regPart_pm hq))

theorem setMode_aon (m : Nat) : (s.setMode m).pw = s.pw := (s.setMode_touches m).pw_eq

theorem setMode_fld (m hi lo : Nat) (h : 3 < lo) : (s.setMode m).fld Reg.pmStat hi lo = s.fld Reg.pmStat hi lo := by
  unfold State.setMode
  dsimp only
  rw [State.showMode_fld _ _ _ _ (by decide), State.fld_setFld_other _ _ _ _ _ _ _ (by decide) (by decide) (.inr h)]
  split <;> rfl

theorem setMode_stat (m : Nat) : (s.setMode m).fld Reg.pmStat 3 0 = m % 16 := by
  unfold State.setMode
  dsimp only
  rw [State.showMode_fld _ _ _ _ (by decide), State.fld_setFld_same _ _ _ _ _ (by decide) (by decide)]
  rfl

theorem setMode_rd (m : Nat) (q : Reg) (hq : q.addr < 0x40) (h0 : q.addr ≠ 0) : (s.setMode m).rd q = s.rd q := by
  unfold State.setMode
  dsimp only
  refine ((State.showMode_touches _).rd_keep .pm (regPart_pm hq)).trans ((State.rd_setFld_ne _ _ _ _ h0).trans ?_)
  split <;> rfl

theorem mode_of_aon (h : s.pw.aon = true) : s.mode = s.fld Reg.pmStat 3 0 := if_pos h

theorem setMode_mode (m : Nat) (h : s.pw.aon = true) (hm : m < 16) : (s.setMode m).mode = m := by
  rw [State.mode_of_aon _ ((congrArg (·.aon) (s.setMode_aon m)).trans h), State.setMode_stat, Nat.mod_eq_of_lt hm]

/-- A row before W6 starts: PM_STAT names it, and the mode stays. -/
theorem startRow_reads (row att : Nat) (h6 : row ≠ 6) (hr : row < 256) : (s.startRow row att).fld Reg.pmStat 11 4 = row ∧
    (s.startRow row att).mode = s.mode ∧ (s.startRow row att).fld Reg.pmWakeStat 9 8 = att % 4 := by
  have hrow : (s.startRow row att).regs = ((s.setFld Reg.pmStat 11 4 row).setFld Reg.pmWakeStat 9 8 att).regs ∧
      (s.startRow row att).pw.aon = s.pw.aon := by
    unfold State.startRow
    dsimp only
    rw [if_neg h6]
    split <;> exact ⟨rfl, rfl⟩
  obtain ⟨hregs, haon⟩ := hrow
  have hfld : ∀ (q : Reg) hi lo, (s.startRow row att).fld q hi lo =
      ((s.setFld Reg.pmStat 11 4 row).setFld Reg.pmWakeStat 9 8 att).fld q hi lo := fun q hi lo => by
    unfold State.fld State.rd
    rw [hregs]
  refine ⟨?_, ?_, ?_⟩
  · rw [hfld, State.fld_setFld_ne _ _ _ _ _ _ (by decide), State.fld_setFld_same _ _ _ _ _ (by decide) (by decide)]
    exact Nat.mod_eq_of_lt hr
  · unfold State.mode
    rw [haon, hfld, State.fld_setFld_ne _ _ _ _ _ _ (by decide), State.fld_setFld_other _ _ _ _ _ _ _ (by decide) (by decide) (.inl (by decide))]
  · rw [hfld, State.fld_setFld_same _ _ _ _ _ (by decide) (by decide)]
    rfl

/-- The warm module reset: mode 1 at row W3 (R457). -/
theorem warmReset_mode (h : s.pw.aon = true) : s.warmReset.mode = 1 ∧ s.warmReset.fld Reg.pmStat 11 4 = 3 := by
  unfold State.warmReset
  extract_lets +onlyGivenNames s1 src s2
  have h1 : AonSame s.allOff s1 := .each (by exact congrArg (fun p : PwSt => p.aon) (State.wr_pw _ _ _)) fun u k => State.wr_pw _ _ _
  have hs1 : s1.pw.aon = true := h1.trans (s.allOff_aonKept.1.trans h)
  clear_value s1
  have haon : s2.pw.aon = true := hs1
  generalize s2 = u at haon
  obtain ⟨hrow, hmode, -⟩ := ((u.wakeClear.setBit Reg.pmStat 13 false).setMode 1).startRow_reads 3 1 (by decide) (by decide)
  refine ⟨hmode.trans (State.setMode_mode _ _ ?_ (by decide)), hrow⟩
  rw [State.setBit_pw]
  exact u.wakeClear_touches.aon_eq.trans haon

end State
end Sys2Proof.Machine
end


-- ==== Sys2Proof/Proofs/EventLog.lean ====
section
set_option Elab.async false
/-!
PROOF. The event recorder: what its intake, a flush and a readback leave of the log and its registers (R331, R508, R515–R517).
Settles O47.
-/
namespace Sys2Proof.Machine

theorem State.evHalf_congr {s t : State} (h : t.ev = s.ev) (b : Bool) : t.evHalf b = s.evHalf b := by
  unfold State.evHalf
  rw [h]

namespace State
variable (s : State)

theorem evHalf_setHalf (b c : Bool) (h : EvHalf) : (s.setHalf b h).evHalf c = if c = b then h else s.evHalf c := by
  cases b <;> cases c <;> rfl

theorem setHalf_regs (b : Bool) (h : EvHalf) : (s.setHalf b h).regs = s.regs := by cases b <;> rfl

theorem setHalf_eq (b : Bool) (h : EvHalf) : s.setHalf b h = { s with ev := (s.setHalf b h).ev } := by cases b <;> rfl

/-- Everything of the log but its halves. -/
theorem setHalf_log (b : Bool) (h : EvHalf) : ∃ x y, (s.setHalf b h).ev = { s.ev with halfA := x, halfB := y } := by
  cases b
  · exact ⟨_, _, rfl⟩
  · exact ⟨_, _, rfl⟩

/-! ### What EV_STAT shows -/

theorem evShow_ev : s.evShow.ev = s.ev := s.evShow_touches.ev_eq

theorem evShow_rd (q : Reg) (h : q.addr ≠ 0x20004 ∧ q.addr ≠ 0x20008 ∧ q.addr ≠ 0x20010 ∧ q.addr ≠ 0x20014) : s.evShow.rd q = s.rd q := by
  obtain ⟨h1, h2, h3, h4⟩ := h
  unfold State.evShow
  dsimp only
  rw [State.rd_wr_ne _ _ h4, State.rd_wr_ne _ _ h3, State.rd_wr_ne _ _ h2, State.rd_setFld_ne _ _ _ _ h1, State.rd_setFld_ne _ _ _ _ h1,
    State.rd_setBit_ne _ _ _ h1]

/-- The bits of EV_STAT that say how the recorder stands. -/
theorem evShow_stat (i : Nat) (h : 26 < i ∧ i < 31) : s.evShow.bit Reg.evStat i = s.bit Reg.evStat i := by
  unfold State.evShow
  dsimp only
  rw [State.bit_wr_ne _ _ _ (by decide), State.bit_wr_ne _ _ _ (by decide), State.bit_wr_ne _ _ _ (by decide),
    State.bit_setFld_other _ _ _ _ _ _ (by decide) (by decide) (.inr (by omega)),
    State.bit_setFld_other _ _ _ _ _ _ (by decide) (by decide) (.inr (by omega)), State.bit_setBit_other _ _ _ _ _ (by decide) (by omega)]

theorem evShow_bit (q : Reg) (i : Nat) (h : q.addr ≠ 0x20004 ∧ q.addr ≠ 0x20008 ∧ q.addr ≠ 0x20010 ∧ q.addr ≠ 0x20014) :
    s.evShow.bit q i = s.bit q i := congrArg (bitOf · i) (s.evShow_rd q h)

/-- The end of a flush (R515): no flush is under way, FLUSH reads 0, and EV_FLUSH_EPOCH takes the epoch. -/
theorem flushEnd_reads : s.flushEnd.ev = { s.ev with flushing := none, flushMode := false, ckpt := false } ∧
    s.flushEnd.bit Reg.evCtrl 31 = false ∧ s.flushEnd.rd Reg.evFlushEpoch = s.rd Reg.mrEpochLo ∧
    ∀ i, 26 < i ∧ i < 31 → s.flushEnd.bit Reg.evStat i = s.bit Reg.evStat i := by
  unfold State.flushEnd
  refine ⟨State.evShow_ev _, ?_, ?_, fun i hi => ?_⟩
  · rw [State.evShow_bit _ _ _ (by decide), State.bit_wr_ne _ _ _ (by decide), State.bit_setBit_same _ _ _ _ (by decide)]
  · rw [State.evShow_rd _ _ (by decide), State.rd_wr_same]
    exact Nat.mod_eq_of_lt (s.rd_lt _)
  · rw [State.evShow_stat _ _ hi, State.bit_wr_ne _ _ _ (by decide), State.bit_setBit_ne _ _ _ _ (by decide)]
    rfl

/-- The epoch register as the recorder leaves it. -/
theorem flushEnd_pw : s.flushEnd.pw = s.pw := s.flushEnd_touches.pw_eq

/-! ### A flush -/

/-- The log as a flush leaves it that starts. -/
def flushStarted (forMode : Bool) : EvSt :=
  { s.ev with
    flushing := some (if s.evWantCkpt then List.range logSlots else s.ev.dirty)
    dirty := [], flushWait := false, flushMode := forMode, ckpt := s.evWantCkpt, sinceFlush := 0 }

theorem flushStart_ready (forMode : Bool) (hn : s.ev.flushing = none) (hd : s.ev.flashDead = false) (hr : s.bit Reg.evStat 29 = true)
    (h : s.evWantCkpt = false ∨ (s.evHalf (!s.evActive)).erased = true) :
    (s.flushStart forMode).ev = s.flushStarted forMode ∧ (s.flushStart forMode).bit Reg.evCtrl 31 = s.bit Reg.evCtrl 31 := by
  have hgo : (s.evWantCkpt && !(s.evHalf (!s.evActive)).erased) = false := by
    rcases h with h | h
    · rw [h, Bool.false_and]
    · rw [h, Bool.not_true, Bool.and_false]
  unfold State.flushStart
  rw [if_neg (by simp [hn, hd, hr]), if_neg (by simp [hgo])]
  exact ⟨State.evShow_ev _, State.evShow_bit _ _ _ (by decide)⟩

theorem flushStart_waits (forMode : Bool) (hn : s.ev.flushing = none) (hd : s.ev.flashDead = false) (hr : s.bit Reg.evStat 29 = true)
    (hw : s.evWantCkpt = true) (he : (s.evHalf (!s.evActive)).erased = false) :
    s.flushStart forMode = { s with ev := { s.ev with flushWait := true } } := by
  unfold State.flushStart
  rw [if_neg (by simp [hn, hd, hr]), if_pos (by simp [hw, he])]

/-- Whether the next flush is a checkpoint depends on the active half and EV_STAT.HALF. -/
theorem evWantCkpt_congr {s t : State} (hr : t.rd Reg.evStat = s.rd Reg.evStat) (hh : t.evHalf s.evActive = s.evHalf s.evActive)
    (hn : t.ev.nextCkpt = s.ev.nextCkpt) : t.evActive = s.evActive ∧ t.evWantCkpt = s.evWantCkpt := by
  have ha : t.evActive = s.evActive := congrArg (bitOf · 28) hr
  unfold State.evWantCkpt
  rw [ha, hh, hn]
  exact ⟨rfl, rfl⟩

/-- The half that a flush writes. -/
def flushHalf : Bool := if s.ev.ckpt then !s.evActive else s.evActive

theorem evProgram_reads (b : Bool) (xs : List Nat) : (s.evProgram b xs).regs = s.regs ∧ (s.evProgram b xs).ev.slots = s.ev.slots ∧
    (s.evProgram b xs).pw = s.pw ∧ ((s.evProgram b xs).evHalf b).valid = true ∧
    (s.ev.ckpt = false → ((s.evProgram b xs).evHalf b).batches = (s.evHalf b).batches ++ [xs.map (fun k => (k, SMap.find s.ev.slots k))]) ∧
    (s.ev.ckpt = true → ((s.evProgram b xs).evHalf b).ckpt = s.ev.slots ∧ ((s.evProgram b xs).evHalf b).batches = []) := by
  unfold State.evProgram
  dsimp only
  cases hc : s.ev.ckpt <;> cases b <;> simp [State.setHalf, State.evHalf]

/-- The checkpoint's half becomes the active one, and the half that was active is no longer valid (R515). -/
def halfMoved (b : Bool) : State :=
  (s.setHalf (!b) { s.evHalf (!b) with valid := false, erased := false }).setBit Reg.evStat 28 b

theorem halfMoved_reads (b : Bool) : (s.halfMoved b).ev.slots = s.ev.slots ∧ (s.halfMoved b).pw = s.pw ∧
    (s.halfMoved b).rd Reg.mrEpochLo = s.rd Reg.mrEpochLo ∧ (s.halfMoved b).bit Reg.evStat 28 = b ∧
    (s.halfMoved b).evHalf b = s.evHalf b ∧ ((s.halfMoved b).evHalf (!b)).valid = false := by
  unfold State.halfMoved
  have hhalf : ∀ c, ((s.setHalf (!b) { s.evHalf (!b) with valid := false, erased := false }).setBit Reg.evStat 28 b).evHalf c =
      if c = !b then { s.evHalf (!b) with valid := false, erased := false } else s.evHalf c := fun c =>
    (State.evHalf_congr (State.setBit_ev _ _ _ _) c).trans (s.evHalf_setHalf _ _ _)
  have hslots : (s.setHalf (!b) { s.evHalf (!b) with valid := false, erased := false }).ev.slots = s.ev.slots := by cases b <;> rfl
  have hpw : (s.setHalf (!b) { s.evHalf (!b) with valid := false, erased := false }).pw = s.pw := by cases b <;> rfl
  have hlo : (s.setHalf (!b) { s.evHalf (!b) with valid := false, erased := false }).rd Reg.mrEpochLo = s.rd Reg.mrEpochLo := by
    unfold State.rd
    rw [State.setHalf_regs]
  refine ⟨?_, ?_, ?_, State.bit_setBit_same _ _ _ _ (by decide), ?_, ?_⟩
  · rw [State.setBit_ev, hslots]
  · rw [State.setBit_pw, hpw]
  · rw [State.rd_setBit_ne _ _ _ (by decide), hlo]
  · rw [hhalf, if_neg (by cases b <;> simp)]
  · rw [hhalf, if_pos rfl]

/-- What a flush that completes leaves (R515, R516). -/
theorem flushDone_reads (xs : List Nat) : (s.flushDone xs).ev.flushing = none ∧
    (s.flushDone xs).rd Reg.evFlushEpoch = s.rd Reg.mrEpochLo ∧ (s.flushDone xs).bit Reg.evCtrl 31 = false ∧
    (s.flushDone xs).ev.slots = s.ev.slots ∧ (s.flushDone xs).pw = s.pw ∧ ((s.flushDone xs).evHalf s.flushHalf).valid = true ∧
    (s.ev.ckpt = false → ((s.flushDone xs).evHalf s.evActive).batches =
      (s.evHalf s.evActive).batches ++ [xs.map (fun k => (k, SMap.find s.ev.slots k))]) ∧
    (s.ev.ckpt = true → ((s.flushDone xs).evHalf (!s.evActive)).ckpt = s.ev.slots ∧ ((s.flushDone xs).evHalf (!s.evActive)).batches = [] ∧
      (s.flushDone xs).bit Reg.evStat 28 = !s.evActive ∧ ((s.flushDone xs).evHalf s.evActive).valid = false) := by
  obtain ⟨hregs, hslots, hpw, hvalid, hbatch, hckpt⟩ := s.evProgram_reads s.flushHalf xs
  have hlo : (s.evProgram s.flushHalf xs).rd Reg.mrEpochLo = s.rd Reg.mrEpochLo := congrArg (rdOf · Reg.mrEpochLo) hregs
  have hend : ∀ u : State, ({ u with ev := { u.ev with nextCkpt := false } } : State).flushEnd.ev.flushing = none ∧
      ({ u with ev := { u.ev with nextCkpt := false } } : State).flushEnd.rd Reg.evFlushEpoch = u.rd Reg.mrEpochLo ∧
      ({ u with ev := { u.ev with nextCkpt := false } } : State).flushEnd.bit Reg.evCtrl 31 = false ∧
      ({ u with ev := { u.ev with nextCkpt := false } } : State).flushEnd.ev.slots = u.ev.slots ∧
      ({ u with ev := { u.ev with nextCkpt := false } } : State).flushEnd.pw = u.pw ∧
      (∀ b, ({ u with ev := { u.ev with nextCkpt := false } } : State).flushEnd.evHalf b = u.evHalf b) ∧
      ({ u with ev := { u.ev with nextCkpt := false } } : State).flushEnd.bit Reg.evStat 28 = u.bit Reg.evStat 28 := by
    intro u
    obtain ⟨hev, hctrl, hepoch, hstat⟩ := State.flushEnd_reads { u with ev := { u.ev with nextCkpt := false } }
    refine ⟨by rw [hev], hepoch, hctrl, by rw [hev], State.flushEnd_pw _, fun b => ?_, hstat 28 (by decide)⟩
    unfold State.evHalf
    rw [hev]
  cases hc : s.ev.ckpt with
  | false =>
    have hb : s.flushHalf = s.evActive := by unfold State.flushHalf; rw [hc]; rfl
    have hdone : s.flushDone xs = ({ s.evProgram s.flushHalf xs with ev := { (s.evProgram s.flushHalf xs).ev with nextCkpt := false } } : State).flushEnd := by
      unfold State.flushDone State.flushHalf
      dsimp only
      simp only [hc, Bool.false_eq_true, if_false]
    obtain ⟨h1, h2, h3, h4, h5, h6, h7⟩ := hend (s.evProgram s.flushHalf xs)
    rw [hdone]
    refine ⟨h1, h2.trans hlo, h3, h4.trans hslots, h5.trans hpw, by rw [h6]; exact hvalid, fun _ => ?_, fun h => absurd h (by simp)⟩
    rw [h6, ← hb]
    exact hbatch hc
  | true =>
    have hb : s.flushHalf = !s.evActive := by unfold State.flushHalf; rw [hc]; rfl
    have hdone : s.flushDone xs = ({ (s.evProgram s.flushHalf xs).halfMoved s.flushHalf with
        ev := { ((s.evProgram s.flushHalf xs).halfMoved s.flushHalf).ev with nextCkpt := false } } : State).flushEnd := by
      unfold State.flushDone State.flushHalf State.halfMoved
      dsimp only
      simp only [hc, if_true]
    obtain ⟨h1, h2, h3, h4, h5, h6, h7⟩ := hend ((s.evProgram s.flushHalf xs).halfMoved s.flushHalf)
    obtain ⟨m1, m2, m3, m4, m5, m6⟩ := (s.evProgram s.flushHalf xs).halfMoved_reads s.flushHalf
    rw [hdone]
    refine ⟨h1, h2.trans (m3.trans hlo), h3, h4.trans (m1.trans hslots), h5.trans (m2.trans hpw), by rw [h6, m5]; exact hvalid,
      fun h => absurd h (by simp), fun _ => ⟨?_, ?_, ?_, ?_⟩⟩
    · rw [h6, ← hb, m5]
      exact (hckpt hc).1
    · rw [h6, ← hb, m5]
      exact (hckpt hc).2
    · rw [h7, m4, hb]
    · rw [h6, show s.evActive = !s.flushHalf by rw [hb, Bool.not_not]]
      exact m6

/-- An event changes of the log its intake and its counts alone. -/
theorem event_log (typ sev loc ctx addr : Nat) (detail : List Nat) (merge : Bool) : ∃ a b c,
    (s.event typ sev loc ctx addr detail merge).ev = { s.ev with intake := a, arrived := b, discarded := c } := by
  unfold State.event
  split
  · dsimp only
    split
    · rw [State.count_ev]
      exact ⟨_, _, _, rfl⟩
    · exact ⟨_, _, _, rfl⟩
  · exact ⟨_, _, _, rfl⟩

/-- What a flush that fails leaves (R517). -/
theorem flushFail_reads (xs : List Nat) : (s.flushFail xs).ev.flushing = none ∧ (s.flushFail xs).bit Reg.evStat 30 = true ∧
    (s.flushFail xs).ev.flashDead = s.ev.ckpt ∧ (s.flushFail xs).ev.slots = s.ev.slots := by
  unfold State.flushFail
  extract_lets +onlyGivenNames b src s1
  have h1 : s1.bit Reg.evStat 30 = true := State.bit_setBit_same _ _ _ _ (by decide)
  have h2 : s1.ev.flashDead = s.ev.ckpt := rfl
  have h3 : s1.ev.slots = s.ev.slots := rfl
  clear_value s1
  obtain ⟨hev, -, -, hstat⟩ := s1.flushEnd_reads
  obtain ⟨x, y, z, hlog⟩ := s1.flushEnd.event_log 0x0C02 5 (b2n b) 0 0 [] false
  rw [hlog, hev]
  refine ⟨rfl, ?_, h2, h3⟩
  rw [(State.reads_event _ _ _ _ _ _ _ _ (by decide)).2.2, hstat 30 (by decide), h1]

/-! ### Readback -/

/-- A log that holds nothing takes an event into its first slot. -/
theorem evTake_empty (e : EvIn) (hm : e.merge = false) (hs : s.ev.slots = []) (hl : s.ev.last = none) : ∃ r,
    (s.evTake e).ev.slots = [(0, r)] ∧ r.key = e.key ∧ (s.evTake e).regs = s.regs := by
  have hfree : s.evFree = some 0 := by
    unfold State.evFree
    rw [hs, if_neg (by decide), show logSlots = 8191 + 1 from rfl, List.range_succ_eq_map, List.find?_cons_of_pos rfl]
  have hstore : ∀ r, s.evStore r none = (s.evPut 0 r, some 0) := fun r => by
    unfold State.evStore
    rw [hfree]
  unfold State.evTake
  dsimp only
  rw [hl]
  dsimp only
  rw [if_neg (by rw [hm]; exact Bool.false_ne_true), hstore]
  unfold State.evPut State.evDirty
  dsimp only
  rw [hs]
  exact ⟨_, rfl, rfl, rfl⟩

end State
end Sys2Proof.Machine

namespace Sys2Proof.Machine.State
variable (s : State)

/-- One that it has no room for is counted alone. -/
theorem event_full (typ sev loc ctx addr : Nat) (detail : List Nat) (merge : Bool) (hon : s.hubOn = true) (h : ¬ s.ev.intake.length < 4096) :
    s.event typ sev loc ctx addr detail merge = ({ s with ev := { s.ev with
      arrived := (s.ev.arrived + 1) % 2 ^ 32, discarded := (s.ev.discarded + 1) % 2 ^ 32 } } : State).count Reg.evDisc 31 0 1 := by
  unfold State.event
  dsimp only
  rw [if_pos hon, decide_eq_true (by omega)]
  rfl

/-- A write of FLUSH, while the recorder runs and no flush is under way (R516). -/
def flushAsked : State := s.setBit Reg.evCtrl 31 true

theorem flushAsked_reads : s.flushAsked.ev = s.ev ∧ s.flushAsked.bit Reg.evStat 29 = s.bit Reg.evStat 29 ∧
    s.flushAsked.bit Reg.evCtrl 31 = true ∧ s.flushAsked.evActive = s.evActive ∧ s.flushAsked.evWantCkpt = s.evWantCkpt := by
  unfold State.flushAsked
  obtain ⟨ha, hw⟩ := State.evWantCkpt_congr (s := s) (t := s.setBit Reg.evCtrl 31 true) (State.rd_setBit_ne _ _ _ (by decide))
    (State.evHalf_congr (State.setBit_ev _ _ _ _) _) (by rw [State.setBit_ev])
  exact ⟨State.setBit_ev _ _ _ _, State.bit_setBit_ne _ _ _ _ (by decide), State.bit_setBit_same _ _ _ _ (by decide), ha, hw⟩

theorem withEv_bit (e : EvSt) (q : Reg) (i : Nat) : ({ s with ev := e } : State).bit q i = s.bit q i := rfl

theorem evFlushWrite_ready (hn : s.ev.flushing = none) (hd : s.ev.flashDead = false) (hr : s.bit Reg.evStat 29 = true)
    (h : s.evWantCkpt = false ∨ (s.evHalf (!s.evActive)).erased = true) :
    s.evFlushWrite.ev = s.flushStarted false ∧ s.evFlushWrite.bit Reg.evCtrl 31 = true := by
  obtain ⟨hev, h29, hctrl, ha, hw⟩ := s.flushAsked_reads
  obtain ⟨h1, h2⟩ := s.flushAsked.flushStart_ready false (by rw [hev, hn]) (by rw [hev, hd]) (by rw [h29, hr]) (by
    rw [hw, ha, State.evHalf_congr hev]
    exact h)
  refine ⟨Eq.trans h1 ?_, Eq.trans h2 hctrl⟩
  unfold State.flushStarted
  rw [hev, hw]

theorem evFlushWrite_waits (hn : s.ev.flushing = none) (hd : s.ev.flashDead = false) (hr : s.bit Reg.evStat 29 = true)
    (hw : s.evWantCkpt = true) (he : (s.evHalf (!s.evActive)).erased = false) :
    s.evFlushWrite.ev = { s.ev with flushWait := true } ∧ s.evFlushWrite.bit Reg.evCtrl 31 = true := by
  obtain ⟨hev, h29, hctrl, ha, hw'⟩ := s.flushAsked_reads
  have h := s.flushAsked.flushStart_waits false (by rw [hev, hn]) (by rw [hev, hd]) (by rw [h29, hr]) (by rw [hw', hw]) (by
    rw [ha, State.evHalf_congr hev]
    exact he)
  rw [show s.evFlushWrite = _ from h, State.withEv_bit, hctrl, hev]
  exact ⟨rfl, rfl⟩

/-- A flush that stops leaves what is written as a batch of the active half (R516). -/
theorem flushStop_reads (ys : List Nat) : (({ s with ev := { s.ev with ckpt := false } } : State).evProgram s.evActive ys).flushEnd.drawn.ev.flushing = none ∧
    (({ s with ev := { s.ev with ckpt := false } } : State).evProgram s.evActive ys).flushEnd.drawn.ev.flushMode = false ∧
    (({ s with ev := { s.ev with ckpt := false } } : State).evProgram s.evActive ys).flushEnd.drawn.rd Reg.evFlushEpoch = s.rd Reg.mrEpochLo ∧
    ((({ s with ev := { s.ev with ckpt := false } } : State).evProgram s.evActive ys).flushEnd.drawn.evHalf s.evActive).valid = true := by
  obtain ⟨hregs, -, -, hvalid, -⟩ := State.evProgram_reads { s with ev := { s.ev with ckpt := false } } s.evActive ys
  generalize State.evProgram { s with ev := { s.ev with ckpt := false } } s.evActive ys = u at hregs hvalid ⊢
  obtain ⟨hev, -, hepoch, -⟩ := u.flushEnd_reads
  have hd : u.flushEnd.drawn.ev = u.flushEnd.ev := State.drawn_ev _
  refine ⟨by rw [hd, hev], by rw [hd, hev], ?_, ?_⟩
  · rw [State.drawn_rd, hepoch]
    unfold State.rd
    rw [hregs]
  · rw [State.evHalf_congr hd]
    unfold State.evHalf at hvalid ⊢
    rw [hev]
    exact hvalid

/-- What the half holds after an erase (R515). -/
def erasedHalf : State := s.setHalf (!s.evActive) { erased := true, gen := (s.evHalf (!s.evActive)).gen }

theorem erasedHalf_reads : s.erasedHalf.rd Reg.evStat = s.rd Reg.evStat ∧ s.erasedHalf.evHalf s.evActive = s.evHalf s.evActive ∧
    s.erasedHalf.evHalf (!s.evActive) = { erased := true, gen := (s.evHalf (!s.evActive)).gen } ∧
    ∃ x y, s.erasedHalf.ev = { s.ev with halfA := x, halfB := y } := by
  unfold State.erasedHalf
  refine ⟨?_, ?_, ?_, s.setHalf_log _ _⟩
  · unfold State.rd
    rw [State.setHalf_regs]
  · rw [State.evHalf_setHalf, if_neg (by cases s.evActive <;> simp)]
  · rw [State.evHalf_setHalf, if_pos rfl]

/-- The next cursor after those of the log read back (R511, R517). -/
def nextCursor (m : SMap EvRec) : Nat :=
  if m.isEmpty then 0 else
    (((m.map (fun (e : Nat × EvRec) => e.2.cursor)).foldl (fun m c => if seqDist c m < 2 ^ 31 then c else m)
      ((m.map (fun (e : Nat × EvRec) => e.2.cursor)).headD 0)) + 1) % 2 ^ 32

/-- The log as a readback leaves it that takes `m` (R517). -/
def readBack (m : SMap EvRec) (useB : Bool) : State :=
  (({ s with ev := { s.ev with
    slots := m, cursor := nextCursor m, last := none, dirty := [],
    arrived := (m.map (fun (e : Nat × EvRec) => e.2.rep)).sum + s.ev.intake.length
    discarded := 0, overwritten := 0, cleared := 0 } } : State).setBit Reg.evStat 29 true).setBit Reg.evStat 28 useB

theorem readBack_reads (m : SMap EvRec) (useB : Bool) : (s.readBack m useB).evShow.ev.slots = m ∧
    (s.readBack m useB).evShow.bit Reg.evStat 29 = true ∧ (s.readBack m useB).evShow.bit Reg.evStat 28 = useB ∧
    (s.readBack m useB).evShow.ev.arrived = (m.map (fun (e : Nat × EvRec) => e.2.rep)).sum + s.ev.intake.length ∧
    (s.readBack m useB).evShow.ev.discarded = 0 ∧ (s.readBack m useB).evShow.ev.overwritten = 0 ∧
    (s.readBack m useB).evShow.ev.cleared = 0 := by
  rw [State.evShow_ev, State.evShow_stat _ _ (by decide), State.evShow_stat _ _ (by decide)]
  unfold State.readBack
  rw [State.bit_setBit_other _ _ _ _ _ (by decide) (by decide), State.bit_setBit_same _ _ _ _ (by decide),
    State.bit_setBit_same _ _ _ _ (by decide), State.setBit_ev, State.setBit_ev]
  exact ⟨rfl, rfl, rfl, rfl, rfl, rfl, rfl⟩

/-- The log as a readback leaves it that finds no valid half, before it records the loss. -/
def readLost : State := { s.readBack [] false with ev := { (s.readBack [] false).ev with arrived := (s.readBack [] false).ev.arrived + 1 } }

theorem readLost_empty : s.readLost.bit Reg.evStat 29 = true ∧ s.readLost.ev.slots = [] ∧ s.readLost.ev.last = none := by
  unfold State.readLost
  rw [State.withEv_bit]
  unfold State.readBack
  rw [State.bit_setBit_other _ _ _ _ _ (by decide) (by decide), State.bit_setBit_same _ _ _ _ (by decide), State.setBit_ev, State.setBit_ev]
  exact ⟨rfl, rfl, rfl⟩

/-- The loss that it records. -/
def lossOf : EvIn := { key := ⟨0x0C01, 4, 0, 0, 0⟩, detail := [], merge := false, mark := s.mark, epoch := s.epoch }

end Sys2Proof.Machine.State

namespace Sys2Proof.Proofs
open Sys2Proof Sys2Proof.Machine

/-- A readback that finds a valid half (R517). -/
theorem readback_found (s : State) (badA badB : Option Nat) {m : SMap EvRec} {useB : Bool} (hon : s.hubOn = true)
    (h29 : s.bit Reg.evStat 29 = false)
    (hu : ((s.ev.halfB.read badB).isSome && ((s.ev.halfA.read badA).isNone || decide (s.ev.halfA.gen < s.ev.halfB.gen))) = useB)
    (hf : (if useB then s.ev.halfB.read badB else s.ev.halfA.read badA) = some m) :
    ∃ t, exec (.logReadbackComplete badA badB) s = .next t ∧ t.ev.slots = m ∧ t.bit Reg.evStat 29 = true ∧ t.bit Reg.evStat 28 = useB ∧
      t.ev.arrived = (m.map (fun (e : Nat × EvRec) => e.2.rep)).sum + s.ev.intake.length ∧
      t.ev.discarded = 0 ∧ t.ev.overwritten = 0 ∧ t.ev.cleared = 0 := by
  have hfound : ((s.ev.halfA.read badA).isSome || (s.ev.halfB.read badB).isSome) = true := by
    cases useB
    · simp [show s.ev.halfA.read badA = some m from hf]
    · simp [show s.ev.halfB.read badB = some m from hf]
  refine ⟨(s.readBack m useB).evShow, (State.when_of _ _ (by rw [hon, h29]; rfl)).trans ?_, s.readBack_reads m useB⟩
  dsimp only
  rw [hu, hf, hfound, if_pos rfl, Bool.true_and]
  rfl

/-- A readback that finds none. -/
theorem readback_none (s : State) (badA badB : Option Nat) (hon : s.hubOn = true) (h29 : s.bit Reg.evStat 29 = false)
    (hA : s.ev.halfA.read badA = none) (hB : s.ev.halfB.read badB = none) :
    exec (.logReadbackComplete badA badB) s = .next (s.readLost.evTake s.lossOf).evShow := by
  refine (State.when_of _ _ (by rw [hon, h29]; rfl)).trans ?_
  simp only [hA, hB, Option.isSome_none, Bool.false_and, Bool.or_self, Bool.false_eq_true, if_false, Option.getD_none, List.isEmpty_nil,
    if_true]
  rfl

/-- The record of a loss, taken into an empty log (R517). -/
theorem evTake_lost (u : State) (e : EvIn) (hm : e.merge = false) (hs : u.ev.slots = []) (hl : u.ev.last = none)
    (hb : u.bit Reg.evStat 29 = true) : ∃ r, (u.evTake e).evShow.bit Reg.evStat 29 = true ∧ (u.evTake e).evShow.ev.slots = [(0, r)] ∧
      r.key = e.key := by
  obtain ⟨r, h1, h2, h3⟩ := u.evTake_empty e hm hs hl
  refine ⟨r, ?_, ?_, h2⟩
  · rw [State.evShow_stat _ _ (by decide)]
    unfold State.bit State.rd
    rw [h3]
    exact hb
  · rw [State.evShow_ev, h1]

/-- Settles O47. -/
theorem eventLog : Obligations.EventLog := by
  intro s hon
  have hflush : ∀ ok xs, s.ev.flushing = some xs → exec (.logFlushComplete ok) s = s.when s.hubOn
      (if ok then (if (s.flushDone xs).pw.flushReset && !(s.flushDone xs).failureUnflushed then (s.flushDone xs).warmReset else s.flushDone xs)
        else s.flushFail xs) := fun ok xs hx => by
    rw [show exec (.logFlushComplete ok) s = execLogFlushComplete ok s from rfl, execLogFlushComplete, hx]
  refine ⟨fun typ sev loc ctx addr d m => ⟨fun hroom => ?room, fun hfull => ?full⟩, fun hn hd hr hw => ⟨fun he => ?ckpt, fun he => ?waits,
    fun he hwait => ?erased⟩, fun hn hd hr hw => ⟨?write, fun hm hdue => ?start, fun hm => ?mode⟩, fun xs hx => ⟨fun hres => ?done,
    fun haon hres hfail => ?reset, ?fail, fun hm => ?stop⟩, fun he hwait => ?erase, fun h29 badA badB => ⟨fun m hA hB => ?readA, fun m hB hA => ?readB,
    fun hA hB => ?none⟩⟩
  case room =>
    exact ⟨_, congrArg Host.Outcome.next (s.event_room _ _ _ _ _ _ _ hon hroom), ⟨_, rfl, rfl, rfl, rfl⟩, rfl, rfl⟩
  case full =>
    refine ⟨_, congrArg Host.Outcome.next (s.event_full _ _ _ _ _ _ _ hon hfull), ?_⟩
    rw [State.count_ev]
    exact ⟨rfl, rfl, rfl, State.count_changes_regs_alone ..⟩
  case ckpt =>
    obtain ⟨h1, h2⟩ := s.evFlushWrite_ready hn hd hr (.inr he)
    refine ⟨_, State.when_of _ _ hon, ?_, ?_, ?_, h2⟩
    · rw [h1]
      exact congrArg some (if_pos hw)
    · rw [h1]
      exact hw
    · rw [h1]
      rfl
  case waits => exact ⟨_, State.when_of _ _ hon, s.evFlushWrite_waits hn hd hr hw he⟩
  case erased =>
    obtain ⟨hstat, hact, hhalf, x, y, hev⟩ := s.erasedHalf_reads
    obtain ⟨ha, hwant⟩ := State.evWantCkpt_congr hstat hact (by rw [hev])
    obtain ⟨h1, -⟩ := s.erasedHalf.flushStart_ready false (by rw [hev]; exact hn) (by rw [hev]; exact hd)
      ((congrArg (bitOf · 29) hstat).trans hr) (.inr (by rw [ha, hhalf]))
    refine ⟨s.erasedHalf.flushStart false, (State.when_of _ _ (by rw [hon, he]; rfl)).trans (congrArg _ (if_pos ?_)), ?_, ?_, ?_⟩
    · exact (congrArg EvSt.flushWait hev).trans hwait
    · rw [h1]
      exact congrArg some (if_pos (hwant.trans hw))
    · rw [h1]
      exact hwant.trans hw
    · have hh : (s.erasedHalf.flushStart false).evHalf (!s.evActive) = s.erasedHalf.evHalf (!s.evActive) := by
        unfold State.evHalf
        rw [h1]
        rfl
      rw [hh, hhalf]
  case write =>
    obtain ⟨h1, h2⟩ := s.evFlushWrite_ready hn hd hr (.inl hw)
    refine ⟨_, State.when_of _ _ hon, ?_, ?_, h2⟩
    · rw [h1]
      exact congrArg some (if_neg (by rw [hw]; exact Bool.false_ne_true))
    · rw [h1]
      rfl
  case start =>
    obtain ⟨h1, -⟩ := s.flushStart_ready false hn hd hr (.inl hw)
    refine ⟨s.flushStart false, (if_neg (by rw [hm]; exact Bool.false_ne_true)).trans (State.when_of _ _ ?_), ?_, ?_⟩
    · simpa [hon, or_assoc] using hdue
    · rw [h1]
      exact congrArg some (if_neg (by rw [hw]; exact Bool.false_ne_true))
    · rw [h1]
      rfl
  case mode =>
    obtain ⟨h1, -⟩ := State.flushStart_ready { s with pw := { s.pw with chg := s.pw.chg.map (fun (c : ModeChg) => { c with flushed := true }) } }
      true hn hd hr (.inl hw)
    refine ⟨_, (if_pos hm).trans (State.when_of _ _ (by rw [hon, hn, hr, hd]; rfl)), ?_, ?_⟩
    · rw [h1]
      exact congrArg some (if_neg (fun h => Bool.false_ne_true (hw.symm.trans h)))
    · rw [h1]
      rfl
  case done =>
    obtain ⟨h1, h2, h3, h4, h5, h6, h7, h8⟩ := s.flushDone_reads xs
    refine ⟨s.flushDone xs, ?_, h1, h2, h3, h4, h6, h7, h8⟩
    refine (hflush true xs hx).trans ((State.when_of _ _ hon).trans (congrArg _ ((if_pos rfl).trans (if_neg ?_))))
    rw [h5, hres]
    exact Bool.false_ne_true
  case reset =>
    obtain ⟨-, -, -, -, h5, -, -, -⟩ := s.flushDone_reads xs
    refine ⟨(s.flushDone xs).warmReset, ?_, State.warmReset_mode _ (by rw [h5, haon])⟩
    refine (hflush true xs hx).trans ((State.when_of _ _ hon).trans (congrArg _ ((if_pos rfl).trans (if_pos ?_))))
    rw [h5, hres, hfail]
    rfl
  case fail =>
    exact ⟨s.flushFail xs, (hflush false xs hx).trans ((State.when_of _ _ hon).trans (congrArg _ (if_neg Bool.false_ne_true))), s.flushFail_reads xs⟩
  case stop =>
    have hstop : ∃ ys, exec .logFlushStop s =
        .next (({ s with ev := { s.ev with ckpt := false } } : State).evProgram s.evActive ys).flushEnd.drawn := by
      rw [show exec .logFlushStop s = execLogFlushStop s from rfl, execLogFlushStop, hx]
      exact ⟨_, State.when_of _ _ (by rw [hon, hm]; rfl)⟩
    obtain ⟨ys, hys⟩ := hstop
    exact ⟨_, hys, s.flushStop_reads ys⟩
  case erase =>
    obtain ⟨hstat, hact, hhalf, x, y, hev⟩ := s.erasedHalf_reads
    refine ⟨s.erasedHalf, (State.when_of _ _ (by rw [hon, he]; rfl)).trans (congrArg _ (if_neg ?_)), ?_, ?_, s.setHalf_eq _ _⟩
    · exact fun h => Bool.false_ne_true (hwait.symm.trans ((congrArg EvSt.flushWait hev).symm.trans h))
    · rw [hhalf]
    · rw [hhalf]
  case readA => 
    refine readback_found s badA badB (useB := false) hon h29 ?_ hA
    rw [hA]
    rcases hB with hB | hB
    · rw [hB]
      rfl
    · rw [decide_eq_false (by omega)]
      exact Bool.and_false _
  case readB =>
    refine readback_found s badA badB (useB := true) hon h29 ?_ hB
    rw [hB]
    rcases hA with hA | hA
    · rw [hA]
      rfl
    · rw [decide_eq_true hA, Bool.or_true]
      rfl
  case none =>
    obtain ⟨h29', hslots, hlast⟩ := s.readLost_empty
    obtain ⟨r, h1, h2, h3⟩ := evTake_lost s.readLost s.lossOf rfl hslots hlast h29'
    exact ⟨_, r, readback_none s badA badB hon h29 hA hB, h1, h2, h3⟩

end Sys2Proof.Proofs
end


-- ==== Sys2Proof/Proofs/Ledgers.lean ====
section
set_option Elab.async false
/-!
PROOF. Stamps and the conservation ledgers: grants and returns, the reports of a stop, the rebuild of a leaf, the audit at its
deadline (R326, R328, R332–R334, R340). Settles O23.
-/
namespace Sys2Proof.Machine
namespace State
variable (s : State)

/-! ### Stamps -/

/-- What a stop holds of a destination, and what the destination has given out. -/
def restamp (d t held used : Nat) : State := (s.setHeld d t held).setUsed d used

theorem restamp_reads (d t held used : Nat) : (s.restamp d t held used).stampHeld d t = held ∧ (s.restamp d t held used).stampUsed d = used ∧
    s.restamp d t held used = { s with rnd := (s.restamp d t held used).rnd } :=
  ⟨SMap.get_set_same _ _ _ _, SMap.get_set_same _ _ _ _, rfl⟩

/-! ### Leaves -/

theorem leafA_putLeaf_same (j v : Nat) : SMap.get (s.putLeaf j v).tal.leafA j {} = { val := v } := SMap.get_set_same _ _ _ _
theorem leafB_putLeaf_same (j v : Nat) : SMap.get (s.putLeaf j v).tal.leafB j {} = { val := v } := SMap.get_set_same _ _ _ _
theorem leafA_putLeaf_ne {j i : Nat} (h : i ≠ j) (v : Nat) : SMap.get (s.putLeaf j v).tal.leafA i {} = SMap.get s.tal.leafA i {} :=
  SMap.get_set_ne _ _ _ _ h
theorem leafB_putLeaf_ne {j i : Nat} (h : i ≠ j) (v : Nat) : SMap.get (s.putLeaf j v).tal.leafB i {} = SMap.get s.tal.leafB i {} :=
  SMap.get_set_ne _ _ _ _ h

/-- A leaf of a stop that reports holds its latched value in both copies (R332). -/
theorem report_leaf (js : List Nat) {j : Nat} (hj : j ∈ js) :
    SMap.get (s.each js (fun t j => t.putLeaf j (SMap.get t.tal.latch j 0))).tal.leafA j {} = { val := SMap.get s.tal.latch j 0 } ∧
    SMap.get (s.each js (fun t j => t.putLeaf j (SMap.get t.tal.latch j 0))).tal.leafB j {} = { val := SMap.get s.tal.latch j 0 } := by
  refine (State.each_establishes (fun t => t.tal.latch = s.tal.latch)
    (fun t => SMap.get t.tal.leafA j {} = { val := SMap.get s.tal.latch j 0 } ∧ SMap.get t.tal.leafB j {} = { val := SMap.get s.tal.latch j 0 })
    _ j js s hj (fun t i _ ht => ht) (fun t ht => ?_) (fun t i _ ht hQ => ?_) rfl)
  · rw [leafA_putLeaf_same, leafB_putLeaf_same, ht]
    exact ⟨rfl, rfl⟩
  · by_cases h : j = i
    · rw [← h, leafA_putLeaf_same, leafB_putLeaf_same, ht]
      exact ⟨rfl, rfl⟩
    · rw [leafA_putLeaf_ne _ h, leafB_putLeaf_ne _ h]
      exact hQ

theorem report_tal (js : List Nat) : s.each js (fun t j => t.putLeaf j (SMap.get t.tal.latch j 0)) =
    { s with tal := (s.each js (fun t j => t.putLeaf j (SMap.get t.tal.latch j 0))).tal } := by
  refine State.each_keeps (fun t => t = { s with tal := t.tal }) _ _ _ (fun t j _ ht => ?_) rfl
  generalize t.tal = x at ht
  subst ht
  rfl

/-- A leaf rebuilt from its unit, counted and recorded (R333). -/
def leafRebuilt (j : Nat) : State := ((s.putLeaf j (SMap.get s.tal.latch j 0)).count Reg.talRepair 15 8 1).repairEvent (j / 32) 0 j

theorem repairEvent_tal (l level slot : Nat) : (s.repairEvent l level slot).tal = s.tal := (s.repairEvent_touches l level slot).tal_eq

theorem repairEvent_rd (l level slot : Nat) (q : Reg) (h : regPart q.addr = .regs) : (s.repairEvent l level slot).rd q = s.rd q :=
  (s.repairEvent_touches l level slot).rd_keep .regs h

theorem leafRebuilt_reads (j : Nat) : SMap.get (s.leafRebuilt j).tal.leafA j {} = { val := SMap.get s.tal.latch j 0 } ∧
    SMap.get (s.leafRebuilt j).tal.leafB j {} = { val := SMap.get s.tal.latch j 0 } ∧ (s.leafRebuilt j).tal.rebuild = s.tal.rebuild ∧
    (s.leafRebuilt j).fld Reg.talRepair 15 8 = min 255 (s.fld Reg.talRepair 15 8 + 1) ∧ ∀ a, (s.leafRebuilt j).byte a = s.byte a := by
  unfold State.leafRebuilt
  rw [repairEvent_tal, State.count_tal]
  refine ⟨leafA_putLeaf_same .., leafB_putLeaf_same .., rfl, ?_, fun a => ?_⟩
  · rw [State.fld, repairEvent_rd _ _ _ _ _ rfl]
    exact State.fld_count_same _ _ _ _ _ (by decide) (by decide)
  · exact (State.repairEvent_touches ..).byte_eq a

/-! ### The audit -/

theorem rd_of_regs {s t : State} (h : t.regs = s.regs) (r : Reg) : t.rd r = s.rd r := congrArg (rdOf · r) h

/-- The count of audits as it stood. -/
def EpochsSame (s t : State) : Prop := t.rd Reg.talEpochs = s.rd Reg.talEpochs

theorem readLeaf_epochs (j : Nat) : EpochsSame s (s.readLeaf j) := by
  unfold State.readLeaf EpochsSame
  dsimp only
  split
  · rfl
  · rw [repairEvent_rd _ _ _ _ _ rfl, State.rd_count_ne _ _ _ _ (by decide)]
    rfl

theorem recompute_epochs (k : Nat) : EpochsSame s (s.recompute k) := by
  have hc : (s.count Reg.talRepair 7 0 1).rd Reg.talEpochs = s.rd Reg.talEpochs := State.rd_count_ne _ _ _ _ (by decide)
  unfold State.recompute EpochsSame
  dsimp only
  split
  · rw [repairEvent_rd _ _ _ _ _ rfl, State.rd_wr_ne _ _ (by simp; omega), hc]
  · split
    · rw [repairEvent_rd _ _ _ _ _ rfl, hc]
    · rw [repairEvent_rd _ _ _ _ _ rfl, hc]

theorem sumNodes_epochs : EpochsSame s s.sumNodes := by
  unfold State.sumNodes EpochsSame
  extract_lets +onlyGivenNames dev s1
  have h1 : s1.rd Reg.talEpochs = s.rd Reg.talEpochs :=
    State.each_keeps (fun t => t.rd Reg.talEpochs = s.rd Reg.talEpochs) _ _ _ (fun t k _ ht => by
      rw [State.rd_wr_ne _ _ (by simp; omega), State.rd_wr_ne _ _ (by simp; omega), ht]) rfl
  clear_value s1
  extract_lets +onlyGivenNames sum bad n s2
  rw [State.rd_setFld_ne _ _ _ _ (by decide), State.rd_setBit_ne _ _ _ (by decide), State.rd_setBit_ne _ _ _ (by decide)]
  exact (State.rd_wr_ne _ _ (by decide)).trans ((State.rd_wr_ne _ _ (by decide)).trans h1)

theorem discrepancy_epochs (l dev : Nat) : EpochsSame s (s.discrepancy l dev) := by
  unfold State.discrepancy EpochsSame
  extract_lets +onlyGivenNames ep leaves s1 s2 s3
  have h2 : s2.rd Reg.talEpochs = s.rd Reg.talEpochs :=
    (State.rd_wr_ne _ _ (by decide)).trans ((State.rd_wr_ne _ _ (by decide)).trans ((State.rd_wr_ne _ _ (by decide)).trans
      (State.rd_count_ne _ _ _ _ (by decide))))
  clear_value s2
  have h3 : s3.rd Reg.talEpochs = s.rd Reg.talEpochs := by
    simp only [s3]
    split
    · exact h2
    · exact (State.rd_setBit_ne _ _ _ (by decide)).trans h2
  clear_value s3
  exact (State.reads_event _ _ _ _ _ _ _ _ (by decide)).1.trans h3

theorem auditLedger_epochs (l : Nat) : EpochsSame s (s.auditLedger l) := by
  have hinfo : ∀ (t : State) (aud : Bool), ((t.setBit (Reg.talLedgerInfo l) 30 aud).setBit (Reg.talLedgerInfo l) 29 (!aud)).rd Reg.talEpochs =
      t.rd Reg.talEpochs := fun t aud => by
    rw [State.rd_setBit_ne _ _ _ (by simp; omega), State.rd_setBit_ne _ _ _ (by simp; omega)]
  unfold State.auditLedger EpochsSame
  extract_lets +onlyGivenNames info
  split
  · exact hinfo _ _
  split
  · extract_lets +onlyGivenNames k src s1 s2
    have h2 : s2.rd Reg.talEpochs = s.rd Reg.talEpochs := (hinfo _ _).trans (State.rd_count_ne _ _ _ _ (by decide))
    clear_value s2
    split
    · exact (State.reads_event _ _ _ _ _ _ _ _ (by decide)).1.trans h2
    · exact h2
  · extract_lets +onlyGivenNames src s1
    split
    · exact hinfo _ _
    · extract_lets +onlyGivenNames dev s2 s3
      have h2 : s2.rd Reg.talEpochs = s.rd Reg.talEpochs := (State.rd_wr_ne _ _ (by simp; omega)).trans (hinfo _ _)
      clear_value s2
      have h3 : s3.rd Reg.talEpochs = s.rd Reg.talEpochs :=
        State.each_keeps (fun t => t.rd Reg.talEpochs = s.rd Reg.talEpochs) _ _ _ (fun t i _ ht =>
          (State.rd_wr_ne _ _ (by simp; omega)).trans ht) h2
      clear_value s3
      split
      · exact (s3.discrepancy_epochs l dev).trans h3
      · exact h3

/-- The audit at its deadline: what it leaves of the count of epochs is one more (R334). -/
theorem audit_deadline (hon : s.hubOn = true) (hd : s.tal.due = true) (hen : s.bit Reg.talCtrl 0 = true) (ha : s.tal.asked = true) :
    ∃ t, exec (.tallyAudit [] [] []) s = .next t ∧ t.tal.due = false ∧ t.rd Reg.talEpochs = (s.rd Reg.talEpochs + 1) % 2 ^ 32 := by
  change ∃ t, execTallyAudit [] [] [] s = .next t ∧ _
  unfold execTallyAudit
  extract_lets +onlyGivenNames inUse src0 s1 touched s2 lost src2 s3 s4 s5 s6 src6 src7 s7
  have h2 : s2.rd Reg.talEpochs = s.rd Reg.talEpochs :=
    State.each_keeps (fun t => t.rd Reg.talEpochs = s.rd Reg.talEpochs) _ _ _ (fun t j _ ht => (t.readLeaf_epochs j).trans ht) rfl
  clear_value s2
  have h3 : s3.rd Reg.talEpochs = s.rd Reg.talEpochs := h2
  clear_value s3
  have h4 : s4.rd Reg.talEpochs = s.rd Reg.talEpochs :=
    State.each_keeps (fun t => t.rd Reg.talEpochs = s.rd Reg.talEpochs) _ _ _ (fun t j _ ht => (t.auditLedger_epochs j).trans ht) h3
  clear_value s4
  have h5 : s5.rd Reg.talEpochs = s.rd Reg.talEpochs := (State.sumNodes_epochs _).trans h4
  clear_value s5
  have h6 : s6.rd Reg.talEpochs = (s.rd Reg.talEpochs + 1) % 2 ^ 32 := (State.rd_wr_same _ _ _).trans (by rw [h5])
  clear_value s6
  have h7 : s7.tal.due = false := rfl
  have hr : s7.regs = s6.regs := rfl
  clear_value s7 lost
  have h7' : s7.rd Reg.talEpochs = (s.rd Reg.talEpochs + 1) % 2 ^ 32 := by rw [rd_of_regs hr, h6]
  refine ⟨s7, ?_, h7, h7'⟩
  have e1 : (!s.bit Reg.talCtrl 0) = false := by rw [hen]; rfl
  have e2 : (!lost.isEmpty && !s.tal.asked) = false := by rw [ha, Bool.not_true, Bool.and_false]
  refine (State.when_of _ _ (by rw [hon, hd]; rfl)).trans ?_
  rw [e1, e2]
  rfl

end State
end Sys2Proof.Machine

namespace Sys2Proof.Proofs
open Sys2Proof Sys2Proof.Machine

theorem stampGrant_eq (stop dest : Fin 18) (s : State) : exec (.stampBatch stop dest true 8) s =
    s.when (s.domOn domRnd && decide (s.stampHeld dest stop + 8 ≤ 64) && decide (s.stampUsed dest + 8 ≤ destSize dest))
      (s.restamp dest stop (s.stampHeld dest stop + 8) (s.stampUsed dest + 8)).pump := by
  change s.when (s.domOn domRnd && decide (8 = 8) && decide (s.stampHeld dest stop + 8 ≤ 64) && decide (s.stampUsed dest + 8 ≤ destSize dest)) _ = _
  rw [decide_eq_true rfl, Bool.and_true]
  rfl

/-- Settles O23. -/
theorem conservationLedgers : Obligations.ConservationLedgers := by
  refine ⟨fun stop dest s hrnd => ⟨fun hroom hpool hj hq hm => ?grant, fun hno => ?refused, fun n hn hu => ?back, fun h0 hn hu => ?idle⟩,
    fun s hon => ⟨fun stop hrnd hd hr => ?report, fun slot hs => ?rebuild, fun a b n hd hoff => ?off, fun hd hen ha => ?audit⟩⟩
  case grant =>
    obtain ⟨h1, h2, h3⟩ := s.restamp_reads dest stop (s.stampHeld dest stop + 8) (s.stampUsed dest + 8)
    have hp := State.pump_of_quiet (s.restamp dest stop (s.stampHeld dest stop + 8) (s.stampUsed dest + 8)) hj hq hm
    refine ⟨s.restamp dest stop (s.stampHeld dest stop + 8) (s.stampUsed dest + 8), ?_, h1, h2, h3⟩
    rw [stampGrant_eq, hp]
    exact State.when_of _ _ (by rw [hrnd, decide_eq_true hroom, decide_eq_true hpool]; rfl)
  case refused =>
    rw [stampGrant_eq]
    refine State.when_not _ _ ?_
    rcases hno with hno | hno
    · rw [decide_eq_false (Nat.not_le.mpr hno), Bool.and_false, Bool.false_and]
    · rw [decide_eq_false (Nat.not_le.mpr hno), Bool.and_false]
  case back =>
    obtain ⟨h1, h2, h3⟩ := s.restamp_reads dest stop (s.stampHeld dest stop - n) (s.stampUsed dest - n)
    refine ⟨s.restamp dest stop (s.stampHeld dest stop - n) (s.stampUsed dest - n), ?_, ?_, ?_, h3⟩
    · exact State.when_of _ _ (by rw [hrnd, decide_eq_true hn]; rfl)
    · rw [h1]
      omega
    · rw [h2]
      omega
  case idle =>
    obtain ⟨h1, h2, h3⟩ := s.restamp_reads dest stop (s.stampHeld dest stop - SMap.get s.rnd.stampDue (18 * dest.val + stop.val) 0)
      (s.stampUsed dest - SMap.get s.rnd.stampDue (18 * dest.val + stop.val) 0)
    refine ⟨s.restamp dest stop (s.stampHeld dest stop - SMap.get s.rnd.stampDue (18 * dest.val + stop.val) 0)
      (s.stampUsed dest - SMap.get s.rnd.stampDue (18 * dest.val + stop.val) 0), State.when_of _ _ (by simp [hrnd, hn, h0]), ?_, ?_, h3⟩
    · rw [h1]
      omega
    · rw [h2]
      omega
  case report =>
    refine ⟨_, State.when_of _ _ ?_, ?_, ?_, ?_⟩
    · simp [hon, hrnd, hd, hr]
    · exact List.mem_cons_self
    · have h := s.report_tal (reportedBy stop.val)
      generalize s.each (reportedBy stop.val) (fun t j => t.putLeaf j (SMap.get t.tal.latch j 0)) = u at h ⊢
      generalize u.tal = x at h
      subst h
      rfl
    · exact fun j hj => s.report_leaf _ hj
  case rebuild =>
    obtain ⟨h1, h2, h3, h4, h5⟩ := s.leafRebuilt_reads slot.val
    exact ⟨_, State.when_of _ _ (by simp [hon, hs]), by simp, h1, h2, h4, h5⟩
  case off =>
    exact ⟨_, (State.when_of _ _ (by rw [hon, hd]; rfl)).trans (congrArg _ (if_pos (by rw [hoff]; rfl))), rfl, rfl⟩
  case audit =>
    obtain ⟨t, ht, h1, h2⟩ := s.audit_deadline hon hd hen ha
    obtain ⟨u, hu, htouch⟩ := execTallyAudit_touches [] [] [] s
    obtain rfl : t = u := Host.Outcome.next.inj (ht.symm.trans hu)
    exact ⟨t, ht, h1, h2, fun a => htouch.byte_eq a⟩

end Sys2Proof.Proofs
end


-- ==== Sys2Proof/Proofs/ImageOpcodes.lean ====
section
set_option Elab.async false
/-!
PROOF. The Images group of opcodes: O28.
-/
namespace Sys2Proof.Machine

/-- LOAD_END of the load that ticket entry 1 stands for. -/
def endLoad0 : VReq := { port := 0, opcode := 0x0302, client := 0, seq := 0, payload := [1, 0x10, 0, 0] }

/-- Load 0 has no bytes and holds design slot 0 with page 0, which RUNNING run 0 holds too; both name ticket entry 1. Neither memory nor
the Page Map's cache holds the page's entry. -/
def loadSharesTicket : State :=
  let s := State.working 6 [domHub]
  { s with
    so := { s.so with
      designs := [(0, { state := 1, pageCount := 1 })]
      runs := [(0, { state := .running, curTkt := some 1, stateBase := 0, pageCount := 1 })] }
    fk := { s.fk with loads := [(0, { ticket := 1, slot := some 0, cfgBase := 0 })] }
    vl := { s.vl with handed := [endLoad0], tickets := [(1, { used := true, work := .load 0 })] } }

end Sys2Proof.Machine

namespace Sys2Proof.Proofs
open Sys2Proof Sys2Proof.Machine

/-- Refutes O28: the load that LOAD_END fails frees its pages first; a page whose Page Map entry is lost faults the run that holds it, and
where the run names the load's own ticket, that ends with the run's status and not with TRUNCATED. -/
theorem not_imageOpcodes : ¬ Obligations.ImageOpcodes := by
  intro h
  obtain ⟨-, -, -, hend, -⟩ := h 0 endLoad0 loadSharesTicket (by decide +kernel)
  obtain ⟨-, -, hload⟩ := hend ⟨by decide +kernel, by decide +kernel, by decide +kernel⟩ (by decide +kernel)
    (by decide +kernel)
  obtain ⟨-, hmissing⟩ := hload 0 (by decide +kernel)
  obtain ⟨t, ht, -, -, -, herr⟩ := hmissing (by decide +kernel)
  have hfault : ((stateAfter (exec (.loadEnd 0) loadSharesTicket)).tkt (loadSharesTicket.load 0).ticket).err = stIntegrity := by
    decide +kernel
  rw [ht] at hfault
  exact absurd (hfault.symm.trans herr) (by decide)

end Sys2Proof.Proofs
end


-- ==== Sys2Proof/Proofs/PayloadLimit.lean ====
section
set_option Elab.async false
/-!
PROOF. The payload limit of a Host Port (VL_LPk_CFG bit 30) stays through whatever an access to memory does: what memory's controllers
and Inline Encryption write of registers lies elsewhere, or beside that bit.
-/
namespace Sys2Proof.Machine

/-- No port's payload limit differs. -/
structure LimitKept (s t : State) : Prop where
  kept : ∀ k, t.bit (Reg.vlLpCfg k) 30 = s.bit (Reg.vlLpCfg k) 30

theorem mcBase_mod (c : Nat) : mcBase c % 64 = 0 := by
  unfold mcBase
  split <;> omega

namespace LimitKept
variable {s t u : State}

theorem refl : LimitKept s s := ⟨fun _ => rfl⟩
theorem trans (h : LimitKept s t) (h' : LimitKept t u) : LimitKept s u := ⟨fun k => (h'.kept k).trans (h.kept k)⟩

theorem of_touches {P : List Part} (h : Touches P s t) (hP : Part.regs ∉ P := by decide) : LimitKept s t := ⟨fun k =>
  congrArg (bitOf · 30) (h.rd_keep .regs (regPart_regs (by simp; omega)) hP)⟩

theorem ite {c : Prop} [Decidable c] (h : LimitKept s t) (h' : LimitKept s u) : LimitKept s (if c then t else u) := by
  split
  · exact h
  · exact h'

theorem each {α : Type} {xs : List α} {f : State → α → State} (h : LimitKept s t) (hf : ∀ u x, LimitKept u (f u x)) :
    LimitKept s (t.each xs f) := State.each_keeps (LimitKept s) f xs t (fun u x _ hu => hu.trans (hf u x)) h

theorem foldlFst {α γ : Type} {b : α} {xs : List γ} {g : State × α → γ → State × α} (h : LimitKept s t)
    (hf : ∀ u b x, LimitKept u (g (u, b) x).1) : LimitKept s (xs.foldl g (t, b)).1 := by
  induction xs generalizing t b with
  | nil => exact h
  | cons x xs ih => exact ih (b := (g (t, b) x).2) (h.trans (hf t b x))

/-- A write of a register whose address is none of the ports' configuration registers. -/
theorem wr {r : Reg} (hr : r.addr % 64 ≠ 0) (v : Nat) : LimitKept s (s.wr r v) := ⟨fun k =>
  State.bit_wr_ne _ _ _ (by simp; omega)⟩

theorem setFld {r : Reg} (hr : r.addr % 64 ≠ 0) (hi lo v : Nat) : LimitKept s (s.setFld r hi lo v) := wr hr _
theorem setBit {r : Reg} (hr : r.addr % 64 ≠ 0) (i : Nat) (b : Bool) : LimitKept s (s.setBit r i b) := wr hr _
theorem count {r : Reg} (hr : r.addr % 64 ≠ 0) (hi lo n : Nat) : LimitKept s (s.count r hi lo n) := wr hr _
theorem wr64 {q r : Reg} (hq : q.addr % 64 ≠ 0) (hr : r.addr % 64 ≠ 0) (v : Nat) : LimitKept s (s.wr64 q r v) := (wr hq _).trans (wr hr _)

/-- A write beside the bit, in a register that resets to 0 as the ports' do. -/
theorem field {r : Reg} (h0 : r.rst = 0) {hi lo : Nat} (h : lo ≤ hi) (hh : hi < 32) (hb : 30 < lo ∨ hi < 30) (v : Nat) :
    LimitKept s (s.setFld r hi lo v) := by
  refine ⟨fun k => ?_⟩
  by_cases ha : (Reg.vlLpCfg k).addr = r.addr
  · have hr : Reg.vlLpCfg k = r := by
      cases r
      simp only at ha h0
      rw [← ha, h0]
      rfl
    rw [hr]
    exact State.bit_setFld_other _ _ _ _ _ _ h hh hb
  · exact State.bit_setFld_ne _ _ _ _ _ ha

theorem other {r : Reg} (h0 : r.rst = 0) {i : Nat} (hi : i < 32) (hb : i ≠ 30) (b : Bool) : LimitKept s (s.setBit r i b) :=
  field h0 (Nat.le_refl i) hi (by omega) _

end LimitKept

namespace State
variable (s : State)

theorem icAlarm_limit (r addr mid kind : Nat) : LimitKept s (s.icAlarm r addr mid kind) := by
  unfold State.icAlarm
  refine .trans ?_ (.of_touches (State.event_touches ..))
  refine .trans ?_ (.wr64 (by decide) (by decide) _)
  refine .trans ?_ (.wr (by decide) _)
  exact .trans (.count (by decide) _ _ _) (.field rfl (by decide) (by decide) (.inl (by decide)) _)

theorem mcErr_limit (c kind a symbol mid : Nat) : LimitKept s (s.mcErr c kind a symbol mid) := by
  have h := mcBase_mod c
  unfold State.mcErr
  refine .trans (.wr ?_ _) (.wr64 ?_ ?_ _) <;> simp <;> omega

theorem poisonRead_limit (b mid : Nat) : LimitKept s (s.poisonRead b mid) := by
  have h := mcBase_mod (s.mcOf b)
  unfold State.poisonRead
  refine .trans (.count ?_ _ _ _) (State.mcErr_limit ..)
  simp
  omega

theorem tagUnread_limit (x mid : Nat) : LimitKept s (s.tagUnread x mid).1 := by
  unfold State.tagUnread
  dsimp only
  split
  · split
    · exact .of_touches (State.drawn_touches _)
    · exact .trans (.of_touches (State.drawn_touches _)) (State.icAlarm_limit ..)
  · have hev : LimitKept s (s.drawn.event 0x0602 5 (s.curForm x).r mid x) :=
      .trans (.of_touches (State.drawn_touches _)) (.of_touches (State.event_touches ..))
    split
    · exact hev.trans (State.poisonRead_limit ..)
    · exact hev

theorem lineCheck_limit (x mid : Nat) : LimitKept s (s.lineCheck x mid).1 := by
  unfold State.lineCheck
  dsimp only
  split
  · exact .refl
  · split
    · exact State.tagUnread_limit ..
    · split
      · exact .refl
      · exact State.icAlarm_limit ..

theorem linesCheck_limit (a n mid : Nat) : LimitKept s (s.linesCheck a n mid).1 := by
  unfold State.linesCheck
  refine .foldlFst .refl fun u b x => ?_
  split
  · exact .refl
  · exact State.lineCheck_limit ..

theorem icR_mod (r : Nat) : (Reg.icRStat r).addr % 64 ≠ 0 ∧ (Reg.icRWcnt r).addr % 64 ≠ 0 ∧ (Reg.icREpoch r).addr % 64 ≠ 0 ∧
    (Reg.icRPosLo r).addr % 64 ≠ 0 ∧ (Reg.icRPosHi r).addr % 64 ≠ 0 := by
  simp only [Reg.icRStat, Reg.icRWcnt, Reg.icREpoch, Reg.icRPosLo, Reg.icRPosHi]
  omega

theorem rekeyBegin_limit (r : Nat) : LimitKept s (s.rekeyBegin r) := by
  obtain ⟨hstat, hwcnt, hepoch, hlo, hhi⟩ := icR_mod r
  unfold State.rekeyBegin
  split
  · refine .trans ?_ (.of_touches (State.event_touches ..))
    refine .trans ?_ (.other rfl (by decide) (by decide) _)
    refine .trans ?_ (.setBit hstat _ _)
    exact .setBit hstat _ _
  · dsimp only
    refine .trans ?_ (.field rfl (by decide) (by decide) (.inr (by decide)) _)
    refine .trans ?_ (.other rfl (by decide) (by decide) _)
    refine .trans ?_ (.setBit hstat _ _)
    refine .trans ?_ (.wr64 hlo hhi _)
    refine .trans ?_ (.wr hwcnt _)
    refine .trans ?_ (.wr hepoch _)
    exact ⟨fun k => rfl⟩

theorem rekey_limit (r : Nat) : LimitKept s (s.rekey r) := by
  obtain ⟨hstat, -⟩ := icR_mod r
  unfold State.rekey
  refine .ite .refl (.ite (.setBit hstat _ _) (.ite (State.rekeyBegin_limit ..) ?_))
  refine .trans ?_ (.other rfl (by decide) (by decide) _)
  refine .trans ?_ (.setBit hstat _ _)
  exact ⟨fun k => rfl⟩

theorem wroteDram_limit (a n mid : Nat) : LimitKept s (s.wroteDram a n mid) := by
  have hcount : LimitKept s (s.countWrite a n mid) := by
    unfold State.countWrite
    refine .ite .refl (.each .refl fun t r => ?_)
    refine .trans ?_ (.wr (icR_mod r).2.1 _)
    exact ⟨fun k => rfl⟩
  unfold State.wroteDram
  exact .each hcount fun t r => .ite (State.rekey_limit ..) .refl

theorem reqDone_limit (q : McReq) : LimitKept s (s.reqDone q) := by
  unfold State.reqDone
  dsimp only
  split
  · split
    · exact .of_touches (State.mcAnswer_touches ..)
    · exact .trans (State.linesCheck_limit ..) (.of_touches (State.mcAnswer_touches ..))
  · exact .trans (.trans (State.wroteDram_limit ..) (.of_touches (State.breakReservations_touches ..))) (.of_touches (State.mcAnswer_touches ..))

theorem blkDone_limit (c id b cause : Nat) (bytes : List Byte) : LimitKept s (s.blkDone c id b cause bytes) := by
  unfold State.blkDone
  split
  · exact .refl
  · exact .ite (.trans (.of_touches (State.setMc_touches ..)) (State.reqDone_limit ..)) (.of_touches (State.setMc_touches ..))

theorem putBlk_limit (b : Nat) (bytes : List Byte) (mask mid : Nat) : LimitKept s (s.putBlk b bytes mask mid).st := by
  unfold State.putBlk
  dsimp only
  split
  · exact State.poisonRead_limit ..
  · exact .trans (.of_touches (State.putDram_touches ..)) (.of_touches (State.setMc_touches ..))

theorem writeCheck_limit (a n : Nat) (bem : Option Nat) (b mid : Nat) : LimitKept s (s.writeCheck a n bem b mid).1 := by
  unfold State.writeCheck
  split
  · exact .refl
  · exact State.lineCheck_limit ..

theorem issueWrite_limit (c : Nat) (w : McBlk) : LimitKept s (s.issueWrite c w) := by
  unfold State.issueWrite
  extract_lets +onlyGivenNames b qs v bad good m mid g
  have hv : LimitKept s v.1 := by
    refine .foldlFst (.trans (.of_touches (State.rowOpen_touches ..)) (.of_touches (State.unqueue_touches ..))) fun u x q => ?_
    exact State.writeCheck_limit ..
  clear_value v
  have hg : LimitKept s g.st := by
    simp only [g]
    split
    · exact hv
    · exact hv.trans (State.putBlk_limit ..)
  clear_value g
  exact .each (.each hg fun u e => State.blkDone_limit ..) fun u q => State.blkDone_limit ..

theorem issueFor_limit (a n : Nat) : LimitKept s (s.issueFor a n) := by
  unfold State.issueFor
  exact .each .refl fun t c => .each .refl fun u w => State.issueWrite_limit ..

theorem dramRead_limit (a n mid : Nat) : LimitKept s (s.dramRead a n mid).st := by
  have hi := s.issueFor_limit a n
  unfold State.dramRead
  dsimp only
  generalize s.issueFor a n = u at hi ⊢
  split
  · exact hi
  · split
    · split
      · exact hi.trans (State.linesCheck_limit ..)
      · exact hi.trans (State.linesCheck_limit ..)
    · exact .each hi fun t b => State.poisonRead_limit ..

theorem spUe_limit (b a : Nat) : LimitKept s (s.spUe b a) := by
  have hb : (Reg.spBEcc b).addr % 64 ≠ 0 ∧ (Reg.spBErraddr b).addr % 64 ≠ 0 := by
    simp only [Reg.spBEcc, Reg.spBErraddr]
    omega
  unfold State.spUe
  refine .trans ?_ (.of_touches (State.event_touches ..))
  refine .trans ?_ (.wr hb.2 _)
  exact .count hb.1 _ _ _

theorem noDecode_limit (mid a : Nat) : LimitKept s (s.noDecode 0 mid a) := by
  unfold State.noDecode State.deadLetter
  refine .trans ?_ (.of_touches (State.drawn_touches _))
  extract_lets +onlyGivenNames s1
  have h1 : LimitKept s s1 := ⟨fun k => State.bit_count_ne s 31 0 1 30 (by simp only [Reg.vlLpCfg, Reg.rndSDead]; omega)⟩
  clear_value s1
  split
  · exact h1.trans (.of_touches (State.event_touches ..))
  · extract_lets +onlyGivenNames key s2
    have h2 : LimitKept s s2 := (h1.trans (.wr (by decide) _)).trans (.of_touches (State.event_touches ..))
    clear_value s2
    exact ⟨h2.kept⟩

/-! ### Accesses of the hub's engines -/

/-- A read of a fabric address leaves everything as it stands. -/
theorem fabricAccess_read (a n mid : Nat) : (s.fabricAccess false a n mid [] none).st = s := by
  have hframe : ∀ k f o, (s.frameRead k f o n).st = s := fun k f o => by
    unfold State.frameRead
    split
    · rfl
    · split <;> rfl
  unfold State.fabricAccess
  dsimp only
  split
  · split
    · rfl
    · exact hframe ..
  · split
    · split <;> rfl
    · split
      · rfl
      · split <;> rfl

/-- An access that is no write of a register reaches nothing of the Vollor port (R393). -/
theorem access_vl (write peek : Bool) (a n mid : Nat) (data : List Byte) (bem : Option Nat) (h : write = false ∨ n ≠ 4) :
    (s.access write peek a n mid data bem).st.vl = s.vl := by
  have hreg : (s.regAccess write peek a n mid data bem).st.vl = s.vl := by
    unfold State.regAccess
    rcases h with h | h
    · subst h
      split
      · rfl
      · exact (State.regRead_touches ..).vl_eq
    · rw [if_pos (by simp [h])]
  have hfab : (s.fabricAccess write a n mid data bem).st.vl = s.vl := (State.fabricAccess_touches ..).vl_eq
  have hsp : (s.spAccess write a n data bem).st.vl = s.vl := (State.spAccess_touches ..).vl_eq
  have hbreak : ∀ (g : Got), g.st.vl = s.vl →
      (if write then { g with st := g.st.breakReservations mid a n } else g : Got).st.vl = s.vl := fun g hg => by
    split
    · exact (State.breakReservations_touches ..).vl_eq.trans hg
    · exact hg
  unfold State.access
  dsimp only
  split
  · rfl
  split
  · exact (State.soAccess_touches ..).vl_eq
  split
  · exact hbreak _ (by split <;> assumption)
  split
  · exact hbreak _ hsp
  split
  · rfl
  split
  · exact (State.dramWrite_touches ..).vl_eq
  · exact (State.dramRead_touches ..).vl_eq

theorem engineAccess_vl (stop mid a n : Nat) (write : Bool) (data : List Byte) (h : write = false ∨ n ≠ 4) :
    (s.engineAccess stop mid a n write data).st.vl = s.vl := by
  unfold State.engineAccess
  split
  · exact (State.noDecode_touches ..).vl_eq
  split
  · rfl
  · exact s.access_vl _ _ _ _ _ _ _ h

/-- A read of 16 bytes, as of a ring's control block, leaves every port's payload limit. -/
theorem engineAccess_limit (mid a : Nat) : LimitKept s (s.engineAccess 0 mid a 16 false []).st := by
  unfold State.engineAccess
  split
  · exact State.noDecode_limit ..
  split
  · exact .refl
  unfold State.access
  simp only [Bool.false_eq_true, if_false]
  split
  · exact .refl
  split
  · exact .of_touches (State.soAccess_touches ..)
  split
  · split
    · unfold State.regAccess
      exact .refl
    · rw [State.fabricAccess_read]
      exact .refl
  split
  · unfold State.spAccess
    simp only [Bool.false_eq_true, if_false]
    split
    · exact .refl
    · split
      · exact .refl
      · exact .each .refl fun t w => State.spUe_limit ..
  split
  · exact .refl
  · exact State.dramRead_limit ..

end State
end Sys2Proof.Machine
end


-- ==== Sys2Proof/Proofs/StreamOpcodes.lean ====
section
set_option Elab.async false
/-!
PROOF. The Streams group of opcodes and the delivery of what it buffers (R395, R396, R398, R414). Settles O31.
-/
namespace Sys2Proof.Machine

/-! ### The rings in memory -/

namespace State
variable (s : State)

theorem lpLimit_congr {s t : State} (h : LimitKept s t) (k : Nat) (v6 : Bool) : t.lpLimit k v6 = s.lpLimit k v6 := by
  unfold State.lpLimit
  rw [h.kept]

theorem ringCtl_keeps {x : Stream} {u : State} {c tail head : Nat} (h : s.ringCtl x = (u, c, tail, head)) : u.vl = s.vl ∧ LimitKept s u := by
  have hu : u = (s.engineAccess 0 0x08 x.ctl 16 false []).st := (congrArg Prod.fst h).symm
  rw [hu]
  exact ⟨s.engineAccess_vl _ _ _ _ _ _ (.inl rfl), s.engineAccess_limit _ _⟩

theorem foldl_vl {α γ : Type} (f : State × α → γ → State × α) (hf : ∀ r c, (f r c).1.vl = r.1.vl) (l : List γ) (r : State × α) :
    (l.foldl f r).1.vl = r.1.vl := by
  induction l generalizing r with
  | nil => rfl
  | cons c cs ih => exact (ih _).trans (hf r c)

theorem ringRead_vl (a n : Nat) : (s.ringRead a n).1.vl = s.vl := by
  unfold State.ringRead
  refine foldl_vl _ (fun r c => ?_) _ _
  split
  · rfl
  · exact r.1.engineAccess_vl 0 0x08 c.1 c.2 false [] (.inl rfl)

theorem ringRead_zero (a : Nat) : s.ringRead a 0 = (s, 0, []) := rfl

theorem ringGet_vl (x : Stream) (n len : Nat) : (s.ringGet x n len).1.vl = s.vl := by
  have h1 := s.ringRead_vl (x.ringBase + n % ringSize x) (min len (ringSize x - n % ringSize x))
  unfold State.ringGet
  dsimp only
  split
  · exact h1
  · exact (State.ringRead_vl ..).trans h1

theorem ringGet_zero (x : Stream) (n : Nat) : s.ringGet x n 0 = (s, 0, []) := by
  unfold State.ringGet
  dsimp only
  rw [Nat.zero_min, State.ringRead_zero]
  rfl

/-! ### Requests about a stream -/

theorem serve_onStream {s : State} {o : Out} {c op : Nat} {q : VReq} {f : State → VReq → State} {good : Bool} {g : Nat → Stream → State}
    {k : Nat} {x : Stream} (hexec : o = s.serve c op (fun _ => true) f) (hf : f (s.taken q) q = (s.taken q).onStream q good g)
    (h : s.fronts c op q) (hm : s.mode ∈ streamModes) (hgood : good = true) (hq : hdrOk q = true) (hs : s.streamOf q = some (k, x)) :
    o = .next (g k x) := by
  refine (State.serve_checked hexec hf h hm hgood hq).trans ?_
  have hs' : (s.taken q).streamOf q = some (k, x) := hs
  rw [hs']

/-- A request about a stream that is answered at once. -/
theorem serve_onStream_answer {s : State} {o : Out} {c op : Nat} {q : VReq} {f : State → VReq → State} {good : Bool}
    {g : Nat → Stream → State} {k : Nat} {x : Stream} (hexec : o = s.serve c op (fun _ => true) f)
    (hf : f (s.taken q) q = (s.taken q).onStream q good g) (h : s.fronts c op q) (hm : s.mode ∈ streamModes) (hgood : good = true)
    (hq : hdrOk q = true) (hs : s.streamOf q = some (k, x)) (st : Nat) (p : List Byte) (hg : g k x = (s.taken q).answer q st p) :
    ∃ t, o = .next t ∧ Answered s t q st p ∧ t = { s with vl := t.vl } := by
  refine ⟨_, (State.serve_onStream hexec hf h hm hgood hq hs).trans (congrArg _ hg), State.answer_answered s (s.taken q) q st p rfl rfl, ?_⟩
  exact State.answer_frame (s.taken q) q st p

/-- An answer behind another table of streams. -/
theorem answer_streams (q : VReq) (m : SMap Stream) (st : Nat) (p : List Byte) :
    Answered s (State.answer { s.taken q with vl := { (s.taken q).vl with streams := m } } q st p) q st p ∧
    (State.answer { s.taken q with vl := { (s.taken q).vl with streams := m } } q st p).vl.streams = m ∧
    State.answer { s.taken q with vl := { (s.taken q).vl with streams := m } } q st p =
      { s with vl := (State.answer { s.taken q with vl := { (s.taken q).vl with streams := m } } q st p).vl } := by
  refine ⟨State.answer_answered s _ q st p rfl rfl, ?_, State.answer_frame _ q st p⟩
  obtain ⟨cs, hs, ts, rs, h⟩ := State.answer_eq { s.taken q with vl := { (s.taken q).vl with streams := m } } q st p
  rw [h]

theorem answer_vl_streams (q : VReq) (st : Nat) (p : List Byte) : (s.answer q st p).vl.streams = s.vl.streams := by
  obtain ⟨cs, hs, ts, rs, h⟩ := s.answer_eq q st p
  rw [h]

/-- A handler that has no room answers BUSY, and the request may come again (R391). -/
theorem handlerBusy_reads (q : VReq) (retry : Nat) : ∃ r rs, (s.handlerBusy q retry).vl.replies = s.vl.replies ++ r :: rs ∧
    (r.port = q.port ∧ r.opcode = q.opcode ∧ r.client = q.client ∧ r.seq = q.seq ∧ r.status = stBusy ∧ r.ticket = 0 ∧ r.payload = [] ∧
      r.flags % 2 = 1) ∧ (s.handlerBusy q retry).vl.streams = s.vl.streams := by
  obtain ⟨ts, hts⟩ := s.dropResv_eq q
  unfold State.handlerBusy
  extract_lets +onlyGivenNames cl mine src r s1 src2 s2
  have hd : (s.dropResv q).vl.replies = s.vl.replies ∧ (s.dropResv q).vl.streams = s.vl.streams := by
    rw [hts]
    exact ⟨rfl, rfl⟩
  have h2 : s2.vl.replies = s.vl.replies ++ [r] ∧ s2.vl.streams = s.vl.streams := by
    refine ⟨?_, hd.2⟩
    rw [← hd.1]
    rfl
  have hr : r.port = q.port ∧ r.opcode = q.opcode ∧ r.client = q.client ∧ r.seq = q.seq ∧ r.status = stBusy ∧ r.ticket = 0 ∧ r.payload = [] ∧
      r.flags % 2 = 1 := ⟨rfl, rfl, rfl, rfl, rfl, rfl, rfl, lor_one_mod q.flags⟩
  clear_value s2 r src
  obtain ⟨rs, h⟩ := State.pushAll (s.vl.heldDup.filter mine) (fun d => { r with port := d.port, peer := d.peer, buf := false }) s2
  rw [h]
  exact ⟨r, rs, by simp [h2.1], hr, h2.2⟩

end State
end Sys2Proof.Machine

namespace Sys2Proof.Proofs
open Sys2Proof Sys2Proof.Machine

/-- The stream that STREAM_OPEN asks for (R414). -/
def askedStream (p : List Byte) : Machine.Stream :=
  { run := leAt p 0 2, toHost := leAt p 2 1 = 1, ringBase := leAt p 8 8, logSize := leAt p 3 1, ctl := leAt p 16 8
    allot := if leAt p 2 1 = 1 then 0 else leAt p 4 2 }

theorem streamOpenAnswers (c : Fin 64) (q : VReq) (s : State) (hm : s.mode ∈ [5, 6, 7, 8]) (k : Nat) (h : s.fronts c 0x0600 q)
    (hq : hdrOk q = true) (hgood : s.streamAskOk q.payload = true) (hfree : s.streamFree = some k) :
    (s.poolUsed + (if leAt q.payload 2 1 = 1 then 0 else leAt q.payload 4 2) ≤ 32768 → ∃ t x, exec (.streamOpen c) s = .next t ∧
      Answered s t q stOk (leBytes 2 k) ∧ t.stream k = some x ∧ x.run = leAt q.payload 0 2 ∧ x.toHost = decide (leAt q.payload 2 1 = 1) ∧
      x.ringBase = leAt q.payload 8 8 ∧ x.logSize = leAt q.payload 3 1 ∧ x.ctl = leAt q.payload 16 8 ∧
      x.allot = (if leAt q.payload 2 1 = 1 then 0 else leAt q.payload 4 2) ∧ x.nextOff = 0 ∧ x.bufs = [] ∧ t = { s with vl := t.vl }) ∧
    (32768 < s.poolUsed + (if leAt q.payload 2 1 = 1 then 0 else leAt q.payload 4 2) → ∃ t, exec (.streamOpen c) s = .next t ∧
      Answered s t q stNoResource [] ∧ t.vl.streams = s.vl.streams ∧ t = { s with vl := t.vl }) := by
  have hfree' : (s.taken q).streamFree = some k := hfree
  have hpool : (s.taken q).poolUsed = s.poolUsed := rfl
  refine ⟨fun hroom => ?_, fun hfull => ?_⟩
  · obtain ⟨hans, hstr, hframe⟩ := s.answer_streams q (SMap.put s.vl.streams k (askedStream q.payload)) stOk (leBytes 2 k)
    refine ⟨_, askedStream q.payload, (State.serve_checked (execStreamOpen.eq_1 c s) rfl h hm hgood hq).trans ?_, hans, ?_, rfl, rfl, rfl, rfl,
      rfl, rfl, rfl, rfl, hframe⟩
    · rw [hfree', hpool]
      exact congrArg _ (if_neg (Nat.not_lt.mpr hroom))
    · unfold State.stream
      rw [hstr]
      exact SMap.find_put_same _ _ _
  · have hexec : exec (.streamOpen c) s = .next ((s.taken q).answer q stNoResource []) := by
      refine (State.serve_checked (execStreamOpen.eq_1 c s) rfl h hm hgood hq).trans ?_
      rw [hfree', hpool]
      exact congrArg _ (if_pos hfull)
    exact ⟨_, hexec, State.answer_answered s (s.taken q) q _ _ rfl rfl, State.answer_vl_streams .., State.answer_frame (s.taken q) q _ _⟩

theorem streamDataAnswers (c : Fin 64) (q : VReq) (s : State) (hm : s.mode ∈ [5, 6, 7, 8]) (hq : hdrOk q = true) (k : Nat) (x : Machine.Stream)
    (hs : s.streamOf q = some (k, x)) (h : s.fronts c 0x0602 q) (hp : q.payload ≠ []) :
    (x.toHost = false → q.aux = x.nextOff % 2 ^ 32 → x.allot < x.bufs.length + (bufsOf q.payload).length →
      ∃ t, exec (.streamData c) s = .next t ∧ Replied s t q stBusy 0 [] ∧ t.vl.streams = s.vl.streams) ∧
    (x.toHost = false → q.aux ≠ x.nextOff % 2 ^ 32 →
      ∃ t, exec (.streamData c) s = .next t ∧ Answered s t q stBadParam [] ∧ t = { s with vl := t.vl }) ∧
    (x.toHost = false → q.aux = x.nextOff % 2 ^ 32 → x.bufs.length + (bufsOf q.payload).length ≤ x.allot →
      ∃ t, exec (.streamData c) s = .next t ∧ Answered s t q stOk [] ∧
        t.stream k = some { x with bufs := x.bufs ++ bufsOf q.payload, nextOff := x.nextOff + q.payload.length } ∧ t = { s with vl := t.vl }) ∧
    (x.toHost = true → ∃ t, exec (.streamData c) s = .next t ∧ Answered s t q stBadState [] ∧ t = { s with vl := t.vl }) := by
  have hgood : (!q.payload.isEmpty) = true := by simpa using hp
  have hexec := State.serve_onStream (execStreamData.eq_1 c s) rfl h hm hgood hq hs
  refine ⟨fun hin hoff hfull => ?_, fun hin hoff => ?_, fun hin hoff hroom => ?_, fun hout => ?_⟩
  · obtain ⟨r, rs, hrep, hr, hstr⟩ := (s.taken q).handlerBusy_reads q (s.taken q).streamRetry
    have hgo : exec (.streamData c) s = .next ((s.taken q).handlerBusy q (s.taken q).streamRetry).drawn := by
      refine hexec.trans ?_
      rw [if_neg (by simp [hin]), if_neg (not_not.mpr hoff), if_pos hfull]
    generalize (s.taken q).handlerBusy q (s.taken q).streamRetry = u at hgo hrep hstr
    exact ⟨_, hgo, replied_of r rs hrep hr, hstr⟩
  · refine State.serve_onStream_answer (execStreamData.eq_1 c s) rfl h hm hgood hq hs _ _ ?_
    rw [if_neg (by simp [hin]), if_pos hoff]
  · obtain ⟨hans, hstr, hframe⟩ := s.answer_streams q (SMap.put s.vl.streams k
      { x with bufs := x.bufs ++ bufsOf q.payload, nextOff := x.nextOff + q.payload.length }) stOk []
    refine ⟨_, hexec.trans ?_, hans, ?_, hframe⟩
    · rw [if_neg (by simp [hin]), if_neg (not_not.mpr hoff), if_neg (Nat.not_lt.mpr hroom)]
      rfl
    · unfold State.stream
      rw [hstr]
      exact SMap.find_put_same _ _ _
  · refine State.serve_onStream_answer (execStreamData.eq_1 c s) rfl h hm hgood hq hs _ _ ?_
    rw [if_pos hout]

/-- STREAM_READ behind the control block as it reads (R396). -/
theorem streamReadAnswers (c : Fin 64) (q : VReq) (s u : State) (hm : s.mode ∈ [5, 6, 7, 8]) (hq : hdrOk q = true) (k : Nat)
    (x : Machine.Stream) (hs : s.streamOf q = some (k, x)) (h : s.fronts c 0x0603 q) (hlen : q.payload.length = 4) (hout : x.toHost = true)
    (tail head n : Nat) (hctl : (s.taken q).ringCtl x = (u, 0, tail, head))
    (hn : n = min (min (leAt q.payload 0 4) (ringHeld tail head)) (min (ringSize x) (u.lpLimit q.port q.v6 - 8))) :
    (n = 0 → ∃ t, exec (.streamRead c) s = .next t ∧ Answered s t q stOk (leBytes 8 head)) ∧
    (∀ v d, n ≠ 0 → u.ringGet x head n = (v, 0, d) → (v.engineAccess 0 0x08 (x.ctl + 8) 8 true (leBytes 8 (head + n))).cause = 0 →
      ∃ t, exec (.streamRead c) s = .next t ∧ Answered s t q stOk (leBytes 8 head ++ d)) := by
  obtain ⟨hvl, hlimit⟩ := (s.taken q).ringCtl_keeps hctl
  have hrep : u.vl.replies = s.vl.replies := by rw [hvl]; rfl
  have hhand : u.vl.handed = s.vl.handed.erase q := by rw [hvl]; rfl
  have hexec : exec (.streamRead c) s = .next ((s.taken q).streamTake q x (leAt q.payload 0 4)) := by
    refine (State.serve_onStream (execStreamRead.eq_1 c s) rfl h hm (decide_eq_true hlen) hq hs).trans ?_
    rw [if_pos hout]
  have htake : (s.taken q).streamTake q x (leAt q.payload 0 4) =
      if (u.ringGet x head n).2.1 ≠ 0 then (u.ringGet x head n).1.answer q (causeStatus (u.ringGet x head n).2.1) []
      else if n = 0 then (u.ringGet x head n).1.answer q stOk (leBytes 8 head)
      else if ((u.ringGet x head n).1.engineAccess 0 0x08 (x.ctl + 8) 8 true (leBytes 8 (head + n))).cause ≠ 0 then
        ((u.ringGet x head n).1.engineAccess 0 0x08 (x.ctl + 8) 8 true (leBytes 8 (head + n))).st.answer q
          (causeStatus ((u.ringGet x head n).1.engineAccess 0 0x08 (x.ctl + 8) 8 true (leBytes 8 (head + n))).cause) []
      else ((u.ringGet x head n).1.engineAccess 0 0x08 (x.ctl + 8) 8 true (leBytes 8 (head + n))).st.answer q stOk
        (leBytes 8 head ++ (u.ringGet x head n).2.2) := by
    unfold State.streamTake
    rw [hctl, hn, State.lpLimit_congr hlimit]
    rfl
  refine ⟨fun h0 => ?_, fun v d h0 hget hcause => ?_⟩
  · refine ⟨_, hexec.trans (congrArg _ (htake.trans ?_)), State.answer_answered s u q stOk _ hrep hhand⟩
    rw [h0, State.ringGet_zero]
    rfl
  · have hv : v.vl = u.vl := (congrArg (fun r => r.1.vl) hget).symm.trans (u.ringGet_vl x head n)
    have hw := (v.engineAccess_vl 0 0x08 (x.ctl + 8) 8 true (leBytes 8 (head + n)) (.inr (by decide))).trans hv
    refine ⟨_, hexec.trans (congrArg _ (htake.trans ?_)), State.answer_answered s _ q stOk _ (by rw [hw, hrep]) (by rw [hw, hhand])⟩
    rw [hget, if_neg (by simp), if_neg h0, if_neg (by simp [hcause])]

/-- A delivery behind the control block as it reads (R395). -/
theorem streamDelivery_eq (s : State) (k : BitVec 14) {x : Machine.Stream} (hon : s.hubOn = true) (hx : s.stream k.toNat = some x)
    (hbufs : x.bufs ≠ []) (hdel : s.delivers x = true) {u : State} {tail head : Nat} (hctl : s.ringCtl x = (u, 0, tail, head))
    {out : List (List Byte)} (hfit : fitting x.bufs (ringSize x - ringHeld (x.nextOff - (x.bufs.map List.length).sum) head) = out) :
    exec (.streamDelivery k) s = .next (if out.isEmpty then u
      else if (u.ringPut x (x.nextOff - (x.bufs.map List.length).sum) out.flatten).2 ≠ 0 then
        (u.ringPut x (x.nextOff - (x.bufs.map List.length).sum) out.flatten).1
      else if ((u.ringPut x (x.nextOff - (x.bufs.map List.length).sum) out.flatten).1.engineAccess 0 0x08 x.ctl 8 true
          (leBytes 8 (x.nextOff - (x.bufs.map List.length).sum + out.flatten.length))).cause ≠ 0 then
        ((u.ringPut x (x.nextOff - (x.bufs.map List.length).sum) out.flatten).1.engineAccess 0 0x08 x.ctl 8 true
          (leBytes 8 (x.nextOff - (x.bufs.map List.length).sum + out.flatten.length))).st
      else ((u.ringPut x (x.nextOff - (x.bufs.map List.length).sum) out.flatten).1.engineAccess 0 0x08 x.ctl 8 true
          (leBytes 8 (x.nextOff - (x.bufs.map List.length).sum + out.flatten.length))).st.setStream k.toNat
            { x with bufs := x.bufs.drop out.length }) := by
  have hgo : (s.hubOn && !x.bufs.isEmpty && s.delivers x) = true := by
    rw [hon, hdel]
    simpa using hbufs
  change execStreamDelivery k s = _
  unfold execStreamDelivery
  extract_lets +onlyGivenNames n
  rw [show s.stream n = some x from hx]
  dsimp only
  rw [State.when_of _ _ hgo, hctl]
  dsimp only
  rw [hfit]
  rfl

/-- Settles O31. -/
theorem streamOpcodes : Obligations.StreamOpcodes := by
  intro c q s hm htk
  refine ⟨fun k h hq hgood hfree _ => streamOpenAnswers c q s hm k h hq hgood hfree, fun k x hs => ?_,
    fun k x out hon hx hbufs hdel u tail head hctl hfit => ⟨fun hout => ?_, fun v hout hput hcause => ?_⟩⟩
  · have hdr : ∀ op, s.fronts c op q → 0x0601 ≤ op → op ≤ 0x0604 → (q.aux = 0 ∨ op = 0x0602) → hdrOk q = true := by
      intro op h hlo hhi haux
      obtain ⟨-, -, rfl⟩ := h
      simp only [hdrOk, htk, Bool.and_eq_true, Bool.or_eq_true, decide_eq_true_eq]
      exact ⟨⟨trivial, haux⟩, .inr ⟨hlo, hhi⟩⟩
    have hdata : s.fronts c 0x0602 q → hdrOk q = true := fun h => hdr _ h (by decide) (by decide) (.inr rfl)
    refine ⟨fun h haux hp => ?_, fun h hp => (streamDataAnswers c q s hm (hdata h) k x hs h hp).1,
      fun h hp => (streamDataAnswers c q s hm (hdata h) k x hs h hp).2.1, fun h hp => (streamDataAnswers c q s hm (hdata h) k x hs h hp).2.2.1,
      fun h hp => (streamDataAnswers c q s hm (hdata h) k x hs h hp).2.2.2,
      fun u tail head n h haux hlen hout hctl hn => streamReadAnswers c q s u hm (hdr _ h (by decide) (by decide) (.inl haux)) k x hs h hlen hout
        tail head n hctl hn, fun h haux hlen hin => ?_, fun u tail head h haux hp hctl => ?_⟩
    · obtain ⟨hans, hstr, hframe⟩ := s.answer_streams q (SMap.erase s.vl.streams k) stOk []
      refine ⟨_, State.serve_onStream (execStreamClose.eq_1 c s) rfl h hm (by rw [hp]; rfl) (hdr _ h (by decide) (by decide) (.inl haux)) hs,
        hans, ?_, hframe⟩
      unfold State.stream
      exact (congrArg (SMap.find · k) hstr).trans (SMap.find_erase_same _ _)
    · refine State.serve_onStream_answer (execStreamRead.eq_1 c s) rfl h hm (decide_eq_true hlen)
        (hdr _ h (by decide) (by decide) (.inl haux)) hs _ _ ?_
      rw [if_neg (by simp [hin])]
    · obtain ⟨hvl, -⟩ := (s.taken q).ringCtl_keeps hctl
      refine ⟨_, (State.serve_onStream (execStreamStatus.eq_1 c s) rfl h hm (by rw [hp]; rfl)
        (hdr _ h (by decide) (by decide) (.inl haux)) hs).trans ?_, State.answer_answered s u q stOk _ (by rw [hvl]; rfl) (by rw [hvl]; rfl)⟩
      rw [hctl]
      rfl
  · rw [streamDelivery_eq s k hon hx hbufs hdel hctl hfit]
    exact congrArg _ (if_pos (by rw [hout]; rfl))
  · have hgo := streamDelivery_eq s k hon hx hbufs hdel hctl hfit
    rw [hput, if_neg (by simpa using hout), if_neg (by simp), if_neg (not_not.mpr hcause)] at hgo
    exact ⟨_, hgo, SMap.find_put_same _ _ _⟩

end Sys2Proof.Proofs
end


-- ==== Sys2Proof/Proofs/FabricPorts.lean ====
section
set_option Elab.async false
/-!
PROOF. Design I/O banks and the memory-model ports of a tile (R106, R107, R109, R110, R137–R141). Settles O4.
-/
namespace Sys2Proof.Machine

theorem stopOfTile_lt (n : Nat) (h : n < 8) : stopOfTile n < 18 := by
  revert h
  revert n
  decide

namespace State
variable (s : State)

theorem mmp_of_fab {s t : State} (h : t.fab = s.fab) (n k : Nat) : t.mmp n k = s.mmp n k := by
  unfold State.mmp
  rw [h]

/-! ### Requests that go out by a stop write the Rounds' own registers alone -/

/-- The registers above the Rounds' own. -/
def HighKept (s t : State) : Prop := ∀ q : Reg, 0x50000 ≤ q.addr → t.rd q = s.rd q

theorem HighKept.trans {s t u : State} (h : HighKept s t) (h' : HighKept t u) : HighKept s u := fun q hq => (h' q hq).trans (h q hq)

theorem HighKept.of_touches {P : List Part} {s t : State} (h : Touches P s t) (hP : Part.regs ∉ P := by decide) : HighKept s t :=
  fun _ hq => h.rd_keep .regs (regPart_regs (by omega)) hP

theorem HighKept.bit {s t : State} (h : HighKept s t) {q : Reg} (hq : 0x50000 ≤ q.addr) (i : Nat) : t.bit q i = s.bit q i :=
  congrArg (bitOf · i) (h q hq)

theorem deadLetter_high (stop kind dst mid a : Nat) (h : stop < 18) : HighKept s (s.deadLetter stop kind dst mid a) := by
  unfold State.deadLetter
  extract_lets +onlyGivenNames s1
  have h1 : HighKept s s1 := fun q hq => State.rd_count_ne _ _ _ _ (by simp only [Reg.rndSDead]; omega)
  clear_value s1
  split
  · exact h1.trans (.of_touches (State.event_touches ..))
  · extract_lets +onlyGivenNames key s2
    have hl : HighKept s1 (s1.loadLastErr kind dst mid stop) := fun q hq => State.rd_wr_ne _ _ (by simp only [Reg.rndLasterr]; omega)
    have h2 : HighKept s s2 := (h1.trans hl).trans (.of_touches (State.event_touches ..))
    clear_value s2
    exact h2

theorem inject_high (stop mid a : Nat) (write peek : Bool) (len : Nat) (data : List Byte) (bem : Option Nat) (o : Origin) (h : stop < 18) :
    HighKept s (s.inject stop mid a write peek len data bem o).1 := by
  unfold State.inject
  split
  · exact (s.deadLetter_high _ _ _ _ _ h).trans (.of_touches (State.drawn_touches _))
  · dsimp only
    split
    · exact fun _ _ => rfl
    · split
      · exact fun _ _ => rfl
      · refine HighKept.trans ?_ (.of_touches (State.post_touches ..))
        exact fun q hq => State.rd_setFld_ne _ _ _ _ (by simp only [Reg.rndSOut]; omega)

theorem mmpGo_keeps {n k a len : Nat} {write : Bool} {data : List Byte} {bem : Option Nat} {o : Origin} (hn : n < 8) {t : State} {x : MmpTrip}
    (h : s.mmpGo n k a len write data bem o = some (t, x)) : HighKept s t ∧ t.fab = s.fab := by
  have hfab : t.fab = s.fab := by
    have hT := s.mmpGo_touches n k a len write data bem o
    rw [h] at hT
    exact hT.fab_eq
  refine ⟨?_, hfab⟩
  have hi := s.inject_high (stopOfTile n) (mmpMid n k) a write false len data bem o (stopOfTile_lt n hn)
  unfold State.mmpGo State.mmpSend at h
  dsimp only at h
  split at h
  · split at h
    · next t' heq =>
      rw [heq] at hi
      cases h
      exact hi
    · next t' p heq =>
      rw [heq] at hi
      cases h
      exact hi
    · cases h
  · split at h
    · cases h
      exact .of_touches (State.portSend_touches ..)
    · split at h
      · cases h
        exact fun _ _ => rfl
      · cases h

/-- What an issue leaves of its port: its request, its list and its lines, and, with no request open, its fill (R138). -/
theorem mmpIssue_keeps {n : Nat} (k : Nat) (hn : n < 8) : HighKept s (s.mmpIssue n k) ∧ ((s.mmpIssue n k).mmp n k).pend = (s.mmp n k).pend ∧
    ((s.mmpIssue n k).mmp n k).wbs = (s.mmp n k).wbs ∧ ((s.mmpIssue n k).mmp n k).lines = (s.mmp n k).lines ∧
    ((s.mmp n k).pend = none → ((s.mmpIssue n k).mmp n k).fill = (s.mmp n k).fill) := by
  unfold State.mmpIssue
  extract_lets +onlyGivenNames m direct s1
  have h1 : HighKept s s1 ∧ (s1.mmp n k).pend = (s.mmp n k).pend ∧ (s1.mmp n k).wbs = (s.mmp n k).wbs ∧
      (s1.mmp n k).lines = (s.mmp n k).lines ∧ ((s.mmp n k).pend = none → (s1.mmp n k).fill = (s.mmp n k).fill) := by
    simp only [s1]
    split
    · next q hq =>
      split
      · exact ⟨fun _ _ => rfl, rfl, rfl, rfl, fun _ => rfl⟩
      · split
        · next t x heq =>
          obtain ⟨hr, hf⟩ := s.mmpGo_keeps hn heq
          have hm := mmp_of_fab hf n k
          rw [mmp_setMmp, hm]
          exact ⟨hr, rfl, rfl, rfl, fun h => absurd (h.symm.trans hq) (by simp)⟩
        · exact ⟨fun _ _ => rfl, rfl, rfl, rfl, fun _ => rfl⟩
    · exact ⟨fun _ _ => rfl, rfl, rfl, rfl, fun _ => rfl⟩
  clear_value s1
  split
  · split
    · exact h1
    · split
      · next t x heq =>
        obtain ⟨hr, hf⟩ := s1.mmpGo_keeps hn heq
        have hm := mmp_of_fab hf n k
        rw [mmp_setMmp, hm]
        exact ⟨h1.1.trans hr, h1.2⟩
      · exact h1
  · exact h1

/-! ### A port's answer -/

theorem mmpRespond_reads (n k data : Nat) (err ue : Bool) : ((s.mmpRespond n k data err ue).mmp n k).pend = none ∧
    ((s.mmpRespond n k data err ue).mmp n k).fill = none ∧ (s.mmpRespond n k data err ue).bit (Reg.mmpCtrl n k) 28 = err ∧
    ∀ i, (s.mmpRespond n k data err ue).bit (Reg.mmpStat n k) i = s.bit (Reg.mmpStat n k) i := by
  unfold State.mmpRespond
  extract_lets +onlyGivenNames s1
  have h1 : ∀ i, s1.bit (Reg.mmpStat n k) i = s.bit (Reg.mmpStat n k) i := fun i =>
    State.each_keeps (fun u => u.bit (Reg.mmpStat n k) i = s.bit (Reg.mmpStat n k) i) _ _ _ (fun u j hj hu => by
      have hlt := List.mem_range.mp hj
      rw [State.bit_wr_ne _ _ _ (by simp only [Reg.mmpStat, Reg.mmpRdata]; omega)]
      exact hu) rfl
  clear_value s1
  rw [mmp_setMmp]
  refine ⟨rfl, rfl, ?_, fun i => ?_⟩
  · rw [setMmp_bit, State.bit_setBit_other _ _ _ _ _ (by decide) (by decide), State.bit_setBit_same _ _ _ _ (by decide)]
  · rw [setMmp_bit, State.bit_setBit_ne _ _ _ _ (by simp only [Reg.mmpStat, Reg.mmpCtrl]; omega),
      State.bit_setBit_ne _ _ _ _ (by simp only [Reg.mmpStat, Reg.mmpCtrl]; omega), h1]

/-- A fill that memory has answered: the port's request is done, and CTRL.ERR says how (R138, R141). -/
theorem mmpAnswer_reads (n k : Nat) (q : MmpReq) (bad : Bool) (cause : Nat) (data : List Byte) :
    ((s.mmpAnswer n k q bad cause data).mmp n k).pend = none ∧ ((s.mmpAnswer n k q bad cause data).mmp n k).fill = none ∧
    (s.mmpAnswer n k q bad cause data).bit (Reg.mmpCtrl n k) 28 = bad ∧
    (bad = true → (s.mmpAnswer n k q bad cause data).bit (Reg.mmpStat n k) 1 = true) := by
  unfold State.mmpAnswer
  cases bad with
  | true =>
    rw [if_pos rfl]
    unfold State.mmpError
    dsimp only
    generalize s.mmpBay n k = bay
    generalize s.mmpBp n k = bp
    generalize (s.mmpReach n k q).1 = a
    have hstat : ((s.drawn.setBit (Reg.mmpStat n k) 1 true).event 0x020A 4 (tileLoc n bay (bp % 4) 0) (s.bpRec bp).run a).bit
        (Reg.mmpStat n k) 1 = true := by
      rw [(State.reads_event _ _ _ _ _ _ _ _ (by simp only [Reg.mmpStat, Reg.evDisc]; omega)).2.2, State.bit_setBit_same _ _ _ _ (by decide)]
    generalize (s.drawn.setBit (Reg.mmpStat n k) 1 true).event 0x020A 4 (tileLoc n bay (bp % 4) 0) (s.bpRec bp).run a = u at hstat ⊢
    obtain ⟨h1, h2, h3, h4⟩ := u.mmpRespond_reads n k 0 true (decide (cause = 3) && decide (s.freeVal 2 = 1))
    exact ⟨h1, h2, h3, fun _ => (h4 1).trans hstat⟩
  | false =>
    rw [if_neg Bool.false_ne_true]
    split
    · obtain ⟨h1, h2, h3, -⟩ := s.mmpRespond_reads n k (if q.we then 0 else leNat data) false false
      exact ⟨h1, h2, h3, fun h => absurd h (by simp)⟩
    · unfold State.mmpHit
      obtain ⟨h1, h2, h3, -⟩ := State.mmpRespond_reads _ n k _ false false
      exact ⟨h1, h2, h3, fun h => absurd h (by simp)⟩

theorem mmpFlushTry_keeps (n k : Nat) : (s.mmpFlushTry n k).regs = s.regs ∧ ((s.mmpFlushTry n k).mmp n k).pend = (s.mmp n k).pend ∧
    ((s.mmpFlushTry n k).mmp n k).fill = (s.mmp n k).fill := by
  unfold State.mmpFlushTry
  dsimp only
  split
  · rw [mmp_setMmp]
    exact ⟨rfl, rfl, rfl⟩
  · exact ⟨rfl, rfl, rfl⟩

end State
end Sys2Proof.Machine

namespace Sys2Proof.Proofs
open Sys2Proof Sys2Proof.Machine

/-- Only pins below 47 are driven by cells: bit 47 of a burst's word is FRAME (R107). -/
theorem frameBit_foldl (v : Nat) (p : Nat → Bool) (l : List Nat) (hl : ∀ x ∈ l, x < 47) :
    bitOf (l.foldl (fun v pin => if p pin then putBits v pin pin 1 else v) v) 47 = bitOf v 47 := by
  induction l generalizing v with
  | nil => rfl
  | cons x xs ih =>
    rw [List.foldl_cons, ih _ (fun y hy => hl y (List.mem_cons_of_mem _ hy))]
    split
    · exact bitOf_putBits_other _ _ _ _ _ (Nat.le_refl _) (.inr (hl x List.mem_cons_self))
    · rfl

/-- The word that the drivers of a bank make for bit time `i` of a burst (R107). -/
def burstWord (s : State) (k : Fin 12) (i : Nat) : Nat :=
  (s.bankDrivers (bankTile k).1 (bankTile k).2).foldl (fun v d => (List.range 47).foldl (fun v pin =>
    if s.hbField d 8 ((48 * (bankTile k).2 + pin) * 16 + i) % 2 = 1 &&
        s.ffQ d (s.hbField d 8 ((48 * (bankTile k).2 + pin) * 16 + i) / 2 % 163840)
      then putBits v pin pin 1 else v) v) (if i = 0 then 2 ^ 47 else 0)

theorem frameBit_drivers (ds : List Nat) (p : Nat → Nat → Bool) (v : Nat) :
    bitOf (ds.foldl (fun v d => (List.range 47).foldl (fun v pin => if p d pin then putBits v pin pin 1 else v) v) v) 47 = bitOf v 47 := by
  induction ds generalizing v with
  | nil => rfl
  | cons d ds ih =>
    rw [List.foldl_cons, ih]
    exact frameBit_foldl v (p d) _ (fun x hx => List.mem_range.mp hx)

theorem burstWord_frame (s : State) (k : Fin 12) (i : Nat) : bitOf (burstWord s k i) 47 = decide (i = 0) := by
  unfold burstWord
  refine (frameBit_drivers _ (fun d pin => _) _).trans ?_
  split
  · next h => rw [h]; decide
  · next h => rw [decide_eq_false h]; decide

theorem sample_executes (k : Fin 12) (pins : BitVec 48) (s : State) : exec (.designInputSample k pins) s =
    s.when ((s.bank k).samplePend && s.bankOn (bankTile k).1 (bankTile k).2 && !s.bankHeld (bankTile k).1 (bankTile k).2 &&
        s.fld (Reg.dioBCfg (bankTile k).1 (bankTile k).2) 30 29 = 0)
      (s.setBank k { s.bank k with ins := pins.toNat, insPrev := (s.bank k).ins, samplePend := false }) := rfl

theorem inputBurst_executes (k : Fin 12) (ws : List (BitVec 48)) (s : State) : exec (.inputBurst k ws) s =
    s.when ((s.bank k).samplePend && s.bankOn (bankTile k).1 (bankTile k).2 && !s.bankHeld (bankTile k).1 (bankTile k).2 &&
        s.fld (Reg.dioBCfg (bankTile k).1 (bankTile k).2) 30 29 = 2)
      (s.setBank k { s.bank k with
        burst := (ws.take (burstWidth (s.fld (Reg.dioBCfg (bankTile k).1 (bankTile k).2) 28 27))).map BitVec.toNat
        burstPrev := (s.bank k).burst, samplePend := false }) := rfl

theorem burst_executes (k : Fin 12) (s : State) : exec (.burstTransfer k) s =
    s.when ((s.bank k).burstPend && s.bankOn (bankTile k).1 (bankTile k).2 && !s.bankHeld (bankTile k).1 (bankTile k).2)
      (s.setBank k { s.bank k with
        burst := (List.range (burstWidth (s.fld (Reg.dioBCfg (bankTile k).1 (bankTile k).2) 28 27))).map (burstWord s k)
        burstPend := false, dclko := false }) := rfl

theorem burstWidth_fld {s : State} (r : Reg) : burstWidth (s.fld r 28 27) = 2 ^ (s.fld r 28 27 + 1) := by
  have h : s.fld r 28 27 < 4 := s.fld_lt r 28 27
  unfold burstWidth
  rw [Nat.mod_eq_of_lt h]

theorem mmpFlushKept (n : Tile) (k : Fin 8) (s : State) (hon : s.domOn (domTile n) = true) :
    ∃ t, exec (.mmpFlush n k) s = .next t ∧ t.bit (Reg.mmpCtrl n k) 29 = true := by
  refine ⟨_, State.when_of _ _ hon, ?_⟩
  unfold State.mmpFlush State.bit State.rd
  rw [(State.mmpFlushTry_keeps _ _ _).1]
  exact State.bit_setBit_same _ _ _ _ (by decide)

theorem mmpFillAnswered (n : Tile) (k : Fin 8) (s : State) (hon : s.domOn (domTile n) = true) {q : MmpReq} {x : MmpTrip} {st cause : Nat}
    {data : List Byte} (hq : (s.mmp n k).pend = some q) (hx : (s.mmp n k).fill = some x) (ha : x.answer = some (st, cause, data)) :
    ∃ t, exec (.mmpFillComplete n k) s = .next t ∧ (t.mmp n k).pend = none ∧ (t.mmp n k).fill = none ∧
      t.bit (Reg.mmpCtrl n k) 28 = decide (st ≠ 0) ∧ (st ≠ 0 → t.bit (Reg.mmpStat n k) 1 = true) := by
  have hexec : exec (.mmpFillComplete n k) s = s.when (s.domOn (domTile n))
      (((s.mmpAnswer n k q (decide (st ≠ 0)) cause data).mmpFlushTry n k).mmpIssue n k) := by
    change execMmpFillComplete n k s = _
    unfold execMmpFillComplete
    dsimp only
    rw [hq]
    dsimp only
    rw [hx]
    dsimp only
    rw [ha]
  obtain ⟨h1, h2, h3, h4⟩ := s.mmpAnswer_reads n k q (decide (st ≠ 0)) cause data
  generalize s.mmpAnswer n k q (decide (st ≠ 0)) cause data = u at h1 h2 h3 h4 hexec
  obtain ⟨hregs, hp, hf⟩ := u.mmpFlushTry_keeps n k
  have hbit : ∀ r i, (u.mmpFlushTry n k).bit r i = u.bit r i := fun r i => by
    unfold State.bit State.rd
    rw [hregs]
  generalize u.mmpFlushTry n k = v at hp hf hbit hexec
  obtain ⟨hr, hpend, -, -, hfill⟩ := v.mmpIssue_keeps k n.isLt
  refine ⟨_, hexec.trans (State.when_of _ _ hon), hpend.trans (hp.trans h1), (hfill (hp.trans h1)).trans (hf.trans h2), ?_, fun hne => ?_⟩
  · rw [hr.bit (by simp only [Reg.mmpCtrl]; omega), hbit, h3]
  · rw [hr.bit (by simp only [Reg.mmpStat]; omega), hbit, h4 (decide_eq_true hne)]

/-- The oldest write-back of a port, answered: it has left the list. -/
theorem mmpWrittenBack (n : Tile) (k : Fin 8) (s : State) (hon : s.domOn (domTile n) = true) {l : MmpLine} {rest : List MmpLine} {x : MmpTrip}
    {st cause : Nat} {data : List Byte} (hl : (s.mmp n k).wbs = l :: rest) (hx : (s.mmp n k).wb = some x)
    (ha : x.answer = some (st, cause, data)) : ∃ t, exec (.mmpWritebackComplete n k) s = .next t ∧ (t.mmp n k).wbs = rest ∧
      (t.mmp n k).lines = (s.mmp n k).lines ∧ (st ≠ 0 → t.bit (Reg.mmpStat n k) 2 = true) := by
  have hexec : exec (.mmpWritebackComplete n k) s = s.when (s.domOn (domTile n))
      ((if decide (st ≠ 0) then ((s.setMmp n k { s.mmp n k with wbs := rest, wb := none }).setBit (Reg.mmpStat n k) 2 true).event 0x020A 4
        (tileLoc n (s.mmpBay n k) (s.mmpBp n k % 4) 0) (s.bpRec (s.mmpBp n k)).run l.addr
        else s.setMmp n k { s.mmp n k with wbs := rest, wb := none }).mmpIssue n k) := by
    change execMmpWritebackComplete n k s = _
    unfold execMmpWritebackComplete
    dsimp only
    rw [hl]
    dsimp only
    rw [hx]
    dsimp only
    rw [ha]
  have hv : ∀ bad : Bool, ∃ v : State, (if bad then ((s.setMmp n k { s.mmp n k with wbs := rest, wb := none }).setBit (Reg.mmpStat n k) 2
        true).event 0x020A 4 (tileLoc n (s.mmpBay n k) (s.mmpBp n k % 4) 0) (s.bpRec (s.mmpBp n k)).run l.addr
        else s.setMmp n k { s.mmp n k with wbs := rest, wb := none }) = v ∧ v.mmp n k = { s.mmp n k with wbs := rest, wb := none } ∧
      (bad = true → v.bit (Reg.mmpStat n k) 2 = true) := by
    intro bad
    refine ⟨_, rfl, ?_, fun hb => ?_⟩
    · split
      · exact (State.mmp_of_fab ((State.event_touches ..).fab_eq.trans (State.setBit_fab ..)) n k).trans (State.mmp_setMmp ..)
      · exact State.mmp_setMmp ..
    · rw [if_pos hb, (State.reads_event _ _ _ _ _ _ _ _ (by simp only [Reg.mmpStat, Reg.evDisc]; omega)).2.2,
        State.bit_setBit_same _ _ _ _ (by decide)]
  obtain ⟨v, hv, hm, hb⟩ := hv (decide (st ≠ 0))
  rw [hv] at hexec
  obtain ⟨hr, -, hwbs, hlines, -⟩ := v.mmpIssue_keeps k n.isLt
  refine ⟨_, hexec.trans (State.when_of _ _ hon), hwbs.trans (by rw [hm]), hlines.trans (by rw [hm]), fun hne => ?_⟩
  rw [hr.bit (by simp only [Reg.mmpStat]; omega), hb (decide_eq_true hne)]

/-- Settles O4. -/
theorem designIoAndMemoryPorts : Obligations.DesignIoAndMemoryPorts := by
  refine ⟨fun k s => ⟨fun hon => ?fall, fun hon hheld => ⟨fun hp hmode pins => ?sample, fun hp => ?burst, fun hp hmode ws => ?input⟩⟩,
    fun n k s hon => ⟨mmpFlushKept n k s hon, fun hf hw => ?flushed, fun q x st cause data hq hx ha => mmpFillAnswered n k s hon hq hx ha,
      fun l rest x st cause data hl hx ha => mmpWrittenBack n k s hon hl hx ha⟩⟩
  case fall => exact ⟨_, State.when_of _ _ hon, State.bank_setBank ..⟩
  case sample => exact ⟨_, (sample_executes k pins s).trans (State.when_of _ _ (by rw [hp, hon, hheld, decide_eq_true hmode]; rfl)), State.bank_setBank ..⟩
  case burst =>
    refine ⟨_, (burst_executes k s).trans (State.when_of _ _ (by rw [hp, hon, hheld]; rfl)), ?_⟩
    rw [State.bank_setBank]
    refine ⟨rfl, rfl, rfl, ?_, fun i hi => ?_⟩
    · dsimp only
      rw [List.length_map, List.length_range, burstWidth_fld]
    · rw [List.getD_eq_getElem _ _ hi]
      exact (congrArg (bitOf · 47) (by rw [List.getElem_map, List.getElem_range])).trans (burstWord_frame s k i)
  case input =>
    refine ⟨_, (inputBurst_executes k ws s).trans (State.when_of _ _ (by rw [hp, hon, hheld, decide_eq_true hmode]; rfl)), ?_⟩
    rw [State.bank_setBank, burstWidth_fld]
  case flushed =>
    refine ⟨_, State.when_of _ _ (by simp [hon, hf, hw]), ?_, State.mmp_setMmp ..⟩
    rw [State.setMmp_bit, State.bit_setBit_same _ _ _ _ (by decide)]

end Sys2Proof.Proofs
end


-- ==== Sys2Proof/Proofs/Holds.lean ====
section
set_option Elab.async false
/-!
PROOF. What faults and wake sources do to the always-on part: entering Safe Hold, starting the wake rows, the fault bits, and the
loss of supplies (R469, R470, R472). Used by the obligations about power, temperature, references and boot.
-/
namespace Sys2Proof.Machine

namespace State
variable (s : State)

/-- What entering Safe Hold leaves of the always-on part: every register but PM_STAT's mode and HOLD_FROM, and every other field. -/
structure HoldKept (s t : State) : Prop where
  rd : ∀ q : Reg, q.addr < 0x40 → q.addr ≠ 0 → t.rd q = s.rd q
  stat : ∀ hi lo, 3 < lo → hi < 16 ∨ 19 < lo → t.fld Reg.pmStat hi lo = s.fld Reg.pmStat hi lo
  pw : t.pw = { s.pw with chg := t.pw.chg, safeZ := t.pw.safeZ, sched := t.pw.sched, holdDue := t.pw.holdDue }

theorem HoldKept.refl : HoldKept s s := ⟨fun _ _ _ => rfl, fun _ _ _ _ => rfl, rfl⟩

/-- Parts other than the always-on part may change. -/
theorem HoldKept.of_eq {s t : State} (h : ∀ q : Reg, q.addr < 0x40 → t.rd q = s.rd q) (hp : t.pw = s.pw) : HoldKept s t :=
  ⟨fun q hq _ => h q hq, fun hi lo _ _ => congrArg (bitsOf · hi lo) (h _ (by decide)), by rw [hp]⟩

theorem HoldKept.trans {s t u : State} (h : HoldKept s t) (h' : HoldKept t u) : HoldKept s u :=
  ⟨fun q hq hn => (h'.rd q hq hn).trans (h.rd q hq hn), fun hi lo hl hh => (h'.stat hi lo hl hh).trans (h.stat hi lo hl hh), by
    rw [h'.pw, h.pw]⟩

theorem bit_of_fld {s t : State} {q : Reg} {i : Nat} (h : t.fld q i i = s.fld q i i) : t.bit q i = s.bit q i := by
  unfold State.bit
  rw [bitOf_eq, bitOf_eq]
  unfold State.fld bitsOf at h
  rw [show i + 1 - i = 1 by omega, pow_one] at h
  rw [Nat.testBit_eq_decide_div_mod_eq, Nat.testBit_eq_decide_div_mod_eq, h]

theorem modeReached_kept (m : Nat) : (∀ q : Reg, q.addr < 0x40 → q.addr ≠ 0 → (s.modeReached m).rd q = s.rd q) ∧
    (∀ hi lo, 3 < lo → (s.modeReached m).fld Reg.pmStat hi lo = s.fld Reg.pmStat hi lo) ∧
    (s.modeReached m).pw = { s.pw with chg := none } ∧ (s.modeReached m).fld Reg.pmStat 3 0 = m % 16 := by
  have hm : ∀ q : Reg, q.addr < 0x40 → (s.modeReached m).rd q = (State.setMode { s with pw := { s.pw with chg := none } } m).rd q :=
    fun q hq => by
      unfold State.modeReached
      rw [(State.reads_event _ _ _ _ _ _ _ _ (by rw [Reg.evDisc_addr]; omega)).1,
        State.rd_setFld_ne _ _ _ _ (by rw [Reg.mrMode_addr]; omega)]
  have hf : ∀ hi lo, (s.modeReached m).fld Reg.pmStat hi lo =
      (State.setMode { s with pw := { s.pw with chg := none } } m).fld Reg.pmStat hi lo := fun hi lo =>
    congrArg (bitsOf · hi lo) (hm _ (by decide))
  refine ⟨fun q hq h0 => (hm q hq).trans (State.setMode_rd _ _ _ hq h0), fun hi lo hl => (hf hi lo).trans (State.setMode_fld _ _ _ _ hl), ?_,
    (hf 3 0).trans (State.setMode_stat _ _)⟩
  unfold State.modeReached
  rw [(State.event_touches ..).pw_eq, State.setFld_pw, State.setMode_aon]

theorem stopRuns_kept (b : Bool) : HoldKept s (s.stopRuns b) :=
  .of_eq (fun _ hq => (s.stopRuns_touches b).rd_keep .pm (regPart_pm hq)) (s.stopRuns_touches b).pw_eq

/-- Entering Safe Hold: mode 10, with the mode it was entered from. -/
theorem enterHold_reads (h : s.pw.aon = true) : HoldKept s s.enterHold ∧ s.enterHold.mode = 10 ∧
    s.enterHold.fld Reg.pmStat 19 16 = s.mode ∧
    s.enterHold.pw = { s.pw with chg := none, safeZ := true, sched := false, holdDue := false } := by
  have hlt : s.mode < 16 := by
    rw [s.mode_of_aon h]
    exact s.fld_lt _ _ _
  unfold State.enterHold
  extract_lets +onlyGivenNames from' s1 src s2 s3
  have h1 : s1.pw = s.pw ∧ (∀ q : Reg, q.addr < 0x40 → q.addr ≠ 0 → s1.rd q = s.rd q) ∧
      (∀ hi lo, hi < 16 ∨ 19 < lo → s1.fld Reg.pmStat hi lo = s.fld Reg.pmStat hi lo) ∧ s1.fld Reg.pmStat 19 16 = s.mode := by
    refine ⟨(State.event_touches ..).pw_eq.trans (State.setFld_pw ..), fun q hq h0 => ?_, fun hi lo hh => ?_, ?_⟩
    · exact (State.reads_event _ _ _ _ _ _ _ _ (by rw [Reg.evDisc_addr]; omega)).1.trans (State.rd_setFld_ne _ _ _ _ h0)
    · exact ((State.reads_event _ _ _ _ _ _ _ _ (by decide)).2.1 _ _).trans
        (State.fld_setFld_other _ _ _ _ _ _ _ (by decide) (by decide) hh)
    · exact ((State.reads_event _ _ _ _ _ _ _ _ (by decide)).2.1 _ _).trans
        ((State.fld_setFld_same _ _ _ _ _ (by decide) (by decide)).trans (Nat.mod_eq_of_lt hlt))
  clear_value s1
  have h3 : s3.pw = { s1.pw with safeZ := true, sched := false, holdDue := false } ∧ s3.regs = s1.regs :=
    State.each_keeps (fun t => t.pw = { s1.pw with safeZ := true, sched := false, holdDue := false } ∧ t.regs = s1.regs) _ _ _
      (fun _ _ _ ht => ht) ⟨rfl, rfl⟩
  clear_value s3
  obtain ⟨hp, hrd, hst, hfrom⟩ := h1
  obtain ⟨hp3, hr3⟩ := h3
  obtain ⟨mrd, mst, mpw, mmode⟩ := s3.modeReached_kept 10
  have hk := (s3.modeReached 10).stopRuns_kept false
  have hstop := congrArg (bitsOf · 3 0) (((s3.modeReached 10).stopRuns_touches false).rd_keep .pm (r := Reg.pmStat) rfl)
  have hpw : ((s3.modeReached 10).stopRuns false).pw = { s.pw with chg := none, safeZ := true, sched := false, holdDue := false } := by
    rw [((s3.modeReached 10).stopRuns_touches false).pw_eq, mpw, hp3, hp]
  have hf3 : ∀ hi lo, s3.fld Reg.pmStat hi lo = s1.fld Reg.pmStat hi lo := fun hi lo => State.fld_of_regs hr3 _ _ _
  refine ⟨⟨fun q hq h0 => ?_, fun hi lo hl hh => ?_, by rw [hpw]⟩, ?_, ?_, hpw⟩
  · rw [hk.rd q hq h0, mrd q hq h0, State.rd_of_regs hr3, hrd q hq h0]
  · rw [hk.stat hi lo hl hh, mst hi lo hl, hf3, hst hi lo hh]
  · rw [State.mode_of_aon _ (by rw [hpw]; exact h)]
    exact hstop.trans mmode
  · have e := congrArg (bitsOf · 19 16) (((s3.modeReached 10).stopRuns_touches false).rd_keep .pm (r := Reg.pmStat) rfl)
    exact e.trans ((mst 19 16 (by decide)).trans ((hf3 _ _).trans hfrom))

theorem safeHold_reads (h : s.pw.aon = true) : HoldKept s s.safeHold ∧
    (s.mode ∈ [2, 3, 5, 6, 7, 8, 9] → s.pw.chg = none → s.safeHold.mode = 10) ∧
    (s.mode ∈ [2, 3, 5, 6, 7, 8, 9] → ∀ c, s.pw.chg = some c → c.req.src ≠ .boot → c.req.target ≠ 10 → s.safeHold.pw.holdDue = true) := by
  obtain ⟨hk, hm, -, -⟩ := State.enterHold_reads { s with pw := { s.pw with safeZ := true } } h
  have hz : HoldKept s { s with pw := { s.pw with safeZ := true } } := ⟨fun _ _ _ => rfl, fun _ _ _ _ => rfl, rfl⟩
  unfold State.safeHold
  split
  · next hn =>
    have hn' : s.mode ∉ [2, 3, 5, 6, 7, 8, 9] := by simpa using hn
    exact ⟨.refl s, fun hc => absurd hc hn', fun hc => absurd hc hn'⟩
  · dsimp only
    split
    · next c hc =>
      refine ⟨?_, fun _ hn => ?_, fun _ c' hc' hb ht => ?_⟩
      · split
        · exact hz.trans hk
        · split
          · exact hz
          · exact ⟨fun _ _ _ => rfl, fun _ _ _ _ => rfl, rfl⟩
      · exact absurd (hc.symm.trans hn) (by simp)
      · obtain rfl : c = c' := Option.some.inj (hc.symm.trans hc')
        rw [if_neg hb, if_neg ht]
    · next hc => exact ⟨hz.trans hk, fun _ _ => hm, fun _ c hc' => absurd (hc.symm.trans hc') (by simp)⟩

/-! ### The fault register -/

theorem fld_ne_zero_of_bit {q : Reg} {i : Nat} (hb : s.bit q i = true) (h : i < 16) : s.fld q 15 0 ≠ 0 := by
  intro h0
  have e : (s.rd q % 2 ^ 16).testBit i = true := by
    rw [Nat.testBit_mod_two_pow, decide_eq_true h, ← bitOf_eq]
    exact hb
  unfold State.fld bitsOf at h0
  simp only [pow_zero, Nat.div_one] at h0
  rw [h0, Nat.zero_testBit] at e
  exact absurd e (by decide)

/-- A fault that is set: its latch, its active bit and FAULT_N. -/
theorem pmFaultSet_reads (b : Nat) (a : Bool) (hb : b < 16) :
    (s.pmFaultSet b a).bit Reg.pmFault b = true ∧ (s.pmFaultSet b a).bit Reg.pmFault (16 + b) = (a || s.bit Reg.pmFault (16 + b)) ∧
    (∀ i, i ≠ b → i ≠ 16 + b → (s.pmFaultSet b a).bit Reg.pmFault i = s.bit Reg.pmFault i) ∧
    (s.pmFaultSet b a).bit Reg.pmStat 14 = true ∧ (s.pmFaultSet b a).fld Reg.pmFault 15 0 ≠ 0 := by
  have hf : ∀ i, (s.pmFaultSet b a).bit Reg.pmFault i = ((s.setBit Reg.pmFault b true).setBit Reg.pmFault (16 + b)
      (a || s.bit Reg.pmFault (16 + b))).bit Reg.pmFault i := fun i => State.bit_setBit_ne _ _ _ _ (by decide)
  have h1 : (s.pmFaultSet b a).bit Reg.pmFault b = true := by
    rw [hf, State.bit_setBit_other _ _ _ _ _ (by omega) (by omega), State.bit_setBit_same _ _ _ _ (by omega)]
  refine ⟨h1, ?_, fun i hi hi' => ?_, ?_, State.fld_ne_zero_of_bit _ h1 hb⟩
  · rw [hf, State.bit_setBit_same _ _ _ _ (by omega)]
  · rw [hf, State.bit_setBit_other _ _ _ _ _ (by omega) hi', State.bit_setBit_other _ _ _ _ _ (by omega) hi]
  · unfold State.pmFaultSet State.faultN
    rw [State.bit_setBit_same _ _ _ _ (by decide), bne_iff_ne]
    refine State.fld_ne_zero_of_bit _ (i := b) ?_ hb
    rw [State.bit_setBit_other _ _ _ _ _ (by omega) (by omega), State.bit_setBit_same _ _ _ _ (by omega)]

theorem pmFaultSet_pw (b : Nat) (a : Bool) : (s.pmFaultSet b a).pw = s.pw := by
  unfold State.pmFaultSet State.faultN
  rw [State.setBit_pw, State.setBit_pw, State.setBit_pw]

theorem pmFaultSet_rd (b : Nat) (a : Bool) {q : Reg} (h0 : q.addr ≠ 0) (h : q.addr ≠ 0x10) : (s.pmFaultSet b a).rd q = s.rd q := by
  unfold State.pmFaultSet State.faultN
  rw [State.rd_setBit_ne _ _ _ h0, State.rd_setBit_ne _ _ _ h, State.rd_setBit_ne _ _ _ h]

theorem pmFaultSet_stat (b : Nat) (a : Bool) (hi lo : Nat) (h : hi < 14 ∨ 14 < lo) :
    (s.pmFaultSet b a).fld Reg.pmStat hi lo = s.fld Reg.pmStat hi lo := by
  unfold State.pmFaultSet State.faultN
  rw [State.fld_setBit_other _ _ _ _ _ _ (by decide) h, State.fld_setBit_ne _ _ _ _ _ (by decide), State.fld_setBit_ne _ _ _ _ _ (by decide)]

theorem pmFaultSet_mode (b : Nat) (a : Bool) : (s.pmFaultSet b a).mode = s.mode := by
  unfold State.mode
  rw [State.pmFaultSet_pw, State.pmFaultSet_stat _ _ _ _ _ (.inl (by decide))]

theorem pmFaultEnd_pw (b : Nat) : (s.pmFaultEnd b).pw = s.pw := State.setBit_pw ..

theorem pmFaultEnd_rd (b : Nat) {q : Reg} (h : q.addr ≠ 0x10) : (s.pmFaultEnd b).rd q = s.rd q := State.rd_setBit_ne _ _ _ h

theorem pmFaultEnd_bit (b : Nat) (hb : b < 16) : (s.pmFaultEnd b).bit Reg.pmFault (16 + b) = false ∧
    ∀ i, i ≠ 16 + b → (s.pmFaultEnd b).bit Reg.pmFault i = s.bit Reg.pmFault i :=
  ⟨State.bit_setBit_same _ _ _ _ (by omega), fun i hi => State.bit_setBit_other _ _ _ _ _ (by omega) hi⟩

theorem pmFaultEnd_mode (b : Nat) : (s.pmFaultEnd b).mode = s.mode := by
  unfold State.mode State.fld
  rw [State.pmFaultEnd_pw, State.pmFaultEnd_rd _ _ (by decide)]

/-! ### Wake sources -/

/-- What the wake rows leave of the always-on part. -/
structure WakeKept (s t : State) : Prop where
  rd : ∀ q : Reg, q.addr < 0x40 → q.addr ≠ 0 → q.addr ≠ 4 → q.addr ≠ 0x10 → t.rd q = s.rd q
  fault : ∀ i, i ≠ 22 → t.bit Reg.pmFault i = s.bit Reg.pmFault i
  pw : t.pw = { s.pw with
    toWake := t.pw.toWake, cold := t.pw.cold, wakeFrom := t.pw.wakeFrom, heldWake := t.pw.heldWake, refEn := t.pw.refEn, wWait := t.pw.wWait }

theorem WakeKept.refl : WakeKept s s := ⟨fun _ _ _ _ _ => rfl, fun _ _ => rfl, rfl⟩

theorem WakeKept.trans {s t u : State} (h : WakeKept s t) (h' : WakeKept t u) : WakeKept s u :=
  ⟨fun q hq h0 h4 hf => (h'.rd q hq h0 h4 hf).trans (h.rd q hq h0 h4 hf), fun i hi => (h'.fault i hi).trans (h.fault i hi), by
    rw [h'.pw, h.pw]⟩

theorem wakeClear_reads : WakeKept s s.wakeClear ∧ s.wakeClear.bit Reg.pmStat 12 = false ∧ s.wakeClear.bit Reg.pmWakeStat 7 = false ∧
    (∀ hi lo, hi < 12 ∨ 12 < lo → s.wakeClear.fld Reg.pmStat hi lo = s.fld Reg.pmStat hi lo) ∧
    (∀ hi lo, hi < 7 ∨ 7 < lo → s.wakeClear.fld Reg.pmWakeStat hi lo = s.fld Reg.pmWakeStat hi lo) ∧ s.wakeClear.pw = s.pw := by
  have hp : s.wakeClear.pw = s.pw := s.wakeClear_touches.pw_eq
  refine ⟨⟨fun q _ h0 h4 hf => ?_, fun i hi => ?_, by rw [hp]⟩, ?_, ?_, fun hi lo h => ?_, fun hi lo h => ?_, hp⟩ <;>
    unfold State.wakeClear State.showWake <;> dsimp only
  · rw [State.rd_setBit_ne _ _ _ hf, State.rd_setBit_ne _ _ _ h4, State.rd_setBit_ne _ _ _ h0]
  · rw [State.bit_setBit_other _ _ _ _ _ (by decide) hi, State.bit_setBit_ne _ _ _ _ (by decide), State.bit_setBit_ne _ _ _ _ (by decide)]
  · rw [State.bit_setBit_ne _ _ _ _ (by decide), State.bit_setBit_ne _ _ _ _ (by decide), State.bit_setBit_same _ _ _ _ (by decide)]
  · rw [State.bit_setBit_ne _ _ _ _ (by decide), State.bit_setBit_same _ _ _ _ (by decide)]
  · rw [State.fld_setBit_ne _ _ _ _ _ (by decide), State.fld_setBit_ne _ _ _ _ _ (by decide),
      State.fld_setBit_other _ _ _ _ _ _ (by decide) h]
  · rw [State.fld_setBit_ne _ _ _ _ _ (by decide), State.fld_setBit_other _ _ _ _ _ _ (by decide) h,
      State.fld_setBit_ne _ _ _ _ _ (by decide)]

/-- The start of a row that is not W6 keeps the rest of the always-on part. -/
theorem startRow_kept (row att : Nat) (h6 : row ≠ 6) : WakeKept s (s.startRow row att) ∧ (s.startRow row att).pw.wWait = false ∧
    (s.startRow row att).pw.toWake = s.pw.toWake ∧
    (∀ hi lo, hi < 8 ∨ 9 < lo → (s.startRow row att).fld Reg.pmWakeStat hi lo = s.fld Reg.pmWakeStat hi lo) := by
  unfold State.startRow
  dsimp only
  rw [if_neg h6]
  have hr : ∀ q : Reg, q.addr ≠ 0 → q.addr ≠ 4 → ((s.setFld Reg.pmStat 11 4 row).setFld Reg.pmWakeStat 9 8 att).rd q = s.rd q :=
    fun q h0 h4 => by rw [State.rd_setFld_ne _ _ _ _ h4, State.rd_setFld_ne _ _ _ _ h0]
  have hw : ∀ hi lo, hi < 8 ∨ 9 < lo → ((s.setFld Reg.pmStat 11 4 row).setFld Reg.pmWakeStat 9 8 att).fld Reg.pmWakeStat hi lo =
      s.fld Reg.pmWakeStat hi lo := fun hi lo h => by
    rw [State.fld_setFld_other _ _ _ _ _ _ _ (by decide) (by decide) h, State.fld_setFld_ne _ _ _ _ _ _ (by decide)]
  have hp : ((s.setFld Reg.pmStat 11 4 row).setFld Reg.pmWakeStat 9 8 att).pw = s.pw := by rw [State.setFld_pw, State.setFld_pw]
  generalize (s.setFld Reg.pmStat 11 4 row).setFld Reg.pmWakeStat 9 8 att = u at hr hw hp
  split
  · exact ⟨⟨fun q _ h0 h4 _ => hr q h0 h4, fun i _ => congrArg (bitOf · i) (hr _ (by decide) (by decide)), by rw [← hp]⟩, rfl,
      (congrArg PwSt.toWake hp :), hw⟩
  · exact ⟨⟨fun q _ h0 h4 _ => hr q h0 h4, fun i _ => congrArg (bitOf · i) (hr _ (by decide) (by decide)), by rw [← hp]⟩, rfl,
      (congrArg PwSt.toWake hp :), hw⟩

theorem setMode_kept (m : Nat) : WakeKept s (s.setMode m) :=
  ⟨fun q hq h0 _ _ => s.setMode_rd m q hq h0, fun i _ => congrArg (bitOf · i) (s.setMode_rd m Reg.pmFault (by decide) (by decide)), by
    rw [State.setMode_aon]⟩

/-- The row that the wake rows start from. -/
def wakeFirst : Nat := if s.bit Reg.pmStat 12 && s.fld Reg.pmWakeStat 6 0 ≤ 2 then s.fld Reg.pmWakeStat 6 0 else 3

theorem wakeRows_eq : s.wakeRows = (((({ s with pw := { s.pw with
    toWake := true, cold := false, wakeFrom := s.mode, heldWake := none } } : State).wakeClear.setBit Reg.pmStat 13 false).setMode 1).startRow
      s.wakeFirst 1) := rfl

theorem wakeFirst_le : s.wakeFirst ≤ 3 := by
  unfold State.wakeFirst
  split
  · next h => exact (of_decide_eq_true ((Bool.and_eq_true _ _).mp h).2).trans (by decide)
  · exact Nat.le_refl 3

/-- The wake rows: mode 1 at the first row, in its first attempt. -/
theorem wakeRows_reads (h : s.pw.aon = true) : WakeKept s s.wakeRows ∧ s.wakeRows.mode = 1 ∧ s.wakeRows.pw.toWake = true ∧
    s.wakeRows.bit Reg.pmWakeStat 7 = false ∧ s.wakeRows.fld Reg.pmWakeStat 9 8 = 1 ∧ s.wakeRows.fld Reg.pmStat 11 4 = s.wakeFirst ∧
    s.wakeRows.fld Reg.pmWakeStat 19 16 = s.fld Reg.pmWakeStat 19 16 := by
  have hle := s.wakeFirst_le
  rw [s.wakeRows_eq]
  generalize s.wakeFirst = row at hle ⊢
  have h0 : WakeKept s { s with pw := { s.pw with toWake := true, cold := false, wakeFrom := s.mode, heldWake := none } } :=
    ⟨fun _ _ _ _ _ => rfl, fun _ _ => rfl, rfl⟩
  have hw0 : ∀ hi lo, State.fld { s with pw := { s.pw with toWake := true, cold := false, wakeFrom := s.mode, heldWake := none } }
      Reg.pmWakeStat hi lo = s.fld Reg.pmWakeStat hi lo := fun _ _ => rfl
  have ht0 : State.pw { s with pw := { s.pw with toWake := true, cold := false, wakeFrom := s.mode, heldWake := none } } =
    { s.pw with toWake := true, cold := false, wakeFrom := s.mode, heldWake := none } := rfl
  generalize ({ s with pw := { s.pw with toWake := true, cold := false, wakeFrom := s.mode, heldWake := none } } : State) = u at h0 hw0 ht0
  obtain ⟨hk, -, h7, -, hws, hpw⟩ := u.wakeClear_reads
  generalize u.wakeClear = v at hk h7 hws hpw
  have hb : WakeKept v (v.setBit Reg.pmStat 13 false) :=
    ⟨fun q _ hq _ _ => State.rd_setBit_ne _ _ _ hq, fun i _ => State.bit_setBit_ne _ _ _ _ (by decide), by rw [State.setBit_pw]⟩
  have hbp : (v.setBit Reg.pmStat 13 false).pw = v.pw := State.setBit_pw ..
  have hbw : ∀ hi lo, (v.setBit Reg.pmStat 13 false).fld Reg.pmWakeStat hi lo = v.fld Reg.pmWakeStat hi lo :=
    fun hi lo => State.fld_setBit_ne _ _ _ _ _ (by decide)
  have hb7 : (v.setBit Reg.pmStat 13 false).bit Reg.pmWakeStat 7 = v.bit Reg.pmWakeStat 7 := State.bit_setBit_ne _ _ _ _ (by decide)
  generalize v.setBit Reg.pmStat 13 false = w at hb hbp hbw hb7
  have haon : w.pw.aon = true := by rw [hbp, hpw, ht0]; exact h
  have hm := w.setMode_mode 1 haon (by decide)
  have hmw : (w.setMode 1).rd Reg.pmWakeStat = w.rd Reg.pmWakeStat := w.setMode_rd 1 _ (by decide) (by decide)
  have hmk := w.setMode_kept 1
  have hmp := w.setMode_aon 1
  generalize w.setMode 1 = x at hm hmw hmk hmp
  obtain ⟨hrow, hmode, hatt⟩ := x.startRow_reads row 1 (by omega) (by omega)
  obtain ⟨hrk, -, htw, hwf⟩ := x.startRow_kept row 1 (by omega)
  refine ⟨h0.trans (hk.trans (hb.trans (hmk.trans hrk))), hmode.trans hm, ?_, ?_, hatt, hrow, ?_⟩
  · rw [htw, hmp, hbp, hpw, ht0]
  · refine (State.bit_of_fld (hwf 7 7 (.inl (by decide)))).trans ?_
    exact (congrArg (bitOf · 7) hmw).trans (hb7.trans h7)
  · refine (hwf 19 16 (.inr (by decide))).trans ((congrArg (bitsOf · 19 16) hmw).trans ?_)
    exact (hbw 19 16).trans ((hws 19 16 (.inr (by decide))).trans (hw0 19 16))

theorem wakeBy_kept (src : Nat) : WakeKept s (s.wakeBy src) := by
  unfold State.wakeBy
  split
  · exact .refl s
  · next hc =>
    have haon : s.pw.aon = true := by
      have := Bool.not_eq_false _ ▸ (Bool.not_eq_true' _ ▸ hc)
      unfold State.canWake at this
      simp only [Bool.and_eq_true] at this
      exact this.1
    split
    · exact ⟨fun _ _ _ _ _ => rfl, fun _ _ => rfl, rfl⟩
    · have hs : WakeKept s (s.setFld Reg.pmWakeStat 19 16 src) := ⟨fun q _ _ h4 _ => State.rd_setFld_ne _ _ _ _ h4, fun i _ =>
        State.bit_setFld_ne _ _ _ _ _ (by decide), by rw [State.setFld_pw]⟩
      exact hs.trans (State.wakeRows_reads _ (by rw [State.setFld_pw]; exact haon)).1

/-- What the end of a cause leaves: every fault but its own and WAKE's, and the mode of a module that waits for no wake. -/
structure ClearKept (s t : State) : Prop where
  rd : ∀ q : Reg, q.addr < 0x40 → q.addr ≠ 0 → q.addr ≠ 4 → q.addr ≠ 0x10 → t.rd q = s.rd q
  fault : ∀ i, i ≠ 22 → i ≠ 24 → t.bit Reg.pmFault i = s.bit Reg.pmFault i
  pw : t.pw = { s.pw with
    toWake := t.pw.toWake, cold := t.pw.cold, wakeFrom := t.pw.wakeFrom, heldWake := t.pw.heldWake, refEn := t.pw.refEn, wWait := t.pw.wWait }
  mode : s.canWake = false → t.mode = s.mode

theorem ClearKept.refl : ClearKept s s := ⟨fun _ _ _ _ _ => rfl, fun _ _ _ => rfl, rfl, fun _ => rfl⟩

theorem pmFaultEnd_canWake (b : Nat) : (s.pmFaultEnd b).canWake = s.canWake := by
  unfold State.canWake
  rw [State.pmFaultEnd_pw, State.pmFaultEnd_mode]
  unfold State.bit
  rw [State.pmFaultEnd_rd _ _ (by decide)]

theorem wakeBy_of_not (src : Nat) (h : s.canWake = false) : s.wakeBy src = s := by
  unfold State.wakeBy
  rw [h]
  rfl

theorem emergencyClear_kept : ClearKept s s.emergencyClear := by
  unfold State.emergencyClear
  have he : ClearKept s (s.pmFaultEnd 8) := ⟨fun q _ _ _ hf => s.pmFaultEnd_rd 8 hf, fun i _ hi => (s.pmFaultEnd_bit 8 (by decide)).2 i hi, by
    rw [State.pmFaultEnd_pw], fun _ => s.pmFaultEnd_mode 8⟩
  have hc := s.pmFaultEnd_canWake 8
  split
  · dsimp only
    generalize s.pmFaultEnd 8 = u at he hc ⊢
    split
    · next src _ =>
      have hk := u.wakeBy_kept src
      refine ⟨fun q hq h0 h4 hf => (hk.rd q hq h0 h4 hf).trans (he.rd q hq h0 h4 hf), fun i hi hi' => (hk.fault i hi).trans (he.fault i hi hi'), ?_,
        fun hn => ?_⟩
      · rw [hk.pw, he.pw]
      · rw [State.wakeBy_of_not _ _ (hc.trans hn)]
        exact he.mode hn
    · exact he
  · exact .refl s

theorem canWake_of_mode (h : s.mode ∈ [2, 3, 5, 6, 7, 8, 9, 10]) : s.canWake = false := by
  unfold State.canWake
  generalize s.mode = m at h
  simp only [List.mem_cons, List.not_mem_nil, or_false] at h
  rcases h with rfl | rfl | rfl | rfl | rfl | rfl | rfl | rfl <;> simp

/-! ### Supplies that go off -/

theorem domLost_pw (d : Nat) : (s.domLost d).pw = s.pw ∨ (d = domHub ∧ (s.domLost d).pw = s.hubLost.pw) := by
  unfold State.domLost
  extract_lets +onlyGivenNames t t1 n t2 b t3 src s1
  have ht : t.pw = s.pw := (s.retiresOwed_touches _).pw_eq
  have ht1 : t1.pw = s.pw := (s.ddrLost_touches _).pw_eq
  have ht2 : t2.pw = s.pw := (s.dramLost_touches _ _).pw_eq
  have ht3 : t3.pw = s.pw := (s.blankRange_touches _ _).pw_eq
  have hs1 : s1.pw = s.pw ∨ (d = domHub ∧ s1.pw = s.hubLost.pw) := by
    unfold s1
    clear_value t t1 t2 t3
    have hone : ∀ (p : Prop) [Decidable p] (x y : State), (x.pw = s.pw ∨ (d = domHub ∧ x.pw = s.hubLost.pw)) →
        (¬p → y.pw = s.pw ∨ (d = domHub ∧ y.pw = s.hubLost.pw)) →
        (if p then x else y).pw = s.pw ∨ (d = domHub ∧ (if p then x else y).pw = s.hubLost.pw) := fun p _ x y hx hy => by
      split
      · exact hx
      · next hp => exact hy hp
    refine hone _ _ _ (.inl (s.tileLost_touches _).pw_eq) fun _ => hone _ _ _ (.inl ht) fun _ => hone _ _ _ (.inl ht1) fun _ =>
      hone _ _ _ (.inl ht2) fun _ => hone _ _ _ (.inl ?_) fun _ => ?_
    · exact State.each_keeps (fun u => u.pw = s.pw) _ _ _ (fun u k _ hu => (State.setBit_pw ..).trans hu) rfl
    · split
      · next hd =>
        refine .inr ⟨hd, ?_⟩
        exact State.each_keeps (fun u => u.pw = s.hubLost.pw) _ _ _ (fun u k _ hu => (State.wr_pw ..).trans hu) rfl
      · exact hone _ _ _ (.inl s.rndLost_touches.pw_eq) fun _ => hone _ _ _ (.inl (s.bayLost_touches _ _).pw_eq) fun _ =>
          hone _ _ _ (.inl ht3) fun _ => .inl rfl
  have hreg := (s1.resetRegs_touches d).pw_eq
  rw [hreg]
  exact hs1

/-- What a domain that goes off leaves of the always-on part, but for its own record and what the hub loses. -/
theorem domOff_pw {α : Type} (f : PwSt → α) (hd : ∀ p ds, f { p with doms := ds } = f p) (hh : ∀ u : State, f u.hubLost.pw = f u.pw) (d : Nat) :
    f (s.domOff d).pw = f s.pw := by
  have hset : ∀ (u : State) v, f (u.setDom d v).pw = f u.pw := fun u v => by
    unfold State.setDom
    dsimp only
    split
    · rw [State.setBit_pw]
      exact hd _ _
    · exact hd _ _
  unfold State.domOff
  dsimp only
  split
  · exact hset _ _
  · have hl : f (s.domLost d).pw = f s.pw := by
      rcases s.domLost_pw d with h | ⟨-, h⟩ <;> rw [h]
      exact hh s
    split
    · exact (hset _ _).trans hl
    · exact (hset _ _).trans hl

theorem allOff_pw {α : Type} (f : PwSt → α) (hd : ∀ p ds, f { p with doms := ds } = f p) (hh : ∀ u : State, f u.hubLost.pw = f u.pw) :
    f s.allOff.pw = f s.pw := by
  unfold State.allOff
  dsimp only
  rw [hd]
  exact State.each_keeps (fun t => f t.pw = f s.pw) _ _ _ (fun t d _ ht => (t.domOff_pw f hd hh d).trans ht) rfl

theorem domOn_of_doms_nil {s : State} (h : s.pw.doms = []) (d : Nat) : s.domOn d = false := by
  unfold State.domOn State.dom
  rw [h]
  rfl

/-- The always-on part as the emergency power-off leaves it (R470). -/
def powerCut : State :=
  { s with pw := { s.pw with
    pwrEn := false, pwrEnWait := true, epoNote := true, safeZ := false, wWait := false
    pgLow := s.pw.pgLow.filter (· = 0), pageBad := s.pw.pageBad.filter (fun e => e.1 = 0), dramHot := [] } }

theorem emergencyOff_eq : s.emergencyOff = ((s.allOff.setFld Reg.pmStat 11 4 0).pmFaultSet 8 true).powerCut.setMode 4 := by
  unfold State.emergencyOff State.powerCut
  rfl

theorem powerCut_reads : (∀ q : Reg, s.powerCut.rd q = s.rd q) ∧ s.powerCut.pw.aon = s.pw.aon ∧ s.powerCut.pw.pwrEn = false ∧
    s.powerCut.pw.doms = s.pw.doms ∧ s.powerCut.pw.hot16 = s.pw.hot16 ∧ s.powerCut.pw.warned = s.pw.warned :=
  ⟨fun _ => rfl, rfl, rfl, rfl, rfl, rfl⟩

/-- The emergency power-off (R470): mode 4 with every supply off, and the fault kept. -/
theorem emergencyOff_reads (h : s.pw.aon = true) : s.emergencyOff.mode = 4 ∧ (∀ d, s.emergencyOff.domOn d = false) ∧
    s.emergencyOff.pw.pwrEn = false ∧ s.emergencyOff.bit Reg.pmFault 8 = true ∧ s.emergencyOff.bit Reg.pmFault 24 = true ∧
    (∀ i, i ≠ 8 → i ≠ 24 → s.emergencyOff.bit Reg.pmFault i = s.bit Reg.pmFault i) ∧
    (∀ q : Reg, q.addr < 0x40 → q.addr ≠ 0 → q.addr ≠ 0x10 → q.addr ≠ 0x28 → s.emergencyOff.rd q = s.rd q) ∧
    s.emergencyOff.pw.hot16 = s.pw.hot16 ∧ s.emergencyOff.pw.warned = s.pw.warned := by
  obtain ⟨ha, hr⟩ := s.allOff_aonKept
  have hd := s.allOff_doms
  have hhot := s.allOff_pw (·.hot16) (fun _ _ => rfl) (fun _ => rfl)
  have hwarn := s.allOff_pw (·.warned) (fun _ _ => rfl) (fun _ => rfl)
  rw [s.emergencyOff_eq]
  generalize s.allOff = u at ha hr hd hhot hwarn
  have hvp : (u.setFld Reg.pmStat 11 4 0).pw = u.pw := State.setFld_pw ..
  have hvr : ∀ q : Reg, q.addr ≠ 0 → (u.setFld Reg.pmStat 11 4 0).rd q = u.rd q := fun q hq => State.rd_setFld_ne _ _ _ _ hq
  generalize u.setFld Reg.pmStat 11 4 0 = v at hvp hvr
  obtain ⟨h8, h24, ho, -, -⟩ := v.pmFaultSet_reads 8 true (by decide)
  have hxp := v.pmFaultSet_pw 8 true
  have hxr : ∀ q : Reg, q.addr ≠ 0 → q.addr ≠ 0x10 → (v.pmFaultSet 8 true).rd q = v.rd q := fun q h0 hf => v.pmFaultSet_rd 8 true h0 hf
  generalize v.pmFaultSet 8 true = x at h8 h24 ho hxp hxr
  obtain ⟨cr, caon, cen, cdoms, chot, cwarn⟩ := x.powerCut_reads
  generalize x.powerCut = w at cr caon cen cdoms chot cwarn
  have hxw : x.pw = u.pw := hxp.trans hvp
  have hwa : w.pw.aon = true := caon.trans ((congrArg (fun p : PwSt => p.aon) hxw).trans (ha.trans h))
  have hp := w.setMode_aon 4
  have hm := w.setMode_mode 4 hwa (by decide)
  have hq : ∀ q : Reg, q.addr < 0x40 → q.addr ≠ 0 → (w.setMode 4).rd q = x.rd q := fun q hq h0 => (w.setMode_rd 4 q hq h0).trans (cr q)
  generalize w.setMode 4 = y at hp hm hq
  have hf : y.rd Reg.pmFault = x.rd Reg.pmFault := hq _ (by decide) (by decide)
  refine ⟨hm, fun d => State.domOn_of_doms_nil ?_ d, by rw [hp, cen], (congrArg (bitOf · 8) hf).trans h8, (congrArg (bitOf · 24) hf).trans h24,
    fun i hi hi' => ?_, fun q hql h0 hf' h28 => ?_, ?_, ?_⟩
  · rw [hp, cdoms, hxw, hd]
  · refine (congrArg (bitOf · i) hf).trans ((ho i hi hi').trans ?_)
    exact (congrArg (bitOf · i) (hvr Reg.pmFault (by decide))).trans (congrArg (bitOf · i) (hr _ (by decide) (by decide)))
  · exact (hq q hql h0).trans ((hxr q h0 hf').trans ((hvr q h0).trans (hr q hql h28)))
  · rw [hp, chot, hxw, hhot]
  · rw [hp, cwarn, hxw, hwarn]

end State
end Sys2Proof.Machine
end


-- ==== Sys2Proof/Proofs/References.lean ====
section
set_option Elab.async false
/-!
PROOF. The thermal reading and the windows of the references (R456, R458, R469, R470). Settles O42.
-/
namespace Sys2Proof.Machine

theorem grpLanes_lt (w l : Nat) (h : l ∈ grpLanes w) : l < 24 := by
  have hw : grpWidth w ≤ 8 := by unfold grpWidth; split <;> decide
  have hb : bitsOf w 3 0 < 16 := bitsOf_lt _ _ _
  unfold grpLanes at h
  rcases List.mem_append.mp h with h | h
  · unfold grpData at h
    obtain ⟨x, hx, rfl⟩ := List.mem_map.mp h
    have := List.mem_range.mp hx
    omega
  · unfold grpSpare at h
    split at h
    · obtain rfl := List.mem_singleton.mp h
      omega
    · exact absurd h (by simp)

namespace State
variable (s : State)

/-- Safe Hold changes no other register of a unit but the clock holds of the tiles. -/
theorem safeHold_rd {q : Reg} (hq : regPart q.addr = .regs) (hn : ∀ n, n < 8 → q.addr ≠ (Reg.tcHold n).addr) : s.safeHold.rd q = s.rd q := by
  have hstop : ∀ u : State, (u.stopRuns false).rd q = u.rd q := fun u => by
    unfold State.stopRuns State.applyHolds
    dsimp only
    generalize ((u.so.runs.filter _).map Prod.fst) = live
    have h1 : (u.each live (fun t r => t.setRun r { t.run r with stops := (t.run r).stops ++ [⟨.modeHold, 0⟩] })).rd q = u.rd q :=
      State.each_keeps (fun t => t.rd q = u.rd q) _ _ _ (fun t r _ ht => ht) rfl
    generalize u.each live _ = v at h1 ⊢
    rw [← h1]
    split
    · refine State.each_keeps (fun t => t.rd q = v.rd q) _ _ _ (fun t n hm ht => ?_) rfl
      unfold State.holdApply
      rw [State.setTile_rd, State.rd_setFld_ne _ _ _ _ (hn n (List.mem_range.mp (List.mem_filter.mp hm).1)), ht]
    · rfl
  have hent : ∀ u : State, u.enterHold.rd q = u.rd q := fun u => by
    unfold State.enterHold
    extract_lets +onlyGivenNames from' s1 src s2 s3
    have h1 : s1.rd q = u.rd q := ((State.event_touches ..).rd_keep .regs hq).trans
      ((State.setFld_part .pm u Reg.pmStat _ _ _ rfl).rd_keep .regs hq)
    clear_value s1
    have h3 : s3.rd q = s1.rd q := State.each_keeps (fun t => t.rd q = s1.rd q) _ _ _ (fun t e _ ht => ht) rfl
    clear_value s3
    rw [hstop, (s3.modeReached_touches 10).rd_keep .regs hq, h3, h1]
  unfold State.safeHold
  split
  · rfl
  · dsimp only
    split
    · split
      · exact hent _
      · split <;> rfl
    · exact hent _

theorem retireOwed_rd (n g : Nat) (q : Reg) : (s.retireOwed n g).rd q = s.rd q := by
  unfold State.retireOwed
  split <;> rfl

/-- A group that fails shows it, and changes the states of its lanes and its own status alone. -/
theorem grpFail_reads (n g : Nat) : (s.grpFail n g).bit (Reg.crGStat n g) 28 = true ∧
    ∀ q : Reg, q.addr ≠ (Reg.crGStat n g).addr → (∀ l, l < 24 → q.addr ≠ (Reg.crLStat n l).addr) → (s.grpFail n g).rd q = s.rd q := by
  unfold State.grpFail
  dsimp only
  generalize hu : s.retireOwed n g = u
  have hr : ∀ q, u.rd q = s.rd q := fun q => by rw [← hu]; exact s.retireOwed_rd n g q
  refine ⟨?_, fun q hq hl => ?_⟩
  · rw [State.setCrg_bit, State.bit_setBit_other _ _ _ _ _ (by decide) (by decide), State.bit_setBit_same _ _ _ _ (by decide)]
  · rw [State.setCrg_rd, State.rd_setBit_ne _ _ _ hq, State.rd_setBit_ne _ _ _ hq, State.rd_setFld_ne _ _ _ _ hq, State.rd_setBit_ne _ _ _ hq, ← hr]
    exact State.each_keeps (fun t => t.rd q = u.rd q) _ _ _
      (fun t l hm ht => (State.rd_setFld_ne _ _ _ _ (hl l (grpLanes_lt _ _ hm))).trans ht) rfl

/-- The groups of a tile, one after another. -/
theorem grpFails_reads (n : Nat) (gs : List Nat) (hg : ∀ g ∈ gs, g < 8) :
    (∀ g ∈ gs, (s.each gs (fun u g => u.grpFail n g)).bit (Reg.crGStat n g) 28 = true) ∧
    ∀ q : Reg, (∀ g, g < 8 → q.addr ≠ (Reg.crGStat n g).addr) → (∀ l, l < 24 → q.addr ≠ (Reg.crLStat n l).addr) →
      (s.each gs (fun u g => u.grpFail n g)).rd q = s.rd q := by
  refine ⟨fun g hm => ?_, fun q hq hl => ?_⟩
  · have hlt := hg g hm
    refine State.each_establishes (fun _ => True) (fun t => t.bit (Reg.crGStat n g) 28 = true) _ g gs s hm (fun _ _ _ _ => trivial)
      (fun t _ => (t.grpFail_reads n g).1) (fun t j hj _ hQ => ?_) trivial
    by_cases e : g = j
    · rw [← e]
      exact (t.grpFail_reads n g).1
    · have hj8 := hg j hj
      exact (congrArg (bitOf · 28) ((t.grpFail_reads n j).2 _ (by simp only [Reg.crGStat_addr]; omega)
        (fun l hl => by simp only [Reg.crGStat_addr, Reg.crLStat_addr]; omega))).trans hQ
  · exact State.each_keeps (fun t => t.rd q = s.rd q) _ _ _ (fun t g hm ht => ((t.grpFail_reads n g).2 q (hq g (hg g hm)) hl).trans ht) rfl

/-- A failed clock of the lanes fails every group in use. -/
theorem crFailAll_reads : (∀ n g, n < 8 → g < 8 → s.domOn (domCr n) = true → s.crLink n ≠ 0 → grpWidth (s.grpWord n g) ≠ 0 →
      s.crFailAll.bit (Reg.crGStat n g) 28 = true) ∧
    ∀ q : Reg, q.addr < 0x1000000000 → s.crFailAll.rd q = s.rd q := by
  have hone : ∀ (t : State) (n : Nat), (∀ q : Reg, (∀ g, g < 8 → q.addr ≠ (Reg.crGStat n g).addr) → (∀ l, l < 24 → q.addr ≠ (Reg.crLStat n l).addr) →
      (t.each ((List.range 8).filter (fun g => grpWidth (t.grpWord n g) ≠ 0)) (fun u g => u.grpFail n g)).rd q = t.rd q) ∧
      ∀ g, g < 8 → grpWidth (t.grpWord n g) ≠ 0 →
        (t.each ((List.range 8).filter (fun g => grpWidth (t.grpWord n g) ≠ 0)) (fun u g => u.grpFail n g)).bit (Reg.crGStat n g) 28 = true :=
    fun t n => by
      obtain ⟨h1, h2⟩ := t.grpFails_reads n ((List.range 8).filter (fun g => grpWidth (t.grpWord n g) ≠ 0))
        (fun g hm => List.mem_range.mp (List.mem_filter.mp hm).1)
      exact ⟨h2, fun g hg hw => h1 g (List.mem_filter.mpr ⟨List.mem_range.mpr hg, decide_eq_true hw⟩)⟩
  refine ⟨fun n g hn hg hd hl hw => ?_, fun q hq => ?_⟩
  · unfold State.crFailAll
    refine State.each_establishes (fun t => t.rd (Reg.crCfg n (2 + g)) = s.rd (Reg.crCfg n (2 + g))) (fun t => t.bit (Reg.crGStat n g) 28 = true)
      _ n _ s (List.mem_filter.mpr ⟨List.mem_range.mpr hn, by rw [hd, decide_eq_true hl]; rfl⟩) (fun t m hm ht => ?_) (fun t ht => ?_)
      (fun t m hm _ hQ => ?_) rfl
    · have hm8 := List.mem_range.mp (List.mem_filter.mp hm).1
      exact ((hone t m).1 _ (fun g' hg' => by simp only [Reg.crCfg_addr, Reg.crGStat_addr]; omega)
        (fun l hl => by simp only [Reg.crCfg_addr, Reg.crLStat_addr]; omega)).trans ht
    · refine (hone t n).2 g hg ?_
      unfold State.grpWord
      rw [ht]
      exact hw
    · have hm8 := List.mem_range.mp (List.mem_filter.mp hm).1
      by_cases e : n = m
      · by_cases hw' : grpWidth (t.grpWord m g) = 0
        · subst e
          obtain ⟨-, h2⟩ := t.grpFails_reads n ((List.range 8).filter (fun g => grpWidth (t.grpWord n g) ≠ 0))
            (fun g hm => List.mem_range.mp (List.mem_filter.mp hm).1)
          refine State.each_keeps (fun u => u.bit (Reg.crGStat n g) 28 = true) _ _ _ (fun u j hj hu => ?_) hQ
          obtain ⟨hj8, hjw⟩ := List.mem_filter.mp hj
          have hne : g ≠ j := fun hgj => of_decide_eq_true hjw (hgj ▸ hw')
          have := List.mem_range.mp hj8
          exact (congrArg (bitOf · 28) ((u.grpFail_reads n j).2 _ (by simp only [Reg.crGStat_addr]; omega)
            (fun l hl => by simp only [Reg.crGStat_addr, Reg.crLStat_addr]; omega))).trans hu
        · rw [← e] at hw' ⊢
          exact (hone t n).2 g hg hw'
      · exact (congrArg (bitOf · 28) ((hone t m).1 _ (fun g' hg' => by simp only [Reg.crGStat_addr]; omega)
          (fun l hl => by simp only [Reg.crGStat_addr, Reg.crLStat_addr]; omega))).trans hQ
  · unfold State.crFailAll
    exact State.each_keeps (fun t => t.rd q = s.rd q) _ _ _ (fun t m _ ht => ((hone t m).1 _
      (fun g' hg' => by simp only [Reg.crGStat_addr]; omega) (fun l hl => by simp only [Reg.crLStat_addr]; omega)).trans ht) rfl

/-! ### A window of one reference -/

/-- The register that shows the count of reference `k`. -/
def refCnt (k : Nat) : Reg := if k = 0 then Reg.pmRefCnt0 else if k = 1 then Reg.pmRefCnt1 else Reg.pmRefCnt2

/-- What a window of reference `k` leaves for the others. -/
structure RefKept (k : Nat) (s t : State) : Prop where
  rd : ∀ q : Reg, q.addr < 0x40 → q.addr ≠ 0 → q.addr ≠ 0x10 → q.addr ≠ (refCnt k).addr → t.rd q = s.rd q
  fault : ∀ i, i ≠ 3 + k → i ≠ 19 + k → t.bit Reg.pmFault i = s.bit Reg.pmFault i
  bad : ∀ i, i ≠ k → SMap.get t.pw.refBad i 0 = SMap.get s.pw.refBad i 0
  good : ∀ i, i ≠ k → SMap.get t.pw.refGood i 0 = SMap.get s.pw.refGood i 0
  fail : ∀ i, i ≠ k → t.pw.refFail.contains i = s.pw.refFail.contains i
  doms : t.pw.doms = s.pw.doms
  aon : t.pw.aon = s.pw.aon
  mode : k ≠ 0 → t.mode = s.mode
  regs : ∀ q : Reg, regPart q.addr = .regs → (∀ n, n < 8 → q.addr ≠ (Reg.tcHold n).addr) →
    (k = 1 → ∀ j, j < 8 → q.addr ≠ (Reg.vlLpStat (j + 1)).addr) → (k = 2 → q.addr < 0x1000000000) → t.rd q = s.rd q

theorem RefKept.refl (k : Nat) : RefKept k s s :=
  ⟨fun _ _ _ _ _ => rfl, fun _ _ _ => rfl, fun _ _ => rfl, fun _ _ => rfl, fun _ _ => rfl, rfl, rfl, fun _ => rfl, fun _ _ _ _ _ => rfl⟩

theorem RefKept.trans {k : Nat} {s t u : State} (h : RefKept k s t) (h' : RefKept k t u) : RefKept k s u where
  rd q a b c d := (h'.rd q a b c d).trans (h.rd q a b c d)
  fault i a b := (h'.fault i a b).trans (h.fault i a b)
  bad i a := (h'.bad i a).trans (h.bad i a)
  good i a := (h'.good i a).trans (h.good i a)
  fail i a := (h'.fail i a).trans (h.fail i a)
  doms := h'.doms.trans h.doms
  aon := h'.aon.trans h.aon
  mode a := (h'.mode a).trans (h.mode a)
  regs q a b c d := (h'.regs q a b c d).trans (h.regs q a b c d)

/-- An operation on other parts, with the always-on part as it was. -/
theorem RefKept.of_eq {k : Nat} {s t : State} (hp : t.pw = s.pw) (hr : ∀ q : Reg, q.addr < 0x40 → t.rd q = s.rd q)
    (hq : ∀ q : Reg, regPart q.addr = .regs → (k = 1 → ∀ j, j < 8 → q.addr ≠ (Reg.vlLpStat (j + 1)).addr) →
      (k = 2 → q.addr < 0x1000000000) → t.rd q = s.rd q) : RefKept k s t where
  rd q a _ _ _ := hr q a
  fault i _ _ := congrArg (bitOf · i) (hr _ (by decide))
  bad i _ := by rw [hp]
  good i _ := by rw [hp]
  fail i _ := by rw [hp]
  doms := by rw [hp]
  aon := by rw [hp]
  mode _ := by unfold State.mode State.fld; rw [hp, hr _ (by decide)]
  regs q a _ c d := hq q a c d

/-- The counts of the windows in a row, and the register of the last. -/
def refShow (k c : Nat) : State :=
  ({ s with pw := { s.pw with
      refBad := SMap.set s.pw.refBad k (min 2 (if refWithin k c then 0 else SMap.get s.pw.refBad k 0 + 1)) 0
      refGood := SMap.set s.pw.refGood k (min 4 (if refWithin k c then SMap.get s.pw.refGood k 0 + 1 else 0)) 0 } }).wr (refCnt k)
    (c % 2 ^ 20 + b2n (refWithin k c) * 2 ^ 31)

theorem refWindow_eq (k c : Nat) : s.refWindow k c (refCnt k) =
    if 2 ≤ (if refWithin k c then 0 else SMap.get s.pw.refBad k 0 + 1) && !s.pw.refFail.contains k then (s.refShow k c).refFails k
    else if 4 ≤ (if refWithin k c then SMap.get s.pw.refGood k 0 + 1 else 0) && s.pw.refFail.contains k then (s.refShow k c).refReturns k
    else s.refShow k c := by
  unfold State.refWindow State.refShow
  rfl

theorem refCnt_addr (k : Nat) (hk : k < 3) : (refCnt k).addr = 0x14 + 4 * k := by
  have : k = 0 ∨ k = 1 ∨ k = 2 := by omega
  rcases this with rfl | rfl | rfl <;> rfl

theorem refShow_kept (k c : Nat) (hk : k < 3) : RefKept k s (s.refShow k c) ∧ (s.refShow k c).rd (refCnt k) =
      (c % 2 ^ 20 + b2n (refWithin k c) * 2 ^ 31) % 2 ^ 32 ∧ (s.refShow k c).pw.refFail = s.pw.refFail ∧ (s.refShow k c).pw.chg = s.pw.chg ∧
    (s.refShow k c).mode = s.mode ∧ (∀ i, (s.refShow k c).bit Reg.pmFault i = s.bit Reg.pmFault i) ∧
    ∀ q : Reg, regPart q.addr = .regs → (s.refShow k c).rd q = s.rd q := by
  unfold State.refShow
  have haddr := refCnt_addr k hk
  generalize refCnt k = r at haddr ⊢
  generalize hu : ({ s with pw := { s.pw with
      refBad := SMap.set s.pw.refBad k (min 2 (if refWithin k c then 0 else SMap.get s.pw.refBad k 0 + 1)) 0
      refGood := SMap.set s.pw.refGood k (min 4 (if refWithin k c then SMap.get s.pw.refGood k 0 + 1 else 0)) 0 } } : State) = u
  have hp : u.pw = { s.pw with refBad := u.pw.refBad, refGood := u.pw.refGood } := by rw [← hu]
  have hr : ∀ q, u.rd q = s.rd q := fun q => by rw [← hu]; rfl
  have hb : ∀ i, i ≠ k → SMap.get u.pw.refBad i 0 = SMap.get s.pw.refBad i 0 := fun i hi => by rw [← hu]; exact SMap.get_set_ne _ _ _ _ hi
  have hg : ∀ i, i ≠ k → SMap.get u.pw.refGood i 0 = SMap.get s.pw.refGood i 0 := fun i hi => by rw [← hu]; exact SMap.get_set_ne _ _ _ _ hi
  clear hu
  generalize c % 2 ^ 20 + b2n (refWithin k c) * 2 ^ 31 = v
  have hw : ∀ q : Reg, q.addr ≠ r.addr → (u.wr r v).rd q = s.rd q := fun q h => (State.rd_wr_ne _ _ h).trans (hr q)
  have hwp : (u.wr r v).pw = u.pw := State.wr_pw ..
  have hm : (u.wr r v).mode = s.mode := by
    unfold State.mode State.fld
    rw [hwp, hw _ (by rw [Reg.pmStat_addr]; omega), hp]
  have hf : ∀ i, (u.wr r v).bit Reg.pmFault i = s.bit Reg.pmFault i := fun i => congrArg (bitOf · i) (hw _ (by rw [Reg.pmFault_addr]; omega))
  have hq : ∀ q : Reg, regPart q.addr = .regs → (u.wr r v).rd q = s.rd q := fun q a => hw q fun h => by
    rw [h, regPart_pm (by omega)] at a
    exact absurd a (by decide)
  refine ⟨?_, State.rd_wr_same .., ?_, ?_, hm, hf, hq⟩
  · constructor
    · exact fun q _ _ _ hn => hw q (by rw [haddr, ← refCnt_addr k hk]; exact hn)
    · exact fun i _ _ => hf i
    · exact fun i hi => by rw [hwp]; exact hb i hi
    · exact fun i hi => by rw [hwp]; exact hg i hi
    · exact fun i _ => by rw [hwp, hp]
    · rw [hwp, hp]
    · rw [hwp, hp]
    · exact fun _ => hm
    · exact fun q a _ _ _ => hq q a
  · rw [hwp, hp]
  · rw [hwp, hp]

/-- A reference that fails, latched and recorded. -/
def refLatched (k : Nat) : State := ({ s with pw := { s.pw with refFail := s.pw.refFail ++ [k] } }.pmFaultSet (3 + k) true).event 0x0103 5 0 s.mode

theorem refLatched_reads (k : Nat) (hk : k < 3) : RefKept k s (s.refLatched k) ∧ (s.refLatched k).pw.refFail.contains k = true ∧
    (s.refLatched k).bit Reg.pmFault (3 + k) = true ∧ (s.refLatched k).bit Reg.pmFault (19 + k) = true ∧ (s.refLatched k).pw.chg = s.pw.chg ∧
    (s.refLatched k).mode = s.mode ∧ (s.refLatched k).rd (refCnt k) = s.rd (refCnt k) ∧
    ∀ q : Reg, regPart q.addr = .regs → (s.refLatched k).rd q = s.rd q := by
  unfold State.refLatched
  have haddr := refCnt_addr k hk
  have hur : ∀ q, State.rd { s with pw := { s.pw with refFail := s.pw.refFail ++ [k] } } q = s.rd q := fun q => rfl
  have hup : State.pw { s with pw := { s.pw with refFail := s.pw.refFail ++ [k] } } = { s.pw with refFail := s.pw.refFail ++ [k] } := rfl
  have hum : State.mode { s with pw := { s.pw with refFail := s.pw.refFail ++ [k] } } = s.mode := rfl
  have huf : ∀ i, State.bit { s with pw := { s.pw with refFail := s.pw.refFail ++ [k] } } Reg.pmFault i = s.bit Reg.pmFault i := fun i => rfl
  generalize ({ s with pw := { s.pw with refFail := s.pw.refFail ++ [k] } } : State) = u at hur hup hum huf
  obtain ⟨h1, h2, h3, -, -⟩ := u.pmFaultSet_reads (3 + k) true (by omega)
  have hp := u.pmFaultSet_pw (3 + k) true
  have hm := u.pmFaultSet_mode (3 + k) true
  have hr : ∀ q : Reg, q.addr ≠ 0 → q.addr ≠ 0x10 → (u.pmFaultSet (3 + k) true).rd q = u.rd q := fun q a b => u.pmFaultSet_rd _ _ a b
  have hq : ∀ q : Reg, regPart q.addr = .regs → (u.pmFaultSet (3 + k) true).rd q = u.rd q := fun q a => (u.pmFaultSet_touches _ _).rd_keep .regs a
  rw [show 16 + (3 + k) = 19 + k by omega] at h2 h3
  generalize u.pmFaultSet (3 + k) true = v at h1 h2 h3 hp hm hr hq
  have ht : Touches [.evr, .ev] v (v.event 0x0103 5 0 s.mode) := State.event_touches ..
  generalize v.event 0x0103 5 0 s.mode = w at ht
  have hwr : ∀ q : Reg, q.addr < 0x40 → w.rd q = v.rd q := fun q a => ht.rd_keep .pm (regPart_pm a)
  have hwf : ∀ i, w.bit Reg.pmFault i = v.bit Reg.pmFault i := fun i => congrArg (bitOf · i) (hwr _ (by decide))
  have hwp : w.pw = { s.pw with refFail := s.pw.refFail ++ [k] } := ht.pw_eq.trans (hp.trans hup)
  have hwm : w.mode = s.mode := by
    rw [← hum, ← hm]
    unfold State.mode State.fld
    rw [ht.pw_eq, hwr _ (by decide)]
  refine ⟨?_, ?_, (hwf _).trans h1, (hwf _).trans h2, by rw [hwp], hwm, ?_,
    fun q a => (ht.rd_keep .regs a).trans ((hq q a).trans (hur q))⟩
  · constructor
    · exact fun q a b c _ => (hwr q a).trans ((hr q b c).trans (hur q))
    · exact fun i a b => (hwf i).trans ((h3 i a b).trans (huf i))
    · exact fun i _ => by rw [hwp]
    · exact fun i _ => by rw [hwp]
    · refine fun i hi => ?_
      rw [hwp]
      simp [hi]
    · rw [hwp]
    · rw [hwp]
    · exact fun _ => hwm
    · exact fun q a _ _ _ => (ht.rd_keep .regs a).trans ((hq q a).trans (hur q))
  · rw [hwp]
    simp
  · exact (hwr _ (by omega)).trans ((hr _ (by omega) (by omega)).trans (hur _))

theorem hubOn_of_doms {s t : State} (h : t.pw.doms = s.pw.doms) : t.hubOn = s.hubOn := by
  unfold State.hubOn State.domOn State.dom
  rw [h]

/-- A failed reference (R456): Safe Hold, the links of the Host Ports, or the groups of the Courier lanes. -/
theorem refFails_reads (k : Nat) (hk : k < 3) (haon : s.pw.aon = true) : RefKept k s (s.refFails k) ∧
    (s.refFails k).pw.refFail.contains k = true ∧ (s.refFails k).bit Reg.pmFault (3 + k) = true ∧ (s.refFails k).bit Reg.pmFault (19 + k) = true ∧
    (s.refFails k).rd (refCnt k) = s.rd (refCnt k) ∧
    (k = 0 → s.mode ∈ [2, 3, 5, 6, 7, 8, 9] → s.pw.chg = none → (s.refFails k).mode = 10) ∧
    (k = 1 → s.hubOn = true → ∀ j, j < 8 → (s.refFails k).bit (Reg.vlLpStat (j + 1)) 31 = false) ∧
    (k = 2 → ∀ n g, n < 8 → g < 8 → s.domOn (domCr n) = true → s.crLink n ≠ 0 → grpWidth (s.grpWord n g) ≠ 0 →
      (s.refFails k).bit (Reg.crGStat n g) 28 = true) := by
  obtain ⟨hk0, hc, h3, h19, hchg, hmode, hcnt, hregs⟩ := s.refLatched_reads k hk
  have heq : s.refFails k = if k = 0 then (if (s.refLatched k).hubOn then ((s.refLatched k).setBit Reg.mrEpochStat 1 true).event 0x0104 3 0 s.mode
        else s.refLatched k).safeHold
      else if k = 1 then (s.refLatched k).each (List.range 8) (fun t k => if t.hubOn then t.setBit (Reg.vlLpStat (k + 1)) 31 false else t)
      else (s.refLatched k).crFailAll := by
    unfold State.refFails State.refLatched
    rfl
  rw [heq]
  clear heq
  generalize s.refLatched k = u at hk0 hc h3 h19 hchg hmode hcnt hregs
  have hcases : k = 0 ∨ k = 1 ∨ k = 2 := by omega
  have hadd := refCnt_addr k hk
  rcases hcases with rfl | rfl | rfl
  · rw [if_pos rfl]
    have hv : ∃ v, (if u.hubOn then (u.setBit Reg.mrEpochStat 1 true).event 0x0104 3 0 s.mode else u) = v ∧ v.pw = u.pw ∧
        (∀ q : Reg, q.addr < 0x40 → v.rd q = u.rd q) ∧ (∀ q : Reg, regPart q.addr = .regs → v.rd q = u.rd q) := by
      refine ⟨_, rfl, ?_⟩
      split
      · have ht : Touches [.ep, .evr, .ev] u ((u.setBit Reg.mrEpochStat 1 true).event 0x0104 3 0 s.mode) :=
          (Touches.refl.then (State.setBit_part .ep u Reg.mrEpochStat 1 true rfl)).then (State.event_touches ..)
        exact ⟨ht.pw_eq, fun q a => ht.rd_keep .pm (regPart_pm a), fun q a => ht.rd_keep .regs a⟩
      · exact ⟨rfl, fun _ _ => rfl, fun _ _ => rfl⟩
    obtain ⟨v, hve, hvp, hvr, hvq⟩ := hv
    rw [hve]
    have hvm : v.mode = s.mode := by
      rw [← hmode]
      unfold State.mode State.fld
      rw [hvp, hvr _ (by decide)]
    obtain ⟨hold, hten, -⟩ := v.safeHold_reads (by rw [hvp, hk0.aon]; exact haon)
    have hreg : ∀ q : Reg, regPart q.addr = .regs → (∀ n, n < 8 → q.addr ≠ (Reg.tcHold n).addr) → v.safeHold.rd q = v.rd q :=
      fun q a b => v.safeHold_rd a b
    have hdoms : v.safeHold.pw.doms = v.pw.doms := by rw [hold.pw]
    generalize v.safeHold = x at hold hten hreg hdoms
    have hxr : ∀ q : Reg, q.addr < 0x40 → q.addr ≠ 0 → x.rd q = u.rd q := fun q a b => (hold.rd q a b).trans (hvr q a)
    have hxf : ∀ i, x.bit Reg.pmFault i = u.bit Reg.pmFault i := fun i => congrArg (bitOf · i) (hxr _ (by decide) (by decide))
    refine ⟨⟨fun q a b c d => (hxr q a b).trans (hk0.rd q a b c d), fun i a b => (hxf i).trans (hk0.fault i a b), fun i a => ?_, fun i a => ?_,
      fun i a => ?_, ?_, ?_, fun h => absurd rfl h, fun q a b c d => (hreg q a b).trans ((hvq q a).trans (hk0.regs q a b c d))⟩, ?_,
      (hxf _).trans h3, (hxf _).trans h19, (hxr _ (by omega) (by omega)).trans hcnt,
      fun _ hm hn => hten (by rw [hvm]; exact hm) (by rw [hvp, hchg]; exact hn), fun h => absurd h (by decide), fun h => absurd h (by decide)⟩
    · rw [hold.pw, hvp]; exact hk0.bad i a
    · rw [hold.pw, hvp]; exact hk0.good i a
    · rw [hold.pw, hvp]; exact hk0.fail i a
    · rw [hdoms, hvp]; exact hk0.doms
    · rw [hold.pw, hvp]; exact hk0.aon
    · rw [hold.pw, hvp]; exact hc
  · rw [if_neg (by decide), if_pos rfl]
    have hall : ∀ t : State, t.pw = u.pw → ∀ j, (if t.hubOn then t.setBit (Reg.vlLpStat (j + 1)) 31 false else t).pw = u.pw :=
      fun t ht j => by
        split
        · exact (State.setBit_pw ..).trans ht
        · exact ht
    have hxp : (u.each (List.range 8) (fun t k => if t.hubOn then t.setBit (Reg.vlLpStat (k + 1)) 31 false else t)).pw = u.pw :=
      State.each_keeps (fun t => t.pw = u.pw) _ _ _ (fun t j _ ht => hall t ht j) rfl
    have hxq : ∀ q : Reg, (∀ j, j < 8 → q.addr ≠ (Reg.vlLpStat (j + 1)).addr) →
        (u.each (List.range 8) (fun t k => if t.hubOn then t.setBit (Reg.vlLpStat (k + 1)) 31 false else t)).rd q = u.rd q := fun q hq => by
      refine State.each_keeps (fun t => t.rd q = u.rd q) _ _ _ (fun t j hj ht => ?_) rfl
      split
      · exact (State.rd_setBit_ne _ _ _ (hq j (List.mem_range.mp hj))).trans ht
      · exact ht
    have hxl : u.hubOn = true → ∀ j, j < 8 →
        (u.each (List.range 8) (fun t k => if t.hubOn then t.setBit (Reg.vlLpStat (k + 1)) 31 false else t)).bit (Reg.vlLpStat (j + 1)) 31 = false :=
      fun hh j hj => by
        refine State.each_establishes (fun t => t.pw = u.pw) (fun t => t.bit (Reg.vlLpStat (j + 1)) 31 = false) _ j _ u (List.mem_range.mpr hj)
          (fun t i _ ht => hall t ht i) (fun t ht => ?_) (fun t i _ _ hQ => ?_) rfl
        · rw [State.hubOn_of_doms (congrArg PwSt.doms ht), if_pos hh]
          exact State.bit_setBit_same _ _ _ _ (by decide)
        · split
          · by_cases e : j = i
            · rw [← e]
              exact State.bit_setBit_same _ _ _ _ (by decide)
            · rw [State.bit_setBit_ne _ _ _ _ (by simp only [Reg.vlLpStat_addr]; omega)]
              exact hQ
          · exact hQ
    generalize u.each (List.range 8) (fun t k => if t.hubOn then t.setBit (Reg.vlLpStat (k + 1)) 31 false else t) = x at hxp hxq hxl
    have hpm : ∀ q : Reg, q.addr < 0x40 → x.rd q = u.rd q := fun q a => hxq q fun j _ => by rw [Reg.vlLpStat_addr]; omega
    have hxf : ∀ i, x.bit Reg.pmFault i = u.bit Reg.pmFault i := fun i => congrArg (bitOf · i) (hpm _ (by decide))
    exact ⟨hk0.trans (.of_eq hxp hpm fun q _ b _ => hxq q (b rfl)), by rw [hxp]; exact hc, (hxf _).trans h3, (hxf _).trans h19,
      (hpm _ (by omega)).trans hcnt, fun h => absurd h (by decide), fun _ hh => hxl ((State.hubOn_of_doms hk0.doms).trans hh),
      fun h => absurd h (by decide)⟩
  · rw [if_neg (by decide), if_neg (by decide)]
    obtain ⟨hg, hlow⟩ := u.crFailAll_reads
    have hxp := u.crFailAll_touches.pw_eq
    generalize u.crFailAll = x at hg hlow hxp
    have hxf : ∀ i, x.bit Reg.pmFault i = u.bit Reg.pmFault i := fun i => congrArg (bitOf · i) (hlow _ (by decide))
    refine ⟨hk0.trans (.of_eq hxp (fun q a => hlow q (by omega)) fun q _ _ c => hlow q (c rfl)), by rw [hxp]; exact hc, (hxf _).trans h3,
      (hxf _).trans h19, (hlow _ (by omega)).trans hcnt, fun h => absurd h (by decide), fun h => absurd h (by decide),
      fun _ n g hn hg8 hd hl hw => hg n g hn hg8 ?_ ?_ ?_⟩
    · rw [← hd]
      unfold State.domOn State.dom
      rw [hk0.doms]
    · unfold State.crLink State.fld
      rw [hregs _ (regPart_regs (by simp only [Reg.crCtrl_addr]; omega))]
      exact hl
    · unfold State.grpWord
      rw [hregs _ (regPart_regs (by simp only [Reg.crCfg_addr]; omega))]
      exact hw

/-- A reference that returns (R456): its active bit ends, and its latch stays. -/
theorem refReturns_reads (k : Nat) (hk : k < 3) : RefKept k s (s.refReturns k) ∧ (s.refReturns k).pw.refFail.contains k = false ∧
    (s.refReturns k).bit Reg.pmFault (19 + k) = false ∧ (s.refReturns k).bit Reg.pmFault (3 + k) = s.bit Reg.pmFault (3 + k) ∧
    (s.refReturns k).rd (refCnt k) = s.rd (refCnt k) := by
  unfold State.refReturns
  have hadd := refCnt_addr k hk
  have hur : ∀ q, State.rd { s with pw := { s.pw with refFail := s.pw.refFail.filter (· ≠ k) } } q = s.rd q := fun q => rfl
  have hup : State.pw { s with pw := { s.pw with refFail := s.pw.refFail.filter (· ≠ k) } } =
    { s.pw with refFail := s.pw.refFail.filter (· ≠ k) } := rfl
  have hum : State.mode { s with pw := { s.pw with refFail := s.pw.refFail.filter (· ≠ k) } } = s.mode := rfl
  have huf : ∀ i, State.bit { s with pw := { s.pw with refFail := s.pw.refFail.filter (· ≠ k) } } Reg.pmFault i = s.bit Reg.pmFault i := fun i => rfl
  generalize ({ s with pw := { s.pw with refFail := s.pw.refFail.filter (· ≠ k) } } : State) = u at hur hup hum huf
  obtain ⟨h1, h2⟩ := u.pmFaultEnd_bit (3 + k) (by omega)
  have hp := (u.pmFaultEnd_pw (3 + k)).trans hup
  have hm := u.pmFaultEnd_mode (3 + k)
  have hr : ∀ q : Reg, q.addr ≠ 0x10 → (u.pmFaultEnd (3 + k)).rd q = u.rd q := fun q a => u.pmFaultEnd_rd _ a
  have hq : ∀ q : Reg, regPart q.addr = .regs → (u.pmFaultEnd (3 + k)).rd q = u.rd q := fun q a => (u.pmFaultEnd_touches _).rd_keep .regs a
  rw [show 16 + (3 + k) = 19 + k by omega] at h1 h2
  generalize u.pmFaultEnd (3 + k) = v at h1 h2 hp hm hr hq
  refine ⟨⟨fun q _ _ c _ => (hr q c).trans (hur q), fun i _ b => (h2 i b).trans (huf i), fun i _ => by rw [hp], fun i _ => by rw [hp],
    fun i hi => ?_, by rw [hp], by rw [hp], fun _ => hm.trans hum, fun q a _ _ _ => (hq q a).trans (hur q)⟩, ?_, h1,
    (h2 _ (by omega)).trans (huf _), (hr _ (by omega)).trans (hur _)⟩
  · rw [hp]
    simp [hi]
  · rw [hp]
    simp

theorem refWindow_cases (k c : Nat) : s.refWindow k c (refCnt k) = (s.refShow k c).refFails k ∨
    s.refWindow k c (refCnt k) = (s.refShow k c).refReturns k ∨ s.refWindow k c (refCnt k) = s.refShow k c := by
  rw [State.refWindow_eq]
  generalize (decide (2 ≤ _) && _) = bad
  generalize (decide (4 ≤ _) && _) = good
  cases bad <;> cases good
  · exact .inr (.inr rfl)
  · exact .inr (.inl rfl)
  · exact .inl rfl
  · exact .inl rfl

theorem refWindow_bad {k c : Nat} (hw : refWithin k c = false) (hb : 1 ≤ SMap.get s.pw.refBad k 0) (hf : s.pw.refFail.contains k = false) :
    s.refWindow k c (refCnt k) = (s.refShow k c).refFails k := by
  rw [State.refWindow_eq, hw, hf]
  exact if_pos (by simp; omega)

theorem refWindow_good {k c : Nat} (hw : refWithin k c = true) (hg : 3 ≤ SMap.get s.pw.refGood k 0) (hf : s.pw.refFail.contains k = true) :
    s.refWindow k c (refCnt k) = (s.refShow k c).refReturns k := by
  rw [State.refWindow_eq, hw, hf]
  exact (if_neg (by simp)).trans (if_pos (by simp; omega))

/-- One window of a reference, for the others. -/
theorem refWindow_kept (k c : Nat) (hk : k < 3) (haon : s.pw.aon = true) : RefKept k s (s.refWindow k c (refCnt k)) := by
  obtain ⟨h, -⟩ := s.refShow_kept k c hk
  have ha : (s.refShow k c).pw.aon = true := h.aon.trans haon
  rcases s.refWindow_cases k c with e | e | e <;> rw [e]
  · exact h.trans (State.refFails_reads (s.refShow k c) k hk ha).1
  · exact h.trans (State.refReturns_reads (s.refShow k c) k hk).1
  · exact h

/-- What a window of a reference shows and does of its own. -/
theorem refWindow_reads (k c : Nat) (hk : k < 3) (haon : s.pw.aon = true) (hc : c < 2 ^ 20) :
    (s.refWindow k c (refCnt k)).rd (refCnt k) = c + b2n (refWithin k c) * 2 ^ 31 ∧
    (refWithin k c = false → 1 ≤ SMap.get s.pw.refBad k 0 → s.pw.refFail.contains k = false →
      (s.refWindow k c (refCnt k)).pw.refFail.contains k = true ∧ (s.refWindow k c (refCnt k)).bit Reg.pmFault (3 + k) = true ∧
      (s.refWindow k c (refCnt k)).bit Reg.pmFault (19 + k) = true ∧
      (k = 0 → s.mode ∈ [2, 3, 5, 6, 7, 8, 9] → s.pw.chg = none → (s.refWindow k c (refCnt k)).mode = 10) ∧
      (k = 1 → s.hubOn = true → ∀ j, j < 8 → (s.refWindow k c (refCnt k)).bit (Reg.vlLpStat (j + 1)) 31 = false) ∧
      (k = 2 → ∀ n g, n < 8 → g < 8 → s.domOn (domCr n) = true → s.crLink n ≠ 0 → grpWidth (s.grpWord n g) ≠ 0 →
        (s.refWindow k c (refCnt k)).bit (Reg.crGStat n g) 28 = true)) ∧
    (refWithin k c = true → 3 ≤ SMap.get s.pw.refGood k 0 → s.pw.refFail.contains k = true →
      (s.refWindow k c (refCnt k)).pw.refFail.contains k = false ∧ (s.refWindow k c (refCnt k)).bit Reg.pmFault (19 + k) = false ∧
      (s.refWindow k c (refCnt k)).bit Reg.pmFault (3 + k) = s.bit Reg.pmFault (3 + k)) := by
  obtain ⟨h, hrd, hfail, hchg, hmode, hflt, hregs⟩ := s.refShow_kept k c hk
  have ha : (s.refShow k c).pw.aon = true := h.aon.trans haon
  have hcv : (c % 2 ^ 20 + b2n (refWithin k c) * 2 ^ 31) % 2 ^ 32 = c + b2n (refWithin k c) * 2 ^ 31 := by
    have : b2n (refWithin k c) ≤ 1 := by cases refWithin k c <;> decide
    simp only [Nat.reducePow] at hc ⊢
    omega
  rw [hcv] at hrd
  obtain ⟨-, f1, f2, f3, f4, f5, f6, f7⟩ := State.refFails_reads (s.refShow k c) k hk ha
  obtain ⟨-, r1, r2, r3, r4⟩ := State.refReturns_reads (s.refShow k c) k hk
  refine ⟨?_, fun hw hb hf => ?_, fun hw hg hf => ?_⟩
  · rcases s.refWindow_cases k c with e | e | e <;> rw [e]
    · exact f4.trans hrd
    · exact r4.trans hrd
    · exact hrd
  · rw [s.refWindow_bad hw hb hf]
    refine ⟨f1, f2, f3, fun h0 hm hn => f5 h0 (by rw [hmode]; exact hm) (hchg.trans hn), fun h1 hh => f6 h1 ((State.hubOn_of_doms h.doms).trans hh),
      fun h2 n g hn hg8 hd hl hgw => f7 h2 n g hn hg8 ?_ ?_ ?_⟩
    · rw [← hd]
      unfold State.domOn State.dom
      rw [h.doms]
    · unfold State.crLink State.fld
      rw [hregs _ (regPart_regs (by simp only [Reg.crCtrl_addr]; omega))]
      exact hl
    · unfold State.grpWord
      rw [hregs _ (regPart_regs (by simp only [Reg.crCfg_addr]; omega))]
      exact hgw
  · rw [s.refWindow_good hw hg hf]
    exact ⟨r1, r2, r3.trans (hflt _)⟩

/-! ### The windows of the three references -/

/-- What reference `i` finds as it was, or left as it is, while the windows of others are read. -/
structure OtherKept (i : Nat) (s t : State) : Prop where
  cnt : t.rd (refCnt i) = s.rd (refCnt i)
  latch : t.bit Reg.pmFault (3 + i) = s.bit Reg.pmFault (3 + i)
  active : t.bit Reg.pmFault (19 + i) = s.bit Reg.pmFault (19 + i)
  bad : SMap.get t.pw.refBad i 0 = SMap.get s.pw.refBad i 0
  good : SMap.get t.pw.refGood i 0 = SMap.get s.pw.refGood i 0
  fail : t.pw.refFail.contains i = s.pw.refFail.contains i
  doms : t.pw.doms = s.pw.doms
  aon : t.pw.aon = s.pw.aon
  mode : i = 0 → t.mode = s.mode
  links : i = 1 → ∀ j, j < 8 → t.rd (Reg.vlLpStat (j + 1)) = s.rd (Reg.vlLpStat (j + 1))
  groups : i = 2 → ∀ n g, n < 8 → g < 8 → t.crLink n = s.crLink n ∧ t.grpWord n g = s.grpWord n g

theorem OtherKept.trans {i : Nat} {s t u : State} (h : OtherKept i s t) (h' : OtherKept i t u) : OtherKept i s u where
  cnt := h'.cnt.trans h.cnt
  latch := h'.latch.trans h.latch
  active := h'.active.trans h.active
  bad := h'.bad.trans h.bad
  good := h'.good.trans h.good
  fail := h'.fail.trans h.fail
  doms := h'.doms.trans h.doms
  aon := h'.aon.trans h.aon
  mode a := (h'.mode a).trans (h.mode a)
  links a j hj := (h'.links a j hj).trans (h.links a j hj)
  groups a n g hn hg := ⟨((h'.groups a n g hn hg).1).trans (h.groups a n g hn hg).1, ((h'.groups a n g hn hg).2).trans (h.groups a n g hn hg).2⟩

theorem OtherKept.refl (i : Nat) : OtherKept i s s :=
  ⟨rfl, rfl, rfl, rfl, rfl, rfl, rfl, rfl, fun _ => rfl, fun _ _ _ => rfl, fun _ _ _ _ _ => ⟨rfl, rfl⟩⟩

theorem RefKept.other {k i : Nat} {s t : State} (h : RefKept k s t) (hk : k < 3) (hi : i < 3) (hne : i ≠ k) : OtherKept i s t where
  cnt := h.rd _ (by rw [refCnt_addr i hi]; omega) (by rw [refCnt_addr i hi]; omega) (by rw [refCnt_addr i hi]; omega)
    (by rw [refCnt_addr i hi, refCnt_addr k hk]; omega)
  latch := h.fault _ (by omega) (by omega)
  active := h.fault _ (by omega) (by omega)
  bad := h.bad i hne
  good := h.good i hne
  fail := h.fail i hne
  doms := h.doms
  aon := h.aon
  mode e := h.mode (by omega)
  links e j hj := h.regs _ (regPart_regs (by simp only [Reg.vlLpStat_addr]; omega))
    (fun n _ => by simp only [Reg.vlLpStat_addr, Reg.tcHold_addr]; omega) (fun e' => absurd (e.trans e'.symm) hne)
    (fun _ => by simp only [Reg.vlLpStat_addr]; omega)
  groups e n g hn hg := by
    have hr : ∀ q : Reg, (∀ m, m < 8 → q.addr ≠ (Reg.tcHold m).addr) → 0x1000080000 ≤ q.addr → t.rd q = s.rd q := fun q hq hl =>
      h.regs q (regPart_regs (by omega)) hq (fun _ j _ => by simp only [Reg.vlLpStat_addr]; omega) (fun e' => absurd (e.trans e'.symm) hne)
    unfold State.crLink State.grpWord State.fld
    refine ⟨?_, ?_⟩
    · rw [hr (Reg.crCtrl n) (fun m _ => by simp only [Reg.crCtrl_addr, Reg.tcHold_addr]; omega) (by simp only [Reg.crCtrl_addr]; omega)]
    · exact hr (Reg.crCfg n (2 + g)) (fun m _ => by simp only [Reg.crCfg_addr, Reg.tcHold_addr]; omega) (by simp only [Reg.crCfg_addr]; omega)

/-- What the windows come to for one reference (R456). -/
structure WindowDone (i c : Nat) (s t : State) : Prop where
  shown : t.rd (refCnt i) = c + b2n (refWithin i c) * 2 ^ 31
  failed : refWithin i c = false → 1 ≤ SMap.get s.pw.refBad i 0 → s.pw.refFail.contains i = false →
    t.pw.refFail.contains i = true ∧ t.bit Reg.pmFault (3 + i) = true ∧ t.bit Reg.pmFault (19 + i) = true ∧ t.pinFaultN = false ∧
    (i = 0 → s.mode ∈ [2, 3, 5, 6, 7, 8, 9] → s.pw.chg = none → t.mode = 10) ∧
    (i = 1 → s.hubOn = true → ∀ k, k < 8 → t.bit (Reg.vlLpStat (k + 1)) 31 = false) ∧
    (i = 2 → ∀ n g, n < 8 → g < 8 → s.domOn (domCr n) = true → s.crLink n ≠ 0 → grpWidth (s.grpWord n g) ≠ 0 →
      t.bit (Reg.crGStat n g) 28 = true)
  returned : refWithin i c = true → 3 ≤ SMap.get s.pw.refGood i 0 → s.pw.refFail.contains i = true →
    t.pw.refFail.contains i = false ∧ t.bit Reg.pmFault (19 + i) = false ∧ t.bit Reg.pmFault (3 + i) = s.bit Reg.pmFault (3 + i)

/-- The window of reference `i`, with those of others before and after it. -/
theorem refWindow_amid {i c : Nat} {s b t : State} (hi : i < 3) (hc : c < 2 ^ 20) (haon : s.pw.aon = true) (hb : OtherKept i s b)
    (h0 : i = 0 → b = s) (ht : OtherKept i (b.refWindow i c (refCnt i)) t) (ht2 : i = 2 → t = b.refWindow i c (refCnt i)) :
    WindowDone i c s t := by
  obtain ⟨h1, h2, h3⟩ := b.refWindow_reads i c hi (hb.aon.trans haon) hc
  refine ⟨ht.cnt.trans h1, fun hw hbad hf => ?_, fun hw hg hf => ?_⟩
  · obtain ⟨f1, f2, f3, f4, f5, f6⟩ := h2 hw (by rw [hb.bad]; exact hbad) (hb.fail.trans hf)
    have hlat : t.bit Reg.pmFault (3 + i) = true := ht.latch.trans f2
    refine ⟨ht.fail.trans f1, hlat, ht.active.trans f3, decide_eq_false (State.fld_ne_zero_of_bit _ hlat (by omega)), fun e hm hn => ?_,
      fun e hh k hk => ?_, fun e n g hn hg hd hl hw => ?_⟩
    · exact (ht.mode e).trans (f4 e (by rw [h0 e]; exact hm) (by rw [h0 e]; exact hn))
    · exact (congrArg (bitOf · 31) (ht.links e k hk)).trans (f5 e ((State.hubOn_of_doms hb.doms).trans hh) k hk)
    · rw [ht2 e]
      obtain ⟨g1, g2⟩ := hb.groups e n g hn hg
      refine f6 e n g hn hg ?_ (by rw [g1]; exact hl) (by rw [g2]; exact hw)
      rw [← hd]
      unfold State.domOn State.dom
      rw [hb.doms]
  · obtain ⟨f1, f2, f3⟩ := h3 hw (by rw [hb.good]; exact hg) (hb.fail.trans hf)
    exact ⟨ht.fail.trans f1, ht.active.trans f2, ht.latch.trans (f3.trans hb.latch)⟩

/-- The window of a reference, when it is enabled. -/
def refOne (en : Bool) (k c : Nat) : State := if en then s.refWindow k c (refCnt k) else s

theorem refOne_other (en : Bool) {k : Nat} (c : Nat) (haon : s.pw.aon = true) (hk : k < 3) :
    ∀ i, i < 3 → i ≠ k → OtherKept i s (s.refOne en k c) := fun i hi hne => by
  unfold State.refOne
  split
  · exact (s.refWindow_kept k c hk haon).other hk hi hne
  · exact .refl s i

theorem refOne_aon (en : Bool) {k : Nat} (c : Nat) (haon : s.pw.aon = true) (hk : k < 3) : (s.refOne en k c).pw.aon = true := by
  unfold State.refOne
  split
  · exact (s.refWindow_kept k c hk haon).aon.trans haon
  · exact haon

theorem refCheck_executes (c0 c1 c2 : BitVec 20) (haon : s.pw.aon = true) (hx : s.pw.crystal = true) : exec (.refCheckWindow c0 c1 c2) s =
    .next (((s.refOne (bitOf s.pw.refEn 0) 0 c0.toNat).refOne (bitOf s.pw.refEn 1) 1 c1.toNat).refOne (bitOf s.pw.refEn 2) 2 c2.toNat) := by
  change execRefCheckWindow c0 c1 c2 s = _
  exact State.when_of _ _ (by rw [haon, hx]; rfl)

theorem refCheck_done (c0 c1 c2 : BitVec 20) (haon : s.pw.aon = true) {t : State} (ht : t = ((s.refOne (bitOf s.pw.refEn 0) 0 c0.toNat).refOne
      (bitOf s.pw.refEn 1) 1 c1.toNat).refOne (bitOf s.pw.refEn 2) 2 c2.toNat) :
    (bitOf s.pw.refEn 0 = true → WindowDone 0 c0.toNat s t) ∧ (bitOf s.pw.refEn 1 = true → WindowDone 1 c1.toNat s t) ∧
    (bitOf s.pw.refEn 2 = true → WindowDone 2 c2.toNat s t) := by
  have h0 := s.refOne_other (bitOf s.pw.refEn 0) c0.toNat haon (k := 0) (by decide)
  have a0 := s.refOne_aon (bitOf s.pw.refEn 0) c0.toNat haon (k := 0) (by decide)
  have e0 : bitOf s.pw.refEn 0 = true → s.refOne (bitOf s.pw.refEn 0) 0 c0.toNat = s.refWindow 0 c0.toNat (refCnt 0) := fun h => if_pos h
  generalize s.refOne (bitOf s.pw.refEn 0) 0 c0.toNat = u at h0 a0 e0 ht
  have h1 := u.refOne_other (bitOf s.pw.refEn 1) c1.toNat a0 (k := 1) (by decide)
  have a1 := u.refOne_aon (bitOf s.pw.refEn 1) c1.toNat a0 (k := 1) (by decide)
  have e1 : bitOf s.pw.refEn 1 = true → u.refOne (bitOf s.pw.refEn 1) 1 c1.toNat = u.refWindow 1 c1.toNat (refCnt 1) := fun h => if_pos h
  generalize u.refOne (bitOf s.pw.refEn 1) 1 c1.toNat = v at h1 a1 e1 ht
  have h2 := v.refOne_other (bitOf s.pw.refEn 2) c2.toNat a1 (k := 2) (by decide)
  have e2 : bitOf s.pw.refEn 2 = true → v.refOne (bitOf s.pw.refEn 2) 2 c2.toNat = v.refWindow 2 c2.toNat (refCnt 2) := fun h => if_pos h
  rw [← ht] at h2 e2
  refine ⟨fun h => ?_, fun h => ?_, fun h => ?_⟩
  · refine refWindow_amid (by decide) c0.isLt haon (.refl s 0) (fun _ => rfl) ?_ (fun e => absurd e (by decide))
    rw [← e0 h]
    exact (h1 _ (by decide) (by decide)).trans (h2 _ (by decide) (by decide))
  · refine refWindow_amid (by decide) c1.isLt haon (h0 _ (by decide) (by decide)) (fun e => absurd e (by decide)) ?_ (fun e => absurd e (by decide))
    rw [← e1 h]
    exact h2 _ (by decide) (by decide)
  · refine refWindow_amid (by decide) c2.isLt haon ((h0 _ (by decide) (by decide)).trans (h1 _ (by decide) (by decide)))
      (fun e => absurd e (by decide)) ?_ (fun _ => e2 h)
    rw [← e2 h]
    exact .refl t 2

/-! ### The thermal reading -/

/-- The reading, as it is shown. -/
def hotShown (x : Int) : State := { s with pw := { s.pw with hot16 := x } }.setFld Reg.pmTherm 23 16 (unsignedOf 8 (x / 16))

/-- The warning of a reading at WARN_C or above. -/
def hotWarned (x : Int) (warn : Nat) (warned : Bool) (m : Nat) : State :=
  if 16 * (warn : Int) ≤ x && !warned then { s with pw := { s.pw with warned := true } }.event 0x0105 4 0 m
  else if x < 16 * ((warn : Int) - 3) then { s with pw := { s.pw with warned := false } } else s

theorem thermal_executes (x : Int) (haon : s.pw.aon = true) : exec (.thermalRead x) s = .next
    (let s3 := ((s.hotShown x).hotWarned x (s.fld Reg.pmTherm 15 8) s.pw.warned s.mode).thermalEnds x
     let s4 := if 16 * (s.holdC : Int) ≤ x then (s3.pmFaultSet 1 true).safeHold else s3
     if 16 * 127 ≤ x then (if s.bit Reg.pmFault 18 then s4 else (s4.pmFaultSet 2 true).emergencyOff) else s4) := by
  change execThermalRead x s = _
  unfold execThermalRead State.hotShown State.hotWarned
  exact State.when_of _ _ haon

theorem hotShown_reads (x : Int) : (s.hotShown x).pw = { s.pw with hot16 := x } ∧
    (s.hotShown x).fld Reg.pmTherm 23 16 = unsignedOf 8 (x / 16) % 256 ∧ (s.hotShown x).fld Reg.pmTherm 7 0 = s.fld Reg.pmTherm 7 0 ∧
    ∀ q : Reg, q.addr ≠ 0x24 → (s.hotShown x).rd q = s.rd q := by
  unfold State.hotShown
  refine ⟨State.setFld_pw .., ?_, ?_, fun q hq => State.rd_setFld_ne _ _ _ _ hq⟩
  · exact State.fld_setFld_same _ _ _ _ _ (by decide) (by decide)
  · exact State.fld_setFld_other _ _ _ _ _ _ _ (by decide) (by decide) (.inl (by decide))

theorem hotWarned_reads (x : Int) (warn : Nat) (warned : Bool) (m : Nat) :
    (s.hotWarned x warn warned m).pw = { s.pw with warned := (s.hotWarned x warn warned m).pw.warned } ∧
    (∀ q : Reg, q.addr < 0x40 → (s.hotWarned x warn warned m).rd q = s.rd q) ∧
    (s.pw.warned = warned → 16 * (warn : Int) ≤ x → (s.hotWarned x warn warned m).pw.warned = true) := by
  unfold State.hotWarned
  split
  · refine ⟨?_, fun q hq => (State.event_touches ..).rd_keep .pm (regPart_pm hq), fun _ _ => ?_⟩
    · rw [(State.event_touches ..).pw_eq]
    · rw [(State.event_touches ..).pw_eq]
  · next hn =>
    have hw : 16 * (warn : Int) ≤ x → warned = true := fun h => by
      rw [decide_eq_true h] at hn
      simpa using hn
    split
    · exact ⟨rfl, fun _ _ => rfl, fun _ h => by omega⟩
    · exact ⟨rfl, fun _ _ => rfl, fun h h' => h.trans (hw h')⟩

theorem thermalEnds_reads (x : Int) :
    (∀ q : Reg, q.addr < 0x40 → q.addr ≠ 0 → q.addr ≠ 4 → q.addr ≠ 0x10 → (s.thermalEnds x).rd q = s.rd q) ∧
    (s.thermalEnds x).pw.hot16 = s.pw.hot16 ∧ (s.thermalEnds x).pw.warned = s.pw.warned ∧ (s.thermalEnds x).pw.aon = s.pw.aon ∧
    (s.thermalEnds x).pw.chg = s.pw.chg ∧ (s.canWake = false → (s.thermalEnds x).mode = s.mode) ∧
    (x < 16 * (s.holdC : Int) → (s.thermalEnds x).bit Reg.pmFault 17 = false ∧ (s.thermalEnds x).bit Reg.pmFault 18 = false) := by
  have hle : s.holdC ≤ 126 := Nat.min_le_left _ _
  unfold State.thermalEnds
  have hend : ∀ (u : State) (c : Prop) [Decidable c] (b : Nat), b < 16 → ∃ v, (if c then u.pmFaultEnd b else u) = v ∧ v.pw = u.pw ∧
      v.mode = u.mode ∧ v.canWake = u.canWake ∧ (∀ q : Reg, q.addr ≠ 0x10 → v.rd q = u.rd q) ∧ (c → v.bit Reg.pmFault (16 + b) = false) ∧
      ∀ i, i ≠ 16 + b → v.bit Reg.pmFault i = u.bit Reg.pmFault i := fun u c _ b hb => by
    refine ⟨_, rfl, ?_⟩
    split
    · exact ⟨u.pmFaultEnd_pw b, u.pmFaultEnd_mode b, u.pmFaultEnd_canWake b, fun q hq => u.pmFaultEnd_rd b hq,
        fun _ => (u.pmFaultEnd_bit b hb).1, (u.pmFaultEnd_bit b hb).2⟩
    · next hn => exact ⟨rfl, rfl, rfl, fun _ _ => rfl, fun h => absurd h hn, fun _ _ => rfl⟩
  dsimp only
  obtain ⟨v, hv, vp, vm, vw, vr, v18, vo⟩ := hend s (x < 16 * 127) 2 (by decide)
  rw [hv]
  obtain ⟨w, hw, wp, wm, ww, wr', w17, wo⟩ := hend v (x < 16 * (s.holdC : Int)) 1 (by decide)
  rw [hw]
  have hk := w.emergencyClear_kept
  have hpw : w.pw = s.pw := wp.trans vp
  generalize w.emergencyClear = y at hk
  refine ⟨fun q a b c d => (hk.rd q a b c d).trans ((wr' q d).trans (vr q d)), ?_, ?_, ?_, ?_, fun h => (hk.mode (ww.trans (vw.trans h))).trans (wm.trans vm),
    fun h => ⟨(hk.fault 17 (by decide) (by decide)).trans (w17 h), (hk.fault 18 (by decide) (by decide)).trans ((wo 18 (by decide)).trans (v18 (by omega)))⟩⟩
  all_goals rw [hk.pw, hpw]

/-- A thermal reading (R458, R469, R470). -/
theorem thermal_done (x : Int) (haon : s.pw.aon = true) : ∃ t, exec (.thermalRead x) s = .next t ∧ t.pw.hot16 = x ∧
    t.fld Reg.pmTherm 23 16 = unsignedOf 8 (x / 16) % 256 ∧
    (16 * 127 ≤ x → s.bit Reg.pmFault 18 = false → t.mode = 4 ∧ (∀ d, t.domOn d = false) ∧ t.pw.pwrEn = false ∧
      t.bit Reg.pmFault 2 = true ∧ t.bit Reg.pmFault 18 = true ∧ t.bit Reg.pmFault 8 = true) ∧
    (16 * (s.holdC : Int) ≤ x → x < 16 * 127 → t.bit Reg.pmFault 1 = true ∧ t.bit Reg.pmFault 17 = true ∧
      (s.mode ∈ [2, 3, 5, 6, 7, 8, 9] → s.pw.chg = none → t.mode = 10)) ∧
    (x < 16 * (s.holdC : Int) → t.bit Reg.pmFault 17 = false ∧ t.bit Reg.pmFault 18 = false) ∧
    (16 * (s.fld Reg.pmTherm 15 8 : Int) ≤ x → t.pw.warned = true) := by
  have hle : s.holdC ≤ 126 := Nat.min_le_left _ _
  obtain ⟨ap, a23, a7, ar⟩ := s.hotShown_reads x
  refine ⟨_, s.thermal_executes x haon, ?_⟩
  dsimp only
  generalize s.hotShown x = a at ap a23 a7 ar
  obtain ⟨bp, br, bw⟩ := a.hotWarned_reads x (s.fld Reg.pmTherm 15 8) s.pw.warned s.mode
  generalize a.hotWarned x (s.fld Reg.pmTherm 15 8) s.pw.warned s.mode = b at bp br bw
  have bw' : 16 * (s.fld Reg.pmTherm 15 8 : Int) ≤ x → b.pw.warned = true := bw (by rw [ap])
  have bhold : b.holdC = s.holdC := by
    unfold State.holdC
    rw [show b.fld Reg.pmTherm 7 0 = a.fld Reg.pmTherm 7 0 from congrArg (bitsOf · 7 0) (br _ (by decide)), a7]
  have brd : ∀ q : Reg, q.addr < 0x40 → q.addr ≠ 0x24 → b.rd q = s.rd q := fun q h h' => (br q h).trans (ar q h')
  have bmode : b.mode = s.mode := by
    unfold State.mode State.fld
    rw [brd _ (by decide) (by decide), bp, ap]
  have bwake : b.canWake = s.canWake := by
    unfold State.canWake State.bit
    rw [bmode, brd _ (by decide) (by decide), bp, ap]
  have b23 : b.fld Reg.pmTherm 23 16 = unsignedOf 8 (x / 16) % 256 := (congrArg (bitsOf · 23 16) (br Reg.pmTherm (by decide))).trans a23
  obtain ⟨cr, chot, cwarn, caon, cchg, cmode, cend⟩ := b.thermalEnds_reads x
  generalize b.thermalEnds x = c at cr chot cwarn caon cchg cmode cend
  have haonc : c.pw.aon = true := by rw [caon, bp, ap]; exact haon
  have c23 : c.fld Reg.pmTherm 23 16 = unsignedOf 8 (x / 16) % 256 :=
    (congrArg (bitsOf · 23 16) (cr Reg.pmTherm (by decide) (by decide) (by decide) (by decide))).trans b23
  have chx : c.pw.hot16 = x := by rw [chot, bp, ap]
  have cwx : 16 * (s.fld Reg.pmTherm 15 8 : Int) ≤ x → c.pw.warned = true := fun h => cwarn.trans (bw' h)
  by_cases hh : 16 * (s.holdC : Int) ≤ x
  · rw [if_pos hh]
    obtain ⟨f1, f17, fo, -, -⟩ := c.pmFaultSet_reads 1 true (by decide)
    have fp := c.pmFaultSet_pw 1 true
    have fm := c.pmFaultSet_mode 1 true
    have ft : (c.pmFaultSet 1 true).rd Reg.pmTherm = c.rd Reg.pmTherm := c.pmFaultSet_rd 1 true (by decide) (by decide)
    generalize c.pmFaultSet 1 true = f at f1 f17 fo fp fm ft
    obtain ⟨hk, hten, -⟩ := f.safeHold_reads (by rw [fp]; exact haonc)
    have hold10 : s.mode ∈ [2, 3, 5, 6, 7, 8, 9] → s.pw.chg = none → f.safeHold.mode = 10 := fun hm hn => by
      have hcm : c.mode = s.mode := (cmode (bwake.trans (State.canWake_of_mode _ (by
        simp only [List.mem_cons, List.not_mem_nil, or_false] at hm ⊢; omega)))).trans bmode
      exact hten (by rw [fm, hcm]; exact hm) (by rw [fp, cchg, bp, ap]; exact hn)
    generalize f.safeHold = g at hk hold10
    have gf : ∀ i, g.bit Reg.pmFault i = f.bit Reg.pmFault i := fun i => congrArg (bitOf · i) (hk.rd _ (by decide) (by decide))
    have gt : g.rd Reg.pmTherm = c.rd Reg.pmTherm := (hk.rd _ (by decide) (by decide)).trans ft
    have g23 : g.fld Reg.pmTherm 23 16 = unsignedOf 8 (x / 16) % 256 := (congrArg (bitsOf · 23 16) gt).trans c23
    have ghot : g.pw.hot16 = x := by rw [hk.pw, fp]; exact chx
    have gwarn : 16 * (s.fld Reg.pmTherm 15 8 : Int) ≤ x → g.pw.warned = true := fun h => by rw [hk.pw, fp]; exact cwx h
    have gaon : g.pw.aon = true := by rw [hk.pw, fp]; exact haonc
    by_cases he : (16 * 127 : Int) ≤ x
    · rw [if_pos he]
      by_cases h18 : s.bit Reg.pmFault 18 = true
      · rw [if_pos h18]
        exact ⟨ghot, g23, fun _ h => absurd h (by rw [h18]; decide), fun _ h => by omega, fun h => by omega, gwarn⟩
      · rw [if_neg h18]
        obtain ⟨k2, k18, ko, -, -⟩ := g.pmFaultSet_reads 2 true (by decide)
        have kp := g.pmFaultSet_pw 2 true
        have kt : (g.pmFaultSet 2 true).rd Reg.pmTherm = g.rd Reg.pmTherm := g.pmFaultSet_rd 2 true (by decide) (by decide)
        generalize g.pmFaultSet 2 true = k at k2 k18 ko kp kt
        obtain ⟨e1, e2, e3, e4, e5, e6, e7, e8, e9⟩ := k.emergencyOff_reads (by rw [kp]; exact gaon)
        refine ⟨e8.trans (by rw [kp]; exact ghot), ?_, fun _ _ => ⟨e1, e2, e3, (e6 2 (by decide) (by decide)).trans k2,
          (e6 18 (by decide) (by decide)).trans k18, e4⟩, fun _ h => by omega, fun h => by omega,
          fun h => e9.trans (by rw [kp]; exact gwarn h)⟩
        exact (congrArg (bitsOf · 23 16) ((e7 _ (by decide) (by decide) (by decide) (by decide)).trans kt)).trans g23
    · rw [if_neg he]
      exact ⟨ghot, g23, fun h => absurd h he, fun _ _ => ⟨(gf 1).trans f1, (gf 17).trans f17, hold10⟩, fun h => by omega, gwarn⟩
  · rw [if_neg hh, if_neg (by omega)]
    exact ⟨chx, c23, fun h => by omega, fun h => absurd h hh, fun h => cend (by rw [bhold]; exact h), cwx⟩

end State
end Sys2Proof.Machine

namespace Sys2Proof.Proofs
open Sys2Proof Sys2Proof.Machine

/-- Settles O42. -/
theorem temperatureAndReferences : Obligations.TemperatureAndReferences := by
  refine fun s haon => ⟨fun x => s.thermal_done x haon, fun c0 c1 c2 i c r hx hen hmem => ?_⟩
  refine ⟨_, s.refCheck_executes c0 c1 c2 haon hx, ?_⟩
  obtain ⟨w0, w1, w2⟩ := s.refCheck_done c0 c1 c2 haon rfl
  generalize ((s.refOne (bitOf s.pw.refEn 0) 0 c0.toNat).refOne (bitOf s.pw.refEn 1) 1 c1.toNat).refOne (bitOf s.pw.refEn 2) 2 c2.toNat = t at w0 w1 w2
  have hw : State.WindowDone i c s t ∧ r = State.refCnt i := by
    simp only [List.mem_cons, List.not_mem_nil, or_false, Prod.mk.injEq] at hmem
    rcases hmem with ⟨rfl, rfl, rfl⟩ | ⟨rfl, rfl, rfl⟩ | ⟨rfl, rfl, rfl⟩
    · exact ⟨w0 hen, rfl⟩
    · exact ⟨w1 hen, rfl⟩
    · exact ⟨w2 hen, rfl⟩
  obtain ⟨⟨h1, h2, h3⟩, rfl⟩ := hw
  exact ⟨h1, h2, h3⟩

end Sys2Proof.Proofs
end


-- ==== Sys2Proof/Proofs/Supplies.lean ====
section
set_option Elab.async false
/-!
PROOF. Power-good, the PMBus polls and alerts, the hub's rail and PWR_EN (R457, R469, R470, R523, R524, R526). Settles O41.
-/
namespace Sys2Proof.Machine

/-- What runs that fault and designs that are lost leave of the always-on part: all but the queued mode request and the runs that
a mode holds. -/
structure QueueKept (s t : State) : Prop where
  pw : t.pw = { s.pw with deferred := t.pw.deferred, modeHeld := t.pw.modeHeld, pend := t.pw.pend }

theorem QueueKept.of_pw {s t : State} (h : t.pw = s.pw) : QueueKept s t := ⟨by rw [h]⟩

theorem QueueKept.trans {s t u : State} (h : QueueKept s t) (h' : QueueKept t u) : QueueKept s u := ⟨by rw [h'.pw, h.pw]⟩

theorem QueueKept.each {α : Type} {s t : State} (xs : List α) {f : State → α → State} (h : QueueKept s t) (hf : ∀ u x, QueueKept u (f u x)) :
    QueueKept s (t.each xs f) :=
  State.each_keeps (QueueKept s) _ _ _ (fun u x _ hu => hu.trans (hf u x)) h

namespace State
variable (s : State)

theorem modeQueue_queue (r : ModeReq) : QueueKept s (s.modeQueue r) := by
  have h1 : ∀ u : State, u.pw = s.pw → QueueKept s (({ u with pw := { u.pw with pend := some r } } : State).showMode) := fun u hu => by
    have hp : (({ u with pw := { u.pw with pend := some r } } : State).showMode).pw = { u.pw with pend := some r } :=
      (State.showMode_touches _).pw_eq
    exact ⟨by rw [hp, hu]⟩
  unfold State.modeQueue
  dsimp only
  split
  · exact h1 _ (s.supersede_touches _).pw_eq
  · exact h1 _ rfl

theorem runFault_queue (r : Nat) : QueueKept s (s.runFault r) := by
  unfold State.runFault
  extract_lets +onlyGivenNames x
  clear_value x
  split
  · exact .of_pw rfl
  · extract_lets +onlyGivenNames s1 s2
    have h1 : s1.pw = s.pw := (State.tktEnd?_touches _ _ _ _).pw_eq
    clear_value s1
    have h2 : s2.pw = s.pw := (State.stepDrop_touches _ _ _).pw_eq.trans ((State.compactDone_touches _ _ _).pw_eq.trans
      ((s1.giveUp_touches r).pw_eq.trans h1))
    clear_value s2
    split
    · exact (QueueKept.of_pw h2).trans (s2.modeQueue_queue _)
    · exact .of_pw h2

theorem pmFail_queue (h run : Nat) : QueueKept s (s.pmFail h run) := by
  unfold State.pmFail
  refine .each _ (.of_pw ?_) fun u r => u.runFault_queue r
  rw [(State.event_touches ..).pw_eq, State.count_pw]

theorem pmGet_queue (h run : Nat) : QueueKept s (s.pmGet h run).1 := by
  unfold State.pmGet
  split
  · exact .of_pw rfl
  · extract_lets +onlyGivenNames g s1 e
    have h1 : s1.pw = s.pw := (State.count_pw ..).trans (Touches.pw_eq (s.dramRead_touches ..))
    clear_value s1
    have h2 : ∀ e, QueueKept s (s1.cachePut h e) := fun e => .of_pw ((State.cachePut_touches ..).pw_eq.trans h1)
    split
    · exact h2 _
    · exact (h2 _).trans (State.pmFail_queue _ _ _)

theorem pmPut_pw (h : Nat) (e : PmEnt) : (s.pmPut h e).pw = s.pw := (s.pmPut_touches h e).pw_eq

theorem pmFree_queue (h : Nat) : QueueKept s (s.pmFree h) := by
  have hg := s.pmGet_queue h noRun
  unfold State.pmFree
  generalize s.pmGet h noRun = x at hg
  obtain ⟨t, e⟩ := x
  dsimp only at hg ⊢
  split
  · exact hg
  · exact hg.trans (.of_pw (State.pmPut_pw _ _ _))

theorem pmPoison_queue (h : Nat) : QueueKept s (s.pmPoison h) := by
  have hg := s.pmGet_queue h noRun
  unfold State.pmPoison
  generalize s.pmGet h noRun = x at hg
  obtain ⟨t, e⟩ := x
  exact hg.trans (.of_pw (State.pmPut_pw _ _ _))

theorem loadFail_queue (j st err : Nat) : QueueKept s (s.loadFail j st err) := by
  unfold State.loadFail
  extract_lets +onlyGivenNames l s1 s2 src src' s3
  have h1 : QueueKept s s1 := by
    unfold s1
    split
    · exact (QueueKept.each _ (.of_pw rfl) fun u k => u.pmFree_queue _).trans (.of_pw rfl)
    · exact .of_pw rfl
  clear_value s1
  have h2 : QueueKept s s2 := h1.trans (.each _ (.of_pw rfl) fun u i => .of_pw (u.evictBp_touches i).pw_eq)
  clear_value s2
  exact h2.trans (.of_pw (s3.tktEnd_touches _ _ _).pw_eq)

theorem pageStoreLost_queue : QueueKept s s.pageStoreLost := by
  unfold State.pageStoreLost
  extract_lets +onlyGivenNames s1 s2 s3 excl s4 srcSo srcVl srcPw s5
  have h1 : QueueKept s s1 := .each _ (.of_pw rfl) fun u e => u.loadFail_queue _ _ _
  clear_value s1
  have h2 : QueueKept s s2 := h1.trans (.each _ (.of_pw rfl) fun t e => by
    dsimp only
    have hu : ((((t.holdAll e.1).each (t.runHeld e.1) (fun v i => v.evictBp i)).tktEnd? e.2.curTkt 3 stIntegrity)).pw = t.pw := by
      refine (State.tktEnd?_touches _ _ _ _).pw_eq.trans ?_
      exact State.each_keeps (fun v => v.pw = t.pw) _ _ _ (fun v i _ hv => (v.evictBp_touches i).pw_eq.trans hv) (t.holdAll_touches _).pw_eq
    split
    · exact .of_pw ((State.tktEnd?_touches _ _ _ _).pw_eq.trans hu)
    · exact .of_pw hu)
  clear_value s2
  have h3 : QueueKept s s3 := h2.trans (.each _ (.of_pw rfl) fun t e => .of_pw (State.tktEnd?_touches _ _ _ _).pw_eq)
  clear_value s3
  have h4 : QueueKept s s4 := h3.trans (.each _ (.each _ (.of_pw rfl) fun t e => .of_pw (State.tktEnd_touches _ _ _ _).pw_eq)
    fun t e => .of_pw (State.tktEnd_touches _ _ _ _).pw_eq)
  clear_value s4
  have h5 : QueueKept s s5 := h4.trans ⟨by rw [(State.trigSweep_touches _).pw_eq]⟩
  clear_value s5
  split
  · exact h5.trans (s5.modeQueue_queue _)
  · exact h5

theorem stackLost_queue (n : Nat) : QueueKept s (s.stackLost n) := by
  unfold State.stackLost
  split
  · exact s.pageStoreLost_queue
  · dsimp only
    exact .each _ (.each _ (.each _ (.of_pw rfl) fun u h => u.pmPoison_queue h) fun u r => u.runFault_queue r)
      fun u k => .of_pw (u.snapFail_touches _ _ _).pw_eq

/-! ### Supplies of domains that are removed -/

/-- The same, with the records of the domains. -/
structure OffKept (s t : State) : Prop where
  pw : t.pw = { s.pw with deferred := t.pw.deferred, modeHeld := t.pw.modeHeld, pend := t.pw.pend, doms := t.pw.doms }
  rd : ∀ q : Reg, q.addr < 0x40 → q.addr ≠ 0x28 → t.rd q = s.rd q
  off : ∀ d, s.domOn d = false → t.domOn d = false

theorem OffKept.refl : OffKept s s := ⟨rfl, fun _ _ _ => rfl, fun _ h => h⟩

theorem OffKept.trans {s t u : State} (h : OffKept s t) (h' : OffKept t u) : OffKept s u :=
  ⟨by rw [h'.pw, h.pw], fun q a b => (h'.rd q a b).trans (h.rd q a b), fun d hd => h'.off d (h.off d hd)⟩

theorem OffKept.each {α : Type} {s t : State} (xs : List α) {f : State → α → State} (h : OffKept s t) (hf : ∀ u, ∀ x ∈ xs, OffKept u (f u x)) :
    OffKept s (t.each xs f) :=
  State.each_keeps (OffKept s) _ _ _ (fun u x hx hu => hu.trans (hf u x hx)) h

theorem QueueKept.off {P : List Part} {s t : State} (h : QueueKept s t) (ht : Touches P s t) (hP : Part.pm ∉ P := by decide) : OffKept s t where
  pw := by
    refine h.pw.trans ?_
    rw [show t.pw.doms = s.pw.doms by rw [h.pw]]
  rd q a _ := ht.rd_keep .pm (regPart_pm a) hP
  off d hd := by
    rw [← hd]
    unfold State.domOn State.dom
    rw [h.pw]

theorem domOn_setDom (d : Nat) (v : DomSt) (j : Nat) : (s.setDom d v).domOn j = if j = d then (v.ph = 2 || v.ph = 3) else s.domOn j := by
  unfold State.domOn State.dom
  rw [State.setDom_pw]
  split
  · next h => rw [h, SMap.get_set_same]
  · next h => rw [SMap.get_set_ne _ _ _ _ h]

/-- A domain other than the hub goes off. -/
theorem domOff_offKept {d : Nat} (hd : d ≠ domHub) : OffKept s (s.domOff d) ∧ (s.domOff d).domOn d = false := by
  have hlost : (s.domLost d).pw = s.pw := (s.domLost_pw d).resolve_right fun h => hd h.1
  have hpw : (s.domOff d).pw = { s.pw with doms := (s.domOff d).pw.doms } := by
    unfold State.domOff
    dsimp only
    split
    · rw [State.setDom_pw]
    · split <;> rw [State.setDom_pw, hlost]
  have hon : ∀ j, (s.domOff d).domOn j = if j = d then false else s.domOn j := fun j => by
    have h1 : ∀ u : State, u.pw = s.pw → (u.setDom d {}).domOn j = if j = d then false else s.domOn j := fun u hu => by
      rw [State.domOn_setDom]
      split
      · rfl
      · unfold State.domOn State.dom
        rw [hu]
    unfold State.domOff
    dsimp only
    split
    · exact h1 s rfl
    · split
      · exact h1 _ hlost
      · exact h1 _ hlost
  refine ⟨⟨?_, (s.domOff_aonKept d).2, fun j hj => ?_⟩, by rw [hon, if_pos rfl]⟩
  · rw [hpw]
  · rw [hon]
    split
    · rfl
    · exact hj

theorem mem_insBy {α : Type} (le : α → α → Bool) (x y : α) (xs : List α) : y ∈ insBy le x xs ↔ y = x ∨ y ∈ xs := by
  induction xs with
  | nil => simp [insBy]
  | cons z zs ih =>
    unfold insBy
    split
    · simp
    · simp [ih, or_left_comm]

theorem mem_sortBy {α : Type} (le : α → α → Bool) (y : α) (xs : List α) : y ∈ sortBy le xs ↔ y ∈ xs := by
  induction xs with
  | nil => rfl
  | cons x xs ih =>
    change y ∈ insBy le x (sortBy le xs) ↔ _
    rw [mem_insBy, ih, List.mem_cons]

theorem hub_not_under {d : Nat} (hd : d ≠ domHub) : domHub ∉ s.subtree d := by
  intro h
  have hu := (List.mem_filter.mp ((mem_sortBy _ _ _).mp h)).2
  rw [show domParents domHub = [] from rfl] at hu
  simp only [List.contains_nil, List.any_nil, Bool.or_false, decide_eq_true_eq] at hu
  exact hd hu.symm

theorem SMap_get_of_not_key {α : Type} {m : SMap α} {k : Nat} (h : k ∉ SMap.keys m) (d : α) : SMap.get m k d = d := by
  unfold SMap.get
  rw [show SMap.find m k = none from ?_]
  · rfl
  · induction m with
    | nil => rfl
    | cons e m ih =>
      simp only [SMap.keys, List.map_cons, List.mem_cons, not_or] at h
      unfold SMap.find
      exact (if_neg fun hk => h.1 hk.symm).trans (ih h.2)

/-- Supplies that are removed at once (R469): their domains are off. -/
theorem supplyOff_reads (ds : List Nat) : OffKept s (s.supplyOff ds) ∧
    ∀ d ∈ ds, d ≠ domHub → d ≠ domRnd → (s.supplyOff ds).domOn d = false := by
  unfold State.supplyOff
  extract_lets +onlyGivenNames gone here runs s1 s2
  have hgone : ∀ d ∈ gone, d ≠ domHub := fun d hm e => by
    obtain ⟨x, hx, hs⟩ := List.mem_flatMap.mp hm
    have hne := (List.mem_filter.mp hx).2
    simp only [ne_eq, Bool.and_eq_true, decide_eq_true_eq] at hne
    exact s.hub_not_under hne.1 (e ▸ hs)
  have h1 : OffKept s s1 := .each _ (.refl s) fun u r _ => QueueKept.off (u.runFault_queue r) (u.runFault_touches r)
  have hstep : ∀ (t : State) (d : Nat), d ≠ domHub →
      OffKept t (if isSpDom d then ((if 8 ≤ d ∧ d < 16 then t.crTktEnd (d - 8) 5 0 else t).domOff d).setPower (d - 0x400) 0
        else (if 8 ≤ d ∧ d < 16 then t.crTktEnd (d - 8) 5 0 else t).domOff d) ∧
      (if isSpDom d then ((if 8 ≤ d ∧ d < 16 then t.crTktEnd (d - 8) 5 0 else t).domOff d).setPower (d - 0x400) 0
        else (if 8 ≤ d ∧ d < 16 then t.crTktEnd (d - 8) 5 0 else t).domOff d).domOn d = false := fun t d hd => by
    have hu : ∃ u, (if 8 ≤ d ∧ d < 16 then t.crTktEnd (d - 8) 5 0 else t) = u ∧ OffKept t u := ⟨_, rfl, by
      split
      · exact QueueKept.off (.of_pw (t.crTktEnd_touches _ _ _).pw_eq) (t.crTktEnd_touches _ _ _)
      · exact .refl t⟩
    obtain ⟨u, hue, hk⟩ := hu
    rw [hue]
    obtain ⟨ho, hf⟩ := u.domOff_offKept hd
    have hp := QueueKept.off (.of_pw ((u.domOff d).setPower_touches (d - 0x400) 0).pw_eq) ((u.domOff d).setPower_touches (d - 0x400) 0)
    split
    · exact ⟨hk.trans (ho.trans hp), hp.off d hf⟩
    · exact ⟨hk.trans ho, hf⟩
  have h2 : OffKept s s2 := .each _ h1 fun u d hm => (hstep u d (hgone d hm)).1
  have hoff : ∀ d ∈ ds, d ≠ domHub → d ≠ domRnd → s2.domOn d = false := fun d hm hh hr => by
    by_cases hkey : d ∈ SMap.keys s.pw.doms
    · have hin : d ∈ gone := List.mem_flatMap.mpr ⟨d, List.mem_filter.mpr ⟨hm, by simp [hh, hr]⟩, by
        unfold State.subtree
        exact (mem_sortBy _ _ _).mpr (List.mem_filter.mpr ⟨hkey, by simp⟩)⟩
      exact State.each_establishes (fun _ => True) (fun t => t.domOn d = false) _ d gone s1 hin (fun _ _ _ _ => trivial)
        (fun t _ => (hstep t d hh).2) (fun t j hj _ hQ => (hstep t j (hgone j hj)).1.off d hQ) trivial
    · refine h2.off d ?_
      unfold State.domOn State.dom
      rw [SMap_get_of_not_key hkey]
      rfl
  clear_value s2
  have h3 : OffKept s2 (s2.each (gone.filter (fun d => decide (22 ≤ d) && decide (d < 30))) (fun t d => t.stackLost (d - 22))) :=
    .each _ (.refl s2) fun u d _ => QueueKept.off (u.stackLost_queue _) (u.stackLost_touches _)
  exact ⟨h2.trans h3, fun d hm hh hr => h3.off d (hoff d hm hh hr)⟩

theorem OffKept.mode {s t : State} (h : OffKept s t) : t.mode = s.mode := by
  unfold State.mode State.fld
  rw [h.rd _ (by decide) (by decide), h.pw]

/-- Pages out of range (R457, R469): the fault, Safe Hold, and the domains that the pages feed. -/
theorem supplyFault_reads (ps : List (Nat × Nat)) (haon : s.pw.aon = true) :
    ((s.supplyFault ps).pw.pgLow = s.pw.pgLow ∧ (s.supplyFault ps).pw.pageBad = s.pw.pageBad ∧ (s.supplyFault ps).pw.pout = s.pw.pout ∧
      (s.supplyFault ps).pw.pmbusErr = s.pw.pmbusErr) ∧
    (ps ≠ [] → (s.supplyFault ps).bit Reg.pmFault 0 = true ∧ (s.supplyFault ps).bit Reg.pmFault 16 = true ∧
      (s.supplyFault ps).bit Reg.pmStat 14 = true ∧ (s.supplyFault ps).pinFaultN = false ∧
      (s.mode ∈ [2, 3, 5, 6, 7, 8, 9] → s.pw.chg = none → (s.supplyFault ps).mode = 10) ∧
      (s.mode ∈ [2, 3, 5, 6, 7, 8, 9] → ∀ c, s.pw.chg = some c → c.req.src ≠ .boot → c.req.target ≠ 10 → (s.supplyFault ps).pw.holdDue = true) ∧
      ∀ p ∈ ps, ∀ d ∈ feeds p.1 p.2, d ≠ domHub → d ≠ domRnd → (s.supplyFault ps).domOn d = false) := by
  unfold State.supplyFault
  split
  · next h => exact ⟨⟨rfl, rfl, rfl, rfl⟩, fun hn => absurd (List.isEmpty_iff.mp h) hn⟩
  · extract_lets +onlyGivenNames s1 src s2
    obtain ⟨f0, f16, -, f14, fne⟩ := s.pmFaultSet_reads 0 true (by decide)
    have hp1 : s1.pw = s.pw := s.pmFaultSet_pw 0 true
    have hm1 : s1.mode = s.mode := s.pmFaultSet_mode 0 true
    change s1.bit _ _ = _ at f0 f16 f14
    change s1.fld _ _ _ ≠ _ at fne
    clear_value s1
    have h2 : s2.pw = s1.pw ∧ s2.regs = s1.regs := by
      unfold s2
      split <;> exact ⟨rfl, rfl⟩
    clear_value s2
    have hp2 : s2.pw = s.pw := h2.1.trans hp1
    have hm2 : s2.mode = s.mode := by
      rw [← hm1]
      unfold State.mode State.fld
      rw [h2.1, State.rd_of_regs h2.2]
    obtain ⟨hk, hten, hdue⟩ := s2.safeHold_reads (by rw [hp2]; exact haon)
    generalize s2.safeHold = u at hk hten hdue
    have huf : u.rd Reg.pmFault = s1.rd Reg.pmFault := (hk.rd _ (by decide) (by decide)).trans (State.rd_of_regs h2.2 _)
    have hu14 : u.bit Reg.pmStat 14 = s1.bit Reg.pmStat 14 :=
      State.bit_of_fld ((hk.stat 14 14 (by decide) (.inl (by decide))).trans (State.fld_of_regs h2.2 _ _ _))
    obtain ⟨ho, hd⟩ := u.supplyOff_reads (ps.flatMap (fun p => feeds p.1 p.2)).dedup
    generalize u.supplyOff (ps.flatMap (fun p => feeds p.1 p.2)).dedup = t at ho hd
    have htf : t.rd Reg.pmFault = s1.rd Reg.pmFault := (ho.rd _ (by decide) (by decide)).trans huf
    refine ⟨⟨?_, ?_, ?_, ?_⟩, fun _ => ⟨(congrArg (bitOf · 0) htf).trans f0, (congrArg (bitOf · 16) htf).trans f16,
      (congrArg (bitOf · 14) (ho.rd Reg.pmStat (by decide) (by decide))).trans (hu14.trans f14),
      decide_eq_false (by rw [show t.fld Reg.pmFault 15 0 = s1.fld Reg.pmFault 15 0 from congrArg (bitsOf · 15 0) htf]; exact fne),
      fun hm hn => ho.mode.trans (hten (by rw [hm2]; exact hm) (by rw [hp2]; exact hn)), fun hm c hc hb ht => ?_, fun p hp d hf hh hr =>
        hd d (List.mem_dedup.mpr (List.mem_flatMap.mpr ⟨p, hp, hf⟩)) hh hr⟩⟩
    all_goals rw [ho.pw]
    · rw [hk.pw, hp2]
    · rw [hk.pw, hp2]
    · rw [hk.pw, hp2]
    · rw [hk.pw, hp2]
    · exact hdue (by rw [hm2]; exact hm) c (by rw [hp2]; exact hc) hb ht

/-- Supplies that are all back in range end the active bit and leave the latch. -/
theorem supplyCheck_reads : (s.supplyCheck.pw.pgLow = s.pw.pgLow ∧ s.supplyCheck.pw.pageBad = s.pw.pageBad ∧ s.supplyCheck.pw.pout = s.pw.pout) ∧
    s.supplyCheck.bit Reg.pmFault 0 = s.bit Reg.pmFault 0 ∧ (s.supplyOk = true → s.supplyCheck.bit Reg.pmFault 16 = false) := by
  unfold State.supplyCheck
  split
  · obtain ⟨h1, h2⟩ := s.pmFaultEnd_bit 0 (by decide)
    have hp := s.pmFaultEnd_pw 0
    generalize s.pmFaultEnd 0 = u at h1 h2 hp
    have hk := u.emergencyClear_kept
    refine ⟨⟨?_, ?_, ?_⟩, (hk.fault 0 (by decide) (by decide)).trans (h2 0 (by decide)), fun _ => (hk.fault 16 (by decide) (by decide)).trans h1⟩
    all_goals rw [hk.pw, hp]
  · next h => exact ⟨⟨rfl, rfl, rfl⟩, rfl, fun h' => absurd h' h⟩

theorem get_foldl_set (f : Nat → Nat) (xs : List Nat) (m : SMap Nat) (k : Nat) :
    SMap.get (xs.foldl (fun m k => SMap.set m k (f k) 0) m) k 0 = if k ∈ xs then f k else SMap.get m k 0 := by
  induction xs generalizing m with
  | nil => rfl
  | cons x xs ih =>
    rw [List.foldl_cons, ih]
    by_cases hx : k ∈ xs
    · rw [if_pos hx, if_pos (List.mem_cons_of_mem _ hx)]
    · rw [if_neg hx]
      by_cases e : k = x
      · rw [e, if_pos List.mem_cons_self, SMap.get_set_same]
      · rw [if_neg (by simp [e, hx]), SMap.get_set_ne _ _ _ _ e]

theorem foldl_erased (xs : List Nat) (m : SMap Nat) (e : Nat × Nat) (h : e ∈ xs.foldl (fun m k => SMap.set m k 0 0) m) : e ∈ m ∧ e.1 ∉ xs := by
  induction xs generalizing m with
  | nil => exact ⟨h, by simp⟩
  | cons x xs ih =>
    rw [List.foldl_cons, show SMap.set m x 0 0 = SMap.erase m x from if_pos rfl] at h
    obtain ⟨h1, h2⟩ := ih _ h
    obtain ⟨hm, hx⟩ := List.mem_filter.mp h1
    exact ⟨hm, by simp only [List.mem_cons, not_or]; exact ⟨by simpa using hx, h2⟩⟩

/-- The PMBus failures of each regulator in a row, after a poll (R524). -/
def pollErrs (naks : List Nat) : SMap Nat :=
  (List.range 16).foldl (fun m k => SMap.set m k (if naks.contains k then min 3 (SMap.get s.pw.pmbusErr k 0 + 1) else 0) 0) s.pw.pmbusErr

/-- The state that a poll has read. -/
def polled (bad : List (Fin 16 × Fin 16)) (naks : List Nat) (p : Nat) : State :=
  { s with pw := { s.pw with pageBad := s.badPages bad, pmbusErr := s.pollErrs naks, pout := p } }

/-- The pages that a poll finds out of range, or not answering. -/
def pollFound (bad : List (Fin 16 × Fin 16)) (naks : List Nat) (p : Nat) : List (Nat × Nat) :=
  (s.badPages bad).filter (fun x => !s.pw.pageBad.contains x) ++
    (naks.filter (fun k => SMap.get (s.pollErrs naks) k 0 = 3 && SMap.get s.pw.pmbusErr k 0 = 2)).flatMap (s.polled bad naks p).pagesUp

theorem poll_executes (bad : List (Fin 16 × Fin 16)) (nak : List (Fin 16)) (p : Nat) (haon : s.pw.aon = true) :
    ∃ naks : List Nat, (∀ k ∈ nak, k.val ∈ naks) ∧ (nak = [] → naks = []) ∧
      exec (.pmbusPoll bad nak p) s = .next (((s.polled bad naks p).supplyFault (s.pollFound bad naks p)).supplyCheck) := by
  refine ⟨List.map (fun k => k) (do let a ← nak; pure (a : Nat)), fun k hk => ?_, fun h => by rw [h]; rfl, ?_⟩
  · simpa using ⟨k, hk, rfl⟩
  · change execPmbusPoll bad nak p s = _
    unfold execPmbusPoll State.pollFound State.polled State.pollErrs
    exact State.when_of _ _ haon

/-- A poll (R457, R524). -/
theorem poll_done (bad : List (Fin 16 × Fin 16)) (nak : List (Fin 16)) (p : Nat) (haon : s.pw.aon = true) :
    ∃ t, exec (.pmbusPoll bad nak p) s = .next t ∧ t.pw.pout = p ∧ t.pw.pageBad = s.badPages bad ∧
      ((s.badPages bad).filter (fun x => !s.pw.pageBad.contains x) ≠ [] → t.bit Reg.pmFault 0 = true) ∧
      (∀ k ∈ nak, SMap.get s.pw.pmbusErr k 0 = 2 → s.pagesUp k ≠ [] → t.bit Reg.pmFault 0 = true) ∧
      (s.badPages bad = [] → nak = [] → (∀ e ∈ s.pw.pmbusErr, e.1 < 16) → s.pw.pgLow = [] →
        t.bit Reg.pmFault 16 = false ∧ t.bit Reg.pmFault 0 = s.bit Reg.pmFault 0) := by
  obtain ⟨naks, hin, hempty, hx⟩ := s.poll_executes bad nak p haon
  refine ⟨_, hx, ?_⟩
  have hup : (s.polled bad naks p).pagesUp = s.pagesUp := rfl
  have hpl : (s.polled bad naks p).pw = { s.pw with pageBad := s.badPages bad, pmbusErr := s.pollErrs naks, pout := p } := rfl
  have hbit : (s.polled bad naks p).bit Reg.pmFault 0 = s.bit Reg.pmFault 0 := rfl
  have hfound : s.pollFound bad naks p = (s.badPages bad).filter (fun x => !s.pw.pageBad.contains x) ++
    (naks.filter (fun k => SMap.get (s.pollErrs naks) k 0 = 3 && SMap.get s.pw.pmbusErr k 0 = 2)).flatMap s.pagesUp := by
    unfold State.pollFound
    rw [hup]
  generalize s.polled bad naks p = u at hpl hbit
  generalize s.pollFound bad naks p = ps at hfound
  obtain ⟨⟨g1, g2, g3, g4⟩, hf⟩ := u.supplyFault_reads ps (by rw [hpl]; exact haon)
  have hnone : ps = [] → u.supplyFault ps = u := fun h => by
    unfold State.supplyFault
    rw [h]
    rfl
  generalize u.supplyFault ps = v at g1 g2 g3 g4 hf hnone
  obtain ⟨⟨c1, c2, c3⟩, c0, c16⟩ := v.supplyCheck_reads
  refine ⟨by rw [c3, g3, hpl], by rw [c2, g2, hpl], fun h => c0.trans (hf ?_).1, fun k hk h2 hup => c0.trans (hf ?_).1, fun hb hn he hl => ?_⟩
  · rw [hfound]
    exact fun e => h (List.append_eq_nil_iff.mp e).1
  · rw [hfound]
    intro e
    have hmem : (k : Nat) ∈ naks.filter (fun k => SMap.get (s.pollErrs naks) k 0 = 3 && SMap.get s.pw.pmbusErr k 0 = 2) := by
      refine List.mem_filter.mpr ⟨hin k hk, ?_⟩
      unfold State.pollErrs
      rw [State.get_foldl_set, if_pos (List.mem_range.mpr k.isLt), if_pos (by simpa using hin k hk), h2]
      rfl
    exact hup (List.flatMap_eq_nil_iff.mp (List.append_eq_nil_iff.mp e).2 _ hmem)
  · have hv := hnone (by rw [hfound, hb, hempty hn]; rfl)
    refine ⟨c16 ?_, c0.trans (by rw [hv]; exact hbit)⟩
    have herrs : s.pollErrs naks = [] := by
      refine List.eq_nil_iff_forall_not_mem.mpr fun e hm => ?_
      unfold State.pollErrs at hm
      rw [hempty hn] at hm
      obtain ⟨h1, h2⟩ := State.foldl_erased _ _ _ hm
      exact h2 (List.mem_range.mpr (he e h1))
    unfold State.supplyOk
    rw [hv, hpl, herrs, hb]
    simp [hl]

end State
end Sys2Proof.Machine

namespace Sys2Proof.Proofs
open Sys2Proof Sys2Proof.Machine

/-- Settles O41. -/
theorem supplyFaults : Obligations.SupplyFaults := by
  refine fun s haon => ⟨fun pg hup hlow => ?loss, fun pg hlow => ?back, fun bad nak p => s.poll_done bad nak p haon, fun bad hfresh => ?alert,
    fun hh hrail => ?rail, fun hw => ?restore⟩
  case loss =>
    obtain ⟨⟨g1, -, -, -⟩, hf⟩ := State.supplyFault_reads { s with pw := { s.pw with pgLow := s.pw.pgLow ++ [(pg : Nat)] } } (s.pagesUp pg) haon
    obtain ⟨f0, f16, f14, fn, ften, fdue, foff⟩ := hf hup
    refine ⟨_, State.when_of _ _ ?_, ?_, f0, f16, f14, ften, fun hm c hc hb ht => fdue ?_ c hc hb ht, fn, foff⟩
    · rw [haon, hlow, List.isEmpty_eq_false_iff.mpr hup]
      rfl
    · rw [g1]
      simp
    · change s.mode ∈ _
      simp only [List.mem_cons, List.not_mem_nil, or_false] at hm ⊢
      omega
  case back =>
    obtain ⟨⟨g1, -, -⟩, h0, h16⟩ := State.supplyCheck_reads { s with pw := { s.pw with pgLow := s.pw.pgLow.filter (· ≠ (pg : Nat)) } }
    refine ⟨_, State.when_of _ _ (by rw [haon, hlow]; rfl), ?_, h0, fun hall hbad herr => h16 ?_⟩
    · rw [g1]
      simp
    · unfold State.supplyOk
      simp only [Bool.and_eq_true, List.isEmpty_iff, List.all_eq_true, decide_eq_true_eq]
      exact ⟨⟨List.filter_eq_nil_iff.mpr fun k hk => by simp [hall k hk], hbad⟩, herr⟩
  case alert =>
    obtain ⟨-, hf⟩ := State.supplyFault_reads { s with pw := { s.pw with
      pageBad := s.pw.pageBad ++ (s.badPages bad).filter (fun p => !s.pw.pageBad.contains p) } }
      ((s.badPages bad).filter (fun p => !s.pw.pageBad.contains p)) haon
    obtain ⟨f0, f16, -, -, ften, -, -⟩ := hf hfresh
    exact ⟨_, State.when_of _ _ haon, f0, f16, ften⟩
  case rail =>
    obtain ⟨e1, e2, e3, e4, e5, -⟩ := (s.pmFaultSet 0 true).emergencyOff_reads (by rw [State.pmFaultSet_pw]; exact haon)
    refine ⟨_, State.when_of _ _ ?_, e1, e2, e3, e4, e5⟩
    rw [haon, hh]
    simpa [or_assoc] using hrail
  case restore => exact ⟨_, State.when_of _ _ (by rw [haon, hw]; rfl), rfl, rfl, rfl⟩

end Sys2Proof.Proofs
end
